-- ==== Sys2Proof/Word.lean ====
section
/-!
DEFINITION. Words, element formats, exact values and the sparse tables in which the model keeps
memories and register banks.
-/
namespace Sys2Proof

/-- One byte (R16). -/
abbrev Byte := BitVec 8
/-- A 32-bit register or element code. -/
abbrev Word := BitVec 32
/-- A 64-bit register or scalar register of a context (R22, R99). -/
abbrev DWord := BitVec 64

/-- A count of the tide, in ticks of 1 ns (R17, R287). -/
abbrev Tick := Nat

/-- A sparse table: keys strictly rising, no entry equal to the default (see `Sparse.wf`). -/
abbrev Sparse (α : Type) := List (Nat × α)

/-- The value a key holds; a key with no entry holds the default `d`. -/
def Sparse.get {α : Type} (d : α) : Sparse α → Nat → α
  | [], _ => d
  | (k, v) :: t, i => if i = k then v else Sparse.get d t i

/-- Set a key, keeping keys rising and leaving no entry equal to the default: setting the default erases
the key's entry, wherever it stands, so that the key reads as set in every list. -/
def Sparse.set {α : Type} [DecidableEq α] (d : α) : Sparse α → Nat → α → Sparse α
  | [], i, x => if x = d then [] else [(i, x)]
  | (k, v) :: t, i, x =>
    if x = d then (if i = k then Sparse.set d t i x else (k, v) :: Sparse.set d t i x)
    else if i < k then (i, x) :: (k, v) :: t
    else if i = k then (i, x) :: t
    else (k, v) :: Sparse.set d t i x

/-- Every key of the table lies above `lo`, keys rise strictly, no entry equals the default. -/
def Sparse.wfAbove {α : Type} [DecidableEq α] (d : α) : Option Nat → Sparse α → Bool
  | _, [] => true
  | lo, (k, v) :: t =>
    (match lo with | none => true | some b => decide (b < k)) && decide (v ≠ d)
      && Sparse.wfAbove d (some k) t

/-- The canonical form: equal tables are equal lists. -/
def Sparse.wf {α : Type} [DecidableEq α] (d : α) (t : Sparse α) : Bool := Sparse.wfAbove d none t

/-- A byte memory: Host cells in canonical form; an unlisted address reads 0. -/
abbrev Memory := List Host.Cell

/-- The format codes of R52 but for the reserved code 0xF. -/
inductive Fmt
  | fp32 | bf16 | fp16 | e4m3 | e5m2 | fp4 | int8 | int32
  | mxE4m3 | mxE5m2 | mxE2m3 | mxE3m2 | mxFp4 | mxInt8 | e8m0
  deriving DecidableEq, Repr

/-- The rounding modes of R63. -/
inductive Rnd
  | rne | rtz | rdn | rup | sr
  deriving DecidableEq, Repr

/-- An exact value: a NaN, an infinity, or `(-1)^neg * m * 2^e` (a zero keeps its sign). -/
inductive Val
  | nan
  | inf (neg : Bool)
  | fin (neg : Bool) (m : Nat) (e : Int)
  deriving DecidableEq, Repr

/-- A conversion's result: the element code, whether R67 sets the non-finite flag when it is
written, and whether it counts as a saturating overflow. -/
structure Conv where
  bits : Nat
  nonfinite : Bool
  saturated : Bool
  deriving DecidableEq, Repr

/-- The layout of a floating-point element (R53): exponent bits, mantissa bits, bias, the code of
the largest finite magnitude, and whether an all-ones exponent is special as in IEEE 754. -/
structure FloatLayout where
  ebits : Nat
  mbits : Nat
  bias : Nat
  maxCode : Nat
  ieee : Bool
  deriving DecidableEq, Repr

/-- The comparison predicates of VCMP (R147). -/
inductive Pred
  | eq | ne | lt | le | gt | ge | un
  deriving DecidableEq, Repr

/-- The special functions of VSFU (R77, R147). -/
inductive Sfu
  | recip | rsqrt | exp2 | log2 | sin | cos | tanh | erf
  deriving DecidableEq, Repr

end Sys2Proof
end

