-- ==== Sys2Proof/Syntax.lean ====
section
/-!
DEFINITION. The commands of the block: one constructor of `Instr` per row of the opcode table, in
the table's order, with the operands each takes. Operands that the module reads from outside itself
(host memory, storage, cables, sensors, other modules) arrive with the command (log entry 3).
-/
namespace Sys2Proof

/-- The fields of an instruction word of R127 below its class and op. -/
structure Fields where
  f1 : BitVec 5
  f2 : BitVec 5
  f3 : BitVec 5
  f4 : BitVec 5
  control : BitVec 32
  imm : BitVec 32
  commune : BitVec 16
  tail : BitVec 16
  deriving DecidableEq, Repr

/-- What a slot write or a notice carries (R178, R179): the group entry, the key, the call, the level
and round, the sender's slot and rank, which half of the call, and whether it is a notice. -/
structure SlotName where
  group : Nat
  key : Word
  call : Nat
  level : Nat
  round2 : Bool
  slot : Nat
  rank : Nat
  gather : Bool
  notice : Bool
  deriving DecidableEq, Repr

/-- A packet: its header of R262 and its data bytes, 32 to a data flit. -/
structure Packet where
  ptype : Nat
  gen : Nat
  cls : Nat
  transit : Nat
  late : Bool
  resent : Bool
  op : Nat
  jobTag : Word
  dest : DWord
  srcModule : Nat
  srcUnit : Nat
  seq : Nat
  tag : Nat
  due : Nat
  tally : Nat
  data : List Byte
  /-- What R178 says a slot write or a notice carries; the spec gives it no place in the header (log
  entry 16). -/
  slot : Option SlotName
  deriving DecidableEq, Repr

/-- What a training phase of R256 measured or learnt: symbol error ratios in units of 1e-12, the
code the partner requires, the partner's identity, the mean one-way flight time in fs, eye margins; the equalisation settings
and precoding requests that phase 2 exchanges, and the levels that phase 4 searches for codewords. -/
structure Training where
  ok : Bool
  ser0 : Nat
  ser1 : Nat
  /-- The worst ratio the partner measured. -/
  serBack : Nat
  partnerRs : Bool
  partnerModule : Nat
  partnerPort : Nat
  partnerCu : Bool
  partnerCopperOnly : Bool
  partnerGen : Nat
  flight : Nat
  eye0 : Nat
  eye1 : Nat
  /-- Transmitter equalisation settings; the partner's and this end's precoding requests per lane. -/
  eq : Nat
  pre0 : Bool
  pre1 : Bool
  own0 : Bool
  own1 : Bool
  /-- PAM4 levels received on the two lanes. -/
  levels0 : List Nat
  levels1 : List Nat
  deriving DecidableEq, Repr

/-- What a lane's monitors of a link read: the symbol error ratio in units of 1e-12 and the eye margin (R258, R280). -/
structure LaneReading where
  ser : Nat
  eye : Nat
  deriving DecidableEq, Repr

/-- What a die controller forwards (R125): its die, or 64 plus an HBM stack; the bit errors found, each as its place and
whether it is uncorrectable; whether the die's router failed. -/
structure ErrorReport where
  die : Nat
  errors : List (Nat × Nat × Nat × Bool)
  router : Bool
  deriving DecidableEq, Repr

/-- What a die's timing-margin monitors read, with the eyes of its torus links (R125). -/
structure MarginReading where
  margin : Int
  eyes : List Nat
  deriving DecidableEq, Repr

/-- A firmware image as its checks see it (R585 to R587): its 4 KiB header, of which bytes not listed are 0,
and the outcomes of the signature and digest checks (log entry 3). -/
structure FwImage where
  header : List Byte
  /-- The public key's digest is the mask ROM's at the key index. -/
  keyOk : Bool
  /-- The signature verifies. -/
  signatureOk : Bool
  /-- Section kinds whose digest fails. -/
  badSections : List Nat
  deriving DecidableEq, Repr

/-- The commands: one constructor per row of spec/opcode_table.json, in its order, but that the writes of the host
interface and the firmware commands stand before the other rows of the host interface: Lean compiles terms of the
first 244 constructors only, and the machine itself forms such a write when it keeps it back (R558). -/
inductive Instr
  /-- NOP (R137). CTL instruction that does nothing for one cycle. -/
  | nop (core : Nat) (ctx : Nat) (w : Fields)
  /-- LI (R137). CTL instruction that loads a sign-extended immediate into a scalar register. -/
  | li (core : Nat) (ctx : Nat) (w : Fields)
  /-- LUI (R137). CTL instruction that loads the immediate into the upper half of a scalar register. -/
  | lui (core : Nat) (ctx : Nat) (w : Fields)
  /-- ADD (R137). CTL instruction that adds two 64-bit values, wrapping on overflow. -/
  | add (core : Nat) (ctx : Nat) (w : Fields)
  /-- SUB (R137). CTL instruction that subtracts two 64-bit values, wrapping on overflow. -/
  | sub (core : Nat) (ctx : Nat) (w : Fields)
  /-- MUL (R137). CTL instruction that keeps the low 64 bits of a product, in 4 cycles. -/
  | mul (core : Nat) (ctx : Nat) (w : Fields)
  /-- AND (R137). CTL bitwise AND. -/
  | and (core : Nat) (ctx : Nat) (w : Fields)
  /-- OR (R137). CTL bitwise OR. -/
  | or (core : Nat) (ctx : Nat) (w : Fields)
  /-- XOR (R137). CTL bitwise XOR. -/
  | xor (core : Nat) (ctx : Nat) (w : Fields)
  /-- SHL (R137). CTL shift left by the second source bits [5:0]. -/
  | shl (core : Nat) (ctx : Nat) (w : Fields)
  /-- SHR (R137). CTL logical shift right. -/
  | shr (core : Nat) (ctx : Nat) (w : Fields)
  /-- SRA (R137). CTL arithmetic shift right. -/
  | sra (core : Nat) (ctx : Nat) (w : Fields)
  /-- MIN (R137). CTL signed minimum. -/
  | min (core : Nat) (ctx : Nat) (w : Fields)
  /-- MAX (R137). CTL signed maximum. -/
  | max (core : Nat) (ctx : Nat) (w : Fields)
  /-- ID (R139). CTL instruction that reads an identity value selected by the immediate, faulting on an unknown selector. -/
  | ident (core : Nat) (ctx : Nat) (w : Fields)
  /-- STEP (R137). CTL instruction that reads the cove's step counter. -/
  | stepRead (core : Nat) (ctx : Nat) (w : Fields)
  /-- TIDE (R139). CTL instruction that reads the tide tick of the context's last completed synchronising point. -/
  | tideRead (core : Nat) (ctx : Nat) (w : Fields)
  /-- BR (R137). CTL conditional branch by a signed offset. -/
  | br (core : Nat) (ctx : Nat) (w : Fields)
  /-- LOOP (R138). CTL instruction that sets a loop counter, faulting on a count of 0 or above 2^32 - 1. -/
  | loop (core : Nat) (ctx : Nat) (w : Fields)
  /-- ENDL (R137). CTL instruction that decrements a loop counter and branches back while it is non-zero. -/
  | endl (core : Nat) (ctx : Nat) (w : Fields)
  /-- END (R138). CTL instruction that ends the context's program; the cove stops at its next commit once every context has ended. -/
  | endProgram (core : Nat) (ctx : Nat) (w : Fields)
  /-- MMA (R142). MAT instruction that queues one tile C = A x B, checked at issue. -/
  | mma (core : Nat) (ctx : Nat) (w : Fields)
  /-- MMA_GA (R142). MAT tile whose operand A is gathered by a routine before the fill. -/
  | mmaGa (core : Nat) (ctx : Nat) (w : Fields)
  /-- MMA_GB (R142). MAT tile whose operand B is gathered by a routine before the fill. -/
  | mmaGb (core : Nat) (ctx : Nat) (w : Fields)
  /-- MMA_RO (R144). MAT tile whose drained output is handed to a routine at the end of its drain. -/
  | mmaRo (core : Nat) (ctx : Nat) (w : Fields)
  /-- VMOV (R147). VEC copy with conversion, quantising MX destinations. -/
  | vmov (core : Nat) (ctx : Nat) (w : Fields)
  /-- VADD (R147). VEC elementwise addition. -/
  | vadd (core : Nat) (ctx : Nat) (w : Fields)
  /-- VSUB (R147). VEC elementwise subtraction. -/
  | vsub (core : Nat) (ctx : Nat) (w : Fields)
  /-- VMUL (R147). VEC elementwise multiplication. -/
  | vmul (core : Nat) (ctx : Nat) (w : Fields)
  /-- VFMA (R147). VEC fused multiply-add rounded once. -/
  | vfma (core : Nat) (ctx : Nat) (w : Fields)
  /-- VMIN (R147). VEC elementwise minimum. -/
  | vmin (core : Nat) (ctx : Nat) (w : Fields)
  /-- VMAX (R147). VEC elementwise maximum. -/
  | vmax (core : Nat) (ctx : Nat) (w : Fields)
  /-- VDIV (R147). VEC elementwise division. -/
  | vdiv (core : Nat) (ctx : Nat) (w : Fields)
  /-- VSQRT (R147). VEC elementwise square root. -/
  | vsqrt (core : Nat) (ctx : Nat) (w : Fields)
  /-- VABS (R147). VEC elementwise absolute value. -/
  | vabs (core : Nat) (ctx : Nat) (w : Fields)
  /-- VNEG (R147). VEC elementwise negation. -/
  | vneg (core : Nat) (ctx : Nat) (w : Fields)
  /-- VCMP (R147). VEC elementwise comparison giving 1.0 or +0. -/
  | vcmp (core : Nat) (ctx : Nat) (w : Fields)
  /-- VSEL (R147). VEC elementwise selection by a third source. -/
  | vsel (core : Nat) (ctx : Nat) (w : Fields)
  /-- VSFU (R147). VEC special function computed by the special-function unit. -/
  | vsfu (core : Nat) (ctx : Nat) (w : Fields)
  /-- VRSUM (R147). VEC sum reduction into lane 0 by the fixed tree. -/
  | vrsum (core : Nat) (ctx : Nat) (w : Fields)
  /-- VRAMAX (R147). VEC maximum-magnitude reduction into lane 0. -/
  | vramax (core : Nat) (ctx : Nat) (w : Fields)
  /-- VRSSQ (R147). VEC sum-of-squares reduction into lane 0. -/
  | vrssq (core : Nat) (ctx : Nat) (w : Fields)
  /-- VRAND (R147). VEC generation of uniform random values. -/
  | vrand (core : Nat) (ctx : Nat) (w : Fields)
  /-- VRBITS (R147). VEC generation of raw 32-bit draws. -/
  | vrbits (core : Nat) (ctx : Nat) (w : Fields)
  /-- VBCAST (R147). VEC broadcast of an FP32 immediate, converted to the destination format. -/
  | vbcast (core : Nat) (ctx : Nat) (w : Fields)
  /-- VTOS (R147). VEC move of lane 0 of a vector register to a scalar register. -/
  | vtos (core : Nat) (ctx : Nat) (w : Fields)
  /-- VSTOV (R147). VEC broadcast of a scalar register into every lane of a vector register. -/
  | vstov (core : Nat) (ctx : Nat) (w : Fields)
  /-- WCOPY (R151). WAIN descriptor that copies bytes between two memories. -/
  | wcopy (core : Nat) (ctx : Nat) (w : Fields)
  /-- WZERO (R151). WAIN descriptor that writes zero bytes at a destination. -/
  | wzero (core : Nat) (ctx : Nat) (w : Fields)
  /-- WAADD (R151). WAIN atomic 64-bit integer add. -/
  | waadd (core : Nat) (ctx : Nat) (w : Fields)
  /-- WAMAX (R151). WAIN atomic signed 64-bit maximum. -/
  | wamax (core : Nat) (ctx : Nat) (w : Fields)
  /-- WACAS (R151). WAIN atomic compare-and-swap of one 64-bit word. -/
  | wacas (core : Nat) (ctx : Nat) (w : Fields)
  /-- WAFADD (R151). WAIN atomic FP32 add of 1 to 16 values. -/
  | wafadd (core : Nat) (ctx : Nat) (w : Fields)
  /-- SWTIDE (R155). SYNC wait until the tide count reaches a target tick. -/
  | swtide (core : Nat) (ctx : Nat) (w : Fields)
  /-- SARRIVE (R155). SYNC group arrival that completes when all members arrive or the highest deadline passes. -/
  | sarrive (core : Nat) (ctx : Nat) (w : Fields)
  /-- SWAINS (R155). SYNC wait for every earlier WAIN descriptor, reporting the wain status. -/
  | swains (core : Nat) (ctx : Nat) (w : Fields)
  /-- SDRAIN (R155). SYNC wait for every earlier instruction of the context to complete. -/
  | sdrain (core : Nat) (ctx : Nat) (w : Fields)
  /-- STBAR (R155). SYNC wait until a tick plus the scope's delivery bound. -/
  | stbar (core : Nat) (ctx : Nat) (w : Fields)
  /-- SCOMMIT (R156). SYNC commit arrival that advances the step counter at the decided commit tick. -/
  | scommit (core : Nat) (ctx : Nat) (w : Fields)
  /-- TUPD (R160). THR update of a sheaf shard by its rule, in bundles, or a skip when the flag is set. -/
  | tupd (core : Nat) (ctx : Nat) (w : Fields)
  /-- TSSQ (R160). THR sum of squares of the floor gradients handed to a routine. -/
  | tssq (core : Nat) (ctx : Nat) (w : Fields)
  /-- TCLIP (R160). THR setting of the clipping scale from the running sum. -/
  | tclip (core : Nat) (ctx : Nat) (w : Fields)
  /-- TMOV (R160). THR move of FP32 data between the floor and a core's scratchpad. -/
  | tmov (core : Nat) (ctx : Nat) (w : Fields)
  /-- TLIN (R160). THR linear combination D = a X + b D. -/
  | tlin (core : Nat) (ctx : Nat) (w : Fields)
  /-- TFLAG (R160). THR read of the non-finite flag and clipping scale into a scalar register. -/
  | tflag (core : Nat) (ctx : Nat) (w : Fields)
  /-- RRET (R163). RTN return that completes the calling instruction. -/
  | rret (core : Nat) (ctx : Nat) (w : Fields)
  /-- RARG (R163). RTN read of an argument of the calling instruction. -/
  | rarg (core : Nat) (ctx : Nat) (w : Fields)
  /-- RSEND (R163). RTN send of a range to a peer's receive slot. -/
  | rsend (core : Nat) (ctx : Nat) (w : Fields)
  /-- RWAIT (R163). RTN wait for expected slots or the level's deadline. -/
  | rwait (core : Nat) (ctx : Nat) (w : Fields)
  /-- RRED (R163). RTN combination of masked slots in FP32 in slot order. -/
  | rred (core : Nat) (ctx : Nat) (w : Fields)
  /-- RNARW (R163). RTN narrowing with stochastic rounding and stubble. -/
  | rnarw (core : Nat) (ctx : Nat) (w : Fields)
  /-- RGLEAN (R163). RTN copy of late data to the gleaning buffer. -/
  | rglean (core : Nat) (ctx : Nat) (w : Fields)
  /-- TILE_COMMIT (R102). A tile's stream ends with the held buffer free; the buffers exchange roles. -/
  | tileCommit (core : Nat) (ctx : Nat) (parityErrors : Nat) (wrong : List (Nat×Word))
  /-- TILE_DRAIN_END (R104). A held buffer finishes draining, its output becomes visible and the tally check compares. -/
  | tileDrainEnd (core : Nat) (ctx : Nat)
  /-- COLLECTIVE_POINT (R134). A fused instruction reaches its collective point and its routine starts. -/
  | collectivePoint (core : Nat) (ctx : Nat)
  /-- PACKET_ADMIT (R316). A waiting packet finds room in every grant in force and is admitted. -/
  | packetAdmit (core : Nat) (ctx : Nat) (hostOk : Bool) (hostData : List Byte)
  /-- WAIN_DESCRIPTOR_COMPLETE (R109). A descriptor's last byte lands or leaves W1 and it completes with its status. -/
  | wainDescriptorComplete (core : Nat) (ctx : Nat)
  /-- ENGINE_HANG (R120). An engine's head instruction passes 1.5 times its worst case plus 2 us and a hang is declared. -/
  | engineHang (core : Nat) (ctx : Nat) (engine : Nat)
  /-- ROUTINE_HANG (R167). A routine runs past its highest limit plus its longest RTN threshold and is declared hung. -/
  | routineHang (core : Nat) (ctx : Nat)
  /-- CONTEXT_SWITCH (R115). The effective cluster owner changes at a span boundary or phase change and the cluster switches contexts. -/
  | contextSwitch (cluster : Nat)
  /-- SCRATCHPAD_SCRUB (R118). The die controller scrubs scratchpad and program memories every 100 ms. -/
  | scratchpadScrub (die : Nat) (corrected : List (Nat × Nat × Nat)) (uncorrectable : List (Nat × Nat × Nat))
  /-- ARRIVAL_DEADLINE (R184). The deadline of an omit level passes and waiting cores send their notices. -/
  | arrivalDeadline (core : Nat) (ctx : Nat)
  /-- VOTE_TICK (R185). At the vote tick each core decides the members present from the notices in its bank. -/
  | voteTick (core : Nat) (ctx : Nat)
  /-- COLLECTIVE_LIMIT (R182). The limit of a level passes with a piece missing and the call fails with collective timeout. -/
  | collectiveLimit (core : Nat) (ctx : Nat)
  /-- STEP_COMMIT (R302). The commit test succeeds at a quantum tick, the step commits and slack water begins. -/
  | stepCommit (cove : Nat) (remoteCommit : Option (Tick × Bool))
  /-- SLACK_WATER_END (R302). The slack length passes and the next step starts. -/
  | slackWaterEnd (cove : Nat)
  /-- COMMIT_LIMIT (R498). A step not committed by its limit is discarded with cause 3. -/
  | commitLimit (cove : Nat)
  /-- DISCARD_NOTICE_RECEIVE (R496). A discard notice arrives and a matching cove discards the step with cause 9. -/
  | discardNoticeReceive (cove : Nat) (sender : Nat) (jobTag : Word) (step : DWord) (tick : Nat)
  /-- REPLAY_START (R496). The replay of a discarded step starts at the agreed quantum tick. -/
  | replayStart (cove : Nat)
  /-- SLACK_EVAL_SNAPSHOT (R395). Slack-water action 1 copies the snapshot entries. -/
  | slackEvalSnapshot (cove : Nat)
  /-- SLACK_EBB (R351). Slack-water action 2 releases ebbed dies and loads the variant on kept dies. -/
  | slackEbb (cove : Nat)
  /-- SLACK_FLOOD (R351). Slack-water action 3 takes added dies and loads the variant. -/
  | slackFlood (cove : Nat)
  /-- SLACK_REPLICA_COPY (R356). Slack-water action 4 pulls replica copy entries into the cove's HBM. -/
  | slackReplicaCopy (cove : Nat) (peerData : List (List Byte))
  /-- DIGEST_TABLE_RECEIVE (R400). A peer's digest table lands and is checked and compared. -/
  | digestTableReceive (cove : Nat) (peer : Nat) (step : DWord) (table : List DWord) (crcOk : Bool)
  /-- COVE_RESTART_TICK (R355). A held cove reaches its restart tick and leaves held. -/
  | coveRestartTick (cove : Nat)
  /-- CHECKPOINT_DRAIN_END (R440). A checkpoint drain ends with its manifest written and DONE set. -/
  | checkpointDrainEnd (cove : Nat) (code : Nat) (lbaSize : Nat)
  /-- FREEZE_TICK (R446). At the freeze tick the cove stops admission and switches out its clusters. -/
  | freezeTick (cove : Nat)
  /-- FREEZE_LANDED (R446). At the freeze tick plus the hall bound the cove is frozen and its capture starts. -/
  | freezeLanded (cove : Nat)
  /-- THAW_TICK (R448). At the thaw tick the clusters switch in and the tide offset grows. -/
  | thawTick (cove : Nat)
  /-- RESTORE_END (R450). A restore ends, sets counter and parity, or fails on a digest mismatch. -/
  | restoreEnd (cove : Nat) (code : Nat) (data : List (List Byte))
  /-- MARK_PULSE (R286). A tide mark pulse arrives; the counter is set at start or the mark is checked. -/
  | markPulse
  /-- TIDE_MARK_INTERVAL (R533). At each tide-mark tick counters are snapshotted and cap and withholding are updated. -/
  | tideMarkInterval
  /-- REFERENCE_LOST (R288). The reference clock is lost in service and the PLL holds. -/
  | referenceLost
  /-- REFERENCE_RESTORED (R288). The reference returns and the PLL relocks by slewing. -/
  | referenceRestored
  /-- REFERENCE_FOUND (R603). A reference appears after READY in mode 2 and the counter is set at the next mark. -/
  | referenceFound
  /-- TIME_TRANSFER_SEND (R291). Once per mark interval the module sends a time-transfer request to its parent. -/
  | timeTransferSend (port : Nat) (stamp : Nat)
  /-- TIME_TRANSFER_REQUEST (R294). A time-transfer request arrives and is answered with stamps. -/
  | timeTransferRequest (port : Nat) (packet : Packet) (received : Nat) (sent : Nat)
  /-- TIME_TRANSFER_RESPONSE (R291). A time-transfer response arrives, the offset is formed and the counter slews. -/
  | timeTransferResponse (port : Nat) (packet : Packet) (stamp : Nat)
  /-- HOLDOVER_LIMIT (R293). In holdover the drift allowance exceeds 2.5 ns and ALIGNED clears. -/
  | holdoverLimit
  /-- TIDE_DATA_WRITE (R308). A write of TIDE_DATA stores a table entry in an inactive bank and advances the index. -/
  | tideDataWrite (value : DWord)
  /-- MODULE_SWITCH_ARM (R309). ARM of TIDE_MSWITCH_CTRL checks the named banks and arms a module switch. -/
  | moduleSwitchArm (value : Word)
  /-- MODULE_SWITCH_REAPPLY (R315). REAPPLY of TIDE_MSWITCH_CTRL arms a re-apply for lagging units. -/
  | moduleSwitchReapply (value : Word)
  /-- COVE_SWITCH_ARM (R309). ARM of TIDE_C_SWITCH_CTRL checks and arms a cove switch. -/
  | coveSwitchArm (cove : Nat) (value : Word)
  /-- COVE_SWITCH_REAPPLY (R315). REAPPLY of TIDE_C_SWITCH_CTRL arms a cove re-apply. -/
  | coveSwitchReapply (cove : Nat) (value : Word)
  /-- MODULE_SWITCH_TICK (R310). At the switch tick every unit with a complete copy switches port and wain banks. -/
  | moduleSwitchTick (bad : List Nat) (badShore : List Nat)
  /-- COVE_SWITCH_TICK (R325). Slack-water action 5 switches the cove's cluster bank and starts any clock change. -/
  | coveSwitchTick (cove : Nat) (bad : List Nat) (badShore : List Nat)
  /-- MODULE_REAPPLY_TICK (R315). Lagging units copy the module master bank and switch. -/
  | moduleReapplyTick (bad : List Nat) (badShore : List Nat)
  /-- COVE_REAPPLY_TICK (R315). Lagging units copy the cove master bank and switch. -/
  | coveReapplyTick (cove : Nat) (bad : List Nat) (badShore : List Nat)
  /-- CLOCK_CHANGE_END (R325). A die's clock change ends after 20,000 ticks and issue resumes. -/
  | clockChangeEnd (cove : Nat)
  /-- TIDE_C_RESTART_WRITE (R331). A write of TIDE_C_RESTART sets the restart tick of a held cove, or is refused. -/
  | tideCRestartWrite (cove : Nat) (value : DWord) (fn : Nat)
  /-- GENERATION_HOLD_TIMEOUT (R314). A packet held for a newer generation past one cycle is refused. -/
  | generationHoldTimeout
  /-- REFRESH_WINDOW (R321). A stack refreshes in a refresh window of its table. -/
  | refreshWindow (stack : Nat)
  /-- STOLEN_REFRESH_WINDOW (R322). A hot stack without a hot variant takes an 80-tick window itself. -/
  | stolenRefreshWindow (stack : Nat)
  /-- ROUTE_DATA_WRITE (R273). A write of ROUTE_DATA stores an entry in every copy of the inactive bank, or is discarded. -/
  | routeDataWrite (value : DWord)
  /-- ROUTE_SWITCH_ARM (R275). ARM of ROUTE_SWITCH_CTRL arms a routing bank switch. -/
  | routeSwitchArm (value : Word)
  /-- ROUTE_REAPPLY (R274). REAPPLY of ROUTE_SWITCH_CTRL arms a routing re-apply, or is refused. -/
  | routeReapply (value : Word)
  /-- ROUTE_SWITCH_TICK (R273). Every die with a complete copy switches routing bank and scope bounds are published. -/
  | routeSwitchTick (bad : List Nat)
  /-- ROUTE_REAPPLY_TICK (R274). Lagging dies copy the active routing bank from the master copy. -/
  | routeReapplyTick (bad : List Nat)
  /-- PRESENCE_LOSS (R259). A cable or fibre is withdrawn and the port is fenced within 1 us. -/
  | presenceLoss (port : Nat)
  /-- PRESENCE_APPEAR (R255). Presence appears and an absent port goes to seeking. -/
  | presenceAppear (port : Nat)
  /-- SEEKING_PATTERN (R255). A seeking port sends a training pattern for 10 ms in every 100 ms. -/
  | seekingPattern (port : Nat)
  /-- PARTNER_SIGNAL_DETECT (R255). A partner signal is detected and training starts. -/
  | partnerSignalDetect (port : Nat)
  /-- TRAINING_PHASE_END (R256). A training phase ends and the next runs, or the port becomes active. -/
  | trainingPhaseEnd (port : Nat) (m : Training)
  /-- TRAINING_TIMEOUT (R256). Training overruns 40 ms copper or 120 ms optical and the port returns to seeking. -/
  | trainingTimeout (port : Nat)
  /-- LANE_LOCK_LOST (R258). An active port loses lane lock and retrains. -/
  | laneLockLost (port : Nat)
  /-- UNCORRECTABLE_LIMIT (R258). More than 16 uncorrectable codewords in 1 ms start a retrain. -/
  | uncorrectableLimit (port : Nat)
  /-- SER_CHECK (R258). The 10 ms symbol error ratio is measured and a large rise starts a retrain. -/
  | serCheck (port : Nat) (lane0 : LaneReading) (lane1 : LaneReading)
  /-- CODEWORD_RECEIVE (R251). A codeword arrives and is decoded, or discarded with a NAK and later traffic held. -/
  | codewordReceive (port : Nat) (lane0 : List Nat) (lane1 : List Nat) (stamp : Nat)
  /-- NAK_RECEIVE (R251). A NAK arrives and the named codeword is replayed ahead of all traffic. -/
  | nakReceive (port : Nat) (seq : Nat)
  /-- NAK_RESEND_TIMEOUT (R252). A replay not decoded 2X + C after the NAK makes the receiver send the NAK again. -/
  | nakResendTimeout (port : Nat)
  /-- PACKET_WRITE (R267). A write packet for this module is checked and written, or refused with a status. -/
  | packetWrite (port : Nat) (p : Packet)
  /-- PACKET_READ_REQUEST (R265). A read request arrives and the response is sent to the return address. -/
  | packetReadRequest (port : Nat) (p : Packet)
  /-- PACKET_READ_RESPONSE (R265). A read response arrives and lands at the requester. -/
  | packetReadResponse (port : Nat) (p : Packet)
  /-- PACKET_ATOMIC_REQUEST (R233). An atomic request is executed by the target's memory controller. -/
  | packetAtomicRequest (port : Nat) (p : Packet)
  /-- PACKET_ATOMIC_RESPONSE (R263). An atomic response returns the old values. -/
  | packetAtomicResponse (port : Nat) (p : Packet)
  /-- PACKET_ACKNOWLEDGE (R670). An acknowledge frees held packets of a link stream. -/
  | packetAcknowledge (port : Nat) (p : Packet)
  /-- PACKET_STATUS (R670). A status packet sets the outcome of the named descriptor. -/
  | packetStatus (port : Nat) (p : Packet)
  /-- PACKET_RESERVED_TYPE (R263). A header of reserved type discards the rest of its codeword and is NAKed. -/
  | packetReservedType (port : Nat) (seq : Nat)
  /-- PACKET_TRANSIT (R271). A packet for another module is forwarded by the routing entry or refused. -/
  | packetTransit (port : Nat) (p : Packet)
  /-- ACK_EMIT (R266). A destination acknowledges a link stream every 64 packets and at slot end. -/
  | ackEmit (port : Nat) (stream : Nat)
  /-- FAB_CTRL_HFENCE_SET (R282). Setting HFENCE fences the port with cause 2. -/
  | fabCtrlHfenceSet (port : Nat) (value : Word)
  /-- FAB_CTRL_HFENCE_CLEAR (R282). Writing HFENCE 0 releases a cause-2 fence. -/
  | fabCtrlHfenceClear (port : Nat) (value : Word)
  /-- FAB_CTRL_EN_CLEAR (R282). Clearing EN fences the port with cause 2. -/
  | fabCtrlEnClear (port : Nat) (value : Word)
  /-- FAB_CTRL_RELEASE (R282). RELEASE lifts a fence of cause 2 to 5 and returns the port to seeking, or is refused. -/
  | fabCtrlRelease (port : Nat) (value : Word)
  /-- HBM_SCRUB (R216). Shore-die controllers scrub every HBM frame once per 24 hours. -/
  | hbmScrub (stack : Nat) (bad : List Nat) (corrected : List Nat)
  /-- NEAR_MEMORY_SCRUB (R216). Die controllers scrub near memory once per hour. -/
  | nearMemoryScrub (die : Nat) (bad : List Nat) (corrected : List Nat)
  /-- LEASE_TABLE_WRITE (R227). An operator lease write is checked by the headland, refused or zeroed for use. -/
  | leaseTableWrite (index : Nat) (words : List DWord)
  /-- CV_CTRL_START (R343). START begins loading a free or stopped cove. -/
  | cvCtrlStart (cove : Nat) (fn : Nat) (value : Word)
  /-- CV_CTRL_STOP (R357). STOP makes a running cove stop at its next commit, or ends loading. -/
  | cvCtrlStop (cove : Nat) (fn : Nat) (value : Word)
  /-- CV_CTRL_HOLD (R355). HOLD makes a running cove hold at its next commit. -/
  | cvCtrlHold (cove : Nat) (fn : Nat) (value : Word)
  /-- CV_DIES_WRITE (R349). A write of CV_DIES requests a reshape, or a release when 0. -/
  | cvDiesWrite (cove : Nat) (fn : Nat) (value : DWord)
  /-- CV_UMAP_WRITE (R345). A unit-map write grants or gives up units, or is discarded over quota. -/
  | cvUmapWrite (cove : Nat) (fn : Nat) (word : Nat) (value : DWord)
  /-- CV_QUOTA_WRITE (R344). A quota write sets targets and may put the cove over quota. -/
  | cvQuotaWrite (cove : Nat) (fn : Nat) (value : DWord)
  /-- CV_JOBTAG_WRITE (R336). A job-tag write is stored for application at start or slack water. -/
  | cvJobtagWrite (cove : Nat) (fn : Nat) (j : Nat) (value : Word)
  /-- LOADING_RESOURCE_FREE (R343). A die or unit becomes free and a waiting loading cove takes it. -/
  | loadingResourceFree (cove : Nat)
  /-- LOADING_END (R343). Loading ends and the cove enters held with hold cause 1. -/
  | loadingEnd (cove : Nat)
  /-- RELEASE_END (R358). A releasing cove has zeroed its dies and frames and becomes free. -/
  | releaseEnd (cove : Nat)
  /-- CV_EVAL_CTRL_ARM (R395). ARM requests an evaluation snapshot at the next slack water. -/
  | cvEvalCtrlArm (cove : Nat) (fn : Nat) (value : Word)
  /-- CV_SR_CTRL_ENABLE (R402). Setting EN of the step-record ring clears its count. -/
  | cvSrCtrlEnable (cove : Nat) (fn : Nat) (value : Word)
  /-- CV_LDIG_CTRL_ENABLE (R491). Setting EN of layer digests clears its count. -/
  | cvLdigCtrlEnable (cove : Nat) (fn : Nat) (value : Word)
  /-- CV_CLOG_CTRL_ENABLE (R572). Setting EN of the contributor log zeroes WR and RD. -/
  | cvClogCtrlEnable (cove : Nat) (fn : Nat) (value : Word)
  /-- CV_CLOG_RD_WRITE (R572). A write of the log's RD consumes records, or is discarded if out of range. -/
  | cvClogRdWrite (cove : Nat) (fn : Nat) (value : DWord)
  /-- CV_BARN_WRITE (R574). A barn-map entry write is checked against quota, overlap and use. -/
  | cvBarnWrite (cove : Nat) (fn : Nat) (e : Nat) (value : DWord)
  /-- CV_PLACE_DATA_READ (R575). A read of CV_PLACE_DATA returns a placement entry and advances the index. -/
  | cvPlaceDataRead (cove : Nat) (fn : Nat)
  /-- LOAD_QUEUE_DOORBELL (R567). A TAIL write makes new load entries available to the engine. -/
  | loadQueueDoorbell (queue : Nat) (fn : Nat) (tail : Word)
  /-- LOAD_QUEUE_ENABLE (R422). Setting EN of a load queue zeroes head and tail. -/
  | loadQueueEnable (queue : Nat) (fn : Nat) (value : Word)
  /-- LOAD_ENTRY_NOP (R408). A load entry of opcode 0x00 does nothing. -/
  | loadEntryNop (queue : Nat)
  /-- LOAD_HOST_COPY (R408). A load entry of opcode 0x01 reads host memory, transforms and writes. -/
  | loadHostCopy (queue : Nat) (ok : Bool) (data : List Byte)
  /-- LOAD_STORAGE_READ (R408). A load entry of opcode 0x02 reads storage, transforms and writes. -/
  | loadStorageRead (queue : Nat) (ok : Bool) (data : List Byte)
  /-- LOAD_IMAGE (R408). A load entry of opcode 0x03 writes a program image into an image slot. -/
  | loadImage (queue : Nat) (ok : Bool) (data : List Byte)
  /-- LOAD_ENTRY_START (R411). A waiting entry starts once fences, overlaps and the in-flight limit allow. -/
  | loadEntryStart (queue : Nat) (entry : List Byte)
  /-- LOAD_ENTRY_END (R411). A load entry completes and writes its status line. -/
  | loadEntryEnd (queue : Nat)
  /-- LOAD_CONN_CONNECT (R407). CONNECT reads a connection descriptor and connects it. -/
  | loadConnConnect (k : Nat) (descriptor : List Byte) (ok : Bool)
  /-- LOAD_CONN_DISCONNECT (R407). DISCONNECT closes a storage connection. -/
  | loadConnDisconnect (k : Nat)
  /-- CONNECTION_UP (R407). A connection attempt ends up or failed. -/
  | connectionUp (k : Nat) (up : Bool)
  /-- CONNECTION_DROP (R407). An up connection drops and its entries end with source error. -/
  | connectionDrop (k : Nat)
  /-- CKPT_TAKE (R440). TAKE arms a step checkpoint at the next commit. -/
  | ckptTake (cove : Nat) (value : Word) (regions : List Byte)
  /-- CKPT_FREEZE (R446). FREEZE arms a freeze at the freeze tick, or is refused. -/
  | ckptFreeze (cove : Nat) (value : Word) (regions : List Byte)
  /-- CKPT_THAW (R448). THAW arms a thaw at the thaw tick, or is refused. -/
  | ckptThaw (cove : Nat) (value : Word)
  /-- CKPT_ROLLBACK (R433). ROLLBACK discards the current step and holds the cove. -/
  | ckptRollback (cove : Nat) (value : Word)
  /-- CKPT_RESTORE (R449). RESTORE checks a manifest and restores it into the cove. -/
  | ckptRestore (cove : Nat) (value : Word) (manifest : List Byte) (alt : List Byte)
  /-- CKPT_ADOPT (R434). ADOPT sets the step counter and parity and zeroes the carries. -/
  | ckptAdopt (cove : Nat) (value : Word)
  /-- CKPT_STANDIN_WRITE (R435). A stand-in write sets the identity the cove acts as, or is refused. -/
  | ckptStandinWrite (cove : Nat) (value : Word)
  /-- CKPT_REMAP_WRITE (R436). A remap write maps a module ID for outgoing traffic, or fails on a duplicate. -/
  | ckptRemapWrite (index : Nat) (value : DWord)
  /-- CHAFF_ROUND (R473). A new chaff round starts with a new partner pairing. -/
  | chaffRound
  /-- CHAFF_RUN_END (R475). A chaff run ends, its digest is posted and pair digests are compared. -/
  | chaffRunEnd (core : Nat) (wrong : List (Nat × Word))
  /-- WEAR_SCORE_UPDATE (R478). Every minute each wear score is recomputed from its hourly buckets. -/
  | wearScoreUpdate
  /-- LIFE_LEDGER_WRITE (R485). Every hour the headland writes the life ledger alternately to NVM. -/
  | lifeLedgerWrite (ok : Bool)
  /-- HEALTH_FENCE (R490). HEALTH_FENCE_CMD action 1 fences a unit now with cause 5. -/
  | healthFence (value : Word)
  /-- HEALTH_FENCE_CLEAR (R490). HEALTH_FENCE_CMD action 2 clears a sticky fence at the next module reset. -/
  | healthFenceClear (value : Word)
  /-- HEALTH_LEDGER_DATA_READ (R490). A read of HEALTH_LEDGER_DATA returns a ledger word and advances the index. -/
  | healthLedgerDataRead
  /-- RECOVERY_START (R499). The headland starts the next queued recovery at its rung. -/
  | recoveryStart
  /-- RUNG_OVERRUN (R501). A rung not ended by its bound escalates with cause 12. -/
  | rungOverrun
  /-- ENGINE_SELF_TEST_END (R501). An engine reset's self-test ends; failure fences the core. -/
  | engineSelfTestEnd (pass : Bool)
  /-- SUSPECT_TEST_END (R505). A suspect's test cycle ends with a pass or a guilty hang. -/
  | suspectTestEnd (pass : Bool)
  /-- COVE_RESET_END (R500). A cove reset ends with the cove stopped or held. -/
  | coveResetEnd
  /-- RECOV_CONTEXT_RESET (R524). RECOV_CMD kind 1 resets one job context. -/
  | recovContextReset (value : Word)
  /-- RECOV_ENGINE_RESET (R524). RECOV_CMD kind 2 resets one engine. -/
  | recovEngineReset (value : Word)
  /-- RECOV_COVE_RESET (R524). RECOV_CMD kind 3 resets a cove. -/
  | recovCoveReset (value : Word)
  /-- RECOV_MODULE_RESET (R524). RECOV_CMD kind 4 resets the module. -/
  | recovModuleReset (value : Word)
  /-- RECOV_WRACK_FREE (R523). A 1 in RECOV_WRACK_FREE frees a wrack slot. -/
  | recovWrackFree (value : Word)
  /-- RECOV_WRACK_COPY (R511). RECOV_WRACK_CMD copies a wrack slot to host memory. -/
  | recovWrackCopy (value : Word)
  /-- WRACK_COPY_END (R511). A wrack slot copy ends with a status line. -/
  | wrackCopyEnd (status : Nat)
  /-- HEADLAND_LIVENESS_ADVANCE (R514). Every 1 ms each shore controller advances its liveness word and the headland writes its mirror. -/
  | headlandLivenessAdvance
  /-- HEADLAND_LIVENESS_LOST (R514). The headland's liveness stalls 5 ms and the lowest live controller claims the role. -/
  | headlandLivenessLost
  /-- HEADLAND_RESUME (R514). The new headland loads the mirror, feeds the heartbeat and resumes recoveries. -/
  | headlandResume (restarted : Bool)
  /-- HEADLAND_UNCLAIMED (R515). No controller claims the role within 15 ms and the controllers stop. -/
  | headlandUnclaimed
  /-- HEARTBEAT_ADVANCE (R516). Every 1 ms the heartbeat advances while it has been fed. -/
  | heartbeatAdvance
  /-- BOOT_READY_TIMEOUT (R516). Without READY 450 ms after a reset the boot firmware stops feeding the heartbeat. -/
  | bootReadyTimeout
  /-- SUMMARY_FLUSH (R521). A full ring regains room and its pending summaries are written first. -/
  | summaryFlush (ring : Nat)
  /-- HEALTH_ERR_RD_WRITE (R525). A write of the error ring's RD consumes records, or is discarded if out of range. -/
  | healthErrRdWrite (fn : Nat) (value : DWord)
  /-- HEALTH_ERR_FETCH (R525). An error-ring fetch copies records to host memory. -/
  | healthErrFetch (fn : Nat) (value : Word)
  /-- ERR_FETCH_END (R525). An error-ring fetch ends with a status line. -/
  | errFetchEnd (fn : Nat) (status : Nat)
  /-- HEALTH_CNT_FETCH (R536). A counter fetch copies a snapshot set to host memory. -/
  | healthCntFetch (fn : Nat) (value : Word)
  /-- COUNTER_FETCH_END (R536). A counter fetch ends, or stops when its snapshot is replaced. -/
  | counterFetchEnd (fn : Nat) (status : Nat)
  /-- TRACE_SL_FETCH (R547). A strandline fetch copies durable entries to host memory. -/
  | traceSlFetch (fn : Nat) (value : Word)
  /-- SL_FETCH_END (R547). A strandline fetch ends with a status line. -/
  | slFetchEnd (fn : Nat) (status : Nat)
  /-- TRACE_C_WT_CTRL_WRITE (R542). A wait-trace control write takes effect at the next step and resets the ring when enabled. -/
  | traceCWtCtrlWrite (cove : Nat) (fn : Nat) (value : Word)
  /-- TRACE_C_WT_RD_WRITE (R542). A write of the wait ring's RD consumes records, or is discarded if out of range. -/
  | traceCWtRdWrite (cove : Nat) (fn : Nat) (value : DWord)
  /-- WAIT_RECORD_FORWARD (R540). Buffered wait records pass to the headland and are appended to the ring or dropped. -/
  | waitRecordForward (die : Nat)
  /-- STRANDLINE_WRITE (R545). A queued strandline entry is written to MRAM by the MRAM path. -/
  | strandlineWrite (ok : Bool)
  /-- REGISTER_WRITE (R22). A BAR0 write to a register without its own row is checked and stored. -/
  | registerWrite (fn : Nat) (offset : Nat) (size : Nat) (value : DWord)
  /-- SRING_ENABLE (R562). Setting EN of a status ring zeroes WR and RD. -/
  | sringEnable (fn : Nat) (value : Word)
  /-- SRING_RD_WRITE (R566). A write of a status ring's RD consumes lines, or is discarded if out of range. -/
  | sringRdWrite (fn : Nat) (value : DWord)
  /-- TIDE_OVERRIDE_WRITE (R590). A write of ROLE, ROOT or EPOCH is recorded as a one-start override. -/
  | tideOverrideWrite (which : Nat) (value : DWord)
  /-- FW_WRITE_IMAGE (R604). FW operation 1 checks and writes an image to a slot. -/
  | fwWriteImage (slot : Nat) (image : FwImage) (ok : Bool)
  /-- FW_WRITE_SETTINGS (R605). FW operation 2 writes the settings store to both devices. -/
  | fwWriteSettings (store : List Byte) (ok : Bool)
  /-- FW_READ_SETTINGS (R606). FW operation 3 copies the settings copy in use to host memory. -/
  | fwReadSettings
  /-- FW_SELECT_SLOT (R606). FW operation 4 makes a valid slot the next start's slot. -/
  | fwSelectSlot (slot : Nat)
  /-- FW_LIVE_UPDATE (R607). FW operation 5 starts a live update from the other slot. -/
  | fwLiveUpdate
  /-- FW_SAFE_HARBOUR_REQUEST (R606). FW operation 6 requests safe harbour at the next start. -/
  | fwSafeHarbourRequest
  /-- CONFIG_REQUEST (R553). A PCIe configuration request is answered. -/
  | configRequest (fn : Nat) (write : Bool) (offset : Nat) (value : Word)
  /-- PCIE_LINK_RESET (R557). PERST#, hot reset or link down resets configuration space and host-facing state. -/
  | pcieLinkReset
  /-- PCIE_LINK_UP (R581). The PCIe link comes up. -/
  | pcieLinkUp (rate : Nat) (width : Nat)
  /-- VF_FLR (R557). A virtual function's FLR resets its host-facing registers. -/
  | vfFlr (fn : Nat)
  /-- PF_FLR (R557). The physical function's FLR makes a module reset. -/
  | pfFlr
  /-- D3HOT_ENTRY (R557). A function enters D3hot and stops issuing requests. -/
  | d3hotEntry (fn : Nat)
  /-- D0_RETURN (R557). A function returns to D0 and resumes. -/
  | d0Return (fn : Nat)
  /-- STATUS_LINE_WRITE (R562). A pending completion line is written once the ring has room and is enabled. -/
  | statusLineWrite (fn : Nat)
  /-- FW_COMMAND_END (R578). A firmware command ends and writes its code and status line. -/
  | fwCommandEnd (ok : Bool)
  /-- LIVE_UPDATE_UNIT_SWAP (R607). One unit's swap ends and the next unit is swapped or skipped. -/
  | liveUpdateUnitSwap (ok : Bool)
  /-- INPUT_TURN_ON (R639). The input rises through 44 V with enable made and the converters soft-start. -/
  | inputTurnOn
  /-- POWER_GOOD (R640). All rails are in regulation and the mask ROM starts the boot sequence. -/
  | powerGood
  /-- MODULE_READY (R601). Start or reset ends and MOD_STATE.READY is set. -/
  | moduleReady
  /-- HEALTH_CHECK_PASS (R592). 30 s after READY with no failure a pass record resets the slot's count. -/
  | healthCheckPass
  /-- INPUT_UNDERVOLTAGE (R639). Input below 40 V for 10 us turns the converters off and signals power-fail. -/
  | inputUndervoltage
  /-- INPUT_OVERVOLTAGE (R639). Input above 59.5 V for 10 us turns the converters off. -/
  | inputOvervoltage
  /-- INTERMEDIATE_RAIL_LOSS (R639). The 6 V rail below 5.4 V for 10 us turns every rail off. -/
  | intermediateRailLoss
  /-- HOLDUP_END (R642). Stored energy runs out and the on-package rails turn off. -/
  | holdupEnd
  /-- REGULATOR_CURRENT_LIMIT (R625). A current limit held over 100 us turns the rail off and fences the die. -/
  | regulatorCurrentLimit (die : Nat) (rail : Nat)
  /-- REGULATOR_OVERTEMP (R625). A regulator passing 125 C turns its rail off. -/
  | regulatorOvertemp (die : Nat) (rail : Nat)
  /-- REGULATOR_TELEMETRY (R125). Every 1 ms the regulator shell reports to its die controller. -/
  | regulatorTelemetry (die : Nat) (vcore : Nat) (icore : Nat) (temp : Int) (power : Nat) (trimEnd : List Nat)
  /-- ERROR_COUNT_FORWARD (R125). Every 1 ms a die controller forwards its error counts to the headland. -/
  | errorCountForward (report : ErrorReport)
  /-- MARGIN_READ (R125). Every 10 ms a die controller reads its timing-margin monitors. -/
  | marginRead (die : Nat) (reading : MarginReading)
  /-- DIE_TEMP_READING (R629). Every 100 us each die reads its hottest sensor against the thresholds. -/
  | dieTempReading (unit : Nat) (temp : Int)
  /-- HBM_TEMP_READING (R629). Every 1 ms each HBM controller reads its stack. -/
  | hbmTempReading (stack : Nat) (temp : Int)
  /-- TRIP_TIMEOUT (R630). A unit still at trip 2 s after the trip causes shutdown. -/
  | tripTimeout
  /-- THERMAL_RETURN (R630). After 1 s below release, coves return dies to their clock point. -/
  | thermalReturn
  /-- HBM_RECENTRE (R611). Every 100 ms or on a 5 C move the HBM interface re-centres timing. -/
  | hbmRecentre (stack : Nat) (ok : Bool)
  /-- OPTICAL_TRIM (R611). Every 100 ms optical engines trim laser bias and check transmit power. -/
  | opticalTrim (engine : Nat) (power : List Int)
  /-- TRAY_IDENT (R616). Tray command 0x00 returns identity. -/
  | trayIdent
  /-- TRAY_HEARTBEAT (R616). Tray command 0x01 returns the heartbeat and tray-file age. -/
  | trayHeartbeat
  /-- TRAY_STATE (R616). Tray command 0x02 returns module state. -/
  | trayState
  /-- TRAY_POWER (R616). Tray command 0x03 returns power figures. -/
  | trayPower
  /-- TRAY_COVES (R616). Tray command 0x04 returns cove states. -/
  | trayCoves
  /-- TRAY_PORTS (R616). Tray command 0x05 returns port presence and activity. -/
  | trayPorts
  /-- TRAY_SERVICE_WRITE (R632). Tray command 0x10 write requests emptying. -/
  | trayServiceWrite (value : Byte) (pec : Bool)
  /-- TRAY_SERVICE_READ (R616). Tray command 0x10 read returns the service state. -/
  | trayServiceRead
  /-- TRAY_LOCATE_WRITE (R616). Tray command 0x11 write sets the locate LED. -/
  | trayLocateWrite (value : Byte) (pec : Bool)
  /-- TRAY_LOCATE_READ (R616). Tray command 0x11 read returns the locate state. -/
  | trayLocateRead
  /-- TRAY_CAP_WRITE (R616). Tray command 0x12 write sets the tray cap. -/
  | trayCapWrite (value : BitVec 16) (pec : Bool)
  /-- TRAY_CAP_READ (R616). Tray command 0x12 read returns the tray cap. -/
  | trayCapRead
  /-- TRAY_RESET (R616). Tray command 0x13 with 0xA55A starts a module reset. -/
  | trayReset (value : BitVec 16) (pec : Bool)
  /-- TRAY_SL_SEL_WRITE (R617). Tray command 0x20 write selects a strandline entry. -/
  | traySlSelWrite (value : DWord) (pec : Bool)
  /-- TRAY_SL_SEL_READ (R616). Tray command 0x20 read returns the selected sequence. -/
  | traySlSelRead
  /-- TRAY_SL_DATA (R617). Tray command 0x21 returns the next 32 bytes of the entry and advances after eight. -/
  | traySlData
  /-- TRAY_UNKNOWN_COMMAND (R615). An unlisted tray command is NACKed. -/
  | trayUnknownCommand (code : Byte)
  /-- TRAY_CLOCK_LOW_TIMEOUT (R613). The tray clock held low 25 ms makes the module release the lines. -/
  | trayClockLowTimeout
  /-- TRAY_FILE_REFRESH (R614). Every 1 ms the tray file is refreshed. -/
  | trayFileRefresh
  /-- LOCAL_BUS_POLL (R620). A local-bus target is polled at its interval. -/
  | localBusPoll (segment : Nat) (target : Nat) (lineLow : Bool) (reading : Option (List Int))
  /-- SEGMENT_PROBE (R622). A segment is probed at start and retried after 1, 10 and 100 ms. -/
  | segmentProbe (segment : Nat) (acks : List Nat)
  /-- FAILED_TARGET_PROBE (R622). Every 10 s a failed target is probed for return. -/
  | failedTargetProbe (segment : Nat) (target : Nat) (ack : Bool)
  /-- SEGMENT_POWER_RESTORE (R624). After 100 ms the segment's power is restored and it is probed again or isolated. -/
  | segmentPowerRestore (segment : Nat) (lineHigh : Bool) (stuck : Bool)
  /-- EMPTYING_COVES_FREE (R633). Once every cove is free, ports are fenced and the ledger and logs are written. -/
  | emptyingCovesFree
  /-- SAFE_TO_REMOVE (R633). The NVM writes end and the module becomes safe to remove. -/
  | safeToRemove
  /-- REGISTER_READ (R23). A BAR0 read of a register: a lower-half read of a 64-bit register latches the upper half and applies read side effects, and a misaligned read returns all ones and counts a host-access error. -/
  | registerRead (fn : Nat) (offset : Nat) (size : Nat)
  /-- CONVERTER_ENABLE_CHANGE (R641). The EN_L enable contact makes or breaks, starting the converters when the input is present or turning them off when it opens. -/
  | converterEnableChange (made : Bool)
  /-- INPUT_OVERVOLTAGE_CLEAR (R639). After an over-voltage turn-off, the input falls below 58 V and the converters restart. -/
  | inputOvervoltageClear
  deriving DecidableEq, Repr

end Sys2Proof
end

