-- ==== Sys2Proof/Decode.lean ====
section
/-!
DEFINITION. Decoding. The rows of the opcode table are commands and the table gives them no bits, so no word of the
table spells a command. The 128-bit words that a core fetches for itself do have an encoding (R127, R128): the word of
an instruction, and the instruction of a word, rejecting by name a class or op that no table lists.
-/
namespace Sys2Proof

/-- The command that a word of the opcode table's bits spells: the table gives no row any bits. -/
def decodeTableWord (_nbits _w : Nat) : Option Instr := none

/-! ### The instruction word of a core (R127) -/

/-- R127: the 128-bit word of an instruction; `op` is 256 × class + op. -/
def encodeWord (op : Nat) (w : Fields) : BitVec 128 :=
  BitVec.ofNat 12 op ++ w.f1 ++ w.f2 ++ w.f3 ++ w.f4 ++ w.control ++ w.imm ++ w.commune ++ w.tail
/-- Class and op of a word, as 256 × class + op. -/
def wordOp (b : BitVec 128) : Nat := (b.extractLsb' 116 12).toNat
/-- The fields of a word. -/
def wordFields (b : BitVec 128) : Fields :=
  { f1 := b.extractLsb' 111 5, f2 := b.extractLsb' 106 5, f3 := b.extractLsb' 101 5,
    f4 := b.extractLsb' 96 5, control := b.extractLsb' 64 32, imm := b.extractLsb' 32 32,
    commune := b.extractLsb' 16 16, tail := b.extractLsb' 0 16 }

/-- Why a word is no instruction (R128): a reserved class, or an op its class table does not list. -/
inductive WordRefusal
  | reservedClass
  | unlistedOp
  deriving DecidableEq, Repr

/-- Class and op of an instruction command as 256 × class + op (R127, R137, R142, R147, R151, R155, R160, R163), with
its fields; none for a command that is no instruction. -/
def instrCode (i : Instr) : Option (Nat × Fields) :=
  match i with
  | .nop _ _ w => some (0x000, w)
  | .li _ _ w => some (0x001, w)
  | .lui _ _ w => some (0x002, w)
  | .add _ _ w => some (0x003, w)
  | .sub _ _ w => some (0x004, w)
  | .mul _ _ w => some (0x005, w)
  | .and _ _ w => some (0x006, w)
  | .or _ _ w => some (0x007, w)
  | .xor _ _ w => some (0x008, w)
  | .shl _ _ w => some (0x009, w)
  | .shr _ _ w => some (0x00A, w)
  | .sra _ _ w => some (0x00B, w)
  | .min _ _ w => some (0x00C, w)
  | .max _ _ w => some (0x00D, w)
  | .ident _ _ w => some (0x010, w)
  | .stepRead _ _ w => some (0x011, w)
  | .tideRead _ _ w => some (0x012, w)
  | .br _ _ w => some (0x020, w)
  | .loop _ _ w => some (0x021, w)
  | .endl _ _ w => some (0x022, w)
  | .endProgram _ _ w => some (0x030, w)
  | .mma _ _ w => some (0x100, w)
  | .mmaGa _ _ w => some (0x101, w)
  | .mmaGb _ _ w => some (0x102, w)
  | .mmaRo _ _ w => some (0x104, w)
  | .vmov _ _ w => some (0x200, w)
  | .vadd _ _ w => some (0x201, w)
  | .vsub _ _ w => some (0x202, w)
  | .vmul _ _ w => some (0x203, w)
  | .vfma _ _ w => some (0x204, w)
  | .vmin _ _ w => some (0x205, w)
  | .vmax _ _ w => some (0x206, w)
  | .vdiv _ _ w => some (0x207, w)
  | .vsqrt _ _ w => some (0x208, w)
  | .vabs _ _ w => some (0x209, w)
  | .vneg _ _ w => some (0x20A, w)
  | .vcmp _ _ w => some (0x20B, w)
  | .vsel _ _ w => some (0x20C, w)
  | .vsfu _ _ w => some (0x210, w)
  | .vrsum _ _ w => some (0x218, w)
  | .vramax _ _ w => some (0x219, w)
  | .vrssq _ _ w => some (0x21A, w)
  | .vrand _ _ w => some (0x220, w)
  | .vrbits _ _ w => some (0x221, w)
  | .vbcast _ _ w => some (0x228, w)
  | .vtos _ _ w => some (0x229, w)
  | .vstov _ _ w => some (0x22A, w)
  | .wcopy _ _ w => some (0x300, w)
  | .wzero _ _ w => some (0x301, w)
  | .waadd _ _ w => some (0x308, w)
  | .wamax _ _ w => some (0x309, w)
  | .wacas _ _ w => some (0x30A, w)
  | .wafadd _ _ w => some (0x30B, w)
  | .swtide _ _ w => some (0x400, w)
  | .sarrive _ _ w => some (0x401, w)
  | .swains _ _ w => some (0x402, w)
  | .sdrain _ _ w => some (0x403, w)
  | .stbar _ _ w => some (0x404, w)
  | .scommit _ _ w => some (0x405, w)
  | .tupd _ _ w => some (0x500, w)
  | .tssq _ _ w => some (0x501, w)
  | .tclip _ _ w => some (0x502, w)
  | .tmov _ _ w => some (0x503, w)
  | .tlin _ _ w => some (0x504, w)
  | .tflag _ _ w => some (0x505, w)
  | .rret _ _ w => some (0x600, w)
  | .rarg _ _ w => some (0x601, w)
  | .rsend _ _ w => some (0x602, w)
  | .rwait _ _ w => some (0x603, w)
  | .rred _ _ w => some (0x604, w)
  | .rnarw _ _ w => some (0x605, w)
  | .rglean _ _ w => some (0x606, w)
  | _ => none
/-- The instruction with a class and op on a context; none for one that no table lists. -/
def instrOf (core ctx op : Nat) (w : Fields) : Option Instr :=
  match op with
  | 0x000 => some (.nop core ctx w)
  | 0x001 => some (.li core ctx w)
  | 0x002 => some (.lui core ctx w)
  | 0x003 => some (.add core ctx w)
  | 0x004 => some (.sub core ctx w)
  | 0x005 => some (.mul core ctx w)
  | 0x006 => some (.and core ctx w)
  | 0x007 => some (.or core ctx w)
  | 0x008 => some (.xor core ctx w)
  | 0x009 => some (.shl core ctx w)
  | 0x00A => some (.shr core ctx w)
  | 0x00B => some (.sra core ctx w)
  | 0x00C => some (.min core ctx w)
  | 0x00D => some (.max core ctx w)
  | 0x010 => some (.ident core ctx w)
  | 0x011 => some (.stepRead core ctx w)
  | 0x012 => some (.tideRead core ctx w)
  | 0x020 => some (.br core ctx w)
  | 0x021 => some (.loop core ctx w)
  | 0x022 => some (.endl core ctx w)
  | 0x030 => some (.endProgram core ctx w)
  | 0x100 => some (.mma core ctx w)
  | 0x101 => some (.mmaGa core ctx w)
  | 0x102 => some (.mmaGb core ctx w)
  | 0x104 => some (.mmaRo core ctx w)
  | 0x200 => some (.vmov core ctx w)
  | 0x201 => some (.vadd core ctx w)
  | 0x202 => some (.vsub core ctx w)
  | 0x203 => some (.vmul core ctx w)
  | 0x204 => some (.vfma core ctx w)
  | 0x205 => some (.vmin core ctx w)
  | 0x206 => some (.vmax core ctx w)
  | 0x207 => some (.vdiv core ctx w)
  | 0x208 => some (.vsqrt core ctx w)
  | 0x209 => some (.vabs core ctx w)
  | 0x20A => some (.vneg core ctx w)
  | 0x20B => some (.vcmp core ctx w)
  | 0x20C => some (.vsel core ctx w)
  | 0x210 => some (.vsfu core ctx w)
  | 0x218 => some (.vrsum core ctx w)
  | 0x219 => some (.vramax core ctx w)
  | 0x21A => some (.vrssq core ctx w)
  | 0x220 => some (.vrand core ctx w)
  | 0x221 => some (.vrbits core ctx w)
  | 0x228 => some (.vbcast core ctx w)
  | 0x229 => some (.vtos core ctx w)
  | 0x22A => some (.vstov core ctx w)
  | 0x300 => some (.wcopy core ctx w)
  | 0x301 => some (.wzero core ctx w)
  | 0x308 => some (.waadd core ctx w)
  | 0x309 => some (.wamax core ctx w)
  | 0x30A => some (.wacas core ctx w)
  | 0x30B => some (.wafadd core ctx w)
  | 0x400 => some (.swtide core ctx w)
  | 0x401 => some (.sarrive core ctx w)
  | 0x402 => some (.swains core ctx w)
  | 0x403 => some (.sdrain core ctx w)
  | 0x404 => some (.stbar core ctx w)
  | 0x405 => some (.scommit core ctx w)
  | 0x500 => some (.tupd core ctx w)
  | 0x501 => some (.tssq core ctx w)
  | 0x502 => some (.tclip core ctx w)
  | 0x503 => some (.tmov core ctx w)
  | 0x504 => some (.tlin core ctx w)
  | 0x505 => some (.tflag core ctx w)
  | 0x600 => some (.rret core ctx w)
  | 0x601 => some (.rarg core ctx w)
  | 0x602 => some (.rsend core ctx w)
  | 0x603 => some (.rwait core ctx w)
  | 0x604 => some (.rred core ctx w)
  | 0x605 => some (.rnarw core ctx w)
  | 0x606 => some (.rglean core ctx w)
  | _ => none
/-- The word of an instruction command. -/
def encode (i : Instr) : Option (BitVec 128) := (instrCode i).map fun p => encodeWord p.1 p.2
/-- The instruction that a fetched word spells on a context, or why it spells none. -/
def decodeWord (core ctx : Nat) (b : BitVec 128) : Except WordRefusal Instr :=
  match instrOf core ctx (wordOp b) (wordFields b) with
  | some i => .ok i
  | none => .error (if 0x700 ≤ wordOp b then .reservedClass else .unlistedOp)
/-- Core and context of an instruction command. -/
def instrPlace (i : Instr) : Option (Nat × Nat) :=
  match i with
  | .nop core ctx _ => some (core, ctx)
  | .li core ctx _ => some (core, ctx)
  | .lui core ctx _ => some (core, ctx)
  | .add core ctx _ => some (core, ctx)
  | .sub core ctx _ => some (core, ctx)
  | .mul core ctx _ => some (core, ctx)
  | .and core ctx _ => some (core, ctx)
  | .or core ctx _ => some (core, ctx)
  | .xor core ctx _ => some (core, ctx)
  | .shl core ctx _ => some (core, ctx)
  | .shr core ctx _ => some (core, ctx)
  | .sra core ctx _ => some (core, ctx)
  | .min core ctx _ => some (core, ctx)
  | .max core ctx _ => some (core, ctx)
  | .ident core ctx _ => some (core, ctx)
  | .stepRead core ctx _ => some (core, ctx)
  | .tideRead core ctx _ => some (core, ctx)
  | .br core ctx _ => some (core, ctx)
  | .loop core ctx _ => some (core, ctx)
  | .endl core ctx _ => some (core, ctx)
  | .endProgram core ctx _ => some (core, ctx)
  | .mma core ctx _ => some (core, ctx)
  | .mmaGa core ctx _ => some (core, ctx)
  | .mmaGb core ctx _ => some (core, ctx)
  | .mmaRo core ctx _ => some (core, ctx)
  | .vmov core ctx _ => some (core, ctx)
  | .vadd core ctx _ => some (core, ctx)
  | .vsub core ctx _ => some (core, ctx)
  | .vmul core ctx _ => some (core, ctx)
  | .vfma core ctx _ => some (core, ctx)
  | .vmin core ctx _ => some (core, ctx)
  | .vmax core ctx _ => some (core, ctx)
  | .vdiv core ctx _ => some (core, ctx)
  | .vsqrt core ctx _ => some (core, ctx)
  | .vabs core ctx _ => some (core, ctx)
  | .vneg core ctx _ => some (core, ctx)
  | .vcmp core ctx _ => some (core, ctx)
  | .vsel core ctx _ => some (core, ctx)
  | .vsfu core ctx _ => some (core, ctx)
  | .vrsum core ctx _ => some (core, ctx)
  | .vramax core ctx _ => some (core, ctx)
  | .vrssq core ctx _ => some (core, ctx)
  | .vrand core ctx _ => some (core, ctx)
  | .vrbits core ctx _ => some (core, ctx)
  | .vbcast core ctx _ => some (core, ctx)
  | .vtos core ctx _ => some (core, ctx)
  | .vstov core ctx _ => some (core, ctx)
  | .wcopy core ctx _ => some (core, ctx)
  | .wzero core ctx _ => some (core, ctx)
  | .waadd core ctx _ => some (core, ctx)
  | .wamax core ctx _ => some (core, ctx)
  | .wacas core ctx _ => some (core, ctx)
  | .wafadd core ctx _ => some (core, ctx)
  | .swtide core ctx _ => some (core, ctx)
  | .sarrive core ctx _ => some (core, ctx)
  | .swains core ctx _ => some (core, ctx)
  | .sdrain core ctx _ => some (core, ctx)
  | .stbar core ctx _ => some (core, ctx)
  | .scommit core ctx _ => some (core, ctx)
  | .tupd core ctx _ => some (core, ctx)
  | .tssq core ctx _ => some (core, ctx)
  | .tclip core ctx _ => some (core, ctx)
  | .tmov core ctx _ => some (core, ctx)
  | .tlin core ctx _ => some (core, ctx)
  | .tflag core ctx _ => some (core, ctx)
  | .rret core ctx _ => some (core, ctx)
  | .rarg core ctx _ => some (core, ctx)
  | .rsend core ctx _ => some (core, ctx)
  | .rwait core ctx _ => some (core, ctx)
  | .rred core ctx _ => some (core, ctx)
  | .rnarw core ctx _ => some (core, ctx)
  | .rglean core ctx _ => some (core, ctx)
  | _ => none

end Sys2Proof
end

