-- ==== Sys2Proof/Machine/CoreState.lean ====
section
/-!
DEFINITION. The state of a core, its contexts and its cluster's thresher (chapters Cores, Engines
and the Tile; The Core Instruction Set; Fused Collectives and Winnowing), and of the memory tiers.
-/
namespace Sys2Proof.Machine

/-- An engine instruction after issue: the word's fields and the scalar registers it read (R129). -/
structure Issued where
  /-- The class and op of R127, as 256 × class + op. -/
  op : Nat
  /-- The instruction's address, as an instruction index. -/
  addr : Nat
  /-- Was it fetched from routine memory (R164). -/
  inRoutine : Bool
  fields : Fields
  /-- The scalar registers named by F1 to F4. -/
  r1 : DWord
  r2 : DWord
  r3 : DWord
  r4 : DWord
  /-- The odd register of the pair named by rT (R141). -/
  pair : DWord
  /-- The tide count at issue. -/
  tick : Tick
  /-- Re-runs after a parity error (R118). -/
  reruns : Nat
  /-- MMA.GA and MMA.GB: the gathering routine has returned (R144). -/
  ready : Bool
  /-- The call number of a fused instruction on its group entry (R177). -/
  call : Nat
  deriving DecidableEq, Repr

/-- The held accumulator buffer (R102, R113). -/
structure Held where
  /-- The committed tile whose values are held. -/
  tile : Issued
  /-- Accumulator codes, key 128 × row + column; FP32, or INT32 when `int32` is set. -/
  acc : Sparse Word
  int32 : Bool
  /-- The chain value the tile started from. -/
  start : Sparse Word
  /-- Predicted column sums p and row sums q of R75. -/
  p : Sparse Word
  q : Sparse Word
  /-- Largest magnitudes a and b of R469, and whether an operand was not finite (R471). -/
  aMax : Word
  bMax : Word
  skip : Bool
  drainPending : Bool
  deriving DecidableEq, Repr

/-- The active accumulator buffer: how far the tile at the head of the queue has streamed, in groups of 32 depth steps
(R71, R102), with the sums that the tally edge has formed so far (R75, R106). -/
structure TileStream where
  groups : Nat
  /-- Accumulator codes, key 128 × row + column. -/
  acc : Sparse Word
  p : Sparse Word
  q : Sparse Word
  aMax : Word
  bMax : Word
  /-- An operand was not finite (R471). -/
  skip : Bool
  deriving DecidableEq, Repr

/-- Before the first group. -/
def TileStream.reset : TileStream :=
  { groups := 0, acc := [], p := [], q := [], aMax := 0#32, bMax := 0#32, skip := false }

/-- An instruction in the vector queue (R88, R107): a VEC instruction, or RRED and RNARW, which run in strokes too (R165). -/
structure VecEntry where
  inst : Issued
  /-- Element count, and the registers of the index map (R145, R146). -/
  n : Nat
  map0 : DWord
  map1 : DWord
  /-- Scratchpad ranges that it declares, as window offset and length (R97). -/
  reads : List (Nat × Nat)
  writes : List (Nat × Nat)
  /-- Vector registers read and written, and the scalar register that it has still to write (R97). -/
  vreads : List (BitVec 5)
  vwrite : Option (BitVec 5)
  sdest : Option (BitVec 5)
  /-- Strokes completed, and the running value of a reduction (R107, R108). -/
  strokes : Nat
  acc : Word
  deriving DecidableEq, Repr

/-- A TUPD in progress: the bundle that its thresher works on (R123, R222 to R224, R428). -/
structure BundleRun where
  /-- The instruction has started: the skip of R381 was not taken. -/
  begun : Bool
  /-- The bundle's number. -/
  bundle : Nat
  /-- A block of the shard was found redirected to the barn (R223). -/
  redirected : Bool
  /-- Where the undo record lies in HBM, when one is kept (R428). -/
  undoAt : Option Nat
  /-- Feed reads of the bundle not yet admitted, as blocks of the shard. -/
  toRead : List Nat
  /-- Reads sent to another module and not yet answered. -/
  awaiting : List Nat
  /-- What has been read, by offset in the shard. -/
  got : Memory
  /-- The bundle has been computed. -/
  computed : Bool
  /-- Pieces of the pre-image, and of the writeback, not yet admitted, as global addresses and bytes. -/
  toSave : List (Nat × List Byte)
  toWrite : List (Nat × List Byte)
  /-- A piece of the bundle's writeback has been admitted. -/
  writing : Bool
  /-- Parameters of the bundle with a non-finite new value, and its saturations (R376, R377). -/
  bad : Nat
  sats : Nat
  deriving DecidableEq, Repr

/-- Before the instruction starts. -/
def BundleRun.reset : BundleRun :=
  { begun := false, bundle := 0, redirected := false, undoAt := none, toRead := [], awaiting := [], got := [],
    computed := false, toSave := [], toWrite := [], writing := false, bad := 0, sats := 0 }

/-- A THR instruction that a core has issued and that its cluster's thresher has not completed (R88, R121). -/
structure ThrEntry where
  inst : Issued
  /-- Scratchpad ranges of this core that it declares, and the scalar register that TFLAG has still to write (R97). -/
  reads : List (Nat × Nat)
  writes : List (Nat × Nat)
  sdest : Option (BitVec 5)
  /-- TSSQ: its local sum has been handed to its routine, which has not returned (R368). -/
  handed : Bool
  run : BundleRun
  deriving DecidableEq, Repr

/-- The statuses a descriptor ends with, in rising order of badness (R154). -/
inductive WainStatus
  | done | late | generationReject | unreachable | tallyFailure | addressFault | jobTagRefusal
  deriving DecidableEq, Repr

/-- A wain descriptor in a core's queue (R150, R151, R163). -/
structure WainDesc where
  /-- WAIN op 0x00 to 0x0B, or 0x102 for RSEND, 0x106 for RGLEAN. -/
  op : Nat
  addr : Nat
  src : DWord
  dst : DWord
  len : Nat
  /-- Window offset for the returned old values of an atomic. -/
  ret : Option Nat
  localSrc : Bool
  localDst : Bool
  /-- The transfer class (R150). -/
  cls : Nat
  /-- RSEND: the slot written at the peer. -/
  slot : Option SlotName
  /-- Bytes whose packets have been admitted (R109, R316). -/
  moved : Nat
  /-- The worst outcome so far (R154). -/
  status : WainStatus
  /-- Packets sent to another module and not yet answered. -/
  awaiting : Nat
  /-- The tick at which the last byte admitted so far leaves W1 (R109, R268). -/
  leaves : Tick
  tick : Tick
  /-- Its number within the context. -/
  seq : Nat
  deriving DecidableEq, Repr

/-- What a context waits for: a SYNC or an RWAIT that has not completed (R155, R163). -/
inductive Wait
  /-- SWTIDE: the tide count. -/
  | tide (target : Tick)
  /-- STBAR: the tick s[F2] and the tick with the bound added. -/
  | bar (base target : Tick)
  /-- SARRIVE: group, level mask and deadline. -/
  | arrive (group mask : Nat) (deadline : Tick)
  /-- SWAINS: descriptors numbered below `upto`. -/
  | wains (upto : Nat)
  /-- SDRAIN. -/
  | drain
  /-- SCOMMIT at a commit tick. -/
  | commit (tick : Tick)
  /-- RWAIT: register, level, round two, expected slots, deadline, limit, reached after the
  deadline, and the decision once made (R184, R185). -/
  | slots (rd level : Nat) (round2 : Bool) (expected : Nat) (deadline limit : Tick)
      (late : Bool) (decided : Option Nat)
  deriving DecidableEq, Repr

/-- A collective routine in progress or waiting to start (R134, R197). -/
structure RoutineCall where
  caller : Issued
  /-- Program counter of the main stream, restored at RRET. -/
  retPc : Nat
  routine : Nat
  start : Nat
  len : Nat
  group : Nat
  mask : Nat
  call : Nat
  anchor : Tick
  /-- Marked late (R182). -/
  late : Bool
  /-- The handed range: element offset, scale offset, bytes, format code. -/
  elem : Nat
  scale : Nat
  bytes : Nat
  fmt : Nat
  /-- The call hands a scalar cell (R197). -/
  scalar : Bool
  /-- FP32 value and flag of the scalar cell. -/
  cell : Word
  cellFlag : Bool
  startTick : Tick
  /-- Levels and rounds whose reduce half an RWAIT has ended (log entry 17). -/
  waited : List (Nat × Bool)
  /-- Level, round and half of the last RWAIT; class of the last RSEND at each level. -/
  last : Option (Nat × Bool × Bool)
  classes : Sparse Nat
  deriving DecidableEq, Repr

/-- Where a context stands. -/
inductive CtxMode
  /-- Holds no job (R110). -/
  | empty
  /-- Runs its program. -/
  | running
  /-- Executed END (R138). -/
  | ended
  /-- Stopped by a fault (R119). -/
  | stopped
  deriving DecidableEq, Repr

/-- One context of a core (R99, R110 to R113). -/
structure Ctx where
  mode : CtxMode
  jobTag : Word
  /-- Window base granule and granule count (R111). -/
  winBase : Nat
  winCount : Nat
  /-- Code region in instructions (R100). -/
  codeBase : Nat
  codeLen : Nat
  pc : Nat
  /-- s1 to s31; s0 reads 0 (R99). -/
  sregs : Sparse DWord
  /-- lc0 to lc3 (R138). -/
  lcs : Sparse Word
  /-- Vector register lanes, key 256 × register + lane (R107). -/
  vregs : Sparse Word
  /-- Queued tiles, oldest first (R88). -/
  matQ : List Issued
  /-- The streaming tile's active buffer; none before its first group and after a switch (R102, R116). -/
  stream : Option TileStream
  held : Option Held
  /-- Queued vector instructions, oldest first (R88). -/
  vecQ : List VecEntry
  /-- THR instructions issued and not completed, oldest first: the lead core's queue, and the copies of cores 1 to 3
  that are compared with it (R88, R121). -/
  thrQ : List ThrEntry
  /-- The accumulator kind of the last MAT tile issued: `some true` for INT32 (R103). -/
  lastKind : Option Bool
  /-- Wain descriptors not completed, oldest first. -/
  wainQ : List WainDesc
  wainSeq : Nat
  wainStatus : WainStatus
  wait : Option Wait
  /-- Start tick of the wait, and whether the context was switched out during it (R537). -/
  waitStart : Tick
  waitSwitched : Bool
  /-- The main stream's own wait, with its start and switched flag, while a routine that started during it runs
  (R134, R155). -/
  mainWait : Option (Wait × Tick × Bool)
  routine : Option RoutineCall
  /-- Collective points reached while a routine runs (R134). -/
  points : List RoutineCall
  /-- The value TIDE returns and the anchor of calls (R139, R180). -/
  anchor : Tick
  /-- Calls made per group index in this step (R177). -/
  calls : Sparse Nat
  /-- Calls returned per group index in this step. -/
  callsDone : Sparse Nat
  nonfinite : Bool
  satCount : Nat
  /-- Contribution counts: the count the next notice of a level carries (R185). -/
  count : Nat
  /-- The stopping fault's event code, 0 when none. -/
  faultCode : Nat
  deriving DecidableEq, Repr

/-- A context with no job. -/
def Ctx.reset : Ctx :=
  { mode := .empty, jobTag := 0#32, winBase := 0, winCount := 0, codeBase := 0, codeLen := 0,
    pc := 0, sregs := [], lcs := [], vregs := [], matQ := [], stream := none, held := none, vecQ := [], thrQ := [],
    lastKind := none,
    wainQ := [], wainSeq := 0, wainStatus := .done, wait := none, waitStart := 0, waitSwitched := false, mainWait := none,
    routine := none, points := [], anchor := 0, calls := [], callsDone := [], nonfinite := false, satCount := 0, count := 1, faultCode := 0 }

/-- One queued instruction or descriptor, as a save image holds it (R114). -/
inductive QueuedWork
  | mat (i : Issued)
  | vec (e : VecEntry)
  | thr (e : ThrEntry)
  | wain (d : WainDesc)
  deriving DecidableEq, Repr

/-- The arrival state of a sequencer (R113): what it waits for, its routine and collective points, its anchor and call
numbers. -/
structure ArrivalState where
  wait : Option Wait
  waitStart : Tick
  mainWait : Option (Wait × Tick × Bool)
  routine : Option RoutineCall
  points : List RoutineCall
  anchor : Tick
  calls : Sparse Nat
  callsDone : Sparse Nat
  lastKind : Option Bool
  wainSeq : Nat
  wainLate : Bool
  count : Nat
  deriving DecidableEq, Repr, Inhabited

/-- A piece that has landed in a receive area, whole or in part (R178). -/
structure Landed where
  name : SlotName
  bytes : Nat
  late : Bool
  ctx : Nat
  /-- The tick of its last part, as the context counts (R179). -/
  tick : Tick
  deriving DecidableEq, Repr

/-- A notice in a receive bank (R179). -/
structure Notice where
  call : Nat
  level : Nat
  round2 : Bool
  lateNotice : Bool
  sender : Nat
  absence : Nat
  step : Nat
  count : Nat
  key : Word
  /-- It completed with LATE status (R186). -/
  lateStatus : Bool
  ctx : Nat
  deriving DecidableEq, Repr

/-- One core: its memories, contexts and what its receive areas hold (R88, R36). -/
structure CoreState where
  scratch : Memory
  /-- Instruction memory words by instruction index (R100). -/
  imem : Sparse (BitVec 128)
  /-- Routine memory words by instruction index (R196). -/
  rmem : Sparse (BitVec 128)
  /-- Group entries as 64-bit words, key 20 × index + word (R172). -/
  groups : Sparse DWord
  /-- Contexts 0 to 3 and the maintenance context 4 (R110). -/
  ctxs : Sparse Ctx
  landed : List Landed
  notices : List Notice
  /-- Pieces refused as too far ahead (R178, R186 lag overrun). -/
  refusedAhead : List SlotName
  /-- Pieces of the step that a context has already counted as late (R190). -/
  lateSeen : List (Nat × SlotName)
  /-- Counts of gleaned contributions by carry half (R189); see `gleanKey`. -/
  gleanCounts : Sparse (Option Nat)
  /-- A restore brought carries whose counts it does not hold: the tag of their free values (R194, log entry 80). -/
  gleanOpen : Option Nat
  /-- Matrix and vector engines failed their self-test and are out of use. -/
  engineDown : Bool
  /-- The core's digest of the step (R466). -/
  digest : DWord
  /-- Words that hold bit errors not yet corrected (R118): the storage as Storage.lean numbers it, the word (64 bits, 128
  of instruction memory), and whether the error is uncorrectable or comes back. -/
  upsets : List (Nat × Nat × Bool)
  deriving DecidableEq, Repr

/-- A core after reset: its memories read 0. -/
def CoreState.reset : CoreState :=
  { scratch := [], imem := [], rmem := [], groups := [], ctxs := [], landed := [], notices := [],
    refusedAhead := [], lateSeen := [], gleanCounts := [], gleanOpen := none, engineDown := false, digest := 0#64,
    upsets := [] }

/-- The thresher's running values of one context (R159). -/
structure ThreshRun where
  sumsq : Word
  nonfinite : Bool
  scale : Word
  deriving DecidableEq, Repr

/-- R159: +0, clear and 1.0 at the start of a step. -/
def ThreshRun.reset : ThreshRun :=
  { sumsq := 0#32, nonfinite := false, scale := 0x3F800000#32 }

/-- One cluster (R37, R110). -/
structure ClusterState where
  /-- The context that owns the cluster: 0 to 3, 4 for maintenance, none when no span owns it. -/
  owner : Option Nat
  /-- Tick of the last switch (R115). -/
  switchTick : Tick
  thresh : Sparse ThreshRun
  /-- The thresher failed its self-test and is out of use (R495). -/
  thresherDown : Bool
  deriving DecidableEq, Repr

/-- A cluster after reset. -/
def ClusterState.reset : ClusterState :=
  { owner := none, switchTick := 0, thresh := [], thresherDown := false }

/-- Who owns an HBM frame (R213, R214). -/
inductive FrameOwner
  | free | cove (c : Nat) | module | lease (n : Nat)
  deriving DecidableEq, Repr

/-- The states of a placement entry (R220). -/
inductive PlaceState
  | resident | demoting | demoted | promoting
  deriving DecidableEq, Repr

/-- A placement-table entry (R220). -/
structure Placement where
  state : PlaceState
  cove : Nat
  lenderModule : Nat
  lenderUnit : Nat
  gen : Nat
  /-- Blocks that the movers have copied, in interleaved order, and those written since (R221). -/
  copied : Nat
  dirty : List Nat
  /-- The flip is to be made in this slack water (R221). -/
  go : Bool
  /-- A demoted unit moves to another lender: module and unit (R230). -/
  fresh : Option (Nat × Nat)
  deriving DecidableEq, Repr

/-- An unused placement entry. -/
def Placement.reset : Placement :=
  { state := .resident, cove := 0, lenderModule := 0, lenderUnit := 0, gen := 0, copied := 0, dirty := [], go := false, fresh := none }

/-- A lease-table entry (R227). -/
structure Lease where
  valid : Bool
  withdraw : Bool
  borrower : Nat
  first : Nat
  count : Nat
  tags : List Word
  deriving DecidableEq, Repr

/-- An empty lease. -/
def Lease.reset : Lease :=
  { valid := false, withdraw := false, borrower := 0, first := 0, count := 0, tags := [] }

/-- A floor range pinned by a redirected TUPD (R223). -/
structure Pinned where
  cluster : Nat
  lo : Nat
  hi : Nat
  unit : Nat
  deriving DecidableEq, Repr

/-- The memory tiers beyond the core (R40, R203 to R231). -/
structure MemState where
  /-- Near memory per compute die. -/
  near : Sparse Memory
  /-- HBM per stack, by stack address. -/
  hbm : Sparse Memory
  /-- Condemned near-memory blocks, key die × 2^18 + block. -/
  nearMarks : Sparse Bool
  /-- Condemned HBM blocks, key stack × 2^24 + block. -/
  hbmMarks : Sparse Bool
  /-- Blocks with an uncorrectable word that nothing has read yet, keyed as the marks (R216). -/
  nearLatent : List Nat
  hbmLatent : List Nat
  /-- Frame owners, key stack × 1024 + frame; frames 1,020 to 1,023 are the module's (R214). -/
  frames : Sparse FrameOwner
  /-- Placement table by interleaved unit. -/
  placement : Sparse Placement
  leases : Sparse Lease
  pinned : List Pinned
  /-- The unit that the movers read from another module, with its blocks not yet answered as stack × 16,384 + block
  (R221). -/
  promoting : Option (Nat × List Nat)
  deriving DecidableEq, Repr

/-- Memory after reset: empty and free. -/
def MemState.reset : MemState :=
  { near := [], hbm := [], nearMarks := [], hbmMarks := [], nearLatent := [], hbmLatent := [], frames := [], placement := [],
    leases := [], pinned := [], promoting := none }

end Sys2Proof.Machine
end

