-- ==== Sys2Proof/Config.lean ====
section
/-!
DEFINITION. What an implementation fixes and the manual does not: the free values of the model.
Every one is opaque, so no proof can see a value of it.
-/
namespace Sys2Proof

/-- What a variant's sections give one core (R125, R340): instruction and routine memory words, group
entry words, and the base and count of each job context's window (granules) and code region
(instructions). -/
structure CoreImage where
  imem : List (Nat × BitVec 128)
  rmem : List (Nat × BitVec 128)
  groups : List (Nat × DWord)
  windows : List (Nat × Nat)
  code : List (Nat × Nat)
  deriving DecidableEq, Repr, Inhabited

/-- What a variant's sections hold (R340): a core image by 16 × index of the die in the mask + core, and
the entries of one cluster-table bank with its plan words. -/
structure SectionData where
  cores : List (Nat × CoreImage)
  bank : List (Nat × DWord)
  deriving DecidableEq, Repr, Inhabited

end Sys2Proof

namespace Sys2Proof.Config

/-- Sine and cosine beyond 2^12, where R77 says only that the result is finite (log entry 1). -/
opaque sfu : Sfu → BitVec 32 → BitVec 32

/-- The error of a special function in ulps, which R77 only bounds (log entry 1). -/
opaque sfuError : Sfu → BitVec 32 → Int

/-- A fresh 64-bit value the manual leaves open; the argument is `State.free` (log entry 2). -/
opaque freeDWord : Nat → BitVec 64

/-- A fresh byte the manual leaves open, by draw and position (log entry 2). -/
opaque freeByte : Nat → Nat → BitVec 8

/-- Has every member on other modules made the arrival with this group key and call number by this tick: R155 tells of
the arrivals of other modules and no row brings them (log entry 58). -/
opaque remoteArrived : Nat → Nat → Nat → Bool

/-- A port's calibrated internal transmit-and-receive difference in 1/256 ns, which R291 does not give. -/
opaque internalDiff : Nat → Int

/-- The LBA size of a namespace behind a connection is 4,096 bytes rather than 512: the device's own (R406, R409). -/
opaque lba4096 : Nat → Nat → Bool

/-- What the bytes of a variant's sections mean: the spec gives their content and no layout (log
entry 18). -/
opaque sections : List Byte → SectionData

/-- The arrival state's bytes in a save image, and the 16 bytes of a queue entry, whose inner layouts R114 leaves open
(log entry 23). -/
opaque saveArrival : Machine.ArrivalState → List Byte

/-- The reading of the same bytes. -/
opaque loadArrival : List Byte → Machine.ArrivalState

/-- The 16 bytes of a queue entry. -/
opaque saveEntry : Machine.QueuedWork → List Byte

/-- The reading of an entry with its progress word. -/
opaque loadEntry : List Byte → Nat → Option Machine.QueuedWork

/-- The tile whose values the held accumulator of a save image holds: R114 gives its validity and drain bits only (log
entry 23). -/
opaque loadHeld : List (BitVec 8) → Option Machine.Issued

/-- The slot that a header names: R178 says that a slot write carries it, R262 gives it no field (log entry 16). -/
opaque slotOfHeader : List (BitVec 8) → Option SlotName

/-- The bytes of a headland mirror, whose layout R514 leaves open (log entry 23). -/
opaque mirror : Nat → List Byte

end Sys2Proof.Config
end

