-- ==== Sys2Proof/Machine/Numeric.lean ====
section
/-!
DEFINITION. Number formats, rounding, the rounding generator and the two check codes: the chapter
Number Formats, Rounding and the Rounding Generator (R52 to R87) and R461.
-/
namespace Sys2Proof.Machine

/-- R52: the format a 4-bit code names; 0xF is reserved. -/
def fmtOfCode : Nat → Option Fmt
  | 0 => some .fp32 | 1 => some .bf16 | 2 => some .fp16 | 3 => some .e4m3 | 4 => some .e5m2
  | 5 => some .fp4 | 6 => some .int8 | 7 => some .int32 | 8 => some .mxE4m3 | 9 => some .mxE5m2
  | 10 => some .mxE2m3 | 11 => some .mxE3m2 | 12 => some .mxFp4 | 13 => some .mxInt8
  | 14 => some .e8m0 | _ => none

/-- R52: bits per element. -/
def fmtBits : Fmt → Nat
  | .fp32 => 32 | .bf16 => 16 | .fp16 => 16 | .e4m3 => 8 | .e5m2 => 8 | .fp4 => 4 | .int8 => 8
  | .int32 => 32 | .mxE4m3 => 8 | .mxE5m2 => 8 | .mxE2m3 => 6 | .mxE3m2 => 6 | .mxFp4 => 4
  | .mxInt8 => 8 | .e8m0 => 8

/-- R52: the MX formats, codes 0x8 to 0xD. -/
def fmtIsMx : Fmt → Bool
  | .mxE4m3 => true | .mxE5m2 => true | .mxE2m3 => true | .mxE3m2 => true | .mxFp4 => true
  | .mxInt8 => true
  | .fp32 => false | .bf16 => false | .fp16 => false | .e4m3 => false | .e5m2 => false
  | .fp4 => false | .int8 => false | .int32 => false | .e8m0 => false

/-- R62: plain FP8, FP4 and INT8 (codes 0x3 to 0x6) carry an operand scale. -/
def fmtHasOperandScale : Fmt → Bool
  | .e4m3 => true | .e5m2 => true | .fp4 => true | .int8 => true
  | .fp32 => false | .bf16 => false | .fp16 => false | .int32 => false | .mxE4m3 => false
  | .mxE5m2 => false | .mxE2m3 => false | .mxE3m2 => false | .mxFp4 => false | .mxInt8 => false
  | .e8m0 => false

/-- R53: the floating-point layouts, of an element or of the element inside an MX block. -/
def fmtLayout : Fmt → Option FloatLayout
  | .fp32 => some { ebits := 8, mbits := 23, bias := 127, maxCode := 0x7F7FFFFF, ieee := true }
  | .bf16 => some { ebits := 8, mbits := 7, bias := 127, maxCode := 0x7F7F, ieee := true }
  | .fp16 => some { ebits := 5, mbits := 10, bias := 15, maxCode := 0x7BFF, ieee := true }
  | .e5m2 | .mxE5m2 => some { ebits := 5, mbits := 2, bias := 15, maxCode := 0x7B, ieee := true }
  | .e4m3 | .mxE4m3 => some { ebits := 4, mbits := 3, bias := 7, maxCode := 0x7E, ieee := false }
  | .mxE3m2 => some { ebits := 3, mbits := 2, bias := 3, maxCode := 0x1F, ieee := false }
  | .mxE2m3 => some { ebits := 2, mbits := 3, bias := 1, maxCode := 0x1F, ieee := false }
  | .fp4 | .mxFp4 => some { ebits := 2, mbits := 1, bias := 1, maxCode := 0x7, ieee := false }
  | .int8 => none | .int32 => none | .mxInt8 => none | .e8m0 => none

/-- R63: the rounding mode a 3-bit code names; 0b101 to 0b111 are reserved. -/
def rndOfCode : Nat → Option Rnd
  | 0 => some .rne | 1 => some .rtz | 2 => some .rdn | 3 => some .rup | 4 => some .sr | _ => none

/-! ### Exact values -/

/-- A two's complement code of `w` bits as an integer. -/
def signedOf (w c : Nat) : Int :=
  let c := c % 2 ^ w
  if 2 * c < 2 ^ w then (c : Int) else (c : Int) - (2 ^ w : Nat)

/-- The integer `x` times `2^e` as an exact value. -/
def valOfInt (x : Int) (e : Int) : Val := .fin (decide (x < 0)) x.natAbs e

/-- R53, R54: the value of a floating-point code. -/
def decodeFloat (l : FloatLayout) (c : Nat) : Val :=
  let c := c % 2 ^ (1 + l.ebits + l.mbits)
  let s := decide (c / 2 ^ (l.ebits + l.mbits) = 1)
  let e := c / 2 ^ l.mbits % 2 ^ l.ebits
  let m := c % 2 ^ l.mbits
  let mag := c % 2 ^ (l.ebits + l.mbits)
  if l.ieee && decide (e = 2 ^ l.ebits - 1) then (if m = 0 then .inf s else .nan)
  else if decide (l.maxCode < mag) then .nan
  else if e = 0 then .fin s m (1 - (l.bias : Int) - l.mbits)
  else .fin s (2 ^ l.mbits + m) ((e : Int) - l.bias - l.mbits)

/-- The value of an element code in its format; an MX element before its block scale (R57, R60). -/
def decodeElem (f : Fmt) (c : Nat) : Val :=
  match fmtLayout f with
  | some l => decodeFloat l c
  | none =>
    match f with
    | .int8 => valOfInt (signedOf 8 c) 0
    | .int32 => valOfInt (signedOf 32 c) 0
    | .mxInt8 => valOfInt (signedOf 8 c) (-6)
    | _ => if c % 256 = 255 then .nan else .fin false 1 ((c % 256 : Nat) - 127)

/-- R60: an element times its block scale; scale code 0xFF makes a NaN. -/
def scaleVal (scale : Nat) (v : Val) : Val :=
  if scale % 256 = 255 then .nan
  else match v with
    | .nan => .nan
    | .inf s => .inf s
    | .fin s m e => .fin s m (e + (scale % 256 : Nat) - 127)

/-- Is the value a NaN or an infinity. -/
def valNonfinite : Val → Bool
  | .nan => true
  | .inf _ => true
  | .fin _ _ _ => false

/-- Is the value a zero of either sign. -/
def valIsZero : Val → Bool
  | .nan => false
  | .inf _ => false
  | .fin _ m _ => m == 0

/-- The magnitude of a value (VABS). -/
def valAbs : Val → Val
  | .nan => .nan
  | .inf _ => .inf false
  | .fin _ m e => .fin false m e

/-- The value with its sign flipped (VNEG). -/
def valNeg : Val → Val
  | .nan => .nan
  | .inf s => .inf (!s)
  | .fin s m e => .fin (!s) m e

/-- `m * 2^e` as an integer multiple of `2^q`, for `q` at most `e`. -/
def alignTo (m : Nat) (e q : Int) : Nat := m * 2 ^ (e - q).toNat

/-- A signed integer from sign and magnitude. -/
def signedMag (s : Bool) (m : Nat) : Int := if s then -(m : Int) else (m : Int)

/-- The order of the magnitudes of two finite values: is the first less than the second. -/
def magLt (m₁ : Nat) (e₁ : Int) (m₂ : Nat) (e₂ : Int) : Bool :=
  let q := min e₁ e₂
  decide (alignTo m₁ e₁ q < alignTo m₂ e₂ q)

/-- Exact addition under IEEE 754-2019; the mode decides only the sign of an exact zero (R76). -/
def valAdd (r : Rnd) : Val → Val → Val
  | .nan, _ => .nan
  | _, .nan => .nan
  | .inf s, .inf t => if s = t then .inf s else .nan
  | .inf s, .fin _ _ _ => .inf s
  | .fin _ _ _, .inf t => .inf t
  | .fin s₁ m₁ e₁, .fin s₂ m₂ e₂ =>
    let q := min e₁ e₂
    let x := signedMag s₁ (alignTo m₁ e₁ q) + signedMag s₂ (alignTo m₂ e₂ q)
    if x = 0 then
      (if s₁ = s₂ then .fin s₁ 0 q else .fin (r == .rdn) 0 q)
    else valOfInt x q

/-- Exact subtraction. -/
def valSub (r : Rnd) (a b : Val) : Val := valAdd r a (valNeg b)

/-- Exact multiplication. -/
def valMul : Val → Val → Val
  | .nan, _ => .nan
  | _, .nan => .nan
  | .inf s, .inf t => .inf (s != t)
  | .inf s, .fin t m _ => if m = 0 then .nan else .inf (s != t)
  | .fin s m _, .inf t => if m = 0 then .nan else .inf (s != t)
  | .fin s₁ m₁ e₁, .fin s₂ m₂ e₂ => .fin (s₁ != s₂) (m₁ * m₂) (e₁ + e₂)

/-- The quotient, kept to 200 fraction bits with a sticky last bit, so that every rounding of it
is the rounding of the exact quotient. -/
def valDiv : Val → Val → Val
  | .nan, _ => .nan
  | _, .nan => .nan
  | .inf _, .inf _ => .nan
  | .inf s, .fin t _ _ => .inf (s != t)
  | .fin s _ e, .inf t => .fin (s != t) 0 e
  | .fin s₁ m₁ e₁, .fin s₂ m₂ e₂ =>
    if m₂ = 0 then (if m₁ = 0 then .nan else .inf (s₁ != s₂))
    else
      let n := m₁ * 2 ^ 200
      let q := n / m₂
      .fin (s₁ != s₂) (2 * q + (if n % m₂ = 0 then 0 else 1)) (e₁ - e₂ - 201)

/-- The integer square root, bit by bit from the top; `fuel` counts result bits. -/
def isqrtAux (n : Nat) : Nat → Nat → Nat
  | 0, r => r
  | b + 1, r =>
    let c := r + 2 ^ b
    isqrtAux n b (if c * c ≤ n then c else r)

/-- The floor of the square root. -/
def isqrt (n : Nat) : Nat := isqrtAux n (n.log2 / 2 + 1) 0

/-- The square root, with a sticky last bit as in `valDiv`; a negative value gives a NaN and
−0 gives −0. -/
def valSqrt : Val → Val
  | .nan => .nan
  | .inf s => if s then .nan else .inf false
  | .fin s m e =>
    if m = 0 then .fin s 0 e
    else if s then .nan
    else
      let odd := decide (e % 2 ≠ 0)
      let n := (if odd then 2 * m else m) * 2 ^ 200
      let h := ((if odd then e - 1 else e) - 200) / 2
      let q := isqrt n
      .fin false (2 * q + (if q * q = n then 0 else 1)) (h - 1)

/-- Numeric order, `none` where either is a NaN: −1, 0 or 1 (+0 equals −0, R54). -/
def valCmp : Val → Val → Option Int
  | .nan, _ => none
  | _, .nan => none
  | .inf s, .inf t => some (if s = t then 0 else if s then -1 else 1)
  | .inf s, .fin _ _ _ => some (if s then -1 else 1)
  | .fin _ _ _, .inf t => some (if t then 1 else -1)
  | .fin s₁ m₁ e₁, .fin s₂ m₂ e₂ =>
    let q := min e₁ e₂
    let x := signedMag s₁ (alignTo m₁ e₁ q)
    let y := signedMag s₂ (alignTo m₂ e₂ q)
    some (if x < y then -1 else if x = y then 0 else 1)

/-- The sign of a value; a NaN counts as positive. -/
def valSignBit : Val → Bool
  | .nan => false
  | .inf s => s
  | .fin s _ _ => s

/-- R66: the minimum operation: a NaN if either is one, −0 below +0. -/
def valMin (a b : Val) : Val :=
  match valCmp a b with
  | none => .nan
  | some c => if c < 0 then a else if 0 < c then b else if valSignBit a then a else b

/-- R66: the maximum operation: a NaN if either is one, −0 below +0. -/
def valMax (a b : Val) : Val :=
  match valCmp a b with
  | none => .nan
  | some c => if c < 0 then b else if 0 < c then a else if valSignBit a then b else a

/-- VCMP's predicates (R147): a NaN makes every predicate but `ne` and `un` false. -/
def predHolds (p : Pred) (a b : Val) : Bool :=
  match valCmp a b, p with
  | none, .ne => true
  | none, .un => true
  | none, _ => false
  | some c, .eq => decide (c = 0)
  | some c, .ne => decide (c ≠ 0)
  | some c, .lt => decide (c < 0)
  | some c, .le => decide (c ≤ 0)
  | some c, .gt => decide (0 < c)
  | some c, .ge => decide (0 ≤ c)
  | some _, .un => false

/-- The predicate a VCMP Func code names (R147). Code 7, which its table does not list, names none, so that VCMP raises
an operand fault (DESIGN CHOICE, log entry 78). -/
def predOfCode : Nat → Option Pred
  | 0 => some .eq | 1 => some .ne | 2 => some .lt | 3 => some .le | 4 => some .gt | 5 => some .ge
  | 6 => some .un | _ => none

/-- The function a VSFU Func code names (R147). -/
def sfuOfCode : Nat → Option Sfu
  | 0 => some .recip | 1 => some .rsqrt | 2 => some .exp2 | 3 => some .log2 | 4 => some .sin
  | 5 => some .cos | 6 => some .tanh | 7 => some .erf | _ => none

/-! ### Rounding and conversion -/

/-- The magnitude `m * 2^e` rounded to a multiple of `2^q`, as that multiple (R63, R79). -/
def roundMag (r : Rnd) (neg : Bool) (draw : Nat) (m : Nat) (e q : Int) : Nat :=
  if q ≤ e then alignTo m e q
  else
    let sh := (q - e).toNat
    let t := m / 2 ^ sh
    let rem := m % 2 ^ sh
    let up : Bool :=
      match r with
      | .rne => decide (2 ^ sh < 2 * rem) || (decide (2 * rem = 2 ^ sh) && decide (t % 2 = 1))
      | .rtz => false
      | .rdn => neg && decide (rem ≠ 0)
      | .rup => !neg && decide (rem ≠ 0)
      | .sr => decide (2 ^ 32 ≤ rem * 2 ^ 32 / 2 ^ sh + draw)
    if up then t + 1 else t

/-- The magnitude code that `m * 2^e` rounds to with an unbounded exponent range above. The code
of a magnitude rises with it, so overflow is a code above `maxCode`. -/
def roundCode (l : FloatLayout) (r : Rnd) (neg : Bool) (draw m : Nat) (e : Int) : Nat :=
  if m = 0 then 0
  else
    let emin : Int := 1 - (l.bias : Int) - l.mbits
    let q := max ((m.log2 : Int) + e - l.mbits) emin
    (q - emin).toNat * 2 ^ l.mbits + roundMag r neg draw m e q

/-- The sign bit of a layout's code. -/
def signCode (l : FloatLayout) (neg : Bool) : Nat := if neg then 2 ^ (l.ebits + l.mbits) else 0

/-- The canonical NaN of R55: the top mantissa bit set, and 0x7F in E4M3. -/
def nanCode (l : FloatLayout) : Nat :=
  if l.ieee then (2 ^ l.ebits - 1) * 2 ^ l.mbits + 2 ^ (l.mbits - 1) else 0x7F

/-- R65: a directed mode never overflows in the direction away from its rounding. -/
def directedClamp (r : Rnd) (neg : Bool) : Bool :=
  match r with
  | .rtz => true
  | .rdn => !neg
  | .rup => neg
  | .rne => false
  | .sr => false

/-- R65 for a floating-point target. `hasNan` is false for E3M2, E2M3 and E2M1 (R54). -/
def convFloat (l : FloatLayout) (hasNan : Bool) (r : Rnd) (sat : Bool) (draw : Nat) : Val → Conv
  | .nan => { bits := if hasNan then nanCode l else 0, nonfinite := true, saturated := false }
  | .inf s =>
    if l.ieee then
      { bits := signCode l s + (2 ^ l.ebits - 1) * 2 ^ l.mbits, nonfinite := true,
        saturated := false }
    else if hasNan && !sat then { bits := nanCode l, nonfinite := true, saturated := false }
    else { bits := signCode l s + l.maxCode, nonfinite := true, saturated := false }
  | .fin s m e =>
    let c := roundCode l r s draw m e
    if c ≤ l.maxCode then { bits := signCode l s + c, nonfinite := false, saturated := false }
    else if sat || !hasNan || directedClamp r s then
      { bits := signCode l s + l.maxCode, nonfinite := false, saturated := true }
    else if l.ieee then
      { bits := signCode l s + (2 ^ l.ebits - 1) * 2 ^ l.mbits, nonfinite := true,
        saturated := false }
    else { bits := nanCode l, nonfinite := true, saturated := false }

/-- R64, R65 for an integer target of `w` bits whose unit is `2^q`. -/
def convInt (w : Nat) (q : Int) (r : Rnd) (draw : Nat) : Val → Conv
  | .nan => { bits := 0, nonfinite := true, saturated := false }
  | .inf s =>
    { bits := if s then 2 ^ (w - 1) else 2 ^ (w - 1) - 1, nonfinite := true, saturated := false }
  | .fin s m e =>
    let n := roundMag r s draw m e q
    if s then
      (if n ≤ 2 ^ (w - 1) then
        { bits := (2 ^ w - n) % 2 ^ w, nonfinite := false, saturated := false }
      else { bits := 2 ^ (w - 1), nonfinite := false, saturated := true })
    else if n ≤ 2 ^ (w - 1) - 1 then { bits := n, nonfinite := false, saturated := false }
    else { bits := 2 ^ (w - 1) - 1, nonfinite := false, saturated := true }

/-- Which element kinds have a NaN code (R54). -/
def fmtHasNan : Fmt → Bool
  | .fp32 => true | .bf16 => true | .fp16 => true | .e4m3 => true | .e5m2 => true
  | .mxE4m3 => true | .mxE5m2 => true | .e8m0 => true
  | .fp4 => false | .int8 => false | .int32 => false | .mxE2m3 => false | .mxE3m2 => false
  | .mxFp4 => false | .mxInt8 => false

/-- R64, R65: the conversion of an exact value to an element of a format, rounding once. An MX
element is converted by `quantiseBlock`, which passes `sat := true`. -/
def convElem (f : Fmt) (r : Rnd) (sat : Bool) (draw : Nat) (v : Val) : Conv :=
  match fmtLayout f with
  | some l => convFloat l (fmtHasNan f) r sat draw v
  | none =>
    match f with
    | .int32 => convInt 32 0 r draw v
    | .mxInt8 => convInt 8 (-6) r draw v
    | _ => convInt 8 0 r draw v

/-- The FP32 code of a value, rounded to nearest even (R76). -/
def toF32 (v : Val) : BitVec 32 := BitVec.ofNat 32 (convElem .fp32 .rne false 0 v).bits

/-- The value of an FP32 code. -/
def ofF32 (b : BitVec 32) : Val := decodeElem .fp32 b.toNat

/-- Round a value to FP32 under a mode and read it back. -/
def roundF32 (r : Rnd) (draw : Nat) (v : Val) : Val :=
  decodeElem .fp32 (convElem .fp32 r false draw v).bits

/-- FP32 addition with RNE on codes. -/
def f32add (a b : BitVec 32) : BitVec 32 := toF32 (valAdd .rne (ofF32 a) (ofF32 b))
/-- FP32 subtraction with RNE on codes. -/
def f32sub (a b : BitVec 32) : BitVec 32 := toF32 (valSub .rne (ofF32 a) (ofF32 b))
/-- FP32 multiplication with RNE on codes. -/
def f32mul (a b : BitVec 32) : BitVec 32 := toF32 (valMul (ofF32 a) (ofF32 b))
/-- FP32 division with RNE on codes. -/
def f32div (a b : BitVec 32) : BitVec 32 := toF32 (valDiv (ofF32 a) (ofF32 b))
/-- FP32 square root with RNE on codes. -/
def f32sqrt (a : BitVec 32) : BitVec 32 := toF32 (valSqrt (ofF32 a))
/-- FP32 fused multiply-add with RNE on codes: `a × b + c`, rounded once. -/
def f32fma (a b c : BitVec 32) : BitVec 32 :=
  toF32 (valAdd .rne (valMul (ofF32 a) (ofF32 b)) (ofF32 c))
/-- FP32 minimum of R66 on codes. -/
def f32min (a b : BitVec 32) : BitVec 32 := toF32 (valMin (ofF32 a) (ofF32 b))
/-- FP32 maximum of R66 on codes. -/
def f32max (a b : BitVec 32) : BitVec 32 := toF32 (valMax (ofF32 a) (ofF32 b))
/-- An FP32 code that is a NaN or an infinity. -/
def f32nonfinite (a : BitVec 32) : Bool := valNonfinite (ofF32 a)
/-- The code of FP32 1.0. -/
def f32one : BitVec 32 := 0x3F800000#32
/-- The canonical FP32 NaN (R55). -/
def f32nan : BitVec 32 := 0x7FC00000#32

/-! ### MX blocks -/

/-- R61: emax of each MX element kind. -/
def fmtEmax : Fmt → Int
  | .mxE4m3 => 8 | .mxE5m2 => 15 | .mxE3m2 => 4 | .mxE2m3 => 2 | .mxFp4 => 2 | .mxInt8 => 0
  | .fp32 => 0 | .bf16 => 0 | .fp16 => 0 | .e4m3 => 0 | .e5m2 => 0 | .fp4 => 0 | .int8 => 0
  | .int32 => 0 | .e8m0 => 0

/-- floor(log2) of a finite non-zero magnitude. -/
def valLog2 : Val → Option Int
  | .nan => none
  | .inf _ => none
  | .fin _ m e => if m = 0 then none else some ((m.log2 : Int) + e)

/-- The larger of two optional exponents. -/
def maxLog2 : Option Int → Option Int → Option Int
  | none, b => b
  | a, none => a
  | some a, some b => some (max a b)

/-- The value times `2^x`. -/
def valScaleBy (x : Int) : Val → Val
  | .nan => .nan
  | .inf s => .inf s
  | .fin s m e => .fin s m (e + x)

/-- R61: quantise the values of one block, each with its draw: the scale code and the elements. -/
def quantiseBlock (f : Fmt) (r : Rnd) (vs : List (Val × Nat)) : Nat × List Conv :=
  if vs.any (fun p => valNonfinite p.1) then
    (255, vs.map (fun p => { bits := 0, nonfinite := valNonfinite p.1, saturated := false }))
  else
    let amax := vs.foldl (fun a p => maxLog2 a (valLog2 p.1)) none
    let x : Int := match amax with
      | none => -127
      | some a => max (-127) (min 127 (a - fmtEmax f))
    ((x + 127).toNat, vs.map (fun p => convElem f r true p.2 (valScaleBy (-x) p.1)))

/-! ### The rounding generator -/

/-- One round of Philox4x32 (R81). -/
def philoxRound (c0 c1 c2 c3 k0 k1 : Nat) : Nat × Nat × Nat × Nat :=
  let p0 := 0xD2511F53 * c0
  let p1 := 0xCD9E8D57 * c2
  ((p1 / 2 ^ 32) ^^^ c1 ^^^ k0, p1 % 2 ^ 32, (p0 / 2 ^ 32) ^^^ c3 ^^^ k1, p0 % 2 ^ 32)

/-- The remaining rounds, the key rising between rounds (R81). -/
def philoxRounds : Nat → Nat → Nat → Nat → Nat → Nat → Nat → Nat × Nat × Nat × Nat
  | 0, c0, c1, c2, c3, _, _ => (c0, c1, c2, c3)
  | n + 1, c0, c1, c2, c3, k0, k1 =>
    match philoxRound c0 c1 c2 c3 k0 k1 with
    | (a, b, c, d) =>
      philoxRounds n a b c d ((k0 + 0x9E3779B9) % 2 ^ 32) ((k1 + 0xBB67AE85) % 2 ^ 32)

/-- R81: the ten-round function. -/
def philox (c0 c1 c2 c3 k0 k1 : Nat) : Nat × Nat × Nat × Nat :=
  philoxRounds 10 c0 c1 c2 c3 k0 k1

/-- R80: the draw of one element, from the job seed, the tensor ID and the step. -/
def draw (seed tensor step index : Nat) : Nat :=
  match philox (index / 4 % 2 ^ 32) (tensor % 2 ^ 32) (step % 2 ^ 32) (step / 2 ^ 32 % 2 ^ 32)
      (seed % 2 ^ 32) (seed / 2 ^ 32 % 2 ^ 32) with
  | (a, b, c, d) =>
    match index % 4 with
    | 0 => a
    | 1 => b
    | 2 => c
    | _ => d

/-- R82: a tensor ID moved into one of the hardware's streams. -/
def streamId (stream tensor : Nat) : Nat := stream * 2 ^ 28 + tensor % 2 ^ 28

/-- R85: the uniform value of a draw. -/
def uniformOf (r : Nat) : Val := .fin false (r / 2 ^ 8) (-24)

/-! ### The matrix engine's arithmetic -/

/-- Sum the signed, truncated magnitudes of the terms, each a multiple of `2^q` (R71 step 3, 4). -/
def sumTruncated (q : Int) : List Val → Int
  | [] => 0
  | .nan :: t => sumTruncated q t
  | .inf _ :: t => sumTruncated q t
  | .fin s m e :: t => signedMag s (roundMag .rtz s 0 m e q) + sumTruncated q t

/-- R71: the group rule on the terms of one group, the accumulator's value among them. -/
def groupSum (terms : List Val) : BitVec 32 :=
  if terms.any (fun v => v == .nan) then f32nan
  else
    let pos := terms.any (fun v => v == .inf false)
    let neg := terms.any (fun v => v == .inf true)
    if pos && neg then f32nan
    else if pos then toF32 (.inf false)
    else if neg then toF32 (.inf true)
    else
      match terms.foldl (fun a v => maxLog2 a (valLog2 v)) none with
      | none => 0#32
      | some e =>
        let x := sumTruncated (e - 47) terms
        let c := toF32 (valOfInt x (e - 47))
        if c = 0x80000000#32 then 0#32 else c

/-- Saturate an integer to INT32 (R73). -/
def satInt32 (x : Int) : BitVec 32 :=
  if 2147483647 < x then 0x7FFFFFFF#32
  else if x < -2147483648 then 0x80000000#32
  else BitVec.ofInt 32 x

/-! ### Check codes (R461, R262) -/

/-- One bit of the reflected CRC-32C. -/
def crc32cBits : Nat → Nat → Nat
  | 0, c => c
  | n + 1, c => crc32cBits n (if c % 2 = 1 then (c / 2) ^^^ 0x82F63B78 else c / 2)

/-- CRC-32C register over bytes, without the final XOR. -/
def crc32cRun : Nat → List Nat → Nat
  | c, [] => c
  | c, b :: t => crc32cRun (crc32cBits 8 (c ^^^ (b % 256))) t

/-- R461: CRC-32C of a list of bytes. -/
def crc32c (bs : List Nat) : Nat := crc32cRun 0xFFFFFFFF bs ^^^ 0xFFFFFFFF

/-- One byte's bits of CRC-64, most significant first. -/
def crc64Bits : Nat → Nat → Nat
  | 0, c => c
  | n + 1, c =>
    crc64Bits n (if c / 2 ^ 63 % 2 = 1 then (2 * c % 2 ^ 64) ^^^ 0x42F0E1EBA9EA3693
      else 2 * c % 2 ^ 64)

/-- R461: CRC-64, ECMA-182, continued from a register value. -/
def crc64 : Nat → List Nat → Nat
  | c, [] => c
  | c, b :: t => crc64 (crc64Bits 8 (c ^^^ (b % 256 * 2 ^ 56))) t

/-- One byte's bits of the header check. -/
def crc8Bits : Nat → Nat → Nat
  | 0, c => c
  | n + 1, c => crc8Bits n (if c / 128 % 2 = 1 then (2 * c % 256) ^^^ 0x07 else 2 * c % 256)

/-- R262: the header check of a flit. -/
def crc8 : Nat → List Nat → Nat
  | c, [] => c
  | c, b :: t => crc8 (crc8Bits 8 (c ^^^ (b % 256))) t

/-- A value as `n` little-endian bytes (R18). -/
def leBytes : Nat → Nat → List Nat
  | 0, _ => []
  | n + 1, v => v % 256 :: leBytes n (v / 256)

/-- Little-endian bytes as a value (R18). -/
def ofLeBytes : List Nat → Nat
  | [] => 0
  | b :: t => b % 256 + 256 * ofLeBytes t

end Sys2Proof.Machine
end

