-- ==== Sys2Proof/Machine/CoveState.lean ====
section
/-!
DEFINITION. The state of a cove: its shape, its steps, its load queue and its checkpoints
(chapters Coves, Ebb and Flood; The Thresher and Training Steps; Loading and Replacing Weights;
Checkpoint, Buddy Copies and Restore). Plain RW registers of these chapters stand in
`HostState.regs` under their BAR0 offset.
-/
namespace Sys2Proof.Machine

/-- The cove states of R338. -/
inductive CoveMode
  | free | loading | held | running | stopped | releasing | fault
  deriving DecidableEq, Repr

/-- One commit arrival (R302, R156). -/
structure CommitArrival where
  core : Nat
  addr : Nat
  gen : Nat
  tick : Tick
  deriving DecidableEq, Repr

/-- One SARRIVE or fused arrival in progress (R155, R156, R44). -/
structure Arrival where
  core : Nat
  ctx : Nat
  addr : Nat
  gen : Nat
  group : Nat
  key : Word
  call : Nat
  mask : Nat
  deadline : Tick
  deriving DecidableEq, Repr

/-- The counts of the current step that its record carries (R389). Four-entry lists run module,
bay, hall (round one), hall round two. -/
structure StepStats where
  late : Bool
  unlogged : Nat
  leftOut : List Nat
  gleaned : List Nat
  dropped : List Nat
  latePieces : List Nat
  saturations : Nat
  params : Nat
  tupds : Nat
  redirected : Nat
  nonfiniteWrites : Nat
  lateDeliveries : Nat
  timingVoid : Bool
  firstDecision : Nat
  decisions : Nat
  thresherEnd : Tick
  /-- Global sum of squares and clipping scale of the lead core's thresher. -/
  sumsq : Word
  scale : Word
  skipped : Bool
  /-- A TUPD of the step has started (R381), and one has written (R369). -/
  tupdStarted : Bool
  updateWrote : Bool
  /-- Layer digests of the step in order of completion (R467). -/
  layers : List DWord
  /-- A floor conflict of this step: its units (R225). -/
  conflicts : List Nat
  deriving DecidableEq, Repr

/-- The counts at a step's start. -/
def StepStats.reset : StepStats :=
  { late := false, unlogged := 0, leftOut := [0, 0, 0, 0], gleaned := [0, 0, 0, 0],
    dropped := [0, 0, 0, 0], latePieces := [0, 0, 0, 0], saturations := 0, params := 0,
    tupds := 0, redirected := 0, nonfiniteWrites := 0, lateDeliveries := 0, timingVoid := false,
    firstDecision := 0, decisions := 0, thresherEnd := 0, sumsq := 0#32,
    scale := 0x3F800000#32, skipped := false, tupdStarted := false, updateWrote := false,
    layers := [], conflicts := [] }

/-- A load-queue entry in flight or read (R408). -/
structure LoadEntry where
  opcode : Nat
  flags : Nat
  formats : Nat
  xform : Nat
  tag : Word
  src : Nat
  srcLen : Nat
  dst : DWord
  scaleDst : DWord
  rows : Nat
  cols : Nat
  conn : Nat
  cove : Nat
  nsid : Nat
  entryTag : Word
  /-- A reserved field of the entry was non-zero. -/
  reservedSet : Bool
  deriving DecidableEq, Repr

/-- An entry that has started (R411). -/
structure InFlight where
  index : Nat
  entry : LoadEntry
  /-- Bytes written locally, saturations and non-finite sources so far. -/
  written : Nat
  sats : Nat
  nonfinites : Nat
  /-- Status to end with; 0 while nothing went wrong (R423). -/
  status : Nat
  /-- Its data has been read and transformed. -/
  ran : Bool
  /-- Output still to be written, as address and bytes, in order. -/
  out : List (Nat × List Byte)
  peerBits : Nat
  deriving DecidableEq, Repr

/-- A load queue: a cove's or the module's (R408, R411, R422). -/
structure LoadQueue where
  en : Bool
  size : Nat
  head : Nat
  tail : Nat
  /-- Next entry to start. -/
  next : Nat
  inflight : List InFlight
  /-- Entries completed out of order. -/
  doneIdx : List Nat
  deriving DecidableEq, Repr

/-- A queue after reset. -/
def LoadQueue.reset : LoadQueue :=
  { en := false, size := 0, head := 0, tail := 0, next := 0, inflight := [], doneIdx := [] }

/-- The phases of a checkpoint (R454). -/
inductive CkptPhase
  | idle | armed | draining | freezing | frozen | restoring
  deriving DecidableEq, Repr

/-- An undo record's bundle pre-image, for a rollback (R428, R430): each piece is a global address
and the bytes to put back, the working copy recomputed from the former master among them. -/
structure UndoBundle where
  pieces : List (Nat × List Nat)
  deriving DecidableEq, Repr

/-- A region of the region list as captured (R443). -/
structure Region where
  kind : Nat
  flags : Nat
  die : Nat
  addr : Nat
  len : Nat
  deriving DecidableEq, Repr

/-- A cove's checkpoint state (R427 to R455). -/
structure Ckpt where
  take : Bool
  freeze : Bool
  thaw : Bool
  rollback : Bool
  restore : Bool
  adoptP : Bool
  undoEn : Bool
  /-- UNDOEN as it acts in the current step. -/
  undoOn : Bool
  writer : Bool
  phase : CkptPhase
  torn : Bool
  unguarded : Bool
  done : Bool
  failed : Bool
  code : Nat
  undoUsed : Nat
  undo : List UndoBundle
  step : DWord
  returnTick : Tick
  /-- Tide offset O (R448), and the tick from which the next thaw counts. -/
  offset : Nat
  frozenAt : Tick
  /-- Region lists of the step checkpoint that drains, of the one that TAKE armed, and of the whole-device capture. -/
  regions : List Region
  nextRegions : List Region
  wholeList : List Region
  /-- Header fields of the two manifests, by offset, width and value, as they stood at the capture (R445). -/
  stepHead : List (Nat × Nat × Nat)
  wholeHead : List (Nat × Nat × Nat)
  captured : Nat
  /-- Bytes of guarded blocks captured before a writeback, by package-space block (R441). -/
  early : Sparse (List Nat)
  /-- The whole-device capture of a frozen cove is in progress, and the bytes of the manifest that a
  restore reads. -/
  whole : Bool
  manifest : List Byte
  /-- The capture holds the next commit (R442). -/
  holdsCommit : Bool
  /-- Writebacks that waited (event 0x8013). -/
  waits : Nat
  deriving DecidableEq, Repr

/-- The checkpoint state after reset. -/
def Ckpt.reset : Ckpt :=
  { take := false, freeze := false, thaw := false, rollback := false, restore := false,
    adoptP := false, undoEn := false, undoOn := false, writer := false, phase := .idle,
    torn := false, unguarded := false, done := false, failed := false, code := 0, undoUsed := 0,
    undo := [], step := 0#64, returnTick := 0, offset := 0, frozenAt := 0, regions := [],
    nextRegions := [], wholeList := [], stepHead := [], wholeHead := [], captured := 0, early := [], whole := false,
    manifest := [], holdsCommit := false, waits := 0 }

/-- One cove (R334 to R401). -/
structure Cove where
  mode : CoveMode
  /-- The state from which the cove was contained. -/
  prior : CoveMode
  changed : Tick
  overHbm : Bool
  overPort : Bool
  blocked : Bool
  deferred : Bool
  action : Nat
  reason : Nat
  hcause : Nat
  ended : Bool
  /-- CV_CTRL's pending bits. -/
  stopReq : Bool
  holdReq : Bool
  /-- START was written at this tick from this state. -/
  startTick : Tick
  fromStopped : Bool
  /-- Dies held, and the tick of the last CV_DIES write when it asks for a reshape. -/
  dies : DWord
  reshape : Option (DWord × Tick)
  /-- Release: asked for by CV_DIES = 0 or by the service button. -/
  releaseReq : Bool
  serviceRelease : Bool
  /-- The image slot's bytes (R339), and the variant has been loaded onto every die. -/
  image : Memory
  loaded : Bool
  variant : Nat
  vGen : Nat
  vClock : Nat
  cores : Nat
  clusterMask : Nat
  ctxUsed : Nat
  /-- Job tags in force, per context. -/
  tags : Sparse Word
  /-- Job seeds in force, taken at START and at each step start (R572), and forced mode. -/
  seeds : Sparse DWord
  forced : Bool
  unitsI : List Nat
  unitsS : List Nat
  /-- Units set in a map and not yet free. -/
  pendingUnits : List Nat
  step : DWord
  parity : Bool
  skipRun : Nat
  skipTotal : Nat
  srCount : Nat
  srMissed : Nat
  stats : StepStats
  arrivals : List Arrival
  commits : List CommitArrival
  /-- The commit tick that SCOMMIT named, or 0. -/
  commitTick : Tick
  /-- A step's discard: cause of the last one, and the replay it asks for. -/
  replaying : Bool
  replays : Nat
  lastCause : Nat
  /-- Address or call of the failure that the replay must not meet again. -/
  lastFail : Nat
  awaitReplay : Option Tick
  /-- The greatest discard tick among the notices of the step (R496). -/
  dMax : Tick
  /-- A fault found after the commit arrival or in slack water: cause and repeat key (R497). -/
  owed : Option (Nat × Option Nat)
  /-- A decision failure to report at the commit arrival: its key (R186). -/
  failed : Option Nat
  /-- Layer closes whose descriptors run, as core and descriptor number, and the closing values
  taken, as core and digest (R467). -/
  closing : List (Nat × Nat)
  closed : List (Nat × DWord)
  /-- The group that the last SCOMMIT named. -/
  commitGroup : Option Nat
  /-- Slack-water actions of R48 already ended in this slack water. -/
  actionsDone : Nat
  /-- The first action of R48 that this slack water defers, 0 when none (R49). -/
  barred : Nat
  /-- The reshape of this slack water passed its check (R349). -/
  reshapeOk : Bool
  /-- A reshape whose variant is loaded and whose bank switch waits for action 4: its variant and the old mask (R48, R351). -/
  reshaped : Option (Nat × DWord)
  /-- Dies that run at the cove's clock point; a die that was taken since runs at 0.9 GHz (R38). -/
  atClock : DWord
  /-- Tick at which the commit was last held up by a drain, a TUPD or a freeze (R47, R442). -/
  waited : Tick
  evalArm : Bool
  evalDone : Bool
  evalDeferred : Bool
  evalStep : Word
  digestStep : Nat
  mismatch : Nat
  missing : Nat
  received : Nat
  /-- Own digest table of the last digest step. -/
  digestTable : List DWord
  /-- Shard digests of the step, by cove rank of the lead core (R398). -/
  shards : Sparse DWord
  /-- Digest points of the step (R467). -/
  digestPoint : Nat
  lq : LoadQueue
  ckpt : Ckpt
  /-- Contributor log: records written, read index, enable, full and forced mode (R187, R572). -/
  clogWr : Nat
  clogRd : Nat
  clogEn : Bool
  clogLost : Nat
  clogFullStep : DWord
  forcedRefused : DWord
  /-- CV_LDIG_CTRL in force since the step start, and the log's counts (R491). -/
  ldig : Word
  ldigCount : Nat
  ldigMissed : Nat
  deriving DecidableEq, Repr

/-- A cove after reset: free. -/
def Cove.reset : Cove :=
  { mode := .free, prior := .free, changed := 0, overHbm := false, overPort := false, blocked := false,
    deferred := false, action := 0, reason := 0, hcause := 0, ended := false, stopReq := false,
    holdReq := false, startTick := 0, fromStopped := false, dies := 0#64, reshape := none,
    releaseReq := false, serviceRelease := false, image := [], loaded := false, variant := 0, vGen := 0, vClock := 0, cores := 0,
    clusterMask := 0, ctxUsed := 0, tags := [], seeds := [],
    forced := false, unitsI := [], unitsS := [], pendingUnits := [],
    step := 0#64, parity := false, skipRun := 0, skipTotal := 0, srCount := 0, srMissed := 0,
    stats := StepStats.reset, arrivals := [], commits := [], commitTick := 0, replaying := false,
    replays := 0, lastCause := 0, lastFail := 0, awaitReplay := none, dMax := 0,
    owed := none, failed := none, closing := [], closed := [], commitGroup := none, actionsDone := 0,
    barred := 0, reshapeOk := false, reshaped := none, atClock := 0#64, waited := 0, evalArm := false, evalDone := false, evalDeferred := false,
    evalStep := 0#32, digestStep := 0, mismatch := 0, missing := 0, received := 0,
    digestTable := [], shards := [], digestPoint := 0, lq := LoadQueue.reset, ckpt := Ckpt.reset,
    clogWr := 0, clogRd := 0, clogEn := false, clogLost := 0, clogFullStep := 0#64,
    forcedRefused := 0#64, ldig := 0#32, ldigCount := 0, ldigMissed := 0 }

/-- A storage connection's state (R422): down, connecting, up, failed. -/
inductive ConnMode
  | down | connecting | up | failed
  deriving DecidableEq, Repr

/-- The load engine's own state (R407, R421). -/
structure LoadState where
  conns : Sparse ConnMode
  /-- Blocks that the checkpoint engine has written to storage, newest first: connection, NSID, LBA and
  bytes. -/
  stored : List (Nat × Nat × Nat × List Byte)
  /-- Cove masks of the connections, as read from their descriptors. -/
  connCoves : Sparse Nat
  pq : LoadQueue
  deriving DecidableEq, Repr

/-- The load engine after reset. -/
def LoadState.reset : LoadState := { conns := [], stored := [], connCoves := [], pq := LoadQueue.reset }

end Sys2Proof.Machine
end

