-- ==== Sys2Proof/Machine/FabricState.lean ====
section
/-!
DEFINITION. The state of the ports, the routing tables, the tide counter and the tide tables
(chapters The Tideway Fabric; Tide Time, Tide Tables and Admission).
-/
namespace Sys2Proof.Machine

/-- The port states of R255. -/
inductive PortMode
  | absent | seeking | training | active | retraining | fenced
  deriving DecidableEq, Repr

/-- What a port has received and not yet passed on, in arrival order (R251): a codeword with its sequence, its flits once
decoded and how many of them have been taken, or a packet. -/
inductive RxItem
  | codeword (seq : Nat) (flits : Option (List (List Byte))) (skip : Nat)
  | packet (p : Packet)
  deriving DecidableEq, Repr

/-- A codeword sent: its flits, and what its link-control field says (R250). A replay carries no new flits. -/
structure TxCodeword where
  flits : List (List Byte)
  replay : Option Nat
  nak : Option Nat
  /-- Start of the port slot in which it left, and of the next one (R253). -/
  slot : Tick
  slotEnd : Tick
  deriving DecidableEq, Repr

/-- One Tideway port (R239, R250 to R259, R280 to R283). -/
structure Port where
  mode : PortMode
  present : Bool
  /-- FAB_STATUS.FEC: the code in use is RS(544,514). -/
  rs : Bool
  miswire : Bool
  /-- FAB_STATUS.CAUSE. -/
  cause : Nat
  /-- Tick of the last change of state. -/
  changed : Tick
  /-- FAB_CTRL.EN, FEC, HFENCE. -/
  en : Bool
  fecReq : Bool
  hfence : Bool
  /-- The host's fence stands: HFENCE was set or EN cleared, and nothing has released it (R282). -/
  hostFence : Bool
  /-- FAB_PARTNER. -/
  partner : Word
  /-- Flight f rounded to ps, and the link term 3X in ns (R256, R280). -/
  flight : Nat
  linkTerm : Nat
  cntCorr : Nat
  cntUncorr : Nat
  cntReplay : Nat
  cntLate : Nat
  cntRetrain : Nat
  cntRefused : Nat
  /-- Worst eye margins of the two lanes, and their symbol error ratios of the last 10 ms; none before the first. -/
  eye0 : Nat
  eye1 : Nat
  ser0 : Option Nat
  ser1 : Option Nat
  /-- Symbol error figures measured at the last training (R258). -/
  trainSer0 : Nat
  trainSer1 : Nat
  wear : Nat
  /-- Ticks of the retrains of the last 10 minutes (R258). -/
  retrains : List Tick
  /-- Training: start tick and the next phase to end, 1 to 7 (R256). -/
  trainStart : Tick
  phase : Nat
  /-- Start tick of the last 10 ms seeking pattern (R255). -/
  pattern : Tick
  /-- Transmitter equalisation settings, and whether the partner asked for precoding on each lane, as phase 2 exchanged them;
  what this end asked for (R241, R256). -/
  txEq : Nat
  txPre0 : Bool
  txPre1 : Bool
  rxPre0 : Bool
  rxPre1 : Bool
  /-- The last PAM4 level sent and received on each lane, for the precoding (R241). -/
  txLevel0 : Nat
  txLevel1 : Nat
  /-- When the first symbol crossed the line, in 1/256 ns, of codewords that are held or being taken, by number, of the
  one that holds the header in progress, and of the one being taken (R291). -/
  rxStamps : Sparse Nat
  rxStamp : Nat
  rxNext : Nat
  rxLevel0 : Nat
  rxLevel1 : Nat
  /-- The tick at which the link became active; codewords sent and received since (R250). -/
  since : Tick
  txSeq : Nat
  rxSeq : Nat
  /-- Flits that wait for a codeword, oldest first (R261). -/
  txFlits : List (List Byte)
  /-- The replay buffer: the last 256 or 4,096 codewords, newest first (R251). -/
  txBuf : List TxCodeword
  /-- Codewords to replay, and to name in a NAK, next (R250, R251). -/
  replays : List Nat
  nakOut : List Nat
  /-- NAKs that await their replays: the codeword, the tick at which its last NAK left, and NAKs that have left. -/
  naks : List (Nat × Tick × Nat)
  /-- What is held behind an undecoded codeword (R251). -/
  rxHeld : List RxItem
  /-- The packet in progress: its header and the data flits received (R261). -/
  rxHeader : Option (List Byte)
  rxData : List (List Byte)
  /-- Guards taken: this slot's first replay, and the next slot's guard (R253). -/
  guardTaken : Bool
  nextGuardTaken : Bool
  /-- Start of the slot that `guardTaken` speaks of, and of the slot after it. -/
  guardSlot : Tick
  guardEnd : Tick
  /-- Tick at which held codewords were released after a second retry (R253). -/
  rxRetry : Option Tick
  /-- Unacknowledged packets kept for a resend, oldest first (R266). -/
  unacked : List Packet
  /-- Codewords NAKed for a header of reserved type (R263). -/
  reserved : List Nat
  /-- Ticks of the uncorrectable codewords of the last millisecond (R258). -/
  uncorr : List Tick
  deriving DecidableEq, Repr

/-- A port with nothing connected. FAB_CTRL is settings-derived; the default settings disable
every port (R656). -/
def Port.reset : Port :=
  { mode := .absent, present := false, rs := false, miswire := false, cause := 0, changed := 0,
    en := false, fecReq := true, hfence := false, hostFence := false, partner := 0#32, flight := 0, linkTerm := 0,
    cntCorr := 0, cntUncorr := 0, cntReplay := 0, cntLate := 0, cntRetrain := 0, cntRefused := 0,
    eye0 := 0, eye1 := 0, ser0 := none, ser1 := none, trainSer0 := 0, trainSer1 := 0, wear := 0,
    retrains := [], trainStart := 0, phase := 0, pattern := 0, txEq := 0, txPre0 := false, txPre1 := false,
    rxPre0 := false, rxPre1 := false, txLevel0 := 0, txLevel1 := 0, rxStamps := [], rxStamp := 0, rxNext := 0, rxLevel0 := 0, rxLevel1 := 0, since := 0, txSeq := 0, rxSeq := 0,
    txFlits := [], txBuf := [], replays := [], nakOut := [], naks := [], rxHeld := [], rxHeader := none, rxData := [],
    guardTaken := false, nextGuardTaken := false, guardSlot := 0, guardEnd := 0, rxRetry := none,
    unacked := [], reserved := [], uncorr := [] }

/-- The outcome bits of a switch control register (R332, R275). -/
structure SwitchCtrl where
  arm : Bool
  done : Bool
  refused : Bool
  reapply : Bool
  reason : Nat
  entry : Nat
  deriving DecidableEq, Repr

/-- A switch control register after reset. -/
def SwitchCtrl.reset : SwitchCtrl :=
  { arm := false, done := false, refused := false, reapply := false, reason := 0, entry := 0 }

/-- A packet that waits for a slot of its class (R266, R268, R271, R305): a read or atomic response, a notice, an
acknowledgement, a status or time-transfer packet, a packet of the movers or the headland, or one in transit. -/
structure OutPacket where
  /-- The unit whose routing copy it follows: compute dies 0 to 63, shore dies from 64. -/
  unit : Nat
  /-- The cove whose slots it uses; none when any cove's slot of the class will do. -/
  cove : Option Nat
  /-- The class of the slot: 0 for acknowledgements, status packets and time transfer. -/
  cls : Nat
  /-- A port fixed beforehand. -/
  port : Option Nat
  /-- The path bound is added to the tick at which its last byte leaves (R270); a packet in transit keeps its due tick. -/
  bounded : Bool
  packet : Packet
  deriving DecidableEq, Repr

/-- The ports, the routing tables and the link streams. -/
structure FabState where
  ports : Sparse Port
  /-- Routing entries, key 65,536 × bank + module ID: the headland's master copy (R274). -/
  routes : Sparse DWord
  routeBank : Bool
  /-- Bits of the dies (compute 0 to 63, shore 64 to 79) that kept the old bank. -/
  routeLag : List Nat
  routeIndex : Word
  routeTick : DWord
  routeCtrl : SwitchCtrl
  /-- The last module switch carried the routing bank (R274, R309). -/
  routeCarried : Bool
  /-- One above the tick of the last write that is copied to the dies (R275). -/
  routeWritten : Tick
  /-- Next stream sequence, by stream key (R266). -/
  txStream : Sparse Nat
  /-- One above the last sequence delivered, by stream key; 0 before the first. -/
  rxStream : Sparse Nat
  /-- Job tag and descriptor tag of a stream's last packet, for its acknowledgement (R670). -/
  rxLast : Sparse (Nat × Nat)
  /-- Packets received since the last acknowledgement, by stream key. -/
  rxSinceAck : Sparse Nat
  /-- Packets that wait for a slot, oldest first. -/
  waiting : List OutPacket
  /-- Accesses to the die-control and shore-control regions that wait for their controller, oldest first, with the port they
  came by (R208). -/
  control : List (Nat × Packet)
  /-- Packets sent, newest first, with the port and the tick at which the last byte leaves (R268): the module's output. -/
  sent : List (Nat × Tick × Packet)
  /-- Codewords sent, newest first, as the levels of the two lanes with the port and the tick. -/
  lanes : List (Nat × Tick × List Nat × List Nat)
  deriving DecidableEq, Repr

/-- The fabric after reset. -/
def FabState.reset : FabState :=
  { ports := [], routes := [], routeBank := false, routeLag := [], routeIndex := 0#32,
    routeTick := 0#64, routeCtrl := SwitchCtrl.reset, routeCarried := false, routeWritten := 0, txStream := [], rxStream := [], rxLast := [],
    rxSinceAck := [], waiting := [], control := [], sent := [], lanes := [] }

/-- A cove's part of the TIDE block and its tables (R328, R331). -/
structure CoveTide where
  bank : Bool
  gen : Nat
  clock : Nat
  hot : Bool
  slack : Bool
  held : Bool
  cause : Nat
  skew : Bool
  switchTick : DWord
  ctrl : SwitchCtrl
  /-- The switch stays pending because an earlier action was deferred (R49). -/
  pending : Bool
  /-- Dies and shore dies that kept the old bank at the last switch (R311). -/
  lag : Sparse Bool
  lagShore : Sparse Bool
  restart : DWord
  stepStart : Tick
  /-- Bank, generation and clock point that lagging units kept (R311). -/
  prevBank : Bool
  prevGen : Nat
  prevClock : Nat
  /-- Tick at which the current slack water began, and ends. -/
  slackStart : Tick
  /-- Dies whose clock change is in progress issue nothing until this tick (R325). -/
  clockBusy : Tick
  /-- A thermal trip moved the dies to 0.9 GHz and no slack water has returned them (R630). -/
  slow : Bool
  deriving DecidableEq, Repr

/-- A cove's tide state after reset. -/
def CoveTide.reset : CoveTide :=
  { bank := false, gen := 0, clock := 0, hot := false, slack := false, held := false, cause := 0,
    skew := false, switchTick := 0#64, ctrl := SwitchCtrl.reset, pending := false, lag := [], lagShore := [],
    restart := 0#64, stepStart := 0, prevBank := false, prevGen := 0, prevClock := 0,
    slackStart := 0, clockBusy := 0, slow := false }

/-- A packet held for a generation (R314): the die, the packet, its port and its arrival tick. -/
structure HeldPacket where
  die : Nat
  port : Nat
  packet : Packet
  tick : Tick
  deriving DecidableEq, Repr

/-- The tide counter, time transfer and the table banks (R285 to R333). -/
structure TideState where
  now : Tick
  /-- The reference clock is present; the PLL is locked; the first mark has set the counter. -/
  ref : Bool
  lock : Bool
  marked : Bool
  /-- Tick at which an absent reference was noticed or at which relocking ends. -/
  refTick : Tick
  aligned : Bool
  holdover : Bool
  depth : Nat
  pvalid : Bool
  parent : Nat
  tripVoid : Bool
  rootSeen : Nat
  /-- Stacks in hot refresh (R322). -/
  hot : List Nat
  hotVoid : Bool
  /-- TIDE_CTRL as written; role and root act from the next module reset. -/
  ctrl : DWord
  role : Nat
  root : Nat
  parents : Word
  /-- Median θ in 1/256 ns, the last 8 values, and how many of them were within 2 ns in a row. -/
  theta : Int
  thetas : List Int
  goodRun : Nat
  /-- Ticks slewed toward the median since the last exchange, and that exchange's tick. -/
  slewed : Int
  lastExchange : Tick
  lastSlew : Tick
  /-- What each port's module last announced: aligned, depth, root module ID (R290). -/
  heard : Sparse (Option (Bool × Nat × Nat))
  /-- Send stamps of requests that await their response, per port, in 1/256 ns, plus 1; 0 is none. -/
  requests : Sparse Nat
  epoch : DWord
  /-- The epoch value that the start in force took: 0, or the one-start override (R590). -/
  epochStart : DWord
  mgen : Nat
  cycleExp : Nat
  mbank : Bool
  mhot : Bool
  prevMgen : Nat
  mhdr : Word
  mswitchTick : DWord
  mswitchCtrl : SwitchCtrl
  index : Word
  /-- Table entries, key ((kind × 64 + instance) × 2 + bank) × 4096 + entry (R295). -/
  tables : Sparse DWord
  boundBay : Nat
  boundHall : Nat
  lag : Sparse Bool
  lagShore : Sparse Bool
  withhold : Nat
  /-- Changes of the level, newest first: a new level acts from a table's next cycle boundary
  (R326). -/
  withholdLog : List (Tick × Nat)
  calm : Nat
  cntSlip : Nat
  cntOverrun : Nat
  cntHold : Nat
  cntReject : Nat
  asym : Sparse Word
  coves : Sparse CoveTide
  heldPackets : List HeldPacket
  /-- Bytes already admitted per resource in the current 64-tick window, and that window. -/
  window : Nat
  windowUse : Sparse Nat
  /-- Bytes of the current slot already taken per port, and that slot's start (R304). -/
  portUse : Sparse Nat
  /-- A cove has started since the last module reset (R286). -/
  started : Bool
  /-- Stolen and scheduled refreshes done per stack, with the last window's tick (R321). -/
  lastRefresh : Sparse Nat
  deriving DecidableEq, Repr

/-- The tide after reset: the counter reads 0, single role by default settings (R656). -/
def TideState.reset : TideState :=
  { now := 0, ref := false, lock := false, marked := false, refTick := 0, aligned := false,
    holdover := false, depth := 0, pvalid := false, parent := 0, tripVoid := false, rootSeen := 0,
    hot := [], hotVoid := false, ctrl := 0#64, role := 0, root := 0, parents := 0#32, theta := 0,
    thetas := [], goodRun := 0, slewed := 0, lastExchange := 0, lastSlew := 0, heard := [], requests := [],
    epoch := 0#64, epochStart := 0#64, mgen := 0, cycleExp := 0, mbank := false, mhot := false, prevMgen := 0,
    mhdr := 0#32, mswitchTick := 0#64, mswitchCtrl := SwitchCtrl.reset, index := 0#32,
    tables := [], boundBay := 250, boundHall := 250, lag := [], lagShore := [], withhold := 0, withholdLog := [],
    calm := 0, cntSlip := 0, cntOverrun := 0, cntHold := 0, cntReject := 0, asym := [],
    coves := [], heldPackets := [], window := 0, windowUse := [], portUse := [], started := false,
    lastRefresh := [] }

end Sys2Proof.Machine
end

