-- ==== Sys2Proof/Machine/HealthState.lean ====
section
/-!
DEFINITION. The state of the integrity, recovery and observability units (chapters Determinism,
Tallies and Silent-Error Defence; Faults, the Recovery Ladder and Double Faults; Counters, Wait
Tracing and the Strandline).
-/
namespace Sys2Proof.Machine

/-- The severities of R26. -/
inductive Severity
  | corrected | stepContained | coveFatal | moduleFatal
  deriving DecidableEq, Repr

/-- One recorded event: what its error record (R519) and its strandline entry (R543) hold. -/
structure Event where
  code : Nat
  severity : Severity
  /-- Cove charged, or 16 for the module; a record shows 0xF. -/
  cove : Nat
  /-- Reporter (R520). -/
  reporter : Nat
  tick : Tick
  /-- Step counter of the cove charged, or 0. -/
  step : Nat
  /-- Events represented: 1, or a summary's count. -/
  count : Nat
  /-- The source's counter after the event (R517). -/
  srcCount : Nat
  summary : Bool
  lastTick : Tick
  /-- The values of R671, in order. -/
  detail : List Nat
  deriving DecidableEq, Repr

/-- An error ring (R518, R525). -/
structure ErrRing where
  wr : Nat
  rd : Nat
  /-- Records from RD to WR, oldest first. -/
  recs : List Event
  coalesced : Nat
  lost : Nat
  /-- An episode of coalescing is open, with the events it coalesced (R521). -/
  episode : Option Nat
  deriving DecidableEq, Repr

/-- An empty ring. -/
def ErrRing.reset : ErrRing :=
  { wr := 0, rd := 0, recs := [], coalesced := 0, lost := 0, episode := none }

/-- A strandline entry with its sequence number (R543). -/
structure StrandEntry where
  seq : Nat
  event : Event
  /-- Shore die holding the headland role, powered hours and module resets. -/
  headland : Nat
  hours : Nat
  resets : Nat
  /-- The tick was not yet valid. -/
  early : Bool
  /-- Written by the mask ROM or the boot firmware. -/
  boot : Bool
  deriving DecidableEq, Repr

/-- A fetch in progress for a function (R525, R536, R547, R511). -/
structure Fetch where
  kind : Nat
  /-- Set or ring, count, start and filter, as the fetch names them. -/
  what : Nat
  count : Nat
  start : Nat
  filter : Option Nat
  /-- Snapshots taken since the fetch started (R536). -/
  snaps : Nat
  deriving DecidableEq, Repr

/-- A wait record (R538). -/
structure WaitRec where
  tick : Tick
  length : Nat
  waiter : Nat
  ctx : Nat
  level : Nat
  round2 : Bool
  afterDeadline : Bool
  dropped : Bool
  switched : Bool
  kind : Nat
  call : Nat
  group : Nat
  slot : Nat
  module : Nat
  core : Nat
  step : Nat
  deriving DecidableEq, Repr

/-- The wait trace of a cove (R537 to R542). -/
structure WaitTrace where
  /-- TRACE_C_WT_CTRL as written and as in force since the last step start. -/
  ctrl : Word
  inForce : Word
  thresh : Nat
  wr : Nat
  rd : Nat
  dropped : Nat
  dropState : Bool
  recs : List WaitRec
  deriving DecidableEq, Repr

/-- The wait trace after reset: off. -/
def WaitTrace.reset : WaitTrace :=
  { ctrl := 0#32, inForce := 0#32, thresh := 0, wr := 0, rd := 0, dropped := 0, dropState := false,
    recs := [] }

/-- A snapshot of every counter at a tide mark (R533, R536); tick 0 is none. -/
structure Snapshot where
  tick : Tick
  counters : Sparse Nat
  cove : Sparse Nat
  sources : Sparse Nat
  coveSources : Sparse Nat
  deriving DecidableEq, Repr

/-- No snapshot. -/
def Snapshot.reset : Snapshot := { tick := 0, counters := [], cove := [], sources := [], coveSources := [] }

/-- Counters, rings, the wait trace and the strandline. -/
structure TraceState where
  /-- Module copies, key (set × 2048 + unit) × 32 + index (R528 to R531). -/
  counters : Sparse Nat
  /-- Cove copies, key ((cove × 8 + set) × 2048 + unit) × 32 + index. -/
  coveCounters : Sparse Nat
  /-- Source counters, key code × 2048 + reporter (R517). -/
  sources : Sparse Nat
  /-- Source counts charged to a cove, key (cove × 65536 + code) × 2048 + reporter (R535). -/
  coveSources : Sparse Nat
  /-- The latest and the previous snapshot (R533). -/
  snap : Snapshot
  prevSnap : Snapshot
  rings : Sparse ErrRing
  /-- Pending summaries of the summary store, oldest first; the ring of each comes first. -/
  summaries : List (Nat × Event)
  waits : Sparse WaitTrace
  /-- Die buffers of wait records with their cove (R540). -/
  dieBuf : Sparse (List (Nat × WaitRec))
  /-- Strandline: next sequence, durable sequence, checkpoint sequence of the header, entries in
  MRAM, the write queue and its summaries. -/
  slSeq : Nat
  slDurable : Nat
  slCheckpoint : Nat
  slEntries : List StrandEntry
  slQueue : List StrandEntry
  slSummaries : List Event
  slFail : Bool
  slRebuilt : Bool
  slMaxQueue : Nat
  slCoalesced : Nat
  /-- Episode of strandline coalescing. -/
  slEpisode : Option Nat
  /-- Fetches in progress, key kind × 32 + function. -/
  fetches : Sparse (Option Fetch)
  deriving DecidableEq, Repr

/-- After a first power-on: nothing counted, an empty strandline. -/
def TraceState.reset : TraceState :=
  { counters := [], coveCounters := [], sources := [], coveSources := [], snap := Snapshot.reset, prevSnap := Snapshot.reset,
    rings := [], summaries := [], waits := [],
    dieBuf := [], slSeq := 0, slDurable := 0, slCheckpoint := 0, slEntries := [], slQueue := [],
    slSummaries := [], slFail := false, slRebuilt := false, slMaxQueue := 0, slCoalesced := 0,
    slEpisode := none, fetches := [] }

/-- A chaff digest posted in a round (R475). -/
structure ChaffPost where
  round : Nat
  core : Nat
  digest : DWord
  deriving DecidableEq, Repr

/-- A chaff arbitration in progress (R476). -/
structure Arbitration where
  round : Nat
  /-- Start tick of the chaff slot, which keys the operands (R474). -/
  slot : Tick
  /-- The two members, or the suspect core twice for a directed check. -/
  members : List Nat
  directed : Bool
  arbiters : List Nat
  /-- Digests so far, core by core. -/
  digests : List (Nat × DWord)
  deriving DecidableEq, Repr

/-- A life-ledger unit record (R487); version 1 and the kind follow from the unit. -/
structure LedgerRec where
  hours : Nat
  binHours : List Nat
  worstMargin : Int
  marginHour : Nat
  eyes : List Nat
  corrected : Nat
  uncorrectable : Nat
  reruns : Nat
  suspects : Nat
  chaffLost : Nat
  hangs : Nat
  tallyFails : Nat
  fences : Nat
  lastFence : Nat
  peakWear : Nat
  wear : Nat
  retired : Nat
  deriving DecidableEq, Repr

/-- An empty unit record. -/
def LedgerRec.reset : LedgerRec :=
  { hours := 0, binHours := [0, 0, 0, 0, 0, 0, 0, 0], worstMargin := 0, marginHour := 0,
    eyes := [], corrected := 0, uncorrectable := 0, reruns := 0, suspects := 0, chaffLost := 0,
    hangs := 0, tallyFails := 0, fences := 0, lastFence := 0, peakWear := 0, wear := 0,
    retired := 0 }

/-- A fence entry of the ledger (R488). -/
structure FenceEntry where
  tick : Tick
  hours : Nat
  kind : Nat
  cause : Nat
  unit : Nat
  detail : Nat
  deriving DecidableEq, Repr

/-- A copy of the ledger in NVM (R485, R486): sequence, module hours, unit records, units fenced then,
fence entries and the sticky fences. -/
structure LedgerCopy where
  seq : Nat
  hours : Nat
  ledger : Sparse LedgerRec
  fenced : Sparse Nat
  log : List FenceEntry
  total : Nat
  sticky : List Nat
  deriving DecidableEq, Repr

/-- A region that was never written. -/
def LedgerCopy.reset : LedgerCopy :=
  { seq := 0, hours := 0, ledger := [], fenced := [], log := [], total := 0, sticky := [] }

/-- Fences, chaff runs, wear and the life ledger (R472 to R490). -/
structure HealthState where
  /-- Fence causes in force, by unit; 0 is unfenced (R480). -/
  coreFence : Sparse Nat
  clusterFence : Sparse Nat
  dieFence : Sparse Nat
  shoreFence : Sparse Nat
  /-- Optical engines fenced. -/
  opticFence : Sparse Nat
  /-- Dies whose link routers are fenced too (R34). -/
  routerFence : Sparse Bool
  /-- Retired frames, stack × 1024 + frame (R465). -/
  retired : List Nat
  stackFailed : List Nat
  /-- Sticky fences as kind × 65536 + unit, and those to clear at the next module reset. -/
  sticky : List Nat
  clearNext : List Nat
  shapeGen : Nat
  /-- Accesses refused at targets that no cove owns: the module view of R210. -/
  refused : Nat
  chaffEn : Bool
  suspectLimit : Nat
  compared : Nat
  mismatch : Nat
  missed : Nat
  posts : List ChaffPost
  arbs : List Arbitration
  /-- Cores owed a directed check (R472). -/
  directed : List Nat
  /-- The last round in which each core's chaff run has started, as round + 1, and the start tick of the chaff slot that its
  operands are drawn with (R474). -/
  chaffRan : Sparse Nat
  chaffSlot : Sparse Tick
  /-- Start tick of each core's last maintenance span (R472). -/
  spanStart : Sparse Tick
  /-- Tick at which a die controller last completed a periodic duty of R125, key die × 16 + duty (log entry 83). -/
  dutyDone : Sparse Tick
  /-- Suspect events, key core, with the hour bucket they belong to. -/
  suspectHour : Nat
  suspects : Sparse Nat
  /-- Wear inputs, key ((kind × 128 + unit) × 8 + input) × 24 + bucket, and the scores. -/
  wearHour : Nat
  wearIn : Sparse Nat
  wear : Sparse Nat
  wearSum : Sparse Nat
  /-- Condemnations of the last 24 hours: HBM frame or near-memory die, with their tick. -/
  frameCondemned : List (Nat × Tick)
  nearCondemned : List (Nat × Tick)
  ledger : Sparse LedgerRec
  fenceLog : List FenceEntry
  fenceTotal : Nat
  ledgerSeq : Nat
  /-- The copies in NVM: ledger regions of slots A (0) and B (1). -/
  nvm : Sparse LedgerCopy
  poweredHours : Nat
  /-- Worst margin read in the running hour, by compute die (R125). -/
  margin : Sparse (Option Int)
  /-- Worst eye margins of a compute die's torus links in the hour, north, east, south, west (R487). -/
  torusEyes : Sparse (List Nat)
  /-- Key of chaff operands (R82, R595). -/
  chaffKey : DWord
  deriving DecidableEq, Repr

/-- Health after a first power-on with an empty ledger and default settings (R656). -/
def HealthState.reset : HealthState :=
  { coreFence := [], clusterFence := [], dieFence := [], shoreFence := [], opticFence := [],
    routerFence := [], retired := [], stackFailed := [], sticky := [], clearNext := [],
    shapeGen := 0, refused := 0, chaffEn := true, suspectLimit := 8, compared := 0, mismatch := 0, missed := 0,
    posts := [], arbs := [], directed := [], chaffRan := [], chaffSlot := [], spanStart := [], dutyDone := [], suspectHour := 0, suspects := [],
    wearHour := 0, wearIn := [], wear := [], wearSum := [], frameCondemned := [],
    nearCondemned := [], ledger := [], fenceLog := [], fenceTotal := 0, ledgerSeq := 0,
    nvm := [], poweredHours := 0, margin := [], torusEyes := [], chaffKey := 0#64 }

/-- A recovery of the headland (R494 to R505). -/
structure Recovery where
  rung : Nat
  cove : Nat
  cause : Nat
  start : Tick
  /-- Tick and reporter of the fault, for the wrack sample (R510). -/
  fault : Tick
  reporter : Nat
  /-- Rung 2: engine (0 matrix, 1 vector, 2 wain, 3 thresher, 4 sequencer), core, and the context that hung, 5 none. -/
  engine : Nat
  core : Nat
  ctx : Nat
  /-- Rung 2: the suspects still to test, and the one under test; the context that hung comes first. -/
  suspects : List Nat
  testing : Option Nat
  /-- Tick at which the test of the suspect begins: a cycle boundary for a job context (R505). -/
  testFrom : Tick
  /-- An atomic of a reset wain was not issued again: the step is discarded at the end (R502). -/
  redo : Bool
  /-- The actions of the rung have begun: false right after an escalation. -/
  begun : Bool
  deriving DecidableEq, Repr

/-- A recovery waiting for its turn (R495, R513): engine 4 is the context's sequencer, context 5 none. -/
structure QueuedRecovery where
  cove : Nat
  rung : Nat
  cause : Nat
  tick : Tick
  reporter : Nat
  engine : Nat
  core : Nat
  ctx : Nat
  deriving DecidableEq, Repr

/-- Recovery state a cove shows (R524). -/
structure CoveRecov where
  rung : Nat
  active : Bool
  cause : Nat
  count : Nat
  tick : Tick
  contained : Bool
  /-- A step was in progress when the cove was contained. -/
  inStep : Bool
  deriving DecidableEq, Repr

/-- A cove with no recovery behind it. -/
def CoveRecov.reset : CoveRecov :=
  { rung := 0, active := false, cause := 0, count := 0, tick := 0, contained := false,
    inStep := false }

/-- A captured region of a wrack sample, with the kinds of R510. -/
structure WrackPart where
  kind : Nat
  ctx : Nat
  unit : Nat
  offset : Nat
  bytes : List Byte
  deriving DecidableEq, Repr

/-- A wrack sample in its slot (R508 to R510). -/
structure Wrack where
  rung : Nat
  cause : Nat
  tick : Tick
  step : Nat
  cove : Nat
  reporter : Nat
  parts : List WrackPart
  deriving DecidableEq, Repr

/-- The headland, its recoveries and the wrack area (R499 to R526). -/
structure RecovState where
  current : Option Recovery
  queue : List QueuedRecovery
  coves : Sparse CoveRecov
  autoCove : Bool
  autoMod : Bool
  /-- Module-fatal fault pending or module reset in progress. -/
  moduleFatal : Option Nat
  /-- Tick and reporter of the module-fatal fault (R510). -/
  fatalFrom : Tick × Nat
  resetting : Bool
  lastKind : Nat
  lastCause : Nat
  resets : Nat
  headland : Nat
  moves : Nat
  /-- Liveness ticks of the shore-die controllers (R514). -/
  liveness : Sparse Nat
  /-- The role is moving since this tick. -/
  moving : Option Tick
  unclaimed : Bool
  wracks : Sparse (Option Wrack)
  wrackNewest : Nat
  wrackMissed : Nat
  wrackCopy : Option Nat
  heartbeat : Nat
  fedTick : Tick
  /-- Boot firmware has stopped feeding the heartbeat (R516). -/
  starved : Bool
  /-- Hangs charged to engines: core × 8 + engine, with their tick (R506). -/
  charged : List (Nat × Tick)
  /-- Tick of the last engine reset, key core × 8 + engine (R504). -/
  engineReset : Sparse Nat
  deriving DecidableEq, Repr

/-- Recovery state after a first power-on; default settings answer faults by themselves (R656). -/
def RecovState.reset : RecovState :=
  { current := none, queue := [], coves := [], autoCove := true, autoMod := true,
    moduleFatal := none, fatalFrom := (0, 0), resetting := false, lastKind := 0, lastCause := 0,
    resets := 0, headland := 0, moves := 0, liveness := [], moving := none, unclaimed := false,
    wracks := [], wrackNewest := 0, wrackMissed := 0, wrackCopy := none, heartbeat := 0,
    fedTick := 0, starved := false, charged := [], engineReset := [] }

end Sys2Proof.Machine
end

