-- ==== Sys2Proof/Machine/HostState.lean ====
section
/-!
DEFINITION. The state of the host interface, the boot memory and firmware, the power and thermal
units and the management buses (chapters Host Interface and Register Map; Boot, Settings Store and
Live Update; Management Buses, Power and the Technician; Electrical, Mechanical and Environmental
Data).
-/
namespace Sys2Proof.Machine

/-- A status line of R563 before its sequence and CRC are formed. -/
structure StatusLine where
  tick : Tick
  kind : Nat
  cove : Nat
  /-- The 44 bytes from 0x10 to 0x3B. -/
  body : List Byte
  deriving DecidableEq, Repr

/-- One function's status ring (R562, R569). Its BASE is in `HostState.regs`. -/
structure StatusRing where
  ctrl : Word
  wr : Nat
  rd : Nat
  dropped : Nat
  /-- Completion lines waiting in the pending store, oldest first. -/
  pending : List StatusLine
  /-- Places reserved by actions in progress. -/
  reserved : Nat
  /-- An episode of dropped notices (event 0xB020) and of a full store (0xB021) is open. -/
  dropEpisode : Bool
  fullEpisode : Bool
  deriving DecidableEq, Repr

/-- A status ring after reset: disabled. -/
def StatusRing.reset : StatusRing :=
  { ctrl := 0#32, wr := 0, rd := 0, dropped := 0, pending := [], reserved := 0,
    dropEpisode := false, fullEpisode := false }

/-- One PCIe function: 0 physical, 1 to 16 virtual (R555). -/
structure HostFn where
  ring : StatusRing
  /-- Upper half latched by a lower-half read: the register's offset and the half (R23). -/
  readLatch : Option (Nat × Word)
  /-- Lower half held by a lower-half write (R23). -/
  writeHeld : Option (Nat × Word)
  /-- Configuration space by dword offset, where it differs from its reset value. -/
  config : Sparse Word
  d3hot : Bool
  deriving DecidableEq, Repr

/-- A function after reset. -/
def HostFn.reset : HostFn :=
  { ring := StatusRing.reset, readLatch := none, writeHeld := none, config := [], d3hot := false }

/-- A write that the module makes to host memory: function, address and bytes (R565). -/
structure HostWrite where
  fn : Nat
  iova : Nat
  bytes : List Byte
  deriving DecidableEq, Repr

/-- The host interface. -/
structure HostState where
  /-- Plain registers by BAR0 offset of the physical function; an absent one reads its reset value. -/
  regs : Sparse DWord
  fns : Sparse HostFn
  linkUp : Bool
  rate : Nat
  width : Nat
  vfEnable : Bool
  numVfs : Nat
  /-- HOST_HOSTERR (R569). -/
  hosterr : DWord
  /-- BAR0 writes that wait for the new headland (R558). -/
  moveQueue : List Instr
  /-- The data of the last BAR0 or configuration read, all ones when none answered. -/
  readData : DWord
  /-- Writes made to host memory, newest first: the module's output. -/
  written : List HostWrite
  /-- Identity values of R570: vendor, stepping, board and serial number. -/
  vendor : BitVec 16
  stepping : BitVec 8
  board : BitVec 8
  serial : DWord
  deriving DecidableEq, Repr

/-- The host interface after power-on. -/
def HostState.reset : HostState :=
  { regs := [], fns := [], linkUp := false, rate := 0, width := 0, vfEnable := false, numVfs := 0,
    hosterr := 0#64, moveQueue := [], readData := 0#64, written := [], vendor := 0#16,
    stepping := 0#8, board := 0#8, serial := 0#64 }

/-- A boot-log record (R589). -/
structure BootRec where
  seq : Nat
  next : Nat
  fallback : Bool
  safeHarbour : Bool
  override : Bool
  countA : Nat
  countB : Nat
  kind : Nat
  ovCtrl : DWord
  ovEpoch : DWord
  deriving DecidableEq, Repr

/-- As if no valid record existed: next slot A, every count 0 (R589). -/
def BootRec.reset : BootRec :=
  { seq := 0, next := 0, fallback := false, safeHarbour := false, override := false, countA := 0,
    countB := 0, kind := 0, ovCtrl := 0#64, ovEpoch := 0#64 }

/-- A firmware command in progress (R578, R604 to R607). -/
structure FwBusy where
  op : Nat
  slot : Nat
  /-- The code it will end with. -/
  code : Nat
  moved : Nat
  /-- Operation 1: the image that the slot holds after a good write. -/
  image : Option FwImage
  /-- Operation 2: the store to write. -/
  store : List Byte
  deriving DecidableEq, Repr

/-- A live update in progress: order 1 to 7, the unit within it, and units skipped (R607). -/
structure LiveUpdate where
  order : Nat
  unit : Nat
  skipped : Nat
  applied : Bool
  deriving DecidableEq, Repr

/-- Boot memory, boot log, fuses, settings and firmware commands. -/
structure FwState where
  /-- The record that governs (R589). -/
  bootRec : BootRec
  /-- Records in the current boot-log sector, and the device that holds it (R589). -/
  logCount : Nat
  logDevice : Nat
  /-- The last record in the other device's sector, and the records it holds; none once it is erased. -/
  otherRec : BootRec
  otherCount : Nat
  /-- Devices that failed SFDP discovery at the last power-good: 0 of slot A, 1 of slot B (R582). -/
  noDevice : List Nat
  imageA : Option FwImage
  imageB : Option FwImage
  /-- Blown key fuses. -/
  fuses : BitVec 4
  /-- The settings copies of the devices of slots A and B. -/
  settingsA : List Byte
  settingsB : List Byte
  /-- The copy that the current start took. -/
  taken : List Byte
  running : Nat
  /-- Version and schema bounds of the running image. -/
  image : Option FwImage
  romHold : Bool
  /-- MOD_STATE. -/
  ready : Bool
  mode : Nat
  shcause : Nat
  /-- Nanoseconds on the internal oscillator since the start or the reset began (R601, R602). -/
  osc : Nat
  /-- Nanoseconds since power-good. -/
  upTime : Nat
  /-- The health check of R592 runs from this reading of `osc`, and has passed. -/
  checkFrom : Nat
  passed : Bool
  /-- A failed condition of R592 since READY. -/
  checkFailed : Bool
  busy : Option FwBusy
  /-- FW_RESULT. -/
  result : Word
  live : Option LiveUpdate
  /-- The last stop was orderly (R633). -/
  orderly : Bool
  deriving DecidableEq, Repr

/-- The firmware state of a module that has never been started. -/
def FwState.reset : FwState :=
  { bootRec := BootRec.reset, logCount := 0, logDevice := 0, otherRec := BootRec.reset, otherCount := 0,
    noDevice := [], imageA := none, imageB := none,
    fuses := 0#4, settingsA := [], settingsB := [], taken := [], running := 0, image := none,
    romHold := false, ready := false, mode := 0, shcause := 0, osc := 0, upTime := 0, checkFrom := 0,
    passed := false, checkFailed := false, busy := none, result := 0#32,
    live := none, orderly := false }

/-- Telemetry of one die, compute 0 to 63 (R579), shore 64 to 79. -/
structure DieTelem where
  vcore : Nat
  icore : Nat
  /-- Power of the die's rails in mW (R623). -/
  power : Nat
  temp : Int
  peak : Int
  margin : Int
  deriving DecidableEq, Repr

/-- No telemetry yet. -/
def DieTelem.reset : DieTelem := { vcore := 0, icore := 0, power := 0, temp := 0, peak := 0, margin := 0 }

/-- Input, rails, the cap and temperatures (R576, R625 to R630, R639 to R643). -/
structure PwrState where
  /-- The 54 V input is present, and EN_L is made (R639, R641). -/
  input : Bool
  enMade : Bool
  converters : Bool
  overVoltage : Bool
  powerGood : Bool
  powerFail : Bool
  /-- PWR_CAP.WATTS, and the effective cap of R626. -/
  cap : Nat
  effCap : Nat
  capMiss : Bool
  tripped : Bool
  lowVin : Bool
  conservative : Bool
  changed : Nat
  /-- PWR_INPUT of the last interval: W, 10 mV, 0.1 A and W. -/
  watts : Nat
  vin : Nat
  iin : Nat
  peak : Nat
  /-- Input energy in units of 1 W × 1 tick-mark interval. -/
  energy : Nat
  capEpisode : Bool
  thermEpisode : Bool
  inletEpisode : Bool
  /-- Hottest sensors: compute dies 0 to 63, shore dies 64 to 79, stacks 80 to 95. -/
  temps : Sparse Int
  /-- Consecutive readings at or above the trip threshold. -/
  tripRun : Sparse Nat
  tripTick : Tick
  /-- Every unit has stayed below its release threshold since this tick. -/
  coolSince : Tick
  /-- A trip is in force: compute dies run at 0.9 GHz until `THERMAL_RETURN`. -/
  tripActive : Bool
  shutdown : Bool
  telem : Sparse DieTelem
  /-- Rails turned off, as die × 4 + rail, die from 0 to 79 (R625). -/
  railsOff : List Nat
  /-- Failed re-centrings in a row, and the stack's temperature at the last one (R611). -/
  recentreFails : Sparse Nat
  recentreTemp : Sparse Int
  /-- Optical transmit power at training, and alarms, per port (R611). -/
  opticPower : Sparse (Option Int)
  opticAlarm : List Nat
  deriving DecidableEq, Repr

/-- Power state of a module with no input: the default cap of R595. -/
def PwrState.reset : PwrState :=
  { input := false, enMade := false, converters := false, overVoltage := false, powerGood := false,
    powerFail := false, cap := 3600, effCap := 3600, capMiss := false, tripped := false,
    lowVin := false, conservative := false, changed := 0, watts := 0, vin := 0, iin := 0, peak := 0,
    energy := 0, capEpisode := false, thermEpisode := false, inletEpisode := false, temps := [],
    tripRun := [], tripTick := 0, coolSince := 0, tripActive := false, shutdown := false,
    telem := [], railsOff := [], recentreFails := [], recentreTemp := [], opticPower := [],
    opticAlarm := [] }

/-- A local-bus target (R622). -/
structure Target where
  failed : Bool
  misses : Nat
  answers : Nat
  /-- Last readings, in the order of R620. -/
  reading : List Int
  deriving DecidableEq, Repr

/-- A target in service that has not been read. -/
def Target.reset : Target := { failed := false, misses := 0, answers := 0, reading := [] }

/-- A local-bus segment (R620, R622, R624). -/
structure Segment where
  state : Nat
  /-- Probes of the segment since it was last not probed, and the targets that acknowledged one. -/
  retries : Nat
  acked : List Nat
  /-- Bus-clear step reached, 0 when none. -/
  clearStep : Nat
  deriving DecidableEq, Repr

/-- A segment not yet probed. -/
def Segment.reset : Segment := { state := 0, retries := 0, acked := [], clearStep := 0 }

/-- The tray file that the headland refreshes every 1 ms (R614, R616). -/
structure TrayFile where
  ident : List Byte
  heartbeat : Nat
  state : List Byte
  power : List Byte
  coves : List Byte
  ports : List Byte
  deriving DecidableEq, Repr

/-- A tray file that nothing has refreshed. -/
def TrayFile.reset : TrayFile :=
  { ident := [], heartbeat := 0, state := [], power := [], coves := [], ports := [] }

/-- The tray bus, the local bus and the service state (R613 to R634). -/
structure TrayState where
  file : TrayFile
  /-- Reading of the internal oscillator at the last refresh. -/
  refreshed : Nat
  cap : Nat
  locate : Nat
  /-- 0 idle, 1 emptying, 2 safe to remove. -/
  service : Nat
  heldService : Bool
  /-- Every cove is free and the ports are fenced: the NVM writes of R633 run. -/
  emptied : Bool
  slSel : Nat
  /-- Next of the eight parts of 32 bytes. -/
  slPart : Nat
  discarded : Nat
  /-- The data of the last tray read; the last command was NACKed. -/
  reply : List Byte
  nack : Bool
  segments : Sparse Segment
  /-- Targets, key segment × 128 + address. -/
  targets : Sparse Target
  /-- The segment the mux selects; the controller side is stuck. -/
  selected : Nat
  controllerStuck : Bool
  vpdRead : Bool
  deriving DecidableEq, Repr

/-- The management buses after power-on. -/
def TrayState.reset : TrayState :=
  { file := TrayFile.reset, refreshed := 0, cap := 0, locate := 0, service := 0, heldService := false, emptied := false,
    slSel := 0, slPart := 0, discarded := 0, reply := [], nack := false,
    segments := [], targets := [], selected := 0, controllerStuck := false, vpdRead := false }

end Sys2Proof.Machine
end

