-- ==== Sys2Proof/Machine/State.lean ====
section
/-!
DEFINITION. The state of the module, the state after reset, and the reasons a step can stop.
-/
namespace Sys2Proof.Machine

/-- The state of one Vangyth module: every register, memory, queue and counter of the spec, the
commands that wait, and the model's own counter of free values. -/
structure State where
  /-- The build is VGX6401-CU (R1). -/
  cu : Bool
  /-- MOD_MODULE_ID.ID. -/
  moduleId : Nat
  /-- Copper-only mode is in force (R2). -/
  copperOnly : Bool
  cores : Sparse CoreState
  clusters : Sparse ClusterState
  mem : MemState
  fab : FabState
  tide : TideState
  coves : Sparse Cove
  load : LoadState
  /-- CKPT_REMAP words (R436) and stand-ins (R435) by index, and the key of the table. -/
  standin : Sparse Nat
  remap : Sparse (Option (Nat × Nat))
  trace : TraceState
  health : HealthState
  recov : RecovState
  host : HostState
  fw : FwState
  pwr : PwrState
  tray : TrayState
  /-- The model's own counter: the argument of the next free value (log entry 2). -/
  free : Nat
  /-- Commands that wait, first in first out. -/
  pending : List Instr
  deriving DecidableEq, Repr

/-- Why a step can fault. No meaning of this model raises one: every misuse the spec describes has
an effect the spec gives it. -/
inductive Fault
  /-- Raised by nothing: kept so that the type is inhabited. Safe. -/
  | none
  deriving DecidableEq, Repr

/-- Why a step can be refused. -/
inductive Refusal
  /-- A command with no meaning yet, by its mnemonic. Safe. -/
  | notModelled (mnemonic : String)
  deriving DecidableEq, Repr

/-- The descriptor of a section (R586) of 4 KiB at an offset, its digest's bytes 0. -/
def shippedSection (k : Nat) : List Byte :=
  [k, 0, 0, 0, 0, 16, 0, 0, 0, 16 * (k % 16), 0, 0, 0, 0, 0, 0].map (BitVec.ofNat 8) ++ List.replicate 48 0#8
/-- The header of the image both slots ship with (R585, R586, R656): version 0, key 0, schema 1, live level 0 and
seven sections of 4 KiB (DESIGN CHOICE, log entry 4). -/
def shippedHeader : List Byte :=
  [0x46, 0x49, 0x4D, 0x31, 1, 0, 7, 0, 0, 128, 0, 0, 0, 0, 0, 0, 0, 0, 0, 0, 0, 0, 0, 0, 0, 0, 1, 1, 0, 0, 0, 0,
    4].map (BitVec.ofNat 8)
  ++ List.replicate 223 0#8 ++ [1, 2, 3, 4, 5, 6, 7].flatMap shippedSection
/-- The image both slots ship with (R656): valid. -/
def shippedImage : FwImage :=
  { header := shippedHeader, keyOk := true, signatureOk := true, badSections := [] }

/-- The settings store both devices ship with (R656, R594): schema 1, no items, with its CRC. -/
def shippedStore : List Byte :=
  [0x53, 0x54, 0x53, 0x31, 1, 0, 0, 0, 0, 0, 0, 0, 0, 0, 0, 0, 64, 0, 0, 0, 0, 0, 0, 0,
   0, 0, 0, 0, 0, 0, 0, 0, 0, 0, 0, 0, 0, 0, 0, 0, 0, 0, 0, 0, 0, 0, 0, 0,
   0, 0, 0, 0, 0, 0, 0, 0, 0, 0, 0, 0, 0x9c, 0x9b, 0x75, 0x56].map (BitVec.ofNat 8)

/-- The module right after a module reset of a module as shipped (R25, R500, R656): powered, READY
in normal mode with the default settings, no cove. Log entries 4 to 9 name the values the spec
leaves open. -/
def State.reset : State :=
  { cu := false, moduleId := 0, copperOnly := true, cores := [], clusters := [],
    mem := MemState.reset, fab := FabState.reset,
    tide := { TideState.reset with ref := true, lock := true, marked := true, ctrl := 0x32_0000_0000#64 },
    coves := [],
    load := LoadState.reset, standin := [], remap := [], trace := TraceState.reset,
    health := HealthState.reset, recov := RecovState.reset,
    host := { HostState.reset with linkUp := true, rate := 64, width := 16 },
    fw := { FwState.reset with
              imageA := some shippedImage, imageB := some shippedImage, settingsA := shippedStore,
              settingsB := shippedStore, taken := shippedStore, image := some shippedImage,
              bootRec := { BootRec.reset with seq := 1, kind := 1, countA := 1 }, logCount := 1, ready := true },
    pwr := { PwrState.reset with
              input := true, enMade := true, converters := true, powerGood := true },
    tray := TrayState.reset, free := 0, pending := [] }

end Sys2Proof.Machine
end

