-- ==== Sys2Proof/Machine/Ops.lean ====
section
/-!
DEFINITION. The named operations over the parts of the state: readers and updaters of each table,
bytes of memories, scalar registers, and the numbering of dies, clusters and cores.
-/
namespace Sys2Proof.Machine

/-- The outcome of a command. -/
abbrev Result := Host.Outcome State Fault Refusal

/-- Bits `hi` down to `lo` of a number. -/
def bitsOf (n hi lo : Nat) : Nat := n / 2 ^ lo % 2 ^ (hi + 1 - lo)

/-- Bit `i` of a number. -/
def bitOf (n i : Nat) : Bool := decide (n / 2 ^ i % 2 = 1)

/-- One as a number. -/
def natOf (b : Bool) : Nat := if b then 1 else 0

/-- The numbers below `n` whose bit is set in the mask. -/
def bitsSet (mask n : Nat) : List Nat := (List.range n).filter (bitOf mask ·)

/-- The mask of a list of bit numbers. -/
def maskOf : List Nat → Nat
  | [] => 0
  | i :: t => 2 ^ i ||| maskOf t

/-- Saturate a counter at `2^w - 1`. -/
def satTo (w n : Nat) : Nat := min n (2 ^ w - 1)

/-- Round up to a multiple; a step of 0 leaves the value. -/
def roundUp (n q : Nat) : Nat := if q = 0 then n else (n + q - 1) / q * q

/-! Cores, contexts and clusters. -/

/-- The state of core `i`. -/
def coreAt (s : State) (i : Nat) : CoreState := Sparse.get CoreState.reset s.cores i
/-- Replace the state of core `i`. -/
def setCore (s : State) (i : Nat) (c : CoreState) : State :=
  { s with cores := Sparse.set CoreState.reset s.cores i c }
/-- Change the state of core `i`. -/
def updCore (s : State) (i : Nat) (f : CoreState → CoreState) : State := setCore s i (f (coreAt s i))
/-- Context `k` of core `i`; 4 is the maintenance context (R110). -/
def ctxAt (s : State) (i k : Nat) : Ctx := Sparse.get Ctx.reset (coreAt s i).ctxs k
/-- Replace context `k` of core `i`. -/
def setCtx (s : State) (i k : Nat) (x : Ctx) : State :=
  updCore s i fun c => { c with ctxs := Sparse.set Ctx.reset c.ctxs k x }
/-- Change context `k` of core `i`. -/
def updCtx (s : State) (i k : Nat) (f : Ctx → Ctx) : State := setCtx s i k (f (ctxAt s i k))

/-- The cluster of a core, the die of a core and of a cluster (R36, R99). -/
def clusterOf (core : Nat) : Nat := core / 4
/-- The die of a core. -/
def dieOf (core : Nat) : Nat := core / 16
/-- The state of a cluster. -/
def clusterAt (s : State) (i : Nat) : ClusterState := Sparse.get ClusterState.reset s.clusters i
/-- Change the state of a cluster. -/
def updCluster (s : State) (i : Nat) (f : ClusterState → ClusterState) : State :=
  { s with clusters := Sparse.set ClusterState.reset s.clusters i (f (clusterAt s i)) }
/-- The running values of a context on a cluster's thresher (R159). -/
def threshAt (s : State) (cl k : Nat) : ThreshRun := Sparse.get ThreshRun.reset (clusterAt s cl).thresh k
/-- Change them. -/
def updThresh (s : State) (cl k : Nat) (f : ThreshRun → ThreshRun) : State :=
  updCluster s cl fun c =>
    { c with thresh := Sparse.set ThreshRun.reset c.thresh k (f (threshAt s cl k)) }

/-! Coves, ports, functions and the other tables. -/

/-- The state of cove `c`. -/
def coveAt (s : State) (c : Nat) : Cove := Sparse.get Cove.reset s.coves c
/-- Change the state of cove `c`. -/
def updCove (s : State) (c : Nat) (f : Cove → Cove) : State :=
  { s with coves := Sparse.set Cove.reset s.coves c (f (coveAt s c)) }
/-- The checkpoint engine of cove `c`. -/
def updCkpt (s : State) (c : Nat) (f : Ckpt → Ckpt) : State :=
  updCove s c fun v => { v with ckpt := f v.ckpt }
/-- The step counts of cove `c`. -/
def updStats (s : State) (c : Nat) (f : StepStats → StepStats) : State :=
  updCove s c fun v => { v with stats := f v.stats }
/-- The tide block of cove `c`. -/
def coveTideAt (s : State) (c : Nat) : CoveTide := Sparse.get CoveTide.reset s.tide.coves c
/-- Change it. -/
def updCoveTide (s : State) (c : Nat) (f : CoveTide → CoveTide) : State :=
  { s with tide := { s.tide with
      coves := Sparse.set CoveTide.reset s.tide.coves c (f (coveTideAt s c)) } }
/-- Port `p`. -/
def portAt (s : State) (p : Nat) : Port := Sparse.get Port.reset s.fab.ports p
/-- Change port `p`. -/
def updPort (s : State) (p : Nat) (f : Port → Port) : State :=
  { s with fab := { s.fab with ports := Sparse.set Port.reset s.fab.ports p (f (portAt s p)) } }
/-- Host function `n`. -/
def fnAt (s : State) (n : Nat) : HostFn := Sparse.get HostFn.reset s.host.fns n
/-- Change host function `n`. -/
def updFn (s : State) (n : Nat) (f : HostFn → HostFn) : State :=
  { s with host := { s.host with fns := Sparse.set HostFn.reset s.host.fns n (f (fnAt s n)) } }
/-- Change the status ring of a function. -/
def updRing (s : State) (n : Nat) (f : StatusRing → StatusRing) : State :=
  updFn s n fun x => { x with ring := f x.ring }
/-- The recovery state of cove `c`. -/
def recovAt (s : State) (c : Nat) : CoveRecov := Sparse.get CoveRecov.reset s.recov.coves c
/-- Change it. -/
def updRecov (s : State) (c : Nat) (f : CoveRecov → CoveRecov) : State :=
  { s with recov := { s.recov with
      coves := Sparse.set CoveRecov.reset s.recov.coves c (f (recovAt s c)) } }
/-- The error ring of cove `r`, or of the module for 16 (R518). -/
def ringAt (s : State) (r : Nat) : ErrRing := Sparse.get ErrRing.reset s.trace.rings r
/-- Change an error ring. -/
def updErrRing (s : State) (r : Nat) (f : ErrRing → ErrRing) : State :=
  { s with trace := { s.trace with
      rings := Sparse.set ErrRing.reset s.trace.rings r (f (ringAt s r)) } }
/-- The wait trace of cove `c`. -/
def waitTraceAt (s : State) (c : Nat) : WaitTrace := Sparse.get WaitTrace.reset s.trace.waits c
/-- Change it. -/
def updWaitTrace (s : State) (c : Nat) (f : WaitTrace → WaitTrace) : State :=
  { s with trace := { s.trace with
      waits := Sparse.set WaitTrace.reset s.trace.waits c (f (waitTraceAt s c)) } }
/-- A life-ledger record: compute dies 0 to 63, shore dies 64 to 79 (R485). -/
def ledgerAt (s : State) (u : Nat) : LedgerRec := Sparse.get LedgerRec.reset s.health.ledger u
/-- Change it. -/
def updLedger (s : State) (u : Nat) (f : LedgerRec → LedgerRec) : State :=
  { s with health := { s.health with
      ledger := Sparse.set LedgerRec.reset s.health.ledger u (f (ledgerAt s u)) } }
/-- A plain register by its BAR0 offset; one never written reads 0. -/
def regAt (s : State) (off : Nat) : DWord := Sparse.get 0#64 s.host.regs off
/-- Store a plain register. -/
def setReg (s : State) (off : Nat) (v : DWord) : State :=
  { s with host := { s.host with regs := Sparse.set 0#64 s.host.regs off v } }
/-- The BAR0 offset of a register of cove `c`'s window (R571). -/
def cvReg (c off : Nat) : Nat := 0x20000 + 0x1000 * c + off

/-! Scalar registers (R99, R129). -/

/-- A scalar register; s0 reads 0. A routine's register that the main stream reads, whose value R198 leaves unspecified,
holds what was last written there: by a routine, or by the free values that a collective point loads (DESIGN CHOICE, log
entry 80). -/
def sreg (x : Ctx) (r : BitVec 5) : DWord :=
  if r = 0#5 then 0#64 else Sparse.get 0#64 x.sregs r.toNat
/-- Write a scalar register; a write of s0 is discarded. -/
def setSreg (x : Ctx) (r : BitVec 5) (v : DWord) : Ctx :=
  if r = 0#5 then x else { x with sregs := Sparse.set 0#64 x.sregs r.toNat v }
/-- A loop counter (R138). -/
def lcAt (x : Ctx) (i : Nat) : Word := Sparse.get 0#32 x.lcs i
/-- Write a loop counter. -/
def setLc (x : Ctx) (i : Nat) (v : Word) : Ctx := { x with lcs := Sparse.set 0#32 x.lcs i v }
/-- A lane of a vector register (R107). -/
def lane (x : Ctx) (v l : Nat) : Word := Sparse.get 0#32 x.vregs (256 * v + l)
/-- Write a lane of a vector register. -/
def setLane (x : Ctx) (v l : Nat) (w : Word) : Ctx :=
  { x with vregs := Sparse.set 0#32 x.vregs (256 * v + l) w }
/-- Write lanes from a list, from lane `l` on. -/
def setLanes (x : Ctx) (v : Nat) : Nat → List Word → Ctx
  | _, [] => x
  | l, w :: t => setLanes (setLane x v l w) v (l + 1) t

/-! Bytes of memories. -/

/-- One byte of a memory; one never written reads 0. -/
def memByte (m : Memory) (a : Nat) : Byte := Sparse.get 0#8 m a
/-- Store one byte. -/
def memSet (m : Memory) (a : Nat) (b : Byte) : Memory := Sparse.set 0#8 m a b
/-- Store bytes from an address upwards. -/
def memWrite (m : Memory) (a : Nat) : List Byte → Memory
  | [] => m
  | b :: t => memWrite (memSet m a b) (a + 1) t
/-- Read `n` bytes from an address upwards. -/
def memRead (m : Memory) (a n : Nat) : List Byte := (List.range n).map fun i => memByte m (a + i)
/-- Drop every byte of a range: the range reads 0 afterwards. -/
def memZero (m : Memory) (a n : Nat) : Memory :=
  m.filter fun c => decide (c.1 < a) || decide (a + n ≤ c.1)
/-- Little-endian value of bytes. -/
def leVal (bs : List Byte) : Nat := ofLeBytes (bs.map (·.toNat))
/-- The `n` little-endian bytes of a value. -/
def leOut (n v : Nat) : List Byte := (leBytes n v).map (BitVec.ofNat 8)
/-- CRC-32C of bytes (R461). -/
def crcOf (bs : List Byte) : Nat := crc32c (bs.map (·.toNat))

/-- A `w`-bit element at bit position `w × i` of a byte plane starting at `a` (R17, R59). -/
def elemAt (m : Memory) (a w i : Nat) : Nat :=
  if w % 8 = 0 then leVal (memRead m (a + w / 8 * i) (w / 8))
  else
    let bit := w * i
    (leVal (memRead m (a + bit / 8) 2)) / 2 ^ (bit % 8) % 2 ^ w
/-- Store a `w`-bit element. -/
def setElem (m : Memory) (a w i v : Nat) : Memory :=
  if w % 8 = 0 then memWrite m (a + w / 8 * i) (leOut (w / 8) v)
  else
    let bit := w * i
    let base := a + bit / 8
    let sh := bit % 8
    let n := (sh + w + 7) / 8
    let old := leVal (memRead m base n)
    let mask := (2 ^ w - 1) * 2 ^ sh
    memWrite m base (leOut n (old - (old &&& mask) + v % 2 ^ w * 2 ^ sh))
/-- Store elements from index `i` upwards. -/
def setElems (m : Memory) (a w : Nat) : Nat → List Nat → Memory
  | _, [] => m
  | i, v :: t => setElems (setElem m a w i v) a w (i + 1) t

/-- Write scratchpad bytes of a core; a 64-bit word that is rewritten whole holds no bit error any more (R118). -/
def scratchWrite (s : State) (core a : Nat) (bs : List Byte) : State :=
  updCore s core fun c =>
    { c with scratch := memWrite c.scratch a bs,
             upsets := c.upsets.filter fun u =>
               !(u.1 == 0 && decide (a ≤ 8 * u.2.1) && decide (8 * u.2.1 + 8 ≤ a + bs.length)) }
/-- Near-memory bytes of a die. -/
def nearAt (s : State) (die : Nat) : Memory := Sparse.get [] s.mem.near die
/-- Change a die's near memory. -/
def updNear (s : State) (die : Nat) (f : Memory → Memory) : State :=
  { s with mem := { s.mem with near := Sparse.set [] s.mem.near die (f (nearAt s die)) } }
/-- HBM bytes of a stack. -/
def stackAt (s : State) (st : Nat) : Memory := Sparse.get [] s.mem.hbm st
/-- Change a stack's HBM. -/
def updStack (s : State) (st : Nat) (f : Memory → Memory) : State :=
  { s with mem := { s.mem with hbm := Sparse.set [] s.mem.hbm st (f (stackAt s st)) } }

/-- Stack and stack address of a package-space HBM offset (R211). -/
def hbmPlace (off : Nat) : Nat × Nat :=
  if bitOf off 40 then (bitsOf off 39 36, bitsOf off 35 0)
  else (bitsOf off 15 12, bitsOf off 39 16 * 4096 + bitsOf off 11 0)
/-- One byte of HBM by package-space offset. -/
def hbmByte (s : State) (off : Nat) : Byte :=
  memByte (stackAt s (hbmPlace off).1) (hbmPlace off).2
/-- Store one byte of HBM. -/
def hbmSet (s : State) (off : Nat) (b : Byte) : State :=
  updStack s (hbmPlace off).1 fun m => memSet m (hbmPlace off).2 b
/-- Store bytes of HBM. -/
def hbmWrite (s : State) (off : Nat) : List Byte → State
  | [] => s
  | b :: t => hbmWrite (hbmSet s off b) (off + 1) t
/-- Read bytes of HBM. -/
def hbmRead (s : State) (off n : Nat) : List Byte := (List.range n).map fun i => hbmByte s (off + i)
/-- The first bytes of the blocks that a range meets, by offset. -/
def blocksOf (off len : Nat) : List Nat :=
  (List.range ((off % 4096 + len + 4095) / 4096)).map fun i => off / 4096 * 4096 + 4096 * i
/-- The interleaved unit of an HBM offset is its frame index; the block of a byte within that unit,
in interleaved order (R211, R212). -/
def unitBlock (off : Nat) : Nat :=
  (hbmPlace off).2 / 4096 % 16384 * 16 + (hbmPlace off).1
/-- The placement entry whose unit the movers copy out of a frame of a module: its own unit while it demotes, the unit
that the frame serves while it promotes or moves to another lender. -/
def copiedOut (s : State) (m f : Nat) : Option (Nat × Placement) :=
  s.mem.placement.find? fun e =>
    if e.2.state = .demoting then m == s.moduleId && e.1 == f
    else (e.2.state == .promoting || (e.2.state == .demoted && e.2.fresh.isSome))
      && e.2.lenderModule == m && e.2.lenderUnit == f
/-- Record a write to a block that the movers have already copied as dirty (R221): `off` is an HBM offset of module `m`. -/
def markDirty (s : State) (m off : Nat) : State :=
  match copiedOut s m ((hbmPlace off).2 / 2 ^ 26) with
  | some (u, p) =>
    if unitBlock off < p.copied ∧ ¬ p.dirty.contains (unitBlock off) then
      { s with mem := { s.mem with
          placement := Sparse.set Placement.reset s.mem.placement u { p with dirty := p.dirty ++ [unitBlock off] } } }
    else s
  | none => s
/-- Store bytes of HBM as a writer of its own data: a block that is being copied away becomes dirty. -/
def hbmStore (s : State) (off : Nat) (bs : List Byte) : State :=
  (blocksOf off bs.length).foldl (fun s b => markDirty s s.moduleId b) (hbmWrite s off bs)
/-- The owner of a frame (R213); frames 1,020 to 1,023 are the module's (R214). -/
def frameOwner (s : State) (st f : Nat) : FrameOwner :=
  if 1020 ≤ f then .module else Sparse.get .free s.mem.frames (1024 * st + f)
/-- Give a frame to an owner. -/
def setFrame (s : State) (st f : Nat) (o : FrameOwner) : State :=
  { s with mem := { s.mem with frames := Sparse.set .free s.mem.frames (1024 * st + f) o } }
/-- The 16 frames of an interleaved unit, or of stack-local unit `(st, k)` (R212). -/
def framesOfI (u : Nat) : List (Nat × Nat) := (List.range 16).map fun st => (st, u)
/-- Frames of a stack-local unit. -/
def framesOfS (st k : Nat) : List (Nat × Nat) := (List.range 16).map fun i => (st, 16 * k + i)
/-- Does the frame that holds an HBM offset belong to the cove. -/
def coveOwns (s : State) (c off : Nat) : Bool :=
  decide (frameOwner s (hbmPlace off).1 ((hbmPlace off).2 / 2 ^ 26) = .cove c)
/-- Does the cove own every block of a range (R213). -/
def coveOwnsRange (s : State) (c off n : Nat) : Bool :=
  (List.range ((off % 4096 + n + 4095) / 4096)).all fun i => coveOwns s c (off / 4096 * 4096 + 4096 * i)

/-! Coves and their cores (R335, R342). -/

/-- The cove that holds a compute die. -/
def coveOfDie (s : State) (d : Nat) : Option Nat :=
  (List.range 16).find? fun c => (coveAt s c).dies.getLsbD d
/-- The cove that holds a core. -/
def coveOfCore (s : State) (i : Nat) : Option Nat := coveOfDie s (dieOf i)
/-- Cove number for a record: 16 when none, which R519 writes as 0xF. -/
def coveNum (c : Option Nat) : Nat := c.getD 16
/-- The dies of a cove, rising. -/
def diesOf (v : Cove) : List Nat := (List.range 64).filter fun d => v.dies.getLsbD d
/-- The clusters of the cluster mask, in cove rank order. -/
def clustersOf (v : Cove) : List Nat :=
  (diesOf v).flatMap fun d => (bitsSet v.clusterMask 4).map fun k => 4 * d + k
/-- The cores of a cove in rank order (R342). -/
def coresOf (v : Cove) : List Nat := (clustersOf v).flatMap fun k => (List.range 4).map (4 * k + ·)
/-- The cove rank of a core; a core outside the mask has none. -/
def rankOf (v : Cove) (core : Nat) : Option Nat := (coresOf v).findIdx? (· = core)
/-- The job contexts of a cove, as core and context. -/
def ctxsOf (v : Cove) : List (Nat × Nat) :=
  (coresOf v).flatMap fun i => (bitsSet v.ctxUsed 4).map fun k => (i, k)
/-- The tide count that a core's contexts see: the real tick less the cove's tide offset (R448). -/
def ctxNow (s : State) (core : Nat) : Tick :=
  match coveOfCore s core with
  | some c => s.tide.now - (coveAt s c).ckpt.offset
  | none => s.tide.now
/-- Apply a change to every listed item. -/
def forEach {α : Type} (s : State) (l : List α) (f : State → α → State) : State := l.foldl f s

/-- Take the next free value's argument (log entry 2). -/
def freeTick (s : State) : State := { s with free := s.free + 1 }

end Sys2Proof.Machine
end

