-- ==== Sys2Proof/Machine/Flags.lean ====
section
/-!
DEFINITION. The flags of a context: the non-finite flag and the saturation count (R67, R79).
-/
namespace Sys2Proof.Machine

/-- Elements of a list of conversions that saturated. -/
def satsOf (l : List Conv) : Nat := (l.filter (·.saturated)).length
/-- R67: a written value that is NaN or infinite sets the context's flag; each saturating overflow
adds to the context's count. -/
def noteConvs (x : Ctx) (l : List Conv) : Ctx :=
  { x with nonfinite := x.nonfinite || l.any (·.nonfinite), satCount := x.satCount + satsOf l }
/-- A single value. -/
def noteConv (x : Ctx) (v : Conv) : Ctx := noteConvs x [v]
/-- Charge saturations to the cove of a core: its counter 4 and the step's count (R190, R389). -/
def chargeSats (s : State) (core n : Nat) : State :=
  match coveOfCore s core with
  | some c =>
    updStats { s with trace := { s.trace with
      coveCounters := Sparse.set 0 s.trace.coveCounters (((c * 8 + 1) * 2048) * 32 + 4)
        (satTo 64 (Sparse.get 0 s.trace.coveCounters (((c * 8 + 1) * 2048) * 32 + 4) + n)) } } c
      fun t => { t with saturations := t.saturations + n }
  | none => s

end Sys2Proof.Machine
end

