-- ==== Sys2Proof/Machine/Groups.lean ====
section
/-!
DEFINITION. Group entries, ranks, peers, receive areas, carries and the routine entry table
(chapter Fused Collectives and Winnowing). Levels are 0 die, 1 module, 2 bay, 3 hall.
-/
namespace Sys2Proof.Machine

/-- Word `i` of group entry `g` of a core, as a number (R172). -/
def gWord (c : CoreState) (g i : Nat) : Nat := (Sparse.get 0#64 c.groups (20 * g + i)).toNat
/-- The entry may be named. -/
def gValid (c : CoreState) (g : Nat) : Bool := bitOf (gWord c g 0) 0
/-- Its configuration generation. -/
def gGen (c : CoreState) (g : Nat) : Nat := bitsOf (gWord c g 0) 7 4
/-- Levels it defines, as a mask. -/
def gLevels (c : CoreState) (g : Nat) : Nat := bitsOf (gWord c g 0) 11 8
/-- Omit levels, as a mask. -/
def gOmit (c : CoreState) (g : Nat) : Nat := bitsOf (gWord c g 0) 15 12
/-- Glean policy: 1 glean-add, 2 glean-drop. -/
def gGlean (c : CoreState) (g : Nat) : Nat := bitsOf (gWord c g 0) 17 16
/-- Group key. -/
def gKey (c : CoreState) (g : Nat) : Nat := bitsOf (gWord c g 0) 63 32
/-- Stubble base and stride in bytes. -/
def gStubble (c : CoreState) (g : Nat) : Nat × Nat :=
  (bitsOf (gWord c g 1) 29 0, 512 * bitsOf (gWord c g 1) 53 30)
/-- Glean base and stride in bytes. -/
def gGleanArea (c : CoreState) (g : Nat) : Nat × Nat :=
  (bitsOf (gWord c g 2) 29 0, 512 * bitsOf (gWord c g 2) 53 30)
/-- Work base and size in bytes. -/
def gWork (c : CoreState) (g : Nat) : Nat × Nat :=
  (bitsOf (gWord c g 3) 22 0, 512 * bitsOf (gWord c g 3) 38 23)
/-- Word `i` of level block `l` (R173). -/
def gLevel (c : CoreState) (g l i : Nat) : Nat := gWord c g (4 + 4 * l + i)
/-- Window of a level in ticks. -/
def gWindow (c : CoreState) (g l : Nat) : Nat := bitsOf (gLevel c g l 1) 23 0
/-- Wire format code. -/
def gWire (c : CoreState) (g l : Nat) : Nat := bitsOf (gLevel c g l 1) 27 24
/-- Gather format code. -/
def gGather (c : CoreState) (g l : Nat) : Nat := bitsOf (gLevel c g l 1) 31 28
/-- Receive banks. -/
def gBanks (c : CoreState) (g l : Nat) : Nat := bitsOf (gLevel c g l 1) 35 32
/-- Round-one window. -/
def gRoundOne (c : CoreState) (g l : Nat) : Nat := bitsOf (gLevel c g l 1) 59 36
/-- Hall fields: first bay, stride, count, row length (R174). -/
def gHall (c : CoreState) (g : Nat) : Nat × Nat × Nat × Nat :=
  let m := gLevel c g 3 0
  (bitsOf m 9 0, bitsOf m 19 10, bitsOf m 30 20, bitsOf m 37 31)
/-- The hall level runs in two rounds. -/
def gTwoRounds (c : CoreState) (g l : Nat) : Bool := decide (l = 3) && decide (64 < (gHall c g).2.2.1)

/-- The module ID a cove acts as (R435). -/
def actingModule (s : State) (cove : Nat) : Nat :=
  if Sparse.get 0 s.standin cove = 0 then s.moduleId else Sparse.get 0 s.standin cove - 1

/-- Members of a level, in rank order: die and module levels as cores, bay and hall levels as
module IDs (R168). -/
def gMembers (s : State) (core g l : Nat) : List Nat :=
  let c := coreAt s core
  let own := actingModule s (coveNum (coveOfCore s core))
  match l with
  | 0 => (bitsSet (gLevel c g 0 0) 16).map fun k => dieOf core * 16 + k
  | 1 => (bitsSet (gLevel c g 1 0) 64).map fun d => d * 16 + core % 16
  | 2 => (bitsSet (gLevel c g 2 0) 64).map fun p => own / 64 * 64 + p
  | _ =>
    let h := gHall c g
    (List.range h.2.2.1).map fun k => (h.1 + k * h.2.1) * 64 + own % 64
/-- Rank of this core at a level; none when its own position is missing. -/
def gRank (s : State) (core g l : Nat) : Option Nat :=
  let own := actingModule s (coveNum (coveOfCore s core))
  (gMembers s core g l).findIdx? (· = if l < 2 then core else own)
/-- Members of a round as (slot, rank): all of the level, or the row or column of this core at a
hall level of two rounds (R174). -/
def gSlots (s : State) (core g l : Nat) (round2 : Bool) : List (Nat × Nat) :=
  let c := coreAt s core
  let n := (gMembers s core g l).length
  if gTwoRounds c g l then
    let g1 := (gHall c g).2.2.2
    let k := (gRank s core g l).getD 0
    if round2 then (List.range (n / g1)).map fun a => (32 + a, a * g1 + k % g1)
    else (List.range g1).map fun b => (b, k / g1 * g1 + b)
  else (List.range n).map fun j => (j, j)
/-- The slot of this core in a round. -/
def gOwnSlot (s : State) (core g l : Nat) (round2 : Bool) : Nat :=
  let k := (gRank s core g l).getD 0
  if gTwoRounds (coreAt s core) g l then
    let g1 := (gHall (coreAt s core) g).2.2.2
    if round2 then 32 + k / g1 else k % g1
  else k
/-- The member that a slot names: a core, or a module ID at the bay and hall levels. -/
def gSlotMember (s : State) (core g l : Nat) (round2 : Bool) (slot : Nat) : Option Nat :=
  ((gSlots s core g l round2).find? (·.1 = slot)).bind fun p => (gMembers s core g l)[p.2]?

/-- Slot positions of a bank (R177). -/
def gPositions (s : State) (core g l : Nat) : Nat :=
  if gTwoRounds (coreAt s core) g l then 64 else (gMembers s core g l).length
/-- Reduce slot size and gather slot size in bytes. -/
def gSlotSize (c : CoreState) (g l : Nat) (gather : Bool) : Nat :=
  512 * bitsOf (gLevel c g l (if gather then 3 else 2)) 38 23
/-- Size of a bank (R177). -/
def gBankSize (s : State) (core g l : Nat) (gather : Bool) : Nat :=
  let c := coreAt s core
  gPositions s core g l * gSlotSize c g l gather
    + (if !gather && bitOf (gOmit c g) l then 4096 else 0)
/-- Window offset of a bank. -/
def gBank (s : State) (core g l : Nat) (gather : Bool) (call : Nat) : Nat :=
  let c := coreAt s core
  bitsOf (gLevel c g l (if gather then 3 else 2)) 22 0
    + call % max 1 (gBanks c g l) * gBankSize s core g l gather
/-- Window offset of a slot of a call's bank (R177). -/
def gSlotAddr (s : State) (core g l : Nat) (gather : Bool) (call slot : Nat) : Nat :=
  gBank s core g l gather call + slot * gSlotSize (coreAt s core) g l gather
/-- Window offset of notice position `j` of a call's bank (R177, R179). -/
def gNoticeAddr (s : State) (core g l call j : Nat) : Nat :=
  gBank s core g l false call
    + gPositions s core g l * gSlotSize (coreAt s core) g l false + 64 * j

/-- Levels of a mask, lowest first. -/
def levelsOf (mask : Nat) : List Nat := bitsSet mask 4
/-- Highest level of a mask. -/
def highest (mask : Nat) : Nat := (levelsOf mask).foldl max 0
/-- Delivery bound of a level's scope: module 120 ns, bay and hall as published (R155, R278). -/
def levelBound (s : State) (l : Nat) : Nat :=
  if l < 2 then 120 else if l = 2 then s.tide.boundBay else s.tide.boundHall
/-- Deadline of a level or round from an anchor (R180). -/
def gDeadline (c : CoreState) (g l : Nat) (round2 : Bool) (anchor : Tick) : Tick :=
  anchor + (if gTwoRounds c g l && !round2 then gRoundOne c g l else gWindow c g l)
/-- Limit of a level: the deadline plus its window (R182). -/
def gLimit (c : CoreState) (g l : Nat) (round2 : Bool) (anchor : Tick) : Tick :=
  gDeadline c g l round2 anchor + gWindow c g l
/-- Limit of the highest level of a mask. -/
def gTopLimit (c : CoreState) (g mask : Nat) (anchor : Tick) : Tick :=
  gLimit c g (highest mask) true anchor
/-- Vote tick of a level or round (R181). -/
def gVote (s : State) (core g l : Nat) (round2 : Bool) (anchor : Tick) : Tick :=
  gDeadline (coreAt s core) g l round2 anchor + levelBound s l

/-- Rank of `code` among FP32-carrying widths: bytes per element that enters a level. -/
def wireBits (code : Nat) : Nat := match fmtOfCode code with | some f => fmtBits f | none => 32
/-- A level is winnowed: a wire format narrower than the entering data; never the die level
(R175, R192). -/
def gWinnowed (c : CoreState) (g mask l handed : Nat) : Bool :=
  let entering := if (levelsOf mask).headD 0 = l then wireBits handed else 32
  decide (0 < l) && decide (wireBits (gWire c g l) < entering)

/-- Elements that enter a level of a call on `n` handed elements: pieces of the levels below
(R171). -/
def enteringCount (s : State) (core g mask n l : Nat) : Nat :=
  n / max 1 (((levelsOf mask).filter (· < l)).foldl
    (fun a k => a * (gMembers s core g k).length) 1)
/-- Offset of a level's segment in a stubble or glean half: 4 bytes per entering element of each
earlier level of the list, rounded up to 512 (R193). -/
def segmentOffset (s : State) (core g mask n : Nat) (levels : List Nat) (l : Nat) : Nat :=
  (levels.filter (· < l)).foldl
    (fun a k => a + roundUp (4 * enteringCount s core g mask n k) 512) 0
/-- Near-memory offset of half `h` of call `call`'s stubble, or of its gleaning carry (R193). -/
def carryHalf (c : CoreState) (g : Nat) (glean : Bool) (call : Nat) (h : Bool) : Nat :=
  let a := if glean then gGleanArea c g else gStubble c g
  a.1 + call * a.2 + (if h then a.2 / 2 else 0)

/-- A routine's entry as start, length, validity and supported levels (R196). -/
def routineEntry (c : CoreState) (r : Nat) : Nat × Nat × Bool × Nat :=
  let w := (Sparse.get 0#128 c.rmem r).toNat
  (bitsOf w 11 0, bitsOf w 27 16, bitOf w 31, bitsOf w 35 32)
/-- R196: an entry's reserved fields are 0 and a valid entry lies within 64 to 4,095. -/
def routineEntryOk (c : CoreState) (r : Nat) : Bool :=
  let w := (Sparse.get 0#128 c.rmem r).toNat
  let e := routineEntry c r
  bitsOf w 15 12 == 0 && bitsOf w 30 28 == 0 && w / 2 ^ 36 == 0
    && (!e.2.2.1 || (decide (64 ≤ e.1) && decide (e.1 + e.2.1 ≤ 4096)))

/-- Wire and gather formats of a level meet R175. -/
def levelFormatsOk (l wire gather : Nat) : Bool :=
  match l with
  | 0 => gather == 0
  | 1 => (wire == 0 || wire == 1) && (gather == 0 || gather == 1)
  | 2 => wire == 1 && (gather == 0 || gather == 1)
  | _ => (wire == 3 || wire == 4 || wire == 8 || wire == 9) && (gather == 0 || gather == 1)

/-- The hall fields meet R174. -/
def hallOk (c : CoreState) (g : Nat) : Bool :=
  let m := gLevel c g 3 0
  let h := gHall c g
  decide (1 ≤ h.2.1) && decide (1 ≤ h.2.2.1) && decide (h.2.2.1 ≤ 1024)
    && decide (h.1 + (h.2.2.1 - 1) * h.2.1 ≤ 1023) && m / 2 ^ 38 == 0
    && (if h.2.2.1 ≤ 64 then h.2.2.2 == h.2.2.1
        else decide (1 ≤ h.2.2.2) && decide (h.2.2.2 ≤ 32) && h.2.2.1 % h.2.2.2 == 0
          && decide (h.2.2.1 / h.2.2.2 ≤ 32))

/-- Half-open ranges that overlap. -/
def overlaps (a la b lb : Nat) : Bool := decide (0 < la) && decide (0 < lb) && decide (a < b + lb) && decide (b < a + la)

/-- The areas of an entry as (kind, base, size): work, then reduce and gather areas of each level,
kind 8 + level for a gather area. -/
def gAreas (s : State) (core g : Nat) : List (Nat × Nat × Nat) :=
  let c := coreAt s core
  (0, (gWork c g).1, (gWork c g).2) ::
  (levelsOf (gLevels c g)).flatMap fun l =>
    [(4 + l, gBank s core g l false 0, gBanks c g l * gBankSize s core g l false),
     (8 + l, gBank s core g l true 0, gBanks c g l * gBankSize s core g l true)]

/-- R176's exception: bank by bank, the higher level's gather area lies within this core's own
slot of the next lower level's gather area. -/
def gatherNested (s : State) (core g lo hi : Nat) : Bool :=
  let c := coreAt s core
  (List.range (gBanks c g hi)).all fun k =>
    let own := gSlotAddr s core g lo true k (gOwnSlot s core g lo false)
    decide (own ≤ gBank s core g hi true k)
      && decide (gBank s core g hi true k + gBankSize s core g hi true
          ≤ own + gSlotSize c g lo true)

/-- Windows of the defined levels rise by at least the vote time of the level below (R176, R181). -/
def windowsRise (s : State) (c : CoreState) (g : Nat) : List Nat → Bool
  | a :: b :: t =>
    let need := gWindow c g a + levelBound s a
    (if gTwoRounds c g b then
       decide (need ≤ gRoundOne c g b) && decide (gRoundOne c g b + levelBound s 3 ≤ gWindow c g b)
     else decide (need ≤ gWindow c g b)) && windowsRise s c g (b :: t)
  | _ => true

/-- The start of the save area that bounds an entry's areas: that of the widest window among the contexts that the cove
uses, since the contexts of a core share its entries (DEDUCED, log entry 79). -/
def saveStart (s : State) (core : Nat) (v : Cove) : Nat :=
  ((bitsSet v.ctxUsed 4).map fun k => (ctxAt s core k).winCount * 262144 - 131072).foldl max 0
/-- R176: the checks on one group entry as it is loaded on a core. -/
def groupOk (s : State) (core g : Nat) : Bool :=
  let c := coreAt s core
  let v := match coveOfCore s core with | some k => coveAt s k | none => Cove.reset
  let defd := levelsOf (gLevels c g)
  let om := gOmit c g
  let save := saveStart s core v
  let areas := gAreas s core g
  (bitsOf (gWord c g 0) 3 1 == 0 && bitsOf (gWord c g 0) 31 18 == 0
    && (gWord c g 1) / 2 ^ 54 == 0 && (gWord c g 2) / 2 ^ 54 == 0 && (gWord c g 3) / 2 ^ 39 == 0
    && defd.all (fun l => (gRank s core g l).isSome && levelFormatsOk l (gWire c g l) (gGather c g l)
        && decide (1 ≤ gBanks c g l) && bitsOf (gLevel c g l 1) 63 60 == 0
        && (gTwoRounds c g l || gRoundOne c g l == 0)
        && gLevel c g l 2 / 2 ^ 39 == 0 && gLevel c g l 3 / 2 ^ 39 == 0
        && gBank s core g l false 0 % 512 == 0 && gBank s core g l true 0 % 512 == 0)
    && ((List.range 4).all fun l => defd.contains l || (List.range 4).all fun i => gLevel c g l i == 0)
    && (!defd.contains 0 || gLevel c g 0 0 / 2 ^ 16 == 0)
    && (!defd.contains 1 || (bitsSet (gLevel c g 1 0) 64).all fun d => v.dies.getLsbD d)
    && !bitOf om 0 && (om &&& gLevels c g) == om
    && defd.all (fun l => !bitOf om l || defd.all fun k => decide (k ≤ l) || bitOf om k)
    && (!defd.contains 3 || hallOk c g)
    && windowsRise s c g defd
    && (if om == 0 then gGlean c g == 0 else gGlean c g == 1 || gGlean c g == 2)
    && (gStubble c g).1 % 512 == 0 && (gStubble c g).2 % 1024 == 0
    && (gGleanArea c g).1 % 512 == 0 && (gGleanArea c g).2 % 1024 == 0
    && (gWork c g).1 % 512 == 0
    && areas.all (fun a => decide (a.2.1 + a.2.2 ≤ save))
    && areas.all (fun a => areas.all fun b =>
        decide (b.1 ≤ a.1) || !overlaps a.2.1 a.2.2 b.2.1 b.2.2
        || (decide (8 ≤ a.1) && decide (8 ≤ b.1)
            && defd.all (fun l => !(decide (a.1 - 8 < l) && decide (l < b.1 - 8)))
            && gatherNested s core g (a.1 - 8) (b.1 - 8))))

/-- Modules named at the bay and hall levels of a group entry, this module apart (R496). -/
def groupModules (s : State) (core g : Nat) : List Nat :=
  let own := actingModule s (coveNum (coveOfCore s core))
  let ls := gLevels (coreAt s core) g
  ((if bitOf ls 2 then gMembers s core g 2 else []) ++ (if bitOf ls 3 then gMembers s core g 3 else [])).filter
    (· ≠ own)

end Sys2Proof.Machine
end

