-- ==== Sys2Proof/Machine/Operands.lean ====
section
/-!
DEFINITION. Operand forms: the used fields of an instruction, operand words and planes, ranges and
the interlock (R97, R111, R128 to R131, R137 to R152, R164, R198).
-/
namespace Sys2Proof.Machine

/-! The instruction word (R127, R128). -/

/-- R128: the class and op are listed: the tables of R137, R142, R147, R151, R155, R160, R163. -/
def opListed (op : Nat) : Bool :=
  match op / 256 with
  | 0 => decide (op < 0x0E) || (decide (0x10 ≤ op) && decide (op < 0x13))
      || (decide (0x20 ≤ op) && decide (op < 0x23)) || op == 0x30
  | 1 => op == 0x100 || op == 0x101 || op == 0x102 || op == 0x104
  | 2 => decide (op < 0x20D) || op == 0x210 || (decide (0x218 ≤ op) && decide (op < 0x21B))
      || op == 0x220 || op == 0x221 || (decide (0x228 ≤ op) && decide (op < 0x22B))
  | 3 => op == 0x300 || op == 0x301 || (decide (0x308 ≤ op) && decide (op < 0x30C))
  | 4 => decide (op < 0x406)
  | 5 => decide (op < 0x506)
  | 6 => decide (op < 0x607)
  | _ => false

/-- The fields that an instruction uses; the rest must be 0 (R128). -/
structure Use where
  f1 : Bool
  f2 : Bool
  f3 : Bool
  f4 : Bool
  control : BitVec 32
  imm : Bool
  tail : BitVec 16
  /-- The op may carry a commune field (R133). -/
  fusable : Bool
  deriving DecidableEq, Repr

/-- An instruction that uses no field. -/
def Use.none : Use :=
  { f1 := false, f2 := false, f3 := false, f4 := false, control := 0#32, imm := false, tail := 0#16,
    fusable := false }

/-- R128: every unused field is 0. -/
def unusedZero (w : Fields) (u : Use) : Bool :=
  (u.f1 || w.f1 == 0#5) && (u.f2 || w.f2 == 0#5) && (u.f3 || w.f3 == 0#5) && (u.f4 || w.f4 == 0#5)
    && (w.control &&& ~~~u.control == 0#32) && (u.imm || w.imm == 0#32)
    && (w.tail &&& ~~~u.tail == 0#16) && (u.fusable || w.commune == 0#16)

/-- Field `hi` to `lo` of the control field, by its bit numbers in the word (64 to 95). -/
def ctl (w : Fields) (hi lo : Nat) : Nat := bitsOf w.control.toNat (hi - 64) (lo - 64)
/-- One bit of the control field. -/
def ctlBit (w : Fields) (i : Nat) : Bool := bitOf w.control.toNat (i - 64)
/-- Group index, routine number and level mask of the commune field (R132). -/
def communeGroup (w : Fields) : Nat := bitsOf w.commune.toNat 15 10
/-- Routine number. -/
def communeRoutine (w : Fields) : Nat := bitsOf w.commune.toNat 9 4
/-- Level mask. -/
def communeMask (w : Fields) : Nat := bitsOf w.commune.toNat 3 0

/-- The commune field of a fusable op meets R132 and R133: a mask of 0 only where the op allows an
unfused form, and then group and routine 0; otherwise a valid entry that defines the levels, and a
loaded routine (or routine 0 for an arrival). -/
def communeOk (c : CoreState) (w : Fields) (needed arrival : Bool) : Bool :=
  if communeMask w = 0 then !needed && w.commune == 0#16
  else gValid c (communeGroup w)
    && (communeMask w &&& gLevels c (communeGroup w)) == communeMask w
    && (if arrival then communeRoutine w == 0 else (routineEntry c (communeRoutine w)).2.2.1)

/-- Where the registers that an instruction writes belong (R198): scalar register, loop counter
and vector register, when it writes one. -/
structure Writes where
  sreg : Option (BitVec 5)
  lc : Option Nat
  vreg : Option (BitVec 5)
  deriving DecidableEq, Repr

/-- An instruction that writes no register. -/
def Writes.none : Writes := { sreg := Option.none, lc := Option.none, vreg := Option.none }

/-- R198: the main stream keeps off s24 to s31, lc3 and v28 to v31, and a routine off the rest. -/
def ownsWrites (inRoutine : Bool) (u : Writes) : Bool :=
  (match u.sreg with
   | some r => r == 0#5 || (if inRoutine then decide (24 ≤ r.toNat) else decide (r.toNat < 24))
   | none => true)
  && (match u.lc with | some i => if inRoutine then i == 3 else decide (i < 3) | none => true)
  && (match u.vreg with
   | some r => if inRoutine then decide (28 ≤ r.toNat) else decide (r.toNat < 28) | none => true)

/-- The scratchpad bytes of a context: its window less the save area (R111). -/
def scratchLimit (x : Ctx) : Nat := x.winCount * 262144 - 131072
/-- Physical scratchpad address of a window offset. -/
def winAddr (x : Ctx) (off : Nat) : Nat := x.winBase * 262144 + off
/-- A range lies below the save area (R131). -/
def inWindow (x : Ctx) (off n : Nat) : Bool := n == 0 || decide (off + n ≤ scratchLimit x)

/-- Element offset and scale offset of an operand word (R130). -/
def opElem (w : DWord) : Nat := bitsOf w.toNat 22 0
/-- Scale offset. -/
def opScale (w : DWord) : Nat := bitsOf w.toNat 45 23
/-- R130, R131: reserved bits 0, alignment, and a scale offset of 0 off an MX format; `sa` is the
scale alignment of the class. -/
def opWordOk (f : Fmt) (sa : Nat) (w : DWord) : Bool :=
  w.toNat / 2 ^ 46 == 0 && opElem w % 512 == 0
    && (if fmtIsMx f then opScale w % sa == 0 else opScale w == 0)

/-- A scratchpad range in window offsets. -/
abbrev Range := Nat × Nat
/-- Bytes of `n` elements of a format. -/
def planeBytes (f : Fmt) (n : Nat) : Nat := (n * fmtBits f + 7) / 8
/-- The ranges of an operand of `n` elements: its element plane and, for MX, one scale byte per 32
elements (R148). -/
def operandRanges (f : Fmt) (w : DWord) (n : Nat) : List Range :=
  (opElem w, planeBytes f n) :: (if fmtIsMx f then [(opScale w, n / 32)] else [])
/-- Ranges overlap in whole stripes of 512 bytes (R97). -/
def stripesMeet (a b : Range) : Bool :=
  decide (0 < a.2) && decide (0 < b.2) && decide (a.1 / 512 ≤ (b.1 + b.2 - 1) / 512)
    && decide (b.1 / 512 ≤ (a.1 + a.2 - 1) / 512)

/-- Formats and K of a MAT instruction's control field (R140). -/
def matFmt (w : Fields) (hi : Nat) : Option Fmt := fmtOfCode (ctl w hi (hi - 3))
/-- Depth K. -/
def matK (w : Fields) : Nat := 32 * ctl w 95 88
/-- Read ranges of a tile: planes of A and B with their scales (R143). -/
def tileReads (w : Fields) (r1 r2 : DWord) : List Range :=
  (match matFmt w 87 with | some f => operandRanges f r1 (128 * matK w) | none => [])
    ++ (match matFmt w 83 with | some f => operandRanges f r2 (128 * matK w) | none => [])
/-- Write ranges of a tile that drains. -/
def tileWrites (w : Fields) (r3 : DWord) : List Range :=
  if ctlBit w 70 then
    match matFmt w 79 with | some f => operandRanges f r3 16384 | none => []
  else []

/-- Read and write ranges of instructions of a context that have not completed: queued and held
tiles, queued vector and THR instructions and wain descriptors (R97). A gathering routine is not held by the tile that called it,
whose operand it writes (DEDUCED, log entry 77). -/
def openReads (x : Ctx) : List Range :=
  ((x.matQ.filter fun t => t.ready || x.routine.isNone).flatMap fun t => tileReads t.fields t.r1 t.r2)
    ++ (x.vecQ.flatMap (·.reads)) ++ (x.thrQ.flatMap (·.reads))
    ++ (x.wainQ.flatMap fun d => if d.localSrc then [(d.src.toNat, d.len)] else [])
/-- Write ranges that are open. -/
def openWrites (x : Ctx) : List Range :=
  (x.matQ.flatMap fun t => tileWrites t.fields t.r3)
    ++ (match x.held with
        | some h => if h.drainPending then tileWrites h.tile.fields h.tile.r3 else []
        | none => [])
    ++ (x.vecQ.flatMap (·.writes)) ++ (x.thrQ.flatMap (·.writes))
    ++ (x.wainQ.flatMap fun d =>
        (if d.localDst then [(d.dst.toNat, d.len)] else [])
          ++ (match d.ret with | some r => [(r, if d.op = 0x0A then 8 else d.len)] | none => []))
/-- R97: a read range meets an open write, or a write range meets any open range, or the ranges
would pass the 64 that the sequencer tracks. -/
def interlocked (x : Ctx) (reads writes : List Range) : Bool :=
  reads.any (fun r => (openWrites x).any (stripesMeet r))
    || writes.any (fun r => (openWrites x ++ openReads x).any (stripesMeet r))
    || decide (64 < (openReads x).length + (openWrites x).length + reads.length + writes.length)

/-- Scalar registers that an instruction reads or writes, by its fields (R129, R141, R145); unused fields name s0. -/
def scalarsOf (op : Nat) (w : Fields) : List (BitVec 5) :=
  if op = 0x229 then [w.f1]
  else if op = 0x22A then [w.f2]
  else if op / 256 = 2 then
    (if ctlBit w 95 then [] else [w.f1]) ++ (if ctlBit w 94 then [] else [w.f2])
      ++ (if ctlBit w 93 then [] else [w.f3]) ++ (if ctlBit w 92 then [] else [w.f4])
      ++ [w.control.extractLsb' 3 5, w.tail.extractLsb' 11 5, w.tail.extractLsb' 11 5 + 1#5]
  else if op / 256 = 1 then [w.f1, w.f2, w.f3, w.f4, w.f4 + 1#5]
  else [w.f1, w.f2, w.f3, w.f4]
/-- R97: scalar registers that VTOS and TFLAG have still to write. -/
def pendingScalars (x : Ctx) : List (BitVec 5) := x.vecQ.filterMap (·.sdest) ++ x.thrQ.filterMap (·.sdest)
/-- R97: the instruction reads or writes such a register. -/
def scalarLocked (x : Ctx) (op : Nat) (w : Fields) : Bool :=
  (scalarsOf op w).any fun r => r != 0#5 && (pendingScalars x).contains r
/-- Vector registers that a VEC instruction reads (R145, R147). -/
def vregReads (op : Nat) (w : Fields) : List (BitVec 5) :=
  if op = 0x229 then [w.f2]
  else if op / 256 = 2 ∧ op ≠ 0x22A then
    (if ctlBit w 94 then [w.f2] else []) ++ (if ctlBit w 93 then [w.f3] else [])
      ++ (if ctlBit w 92 then [w.f4] else [])
  else []
/-- The vector register that it writes. -/
def vregWrite (op : Nat) (w : Fields) : Option (BitVec 5) :=
  if op = 0x22A ∨ (op / 256 = 2 ∧ op ≠ 0x229 ∧ ctlBit w 95) then some w.f1 else none
/-- R97: vector registers are tracked per register, as ranges are. -/
def vregLocked (x : Ctx) (op : Nat) (w : Fields) : Bool :=
  (vregReads op w).any (fun r => (x.vecQ.filterMap (·.vwrite)).contains r)
    || (match vregWrite op w with
        | some r => (x.vecQ.filterMap (·.vwrite)).contains r || (x.vecQ.flatMap (·.vreads)).contains r
        | none => false)

/-- The index map of R146: the index of element position `e`. -/
def mapIndex (s0 s1 : DWord) (e : Nat) : Nat :=
  let base := bitsOf s0.toNat 33 0
  let stride := bitsOf s0.toNat 63 34
  if bitOf s1.toNat 16 then
    let unit := 4096 * bitsOf s1.toNat 15 0
    let ul := e / unit
    let rem := e % unit
    let l := 128 * ul + rem % 4096 / 32
    let d := 32 * (rem / 4096) + rem % 32
    if bitOf s1.toNat 17 then base + d * stride + l else base + l * stride + d
  else base + e

/-! Rate classes (R69, R101). -/

/-- The rate classes of R69. -/
inductive RateClass
  | fp4 | fp8 | bf16
  deriving DecidableEq, Repr

/-- Is a format one of FP8-E4M3, FP8-E5M2, FP4. -/
def plainLow : Fmt → Bool
  | .e4m3 => true | .e5m2 => true | .fp4 => true
  | .fp32 => false | .bf16 => false | .fp16 => false | .int8 => false | .int32 => false
  | .mxE4m3 => false | .mxE5m2 => false | .mxE2m3 => false | .mxE3m2 => false | .mxFp4 => false
  | .mxInt8 => false | .e8m0 => false
/-- Is a format an MX floating-point format. -/
def mxFloat (f : Fmt) : Bool := fmtIsMx f && f != .mxInt8
/-- R69: the rate class of an operand pair; none where the pair is not accepted. -/
def pairClass (a b : Fmt) : Option RateClass :=
  if (a == .fp4 && b == .fp4) || (a == .mxFp4 && b == .mxFp4) then some .fp4
  else if (plainLow a && plainLow b) || (mxFloat a && mxFloat b) || (a == .int8 && b == .int8)
      || (a == .mxInt8 && b == .mxInt8) then some .fp8
  else if (a == .bf16 && b == .bf16) || (a == .fp16 && b == .fp16) then some .bf16
  else none
/-- The greatest K of a class. -/
def maxK : RateClass → Nat
  | .fp4 => 4096
  | .fp8 => 2048
  | .bf16 => 1024
/-- Stream length of a tile in cycles (R101). -/
def streamLen (a b : Fmt) (k : Nat) : Nat :=
  match pairClass a b with
  | some .fp4 => k / 2
  | some .fp8 => k
  | some .bf16 => 2 * k
  | none => 0

end Sys2Proof.Machine
end

