-- ==== Sys2Proof/Machine/Events.lean ====
section
/-!
DEFINITION. Counters, events and their records, status lines, host-access errors (chapters Faults,
the Recovery Ladder and Double Faults; Counters, Wait Tracing and the Strandline; Host Interface
and Register Map).
-/
namespace Sys2Proof.Machine

/-! Counters (R528 to R531). -/

/-- Key of a counter: set, unit, index. -/
def counterKey (set unit index : Nat) : Nat := (set * 2048 + unit) * 32 + index
/-- Key of a cove copy. -/
def coveCounterKey (cove set unit index : Nat) : Nat := ((cove * 8 + set) * 2048 + unit) * 32 + index
/-- Add to a module copy, saturating at 2^64 - 1. -/
def bump (s : State) (set unit index n : Nat) : State :=
  { s with trace := { s.trace with
      counters := Sparse.set 0 s.trace.counters (counterKey set unit index)
        (satTo 64 (Sparse.get 0 s.trace.counters (counterKey set unit index) + n)) } }
/-- Add to a cove copy. -/
def bumpCove (s : State) (cove set unit index n : Nat) : State :=
  { s with trace := { s.trace with
      coveCounters := Sparse.set 0 s.trace.coveCounters (coveCounterKey cove set unit index)
        (satTo 64 (Sparse.get 0 s.trace.coveCounters (coveCounterKey cove set unit index) + n)) } }
/-- Add to a core counter: its module copy, and its cove copy while a cove holds the core. -/
def bumpCore (s : State) (core index n : Nat) : State :=
  match coveOfCore s core with
  | some c => bumpCove (bump s 2 core index n) c 2 core index n
  | none => bump s 2 core index n
/-- Add to a cove-set counter (set 1) of a cove, when there is one. -/
def bumpCoveSet (s : State) (cove : Option Nat) (index n : Nat) : State :=
  match cove with
  | some c => bumpCove s c 1 0 index n
  | none => s

/-! Wear inputs (R478). -/

/-- Ticks of an hour. -/
def hourTicks : Nat := 3600000000000
/-- Drop the buckets that the hours since the last count have passed: 24 are kept. -/
def wearRoll (s : State) : State :=
  let hour := s.tide.now / hourTicks
  let old := s.health.wearHour
  if hour ≤ old then s
  else { s with health := { s.health with
    wearHour := hour,
    wearIn := s.health.wearIn.filter fun e => decide (hour < old + 24) &&
      !((List.range (hour - old)).any fun i => (old + 1 + i) % 24 == e.1 % 24) } }
/-- Key of an input's bucket: kinds 0 compute die, 1 shore die, 2 port, 3 HBM stack, 4 optical engine;
inputs in the order of R478. -/
def wearKey (kind unit input bucket : Nat) : Nat := ((kind * 128 + unit) * 8 + input) * 24 + bucket
/-- Count a wear input of a unit. -/
def wearAdd (s : State) (kind unit input n : Nat) : State :=
  let s := wearRoll s
  let k := wearKey kind unit input (s.health.wearHour % 24)
  { s with health := { s.health with
      wearIn := Sparse.set 0 s.health.wearIn k (Sparse.get 0 s.health.wearIn k + n) } }

/-! Status lines (R562 to R565). -/

/-- BAR0 offset of a function's ring registers less 0x008: BASE is `ringBase fn`. -/
def ringBaseReg (fn : Nat) : Nat := if fn = 0 then 0x40008 else cvReg (fn - 1) 0x800
/-- Log2 of the ring's line count. -/
def ringSize (r : StatusRing) : Nat := bitsOf r.ctrl.toNat 4 0
/-- The ring is enabled: EN set and SIZE from 6 to 16 (R569). -/
def ringEnabled (r : StatusRing) : Bool :=
  bitOf r.ctrl.toNat 5 && decide (6 ≤ ringSize r) && decide (ringSize r ≤ 16)
/-- A line can be written now: the ring is enabled and has room, the link is up and the function
issues requests (R562, R557). -/
def ringWritable (s : State) (fn : Nat) : Bool :=
  let r := (fnAt s fn).ring
  ringEnabled r && decide (r.wr - r.rd < 2 ^ ringSize r) && s.host.linkUp && !(fnAt s fn).d3hot
/-- Record a write to host memory. -/
def hostWrite (s : State) (fn iova : Nat) (bs : List Byte) : State :=
  { s with host := { s.host with written := ⟨fn, iova, bs⟩ :: s.host.written } }
/-- The 64 bytes of line `n` (R563). -/
def lineBytes (l : StatusLine) (n : Nat) : List Byte :=
  let b := leOut 8 l.tick ++ leOut 4 (n + 1) ++ leOut 1 l.kind ++ leOut 1 (min l.cove 15) ++ leOut 2 0
    ++ (l.body ++ List.replicate (44 - l.body.length) 0#8)
  b ++ leOut 4 (crcOf b)
/-- R562: write line WR of the ring and advance WR. -/
def writeLine (s : State) (fn : Nat) (l : StatusLine) : State :=
  let r := (fnAt s fn).ring
  let base := (regAt s (ringBaseReg fn)).toNat / 64 * 64
  updRing (hostWrite s fn (base + 64 * (r.wr % 2 ^ ringSize r)) (lineBytes l r.wr)) fn
    fun r => { r with wr := r.wr + 1 }
/-- Write pending lines, oldest first, while there is room. -/
def drainLines : Nat → State → Nat → State
  | 0, s, _ => s
  | n + 1, s, fn =>
    match (fnAt s fn).ring.pending with
    | [] => s
    | l :: t =>
      if ringWritable s fn then
        drainLines n (updRing (writeLine s fn l) fn fun r => { r with pending := t }) fn
      else s
/-- A status-line body: fields as (offset from 0x10, size, value). -/
def lineBody (fields : List (Nat × Nat × Nat)) : List Byte :=
  memRead (fields.foldl (fun m f => memWrite m f.1 (leOut f.2.1 f.2.2)) []) 0 44
/-- The bytes of a record given as (offset, size, value) fields. -/
def packFields (len : Nat) (fields : List (Nat × Nat × Nat)) : List Byte :=
  memRead (fields.foldl (fun m f => memWrite m f.1 (leOut f.2.1 f.2.2)) []) 0 len
/-- Every place of the pending store is used (R562). -/
def storeFull (s : State) (fn : Nat) : Bool :=
  decide (64 ≤ (fnAt s fn).ring.pending.length + (fnAt s fn).ring.reserved)
/-- A completion line: it frees its reserved place, and waits behind earlier pending lines. -/
def completionLine (s : State) (fn kind cove : Nat) (body : List (Nat × Nat × Nat)) : State :=
  let l : StatusLine := ⟨s.tide.now, kind, cove, lineBody body⟩
  let s := updRing s fn fun r => { r with reserved := r.reserved - 1, pending := r.pending ++ [l] }
  drainLines 64 s fn

/-! Events (R517 to R521, R543, R545, R564, R671). -/

/-- Severity code of R519. -/
def sevCode : Severity → Nat
  | .corrected => 0
  | .stepContained => 1
  | .coveFatal => 2
  | .moduleFatal => 3

/-- The notice line of kind 0x06 for one function, dropped when it cannot be written. -/
def noticeLine (s : State) (fn : Nat) (e : Event) (ring wr : Nat) : State :=
  let r := (fnAt s fn).ring
  let level := bitsOf r.ctrl.toNat 7 6
  if level = 0 || sevCode e.severity + level < 3 then s
  else if ringWritable s fn && r.pending.isEmpty then
    writeLine s fn ⟨s.tide.now, 6, e.cove, lineBody
      [(0, 2, e.code), (2, 1, sevCode e.severity), (4, 4, e.reporter), (8, 8, e.step),
       (0x10, 8, ring), (0x18, 8, wr), (0x20, 8, e.detail.headD 0)]⟩
  else updRing s fn fun r => { r with dropped := satTo 32 (r.dropped + 1), dropEpisode := true }

/-- Records of an error ring (R518). -/
def errCapacity (r : Nat) : Nat := if r < 16 then 65536 else 262144

/-- Add an event to a summary list (R521): merge with the source's summary, else take a new entry;
none when the store of 4,096 is full. -/
def coalesce (ring : Nat) (e : Event) : List (Nat × Event) → Option (List (Nat × Event))
  | [] => some [(ring, { e with summary := true, lastTick := e.tick })]
  | (r, x) :: t =>
    if r = ring ∧ x.code = e.code ∧ x.reporter = e.reporter ∧ x.cove = e.cove then
      some ((r, { x with count := x.count + 1, lastTick := e.tick, srcCount := e.srcCount }) :: t)
    else (coalesce ring e t).map ((r, x) :: ·)

/-- Append a record to an error ring, or coalesce it when the ring is full or has summaries
waiting. -/
def ringPut (s : State) (ring : Nat) (e : Event) : State :=
  let r := ringAt s ring
  if r.wr - r.rd < errCapacity ring ∧ r.episode = none then
    updErrRing s ring fun r => { r with wr := r.wr + 1, recs := r.recs ++ [e] }
  else
    let s := bump s 0 0 2 1
    let s := updErrRing s ring fun r =>
      { r with coalesced := satTo 32 (r.coalesced + 1), episode := some (r.episode.getD 0 + 1) }
    match coalesce ring e s.trace.summaries with
    | some l =>
      if l.length ≤ 4096 then { s with trace := { s.trace with summaries := l } }
      else updErrRing s ring fun r => { r with lost := satTo 32 (r.lost + 1) }
    | none => s

/-- Flag [4] of an entry: the tide counter is not yet set (R543). -/
def tickEarly (s : State) : Bool := !s.tide.marked

/-- Queue a strandline entry, or coalesce it when the queue of 64 is full (R545, R550). -/
def strandPut (s : State) (e : Event) : State :=
  if s.trace.slFail then s
  else if s.trace.slQueue.length < 64 then
    let e := if tickEarly s then { e with tick := s.fw.upTime / 1000 } else e
    let entry : StrandEntry :=
      ⟨s.trace.slSeq, e, s.recov.headland, s.health.poweredHours, s.recov.resets, tickEarly s, !s.fw.ready⟩
    let q := s.trace.slQueue ++ [entry]
    bump { s with trace := { s.trace with
      slQueue := q, slSeq := s.trace.slSeq + 1, slMaxQueue := max s.trace.slMaxQueue q.length } } 0 0 3 1
  else
    let sums := (coalesce 16 e (s.trace.slSummaries.map (16, ·))).getD []
    bump { s with trace := { s.trace with
      slSummaries := (sums.map (·.2)).take 4096,
      slCoalesced := satTo 32 (s.trace.slCoalesced + 1),
      slEpisode := some (s.trace.slEpisode.getD 0 + 1) } } 0 0 4 1

/-- Count an event of a source and of its cove (R517, R535). -/
def countSource (s : State) (code reporter cove : Nat) : State :=
  let k := code * 2048 + reporter
  let s := { s with trace := { s.trace with
    sources := Sparse.set 0 s.trace.sources k (satTo 32 (Sparse.get 0 s.trace.sources k + 1)) } }
  if cove < 16 then
    let kc := (cove * 65536 + code) * 2048 + reporter
    { s with trace := { s.trace with
      coveSources := Sparse.set 0 s.trace.coveSources kc
        (satTo 32 (Sparse.get 0 s.trace.coveSources kc + 1)) } }
  else s

/-- Record one event without opening an episode: count it, write its error record, its strandline
entry and its notice lines. -/
def recordPlain (s : State) (code : Nat) (sev : Severity) (cove reporter : Nat)
    (detail : List Nat) : State :=
  let s := bump (countSource s code reporter cove) 0 0 1 1
  let src := Sparse.get 0 s.trace.sources (code * 2048 + reporter)
  let step := if cove < 16 then (coveAt s cove).step.toNat else 0
  let e : Event := ⟨code, sev, cove, reporter, s.tide.now, step, 1, src, false, 0, detail⟩
  let ring := if cove < 16 then cove else 16
  let before := ringAt s ring
  let coalesces := ¬ (before.wr - before.rd < errCapacity ring ∧ before.episode = none)
  let s := strandPut (ringPut s ring e) e
  let wr := if coalesces then 2 ^ 64 - 1 else before.wr
  let s := noticeLine s 0 e ring wr
  if cove < 16 then noticeLine s (cove + 1) e ring wr else s

/-- Record one event. The first event of an episode of coalescing, of its ring or of the strandline, records event 0xA041
(R521); the
first notice dropped in an episode records event 0xB020 (R562). -/
def record (s : State) (code : Nat) (sev : Severity) (cove reporter : Nat)
    (detail : List Nat) : State :=
  let ring := if cove < 16 then cove else 16
  let ring0 := (ringAt s ring).episode.isSome
  let strand0 := s.trace.slEpisode.isSome
  let drop0 := (fnAt s 0).ring.dropEpisode || (cove < 16 && (fnAt s (cove + 1)).ring.dropEpisode)
  let s := recordPlain s code sev cove reporter detail
  let s := if (!ring0 && (ringAt s ring).episode.isSome) || (!strand0 && s.trace.slEpisode.isSome) then
      recordPlain s 0xA041 .corrected 16 1296 [] else s
  if !drop0 && ((fnAt s 0).ring.dropEpisode || (cove < 16 && (fnAt s (cove + 1)).ring.dropEpisode))
  then recordPlain s 0xB020 .corrected 16 1296
    [if (fnAt s 0).ring.dropEpisode then 0 else cove + 1]
  else s

/-- An event of the headland about the module: reporter 1,296. -/
def recordHead (s : State) (code : Nat) (sev : Severity) (detail : List Nat) : State :=
  record s code sev 16 1296 detail
/-- An event of the headland charged to a cove. -/
def recordCove (s : State) (code : Nat) (sev : Severity) (cove : Nat) (detail : List Nat) : State :=
  record s code sev cove 1296 detail

/-- An event of a port: reporter 1,408 + port (R520). -/
def recordPort (s : State) (port code : Nat) (detail : List Nat) : State :=
  record s code .corrected 16 (1408 + port) detail

/-- Reserve a place of a function's pending store for an action that will end in a completion line
(R562); event 0xB021 when that fills the store. -/
def reserveLine (s : State) (fn : Nat) : State :=
  let s := updRing s fn fun r => { r with reserved := r.reserved + 1 }
  if storeFull s fn && !(fnAt s fn).ring.fullEpisode then
    recordHead (updRing s fn fun r => { r with fullEpisode := true }) 0xB021 .corrected [fn]
  else s

/-- R581: a request to host memory failed: event 0xB030 with the function and the IOVA. -/
def hostFailed (s : State) (fn iova : Nat) : State :=
  record s 0xB030 .corrected (if fn = 0 then 16 else fn - 1) 1296 [fn, iova]

/-- R569: count and report a host-access error of a function at an offset within its BAR. -/
def hostError (s : State) (fn kind offset : Nat) : State :=
  let err := BitVec.ofNat 64 (kind + fn * 16 + offset % 2 ^ 25 * 2 ^ 32)
  let s := { s with host := { s.host with hosterr := err } }
  let s := if fn = 0 then bump s 0 0 0 1 else bumpCove s (fn - 1) 1 0 7 1
  record s 0xB010 .corrected (if fn = 0 then 16 else fn - 1) 1296 [err.toNat]

end Sys2Proof.Machine
end

