-- ==== Sys2Proof/Machine/Phy.lean ====
section
/-!
DEFINITION. A link's coding: the two Reed-Solomon codes, the scrambler, lanes and PAM4 levels, the link-control field and
the header flit (R240, R241, R248, R250, R261, R262). The spec leaves the order of bits within symbols, the seed of the
scrambler and the roots of the generators open: log entry 85.
-/
namespace Sys2Proof.Machine

/-! ### GF(2^10) (R248) -/

/-- Twice an element, modulo x^10 + x^3 + 1. -/
def gfDouble (a : Nat) : Nat := if a < 512 then 2 * a else (2 * a) ^^^ 0x409
/-- The product: the multiples of `a` by the powers of x that `b` holds. -/
def gfMul (a b : Nat) : Nat :=
  ((List.range 10).foldl (fun (r : Nat × Nat) i => (if bitOf b i then r.1 ^^^ r.2 else r.1, gfDouble r.2)) (0, a)).1
/-- The inverse, a to the power 1,022. -/
def gfInv (a : Nat) : Nat :=
  ((List.range 9).foldl (fun (r : Nat × Nat) _ => (gfMul r.1 (gfMul r.2 r.2), gfMul r.2 r.2)) (1, a)).1
/-- The power n of the primitive element x. -/
def gfExp : Nat → Nat
  | 0 => 1
  | n + 1 => gfDouble (gfExp n)
/-- The first n powers of an element. -/
def gfPowers (a : Nat) : Nat → Nat → List Nat
  | 0, _ => []
  | n + 1, p => p :: gfPowers a n (gfMul p a)
/-- The sum of two polynomials, coefficient by coefficient. -/
def polyAdd : List Nat → List Nat → List Nat
  | [], q => q
  | p, [] => p
  | a :: p, b :: q => (a ^^^ b) :: polyAdd p q
/-- The product of two polynomials, lowest coefficient first. -/
def polyMul : List Nat → List Nat → List Nat
  | [], _ => []
  | a :: p, q => polyAdd (q.map (gfMul a)) (0 :: polyMul p q)
/-- The value of a polynomial, lowest coefficient first. -/
def polyEval (p : List Nat) (x : Nat) : Nat := p.foldr (fun c r => c ^^^ gfMul r x) 0
/-- The formal derivative: the odd coefficients, one place down. -/
def polyDeriv : List Nat → List Nat
  | [] => []
  | _ :: p => p.zipIdx.map fun c => if c.2 % 2 = 0 then c.1 else 0

/-! ### The codes (R248) -/

/-- Symbols of a codeword, data symbols, flits and control bits. -/
def codeSymbols (rs : Bool) : Nat := if rs then 544 else 136
/-- Parity symbols: twice the symbols that the code corrects, and one more in RS(136,129). -/
def codeParity (rs : Bool) : Nat := if rs then 30 else 7
/-- Symbols that the code corrects. -/
def codeFixes (rs : Bool) : Nat := if rs then 15 else 3
/-- Flits in a codeword. -/
def codeFlits (rs : Bool) : Nat := if rs then 20 else 5
/-- Control bits of a codeword. -/
def codeControl (rs : Bool) : Nat := if rs then 20 else 10
/-- Codeword time C in ps. -/
def codeTime (rs : Bool) : Nat := if rs then 12800 else 3200
/-- Encode and decode times together, in ps. -/
def codeDelay (rs : Bool) : Nat := if rs then 17200 else 6800
/-- Codewords of the replay buffer (R251); the reference of a link-control field counts modulo the same number. -/
def codeReplay (rs : Bool) : Nat := if rs then 4096 else 256
/-- The generator polynomial with the roots x^0 to x^(r-1), lowest coefficient first. -/
def generator (r : Nat) : List Nat := (List.range r).foldl (fun g i => polyMul g [gfExp i, 1]) [1]
/-- The parity of data symbols, the symbol of highest degree first: the remainder by the generator. -/
def rsParity (r : Nat) (data : List Nat) : List Nat :=
  let g := ((generator r).take r).reverse
  data.foldl (fun reg d =>
    let f := d ^^^ reg.headD 0
    polyAdd (reg.drop 1 ++ [0]) (g.map (gfMul f))) (List.replicate r 0)
/-- The codeword of data symbols. -/
def rsEncode (rs : Bool) (data : List Nat) : List Nat := data ++ rsParity (codeParity rs) data
/-- The syndromes of a received word. -/
def syndromes (r : Nat) (word : List Nat) : List Nat :=
  (List.range r).map fun i => let x := gfExp i; word.foldl (fun v c => gfMul v x ^^^ c) 0
/-- One step of Berlekamp and Massey: the locator, the last locator before a change of length, the length, that step's
discrepancy and the steps since. -/
def locatorStep (syn : List Nat) (a : List Nat × List Nat × Nat × Nat × Nat) (n : Nat) :
    List Nat × List Nat × Nat × Nat × Nat :=
  let d := (List.range (a.2.2.1 + 1)).foldl (fun v i => v ^^^ gfMul (a.1.getD i 0) (syn.getD (n - i) 0)) 0
  if d = 0 then (a.1, a.2.1, a.2.2.1, a.2.2.2.1, a.2.2.2.2 + 1)
  else
    let k := gfMul d (gfInv a.2.2.2.1)
    let c := polyAdd a.1 (List.replicate a.2.2.2.2 0 ++ a.2.1.map (gfMul k))
    if 2 * a.2.2.1 ≤ n then (c, a.1, n + 1 - a.2.2.1, d, 1) else (c, a.2.1, a.2.2.1, a.2.2.2.1, a.2.2.2.2 + 1)
/-- The error locator and the number of errors it speaks of. -/
def locator (r : Nat) (syn : List Nat) : List Nat × Nat :=
  let a := (List.range r).foldl (locatorStep syn) ([1], [1], 0, 1, 1)
  (a.1, a.2.2.1)
/-- Decode a received word: the symbols that were wrong, and the codeword; none where more are wrong than the code
corrects. -/
def rsDecode (rs : Bool) (word : List Nat) : Option (Nat × List Nat) :=
  let r := codeParity rs
  let syn := syndromes r word
  if word.length ≠ codeSymbols rs then none
  else if syn.all (· == 0) then some (0, word)
  else
    let l := locator r syn
    if codeFixes rs < l.2 then none
    else
      let omega := (polyMul syn l.1).take r
      let deriv := polyDeriv l.1
      let fixed := word.reverse.zip (gfPowers 2 word.length 1) |>.map fun p =>
        let y := gfInv p.2
        if polyEval l.1 y = 0 then (1, p.1 ^^^ gfMul p.2 (gfMul (polyEval omega y) (gfInv (polyEval deriv y)))) else (0, p.1)
      let out := (fixed.map (·.2)).reverse
      let n := (fixed.map (·.1)).foldl (· + ·) 0
      if n = l.2 ∧ (syndromes r out).all (· == 0) then some (n, out) else none

/-! ### Bits, the scrambler and symbols (R241) -/

/-- The n low bits of a number, least significant first. -/
def bitsLow (n v : Nat) : List Bool := (List.range n).map (bitOf v)
/-- The number whose low bits are given. -/
def ofBits (l : List Bool) : Nat := l.foldr (fun b v => 2 * v + natOf b) 0
/-- Cut a list into pieces of n; the fuel is the number of pieces. -/
def cutEvery {α : Type} (n : Nat) : Nat → List α → List (List α)
  | 0, _ => []
  | k + 1, l => l.take n :: cutEvery n k (l.drop n)
/-- Scramble with 1 + x^39 + x^58: each bit is added to the scrambled bits 39 and 58 places before it; `reg` holds the last
58 of them, the newest first. -/
def scramble : List Bool → List Bool → List Bool
  | _, [] => []
  | reg, b :: t =>
    let o := (b ^^ reg.getD 38 false) ^^ reg.getD 57 false
    o :: scramble (o :: reg.take 57) t
/-- Undo it: the register holds the received bits. -/
def descramble : List Bool → List Bool → List Bool
  | _, [] => []
  | reg, b :: t => ((b ^^ reg.getD 38 false) ^^ reg.getD 57 false) :: descramble (b :: reg.take 57) t
/-- The register at the start of a codeword (log entry 85). -/
def scrambleSeed : List Bool := List.replicate 58 true
/-- An idle flit (R261). -/
def idleFlit : List Byte := List.replicate 32 0#8
/-- The data symbols of a codeword: its flits, then the link-control field. -/
def dataSymbols (rs : Bool) (flits : List (List Byte)) (control : Nat) : List Nat :=
  let bits := (flits.flatten.flatMap fun b => bitsLow 8 b.toNat) ++ bitsLow (codeControl rs) control
  (cutEvery 10 (codeSymbols rs - codeParity rs) (scramble scrambleSeed bits)).map ofBits
/-- The flits and the link-control field of data symbols. -/
def ofDataSymbols (rs : Bool) (symbols : List Nat) : List (List Byte) × Nat :=
  let bits := descramble scrambleSeed (symbols.flatMap (bitsLow 10))
  let bytes := (cutEvery 8 (32 * codeFlits rs) bits).map fun b => BitVec.ofNat 8 (ofBits b)
  (cutEvery 32 (codeFlits rs) bytes, ofBits (bits.drop (256 * codeFlits rs)))

/-! ### Lanes and levels (R241) -/

/-- The Gray-coded PAM4 level of a pair of bits. -/
def grayLevel (first second : Bool) : Nat := if first then (if second then 2 else 3) else natOf second
/-- The bits of a level. -/
def levelBits (l : Nat) : List Bool := [decide (2 ≤ l), l == 1 || l == 2]
/-- The levels of a bit string, two bits a level. -/
def pamLevels : List Bool → List Nat
  | a :: b :: t => grayLevel a b :: pamLevels t
  | _ => []
/-- The 1/(1+D) precoding: each level less the one sent before, modulo 4. -/
def precode : Nat → List Nat → List Nat
  | _, [] => []
  | p, g :: t => (g + 4 - p % 4) % 4 :: precode ((g + 4 - p % 4) % 4) t
/-- Undo it: each level and the one received before, modulo 4. -/
def unprecode : Nat → List Nat → List Nat
  | _, [] => []
  | p, r :: t => (r + p) % 4 :: unprecode r t
/-- Every other item of a list, from the first. -/
def everyOther {α : Type} : List α → List α
  | [] => []
  | [a] => [a]
  | a :: _ :: t => a :: everyOther t
/-- Deal symbols back from two lanes, the even ones first. -/
def undeal : List Nat → List Nat → List Nat
  | a :: s, b :: t => a :: b :: undeal s t
  | _, _ => []
/-- The levels of a lane's symbols. -/
def laneLevels (pre : Bool) (last : Nat) (symbols : List Nat) : List Nat :=
  let l := symbols.flatMap fun v => pamLevels (bitsLow 10 v)
  if pre then precode last l else l
/-- The symbols of a lane's levels, five levels a symbol. -/
def laneSymbols (pre : Bool) (last : Nat) (levels : List Nat) : List Nat :=
  let l := if pre then unprecode last levels else levels
  (cutEvery 5 (levels.length / 5) l).map fun c => ofBits (c.flatMap levelBits)
/-- The symbols of a received codeword. -/
def receivedWord (pre0 pre1 : Bool) (last0 last1 : Nat) (lane0 lane1 : List Nat) : List Nat :=
  undeal (laneSymbols pre0 last0 lane0) (laneSymbols pre1 last1 lane1)
/-- Levels of a codeword on one lane. -/
def laneLength (rs : Bool) : Nat := codeSymbols rs / 2 * 5
/-- R241: the search for a codeword boundary: the first place at which a whole codeword has zero syndromes. -/
def findBoundary (rs pre0 pre1 : Bool) (lane0 lane1 : List Nat) : Option Nat :=
  (List.range (laneLength rs)).find? fun b =>
    let at_ := fun (l : List Nat) => (l.drop b).take (laneLength rs)
    let last := fun (l : List Nat) => if b = 0 then 0 else l.getD (b - 1) 0
    decide (b + laneLength rs ≤ min lane0.length lane1.length)
      && (syndromes (codeParity rs) (receivedWord pre0 pre1 (last lane0) (last lane1) (at_ lane0) (at_ lane1))).all (· == 0)

/-! ### The link-control field (R250) -/

/-- A NAK or a replay with the codeword it names. -/
def controlField (rs : Bool) (nak replay : Option Nat) : Nat :=
  match nak, replay with
  | _, some n => 2 + 4 * (n % codeReplay rs)
  | some n, none => 1 + 4 * (n % codeReplay rs)
  | none, none => 0
/-- The codeword that a field names. -/
def controlRef (rs : Bool) (control : Nat) : Nat := control / 4 % codeReplay rs

/-! ### The header flit (R261, R262) -/

/-- Bytes 0x00 to 0x1A of a packet's header. -/
def headerHead (p : Packet) : List Byte :=
  leOut 1 (p.ptype % 16 + 16 * (p.gen % 16))
    ++ leOut 1 (p.cls % 16 + 16 * (p.transit % 4) + 64 * natOf p.late + 128 * natOf p.resent)
    ++ leOut 1 ((p.data.length + 31) / 32) ++ leOut 1 p.op ++ leOut 4 p.jobTag.toNat ++ leOut 8 p.dest.toNat
    ++ leOut 2 p.srcModule ++ leOut 2 (p.srcUnit % 2048) ++ leOut 2 p.seq ++ leOut 2 p.tag ++ leOut 3 p.due
/-- The header check. -/
def headerCrc (l : List Byte) : Nat := crc8 0 ((l.take 0x1B).map (·.toNat))
/-- The header flit of a packet. -/
def headerFlit (p : Packet) : List Byte := headerHead p ++ leOut 1 (headerCrc (headerHead p)) ++ leOut 4 p.tally
/-- The flits of a packet, its data padded to whole flits. -/
def packetFlits (p : Packet) : List (List Byte) :=
  let n := (p.data.length + 31) / 32
  headerFlit p :: cutEvery 32 n (p.data ++ List.replicate (32 * n - p.data.length) 0#8)
/-- A stamp of R294: 8 bytes of tick and one of 1/256 ns. -/
def stampBytes (t : Nat) : List Byte := leOut 8 (t / 256) ++ leOut 1 (t % 256)
/-- A field of a flit. -/
def flitField (l : List Byte) (off n : Nat) : Nat := leVal ((l.drop off).take n)
/-- Data flits that a header announces. -/
def headerFlits (h : List Byte) : Nat := flitField h 2 1
/-- The packet of a header and its data. -/
def packetOf (h data : List Byte) : Packet :=
  { ptype := flitField h 0 1 % 16, gen := flitField h 0 1 / 16, cls := flitField h 1 1 % 16,
    transit := flitField h 1 1 / 16 % 4, late := bitOf (flitField h 1 1) 6, resent := bitOf (flitField h 1 1) 7,
    op := flitField h 3 1, jobTag := BitVec.ofNat 32 (flitField h 4 4), dest := BitVec.ofNat 64 (flitField h 8 8),
    srcModule := flitField h 0x10 2, srcUnit := flitField h 0x12 2 % 2048, seq := flitField h 0x14 2,
    tag := flitField h 0x16 2, due := flitField h 0x18 3, tally := flitField h 0x1C 4, data := data,
    slot := Config.slotOfHeader h }

/-- What a run of flits comes to: the packets completed in order, and what ends it. -/
inductive FlitEnd
  /-- Every flit was taken; the packet in progress is the header and its data flits. -/
  | whole (header : Option (List Byte)) (data : List (List Byte))
  /-- R262: a header check fails, or a header announces more than 128 data flits (R261). -/
  | bad
  /-- R263: a header of reserved type, with the flits before it. -/
  | reserved (taken : Nat)
  deriving DecidableEq, Repr
/-- Take flits in order: `header` and `data` are the packet in progress, `taken` the flits before, `out` the packets
completed, newest first. An idle flit, or a header of type 0x0, carries no packet. -/
def takeFlits : List (List Byte) → Option (List Byte) → List (List Byte) → Nat → List Packet → List Packet × FlitEnd
  | [], h, d, _, out => (out.reverse, .whole h d)
  | f :: t, some h, d, n, out =>
    let d := d ++ [f]
    if d.length = headerFlits h then takeFlits t none [] (n + 1) (packetOf h d.flatten :: out)
    else takeFlits t (some h) d (n + 1) out
  | f :: t, none, _, n, out =>
    if f = idleFlit then takeFlits t none [] (n + 1) out
    else if headerCrc f ≠ flitField f 0x1B 1 ∨ 128 < headerFlits f then (out.reverse, .bad)
    else if 9 ≤ flitField f 0 1 % 16 then (out.reverse, .reserved n)
    else if headerFlits f = 0 then
      takeFlits t none [] (n + 1) (if flitField f 0 1 % 16 = 0 then out else packetOf f [] :: out)
    else takeFlits t (some f) [] (n + 1) out

/-! ### Codewords -/

/-- The levels of a codeword on the two lanes. -/
def codewordLevels (rs pre0 pre1 : Bool) (last0 last1 : Nat) (flits : List (List Byte)) (control : Nat) :
    List Nat × List Nat :=
  let word := rsEncode rs (dataSymbols rs flits control)
  (laneLevels pre0 last0 (everyOther word), laneLevels pre1 last1 (everyOther (word.drop 1)))
/-- A received codeword: symbols corrected, its flits and its link-control field; none when it cannot be decoded. -/
def decodeLevels (rs pre0 pre1 : Bool) (last0 last1 : Nat) (lane0 lane1 : List Nat) :
    Option (Nat × List (List Byte) × Nat) :=
  (rsDecode rs (receivedWord pre0 pre1 last0 last1 lane0 lane1)).map fun r =>
    (r.1, ofDataSymbols rs (r.2.take (codeSymbols rs - codeParity rs)))

end Sys2Proof.Machine
end

