-- ==== Sys2Proof/Machine/Tables.lean ====
section
/-!
DEFINITION. Reading the tide tables (R295 to R307): entries, plan words, spans, owners, slots and
shares in force. Kinds are 0 cluster (instance: cove), 1 port (shore die), 2 HBM wain (shore die),
3 near-memory wain (compute die).
-/
namespace Sys2Proof.Machine

/-- Key of a table entry. -/
def tableKey (kind inst : Nat) (bank : Bool) (e : Nat) : Nat :=
  ((kind * 64 + inst) * 2 + natOf bank) * 4096 + e
/-- A table entry as a number. -/
def tableEntry (s : State) (kind inst : Nat) (bank : Bool) (e : Nat) : Nat :=
  (Sparse.get 0#64 s.tide.tables (tableKey kind inst bank e)).toNat
/-- Store a table entry. -/
def setTable (s : State) (kind inst : Nat) (bank : Bool) (e : Nat) (v : DWord) : State :=
  { s with tide := { s.tide with
      tables := Sparse.set 0#64 s.tide.tables (tableKey kind inst bank e) v } }

/-- The entries of a list from `e`, up to its Last bit (R296), with their numbers. -/
def listFrom (s : State) (kind inst : Nat) (bank : Bool) : Nat → Nat → List (Nat × Nat)
  | 0, _ => []
  | n + 1, e =>
    let w := tableEntry s kind inst bank e
    if bitOf w 63 then [(e, w)] else (e, w) :: listFrom s kind inst bank n (e + 1)
/-- The list of a bank; a cluster table ends before entry 4,088 (R301). -/
def tableList (s : State) (kind inst : Nat) (bank : Bool) : List (Nat × Nat) :=
  listFrom s kind inst bank (if kind = 0 then 4088 else 4096) 0

/-- Plan words of a cove's bank (R301). -/
def planCommitOffset (s : State) (c : Nat) (b : Bool) : Nat := bitsOf (tableEntry s 0 c b 4088) 39 0
/-- Slack length. -/
def planSlack (s : State) (c : Nat) (b : Bool) : Nat := bitsOf (tableEntry s 0 c b 4089) 21 0
/-- Commit quantum q. -/
def planQuantum (s : State) (c : Nat) (b : Bool) : Nat := bitsOf (tableEntry s 0 c b 4090) 15 0
/-- Cycle exponent of the cove's cluster table. -/
def planCycle (s : State) (c : Nat) (b : Bool) : Nat := bitsOf (tableEntry s 0 c b 4091) 4 0
/-- Generation that the bank carries. -/
def planGen (s : State) (c : Nat) (b : Bool) : Nat := bitsOf (tableEntry s 0 c b 4091) 11 8
/-- Clock point. -/
def planClock (s : State) (c : Nat) (b : Bool) : Nat := bitsOf (tableEntry s 0 c b 4091) 13 12
/-- Compiled for hot refresh. -/
def planHot (s : State) (c : Nat) (b : Bool) : Bool := bitOf (tableEntry s 0 c b 4091) 14

/-- Fields of a cluster entry: start, owner, when, else, yield (R299). -/
def spanStart (w : Nat) : Nat := bitsOf w 21 0
/-- Owner code in a phase: Owner when its When holds, Else otherwise (R300). -/
def spanOwner (w : Nat) (slack : Bool) : Nat :=
  let holds := match bitsOf w 26 25 with | 0 => true | 1 => !slack | 2 => slack | _ => false
  if holds then bitsOf w 24 22 else bitsOf w 29 27

/-- The span of a list in force at a position: the entry with the greatest start not above it, or
the last entry, which wraps (R296). -/
def spanAt (l : List (Nat × Nat)) (pos : Nat) : Option (Nat × Nat) :=
  ((l.filter fun e => decide (spanStart e.2 ≤ pos)).getLast?).orElse fun _ => l.getLast?

/-- The bank a die follows for its cove: a lagging die keeps the previous one (R311). -/
def coveBankOf (s : State) (c die : Nat) : Bool :=
  let t := coveTideAt s c
  if Sparse.get false t.lag die then t.prevBank else t.bank
/-- The configuration generation a die carries for its cove (R312). -/
def coveGenOf (s : State) (c die : Nat) : Nat :=
  let t := coveTideAt s c
  if Sparse.get false t.lag die then t.prevGen else t.gen
/-- Clock point in force on a die: a free die runs at 0.9 GHz, a trip moves every die there (R38,
R630); so does one that its cove has not yet loaded (R343). -/
def clockOf (s : State) (die : Nat) : Nat :=
  if s.pwr.tripActive then 2
  else match coveOfDie s die with
    | none => 2
    | some c =>
      let t := coveTideAt s c
      if t.slow || !(coveAt s c).atClock.getLsbD die then 2 else if Sparse.get false t.lag die then t.prevClock else t.clock
/-- Four bits in reverse order. -/
def rev4 (n : Nat) : Nat :=
  8 * bitsOf n 0 0 + 4 * bitsOf n 1 1 + 2 * bitsOf n 2 2 + bitsOf n 3 3
/-- R326: Yield spans and shares of a table with cycle exponent `c` are withheld in this cycle, by
the level in force since the cycle began. -/
def withheld (s : State) (c : Nat) : Bool :=
  let start := s.tide.now / 2 ^ c * 2 ^ c
  let level := match s.tide.withholdLog.find? fun e => decide (e.1 ≤ start) with
    | some e => e.2
    | none => 0
  decide (rev4 (s.tide.now / 2 ^ c % 16) < level)
/-- A copy entry of R366 at a BAR0 offset: source, destination, length, flags. -/
def copyEntry (s : State) (off : Nat) : Nat × Nat × Nat × Nat :=
  ((regAt s off).toNat, (regAt s (off + 8)).toNat, (regAt s (off + 16)).toNat, (regAt s (off + 24)).toNat)
/-- Entries that are valid and neither done nor failed. -/
def openEntries (s : State) (base n : Nat) : List Nat :=
  ((List.range n).map fun e => base + 0x20 * e).filter fun off =>
    bitsOf (copyEntry s off).2.2.2 2 0 == 1
/-- The tick at which a cove's slack water ends, on its plan. -/
def slackEnd (s : State) (c : Nat) : Tick :=
  (coveTideAt s c).slackStart + planSlack s c (coveTideAt s c).bank
/-- Nothing stands against action `n` of R48 in this slack water: none after it has been done, none up to it deferred. -/
def actionFree (v : Cove) (n : Nat) : Bool := decide (v.actionsDone < n) && (v.barred == 0 || decide (n < v.barred))
/-- An action 1 to 5 of R48 is still to be done in this slack water or has been deferred, so that evaluation slots, chaff
runs and prefetch (actions 6 and 7) have not begun. -/
def actionsAhead (s : State) (c : Nat) : Bool :=
  let v := coveAt s c
  let t := coveTideAt s c
  v.barred != 0 || (v.evalArm && actionFree v 1)
    || (v.reshapeOk && v.reshape.isSome && actionFree v 2)
    || (!(openEntries s (cvReg c 0x400) 32).isEmpty && actionFree v 4)
    || (t.ctrl.arm && actionFree v 5 && (t.held || decide (t.switchTick.toNat ≤ slackEnd s c)))
/-- The effective owner of a cove's clusters on a die at the current tick (R48, R300): 5 is idle. -/
def effectiveOwner (s : State) (c die : Nat) : Nat :=
  let t := coveTideAt s c
  let bank := coveBankOf s c die
  match spanAt (tableList s 0 c bank) (s.tide.now % 2 ^ planCycle s c bank) with
  | some e =>
    if (bitOf e.2 30 && withheld s (planCycle s c bank)) || (t.slack && actionsAhead s c) then 5
    else spanOwner e.2 t.slack
  | none => 5

/-- When condition of a port or wain entry for its cove (R303, R306): cove 0xF is always in
force. -/
def whenHolds (s : State) (when_ cove : Nat) : Bool :=
  match when_ with
  | 0 => true
  | 1 => cove < 16 && !(coveTideAt s cove).slack
  | 2 => cove < 16 && (coveTideAt s cove).slack
  | _ => false

/-- Entries in force at a position of a wain table: those whose start is the greatest start not
above it (R306). -/
def sharesAt (l : List (Nat × Nat)) (pos : Nat) : List (Nat × Nat) :=
  match spanAt l pos with
  | some e => l.filter fun x => spanStart x.2 == spanStart e.2
  | none => []

/-- The active module bank on a unit: compute dies 0 to 63, shore dies 64 to 79 (R311). -/
def moduleBankOf (s : State) (unit : Nat) : Bool :=
  let lagging := if unit < 64 then Sparse.get false s.tide.lag unit
    else Sparse.get false s.tide.lagShore (unit - 64)
  if lagging then !s.tide.mbank else s.tide.mbank
/-- The module generation on a unit. -/
def moduleGenOf (s : State) (unit : Nat) : Nat :=
  let lagging := if unit < 64 then Sparse.get false s.tide.lag unit
    else Sparse.get false s.tide.lagShore (unit - 64)
  if lagging then s.tide.prevMgen else s.tide.mgen

/-! ### The torus (R32 to R34) -/

/-- Hops between positions of a ring of 8. -/
def ringDist (x y : Nat) : Nat := min ((y + 8 - x) % 8) (8 - (y + 8 - x) % 8)
/-- Hops between two compute dies. -/
def hopsBetween (a b : Nat) : Nat := ringDist (a % 8) (b % 8) + ringDist (a / 8) (b / 8)
/-- The two compute dies that adjoin a shore die (R32). -/
def adjoining (n : Nat) : Nat × Nat :=
  if n < 4 then (2 * n, 2 * n + 1)
  else if n < 8 then (16 * (n - 4) + 7, 16 * (n - 4) + 15)
  else if n < 12 then (63 - 2 * (n - 8), 62 - 2 * (n - 8))
  else (56 - 16 * (n - 12), 48 - 16 * (n - 12))
/-- The adjoining die that traffic from a die to a shore die uses: fewer hops, then the lower
number (R33). -/
def shoreGate (die n : Nat) : Nat :=
  let p := adjoining n
  let lo := min p.1 p.2
  let hi := max p.1 p.2
  if hopsBetween die hi < hopsBetween die lo then hi else lo
/-- Moves along one ring: `up` toward increasing index, at most 4 hops and on a tie, else `down`. -/
def legMoves (x y up down : Nat) : List Nat :=
  let d := (y + 8 - x) % 8
  if d ≤ 4 then List.replicate d up else List.replicate (8 - d) down
/-- A die's neighbour: 1 north, 2 east, 3 south, 4 west. -/
def neighbour (d move : Nat) : Nat :=
  let r := d / 8
  let c := d % 8
  match move with
  | 1 => (r + 7) % 8 * 8 + c
  | 2 => r * 8 + (c + 1) % 8
  | 3 => (r + 1) % 8 * 8 + c
  | _ => r * 8 + (c + 7) % 8
/-- Moves of a route in row-first or column-first order. -/
def routeMoves (a b : Nat) (columnFirst : Bool) : List Nat :=
  let row := legMoves (a % 8) (b % 8) 2 4
  let col := legMoves (a / 8) (b / 8) 3 1
  if columnFirst then col ++ row else row ++ col
/-- The dies a route enters. -/
def diesEntered : Nat → List Nat → List Nat
  | _, [] => []
  | d, m :: t => neighbour d m :: diesEntered (neighbour d m) t
/-- A route is broken when it would enter a die whose routers are fenced (R34). -/
def routeBroken (s : State) (a : Nat) (moves : List Nat) : Bool :=
  (diesEntered a moves).any fun d => Sparse.get false s.health.routerFence d
/-- The moves from one die to another, column first where a fenced router stands in the row-first
route; none when neither order reaches it. -/
def torusRoute (s : State) (a b : Nat) : Option (List Nat) :=
  if !routeBroken s a (routeMoves a b false) then some (routeMoves a b false)
  else if !routeBroken s a (routeMoves a b true) then some (routeMoves a b true)
  else none

end Sys2Proof.Machine
end

