-- ==== Sys2Proof/Machine/Faults.lean ====
section
/-!
DEFINITION. The responses to faults: context resets, step records, discards, undo, containment,
cove-fatal and module-fatal faults, fences (R387 to R391, R427 to R430, R480 to R484, R493 to R501).
-/
namespace Sys2Proof.Machine

/-! Context reset, rung 1 (R499). -/

/-- R499, rung 1: queues, accumulators, vector registers, routine and arrival state, flag, count
and wain status go; the window's contents, the scalar registers and admitted transfers stay; the
program counter returns to the start of the code region. -/
def resetContext (x : Ctx) : Ctx :=
  { x with mode := (match x.mode with | .empty => .empty | _ => .running), pc := x.codeBase,
           vregs := [], matQ := [], stream := none, held := none, vecQ := [], thrQ := [], lastKind := none, wainQ := [],
           wainStatus := .done, wait := none, mainWait := none, routine := none, points := [], nonfinite := false,
           satCount := 0, count := 1, faultCode := 0, calls := [], callsDone := [] }
/-- The tile that streams on a core is discarded: the cycles that it has streamed are counted (R102, R529). -/
def discardStream (s : State) (core k : Nat) : State :=
  let x := ctxAt s core k
  match x.stream, x.matQ with
  | some st, t :: _ =>
    let w := t.fields
    let len := streamLen ((matFmt w 87).getD .fp32) ((matFmt w 83).getD .fp32) (matK w)
    updCtx (bumpCore s core 3 (len * st.groups / max 1 (matK w / 32))) core k fun x => { x with stream := none }
  | _, _ => s
/-- Reset a job context on every core of a cove; for context 0 also the threshers' running state. -/
def resetContexts (s : State) (c k : Nat) : State :=
  let v := coveAt s c
  let s := forEach s (coresOf v) fun s i => updCtx (discardStream s i k) i k resetContext
  if k = 0 then
    let s := forEach s (clustersOf v) fun s cl => updThresh s cl 0 fun _ => ThreshRun.reset
    { s with mem := { s.mem with
        pinned := s.mem.pinned.filter fun p => !(clustersOf v).contains p.cluster } }
  else s

/-! The step record (R389, R391). -/

/-- Four 32-bit counts of a group. -/
def four (off : Nat) (l : List Nat) : List (Nat × Nat × Nat) :=
  (List.range 4).map fun i => (off + 4 * i, 4, satTo 32 (l.getD i 0))
/-- R389: the 256 bytes of a step record; outcome 0 committed, 1 skipped, 2 discarded. -/
def stepRecord (s : State) (c outcome cause : Nat) (tick : Tick) : List Byte :=
  let v := coveAt s c
  let t := coveTideAt s c
  let st := v.stats
  let flags := natOf st.late + 2 * natOf v.replaying
    + 4 * natOf v.forced + 8 * natOf (0 < st.unlogged)
    + 16 * natOf (st.leftOut.any (0 < ·)) + 32 * natOf (0 < st.redirected)
    + 64 * natOf (0 < st.nonfiniteWrites) + 128 * natOf v.parity + 256 * natOf (st.timingVoid || s.tide.tripVoid || s.tide.hotVoid)
    + 512 * natOf (0 < st.lateDeliveries)
  let fold := crc64 0 (st.layers.flatMap fun d => leBytes 8 d.toNat)
  let digest := if v.digestStep = v.step.toNat ∧ outcome = 0 then
      crc64 0 (v.digestTable.flatMap fun d => leBytes 8 d.toNat) else 0
  let b := packFields 0xFC
    ([(0, 8, v.step.toNat), (8, 4, (Sparse.get 0#32 v.tags 0).toNat), (0x0C, 1, c + 16 * t.gen),
      (0x0D, 1, v.variant + 8 * t.clock), (0x0E, 1, outcome), (0x0F, 1, cause), (0x10, 4, flags),
      (0x14, 4, v.replays), (0x18, 8, t.stepStart),
      (0x20, 8, t.stepStart + planCommitOffset s c t.bank), (0x28, 8, tick),
      (0x30, 8, st.thresherEnd), (0x38, 4, st.sumsq.toNat), (0x3C, 4, st.scale.toNat),
      (0x40, 8, fold), (0x48, 4, st.layers.length), (0x4C, 4, v.skipRun),
      (0x50, 8, st.firstDecision), (0x58, 4, st.decisions), (0x5C, 4, st.unlogged)]
     ++ four 0x60 st.leftOut ++ four 0x70 st.gleaned ++ four 0x80 st.dropped
     ++ four 0x90 st.latePieces
     ++ [(0xA0, 8, st.saturations), (0xA8, 8, st.params), (0xB0, 4, st.tupds),
         (0xB4, 4, st.redirected), (0xB8, 4, st.nonfiniteWrites), (0xBC, 4, st.lateDeliveries),
         (0xC0, 8, digest)])
  b ++ leOut 4 (crcOf b)
/-- R391: write a record to the cove's ring in HBM, or count it as missed. -/
def writeStepRecord (s : State) (c outcome cause : Nat) (tick : Tick) : State :=
  let v := coveAt s c
  let ctrl := (regAt s (cvReg c 0x210)).toNat
  let base := (regAt s (cvReg c 0x208)).toNat / 4096 * 4096
  let size := bitsOf ctrl 4 0
  let off := base % 2 ^ 44 + 256 * (v.srCount % 2 ^ size)
  if bitOf ctrl 5 ∧ 12 ≤ size ∧ size ≤ 20 ∧ base / 2 ^ 48 = s.moduleId ∧ bitsOf base 47 44 = 8
      ∧ coveOwnsRange s c (base % 2 ^ 44) (256 * 2 ^ size) then
    updCove (hbmStore s off (stepRecord s c outcome cause tick)) c fun v =>
      { v with srCount := v.srCount + 1 }
  else
    recordCove (updCove s c fun v => { v with srMissed := satTo 32 (v.srMissed + 1) }) 0x6020
      .corrected c []

/-! Undo and torn coves (R428 to R430). -/

/-- The cove enters held with a hold cause (R363) and the cause that TIDE_C_STATE shows (R331):
slack water without a scheduled end. Event 0x700A. -/
def holdCove (s : State) (c hcause cause : Nat) : State :=
  let s := updCove s c fun v =>
    { v with mode := .held, hcause := hcause, changed := s.tide.now, awaitReplay := none,
             holdReq := false }
  let s := updCoveTide s c fun t => { t with slack := true, held := true, cause := cause, restart := 0#64 }
  recordCove s 0x700A .corrected c []
/-- A packet leaves on a port, its last byte at `leaves`: its flits join those that wait for a codeword (R261). -/
def emit (s : State) (port : Nat) (leaves : Tick) (p : Packet) : State :=
  updPort { s with fab := { s.fab with sent := (port, leaves, p) :: s.fab.sent } } port fun q =>
    { q with txFlits := q.txFlits ++ packetFlits p }
/-- A packet waits for its slot. -/
def queueOut (s : State) (o : OutPacket) : State :=
  { s with fab := { s.fab with waiting := s.fab.waiting ++ [o] } }
/-- The shore die that carries a packet of the headland: the one that holds the role. -/
def headUnit (s : State) : Nat := 64 + s.recov.headland % 16
/-- Put one piece back: in this module's HBM, or by a write in class 0xB to its lender. -/
def restorePiece (s : State) (c : Nat) (a : Nat) (bytes : List Byte) : State :=
  if a / 2 ^ 48 = s.moduleId then hbmStore s (a % 2 ^ 44) bytes
  else queueOut s <| OutPacket.mk (headUnit s) (some c) 0xB none true
    { ptype := 1, gen := (coveTideAt s c).gen, cls := 0xB, transit := 0, late := false,
      resent := false, op := 0, jobTag := Sparse.get 0#32 (coveAt s c).tags 0,
      dest := BitVec.ofNat 64 a, srcModule := s.moduleId, srcUnit := 1296, seq := 0, tag := 0,
      due := 0, tally := crcOf bytes, data := bytes, slot := none }
/-- Put a bundle's pre-image back. -/
def restoreBundle (c : Nat) (s : State) (u : UndoBundle) : State :=
  u.pieces.foldl (fun s p => restorePiece s c p.1 (p.2.map (BitVec.ofNat 8))) s
/-- R430: after a discard past the return point, restore the pre-images newest first, or leave the
cove torn and held with hold cause 5. Event 0x8014 or 0x8015. -/
def undoOrTear (s : State) (c : Nat) : State :=
  let k := (coveAt s c).ckpt
  if k.returnTick = 0 then s
  else if k.undoOn ∧ ¬ k.unguarded then
    recordCove (updCkpt (k.undo.foldl (restoreBundle c) s) c fun k =>
      { k with undo := [], undoUsed := 0, returnTick := 0 }) 0x8014 .corrected c [1]
  else
    let s := updCkpt s c fun k => { k with torn := true, returnTick := 0, undo := [], undoUsed := 0 }
    recordCove (if (coveAt s c).mode = .fault then s else holdCove s c 5 0) 0x8015 .stepContained c []

/-! Containment and fatal faults (R493, R495, R499, R513). -/

/-- R495: stop issue on every core of the cove and grant it nothing. -/
def contain (s : State) (c : Nat) : State :=
  let v := coveAt s c
  let step := v.mode == .running && !(coveTideAt s c).slack && v.awaitReplay.isNone
  if (recovAt s c).contained then s
  else updCove (updRecov s c fun r => { r with contained := true, inStep := step }) c fun v =>
    { v with mode := .fault, prior := v.mode, changed := s.tide.now }
/-- The reporter of the fault that was recorded last in a ring: the fault that is being answered (R510, R520). -/
def faultReporter (s : State) (ring : Nat) : Nat :=
  match (ringAt s ring).recs.getLast? with | some e => e.reporter | none => 1296
/-- Module-fatal: every cove is contained, a recovery in progress ends and queued ones are dropped (R513);
during a module reset the boot firmware stops feeding the heartbeat instead (R513, R516). -/
def moduleFatal (s : State) (cause : Nat) : State :=
  if s.recov.resetting then { s with recov := { s.recov with starved := true } }
  else
    let from_ := if s.recov.moduleFatal.isSome then s.recov.fatalFrom else (s.tide.now, faultReporter s 16)
    let s := forEach s ((List.range 16).filter fun c => (coveAt s c).mode ≠ .free) contain
    { s with
      recov := { s.recov with
        moduleFatal := some (s.recov.moduleFatal.getD cause), fatalFrom := from_, current := none, queue := [] },
      fw := { s.fw with checkFailed := true } }
/-- Put a recovery of a cove at the end of the queue; one of a lower rung that waits is covered by it. -/
def queueRecovery (s : State) (q : QueuedRecovery) : State :=
  let rest := s.recov.queue.filter fun x => x.cove != q.cove
  { s with recov := { s.recov with queue := rest ++ [q] } }
/-- Continue the recovery in progress at rung 3 with a cause; event 0xA003 (R501, R513). The actions of
the rung begin at the next `RECOVERY_START`. -/
def escalate (s : State) (r : Recovery) (cause : Nat) : State :=
  let by_ := if cause = 13 then 1296 else faultReporter s r.cove
  let s := contain (recordCove s 0xA003 .coveFatal r.cove []) r.cove
  let s := updRecov s r.cove fun x => { x with rung := 3, cause := cause }
  let rest := s.recov.queue.filter fun x => x.cove != r.cove
  let next := { r with
    rung := 3, cause := cause, start := s.tide.now, fault := s.tide.now, reporter := by_, suspects := [], testing := none,
    begun := false }
  { s with recov := { s.recov with current := some next, queue := rest } }
/-- A cove-fatal fault: contain the cove; a fault of the cove in recovery escalates it with cause 11
(R513); otherwise the cove is queued for rung 3 when faults are answered by themselves (R524). -/
def coveFatal (s : State) (c cause : Nat) : State :=
  let enter := fun (s : State) =>
    let s := updRecov (contain s c) c fun x => { x with cause := cause }
    if s.recov.autoCove then queueRecovery s ⟨c, 3, cause, s.tide.now, faultReporter s c, 0, 0, 5⟩ else s
  match s.recov.current with
  | some r =>
    if r.cove = c then
      if 3 ≤ r.rung then moduleFatal (recordCove s 0xA003 .moduleFatal c []) 11
      else escalate s r 11
    else if (recovAt s c).contained && !(s.recov.queue.any fun q => q.cove == c && q.rung == 2) then s
    else recordCove (enter s) 0xA004 .coveFatal c []
  | none =>
    if (recovAt s c).contained && !(s.recov.queue.any fun q => q.cove == c && q.rung == 2) then s
    else enter s

/-! Discards (R388, R496, R497). -/

/-- A discard notice packet to another module: the job tag, the step counter and the discard tick
in class 0xF (R496); its destination offset is the model's (DESIGN CHOICE, log entry 10). -/
def discardNotice (s : State) (c dst : Nat) (tick : Tick) : Packet :=
  let v := coveAt s c
  { ptype := 1, gen := (coveTideAt s c).gen, cls := 0xF, transit := 0, late := false,
    resent := false, op := 0, jobTag := Sparse.get 0#32 v.tags 0,
    dest := BitVec.ofNat 64 (dst * 2 ^ 48 + 2 ^ 47 + 2 ^ 44), srcModule := s.moduleId, srcUnit := 1296,
    seq := 0, tag := 0, due := 0, tally := 0,
    data := leOut 8 v.step.toNat ++ leOut 8 tick ++ List.replicate 16 0#8, slot := none }
/-- The cove in slack water from a discard: the replay starts at the least multiple of the commit
quantum at or after D_max + L (R496). -/
def awaitReplayFrom (s : State) (c : Nat) (d : Tick) : State :=
  let t := coveTideAt s c
  let dm := max d (coveAt s c).dMax
  let start := roundUp (dm + planSlack s c t.bank) (planQuantum s c t.bank)
  let s := updCove s c fun v => { v with dMax := dm, awaitReplay := some start }
  updCoveTide s c fun t => { t with slack := true, slackStart := d }

/-- The modules that a discard notice goes to: those of the commit group, or, before any SCOMMIT has named it, of every
valid group entry of the cove's first core (R186, R496; DEDUCED, log entry 10). -/
def noticeModules (s : State) (c : Nat) : List Nat :=
  match (coresOf (coveAt s c)).head? with
  | none => []
  | some core =>
    let gs := match (coveAt s c).commitGroup with
      | some g => [g]
      | none => (List.range 64).filter fun g => gValid (coreAt s core) g
    (gs.flatMap (groupModules s core)).eraseDups
/-- The discard itself, in the order of R496; then R430 when the step had passed its return
point. -/
def discardNow (s : State) (c cause : Nat) (key : Option Nat) : State :=
  let d := s.tide.now
  let s := resetContexts s c 0
  let s := writeStepRecord s c 2 cause d
  let s := recordCove s 0x6002 .stepContained c [cause]
  let s := bumpCoveSet s (some c) 2 1
  let s := forEach s (noticeModules s c) fun s m =>
    queueOut s ⟨headUnit s, none, 0xF, none, true, discardNotice s c m d⟩
  let s := updCove s c fun v =>
    { v with replaying := true, replays := v.replays + 1, lastCause := cause,
             lastFail := key.getD 0,
             stats := { StepStats.reset with conflicts := if cause = 5 then v.stats.conflicts else [] },
             arrivals := v.arrivals.filter fun a => a.ctx != 0, commits := [],
             commitTick := 0, shards := [], owed := none, failed := none, closing := [], closed := [],
             digestPoint := 0 }
  let s := forEach s (coresOf (coveAt s c)) fun s i =>
    updCore s i fun x => { x with digest := 0#64, landed := x.landed.filter fun p => p.ctx != 0,
                                   notices := x.notices.filter fun p => p.ctx != 0, refusedAhead := [], lateSeen := [] }
  undoOrTear (awaitReplayFrom s c d) c

/-- Every ranked core has sent its commit arrival. -/
def allCommitted (v : Cove) : Bool :=
  !(coresOf v).isEmpty && (coresOf v).all fun i => v.commits.any fun a => a.core == i
/-- An engine reset of the cove waits or is in progress, its suspect tests included (R507). -/
def engineRecovery (s : State) (c : Nat) : Bool :=
  (match s.recov.current with | some r => r.cove == c && r.rung == 2 | none => false)
    || s.recov.queue.any fun q => q.cove == c && q.rung == 2
/-- The cove is the one whose engine reset is in progress. -/
def inEngineReset (s : State) (c : Nat) : Bool :=
  match s.recov.current with | some r => r.cove == c && r.rung == 2 | none => false
/-- A step-contained fault of a cove with a cause of R390. `key` is the identity that a rule makes
cove-fatal on repeat (R44, R154, R186, R225, R464). A step whose third run is discarded is
cove-fatal with cause 5, a repeat with cause 6; a fault found in slack water is charged to the next
step (R497). While an engine of the cove is reset and tested, a collective timeout is discarded at the end of that recovery
(R507), and a fault that is no consequence of it is a second fault (R512, R513). -/
def discardStep (s : State) (c cause : Nat) (key : Option Nat) : State :=
  let v := coveAt s c
  if v.mode ≠ .running then s
  else if v.awaitReplay.isSome ∧ (cause = 9 ∨ s.tide.now ≤ (coveTideAt s c).slackStart) then s
  else if (coveTideAt s c).slack ∨ allCommitted v ∨ (cause = 3 ∧ engineRecovery s c) then
    updCove s c fun v => { v with owed := some (cause, key) }
  else if inEngineReset s c ∧ cause ≠ 8 ∧ cause ≠ 9 then coveFatal s c 11
  else if v.replaying ∧ key.isSome ∧ v.lastCause = cause ∧ key = some v.lastFail then
    coveFatal (discardNow s c cause key) c 6
  else if 2 ≤ v.replays then coveFatal (discardNow s c cause key) c 5
  else discardNow s c cause key

/-! Faults of a context (R119, R166). -/

/-- Stop a context with an event of R669 that records address, class, op, core and context, and
answer it as cove-fatal. -/
def stopContext (s : State) (core k code addr op : Nat) : State :=
  let s := updCtx s core k fun x => { x with mode := .stopped, faultCode := code }
  let c := coveOfCore s core
  let s := record s code .coveFatal (coveNum c) core [addr, op / 256, op % 256, core, k]
  match c with | some c => coveFatal s c 3 | none => s
/-- Operand fault, event 0x4001. -/
def operandFault (s : State) (core k addr op : Nat) : State := stopContext s core k 0x4001 addr op
/-- Scratchpad-bounds fault, event 0x4002. -/
def boundsFault (s : State) (core k addr op : Nat) : State := stopContext s core k 0x4002 addr op
/-- Instruction-bounds fault, event 0x4003. -/
def fetchFault (s : State) (core k addr op : Nat) : State := stopContext s core k 0x4003 addr op
/-- Divergence at an arrival or a THR comparison, event 0x4004 (R44, R121). -/
def divergence (s : State) (core : Nat) : State :=
  match coveOfCore s core with
  | some c => discardStep (record s 0x4004 .stepContained c core []) c 1 (some 0)
  | none => s

/-! Fences (R480 to R484). -/

/-- Is a compute die fenced; a cluster usable; a core fenced. -/
def dieFenced (s : State) (d : Nat) : Bool := Sparse.get 0 s.health.dieFence d != 0
/-- R484: a cluster is usable when it, its four cores and its die are unfenced. -/
def clusterUsable (s : State) (cl : Nat) : Bool :=
  !dieFenced s (cl / 4) && Sparse.get 0 s.health.clusterFence cl == 0
    && (List.range 4).all fun i => Sparse.get 0 s.health.coreFence (4 * cl + i) == 0
/-- The ledger record of a fenced unit, by the kinds of R488. -/
def fenceRecord (kind unit : Nat) : Nat :=
  match kind with
  | 0 => unit / 16
  | 1 => unit / 4
  | 2 => unit
  | 3 => 64 + unit
  | 4 => 64 + unit / 1024
  | 5 => 64 + unit
  | _ => 64 + unit % 64 / 4
/-- Enter a fence or a clear in the fence log (R488): the ring keeps 1,024 entries. -/
def fenceEntry (s : State) (kind unit cause detail : Nat) : State :=
  let e : FenceEntry := ⟨s.tide.now, s.health.poweredHours, kind, cause, unit, detail⟩
  { s with health := { s.health with
      fenceLog := (s.health.fenceLog ++ [e]).drop (s.health.fenceLog.length + 1 - 1024),
      fenceTotal := s.health.fenceTotal + 1 } }
/-- Reporter of a unit of the fence log's kinds (R488, R520; log entry 88). -/
def unitReporter (kind unit : Nat) : Nat :=
  match kind with
  | 0 => unit
  | 1 => 1024 + unit
  | 2 => 1297 + unit
  | 3 => 1280 + unit
  | 4 => 1536 + unit / 1024
  | 5 => 1552 + unit
  | 6 => 1408 + unit
  | _ => 1296
/-- A unit is fenced (R480, R482, R484, R487): its log entry, its record, the shape generation; events
0x9030 and 0x9032. Kinds 0 core, 1 cluster, 2 compute die, 3 shore die and 4 HBM frame are sticky; 5 is
an optical engine and 6 a port. -/
def fenceNote (s : State) (kind unit cause detail : Nat) : State :=
  let index := s.health.fenceTotal % 1024
  let n := kind * 65536 + unit
  let s := updLedger (fenceEntry s kind unit cause detail) (fenceRecord kind unit) fun r =>
    { r with fences := satTo 16 (r.fences + 1), lastFence := index }
  let h := s.health
  let s := { s with health := { h with
    shapeGen := (h.shapeGen + 1) % 65536,
    sticky := if 5 ≤ kind ∨ h.sticky.contains n then h.sticky else h.sticky ++ [n] } }
  recordHead (record s 0x9030 .corrected 16 (unitReporter kind unit) [kind, cause]) 0x9032 .corrected []
/-- The cove that holds a die becomes cove-fatal with cause 9 (R481). -/
def fenceHits (s : State) (d : Nat) : State :=
  match coveOfDie s d with | some c => coveFatal s c 9 | none => s
/-- Mark a compute die as fenced, with its log entry. -/
def markDie (s : State) (d cause : Nat) : State :=
  fenceNote { s with health := { s.health with dieFence := Sparse.set 0 s.health.dieFence d cause } } 2 d cause 0
/-- Fence a compute die whose routers go on (R34, R480). -/
def fenceCores (s : State) (d cause : Nat) : State :=
  if dieFenced s d then s else fenceHits (markDie s d cause) d
/-- Every unfenced compute die reaches a die by one of the two orders (R34). -/
def dieReached (s : State) (d : Nat) : Bool :=
  (List.range 64).all fun a => a == d || dieFenced s a || (torusRoute s a d).isSome
/-- Fence a die's routers with the die, then, in increasing number, each die that some unfenced die no longer reaches (R34;
the order is a DEDUCED reading, log entry 40). -/
def fenceRouters (s : State) (d : Nat) : State :=
  let s := { s with health := { s.health with routerFence := Sparse.set false s.health.routerFence d true } }
  forEach (fenceCores s d 6) (List.range 64) fun s b => if dieReached s b then s else fenceCores s b 6
/-- Fence a compute die (R34, R480); cause 6 takes its routers too. -/
def fenceDie (s : State) (d cause : Nat) : State :=
  if cause = 6 then fenceRouters s d else fenceCores s d cause
/-- Fence a die once all four of its clusters are fenced (cause 7). -/
def fenceFullDie (s : State) (d : Nat) : State :=
  if (List.range 4).all fun k => Sparse.get 0 s.health.clusterFence (4 * d + k) != 0 then fenceDie s d 7
  else s
/-- Fence a cluster (R480). -/
def fenceCluster (s : State) (cl cause : Nat) : State :=
  if Sparse.get 0 s.health.clusterFence cl ≠ 0 then s
  else
    let s := { s with health := { s.health with
      clusterFence := Sparse.set 0 s.health.clusterFence cl cause } }
    fenceFullDie (fenceHits (fenceNote s 1 cl cause 0) (cl / 4)) (cl / 4)
/-- Fence a core with the detail of its log entry: its cluster is unusable for jobs (R480). -/
def fenceCoreWith (s : State) (core cause detail : Nat) : State :=
  if Sparse.get 0 s.health.coreFence core ≠ 0 then s
  else
    let s := { s with health := { s.health with
      coreFence := Sparse.set 0 s.health.coreFence core cause } }
    fenceHits (fenceNote s 0 core cause detail) (dieOf core)
/-- Fence a core. -/
def fenceCore (s : State) (core cause : Nat) : State := fenceCoreWith s core cause 0

end Sys2Proof.Machine
end

