-- ==== Sys2Proof/Machine/Storage.lean ====
section
/-!
DEFINITION. Bit errors in a core's storage and what meets them (R118, R669): a read, a fetch, a scrub.
-/
namespace Sys2Proof.Machine

/-! Storages: 0 scratchpad, 1 instruction memory, 2 routine memory, 3 group table, 4 a save image being restored, 5 vector
registers (word: the register), 6 the thresher array. The error of the last two says whether it comes back on the re-run. -/

/-- Errors of a storage in words `lo` to `hi - 1`. -/
def upsetsIn (c : CoreState) (storage lo hi : Nat) : List (Nat × Nat × Bool) :=
  c.upsets.filter fun u => u.1 == storage && decide (lo ≤ u.2.1) && decide (u.2.1 < hi)
/-- Words that have been rewritten whole hold no error. -/
def clearUpsets (s : State) (core storage lo hi : Nat) : State :=
  updCore s core fun c => { c with
    upsets := c.upsets.filter fun u => !(u.1 == storage && decide (lo ≤ u.2.1) && decide (u.2.1 < hi)) }
/-- A corrected word: event 0x4010 and the counts of the die's ledger. -/
def correctedWord (s : State) (core : Nat) : State :=
  let s := wearAdd (record s 0x4010 .corrected (coveNum (coveOfCore s core)) core []) 0 (dieOf core) 0 1
  updLedger s (dieOf core) fun r => { r with corrected := satTo 32 (r.corrected + 1) }
/-- An uncorrectable word: event 0x4011; in scratchpad the step is discarded with cause 7, elsewhere the cove is fatal. -/
def uncorrectableWord (s : State) (core storage : Nat) : State :=
  let c := coveOfCore s core
  let sev := if storage = 0 then Severity.stepContained else .coveFatal
  let s := record s 0x4011 sev (coveNum c) core []
  let s := updLedger s (dieOf core) fun r => { r with uncorrectable := satTo 32 (r.uncorrectable + 1) }
  match c with
  | none => s
  | some v => if storage = 0 then discardStep s v 7 none else coveFatal s v 4
/-- A read of words `lo` to `hi - 1` of a storage: false when a word is uncorrectable, so that the reader stops. A word
with one wrong bit is corrected on read; a scrub or a write rewrites it. `as_` is the storage that its severity is that
of. -/
def readStorage (s : State) (core storage as_ lo hi : Nat) : Bool × State :=
  let l := upsetsIn (coreAt s core) storage lo hi
  if l.any (·.2.2) then (false, uncorrectableWord s core as_)
  else (true, forEach s l fun s _ => correctedWord s core)
/-- A read of scratchpad bytes. -/
def readScratch (s : State) (core : Nat) (ranges : List (Nat × Nat)) : Bool × State :=
  ranges.foldl (fun r p =>
    if !r.1 || p.2 = 0 then r else readStorage r.2 core 0 0 (p.1 / 8) ((p.1 + p.2 + 7) / 8)) (true, s)
/-- A parity error in words `lo` to `hi - 1` of a storage of 32-bit values: the work is discarded and re-run once, event
0x4012; one that comes back discards the step with cause 7, event 0x4013. False when the work is discarded. -/
def parityCheck (s : State) (core storage lo hi : Nat) : Bool × State :=
  let l := upsetsIn (coreAt s core) storage lo hi
  if l = [] then (true, s)
  else
    let c := coveOfCore s core
    let s := clearUpsets s core storage lo hi
    if l.any (·.2.2) then
      let s := record s 0x4013 .stepContained (coveNum c) core []
      (false, match c with | some c => discardStep s c 7 none | none => s)
    else
      let s := wearAdd (record s 0x4012 .corrected (coveNum c) core []) 0 (dieOf core) 1 1
      (false, updLedger s (dieOf core) fun r => { r with reruns := r.reruns + 1 })

end Sys2Proof.Machine
end

