-- ==== Sys2Proof/Machine/Issue.lean ====
section
/-!
DEFINITION. Issue of an instruction by a context: when it may issue, the checks of R166 in their
order, and what every issued instruction does.
-/
namespace Sys2Proof.Machine

/-- The context may issue now: it runs, waits for nothing, stands at no collective point whose
routine has not started (R134), owns its cluster, and its cove is in a
step (or in slack water for contexts 1 to 3), not contained, and not changing its clock (R96, R110,
R300, R325, R495, R496). -/
def canIssue (s : State) (core k : Nat) : Bool :=
  let x := ctxAt s core k
  match coveOfCore s core with
  | some c =>
    let v := coveAt s c
    x.mode == .running && x.wait.isNone && (x.routine.isSome || x.points.isEmpty)
      && (clusterAt s (clusterOf core)).owner == some k
      && (v.mode == .running || (v.mode == .held && k != 0 && v.hcause != 1))
      && !(k == 0 && v.awaitReplay.isSome)
      && !(k == 0 && (coveTideAt s c).slack)
      && decide ((coveTideAt s c).clockBusy ≤ s.tide.now)
      && Sparse.get 0 s.health.coreFence core == 0
  | none => false

/-- The instruction is fetched from routine memory: a routine of the context runs (R134). -/
def inRoutine (x : Ctx) : Bool := x.routine.isSome
/-- R36, R100, R166: the fetch is outside the code region or the 16,384 instructions of the memory, or outside routine memory for a routine. -/
def fetchBad (x : Ctx) : Bool :=
  if inRoutine x then decide (4096 ≤ x.pc)
  else decide (x.pc < x.codeBase) || decide (min 16384 (x.codeBase + x.codeLen) ≤ x.pc)

/-- R164: the classes that routine memory may hold; `rtn` marks an RTN instruction, which main
memory may not. -/
def placeOk (routine rtn allowed : Bool) (w : Fields) : Bool :=
  if routine then (rtn || allowed) && w.commune == 0#16 else !rtn

/-- Count an instruction as issued and step the program counter to `pc`. -/
def retire (s : State) (core k pc : Nat) : State :=
  bumpCore (updCtx s core k fun x => { x with pc := pc }) core 1 1

/-- The word at the program counter: of routine memory while a routine runs (R134), else of
instruction memory (R100). -/
def fetchedWord (s : State) (core k : Nat) : BitVec 128 :=
  let x := ctxAt s core k
  let c := coreAt s core
  Sparse.get 0#128 (if inRoutine x then c.rmem else c.imem) x.pc

/-- R118: the fetch reads the word from instruction or routine memory; false when it is uncorrectable. -/
def fetchRead (s : State) (core k : Nat) : Bool × State :=
  let x := ctxAt s core k
  let st := if inRoutine x then 2 else 1
  readStorage s core st st x.pc (x.pc + 1)
/-- The counter that a held instruction adds to: 9 for a full queue, 10 for the interlock (R529). -/
def stallOf (full locked : Bool) : Option Nat :=
  if full then some 9 else if locked then some 10 else none

/-- Issue an instruction. `op` is 256 × class + op, `u` the fields it uses, `wr` the registers it
writes, `allowed` whether routine memory may hold it, `legal` its class's operand rules, `bounded`
whether its ranges lie in the scratchpad, `stall` the core counter of the full queue (9) or of the
interlock (10) that holds it, `body` its effect. Order of checks: R166; a pending scalar destination holds the
instruction before its registers are read, and a vector register in use holds it as a range does (R97). A fetched word whose class
or op no table lists faults (R128); a command that is not the fetched instruction does nothing
(log entry 12). -/
def issue (s : State) (core k op : Nat) (w : Fields) (u : Use) (wr : Writes) (allowed legal bounded
    : Bool) (stall : Option Nat) (body : State → State) : State :=
  let x := ctxAt s core k
  let b := fetchedWord s core k
  if !canIssue s core k then s
  else if fetchBad x then fetchFault s core k x.pc op
  else if !(fetchRead s core k).1 then (fetchRead s core k).2
  else if !opListed (wordOp b) then operandFault s core k x.pc (wordOp b)
  else if b ≠ encodeWord op w then s
  else if scalarLocked x op w then bumpCore s core 10 1
  else if !(unusedZero w u && placeOk (inRoutine x) (op / 256 == 6) allowed w
      && ownsWrites (inRoutine x) wr && legal) then operandFault s core k x.pc op
  else if !bounded then boundsFault s core k x.pc op
  else match stall with
    | some n => bumpCore s core n 1
    | none => if vregLocked x op w then bumpCore s core 10 1 else body (fetchRead s core k).2

/-- A context's engines work: it owns its cluster, it has not been stopped by a fault, its core is unfenced, and its die
is not changing its clock (R96, R110, R116, R119, R325). -/
def enginesRun (s : State) (core k : Nat) : Bool :=
  let x := ctxAt s core k
  (x.mode == .running || x.mode == .ended) && (clusterAt s (clusterOf core)).owner == some k
    && Sparse.get 0 s.health.coreFence core == 0 && !(coreAt s core).engineDown
    && (match coveOfCore s core with
        | some c => decide ((coveTideAt s c).clockBusy ≤ s.tide.now) && !(recovAt s c).contained
        | none => true)

/-- Issue an instruction that ends by stepping the program counter by one. -/
def issueNext (s : State) (core k op : Nat) (w : Fields) (u : Use) (wr : Writes)
    (allowed legal bounded : Bool) (stall : Option Nat) (f : State → State) : State :=
  issue s core k op w u wr allowed legal bounded stall fun s =>
    retire (f s) core k ((ctxAt s core k).pc + 1)

/-- Issue an instruction that steps the program counter first, since its effect may reset the
context; `f` takes the instruction's address. -/
def issueThen (s : State) (core k op : Nat) (w : Fields) (u : Use) (wr : Writes)
    (allowed legal bounded : Bool) (stall : Option Nat) (f : Nat → State → State) : State :=
  let pc := (ctxAt s core k).pc
  issue s core k op w u wr allowed legal bounded stall fun s => f pc (retire s core k (pc + 1))

end Sys2Proof.Machine
end

