-- ==== Sys2Proof/Machine/Matrix.lean ====
section
/-!
DEFINITION. MAT instructions, the commit and the drain of a tile, and the tally columns (R69 to
R75, R101 to R106, R140 to R144, R469 to R472).
-/
namespace Sys2Proof.Machine

/-! ### Issue (R143) -/

/-- R74: the accepted output formats; INT32 only for INT8 with INT8. -/
def outputOk (a b c : Fmt) : Bool :=
  match c with
  | .fp32 | .bf16 | .fp16 | .e4m3 | .e5m2 | .mxE4m3 | .mxE5m2 | .mxE2m3 | .mxE3m2 | .mxFp4 => true
  | .int32 => a == .int8 && b == .int8
  | .fp4 | .int8 | .mxInt8 | .e8m0 => false

/-- The register pair rT is 0 or an even number from 2 to 30 (R141). -/
def pairOk (r : BitVec 5) : Bool := r.toNat % 2 == 0
/-- The operand scale of A or B; 1.0 without a pair (R141). -/
def operandScale (rt : BitVec 5) (v : DWord) (b : Bool) : Word :=
  if rt = 0#5 then f32one else BitVec.ofNat 32 (if b then v.toNat / 2 ^ 32 else v.toNat)
/-- A scale that R141 applies is positive and finite (R62). -/
def scaleOk (f : Fmt) (v : Word) : Bool :=
  !fmtHasOperandScale f ||
    (match ofF32 v with | .fin false m _ => decide (0 < m) | .fin true _ _ => false
                        | .nan => false | .inf _ => false)
/-- The greatest element index a tile draws with: base + 127 × stride + 127 (R141). -/
def tileTopIndex (pair : DWord) : Nat :=
  bitsOf pair.toNat 33 0 + 127 * bitsOf pair.toNat 63 34 + 127

/-- The fields of a MAT instruction; without Drain, rC, FC, Rnd, Sat, Trans and the tensor ID are
not used (R143). -/
def matUse (w : Fields) (fused : Bool) : Use :=
  let d := ctlBit w 70
  { f1 := true, f2 := true, f3 := d, f4 := true,
    control := if d then 0xFFFFFFE0#32 else 0xFFFF00C0#32, imm := d, tail := 0#16, fusable := fused }

/-- R143: the operand rules of a MAT instruction. -/
def matLegal (s : State) (core k : Nat) (w : Fields) (fused ro : Bool) : Bool :=
  let x := ctxAt s core k
  match matFmt w 87, matFmt w 83, fmtOfCode (ctl w 79 76) with
  | some a, some b, some c =>
    let drain := ctlBit w 70
    let rnd := ctl w 75 73
    (match pairClass a b with
     | some cls => decide (1 ≤ ctl w 95 88) && decide (matK w ≤ maxK cls)
     | none => false)
    && (!drain || outputOk a b c)
    && (rnd == 0 || rnd == 1 || rnd == 4)
    && !(ctlBit w 69 && fmtIsMx c)
    && (!ctlBit w 71 || x.lastKind == some (a == .int8 && b == .int8))
    && (!ro || drain)
    && pairOk w.f4
    && scaleOk a (operandScale w.f4 (sreg x w.f4) false)
    && scaleOk b (operandScale w.f4 (sreg x w.f4) true)
    && !(drain && rnd == 4 &&
         (w.f4 == 0#5 || decide (2 ^ 34 ≤ tileTopIndex (sreg x (w.f4 + 1#5)))))
    && decide (w.imm.toNat < 2 ^ 28)
    && opWordOk a 512 (sreg x w.f1) && opWordOk b 512 (sreg x w.f2)
    && (!drain || opWordOk c 512 (sreg x w.f3))
    && (!fused || communeOk (coreAt s core) w true false)
  | _, _, _ => false

/-- The call number of a fused instruction, and the context after taking it (R177). -/
def takeCall (x : Ctx) (g : Nat) : Nat × Ctx :=
  let n := Sparse.get 0 x.calls g
  (n, { x with calls := Sparse.set 0 x.calls g (n + 1) })
/-- The instruction with the registers it reads at issue (R129). -/
def issuedOf (s : State) (core k op : Nat) (w : Fields) (ready : Bool) (call : Nat) : Issued :=
  let x := ctxAt s core k
  { op := op, addr := x.pc, inRoutine := inRoutine x, fields := w, r1 := sreg x w.f1,
    r2 := sreg x w.f2, r3 := sreg x w.f3, r4 := sreg x w.f4, pair := sreg x (w.f4 + 1#5),
    tick := s.tide.now, reruns := 0, ready := ready, call := call }
/-- A collective point of an issued instruction: its routine, group and handed range. The anchor
and the address to return to are set when the routine starts (R134, R180). -/
def pointOf (c : CoreState) (i : Issued) (elem scale bytes fmt : Nat) (cell : Option (Word × Bool)) :
    RoutineCall :=
  let r := communeRoutine i.fields
  { caller := i, retPc := 0, routine := r, start := (routineEntry c r).1,
    len := (routineEntry c r).2.1, group := communeGroup i.fields, mask := communeMask i.fields,
    call := i.call, anchor := 0, late := false, elem := elem, scale := scale, bytes := bytes,
    fmt := fmt, scalar := cell.isSome, cell := (cell.getD (0#32, false)).1,
    cellFlag := (cell.getD (0#32, false)).2, startTick := 0, waited := [],
    last := none, classes := [] }

/-- A MAT instruction enters the matrix queue of 4 tiles; a gathering form also reaches its
collective point at issue (R133, R142). `gather` is 1 for A and 2 for B. -/
def issueTile (s : State) (core k op : Nat) (w : Fields) (fused ro : Bool) (gather : Nat) : State :=
  let x := ctxAt s core k
  let reads := tileReads w (sreg x w.f1) (sreg x w.f2)
  let writes := tileWrites w (sreg x w.f3)
  let bounded := (reads ++ writes).all fun r => inWindow x r.1 r.2
  issueNext s core k op w (matUse w fused) Writes.none false (matLegal s core k w fused ro)
      bounded (stallOf (decide (4 ≤ x.matQ.length)) (interlocked x reads writes)) fun s =>
        let x := ctxAt s core k
        let (n, x) := if fused then takeCall x (communeGroup w) else (0, x)
        let i := issuedOf s core k op w (gather == 0) n
        let isInt := matFmt w 87 == some .int8 && matFmt w 83 == some .int8
        let op1 := if gather = 1 then sreg x w.f1 else sreg x w.f2
        let f := if gather = 1 then ctl w 87 84 else ctl w 83 80
        let pt := pointOf (coreAt s core) i (opElem op1) (opScale op1)
          (planeBytes ((fmtOfCode f).getD .fp32) (128 * matK w)) f none
        setCtx s core k { x with
          matQ := x.matQ ++ [i], lastKind := some isInt,
          points := if gather = 0 then x.points else x.points ++ [pt] }

/-- R142, MMA. -/
def execMma (core k : Nat) (w : Fields) (s : State) : Result :=
  .next (issueTile s core k 0x100 w false false 0)
/-- R142, MMA.GA: operand A is gathered by the routine before the fill. -/
def execMmaGa (core k : Nat) (w : Fields) (s : State) : Result :=
  .next (issueTile s core k 0x101 w true false 1)
/-- R142, MMA.GB. -/
def execMmaGb (core k : Nat) (w : Fields) (s : State) : Result :=
  .next (issueTile s core k 0x102 w true false 2)
/-- R142, MMA.RO: the drained output is handed to the routine. -/
def execMmaRo (core k : Nat) (w : Fields) (s : State) : Result :=
  .next (issueTile s core k 0x104 w true true 0)

/-! ### The tile's arithmetic (R69 to R75) -/

/-- The exact value of element (lead, depth) of an operand of one lead strip (R93, R94). -/
def tileElem (m : Memory) (base : Nat) (f : Fmt) (op : DWord) (lead depth : Nat) : Val :=
  let idx := 4096 * (depth / 32) + 32 * lead + depth % 32
  let v := decodeElem f (elemAt m (base + opElem op) (fmtBits f) idx)
  if fmtIsMx f then scaleVal (memByte m (base + opScale op + 128 * (depth / 32) + lead)).toNat v
  else v
/-- Product terms of one group of 32: MXINT8 gives its exact sum as one term (R73). -/
def groupTerms (f : Fmt) (a b : Nat → Val) : List Val :=
  let ps := (List.range 32).map fun i => valMul (a i) (b i)
  if f == .mxInt8 then [ps.foldl (valAdd .rne) (.fin false 0 0)] else ps
/-- An FP32 accumulator after one group (R71). -/
def accF32 (f : Fmt) (a b : Nat → Val) (acc : Word) : Word := groupSum (groupTerms f a b ++ [ofF32 acc])
/-- The integer of a code value. -/
def valInt : Val → Int
  | .fin s m e => signedMag s (m * 2 ^ e.toNat)
  | .nan => 0
  | .inf _ => 0
/-- An INT32 accumulator after one group: the group's exact sum, added with saturation (R73). -/
def accI32 (a b : Nat → Val) (acc : Word) : Word :=
  satInt32 (acc.toInt + ((List.range 32).map fun i => valInt (a i) * valInt (b i)).foldl (· + ·) 0)

/-- An accumulator read as FP32 (R75). -/
def accAsF32 (int32 : Bool) (w : Word) : Word :=
  if int32 then toF32 (valOfInt w.toInt 0) else w
/-- The sums of R75 in order, each addition rounded. -/
def sumF32 (l : List Word) : Word := l.foldl f32add 0#32
/-- The larger magnitude of two FP32 values. -/
def maxMag (a b : Word) : Word := f32max (toF32 (valAbs (ofF32 a))) (toF32 (valAbs (ofF32 b)))

/-- One group of 32 depth steps streams into the active buffer (R71, R75, R102): its operands are read now (R98), the
accumulators of a first group start from `start`, and the tally edge adds to its sums in increasing depth. -/
def streamGroup (m : Memory) (base : Nat) (t : Issued) (start : Sparse Word) (st : TileStream) : TileStream :=
  let fa := (matFmt t.fields 87).getD .fp32
  let fb := (matFmt t.fields 83).getD .fp32
  let g := st.groups
  let a := fun i d => tileElem m base fa t.r1 i (32 * g + d)
  let b := fun d j => tileElem m base fb t.r2 j (32 * g + d)
  let old := if g = 0 then start else st.acc
  let acc := (List.range 16384).foldl (fun l n =>
    Sparse.set 0#32 l n
      (if fa == .int8 && fb == .int8 then accI32 (a (n / 128)) (fun d => b d (n % 128)) (Sparse.get 0#32 old n)
       else accF32 fa (a (n / 128)) (fun d => b d (n % 128)) (Sparse.get 0#32 old n))) []
  let af := fun i d => toF32 (a i d)
  let bf := fun d j => toF32 (b d j)
  let sA := fun d => sumF32 ((List.range 128).map fun i => af i d)
  let sB := fun d => sumF32 ((List.range 128).map fun j => bf d j)
  let p := (List.range 128).foldl (fun l j => Sparse.set 0#32 l j
    ((List.range 32).foldl (fun r d => f32add r (f32mul (sA d) (bf d j))) (Sparse.get 0#32 st.p j))) []
  let q := (List.range 128).foldl (fun l i => Sparse.set 0#32 l i
    ((List.range 32).foldl (fun r d => f32add r (f32mul (af i d) (sB d))) (Sparse.get 0#32 st.q i))) []
  let alls := (List.range 4096).map fun n => (af (n / 32) (n % 32), bf (n % 32) (n / 32))
  { groups := g + 1, acc := acc, p := p, q := q,
    aMax := alls.foldl (fun r v => maxMag r v.1) st.aMax,
    bMax := alls.foldl (fun r v => maxMag r v.2) st.bMax,
    skip := st.skip || alls.any fun v => f32nonfinite v.1 || f32nonfinite v.2 }
/-- The groups that have not streamed yet. -/
def streamRest (m : Memory) (base : Nat) (t : Issued) (start : Sparse Word) (st : TileStream) : TileStream :=
  (List.range (matK t.fields / 32 - st.groups)).foldl (fun st _ => streamGroup m base t start st) st
/-- The chain value of a tile: the held buffer, or +0 (R72, R103). -/
def chainStart (x : Ctx) (t : Issued) : Sparse Word :=
  if ctlBit t.fields 71 then (match x.held with | some h => h.acc | none => []) else []
/-- R102: the committed tile: the rest of its stream, then final accumulators, predicted sums and magnitudes. -/
def commitTile (s : State) (core k : Nat) (t : Issued) (start : Sparse Word) (wrong : List (Nat × Word)) :
    Held :=
  let x := ctxAt s core k
  let st := streamRest (coreAt s core).scratch (winAddr x 0) t start (x.stream.getD TileStream.reset)
  { tile := t,
    acc := wrong.foldl (fun acc p => if p.1 < 16384 then Sparse.set 0#32 acc p.1 p.2 else acc) st.acc,
    int32 := matFmt t.fields 87 == some .int8 && matFmt t.fields 83 == some .int8,
    start := start, p := st.p, q := st.q, aMax := st.aMax, bMax := st.bMax, skip := st.skip,
    drainPending := ctlBit t.fields 70 }
/-- The matrix engine's work of one tick: the tile at the head of the queue streams its next group (R98, R101). How many
groups a tick brings is the model's choice (log entry 13). -/
def matStep (s : State) (core k : Nat) : State :=
  let x := ctxAt s core k
  match x.matQ with
  | [] => s
  | t :: _ =>
    let st := x.stream.getD TileStream.reset
    if t.ready && decide (st.groups < matK t.fields / 32) then
      updCtx s core k fun x => { x with
        stream := some (streamGroup (coreAt s core).scratch (winAddr x 0) t (chainStart x t) st) }
    else s

/-! ### Tally columns (R106, R469 to R472) -/

/-- An integer as FP32, rounded. -/
def f32nat (n : Nat) : Word := toF32 (valOfInt n 0)
/-- R470: M, then the tolerance of a line from its g. -/
def tallyM (h : Held) : Word := f32mul (f32mul (f32nat (128 * matK h.tile.fields)) h.aMax) h.bMax
/-- The tolerance T of a line. -/
def tallyTol (h : Held) (g : Word) : Word :=
  let t := f32mul (f32nat (matK h.tile.fields + 256)) (tallyM h)
  let t := f32add t (f32mul (f32nat 128) g)
  let t := f32mul t 0x33800000#32
  f32mul (if h.int32 then f32one else 0x40000000#32) t
/-- The contribution of element n: the accumulator, or its difference from the chain value, exact and rounded once
(R75, R106). -/
def tallyValue (h : Held) (n : Nat) : Word :=
  let v := Sparse.get 0#32 h.acc n
  let st := Sparse.get 0#32 h.start n
  if !ctlBit h.tile.fields 71 then accAsF32 h.int32 v
  else if h.int32 then toF32 (valOfInt (v.toInt - st.toInt) 0)
  else f32sub v st
/-- Excess and tolerance of column or row `l` of the held tile. -/
def tallyLine (h : Held) (isRow : Bool) (l : Nat) : Word × Word :=
  let cells := (List.range 128).map fun o => if isRow then 128 * l + o else 128 * o + l
  let obs := sumF32 (cells.map (tallyValue h))
  let pre := if isRow then Sparse.get 0#32 h.q l else Sparse.get 0#32 h.p l
  let g := if ctlBit h.tile.fields 71 then
      cells.foldl (fun r n => maxMag r (accAsF32 h.int32 (Sparse.get 0#32 h.acc n))) 0#32
    else 0#32
  (toF32 (valAbs (ofF32 (f32sub pre obs))), tallyTol h g)
/-- All lines: columns, then rows. -/
def tallyLines (h : Held) : List (Word × Word) :=
  (List.range 128).map (tallyLine h false) ++ (List.range 128).map (tallyLine h true)
/-- An excess beyond its tolerance. -/
def tallyExceeds (p : Word × Word) : Bool := predHolds .gt (ofF32 p.1) (ofF32 p.2)

/-- The hour bucket of a tick (R478). -/
def hourOf (t : Tick) : Nat := t / hourTicks
/-- R472: an arithmetic suspect: event 0x9010, a directed check, the hourly limit. -/
def suspect (s : State) (core addr : Nat) (excess : Word) : State :=
  let s := record s 0x9010 .corrected (coveNum (coveOfCore s core)) core [core, addr, excess.toNat]
  let hour := hourOf s.tide.now
  let h := s.health
  let n := (if h.suspectHour = hour then Sparse.get 0 h.suspects core else 0) + 1
  let s := { s with health := { h with
    suspectHour := hour,
    suspects := Sparse.set 0 (if h.suspectHour = hour then h.suspects else []) core n,
    directed := if h.directed.contains core then h.directed else h.directed ++ [core] } }
  let s := wearAdd s 0 (dieOf core) 3 1
  let s := updLedger s (dieOf core) fun r => { r with suspects := r.suspects + 1 }
  if h.suspectLimit ≠ 0 ∧ h.suspectLimit < n then fenceCore s core 2 else s
/-- R106, R470, R471: compare the sums of a held tile. -/
def tallyCheck (s : State) (core : Nat) (h : Held) : State :=
  let lines := tallyLines h
  if h.skip || f32nonfinite (tallyM h) || lines.any fun p => f32nonfinite p.2 then
    bumpCoveSet s (coveOfCore s core) 8 1
  else
    match lines.filter tallyExceeds with
    | [] => s
    | l => suspect s core h.tile.addr (l.foldl (fun r p => maxMag r p.1) 0#32)

/-! ### Commit and drain (R102 to R106, R118) -/

/-- R102, TILE_COMMIT: the head tile's stream has ended and the held buffer is free. A parity error
is cleared by the re-run once (event 0x4012); on a second one the step is discarded with cause 7
(event 0x4013). A tile that names no drain is checked at once and frees the buffer. -/
def execTileCommit (core k parityErrors : Nat) (wrong : List (Nat × Word)) (s : State) : Result :=
  let x := ctxAt s core k
  match x.matQ with
  | [] => .next s
  | t :: rest =>
    let busy := match x.held with | some h => h.drainPending | none => false
    if busy || !t.ready || (clusterAt s (clusterOf core)).owner != some k then .next s
    else if 2 ≤ parityErrors then
      let s := record (discardStream s core k) 0x4013 .stepContained (coveNum (coveOfCore s core)) core []
      .next (match coveOfCore s core with | some c => discardStep s c 7 none | none => s)
    else
      let s := if parityErrors = 1 then
          record s 0x4012 .corrected (coveNum (coveOfCore s core)) core [] else s
      let s := if parityErrors = 1 then
          updLedger (wearAdd s 0 (dieOf core) 1 1) (dieOf core) fun r => { r with reruns := r.reruns + 1 } else s
      let s := if parityErrors = 1 then discardStream s core k else s
      let h := commitTile s core k t (chainStart x t) wrong
      let s := updCtx s core k fun x => { x with matQ := rest, stream := none, held := some h }
      let len := streamLen ((matFmt t.fields 87).getD .fp32) ((matFmt t.fields 83).getD .fp32)
        (matK t.fields)
      let s := bumpCore (bumpCore s core 4 1) core 2 len
      .next (if h.drainPending then s else tallyCheck s core h)

/-- The seed of a context's job in force (R80, R572). -/
def jobSeed (s : State) (c k : Nat) : Nat := (Sparse.get 0#64 (coveAt s c).seeds k).toNat
/-- The draw of R80 for a core's context in its cove's step. -/
def drawFor (s : State) (core k tensor index : Nat) : Nat :=
  match coveOfCore s core with
  | some c => draw (jobSeed s c k) tensor (coveAt s c).step.toNat index
  | none => 0
/-- The value that R74 converts for accumulator `n`: scales applied in FP32. -/
def outputVal (h : Held) (n : Nat) : Val :=
  let w := h.tile.fields
  let fa := (matFmt w 87).getD .fp32
  let fb := (matFmt w 83).getD .fp32
  let raw := Sparse.get 0#32 h.acc n
  if h.int32 && ctl w 79 76 == 7 then valOfInt raw.toInt 0
  else
    let acc := accAsF32 h.int32 raw
    if fmtHasOperandScale fa || fmtHasOperandScale fb then
      let sa := if fmtHasOperandScale fa then operandScale w.f4 h.tile.r4 false else f32one
      let sb := if fmtHasOperandScale fb then operandScale w.f4 h.tile.r4 true else f32one
      ofF32 (f32mul (f32mul sa sb) acc)
    else ofF32 acc
/-- Logical (row, column) of element-plane position `e` of the output block (R93, R94). -/
def outputPos (trans : Bool) (e : Nat) : Nat × Nat :=
  let u := e / 4096
  let lead := e % 4096 / 32
  let depth := 32 * u + e % 32
  if trans then (depth, lead) else (lead, depth)
/-- The draw of output element (i, j) (R141). -/
def outputDraw (s : State) (core k : Nat) (h : Held) (i j : Nat) : Nat :=
  if ctl h.tile.fields 75 73 = 4 then
    drawFor s core k h.tile.fields.imm.toNat
      (bitsOf h.tile.pair.toNat 33 0 + i * bitsOf h.tile.pair.toNat 63 34 + j)
  else 0
/-- R74, R104: the output's conversions in element-plane order, and its scale bytes for MX. -/
def outputConvs (s : State) (core k : Nat) (h : Held) : List Conv × List Nat :=
  let w := h.tile.fields
  let f := (fmtOfCode (ctl w 79 76)).getD .fp32
  let r := (rndOfCode (ctl w 75 73)).getD .rne
  let at_ := fun e =>
    let p := outputPos (ctlBit w 69) e
    (outputVal h (128 * p.1 + p.2), outputDraw s core k h p.1 p.2)
  if fmtIsMx f then
    let blocks := (List.range 512).map fun b =>
      quantiseBlock f r ((List.range 32).map fun i => at_ (32 * b + i))
    (blocks.flatMap (·.2), blocks.map (·.1))
  else ((List.range 16384).map fun e => convElem f r (ctlBit w 72) (at_ e).2 (at_ e).1, [])

/-- R104, TILE_DRAIN_END: the output becomes visible, the flag and the saturation count take its
conversions, the tally check compares, and MMA.RO reaches its collective point. -/
def execTileDrainEnd (core k : Nat) (s : State) : Result :=
  let x := ctxAt s core k
  match x.held with
  | none => .next s
  | some h =>
    if !h.drainPending || (clusterAt s (clusterOf core)).owner != some k then .next s
    else
      let w := h.tile.fields
      let f := (fmtOfCode (ctl w 79 76)).getD .fp32
      let out := outputConvs s core k h
      let s := updCore s core fun c =>
        let m := setElems c.scratch (winAddr x (opElem h.tile.r3)) (fmtBits f) 0 (out.1.map (·.bits))
        { c with scratch := memWrite m (winAddr x (opScale h.tile.r3)) (out.2.map (BitVec.ofNat 8)) }
      let pt := pointOf (coreAt s core) h.tile (opElem h.tile.r3) (opScale h.tile.r3)
        (planeBytes f 16384) (ctl w 79 76) none
      let s := updCtx s core k fun x =>
        let x := noteConvs x out.1
        { x with held := some { h with drainPending := false },
                 points := if h.tile.op = 0x104 then x.points ++ [pt] else x.points }
      .next (tallyCheck (chargeSats s core (satsOf out.1)) core h)

end Sys2Proof.Machine
end

