-- ==== Sys2Proof/Machine/Access.lean ====
section
/-!
DEFINITION. The global address space, the checks at the target, reads and writes of the memory
tiers, redirection to the barn and remote operations (chapter Memory Tiers, the Global Address
Space and the Barn).
-/
namespace Sys2Proof.Machine

/-- What the lower 48 bits of a global address select (R204, R205). -/
inductive Place
  | scratch (core off : Nat)
  | near (die off : Nat)
  | dieControl (die off : Nat)
  | hbm (off : Nat)
  | shoreControl (shore off : Nat)
  | host (off : Nat)
  | bad
  deriving DecidableEq, Repr

/-- R204, R205: decode an address; reserved codes and non-zero must-be-zero bits are `bad`. -/
def placeOf (a : Nat) : Place :=
  if bitOf a 47 then
    match bitsOf a 46 44 with
    | 0 => if bitsOf a 43 41 = 0 then .hbm (bitsOf a 40 0) else .bad
    | 1 => if bitsOf a 43 24 = 0 then .shoreControl (bitsOf a 23 20) (bitsOf a 19 0) else .bad
    | 2 => .host (bitsOf a 43 0)
    | _ => .bad
  else
    let die := bitsOf a 46 41
    match bitsOf a 40 37 with
    | 0 => if bitsOf a 36 27 = 0 then .scratch (16 * die + bitsOf a 26 23) (bitsOf a 22 0) else .bad
    | 1 => if bitsOf a 36 30 = 0 then .near die (bitsOf a 29 0) else .bad
    | 2 => if bitsOf a 36 18 = 0 then .dieControl die (bitsOf a 17 0) else .bad
    | _ => .bad
/-- The core of a scratchpad place; 1,024 for another place. -/
def placeCore : Place → Nat
  | .scratch core _ => core
  | _ => 1024
/-- The module of a global address. -/
def addrModule (a : Nat) : Nat := bitsOf a 63 48
/-- The global address of an HBM offset of a module. -/
def hbmAddr (module off : Nat) : Nat := module * 2 ^ 48 + 2 ^ 47 + off
/-- The global address of a window offset on a core. -/
def scratchAddr (module core off : Nat) : Nat :=
  module * 2 ^ 48 + dieOf core * 2 ^ 41 + core % 16 * 2 ^ 23 + off

/-- The operation of an access: read, write, zero or an atomic. -/
inductive AccOp
  | read | write | zero | atomic
  deriving DecidableEq, Repr

/-- An access as its target sees it. -/
structure Access where
  op : AccOp
  addr : Nat
  len : Nat
  tag : Word
  gen : Nat
  /-- Module traffic: movers and the headland carry the module generation (R312). -/
  modScope : Bool
  /-- The module and the source unit that it comes from. -/
  src : Nat
  unit : Nat
  /-- Alignment that R152 asks of the address. -/
  align : Nat
  deriving DecidableEq, Repr

/-- What the target's checks decide (R210, R314). -/
inductive Verdict
  | ok
  | hold
  | refuse (w : WainStatus)
  deriving DecidableEq, Repr

/-- Rank of a status in rising order of badness: R154 names a worst status and does not rank them; the model takes the
order of its table (DESIGN CHOICE, log entry 79). -/
def statusRank : WainStatus → Nat
  | .done => 0 | .late => 1 | .generationReject => 2 | .unreachable => 3 | .tallyFailure => 4
  | .addressFault => 5 | .jobTagRefusal => 6
/-- The worse of two statuses. -/
def worse (a b : WainStatus) : WainStatus := if statusRank a < statusRank b then b else a
/-- Status code of a status packet (R263). -/
def statusCode : WainStatus → Nat
  | .done => 0 | .generationReject => 1 | .addressFault => 2 | .jobTagRefusal => 3 | .late => 4
  | .unreachable => 5 | .tallyFailure => 6
/-- The status that a code names. -/
def statusOfCode : Nat → Option WainStatus
  | 1 => some .generationReject | 2 => some .addressFault | 3 => some .jobTagRefusal
  | 4 => some .late | 5 => some .unreachable | 6 => some .tallyFailure | _ => none

/-- Non-zero job tags of a cove's contexts in use (R110). -/
def tagsOf (v : Cove) : List Word :=
  ((bitsSet v.ctxUsed 4).map fun k => Sparse.get 0#32 v.tags k).filter (· ≠ 0#32)
/-- The cove one of whose jobs carries a tag. -/
def coveOfTag (s : State) (tag : Word) : Option Nat :=
  (List.range 16).find? fun c => (coveAt s c).mode ≠ .free && (tagsOf (coveAt s c)).contains tag
/-- The job context of a core that runs a tag's job (R206). -/
def ctxOfTag (s : State) (core : Nat) (tag : Word) : Option Nat :=
  (List.range 4).find? fun k =>
    let x := ctxAt s core k
    x.mode ≠ .empty && x.jobTag == tag && tag != 0#32
/-- The generation of a cove on a shore die (R311, R312). -/
def shoreGenOf (s : State) (c shore : Nat) : Nat :=
  let t := coveTideAt s c
  if Sparse.get false t.lagShore shore then t.prevGen else t.gen
/-- The stack and frame of an HBM offset. -/
def frameAt (off : Nat) : Nat × Nat := ((hbmPlace off).1, (hbmPlace off).2 / 2 ^ 26)
/-- The target's generation of the packet's scope (R314); a leased unit and host memory have none
(log entry 14). -/
def targetGen (s : State) (a : Access) : Option Nat :=
  match placeOf a.addr with
  | .scratch core _ =>
    if a.modScope then some (moduleGenOf s (dieOf core))
    else (coveOfCore s core).map fun c => coveGenOf s c (dieOf core)
  | .near die _ =>
    if a.modScope then some (moduleGenOf s die)
    else (coveOfDie s die).map fun c => coveGenOf s c die
  | .hbm off =>
    if a.modScope then some (moduleGenOf s (64 + (frameAt off).1))
    else match frameOwner s (frameAt off).1 (frameAt off).2 with
      | .cove c => some (shoreGenOf s c (frameAt off).1)
      | .free => none
      | .module => none
      | .lease _ => none
  | .dieControl _ _ => none
  | .shoreControl _ _ => none
  | .host _ => none
  | .bad => none
/-- R313, R314: check 3 of R210. -/
def genCheck (s : State) (a : Access) : Verdict :=
  match targetGen s a with
  | some own =>
    match (a.gen + 16 - own % 16) % 16 with
    | 0 => .ok
    | d => if d < 8 then .hold else .refuse .generationReject
  | none => .ok
/-- A leased unit accepts the tag from the borrower (R228). -/
def leaseAllows (s : State) (n : Nat) (a : Access) : Bool :=
  let l := Sparse.get Lease.reset s.mem.leases n
  l.valid && l.borrower == a.src && l.tags.contains a.tag && a.tag != 0#32
/-- Checks 4 to 6 of R210 at an HBM byte. No cove owns a module frame, so that check 4 as R213 words it would refuse the job
tag before check 6 could name the frame; the model lets a module frame pass check 4 and answers check 6 (DESIGN CHOICE,
log entry 81). -/
def hbmCheck (s : State) (a : Access) (off : Nat) : Verdict :=
  let f := frameAt off
  match frameOwner s f.1 f.2 with
  | .module => .refuse .addressFault
  | .free => .refuse .jobTagRefusal
  | .cove c => if (tagsOf (coveAt s c)).contains a.tag then .ok else .refuse .jobTagRefusal
  | .lease n =>
    if leaseAllows s n a then .ok
    else match coveOfTag s a.tag with
      | some c => if (coveAt s c).unitsI.contains f.2 then .refuse .addressFault
        else .refuse .jobTagRefusal
      | none => .refuse .jobTagRefusal
/-- Check 7 of R210: the operation is allowed on the target (R232) and aligned (R152). -/
def opCheck (a : Access) (atomics : Bool) : Verdict :=
  if (a.op == .atomic && !atomics) || a.addr % max 1 a.align != 0 then .refuse .addressFault else .ok
/-- R210: the first check that fails decides. The near memory of a fenced die is out of service (R34): an access to it is
unreachable (log entry 81). The control regions are the headland's alone (R208). -/
def targetCheck (s : State) (a : Access) : Verdict :=
  match placeOf a.addr with
  | .bad => .refuse .addressFault
  | .dieControl _ _ => if a.unit = 1296 ∧ a.op ≠ .atomic then opCheck a false else .refuse .addressFault
  | .shoreControl _ _ => if a.unit = 1296 ∧ a.op ≠ .atomic then opCheck a false else .refuse .addressFault
  | .host _ => if a.src ≠ s.moduleId then .refuse .addressFault else opCheck a false
  | .scratch core off =>
    match genCheck s a with
    | .ok =>
      (match ctxOfTag s core a.tag with
       | none => .refuse .jobTagRefusal
       | some k => if off + a.len ≤ scratchLimit (ctxAt s core k) then opCheck a false
           else .refuse .addressFault)
    | v => v
  | .near die off =>
    if dieFenced s die then .refuse .unreachable
    else match genCheck s a with
    | .ok =>
      (match coveOfDie s die with
       | some c =>
         if !(tagsOf (coveAt s c)).contains a.tag then .refuse .jobTagRefusal
         else if off + a.len ≤ 2 ^ 30 then opCheck a true else .refuse .addressFault
       | none => .refuse .jobTagRefusal)
    | v => v
  | .hbm off =>
    match genCheck s a with
    | .ok =>
      (match hbmCheck s a off with
       | .ok => (match hbmCheck s a (off + a.len - 1) with | .ok => opCheck a true | v => v)
       | v => v)
    | v => v

/-- The cove that owns a place. -/
def placeCove (s : State) (p : Place) : Option Nat :=
  match p with
  | .scratch core _ => coveOfCore s core
  | .near die _ => coveOfDie s die
  | .hbm off => (match frameOwner s (frameAt off).1 (frameAt off).2 with
      | .cove c => some c | .free => none | .module => none | .lease _ => none)
  | .dieControl _ _ => none
  | .shoreControl _ _ => none
  | .host _ => none
  | .bad => none
/-- Count a refusal in the HEALTH view of the target's cove, or in the module view when no cove owns the target (R210). -/
def countRefused (s : State) (c : Option Nat) : State :=
  match c with
  | some v => bumpCoveSet s (some v) 10 1
  | none => { s with health := { s.health with refused := satTo 64 (s.health.refused + 1) } }
/-- The access meets the context's save area or, beyond its window, the maintenance granule (R112). -/
def meetsSaveArea (s : State) (a : Access) : Bool :=
  match placeOf a.addr with
  | .scratch core off =>
    (match ctxOfTag s core a.tag with
     | some k =>
       let x := ctxAt s core k
       let last := winAddr x (off + a.len - 1) / 262144
       decide (scratchLimit x < off + a.len) && (decide (off < 262144 * x.winCount) || last == 31)
     | none => false)
  | _ => false
/-- Count a refusal at the target (R210, R530) and record one at a save area (R112, R669). -/
def countRefusal (s : State) (a : Access) (w : WainStatus) : State :=
  let c := placeCove s (placeOf a.addr)
  let s := countRefused s c
  match placeOf a.addr with
  | .scratch core _ =>
    if w == .addressFault && meetsSaveArea s a then record s 0x4021 .corrected (coveNum c) core [] else s
  | _ => s
/-- Count a generation hold or refusal, set the target cove's skew flag (R314); a refusal is a refusal of R210 too. -/
def countSkew (s : State) (a : Access) (held : Bool) : State :=
  let c := placeCove s (placeOf a.addr)
  let s := { s with tide := { s.tide with
    cntHold := satTo 32 (s.tide.cntHold + natOf held),
    cntReject := satTo 32 (s.tide.cntReject + natOf (!held)) } }
  let s := if held then s else countRefused s c
  let s := match c with | some c => updCoveTide s c fun t => { t with skew := true } | none => s
  record s (if held then 0x1020 else 0x1021) .corrected (coveNum c) 1296 []

/-! ### Blocks and their marks (R463) -/

/-- Key of a near-memory block mark and of an HBM block mark. -/
def nearBlock (die off : Nat) : Nat := die * 2 ^ 18 + off / 4096
/-- HBM block mark. -/
def hbmBlock (off : Nat) : Nat := (hbmPlace off).1 * 2 ^ 24 + (hbmPlace off).2 / 4096
/-- A block of the range fails its tally check: it is condemned, or holds an uncorrectable word (R216, R463). -/
def condemned (s : State) (p : Place) (len : Nat) : Bool :=
  match p with
  | .near die off => (blocksOf off len).any fun o =>
      Sparse.get false s.mem.nearMarks (nearBlock die o) || s.mem.nearLatent.contains (nearBlock die o)
  | .hbm off => (blocksOf off len).any fun o =>
      Sparse.get false s.mem.hbmMarks (hbmBlock o) || s.mem.hbmLatent.contains (hbmBlock o)
  | .scratch _ _ => false
  | .dieControl _ _ => false
  | .shoreControl _ _ => false
  | .host _ => false
  | .bad => false
/-- Entries of the last 24 hours with one more. -/
def recent (s : State) (l : List (Nat × Tick)) (k : Nat) : List (Nat × Tick) :=
  (l.filter fun e => decide (s.tide.now < e.2 + 86400000000000)) ++ [(k, s.tide.now)]
/-- Condemn a block of near memory (R463): event 0x9002; more than 16 blocks of a memory within 24 hours
fence its compute die (R465). -/
def condemnNear (s : State) (die off : Nat) : State :=
  if Sparse.get false s.mem.nearMarks (nearBlock die off) then s
  else
    let s := { s with mem := { s.mem with
      nearMarks := Sparse.set false s.mem.nearMarks (nearBlock die off) true } }
    let s := record s 0x9002 .corrected (coveNum (coveOfDie s die)) (1297 + die) []
    let unit := 2 * die + off / 4096 % 2
    let l := recent s s.health.nearCondemned unit
    let s := { s with health := { s.health with nearCondemned := l } }
    if 16 < (l.filter fun e => e.1 == unit).length then fenceDie s die 4 else s
/-- A second condemnation within a frame retires it (R465): event 0x9003. -/
def retireFrame (s : State) (st key : Nat) : State :=
  let s := { s with health := { s.health with retired := s.health.retired ++ [key] } }
  let s := fenceNote (wearAdd s 3 st 2 1) 4 key 4 0
  let s := updLedger s (64 + st) fun r => { r with retired := r.retired + 1 }
  record s 0x9003 .corrected 16 (1536 + st) []
/-- Condemn a block of HBM (R463): event 0x9002; a second condemnation of a frame within 24 hours retires
it; one of a module frame is module-fatal (R465). -/
def condemnHbm (s : State) (off : Nat) : State :=
  let f := frameAt off
  if 1020 ≤ f.2 then moduleFatal s 14
  else if Sparse.get false s.mem.hbmMarks (hbmBlock off) then s
  else
    let s := { s with mem := { s.mem with
      hbmMarks := Sparse.set false s.mem.hbmMarks (hbmBlock off) true } }
    let s := record s 0x9002 .corrected 16 (1536 + f.1) []
    let key := 1024 * f.1 + f.2
    let l := recent s s.health.frameCondemned key
    let s := { s with health := { s.health with frameCondemned := l } }
    if 2 ≤ (l.filter fun e => e.1 == key).length ∧ ¬ s.health.retired.contains key then retireFrame s f.1 key
    else s
/-- A read has met a block with an uncorrectable word: event 0x3030, and the block is condemned (R216, R463). -/
def meetNear (s : State) (die off : Nat) : State :=
  if s.mem.nearLatent.contains (nearBlock die off) then
    let s := { s with mem := { s.mem with nearLatent := s.mem.nearLatent.filter (· ≠ nearBlock die off) } }
    condemnNear (record s 0x3030 .corrected (coveNum (coveOfDie s die)) (1297 + die) []) die off
  else s
/-- The same of a block of HBM. -/
def meetHbm (s : State) (off : Nat) : State :=
  if s.mem.hbmLatent.contains (hbmBlock off) then
    let s := { s with mem := { s.mem with hbmLatent := s.mem.hbmLatent.filter (· ≠ hbmBlock off) } }
    condemnHbm (record s 0x3030 .corrected 16 (1536 + (hbmPlace off).1) []) off
  else s
/-- Condemn the block at a place. -/
def condemnPlace (s : State) (p : Place) : State :=
  match p with
  | .near die off => condemnNear s die off
  | .hbm off => condemnHbm s off
  | _ => s
/-- Reporter of a fault at a place: the core, the die's controller or the stack (R520; log entry 88). -/
def placeReporter : Place → Nat
  | .scratch core _ => core
  | .near die _ => 1297 + die
  | .hbm off => 1536 + (hbmPlace off).1
  | .dieControl die _ => 1297 + die
  | .shoreControl n _ => 1280 + n
  | .host _ => 1296
  | .bad => 1296
/-- A tally failure: event 0x9001 with where it was found, by the rows of R464 (1 at the source, 2 at the target; log entry
88), and the block address. -/
def tallyFound (s : State) (p : Place) (where_ addr : Nat) : State :=
  record s 0x9001 .stepContained (coveNum (placeCove s p)) (placeReporter p) [where_, addr / 4096 * 4096]
/-- A block of near memory that a read has found bad. -/
def badNear (die : Nat) (s : State) (o : Nat) : State :=
  if condemned s (.near die o) 1 then
    meetNear (tallyFound s (.near die o) 1 (s.moduleId * 2 ^ 48 + die * 2 ^ 41 + 2 ^ 37 + o)) die o
  else s
/-- The same of a block of HBM. -/
def badHbm (s : State) (o : Nat) : State :=
  if condemned s (.hbm o) 1 then meetHbm (tallyFound s (.hbm o) 1 (hbmAddr s.moduleId o)) o else s
/-- A read has found blocks of a range bad: each is a tally failure, and is condemned (R463, R464). -/
def condemn (s : State) (p : Place) (len : Nat) : State :=
  match p with
  | .near die off => forEach s (blocksOf off len) (badNear die)
  | .hbm off => forEach s (blocksOf off len) badHbm
  | _ => s
/-- A whole-block write clears the condemnation, and the error with it (R463). -/
def clearMark (s : State) (p : Place) (len : Nat) : State :=
  match p with
  | .near die off =>
    if off % 4096 = 0 ∧ len = 4096 then { s with mem := { s.mem with
      nearMarks := Sparse.set false s.mem.nearMarks (nearBlock die off) false,
      nearLatent := s.mem.nearLatent.filter (· ≠ nearBlock die off) } } else s
  | .hbm off =>
    if off % 4096 = 0 ∧ len = 4096 then { s with mem := { s.mem with
      hbmMarks := Sparse.set false s.mem.hbmMarks (hbmBlock off) false,
      hbmLatent := s.mem.hbmLatent.filter (· ≠ hbmBlock off) } } else s
  | _ => s

/-! ### Reading and writing places -/

/-- Read a range of a place. -/
def placeRead (s : State) (tag : Word) (p : Place) (len : Nat) : List Byte :=
  match p with
  | .scratch core off =>
    (match ctxOfTag s core tag with
     | some k => memRead (coreAt s core).scratch (winAddr (ctxAt s core k) off) len
     | none => [])
  | .near die off => memRead (nearAt s die) off len
  | .hbm off => hbmRead s off len
  | .dieControl _ _ => []
  | .shoreControl _ _ => []
  | .host _ => []
  | .bad => []
/-- Write a range of a place. -/
def placeWrite (s : State) (tag : Word) (p : Place) (bs : List Byte) : State :=
  match p with
  | .scratch core off =>
    (match ctxOfTag s core tag with
     | some k => scratchWrite s core (winAddr (ctxAt s core k) off) bs
     | none => s)
  | .near die off => clearMark (updNear s die fun m => memWrite m off bs) p bs.length
  | .hbm off =>
    let s := clearMark (hbmStore s off bs) p bs.length
    bump s 4 (hbmPlace off).1 1 bs.length
  | .dieControl _ _ => s
  | .shoreControl _ _ => s
  | .host _ => s
  | .bad => s
/-- The pinned floor range that a write meets, by its unit (R225). -/
def floorConflict (s : State) (p : Place) (len : Nat) : Option Nat :=
  match p with
  | .near die off =>
    (s.mem.pinned.find? fun q =>
      q.cluster / 4 == die &&
        overlaps off len (0x30000000 + q.cluster % 4 * 0x4000000 + q.lo) (q.hi - q.lo)).map (·.unit)
  | _ => none
/-- R225: a floor conflict discards the write and the step. -/
def floorFault (s : State) (die unit : Nat) : State :=
  match coveOfDie s die with
  | some c =>
    let s := record s 0x3011 .stepContained c 1296 []
    let s := updStats s c fun t =>
      { t with conflicts := if t.conflicts.contains unit then t.conflicts else t.conflicts ++ [unit] }
    discardStep s c 5 (some unit)
  | none => s
/-- The die of a near-memory place. -/
def placeDie : Place → Nat
  | .near die _ => die
  | .scratch core _ => dieOf core
  | .hbm _ => 64 | .dieControl _ _ => 64 | .shoreControl _ _ => 64 | .host _ => 64 | .bad => 64
/-- Write at a target that passed its checks: a floor conflict discards the write. -/
def landWrite (s : State) (tag : Word) (p : Place) (bs : List Byte) : State :=
  match floorConflict s p bs.length with
  | some u => floorFault s (placeDie p) u
  | none => placeWrite s tag p bs

/-! ### Redirection to the barn (R220 to R222) -/

/-- The offset in the same view with another unit in place of its frame index. -/
def withUnit (off unit : Nat) : Nat :=
  if bitOf off 40 then off / 2 ^ 36 * 2 ^ 36 + unit * 2 ^ 26 + off % 2 ^ 26
  else unit * 2 ^ 30 + off % 2 ^ 30
/-- Where an access of a cove to its own module's HBM goes: the lender's address and true when the
unit is demoted, or promoting and so still served there. -/
def barnRedirect (s : State) (c addr : Nat) : Nat × Bool :=
  match placeOf addr with
  | .hbm off =>
    let p := Sparse.get Placement.reset s.mem.placement (frameAt off).2
    if (p.state = .demoted ∨ p.state = .promoting) ∧ p.cove = c ∧ addrModule addr = s.moduleId then
      (hbmAddr p.lenderModule (withUnit off p.lenderUnit), true)
    else (addr, false)
  | _ => (addr, false)

/-! ### Atomics (R151, R233) -/

/-- New bytes of an atomic from the old bytes and the operand. -/
def atomicNew (op : Nat) (old operand : List Byte) : List Byte :=
  match op with
  | 0x08 => leOut 8 (leVal old + leVal operand)
  | 0x09 =>
    let a := BitVec.ofNat 64 (leVal old)
    let b := BitVec.ofNat 64 (leVal operand)
    leOut 8 (if a.slt b then b else a).toNat
  | 0x0A =>
    if leVal old = leVal ((operand.drop 8).take 8) then operand.take 8 else old
  | _ =>
    (List.range (old.length / 4)).flatMap fun i =>
      leOut 4 (f32add (BitVec.ofNat 32 (leVal ((old.drop (4 * i)).take 4)))
        (BitVec.ofNat 32 (leVal ((operand.drop (4 * i)).take 4)))).toNat
/-- Bytes of the destination of an atomic of `len` operand bytes. -/
def atomicBytes (op len : Nat) : Nat := if op = 0x0A then 8 else len
/-- Alignment of an operation's address (R152). -/
def opAlign (op : Nat) : Nat := if op = 0x0B then 4 else if 8 ≤ op then 8 else 64
/-- Apply an atomic at a place: the old bytes and the state after. -/
def atomicAt (s : State) (tag : Word) (p : Place) (op : Nat) (operand : List Byte) :
    List Byte × State :=
  let old := placeRead s tag p (atomicBytes op operand.length)
  (old, landWrite s tag p (atomicNew op old operand))

/-! ### The host-memory window (R209, R573) -/

/-- The cove's function issues requests: the link is up and the function is not in D3hot (R557). -/
def hostReach (s : State) (c : Nat) : Bool := s.host.linkUp && !(fnAt s (c + 1)).d3hot
/-- Translate a window range of a cove: the IOVA, or none when no entry covers it or its direction
is not allowed. -/
def hostTranslate (s : State) (c off len : Nat) (write : Bool) : Option Nat :=
  let entry := fun e =>
    ((regAt s (cvReg c (0xB00 + 16 * e))).toNat, (regAt s (cvReg c (0xB08 + 16 * e))).toNat)
  match (List.range 16).find? fun e =>
      let lo := (entry e).1
      bitOf lo 63 && decide (bitsOf lo 31 0 * 4096 ≤ off)
        && decide (off < (bitsOf lo 31 0 + bitsOf lo 55 32) * 4096) with
  | some e =>
    let lo := (entry e).1
    if off + len ≤ (bitsOf lo 31 0 + bitsOf lo 55 32) * 4096 ∧ bitOf lo (if write then 62 else 61) then
      some ((entry e).2 / 4096 * 4096 + (off - bitsOf lo 31 0 * 4096))
    else none
  | none => none

end Sys2Proof.Machine
end

