-- ==== Sys2Proof/Machine/Admission.lean ====
section
/-!
DEFINITION. The in-package torus, routes, ports and the admission of a packet against the tide
tables (R32 to R35, R243 to R245, R268 to R270, R303 to R307, R316 to R318).
-/
namespace Sys2Proof.Machine

/-! ### Routes between shore dies (R33) -/

/-- The adjoining dies of two shore dies with the fewest hops between them; on a tie the lower source-side die, then the
lower destination-side die (R33). -/
def shorePair (a b : Nat) : Nat × Nat :=
  let pairs := [(min (adjoining a).1 (adjoining a).2, min (adjoining b).1 (adjoining b).2),
    (min (adjoining a).1 (adjoining a).2, max (adjoining b).1 (adjoining b).2),
    (max (adjoining a).1 (adjoining a).2, min (adjoining b).1 (adjoining b).2),
    (max (adjoining a).1 (adjoining a).2, max (adjoining b).1 (adjoining b).2)]
  pairs.foldl (fun r p => if hopsBetween p.1 p.2 < hopsBetween r.1 r.2 then p else r) (pairs.headD (0, 0))

/-! ### Resources (R316) -/

/-- Where a packet comes from or goes to inside the package. The host window lies behind shore die 0 (R39, R209). -/
inductive Site
  | die (d : Nat)
  | shore (n : Nat)
  deriving DecidableEq, Repr
/-- The site of a place. -/
def siteOf : Place → Site
  | .scratch core _ => .die (dieOf core)
  | .near die _ => .die die
  | .hbm off => .shore (hbmPlace off).1
  | .dieControl die _ => .die die
  | .shoreControl n _ => .shore n
  | .host _ => .shore 0
  | .bad => .shore 0
/-- The first compute die that a packet enters or starts from, and its moves from there (R33, R34): none when neither
order reaches the destination. Traffic of a shore die with itself crosses no compute die. -/
def routeOf (s : State) (src dst : Site) : Option (Nat × List Nat) :=
  let within := fun a b =>
    if src ≠ .die a ∧ Sparse.get false s.health.routerFence a then none
    else (torusRoute s a b).map fun l => (a, l)
  match src, dst with
  | .die a, .die b => within a b
  | .die a, .shore n => within a (shoreGate a n)
  | .shore n, .die b => within (shoreGate b n) b
  | .shore a, .shore b => if a = b then some (0, []) else within (shorePair a b).1 (shorePair a b).2
/-- The shore die that owns a port, and the port's number in its table (R303). -/
def portShore (p : Nat) : Nat := p % 64 / 4
/-- Index of a port in its shore die's table. -/
def portIndex (p : Nat) : Nat := p % 4 + (if 64 ≤ p then 4 else 0)

/-- One resource of a wain table: kind 2 or 3, instance, resource code, direction (0 read, 1 write,
2 either) and the bytes per tick of a share unit. -/
structure Need where
  kind : Nat
  inst : Nat
  res : Nat
  dir : Nat
  rate : Nat
  deriving DecidableEq, Repr

/-- The wain-table resources of a place in a direction. -/
def placeNeeds (p : Place) (dir : Nat) : List Need :=
  match p with
  | .near die _ => [⟨3, die, 0, dir, 500⟩]
  | .hbm off => [⟨2, (hbmPlace off).1, 0, dir, 200⟩]
  | .scratch _ _ => []
  | .dieControl _ _ => []
  | .shoreControl _ _ => []
  | .host _ => []
  | .bad => []
/-- A packet that waits counts at every stack that it needs (R531). -/
def waitedStacks (s : State) (needs : List Need) : State :=
  forEach s ((needs.filter fun n => n.kind == 2).map (·.inst)) fun s st => bump s 4 st 6 1
/-- The first torus egress link of a source die toward a site, which its near-memory table grants; a shore die's links to
the array are held by R35 alone. None when no route exists. -/
def linkNeeds (s : State) (src dst : Site) : Option (List Need) :=
  (routeOf s src dst).map fun r =>
    match src with
    | .die a => (r.2.take 1).map fun m => ⟨3, a, m, 2, 100⟩
    | .shore _ => []
/-- Shore-die limits touched: shore die and direction, 0 toward the compute array (R35). Traffic of a shore die with
itself stays on it. -/
def shoreNeeds (src dst : Site) : List (Nat × Nat) :=
  if src = dst then []
  else (match src with | .shore n => [(n, 0)] | .die _ => [])
    ++ (match dst with | .shore n => [(n, 1)] | .die _ => [])

/-- Entry fields of a wain table (R306): class, cove, direction, share, when, yield, resource. -/
def entryMatches (n : Need) (cove cls w : Nat) : Bool :=
  bitsOf w 25 22 == cls && bitsOf w 29 26 == min cove 15
    && (n.dir == 2 || bitsOf w 31 30 == n.dir || bitsOf w 31 30 == 2)
    && bitsOf w 44 42 == n.res
/-- The unit number whose module bank governs a table: the die, or 64 plus the shore die. -/
def tableUnit (kind inst : Nat) : Nat := if kind = 3 then inst else 64 + inst
/-- Share units granted by an entry now: none in a refresh window, in a Hot span of a hot stack of a
hot-refresh bank, while withheld, or out of its phase (R321, R322, R326). -/
def entryShare (s : State) (n : Need) (cove w : Nat) : Nat :=
  let hot := n.kind == 2 && bitOf w 40 && s.tide.mhot && s.tide.hot.contains n.inst
  if bitOf w 39 || hot || (bitOf w 41 && withheld s s.tide.cycleExp)
      || !whenHolds s (bitsOf w 38 37) cove then 0
  else bitsOf w 36 32
/-- Share units in force for a need. -/
def shareNow (s : State) (n : Need) (cove cls : Nat) : Nat :=
  let l := tableList s n.kind n.inst (moduleBankOf s (tableUnit n.kind n.inst))
  (((sharesAt l (s.tide.now % 2 ^ s.tide.cycleExp)).filter fun e => entryMatches n cove cls e.2).map
    fun e => entryShare s n cove e.2).foldl (· + ·) 0
/-- Some entry, in any phase, grants the need a share (R318). -/
def everGranted (s : State) (n : Need) (cove cls : Nat) : Bool :=
  (tableList s n.kind n.inst (moduleBankOf s (tableUnit n.kind n.inst))).any fun e =>
    entryMatches n cove cls e.2 && decide (0 < bitsOf e.2 36 32)

/-- Keys of the bytes admitted in the current 64-tick window. -/
def needKey (n : Need) : Nat := ((n.kind * 64 + n.inst) * 8 + n.res) * 4 + n.dir
/-- Key of a shore die's combined limit. -/
def shoreKey (n dir : Nat) : Nat := 100000 + 2 * n + dir
/-- Bytes used in the current window. -/
def windowUsed (s : State) (key : Nat) : Nat :=
  if s.tide.window = s.tide.now / 64 then Sparse.get 0 s.tide.windowUse key else 0
/-- Take room in the current window. -/
def takeRoom (s : State) (key len : Nat) : State :=
  let w := if s.tide.window = s.tide.now / 64 then s.tide.windowUse else []
  { s with tide := { s.tide with
      window := s.tide.now / 64,
      windowUse := Sparse.set 0 w key (Sparse.get 0 w key + len) } }

/-! ### Ports (R303, R304) -/

/-- The entries of a port in the active bank of its shore die. -/
def portEntries (s : State) (p : Nat) : List (Nat × Nat) :=
  (tableList s 1 (portShore p) (moduleBankOf s (64 + portShore p))).filter fun e =>
    bitsOf e.2 24 22 == portIndex p
/-- The slot at the current tick: its entry, start tick and length. -/
def portSlot (s : State) (p : Nat) : Option (Nat × Tick × Nat) :=
  let l := portEntries s p
  let cyc := 2 ^ s.tide.cycleExp
  let pos := s.tide.now % cyc
  match spanAt l pos with
  | some e =>
    let start := spanStart e.2
    let next := match (l.filter fun x => decide (start < spanStart x.2)).head? with
      | some x => spanStart x.2
      | none => (match l.head? with | some x => spanStart x.2 + cyc | none => cyc)
    some (e.2, s.tide.now - (pos + cyc - start) % cyc, next - start)
  | none => none
/-- The guard of a port: 4 ticks in LL, 13 in RS. -/
def portGuard (s : State) (p : Nat) : Nat := if (portAt s p).rs then 13 else 4
/-- Bytes of a slot, from its start, that admitted packets have taken. -/
def slotUsed (s : State) (p start : Nat) : Nat :=
  if Sparse.get 0 s.tide.portUse (2 * p + 1) = start then Sparse.get 0 s.tide.portUse (2 * p) else 0
/-- A place in a slot: the slot's start, the bytes of it taken after the packet, and the tick at which the packet's last
byte leaves (R268, R270). -/
structure SlotPlace where
  start : Tick
  used : Nat
  leaves : Tick
  deriving DecidableEq, Repr
/-- R304, R310: at 50 bytes per tick, every flit of the packet leaves within the current slot less the guard, and before
an armed switch tick less the guard. `ok` says whether an entry's slot is the packet's. -/
def slotRoom (s : State) (p : Nat) (ok : Nat → Bool) (flits : Nat) : Option SlotPlace :=
  match portSlot s p with
  | some (w, start, len) =>
    let used := max (slotUsed s p start) (50 * (s.tide.now - start)) + 32 * flits
    let t := s.tide.mswitchTick.toNat
    let leaves := start + (used + 49) / 50
    if ok w ∧ whenHolds s (bitsOf w 34 33) (bitsOf w 32 29) ∧ used ≤ 50 * (len - portGuard s p)
        ∧ (¬ s.tide.mswitchCtrl.arm ∨ t ≤ s.tide.now ∨ leaves + portGuard s p ≤ t) then
      some ⟨start, used, leaves⟩
    else none
  | none => none
/-- The slot is the cove's in the class. -/
def slotOf (cove cls w : Nat) : Bool := bitsOf w 28 25 == cls && bitsOf w 32 29 == min cove 15
/-- Room for a cove's packet in its class. -/
def portRoom (s : State) (p cove cls flits : Nat) : Option SlotPlace := slotRoom s p (slotOf cove cls) flits
/-- Take a place in a port's slot. -/
def takeSlot (s : State) (p : Nat) (a : SlotPlace) : State :=
  { s with tide := { s.tide with
      portUse := Sparse.set 0 (Sparse.set 0 s.tide.portUse (2 * p) a.used) (2 * p + 1) a.start } }
/-- Some slot of the port, in any phase, is the cove's in the class. -/
def portEver (s : State) (p cove cls : Nat) : Bool :=
  (portEntries s p).any fun e => slotOf cove cls e.2

/-! ### Routes to other modules (R245, R269, R270) -/

/-- A routing entry of a bank, as a number. -/
def routeEntry (s : State) (bank : Bool) (m : Nat) : Nat :=
  (Sparse.get 0#64 s.fab.routes (65536 * natOf bank + m)).toNat
/-- The routing bank of a unit. -/
def routeBankOf (s : State) (unit : Nat) : Bool :=
  if s.fab.routeLag.contains unit then !s.fab.routeBank else s.fab.routeBank
/-- The service ports of a module (R243, R244). -/
def isService (s : State) (p : Nat) : Bool :=
  p == s.moduleId % 64 || (s.copperOnly && p == 64 + s.moduleId % 64)
/-- A port can carry traffic: active, not fenced, not a service port. -/
def portUsable (s : State) (p : Nat) : Bool := (portAt s p).mode == .active && !isService s p
/-- The port and path bound that a packet to another module `m` takes from a unit (R270): traffic within the module
never uses a port. -/
def routeTo (s : State) (unit m : Nat) : Option (Nat × Nat) :=
  let e := routeEntry s (routeBankOf s unit) m
  if m = s.moduleId then none
  else if bitOf e 7 && portUsable s (bitsOf e 6 0) then some (bitsOf e 6 0, 4 * bitsOf e 31 20)
  else if bitOf e 15 && portUsable s (bitsOf e 14 8) then some (bitsOf e 14 8, 4 * bitsOf e 43 32)
  else none

/-! ### Admission of one packet (R316 to R318) -/

/-- The outcome of admission: granted with the tick at which the last byte leaves. -/
inductive Admit
  | granted (s : State) (leaves : Tick)
  | waits
  | ungranted

/-- A cove that is contained is granted nothing (R495). -/
def grantsNothing (s : State) (cove : Nat) : Bool := cove < 16 && (recovAt s cove).contained

/-- Admit `len` bytes (`flits` on a port) of a cove and class against every resource at once. -/
def admitFor (s : State) (cove cls : Nat) (needs : List Need) (shores : List (Nat × Nat))
    (port : Option Nat) (len flits : Nat) : Admit :=
  if !(needs.all fun n => everGranted s n cove cls)
      || !(match port with | some p => portEver s p cove cls | none => true) then .ungranted
  else if grantsNothing s cove then .waits
  else if !(needs.all fun n =>
        decide (windowUsed s (needKey n) + len ≤ 64 * shareNow s n cove cls * n.rate))
      || !(shores.all fun p => decide (windowUsed s (shoreKey p.1 p.2) + len ≤ 204800)) then .waits
  else
    let s' := needs.foldl (fun s n => takeRoom s (needKey n) len) s
    let s' := shores.foldl (fun s p => takeRoom s (shoreKey p.1 p.2) len) s'
    match port with
    | none => .granted s' s.tide.now
    | some p =>
      match portRoom s p cove cls flits with
      | some a => .granted (takeSlot s' p a) a.leaves
      | none => .waits

/-! ### Sending a packet (R262, R264, R266, R268) -/

/-- Key of a link stream: source unit, module and class (R266). -/
def streamKey (unit module cls : Nat) : Nat := (unit * 65536 + module) * 16 + cls
/-- Flits of a packet of `n` data bytes. -/
def flitsOf (n : Nat) : Nat := 1 + (n + 31) / 32
/-- Bytes kept unacknowledged on a port (R266). -/
def unackedBytes (s : State) (p : Nat) : Nat :=
  ((portAt s p).unacked.map fun q => 32 * flitsOf q.data.length).foldl (· + ·) 0
/-- The tally field: the CRC-32C of the data, 0 without data (R264). -/
def tallyOf (data : List Byte) : Nat := if data = [] then 0 else crcOf data
/-- A resent packet of a link stream waits for its slot: new packets of the stream stay behind it (R272). -/
def resendWaits (s : State) (stream : Nat) : Bool :=
  s.fab.waiting.any fun o => o.packet.resent && o.packet.srcModule == s.moduleId
    && streamKey o.packet.srcUnit (addrModule o.packet.dest.toNat) o.packet.cls == stream
/-- A source stalls that would pass 256 KiB of unacknowledged packets on a port (R266), or a resent packet of its own
stream (R272). -/
def portFull (s : State) (p stream len : Nat) : Bool :=
  resendWaits s stream || decide (262144 < unackedBytes s p + 32 * flitsOf len)
/-- Count a packet that leaves on a port (R531). -/
def countOut (s : State) (port : Nat) (p : Packet) (class0 : Bool) : State :=
  let s := bump (bump s 3 port 0 (flitsOf p.data.length)) 3 port 2 1
  if class0 then bump s 3 port 7 (flitsOf p.data.length) else s
/-- Send a packet on a port: the next stream sequence, the resend buffer and the counters. Its last byte leaves at
`leaves`. -/
def sendOn (s : State) (port : Nat) (leaves : Tick) (p : Packet) : State :=
  let k := streamKey p.srcUnit (addrModule p.dest.toNat) p.cls
  let n := Sparse.get 0 s.fab.txStream k
  let p := { p with seq := n % 65536 }
  let s := { s with fab := { s.fab with txStream := Sparse.set 0 s.fab.txStream k (n + 1) } }
  let s := updPort (emit s port leaves p) port fun q => { q with unacked := q.unacked ++ [p] }
  countOut s port p false
/-- A data packet of a unit of this module. -/
def dataPacket (s : State) (ptype op gen cls unit tag due : Nat) (job : Word) (dest : Nat)
    (data : List Byte) : Packet :=
  { ptype := ptype, gen := gen, cls := cls, transit := 0, late := false, resent := false, op := op,
    jobTag := job, dest := BitVec.ofNat 64 dest, srcModule := s.moduleId, srcUnit := unit, seq := 0,
    tag := tag % 65536, due := due % 2 ^ 24, tally := tallyOf data, data := data, slot := none }
/-- Pad bytes with zeros to a multiple of a flit. -/
def padFlit (bs : List Byte) : List Byte :=
  bs ++ List.replicate ((32 - bs.length % 32) % 32) 0#8

/-! ### Packets that wait for a slot (R266, R268, R271, R305) -/

/-- When the first symbol of the codeword that will hold the next flit crosses a port's lanes, in 1/256 ns (R248, R291). -/
def headerStamp (q : Port) : Nat :=
  256 * q.since + (q.txSeq + q.txFlits.length / codeFlits q.rs) * codeTime q.rs * 256 / 1000
/-- R291: a time-transfer packet takes its send stamp as it leaves, t1 of a request and t3 of a response. -/
def stampTime (q : Port) (p : Packet) : Packet :=
  if p.ptype ≠ 8 then p
  else
    let at_ := if p.op = 1 then 0 else 32
    let data := p.data.take at_ ++ stampBytes (headerStamp q) ++ p.data.drop (at_ + 9)
    { p with data := data, tally := tallyOf data }
/-- A request's send stamp is what its response has to echo. -/
def noteRequest (s : State) (port : Nat) (p : Packet) : State :=
  if p.ptype = 8 ∧ p.op = 1 then
    { s with tide := { s.tide with requests := Sparse.set 0 s.tide.requests port (headerStamp (portAt s port) + 1) } }
  else s
/-- The site of a unit of OutPacket. -/
def unitSite (unit : Nat) : Site := if unit < 64 then .die unit else .shore (unit - 64)
/-- Acknowledgements, status packets, time transfer and packets in transit belong to no link stream of this module. -/
def unstreamed (s : State) (p : Packet) : Bool := decide (6 ≤ p.ptype) || p.srcModule != s.moduleId
/-- R272: a packet of this module that is resent after a failover. -/
def isResend (s : State) (p : Packet) : Bool := p.resent && !unstreamed s p
/-- Send a packet again on a port with its own stream sequence; it stays kept until it is acknowledged. -/
def sendAgain (s : State) (port : Nat) (leaves : Tick) (p : Packet) : State :=
  countOut (updPort (emit s port leaves p) port fun q => { q with unacked := q.unacked ++ [p] }) port p false
/-- A slot that a waiting packet may use: class 0x0 in any cove's name for control packets, else the class of its cove, or
of any cove when it names none. -/
def outSlot (o : OutPacket) (w : Nat) : Bool :=
  bitsOf w 28 25 == o.cls && (match o.cove with | some c => bitsOf w 32 29 == min c 15 | none => true)
/-- The port and bound of a waiting packet. -/
def outPort (s : State) (o : OutPacket) : Option (Nat × Nat) :=
  match o.port with
  | some p => some (p, 0)
  | none => routeTo s o.unit (addrModule o.packet.dest.toNat)
/-- What becomes of a waiting packet now. -/
inductive OutStep
  | sent (s : State)
  | waits
  /-- No route or no route within the package: R270 ends it as unreachable. -/
  | unreachable
  /-- No slot of its class in any phase (R318). -/
  | ungranted
/-- Try to send a waiting packet: the slot, the shore limits of R35, which transit traffic takes without waiting, the first
torus link of a compute die, and the room of the resend buffer. Its due tick is its last byte's tick plus the bound of the path (R270). -/
def tryOut (s : State) (o : OutPacket) : OutStep :=
  match outPort s o with
  | none => .unreachable
  | some (port, bound) =>
    let n := flitsOf o.packet.data.length
    match linkNeeds s (unitSite o.unit) (.shore (portShore port)) with
    | none => .unreachable
    | some links =>
      let cove := o.cove.getD 15
      let needs := if o.cove.isSome then links else []
      let shores := shoreNeeds (unitSite o.unit) (.shore (portShore port))
      if !((portEntries s port).any fun e => outSlot o e.2) || !(needs.all fun n => everGranted s n cove o.cls) then
        .ungranted
      else if !(needs.all fun x =>
            decide (windowUsed s (needKey x) + 32 * n ≤ 64 * shareNow s x cove o.cls * x.rate))
          || (o.packet.srcModule == s.moduleId
              && !(shores.all fun p => decide (windowUsed s (shoreKey p.1 p.2) + 32 * n ≤ 204800)))
          || (!unstreamed s o.packet && !o.packet.resent
              && portFull s port (streamKey o.packet.srcUnit (addrModule o.packet.dest.toNat) o.packet.cls)
                o.packet.data.length) then .waits
      else match slotRoom s port (outSlot o) n with
        | none => .waits
        | some a =>
          let s := needs.foldl (fun s x => takeRoom s (needKey x) (32 * n)) s
          let s := shores.foldl (fun s p => takeRoom s (shoreKey p.1 p.2) (32 * n)) s
          let s := takeSlot s port a
          let p := if o.bounded then { o.packet with due := (a.leaves + bound) % 2 ^ 24 } else o.packet
          .sent (if unstreamed s p then
              let p := stampTime (portAt s port) p
              let s := countOut (emit (noteRequest s port p) port a.leaves p) port p (o.cls == 0)
              if p.srcModule ≠ s.moduleId then bump s 3 port 4 1 else s
            else if p.resent then bump (sendAgain s port a.leaves p) 3 port 5 1
            else sendOn s port a.leaves p)
/-- Key of a waiting packet's order: its link stream, or the replies of one. -/
def outStream (o : OutPacket) : Nat :=
  2 * streamKey o.packet.srcUnit (addrModule o.packet.dest.toNat) o.packet.cls + natOf (decide (6 ≤ o.packet.ptype))
/-- Send what can leave, oldest first; a packet behind a waiting one of its own stream waits with it. A packet that can
never leave is dropped, unless it is resent and so kept (R272): its requester is on another module, or is told by the row
that queued it (log entry 59). -/
def drainFrom : List OutPacket → List Nat → State → State
  | [], _, s => s
  | o :: t, held, s =>
    let keep := fun (s : State) => { s with fab := { s.fab with waiting := s.fab.waiting ++ [o] } }
    if held.contains (outStream o) then drainFrom t held (keep s)
    else match tryOut s o with
      | .sent s => drainFrom t held s
      | .waits => drainFrom t (outStream o :: held) (keep s)
      | .unreachable => if isResend s o.packet then drainFrom t (outStream o :: held) (keep s) else drainFrom t held s
      | .ungranted => if isResend s o.packet then drainFrom t (outStream o :: held) (keep s) else drainFrom t held s
/-- The lower source unit number is admitted first (R316); packets in transit (R271) and resent ones (R272) come before. -/
def outRank (s : State) (o : OutPacket) : Nat :=
  if o.packet.srcModule ≠ s.moduleId ∨ isResend s o.packet then 0 else 1 + o.packet.srcUnit
/-- Insert by rank, behind those of the same rank. -/
def insertOut (s : State) (o : OutPacket) : List OutPacket → List OutPacket
  | [] => [o]
  | x :: t => if outRank s o < outRank s x then o :: x :: t else x :: insertOut s o t
/-- Send every waiting packet that has room now. -/
def drainOut (s : State) : State :=
  if s.fab.waiting = [] then s
  else
    let l := s.fab.waiting.foldl (fun l o => insertOut s o l) []
    drainFrom l [] { s with fab := { s.fab with waiting := [] } }

end Sys2Proof.Machine
end

