-- ==== Sys2Proof/Machine/Slots.lean ====
section
/-!
DEFINITION. Slot writes and notices at their target core (R170, R177 to R179, R182, R186, R199).
-/
namespace Sys2Proof.Machine

/-- Index of a level and round in the four-entry groups of R389: module, bay, hall or round one,
round two. -/
def levelIdx (l : Nat) (round2 : Bool) : Nat := if round2 then 3 else l - 1
/-- Add one to an entry of a four-entry group. -/
def bumpAt (l : List Nat) (i n : Nat) : List Nat :=
  (List.range 4).map fun j => if j = i then l.getD j 0 + n else l.getD j 0
/-- The current call of a context on a group entry: the one that runs, else the next (R178). -/
def currentCall (x : Ctx) (g : Nat) : Nat := Sparse.get 0 x.callsDone g
/-- The mask of levels of a context's running call. -/
def callMask (x : Ctx) : Nat := match x.routine with | some r => r.mask | none => 0
/-- The instructions of a context that have taken a call number and whose routine has not started. -/
def openCalls (x : Ctx) : List Issued :=
  (x.points.map (·.caller)) ++ x.matQ ++ (match x.held with | some h => [h.tile] | none => [])
    ++ x.vecQ.map (·.inst) ++ x.thrQ.map (·.inst)
/-- Anchor and level mask of a call that a context has made on a group entry: those of its routine, or, before it starts,
the context's own anchor and the mask of its instruction (R180; DEDUCED, log entry 79). -/
def callAnchor (x : Ctx) (g call : Nat) : Option (Tick × Nat) :=
  match x.routine with
  | some r => if r.group = g ∧ r.call = call then some (r.anchor, r.mask) else waiting
  | none => waiting
where
  /-- A call that waits for its routine. -/
  waiting : Option (Tick × Nat) :=
    ((openCalls x).find? fun i =>
      communeMask i.fields != 0 && communeGroup i.fields == g && i.call == call).map fun i =>
        (x.anchor, communeMask i.fields)
/-- The tick after which a slot write or notice of the current call comes too late (R178). -/
def slotEnd (s : State) (core k : Nat) (n : SlotName) : Option Tick :=
  let c := coreAt s core
  (callAnchor (ctxAt s core k) n.group n.call).map fun a =>
    if n.gather then gTopLimit c n.group a.2 a.1
    else if bitOf (gOmit c n.group) n.level then gVote s core n.group n.level n.round2 a.1
    else gLimit c n.group n.level n.round2 a.1
/-- R178: the key does not match the entry. -/
def keyMismatch (s : State) (core : Nat) (n : SlotName) : Bool :=
  gKey (coreAt s core) n.group != n.key.toNat
/-- A late piece is discarded and counted: event 0x5021 (R178, R190). The packets of one piece count once. -/
def latePiece (s : State) (core k : Nat) (n : SlotName) : State :=
  let i := levelIdx n.level n.round2
  if (coreAt s core).lateSeen.contains (k, n) then s else
  let s := updCore s core fun c => { c with lateSeen := (k, n) :: c.lateSeen }
  match coveOfCore s core with
  | some c =>
    let s := if n.level = 0 then s else
      bumpCoveSet (updStats s c fun t => { t with latePieces := bumpAt t.latePieces i 1 }) (some c) (24 + i) 1
    record s 0x5021 .corrected c core []
  | none => s
/-- A refused slot write: event 0x5022. -/
def slotRefused (s : State) (core : Nat) : State :=
  record s 0x5022 .corrected (coveNum (coveOfCore s core)) core []
/-- A decision or collective failure is reported at the commit arrival; `key` names the call (R186). -/
def callFails (s : State) (core code key : Nat) : State :=
  match coveOfCore s core with
  | some c =>
    updCove (record s code .stepContained c core []) c fun v =>
      { v with failed := (match v.failed with | some k => some k | none => some (key + 1)) }
  | none => s
/-- Identity of a call of a group entry for R186's repeat. -/
def callKey (g call : Nat) : Nat := g * 65536 + call

/-- Note bytes of a piece that landed (R178, R254). -/
def noteLanded (c : CoreState) (k : Nat) (n : SlotName) (len : Nat) (late : Bool) (tick : Tick) : CoreState :=
  match c.landed.find? fun p => p.name == n && p.ctx == k with
  | some p =>
    { c with landed := c.landed.filter (fun q => !(q.name == n && q.ctx == k))
        ++ [⟨n, p.bytes + len, p.late || late, k, tick⟩] }
  | none => { c with landed := c.landed ++ [⟨n, len, late, k, tick⟩] }
/-- The notice that 64 bytes hold (R179). -/
def noticeOf (bs : List Byte) (n : SlotName) (k : Nat) (lateStatus : Bool) : Notice :=
  let f := fun o w => leVal ((bs.drop o).take w)
  { call := f 0 4, level := bitsOf (f 4 1) 1 0, round2 := bitOf (f 4 1) 2,
    lateNotice := bitOf (f 4 1) 7, sender := n.slot, absence := f 8 8, step := f 0x10 8,
    count := f 0x18 4, key := n.key, lateStatus := lateStatus, ctx := k }
/-- R178, R179: a slot write or a notice of job context `k` lands at window offset `off`. Answers
false when the key refuses it. A notice that completes with LATE status fails its call, whether or not it still counts
(R186). -/
def slotLand (s : State) (core k : Nat) (n : SlotName) (off : Nat) (bs : List Byte) (late : Bool) :
    Bool × State :=
  let x := ctxAt s core k
  let c := coreAt s core
  let cur := currentCall x n.group
  let skew := fun (s : State) =>
    if n.notice && late then callFails s core 0x5010 (callKey n.group n.call) else s
  if keyMismatch s core n then (false, slotRefused s core)
  else if n.call < cur then (true, skew (latePiece s core k n))
  else if cur + gBanks c n.group n.level ≤ n.call then
    (true, slotRefused (updCore s core fun c => { c with refusedAhead := c.refusedAhead ++ [n] }) core)
  else if n.call == cur && (match slotEnd s core k n with
      | some t => decide (t < ctxNow s core) | none => false) then (true, skew (latePiece s core k n))
  else
    let s := scratchWrite s core (winAddr x off) bs
    if n.notice then
      (true, skew (updCore s core fun c => { c with notices := c.notices ++ [noticeOf bs n k late] }))
    else
      let s := updCore s core fun c => noteLanded c k n bs.length late (ctxNow s core)
      let mark := late && (match x.routine with
        | some r => r.group == n.group && r.call == n.call | none => false)
      (true, if mark then updCtx s core k fun x =>
          { x with routine := x.routine.map fun r => { r with late := true } } else s)
/-- R170: a bay or hall level names its target by cove rank, carried in the place of the core: the
address with the core of that rank in the cove whose job carries the tag. -/
def rankAddr (s : State) (tag : Word) (n : SlotName) (addr : Nat) : Option Nat :=
  if n.level < 2 then some addr
  else match placeOf addr with
    | .scratch rank off =>
      (match coveOfTag s tag with
       | some c => ((coresOf (coveAt s c))[rank]?).map fun core => scratchAddr s.moduleId core off
       | none => none)
    | _ => none

/-! ### Where a routine may write (R199) -/

/-- The ranges that a running routine may write: the handed range with its scale plane if MX, the work area and the
receive areas of its group. -/
def routineAreas (s : State) (core : Nat) (r : RoutineCall) : List Range :=
  (r.elem, r.bytes) ::
  (match fmtOfCode r.fmt with
   | some f => if fmtIsMx f && !r.scalar then [(r.scale, r.bytes * 8 / fmtBits f / 32)] else []
   | none => [])
    ++ (gAreas s core r.group).map fun a => (a.2.1, a.2.2)
/-- R199: every written range of an instruction lies in the routine's areas, when one runs. -/
def routineMayWrite (s : State) (core k : Nat) (ws : List Range) : Bool :=
  match (ctxAt s core k).routine with
  | none => true
  | some r => ws.all fun w => w.2 == 0 ||
      (routineAreas s core r).any fun a => decide (a.1 ≤ w.1) && decide (w.1 + w.2 ≤ a.1 + a.2)

end Sys2Proof.Machine
end

