-- ==== Sys2Proof/Machine/Wain.lean ====
section
/-!
DEFINITION. WAIN instructions, the admission of a descriptor's packets and the end of a descriptor
(R109, R150 to R154, R222, R435, R436, R464, R466).
-/
namespace Sys2Proof.Machine

/-! ### Issue -/

/-- Source and destination are local (R150). -/
def wainLs (w : Fields) : Bool := ctlBit w 95
/-- Ld. -/
def wainLd (w : Fields) : Bool := ctlBit w 94
/-- Transfer class (R298). -/
def wainClass (w : Fields) : Nat := ctl w 91 88
/-- A length that an operation accepts (R151). -/
def wainLenOk (op n : Nat) : Bool :=
  match op with
  | 0x00 | 0x01 => decide (64 ≤ n) && decide (n ≤ 2 ^ 26) && n % 64 == 0
  | 0x08 | 0x09 => n == 8
  | 0x0A => n == 16
  | _ => decide (4 ≤ n) && decide (n ≤ 64) && n % 4 == 0
/-- The fields used: WZERO has no source, only atomics return old values. -/
def wainUse (op : Nat) : Use :=
  { Use.none with
    f1 := op != 1, f2 := true, f3 := true, f4 := decide (8 ≤ op),
    control := if op = 1 then 0x4F000000#32 else 0xCF000000#32 }
/-- R150 to R152, R298: the operand rules. -/
def wainLegal (x : Ctx) (op : Nat) (w : Fields) : Bool :=
  let src := (sreg x w.f1).toNat
  let dst := (sreg x w.f2).toNat
  decide (1 ≤ wainClass w) && decide (wainClass w ≤ 10) && wainLenOk op (sreg x w.f3).toNat
    && (op == 1 || src % opAlign op == 0) && dst % opAlign op == 0
    && (if 8 ≤ op then wainLs w && !wainLd w && (w.f4 == 0#5 || (sreg x w.f4).toNat % opAlign op == 0)
        else true)
/-- Scratchpad ranges a descriptor reads and writes (R152). -/
def wainReads (x : Ctx) (op : Nat) (w : Fields) : List Range :=
  if wainLs w ∧ op ≠ 1 then [((sreg x w.f1).toNat, (sreg x w.f3).toNat)] else []
/-- Written ranges. -/
def wainWrites (x : Ctx) (op : Nat) (w : Fields) : List Range :=
  let n := (sreg x w.f3).toNat
  (if wainLd w then [((sreg x w.f2).toNat, n)] else [])
    ++ (if 8 ≤ op ∧ w.f4 ≠ 0#5 then [((sreg x w.f4).toNat, atomicBytes op n)] else [])
/-- The range of this core's own scratchpad that a destination names by global address (R199, R232). -/
def ownRange (s : State) (core op : Nat) (x : Ctx) (w : Fields) : List Range :=
  let a := (sreg x w.f2).toNat
  if wainLd w || addrModule a != s.moduleId then []
  else match placeOf a with
    | .scratch c off => if c = core then [(off, atomicBytes op (sreg x w.f3).toNat)] else []
    | _ => []
/-- Append a descriptor to the context's wain queue. -/
def enqueueWain (x : Ctx) (d : WainDesc) : Ctx :=
  { x with wainQ := x.wainQ ++ [{ d with seq := x.wainSeq }], wainSeq := x.wainSeq + 1 }
/-- A WAIN instruction: one descriptor of the queue of 32 (R88, R150). -/
def wainIssue (s : State) (core k op : Nat) (w : Fields) : State :=
  let x := ctxAt s core k
  let reads := wainReads x op w
  let writes := wainWrites x op w
  issueNext s core k (0x300 + op) w (wainUse op) Writes.none (decide (op < 2)) (wainLegal x op w)
    (((reads ++ writes).all fun r => inWindow x r.1 r.2) && routineMayWrite s core k (writes ++ ownRange s core op x w))
    (stallOf (decide (32 ≤ x.wainQ.length)) (interlocked x reads writes)) fun s =>
      updCtx s core k fun x => enqueueWain x
        { op := op, addr := x.pc, src := sreg x w.f1, dst := sreg x w.f2,
          len := (sreg x w.f3).toNat,
          ret := if 8 ≤ op ∧ w.f4 ≠ 0#5 then some (sreg x w.f4).toNat else none,
          localSrc := wainLs w && op != 1, localDst := wainLd w, cls := wainClass w, slot := none,
          moved := 0, status := .done, awaiting := 0, leaves := 0, tick := s.tide.now, seq := 0 }

/-- R151, WCOPY. -/
def execWcopy (core k : Nat) (w : Fields) (s : State) : Result := .next (wainIssue s core k 0x00 w)
/-- R151, WZERO. -/
def execWzero (core k : Nat) (w : Fields) (s : State) : Result := .next (wainIssue s core k 0x01 w)
/-- R151, WAADD. -/
def execWaadd (core k : Nat) (w : Fields) (s : State) : Result := .next (wainIssue s core k 0x08 w)
/-- R151, WAMAX. -/
def execWamax (core k : Nat) (w : Fields) (s : State) : Result := .next (wainIssue s core k 0x09 w)
/-- R151, WACAS. -/
def execWacas (core k : Nat) (w : Fields) (s : State) : Result := .next (wainIssue s core k 0x0A w)
/-- R151, WAFADD. -/
def execWafadd (core k : Nat) (w : Fields) (s : State) : Result := .next (wainIssue s core k 0x0B w)

/-! ### Where a descriptor's traffic goes (R222, R435, R436) -/

/-- Where an address leads: this module, another one, or nowhere (a remap to no module). -/
inductive Dest
  | here (addr : Nat) (barn : Bool)
  | away (addr : Nat) (barn : Bool)
  | absent
  deriving DecidableEq, Repr

/-- The remap of a module ID for a cove: entries keyed 8 × cove + k; 65,536 stands for ABSENT. -/
def remapOf (s : State) (c m : Nat) : Nat :=
  match (List.range 8).findSome? fun k =>
      match Sparse.get none s.remap (8 * c + k) with
      | some p => if p.1 = m then some p.2 else none
      | none => none with
  | some t => t
  | none => m
/-- Resolve a global address of a cove's descriptor: the stand-in names this module, then the
remap, then the placement table. -/
def resolve (s : State) (c addr : Nat) : Dest :=
  let m := addrModule addr
  if m = s.moduleId ∨ m + 1 = Sparse.get 0 s.standin c then
    let r := barnRedirect s c (s.moduleId * 2 ^ 48 + addr % 2 ^ 48)
    if addrModule r.1 = s.moduleId then .here r.1 r.2 else .away r.1 r.2
  else
    let t := remapOf s c m
    if t = 65536 then .absent
    else if t = s.moduleId then .here (t * 2 ^ 48 + addr % 2 ^ 48) false
    else .away (t * 2 ^ 48 + addr % 2 ^ 48) false

/-! ### The head descriptor -/

/-- The stream of one side of a descriptor: its class, and the destination memory as module, region and unit (R234). -/
def memoryOf (s : State) (core c : Nat) (loc : Bool) (addr : Nat) : Nat × Nat × Nat :=
  let key := fun (a : Nat) => (addrModule a, match placeOf a with
    | .scratch i _ => (0, i) | .near d _ => (1, d) | .hbm _ => (2, 0) | .host _ => (3, 0)
    | .dieControl _ _ => (4, 0) | .shoreControl _ _ => (4, 0) | .bad => (4, 0))
  if loc then (s.moduleId, 0, core)
  else match resolve s c addr with
    | .here a _ => key a
    | .away a _ => key a
    | .absent => (65536, 0, 0)
/-- A descriptor behind one whose read data is still on its way waits while it touches the same destination memory in the
same class (R234). -/
def streamBlocked (s : State) (core : Nat) (earlier : List WainDesc) (d : WainDesc) : Bool :=
  let c := coveNum (coveOfCore s core)
  let dst := fun (e : WainDesc) => memoryOf s core c e.localDst e.dst.toNat
  let src := memoryOf s core c d.localSrc d.src.toNat
  earlier.any fun e => decide (0 < e.awaiting) && e.op < 8 && e.cls == d.cls && (dst e == dst d || dst e == src)
/-- The first descriptor with bytes still to send, when its stream is free. -/
def headFrom (s : State) (core : Nat) : List WainDesc → List WainDesc → Option WainDesc
  | _, [] => none
  | earlier, d :: t =>
    if d.len ≤ d.moved then headFrom s core (earlier ++ [d]) t
    else if streamBlocked s core earlier d then none else some d
/-- The head descriptor of a context. -/
def headWain (s : State) (core : Nat) (x : Ctx) : Option WainDesc := headFrom s core [] x.wainQ
/-- Change a descriptor of a context by its number. -/
def updWain (s : State) (core k seq : Nat) (f : WainDesc → WainDesc) : State :=
  updCtx s core k fun x =>
    { x with wainQ := x.wainQ.map fun d => if d.seq = seq then f d else d }
/-- End a descriptor with a status: no further byte is admitted. -/
def failWain (s : State) (core k seq : Nat) (st : WainStatus) : State :=
  updWain s core k seq fun d => { d with moved := d.len, status := worse d.status st }
/-- Bytes admitted, the last of which leave at `leaves`. -/
def advanceWain (s : State) (core k seq n await : Nat) (leaves : Tick) : State :=
  updWain s core k seq fun d =>
    { d with moved := d.moved + n, awaiting := d.awaiting + await, leaves := max d.leaves leaves }
/-- Bytes of the next packet: at most 4 KiB and not across a 4 KiB boundary of the destination
(R264); an atomic is one packet. -/
def pieceLen (d : WainDesc) : Nat :=
  if 8 ≤ d.op ∧ d.op < 0x100 then d.len
  else min (d.len - d.moved) (4096 - (d.dst.toNat + d.moved) % 4096)

/-- The bytes of a packet's source, or why there are none. -/
inductive Source
  | data (bs : List Byte)
  | hold
  | fail (w : WainStatus) (tallyAt : Option Place)
  | request (addr : Nat)
  | drop
  deriving DecidableEq, Repr

/-- The access of a packet of a context at its target. -/
def wainAccess (s : State) (core k : Nat) (op : AccOp) (addr len align : Nat) : Access :=
  let c := coveNum (coveOfCore s core)
  { op := op, addr := addr, len := len, tag := (ctxAt s core k).jobTag,
    gen := coveGenOf s c (dieOf core), modScope := false, src := s.moduleId, unit := core, align := align }
/-- Read the source of a packet. -/
def sourceOf (s : State) (core k : Nat) (d : WainDesc) (n : Nat) (hostOk : Bool)
    (hostData : List Byte) : Source × Bool :=
  let x := ctxAt s core k
  let c := coveNum (coveOfCore s core)
  if d.op = 1 then (.data (List.replicate n 0#8), false)
  else if d.localSrc then
    (.data (memRead (coreAt s core).scratch (winAddr x (d.src.toNat + d.moved)) n), false)
  else
    match resolve s c (d.src.toNat + d.moved) with
    | .absent => (.drop, false)
    | .away a b => (.request a, b)
    | .here a b =>
      (match placeOf a with
       | .host off =>
         (match hostTranslate s c off n false with
          | none => (.fail .addressFault none, b)
          | some _ => if hostOk && hostReach s c then (.data (hostData.take n ++ List.replicate (n - hostData.length) 0#8), b)
              else (.fail .unreachable none, b))
       | p =>
         (match targetCheck s (wainAccess s core k .read a n 64) with
          | .ok => if condemned s p n then (.fail .tallyFailure (some p), b)
              else (.data (placeRead s x.jobTag p n), b)
          | .hold => (.hold, b)
          | .refuse w => (.fail w none, b)))

/-- The site that a packet starts from. -/
def sourceSite (core : Nat) (src : Option Place) : Site :=
  match src with | some p => siteOf p | none => .die (dieOf core)
/-- The wain-table and port needs of a packet: from a source place (none for this core's scratchpad)
to a destination site. -/
def packetNeeds (s : State) (core : Nat) (src : Option Place) (dst : Site) : Option (List Need) :=
  (linkNeeds s (sourceSite core src) dst).map fun l =>
    (match src with | some p => placeNeeds p 0 | none => []) ++ l

/-- The class a packet is admitted in: barn class when redirected (R222). -/
def admitClass (d : WainDesc) (barn : Bool) : Nat := if barn then 0xC else d.cls
/-- R466: fold the tally of a moved piece into the core digest of context 0, for a WCOPY of a
digest class that leaves or enters the core. -/
def foldDigest (s : State) (core k : Nat) (d : WainDesc) (bs : List Byte) : State :=
  let c := coveAt s (coveNum (coveOfCore s core))
  if k = 0 ∧ d.op = 0 ∧ bitOf c.ldig.toNat 6 ∧ bitOf c.ldig.toNat (8 + d.cls - 1)
      ∧ ¬ (d.localSrc ∧ d.localDst) then
    updCore s core fun x =>
      { x with digest := BitVec.ofNat 64 (crc64 x.digest.toNat (leBytes 4 (crcOf bs))) }
  else s
/-- Count moved bytes (R529, R530, R531). -/
def countMoved (s : State) (core : Nat) (d : WainDesc) (src dst : Option Place) (barn : Bool)
    (n : Nat) : State :=
  let c := coveOfCore s core
  let s := if d.localSrc then bumpCore s core 6 n else s
  let s := if d.localDst then bumpCore s core 7 n else s
  let s := match src with
    | some (.hbm off) => bumpCoveSet (bump s 4 (hbmPlace off).1 0 n) c 30 n
    | _ => s
  let s := match dst with
    | some (.hbm _) => bumpCoveSet s c 30 n
    | _ => s
  if barn then bumpCoveSet s c 31 n else s

/-- Send the packet of a piece to another module: the port, the due tick, which is its last byte's tick plus the bound of
the path (R270), and the stream of R266. -/
def sendAway (s : State) (core k port bound : Nat) (leaves : Tick) (d : WainDesc) (ptype op : Nat) (cls dest : Nat)
    (data : List Byte) : State :=
  let c := coveNum (coveOfCore s core)
  sendOn s port leaves { dataPacket s ptype op (coveGenOf s c (dieOf core)) cls core d.seq
    (leaves + bound) (ctxAt s core k).jobTag dest data with slot := d.slot }

/-- Wait at admission: the head waits, and issue stops (R317). -/
def admitWait (s : State) (core : Nat) (port : Option Nat) : State :=
  let s := bumpCore s core 8 1
  match port with | some p => bump s 3 p 6 1 | none => s

/-- A packet whose destination is another module: a write, an atomic, or the read request of a
remote source. -/
def admitAway (s : State) (core k : Nat) (d : WainDesc) (srcPlace : Option Place) (ptype op addr : Nat)
    (barn : Bool) (data : List Byte) (n await : Nat) : State :=
  let c := coveNum (coveOfCore s core)
  let cls := admitClass d barn
  match routeTo s (dieOf core) (addrModule addr) with
  | none => failWain s core k d.seq .unreachable
  | some (port, bound) =>
    if portFull s port (streamKey core (addrModule addr) cls) data.length then admitWait s core (some port)
    else
      match packetNeeds s core srcPlace (.shore (portShore port)) with
      | none => failWain s core k d.seq .unreachable
      | some needs =>
        match admitFor s c cls needs (shoreNeeds (sourceSite core srcPlace) (.shore (portShore port)))
            (some port) (32 * flitsOf data.length)
            (flitsOf data.length) with
        | .ungranted => failWain s core k d.seq .addressFault
        | .waits => admitWait (waitedStacks s needs) core (some port)
        | .granted s leaves =>
          let s := sendAway s core k port bound leaves d ptype op cls addr data
          let s := if ptype = 2 then s else foldDigest (markDirty s (addrModule addr) (addr % 2 ^ 44)) core k d data
          countMoved (advanceWain s core k d.seq n await leaves) core d srcPlace none barn n

/-- Land an admitted piece inside the module or in host memory. -/
def landPiece (s : State) (core k : Nat) (d : WainDesc) (addr : Nat) (data : List Byte) : State :=
  let x := ctxAt s core k
  let c := coveNum (coveOfCore s core)
  match placeOf addr with
  | .host off =>
    (match hostTranslate s c off data.length true with
     | some iova => hostWrite s (c + 1) iova data
     | none => s)
  | p =>
    if 8 ≤ d.op ∧ d.op < 0x100 then
      let r := atomicAt s x.jobTag p d.op data
      match d.ret with
      | some off => scratchWrite r.2 core (winAddr x off) r.1
      | none => r.2
    else
      match d.slot, p with
      | some n, .scratch toCore off =>
        (match ctxOfTag s toCore x.jobTag with
         | some j => (slotLand s toCore j n off data false).2
         | none => s)
      | _, _ => landWrite s x.jobTag p data

/-- Is the destination free to take the piece: the target's checks, and before an atomic the
tally of its block (R233). -/
def destCheck (s : State) (core k : Nat) (d : WainDesc) (addr n : Nat) : Verdict :=
  let c := coveNum (coveOfCore s core)
  let atomic := 8 ≤ d.op ∧ d.op < 0x100
  let op := if atomic then AccOp.atomic else if d.op = 1 then .zero else .write
  match placeOf addr with
  | .bad => .refuse (if d.slot.isSome then .jobTagRefusal else .addressFault)
  | .host off =>
    if atomic then .refuse .addressFault
    else (match hostTranslate s c off n true with
      | some _ => if hostReach s c then .ok else .refuse .unreachable
      | none => .refuse .addressFault)
  | p =>
    match targetCheck s (wainAccess s core k op addr (if atomic then atomicBytes d.op n else n)
        (if atomic then opAlign d.op else 64)) with
    | .ok =>
      if atomic ∧ condemned s p 1 then .refuse .tallyFailure
      else
        (match d.slot, p with
         | some sn, .scratch toCore _ => if keyMismatch s toCore sn then .refuse .addressFault else .ok
         | _, _ => .ok)
    | v => v

/-- Count a refusal that has a status of its own at the target (R210, R314); an unreachable target and a failed tally are
none. -/
def refusalNote (s : State) (a : Access) (w : WainStatus) : State :=
  match w with
  | .generationReject => countSkew s a false
  | .addressFault => countRefusal s a w
  | .jobTagRefusal => countRefusal s a w
  | .unreachable => s
  | .tallyFailure => s
  | .done => s
  | .late => s
/-- The next packet of a descriptor with its data at hand: to this core's scratchpad, inside the
module, or to another module. -/
def admitData (s : State) (core k : Nat) (d : WainDesc) (srcPlace : Option Place) (srcBarn : Bool)
    (n : Nat) (data : List Byte) : State :=
  let x := ctxAt s core k
  let c := coveNum (coveOfCore s core)
  if d.localDst then
    match packetNeeds s core srcPlace (.die (dieOf core)) with
    | none => failWain s core k d.seq .unreachable
    | some needs =>
      match admitFor s c (admitClass d srcBarn) needs (shoreNeeds (sourceSite core srcPlace) (.die (dieOf core)))
          none n 0 with
      | .ungranted => failWain s core k d.seq .addressFault
      | .waits => admitWait (waitedStacks s needs) core none
      | .granted s leaves =>
        let s := scratchWrite s core (winAddr x (d.dst.toNat + d.moved)) data
        let s := foldDigest s core k d data
        countMoved (advanceWain s core k d.seq n 0 leaves) core d srcPlace none srcBarn n
  else
    match resolve s c (d.dst.toNat + d.moved) with
    | .absent => advanceWain s core k d.seq n 0 0
    | .away a b =>
      let atomic := 8 ≤ d.op ∧ d.op < 0x100
      let ret := atomic ∧ d.ret.isSome
      admitAway s core k d srcPlace (if atomic then 4 else 1)
        (if atomic then d.op + (if ret then 128 else 0) else 0) a (srcBarn || b)
        (if atomic then padFlit data else data) n (if ret then 1 else 0)
    | .here a0 b =>
      let a := match d.slot with | some sn => (rankAddr s x.jobTag sn a0).getD (2 ^ 48 - 1) | none => a0
      match destCheck s core k d a n with
      | .hold => countSkew s (wainAccess s core k .write a n 64) true
      | .refuse w =>
        let acc := wainAccess s core k .write a n 64
        let s := match d.slot, placeOf a with
          | some sn, .scratch target _ =>
            if keyMismatch s target sn && (targetCheck s acc == .ok) then slotRefused s target else refusalNote s acc w
          | _, _ => refusalNote s acc w
        let s := if w = .tallyFailure then condemn s (placeOf a) 1 else s
        failWain s core k d.seq w
      | .ok =>
        match packetNeeds s core srcPlace (siteOf (placeOf a)) with
        | none => failWain s core k d.seq .unreachable
        | some needs =>
          match admitFor s c (admitClass d (srcBarn || b)) (needs ++ placeNeeds (placeOf a) 1)
              (shoreNeeds (sourceSite core srcPlace) (siteOf (placeOf a))) none n 0 with
          | .ungranted => failWain s core k d.seq .addressFault
          | .waits => admitWait (waitedStacks s (needs ++ placeNeeds (placeOf a) 1)) core none
          | .granted s leaves =>
            let s := landPiece s core k d a data
            let s := foldDigest s core k d data
            countMoved (advanceWain s core k d.seq n 0 leaves) core d srcPlace (some (placeOf a))
              (srcBarn || b) n

/-- R316, PACKET_ADMIT: the next packet of the context's head descriptor. A wain moves only while
its context owns the cluster (R116). `hostOk` and `hostData` are the host's answer to a read of the
window (log entry 3). W1 reads the scratchpad words through their codes (R118). -/
def execPacketAdmit (core k : Nat) (hostOk : Bool) (hostData : List Byte) (s : State) : Result :=
  let x := ctxAt s core k
  let c := coveNum (coveOfCore s core)
  match headWain s core x with
  | none => .next s
  | some d =>
    if (clusterAt s (clusterOf core)).owner != some k || grantsNothing s c then .next s
    else
      let n := pieceLen d
      let r := readScratch s core (if d.op ≠ 1 ∧ d.localSrc then [(winAddr x (d.src.toNat + d.moved), n)] else [])
      if !r.1 then .next r.2 else
      let s := r.2
      let srcPlace := if d.op = 1 ∨ d.localSrc then none else
        match resolve s c (d.src.toNat + d.moved) with
        | .here a _ => some (placeOf a) | .away _ _ => none | .absent => none
      match sourceOf s core k d n hostOk hostData with
      | (.drop, _) => .next (advanceWain s core k d.seq n 0 0)
      | (.hold, _) => .next (countSkew s (wainAccess s core k .read (d.src.toNat + d.moved) n 64) true)
      | (.fail w at_, _) =>
        let s := match w, srcPlace with
          | .unreachable, some (.host off) =>
            hostFailed s (c + 1) ((hostTranslate s c off n false).getD 0)
          | _, _ => s
        let s := match at_ with | some p => condemn s p n | none => s
        .next (failWain (refusalNote s (wainAccess s core k .read (d.src.toNat + d.moved) n 64) w) core k d.seq w)
      | (.request a, barn) =>
        let back := if d.localDst then scratchAddr s.moduleId core (d.dst.toNat + d.moved)
          else d.dst.toNat + d.moved
        let own := d.localDst || addrModule back == s.moduleId
        .next (admitAway s core k d none 2 0 a barn
          (padFlit (leOut 8 back ++ leOut 4 n)) n (natOf own))
      | (.data bs, barn) => .next (admitData s core k d srcPlace barn n bs)

/-! ### The end of a descriptor (R109, R154) -/

/-- What a bad status of an access that a unit made does to its cove (R154, R390, R464). -/
def coveOutcome (s : State) (c addr : Nat) (w : WainStatus) : State :=
  match w with
  | .done => s
  | .late => s
  | .generationReject => discardStep s c 2 none
  | .unreachable => discardStep s c 6 (some addr)
  | .tallyFailure =>
    let s := bumpCoveSet s (some c) 9 1
    if (coveAt s c).replaying then coveFatal s c 7 else discardStep s c 10 none
  | .addressFault => coveFatal s c 8
  | .jobTagRefusal => coveFatal s c 8
/-- The same for a core. -/
def statusOutcome (s : State) (core addr : Nat) (w : WainStatus) : State :=
  match coveOfCore s core with
  | none => s
  | some c => coveOutcome s c addr w

/-- R109, WAIN_DESCRIPTOR_COMPLETE: the oldest descriptor whose every byte has been admitted and has left, and which
awaits no answer, completes; its status joins the sticky wain status and has its outcome. -/
def execWainDescriptorComplete (core k : Nat) (s : State) : Result :=
  let x := ctxAt s core k
  match x.wainQ.find? fun d => decide (d.len ≤ d.moved) && d.awaiting == 0 && decide (d.leaves ≤ s.tide.now) with
  | none => .next s
  | some d =>
    let s := setCtx s core k { x with
      wainQ := x.wainQ.filter fun e => e.seq ≠ d.seq, wainStatus := worse x.wainStatus d.status }
    .next (statusOutcome s core d.addr d.status)

end Sys2Proof.Machine
end

