-- ==== Sys2Proof/Machine/Sync.lean ====
section
/-!
DEFINITION. SYNC instructions, arrivals, layer digests, wait records and the end of a wait (R44,
R135, R155 to R158, R180, R315, R386, R466 to R468, R537 to R542).
-/
namespace Sys2Proof.Machine

/-! ### Rings in a cove's HBM units -/

/-- A package-space HBM address of this module in a register: its offset, when the whole range lies in
the cove's units. -/
def coveRange (s : State) (c reg len : Nat) : Option Nat :=
  let a := (regAt s reg).toNat / 4096 * 4096
  if addrModule a = s.moduleId ∧ bitsOf a 47 44 = 8 ∧ coveOwnsRange s c (a % 2 ^ 44) len then
    some (a % 2 ^ 44)
  else none

/-! ### Wait records (R537 to R540) -/

/-- R541: BAR0 offset of a wait-trace register of a cove. -/
def wtReg (c off : Nat) : Nat := 0xB0100 + 0x40 * c + off
/-- Log2 of the wait ring's entry count, when tracing is on in this control word. -/
def wtSize (ctrl : Word) : Option Nat :=
  let m := bitsOf ctrl.toNat 1 0
  let n := bitsOf ctrl.toNat 20 16
  if (m = 1 ∨ m = 2) ∧ 10 ≤ n ∧ n ≤ 24 then some n else none
/-- The core is traced: the lowest-ranked core of each die, or every ranked core. -/
def wtTraced (s : State) (c core : Nat) : Bool :=
  let l := coresOf (coveAt s c)
  match bitsOf (waitTraceAt s c).inForce.toNat 1 0 with
  | 1 => (l.filter fun i => dieOf i == dieOf core).head? == some core
  | 2 => l.contains core
  | _ => false
/-- A dropped wait record: counted, and event 0xE002 once per episode with its cause (1 die buffer,
2 ring full, 3 ring outside the cove's units, 4 no class-0xD grant). -/
def dropWait (s : State) (c cause : Nat) : State :=
  let first := !(waitTraceAt s c).dropState
  let s := updWaitTrace s c fun t => { t with dropped := satTo 32 (t.dropped + 1), dropState := true }
  let s := bump s 0 0 6 1
  if first then recordCove s 0xE002 .corrected c [c, cause] else s
/-- R537: a wait that ended forms a record in its die's buffer of 256. -/
def traceWait (s : State) (core : Nat) (r : WaitRec) : State :=
  match coveOfCore s core with
  | none => s
  | some c =>
    let t := waitTraceAt s c
    if (wtSize t.inForce).isSome && bitOf t.inForce.toNat (8 + r.kind) && decide (t.thresh ≤ r.length)
        && wtTraced s c core && r.ctx < 4 then
      let buf := Sparse.get [] s.trace.dieBuf (dieOf core)
      if 256 ≤ buf.length then dropWait s c 1
      else { s with trace := { s.trace with
        dieBuf := Sparse.set [] s.trace.dieBuf (dieOf core) (buf ++ [(c, r)]) } }
    else s
/-- A record of a wait of a context that ends now; the awaited fields default to none. -/
def waitRec (s : State) (core k kind : Nat) : WaitRec :=
  let x := ctxAt s core k
  { tick := s.tide.now, length := satTo 32 (s.tide.now - x.waitStart), waiter := core, ctx := k,
    level := 0, round2 := false, afterDeadline := false, dropped := false,
    switched := x.waitSwitched, kind := kind, call := 0, group := 0xFF, slot := 0xFF,
    module := 0xFFFF, core := 0xFFFF,
    step := match coveOfCore s core with | some c => (coveAt s c).step.toNat % 65536 | none => 0 }

/-! ### Layer digests (R467, R468) -/

/-- Write a layer-digest entry to the cove's ring, or count it as missed. -/
def writeLayer (s : State) (c : Nat) (d : DWord) : State :=
  let v := coveAt s c
  let n := bitsOf v.ldig.toNat 24 20
  let body := leOut 8 v.step.toNat ++ leOut 4 v.digestPoint ++ leOut 2 v.replays ++ leOut 2 0
    ++ leOut 8 d.toNat ++ leOut 4 0
  match coveRange s c (cvReg c 0xA08) (32 * 2 ^ n) with
  | some off =>
    if bitOf v.ldig.toNat 6 ∧ 8 ≤ n ∧ n ≤ 20 then
      updCove (hbmStore s (off + 32 * (v.ldigCount % 2 ^ n)) (body ++ leOut 4 (crcOf body))) c
        fun v => { v with ldigCount := v.ldigCount + 1 }
    else recordCove (updCove s c fun v => { v with ldigMissed := satTo 32 (v.ldigMissed + 1) })
      0x9071 .corrected c []
  | none => recordCove (updCove s c fun v => { v with ldigMissed := satTo 32 (v.ldigMissed + 1) })
      0x9071 .corrected c []
/-- Take the closing values of cores whose earlier descriptors have completed; once every ranked
core has one, form the layer digest over them in rank order. -/
def settleLayers (s : State) (c : Nat) : State :=
  let v := coveAt s c
  let ready := v.closing.filter fun p =>
    (ctxAt s p.1 0).wainQ.all fun d => decide (p.2 ≤ d.seq)
  let s := updCove s c fun v =>
    { v with closing := v.closing.filter fun p => !ready.contains p,
             closed := v.closed ++ ready.map fun p => (p.1, (coreAt s p.1).digest) }
  let s := forEach s ready fun s p => updCore s p.1 fun x => { x with digest := 0#64 }
  let v := coveAt s c
  let cores := coresOf v
  if !cores.isEmpty && cores.all fun i => v.closed.any fun p => p.1 == i then
    let vals := cores.map fun i => ((v.closed.find? fun p => p.1 == i).map (·.2)).getD 0#64
    let d := BitVec.ofNat 64 (crc64 0 (vals.flatMap fun x => leBytes 8 x.toNat))
    let s := writeLayer s c d
    updCove s c fun v =>
      { v with closed := (v.closed.zip (List.range v.closed.length)).filterMap fun p =>
                 if (v.closed.take p.2).any (fun q => q.1 == p.1.1) || !cores.contains p.1.1
                 then some p.1 else none,
               digestPoint := v.digestPoint + 1,
               stats := { v.stats with layers := v.stats.layers ++ [d] } }
  else s
/-- An arrival of context 0 that names the digest group closes a layer on its core (R467). -/
def closeLayer (s : State) (core k group : Nat) : State :=
  match coveOfCore s core with
  | none => s
  | some c =>
    let v := coveAt s c
    if k = 0 ∧ bitOf v.ldig.toNat 6 ∧ bitsOf v.ldig.toNat 5 0 = group then
      settleLayers (updCove s c fun v =>
        { v with closing := v.closing ++ [(core, (ctxAt s core 0).wainSeq)] }) c
    else s

/-! ### Arrivals (R44, R135, R155, R315) -/

/-- The cores of this module that belong to a group at the die and module levels of a mask, by the
arriving core's entry. -/
def localMembers (s : State) (core g mask : Nat) : List Nat :=
  let dieSet := if bitOf mask 0 then gMembers s core g 0 else [core]
  if bitOf mask 1 then dieSet.flatMap fun i =>
      (bitsSet (gLevel (coreAt s core) g 1 0) 64).map fun d => 16 * d + i % 16
  else dieSet
/-- The mask names a level with members on other modules. -/
def remoteMembers (s : State) (core g mask : Nat) : Bool :=
  (bitOf mask 2 && (gMembers s core g 2).any (· ≠ actingModule s (coveNum (coveOfCore s core))))
    || (bitOf mask 3 && (gMembers s core g 3).any (· ≠ actingModule s (coveNum (coveOfCore s core))))

/-- R315: the arrival's generation differs from another's, the entry's differs from the core's, or
the skew flag is set. -/
def genSkewed (s : State) (c core g : Nat) (others : List Nat) : Bool :=
  let own := coveGenOf s c (dieOf core)
  gGen (coreAt s core) g != own || (coveTideAt s c).skew || others.any (· != own)
/-- R315: the step is discarded with cause 2 and the cove holds, hold cause 3 and TIDE_C_STATE
cause 1. Event 0x1022 with the lagging units. -/
def skewFail (s : State) (c : Nat) : State :=
  let t := coveTideAt s c
  let dies := maskOf ((t.lag.filter (·.2)).map (·.1))
  let shores := maskOf ((t.lagShore.filter (·.2)).map (·.1))
  let s := recordCove s 0x1022 .stepContained c [dies, shores]
  let s := discardStep s c 2 none
  if (coveAt s c).mode = .running then holdCove s c 3 1 else s

/-- Make a group arrival: its group entry is read from the table's storage (R118), then its checks, then its record; the
flag says that it stands. `n` is its number on the group entry. -/
def arrive (s : State) (core k addr g mask n : Nat) (deadline : Tick) : Bool × State :=
  let q := readStorage s core 3 3 (20 * g) (20 * g + 20)
  if !q.1 then (false, q.2) else
  let s := q.2
  match coveOfCore s core with
  | none => (true, s)
  | some c =>
    let key := BitVec.ofNat 32 (gKey (coreAt s core) g)
    let same := (coveAt s c).arrivals.filter fun a => a.key == key && a.call == n && a.ctx == k
    let gen := coveGenOf s c (dieOf core)
    let a : Arrival := ⟨core, k, addr, gen, g, key, n, mask, deadline⟩
    if same.any fun b => b.addr != addr then (false, divergence s core)
    else if genSkewed s c core g (same.map (·.gen)) then (false, skewFail s c)
    else (true, closeLayer (updCove s c fun v => { v with arrivals := v.arrivals ++ [a] }) core k g)

/-- Every member has made the arrival that a context waits for: those of this module by their records, those of others
by the free value of log entry 58. -/
def allArrived (s : State) (core k g mask : Nat) : Bool :=
  match coveOfCore s core with
  | none => false
  | some c =>
    let v := coveAt s c
    let key := BitVec.ofNat 32 (gKey (coreAt s core) g)
    match (v.arrivals.filter fun (a : Arrival) =>
        a.core == core && a.ctx == k && a.key == key).getLast? with
    | none => false
    | some own =>
      (!remoteMembers s core g mask || Config.remoteArrived key.toNat own.call (ctxNow s core)) &&
        (localMembers s core g mask).all fun i =>
          v.arrivals.any fun a => a.core == i && a.ctx == k && a.key == key && a.call == own.call

/-- The scheduled commit tick of a cove's step (R302). -/
def commitTickOf (s : State) (c : Nat) : Tick :=
  let t := coveTideAt s c
  t.stepStart + planCommitOffset s c t.bank

/-! ### The end of a wait -/

/-- Nothing issued before is still in progress (SDRAIN). -/
def drained (s : State) (core k : Nat) : Bool :=
  let x := ctxAt s core k
  x.matQ.isEmpty && (match x.held with | some h => !h.drainPending | none => true)
    && x.vecQ.isEmpty && x.thrQ.isEmpty && x.wainQ.isEmpty && x.points.isEmpty && x.routine.isNone
/-- The wait's condition holds; an SCOMMIT ends with slack water, an RWAIT by its own rules. -/
def waitDone (s : State) (core k : Nat) : Wait → Bool
  | .tide t => decide (t ≤ ctxNow s core)
  | .bar _ t => decide (t ≤ ctxNow s core)
  | .arrive g mask d => decide (d ≤ ctxNow s core) || allArrived s core k g mask
  | .wains n => (ctxAt s core k).wainQ.all fun d => decide (n ≤ d.seq)
  | .drain => drained s core k
  | .commit _ => false
  | .slots _ _ _ _ _ _ _ _ => false
/-- The anchor a completed wait leaves (R180). -/
def anchorAfter (x : Ctx) : Wait → Tick
  | .tide t => t
  | .bar _ t => t
  | .arrive _ _ d => d
  | .wains _ => x.anchor
  | .drain => x.anchor
  | .commit _ => x.anchor
  | .slots _ _ _ _ _ _ _ _ => x.anchor
/-- The wain status is reported and cleared (R154). -/
def statusAfter (x : Ctx) : Wait → WainStatus
  | .bar _ _ => .done
  | .arrive _ _ _ => .done
  | .wains _ => .done
  | .commit _ => .done
  | .tide _ => x.wainStatus
  | .drain => x.wainStatus
  | .slots _ _ _ _ _ _ _ _ => x.wainStatus
/-- The wait record of a SYNC wait that ends, if its kind is traced (R537, R538). -/
def traceSync (s : State) (core k : Nat) (w : Wait) : State :=
  match w with
  | .tide _ => traceWait s core (waitRec s core k 3)
  | .bar _ _ => traceWait s core (waitRec s core k 4)
  | .wains _ => traceWait s core (waitRec s core k 5)
  | .commit _ => traceWait s core { waitRec s core k 1 with
      group := match coveOfCore s core with
        | some c => (coveAt s c).commitGroup.getD 0xFF | none => 0xFF }
  | .arrive g mask d =>
    let key := BitVec.ofNat 32 (gKey (coreAt s core) g)
    let last := match coveOfCore s core with
      | some c => ((coveAt s c).arrivals.filter fun (a : Arrival) =>
          a.ctx == k && a.key == key).getLast?
      | none => none
    let lvl := highest mask
    let r := { waitRec s core k 0 with level := lvl, group := g, afterDeadline := decide (d < ctxNow s core) }
    traceWait s core (match last with
      | some a => { r with
          slot := ((gMembers s core g lvl).findIdx? (· = a.core)).getD 0xFF,
          module := s.moduleId, core := a.core }
      | none => r)
  | .drain => s
  | .slots _ _ _ _ _ _ _ _ => s
/-- End a context's wait: the anchor and the wain status of the kind, and the wait record. -/
def endWait (s : State) (core k : Nat) : State :=
  match (ctxAt s core k).wait with
  | none => s
  | some w =>
    updCtx (traceSync s core k w) core k fun x =>
      { x with wait := none, waitSwitched := false, anchor := anchorAfter x w,
               wainStatus := statusAfter x w }
/-- End the wait when its condition holds; the context must own its cluster (R158). -/
def settleWait (s : State) (core k : Nat) : State :=
  match (ctxAt s core k).wait with
  | none => s
  | some w =>
    if (clusterAt s (clusterOf core)).owner == some k && waitDone s core k w then endWait s core k
    else s
/-- Start a wait, and end it at once when its condition already holds. -/
def startWait (s : State) (core k : Nat) (w : Wait) : State :=
  settleWait (updCtx s core k fun x =>
    { x with wait := some w, waitStart := s.tide.now, waitSwitched := false }) core k

/-! ### Instructions (R155, R156) -/

/-- The fields of an unfused SYNC operation. -/
def syncUse (f2 imm : Bool) (tail : BitVec 16) : Use :=
  { Use.none with f2 := f2, imm := imm, tail := tail }

/-- R155, SWTIDE: wait for s[F2] + Imm, Imm unsigned. -/
def execSwtide (core k : Nat) (w : Fields) (s : State) : Result :=
  .next (issueNext s core k 0x400 w (syncUse true true 0#16) Writes.none false true true none fun s =>
    startWait s core k (.tide ((sreg (ctxAt s core k) w.f2).toNat + w.imm.toNat)))
/-- R155, SARRIVE: the arrival is made at issue; it completes when every member has arrived or at the
deadline of the highest level of the mask. -/
def execSarrive (core k : Nat) (w : Fields) (s : State) : Result :=
  let g := communeGroup w
  let c := coreAt s core
  .next (issueThen s core k 0x401 w { Use.none with fusable := true } Writes.none false
    (communeOk c w true true) true none fun pc s =>
      let x := ctxAt s core k
      let d := gDeadline c g (highest (communeMask w)) true x.anchor
      let n := Sparse.get 0 x.calls (64 + g)
      let s := setCtx s core k (takeCall x (64 + g)).2
      let r := arrive s core k pc g (communeMask w) (n + 2 ^ 33) d
      if r.1 then startWait r.2 core k (.arrive g (communeMask w) d) else r.2)
/-- R155, SWAINS: wait for the descriptors issued before, then report their status. -/
def execSwains (core k : Nat) (w : Fields) (s : State) : Result :=
  .next (issueNext s core k 0x402 w Use.none Writes.none false true true none fun s =>
    startWait s core k (.wains (ctxAt s core k).wainSeq))
/-- R155, SDRAIN. -/
def execSdrain (core k : Nat) (w : Fields) (s : State) : Result :=
  .next (issueNext s core k 0x403 w Use.none Writes.none false true true none fun s =>
    startWait s core k .drain)
/-- R155, STBAR: wait for s[F2] plus the delivery bound of the scope; scope 3 is reserved. -/
def execStbar (core k : Nat) (w : Fields) (s : State) : Result :=
  let scope := bitsOf w.tail.toNat 1 0
  .next (issueNext s core k 0x404 w (syncUse true false 0x0003#16) Writes.none false
    (decide (scope < 3)) true none fun s =>
      let b := (sreg (ctxAt s core k) w.f2).toNat
      startWait s core k (.bar b (b + levelBound s (scope + 1))))
/-- R156, R386, SCOMMIT: context 0 only, the group at every level it defines, s[F2] the commit tick
of the plan. A decision failure of the step is reported here (R186). -/
def execScommit (core k : Nat) (w : Fields) (s : State) : Result :=
  let g := communeGroup w
  let e := coreAt s core
  let legal := k == 0 && communeOk e w true true && communeMask w == gLevels e g
    && (match coveOfCore s core with
        | some c => (sreg (ctxAt s core k) w.f2).toNat + (coveAt s c).ckpt.offset == commitTickOf s c
        | none => false)
  .next (issueThen s core k 0x405 w { Use.none with f2 := true, fusable := true } Writes.none false
    legal true none fun pc s =>
      match coveOfCore s core with
      | none => s
      | some c =>
        let v := coveAt s c
        let gen := coveGenOf s c (dieOf core)
        if v.commits.any fun a => a.addr != pc then divergence s core
        else if genSkewed s c core g (v.commits.map (·.gen)) then skewFail s c
        else
          match v.failed with
          | some key => discardStep s c 3 (some key)
          | none =>
            let s := updCove s c fun v =>
              { v with commits := v.commits ++ [⟨core, pc, gen, s.tide.now⟩],
                       commitTick := commitTickOf s c, commitGroup := some g }
            startWait (closeLayer s core k g) core k (.commit (commitTickOf s c)))

end Sys2Proof.Machine
end

