-- ==== Sys2Proof/Machine/Shape.lean ====
section
/-!
DEFINITION. What a cove holds: its image and variants, unit maps, quotas, the loading of a variant,
demotion and promotion, zeroing and release (R211 to R231, R334 to R353, R358).
-/
namespace Sys2Proof.Machine

/-! ### Images and variants (R339 to R342) -/

/-- A little-endian field of the image slot. -/
def imageVal (v : Cove) (off n : Nat) : Nat := leVal (memRead v.image off n)
/-- Variants of the image, by its header. -/
def variantCount (v : Cove) : Nat := imageVal v 0 4
/-- Offset of the descriptor of variant `i`, from 0. -/
def variantOff (i : Nat) : Nat := 0x40 + 64 * i
/-- Die count of a variant. -/
def variantDies (v : Cove) (i : Nat) : Nat := imageVal v (variantOff i) 1
/-- Its cluster mask. -/
def variantClusters (v : Cove) (i : Nat) : Nat := bitsOf (imageVal v (variantOff i + 1) 1) 3 0
/-- Job contexts used. -/
def variantCtxs (v : Cove) (i : Nat) : Nat := bitsOf (imageVal v (variantOff i + 4) 4) 3 0
/-- Required die mask, 0 for any. -/
def variantRequired (v : Cove) (i : Nat) : Nat := imageVal v (variantOff i + 8) 8
/-- HBM units needed. -/
def variantUnits (v : Cove) (i : Nat) : Nat := imageVal v (variantOff i + 0x10) 2
/-- Barn units needed. -/
def variantBarn (v : Cove) (i : Nat) : Nat := imageVal v (variantOff i + 0x12) 2
/-- Offset and length of its sections. -/
def variantSpan (v : Cove) (i : Nat) : Nat × Nat :=
  (imageVal v (variantOff i + 0x18) 8, imageVal v (variantOff i + 0x20) 8)
/-- What its sections hold (log entry 18). -/
def variantSections (v : Cove) (i : Nat) : SectionData :=
  Config.sections (memRead v.image (variantSpan v i).1 (variantSpan v i).2)
/-- A plan word of its cluster bank. -/
def variantPlan (v : Cove) (i e : Nat) : Nat :=
  (((variantSections v i).bank.find? fun p => p.1 == e).map fun p => p.2.toNat).getD 0
/-- Its cove generation and clock point. -/
def variantGen (v : Cove) (i : Nat) : Nat := bitsOf (variantPlan v i 4091) 11 8
/-- Clock point of a variant. -/
def variantClock (v : Cove) (i : Nat) : Nat := bitsOf (variantPlan v i 4091) 13 12
/-- Bytes of the image: the header and every variant's sections. -/
def imageLen (v : Cove) : Nat :=
  (List.range (variantCount v)).foldl (fun n i => max n ((variantSpan v i).1 + (variantSpan v i).2)) 512
/-- R339: the variant count and the CRC hold. -/
def imageOk (v : Cove) : Bool :=
  decide (1 ≤ variantCount v) && decide (variantCount v ≤ 7)
    && imageVal v 4 4 == crcOf (memRead v.image 0 4 ++ memRead v.image 8 (imageLen v - 8))

/-! ### Registers of R362 and R574 -/

/-- Target mask of CV_DIES. -/
def targetDies (s : State) (c : Nat) : DWord := regAt s (cvReg c 0x10)
/-- Quotas of CV_QUOTA: HBM units, barn units, port slot time in 1/128 of a cycle. -/
def quotaHbm (s : State) (c : Nat) : Nat := bitsOf (regAt s (cvReg c 0x20)).toNat 10 0
/-- Barn quota. -/
def quotaBarn (s : State) (c : Nat) : Nat := bitsOf (regAt s (cvReg c 0x20)).toNat 31 16
/-- Port quota. -/
def quotaPort (s : State) (c : Nat) : Nat := bitsOf (regAt s (cvReg c 0x20)).toNat 39 32
/-- Interleaved unit `u` is set in CV_UMAP_I. -/
def mapsI (s : State) (c u : Nat) : Bool := (regAt s (cvReg c (0x100 + 8 * (u / 64)))).getLsbD (u % 64)
/-- Stack-local unit `u = 64 × stack + k` is set in CV_UMAP_S. -/
def mapsS (s : State) (c u : Nat) : Bool := (regAt s (cvReg c (0x180 + 8 * (u / 64)))).getLsbD (u % 64)
/-- CV_BARNe as a number. -/
def barnEntry (s : State) (c e : Nat) : Nat := (regAt s (cvReg c (0xC00 + 8 * e))).toNat
/-- Lender units that the barn map lists, as module and unit; `usable` leaves out withdrawn entries. -/
def barnUnits (s : State) (c : Nat) (usable : Bool) : List (Nat × Nat) :=
  (List.range 32).flatMap fun e =>
    let w := barnEntry s c e
    if bitOf w 37 && !(usable && bitOf w 38) then
      (List.range (bitsOf w 36 26)).map fun i => (bitsOf w 15 0, bitsOf w 25 16 + i)
    else []
/-- Granted units of a cove. -/
def grantedUnits (v : Cove) : Nat := v.unitsI.length + v.unitsS.length
/-- The placement entry of a unit. -/
def placementAt (s : State) (u : Nat) : Placement := Sparse.get Placement.reset s.mem.placement u
/-- Replace it. -/
def setPlacement (s : State) (u : Nat) (p : Placement) : State :=
  { s with mem := { s.mem with placement := Sparse.set Placement.reset s.mem.placement u p } }
/-- Units of a cove with a placement entry in use. -/
def placedUnits (s : State) (c : Nat) : List Nat :=
  (s.mem.placement.filter fun e => e.2.state ≠ .resident && e.2.cove == c).map (·.1)
/-- The cove's state is one of the named reasons of R364. -/
def setReason (s : State) (c r : Nat) : State := updCove s c fun v => { v with reason := r }
/-- A requested action waits: its reason and action; event 0x7006. -/
def deferAction (s : State) (c action r : Nat) : State :=
  recordCove (updCove s c fun v => { v with deferred := true, action := action, reason := r })
    0x7006 .corrected c [r]

/-! ### Zeroing and frames (R213 to R215) -/

/-- Zero a frame: its bytes read 0 and its blocks take zero-block tallies. -/
def zeroFrame (s : State) (f : Nat × Nat) : State :=
  let s := updStack s f.1 fun m => memZero m (f.2 * 2 ^ 26) (2 ^ 26)
  let lo := f.1 * 2 ^ 24 + f.2 * 16384
  { s with mem := { s.mem with
      hbmMarks := s.mem.hbmMarks.filter fun b => decide (b.1 < lo) || decide (lo + 16384 ≤ b.1) } }
/-- Frames that pass to a new owner are zeroed first. -/
def passFrames (s : State) (fs : List (Nat × Nat)) (o : FrameOwner) : State :=
  forEach s fs fun s f => setFrame (zeroFrame s f) f.1 f.2 o
/-- A frame is free and not retired (R465). -/
def frameFree (s : State) (f : Nat × Nat) : Bool :=
  decide (frameOwner s f.1 f.2 = .free) && !s.health.retired.contains (1024 * f.1 + f.2)
    && !s.health.stackFailed.contains f.1
/-- An interleaved unit can be granted whole. -/
def unitFreeI (s : State) (u : Nat) : Bool := (framesOfI u).all (frameFree s)
/-- A stack-local unit `64 × stack + k` can be granted (R212). -/
def unitFreeS (s : State) (u : Nat) : Bool := (framesOfS (u / 64) (u % 64)).all (frameFree s)
/-- Give the frames of granted units to a cove. -/
def takeUnitI (s : State) (c u : Nat) : State :=
  updCove (forEach s (framesOfI u) fun s f => setFrame s f.1 f.2 (.cove c)) c fun v =>
    { v with unitsI := v.unitsI ++ [u], pendingUnits := v.pendingUnits.filter (· ≠ u) }
/-- Give the frames of a stack-local unit to a cove. -/
def takeUnitS (s : State) (c u : Nat) : State :=
  updCove (forEach s (framesOfS (u / 64) (u % 64)) fun s f => setFrame s f.1 f.2 (.cove c)) c fun v =>
    { v with unitsS := v.unitsS ++ [u], pendingUnits := v.pendingUnits.filter (· ≠ 1024 + u) }
/-- R345: grant the mapped units that are free; the others stay pending with reason 3. A unit that is
demoted for the cove has a home already. -/
def applyMaps (s : State) (c : Nat) : State :=
  let s := forEach s (List.range 1020) fun s u =>
    let v := coveAt s c
    if mapsI s c u && !v.unitsI.contains u && !(placedUnits s c).contains u then
      if unitFreeI s u then takeUnitI s c u
      else updCove s c fun v =>
        { v with reason := 3, pendingUnits := v.pendingUnits.filter (· ≠ u) ++ [u] }
    else updCove s c fun v => { v with pendingUnits := v.pendingUnits.filter (· ≠ u) }
  forEach s ((List.range 1024).filter fun u => u % 64 ≠ 63) fun s u =>
    let v := coveAt s c
    if mapsS s c u && !v.unitsS.contains u then
      if unitFreeS s u then takeUnitS s c u
      else updCove s c fun v =>
        { v with reason := 3, pendingUnits := v.pendingUnits.filter (· ≠ 1024 + u) ++ [1024 + u] }
    else updCove s c fun v => { v with pendingUnits := v.pendingUnits.filter (· ≠ 1024 + u) }
/-- R351: give up the resident units that the maps no longer name, zeroed. -/
def giveUpUnits (s : State) (c : Nat) : State :=
  let v := coveAt s c
  let outI := v.unitsI.filter fun u => !mapsI s c u && (placementAt s u).state == .resident
  let outS := v.unitsS.filter fun u => !mapsS s c u
  let s := passFrames s (outI.flatMap framesOfI ++ outS.flatMap fun u => framesOfS (u / 64) (u % 64)) .free
  updCove s c fun v =>
    { v with unitsI := v.unitsI.filter (!outI.contains ·), unitsS := v.unitsS.filter (!outS.contains ·) }

/-! ### Quotas (R344 to R348) -/

/-- R346: the over-quota flag follows the granted units; events 0x7007 and 0x7008. -/
def checkQuota (s : State) (c : Nat) : State :=
  let v := coveAt s c
  let excess := decide (quotaHbm s c < grantedUnits v)
  if v.mode = .free || excess == v.overHbm then s
  else recordCove (updCove s c fun v =>
      { v with overHbm := excess, blocked := excess && v.blocked }) (if excess then 0x7007 else 0x7008) .corrected c []
/-- Ticks of each slot of a port, with its cove. -/
def slotLengths (s : State) (p : Nat) (bank : Bool) (cyc : Nat) : List (Nat × Nat) :=
  let l := (tableList s 1 (portShore p) bank).filter fun e => bitsOf e.2 24 22 == portIndex p
  let ends := (l.drop 1).map (fun e => spanStart e.2) ++ (l.take 1).map fun e => spanStart e.2 + cyc
  (l.zip ends).map fun x => (bitsOf x.1.2 32 29, x.2 - spanStart x.1.2)
/-- R348: a bank grants a cove more slot time on some port than its port quota. -/
def portExceeds (s : State) (c : Nat) (bank : Nat → Bool) (cyc : Nat) : Bool :=
  (List.range 128).any fun p =>
    let used := (((slotLengths s p (bank (64 + portShore p)) cyc).filter fun x => x.1 == c).map (·.2)).foldl
      (· + ·) 0
    decide (quotaPort s c * cyc < used * 128)
/-- CV_STATE.OVERQ_PORT follows the active bank. -/
def checkPortQuota (s : State) (c : Nat) : State :=
  if (coveAt s c).mode = .free then s
  else
    let excess := portExceeds s c (moduleBankOf s) (2 ^ s.tide.cycleExp)
    updCove s c fun v => { v with overPort := excess, reason := if excess then 10 else v.reason }

/-! ### Rates in slack water (R49, R319, R351) -/

/-- Bytes per tick that an HBM wain table grants a cove in its slack water, in one class or, for class
16, in all; 1 stands for none, so that a quotient is defined. -/
def slackRate (s : State) (c stack cls dir : Nat) : Nat :=
  let l := tableList s 2 stack (moduleBankOf s (64 + stack))
  max 1 (200 * ((l.filter fun e =>
    (cls == 16 || bitsOf e.2 25 22 == cls) && bitsOf e.2 29 26 == c
      && (bitsOf e.2 31 30 == dir || bitsOf e.2 31 30 == 2) && bitsOf e.2 44 42 == 0
      && !bitOf e.2 39 && bitsOf e.2 38 37 != 1).map fun e => bitsOf e.2 36 32).foldl max 0)
/-- The least rate over the stacks. -/
def slackRateAll (s : State) (c cls dir : Nat) : Nat :=
  (List.range 16).foldl (fun r st => min r (slackRate s c st cls dir)) 6400
/-- Ticks to move bytes spread over the stacks. -/
def slackTicks (s : State) (c cls dir bytes : Nat) : Nat :=
  (bytes / 16 + slackRateAll s c cls dir - 1) / slackRateAll s c cls dir
/-- R49: work of so many ticks ends in this slack water; a held cove has no limit (R355). -/
def fitsSlack (s : State) (c ticks : Nat) : Bool :=
  (coveAt s c).mode == .held || decide (s.tide.now + ticks ≤ slackEnd s c)

/-! ### Demotion and promotion (R220 to R225, R230, R347) -/

/-- A packet of the mover of a shore die (R312): it carries the module generation. -/
def moverPacket (s : State) (c cls st ptype op tag dest : Nat) (data : List Byte) : Packet :=
  dataPacket s ptype op (moduleGenOf s (64 + st)) cls (1280 + st) tag 0
    (Sparse.get 0#32 (coveAt s c).tags 0) dest data
/-- Block `b`, in interleaved order, of an interleaved unit of a module (R211). -/
def unitBlockAddr (m u b : Nat) : Nat := hbmAddr m (u * 2 ^ 30 + b * 4096)
/-- The stack of a block: the shore die whose mover moves it. -/
def blockStack (b : Nat) : Nat := b % 16
/-- Bytes that the barn class can carry in this slack water toward a lender: the wain shares of the
stacks on this module, and for another module the slots of the port to it as well. -/
def barnCapacity (s : State) (c lender : Nat) : Nat :=
  let len := planSlack s c (coveTideAt s c).bank
  let wain := 16 * len * slackRateAll s c 0xC 0
  if lender = s.moduleId then wain
  else match routeTo s 64 lender with
    | some (p, _) =>
      let cyc := 2 ^ s.tide.cycleExp
      let own := (((portEntries s p).zip (slotLengths s p (moduleBankOf s (64 + portShore p)) cyc)).filter
        fun x => bitsOf x.1.2 28 25 == 0xC && x.2.1 == c).map fun x => x.2.2
      min wain (50 * len * own.foldl (· + ·) 0 / cyc)
    | none => 0
/-- The cove's tables grant slots of the barn class. -/
def hasBarnSlots (s : State) (c : Nat) : Bool :=
  (List.range 16).any fun st => (tableList s 2 st (moduleBankOf s (64 + st))).any fun e =>
    bitsOf e.2 25 22 == 0xC && bitsOf e.2 29 26 == c && decide (0 < bitsOf e.2 36 32)
/-- Lender units of the barn map that no placement entry names. -/
def freeLenders (s : State) (c : Nat) : List (Nat × Nat) :=
  (barnUnits s c true).filter fun l => (placedUnits s c).all fun u =>
    decide (((placementAt s u).lenderModule, (placementAt s u).lenderUnit) ≠ l) && (placementAt s u).fresh != some l
/-- R221 order 1, R347: choose the units to demote and take a lender unit for each; a cut that cannot be
met sets BLOCKED with reason 4, 5 or 6 and event 0x7006. -/
def startDemotion (s : State) (c : Nat) : State :=
  let v := coveAt s c
  let moving := v.unitsI.filter fun u => (placementAt s u).state == .demoting
  let excess := grantedUnits v - moving.length - quotaHbm s c
  if !v.overHbm || excess == 0 then s
  else
    let resident := v.unitsI.filter fun u => (placementAt s u).state == .resident
    let cleared := resident.filter fun u => !mapsI s c u
    let rest := ((List.range 1020).filter fun u => resident.contains u && mapsI s c u).reverse
    let chosen := (cleared ++ rest).take excess
    let lenders := freeLenders s c
    let block := fun (s : State) r =>
      recordCove (updCove s c fun v => { v with blocked := true, action := 2, reason := r }) 0x7006 .corrected c [r]
    if chosen.length < excess then block s 5
    else if lenders.length < excess ∨ quotaBarn s c < (placedUnits s c).length + excess then block s 4
    else if !hasBarnSlots s c then block s 6
    else
      let s := forEach s (chosen.zip lenders) fun s p =>
        setPlacement s p.1 { Placement.reset with
          state := .demoting, cove := c, lenderModule := p.2.1, lenderUnit := p.2.2, gen := (coveTideAt s c).gen }
      recordCove (updCove s c fun v => { v with blocked := false }) 0x3001 .corrected c chosen
/-- A unit starts to come back to the module's frames: they belong to the cove, and the lender serves it until the flip. -/
def startPromotion (s : State) (c u : Nat) : State :=
  let p := placementAt s u
  let s := setPlacement (takeUnitI s c u) u { p with state := .promoting, copied := 0, dirty := [], go := false, fresh := none }
  let s := if p.lenderModule = s.moduleId then s else { s with mem := { s.mem with promoting := some (u, []) } }
  recordCove s 0x3001 .corrected c [u]
/-- A demoted unit may come back: the quota has room, its frames are free and the tables grant barn-class slots. Units on
other modules come back one at a time (log entry 64). -/
def canPromote (s : State) (c u : Nat) : Bool :=
  let p := placementAt s u
  (p.state == .demoted) && p.cove == c && decide (grantedUnits (coveAt s c) < quotaHbm s c) && unitFreeI s u
    && hasBarnSlots s c && (p.lenderModule == s.moduleId || s.mem.promoting.isNone)
/-- The unit's lender has been withdrawn from the barn map (R230). -/
def lenderWithdrawn (s : State) (c u : Nat) : Bool :=
  let p := placementAt s u
  !(barnUnits s c true).contains (p.lenderModule, p.lenderUnit)
/-- R221 promotion when the quota has room for mapped units, R230 for withdrawn lenders. -/
def startPromotions (s : State) (c : Nat) : State :=
  forEach s (placedUnits s c) fun s u =>
    if (mapsI s c u || lenderWithdrawn s c u) && canPromote s c u then startPromotion s c u else s
/-- R230 step 3, when a withdrawn lender's unit cannot be promoted: it is demoted afresh to another unit of the barn map;
otherwise the entry stays in use, with reason 4. -/
def moveWithdrawn (s : State) (c : Nat) : State :=
  forEach s (placedUnits s c) fun s u =>
    let p := placementAt s u
    if p.state ≠ .demoted ∨ p.fresh.isSome ∨ ¬ lenderWithdrawn s c u then s
    else match (freeLenders s c).head? with
      | some l =>
        if !(p.lenderModule == s.moduleId || s.mem.promoting.isNone) then s
        else
          let s := setPlacement s u { p with copied := 0, dirty := [], go := false, fresh := some l }
          let s := if p.lenderModule = s.moduleId then s else { s with mem := { s.mem with promoting := some (u, []) } }
          recordCove s 0x3001 .corrected c [u]
      | none => setReason s c 4

/-! ### The movers (R221, R316, R464) -/

/-- Where the blocks of a moving unit come from and go to, as module and unit. -/
def moveEnds (s : State) (u : Nat) (p : Placement) : Option ((Nat × Nat) × (Nat × Nat)) :=
  let lender := (p.lenderModule, p.lenderUnit)
  match p.state, p.fresh with
  | .demoting, _ => some ((s.moduleId, u), lender)
  | .promoting, _ => some (lender, (s.moduleId, u))
  | .demoted, some f => some (lender, f)
  | .demoted, none => none
  | .resident, _ => none
/-- What an access of a mover or of the thresher feed met. -/
inductive MoveStep
  | moved (s : State)
  | waits (s : State)
  | fails (w : WainStatus) (s : State)
/-- The access of a mover of a cove to a block. -/
def moverAccess (s : State) (c st : Nat) (op : AccOp) (addr : Nat) : Access :=
  ⟨op, addr, 4096, Sparse.get 0#32 (coveAt s c).tags 0, moduleGenOf s (64 + st), true, s.moduleId, 1280 + st, 64⟩
/-- A packet of a mover of shore die `st` leaves the module, admitted in a cove's class on every resource that it uses
(R316, R318). -/
def moveAway (s : State) (c cls st : Nat) (needs : List Need) (p : Packet) : MoveStep :=
  match routeTo s (64 + st) (addrModule p.dest.toNat) with
  | none => .fails .unreachable s
  | some (port, bound) =>
    if portFull s port (streamKey p.srcUnit (addrModule p.dest.toNat) p.cls) p.data.length then .waits s
    else match linkNeeds s (.shore st) (.shore (portShore port)) with
    | none => .fails .unreachable s
    | some links =>
      let n := flitsOf p.data.length
      match admitFor s c cls (needs ++ links) (shoreNeeds (.shore st) (.shore (portShore port))) (some port) (32 * n) n with
      | .ungranted => .fails .addressFault s
      | .waits => .waits (waitedStacks (bump s 3 port 6 1) needs)
      | .granted s leaves => .moved (sendOn s port leaves { p with due := (leaves + bound) % 2 ^ 24 })
/-- A write of a mover within the module: the target's checks, then admission. -/
def moveHere (s : State) (c cls st : Nat) (needs : List Need) (a : Access) (land : State → State) : MoveStep :=
  let pl := placeOf a.addr
  match targetCheck s a with
  | .hold => .waits s
  | .refuse w => .fails w (refusalNote s a w)
  | .ok => match linkNeeds s (.shore st) (siteOf pl) with
    | none => .fails .unreachable s
    | some links =>
      match admitFor s c cls (needs ++ links ++ placeNeeds pl 1) (shoreNeeds (.shore st) (siteOf pl)) none a.len 0 with
      | .ungranted => .fails .addressFault s
      | .waits => .waits (waitedStacks s (needs ++ placeNeeds pl 1))
      | .granted s _ => .moved (land s)
/-- The bytes of a block go to the other end. -/
def moveTo (s : State) (c st : Nat) (needs : List Need) (tag addr : Nat) (bs : List Byte) : MoveStep :=
  if addrModule addr ≠ s.moduleId then moveAway s c 0xC st needs (moverPacket s c 0xC st 1 0 tag addr bs)
  else moveHere s c 0xC st needs (moverAccess s c st .write addr) fun s =>
    clearMark (hbmWrite s (addr % 2 ^ 44) bs) (placeOf addr) 4096
/-- Block `b` of a moving unit: read, its tally checked, and written to the other end; a block of another module is asked for,
with the other end as the return address (R265). -/
def moveBlock (s : State) (c u b : Nat) (src dst : Nat × Nat) : MoveStep :=
  let st := blockStack b
  let from_ := unitBlockAddr src.1 src.2 b
  let to_ := unitBlockAddr dst.1 dst.2 b
  if src.1 ≠ s.moduleId then
    match moveAway s c 0xC st [] (moverPacket s c 0xC st 2 0 (b / 16) from_ (padFlit (leOut 8 to_ ++ leOut 4 4096))) with
    | .waits s => .waits s
    | .fails w s => .fails w s
    | .moved s => .moved (if dst.1 ≠ s.moduleId then s else match s.mem.promoting with
        | some (v, l) => if v = u then
            { s with mem := { s.mem with promoting := some (u, l ++ [st * 16384 + b / 16]) } } else s
        | none => s)
  else
    let a := moverAccess s c st .read from_
    let pl := placeOf from_
    match targetCheck s a with
    | .hold => .waits s
    | .refuse w => .fails w (refusalNote s a w)
    | .ok =>
      if condemned s pl 4096 then .fails .tallyFailure (condemn s pl 4096)
      else moveTo s c st (placeNeeds pl 0) (b / 16) to_ (placeRead s 0#32 pl 4096)
/-- The next block that a moving unit is owed: the first copy in order, then, once its flip is to be made, what was written
since. -/
def nextBlock (s : State) (c : Nat) (p : Placement) : Option Nat :=
  let copying := p.go || !(coveTideAt s c).slack || (coveAt s c).mode == .held || (coveAt s c).mode == .stopped
  if p.copied < 262144 then (if copying then some p.copied else none)
  else if p.go then p.dirty.head? else none
/-- Move up to `n` blocks of a unit; an access that ends badly has the outcome of R154 and R464. -/
def moveBlocks : Nat → State → Nat → Nat → State
  | 0, s, _, _ => s
  | n + 1, s, c, u =>
    let p := placementAt s u
    match moveEnds s u p, nextBlock s c p with
    | some (src, dst), some b =>
      (match moveBlock s c u b src dst with
       | .waits s => s
       | .fails w s => coveOutcome s c b w
       | .moved s =>
         let q := placementAt s u
         moveBlocks n (setPlacement s u (if p.copied < 262144 then { q with copied := b + 1 }
           else { q with dirty := q.dirty.filter (· ≠ b) })) c u)
    | _, _ => s
/-- No block of the unit is on its way: nothing is awaited from another module and nothing sent there is unacknowledged. -/
def moveSettled (s : State) (u : Nat) (dst : Nat × Nat) : Bool :=
  (match s.mem.promoting with | some (v, l) => v != u || l.isEmpty | none => true)
    && (dst.1 == s.moduleId || s.fab.ports.all fun x => x.2.unacked.all fun q =>
        !(decide (1280 ≤ q.srcUnit) && decide (q.srcUnit < 1296) && q.cls == 0xC && addrModule q.dest.toNat == dst.1))
/-- The flip, at one tick (R221): a demoted unit's frames are zeroed and freed, a promoted unit's lender is released, a unit
demoted afresh takes its new lender. Event 0x3002 when the cove's units fit its quota. -/
def flipUnit (s : State) (c u : Nat) : State :=
  let p := placementAt s u
  let s := match s.mem.promoting with
    | some (v, _) => if v = u then { s with mem := { s.mem with promoting := none } } else s
    | none => s
  let s := match p.state with
    | .demoting =>
      let s := passFrames s (framesOfI u) .free
      let s := updCove s c fun v => { v with unitsI := v.unitsI.filter (· ≠ u) }
      setPlacement s u { p with state := .demoted, copied := 0, dirty := [], go := false }
    | .promoting => setPlacement s u Placement.reset
    | _ => match p.fresh with
      | some l => setPlacement s u { p with lenderModule := l.1, lenderUnit := l.2, copied := 0, dirty := [], go := false,
                                            fresh := none }
      | none => s
  let s := checkQuota s c
  if grantedUnits (coveAt s c) ≤ quotaHbm s c then recordCove s 0x3002 .corrected c [] else s
/-- Flip a unit that is ready: its flip is to be made, every block is copied, none is dirty or on its way. -/
def flipReady (s : State) (c u : Nat) : State :=
  let p := placementAt s u
  match moveEnds s u p with
  | some (_, dst) =>
    if p.go && p.copied == 262144 && p.dirty.isEmpty && moveSettled s u dst then flipUnit s c u else s
  | none => s
/-- One tick of the movers: each unit that moves is owed 16 blocks, one for each shore die, as far as admission goes; how
many a tick brings is the model's choice (log entry 64). A unit whose flip is to be made then flips. -/
def moverTick (s : State) : State :=
  forEach s (s.mem.placement.map (·.1)) fun s u =>
    let c := (placementAt s u).cove
    flipReady (moveBlocks 16 s c u) c u
/-- At the start of a slack water, a copied unit flips in it when its dirty blocks fit the barn-class slots and, for a
demotion, when its frames can be zeroed (R215, R221); event 0x3003 otherwise. -/
def admitFlip (s : State) (c u : Nat) : State :=
  let p := placementAt s u
  if (moveEnds s u p).isNone ∨ p.copied < 262144 then s
  else if 4096 * p.dirty.length ≤ barnCapacity s c p.lenderModule
      ∧ (p.state ≠ .demoting ∨ fitsSlack s c (slackTicks s c 16 1 (2 ^ 30))) then
    flipReady (setPlacement s u { p with go := true }) c u
  else recordCove s 0x3003 .corrected c []
/-- Flips that a slack water did not see made wait for a later one (R221). -/
def endFlips (s : State) (c : Nat) : State :=
  forEach s (placedUnits s c) fun s u =>
    let p := placementAt s u
    if p.go then recordCove (setPlacement s u { p with go := false }) 0x3003 .corrected c [] else s
/-- A block that a mover sent or asked for ended with a status: it is moved again, and the status has its outcome. -/
def moverStatus (s : State) (c st row : Nat) (w : WainStatus) : State :=
  let s := { s with mem := { s.mem with
    promoting := s.mem.promoting.map fun q => (q.1, q.2.filter (· ≠ st * 16384 + row)) } }
  let s := forEach s (placedUnits s c) fun s u =>
    let p := placementAt s u
    let b := 16 * row + st
    match moveEnds s u p with
    | some (src, dst) =>
      if (src.1 ≠ s.moduleId ∨ dst.1 ≠ s.moduleId) ∧ b < p.copied ∧ ¬ p.dirty.contains b then
        setPlacement s u { p with dirty := p.dirty ++ [b] } else s
    | none => s
  coveOutcome s c row w
/-- A lease of units that a cove owns begins once they are zeroed, which runs in the cove's slack water (R215, R226, R227);
until then its frames stay with the cove. -/
def leaseZeroing (s : State) (c : Nat) : State :=
  forEach s (s.mem.leases.filter fun e => e.2.valid) fun s e =>
    let us := ((List.range e.2.count).map (e.2.first + ·)).filter fun u =>
      (framesOfI u).any fun f => frameOwner s f.1 f.2 == .cove c
    if us.isEmpty ∨ ¬ fitsSlack s c (slackTicks s c 16 1 (us.length * 2 ^ 30)) then s
    else passFrames s (us.flatMap framesOfI) (.lease e.1)
/-- The demotion work at the start of a slack water: flips of earlier starts, then new starts. -/
def demotionWork (s : State) (c : Nat) : State :=
  let s := forEach s (placedUnits s c) fun s u => admitFlip s c u
  let s := checkQuota (leaseZeroing s c) c
  let s := moveWithdrawn (startPromotions s c) c
  startDemotion s c

/-! ### Tags (R336) -/

/-- A job tag register. -/
def jobTagReg (s : State) (c j : Nat) : Word := BitVec.ofNat 32 (regAt s (cvReg c (0x40 + 8 * j))).toNat
/-- The tags of a cove are refused for a set of contexts used. -/
def tagsRefused (s : State) (c used : Nat) : Bool :=
  (List.range 4).any fun j =>
    let t := jobTagReg s c j
    (bitOf used j && t == 0#32)
      || (t != 0#32 && ((List.range 4).any (fun k => k != j && jobTagReg s c k == t)
        || (List.range 16).any fun d => d != c && (coveAt s d).mode ≠ .free && (tagsOf (coveAt s d)).contains t))
/-- Put the tag registers in force. -/
def applyTags (s : State) (c : Nat) : State :=
  let tags := (List.range 4).foldl (fun t j => Sparse.set 0#32 t j (jobTagReg s c j)) []
  let s := updCove s c fun v => { v with tags := tags }
  let v := coveAt s c
  forEach s (ctxsOf v) fun s p => updCtx s p.1 p.2 fun x => { x with jobTag := Sparse.get 0#32 tags p.2 }
/-- R336: a refused tag: reason 9 and event 0x700E. -/
def refuseTags (s : State) (c : Nat) : State := recordCove (setReason s c 9) 0x700E .corrected c []

/-! ### Loading a variant (R341 to R343, R351) -/

/-- The clusters of a mask of dies and clusters are unfenced. -/
def clustersClear (s : State) (mask : DWord) (cm : Nat) : Bool :=
  ((List.range 64).filter fun d => mask.getLsbD d).all fun d =>
    (bitsSet cm 4).all fun k => clusterUsable s (4 * d + k)
/-- R341: variant `i` fits a mask by its shape; none does once a stack has failed (R483). -/
def fitsShape (s : State) (c i : Nat) (mask : DWord) : Bool :=
  let v := coveAt s c
  s.health.stackFailed.isEmpty && (bitsSet mask.toNat 64).length == variantDies v i
    && (variantRequired v i == 0 || variantRequired v i == mask.toNat)
    && clustersClear s mask (variantClusters v i)
/-- And by the units the cove holds. -/
def fitsUnits (s : State) (c i : Nat) : Bool :=
  let v := coveAt s c
  decide (variantUnits v i ≤ grantedUnits v) && decide (variantBarn v i ≤ (barnUnits s c false).length)
/-- The lowest-numbered variant that fits. -/
def chooseVariant (s : State) (c : Nat) (mask : DWord) : Option Nat :=
  (List.range (variantCount (coveAt s c))).find? fun i => fitsShape s c i mask && fitsUnits s c i

/-- R111: the windows of a core are 1 to 31 granules within granules 0 to 30 and do not overlap; a
context that the variant uses has one. -/
def windowsOk (used : Nat) (ws : List (Nat × Nat)) : Bool :=
  (List.range 4).all (fun k =>
    let w := ws.getD k (0, 0)
    if bitOf used k then decide (1 ≤ w.2) && decide (w.1 + w.2 ≤ 31) else decide (w.1 + w.2 ≤ 31))
  && (List.range 4).all fun j => (List.range 4).all fun k =>
      j == k || !overlaps (ws.getD j (0, 0)).1 (ws.getD j (0, 0)).2 (ws.getD k (0, 0)).1 (ws.getD k (0, 0)).2
/-- R196: every valid entry of the routine entry table lies within 64 to 4,095, and no reserved field is set. -/
def entriesOk (im : CoreImage) : Bool :=
  (im.rmem.filter fun p => decide (p.1 < 64)).all fun p =>
    let n := p.2.toNat
    bitsOf n 15 12 == 0 && bitsOf n 30 28 == 0 && n / 2 ^ 36 == 0
      && (!bitOf n 31 || (decide (64 ≤ bitsOf n 11 0) && decide (bitsOf n 11 0 + bitsOf n 27 16 ≤ 4096)))
/-- R110: a bank's list names a context that holds no job. -/
def namesEmpty (used : Nat) (bank : List (Nat × DWord)) : Bool :=
  let l := bank.filter fun p => decide (p.1 < 4088)
  let last : Nat := (l.filter fun p => p.2.getLsbD 63).foldl (fun m p => min m p.1) 4087
  (l.filter fun p => decide (p.1 ≤ last)).any fun p =>
    let w := p.2.toNat
    [bitsOf w 24 22, bitsOf w 29 27].any fun k => decide (k < 4) && !bitOf used k
/-- Put a core image on a core: memories within their sizes (R36), windows, code regions, and contexts at the start of their code
regions. -/
def loadCore (s : State) (core used : Nat) (im : CoreImage) : State :=
  let s := updCore s core fun x =>
    { x with imem := (im.imem.filter fun p => decide (p.1 < 16384)).foldl (fun t p => Sparse.set 0#128 t p.1 p.2) [],
             rmem := (im.rmem.filter fun p => decide (p.1 < 4096)).foldl (fun t p => Sparse.set 0#128 t p.1 p.2) [],
             groups := (im.groups.filter fun p => decide (p.1 < 1280)).foldl (fun t p => Sparse.set 0#64 t p.1 p.2) [],
             upsets := x.upsets.filter fun u => u.1 == 0 || decide (4 ≤ u.1),
             landed := [], notices := [], refusedAhead := [] }
  forEach s (List.range 4) fun s k =>
    if bitOf used k then
      let w := im.windows.getD k (0, 0)
      let r := im.code.getD k (0, 0)
      updCtx s core k fun x =>
        { resetContext { x with mode := .running, codeBase := r.1 } with
            winBase := w.1, winCount := w.2, codeLen := r.2, sregs := [], lcs := [] }
    else updCtx s core k fun _ => Ctx.reset
/-- The empty image of a core that the sections do not name. -/
def emptyCore : CoreImage := ⟨[], [], [], [], []⟩
/-- Load a variant onto the dies of a mask: whether R110, R111, R176 and R196 accept it, and the state after; a refusal
changes nothing but its event, 0x5001 or 0x5002. -/
def loadVariant (s : State) (c i : Nat) (mask : DWord) : Bool × State :=
  let v := coveAt s c
  let sec := variantSections v i
  let used := variantCtxs v i
  let dies := (List.range 64).filter fun d => mask.getLsbD d
  let cores := (dies.zip (List.range 64)).flatMap fun p =>
    (List.range 16).map fun k => (16 * p.1 + k, 16 * p.2 + k)
  let image := fun n => ((sec.cores.find? fun x => x.1 == n).map (·.2)).getD emptyCore
  let live := cores.filter fun p => bitOf (variantClusters v i) (p.1 % 16 / 4)
  if namesEmpty used sec.bank || !(live.all fun p => windowsOk used (image p.2).windows) then (false, s)
  else if !(live.all fun p => entriesOk (image p.2)) then (false, recordCove s 0x5002 .corrected c [])
  else
    let s' := updCove s c fun v =>
      { v with variant := i + 1, vGen := variantGen v i, vClock := variantClock v i,
               clusterMask := variantClusters v i, ctxUsed := used, dies := mask,
               cores := 4 * dies.length * (bitsSet (variantClusters v i) 4).length }
    let s' := forEach s' cores fun s p =>
      if live.contains p then loadCore s p.1 used (image p.2) else loadCore s p.1 0 emptyCore
    let s' := applyTags s' c
    if live.all fun p => (List.range 64).all fun g => groupOk s' p.1 g then (true, s')
    else (false, recordCove s 0x5001 .corrected c [])
/-- Put the variant's cluster bank in the inactive bank of the cove. -/
def stageBank (s : State) (c i : Nat) : State :=
  let b := !(coveTideAt s c).bank
  let s := forEach s (List.range 4096) fun s e => setTable s 0 c b e 0#64
  forEach s (variantSections (coveAt s c) i).bank fun s p => setTable s 0 c b p.1 p.2
/-- Make the inactive bank the active one: its clock point, hot bit and, when `adopt` is set, its
generation; a change of clock takes 20,000 ticks (R325). -/
def switchBank (s : State) (c : Nat) (adopt : Bool) : State :=
  let t := coveTideAt s c
  let b := !t.bank
  let s := updCove s c fun v => { v with atClock := v.dies }
  updCoveTide s c fun t =>
    { t with bank := b, prevBank := t.bank, prevGen := t.gen, prevClock := t.clock,
             gen := if adopt then planGen s c b else t.gen, clock := planClock s c b,
             hot := planHot s c b, lag := [], lagShore := [],
             clockBusy := if planClock s c b = t.clock then t.clockBusy else s.tide.now + 20000 }
/-- Zero the near memory and the scratchpads of released dies, and take their contexts (R335, R351). -/
def clearDies (s : State) (dies : List Nat) : State :=
  forEach s dies fun s d =>
    let s := updNear s d fun _ => []
    let s := { s with mem := { s.mem with nearMarks := s.mem.nearMarks.filter fun b => b.1 / 2 ^ 18 != d } }
    forEach (forEach s (List.range 4) fun s k => updCluster s (4 * d + k) fun x =>
        { ClusterState.reset with thresherDown := x.thresherDown })
      (List.range 16) fun s k => updCore s (16 * d + k) fun x => { CoreState.reset with engineDown := x.engineDown }

/-! ### Starting (R343) and releasing (R358) -/

/-- A die is reserved for another cove's flood that was requested earlier (R343). -/
def reservedFor (s : State) (c d : Nat) : Bool :=
  (List.range 16).any fun o =>
    o != c && match (coveAt s o).reshape with
      | some (m, t) => m.getLsbD d && !(coveAt s o).dies.getLsbD d
          && (decide (t < (coveAt s c).startTick) || (t == (coveAt s c).startTick && decide (o < c)))
      | none => false
/-- A die can be taken by a cove. -/
def dieFreeFor (s : State) (c d : Nat) : Bool :=
  (coveOfDie s d).isNone && !dieFenced s d && !reservedFor s c d
/-- Take a wanted die that is free for the cove. -/
def takeDie (c : Nat) (s : State) (d : Nat) : State :=
  if !(coveAt s c).dies.getLsbD d && dieFreeFor s c d then
    updCove s c fun v => { v with dies := v.dies ||| BitVec.twoPow 64 d }
  else s
/-- The cove waits in Loading for a reason: event 0x7002. -/
def waitFor (s : State) (c r : Nat) : State := recordCove (setReason s c r) 0x7002 .corrected c [r]
/-- R343 step 4: the variant for the wanted dies and its load. Dies of a stopped cove that CV_DIES no longer names are
zeroed and pass out of it then (DESIGN CHOICE, log entry 91). -/
def loadChosen (s : State) (c : Nat) (want : DWord) (i : Nat) : State :=
  if tagsRefused s c (variantCtxs (coveAt s c) i) then refuseTags s c
  else
    let dropped := (List.range 64).filter fun d => (coveAt s c).dies.getLsbD d && !want.getLsbD d
    let r := loadVariant (clearDies s dropped) c i want
    if r.1 then
      updCove (switchBank (stageBank r.2 c i) c false) c fun v => { v with loaded := true, reason := 0 }
    else waitFor r.2 c 8
/-- R343 steps 3 and 4: wait for what is short, or load. -/
def loadWhole (s : State) (c : Nat) (want : DWord) : State :=
  if (coveAt s c).dies &&& want ≠ want then waitFor s c 2
  else if !(coveAt s c).pendingUnits.isEmpty then waitFor s c 3
  else match chooseVariant s c want with
    | none => waitFor s c 1
    | some i => loadChosen s c want i
/-- R343 steps 2 to 4 as far as the resources allow: dies, units, the variant and its load. -/
def tryLoading (s : State) (c : Nat) : State :=
  let want := targetDies s c
  loadWhole (applyMaps (forEach s ((List.range 64).filter fun d => want.getLsbD d) (takeDie c)) c) c want
/-- R358: the cove's dies, frames, map entries and tags are cleared and it is free; leases that it lent
stay until the operator clears them. Event 0x700C. -/
def releaseCove (s : State) (c : Nat) : State :=
  let v := coveAt s c
  let s := clearDies s (diesOf v)
  let s := { s with mem := { s.mem with
    promoting := s.mem.promoting.filter fun q => !(placedUnits s c).contains q.1 } }
  let s := forEach s (placedUnits s c) fun s u => setPlacement s u Placement.reset
  let own := (List.range 16384).filter fun k => Sparse.get .free s.mem.frames k == .cove c
  let s := passFrames s (own.map fun k => (k / 1024, k % 1024)) .free
  let s := forEach s (List.range 32) fun s e => setReg s (cvReg c (0xC00 + 8 * e)) 0#64
  let s := forEach s (List.range 4) fun s j => setReg s (cvReg c (0x40 + 8 * j)) 0#64
  let s := setReg { s with standin := Sparse.set 0 s.standin c 0 } (0x601C0 + 0x100 * c) 0#64
  let s := updCove s c fun v =>
    { Cove.reset with changed := s.tide.now, image := v.image, srMissed := v.srMissed, lq := v.lq,
                      clogWr := v.clogWr, clogRd := v.clogRd, clogEn := v.clogEn, clogLost := v.clogLost,
                      srCount := v.srCount, ldigCount := v.ldigCount, ldigMissed := v.ldigMissed,
                      reason := if v.serviceRelease then 15 else 0 }
  let s := updCoveTide s c fun _ => CoveTide.reset
  recordCove s 0x700C .corrected c []
/-- A release starts: the cove is releasing and its load entries end aborted (R358, R412). -/
def startRelease (s : State) (c : Nat) : State :=
  let abort := fun (x : InFlight) => { x with status := 0x0A }
  let s := { s with load := { s.load with pq := { s.load.pq with
    inflight := s.load.pq.inflight.map fun x => if x.entry.cove = c then abort x else x } } }
  updCove s c fun v =>
    { v with mode := .releasing, changed := s.tide.now, releaseReq := false, awaitReplay := none,
             lq := { v.lq with inflight := v.lq.inflight.map abort },
             reason := if v.serviceRelease then 15 else v.reason }
/-- R455, R564: a checkpoint action ends with a code: CODE, DONE or FAILED, event 0x8012 on a failure, and
a status line of kind 0x02. Actions: 1 step checkpoint, 2 whole-device checkpoint, 3 restore, 4 freeze,
5 thaw. -/
def endCkpt (s : State) (c action code bytes regions : Nat) : State :=
  let s := updCkpt s c fun k =>
    { k with code := code, done := k.done || code == 0, failed := k.failed || code != 0 }
  let s := if code = 0 then s else recordCove s 0x8012 .corrected c [code]
  completionLine s 0 2 c
    [(0, 1, action), (1, 1, code), (8, 8, (coveAt s c).step.toNat), (0x10, 8, bytes), (0x18, 8, regions)]
/-- Actions of the checkpoint engine in progress end aborted (R452). -/
def abortCkpt (s : State) (c : Nat) : State :=
  let k := (coveAt s c).ckpt
  let s := if k.holdsCommit ∨ k.take then endCkpt s c 1 8 0 0 else s
  let s := if k.whole then endCkpt s c 2 8 0 0 else s
  let s := if k.phase = .restoring then endCkpt s c 3 8 0 0 else s
  let s := if k.freeze ∨ k.phase = .freezing then endCkpt s c 4 8 0 0 else s
  let s := if k.thaw then endCkpt s c 5 8 0 0 else s
  updCkpt s c fun k =>
    { k with phase := .idle, take := false, freeze := false, thaw := false, restore := false,
             holdsCommit := false, whole := false, early := [], manifest := [] }

end Sys2Proof.Machine
end

