-- ==== Sys2Proof/Machine/Special.lean ====
section
/-!
DEFINITION. The special-function unit (R77): the exact result of each function, truncated far below one ulp, and the
bits of the unit, which are free within the error that R77 bounds (log entry 1).
-/
namespace Sys2Proof.Machine

/-! Fixed-point values with 256 fraction bits. -/

/-- One. -/
def fxOne : Int := 2 ^ 256
/-- ln 2. -/
def fxLn2 : Int := 80260960185991308862233904206310070533990667611589946606122867505419956976171
/-- π. -/
def fxPi : Int := 363771576891766324280234942777729862653393377328392429958772151117938894466185
/-- 2 / √π. -/
def fxErf : Int := 130657381209852114387528029350014196574164286124850014242073919076264802271585
/-- Product. -/
def fxMul (a b : Int) : Int := a * b / fxOne
/-- A finite FP32 value, which has no bit below 2^-149. -/
def fxOf (neg : Bool) (m : Nat) (e : Int) : Int := signedMag neg (m * 2 ^ (e + 256).toNat)
/-- The sum of `coef k p` over `n` terms, where `p` is stepped from one term to the next. -/
def fxSeries (coef : Nat → Int → Int) (step : Nat → Int → Int) : Nat → Nat → Int → Int
  | 0, _, _ => 0
  | n + 1, k, p => coef k p + fxSeries coef step n (k + 1) (step k p)

/-- 2^x as a mantissa in [1, 2) and an exponent. -/
def fxExp2 (x : Int) : Int × Int :=
  let y := fxMul (x % fxOne) fxLn2
  (fxSeries (fun _ p => p) (fun k p => fxMul p y / (k + 1)) 70 0 fxOne, x / fxOne)
/-- log2 of `m × 2^e`, m above 0: the exponent and twice the series of the inverse hyperbolic tangent. -/
def fxLog2 (m : Nat) (e : Int) : Int :=
  let y : Int := m * fxOne / (2 ^ m.log2 : Nat)
  let z := (y - fxOne) * fxOne / (y + fxOne)
  let z2 := fxMul z z
  let ln := 2 * fxSeries (fun k p => p / (2 * k + 1)) (fun _ p => fxMul p z2) 90 0 z
  ((m.log2 : Int) + e) * fxOne + ln * fxOne / fxLn2
/-- Sine of an angle. -/
def fxSin (x : Int) : Int :=
  let y := x % (2 * fxPi)
  let y2 := fxMul y y
  fxSeries (fun _ p => p) (fun k p => -(fxMul p y2 / ((2 * k + 2) * (2 * k + 3)))) 60 0 y
/-- Cosine. -/
def fxCos (x : Int) : Int :=
  let y := x % (2 * fxPi)
  let y2 := fxMul y y
  fxSeries (fun _ p => p) (fun k p => -(fxMul p y2 / ((2 * k + 1) * (2 * k + 2)))) 60 0 fxOne
/-- Hyperbolic tangent of a magnitude; from 64 on it lies just below 1. -/
def fxTanh (x : Int) : Int :=
  if 64 * fxOne ≤ x then fxOne - 1
  else
    let p := fxExp2 (2 * x * fxOne / fxLn2)
    let e := p.1 * 2 ^ p.2.toNat
    (e - fxOne) * fxOne / (e + fxOne)
/-- Error function of a magnitude; from 6 on it lies just below 1. -/
def fxErfOf (x : Int) : Int :=
  if 6 * fxOne ≤ x then fxOne - 1
  else
    let x2 := fxMul x x
    fxMul fxErf (fxSeries (fun k p => p / (2 * k + 1)) (fun k p => -(fxMul p x2 / (k + 1))) 300 0 x)

/-! The unit. -/

/-- R77: the greatest error in ulp. -/
def sfuBound : Sfu → Nat
  | .recip | .rsqrt => 1
  | .exp2 | .log2 | .sin | .cos | .tanh => 2
  | .erf => 3

/-- A result near the exact magnitude `n × 2^e` (R77): the FP32 code just below it moved by a free number of ulps, so that
the error is at most the function's bound. Where the fraction cut off is too near 0 or 1 to tell on which side of a code
the exact result lies, the range shrinks by the one code that could lie beyond the bound. -/
def sfuNear (f : Sfu) (x : Word) (neg : Bool) (n : Nat) (e : Int) : Val :=
  let q : Int := if n = 0 then -149 else max ((n.log2 : Int) + e - 23) (-149)
  let sh := (q - e).toNat
  let t := n / 2 ^ sh * 2 ^ (e - q).toNat
  let frac := n % 2 ^ sh * 2 ^ 64 / 2 ^ sh
  let lo : Int := -(sfuBound f : Int) + 1 + (if frac = 2 ^ 64 - 1 then 1 else 0)
  let hi : Int := (sfuBound f : Int) - 1 + (if frac = 0 then 0 else 1)
  let y : Int := t + max lo (min hi (Config.sfuError f x))
  .fin (neg != decide (y < 0)) y.natAbs q
/-- A free finite value: sine and cosine beyond 2^12 (R77). -/
def sfuFinite (f : Sfu) (x : Word) : Val :=
  let w := Config.sfu f x
  ofF32 (if f32nonfinite w then w &&& 0xBFFFFFFF#32 else w)
/-- The result near a signed fixed-point value; an exact zero keeps the operand's sign. -/
def sfuFixed (f : Sfu) (x : Word) (neg0 : Bool) (y : Int) : Val :=
  sfuNear f x (if y = 0 then neg0 else decide (y < 0)) y.natAbs (-256)

/-- R77: the value of a special function before the unit rounds it to FP32. A NaN gives a NaN (R55, DEDUCED, log entry
1); infinities that the table leaves out take their limits. -/
def sfuVal (f : Sfu) (a : Val) : Val :=
  let x := toF32 a
  match f, a with
  | _, .nan => .nan
  | .recip, .inf s => .fin s 0 0
  | .recip, .fin s m e =>
    if m = 0 then .inf s
    else match valDiv (.fin false 1 0) (.fin false m e) with
      | .fin _ n g => sfuNear f x s n g
      | .inf _ => .inf s
      | .nan => .nan
  | .rsqrt, .inf s => if s then .nan else .fin false 0 0
  | .rsqrt, .fin s m e =>
    if m = 0 then .inf s
    else if s then .nan
    else match valDiv (.fin false 1 0) (valSqrt (.fin false m e)) with
      | .fin _ n g => sfuNear f x false n g
      | .inf t => .inf t
      | .nan => .nan
  | .exp2, .inf s => if s then .fin false 0 0 else .inf false
  | .exp2, .fin s m e =>
    let y := fxOf s m e
    if 128 * fxOne ≤ y then .inf false
    else if y < -1000 * fxOne then sfuNear f x false 0 0
    else sfuNear f x false (fxExp2 y).1.natAbs ((fxExp2 y).2 - 256)
  | .log2, .inf s => if s then .nan else .inf false
  | .log2, .fin s m e => if m = 0 then .inf true else if s then .nan else sfuFixed f x false (fxLog2 m e)
  | .sin, .inf _ => .nan
  | .sin, .fin s m e => if magLt 4096 0 m e then sfuFinite f x else sfuFixed f x s (fxSin (fxOf s m e))
  | .cos, .inf _ => .nan
  | .cos, .fin s m e => if magLt 4096 0 m e then sfuFinite f x else sfuFixed f x false (fxCos (fxOf s m e))
  | .tanh, .inf s => .fin s 1 0
  | .tanh, .fin s m e => sfuNear f x s (fxTanh (fxOf false m e)).natAbs (-256)
  | .erf, .inf s => .fin s 1 0
  | .erf, .fin s m e => sfuNear f x s (fxErfOf (fxOf false m e)).natAbs (-256)

end Sys2Proof.Machine
end

