-- ==== Sys2Proof/Machine/Vector.lean ====
section
/-!
DEFINITION. VEC instructions (R76, R77, R85, R107, R108, R145 to R149): issue into the vector queue, and the strokes in
which the engine runs them.
-/
namespace Sys2Proof.Machine

/-- What an operation reads and how it writes (R147). -/
inductive VecOp
  | mov | add | sub | mul | fma | min | max | div | sqrt | abs | neg | cmp | sel | sfu
  | rsum | ramax | rssq | rand | rbits | bcast | tos | stov
  deriving DecidableEq, Repr

/-- Op codes of R147. -/
def vecCode : VecOp → Nat
  | .mov => 0x200 | .add => 0x201 | .sub => 0x202 | .mul => 0x203 | .fma => 0x204 | .min => 0x205
  | .max => 0x206 | .div => 0x207 | .sqrt => 0x208 | .abs => 0x209 | .neg => 0x20A | .cmp => 0x20B
  | .sel => 0x20C | .sfu => 0x210 | .rsum => 0x218 | .ramax => 0x219 | .rssq => 0x21A
  | .rand => 0x220 | .rbits => 0x221 | .bcast => 0x228 | .tos => 0x229 | .stov => 0x22A
/-- The operation of a code of R147. -/
def vecOpOf (code : Nat) : Option VecOp :=
  [VecOp.mov, .add, .sub, .mul, .fma, .min, .max, .div, .sqrt, .abs, .neg, .cmp, .sel, .sfu, .rsum, .ramax, .rssq,
   .rand, .rbits, .bcast, .tos, .stov].find? fun o => vecCode o == code
/-- Number of operand sources: A; A and B; A, B and C. -/
def vecArity : VecOp → Nat
  | .rand | .rbits | .bcast | .tos | .stov => 0
  | .mov | .sqrt | .abs | .neg | .sfu | .rsum | .ramax | .rssq => 1
  | .add | .sub | .mul | .min | .max | .div | .cmp => 2
  | .fma | .sel => 3
/-- A reduction across lanes. -/
def vecReduces : VecOp → Bool
  | .rsum | .ramax | .rssq => true
  | .mov | .add | .sub | .mul | .fma | .min | .max | .div | .sqrt | .abs | .neg | .cmp | .sel
  | .sfu | .rand | .rbits | .bcast | .tos | .stov => false
/-- It draws whatever its rounding mode. -/
def vecDraws (o : VecOp) : Bool := o == .rand || o == .rbits
/-- λ and k of R147; VTOS and VSTOV cost their λ in all. -/
def vecCost : VecOp → Nat × Nat
  | .div | .sqrt => (14, 4)
  | .sfu => (24, 4)
  | .rand | .rbits => (12, 2)
  | .tos => (8, 0)
  | .stov => (2, 0)
  | .mov | .add | .sub | .mul | .fma | .min | .max | .abs | .neg | .cmp | .sel | .rsum | .ramax
  | .rssq | .bcast => (6, 1)

/-- Is the instruction's rounding mode SR. -/
def vecSr (w : Fields) : Bool := ctl w 75 73 == 4
/-- Its rounding mode. -/
def vecRnd (w : Fields) : Rnd := (rndOfCode (ctl w 75 73)).getD .rne
/-- Index-map register pair rI (R145). -/
def vecMapReg (w : Fields) : BitVec 5 := w.tail.extractLsb' 11 5
/-- Element count n. -/
def vecCount (x : Ctx) (w : Fields) : Nat := (sreg x (w.control.extractLsb' 3 5)).toNat
/-- The index map is used (R146). -/
def vecMapped (o : VecOp) (w : Fields) : Bool := vecSr w || vecDraws o
/-- Element index of position `p`. -/
def vecIndex (e : VecEntry) (p : Nat) : Nat := mapIndex e.map0 e.map1 p
/-- The tensor ID that draws use: 0 for VBCAST (R145). -/
def vecTensor (o : VecOp) (w : Fields) : Nat := if o == .bcast then 0 else w.imm.toNat

/-- An operand: a vector register or a scratchpad plane. -/
inductive VecOpnd
  | reg (v : Nat)
  | mem (f : Fmt) (word : DWord)
  deriving DecidableEq, Repr

/-- The operand that a field names, of whose scalar register `word` is the value: its Kind bit and the top bit of its
format code; none when the format is not one of codes 0x0 to 0xD, or is not FP32 for a register (R148). -/
def vecOpnd (word : DWord) (w : Fields) (kind fmtHi : Nat) (field : BitVec 5) (anyFmt : Bool) :
    Option VecOpnd :=
  match fmtOfCode (ctl w fmtHi (fmtHi - 3)) with
  | some f =>
    if f == .e8m0 then none
    else if ctlBit w kind then (if f == .fp32 || anyFmt then some (.reg field.toNat) else none)
    else some (.mem f word)
  | none => none
/-- The sources an issued operation names (R129). -/
def vecSources (o : VecOp) (i : Issued) : List (Option VecOpnd) :=
  let w := i.fields
  [vecOpnd i.r2 w 94 87 w.f2 false, vecOpnd i.r3 w 93 83 w.f3 false, vecOpnd i.r4 w 92 79 w.f4 false].take
    (vecArity o)
/-- The destination. -/
def vecDest (o : VecOp) (i : Issued) : Option VecOpnd :=
  vecOpnd i.r1 i.fields 95 91 i.fields.f1 (o == .rbits)
/-- The scratchpad ranges of an operand of `n` elements. -/
def opndRanges (n : Nat) : Option VecOpnd → List Range
  | some (.mem f d) => operandRanges f d n
  | some (.reg _) => []
  | none => []
/-- R148, R131: an operand's own rules. -/
def opndOk (n : Nat) : Option VecOpnd → Bool
  | some (.mem f d) => opWordOk f 64 d && (!fmtIsMx f || n % 32 == 0) && (f != .fp4 || n % 2 == 0)
  | some (.reg _) => true
  | none => false
/-- An operand is a vector register. -/
def opndIsReg : Option VecOpnd → Bool
  | some (.reg _) => true
  | some (.mem _ _) => false
  | none => false

/-- The fields that an operation uses (R145, R147). That Imm counts as unused, and so must be 0, on an operation that
neither rounds with SR, nor draws, nor is VBCAST is the model's choice (DESIGN CHOICE, log entry 78): R145 says so of rI
only. -/
def vecUse (o : VecOp) (w : Fields) : Use :=
  let n := vecArity o
  if o == .tos || o == .stov then { Use.none with f1 := true, f2 := true }
  else
  { f1 := true, f2 := decide (1 ≤ n), f3 := decide (2 ≤ n), f4 := decide (3 ≤ n),
    control := 0x8F000FF8#32 ||| (if 1 ≤ n then 0x40F00000#32 else 0#32)
      ||| (if 2 ≤ n then 0x200F0000#32 else 0#32) ||| (if 3 ≤ n then 0x1000F000#32 else 0#32),
    imm := o == .bcast || vecMapped o w,
    tail := (if vecMapped o w then 0xF800#16 else 0#16)
      ||| (if o == .cmp || o == .sfu then 0x0007#16 else 0#16),
    fusable := vecReduces o }

/-- The queue entry of an instruction that issues now: its registers, ranges and hazards (R97, R129). -/
def vecEntry (s : State) (core k : Nat) (o : VecOp) (w : Fields) (call : Nat) : VecEntry :=
  let x := ctxAt s core k
  let i := issuedOf s core k (vecCode o) w true call
  let n := vecCount x w
  { inst := i, n := n, map0 := sreg x (vecMapReg w), map1 := sreg x (vecMapReg w + 1#5),
    reads := (vecSources o i).flatMap (opndRanges n),
    writes := if vecReduces o || o == .tos || o == .stov then [] else opndRanges n (vecDest o i),
    vreads := vregReads (vecCode o) w, vwrite := vregWrite (vecCode o) w,
    sdest := if o == .tos then some w.f1 else none, strokes := 0, acc := 0#32 }

/-- R146, R148: the operand rules. A tiled map whose depth extent is 0 is an operand fault (DESIGN CHOICE, log entry
78). -/
def vecLegal (s : State) (core : Nat) (o : VecOp) (e : VecEntry) : Bool :=
  let w := e.inst.fields
  let n := e.n
  let ri := vecMapReg w
  let srcs := vecSources o e.inst
  let dst := vecDest o e.inst
  (o == .tos || o == .stov) ||
  (decide (1 ≤ n) && decide (n ≤ 2 ^ 23)
    && (rndOfCode (ctl w 75 73)).isSome
    && srcs.all (opndOk n) && opndOk (if vecReduces o then 32 else n) dst
    && decide ((srcs.flatMap (opndRanges n)).length ≤ 4)
    && (vecReduces o || !opndIsReg dst || decide (n ≤ 256))
    && (!vecReduces o || opndIsReg dst)
    && (o != .rand || ctl w 91 88 == 0) && (o != .rbits || ctl w 91 88 == 7)
    && (o != .cmp || (predOfCode (w.tail.toNat % 256)).isSome)
    && (!vecMapped o w ||
        (ri.toNat % 2 == 0 && ri != 0#5
          && bitsOf e.map1.toNat 63 18 == 0
          && (!bitOf e.map1.toNat 16 || bitsOf e.map1.toNat 15 0 != 0)
          && (List.range n).all fun p => decide (vecIndex e p < 2 ^ 34)))
    && (o == .bcast || decide (w.imm.toNat < 2 ^ 28))
    && (!vecReduces o || communeOk (coreAt s core) w false false))

/-! ### Values -/

/-- One as a value. -/
def valOne : Val := .fin false 1 0
/-- The exact result of an elementwise operation, before the one rounding of R76; the special-function unit rounds to
FP32 first (R77). -/
def vecVal (o : VecOp) (func : Nat) (r : Rnd) (imm : Word) (a b c : Val) : Val :=
  match o with
  | .mov => a
  | .add => valAdd r a b
  | .sub => valSub r a b
  | .mul => valMul a b
  | .fma => valAdd r (valMul a b) c
  | .min => valMin a b
  | .max => valMax a b
  | .div => valDiv a b
  | .sqrt => valSqrt a
  | .abs => valAbs a
  | .neg => valNeg a
  | .cmp => if predHolds ((predOfCode (func % 8)).getD .un) a b then valOne else .fin false 0 0
  | .sel => if valIsZero c then b else a
  | .sfu => roundF32 .rne 0 (sfuVal ((sfuOfCode (func % 8)).getD .recip) a)
  | .bcast => ofF32 imm
  | .rsum => a
  | .ramax => valAbs a
  | .rssq => valMul a a
  | .rand => .nan
  | .rbits => .nan
  | .tos => .nan
  | .stov => .nan

/-- Read position `p` of an operand, as FP32 (R76): a register lane is reused in every stroke. -/
def readOpnd (x : Ctx) (m : Memory) : Option VecOpnd → Nat → Val
  | some (.reg v), p => ofF32 (lane x v (p % 256))
  | some (.mem f d), p =>
    let v := decodeElem f (elemAt m (winAddr x (opElem d)) (fmtBits f) p)
    let v := if fmtIsMx f then
        scaleVal (memByte m (winAddr x (opScale d) + p / 32)).toNat v else v
    roundF32 .rne 0 v
  | none, _ => .nan

/-- The draw of position `p` when the instruction rounds with SR or draws, else 0. -/
def vecDraw (s : State) (core k : Nat) (o : VecOp) (e : VecEntry) (p : Nat) : Nat :=
  if vecMapped o e.inst.fields then drawFor s core k (vecTensor o e.inst.fields) (vecIndex e p) else 0

/-- The exact value of position `p` as its sources stand now (R98); VRAND draws a uniform value. -/
def vecElem (s : State) (core k : Nat) (o : VecOp) (e : VecEntry) (p : Nat) : Val :=
  let x := ctxAt s core k
  let m := (coreAt s core).scratch
  let w := e.inst.fields
  let srcs := vecSources o e.inst
  if o == .rand then uniformOf (vecDraw s core k o e p)
  else vecVal o w.tail.toNat (vecRnd w) w.imm
    (readOpnd x m (srcs.getD 0 none) p) (readOpnd x m (srcs.getD 1 none) p)
    (readOpnd x m (srcs.getD 2 none) p)

/-- The conversions of positions `lo` to `lo + len - 1` in a format, with their MX scale bytes. -/
def strokeConvs (s : State) (core k : Nat) (o : VecOp) (e : VecEntry) (f : Fmt) (lo len : Nat) :
    List Conv × List Nat :=
  let w := e.inst.fields
  let r := vecRnd w
  let at_ := fun p => (vecElem s core k o e p, vecDraw s core k o e p)
  if o == .rbits then
    ((List.range len).map fun i => ⟨vecDraw s core k o e (lo + i), false, false⟩, [])
  else if fmtIsMx f then
    let blocks := (List.range (len / 32)).map fun b =>
      quantiseBlock f r ((List.range 32).map fun i => at_ (lo + 32 * b + i))
    (blocks.flatMap (·.2), blocks.map (·.1))
  else ((List.range len).map fun i =>
    convElem f r (ctlBit w 72) (at_ (lo + i)).2 (at_ (lo + i)).1, [])

/-- One stroke of an elementwise operation: it reads, computes and writes as one step (R107). A
write to scratchpad can set the non-finite flag (R67); saturations count wherever they land. -/
def vecStroke (s : State) (core k : Nat) (o : VecOp) (e : VecEntry) : State :=
  let x := ctxAt s core k
  let lo := 256 * e.strokes
  let len := min 256 (e.n - lo)
  match vecDest o e.inst with
  | some (.reg v) =>
    let out := (strokeConvs s core k o e .fp32 lo len).1
    let s := updCtx s core k fun x =>
      { setLanes x v 0 (out.map fun c => BitVec.ofNat 32 c.bits) with
        satCount := x.satCount + satsOf out }
    chargeSats s core (satsOf out)
  | some (.mem f d) =>
    let out := strokeConvs s core k o e f lo len
    let s := updCore s core fun c =>
      let m := setElems c.scratch (winAddr x (opElem d)) (fmtBits f) lo (out.1.map (·.bits))
      { c with scratch := memWrite m (winAddr x (opScale d) + lo / 32) (out.2.map (BitVec.ofNat 8)) }
    chargeSats (updCtx s core k fun x => noteConvs x out.1) core (satsOf out.1)
  | none => s

/-! ### Reductions (R108) -/

/-- A rounding of a reduction to FP32 under the instruction's mode and saturate bit (R65, R76, R148): the value, and 1
when it saturated. -/
def redRound (w : Fields) (d : Nat) (v : Val) : Val × Nat :=
  let c := convElem .fp32 (vecRnd w) (ctlBit w 72) d v
  (decodeElem .fp32 c.bits, natOf c.saturated)
/-- One node of the lane tree: its inputs with their saturations, and the position its rounding draws with. -/
def reduceNode (o : VecOp) (w : Fields) (draw : Nat → Nat) (pos : Nat) (a b : Val × Nat) : Val × Nat :=
  if o == .ramax then (valMax a.1 b.1, a.2 + b.2)
  else
    let r := redRound w (draw pos) (valAdd (vecRnd w) a.1 b.1)
    (r.1, a.2 + b.2 + r.2)
/-- One level of the tree over lanes that each cover `span` positions from `lo`. -/
def reduceLevel (o : VecOp) (w : Fields) (draw : Nat → Nat) (span : Nat) :
    Nat → List (Val × Nat) → List (Val × Nat)
  | lo, a :: b :: t => reduceNode o w draw (lo + span) a b :: reduceLevel o w draw span (lo + 2 * span) t
  | _, l => l
/-- The eight levels of a stroke's tree over 256 lanes. -/
def reduceTree (o : VecOp) (w : Fields) (draw : Nat → Nat) (lo : Nat) : Nat → Nat → List (Val × Nat) → Val × Nat
  | 0, _, l => l.headD (.fin false 0 0, 0)
  | n + 1, span, l => reduceTree o w draw lo n (2 * span) (reduceLevel o w draw span lo l)
/-- The running value after one more stroke, and the saturations of the stroke's roundings: strokes are added in
increasing order. -/
def reduceStroke (s : State) (core k : Nat) (o : VecOp) (e : VecEntry) : Word × Nat :=
  let w := e.inst.fields
  let dr := vecDraw s core k o e
  let lanes := (List.range 256).map fun i =>
    let p := 256 * e.strokes + i
    if p < e.n then
      let v := vecElem s core k o e p
      if o == .rssq then redRound w (dr p) v else (v, 0)
    else (.fin false 0 0, 0)
  let t := reduceTree o w dr (256 * e.strokes) 8 1 lanes
  let r := if e.strokes = 0 then t else reduceNode o w dr (256 * e.strokes) (ofF32 e.acc, 0) t
  (toF32 r.1, r.2)

/-- Local cost in cycles (R149). -/
def vecCycles (o : VecOp) (e : VecEntry) : Nat :=
  let strokes := (e.n + 255) / 256
  let mems := (vecDest o e.inst :: vecSources o e.inst).filterMap fun p =>
    match p with | some (.mem f _) => some f | some (.reg _) => none | none => none
  let p := (mems.map fun f => (256 * fmtBits f + 4095) / 4096).foldl (· + ·) 0
  let kk := if vecSr e.inst.fields then max 2 (vecCost o).2 else (vecCost o).2
  if o == .tos || o == .stov then (vecCost o).1
  else (vecCost o).1 + strokes * max kk p + (mems.filter fmtIsMx).length * ((strokes + 63) / 64)
    + (if vecReduces o then 48 else 0)

/-- A VEC instruction enters the vector queue of 8 (R88, R96, R145 to R149). -/
def vecIssue (s : State) (core k : Nat) (o : VecOp) (w : Fields) : State :=
  let x := ctxAt s core k
  let e := vecEntry s core k o w 0
  issueNext s core k (vecCode o) w (vecUse o w)
    { Writes.none with
        sreg := if o == .tos then some w.f1 else none, vreg := vregWrite (vecCode o) w } true
    (vecLegal s core o e)
    (((e.reads ++ e.writes).all fun r => inWindow x r.1 r.2) && routineMayWrite s core k e.writes)
    (stallOf (decide (8 ≤ x.vecQ.length)) (interlocked x e.reads e.writes)) fun s =>
      updCtx s core k fun x =>
        let (call, x) := if communeMask w = 0 then (0, x) else takeCall x (communeGroup w)
        { x with vecQ := x.vecQ ++ [{ e with inst := { e.inst with call := call } }] }

/-- The end of the head instruction: it leaves the queue, and a fused reduction reaches its collective point with lane 0
as its scalar cell (R133, R197). -/
def vecFinish (s : State) (core k : Nat) (o : VecOp) (e : VecEntry) : State :=
  let s := bumpCore s core 5 (vecCycles o e)
  let s := updCtx s core k fun x => { x with vecQ := x.vecQ.drop 1 }
  if vecReduces o && communeMask e.inst.fields != 0 then
    let pt := pointOf (coreAt s core) e.inst 0 0 4 0 (some (e.acc, false))
    updCtx s core k fun x => { x with points := x.points ++ [pt] }
  else s
/-- One stroke of the instruction at the head of the vector queue (R107): an elementwise operation writes its elements; a
reduction adds the stroke to its running value and, after the last stroke, writes lane 0 and +0 to the other lanes; VTOS
and VSTOV are done at once. -/
def vecRun (s : State) (core k : Nat) (o : VecOp) (e : VecEntry) : State :=
  let w := e.inst.fields
  let last := decide (e.n ≤ 256 * (e.strokes + 1))
  let again := fun (s : State) (e : VecEntry) =>
    updCtx s core k fun x => { x with vecQ := { e with strokes := e.strokes + 1 } :: x.vecQ.drop 1 }
  if o == .tos then
    vecFinish (updCtx s core k fun x => setSreg x w.f1 ((lane x w.f2.toNat 0).zeroExtend 64)) core k o e
  else if o == .stov then
    vecFinish (updCtx s core k fun x =>
      setLanes x w.f1.toNat 0 (List.replicate 256 (e.inst.r2.truncate 32))) core k o e
  else if vecReduces o then
    let r := reduceStroke s core k o e
    let s := updCtx s core k fun x => { x with satCount := x.satCount + r.2 }
    let s := chargeSats s core r.2
    let e := { e with acc := r.1 }
    if last then
      vecFinish (updCtx s core k fun x => setLanes x w.f1.toNat 0 (r.1 :: List.replicate 255 0#32)) core k o e
    else again s e
  else
    let s := vecStroke s core k o e
    if last then vecFinish s core k o e else again s e

/-- R147, VMOV. -/
def execVmov (core k : Nat) (w : Fields) (s : State) : Result := .next (vecIssue s core k .mov w)
/-- R147, VADD. -/
def execVadd (core k : Nat) (w : Fields) (s : State) : Result := .next (vecIssue s core k .add w)
/-- R147, VSUB. -/
def execVsub (core k : Nat) (w : Fields) (s : State) : Result := .next (vecIssue s core k .sub w)
/-- R147, VMUL. -/
def execVmul (core k : Nat) (w : Fields) (s : State) : Result := .next (vecIssue s core k .mul w)
/-- R147, VFMA. -/
def execVfma (core k : Nat) (w : Fields) (s : State) : Result := .next (vecIssue s core k .fma w)
/-- R147, VMIN. -/
def execVmin (core k : Nat) (w : Fields) (s : State) : Result := .next (vecIssue s core k .min w)
/-- R147, VMAX. -/
def execVmax (core k : Nat) (w : Fields) (s : State) : Result := .next (vecIssue s core k .max w)
/-- R147, VDIV. -/
def execVdiv (core k : Nat) (w : Fields) (s : State) : Result := .next (vecIssue s core k .div w)
/-- R147, VSQRT. -/
def execVsqrt (core k : Nat) (w : Fields) (s : State) : Result := .next (vecIssue s core k .sqrt w)
/-- R147, VABS. -/
def execVabs (core k : Nat) (w : Fields) (s : State) : Result := .next (vecIssue s core k .abs w)
/-- R147, VNEG. -/
def execVneg (core k : Nat) (w : Fields) (s : State) : Result := .next (vecIssue s core k .neg w)
/-- R147, VCMP. -/
def execVcmp (core k : Nat) (w : Fields) (s : State) : Result := .next (vecIssue s core k .cmp w)
/-- R147, VSEL. -/
def execVsel (core k : Nat) (w : Fields) (s : State) : Result := .next (vecIssue s core k .sel w)
/-- R77, R147, VSFU. -/
def execVsfu (core k : Nat) (w : Fields) (s : State) : Result := .next (vecIssue s core k .sfu w)
/-- R108, R147, VRSUM. -/
def execVrsum (core k : Nat) (w : Fields) (s : State) : Result := .next (vecIssue s core k .rsum w)
/-- R108, R147, VRAMAX. -/
def execVramax (core k : Nat) (w : Fields) (s : State) : Result := .next (vecIssue s core k .ramax w)
/-- R108, R147, VRSSQ. -/
def execVrssq (core k : Nat) (w : Fields) (s : State) : Result := .next (vecIssue s core k .rssq w)
/-- R85, R147, VRAND. -/
def execVrand (core k : Nat) (w : Fields) (s : State) : Result := .next (vecIssue s core k .rand w)
/-- R85, R147, VRBITS. -/
def execVrbits (core k : Nat) (w : Fields) (s : State) : Result := .next (vecIssue s core k .rbits w)
/-- R145, R147, VBCAST. -/
def execVbcast (core k : Nat) (w : Fields) (s : State) : Result := .next (vecIssue s core k .bcast w)
/-- R147, VTOS: the 32 bits of lane 0, zero-extended. -/
def execVtos (core k : Nat) (w : Fields) (s : State) : Result := .next (vecIssue s core k .tos w)
/-- R147, VSTOV: every lane takes bits [31:0] of the scalar. -/
def execVstov (core k : Nat) (w : Fields) (s : State) : Result := .next (vecIssue s core k .stov w)

end Sys2Proof.Machine
end

