-- ==== Sys2Proof/Machine/Thresher.lean ====
section
/-!
DEFINITION. THR instructions and the thresher's running state (R121 to R123, R159 to R162, R217,
R223, R368 to R381, R398, R427 to R429, R441).
-/
namespace Sys2Proof.Machine

/-! ### Issue (R88, R121, R368) -/

/-- Near-memory offset of a cluster's threshing floor (R207). -/
def floorBase (cl : Nat) : Nat := 0x30000000 + cl % 4 * 0x4000000
/-- A floor range of `n` bytes at an offset lies within the 64 MiB and is aligned (R160). -/
def floorOk (off n : Nat) : Bool := off % 64 == 0 && decide (off + n ≤ 0x4000000)
/-- Bytes of a cluster's floor. -/
def floorMem (s : State) (cl : Nat) : Memory := nearAt s (cl / 4)
/-- FP32 value `i` of a floor range. -/
def floorWord (m : Memory) (cl off i : Nat) : Word :=
  BitVec.ofNat 32 (leVal (memRead m (floorBase cl + off + 4 * i) 4))
/-- The core of the cluster that tail [15:14] names. -/
def linkCore (core : Nat) (w : Fields) : Nat := core / 4 * 4 + bitsOf w.tail.toNat 15 14
/-- An entry of a core's THR queue. -/
def thrEntry (i : Issued) (reads writes : List Range) (sdest : Option (BitVec 5)) : ThrEntry :=
  { inst := i, reads := reads, writes := writes, sdest := sdest, handed := false, run := BundleRun.reset }
/-- A THR instruction joins its core's queue of 4: the lead core's copy is the one that its thresher executes, the copies of
cores 1 to 3 wait for it (R88, R121; that theirs hold 4 too is a DESIGN CHOICE, log entry 13). `fixed` holds the rules that
every copy meets, `lead` those of the operands of the lead's copy. The call number of a TSSQ is taken at issue (R177). -/
def thrIssue (s : State) (core k op : Nat) (w : Fields) (u : Use) (wr : Writes) (fixed lead bounded locked : Bool)
    (reads writes : List Range) (sdest : Option (BitVec 5)) : State :=
  let first := core % 4 == 0
  let x := ctxAt s core k
  issueNext s core k op w u wr false (fixed && (!first || lead)) (!first || bounded)
    (stallOf (decide (4 ≤ x.thrQ.length)) locked) fun s =>
      let x := ctxAt s core k
      let calls := op == 0x501 && first
      let n := if calls then Sparse.get 0 x.calls (communeGroup w) else 0
      let x' := if calls then (takeCall x (communeGroup w)).2 else x
      setCtx s core k { x' with
        thrQ := x.thrQ ++ [thrEntry (issuedOf s core k op w true n) reads writes sdest] }
/-- Count busy cycles of the thresher (R530). -/
def thrBusy (s : State) (core n : Nat) : State := bumpCoveSet s (coveOfCore s core) 28 n
/-- The instruction at the head of a cluster's thresher has completed: its copies complete with it (R121). -/
def thrDone (s : State) (cl k : Nat) : State :=
  forEach s ((List.range 4).map (4 * cl + ·)) fun s i => updCtx s i k fun x => { x with thrQ := x.thrQ.drop 1 }
/-- Change the state of the TUPD at the head of a lead core's queue. -/
def updBundle (s : State) (cl k : Nat) (f : BundleRun → BundleRun) : State :=
  updCtx s (4 * cl) k fun x =>
    { x with thrQ := match x.thrQ with | e :: t => { e with run := f e.run } :: t | [] => [] }
/-- A floor range as a place. -/
def floorPlace (cl off : Nat) : Place := .near (cl / 4) (floorBase cl + off)

/-! ### TSSQ, TCLIP, TFLAG, TMOV, TLIN -/

/-- One level of the lane tree of R108 with RNE: adjacent lanes are added. -/
def pairSum : List Val → List Val
  | a :: b :: t => roundF32 .rne 0 (valAdd .rne a b) :: pairSum t
  | l => l
/-- The levels of the lane tree. -/
def laneSum : Nat → List Val → Val
  | 0, l => l.headD (.fin false 0 0)
  | n + 1, l => laneSum n (pairSum l)
/-- The sum of squares of one bundle in the order of R108, RNE. -/
def bundleSquares (m : Memory) (cl off lo hi : Nat) : Val :=
  let lanes := fun st => (List.range 256).map fun i =>
    let e := lo + 256 * st + i
    if e < hi then
      let g := ofF32 (floorWord m cl off e)
      roundF32 .rne 0 (valMul g g)
    else Val.fin false 0 0
  (List.range ((hi - lo + 255) / 256)).foldl (fun acc st =>
    let t := laneSum 8 (lanes st)
    if st = 0 then t else roundF32 .rne 0 (valAdd .rne acc t)) (.fin false 0 0)
/-- The sum over the bundles in order (R160). -/
def floorSquares (m : Memory) (cl off n : Nat) : Word :=
  toF32 ((List.range ((n + 16383) / 16384)).foldl (fun acc b =>
    let t := bundleSquares m cl off (16384 * b) (min n (16384 * (b + 1)))
    if b = 0 then t else roundF32 .rne 0 (valAdd .rne acc t)) (.fin false 0 0))
/-- Some value of a floor range is a NaN or an infinity. -/
def floorNonfinite (m : Memory) (cl off n : Nat) : Bool :=
  (List.range n).any fun i => f32nonfinite (floorWord m cl off i)
/-- R160, R378, TSSQ. A die-level mask that holds a core other than 0, 4, 8 and 12 is an operand fault. -/
def execTssq (core k : Nat) (w : Fields) (s : State) : Result :=
  let x := ctxAt s core k
  let c := coreAt s core
  let off := (sreg x w.f2).toNat
  let n := (sreg x w.f3).toNat
  let dieOk := !bitOf (communeMask w) 0 ||
    (gLevel c (communeGroup w) 0 0 &&& 0xEEEE) == 0
  .next (thrIssue s core k 0x501 w { Use.none with f2 := true, f3 := true, fusable := true }
    Writes.none (communeMask w != 0)
    (communeOk c w true false && dieOk && decide (1 ≤ n) && decide (n ≤ 2 ^ 24) && floorOk off (4 * n))
    true false [] [] none)
/-- A read or an address of the thresher ended badly: the instruction ends, and the status has its outcome (R154, R464). -/
def thrFails (s : State) (cl k addr : Nat) (w : WainStatus) : State := statusOutcome (thrDone s cl k) (4 * cl) addr w
/-- The thresher's part of a TSSQ: the lead core hands the sum and the flag to the routine. -/
def tssqRun (s : State) (cl k : Nat) (e : ThrEntry) : State :=
  let core := 4 * cl
  let off := e.inst.r2.toNat
  let n := e.inst.r3.toNat
  if e.handed then s
  else if condemned s (floorPlace cl off) (4 * n) then
    thrFails (condemn s (floorPlace cl off) (4 * n)) cl k e.inst.addr .tallyFailure
  else
    let m := floorMem s cl
    let flag := floorNonfinite m cl off n
      || (List.range 4).any fun i => (ctxAt s (4 * cl + i) k).nonfinite
    let pt := pointOf (coreAt s core) e.inst 0 0 4 0 (some (floorSquares m cl off n, flag))
    thrBusy (updCtx s core k fun x =>
      { x with points := x.points ++ [pt],
               thrQ := match x.thrQ with | e :: t => { e with handed := true } :: t | [] => [] }) core
      (16 + (4 * n + 1023) / 1024 + 48)
/-- The routine of a TSSQ returned: the group's sum and flag enter the running state and the instruction completes (R160,
R368, R370); a flag that it sets after an update wrote discards the step with cause 4 (R369). -/
def tssqReturn (s : State) (core k : Nat) (sum : Word) (flag : Bool) : State :=
  let cl := clusterOf core
  let old := threshAt s cl k
  let s := updThresh (thrDone s cl k) cl k fun r =>
    { r with sumsq := sum, nonfinite := r.nonfinite || flag }
  match coveOfCore s core with
  | none => s
  | some c =>
    let s := if some core = (coresOf (coveAt s c)).head? then updStats s c fun t => { t with sumsq := sum }
      else s
    if flag && !old.nonfinite && (coveAt s c).stats.updateWrote then discardStep s c 4 (some 4) else s

/-- R160, R380: the clipping scale. -/
def clipScale (limit sum : Word) : Word :=
  f32min f32one (f32div limit (f32sqrt sum))
/-- R160, TCLIP: the limit must be positive and finite. -/
def execTclip (core k : Nat) (w : Fields) (s : State) : Result :=
  .next (thrIssue s core k 0x502 w { Use.none with imm := true } Writes.none
    (match ofF32 w.imm with | .fin false m _ => decide (0 < m) | .fin true _ _ => false
                            | .nan => false | .inf _ => false) true true false [] [] none)
/-- The thresher's part of a TCLIP. Event 0x6011 when an infinite sum of finite values gives +0 (R380). -/
def tclipRun (s : State) (cl k : Nat) (e : ThrEntry) : State :=
  let core := 4 * cl
  let r := threshAt s cl k
  let scale := clipScale e.inst.fields.imm r.sumsq
  let s := updThresh (thrDone s cl k) cl k fun r => { r with scale := scale }
  let c := coveOfCore s core
  let s := match c with
    | some c => if some core = (coresOf (coveAt s c)).head?
        then updStats s c fun t => { t with scale := scale } else s
    | none => s
  let s := thrBusy s core 4
  if r.sumsq = 0x7F800000#32 ∧ r.nonfinite = false then
    record s 0x6011 .corrected (coveNum c) (1024 + cl) []
  else s
/-- R160, TFLAG: F1 of s0 is an operand fault; the register is pending until the thresher writes it (R97). -/
def execTflag (core k : Nat) (w : Fields) (s : State) : Result :=
  .next (thrIssue s core k 0x505 w { Use.none with f1 := true } { Writes.none with sreg := some w.f1 }
    (w.f1 != 0#5) true true false [] [] (some w.f1))
/-- The thresher's part of a TFLAG: the flag in bit 0 and the clipping scale in [63:32], on every core of the cluster. -/
def tflagRun (s : State) (cl k : Nat) (e : ThrEntry) : State :=
  let r := threshAt s cl k
  let v := r.scale ++ BitVec.ofNat 32 (natOf r.nonfinite)
  let s := forEach (thrDone s cl k) ((List.range 4).map (4 * cl + ·)) fun s i =>
    updCtx s i k fun x => setSreg x e.inst.fields.f1 v
  thrBusy s (4 * cl) 4
/-- R160, TMOV: FP32 data between the floor and a core's scratchpad. -/
def execTmov (core k : Nat) (w : Fields) (s : State) : Result :=
  let x := ctxAt s core k
  let toCore := linkCore core w
  let a := (sreg x w.f1).toNat
  let off := (sreg x w.f2).toNat
  let n := (sreg x w.f3).toNat
  let back := ctlBit w 87
  let own := fun (b : Bool) => if core = toCore ∧ b then [(a, n)] else []
  .next (thrIssue s core k 0x503 w
    { Use.none with f1 := true, f2 := true, f3 := true, control := 0x00800000#32, tail := 0xC000#16 }
    Writes.none true (n % 512 == 0 && floorOk off n) (inWindow (ctxAt s toCore k) a n)
    (interlocked x (own back) (own (!back))) (own back) (own (!back)) none)
/-- FP32 values of bytes hold a NaN or an infinity. -/
def bytesNonfinite (bs : List Byte) : Bool :=
  (List.range (bs.length / 4)).any fun i => f32nonfinite (BitVec.ofNat 32 (leVal ((bs.drop (4 * i)).take 4)))
/-- The thresher's part of a TMOV: a written NaN or infinity sets the context's flag (R67); a write to a pinned floor range
is a floor conflict (R225). -/
def tmovRun (s : State) (cl k : Nat) (e : ThrEntry) : State :=
  let core := 4 * cl
  let w := e.inst.fields
  let toCore := linkCore core w
  let y := ctxAt s toCore k
  let a := e.inst.r1.toNat
  let off := e.inst.r2.toNat
  let n := e.inst.r3.toNat
  if ctlBit w 87 then
    let r := readScratch s toCore [(winAddr y a, n)]
    if !r.1 then thrDone r.2 cl k
    else
      let bs := memRead (coreAt s toCore).scratch (winAddr y a) n
      let s := updCtx (thrDone r.2 cl k) core k fun x => { x with nonfinite := x.nonfinite || bytesNonfinite bs }
      landWrite (thrBusy s core (8 + n / 512)) (ctxAt s core k).jobTag (floorPlace cl off) bs
  else if condemned s (floorPlace cl off) n then
    thrFails (condemn s (floorPlace cl off) n) cl k e.inst.addr .tallyFailure
  else
    let bs := memRead (floorMem s cl) (floorBase cl + off) n
    let s := updCtx (thrDone s cl k) core k fun x => { x with nonfinite := x.nonfinite || bytesNonfinite bs }
    scratchWrite (thrBusy s core (8 + n / 512)) toCore (winAddr y a) bs
/-- R160, TLIN: D = fma(a, X, RNE(b × D)) over FP32 values in a core's scratchpad. -/
def execTlin (core k : Nat) (w : Fields) (s : State) : Result :=
  let x := ctxAt s core k
  let toCore := linkCore core w
  let y := ctxAt s toCore k
  let d := (sreg x w.f1).toNat
  let xo := (sreg x w.f2).toNat
  let n := (sreg x w.f3).toNat
  let own := fun (l : List Range) => if core = toCore then l else []
  .next (thrIssue s core k 0x504 w
    { Use.none with f1 := true, f2 := true, f3 := true, f4 := true, tail := 0xC000#16 }
    Writes.none true true (inWindow y d (4 * n) && inWindow y xo (4 * n))
    (interlocked x (own [(d, 4 * n), (xo, 4 * n)]) (own [(d, 4 * n)]))
    (own [(d, 4 * n), (xo, 4 * n)]) (own [(d, 4 * n)]) none)
/-- The thresher's part of a TLIN. -/
def tlinRun (s : State) (cl k : Nat) (e : ThrEntry) : State :=
  let core := 4 * cl
  let toCore := linkCore core e.inst.fields
  let y := ctxAt s toCore k
  let d := e.inst.r1.toNat
  let xo := e.inst.r2.toNat
  let n := e.inst.r3.toNat
  let ca := BitVec.ofNat 32 e.inst.r4.toNat
  let cb := BitVec.ofNat 32 (e.inst.r4.toNat / 2 ^ 32)
  let r := readScratch s toCore [(winAddr y d, 4 * n), (winAddr y xo, 4 * n)]
  if !r.1 then thrDone r.2 cl k
  else
    let m := (coreAt s toCore).scratch
    let at_ := fun o i => BitVec.ofNat 32 (leVal (memRead m (winAddr y o + 4 * i) 4))
    let out := (List.range n).map fun i => f32fma ca (at_ xo i) (f32mul cb (at_ d i))
    let s := scratchWrite (thrDone r.2 cl k) toCore (winAddr y d) (out.flatMap fun v => leOut 4 v.toNat)
    let s := updCtx s core k fun x => { x with nonfinite := x.nonfinite || out.any f32nonfinite }
    thrBusy s core (8 + (4 * n + 511) / 512 * 3)

/-! ### TUPD: operands (R161, R217, R373) -/

/-- Rule code, moments used, lean, and the formats of an update. -/
def tupdRule (w : Fields) : Nat := ctl w 83 80
/-- Moments μ of the rule. -/
def tupdMoments (w : Fields) : Nat := match tupdRule w with | 1 => 2 | 2 => 1 | _ => 0
/-- A lean sheaf. -/
def tupdLean (w : Fields) : Bool := ctlBit w 87
/-- Format of the working copy, or of the lean weight. -/
def tupdCopy (w : Fields) : Fmt := (fmtOfCode (ctl w 95 92)).getD .fp32
/-- Moment format. -/
def tupdMoment (w : Fields) : Fmt := (fmtOfCode (ctl w 91 88)).getD .fp32
/-- Formats of the planes that the rule reads: master or weight, then moments. -/
def tupdReads (w : Fields) : List Fmt :=
  (if tupdLean w then tupdCopy w else .fp32) :: List.replicate (tupdMoments w) (tupdMoment w)
/-- Formats of every plane of the shard (R217). -/
def tupdPlanes (w : Fields) : List Fmt :=
  tupdReads w ++ (if tupdLean w then [] else [tupdCopy w])
/-- Offsets of the planes in the shard, from `a` on. -/
def planeOffsets (n : Nat) : Nat → List Fmt → List Nat
  | _, [] => []
  | a, f :: t => a :: planeOffsets n (a + roundUp (n * (fmtBits f / 8)) 4096) t
/-- Bytes of the shard. -/
def shardBytes (w : Fields) (n : Nat) : Nat :=
  ((tupdPlanes w).map fun f => roundUp (n * (fmtBits f / 8)) 4096).foldl (· + ·) 0
/-- A 32-bit field of the rule block. -/
def ruleField (blk : List Byte) (off : Nat) : Word := BitVec.ofNat 32 (leVal ((blk.drop off).take 4))
/-- Offsets of the fields that a rule reads. -/
def ruleReads (rule : Nat) : List Nat :=
  match rule with
  | 1 => [0, 4, 8, 0x0C, 0x10, 0x14, 0x18, 0x1C, 0x20]
  | 2 => [0, 4, 8]
  | _ => [0, 4]
/-- The index map's words. -/
def ruleMap (blk : List Byte) : DWord × DWord :=
  (BitVec.ofNat 64 (leVal ((blk.drop 0x28).take 8)), BitVec.ofNat 64 (leVal ((blk.drop 0x30).take 8)))
/-- R373, R376: the checks on the rule block. -/
def ruleBlockOk (w : Fields) (blk : List Byte) (n : Nat) : Bool :=
  ((ruleReads (tupdRule w)).all fun o => !f32nonfinite (ruleField blk o))
    && ruleField blk 0x24 == 0#32 && leVal (blk.drop 0x38) == 0
    && (!tupdLean w ||
        (bitsOf (ruleMap blk).2.toNat 63 18 == 0
          && (!bitOf (ruleMap blk).2.toNat 16 || bitsOf (ruleMap blk).2.toNat 15 0 != 0)
          && (List.range n).all fun e => decide (mapIndex (ruleMap blk).1 (ruleMap blk).2 e < 2 ^ 34)))
/-- R161: the rules on the instruction's own fields. -/
def tupdFixed (w : Fields) : Bool :=
  decide (1 ≤ tupdRule w) && decide (tupdRule w ≤ 3) && decide (ctl w 91 88 ≤ 1)
    && (if tupdLean w then ctl w 95 92 == 1 || ctl w 95 92 == 2
        else decide (1 ≤ ctl w 95 92) && decide (ctl w 95 92 ≤ 4))
    && decide (w.imm.toNat < 2 ^ 28)

/-! ### TUPD: arithmetic (R374, R376) -/

/-- FP32 with its sign bit inverted. -/
def f32neg (a : Word) : Word := a ^^^ 0x80000000#32
/-- The rules of R374: the new weight and moments from the gradient, the clipping scale, the weight
and the moments. -/
def ruleStep (rule : Nat) (blk : List Byte) (clip g m v w : Word) : Word × Word × Word :=
  let f := ruleField blk
  let lr := f32neg (f 0)
  let wd := f 4
  let g := f32mul g clip
  match rule with
  | 1 =>
    let m := f32fma (f 8) m (f32mul (f 0x0C) g)
    let v := f32fma (f 0x10) v (f32mul (f 0x14) (f32mul g g))
    let d := f32add (f32sqrt (f32mul v (f 0x1C))) (f 0x20)
    let u := f32div (f32mul m (f 0x18)) d
    (f32fma lr (f32fma wd w u) w, m, v)
  | 2 =>
    let m := f32fma (f 8) m g
    (f32fma lr (f32fma wd w m) w, m, v)
  | _ => (f32fma lr (f32fma wd w g) w, m, v)
/-- The new plane elements of one parameter, in plane order, from those it had: a lean weight rounds
with SR and its draw, the rest with RNE; narrow formats saturate (R376). -/
def updateParam (w : Fields) (blk : List Byte) (clip g : Word) (draw : Nat) (old : List Word) :
    List Conv :=
  let r := ruleStep (tupdRule w) blk clip g (old.getD 1 0#32) (old.getD 2 0#32) (old.getD 0 0#32)
  let weight := if tupdLean w then convElem (tupdCopy w) .sr true draw (ofF32 r.1)
    else convElem .fp32 .rne false 0 (ofF32 r.1)
  let moment := fun v => convElem (tupdMoment w) .rne true 0 (ofF32 v)
  weight :: ([moment r.2.1, moment r.2.2].take (tupdMoments w)
    ++ (if tupdLean w then [] else [convElem (tupdCopy w) .rne true 0 (ofF32 r.1)]))
/-- R377: a parameter counts when its new weight or a moment is not finite. -/
def paramNonfinite (w : Fields) (l : List Conv) : Bool :=
  (l.take (1 + tupdMoments w)).any (·.nonfinite)
/-- Element `i` of plane `j` of a shard held as bytes, widened to FP32. -/
def shardElem (img : Memory) (f : Fmt) (off i : Nat) : Word :=
  toF32 (decodeElem f (elemAt img off (fmtBits f) i))

/-! ### TUPD: the feed (R122, R222, R223, R398, R427 to R429, R441) -/

/-- The access of a thresher feed. -/
def feedAccess (s : State) (core k : Nat) (op : AccOp) (addr len : Nat) : Access :=
  { wainAccess s core k op addr len 64 with unit := 1024 + clusterOf core }
/-- The global address of a destination. -/
def destAddr : Dest → Nat
  | .here a _ => a
  | .away a _ => a
  | .absent => 0
/-- Cut bytes into pieces that end at 4 KiB boundaries of the address. -/
def cutBlocks : Nat → Nat → List Byte → List (Nat × List Byte)
  | 0, _, _ => []
  | n + 1, a, bs =>
    if bs = [] then []
    else
      let m := 4096 - a % 4096
      (a, bs.take m) :: cutBlocks n (a + m) (bs.drop m)
/-- Fold a landed block's tally into the cluster's shard digest (R398). -/
def foldShard (s : State) (c core : Nat) (bs : List Byte) : State :=
  updCove s c fun v =>
    let key := (rankOf v core).getD 0
    let d := crc64 (Sparse.get 0#64 v.shards key).toNat (leBytes 4 (crcOf bs))
    { v with shards := Sparse.set 0#64 v.shards key (BitVec.ofNat 64 d) }
/-- R441: a writeback to a guarded block that a draining checkpoint has not read: the block is read
first, and the wait counts toward event 0x8013. -/
def guardBlock (s : State) (c off : Nat) : State :=
  let k := (coveAt s c).ckpt
  let blk := off / 4096
  let inRegion := k.regions.any fun r =>
    r.kind == 0 && addrModule r.addr == s.moduleId
      && decide (r.addr % 2 ^ 44 ≤ off) && decide (off < r.addr % 2 ^ 44 + r.len)
  if k.holdsCommit ∧ inRegion ∧ Sparse.get [] k.early blk = [] then
    let bytes := (hbmRead s (blk * 4096) 4096).map (·.toNat)
    recordCove (updCkpt s c fun k =>
      { k with early := Sparse.set [] k.early blk bytes, waits := k.waits + 1 }) 0x8013 .corrected c []
  else s
/-- Bytes of the undo record of a TUPD (R428). -/
def undoLength (w : Fields) (n : Nat) : Nat :=
  let per := fun nb => ((tupdReads w).map fun f => roundUp (nb * (fmtBits f / 8)) 512).foldl (· + ·) 0
  4096 + roundUp (((List.range ((n + 16383) / 16384)).map fun b =>
    per (min 16384 (n - 16384 * b))).foldl (· + ·) 0) 4096
/-- Plane bytes of bundle `b`: offset in the shard and bytes, of the planes listed. -/
def bundlePieces (img : Memory) (n b : Nat) (fs : List Fmt) : List (Nat × List Byte) :=
  ((planeOffsets n 0 fs).zip fs).map fun p =>
    let wd := fmtBits p.2 / 8
    let nb := min 16384 (n - 16384 * b)
    (p.1 + 16384 * b * wd, memRead img (p.1 + 16384 * b * wd) (nb * wd))
/-- The first 4 KiB of an undo record (R428). -/
def undoHead (w : Fields) (shard n : Nat) : List Byte :=
  let head := leOut 8 shard ++ leOut 4 n ++ leOut 1 (ctl w 95 92 + 16 * ctl w 91 88)
    ++ leOut 1 (natOf (tupdLean w) + 16 * tupdRule w)
  head ++ List.replicate (4096 - head.length) 0#8
/-- Bytes of a bundle's pre-image in the record: each plane that the rule reads, padded to 512 bytes. -/
def undoImage (w : Fields) (img : Memory) (n b : Nat) : List Byte :=
  (bundlePieces img n b (tupdReads w)).flatMap fun p =>
    p.2 ++ List.replicate (roundUp p.2.length 512 - p.2.length) 0#8
/-- Where bundle `b`'s pre-image starts in its record. -/
def undoOffset (w : Fields) (n b : Nat) : Nat :=
  4096 + ((List.range b).map fun i =>
    ((tupdReads w).map fun f => roundUp (min 16384 (n - 16384 * i) * (fmtBits f / 8)) 512).foldl (· + ·) 0).foldl (· + ·) 0
/-- The pieces that a rollback puts back for bundle `b`: the pre-image, and the working copy that the
former master gives (R430). -/
def undoPieces (w : Fields) (img : Memory) (n b : Nat) : List (Nat × List Byte) :=
  let nb := min 16384 (n - 16384 * b)
  let copy := if tupdLean w then [] else
    let off := (planeOffsets n 0 (tupdPlanes w)).getD (1 + tupdMoments w) 0
    let f := tupdCopy w
    [(off + 16384 * b * (fmtBits f / 8), (List.range nb).flatMap fun i =>
      leOut (fmtBits f / 8) (convElem f .rne true 0
        (ofF32 (shardElem img .fp32 0 (16384 * b + i)))).bits)]
  bundlePieces img n b (tupdReads w) ++ copy
/-- R428, R429: take the record's place in the undo area, or leave the step unguarded; the place's HBM offset. -/
def startUndo (s : State) (c : Nat) (w : Fields) (shard n : Nat) : Option Nat × State :=
  let k := (coveAt s c).ckpt
  let open_ := fun (s : State) =>
    recordCove (updCkpt s c fun k => { k with unguarded := true }) 0x8016 .corrected c []
  if !k.undoOn || k.unguarded then (none, s)
  else
    let size := bitsOf (regAt s (0x60150 + 0x100 * c)).toNat 31 0
    let need := undoLength w n
    match coveRange s c (0x60148 + 0x100 * c) (4096 * size) with
    | some off =>
      if 4096 * k.undoUsed + need ≤ 4096 * size then
        let at_ := off + 4096 * k.undoUsed
        (some at_, updCkpt (hbmStore s at_ (undoHead w shard n)) c fun k =>
          { k with undoUsed := k.undoUsed + need / 4096 })
      else (none, open_ s)
    | none => (none, open_ s)
/-- Keep a bundle's pre-image for a rollback (R430). -/
def keepBundle (s : State) (c : Nat) (w : Fields) (img : Memory) (shard n b : Nat) : State :=
  let cut := (undoPieces w img n b).flatMap fun p => cutBlocks (p.2.length / 4096 + 2) (shard + p.1) p.2
  let u := UndoBundle.mk (cut.map fun p => (destAddr (resolve s c p.1), p.2.map (·.toNat)))
  updCkpt s c fun k => { k with undo := u :: k.undo }

/-- Blocks of the shard that bundle `b` reads. -/
def bundleBlocks (w : Fields) (n b : Nat) : List Nat :=
  let nb := min 16384 (n - 16384 * b)
  (((planeOffsets n 0 (tupdPlanes w)).zip (tupdPlanes w)).take (1 + tupdMoments w)).flatMap fun p =>
    let wd := fmtBits p.2 / 8
    (List.range ((nb * wd + 4095) / 4096)).map fun i => (p.1 + 16384 * b * wd) / 4096 + i
/-- Start a bundle, or start it over: nothing of it is kept. -/
def startBundle (w : Fields) (n b : Nat) (r : BundleRun) : BundleRun :=
  { r with bundle := b, toRead := bundleBlocks w n b, awaiting := [], got := [], computed := false, toSave := [],
           toWrite := [], writing := false, bad := 0, sats := 0 }
/-- R223: the first redirected block of a TUPD records event 0x3010; the gradient range is pinned for the unit. -/
def noteRedirect (s : State) (c cl k : Nat) (i : Issued) (addr : Nat) : State :=
  let unit := (frameAt (addr % 2 ^ 44)).2
  let lo := i.r2.toNat
  let p : Pinned := ⟨cl, lo, lo + 4 * i.r3.toNat, unit⟩
  let first := match (ctxAt s (4 * cl) k).thrQ with | e :: _ => !e.run.redirected | [] => false
  let s := if s.mem.pinned.contains p then s else { s with mem := { s.mem with pinned := s.mem.pinned ++ [p] } }
  if first then
    record (updBundle (updStats s c fun t => { t with redirected := t.redirected + 1 }) cl k fun r =>
      { r with redirected := true }) 0x3010 .corrected c (1024 + cl) []
  else s
/-- The class of a feed access: 0xB, or the barn's when redirected (R222, R297). -/
def feedClass (barn : Bool) : Nat := if barn then 0xC else 0xB
/-- Bytes that the feed moved (R530). -/
def countFeed (s : State) (c n : Nat) (hbm barn : Bool) : State :=
  let s := bumpCoveSet s (some c) 29 n
  let s := if hbm then bumpCoveSet s (some c) 30 n else s
  if barn then bumpCoveSet s (some c) 31 n else s
/-- A feed packet to another module: admitted on the port and sent (R122, R268). -/
def feedAway (s : State) (c cl k ptype tag addr : Nat) (barn : Bool) (data : List Byte) (n : Nat) : MoveStep :=
  let core := 4 * cl
  match routeTo s (dieOf core) (addrModule addr) with
  | none => .fails .unreachable s
  | some (port, bound) =>
    if portFull s port (streamKey (1024 + cl) (addrModule addr) (feedClass barn)) data.length then .waits s
    else match linkNeeds s (.die (dieOf core)) (.shore (portShore port)) with
    | none => .fails .unreachable s
    | some needs =>
      match admitFor s c (feedClass barn) needs (shoreNeeds (.die (dieOf core)) (.shore (portShore port))) (some port)
          (32 * flitsOf data.length) (flitsOf data.length) with
      | .ungranted => .fails .addressFault s
      | .waits => .waits (bump s 3 port 6 1)
      | .granted s leaves =>
        .moved (countFeed (sendOn (if ptype = 1 then markDirty s (addrModule addr) (addr % 2 ^ 44) else s) port leaves
          (dataPacket s ptype 0 (coveGenOf s c (dieOf core)) (feedClass barn)
          (1024 + cl) tag (leaves + bound) (ctxAt s core k).jobTag addr data)) c n false barn)
/-- A feed access inside the module: the target's checks, then admission; `land` is its effect. -/
def feedHere (s : State) (c cl k addr len : Nat) (write barn : Bool) (land : State → State) : MoveStep :=
  let core := 4 * cl
  let p := placeOf addr
  let a := feedAccess s core k (if write then .write else .read) addr len
  match p with
  | .hbm _ =>
    (match targetCheck s a with
     | .hold => .waits s
     | .refuse w => .fails w (refusalNote s a w)
     | .ok =>
       if !write && condemned s p len then .fails .tallyFailure (condemn s p len)
       else
         let src := if write then Site.die (dieOf core) else siteOf p
         let dst := if write then siteOf p else Site.die (dieOf core)
         match linkNeeds s src dst with
         | none => .fails .unreachable s
         | some links =>
           match admitFor s c (feedClass barn) (placeNeeds p (natOf write) ++ links) (shoreNeeds src dst) none len 0 with
           | .ungranted => .fails .addressFault s
           | .waits => .waits (waitedStacks s (placeNeeds p (natOf write)))
           | .granted s _ => .moved (countFeed (land s) c len true barn))
  | _ => .fails .addressFault s
/-- Read block `j` of the shard. -/
def feedRead (s : State) (c cl k : Nat) (i : Issued) (j : Nat) : MoveStep :=
  let addr := i.r1.toNat + 4096 * j
  let got := fun (bs : List Byte) (s : State) => updBundle s cl k fun r => { r with got := memWrite r.got (4096 * j) bs }
  match resolve s c addr with
  | .absent => .fails .unreachable s
  | .here a b =>
    let s := if b then noteRedirect s c cl k i addr else s
    feedHere s c cl k a 4096 false b fun s => got (placeRead s (ctxAt s (4 * cl) k).jobTag (placeOf a) 4096) s
  | .away a b =>
    let s := if b then noteRedirect s c cl k i addr else s
    match feedAway s c cl k 2 j a b (padFlit (leOut 8 (scratchAddr s.moduleId (4 * cl) 0) ++ leOut 4 4096)) 4096 with
    | .moved s => .moved (updBundle s cl k fun r => { r with awaiting := r.awaiting ++ [j] })
    | r => r
/-- Write one piece of a writeback. -/
def feedWrite (s : State) (c cl k : Nat) (i : Issued) (p : Nat × List Byte) : MoveStep :=
  match resolve s c p.1 with
  | .absent => .fails .unreachable s
  | .here a b =>
    let s := if b then noteRedirect s c cl k i p.1 else s
    feedHere (guardBlock s c (a % 2 ^ 44)) c cl k a p.2.length true b fun s =>
      landWrite s (ctxAt s (4 * cl) k).jobTag (placeOf a) p.2
  | .away a b =>
    let s := if b then noteRedirect s c cl k i p.1 else s
    feedAway s c cl k 1 0 a b (padFlit p.2) p.2.length

/-- The shard bytes of the bundle are at hand: compute it (R374, R376). Its pre-image goes before its writeback (R428). -/
def computeBundle (s : State) (c cl k : Nat) (e : ThrEntry) : State :=
  let core := 4 * cl
  let i := e.inst
  let w := i.fields
  let shard := i.r1.toNat
  let n := i.r3.toNat
  let b := e.run.bundle
  let nb := min 16384 (n - 16384 * b)
  let blk := memRead (coreAt s core).scratch (winAddr (ctxAt s core k) i.r4.toNat) 64
  let clip := (threshAt s cl k).scale
  let floor := floorMem s cl
  let img := e.run.got
  let planes := (planeOffsets n 0 (tupdPlanes w)).zip (tupdPlanes w)
  let reads := planes.take (1 + tupdMoments w)
  let convs := (List.range nb).map fun x =>
    let el := 16384 * b + x
    let d := if tupdLean w then drawFor s core k (streamId 1 w.imm.toNat)
        (mapIndex (ruleMap blk).1 (ruleMap blk).2 el) else 0
    updateParam w blk clip (floorWord floor cl i.r2.toNat el) d (reads.map fun p => shardElem img p.2 p.1 el)
  let pieces := (planes.zip (List.range planes.length)).flatMap fun q =>
    let wd := fmtBits q.1.2 / 8
    let bs := convs.flatMap fun l => leOut wd (l.getD q.2 ⟨0, false, false⟩).bits
    cutBlocks (bs.length / 4096 + 2) (shard + q.1.1 + 16384 * b * wd) bs
  let save := match e.run.undoAt with
    | some at_ =>
      let bs := undoImage w img n b
      cutBlocks (bs.length / 4096 + 2) (hbmAddr s.moduleId (at_ + undoOffset w n b)) bs
    | none => []
  let s := if e.run.undoAt.isSome then keepBundle s c w img shard n b else s
  updBundle s cl k fun r =>
    { r with computed := true, toSave := save, toWrite := pieces,
             bad := (convs.filter (paramNonfinite w)).length, sats := (convs.map satsOf).foldl (· + ·) 0 }
/-- A bundle's writeback has been admitted whole: its counts (R376, R377, R389), then the next bundle. -/
def endBundle (s : State) (c cl k : Nat) (e : ThrEntry) : State :=
  let core := 4 * cl
  let n := e.inst.r3.toNat
  let bad := e.run.bad
  let s := updCtx s core k fun x =>
    { x with nonfinite := x.nonfinite || decide (0 < bad), satCount := x.satCount + e.run.sats }
  let s := chargeSats s core e.run.sats
  let s := updStats s c fun t =>
    { t with params := t.params + min 16384 (n - 16384 * e.run.bundle), nonfiniteWrites := t.nonfiniteWrites + bad }
  let s := if 0 < bad then record (bumpCoveSet s (some c) 5 bad) 0x6010 .corrected c (1024 + cl) [] else s
  updBundle s cl k (startBundle e.inst.fields n (e.run.bundle + 1))
/-- A write of a cluster's feed to another module has not been acknowledged (R224, R266). -/
def feedLanding (s : State) (cl : Nat) : Bool :=
  s.fab.ports.any fun p => p.2.unacked.any fun q => q.srcUnit == 1024 + cl && q.ptype == 1
/-- The TUPD has written its last bundle and every write has landed: the floor range is unpinned (R223, R224). -/
def endTupd (s : State) (c cl k : Nat) : State :=
  if feedLanding s cl then s
  else
    let s := { s with mem := { s.mem with pinned := s.mem.pinned.filter (·.cluster ≠ cl) } }
    updStats (thrDone s cl k) c fun t => { t with thresherEnd := s.tide.now }
/-- The start of a TUPD: the skip of R381 after one cycle, or its undo record and first bundle. -/
def beginTupd (s : State) (c cl k : Nat) (e : ThrEntry) : State :=
  let s := updStats s c fun t => { t with tupds := t.tupds + 1, tupdStarted := true }
  if (threshAt s cl k).nonfinite then
    let s := thrBusy (thrDone s cl k) (4 * cl) 1
    if (coveAt s c).stats.skipped then s
    else recordCove (updStats s c fun t => { t with skipped := true }) 0x6001 .corrected c []
  else
    let r := startUndo s c e.inst.fields e.inst.r1.toNat e.inst.r3.toNat
    updBundle r.2 cl k fun x =>
      { startBundle e.inst.fields e.inst.r3.toNat 0 x with begun := true, undoAt := r.1 }
/-- What follows a feed access of the TUPD at the head. -/
def afterFeed (s : State) (cl k addr : Nat) (r : MoveStep) (f : BundleRun → BundleRun) : State :=
  match r with
  | .moved s => updBundle s cl k f
  | .waits s => s
  | .fails w s' =>
    let s := { s' with mem := { s'.mem with pinned := s.mem.pinned.filter (·.cluster ≠ cl) } }
    thrFails s cl k addr w
/-- R160, R161, R223, R369, R381: one access or one bundle's computation of the TUPD at the head. A parity error in the
array discards the bundle, which runs again (R118). -/
def tupdRun (s : State) (cl k : Nat) (e : ThrEntry) : State :=
  match coveOfCore s (4 * cl) with
  | none => s
  | some c =>
    let r := e.run
    let n := e.inst.r3.toNat
    if !r.begun then beginTupd s c cl k e
    else if (n + 16383) / 16384 ≤ r.bundle then endTupd s c cl k
    else match r.toRead with
    | j :: rest => afterFeed s cl k e.inst.addr (feedRead s c cl k e.inst j) fun x => { x with toRead := rest }
    | [] =>
      if r.awaiting ≠ [] then s
      else if !r.computed then
        let nb := min 16384 (n - 16384 * r.bundle)
        let place := floorPlace cl (e.inst.r2.toNat + 65536 * r.bundle)
        if condemned s place (4 * nb) then thrFails (condemn s place (4 * nb)) cl k e.inst.addr .tallyFailure
        else
          let q := parityCheck s (4 * cl) 6 0 1024
          if !q.1 then updBundle q.2 cl k (startBundle e.inst.fields n r.bundle) else computeBundle q.2 c cl k e
      else match r.toSave, r.toWrite with
      | p :: rest, _ =>
        afterFeed s cl k e.inst.addr (feedHere s c cl k p.1 p.2.length true false fun s =>
          hbmStore s (p.1 % 2 ^ 44) p.2) fun x => { x with toSave := rest }
      | [], p :: rest =>
        (match feedWrite s c cl k e.inst p with
         | .moved s =>
           let s := updCkpt s c fun x => if x.returnTick = 0 then { x with returnTick := s.tide.now } else x
           let s := foldShard (updStats s c fun t => { t with updateWrote := true }) c (4 * cl) p.2
           updBundle s cl k fun x => { x with toWrite := rest, writing := true }
         | q => afterFeed s cl k e.inst.addr q id)
      | [], [] => endBundle s c cl k e
/-- A read response of the feed: `j` is the block (R265). -/
def tupdResponse (s : State) (cl k j : Nat) (data : List Byte) : State :=
  updBundle s cl k fun r =>
    if r.awaiting.contains j then
      { r with awaiting := r.awaiting.filter (· ≠ j), got := memWrite r.got (4096 * j) (data.take 4096) }
    else r
/-- R123: at a context switch or a hang, a bundle whose writeback has not been admitted is discarded, and runs from its start
on resume. -/
def dropBundle (s : State) (cl k : Nat) : State :=
  match (ctxAt s (4 * cl) k).thrQ with
  | e :: _ =>
    if e.inst.op = 0x500 ∧ e.run.begun ∧ ¬ e.run.writing ∧ 16384 * e.run.bundle < e.inst.r3.toNat then
      updBundle s cl k (startBundle e.inst.fields e.inst.r3.toNat e.run.bundle)
    else s
  | [] => s
/-- The instruction that a thresher is to run: the head of the lead core's queue, once the copies of the other cores stand
at the heads of theirs (R121). -/
def thrHeads (s : State) (cl k : Nat) : Option (ThrEntry × List ThrEntry) :=
  match (ctxAt s (4 * cl) k).thrQ with
  | [] => none
  | e :: _ =>
    let copies := (List.range 3).filterMap fun i => (ctxAt s (4 * cl + 1 + i) k).thrQ.head?
    if copies.length = 3 then some (e, copies) else none
/-- A thresher works on the context's instruction: its context owns the cluster, or a bundle's writeback has been admitted
and completes (R123). -/
def thrRuns (s : State) (cl k : Nat) (e : ThrEntry) : Bool :=
  !(clusterAt s cl).thresherDown && (enginesRun s (4 * cl) k || e.run.writing)
/-- One step of a cluster's thresher for a context (R121, R368). A copy at another address is a divergence. -/
def thrStep (s : State) (cl k : Nat) : State :=
  match thrHeads s cl k with
  | none => s
  | some (e, copies) =>
    if !thrRuns s cl k e then s
    else if copies.any fun x => x.inst.addr != e.inst.addr || x.inst.op != e.inst.op then divergence s (4 * cl)
    else match e.inst.op with
    | 0x500 => tupdRun s cl k e
    | 0x501 => tssqRun s cl k e
    | 0x502 => tclipRun s cl k e
    | 0x503 => tmovRun s cl k e
    | 0x504 => tlinRun s cl k e
    | _ => tflagRun s cl k e
/-- R160, TUPD. The rule block is a read range of the interlock until the instruction completes (R162). -/
def execTupd (core k : Nat) (w : Fields) (s : State) : Result :=
  let x := ctxAt s core k
  let n := (sreg x w.f3).toNat
  let rb := (sreg x w.f4).toNat
  let blk := memRead (coreAt s core).scratch (winAddr x rb) 64
  let own := if core % 4 = 0 then [(rb, 64)] else []
  .next (thrIssue s core k 0x500 w
    { Use.none with f1 := true, f2 := true, f3 := true, f4 := true, control := 0xFF8F0000#32, imm := true }
    Writes.none (tupdFixed w)
    ((sreg x w.f1).toNat % 4096 == 0 && decide (1 ≤ n) && decide (n ≤ 2 ^ 24)
      && floorOk (sreg x w.f2).toNat (4 * n) && rb % 64 == 0
      && (!inWindow x rb 64 || ruleBlockOk w blk n))
    (inWindow x rb 64) (interlocked x own []) own [] none)

end Sys2Proof.Machine
end

