-- ==== Sys2Proof/Machine/Routine.lean ====
section
/-!
DEFINITION. Collective points, RTN instructions, decisions and gleaning (R134, R135, R163, R164, R171,
R175, R180 to R189, R191, R192, R195 to R200). Which half of a call a send or a wait belongs to, and
the draw positions of RNARW, are readings of log entry 17.
-/
namespace Sys2Proof.Machine

/-! ### The geometry of a call (R171, R174, R175, R195) -/

/-- Elements of a format in `n` bytes. -/
def elemsIn (f n : Nat) : Nat := n * 8 / wireBits f
/-- Elements of the handed range. -/
def handedCount (r : RoutineCall) : Nat := elemsIn r.fmt r.bytes
/-- Members that share the data in a level or round. -/
def roundMembers (s : State) (core g l : Nat) (round2 : Bool) : Nat :=
  if gTwoRounds (coreAt s core) g l && !round2 then (gHall (coreAt s core) g).2.2.2
  else (gMembers s core g l).length
/-- Format code of the pieces of a level: the handed one at the die level (R175). -/
def pieceFmt (c : CoreState) (r : RoutineCall) (l : Nat) (gather : Bool) : Nat :=
  if l = 0 then r.fmt else if gather then gGather c r.group l else gWire c r.group l
/-- Bytes of `n` elements as a piece travels (R195). -/
def travelBytes (f n : Nat) : Nat :=
  roundUp ((n * wireBits f + 7) / 8) 64
    + (match fmtOfCode f with | some m => if fmtIsMx m then roundUp (n / 32) 64 else 0 | none => 0)
/-- Bytes of one piece of a level or round. -/
def pieceBytes (s : State) (core : Nat) (r : RoutineCall) (l : Nat) (round2 gather : Bool) : Nat :=
  if r.scalar then 64
  else travelBytes (pieceFmt (coreAt s core) r l gather)
    (enteringCount s core r.group r.mask (handedCount r) l / max 1 (roundMembers s core r.group l round2))
/-- R171: the data that enters a level divides into pieces of whole 32-element blocks. -/
def dividesOk (s : State) (core : Nat) (r : RoutineCall) (l : Nat) : Bool :=
  let n := enteringCount s core r.group r.mask (handedCount r) l
  r.scalar || n % (32 * max 1 (gMembers s core r.group l).length) == 0
/-- Position in the handed range of the first element that enters a level on this core. -/
def enteringStart (s : State) (core : Nat) (r : RoutineCall) (l : Nat) : Nat :=
  (((levelsOf r.mask).filter (· < l)).foldl (fun (a : Nat × Nat) i =>
    let piece := a.2 / max 1 (gMembers s core r.group i).length
    (a.1 + (gRank s core r.group i).getD 0 * piece, piece)) (0, handedCount r)).1
/-- The name of a slot write of this core. -/
def slotName (s : State) (core : Nat) (r : RoutineCall) (l : Nat) (round2 gather notice : Bool)
    (slot : Nat) : SlotName :=
  { group := r.group, key := BitVec.ofNat 32 (gKey (coreAt s core) r.group), call := r.call,
    level := l, round2 := round2, slot := slot, rank := (gRank s core r.group l).getD 0,
    gather := gather, notice := notice }
/-- The calling instruction gathers only (R144). -/
def callGathers (r : RoutineCall) : Bool := r.caller.op == 0x101 || r.caller.op == 0x102
/-- The next send or wait at a level and round belongs to the gather half (log entry 17). -/
def inGather (r : RoutineCall) (l : Nat) (round2 : Bool) : Bool :=
  callGathers r || r.waited.contains (l, round2)
/-- A piece of a slot has landed whole. -/
def slotHeld (s : State) (core k : Nat) (r : RoutineCall) (l : Nat) (round2 gather : Bool) (slot : Nat) :
    Option Landed :=
  (coreAt s core).landed.find? fun p =>
    p.ctx == k && p.name.group == r.group && p.name.call == r.call && p.name.level == l
      && p.name.round2 == round2 && p.name.gather == gather && p.name.slot == slot
      && decide (pieceBytes s core r l round2 gather ≤ p.bytes)
/-- A piece of a slot was refused as too far ahead (R178). -/
def slotWasRefused (s : State) (core : Nat) (r : RoutineCall) (l : Nat) (round2 : Bool) (slot : Nat) : Bool :=
  (coreAt s core).refusedAhead.any fun n =>
    n.group == r.group && n.call == r.call && n.level == l && n.round2 == round2 && n.slot == slot

/-! ### The collective point (R134, R197) -/

/-- Global address of a near-memory offset on a core's die. -/
def nearAddr (s : State) (core off : Nat) : DWord :=
  BitVec.ofNat 64 (s.moduleId * 2 ^ 48 + dieOf core * 2 ^ 41 + 2 ^ 37 + off)
/-- The carry parity of a core's cove. -/
def parityOf (s : State) (core : Nat) : Bool :=
  match coveOfCore s core with | some c => (coveAt s c).parity | none => false
/-- The registers that R197 loads; s30 and s31 are free values. -/
def loadArgs (s : State) (core : Nat) (r : RoutineCall) (x : Ctx) : Ctx :=
  let c := coreAt s core
  let p := parityOf s core
  let x := setSreg x 24#5 (BitVec.ofNat 64 (r.call % 2 ^ 32 + 2 ^ 32 * natOf p))
  let x := setSreg x 25#5 (nearAddr s core (carryHalf c r.group false r.call p))
  let x := setSreg x 26#5 (nearAddr s core (carryHalf c r.group false r.call (!p)))
  let x := setSreg x 27#5 (nearAddr s core (carryHalf c r.group true r.call p))
  let x := setSreg x 28#5 (nearAddr s core (carryHalf c r.group true r.call (!p)))
  let x := setSreg x 29#5 (BitVec.ofNat 64 r.anchor)
  let x := setSreg x 30#5 (Config.freeDWord s.free)
  setSreg x 31#5 (Config.freeDWord (s.free + 1))
/-- The scalar cell of R197: value, flag, zeros. -/
def cellBytes (r : RoutineCall) : List Byte :=
  leOut 4 r.cell.toNat ++ leOut 4 (natOf r.cellFlag) ++ List.replicate 56 0#8
/-- A piece of the call has landed with LATE status (R182). -/
def landedLate (c : CoreState) (k g call : Nat) : Bool :=
  c.landed.any fun p => p.ctx == k && p.name.group == g && p.name.call == call && p.late
/-- R134, R197, COLLECTIVE_POINT: the oldest recorded point of a context that owns its cluster and
runs no routine: its arrival, which reports and clears the wain status (R154), the level check of R196 and the routine's
start. A wait of the main stream is put aside until the routine returns (R134, R155). -/
def execCollectivePoint (core k : Nat) (s : State) : Result :=
  let x := ctxAt s core k
  match x.points with
  | [] => .next s
  | p :: rest =>
    if x.routine.isSome || (clusterAt s (clusterOf core)).owner != some k || x.mode != .running
        || grantsNothing s (coveNum (coveOfCore s core)) then .next s
    else
      let c := coreAt s core
      let s := setCtx s core k { x with points := rest }
      let e := routineEntry c p.routine
      if (p.mask &&& e.2.2.2) ≠ p.mask then .next (operandFault s core k p.caller.addr p.caller.op)
      else
        let d := gDeadline c p.group (highest p.mask) true x.anchor
        let a := arrive s core k p.caller.addr p.group p.mask p.call d
        if !a.1 then .next a.2
        else
          let s := a.2
          let work := (gWork c p.group).1
          let r := { p with
            retPc := (ctxAt s core k).pc, start := e.1, len := e.2.1, anchor := x.anchor,
            late := landedLate (coreAt s core) k p.group p.call,
            elem := if p.scalar then work else p.elem, bytes := if p.scalar then 64 else p.bytes,
            startTick := s.tide.now }
          let s := if p.scalar then scratchWrite s core (winAddr x work) (cellBytes p) else s
          let s := updCtx s core k fun x =>
            loadArgs s core r { x with
              routine := some r, pc := e.1, count := 0, wainStatus := .done, wait := none,
              mainWait := x.wait.map fun w => (w, x.waitStart, x.waitSwitched) }
          .next { s with free := s.free + 2 }

/-! ### RRET, RARG, RSEND, RGLEAN -/

/-- A queued vector instruction reads or writes the register (R97). -/
def vregBusy (x : Ctx) (r : BitVec 5) : Bool :=
  (x.vecQ.flatMap (·.vreads)).contains r || (x.vecQ.filterMap (·.vwrite)).contains r
/-- Take back a scalar cell at RRET (R197): lane 0 of the destination, or the running state. -/
def returnCell (s : State) (core k : Nat) (r : RoutineCall) : State :=
  if !r.scalar then s
  else
    let x := ctxAt s core k
    let b := memRead (coreAt s core).scratch (winAddr x r.elem) 8
    let v := BitVec.ofNat 32 (leVal (b.take 4))
    let flag := bitOf (leVal (b.drop 4)) 0
    if r.caller.op = 0x501 then tssqReturn s core k v flag
    else updCtx s core k fun x =>
      setLanes x r.caller.fields.f1.toNat 0 (v :: List.replicate 255 0#32)
/-- The gathered tile of a call may fill now (R144). -/
def markReady (r : RoutineCall) (t : Issued) : Issued :=
  if t.addr = r.caller.addr ∧ t.call = r.call ∧ callGathers r then { t with ready := true } else t
/-- R134, R163, R180, RRET: the calling instruction completes and the main stream resumes. -/
def execRret (core k : Nat) (w : Fields) (s : State) : Result :=
  let x := ctxAt s core k
  let reads := match x.routine with | some r => if r.scalar then [(r.elem, 64)] else [] | none => []
  let lane0 := match x.routine with
    | some r => r.scalar && r.caller.op != 0x501 && vregBusy x r.caller.fields.f1 | none => false
  .next (issue s core k 0x600 w Use.none Writes.none true true true
    (stallOf false (interlocked x reads [] || lane0)) fun s =>
      match (ctxAt s core k).routine with
      | none => s
      | some r =>
        let s := returnCell s core k r
        let c := coreAt s core
        let d := gDeadline c r.group (highest r.mask) true r.anchor
        let s := updCtx s core k fun x =>
          { x with
            routine := none, anchor := d,
            callsDone := Sparse.set 0 x.callsDone r.group (r.call + 1),
            matQ := x.matQ.map (markReady r),
            wait := x.mainWait.map (·.1), waitStart := (x.mainWait.map (·.2.1)).getD x.waitStart,
            waitSwitched := (x.mainWait.map (·.2.2)).getD false, mainWait := none }
        let s := updCore s core fun c =>
          let piece := fun (p : Landed) => p.ctx == k && p.name.group == r.group && p.name.call == r.call
          let note := fun (n : Notice) =>
            n.ctx == k && n.key.toNat == gKey c r.group && n.call == r.call
          { c with landed := c.landed.filter (fun p => !piece p),
                   notices := c.notices.filter fun n => !note n }
        settleWait (retire s core k r.retPc) core k)
/-- The arguments of R163. -/
def routineArg (r : RoutineCall) (n : Nat) : Nat :=
  match n with
  | 0 => r.elem
  | 1 => r.scale
  | 2 => r.bytes
  | 3 => r.fmt
  | 4 => r.caller.fields.imm.toNat
  | 5 => r.group
  | 6 => r.mask
  | _ => r.caller.addr
/-- R163, RARG: selectors 8 to 15 are reserved. -/
def execRarg (core k : Nat) (w : Fields) (s : State) : Result :=
  .next (issueNext s core k 0x601 w { Use.none with f1 := true, tail := 0x000F#16 }
    { Writes.none with sreg := some w.f1 } true (decide (bitsOf w.tail.toNat 3 0 < 8)) true none fun s =>
      updCtx s core k fun x =>
        match x.routine with
        | some r => setSreg x w.f1 (BitVec.ofNat 64 (routineArg r (bitsOf w.tail.toNat 3 0)))
        | none => x)
/-- The level that tail [1:0] names. -/
def rtnLevel (w : Fields) : Nat := bitsOf w.tail.toNat 1 0
/-- The level is in the calling instruction's mask. -/
def levelNamed (x : Ctx) (w : Fields) : Bool := bitOf (callMask x) (rtnLevel w)
/-- Receive slot of an RSEND; slots from 32 up of a two-round level are round two's. -/
def sendSlot (w : Fields) : Nat := bitsOf w.tail.toNat 7 2
/-- Global address of a peer's receive slot (R168, R170): by core at the die and module levels, by
module and cove rank above. -/
def peerAddr (s : State) (core g l rank off : Nat) : Nat :=
  match (gMembers s core g l)[rank]? with
  | none => 0
  | some m =>
    if l < 2 then scratchAddr s.moduleId m off
    else scratchAddr m ((rankOf (coveAt s (coveNum (coveOfCore s core))) core).getD 0) off
/-- R163, R171, R178, RSEND: the range goes to the peer's receive slot through the wain. A rank that the level does not
have is an operand fault (DESIGN CHOICE, log entry 79). -/
def execRsend (core k : Nat) (w : Fields) (s : State) : Result :=
  let x := ctxAt s core k
  let l := rtnLevel w
  let src := (sreg x w.f2).toNat
  let n := (sreg x w.f3).toNat
  let rank := (sreg x w.f4).toNat
  let g := match x.routine with | some r => r.group | none => 0
  .next (issueNext s core k 0x602 w
    { Use.none with f2 := true, f3 := true, f4 := true, control := 0x0F000000#32, tail := 0x00FF#16 }
    Writes.none true
    (levelNamed x w && decide (1 ≤ wainClass w) && decide (wainClass w ≤ 10) && wainLenOk 0 n
      && src % 64 == 0 && decide (rank < (gMembers s core g l).length)
      && (match x.routine with | some r => dividesOk s core r l | none => true))
    (inWindow x src n) (stallOf (decide (32 ≤ x.wainQ.length)) (interlocked x [(src, n)] [])) fun s =>
      match (ctxAt s core k).routine with
      | none => s
      | some r =>
        let round2 := decide (32 ≤ sendSlot w) && gTwoRounds (coreAt s core) g l
        let gather := inGather r l round2
        let dst := peerAddr s core g l rank (gSlotAddr s core g l gather r.call (sendSlot w))
        updCtx s core k fun x =>
          let x := enqueueWain x
            { op := 0x102, addr := x.pc, src := sreg x w.f2, dst := BitVec.ofNat 64 dst, len := n,
              ret := none, localSrc := true, localDst := false, cls := wainClass w,
              slot := some (slotName s core r l round2 gather false (sendSlot w)), moved := 0,
              status := .done, awaiting := 0, leaves := 0, tick := s.tide.now, seq := 0 }
          { x with routine := some { r with classes := Sparse.set 0 r.classes l (wainClass w) } })
/-- R163, RGLEAN: a copy to the gleaning buffer, in the class of the call's last send (log entry 17). -/
def execRglean (core k : Nat) (w : Fields) (s : State) : Result :=
  let x := ctxAt s core k
  let src := (sreg x w.f2).toNat
  let n := (sreg x w.f3).toNat
  let cls := match x.routine with
    | some r => (r.classes.getLast?.map (·.2)).getD 1 | none => 1
  .next (issueNext s core k 0x606 w { Use.none with f1 := true, f2 := true, f3 := true } Writes.none true
    (wainLenOk 0 n && src % 64 == 0 && (sreg x w.f1).toNat % 64 == 0) (inWindow x src n)
    (stallOf (decide (32 ≤ x.wainQ.length)) (interlocked x [(src, n)] [])) fun s =>
      updCtx s core k fun x => enqueueWain x
        { op := 0x106, addr := x.pc, src := sreg x w.f2, dst := sreg x w.f1, len := n, ret := none,
          localSrc := true, localDst := false, cls := cls, slot := none, moved := 0, status := .done,
          awaiting := 0, leaves := 0, tick := s.tide.now, seq := 0 })

/-! ### Notices and decisions (R179, R184 to R189) -/

/-- Key of a gleaned count: group, call, level and round, half of the carry (R189, R193). -/
def gleanKey (g call l : Nat) (round2 half : Bool) : Nat :=
  ((g * 65536 + call) * 8 + 2 * l + natOf round2) * 2 + natOf half
/-- The count that a carry half holds; one that a restore brought has a free value (log entry 80). -/
def gleanedAt (c : CoreState) (key : Nat) : Nat :=
  match Sparse.get none c.gleanCounts key, c.gleanOpen with
  | some n, _ => n
  | none, some t => (Config.freeDWord (t + key)).toNat % 2 ^ 32
  | none, none => 0
/-- R185, R189: the count of this core's data at a level: the last decision's sum, or the product of
the member counts below, with the gleaned count of the read half. -/
def ownCount (s : State) (core k : Nat) (r : RoutineCall) (l : Nat) (round2 : Bool) : Nat :=
  let c := coreAt s core
  let x := ctxAt s core k
  let base := if x.count = 0 then
      ((levelsOf r.mask).filter (· < l)).foldl (fun a i => a * (gMembers s core r.group i).length) 1
    else x.count
  base + (if gGlean c r.group = 1 then
      gleanedAt c (gleanKey r.group r.call l round2 (parityOf s core)) else 0)
/-- Other slots of a level or round. -/
def otherSlots (s : State) (core g l : Nat) (round2 : Bool) : List (Nat × Nat) :=
  (gSlots s core g l round2).filter (·.1 ≠ gOwnSlot s core g l round2)
/-- The notice's bytes (R179); the absence mask names the expected slots not held, whole and un-LATE, at the deadline. -/
def noticeBytes (s : State) (core k : Nat) (r : RoutineCall) (l : Nat) (round2 late : Bool) (expected : Nat) :
    List Byte :=
  let own := gOwnSlot s core r.group l round2
  let absent := (bitsSet expected 64).filter fun j => j ≠ own &&
    (match slotHeld s core k r l round2 false j with
     | some p => p.late || decide (gDeadline (coreAt s core) r.group l round2 r.anchor < p.tick)
     | none => true)
  let step := match coveOfCore s core with | some c => (coveAt s c).step.toNat | none => 0
  leOut 4 r.call ++ leOut 1 (l + 4 * natOf round2 + 128 * natOf late) ++ leOut 1 own ++ leOut 2 0
    ++ leOut 8 (maskOf absent) ++ leOut 8 step ++ leOut 4 (ownCount s core k r l round2)
    ++ leOut 4 (gKey (coreAt s core) r.group) ++ List.replicate 32 0#8
/-- R184: write the notice into the own bank and send it to every other member of the level or
round, in the class of the call's last RSEND at the level; a call that has sent nothing there yet uses class 1 (DESIGN
CHOICE, log entry 80). -/
def sendNotice (s : State) (core k : Nat) (r : RoutineCall) (l : Nat) (round2 late : Bool) (expected : Nat) :
    State :=
  let own := gOwnSlot s core r.group l round2
  let n := slotName s core r l round2 false true own
  let off := gNoticeAddr s core r.group l r.call own
  let bs := noticeBytes s core k r l round2 late expected
  let x := ctxAt s core k
  let others := otherSlots s core r.group l round2
  let s := scratchWrite s core (winAddr x off) bs
  let s := updCore s core fun c => { c with notices := c.notices ++ [noticeOf bs n k false] }
  forEach s others fun s p =>
    let addr := peerAddr s core r.group l p.2 off
    if l < 2 then
      match (gMembers s core r.group l)[p.2]? with
      | none => s
      | some m =>
        (match ctxOfTag s m x.jobTag with
         | some j => (slotLand s m j n off bs false).2
         | none => s)
    else
      let cls := Sparse.get 0 r.classes l
      let cls := if cls = 0 then 1 else cls
      let c := coveNum (coveOfCore s core)
      queueOut s ⟨dieOf core, some c, cls, none, true,
        { dataPacket s 1 0 (coveGenOf s c (dieOf core)) cls core 0 0 x.jobTag addr bs with slot := some n }⟩
/-- The notices of a call's level or round in a core's bank. -/
def bankNotices (s : State) (core k : Nat) (r : RoutineCall) (l : Nat) (round2 : Bool) : List Notice :=
  (coreAt s core).notices.filter fun n =>
    n.ctx == k && n.call == r.call && n.level == l && n.round2 == round2
      && n.key.toNat == gKey (coreAt s core) r.group

/-- Bytes of the forced-decision table of a cove, when it lies in the cove's units (R572). -/
def forcedRecords (s : State) (c : Nat) : List (List Byte) :=
  let n := bitsOf (regAt s (cvReg c 0xB0)).toNat 31 8
  match coveRange s c (cvReg c 0xA8) (64 * n) with
  | some off => (List.range n).map fun i => hbmRead s (off + 64 * i) 64
  | none => []
/-- The core that writes a decision's record: the lowest of this module's cores among those that took part (R187). -/
def writerOf (s : State) (core g l : Nat) : Nat :=
  if 2 ≤ l then core else (gMembers s core g l).foldl min core
/-- The forced record of a call, level and round in this step that is this core's, by its writer: mask and count (R187,
R188). -/
def forcedFor (s : State) (c core : Nat) (r : RoutineCall) (l : Nat) (round2 : Bool) : Option (Nat × Nat) :=
  let f := fun (b : List Byte) o w => leVal ((b.drop o).take w)
  ((forcedRecords s c).find? fun b =>
    f b 0 8 == (coveAt s c).step.toNat && f b 8 4 == r.call && f b 0x0C 4 == gKey (coreAt s core) r.group
      && bitsOf (f b 0x1E 1) 1 0 == l && bitOf (f b 0x1E 1) 2 == round2
      && f b 0x1C 2 == writerOf s core r.group l).map
    fun b => (f b 0x10 8, f b 0x18 4)

/-- The set P of R185 as slots. -/
def decisionOf (s : State) (core k : Nat) (r : RoutineCall) (l : Nat) (round2 : Bool) : List Nat :=
  let ns := bankNotices s core k r l round2
  ((gSlots s core r.group l round2).map (·.1)).filter fun j =>
    (ns.any fun n => n.sender == j && !n.lateNotice && !n.lateStatus)
      && !(ns.any fun n => bitOf n.absence j)
/-- The decision record (R187). -/
def decisionBytes (s : State) (c core k : Nat) (r : RoutineCall) (l : Nat) (round2 forced : Bool) (mask count : Nat) :
    List Byte :=
  let e := coreAt s core
  let b := leOut 8 (coveAt s c).step.toNat ++ leOut 4 r.call ++ leOut 4 (gKey e r.group) ++ leOut 8 mask
    ++ leOut 4 count ++ leOut 2 core
    ++ leOut 1 (l + 4 * natOf round2 + 8 * natOf forced + 16 * gGlean e r.group) ++ leOut 1 r.group
    ++ leOut 8 (gVote s core r.group l round2 r.anchor) ++ leOut 4 r.caller.fields.imm.toNat
    ++ leOut 4 (ctxAt s core k).jobTag.toNat
    ++ leOut 4 (natOf (coveAt s c).parity + 16 * coveGenOf s c (dieOf core)) ++ List.replicate 8 0#8
  b ++ leOut 4 (crcOf b)
/-- R187: log a decision that left out a member, or count it as unlogged. -/
def logDecision (s : State) (c : Nat) (bytes : List Byte) : State :=
  let v := coveAt s c
  let s := updStats s c fun t =>
    { t with firstDecision := if t.decisions = 0 then v.clogWr else t.firstDecision }
  let stored := match coveRange s c (cvReg c 0x80) (4 * 2 ^ 20) with
    | some off => if v.clogEn ∧ v.clogWr - v.clogRd < 65536 then some off else none
    | none => none
  match stored with
  | some off =>
    updStats (updCove (hbmStore s (off + 64 * (v.clogWr % 65536)) bytes) c fun v =>
      { v with clogWr := v.clogWr + 1 }) c fun t => { t with decisions := t.decisions + 1 }
  | none =>
    let first := v.stats.unlogged == 0 && v.clogEn && decide (65536 ≤ v.clogWr - v.clogRd)
    let s := updCove s c fun v => { v with clogLost := satTo 32 (v.clogLost + 1) }
    let s := updStats s c fun t => { t with unlogged := t.unlogged + 1 }
    if first then recordCove s 0x5020 .corrected c [] else s
/-- R189, R190: what a decision does to this core: its gleaned count and the counters. -/
def noteGlean (s : State) (c core k : Nat) (r : RoutineCall) (l : Nat) (round2 inP : Bool) : State :=
  let i := levelIdx l round2
  let e := coreAt s core
  let key := gleanKey r.group r.call l round2 (!parityOf s core)
  let n := ownCount s core k r l round2
  if gGlean e r.group = 1 then
    let s := updCore s core fun x =>
      { x with gleanCounts := Sparse.set none x.gleanCounts key (some (if inP then 0 else n)) }
    if inP then s
    else bumpCoveSet (updStats s c fun t => { t with gleaned := bumpAt t.gleaned i 1 }) (some c) (16 + i) 1
  else if inP then s
  else bumpCoveSet (updStats s c fun t => { t with dropped := bumpAt t.dropped i 1 }) (some c) (20 + i) 1
/-- Form the decision of a waiting core (R185 to R190): its counts, its record, its failure. -/
def decide_ (s : State) (core k : Nat) (r : RoutineCall) (rd l : Nat) (round2 : Bool)
    (expected : Nat) (dl limit : Tick) (late : Bool) : State :=
  match coveOfCore s core with
  | none => s
  | some c =>
    let all := (gSlots s core r.group l round2).map (·.1)
    let own := gOwnSlot s core r.group l round2
    let ns := bankNotices s core k r l round2
    let forced := (coveAt s c).forced
    let rec_ := if forced then forcedFor s c core r l round2 else none
    let p := if forced then
        (match rec_ with | some m => all.filter fun j => bitOf m.1 j | none => all)
      else decisionOf s core k r l round2
    let sum := (p.map fun j => match ns.find? fun n => n.sender == j with
        | some n => n.count | none => ownCount s core k r l round2).foldl (· + ·) 0
    let count := match rec_ with | some m => m.2 | none => sum
    let out := all.length - p.length
    let i := levelIdx l round2
    let writer := writerOf s core r.group l == core
    let s := noteGlean s c core k r l round2 (p.contains own)
    let s := if 0 < out ∧ writer then
        let s := bumpCoveSet (updStats s c fun t => { t with leftOut := bumpAt t.leftOut i out }) (some c) (12 + i) out
        logDecision s c (decisionBytes s c core k r l round2 forced (maskOf p) count)
      else s
    let s := if p = [] then callFails s core 0x5011 (callKey r.group r.call) else s
    let s := if p.any fun j => j ≠ own && slotWasRefused s core r l round2 j then
        callFails s core 0x5012 (callKey r.group r.call) else s
    updCtx s core k fun x =>
      { x with count := count,
               wait := some (.slots rd l round2 expected dl limit late (some (maskOf p))) }

/-- The bits of a mask whose pieces have not come: not the own slot, not landed whole; at a voted level a piece refused
as too far ahead is not waited for, since the decision has failed (R182, R184, R186). -/
def missingSlots (s : State) (core k : Nat) (r : RoutineCall) (l : Nat) (round2 gather voted : Bool) (mask : Nat) :
    List Nat :=
  (bitsSet mask 64).filter fun j =>
    j ≠ gOwnSlot s core r.group l round2 && (slotHeld s core k r l round2 gather j).isNone
      && !(voted && slotWasRefused s core r l round2 j)
/-- The cove decides from a table (R188), and this call, level and round have no record in it. -/
def unrecorded (s : State) (core : Nat) (r : RoutineCall) (l : Nat) (round2 : Bool) : Bool :=
  match coveOfCore s core with
  | some c => (coveAt s c).forced && (forcedFor s c core r l round2).isNone
  | none => false
/-- Members of a mask whose notices have not come. -/
def missingNotices (s : State) (core k : Nat) (r : RoutineCall) (l : Nat) (round2 : Bool) (mask : Nat) : List Nat :=
  (bitsSet mask 64).filter fun j => !((bankNotices s core k r l round2).any fun n => n.sender == j)
/-- The sum of the counts of a mask's members (R185). -/
def noticeCount (s : State) (core k : Nat) (r : RoutineCall) (l : Nat) (round2 : Bool) (mask : Nat) : Nat :=
  ((bitsSet mask 64).map fun j => match (bankNotices s core k r l round2).find? fun n => n.sender == j with
    | some n => n.count | none => 0).foldl (· + ·) 0
/-- End an RWAIT with a mask: the register, the record of R538 and the half it closed. -/
def endSlots (s : State) (core k : Nat) (r : RoutineCall) (rd l : Nat) (round2 gather late : Bool)
    (expected mask : Nat) : State :=
  let out := (bitsSet expected 64).filter fun j => !bitOf mask j
  let lastSlot := match ((coreAt s core).landed.filter fun p =>
      p.ctx == k && p.name.call == r.call && p.name.group == r.group && p.name.level == l
        && p.name.round2 == round2 && p.name.gather == gather).getLast? with
    | some p => some p.name.slot | none => none
  let awaited := match out.head? with | some j => some j | none => lastSlot
  let member := awaited.bind fun j => gSlotMember s core r.group l round2 j
  let rank := (rankOf (coveAt s (coveNum (coveOfCore s core))) core).getD 0xFFFF
  let s := traceWait s core { waitRec s core k 2 with
    level := l, round2 := round2, afterDeadline := late, call := r.call, group := r.group,
    slot := awaited.getD 0xFF,
    module := match member with | some m => if l < 2 then s.moduleId else m | none => 0xFFFF,
    core := match member with | some m => if l < 2 then m else rank | none => 0xFFFF }
  updCtx s core k fun x =>
    let x := setSreg { x with wait := none, waitSwitched := false } (BitVec.ofNat 5 rd) (BitVec.ofNat 64 mask)
    { x with routine := some { r with
        late := r.late || late,
        waited := if gather then r.waited else r.waited ++ [(l, round2)] } }
/-- R182, R184, R186: go on with an RWAIT: return when the pieces are here, mark the call late after
the deadline, fail it at the limit. In forced mode without a record the count needs every member's notice (R185, R188;
DEDUCED, log entry 79). The context must own its cluster. -/
def settleSlots (s : State) (core k : Nat) : State :=
  let x := ctxAt s core k
  match x.wait, x.routine with
  | some (.slots rd l round2 expected dl limit late decided), some r =>
    if (clusterAt s (clusterOf core)).owner != some k then s
    else
      let gather := match r.last with | some p => p.2.2 | none => false
      let voted := bitOf (gOmit (coreAt s core) r.group) l && !gather
      let target := if voted then decided else some expected
      match target with
      | none => s
      | some mask =>
        let now := ctxNow s core
        let forced := match coveOfCore s core with | some c => (coveAt s c).forced | none => false
        let noRecord := voted && unrecorded s core r l round2
        let missing := missingSlots s core k r l round2 gather voted mask
          ++ (if noRecord then missingNotices s core k r l round2 mask else [])
        let isLate := late || ((!voted || forced) && decide (dl < now))
        if missing = [] then
          let s := if noRecord then updCtx s core k fun x =>
              { x with count := noticeCount s core k r l round2 mask } else s
          let s := if gather && decide (dl < now) then bumpCoveSet s (coveOfCore s core) 11 1 else s
          endSlots s core k r rd l round2 gather isLate expected mask
        else if limit ≤ now then
          endSlots (callFails s core 0x5013 (callKey r.group r.call)) core k r rd l round2 gather true
            expected (mask - maskOf missing)
        else if isLate && !late then
          updCtx s core k fun x =>
            { x with wait := some (.slots rd l round2 expected dl limit true decided),
                     routine := some { r with late := true } }
        else s
  | _, _ => s

/-- R163, R182, R184, RWAIT. A core that comes after the deadline of an omit level sends a late notice
and decides at once; in forced mode it decides from the table (R188). -/
def execRwait (core k : Nat) (w : Fields) (s : State) : Result :=
  let x := ctxAt s core k
  .next (issueNext s core k 0x603 w { Use.none with f1 := true, f2 := true, tail := 0x0003#16 }
    { Writes.none with sreg := some w.f1 } true (levelNamed x w) true none fun s =>
      match (ctxAt s core k).routine with
      | none => s
      | some r =>
        let c := coreAt s core
        let l := rtnLevel w
        let expected := (sreg (ctxAt s core k) w.f2).toNat
        let round2 := gTwoRounds c r.group l && decide (2 ^ 32 ≤ expected)
        let gather := inGather r l round2
        let dl := if gather then gDeadline c r.group (highest r.mask) true r.anchor
          else gDeadline c r.group l round2 r.anchor
        let limit := if gather then gTopLimit c r.group r.mask r.anchor else gLimit c r.group l round2 r.anchor
        let r := { r with last := some (l, round2, gather) }
        let rd := w.f1.toNat
        let s := updCtx s core k fun x =>
          { x with routine := some r, waitStart := s.tide.now, waitSwitched := false,
                   wait := some (.slots rd l round2 expected dl limit false none) }
        let voted := bitOf (gOmit c r.group) l && !gather
        let forced := match coveOfCore s core with | some v => (coveAt s v).forced | none => false
        let late := decide (dl < ctxNow s core)
        let s := if voted && (late || forced) then
            let s := if late then sendNotice s core k r l round2 late expected else s
            decide_ s core k r rd l round2 expected dl limit late
          else s
        settleSlots s core k)

/-- R184, ARRIVAL_DEADLINE: the deadline of the level a context waits at has passed: a core waiting at
an omit level sends its notice once; an SARRIVE completes (R155). -/
def execArrivalDeadline (core k : Nat) (s : State) : Result :=
  let x := ctxAt s core k
  match x.wait, x.routine with
  | some (.slots _ l round2 expected dl _ _ _), some r =>
    let voted := bitOf (gOmit (coreAt s core) r.group) l
      && !(match r.last with | some p => p.2.2 | none => false)
    let own := gOwnSlot s core r.group l round2
    let sent := (bankNotices s core k r l round2).any fun n => n.sender == own
    if ctxNow s core < dl then .next s
    else if voted && !sent then .next (settleSlots (sendNotice s core k r l round2 false expected) core k)
    else .next (settleSlots s core k)
  | _, _ => .next (settleWait s core k)
/-- R185, VOTE_TICK: at the vote tick a waiting core decides from the notices in its bank. -/
def execVoteTick (core k : Nat) (s : State) : Result :=
  let x := ctxAt s core k
  match x.wait, x.routine with
  | some (.slots rd l round2 expected dl limit late none), some r =>
    let voted := bitOf (gOmit (coreAt s core) r.group) l
      && !(match r.last with | some p => p.2.2 | none => false)
    let own := gOwnSlot s core r.group l round2
    let sent := (bankNotices s core k r l round2).any fun n => n.sender == own
    if !voted || decide (ctxNow s core < gVote s core r.group l round2 r.anchor) then .next s
    else
      let s := if sent then s else sendNotice s core k r l round2 false expected
      .next (settleSlots (decide_ s core k r rd l round2 expected dl limit late) core k)
  | _, _ => .next s
/-- R182, R186, COLLECTIVE_LIMIT: the limit of the level passed with a piece missing. -/
def execCollectiveLimit (core k : Nat) (s : State) : Result := .next (settleSlots s core k)

/-! ### RRED and RNARW (R163, R165, R191, R192) -/

/-- Element `i` of a plane of `n` elements at a window offset, with its scale plane behind the padded element plane
(R195), as FP32. -/
def travelElem (m : Memory) (base : Nat) (f : Fmt) (off n i : Nat) : Word :=
  let v := decodeElem f (elemAt m (base + off) (fmtBits f) i)
  toF32 (if fmtIsMx f then
      scaleVal (memByte m (base + off + roundUp (planeBytes f n) 64 + i / 32)).toNat v else v)
/-- Conversions of FP32 values into a format, with MX scale bytes; each value comes with its draw. -/
def travelConvs (f : Fmt) (r : Rnd) (vs : List (Word × Nat)) : List Conv × List Nat :=
  if fmtIsMx f then
    let blocks := (List.range (vs.length / 32)).map fun b =>
      quantiseBlock f r (((vs.drop (32 * b)).take 32).map fun p => (ofF32 p.1, p.2))
    (blocks.flatMap (·.2), blocks.map (·.1))
  else (vs.map fun p => convElem f r true p.2 (ofF32 p.1), [])
/-- Write converted elements from position `lo` of a piece of `n`, and their scales, as a piece travels. -/
def travelWrite (s : State) (core base off : Nat) (f : Fmt) (n lo : Nat) (out : List Conv × List Nat) : State :=
  updCore s core fun c =>
    let m := setElems c.scratch (base + off) (fmtBits f) lo (out.1.map (·.bits))
    let at_ := base + off + roundUp (planeBytes f n) 64 + lo / 32
    { c with scratch := memWrite m at_ (out.2.map (BitVec.ofNat 8)) }
/-- Ranges of `n` elements laid out as a piece. -/
def travelRange (f : Fmt) (off n : Nat) : Range :=
  (off, if fmtIsMx f then roundUp (planeBytes f n) 64 + n / 32 else planeBytes f n)
/-- The level, round and half that an RRED reads: those of the call's last RWAIT. -/
def redPlace (r : RoutineCall) : Nat × Bool × Bool :=
  match r.last with | some p => p | none => ((levelsOf r.mask).headD 0, false, callGathers r)
/-- Received and destination formats of an RRED, or the target format of an RNARW. -/
def redFmt (w : Fields) (hi : Nat) : Fmt := (fmtOfCode (ctl w hi (hi - 3))).getD .fp32
/-- The slots of an RRED as one range, from the lowest to the end of the highest: R97 lets an instruction declare four
read ranges (DEDUCED, log entry 79). -/
def redHull (w : Fields) (base size n : Nat) (slots : List Nat) : List Range :=
  match slots.head?, slots.getLast? with
  | some a, some b =>
    [(base + a * size, (b - a) * size + (travelRange (redFmt w 91) 0 n).2)]
  | _, _ => []
/-- The queue entry of an RRED: `map0` is the start of the bank and `map1` the slot size (R177). -/
def rredEntry (s : State) (core k : Nat) (w : Fields) : VecEntry :=
  let x := ctxAt s core k
  let i := issuedOf s core k 0x604 w true 0
  let n := (sreg x w.f3).toNat
  let d := travelRange (redFmt w 87) (sreg x w.f1).toNat n
  let place := match x.routine with
    | some r =>
      let p := redPlace r
      (gBank s core r.group p.1 p.2.2 r.call, gSlotSize (coreAt s core) r.group p.1 p.2.2)
    | none => (0, 0)
  { inst := i, n := n, map0 := BitVec.ofNat 64 place.1, map1 := BitVec.ofNat 64 place.2,
    reads := d :: redHull w place.1 place.2 n (bitsSet i.r2.toNat 64), writes := [d],
    vreads := [], vwrite := none, sdest := none, strokes := 0, acc := 0#32 }
/-- An element count that a plane's format allows (R59): whole blocks for MX, an even count for FP4. -/
def countFits (f : Fmt) (n : Nat) : Bool := (!fmtIsMx f || n % 32 == 0) && (f != .fp4 || n % 2 == 0)
/-- R163, R191, RRED: the destination combined with the masked slots in increasing order, in FP32; it enters the vector
queue (R88, R165). A count outside 1 to 2^23 is an operand fault (DESIGN CHOICE, log entry 79). -/
def execRred (core k : Nat) (w : Fields) (s : State) : Result :=
  let x := ctxAt s core k
  let e := rredEntry s core k w
  let n := e.n
  .next (issueNext s core k 0x604 w
    { Use.none with f1 := true, f2 := true, f3 := true, control := 0x0FF00000#32, tail := 0x0003#16 }
    Writes.none true
    (decide (ctl w 91 88 < 14) && decide (ctl w 87 84 < 14) && decide (bitsOf w.tail.toNat 1 0 < 2)
      && decide (1 ≤ n) && decide (n ≤ 2 ^ 23) && countFits (redFmt w 91) n && countFits (redFmt w 87) n
      && (match x.routine with | some r => dividesOk s core r (redPlace r).1 | none => true))
    (e.reads.all (fun r => inWindow x r.1 r.2) && routineMayWrite s core k e.writes)
    (stallOf (decide (8 ≤ x.vecQ.length)) (interlocked x e.reads e.writes)) fun s =>
      updCtx s core k fun x => { x with vecQ := x.vecQ ++ [e] })
/-- One stroke of an RRED. -/
def rredStroke (s : State) (core k : Nat) (e : VecEntry) : State :=
  let x := ctxAt s core k
  let w := e.inst.fields
  let m := (coreAt s core).scratch
  let base := winAddr x 0
  let lo := 256 * e.strokes
  let fr := redFmt w 91
  let fd := redFmt w 87
  let isMax := bitsOf w.tail.toNat 1 0 == 1
  let offs := (bitsSet e.inst.r2.toNat 64).map fun j => e.map0.toNat + j * e.map1.toNat
  let vals := (List.range (min 256 (e.n - lo))).map fun i =>
    (offs.foldl (fun acc o =>
      let v := travelElem m base fr o e.n (lo + i)
      if isMax then f32max acc v else f32add acc v)
      (travelElem m base fd e.inst.r1.toNat e.n (lo + i)), 0)
  let out := travelConvs fd .rne vals
  let s := travelWrite s core base e.inst.r1.toNat fd e.n lo out
  chargeSats (updCtx s core k fun x => noteConvs x out.1) core (satsOf out.1)
/-- Local cost of an RRED in cycles: λ = 6, k = 1, p counting every slot read (R149, R163). -/
def rredCycles (e : VecEntry) : Nat :=
  let per := fun f => (256 * fmtBits f + 4095) / 4096
  6 + (e.n + 255) / 256 * max 1 ((bitsSet e.inst.r2.toNat 64).length * per (redFmt e.inst.fields 91)
    + 2 * per (redFmt e.inst.fields 87))
/-- R175: a wire format that a level allows. -/
def wireAllowed (l f : Nat) : Bool :=
  match l with
  | 1 => f == 0 || f == 1
  | 2 => f == 1
  | 3 => f == 3 || f == 4 || f == 8 || f == 9
  | _ => false
/-- The queue entry of an RNARW: `map0` is the position in the handed range of its first element, `map1` the stream and
tensor ID of its draws (R82, R163, R192). -/
def rnarwEntry (s : State) (core k : Nat) (w : Fields) : VecEntry :=
  let x := ctxAt s core k
  let i := issuedOf s core k 0x605 w true 0
  let n := (sreg x w.f3).toNat
  let d := travelRange (redFmt w 91) (sreg x w.f1).toNat n
  let src := (sreg x w.f2).toNat
  let stub := (sreg x w.f4).toNat
  let place := match x.routine with
    | some r => (enteringStart s core r (rtnLevel w), streamId (rtnLevel w + 1) r.caller.fields.imm.toNat)
    | none => (0, 0)
  { inst := i, n := n, map0 := BitVec.ofNat 64 place.1, map1 := BitVec.ofNat 64 place.2,
    reads := [(src, 4 * n), (stub, 4 * n)], writes := [d, (stub, 4 * n)],
    vreads := [], vwrite := none, sdest := none, strokes := 0, acc := 0#32 }
/-- R163, R192, RNARW: x' = RNE(x + s), y narrowed with SR in the level's stream, s = RNE(x' - y); it enters the vector
queue. A count outside 1 to 2^23 is an operand fault (DESIGN CHOICE, log entry 79). -/
def execRnarw (core k : Nat) (w : Fields) (s : State) : Result :=
  let x := ctxAt s core k
  let e := rnarwEntry s core k w
  .next (issueNext s core k 0x605 w
    { Use.none with f1 := true, f2 := true, f3 := true, f4 := true, control := 0x0F000000#32,
                    tail := 0x0003#16 }
    Writes.none true
    (levelNamed x w && wireAllowed (rtnLevel w) (ctl w 91 88) && decide (1 ≤ e.n) && decide (e.n ≤ 2 ^ 23)
      && countFits (redFmt w 91) e.n)
    ((e.reads ++ e.writes).all (fun r => inWindow x r.1 r.2) && routineMayWrite s core k e.writes)
    (stallOf (decide (8 ≤ x.vecQ.length)) (interlocked x e.reads e.writes)) fun s =>
      updCtx s core k fun x => { x with vecQ := x.vecQ ++ [e] })
/-- One stroke of an RNARW. -/
def rnarwStroke (s : State) (core k : Nat) (e : VecEntry) : State :=
  let x := ctxAt s core k
  let f := redFmt e.inst.fields 91
  let m := (coreAt s core).scratch
  let base := winAddr x 0
  let lo := 256 * e.strokes
  let len := min 256 (e.n - lo)
  let stub := e.inst.r4.toNat
  let f32 := fun o i => BitVec.ofNat 32 (leVal (memRead m (base + o + 4 * (lo + i)) 4))
  let xs := (List.range len).map fun i =>
    (f32add (f32 e.inst.r2.toNat i) (f32 stub i), drawFor s core k e.map1.toNat (e.map0.toNat + lo + i))
  let out := travelConvs f .sr xs
  let s := travelWrite s core base e.inst.r1.toNat f e.n lo out
  let m2 := (coreAt s core).scratch
  let left := (xs.zip (List.range len)).map fun p =>
    f32sub p.1.1 (travelElem m2 base f e.inst.r1.toNat e.n (lo + p.2))
  let s := scratchWrite s core (base + stub + 4 * lo) (left.flatMap fun v => leOut 4 v.toNat)
  chargeSats (updCtx s core k fun x =>
    let x := noteConvs x out.1
    { x with nonfinite := x.nonfinite || left.any f32nonfinite }) core (satsOf out.1)
/-- Local cost of an RNARW in cycles: λ = 12, k = 2. -/
def rnarwCycles (e : VecEntry) : Nat :=
  12 + (e.n + 255) / 256 * max 2 ((256 * (96 + fmtBits (redFmt e.inst.fields 91)) + 4095) / 4096)

end Sys2Proof.Machine
end

