-- ==== Sys2Proof/Machine/Engines.lean ====
section
/-!
DEFINITION. What the engines of a cluster do in one tick (R91, R98, R107, R118, R121, R165): the matrix engine's next
group, the vector engine's next stroke, the thresher's next access or bundle. How much work a tick brings is the model's
choice (log entry 13).
-/
namespace Sys2Proof.Machine

/-- The ranges that the next group of a streaming tile reads, by scratchpad address (R93, R94). -/
def groupReads (base : Nat) (t : Issued) (g : Nat) : List (Nat × Nat) :=
  let one := fun (f : Fmt) (op : DWord) =>
    (base + opElem op + 512 * fmtBits f * g, 512 * fmtBits f)
      :: (if fmtIsMx f then [(base + opScale op + 128 * g, 128)] else [])
  one ((matFmt t.fields 87).getD .fp32) t.r1 ++ one ((matFmt t.fields 83).getD .fp32) t.r2
/-- The group that the head tile of a core is about to stream. -/
def nextGroup (s : State) (core k : Nat) : Option (Issued × Nat) :=
  let x := ctxAt s core k
  match x.matQ with
  | t :: _ =>
    let g := (x.stream.getD TileStream.reset).groups
    if t.ready && decide (g < matK t.fields / 32) then some (t, g) else none
  | [] => none
/-- The matrix engine's tick: the next group is read through the scratchpad's code (R118), then streams. -/
def matTick (s : State) (core k : Nat) : State :=
  match nextGroup s core k with
  | none => s
  | some (t, g) =>
    let r := readScratch s core (groupReads (winAddr (ctxAt s core k) 0) t g)
    if r.1 then matStep r.2 core k else r.2

/-- The part of a scratchpad operand that the stroke at `lo` of `len` elements touches. -/
def strokePart (base lo len : Nat) : Option VecOpnd → List (Nat × Nat)
  | some (.mem f d) =>
    (base + opElem d + lo * fmtBits f / 8, (len * fmtBits f + 7) / 8)
      :: (if fmtIsMx f then [(base + opScale d + lo / 32, (len + 31) / 32)] else [])
  | some (.reg _) => []
  | none => []
/-- Scratchpad bytes that the next stroke of an instruction reads, and those that it touches at all. -/
def strokeTouches (s : State) (core k : Nat) (e : VecEntry) : List (Nat × Nat) × List (Nat × Nat) :=
  let base := winAddr (ctxAt s core k) 0
  let lo := 256 * e.strokes
  let len := min 256 (e.n - lo)
  match vecOpOf e.inst.op with
  | some o =>
    let reads := (vecSources o e.inst).flatMap (strokePart base lo len)
    if vecReduces o || o == .tos || o == .stov then (reads, reads)
    else (reads, reads ++ strokePart base lo len (vecDest o e.inst))
  | none =>
    let moved := fun (l : List (Nat × Nat)) => l.map fun p => (base + p.1, p.2)
    (moved e.reads, moved (e.reads ++ e.writes))
/-- The quarters that bytes lie in (R89). -/
def quartersOf (l : List (Nat × Nat)) : List Nat :=
  (List.range 4).filter fun q => l.any fun p =>
    decide (0 < p.2) && decide (p.1 / 2097152 ≤ q) && decide (q ≤ (p.1 + p.2 - 1) / 2097152)
/-- R91: the V port asks for a quarter that the M port uses now. -/
def portsMeet (s : State) (core k : Nat) (e : VecEntry) : Bool :=
  match nextGroup s core k with
  | some (t, g) =>
    let m := quartersOf (groupReads (winAddr (ctxAt s core k) 0) t g)
    (quartersOf (strokeTouches s core k e).2).any (m.contains ·)
  | none => false
/-- Words of the vector registers that an instruction uses. -/
def vregWords (e : VecEntry) : List Nat :=
  e.vreads.map (·.toNat) ++ (match e.vwrite with | some r => [r.toNat] | none => [])
/-- The next stroke of an RRED or RNARW (R165). -/
def rtnRun (s : State) (core k : Nat) (e : VecEntry) : State :=
  let s := if e.inst.op = 0x604 then rredStroke s core k e else rnarwStroke s core k e
  if e.n ≤ 256 * (e.strokes + 1) then
    bumpCore (updCtx s core k fun x => { x with vecQ := x.vecQ.drop 1 }) core 5
      (if e.inst.op = 0x604 then rredCycles e else rnarwCycles e)
  else updCtx s core k fun x => { x with vecQ := { e with strokes := e.strokes + 1 } :: x.vecQ.drop 1 }
/-- The vector engine's tick: one stroke of the head instruction. A quarter that the matrix engine uses costs the cycle and
adds to BANK_CONFLICT (R91); a source is read through the scratchpad's code, and a parity error in a vector register
discards the stroke, which runs again (R118). -/
def vecTick (s : State) (core k : Nat) : State :=
  match (ctxAt s core k).vecQ with
  | [] => s
  | e :: _ =>
    if portsMeet s core k e then bumpCore s core 14 1
    else
      let r := readScratch s core (strokeTouches s core k e).1
      if !r.1 then r.2
      else
        let p := (vregWords e).foldl
          (fun (a : Bool × State) v => if a.1 then parityCheck a.2 core 5 v (v + 1) else a) (true, r.2)
        if !p.1 then p.2
        else match vecOpOf e.inst.op with
          | some o => vecRun p.2 core k o e
          | none => rtnRun p.2 core k e
/-- One tick of a core's matrix and vector engines. The matrix engine's group is fixed before the vector engine asks for a
quarter. -/
def coreTick (s : State) (core k : Nat) : State :=
  if enginesRun s core k then matTick (vecTick s core k) core k else s
/-- One tick of a cluster: the engines of the context that owns it, then its thresher, which also completes the admitted
writeback of a context that has been switched out (R123). -/
def clusterTick (s : State) (cl : Nat) : State :=
  let s := match (clusterAt s cl).owner with
    | some k => if k < 4 then forEach s ((List.range 4).map (4 * cl + ·)) fun s i => coreTick s i k else s
    | none => s
  forEach s (List.range 4) fun s k => thrStep s cl k
/-- One tick of every cluster. -/
def enginesTick (s : State) : State := forEach s (s.clusters.map (·.1)) clusterTick

end Sys2Proof.Machine
end

