-- ==== Sys2Proof/Machine/Control.lean ====
section
/-!
DEFINITION. CTL instructions: scalar work and control flow (R136 to R139).
-/
namespace Sys2Proof.Machine

/-- The second source of R136: Imm sign-extended when I is 1, otherwise rB. -/
def secondSource (x : Ctx) (w : Fields) : DWord :=
  if ctlBit w 95 then w.imm.signExtend 64 else sreg x w.f3
/-- The fields of a two-source operation: with I set, Imm in place of F3 (R128, R136). -/
def aluUse (w : Fields) : Use :=
  { Use.none with f1 := true, f2 := true, f3 := !ctlBit w 95, imm := ctlBit w 95,
                  control := 0x80000000#32 }
/-- A CTL instruction that writes rD from its context (R137). -/
def ctlWrite (s : State) (core k op : Nat) (w : Fields) (u : Use) (legal : Bool)
    (value : Ctx → DWord) : State :=
  issueNext s core k op w u { Writes.none with sreg := some w.f1 } true legal true none fun s =>
    updCtx s core k fun x => setSreg x w.f1 (value x)
/-- A two-source arithmetic operation. -/
def ctlAlu (s : State) (core k op : Nat) (w : Fields) (f : DWord → DWord → DWord) : Result :=
  .next (ctlWrite s core k op w (aluUse w) true fun x => f (sreg x w.f2) (secondSource x w))

/-- R137, NOP. -/
def execNop (core k : Nat) (w : Fields) (s : State) : Result :=
  .next (issueNext s core k 0x00 w Use.none Writes.none true true true none id)
/-- R137, LI: rD = Imm, sign-extended. -/
def execLi (core k : Nat) (w : Fields) (s : State) : Result :=
  .next (ctlWrite s core k 0x01 w { Use.none with f1 := true, imm := true } true fun _ =>
    w.imm.signExtend 64)
/-- R137, LUI: rD[63:32] = Imm, the rest kept. -/
def execLui (core k : Nat) (w : Fields) (s : State) : Result :=
  .next (ctlWrite s core k 0x02 w { Use.none with f1 := true, imm := true } true fun x =>
    w.imm ++ (sreg x w.f1).truncate 32)
/-- R137, ADD. -/
def execAdd (core k : Nat) (w : Fields) (s : State) : Result := ctlAlu s core k 0x03 w (· + ·)
/-- R137, SUB. -/
def execSub (core k : Nat) (w : Fields) (s : State) : Result := ctlAlu s core k 0x04 w (· - ·)
/-- R137, MUL: the low 64 bits. -/
def execMul (core k : Nat) (w : Fields) (s : State) : Result := ctlAlu s core k 0x05 w (· * ·)
/-- R137, AND. -/
def execAnd (core k : Nat) (w : Fields) (s : State) : Result := ctlAlu s core k 0x06 w (· &&& ·)
/-- R137, OR. -/
def execOr (core k : Nat) (w : Fields) (s : State) : Result := ctlAlu s core k 0x07 w (· ||| ·)
/-- R137, XOR. -/
def execXor (core k : Nat) (w : Fields) (s : State) : Result := ctlAlu s core k 0x08 w (· ^^^ ·)
/-- R137, SHL by bits [5:0] of the second source. -/
def execShl (core k : Nat) (w : Fields) (s : State) : Result :=
  ctlAlu s core k 0x09 w fun a b => a <<< (b.toNat % 64)
/-- R137, SHR. -/
def execShr (core k : Nat) (w : Fields) (s : State) : Result :=
  ctlAlu s core k 0x0A w fun a b => a >>> (b.toNat % 64)
/-- R137, SRA. -/
def execSra (core k : Nat) (w : Fields) (s : State) : Result :=
  ctlAlu s core k 0x0B w fun a b => a.sshiftRight (b.toNat % 64)
/-- R137, MIN, signed. -/
def execMin (core k : Nat) (w : Fields) (s : State) : Result :=
  ctlAlu s core k 0x0C w fun a b => if a.slt b then a else b
/-- R137, MAX, signed. -/
def execMax (core k : Nat) (w : Fields) (s : State) : Result :=
  ctlAlu s core k 0x0D w fun a b => if a.slt b then b else a

/-- The identity values of R99 by the selector of R139. A core without a rank reads rank 0, where
the spec names none (DESIGN CHOICE, log entry 11). -/
def identity (s : State) (core : Nat) (sel : Nat) : Nat :=
  let v := match coveOfCore s core with | some c => coveAt s c | none => Cove.reset
  match sel with
  | 0 => core
  | 1 => dieOf core
  | 2 => clusterOf core
  | 3 => core % 4
  | 4 => (rankOf v core).getD 0
  | _ => (coresOf v).length
/-- R139, ID: an identity value; a selector above 5 is an operand fault. -/
def execId (core k : Nat) (w : Fields) (s : State) : Result :=
  .next (ctlWrite s core k 0x10 w { Use.none with f1 := true, imm := true }
    (decide (w.imm.toNat < 6)) fun _ => BitVec.ofNat 64 (identity s core w.imm.toNat))
/-- R137, STEP: the cove's step counter. -/
def execStep (core k : Nat) (w : Fields) (s : State) : Result :=
  .next (ctlWrite s core k 0x11 w { Use.none with f1 := true } true fun _ =>
    match coveOfCore s core with | some c => (coveAt s c).step | none => 0#64)
/-- R139, TIDE: the tick of the context's last completed synchronising point. -/
def execTide (core k : Nat) (w : Fields) (s : State) : Result :=
  .next (ctlWrite s core k 0x12 w { Use.none with f1 := true } true fun x =>
    BitVec.ofNat 64 x.anchor)

/-- The branch conditions of R136. -/
def condHolds (cond : Nat) (a b : DWord) : Bool :=
  match cond with
  | 0 => a == b
  | 1 => a != b
  | 2 => a.slt b
  | 3 => !a.slt b
  | 4 => a.ult b
  | 5 => !a.ult b
  | _ => true
/-- The target of a branch: the instruction's address plus the signed offset; a negative address
lies outside every code region. -/
def branchTarget (x : Ctx) (w : Fields) : Nat :=
  let t := (x.pc : Int) + w.tail.toInt
  if t < 0 then 2 ^ 64 else t.toNat
/-- R137, BR. -/
def execBr (core k : Nat) (w : Fields) (s : State) : Result :=
  .next (issue s core k 0x20 w
    { aluUse w with f1 := false, control := 0xF0000000#32, tail := 0xFFFF#16 } Writes.none true
    (ctl w 94 92 != 7) true none fun s =>
      let x := ctxAt s core k
      retire s core k (if condHolds (ctl w 94 92) (sreg x w.f2) (secondSource x w)
        then branchTarget x w else x.pc + 1))
/-- The count of a LOOP: Imm when I is 1, otherwise rA (R137, R138). -/
def loopCount (x : Ctx) (w : Fields) : DWord :=
  if ctlBit w 95 then w.imm.signExtend 64 else sreg x w.f2
/-- R138, LOOP: a count of 0 or above 2^32 - 1 is an operand fault. -/
def execLoop (core k : Nat) (w : Fields) (s : State) : Result :=
  let n := (loopCount (ctxAt s core k) w).toNat
  .next (issueNext s core k 0x21 w
    { Use.none with f2 := !ctlBit w 95, imm := ctlBit w 95, control := 0x8C000000#32 }
    { Writes.none with lc := some (ctl w 91 90) } true (decide (1 ≤ n) && decide (n < 2 ^ 32)) true
    none fun s => updCtx s core k fun x => setLc x (ctl w 91 90) (BitVec.ofNat 32 n))
/-- R137, ENDL. A counter that holds 0 wraps to 2^32 - 1 and the branch is taken (DESIGN CHOICE, log entry 79: the spec
is silent). -/
def execEndl (core k : Nat) (w : Fields) (s : State) : Result :=
  .next (issue s core k 0x22 w { Use.none with control := 0x0C000000#32, tail := 0xFFFF#16 }
    { Writes.none with lc := some (ctl w 91 90) } true true true none fun s =>
      let x := ctxAt s core k
      let n := lcAt x (ctl w 91 90) - 1#32
      let s := updCtx s core k fun x => setLc x (ctl w 91 90) n
      retire s core k (if n = 0#32 then x.pc + 1 else branchTarget x w))
/-- Every job context of the cove's cores has executed END (R138, R357). -/
def allEnded (s : State) (c : Nat) : Bool :=
  let l := ctxsOf (coveAt s c)
  !l.isEmpty && l.all fun p =>
    match (ctxAt s p.1 p.2).mode with | .ended => true | .empty => true | _ => false
/-- R138, END: the context stops issuing; CV_STATE.ENDED once every context has ended. -/
def execEnd (core k : Nat) (w : Fields) (s : State) : Result :=
  .next (issueNext s core k 0x30 w Use.none Writes.none false true true none fun s =>
    let s := updCtx s core k fun x => { x with mode := .ended }
    match coveOfCore s core with
    | some c => if allEnded s c then updCove s c fun v => { v with ended := true } else s
    | none => s)

end Sys2Proof.Machine
end

