-- ==== Sys2Proof/Machine/Coves.lean ====
section
/-!
DEFINITION. Steps, slack water and the cove registers (R47 to R49, R302, R336 to R366, R386 to R402,
R496 to R498, R571 to R575).
-/
namespace Sys2Proof.Machine

/-! ### Digest tables (R398 to R400) -/

/-- CV_DIGEST_CTRL's interval and peer count, and a peer register. -/
def digestInterval (s : State) (c : Nat) : Nat := bitsOf (regAt s (cvReg c 0x230)).toNat 15 0
/-- Peers in use: index and module. -/
def digestPeers (s : State) (c : Nat) : List (Nat × Nat) :=
  (List.range (min 7 (bitsOf (regAt s (cvReg c 0x230)).toNat 18 16))).filterMap fun p =>
    let w := (regAt s (cvReg c (0x248 + 8 * p))).toNat
    if bitOf w 16 then some (p, bitsOf w 15 0) else none
/-- The step is a digest step. -/
def isDigestStep (s : State) (c step : Nat) : Bool :=
  digestInterval s c != 0 && step % max 1 (digestInterval s c) == 0
/-- The 2,112 bytes of a digest table. -/
def digestBytes (s : State) (c step : Nat) (table : List DWord) : List Byte :=
  let head := packFields 0x3C
    [(0, 8, step), (8, 2, actingModule s c), (0x0A, 2, (coresOf (coveAt s c)).length)]
  let body := (List.range 256).flatMap fun q => leOut 8 (table.getD q 0#64).toNat
  head ++ leOut 4 (crcOf (head ++ body)) ++ body
/-- The HBM offset of the digest area, when it lies in the cove's units. -/
def digestArea (s : State) (c : Nat) : Option Nat :=
  let a := (regAt s (cvReg c 0x240)).toNat / 32768 * 32768
  if addrModule a = s.moduleId ∧ bitsOf a 47 44 = 8 ∧ coveOwnsRange s c (a % 2 ^ 44) 32768 then
    some (a % 2 ^ 44)
  else none
/-- R399: build the table of a digest step, write it to slot 0 and send it to the valid peers, into the
slot of the same index there (log entry 19). -/
def buildDigest (s : State) (c step : Nat) : State :=
  let v := coveAt s c
  let table := (List.range ((coresOf v).length / 4)).map fun q => Sparse.get 0#64 v.shards (4 * q)
  let s := updCove s c fun v =>
    { v with digestStep := step, digestTable := table, mismatch := 0, missing := 0, received := 0 }
  let bytes := digestBytes s c step table
  match digestArea s c with
  | none => recordCove s 0x6032 .corrected c []
  | some off =>
    let s := hbmStore s off bytes
    forEach s (digestPeers s c) fun s p =>
      queueOut s ⟨headUnit s, some c, 0xE, none, true,
        dataPacket s 1 0 (moduleGenOf s (headUnit s)) 0xE 1296 0 0 (Sparse.get 0#32 (coveAt s c).tags 0)
          (hbmAddr p.2 (off + 4096 * (p.1 + 1))) bytes⟩
/-- R400, DIGEST_TABLE_RECEIVE: a table is checked and compared. -/
def execDigestTableReceive (c peer : Nat) (step : DWord) (table : List DWord) (crcOk : Bool)
    (s : State) : Result :=
  let v := coveAt s c
  if !((digestPeers s c).any fun p => p.1 == peer) then .next s
  else if !crcOk || step.toNat ≠ v.digestStep then .next (recordCove s 0x6033 .corrected c [])
  else
    let s := updCove s c fun v => { v with received := v.received ||| 2 ^ peer }
    let bad := (List.range v.digestTable.length).find? fun q =>
      v.digestTable.getD q 0#64 != table.getD q 0#64
    .next (match bad with
      | some q => recordCove (updCove s c fun v => { v with mismatch := v.mismatch ||| 2 ^ peer })
          0x6031 .corrected c [peer, 4 * q]
      | none => s)
/-- R400: at the end of a digest step's slack water, peers whose table has not landed are missing. -/
def checkMissing (s : State) (c : Nat) : State :=
  let v := coveAt s c
  if isDigestStep s c v.digestStep && decide (v.digestStep + 1 = v.step.toNat) then
    forEach s (digestPeers s c) fun s p =>
      if bitOf (coveAt s c).received p.1 then s
      else recordCove (updCove s c fun v => { v with missing := v.missing ||| 2 ^ p.1 }) 0x6032 .corrected c
        [p.1]
  else s

/-! ### The start of a step (R180, R188, R302, R496, R572) -/

/-- R188, R572: the step cannot be forced: more than 4,096 records, a table outside the cove's units, or
records out of order from an earlier one on. -/
def forceRefused (s : State) (c : Nat) : Bool :=
  let ctrl := (regAt s (cvReg c 0xB0)).toNat
  let n := bitsOf ctrl 31 8
  let step := (coveAt s c).step.toNat
  bitOf ctrl 0 && match coveRange s c (cvReg c 0xA8) (64 * n) with
    | none => decide (0 < n)
    | some off =>
      let steps := (List.range n).map fun i => leVal (hbmRead s (off + 64 * i) 8)
      decide (4096 < (steps.filter (· == step)).length)
        || ((steps.zip (steps.drop 1)).any fun p => decide (p.2 < p.1) && decide (p.2 ≤ step))
/-- The job spans other modules, by the group entries of the cove's first core. -/
def spansOthers (s : State) (c : Nat) : Bool :=
  match (coresOf (coveAt s c)).head? with
  | some core => (List.range 64).any fun g =>
      gValid (coreAt s core) g && !(groupModules s core g).isEmpty
  | none => false
/-- The job spans modules and the module is not aligned, so that the cove starts no step (R289, R293). -/
def unaligned (s : State) (c : Nat) : Bool :=
  spansOthers s c && (s.tide.role == 0 || s.tide.role == 3 || (s.tide.role == 1 && !s.tide.aligned))
/-- A step starts at a tick, that of the end of slack water: anchors of every context, seeds, forced mode and the controls
that a step start puts in force. The call numbers of context 0, which runs the steps, restart; R177 says no more than that
they restart at each step, and those of contexts 1 to 3, which run none, go on (DESIGN CHOICE, log entry 80). A fault owed from the step before discards it at its
start (R497). -/
def startStep (s : State) (c : Nat) (tick : Tick) : State :=
  let v := coveAt s c
  if forceRefused s c then
    holdCove (updCove s c fun v => { v with forcedRefused := v.step }) c 2 0
  else
    let first := v.mode ≠ .running
    let s := endFlips s c
    let s := updCoveTide s c fun t =>
      { t with slack := false, held := false, cause := 0, stepStart := tick, restart := 0#64 }
    let s := forEach s (coresOf v) fun s i =>
      let s := match (ctxAt s i 0).wait with
        | some (.commit _) => endWait s i 0
        | _ => s
      let s := forEach s (List.range 4) fun s k => updCtx s i k fun x => { x with anchor := tick - v.ckpt.offset }
      let s := updCtx s i 0 fun x => { x with calls := [], callsDone := [] }
      updCore s i fun x =>
        { x with landed := x.landed.filter fun p => p.ctx != 0,
                 notices := x.notices.filter fun p => p.ctx != 0, refusedAhead := [], lateSeen := [], digest := 0#64 }
    let seeds := (List.range 4).foldl (fun t j =>
      Sparse.set 0#64 t j (regAt s (cvReg c (0x60 + 8 * j)))) []
    let s := updCove s c fun v =>
      { v with mode := .running, changed := if first then s.tide.now else v.changed, hcause := 0,
               seeds := seeds, forced := bitOf (regAt s (cvReg c 0xB0)).toNat 0,
               ldig := BitVec.ofNat 32 (regAt s (cvReg c 0xA00)).toNat, stats := StepStats.reset,
               arrivals := v.arrivals.filter fun a => a.ctx != 0, commits := [], commitTick := 0, shards := [], digestPoint := 0, dMax := 0,
               awaitReplay := none, failed := none, closing := [], closed := [], action := 0,
               actionsDone := 0, barred := 0, reshapeOk := false, reshaped := none,
               ckpt := { v.ckpt with undoOn := v.ckpt.undoEn, undo := [], undoUsed := 0, returnTick := 0,
                                     unguarded := false } }
    let s := updWaitTrace s c fun t =>
      { t with inForce := t.ctrl, thresh := (regAt s (wtReg c 8)).toNat }
    let s := { s with tide := { s.tide with started := true } }
    let s := if first then recordCove s 0x7001 .corrected c
        [v.variant, v.dies.toNat, v.step.toNat] else s
    match (coveAt s c).owed with
    | some (cause, key) => discardStep (updCove s c fun v => { v with owed := none }) c cause key
    | none => s

/-! ### Slack water begins (R48, R49, R349) -/

/-- The work of a pending reshape: dies to ebb and to flood. -/
def reshapeDies (v : Cove) (mask : DWord) : List Nat × List Nat :=
  ((List.range 64).filter fun d => v.dies.getLsbD d && !mask.getLsbD d,
   (List.range 64).filter fun d => mask.getLsbD d && !v.dies.getLsbD d)
/-- R351: ticks of a reshape. -/
def reshapeTicks (s : State) (c i : Nat) (mask : DWord) : Nat :=
  let v := coveAt s c
  let d := reshapeDies v mask
  let given := (v.unitsI.filter fun u => !mapsI s c u).length + (v.unitsS.filter fun u => !mapsS s c u).length
  max (if d.1.isEmpty then 0 else 140000) (if d.2.isEmpty then 150000 else 0)
    + slackTicks s c 16 1 (given * 2 ^ 30) + (if d.2.isEmpty then 0 else 150000)
    + (if variantClock v i = (coveTideAt s c).clock ∧ d.2.isEmpty then 0 else 20000)
/-- Bytes of the listed entries. -/
def entryBytes (s : State) (l : List Nat) : Nat :=
  (l.map fun off => (copyEntry s off).2.2.1).foldl (· + ·) 0
/-- Ticks of the actions that come before a reshape's bank switch besides its own: an armed snapshot, and the replica copies
(R48). A reshape whose switch they would push out of the slack water is deferred whole. -/
def besideTicks (s : State) (c : Nat) : Nat :=
  (if (coveAt s c).evalArm then slackTicks s c 0xF 1 (entryBytes s (openEntries s (cvReg c 0x300) 8)) else 0)
    + slackTicks s c 0xE 1 (entryBytes s (openEntries s (cvReg c 0x400) 32))
/-- R349, R350: the first reason that stands against the reshape, 0 when none does. -/
def reshapeCheck (s : State) (c : Nat) (mask : DWord) : Nat :=
  let v := coveAt s c
  let d := reshapeDies v mask
  if v.ckpt.holdsCommit ∨ v.ckpt.phase = .restoring ∨ v.ckpt.whole then 7
  else if d.2.any fun x => (coveOfDie s x).isSome || dieFenced s x then 2
  else match (List.range (variantCount v)).find? fun i => fitsShape s c i mask with
    | none => 1
    | some _ =>
      match chooseVariant s c mask with
      | none => 3
      | some i =>
        let ahead := (variantGen v i + 16 - (coveTideAt s c).gen % 16) % 16
        if tagsRefused s c (variantCtxs v i) then 9
        else if !(loadVariant s c i mask).1 then 8
        else if ahead = 0 ∨ 8 ≤ ahead then 12
        else if (coveTideAt s c).ctrl.arm ∧ decide ((coveTideAt s c).switchTick.toNat ≤ slackEnd s c) then 13
        else if !fitsSlack s c (reshapeTicks s c i mask + besideTicks s c) then 7
        else 0
/-- The check of a pending reshape at a slack water that starts 250,000 ticks after its write. -/
def checkReshape (s : State) (c : Nat) : State :=
  let v := coveAt s c
  match v.reshape with
  | some (mask, t) =>
    if s.tide.now < t + 250000 ∧ v.mode ≠ .held then s
    else
      let r := reshapeCheck s c mask
      if r = 0 then updCove s c fun v => { v with reshapeOk := true, deferred := false }
      else
        let s := if r = 3 ∧ v.overHbm then recordCove s 0x7009 .corrected c [] else s
        let s := match r == 8, chooseVariant s c mask with
          | true, some i => (loadVariant s c i mask).2
          | _, _ => s
        let n := if (reshapeDies v mask).1.isEmpty then 3 else 2
        deferAction (updCove s c fun v =>
          { v with reshapeOk := false, barred := if r = 7 ∧ v.mode ≠ .held then n else v.barred }) c n r
  | none => s
/-- R336, R345: map and tag changes apply at a slack water. -/
def applySlackChanges (s : State) (c : Nat) : State :=
  let s := checkQuota (applyMaps s c) c
  if tagsRefused s c (coveAt s c).ctxUsed then
    if (List.range 4).all fun j => jobTagReg s c j == Sparse.get 0#32 (coveAt s c).tags j then s
    else refuseTags (updCove s c fun v => { v with deferred := true }) c
  else applyTags s c
/-- R630: once the trip is over, a slack water returns the cove's dies to its bank's clock point (R325). -/
def returnClock (s : State) (c : Nat) : State :=
  if (coveTideAt s c).slow ∧ ¬ s.pwr.tripActive then
    updCoveTide s c fun t =>
      { t with slow := false, clockBusy := if t.clock = 2 then t.clockBusy else s.tide.now + 20000 }
  else s
/-- What the start of a slack water does besides its actions. -/
def slackBegins (s : State) (c : Nat) : State :=
  checkReshape (demotionWork (applySlackChanges (returnClock s c) c) c) c

/-! ### The commit (R302, R386, R387, R440, R442) -/

/-- The commit group has members on other modules that are not marked absent (R436). -/
def commitRemote (s : State) (c : Nat) : Bool :=
  match (coveAt s c).commitGroup, (coresOf (coveAt s c)).head? with
  | some g, some core => (groupModules s core g).any fun m =>
      !((List.range 8).any fun k =>
        match Sparse.get none s.remap (8 * c + k) with
        | some r => r.1 == m && r.2 == 65536
        | none => false)
  | _, _ => false
/-- The tick of the commit: the first tick k = commit tick + j × q such that every arrival was sent at or before k - q and
nothing held the commit up after it (R47, R224, R442); none while the test has not succeeded. A program that has ended
sends no arrival. -/
def commitAt (s : State) (c : Nat) (remote : Option Tick) : Option Tick :=
  let v := coveAt s c
  let t := coveTideAt s c
  let q := max 1 (planQuantum s c t.bank)
  let sched := commitTickOf s c
  let latest := v.commits.foldl (fun m a => max m a.tick) 0
  let far := if commitRemote s c then remote else some 0
  match far with
  | none => none
  | some r =>
    if allCommitted v || allEnded s c then
      let need := max (max latest r + q) v.waited
      let k := if need ≤ sched then sched else sched + roundUp (need - sched) q
      if k ≤ s.tide.now then some k else none
    else none
/-- A frozen cove's time stands still (R446). -/
def coveFrozen (v : Cove) : Bool := v.ckpt.phase == .freezing || v.ckpt.phase == .frozen
/-- R442: the commit waits for a drain; R224: it waits for a TUPD in progress. -/
def commitWaits (s : State) (c : Nat) : Bool :=
  let v := coveAt s c
  v.ckpt.holdsCommit || coveFrozen v
    || (clustersOf v).any fun cl => !(ctxAt s (4 * cl) 0).thrQ.isEmpty
/-- The commit of a step at tick k, in the order of R387. -/
def commitStep (s : State) (c : Nat) (k : Tick) : State :=
  let v := coveAt s c
  let late := decide (commitTickOf s c < k)
  let skipped := v.stats.skipped
  let s := if late then
      bumpCoveSet (recordCove (updStats s c fun t => { t with late := true }) 0x1051 .corrected c []) (some c) 3 1
    else s
  let s := forEach s (coresOf v) fun s i => updCtx s i 0 fun x => { x with nonfinite := false }
  let s := forEach s (clustersOf v) fun s cl => updThresh s cl 0 fun _ => ThreshRun.reset
  let s := updCove s c fun v =>
    { v with parity := if skipped then v.parity else !v.parity,
             skipRun := if skipped then v.skipRun + 1 else 0,
             skipTotal := if skipped then satTo 32 (v.skipTotal + 1) else v.skipTotal }
  let s := if isDigestStep s c v.step.toNat then buildDigest s c v.step.toNat else s
  let s := writeStepRecord s c (if skipped then 1 else 0) 0 k
  let s := bumpCoveSet (bumpCoveSet s (some c) 0 1) (some c) 1 (natOf skipped)
  let s := updCove s c fun v =>
    { v with step := v.step + 1, replaying := false, replays := 0, lastCause := 0, lastFail := 0,
             commits := [], arrivals := v.arrivals.filter fun a => a.ctx != 0, commitTick := 0, closing := [], closed := [],
             ckpt := { v.ckpt with undo := [], undoUsed := 0, returnTick := 0, unguarded := false } }
  updCoveTide s c fun t => { t with slack := true, slackStart := k }
/-- R445: the header fields of a manifest but for its region count and its mark of carries, at a capture tick. -/
def captureHead (s : State) (c : Nat) (whole : Bool) (tick : Tick) : List (Nat × Nat × Nat) :=
  let v := coveAt s c
  let t := coveTideAt s c
  let k := v.ckpt
  let digestStep := !whole && isDigestStep s c v.digestStep && decide (v.digestStep + 1 = v.step.toNat)
  [(0, 4, 0x31544B43), (4, 2, 1), (6, 1, if whole then 2 else 1),
    (7, 1, natOf k.writer + 4 * natOf digestStep + 8 * natOf (v.mismatch != 0)),
    (8, 8, v.step.toNat), (0x10, 2, actingModule s c), (0x12, 1, c + 16 * t.gen),
    (0x13, 1, v.variant + 8 * t.clock + 32 * natOf v.parity + 64 * natOf t.bank),
    (0x14, 4, imageVal v 4 4), (0x18, 8, tick),
    (0x50, 8, if digestStep then crc64 0 (v.digestTable.flatMap fun d => leBytes 8 d.toNat) else 0),
    (0x58, 8, v.dies.toNat), (0x160, 8, k.offset),
    (0x168, 8, if whole then t.stepStart - k.offset else 0),
    (0x170, 8, if whole then commitTickOf s c - k.offset else 0)]
   ++ ((List.range 4).map fun j => (0x20 + 8 * j, 8, (Sparse.get 0#64 v.seeds j).toNat))
   ++ ((List.range 4).map fun j => (0x40 + 4 * j, 4, (Sparse.get 0#32 v.tags j).toNat))
   ++ ((List.range 32).map fun w => (0x60 + 8 * w, 8, (regAt s (cvReg c (0x100 + 8 * w))).toNat))
/-- R440: an armed step checkpoint starts draining at the commit; event 0x8010. -/
def startCapture (s : State) (c : Nat) : State :=
  if (coveAt s c).ckpt.take then
    recordCove (updCkpt s c fun k =>
      { k with take := false, phase := .draining, captured := 0, early := [], waits := 0, holdsCommit := true,
               regions := k.nextRegions, stepHead := captureHead s c false (coveTideAt s c).slackStart }) 0x8010 .corrected c []
  else s
/-- Where a commit leads: release, stop, hold, or slack water. -/
def afterCommit (s : State) (c : Nat) : State :=
  let v := coveAt s c
  if v.releaseReq then startRelease (abortCkpt s c) c
  else if v.stopReq || allEnded s c then
    recordCove (updCove s c fun v =>
      { v with mode := .stopped, changed := s.tide.now, stopReq := false, ended := allEnded s c })
      0x700B .corrected c []
  else
    let s := if v.holdReq then holdCove s c 2 0
      else if unaligned s c then holdCove s c 4 2
      else s
    slackBegins s c
/-- A discard that a rule demands although the cove has sent its commit arrivals (R496, R498). -/
def discardAnyway (s : State) (c cause : Nat) (key : Option Nat) : State :=
  discardStep (updCove s c fun v => { v with commits := [] }) c cause key
/-- R302, STEP_COMMIT: `remote` is the stamp of the last commit arrival of the other modules' members, none while one is
missing; `late` says that one of them landed LATE, which fails the step as vote skew does (R186). -/
def execStepCommit (c : Nat) (remote : Option (Tick × Bool)) (s : State) : Result :=
  let v := coveAt s c
  if remote.any (·.2) ∧ commitRemote s c ∧ v.mode = .running ∧ (coveTideAt s c).slack = false then
    .next (discardAnyway (recordCove s 0x5010 .stepContained c []) c 3 (some 0))
  else if v.mode = .running ∧ (coveTideAt s c).slack = false ∧ ¬ commitWaits s c then
    match commitAt s c (remote.map (·.1)) with
    | some k => .next (afterCommit (startCapture (commitStep s c k) c) c)
    | none => .next s
  else .next s
/-- R302, SLACK_WATER_END: the slack length has passed and the next step starts, unless alignment has been lost (R293). -/
def execSlackWaterEnd (c : Nat) (s : State) : Result :=
  let v := coveAt s c
  let t := coveTideAt s c
  if v.mode = .running ∧ t.slack ∧ ¬ coveFrozen v ∧ v.awaitReplay.isNone ∧ slackEnd s c ≤ s.tide.now then
    let s := checkMissing s c
    .next (if unaligned s c then holdCove s c 4 2 else startStep s c (slackEnd s c))
  else .next s
/-- R498, COMMIT_LIMIT: the step is discarded with cause 3; event 0xA070. -/
def execCommitLimit (c : Nat) (s : State) : Result :=
  let v := coveAt s c
  let t := coveTideAt s c
  if v.mode = .running ∧ t.slack = false ∧ ¬ coveFrozen v ∧ v.awaitReplay.isNone
      ∧ commitTickOf s c + planCommitOffset s c t.bank ≤ s.tide.now then
    .next (discardAnyway (recordCove s 0xA070 .stepContained c []) c 3 none)
  else .next s
/-- R496, DISCARD_NOTICE_RECEIVE: a notice of another module's cove with this cove's job tag and step
counter discards the step with cause 9; one received while discarding moves the replay's start. -/
def execDiscardNoticeReceive (c sender : Nat) (jobTag : Word) (step : DWord) (tick : Nat) (s : State) :
    Result :=
  let v := coveAt s c
  if sender = s.moduleId ∨ jobTag = 0#32 ∨ jobTag ≠ Sparse.get 0#32 v.tags 0 ∨ step ≠ v.step then .next s
  else if v.awaitReplay.isSome then .next (awaitReplayFrom s c (max tick v.dMax))
  else if v.mode = .running ∧ (coveTideAt s c).slack = false then
    .next (discardAnyway (updCove s c fun v => { v with dMax := max v.dMax tick }) c 9 none)
  else .next s
/-- R225: before the replay, the units of the floor conflicts are promoted when the quota has room. -/
def promoteConflicts (s : State) (c : Nat) : State :=
  forEach s (if (coveAt s c).lastCause = 5 then (coveAt s c).stats.conflicts else []) fun s u =>
    if canPromote s c u then
      let s := startPromotion s c u
      setPlacement s u { placementAt s u with go := true }
    else s
/-- R496, REPLAY_START: the replay starts at its quantum tick. While a unit of a floor conflict is on its way back, the start
moves to a later multiple of the quantum (R225). -/
def execReplayStart (c : Nat) (s : State) : Result :=
  let v := coveAt s c
  match v.awaitReplay with
  | some t =>
    if v.mode = .running ∧ ¬ coveFrozen v ∧ t ≤ s.tide.now then
      let s := promoteConflicts s c
      let back := (coveAt s c).lastCause = 5
        ∧ ((coveAt s c).stats.conflicts.any fun u => (placementAt s u).state == .promoting && (placementAt s u).go) = true
      let q := max 1 (planQuantum s c (coveTideAt s c).bank)
      .next (if back then updCove s c fun v => { v with awaitReplay := some (t + roundUp (s.tide.now + 1 - t) q) }
        else startStep s c t)
    else .next s
  | none => .next s
/-- R355, COVE_RESTART_TICK: the cove leaves held at its restart tick; while an action still runs the
restart moves to the next multiple of the commit quantum, event 0x700A. The skew flag clears. -/
def execCoveRestartTick (c : Nat) (s : State) : Result :=
  let v := coveAt s c
  let t := coveTideAt s c
  let r := t.restart.toNat
  if v.mode ≠ .held ∨ r = 0 ∨ s.tide.now < r then .next s
  else
    let busy := v.ckpt.phase == .restoring || v.ckpt.phase == .frozen
      || v.lq.inflight.any (fun e => bitOf e.entry.flags 0)
      || s.load.pq.inflight.any (fun e => bitOf e.entry.flags 0 && e.entry.cove == c)
      || decide (s.tide.now < t.clockBusy)
    if busy || unaligned s c then
      let q := planQuantum s c t.bank
      .next (recordCove (updCoveTide s c fun t =>
        { t with restart := BitVec.ofNat 64 (roundUp (s.tide.now + 1) q) }) 0x700A .corrected c [])
    else
      let s := updCoveTide s c fun t =>
        { t with skew := false, gen := if v.hcause = 1 then v.vGen else t.gen }
      .next (startStep (checkMissing s c) c r)

/-! ### Slack-water actions (R48, R351, R356, R395) -/

/-- Set done, or failed with its status code, in an entry. -/
def endEntry (s : State) (off : Nat) (status : Option Nat) : State :=
  let w := (regAt s (off + 24)).toNat
  setReg s (off + 24) (BitVec.ofNat 64 (match status with
    | none => w ||| 2
    | some code => (w - (w &&& 0xFF00)) ||| 4 ||| (code * 256)))
/-- A range of package-space HBM of this module in the cove's units, 4 KiB aligned. -/
def inUnits (s : State) (c a len : Nat) : Bool :=
  a % 4096 == 0 && len % 4096 == 0 && addrModule a == s.moduleId && bitsOf a 47 44 == 8
    && coveOwnsRange s c (a % 2 ^ 44) len
/-- The cove is in slack water, not from a discard, and nothing was deferred before this action (R49). -/
def actionOpen (s : State) (c n : Nat) : Bool :=
  let v := coveAt s c
  (v.mode == .running || v.mode == .held) && (coveTideAt s c).slack && v.awaitReplay.isNone
    && actionFree v n
/-- An action that does not fit: this and every later action of the slack water wait (R49). -/
def deferRest (s : State) (c n : Nat) : State :=
  deferAction (updCove s c fun v => { v with barred := n }) c n 7
/-- An action has ended. -/
def actionEnded (s : State) (c n : Nat) : State :=
  updCove s c fun v => { v with actionsDone := n, deferred := v.deferred && v.action != n,
                                action := if v.action = n then 0 else v.action }
/-- A reshape with dies to ebb, or without flood, waits to run as action 2. -/
def ebbPending (v : Cove) : Bool := v.reshapeOk && v.reshape.isSome
/-- R395, SLACK_EVAL_SNAPSHOT: every valid entry is copied, with tallies checked. -/
def execSlackEvalSnapshot (c : Nat) (s : State) : Result :=
  let v := coveAt s c
  let l := openEntries s (cvReg c 0x300) 8
  if !v.evalArm || !actionOpen s c 1 then .next s
  else if !fitsSlack s c (slackTicks s c 0xF 1 (entryBytes s l)) then
    .next (deferRest (updCove s c fun v => { v with evalDeferred := true }) c 1)
  else
    let s := forEach s l fun s off =>
      let e := copyEntry s off
      if !(inUnits s c e.1 e.2.2.1 && inUnits s c e.2.1 e.2.2.1) then
        recordCove (endEntry s off (some 2)) 0x6041 .corrected c []
      else if condemned s (.hbm (e.1 % 2 ^ 44)) e.2.2.1 then
        recordCove (endEntry s off (some 6)) 0x6041 .corrected c []
      else endEntry (hbmStore s (e.2.1 % 2 ^ 44) (hbmRead s (e.1 % 2 ^ 44) e.2.2.1)) off none
    let s := updCove s c fun v =>
      { v with evalArm := false, evalDone := true, evalDeferred := false,
               evalStep := BitVec.ofNat 32 v.step.toNat }
    .next (actionEnded (recordCove s 0x6040 .corrected c []) c 1)
/-- Action 5 of a reshape whose variant is loaded: the switch to its bank, and event 0x7004 or 0x7005 with the old and new
masks. -/
def reshapeEnds (s : State) (c : Nat) : State :=
  let v := coveAt s c
  match v.reshaped with
  | none => s
  | some (i, old) =>
    let s := switchBank (stageBank s c i) c true
    let s := updCove s c fun v =>
      { v with reshaped := none, reason := if v.reason = 14 then 14 else 0, deferred := false,
               actionsDone := max 5 v.actionsDone }
    recordCove s (if v.dies &&& ~~~ old = 0#64 then 0x7004 else 0x7005) .corrected c [old.toNat, v.dies.toNat]
/-- An action of a reshape that cannot be made is deferred; once its dies have been released the cove is held with hold cause
5 and its new die set (R353). -/
def reshapeStuck (s : State) (c n r : Nat) : State :=
  let s := deferAction s c n r
  let v := coveAt s c
  if v.dies ≠ v.atClock ∧ v.mode = .running then holdCove s c 5 0 else s
/-- Load the variant on the target mask, the last part of action 2 or 3. Added dies came zeroed, so their carries are 0
(R335, R352). The bank switch follows at once when no replica copy (action 4) is asked for. -/
def reshapeLoad (s : State) (c n i : Nat) (mask : DWord) : State :=
  let r := loadVariant s c i mask
  if !r.1 then reshapeStuck r.2 c n 8
  else
    let s := updCove r.2 c fun v => { v with reshape := none, reshapeOk := false, reshaped := some (i, v.atClock) }
    let s := actionEnded s c n
    if (openEntries s (cvReg c 0x400) 32).isEmpty then reshapeEnds s c else s
/-- R351, SLACK_EBB: released dies stop and are zeroed, units cleared from the maps are given up, and a
reshape without flood loads its variant on the kept dies. -/
def execSlackEbb (c : Nat) (s : State) : Result :=
  let s := if (coveAt s c).mode = .held then checkReshape s c else s
  let v := coveAt s c
  match v.reshape with
  | some (mask, _) =>
    if !ebbPending v || !actionOpen s c 2 || (v.evalArm && actionFree v 1) then .next s
    else
      let d := reshapeDies v mask
      let s := clearDies s d.1
      let s := giveUpUnits (updCove s c fun v => { v with dies := v.dies &&& mask }) c
      let s := actionEnded (checkQuota s c) c 2
      if d.2.isEmpty then
        match chooseVariant s c mask with
        | some i => .next (reshapeLoad s c 2 i mask)
        | none => .next (reshapeStuck s c 2 1)
      else .next s
  | none => .next s
/-- R351, SLACK_FLOOD: added dies are taken and the variant is loaded onto the target mask; a die that
another cove has taken, or a fence since the check, defers the reshape (R353). -/
def execSlackFlood (c : Nat) (s : State) : Result :=
  let s := if (coveAt s c).mode = .held then checkReshape s c else s
  let v := coveAt s c
  match v.reshape with
  | some (mask, _) =>
    let d := reshapeDies v mask
    if !ebbPending v || !actionOpen s c 3 || d.2.isEmpty || (v.evalArm && actionFree v 1) || !d.1.isEmpty then .next s
    else if d.2.any fun x => (coveOfDie s x).isSome || dieFenced s x then .next (reshapeStuck s c 3 2)
    else match chooseVariant s c mask with
      | none => .next (reshapeStuck s c 3 1)
      | some i => .next (reshapeLoad s c 3 i mask)
  | none => .next s
/-- R356, SLACK_REPLICA_COPY: the movers pull every valid entry; `peerData` brings, entry by entry, the
bytes of a source on another module. They run when all fit the slack water, else only while held. A
failure holds the cove with hold cause 5 and reason 14; event 0x700D. -/
def execSlackReplicaCopy (c : Nat) (peerData : List (List Byte)) (s : State) : Result :=
  let v := coveAt s c
  let l := openEntries s (cvReg c 0x400) 32
  if l.isEmpty || !actionOpen s c 4 || ebbPending v || (v.evalArm && actionFree v 1) then .next s
  else if !fitsSlack s c (slackTicks s c 0xE 1 (entryBytes s l)) then .next (deferRest s c 4)
  else
    let s := forEach s (l.zip (List.range l.length)) fun s p =>
      let e := copyEntry s p.1
      let fail := fun (s : State) code =>
        recordCove (holdCove (setReason (endEntry s p.1 (some code)) c 14) c 5 0) 0x700D .corrected c [code]
      let excess := v.overHbm && !inUnits s c e.2.1 e.2.2.1
      let s := if excess then recordCove s 0x7009 .corrected c [] else s
      if !(inUnits s c e.2.1 e.2.2.1 && e.1 % 4096 == 0) then fail s 2
      else
        let r := if addrModule e.1 = s.moduleId then
            (match placeOf e.1 with
             | .hbm off => if condemned s (.hbm off) e.2.2.1 then Except.error 6 else .ok (hbmRead s off e.2.2.1)
             | _ => .error 2)
          else match peerData[p.2]? with
            | some bs => if bs.length = e.2.2.1 then .ok bs else .error 5
            | none => .error 5
        match r with
        | .ok bs => recordCove (endEntry (hbmStore s (e.2.1 % 2 ^ 44) bs) p.1 none) 0x700D .corrected c [0]
        | .error code => fail s code
    .next (reshapeEnds (actionEnded s c 4) c)

/-! ### Writes of the CV window (R337, R343 to R365, R401, R571 to R575) -/

/-- Offset in the function's own BAR of a register of its cove window. -/
def barOff (c fn off : Nat) : Nat := if fn = 0 then cvReg c off else off
/-- A write that only the physical function may make: a host-access error of kind 3 from a virtual
one. -/
def pfOnly (s : State) (c fn off : Nat) (f : State → State) : State :=
  if fn = 0 then f s else hostError s fn 3 (barOff c fn off)
/-- A write from this cove's own virtual function or the physical function. -/
def ownFn (c fn : Nat) : Bool := fn == 0 || fn == c + 1
/-- The unit is demoted for the cove: a lender holds it, and it is neither granted nor pending. -/
def demotedFor (s : State) (c u : Nat) : Bool := (placementAt s u).state == .demoted && (placementAt s u).cove == c
/-- R343: START in state free or stopped: the checks of order 1, then loading. -/
def startCove (s : State) (c : Nat) : State :=
  let v := coveAt s c
  let used := match (List.range (variantCount v)).find? fun i => fitsShape s c i (targetDies s c) with
    | some i => variantCtxs v i
    | none => 0
  let wanted := ((List.range 1020).filter fun u => mapsI s c u && !demotedFor s c u).length
    + ((List.range 1024).filter (mapsS s c ·)).length
  if v.mode ≠ .free ∧ v.mode ≠ .stopped then s
  else if !imageOk v then setReason s c 11
  else if tagsRefused s c used then refuseTags s c
  else if quotaHbm s c < wanted then setReason s c 3
  else if quotaBarn s c < (barnUnits s c false).length then setReason s c 4
  else
    let s := updCove s c fun v =>
      { v with mode := .loading, changed := s.tide.now, startTick := s.tide.now, loaded := false, reason := 0,
               reshape := none, reshapeOk := false, reshaped := none, deferred := false, action := 0,
               fromStopped := decide (v.mode = .stopped), ended := false,
               step := if v.mode = .stopped then v.step else 0#64,
               parity := v.mode == .stopped && v.parity,
               skipTotal := if v.mode = .stopped then v.skipTotal else 0,
               ckpt := if v.mode = .stopped then v.ckpt else { v.ckpt with offset := 0 },
               seeds := (List.range 4).foldl (fun t j =>
                 Sparse.set 0#64 t j (regAt s (cvReg c (0x60 + 8 * j)))) [] }
    tryLoading s c
/-- R343, R357: STOP of a running, loading or held cove. -/
def stopCove (s : State) (c : Nat) : State :=
  let v := coveAt s c
  let at_ := fun (s : State) m => updCove s c fun v => { v with mode := m, changed := s.tide.now }
  match v.mode with
  | .running => updCove s c fun v => { v with stopReq := true }
  | .loading => at_ s (if v.fromStopped then .stopped else .free)
  | .held => recordCove (updCoveTide (at_ s .stopped) c fun t => { t with held := false, restart := 0#64 })
      0x700B .corrected c []
  | _ => s
/-- R355: HOLD of a running cove acts at its next commit. -/
def requestHold (s : State) (c : Nat) : State :=
  if (coveAt s c).mode = .running then updCove s c fun v => { v with holdReq := true } else s
/-- R560, R633: START is refused without a reference, and from the start of emptying on. -/
def startBarred (s : State) : Bool := s.fw.mode == 2 || s.tray.service != 0
/-- A write of CV_CTRL: START, STOP and HOLD are W1S. -/
def writeCvCtrl (s : State) (c fn : Nat) (value : Word) : State :=
  if !ownFn c fn then s
  else
    let s := if !value.getLsbD 0 then s
      else if startBarred s then hostError s fn 2 (barOff c fn 8)
      else startCove s c
    let s := if value.getLsbD 1 then stopCove s c else s
    if value.getLsbD 2 then requestHold s c else s
/-- R343, CV_CTRL_START. -/
def effectCvCtrlStart (c fn : Nat) (value : Word) (s : State) : Result := .next (writeCvCtrl s c fn value)
/-- R357, CV_CTRL_STOP. -/
def effectCvCtrlStop (c fn : Nat) (value : Word) (s : State) : Result := .next (writeCvCtrl s c fn value)
/-- R355, CV_CTRL_HOLD. -/
def effectCvCtrlHold (c fn : Nat) (value : Word) (s : State) : Result := .next (writeCvCtrl s c fn value)
/-- R349, R358, CV_DIES_WRITE: a release, a reshape request, its withdrawal, or a target for START. -/
def effectCvDiesWrite (c fn : Nat) (value : DWord) (s : State) : Result :=
  .next (pfOnly s c fn 0x10 fun s =>
    if s.tray.service ≠ 0 ∧ value ≠ 0#64 then hostError s 0 2 (cvReg c 0x10)
    else
    let s := setReg s (cvReg c 0x10) value
    let v := coveAt s c
    match v.mode with
    | .running =>
      if value = 0#64 then updCove s c fun v => { v with releaseReq := true, reshape := none, reshapeOk := false }
      else
        let s := updCove s c fun v => { v with releaseReq := v.serviceRelease }
        if value = v.dies then updCove s c fun v => { v with reshape := none, reshapeOk := false, deferred := false }
        else
          let s := updCove s c fun v => { v with reshape := some (value, s.tide.now), reshapeOk := false }
          let s := match chooseVariant s c value with | some i => stageBank s c i | none => s
          recordCove s 0x7003 .corrected c [value.toNat]
    | .held =>
      if value = 0#64 then startRelease (abortCkpt s c) c
      else if value = v.dies ∧ v.dies = v.atClock then updCove s c fun v =>
        { v with reshape := none, reshapeOk := false, deferred := false }
      else
        let s := updCove s c fun v =>
          { v with reshape := some (value, s.tide.now), reshapeOk := false, actionsDone := 0 }
        recordCove s 0x7003 .corrected c [value.toNat]
    | .stopped => if value = 0#64 then startRelease (abortCkpt s c) c else s
    | .free => if value = 0#64 ∧ v.dies ≠ 0#64 then startRelease s c else s
    | .loading => s
    | .releasing => s
    | .fault => if value = 0#64 then startRelease (abortCkpt s c) c else s)
/-- R345, CV_UMAP_WRITE: words 0 to 15 are CV_UMAP_I, 16 to 31 CV_UMAP_S. A write that adds units beyond
the quota, or while over it, is discarded. -/
def effectCvUmapWrite (c fn word : Nat) (value : DWord) (s : State) : Result :=
  let off := 0x100 + 8 * word
  .next (if 32 ≤ word then s else pfOnly s c fn off fun s =>
    let value := if word = 15 then value &&& 0x0FFFFFFFFFFFFFFF#64
      else if 16 ≤ word then value &&& 0x7FFFFFFFFFFFFFFF#64 else value
    let v := coveAt s c
    let old := regAt s (cvReg c off)
    let adds := (List.range 64).filter fun i => value.getLsbD i && !old.getLsbD i
    let granted := fun i => if word < 16 then v.unitsI.contains (64 * word + i)
      else v.unitsS.contains (64 * (word - 16) + i)
    let newUnits := (adds.filter fun i => !granted i).length
    let waiting := ((List.range 1020).filter fun u => mapsI s c u && !v.unitsI.contains u && !demotedFor s c u).length
      + ((List.range 1024).filter fun u => mapsS s c u && !v.unitsS.contains u).length
    if !adds.isEmpty && (v.overHbm || decide (quotaHbm s c < grantedUnits v + waiting + newUnits)) then
      let s := if v.overHbm then recordCove s 0x7009 .corrected c [] else s
      hostError s fn 2 (barOff c fn off)
    else
      let s := setReg s (cvReg c off) value
      if v.mode = .stopped ∨ v.mode = .held then checkQuota (applyMaps s c) c else s)
/-- R344, CV_QUOTA_WRITE: the targets; over-quota states follow, and a cove in slack water starts its
demotion. -/
def effectCvQuotaWrite (c fn : Nat) (value : DWord) (s : State) : Result :=
  .next (pfOnly s c fn 0x20 fun s =>
    let n := value.toNat
    let hbm := min 1020 (bitsOf n 10 0)
    let port := min 128 (bitsOf n 39 32)
    let s := setReg s (cvReg c 0x20) (BitVec.ofNat 64 (hbm + bitsOf n 31 16 * 65536 + port * 2 ^ 32))
    let s := checkPortQuota (checkQuota s c) c
    if (coveAt s c).mode = .held ∨ (coveAt s c).mode = .stopped then startDemotion (startPromotions s c) c
    else s)
/-- R336, CV_JOBTAG_WRITE: a tag applies at the start and at each slack water; a held cove is in one. -/
def effectCvJobtagWrite (c fn j : Nat) (value : Word) (s : State) : Result :=
  .next (if 4 ≤ j then s else pfOnly s c fn (0x40 + 8 * j) fun s =>
    let s := setReg s (cvReg c (0x40 + 8 * j)) (BitVec.ofNat 64 value.toNat)
    if (coveAt s c).mode = .held then applySlackChanges s c else s)
/-- R343, LOADING_RESOURCE_FREE: a loading cove takes each die and unit as it becomes free. -/
def execLoadingResourceFree (c : Nat) (s : State) : Result :=
  let v := coveAt s c
  .next (if v.mode = .loading ∧ ¬ v.loaded then tryLoading s c else s)
/-- R343, LOADING_END: the loaded cove enters held with hold cause 1. -/
def execLoadingEnd (c : Nat) (s : State) : Result :=
  let v := coveAt s c
  .next (if v.mode = .loading ∧ v.loaded then
    updCove (holdCove s c 1 0) c fun v => { v with loaded := false, reason := 0 } else s)
/-- R358, RELEASE_END: once its load entries have ended, everything the cove held is cleared. -/
def execReleaseEnd (c : Nat) (s : State) : Result :=
  let v := coveAt s c
  .next (if v.mode = .releasing ∧ v.lq.inflight = [] ∧ ¬ (s.load.pq.inflight.any fun x => x.entry.cove == c) then
    releaseCove s c else s)
/-- R395, R402, CV_EVAL_CTRL_ARM: ARM is W1S, DONE W1C. -/
def effectCvEvalCtrlArm (c fn : Nat) (value : Word) (s : State) : Result :=
  .next (if !ownFn c fn then s else updCove s c fun v =>
    { v with evalArm := v.evalArm || value.getLsbD 0, evalDone := v.evalDone && !value.getLsbD 1 })
/-- R402, CV_SR_CTRL_ENABLE: setting EN clears CV_SR_COUNT. -/
def effectCvSrCtrlEnable (c fn : Nat) (value : Word) (s : State) : Result :=
  .next (if !ownFn c fn then s
    else
      let was := bitOf (regAt s (cvReg c 0x210)).toNat 5
      let s := setReg s (cvReg c 0x210) (BitVec.ofNat 64 (bitsOf value.toNat 5 0))
      if value.getLsbD 5 && !was then updCove s c fun v => { v with srCount := 0 } else s)
/-- R491, CV_LDIG_CTRL_ENABLE: it takes effect at the next step start; setting EN clears
CV_LDIG_COUNT. -/
def effectCvLdigCtrlEnable (c fn : Nat) (value : Word) (s : State) : Result :=
  .next (if !ownFn c fn then s
    else
      let was := bitOf (regAt s (cvReg c 0xA00)).toNat 6
      let s := setReg s (cvReg c 0xA00) (BitVec.ofNat 64 (value &&& 0x01F3FF7F#32).toNat)
      if value.getLsbD 6 && !was then updCove s c fun v => { v with ldigCount := 0 } else s)
/-- R572, CV_CLOG_CTRL_ENABLE: setting EN sets WR and RD to 0 and restarts the unlogged count. -/
def effectCvClogCtrlEnable (c fn : Nat) (value : Word) (s : State) : Result :=
  .next (if !ownFn c fn then s
    else updCove s c fun v =>
      if value.getLsbD 0 && !v.clogEn then { v with clogEn := true, clogWr := 0, clogRd := 0, clogLost := 0 }
      else { v with clogEn := value.getLsbD 0 })
/-- R566, CV_CLOG_RD_WRITE: a value above WR or below RD is refused. -/
def effectCvClogRdWrite (c fn : Nat) (value : DWord) (s : State) : Result :=
  let v := coveAt s c
  .next (if !ownFn c fn then s
    else if v.clogWr < value.toNat ∨ value.toNat < v.clogRd then hostError s fn 2 (barOff c fn 0x98)
    else updCove s c fun v => { v with clogRd := value.toNat })
/-- A placement entry of the cove names a unit of a barn entry. -/
def barnInUse (s : State) (c w : Nat) : Bool :=
  (placedUnits s c).any fun u =>
    let p := placementAt s u
    p.lenderModule == bitsOf w 15 0 && decide (bitsOf w 25 16 ≤ p.lenderUnit)
      && decide (p.lenderUnit < bitsOf w 25 16 + bitsOf w 36 26)
/-- R574, CV_BARN_WRITE: refused when the quota, an overlap or a unit in use stands against it. -/
def effectCvBarnWrite (c fn e : Nat) (value : DWord) (s : State) : Result :=
  let off := 0xC00 + 8 * e
  .next (if 32 ≤ e then s else pfOnly s c fn off fun s =>
    let n := value.toNat % 2 ^ 39
    let old := barnEntry s c e
    let others := (List.range 32).filter fun i => i != e && bitOf (barnEntry s c i) 37
    let total := (others.map fun i => bitsOf (barnEntry s c i) 36 26).foldl (· + ·) (bitsOf n 36 26)
    let sets := bitOf n 37
    let excess := sets && (decide (quotaBarn s c < total) || (coveAt s c).overHbm)
    let lap := sets && others.any fun i =>
      let w := barnEntry s c i
      bitsOf w 15 0 == bitsOf n 15 0
        && overlaps (bitsOf w 25 16) (bitsOf w 36 26) (bitsOf n 25 16) (bitsOf n 36 26)
    let used := bitOf old 37 && barnInUse s c old && (!sets || n % 2 ^ 37 != old % 2 ^ 37)
    if excess || lap || used then
      let s := if sets && (coveAt s c).overHbm then recordCove s 0x7009 .corrected c [] else s
      hostError s fn 2 (barOff c fn off)
    else setReg s (cvReg c off) (BitVec.ofNat 64 n))
/-- The placement entry of R220 as its 64 bits. -/
def placementWord (p : Placement) : Nat :=
  (match p.state with | .resident => 0 | .demoting => 1 | .demoted => 2 | .promoting => 3)
    + p.cove * 4 + p.lenderModule * 64 + p.lenderUnit * 2 ^ 22 + p.gen * 2 ^ 32
/-- CV_PLACE_DATA (R575): the entry of R220 when its Cove field names this cove. -/
def placeData (s : State) (c : Nat) : Nat :=
  let i := bitsOf (regAt s (cvReg c 0xD00)).toNat 9 0
  let p := placementAt s i
  if i < 1020 ∧ p.state ≠ .resident ∧ p.cove = c then placementWord p
  else if p.state = .resident ∧ (coveAt s c).unitsI.contains i then 4 * c
  else 0
/-- R575, CV_PLACE_DATA_READ: the entry when it names this cove; the index advances. -/
def effectCvPlaceDataRead (c fn : Nat) (s : State) : Result :=
  .next (if !ownFn c fn then s
    else
      let i := bitsOf (regAt s (cvReg c 0xD00)).toNat 9 0
      let s := { s with host := { s.host with readData := BitVec.ofNat 64 (placeData s c) } }
      setReg s (cvReg c 0xD00) (BitVec.ofNat 64 (if i = 1019 then 0 else (i + 1) % 1024)))

end Sys2Proof.Machine
end

