-- ==== Sys2Proof/Machine/Packets.lean ====
section
/-!
DEFINITION. Packets received from a port: checks, landing, responses, status, acknowledgement and
transit (R233, R254, R262 to R271, R313, R314, R670).
-/
namespace Sys2Proof.Machine

/-! ### Replies -/

/-- R670: the reply to a packet or a stream waits for a class-0x0 slot of the port that leads back (R305); it is lost when
no route does. -/
def replyTo (s : State) (port ptype op : Nat) (p : Packet) : State :=
  queueOut s ⟨64 + portShore port, none, 0, none, false,
    { p with
      ptype := ptype, op := op, gen := moduleGenOf s (64 + portShore port), transit := 0, late := false,
      resent := false, dest := BitVec.ofNat 64 (p.srcModule * 2 ^ 48), srcModule := s.moduleId, due := 0,
      tally := 0, data := [], slot := none }⟩
/-- The status packet of an outcome, to the source unit of the packet (R254, R263, R267, R271). -/
def statusBack (s : State) (port : Nat) (p : Packet) (w : WainStatus) : State := replyTo s port 7 (statusCode w) p

/-! ### Link streams at the destination (R266, R272) -/

/-- The stream of a received packet. -/
def streamOf (p : Packet) : Nat := streamKey p.srcUnit p.srcModule p.cls
/-- The packet's sequence has been delivered already. -/
def delivered (s : State) (p : Packet) : Bool :=
  let n := Sparse.get 0 s.fab.rxStream (streamOf p)
  n != 0 && decide ((n + 131071 - p.seq % 65536) % 65536 < 32768)
/-- Acknowledge a stream up to its last packet. -/
def sendAck (s : State) (port stream : Nat) : State :=
  let last := Sparse.get (0, 0) s.fab.rxLast stream
  let s := { s with fab := { s.fab with rxSinceAck := Sparse.set 0 s.fab.rxSinceAck stream 0 } }
  replyTo s port 6 0
    { ptype := 6, gen := 0, cls := stream % 16, transit := 0, late := false, resent := false, op := 0,
      jobTag := BitVec.ofNat 32 last.1, dest := 0#64, srcModule := stream / 16 % 65536,
      srcUnit := stream / (16 * 65536), seq := Sparse.get 0 s.fab.rxStream stream - 1, tag := last.2,
      due := 0, tally := 0, data := [], slot := none }
/-- Note a packet of a stream; every 64th is acknowledged. -/
def noteStream (s : State) (port : Nat) (p : Packet) : State :=
  let k := streamOf p
  let n := Sparse.get 0 s.fab.rxSinceAck k + 1
  let s := { s with fab := { s.fab with
    rxStream := Sparse.set 0 s.fab.rxStream k (p.seq % 65536 + 1),
    rxLast := Sparse.set (0, 0) s.fab.rxLast k (p.jobTag.toNat, p.tag),
    rxSinceAck := Sparse.set 0 s.fab.rxSinceAck k n } }
  if 64 ≤ n then sendAck s port k else s
/-- R266, ACK_EMIT: a stream that delivered in the port slot that ends is acknowledged. -/
def execAckEmit (port stream : Nat) (s : State) : Result :=
  .next (if Sparse.get 0 s.fab.rxSinceAck stream = 0 then s else sendAck s port stream)

/-! ### Lateness (R254, R262, R317) -/

/-- R262: the due tick nearest to now lies before now; of two equally near, the later is taken. -/
def pastDue (now due : Nat) : Bool := decide (2 ^ 23 < (due % 2 ^ 24 + 2 ^ 24 - now % 2 ^ 24) % 2 ^ 24)
/-- R254: mark a packet LATE: the count of its target cove, the status packet, and a schedule overrun when
no second retry delayed it (R317). -/
def markLate (s : State) (port : Nat) (p : Packet) (c : Option Nat) : State :=
  let s := match c with
    | some c => bumpCoveSet (updStats s c fun t => { t with lateDeliveries := t.lateDeliveries + 1 }) (some c) 6 1
    | none => s
  let s := statusBack s port p .late
  if (portAt s port).rxRetry = some s.tide.now then s
  else
    let s := { s with tide := { s.tide with cntOverrun := satTo 32 (s.tide.cntOverrun + 1) } }
    record s 0x1040 .corrected (coveNum c) (1408 + port) []

/-! ### The checks (R210, R264, R314) -/

/-- The address a packet's target checks: a slot write or notice of the bay or hall names a cove rank
(R170). -/
def packetAddr (s : State) (p : Packet) : Option Nat :=
  match p.slot with
  | some n => rankAddr s p.jobTag n p.dest.toNat
  | none => some p.dest.toNat
/-- The byte count of a read request (R265). -/
def requestLen (p : Packet) : Nat := leVal ((p.data.drop 8).take 4)
/-- The WAIN op of an atomic packet. -/
def packetOp (p : Packet) : Nat := p.op % 16
/-- Operand bytes of an atomic packet: WAFADD takes every data byte, pad zeros included. -/
def packetOperand (p : Packet) : List Byte :=
  match packetOp p with
  | 0x08 => p.data.take 8
  | 0x09 => p.data.take 8
  | 0x0A => p.data.take 16
  | _ => p.data
/-- The access that a packet makes; movers and the headland carry the module generation (R312). -/
def packetAccess (s : State) (p : Packet) (addr : Nat) : Access :=
  let modScope := decide (1280 ≤ p.srcUnit)
  match p.ptype with
  | 2 => ⟨.read, addr, requestLen p, p.jobTag, p.gen, modScope, p.srcModule, p.srcUnit, 64⟩
  | 4 => ⟨.atomic, addr, atomicBytes (packetOp p) (packetOperand p).length, p.jobTag, p.gen, modScope,
      p.srcModule, p.srcUnit, opAlign (packetOp p)⟩
  | _ => ⟨.write, addr, p.data.length, p.jobTag, p.gen, modScope,
      if p.ptype = 3 then s.moduleId else p.srcModule, p.srcUnit, 64⟩
/-- The die whose hold buffer a packet takes room in: compute dies 0 to 63, shore dies from 64. -/
def holdDie (addr : Nat) : Nat :=
  match placeOf addr with
  | .scratch core _ => dieOf core
  | .near die _ => die
  | .hbm off => 64 + (frameAt off).1
  | .dieControl die _ => die
  | .shoreControl n _ => 64 + n
  | .host _ => 64
  | .bad => 64
/-- Bytes held for a die. -/
def heldBytes (s : State) (die : Nat) : Nat :=
  ((s.tide.heldPackets.filter fun h => h.die == die).map fun h => 32 * flitsOf h.packet.data.length).foldl
    (· + ·) 0
/-- A refused packet: counted at the target and at the port, a status goes back. -/
def refusePacket (s : State) (port : Nat) (p : Packet) (addr : Nat) (w : WainStatus) : State :=
  let s := refusalNote s (packetAccess s p addr) w
  let s := if w = .tallyFailure then tallyFound s (placeOf addr) 2 addr else s
  statusBack (updPort s port fun q => { q with cntRefused := satTo 32 (q.cntRefused + 1) }) port p w
/-- R314: hold a packet of a newer generation, or refuse it when the 64 KiB buffer of its die is full. -/
def holdPacket (s : State) (port : Nat) (p : Packet) (addr : Nat) : State :=
  let die := holdDie addr
  if 65536 < heldBytes s die + 32 * flitsOf p.data.length then refusePacket s port p addr .generationReject
  else
    let s := countSkew s (packetAccess s p addr) true
    { s with tide := { s.tide with heldPackets := s.tide.heldPackets ++ [⟨die, port, p, s.tide.now⟩] } }
/-- Room that Tideway ingress takes before local traffic (R316). -/
def ingressRoom (s : State) (port : Nat) (pl : Place) (dir len : Nat) : State :=
  let s := takeRoom s (shoreKey (portShore port) 0) len
  (placeNeeds pl dir).foldl (fun s n => takeRoom s (needKey n) len) s

/-! ### Landing -/

/-- A packet that a unit of this module sends out of it on the route to its destination, in its class and in any cove's
slots, with a due tick (R268, R270). -/
def sendFrom (s : State) (unit : Nat) (p : Packet) : State := queueOut s ⟨unit, none, p.cls, none, true, p⟩
/-- Write to the host window of a cove (R209): none when no entry covers it or the host cannot be reached. -/
def landHost (s : State) (c off : Nat) (bs : List Byte) : WainStatus × State :=
  match hostTranslate s c off bs.length true with
  | none => (.addressFault, s)
  | some iova => if hostReach s c then (.done, hostWrite s (c + 1) iova bs) else (.unreachable, hostFailed s (c + 1) iova)
/-- Data that comes back to this module itself lands under the checks of R210, without a port (R270). -/
def landBack (s : State) (port : Nat) (p : Packet) (x : Nat × List Byte) : State :=
  let q := { p with ptype := 3, op := 0, dest := BitVec.ofNat 64 x.1, data := x.2 }
  match targetCheck s (packetAccess s q x.1) with
  | .ok => landWrite s p.jobTag (placeOf x.1) x.2
  | .hold => statusBack (refusalNote s (packetAccess s q x.1) .generationReject) port p .generationReject
  | .refuse w => statusBack (refusalNote s (packetAccess s q x.1) w) port p w
/-- The data of a read request goes to its return address (R265), cut at 4 KiB boundaries, with the
request's tag and class; the source unit stays the requester's. -/
def sendResponse (s : State) (port : Nat) (p : Packet) (back : Nat) (bs : List Byte) : State :=
  (cutBlocks 3 back bs).foldl (fun s x =>
    if addrModule back = s.moduleId then landBack s port p x
    else sendFrom s (holdDie p.dest.toNat)
      (dataPacket s 3 0 p.gen p.cls p.srcUnit p.tag 0 p.jobTag x.1 x.2)) s
/-- The place is a control region, whose contents the controllers keep (R208). -/
def isControl : Place → Bool
  | .dieControl _ _ => true
  | .shoreControl _ _ => true
  | .scratch _ _ => false | .near _ _ => false | .hbm _ => false | .host _ => false | .bad => false
/-- A packet that passed its target's checks takes effect; an access to a control region goes to its controller. -/
def landChecked (s : State) (port : Nat) (p : Packet) (addr : Nat) (late : Bool) : State :=
  let pl := placeOf addr
  let s := if late then markLate s port p (placeCove s pl) else s
  if isControl pl then { s with fab := { s.fab with control := s.fab.control ++ [(port, p)] } }
  else match p.ptype with
  | 2 =>
    let n := requestLen p
    if n % 64 ≠ 0 ∨ n = 0 ∨ 4096 < n then refusePacket s port p addr .addressFault
    else if condemned s pl n then statusBack (condemn s pl n) port p .tallyFailure
    else
      let r := match pl, ctxOfTag s (placeCore pl) p.jobTag with
        | .scratch core off, some k => readScratch s core [(winAddr (ctxAt s core k) off, n)]
        | _, _ => (true, s)
      if !r.1 then statusBack r.2 port p .tallyFailure
      else
        let s := match pl with
          | .hbm off => bump r.2 4 (hbmPlace off).1 0 n
          | _ => r.2
        sendResponse (ingressRoom s port pl 0 n) port p (leVal (p.data.take 8)) (placeRead s p.jobTag pl n)
  | 4 =>
    if condemned s pl 1 then statusBack (condemn s pl 1) port p .tallyFailure
    else
      let r := atomicAt (ingressRoom s port pl 1 64) p.jobTag pl (packetOp p) (packetOperand p)
      if bitOf p.op 7 then
        sendFrom r.2 (holdDie addr) (dataPacket s 5 p.op p.gen p.cls p.srcUnit p.tag 0 p.jobTag
          (p.srcModule * 2 ^ 48) (padFlit r.1))
      else r.2
  | _ =>
    let s := ingressRoom s port pl 1 p.data.length
    match p.slot, pl with
    | some n, .scratch core off =>
      (match ctxOfTag s core p.jobTag with
       | some k =>
         let r := slotLand s core k n off p.data late
         if r.1 then r.2 else statusBack r.2 port p .addressFault
       | none => s)
    | _, _ => landWrite s p.jobTag pl p.data
/-- R267: the checks of R210 in their order, then the tally, then the effect. -/
def landPacket (s : State) (port : Nat) (p : Packet) (late : Bool) : State :=
  match packetAddr s p with
  | none => refusePacket s port p p.dest.toNat .jobTagRefusal
  | some addr =>
    match targetCheck s (packetAccess s p addr) with
    | .hold => holdPacket s port p addr
    | .refuse w => refusePacket s port p addr w
    | .ok =>
      if p.tally ≠ tallyOf p.data then refusePacket s port p addr .tallyFailure
      else landChecked s port p addr late

/-! ### Responses and status at the requester -/

/-- The core's context and descriptor that a tag names. -/
def descOf (s : State) (core : Nat) (p : Packet) : Option (Nat × WainDesc) :=
  match ctxOfTag s core p.jobTag with
  | some k => ((ctxAt s core k).wainQ.find? fun d => d.seq % 65536 == p.tag % 65536).map (k, ·)
  | none => none
/-- The descriptor that a read response answers: one that awaits data at the response's address. A response to a unit of
another module, whose return address lies here, answers none. -/
def awaitsAt (s : State) (core : Nat) (p : Packet) : Option (Nat × WainDesc) :=
  match descOf s core p with
  | some (k, d) =>
    let lo := if d.localDst then scratchAddr s.moduleId core d.dst.toNat else d.dst.toNat
    if 0 < d.awaiting ∧ lo ≤ p.dest.toNat ∧ p.dest.toNat < lo + d.len then some (k, d) else none
  | none => none
/-- One answer of a descriptor has come. -/
def answered (s : State) (core k seq : Nat) (w : WainStatus) : State :=
  updWain s core k seq fun d => { d with awaiting := d.awaiting - 1, status := worse d.status w }
/-- A response that is refused: counted, its status sent to its source unit and taken by the descriptor that awaits it. -/
def refuseResponse (s : State) (port : Nat) (p : Packet) (w : WainStatus) : State :=
  let s' := refusePacket s port p p.dest.toNat w
  match awaitsAt s p.srcUnit p with
  | some (k, d) => answered s' p.srcUnit k d.seq w
  | none => s'
/-- A wain's data that comes back to a unit demoted meanwhile goes on to its lender (R222). -/
def forwardWrite (s : State) (p : Packet) (c a : Nat) : State :=
  queueOut (markDirty s (addrModule a) (a % 2 ^ 44)) ⟨holdDie p.dest.toNat, some c, 0xC, none, true,
    dataPacket s 1 0 (coveTideAt s c).gen 0xC p.srcUnit p.tag 0 p.jobTag a p.data⟩
/-- R265: a read response lands at a wain's destination: memory of this module, its host window, or the lender of a
demoted unit. -/
def landWainResponse (s : State) (port : Nat) (p : Packet) (late : Bool) : State :=
  let c := coveNum (coveOfCore s p.srcUnit)
  let done := fun (s : State) =>
    match awaitsAt s p.srcUnit p with
    | some (k, d) =>
      answered (foldDigest s p.srcUnit k d p.data) p.srcUnit k d.seq (if late then .late else .done)
    | none => s
  match placeOf p.dest.toNat, awaitsAt s p.srcUnit p with
  | .host off, some _ =>
    let r := landHost s c off p.data
    if r.1 = .done then done (if late then markLate r.2 port p (some c) else r.2)
    else refuseResponse r.2 port p r.1
  | .host _, none => refusePacket s port p p.dest.toNat .addressFault
  | _, w =>
    let r := if w.isSome then barnRedirect s c p.dest.toNat else (p.dest.toNat, false)
    if addrModule r.1 ≠ s.moduleId then done (forwardWrite (if late then markLate s port p (some c) else s) p c r.1)
    else
      let q := { p with dest := BitVec.ofNat 64 r.1 }
      match targetCheck s (packetAccess s q r.1) with
      | .hold => holdPacket s port p p.dest.toNat
      | .refuse x => refuseResponse s port p x
      | .ok => done (landChecked s port q r.1 late)
/-- R265: a mover's block lands at its return address, and is awaited no more. -/
def landPromoted (s : State) (p : Packet) : State :=
  let off := p.dest.toNat % 2 ^ 44
  let s := clearMark (hbmWrite s off p.data) (.hbm off) p.data.length
  { s with mem := { s.mem with
      promoting := s.mem.promoting.map fun q => (q.1, q.2.filter (· ≠ (p.srcUnit - 1280) * 16384 + p.tag)) } }
/-- The status that a feed's response or a mover's block ends with, when a check or its tally fails (R264, R267, R464). -/
def responseFails (s : State) (port : Nat) (p : Packet) (w : WainStatus) : State :=
  let s := refusePacket s port p p.dest.toNat w
  if p.srcUnit < 1280 then
    match ctxOfTag s (4 * (p.srcUnit - 1024)) p.jobTag with
    | some k => thrFails s (p.srcUnit - 1024) k 0 w
    | none => s
  else if p.srcUnit < 1296 then match coveOfTag s p.jobTag with
    | some c => moverStatus s c (p.srcUnit - 1280) p.tag w
    | none => s
  else s
/-- R265, R267: a read response lands at the requester: a wain's destination, a thresher feed's bundle, or a
promoting unit's block. -/
def landResponse (s : State) (port : Nat) (p : Packet) (late : Bool) : State :=
  if p.srcUnit < 1024 then
    if p.tally ≠ tallyOf p.data then refuseResponse s port p .tallyFailure else landWainResponse s port p late
  else
    match targetCheck s (packetAccess s p p.dest.toNat) with
    | .hold => holdPacket s port p p.dest.toNat
    | .refuse w => responseFails s port p w
    | .ok =>
      if p.tally ≠ tallyOf p.data then responseFails s port p .tallyFailure
      else
        let s := if late then markLate s port p (placeCove s (placeOf p.dest.toNat)) else s
        if p.srcUnit < 1280 then
          match ctxOfTag s (4 * (p.srcUnit - 1024)) p.jobTag with
          | some k => tupdResponse s (p.srcUnit - 1024) k p.tag p.data
          | none => s
        else if p.srcUnit < 1296 then landPromoted s p
        else landWrite s p.jobTag (placeOf p.dest.toNat) p.data
/-- An atomic response: the old values at the descriptor's rR. Its address names this module only (R263), so that of the
checks of R210 the generation, the job tag and the tally are its own (log entry 84). -/
def landAtomicResponse (s : State) (port : Nat) (p : Packet) (late : Bool) : State :=
  let back := packetAccess s p (scratchAddr s.moduleId p.srcUnit 0)
  let fails := fun (s : State) (w : WainStatus) =>
    let s' := refusePacket s port p p.dest.toNat w
    match descOf s p.srcUnit p with
    | some (k, d) => answered s' p.srcUnit k d.seq w
    | none => s'
  match genCheck s back with
  | .hold => holdPacket s port p p.dest.toNat
  | .refuse w => fails s w
  | .ok =>
    match descOf s p.srcUnit p with
    | none => refusePacket s port p p.dest.toNat .jobTagRefusal
    | some (k, d) =>
      if p.tally ≠ tallyOf p.data then fails s .tallyFailure
      else
        let s := if late then markLate s port p (coveOfCore s p.srcUnit) else s
        let s := match d.ret with
          | some off => scratchWrite s p.srcUnit (winAddr (ctxAt s p.srcUnit k) off) (p.data.take (atomicBytes d.op d.len))
          | none => s
        answered s p.srcUnit k d.seq (if late then .late else .done)
/-- A data packet of this module takes effect by its type. -/
def landAny (s : State) (port : Nat) (p : Packet) (late : Bool) : State :=
  match p.ptype with
  | 3 => landResponse s port p late
  | 5 => landAtomicResponse s port p late
  | _ => landPacket s port p late
/-- Packets held for a generation that their target has adopted land in order, never LATE (R314); those
that still wait stay. The fuel is the number of packets held. -/
def releaseFrom : Nat → State → List HeldPacket → State
  | 0, s, _ => s
  | _, s, [] => s
  | n + 1, s, h :: t =>
    let addr := (packetAddr s h.packet).getD h.packet.dest.toNat
    let s := match genCheck s (packetAccess s h.packet addr) with
      | .hold => { s with tide := { s.tide with heldPackets := s.tide.heldPackets ++ [h] } }
      | _ => landAny s h.port h.packet false
    releaseFrom n s t
/-- Release what a change of generation lets pass. -/
def releaseHeld (s : State) : State :=
  let l := s.tide.heldPackets
  releaseFrom l.length { s with tide := { s.tide with heldPackets := [] } } l

/-- R464: a target found the tally of a packet wrong. The headland verifies the source block: one that fails is condemned;
otherwise the failure counts against the source die and the port of the path. -/
def verifySource (s : State) (core : Nat) (d : WainDesc) : State :=
  let c := coveNum (coveOfCore s core)
  let blame := fun (s : State) =>
    let s := updLedger s (dieOf core) fun r => { r with tallyFails := r.tallyFails + 1 }
    match resolve s c d.dst.toNat with
    | .away a _ => (match routeTo s (dieOf core) (addrModule a) with
        | some (q, _) => updLedger (wearAdd s 1 (portShore q) 0 1) (64 + portShore q) fun r =>
            { r with tallyFails := r.tallyFails + 1 }
        | none => s)
    | .here _ _ => s
    | .absent => s
  if d.localSrc ∨ d.op ≠ 0 then blame s
  else match resolve s c d.src.toNat with
    | .here a _ => if condemned s (placeOf a) d.len then condemn s (placeOf a) d.len else blame s
    | .away _ _ => blame s
    | .absent => s
/-- R254, R670: a status packet sets the outcome of the descriptor that it names; a completed
descriptor's goes to the sticky wain status, and its outcome acts at once. -/
def landStatus (s : State) (p : Packet) : State :=
  match statusOfCode p.op with
  | none => s
  | some w =>
    if p.srcUnit < 1024 then
      match descOf s p.srcUnit p with
      | some (k, d) =>
        let s := if w = .tallyFailure then verifySource s p.srcUnit d else s
        updWain s p.srcUnit k d.seq fun d =>
          { d with status := worse d.status w, awaiting := if w = .late then d.awaiting else d.awaiting - 1 }
      | none =>
        (match ctxOfTag s p.srcUnit p.jobTag with
         | some k =>
           let s := updCtx s p.srcUnit k fun x => { x with wainStatus := worse x.wainStatus w }
           statusOutcome s p.srcUnit p.tag w
         | none => s)
    else if p.srcUnit < 1280 then
      match ctxOfTag s (4 * (p.srcUnit - 1024)) p.jobTag with
      | some k => if w = .late then s else thrFails s (p.srcUnit - 1024) k p.tag w
      | none => statusOutcome s (4 * (p.srcUnit - 1024)) p.tag w
    else if p.tag < 0x8000 ∧ p.srcUnit < 1296 then
      match coveOfTag s p.jobTag with
      | some c => if w = .late then s else moverStatus s c (p.srcUnit - 1280) p.tag w
      | none => s
    else if 0x8000 ≤ p.tag ∧ w ≠ .late then
      let q := (p.tag - 0x8000) / 8
      let f := fun (l : LoadQueue) =>
        { l with inflight := l.inflight.map fun x =>
            if x.ran ∧ bitOf x.entry.flags 2 then
              { x with status := (match w with | .unreachable => 0xC | .tallyFailure => 0xB | _ => 9), peerBits := x.peerBits ||| 2 ^ (p.tag % 8) } else x }
      if q < 16 then updCove s q fun v => { v with lq := f v.lq }
      else { s with load := { s.load with pq := f s.load.pq } }
    else s
/-- R266: an acknowledgement frees the packets of its stream up to its sequence, on every port. -/
def landAck (s : State) (p : Packet) : State :=
  let acked := fun (u : Packet) => u.srcUnit == p.srcUnit && addrModule u.dest.toNat == p.srcModule && u.cls == p.cls
    && decide ((p.seq + 65536 - u.seq % 65536) % 65536 < 32768)
  let s := { s with fab := { s.fab with
    waiting := s.fab.waiting.filter fun o => !(isResend s o.packet && acked o.packet) } }
  forEach s (List.range 128) fun s q =>
    if (portAt s q).unacked = [] then s
    else updPort s q fun x => { x with unacked := x.unacked.filter fun u => !acked u }

/-! ### Transit (R271) -/

/-- Ticks until a slot of a class is in force on a port, in whatever cove's name. -/
def slotWait (s : State) (q cls : Nat) : Option Nat :=
  let cyc := 2 ^ s.tide.cycleExp
  let pos := s.tide.now % cyc
  let l := portEntries s q
  match spanAt l pos with
  | none => none
  | some e =>
    if bitsOf e.2 28 25 = cls then some 0
    else ((l.filter fun x => bitsOf x.2 28 25 == cls).map fun x => (spanStart x.2 + cyc - pos) % cyc).foldl
      (fun r w => some (match r with | some m => min m w | none => w)) none
/-- Ticks left before the due tick. -/
def untilDue (now due : Nat) : Nat := (due % 2 ^ 24 + 2 ^ 24 - now % 2 ^ 24) % 2 ^ 24
/-- Forward a packet of another module, or refuse it: event 0x2008 and an unreachable status. -/
def transit (s : State) (port : Nat) (p : Packet) : State :=
  let m := addrModule p.dest.toNat
  let ctrl := p.ptype == 6 || p.ptype == 7
  let refuse := fun (s : State) =>
    let s := updPort s port fun q => { q with cntRefused := satTo 32 (q.cntRefused + 1) }
    let s := recordPort s port 0x2008 []
    if ctrl then s else statusBack s port p .unreachable
  if 3 ≤ p.transit then refuse s
  else match routeTo s (64 + portShore port) m with
    | none => refuse s
    | some (q, _) =>
      match slotWait s q (if ctrl then 0 else p.cls) with
      | none => refuse s
      | some w =>
        if !ctrl && (pastDue s.tide.now p.due || decide (untilDue s.tide.now p.due ≤ w)) then refuse s
        else
          queueOut s ⟨64 + portShore port, none, if ctrl then 0 else p.cls, some q, false,
            { p with transit := p.transit + 1 }⟩

/-! ### Reception -/

/-- A whole packet has been received: it goes on, or it is taken once. -/
def takePacket (s : State) (port : Nat) (p : Packet) : State :=
  let s := bump (bump s 3 port 1 (flitsOf p.data.length)) 3 port 3 1
  if addrModule p.dest.toNat ≠ s.moduleId then transit s port p
  else if p.ptype = 6 then landAck s p
  else if p.ptype = 7 then landStatus s p
  else if delivered s p then s
  else landAny (noteStream s port p) port p (p.late || pastDue s.tide.now p.due)
/-- A packet of a type arrives on an active port: behind a codeword that has not been decoded it is held in arrival order
(R251). More than 128 data flits are no packet (R261). Time transfer has its own commands. -/
def receive (s : State) (port : Nat) (p : Packet) : State :=
  if (portAt s port).mode ≠ .active ∨ 128 ≤ port ∨ 4096 < p.data.length then s
  else if (portAt s port).rxHeld ≠ [] then updPort s port fun q => { q with rxHeld := q.rxHeld ++ [.packet p] }
  else takePacket s port p
/-- R267, PACKET_WRITE. -/
def execPacketWrite (port : Nat) (p : Packet) (s : State) : Result := .next (receive s port { p with ptype := 1 })
/-- R265, PACKET_READ_REQUEST. -/
def execPacketReadRequest (port : Nat) (p : Packet) (s : State) : Result :=
  .next (receive s port { p with ptype := 2 })
/-- R265, PACKET_READ_RESPONSE. -/
def execPacketReadResponse (port : Nat) (p : Packet) (s : State) : Result :=
  .next (receive s port { p with ptype := 3 })
/-- R233, PACKET_ATOMIC_REQUEST. -/
def execPacketAtomicRequest (port : Nat) (p : Packet) (s : State) : Result :=
  .next (receive s port { p with ptype := 4 })
/-- R263, PACKET_ATOMIC_RESPONSE. -/
def execPacketAtomicResponse (port : Nat) (p : Packet) (s : State) : Result :=
  .next (receive s port { p with ptype := 5 })
/-- R670, PACKET_ACKNOWLEDGE. -/
def execPacketAcknowledge (port : Nat) (p : Packet) (s : State) : Result :=
  .next (receive s port { p with ptype := 6 })
/-- R670, PACKET_STATUS. -/
def execPacketStatus (port : Nat) (p : Packet) (s : State) : Result := .next (receive s port { p with ptype := 7 })
/-- R271, PACKET_TRANSIT: a packet whose destination is another module. -/
def execPacketTransit (port : Nat) (p : Packet) (s : State) : Result :=
  .next (if addrModule p.dest.toNat = s.moduleId ∨ p.ptype = 8 then s else receive s port p)
/-- R314, GENERATION_HOLD_TIMEOUT: packets held past one cycle of the target cove's cluster table, or one
module cycle, are refused. -/
def execGenerationHoldTimeout (s : State) : Result :=
  let excess := fun (h : HeldPacket) =>
    let addr := (packetAddr s h.packet).getD h.packet.dest.toNat
    let cyc := if 1280 ≤ h.packet.srcUnit then s.tide.cycleExp
      else match placeCove s (placeOf addr) with
        | some c => planCycle s c (coveTideAt s c).bank
        | none => s.tide.cycleExp
    decide (h.tick + 2 ^ cyc < s.tide.now)
  let out := s.tide.heldPackets.filter excess
  let s' := { s with tide := { s.tide with heldPackets := s.tide.heldPackets.filter fun h => !excess h } }
  .next (forEach s' out fun s h =>
    refusePacket s h.port h.packet ((packetAddr s h.packet).getD h.packet.dest.toNat) .generationReject)

end Sys2Proof.Machine
end

