-- ==== Sys2Proof/Machine/Ports.lean ====
section
/-!
DEFINITION. Ports: presence, training, retrains, replay and fences; the routing banks (R239 to R260,
R263, R269 to R284).
-/
namespace Sys2Proof.Machine

/-! ### States and fences (R255, R272, R281) -/

/-- State codes of R255. -/
def portCode : PortMode → Nat
  | .absent => 0 | .seeking => 1 | .training => 2 | .active => 3 | .retraining => 4 | .fenced => 5
/-- The port runs through its optical engine (R239, R260). -/
def isOptical (s : State) (p : Nat) : Bool := 64 ≤ p && !s.copperOnly && !s.cu
/-- Set a port's state; FAB_STATUS.CHANGED takes this tick when the state changes (R281). -/
def setPortMode (s : State) (p : Nat) (m : PortMode) (cause : Nat) : State :=
  updPort s p fun q => { q with mode := m, cause := cause, changed := if q.mode = m then q.changed else s.tide.now }
/-- R255: a change that no event of its own names: 0x2010 with the old and the new state. -/
def movePort (s : State) (p : Nat) (m : PortMode) (cause : Nat) : State :=
  let old := (portAt s p).mode
  if old = m then setPortMode s p m cause
  else recordPort (setPortMode s p m cause) p 0x2010 [portCode old, portCode m]
/-- R272: a fenced port's unacknowledged packets are resent in their order, ahead of every new packet of their streams, on
the port that the routing entry selects then, with their due ticks; event 0x2006 with their number. -/
def failOver (s : State) (p : Nat) : State :=
  let l := (portAt s p).unacked
  let s := updPort s p fun q => { q with unacked := [], txFlits := [] }
  let s := { s with fab := { s.fab with
    waiting := s.fab.waiting ++ l.map fun u => ⟨64 + portShore p, none, u.cls, none, false, { u with resent := true }⟩ } }
  recordPort s p 0x2006 [l.length]
/-- The port carries traffic or may again: its routes fail over when it stops. -/
def wasRouted (m : PortMode) : Bool := m == .active || m == .retraining
/-- Fence a port with a cause; an absent port stays absent (R282). -/
def fencePort (s : State) (p cause : Nat) : State :=
  let old := (portAt s p).mode
  if old = .absent ∨ old = .fenced then s
  else
    let s := fenceNote (movePort s p .fenced cause) 6 p cause 0
    if wasRouted old then failOver s p else s
/-- The ports of a shore die. -/
def shorePorts (n : Nat) : List Nat := (List.range 4).flatMap fun i => [4 * n + i, 64 + 4 * n + i]

/-! ### Presence and training (R255 to R260) -/

/-- The ports that share a connector: the four of an optical engine. -/
def connectorPorts (s : State) (p : Nat) : List Nat :=
  if isOptical s p then (List.range 4).map (p / 4 * 4 + ·) else [p]
/-- R259, PRESENCE_LOSS: the port, whatever its state, is fenced and passes to absent; event 0x2001. -/
def execPresenceLoss (port : Nat) (s : State) : Result :=
  .next (if 128 ≤ port then s else forEach s (connectorPorts s port) fun s p =>
    let old := (portAt s p).mode
    if old = .absent ∧ !(portAt s p).present then s
    else
      let s := updPort s p fun q => { q with present := false }
      let s := recordPort (fenceNote (setPortMode s p .absent 1) 6 p 1 0) p 0x2001 []
      if wasRouted old then failOver s p else s)
/-- An optical engine has lost its management: its segment is empty or failed, or its target (R260, R623). -/
def mgmtLost (s : State) (n : Nat) : Bool :=
  let seg := 2 + n / 8
  decide (2 ≤ (Sparse.get Segment.reset s.tray.segments seg).state)
    || (Sparse.get Target.reset s.tray.targets (128 * seg + 0x60 + n % 8)).failed
/-- The port's optical engine is fenced or has lost its management (R260). -/
def opticDown (s : State) (p : Nat) : Bool :=
  isOptical s p && (Sparse.get 0 s.health.opticFence ((p - 64) / 4) != 0 || mgmtLost s ((p - 64) / 4))
/-- A port that has begun to seek is fenced again while its shore die is fenced or the host's fence stands (R282, R480; log
entry 86). -/
def standingFence (s : State) (p : Nat) : State :=
  if Sparse.get 0 s.health.shoreFence (portShore p) ≠ 0 then fencePort s p 3
  else if (portAt s p).hostFence then fencePort s p 2
  else s
/-- R255, PRESENCE_APPEAR: an absent port goes to seeking, or stays absent with cause 6 without its optical engine. -/
def execPresenceAppear (port : Nat) (s : State) : Result :=
  .next (if 128 ≤ port then s else forEach s (connectorPorts s port) fun s p =>
    let s := updPort s p fun q => { q with present := true }
    if (portAt s p).mode ≠ .absent then s
    else if opticDown s p then setPortMode s p .absent 6
    else standingFence (movePort s p .seeking 0) p)
/-- R260: an optical port whose engine is absent, fenced or without management is absent with cause 6. -/
def loseOptic (s : State) (p : Nat) : State :=
  let old := (portAt s p).mode
  if old = .absent then (if (portAt s p).present then setPortMode s p .absent 6 else s)
  else
    let s := fenceNote (movePort s p .absent 6) 6 p 6 0
    if wasRouted old then failOver s p else s
/-- R255, SEEKING_PATTERN: a training pattern for 10 ms in every 100 ms. -/
def execSeekingPattern (port : Nat) (s : State) : Result :=
  let q := portAt s port
  .next (if q.mode = .seeking ∧ (q.pattern = 0 ∨ q.pattern + 100000000 ≤ s.tide.now) then
    updPort s port fun q => { q with pattern := s.tide.now } else s)
/-- R255, PARTNER_SIGNAL_DETECT: training starts on an enabled port. -/
def execPartnerSignalDetect (port : Nat) (s : State) : Result :=
  let q := portAt s port
  .next (if q.mode = .seeking ∧ q.en then
    updPort (movePort s port .training 0) port fun q =>
      { q with trainStart := s.tide.now, phase := 1, miswire := false } else s)
/-- Training failed: the port returns to seeking, event 0x2003. -/
def trainingFails (s : State) (p : Nat) : State :=
  recordPort (setPortMode s p .seeking 0) p 0x2003 []
/-- R243, R244, R257: the partner breaks the wiring rule. A service port takes any partner. -/
def isMiswire (s : State) (p : Nat) (m : Training) : Bool :=
  let pos := s.moduleId % 64
  if isService s p then false
  else if isOptical s p then m.partnerModule / 64 == s.moduleId / 64
  else !(m.partnerModule / 64 == s.moduleId / 64 && m.partnerModule % 64 == p % 64
    && m.partnerPort == (if p < 64 then pos else 64 + pos) && m.partnerCopperOnly == s.copperOnly)
/-- FAB_PARTNER of what phase 5 learnt (R283). -/
def partnerWord (m : Training) : Word :=
  BitVec.ofNat 32 (m.partnerModule % 65536 + m.partnerPort % 128 * 65536 + natOf m.partnerCu * 2 ^ 23
    + m.partnerGen % 16 * 2 ^ 24 + natOf m.partnerCopperOnly * 2 ^ 28)
/-- The crossing time X in ps (R248). -/
def crossing (q : Port) : Nat := codeTime q.rs + codeDelay q.rs + q.flight
/-- The link term 3X of a flight in fs, rounded up to ns (R280). -/
def linkTermOf (rs : Bool) (flight : Nat) : Nat := (3 * (1000 * (codeTime rs + codeDelay rs) + flight) + 999999) / 1000000
/-- R249: the code that phase 3 chooses is RS; ratios are in units of 10^-12. -/
def choosesRs (s : State) (p : Nat) (m : Training) : Bool :=
  isOptical s p || (portAt s p).fecReq || m.partnerRs || decide (10000000 < m.ser0)
    || decide (10000000 < m.ser1) || decide (10000000 < m.serBack)
/-- The link begins at codeword 0 in both directions, with nothing held, kept or due (R250, R256). -/
def linkStart (q : Port) (now : Tick) : Port :=
  { q with phase := 0, since := now, txSeq := 0, rxSeq := 0, txFlits := [], txBuf := [], replays := [], nakOut := [],
           naks := [], rxHeld := [], rxHeader := none, rxData := [], guardTaken := false, nextGuardTaken := false,
           rxRetry := none, reserved := [], uncorr := [] }
/-- R256, TRAINING_PHASE_END: the work of the phase that ends; the seventh makes the port active. -/
def execTrainingPhaseEnd (port : Nat) (m : Training) (s : State) : Result :=
  let q := portAt s port
  .next (if q.mode ≠ .training ∧ q.mode ≠ .retraining then s
    else if !m.ok then trainingFails s port
    else
      let next := fun (s : State) => updPort s port fun q => { q with phase := q.phase + 1 }
      match q.phase with
      | 2 =>
        next (updPort s port fun q =>
          { q with txEq := m.eq, txPre0 := m.pre0, txPre1 := m.pre1, rxPre0 := m.own0, rxPre1 := m.own1 })
      | 3 =>
        let rs := choosesRs s port m
        let s := updPort s port fun q => { q with rs := rs, trainSer0 := m.ser0, trainSer1 := m.ser1 }
        next (if rs && !q.fecReq && !isOptical s port then recordPort s port 0x200A [] else s)
      | 4 =>
        match findBoundary q.rs q.rxPre0 q.rxPre1 m.levels0 m.levels1 with
        | some _ => next (updPort s port fun q =>
            { q with rxLevel0 := m.levels0.getLastD 0, rxLevel1 := m.levels1.getLastD 0 })
        | none => trainingFails s port
      | 5 =>
        let s := updPort s port fun q => { q with partner := partnerWord m }
        if isMiswire s port m then
          recordPort (updPort (fenceNote (setPortMode s port .fenced 5) 6 port 5 0) port fun q => { q with miswire := true })
            port 0x2005 []
        else next s
      | 6 =>
        next (updPort s port fun q =>
          { q with flight := (m.flight + 500) / 1000, linkTerm := linkTermOf q.rs m.flight })
      | 7 =>
        let s := updPort (setPortMode s port .active 0) port fun q =>
          linkStart { q with eye0 := m.eye0, eye1 := m.eye1 } s.tide.now
        let s := { s with tide := { s.tide with
          heard := Sparse.set none s.tide.heard port none, requests := Sparse.set 0 s.tide.requests port 0 } }
        recordPort s port 0x2002 [natOf (portAt s port).rs, (portAt s port).flight]
      | _ => next s)
/-- R256, TRAINING_TIMEOUT: 40 ms for copper, 120 ms for an optical port. -/
def execTrainingTimeout (port : Nat) (s : State) : Result :=
  let q := portAt s port
  let limit := if isOptical s port then 120000000 else 40000000
  .next (if (q.mode = .training ∨ q.mode = .retraining) ∧ q.trainStart + limit ≤ s.tide.now then
    trainingFails s port else s)
/-- R258: a retrain, event 0x2004: the routes are fenced and fail over; the eighth within 10 minutes fences the port with
cause 4, event 0x200C. -/
def retrain (s : State) (p : Nat) : State :=
  let q := portAt s p
  if q.mode ≠ .active then s
  else
    let times := (q.retrains.filter fun t => decide (s.tide.now < t + 600000000000)) ++ [s.tide.now]
    let s := updPort s p fun q =>
      { q with retrains := times, cntRetrain := satTo 32 (q.cntRetrain + 1), trainStart := s.tide.now, phase := 1 }
    let s := wearAdd s 2 p 3 1
    let s := if isOptical s p then wearAdd s 4 ((p - 64) / 4) 0 1 else s
    let s := updLedger s (64 + portShore p) fun r => { r with hangs := r.hangs + 1 }
    let s := recordPort (setPortMode s p .retraining 0) p 0x2004 []
    let s := if 8 ≤ times.length then recordPort (fenceNote (setPortMode s p .fenced 4) 6 p 4 0) p 0x200C [] else s
    failOver s p
/-- R258, LANE_LOCK_LOST. -/
def execLaneLockLost (port : Nat) (s : State) : Result := .next (retrain s port)
/-- The uncorrectable codewords of the last millisecond. -/
def recentUncorr (q : Port) (now : Tick) : List Tick := q.uncorr.filter fun t => decide (now < t + 1000000)
/-- R258, UNCORRECTABLE_LIMIT: more than 16 uncorrectable codewords within 1 ms. -/
def execUncorrectableLimit (port : Nat) (s : State) : Result :=
  .next (if 16 < (recentUncorr (portAt s port) s.tide.now).length then retrain s port else s)
/-- R258, SER_CHECK: the ratios of the last 10 ms in units of 10^-12 and the worst eye margins seen; 10 times the ratio
at training starts a retrain. -/
def execSerCheck (port : Nat) (lane0 lane1 : LaneReading) (s : State) : Result :=
  let q := portAt s port
  .next (if q.mode ≠ .active then s
    else
      let s := updPort s port fun q =>
        { q with ser0 := some lane0.ser, ser1 := some lane1.ser, eye0 := min q.eye0 lane0.eye, eye1 := min q.eye1 lane1.eye }
      if 10 * q.trainSer0 < lane0.ser ∨ 10 * q.trainSer1 < lane1.ser then retrain s port else s)

/-! ### Codewords sent, replay and the guard (R250 to R253) -/

/-- R253: a second retry is counted: FAB_CNT_LATE, event 0x2007, wear. -/
def secondRetry (s : State) (p : Nat) : State :=
  let s := updPort s p fun q => { q with cntLate := satTo 32 (q.cntLate + 1) }
  let s := updLedger (wearAdd s 2 p 2 1) (64 + portShore p) fun r => { r with chaffLost := r.chaffLost + 1 }
  recordPort s p 0x2007 []
/-- The port slot in force: its start and its end; 0 where no entry speaks of the port. -/
def slotNow (s : State) (p : Nat) : Tick × Tick :=
  match portSlot s p with | some (_, t, n) => (t, t + n) | none => (0, 0)
/-- R253: a retry that the traffic of a slot needs takes the slot's guard, or, as a second retry, the guard of the slot that
follows it: the port after it, and whether it is a second retry. -/
def takeGuard (q : Port) (slot : Tick × Tick) : Port × Bool :=
  let same := decide (slot.1 = q.guardSlot)
  let taken := if same then q.guardTaken else decide (slot.1 = q.guardEnd) && q.nextGuardTaken
  ({ q with guardSlot := slot.1, guardEnd := slot.2, guardTaken := true,
            nextGuardTaken := taken || (same && q.nextGuardTaken) }, taken)
/-- The codeword of the replay buffer that a reference names (R250, R251). -/
def sentCodeword (q : Port) (ref : Nat) : Option TxCodeword :=
  let m := codeReplay q.rs
  q.txBuf[(q.txSeq % m + 2 * m - 1 - ref % m) % m]?
/-- R251, R253: a NAK names a codeword: it is replayed ahead of all traffic, the first replay of its slot within the slot's
guard, any further one as a second retry. -/
def nakTaken (s : State) (p ref : Nat) : State :=
  let q := portAt s p
  let slot := match sentCodeword q ref with | some c => (c.slot, c.slotEnd) | none => slotNow s p
  let g := takeGuard q slot
  let s := updPort s p fun q => { (takeGuard q slot).1 with replays := q.replays ++ [ref] }
  if g.2 then secondRetry s p
  else wearAdd (updPort s p fun q => { q with cntReplay := satTo 32 (q.cntReplay + 1) }) 2 p 1 1
/-- R251, NAK_RECEIVE. -/
def execNakReceive (port seq : Nat) (s : State) : Result :=
  .next (if (portAt s port).mode ≠ .active then s else nakTaken s port seq)
/-- The next codeword of a port: a replay before all else, then new flits with a NAK that is due. A replay that itself
failed is replayed without flits: the codeword it stood for is named again (log entry 85). -/
def nextCodeword (q : Port) (slot : Tick × Tick) : TxCodeword :=
  let n := codeFlits q.rs
  match q.replays with
  | r :: _ =>
    ⟨match sentCodeword q r with
      | some c => if c.replay.isSome then List.replicate n idleFlit else c.flits
      | none => List.replicate n idleFlit,
     some r, none, slot.1, slot.2⟩
  | [] => ⟨q.txFlits.take n ++ List.replicate (n - q.txFlits.length) idleFlit, none, q.nakOut.head?, slot.1, slot.2⟩
/-- A codeword leaves: what it took, the replay buffer, and the levels it leaves on the lanes. -/
def afterCodeword (q : Port) (c : TxCodeword) (l : List Nat × List Nat) (now : Tick) : Port :=
  { q with
    txSeq := q.txSeq + 1, txBuf := (c :: q.txBuf).take (codeReplay q.rs), replays := q.replays.drop 1,
    txFlits := if c.replay.isSome then q.txFlits else q.txFlits.drop (codeFlits q.rs),
    nakOut := if c.replay.isSome then q.nakOut else q.nakOut.drop 1,
    naks := q.naks.map fun x => if c.nak = some x.1 then (x.1, now, x.2.2 + 1) else x,
    txLevel0 := l.1.getLastD q.txLevel0, txLevel1 := l.2.getLastD q.txLevel1 }
/-- R250, R251, R261: send the next codeword. -/
def sendCodeword (s : State) (p : Nat) : State :=
  let q := portAt s p
  let c := nextCodeword q (slotNow s p)
  let l := codewordLevels q.rs q.txPre0 q.txPre1 q.txLevel0 q.txLevel1 c.flits (controlField q.rs c.nak c.replay)
  let s := updPort s p fun q => afterCodeword q c l s.tide.now
  { s with fab := { s.fab with lanes := (p, s.tide.now, l.1, l.2) :: s.fab.lanes } }
/-- A tick of the links: each active port sends the codewords that its codeword time C allows. -/
def linkTick (s : State) : State :=
  forEach s (s.fab.ports.map (·.1)) fun s p =>
    let q := portAt s p
    if q.mode = .active ∧ p < 128 ∧ q.txSeq * codeTime q.rs < 1000 * (s.tide.now - q.since) then sendCodeword s p else s
/-- Count an uncorrectable codeword. -/
def countUncorr (s : State) (p : Nat) : State :=
  updPort s p fun q =>
    { q with cntUncorr := satTo 32 (q.cntUncorr + 1), uncorr := recentUncorr q s.tide.now ++ [s.tide.now] }
/-- R251: a NAK that names a codeword goes with the next outgoing codeword. -/
def sendNak (s : State) (p seq : Nat) : State :=
  updPort s p fun q =>
    { q with nakOut := q.nakOut ++ [seq],
             naks := if q.naks.any fun x => x.1 == seq then q.naks else q.naks ++ [(seq, 0, 0)] }
/-- R252, NAK_RESEND_TIMEOUT: no replay decoded 2X + C after a NAK left: the NAK goes again, a second retry. -/
def execNakResendTimeout (port : Nat) (s : State) : Result :=
  let q := portAt s port
  let wait := 2 * crossing q + codeTime q.rs
  let late := q.naks.filter fun x => !q.nakOut.contains x.1 && decide (1000 * x.2.1 + wait < 1000 * s.tide.now)
  .next (if q.mode ≠ .active then s else forEach s late fun s x => secondRetry (sendNak s port x.1) port)

/-! ### FAB_CTRL (R282) -/

/-- BAR0 offset of a port register. -/
def fabReg (p off : Nat) : Nat := 0x70000 + 0x200 * p + off
/-- Lift a fence of cause 2 to 5: the port seeks; event 0x200E with the cause. -/
def releasePort (s : State) (p : Nat) : State :=
  let q := portAt s p
  if q.mode = .fenced ∧ 2 ≤ q.cause ∧ q.cause ≤ 5 then
    let s := updPort (setPortMode s p (if q.present then .seeking else .absent) 0) p fun x =>
      { x with hfence := false, hostFence := false, retrains := if q.cause = 4 then [] else x.retrains }
    recordPort s p 0x200E [q.cause]
  else updPort s p fun x => { x with hfence := false, hostFence := false }
/-- A write of FAB_CTRL: EN and FEC are stored, a cleared EN or a set HFENCE fences with cause 2, HFENCE 0
lifts that fence, RELEASE lifts causes 2 to 5 or is refused. -/
def writeFabCtrl (s : State) (p : Nat) (value : Word) : State :=
  if 128 ≤ p then s
  else
    let en := value.getLsbD 0
    let s := updPort s p fun q => { q with en := en, fecReq := value.getLsbD 1, hfence := value.getLsbD 2, hostFence := !en || value.getLsbD 2 }
    let s := if !en || value.getLsbD 2 then fencePort s p 2
      else if (portAt s p).mode = .fenced ∧ (portAt s p).cause = 2 then releasePort s p else s
    if !value.getLsbD 4 then s
    else if !en || s.tray.service != 0 || Sparse.get 0 s.health.shoreFence (portShore p) != 0 then
      hostError s 0 2 (fabReg p 8)
    else releasePort s p
/-- R282, FAB_CTRL_HFENCE_SET. -/
def effectFabCtrlHfenceSet (port : Nat) (value : Word) (s : State) : Result := .next (writeFabCtrl s port value)
/-- R282, FAB_CTRL_HFENCE_CLEAR. -/
def effectFabCtrlHfenceClear (port : Nat) (value : Word) (s : State) : Result := .next (writeFabCtrl s port value)
/-- R282, FAB_CTRL_EN_CLEAR. -/
def effectFabCtrlEnClear (port : Nat) (value : Word) (s : State) : Result := .next (writeFabCtrl s port value)
/-- R282, FAB_CTRL_RELEASE. -/
def effectFabCtrlRelease (port : Nat) (value : Word) (s : State) : Result := .next (writeFabCtrl s port value)

/-! ### Routing banks (R269, R273 to R275, R279) -/

/-- Change the ROUTE switch control. -/
def updRouteCtrl (s : State) (f : SwitchCtrl → SwitchCtrl) : State :=
  { s with fab := { s.fab with routeCtrl := f s.fab.routeCtrl } }
/-- A routing entry that R273 refuses. -/
def routeBad (n : Nat) : Bool :=
  n / 2 ^ 44 != 0 || (bitOf n 7 && bitsOf n 31 20 == 0) || (bitOf n 15 && bitsOf n 43 32 == 0)
/-- R273 to R275, ROUTE_DATA_WRITE: the whole entry at ROUTE_INDEX. A refused one records event 0x200B. -/
def effectRouteDataWrite (value : DWord) (s : State) : Result :=
  let i := s.fab.routeIndex.toNat
  let e := bitsOf i 15 0
  let bank := bitOf i 16
  .next (if s.fab.routeLag ≠ [] ∨ bank = s.fab.routeBank ∨ routeBad value.toNat then
    recordHead (hostError s 0 2 0x80010) 0x200B .corrected []
  else { s with fab := { s.fab with
    routeWritten := s.tide.now + 1,
    routes := Sparse.set 0#64 s.fab.routes (65536 * natOf bank + e) value,
    routeIndex := BitVec.ofNat 32 (i / 65536 * 65536 + (e + 1) % 65536) } })
/-- A write of ROUTE_SWITCH_CTRL: DONE and REFUSED are W1C, ARM and REAPPLY W1S. -/
def writeRouteCtrl (s : State) (value : Word) : State :=
  let close := decide (s.fab.routeTick.toNat < s.tide.now + 250000)
  let s := updRouteCtrl s fun c =>
    { c with done := c.done && !value.getLsbD 1, refused := c.refused && !value.getLsbD 2 }
  let s := if !value.getLsbD 0 then s
    else if close then updRouteCtrl s fun c => { c with refused := true }
    else updRouteCtrl s fun c => { c with arm := true }
  if !value.getLsbD 3 then s
  else if close ∨ s.fab.routeLag = [] then
    hostError (updRouteCtrl s fun c => { c with refused := true, reapply := false }) 0 2 0x80020
  else updRouteCtrl s fun c => { c with reapply := true }
/-- R275, ROUTE_SWITCH_ARM. -/
def effectRouteSwitchArm (value : Word) (s : State) : Result := .next (writeRouteCtrl s value)
/-- R274, ROUTE_REAPPLY. -/
def effectRouteReapply (value : Word) (s : State) : Result := .next (writeRouteCtrl s value)
/-- The greatest valid bound in ns among the entries of a bank that satisfy a test on their module. -/
def greatestBound (s : State) (bank : Bool) (f : Nat → Bool) : Nat :=
  (s.fab.routes.filter fun r => r.1 / 65536 == natOf bank && f (r.1 % 65536)).foldl (fun m r =>
    let n := r.2.toNat
    max m (max (if bitOf n 7 then 4 * bitsOf n 31 20 else 0) (if bitOf n 15 then 4 * bitsOf n 43 32 else 0))) 0
/-- R279: publish the scope bounds. -/
def publishBounds (s : State) : State :=
  let others := fun m => m != s.moduleId
  let bay := max 250 (greatestBound s s.fab.routeBank fun m => others m && m / 64 == s.moduleId / 64)
  { s with tide := { s.tide with boundBay := bay, boundHall := max bay (greatestBound s s.fab.routeBank others) } }
/-- Units of a list: compute dies, then shore dies from 64 on. -/
def unitsOf (bad badShore : List Nat) : List Nat := bad ++ badShore.map (64 + ·)
/-- R273: the dies switch; those of `bad` keep the old bank. -/
def switchRoutes (s : State) (bad : List Nat) : State :=
  let s := { s with fab := { s.fab with
    routeBank := !s.fab.routeBank, routeLag := bad.filter fun d => decide (d < 80) } }
  let s := publishBounds s
  if s.fab.routeLag = [] then updRouteCtrl s fun c => { c with done := true }
  else recordHead (updRouteCtrl s fun c => { c with refused := true }) 0x200B .corrected []
/-- R274: the lagging dies come across, but for those of `bad`; event 0x200D once none lags. -/
def reapplyRoutes (s : State) (bad : List Nat) : State :=
  let s := { s with fab := { s.fab with routeLag := s.fab.routeLag.filter (bad.contains ·) } }
  if s.fab.routeLag = [] then recordHead (updRouteCtrl s fun c => { c with done := true }) 0x200D .corrected []
  else recordHead (updRouteCtrl s fun c => { c with refused := true }) 0x200B .corrected []
/-- R273, ROUTE_SWITCH_TICK. -/
def execRouteSwitchTick (bad : List Nat) (s : State) : Result :=
  .next (if s.fab.routeCtrl.arm ∧ s.fab.routeTick.toNat ≤ s.tide.now then
    switchRoutes (updRouteCtrl s fun c => { c with arm := false }) bad else s)
/-- R274, ROUTE_REAPPLY_TICK. -/
def execRouteReapplyTick (bad : List Nat) (s : State) : Result :=
  .next (if s.fab.routeCtrl.reapply ∧ s.fab.routeTick.toNat ≤ s.tide.now then
    reapplyRoutes (updRouteCtrl s fun c => { c with reapply := false }) bad else s)

end Sys2Proof.Machine
end

