-- ==== Sys2Proof/Machine/Tide.lean ====
section
/-!
DEFINITION. The tide counter, time transfer, the checks and switches of the tide tables, refresh windows,
and what happens as a tick passes (R285 to R332, R522).
-/
namespace Sys2Proof.Machine

/-! ### The reference and the marks (R286 to R288, R603) -/

/-- The count that the first pulse gives: bits [19:0] zero, a member's own high bits or TIDE_EPOCH's. -/
def markCount (t : TideState) : Nat :=
  (if t.role = 1 then t.now / 2 ^ 20 else t.epochStart.toNat / 2 ^ 20) * 2 ^ 20
/-- How far the count stands from a multiple of 2^20 at a pulse. -/
def markSlip (t : TideState) : Nat := min (t.now % 2 ^ 20) (2 ^ 20 - t.now % 2 ^ 20)
/-- R286, R287, MARK_PULSE: the first mark after lock sets the counter; a later one is only checked, whatever the lock. Roles
single, root and the reserved code take bits [63:20] from TIDE_EPOCH; a member takes them from its first
exchange, as a step before the first cove starts. -/
def execMarkPulse (s : State) : Result :=
  .next (if !s.tide.marked then
      if !s.tide.lock then s else
      let s := { s with tide := { s.tide with now := markCount s.tide, marked := true } }
      if s.fw.ready ∧ s.fw.mode = 2 then
        recordHead { s with fw := { s.fw with mode := 0 } } 0x0011 .corrected []
      else s
    else if 64 < markSlip s.tide then
      recordHead { s with tide := { s.tide with cntSlip := satTo 32 (s.tide.cntSlip + 1) } } 0x1003 .corrected []
    else s)

/-- R288, REFERENCE_LOST: the PLL holds; the counter goes on. -/
def execReferenceLost (s : State) : Result :=
  .next (if s.tide.ref then
    recordHead { s with tide := { s.tide with ref := false, lock := false, refTick := s.tide.now } } 0x1001 .corrected []
  else s)
/-- R288, REFERENCE_RESTORED: the PLL relocks by slewing. -/
def execReferenceRestored (s : State) : Result :=
  .next (if !s.tide.ref ∧ s.tide.marked then
    recordHead { s with tide := { s.tide with ref := true, lock := true, refTick := s.tide.now } } 0x1002 .corrected []
  else s)
/-- R603, REFERENCE_FOUND: a reference appears for a module that has set no counter. -/
def execReferenceFound (s : State) : Result :=
  .next (if !s.tide.marked then
    { s with tide := { s.tide with ref := true, lock := true, refTick := s.tide.now } } else s)

/-! ### Time transfer (R289 to R294) -/

/-- Parents of TIDE_PARENTS in order of preference. -/
def parentPorts (s : State) : List Nat :=
  (List.range 4).filterMap fun i =>
    let b := bitsOf s.tide.parents.toNat (8 * i + 7) (8 * i)
    if bitOf b 7 then some (b % 128) else none
/-- What a port's module announced, when the port is active. -/
def heardFrom (s : State) (p : Nat) : Option (Bool × Nat × Nat) :=
  if (portAt s p).mode = .active then Sparse.get none s.tide.heard p else none
/-- R290: the parent is usable. -/
def parentUsable (s : State) (p : Nat) : Bool :=
  match heardFrom s p with
  | some (al, d, r) => al && decide (d ≤ 3) && r == s.tide.root
  | none => false
/-- R290: follow the first usable parent; event 0x1006 on a change. Without one, HOLDOVER is set. -/
def chooseParent (s : State) : State :=
  if s.tide.role ≠ 1 then s
  else match (parentPorts s).find? (parentUsable s) with
    | some p =>
      let d := match heardFrom s p with | some (_, d, _) => d | none => 0
      let r := match heardFrom s p with | some (_, _, r) => r | none => 0
      let changed := s.tide.parent != p || !s.tide.pvalid
      let s := { s with tide := { s.tide with
        parent := p, pvalid := true, depth := d + 1, rootSeen := r, holdover := false,
        thetas := if changed then [] else s.tide.thetas } }
      if changed then recordHead s 0x1006 .corrected [] else s
    | none => { s with tide := { s.tide with pvalid := false, holdover := true } }
/-- Sorted insertion. -/
def insertInt (x : Int) : List Int → List Int
  | [] => [x]
  | y :: t => if x ≤ y then x :: y :: t else y :: insertInt x t
/-- The median of up to 8 values: of an even number, the lower of the middle two. -/
def medianInt (l : List Int) : Int :=
  let m := l.foldr insertInt []
  m.getD ((m.length - 1) / 2) 0
/-- ALIGNED as TIDE_STATUS shows it: always 1 in role root, always 0 in role single (R329). -/
def alignedBit (s : State) : Bool := s.tide.role == 2 || (s.tide.role == 1 && s.tide.aligned)
/-- A stamp read back, in 1/256 ns. -/
def stampAt (bs : List Byte) (off : Nat) : Nat :=
  leVal ((bs.drop off).take 8) * 256 + leVal ((bs.drop (off + 8)).take 1)
/-- Aligned bit, depth and root as a byte and a word. -/
def announceBytes (s : State) : List Byte :=
  leOut 1 (natOf (alignedBit s) + 2 * s.tide.depth)
    ++ leOut 2 (if s.tide.role = 2 then s.moduleId else s.tide.root)
/-- A time-transfer packet on a port. -/
def timePacket (s : State) (op : Nat) (data : List Byte) : Packet :=
  { ptype := 8, gen := s.tide.mgen, cls := 0, transit := 0, late := false, resent := false, op := op, jobTag := 0#32,
    dest := 0#64, srcModule := s.moduleId, srcUnit := 1296, seq := 0, tag := 0, due := 0, tally := tallyOf data,
    data := data, slot := none }
/-- Time transfer waits for a class-0x0 slot of its port (R305). -/
def sendTime (s : State) (port : Nat) (p : Packet) : State :=
  queueOut s ⟨64 + portShore port, none, 0, some port, false, p⟩
/-- R291, TIME_TRANSFER_SEND: `stamp` stands for the send stamp t1 in 1/256 ns, until the packet leaves. -/
def execTimeTransferSend (port stamp : Nat) (s : State) : Result :=
  .next (if s.tide.role ≠ 1 ∨ ¬ (parentPorts s).contains port ∨ (portAt s port).mode ≠ .active then s
    else
      let s := { s with tide := { s.tide with requests := Sparse.set 0 s.tide.requests port (stamp + 1) } }
      sendTime s port (timePacket s 1 (padFlit (stampBytes stamp ++ announceBytes s))))
/-- R294, TIME_TRANSFER_REQUEST: answered with t1 echoed, the receive stamp t2 and the send stamp t3. -/
def execTimeTransferRequest (port : Nat) (packet : Packet) (received sent : Nat) (s : State) : Result :=
  .next (if (portAt s port).mode ≠ .active then s
    else
      let flit := (packet.data.take 9) ++ List.replicate 7 0#8 ++ stampBytes received ++ List.replicate 7 0#8
      sendTime s port (timePacket s 2 (padFlit (flit ++ stampBytes sent ++ announceBytes s))))
/-- TIDE_ASYM of a port in 1/256 ns. -/
def asymOf (s : State) (p : Nat) : Int := (Sparse.get 0#32 s.tide.asym p).toInt * 256 / 1000
/-- R291: the offset in 1/256 ns. -/
def offsetOf (s : State) (p t1 t2 t3 t4 : Nat) : Int :=
  ((t2 : Int) - t1 - ((t4 : Int) - t3) - (Config.internalDiff p + asymOf s p)) / 2
/-- The median of |θ| over the last 8 values, in 1/256 ns (R293). -/
def medianAbs (s : State) : Nat := (medianInt (s.tide.thetas.map fun x => (x.natAbs : Int))).toNat
/-- R293: set ALIGNED after 8 consecutive exchanges whose median |θ| is within 2 ns, clear it beyond 5 ns. -/
def judgeAlignment (s : State) : State :=
  let m := medianAbs s
  let run := if m ≤ 512 then s.tide.goodRun + 1 else 0
  let s := { s with tide := { s.tide with goodRun := run } }
  if !s.tide.aligned && 8 ≤ run then
    recordHead { s with tide := { s.tide with aligned := true } } 0x1004 .corrected []
  else if s.tide.aligned && 1280 < m then
    recordHead { s with tide := { s.tide with aligned := false } } 0x1005 .corrected []
  else s
/-- An exchange with the parent in use: θ joins the last 8. Before the first cove starts the counter steps
by whole ticks, from then on it only slews (R286). -/
def takeOffset (s : State) (o : Int) : State :=
  let step := (o + 128) / 256
  let stepped := !s.tide.started && step != 0
  let s := if stepped then
      { s with tide := { s.tide with now := ((s.tide.now : Int) + step).toNat, thetas := [] } } else s
  let l := ((if stepped then o - 256 * step else o) :: s.tide.thetas).take 8
  judgeAlignment { s with tide := { s.tide with
    thetas := l, theta := medianInt l, slewed := 0, lastExchange := s.tide.now } }
/-- R291, TIME_TRANSFER_RESPONSE: `stamp` is the receive stamp t4. A parent of another root or of depth 4 is
skipped with event 0x1007. -/
def execTimeTransferResponse (port : Nat) (packet : Packet) (stamp : Nat) (s : State) : Result :=
  let t1 := stampAt packet.data 0
  .next (if s.tide.role ≠ 1 ∨ ¬ (parentPorts s).contains port ∨ (portAt s port).mode ≠ .active
      ∨ Sparse.get 0 s.tide.requests port ≠ t1 + 1 then s
    else
      let b := leVal ((packet.data.drop 41).take 1)
      let root := leVal ((packet.data.drop 42).take 2)
      let depth := bitsOf b 3 1
      let s := { s with tide := { s.tide with
        requests := Sparse.set 0 s.tide.requests port 0,
        heard := Sparse.set none s.tide.heard port (some (bitOf b 0, depth, root)) } }
      let s := if root ≠ s.tide.root ∨ 4 ≤ depth then recordHead s 0x1007 .corrected [] else s
      let s := chooseParent s
      if s.tide.pvalid ∧ s.tide.parent = port then
        takeOffset s (offsetOf s port t1 (stampAt packet.data 16) (stampAt packet.data 32) stamp)
      else s)
/-- The residual offset of R293 in 1/256 ns. -/
def residual (s : State) : Nat := s.tide.theta.natAbs - 256 * s.tide.slewed.natAbs
/-- R293, HOLDOVER_LIMIT: without a usable parent, the residual and the drift allowance pass 2.5 ns. -/
def execHoldoverLimit (s : State) : Result :=
  let s := chooseParent s
  let hold := bitsOf s.tide.ctrl.toNat 47 32
  .next (if s.tide.role = 1 ∧ s.tide.holdover ∧ s.tide.aligned
      ∧ 640 * 10 ^ 9 < residual s * 10 ^ 9 + hold * (s.tide.now - s.tide.lastExchange) * 256 then
    recordHead { s with tide := { s.tide with aligned := false, goodRun := 0 } } 0x1005 .corrected []
  else s)

/-! ### Writing and checking banks (R295 to R308, R321, R322, R348) -/

/-- R308, R331, TIDE_DATA_WRITE: an entry of an inactive bank. -/
def effectTideDataWrite (value : DWord) (s : State) : Result :=
  let i := s.tide.index.toNat
  let kind := bitsOf i 1 0
  let bank := bitOf i 2
  let inst := bitsOf i 9 4
  let e := bitsOf i 23 12
  let active := if kind = 0 then (coveTideAt s inst).bank else s.tide.mbank
  let beyond := if kind = 3 then 64 ≤ inst else 16 ≤ inst
  let s := if beyond then s
    else if bank = active then hostError s 0 2 0x10058
    else setTable s kind inst bank e value
  .next { s with tide := { s.tide with
    index := BitVec.ofNat 32 (i - e * 4096 + (e + 1) % 4096 * 4096) } }

/-- A failed check: its reason of R332 and the entry that ENTRY names. -/
abbrev Failure := Option (Nat × Nat)
/-- The first failure of a list of checks. -/
def firstFailure (l : List Failure) : Failure := l.findSome? id
/-- The list has a Last entry within its bank. -/
def hasLast (l : List (Nat × Nat)) : Bool := match l.getLast? with | some e => bitOf e.2 63 | none => false
/-- Rules that one entry can break alone, in entry order: `bad` gives the reason of one entry. Of a list without a Last
entry ENTRY names the last entry read: R308 says only that it names the first failing one (DESIGN CHOICE, log entry 81). -/
def entryCheck (l : List (Nat × Nat)) (cyc : Nat) (bad : Nat → Option Nat) : Failure :=
  let prev := 0 :: l.map fun e => spanStart e.2
  match (l.zip prev).findSome? fun p =>
      if cyc ≤ spanStart p.1.2 ∨ spanStart p.1.2 < p.2 then some (3, p.1.1)
      else (bad p.1.2).map fun r => (r, p.1.1) with
  | some f => some f
  | none => if hasLast l then none else some (3, match l.getLast? with | some e => e.1 | none => 0)
/-- Entries with the length of their spans. -/
def spanLengths (l : List (Nat × Nat)) (cyc : Nat) : List ((Nat × Nat) × Nat) :=
  let starts := l.map fun e => spanStart e.2
  l.zip ((starts.zip (starts.drop 1 ++ (starts.take 1).map (· + cyc))).map fun p => p.2 - p.1)
/-- Group consecutive spans of one owner: owner, first entry, length. -/
def runsFrom : List (Nat × Nat × Nat) → List (Nat × Nat × Nat) → List (Nat × Nat × Nat)
  | [], acc => acc
  | (o, e, n) :: t, acc =>
    match acc with
    | (o', e', n') :: rest => if o = o' then runsFrom t ((o', e', n' + n) :: rest) else runsFrom t ((o, e, n) :: acc)
    | [] => runsFrom t [(o, e, n)]
/-- The runs of a cluster list in a phase, wrapping across the cycle (R300). -/
def runsOf (l : List (Nat × Nat)) (cyc : Nat) (slack : Bool) : List (Nat × Nat × Nat) :=
  let spans := ((spanLengths l cyc).filter fun x => x.2 != 0).map fun x => (spanOwner x.1.2 slack, x.1.1, x.2)
  let runs := (runsFrom spans []).reverse
  match runs, runs.getLast? with
  | (o, _, n) :: rest@(_ :: _), some (o', e', n') =>
    if o = o' then rest.dropLast ++ [(o', e', n' + n)] else runs
  | _, _ => runs
/-- A clock point in tenths of GHz. -/
def clockTenths : Nat → Nat
  | 0 => 15
  | 1 => 12
  | _ => 9
/-- R300: a run shorter than 1,024 ticks, or a maintenance run shorter than 12,000 cycles. -/
def runCheck (l : List (Nat × Nat)) (cyc clock : Nat) : Failure :=
  let short := ((runsOf l cyc false) ++ runsOf l cyc true).filter fun r =>
    decide (r.2.2 < 1024) || (r.1 == 4 && decide (r.2.2 * clockTenths clock < 120000))
  match short.map fun r => r.2.1 with
  | [] => none
  | e :: t => some (9, t.foldl min e)
/-- The scope bound that a cove's job needs (R301). -/
def jobBound (s : State) (c : Nat) : Nat :=
  match (coresOf (coveAt s c)).head? with
  | none => 120
  | some core =>
    let l := ((List.range 64).filter (gValid (coreAt s core) ·)).flatMap (groupModules s core ·)
    if l.any fun m => m / 64 != s.moduleId / 64 then s.tide.boundHall
    else if l.isEmpty then 120 else s.tide.boundBay
/-- Plan words out of range (R301): reason 11 with the entry. -/
def planCheck (s : State) (c : Nat) (b : Bool) : Failure :=
  let w := fun e => tableEntry s 0 c b e
  firstFailure
    [if w 4088 / 2 ^ 40 ≠ 0 then some (11, 4088) else none,
     if w 4089 / 2 ^ 22 ≠ 0 ∨ w 4089 < 100000 ∨ 2000000 < w 4089 then some (11, 4089) else none,
     if w 4090 / 2 ^ 16 ≠ 0 ∨ w 4090 < jobBound s c then some (11, 4090) else none,
     if w 4091 / 2 ^ 15 ≠ 0 ∨ bitsOf (w 4091) 7 5 ≠ 0 ∨ planCycle s c b < 14 ∨ 22 < planCycle s c b
         ∨ planClock s c b = 3 then some (11, 4091) else none]
/-- One cluster entry: reserved fields and codes (3), a context without a window (8). -/
def clusterBad (s : State) (c w : Nat) : Option Nat :=
  let l := coresOf (coveAt s c)
  let noWindow := fun k => decide (k < 4) && (l.isEmpty || l.any fun i => (ctxAt s i k).winCount == 0)
  if bitsOf w 62 31 ≠ 0 ∨ 6 ≤ bitsOf w 24 22 ∨ 6 ≤ bitsOf w 29 27 ∨ bitsOf w 26 25 = 3 then some 3
  else if noWindow (bitsOf w 24 22) || noWindow (bitsOf w 29 27) then some 8 else none
/-- R308: the check of a cove's cluster bank. -/
def clusterCheck (s : State) (c : Nat) (b : Bool) : Failure :=
  let l := tableList s 0 c b
  let cyc := 2 ^ planCycle s c b
  firstFailure
    [planCheck s c b,
     entryCheck l cyc (clusterBad s c),
     (([4092, 4093, 4094, 4095] : List Nat).find? fun e => tableEntry s 0 c b e != 0).map fun e => (3, e),
     runCheck l cyc (planClock s c b)]
/-- One port entry (R303). -/
def portBad (w : Nat) : Option Nat :=
  if bitsOf w 62 35 ≠ 0 ∨ bitsOf w 34 33 = 3 ∨ (bitsOf w 32 29 = 15 ∧ bitsOf w 34 33 ≠ 0) then some 3 else none
/-- The port numbers of a shore die by their number in its table. -/
def portOfIndex (n i : Nat) : Nat := if i < 4 then 4 * n + i else 64 + 4 * n + (i - 4)
/-- Two entries of one port share a start. -/
def portTwice (l : List (Nat × Nat)) : Failure :=
  (l.find? fun e => (l.find? fun x => decide (x.1 < e.1) && bitsOf x.2 24 22 == bitsOf e.2 24 22
    && spanStart x.2 == spanStart e.2).isSome).map fun e => (3, e.1)
/-- R348: the first entry of a cove whose slot time on a port exceeds its quota. -/
def portQuotaCheck (s : State) (l : List (Nat × Nat)) (cyc : Nat) : Failure :=
  (List.range 8).findSome? fun i =>
    let own := spanLengths (l.filter fun e => bitsOf e.2 24 22 == i) cyc
    own.findSome? fun x =>
      let c := bitsOf x.1.2 32 29
      let used := ((own.filter fun y => bitsOf y.1.2 32 29 == c).map fun y => y.2).foldl (· + ·) 0
      if c < 15 ∧ (coveAt s c).mode ≠ .free ∧ quotaPort s c * cyc < used * 128 then some (5, x.1.1) else none
/-- R305: the control allowance of every enabled port. -/
def controlCheck (s : State) (n : Nat) (l : List (Nat × Nat)) (cyc : Nat) : Failure :=
  (List.range 8).findSome? fun i =>
    if !(portAt s (portOfIndex n i)).en then none
    else
      let own := (spanLengths (l.filter fun e => bitsOf e.2 24 22 == i) cyc).filter fun x => bitsOf x.1.2 28 25 == 0
      let ends := own.map fun x => spanStart x.1.2 + x.2
      let starts := own.map fun x => spanStart x.1.2
      let gaps := (ends.zip (starts.drop 1 ++ (starts.take 1).map (· + cyc))).map fun p => p.2 - p.1
      let total := (own.map fun x => x.2).foldl (· + ·) 0
      if total * 64 < cyc ∨ gaps.any fun g => decide (16384 < g) then some (7, 0) else none
/-- R308: the check of a shore die's port bank. -/
def portCheck (s : State) (n : Nat) (b : Bool) (cyc : Nat) : Failure :=
  let l := tableList s 1 n b
  firstFailure [entryCheck l cyc portBad, portTwice l, portQuotaCheck s l cyc, controlCheck s n l cyc]
/-- A near-memory entry names another cove than the one that holds its die (R306); for a free die no cove is another one
(log entry 87). -/
def foreignCove (s : State) (die cove : Nat) : Bool :=
  match coveOfDie s die with | some c => cove != c && cove != 15 | none => false
/-- One wain entry (R306, R307). -/
def wainBad (s : State) (hbm : Bool) (inst w : Nat) : Option Nat :=
  if bitsOf w 62 45 ≠ 0 ∨ bitsOf w 25 22 = 0 ∨ bitsOf w 31 30 = 3 ∨ 16 < bitsOf w 36 32 ∨ bitsOf w 38 37 = 3
      ∨ (hbm ∧ bitsOf w 44 42 ≠ 0) ∨ (¬ hbm ∧ (bitOf w 39 ∨ bitOf w 40 ∨ 4 < bitsOf w 44 42 ∨ foreignCove s inst (bitsOf w 29 26)))
      ∨ (bitOf w 39 ∧ bitsOf w 36 32 ≠ 0) then some 3 else none
/-- R307: shares at one position, and a refresh entry alone at its start. -/
def shareCheck (l : List (Nat × Nat)) : Failure :=
  l.findSome? fun e =>
    let here := l.filter fun x => spanStart x.2 == spanStart e.2
    let sum : Nat → Nat → Nat := fun res dir =>
      ((here.filter fun x => bitsOf x.2 44 42 == res && (bitsOf x.2 31 30 == dir || bitsOf x.2 31 30 == 2)).map
        fun x => bitsOf x.2 36 32).foldl (· + ·) 0
    if ((List.range 5).any fun res => decide (16 < sum res 0) || decide (16 < sum res 1))
        || (here.any (fun x => bitOf x.2 39) && decide (1 < here.length)) then some (5, e.1) else none
/-- Windows that leave a gap of more than `gap` ticks, or one shorter than 80 ticks (R321, R322). -/
def spacingBad (l : List ((Nat × Nat) × Nat)) (cyc gap : Nat) : Bool :=
  let starts := l.map fun x => spanStart x.1.2
  l.isEmpty || (l.any fun x => decide (x.2 < 80))
    || (starts.zip (starts.drop 1 ++ (starts.take 1).map (· + cyc))).any fun p => decide (gap < p.2 - p.1)
/-- Spans of a wain list by their greatest start: entries that share a start share its span. -/
def wainSpans (l : List (Nat × Nat)) (cyc : Nat) : List ((Nat × Nat) × Nat) :=
  let starts := l.map fun e => spanStart e.2
  l.map fun e =>
    let later := starts.filter fun t => decide (spanStart e.2 < t)
    (e, (match later.head? with | some t => t | none => starts.headD 0 + cyc) - spanStart e.2)
/-- R321, R322: the refresh windows of an HBM bank. -/
def refreshCheck (l : List (Nat × Nat)) (cyc : Nat) (hot : Bool) : Failure :=
  let spans := wainSpans l cyc
  if spacingBad (spans.filter fun x => bitOf x.1.2 39) cyc 4096
      || (hot && spacingBad (spans.filter fun x => bitOf x.1.2 39 || bitOf x.1.2 40) cyc 2048) then some (6, 0)
  else none
/-- R308: the check of a wain bank. -/
def wainCheck (s : State) (kind inst : Nat) (b : Bool) (cyc : Nat) (hot : Bool) : Failure :=
  let l := tableList s kind inst b
  firstFailure [entryCheck l cyc (wainBad s (kind == 2) inst), shareCheck l,
    if kind = 2 then refreshCheck l cyc hot else none]
/-- TIDE_MHDR out of range: reason 11 with entry 0. -/
def headerCheck (w : Nat) : Failure :=
  if bitsOf w 4 0 < 14 ∨ 22 < bitsOf w 4 0 ∨ bitsOf w 7 5 ≠ 0 ∨ bitsOf w 31 14 ≠ 0 then some (11, 0) else none
/-- R308: every bank that a module switch names. -/
def moduleCheck (s : State) : Failure :=
  let b := !s.tide.mbank
  let w := s.tide.mhdr.toNat
  let cyc := 2 ^ bitsOf w 4 0
  match headerCheck w with
  | some f => some f
  | none =>
    match (List.range 16).findSome? fun n => portCheck s n b cyc with
    | some f => some f
    | none =>
      match (List.range 16).findSome? fun n => wainCheck s 2 n b cyc (bitOf w 12) with
      | some f => some f
      | none => (List.range 64).findSome? fun n => wainCheck s 3 n b cyc false

/-! ### Arming (R309, R315, R332) -/

/-- Reason 2 for a tick that has passed, 1 for one closer than 250,000 ticks. -/
def tickReason (s : State) (t : Nat) : Nat :=
  if t ≤ s.tide.now then 2 else if t < s.tide.now + 250000 then 1 else 0
/-- A refused control. -/
def refuseCtrl (c : SwitchCtrl) (reason entry : Nat) : SwitchCtrl :=
  { c with arm := false, refused := true, reason := reason, entry := entry }
/-- The W1C bits of a switch control write. -/
def clearCtrl (c : SwitchCtrl) (value : Word) : SwitchCtrl :=
  { c with done := c.done && !value.getLsbD 1, refused := c.refused && !value.getLsbD 2 }
/-- Change TIDE_MSWITCH_CTRL. -/
def updMswitch (s : State) (f : SwitchCtrl → SwitchCtrl) : State :=
  { s with tide := { s.tide with mswitchCtrl := f s.tide.mswitchCtrl } }
/-- Change a cove's TIDE_C_SWITCH_CTRL. -/
def updCswitch (s : State) (c : Nat) (f : SwitchCtrl → SwitchCtrl) : State :=
  updCoveTide s c fun t => { t with ctrl := f t.ctrl }
/-- What an ARM or a REAPPLY comes to: armed, or refused with a reason and an entry. -/
def armed (c : SwitchCtrl) (f : Failure) (reapply : Bool) : SwitchCtrl :=
  match f with
  | some (r, e) =>
    let c := refuseCtrl c r e
    if reapply then { c with reapply := false } else c
  | none => if reapply then { c with reapply := true } else { c with arm := true, reason := 0, entry := 0 }
/-- The failure of a switch tick. -/
def tickFailure (s : State) (t : Nat) : Failure := if tickReason s t = 0 then none else some (tickReason s t, 0)
/-- A write of TIDE_MSWITCH_CTRL. -/
def writeMswitch (s : State) (value : Word) : State :=
  let t := s.tide.mswitchTick.toNat
  let note := fun (s : State) (f : Failure) =>
    match f with | some (r, _) => recordHead s 0x1010 .corrected [r] | none => s
  let s := updMswitch s fun c => clearCtrl c value
  let s := if !value.getLsbD 0 then s
    else
      let f := firstFailure [tickFailure s t, moduleCheck s]
      note (updMswitch s fun c => armed c f false) f
  if !value.getLsbD 4 then s
  else
    let f := tickFailure s t
    note (updMswitch s fun c => armed c f true) f
/-- R309, MODULE_SWITCH_ARM. -/
def effectModuleSwitchArm (value : Word) (s : State) : Result := .next (writeMswitch s value)
/-- R315, MODULE_SWITCH_REAPPLY. -/
def effectModuleSwitchReapply (value : Word) (s : State) : Result := .next (writeMswitch s value)
/-- A write of TIDE_C_SWITCH_CTRL. -/
def writeCswitch (s : State) (c : Nat) (value : Word) : State :=
  if 16 ≤ c then s
  else
    let t := (coveTideAt s c).switchTick.toNat
    let note := fun (s : State) (f : Failure) =>
      match f with | some (r, _) => recordCove s 0x1010 .corrected c [r] | none => s
    let s := updCswitch s c fun x => clearCtrl x value
    let s := if !value.getLsbD 0 then s
      else
        let f := firstFailure [tickFailure s t, clusterCheck s c (!(coveTideAt s c).bank)]
        note (updCswitch s c fun x => armed x f false) f
    if !value.getLsbD 4 then s
    else
      let f := tickFailure s t
      note (updCswitch s c fun x => armed x f true) f
/-- R309, COVE_SWITCH_ARM. -/
def effectCoveSwitchArm (c : Nat) (value : Word) (s : State) : Result := .next (writeCswitch s c value)
/-- R315, COVE_SWITCH_REAPPLY. -/
def effectCoveSwitchReapply (c : Nat) (value : Word) (s : State) : Result := .next (writeCswitch s c value)

/-! ### Switching (R310 to R312, R315, R325, R522) -/

/-- A table of lagging units. -/
def lagTable (l : List Nat) : Sparse Bool := l.foldl (fun t d => Sparse.set false t d true) []
/-- Units named in a table. -/
def lagging (t : Sparse Bool) : List Nat := (t.filter (·.2)).map (·.1)
/-- Event 0x1012 for every unit that kept its old bank. -/
def noteLag (s : State) (c : Nat) (units : List Nat) : State :=
  forEach s units fun s u => record s 0x1012 .corrected c (if u < 64 then 1297 + u else 1216 + u) []
/-- Bits [10:0] of PWR_STATUS (R576). -/
def pwrBits (s : State) : Nat :=
  natOf (s.tide.withhold != 0) + 2 * s.tide.withhold + 32 * natOf s.pwr.capMiss + 64 * natOf s.pwr.tripped
    + 128 * natOf s.tide.tripVoid + 256 * natOf s.tide.hotVoid + 512 * natOf s.pwr.lowVin
    + 1024 * natOf s.pwr.conservative
/-- Note the tick of a change of those bits. -/
def notePwr (old s : State) : State :=
  if pwrBits old = pwrBits s then s else { s with pwr := { s.pwr with changed := s.tide.now % 2 ^ 32 } }
/-- A void of timing during a step shows in its record (R389). -/
def voidSteps (s : State) : State :=
  forEach s (s.coves.map (·.1)) fun s c => updStats s c fun t => { t with timingVoid := true }
/-- HOTVOID is clear while no stack is hot or the bank is a hot-refresh variant. -/
def hotUpdate (s : State) : State :=
  let s := if s.tide.hotVoid then voidSteps s else s
  notePwr s { s with tide := { s.tide with hotVoid := !s.tide.hot.isEmpty && !s.tide.mhot } }
/-- R310, MODULE_SWITCH_TICK: units of `bad` and `badShore` keep their old bank and generation. -/
def execModuleSwitchTick (bad badShore : List Nat) (s : State) : Result :=
  .next (if ¬ (s.tide.mswitchCtrl.arm ∧ s.tide.mswitchTick.toNat ≤ s.tide.now) then s
    else
      let w := s.tide.mhdr.toNat
      let bad := bad.filter fun d => decide (d < 64)
      let badShore := badShore.filter fun d => decide (d < 16)
      let s := { s with
        fab := { s.fab with routeCarried := bitOf w 13 },
        tide := { s.tide with
          mbank := !s.tide.mbank, cycleExp := bitsOf w 4 0, prevMgen := s.tide.mgen, mgen := bitsOf w 11 8,
          mhot := bitOf w 12, lag := lagTable bad, lagShore := lagTable badShore } }
      let s := updMswitch s fun c => { c with arm := false, done := bad.isEmpty && badShore.isEmpty }
      let s := recordHead s 0x1011 .corrected []
      let s := noteLag s 16 (unitsOf bad badShore)
      let s := if bitOf w 13 then switchRoutes s (unitsOf bad badShore) else s
      let s := forEach s (List.range 16) checkPortQuota
      releaseHeld (hotUpdate s))
/-- Units that still lag after a re-apply: event 0xA071; a compute die makes its cove cove-fatal, a shore die
the module module-fatal, with cause 10 (R522). -/
def stillLag (s : State) (c : Option Nat) (dies shores : List Nat) : State :=
  let s := forEach s dies fun s d =>
    let owner := match c with | some c => some c | none => coveOfDie s d
    let s := record s 0xA071 .coveFatal (coveNum owner) 1296 [d]
    match owner with | some c => coveFatal s c 10 | none => s
  forEach s shores fun s n => moduleFatal (recordHead s 0xA071 .moduleFatal [64 + n]) 10
/-- R274, R315, MODULE_REAPPLY_TICK: the lagging units copy the master bank and switch, but for those named, and with them
the routing bank that the module switch carried. -/
def execModuleReapplyTick (bad badShore : List Nat) (s : State) : Result :=
  .next (if ¬ (s.tide.mswitchCtrl.reapply ∧ s.tide.mswitchTick.toNat ≤ s.tide.now) then s
    else
      let dies := (lagging s.tide.lag).filter (bad.contains ·)
      let shores := (lagging s.tide.lagShore).filter (badShore.contains ·)
      let s := { s with tide := { s.tide with lag := lagTable dies, lagShore := lagTable shores } }
      let ok := dies.isEmpty && shores.isEmpty
      let s := updMswitch s fun c => { c with reapply := false, done := c.done || ok }
      let s := if ok then recordHead s 0x1013 .corrected [] else stillLag s none dies shores
      let s := if s.fab.routeCarried ∧ s.fab.routeLag ≠ [] then reapplyRoutes s (unitsOf bad badShore) else s
      releaseHeld s)
/-- An action 1 to 4 of R48 is still to be done in this slack water. -/
def earlierActions (s : State) (c : Nat) : Bool :=
  let v := coveAt s c
  (v.evalArm && actionFree v 1) || (ebbPending v && actionFree v 2)
    || (!(openEntries s (cvReg c 0x400) 32).isEmpty && actionFree v 4)
/-- R309, R310, R325, COVE_SWITCH_TICK: slack-water action 5. A tick outside slack water is refused with
reason 4, a clock change that does not fit with reason 10 and deferred. It waits for the actions before it, and stays
pending for the next slack water when one of them was deferred (R48, R49). -/
def execCoveSwitchTick (c : Nat) (bad badShore : List Nat) (s : State) : Result :=
  let t := coveTideAt s c
  let v := coveAt s c
  .next (if ¬ (c < 16 ∧ t.ctrl.arm ∧ t.switchTick.toNat ≤ s.tide.now) then s
    else
      let refuse := fun (s : State) (r : Nat) =>
        recordCove (updCswitch (updCoveTide s c fun t => { t with pending := false }) c fun x => refuseCtrl x r 0)
          0x1010 .corrected c [r]
      let inside := (v.mode = .running ∧ t.slack ∧ t.switchTick.toNat ≤ slackEnd s c
        ∧ (t.slackStart ≤ t.switchTick.toNat ∨ t.pending)) ∨ v.mode = .held
      let changes := planClock s c (!t.bank) ≠ t.clock
      if t.pending ∧ ¬ t.slack then s
      else if ¬ inside then refuse s 4
      else if v.barred ≠ 0 then updCoveTide s c fun t => { t with pending := true }
      else if earlierActions s c then s
      else if changes ∧ ¬ fitsSlack s c 20000 then deferRest (refuse s 10) c 5
      else
        let bad := bad.filter fun d => v.dies.getLsbD d
        let badShore := badShore.filter fun d => decide (d < 16)
        let s := switchBank s c true
        let s := updCoveTide s c fun t => { t with lag := lagTable bad, lagShore := lagTable badShore, pending := false }
        let s := updCswitch s c fun x => { x with arm := false, done := bad.isEmpty && badShore.isEmpty }
        let s := recordCove s 0x1011 .corrected c []
        releaseHeld (actionEnded (noteLag s c (unitsOf bad badShore)) c 5))
/-- R315, COVE_REAPPLY_TICK. A re-apply that would change a die's clock waits for slack water (R38; log entry 87). -/
def execCoveReapplyTick (c : Nat) (bad badShore : List Nat) (s : State) : Result :=
  let t := coveTideAt s c
  .next (if ¬ (c < 16 ∧ t.ctrl.reapply ∧ t.switchTick.toNat ≤ s.tide.now) ∨ (t.prevClock ≠ t.clock ∧ ¬ t.slack) then s
    else
      let dies := (lagging t.lag).filter (bad.contains ·)
      let shores := (lagging t.lagShore).filter (badShore.contains ·)
      let ok := dies.isEmpty && shores.isEmpty
      let moved := t.prevClock != t.clock && dies.length != (lagging t.lag).length
      let s := updCoveTide s c fun t =>
        { t with lag := lagTable dies, lagShore := lagTable shores,
                 clockBusy := if moved then s.tide.now + 20000 else t.clockBusy }
      let s := updCswitch s c fun x => { x with reapply := false, done := x.done || ok }
      let s := if ok then recordCove s 0x1013 .corrected c [] else stillLag s (some c) dies shores
      releaseHeld s)
/-- R325, CLOCK_CHANGE_END: 20,000 ticks have passed and issue resumes. -/
def execClockChangeEnd (c : Nat) (s : State) : Result :=
  let t := coveTideAt s c
  .next (if t.clockBusy ≠ 0 ∧ t.clockBusy ≤ s.tide.now then updCoveTide s c fun t => { t with clockBusy := 0 } else s)
/-- R331, R431, TIDE_C_RESTART_WRITE: ignored, with a host-access error, when the tick has passed, the cove
is not held, or it is torn. -/
def effectTideCRestartWrite (c : Nat) (value : DWord) (fn : Nat) (s : State) : Result :=
  let v := coveAt s c
  let off := 0x10828 + 0x40 * c
  .next (if 16 ≤ c then s
    else if fn ≠ 0 then hostError s fn 3 off
    else if value.toNat ≤ s.tide.now ∨ v.mode ≠ .held ∨ v.ckpt.torn then hostError s 0 2 off
    else updCoveTide s c fun t => { t with restart := value })

/-! ### Refresh (R321, R322) -/

/-- Count a refresh of a stack. -/
def refreshed (s : State) (st ticks : Nat) : State :=
  let s := bump s 4 st 2 ticks
  { s with tide := { s.tide with lastRefresh := Sparse.set 0 s.tide.lastRefresh st (s.tide.now + 1) } }
/-- R321, REFRESH_WINDOW: the span in force is a refresh entry, or a Hot entry of a hot stack under a
hot-refresh variant. -/
def execRefreshWindow (st : Nat) (s : State) : Result :=
  let cyc := 2 ^ s.tide.cycleExp
  let l := tableList s 2 st (moduleBankOf s (64 + st))
  .next (if 16 ≤ st then s else match spanAt l (s.tide.now % cyc) with
    | some e =>
      let window := bitOf e.2 39 || (bitOf e.2 40 && s.tide.mhot && s.tide.hot.contains st)
      let start := s.tide.now - (s.tide.now % cyc + cyc - spanStart e.2) % cyc
      let len := match (wainSpans l cyc).find? fun x => x.1.1 == e.1 with | some x => x.2 | none => 0
      if window ∧ Sparse.get 0 s.tide.lastRefresh st ≤ start then refreshed s st len else s
    | none => s)
/-- R322, STOLEN_REFRESH_WINDOW: a hot stack without a hot-refresh variant takes the windows it lacks. -/
def execStolenRefreshWindow (st : Nat) (s : State) : Result :=
  .next (if s.tide.hot.contains st ∧ ¬ s.tide.mhot ∧ Sparse.get 0 s.tide.lastRefresh st + 2048 ≤ s.tide.now + 1 then
    record (bump (refreshed s st 80) 4 st 3 1) 0x1031 .corrected 16 (1536 + st) [] else s)

/-! ### A tick passes (R286) -/

/-- Ticks that the counter advances: 1, or once in 65,536 ticks 0 or 2 toward the parent. -/
def advanceOf (s : State) : Nat :=
  let left := s.tide.theta - 256 * s.tide.slewed
  if s.tide.role = 1 ∧ s.tide.started ∧ s.tide.lastSlew + 65536 ≤ s.tide.now ∧ 256 ≤ left.natAbs then
    (if 0 < left then 2 else 0)
  else 1
/-- End the waits of a context that are over. -/
def settleCtx (s : State) (core k : Nat) : State :=
  if (ctxAt s core k).wait = none then s else settleSlots (settleWait s core k) core k
end Sys2Proof.Machine
end

