-- ==== Sys2Proof/Machine/Link.lean ====
section
/-!
DEFINITION. Codewords received: decoding, NAKs and replays, release in order, header checks, and the packets that the flits
carry (R250, R251, R261 to R263).
-/
namespace Sys2Proof.Machine

/-- A packet of time transfer: `t` is when the first symbol of the codeword that held its header crossed the line (R291). An
answer takes its own send stamp as it leaves. -/
def takeTime (s : State) (port : Nat) (p : Packet) (t : Nat) : State :=
  match (if p.op = 1 then execTimeTransferRequest port p t t s
    else if p.op = 2 then execTimeTransferResponse port p t s else .next s) with
  | .next t => t
  | .fault _ => s
  | .refused _ => s
/-- A packet completed on a port: time transfer never goes beyond the link (R263). -/
def takeAny (s : State) (port : Nat) (p : Packet) : State :=
  let q := portAt s port
  if q.mode ≠ .active then s
  else
    let s := updPort s port fun q => { q with rxStamp := q.rxNext }
    if p.ptype = 8 then takeTime s port p q.rxStamp else takePacket s port p
/-- The codeword `seq` begins to be taken. -/
def beginCodeword (q : Port) (seq : Nat) : Port :=
  let t := Sparse.get 0 q.rxStamps seq
  { q with rxNext := t, rxStamp := if q.rxHeader.isSome then q.rxStamp else t }
/-- Put the codeword at the head of those held back in front, with the flits of it that are still to be taken. -/
def holdHead (s : State) (port seq : Nat) (skip : Nat) : State :=
  updPort s port fun q => { q with rxHeld := .codeword seq none skip :: q.rxHeld }
/-- R262: a codeword in which a header check fails is uncorrectable: it is discarded whole and NAKed. -/
def headerFails (s : State) (port seq skip : Nat) : State :=
  sendNak (holdHead (countUncorr s port) port seq skip) port seq
/-- R263: a header of reserved type: the rest of the codeword is discarded, counted and NAKed, event 0x2012; a second such
header in the replay fences the port with cause 3. -/
def headerReserved (s : State) (port seq skip : Nat) : State :=
  let again := (portAt s port).reserved.contains seq
  let s := recordPort s port 0x2012 []
  if again then fencePort s port 3
  else sendNak (updPort (holdHead s port seq skip) port fun q => { q with reserved := q.reserved ++ [seq] }) port seq
/-- Take the flits of a decoded codeword that stands first; whether what is behind it may follow. -/
def takeCodeword (s : State) (port seq skip : Nat) (flits : List (List Byte)) : Bool × State :=
  let q := portAt s port
  let r := takeFlits (flits.drop skip) q.rxHeader q.rxData 0 []
  let s := updPort s port fun q => beginCodeword q seq
  match r.2 with
  | .bad => (false, headerFails s port seq skip)
  | .reserved n =>
    let s := updPort s port fun q => { q with rxHeader := none, rxData := [] }
    (false, headerReserved (forEach s r.1 fun s p => takeAny s port p) port seq (skip + n))
  | .whole h d =>
    (true, forEach (updPort s port fun q =>
      { q with rxHeader := h, rxData := d, rxStamps := Sparse.set 0 q.rxStamps seq 0, reserved := q.reserved.filter (· ≠ seq) }) r.1 fun s p => takeAny s port p)
/-- R251: release what is held, in arrival order, up to the first codeword that is not decoded. The fuel is the number of
things held. -/
def releaseRx : Nat → State → Nat → State
  | 0, s, _ => s
  | n + 1, s, port =>
    if (portAt s port).mode ≠ .active then s
    else match (portAt s port).rxHeld with
      | [] => s
      | .packet p :: t => releaseRx n (takeAny (updPort s port fun q => { q with rxHeld := t }) port p) port
      | .codeword _ none _ :: _ => s
      | .codeword seq (some f) skip :: t =>
        let r := takeCodeword (updPort s port fun q => { q with rxHeld := t }) port seq skip f
        if r.1 then releaseRx n r.2 port else r.2
/-- Release what a decoded codeword lets pass. -/
def releaseAll (s : State) (port : Nat) : State := releaseRx (portAt s port).rxHeld.length s port
/-- A received codeword joins what is held, with its flits when it was decoded. -/
def holdCodeword (s : State) (port seq : Nat) (flits : Option (List (List Byte))) : State :=
  updPort s port fun q => { q with rxHeld := q.rxHeld ++ [.codeword seq flits 0] }
/-- R251: a codeword that is not decoded is discarded with a NAK, and holds the later ones. -/
def codewordFails (s : State) (port seq : Nat) : State :=
  sendNak (holdCodeword (countUncorr s port) port seq none) port seq
/-- The held codeword that a replay names. -/
def replayedSeq (q : Port) (ref : Nat) : Option Nat :=
  q.rxHeld.findSome? fun x => match x with
    | .codeword n none _ => if n % codeReplay q.rs = ref then some n else none
    | _ => none
/-- R251, R253: a replay fills the codeword that it names; packets that it lets pass after a second retry are LATE without a
schedule overrun. -/
def takeReplay (s : State) (port ref : Nat) (flits : List (List Byte)) : State :=
  match replayedSeq (portAt s port) ref with
  | none => s
  | some n =>
    let last := (portAt s port).rxSeq - 1
    let retried := (portAt s port).naks.any fun x => x.1 == n && decide (2 ≤ x.2.2)
    releaseAll (updPort s port fun q =>
      { q with rxHeld := q.rxHeld.map fun x => (match x with
                  | .codeword m none k => if m = n then .codeword m (some flits) k else x
                  | _ => x),
               rxStamps := Sparse.set 0 (Sparse.set 0 q.rxStamps n (Sparse.get 0 q.rxStamps last)) last 0,
               naks := q.naks.filter fun x => x.1 != n, nakOut := q.nakOut.filter (· ≠ n),
               rxRetry := if retried then some s.tide.now else q.rxRetry }) port
/-- R478, R485: a corrected codeword is counted. -/
def countCorrected (s : State) (port : Nat) : State :=
  updLedger (wearAdd (updPort s port fun q => { q with cntCorr := satTo 32 (q.cntCorr + 1) }) 2 port 0 1)
    (64 + portShore port) fun r => { r with suspects := r.suspects + 1 }
/-- A decoded codeword: its link-control field, then its flits. -/
def takeDecoded (s : State) (port seq : Nat) (flits : List (List Byte)) (control : Nat) : State :=
  let ref := controlRef (portAt s port).rs control
  if bitOf control 1 then takeReplay s port ref flits
  else releaseAll (holdCodeword (if bitOf control 0 then nakTaken s port ref else s) port seq (some flits)) port
/-- R251, CODEWORD_RECEIVE: the PAM4 levels of one codeword time on the two lanes, between the boundaries that training
found (R241), and when its first symbol crossed the line, in 1/256 ns (R291). -/
def execCodewordReceive (port : Nat) (lane0 lane1 : List Nat) (stamp : Nat) (s : State) : Result :=
  let q := portAt s port
  .next (if q.mode ≠ .active ∨ 128 ≤ port then s
    else
      let s := updPort s port fun q =>
        { q with rxSeq := q.rxSeq + 1, rxStamps := Sparse.set 0 q.rxStamps q.rxSeq stamp, rxLevel0 := lane0.getLastD q.rxLevel0, rxLevel1 := lane1.getLastD q.rxLevel1 }
      match decodeLevels q.rs q.rxPre0 q.rxPre1 q.rxLevel0 q.rxLevel1 lane0 lane1 with
      | none => codewordFails s port q.rxSeq
      | some r => takeDecoded (if r.1 = 0 then s else countCorrected s port) port q.rxSeq r.2.1 r.2.2)
/-- R263, PACKET_RESERVED_TYPE: a header of reserved type has been found in a codeword that was received; what followed it is
discarded. -/
def execPacketReservedType (port seq : Nat) (s : State) : Result :=
  .next (if (portAt s port).mode ≠ .active then s else headerReserved s port seq 0)

end Sys2Proof.Machine
end

