-- ==== Sys2Proof/Machine/Unpack.lean ====
section
/-!
DEFINITION. Decompression on the load path: LZ4 frames, with the block and frame formats and the
xxHash32 checksum of the standard that R414 names (PRESUMED, log entry 20), and the weight pack of R415.
Bytes are numbers below 256; `none` is a decompress error.
-/
namespace Sys2Proof.Machine

/-! ### xxHash32 -/

/-- Rotate a word left. -/
def xxRotl (x : Word) (n : Nat) : Word := x.rotateLeft n
/-- A little-endian word of four bytes. -/
def xxLane (bs : List Nat) : Word := BitVec.ofNat 32 (ofLeBytes (bs.take 4))
/-- One accumulator round. -/
def xxRound (acc lane : Word) : Word := xxRotl (acc + lane * 2246822519#32) 13 * 2654435761#32
/-- Whole stripes of 16 bytes; the fuel counts stripes. -/
def xxStripes : Nat → List Nat → Word × Word × Word × Word → Word × Word × Word × Word
  | 0, _, a => a
  | n + 1, bs, (a, b, c, d) =>
    xxStripes n (bs.drop 16)
      (xxRound a (xxLane bs), xxRound b (xxLane (bs.drop 4)), xxRound c (xxLane (bs.drop 8)),
       xxRound d (xxLane (bs.drop 12)))
/-- Whole words of the tail. -/
def xxWords : Nat → List Nat → Word → Word
  | 0, _, h => h
  | n + 1, bs, h => xxWords n (bs.drop 4) (xxRotl (h + xxLane bs * 3266489917#32) 17 * 668265263#32)
/-- Last bytes. -/
def xxTail : List Nat → Word → Word
  | [], h => h
  | b :: t, h => xxTail t (xxRotl (h + BitVec.ofNat 32 b * 374761393#32) 11 * 2654435761#32)
/-- xxHash32 with seed 0. -/
def xxh32 (bs : List Nat) : Nat :=
  let n := bs.length
  let h := if 16 ≤ n then
      let (a, b, c, d) := xxStripes (n / 16) bs
        (606290984#32, 2246822519#32, 0#32, 1640531535#32)
      xxRotl a 1 + xxRotl b 7 + xxRotl c 12 + xxRotl d 18
    else 374761393#32
  let h := h + BitVec.ofNat 32 n
  let rest := bs.drop (n / 16 * 16)
  let h := xxWords (rest.length / 4) rest h
  let h := xxTail (rest.drop (rest.length / 4 * 4)) h
  let h := (h ^^^ (h >>> 15)) * 2246822519#32
  let h := (h ^^^ (h >>> 13)) * 3266489917#32
  (h ^^^ (h >>> 16)).toNat

/-! ### LZ4 -/

/-- Copy a match of the output so far, kept newest byte first. -/
def lz4Copy : Nat → Nat → List Nat → Option (List Nat)
  | 0, _, out => some out
  | n + 1, off, out =>
    match out[off - 1]? with
    | some b => lz4Copy n off (b :: out)
    | none => none
/-- The bytes that extend a length of 15. -/
def lz4Ext : List Nat → Nat → Option (Nat × List Nat)
  | [], _ => none
  | b :: t, acc => if b = 255 then lz4Ext t (acc + 255) else some (acc + b, t)
/-- A length nibble with its extension. -/
def lz4Len (nibble : Nat) (t : List Nat) : Option (Nat × List Nat) :=
  if nibble = 15 then lz4Ext t 15 else some (nibble, t)
/-- Decode one block onto the output, newest byte first; the fuel bounds the sequences. -/
def lz4Block : Nat → List Nat → List Nat → Option (List Nat)
  | 0, _, _ => none
  | _ + 1, [], _ => none
  | fuel + 1, tok :: t, out =>
    match lz4Len (tok / 16) t with
    | none => none
    | some (n, t) =>
      if t.length < n then none
      else
        let out := (t.take n).reverse ++ out
        match t.drop n with
        | [] => some out
        | o0 :: o1 :: t =>
          let off := o0 + 256 * o1
          if off = 0 then none
          else match lz4Len (tok % 16) t with
            | none => none
            | some (m, t) =>
              match lz4Copy (m + 4) off out with
              | none => none
              | some out => lz4Block fuel t out
        | _ => none
/-- The blocks of a frame, on the frame's output so far; `linked` keeps earlier blocks in reach. -/
def lz4Blocks : Nat → Bool → Bool → Nat → List Nat → List Nat → Option (List Nat × List Nat)
  | 0, _, _, _, _, _ => none
  | fuel + 1, linked, sums, maxLen, bs, out =>
    if bs.length < 4 then none
    else
      let w := ofLeBytes (bs.take 4)
      let t := bs.drop 4
      if w = 0 then some (out, t)
      else
        let n := w % 2 ^ 31
        let body := t.take n
        let rest := t.drop n
        if t.length < n ∨ maxLen < n then none
        else if sums && (rest.length < 4 || ofLeBytes (rest.take 4) != xxh32 body) then none
        else
          let rest := if sums then rest.drop 4 else rest
          let next := if w / 2 ^ 31 = 1 then some (body.reverse ++ out)
            else if linked then lz4Block (n + 1) body out
            else (lz4Block (n + 1) body []).map (· ++ out)
          match next with
          | some o => if maxLen < o.length - out.length then none else lz4Blocks fuel linked sums maxLen rest o
          | none => none
/-- One frame after its magic: its content, and the bytes after it. -/
def lz4Frame (bs : List Nat) : Option (List Nat × List Nat) :=
  match bs with
  | flg :: bd :: t =>
    let size := bitOf flg 3
    let code := bitsOf bd 6 4
    let hdr := if size then 10 else 2
    if bitsOf flg 7 6 ≠ 1 ∨ bitOf flg 1 ∨ bitOf flg 0 ∨ bitOf bd 7 ∨ bitsOf bd 3 0 ≠ 0 ∨ code < 4
        ∨ bs.length < hdr + 1 then none
    else if (bs.getD hdr 0) ≠ xxh32 (bs.take hdr) / 256 % 256 then none
    else
      let maxLen := 2 ^ (2 * code + 8)
      match lz4Blocks (bs.length + 1) (!bitOf flg 5) (bitOf flg 4) maxLen (bs.drop (hdr + 1)) [] with
      | none => none
      | some (out, rest) =>
        let content := out.reverse
        let sum := bitOf flg 2
        if size && ofLeBytes (t.take 8) != content.length then none
        else if sum && (rest.length < 4 || ofLeBytes (rest.take 4) != xxh32 content) then none
        else some (content, if sum then rest.drop 4 else rest)
  | _ => none
/-- R414: frames laid end to end, skippable ones skipped. -/
def lz4Frames : Nat → List Nat → Option (List Nat)
  | 0, _ => none
  | fuel + 1, bs =>
    if bs = [] then some []
    else if bs.length < 8 then none
    else
      let magic := ofLeBytes (bs.take 4)
      if magic / 16 = 0x184D2A5 then
        let n := ofLeBytes ((bs.drop 4).take 4)
        if bs.length < 8 + n then none else lz4Frames fuel (bs.drop (8 + n))
      else if magic = 0x184D2204 then
        match lz4Frame (bs.drop 4) with
        | none => none
        | some (out, rest) => (lz4Frames fuel rest).map (out ++ ·)
      else none

/-! ### The weight pack (R415) -/

/-- Restore the element order of a shuffled block: byte p of element e stands at p × n + e. -/
def unshuffle (w : Nat) (bs : List Nat) : Option (List Nat) :=
  if bs.length % w ≠ 0 then none
  else
    let n := bs.length / w
    some ((List.range bs.length).map fun i => bs.getD (i % w * n + i / w) 0)
/-- One block by its coding. -/
def packBlock (coding w len : Nat) (bs : List Nat) : Option (List Nat) :=
  match coding with
  | 0 => some bs
  | 1 => if bs = [] then some (List.replicate len 0) else none
  | 2 => (lz4Block (bs.length + 1) bs []).map (·.reverse)
  | _ => ((lz4Block (bs.length + 1) bs []).map (·.reverse)).bind (unshuffle w)
/-- The blocks in order: table words, then the bytes; `left` is the length still to make. -/
def packBlocks (size w : Nat) : List Nat → Nat → List Nat → Option (List Nat)
  | [], left, bs => if left = 0 ∧ bs = [] then some [] else none
  | x :: t, left, bs =>
    let n := x % 2 ^ 30
    let len := min size left
    if bs.length < n then none
    else match packBlock (x / 2 ^ 30) w len (bs.take n) with
      | none => none
      | some out =>
        if out.length ≠ len then none
        else (packBlocks size w t (left - len) (bs.drop n)).map (out ++ ·)
/-- R415: decode a weight pack. -/
def unpackWeights (bs : List Nat) : Option (List Nat) :=
  let f := fun o n => ofLeBytes ((bs.drop o).take n)
  let b := f 6 1
  let w := f 7 1
  let count := f 0x10 4
  if bs.length < 32 ∨ f 0 4 ≠ 0x3150574F ∨ f 4 2 ≠ 1 ∨ b < 12 ∨ 22 < b ∨ (w ≠ 1 ∧ w ≠ 2 ∧ w ≠ 4)
      ∨ f 0x1C 4 ≠ crc32c (bs.take 28) ∨ bs.length < 32 + 4 * count then none
  else
    packBlocks (2 ^ b) w ((List.range count).map fun i => f (32 + 4 * i) 4) (f 8 8) (bs.drop (32 + 4 * count))

end Sys2Proof.Machine
end

