-- ==== Sys2Proof/Machine/Loading.lean ====
section
/-!
DEFINITION. The load engine: queues, entries, transforms and storage connections (R404 to R424).
-/
namespace Sys2Proof.Machine

/-! ### Queues (R408, R411, R421, R422) -/

/-- Load queue `q`: a cove's, or the module's for 16. -/
def queueAt (s : State) (q : Nat) : LoadQueue := if q < 16 then (coveAt s q).lq else s.load.pq
/-- Change a queue. -/
def updQueue (s : State) (q : Nat) (f : LoadQueue → LoadQueue) : State :=
  if q < 16 then updCove s q fun v => { v with lq := f v.lq }
  else { s with load := { s.load with pq := f s.load.pq } }
/-- The function that owns a queue. -/
def queueFn (q : Nat) : Nat := if q < 16 then q + 1 else 0
/-- A function may write a queue's registers. -/
def queueWriter (q fn : Nat) : Bool := fn == 0 || fn == queueFn q
/-- BAR offset of the queue's TAIL register for a function. -/
def queueTailOff (q fn : Nat) : Nat := if q < 16 then barOff q fn 0x910 else 0x50110
/-- The queue is enabled with a legal size. -/
def queueOn (x : LoadQueue) : Bool := x.en && decide (6 ≤ x.size) && decide (x.size ≤ 16)
/-- R567, LOAD_QUEUE_DOORBELL: a tail more than the queue's length ahead of the head is refused. -/
def effectLoadQueueDoorbell (q fn : Nat) (tail : Word) (s : State) : Result :=
  let x := queueAt s q
  let t := bitsOf tail.toNat 15 0
  .next (if !queueWriter q fn then s
    else if 2 ^ x.size < (t + 65536 - x.head % 65536) % 65536 then hostError s fn 2 (queueTailOff q fn)
    else updQueue s q fun x => { x with tail := t })
/-- R422, LOAD_QUEUE_ENABLE: setting EN sets head and tail to 0. -/
def effectLoadQueueEnable (q fn : Nat) (value : Word) (s : State) : Result :=
  .next (if !queueWriter q fn then s else updQueue s q fun x =>
    let size := bitsOf value.toNat 4 0
    if value.getLsbD 5 && !x.en then
      { x with en := true, size := size, head := 0, tail := 0, next := 0, doneIdx := [] }
    else { x with en := value.getLsbD 5, size := size })

/-! ### Entries (R408, R409) -/

/-- The entry that 64 bytes hold, on a queue. -/
def parseEntry (q : Nat) (bs : List Byte) : LoadEntry :=
  let f := fun o n => leVal ((bs.drop o).take n)
  let op := f 0 1
  let low := if q < 16 then f 0x30 8 else f 0x30 8 - f 0x31 1 * 256
  let cove := if q < 16 then q else bitsOf (f 0x31 1) 3 0
  let reserved :=
    if op = 1 then low != 0 || (16 ≤ q && bitsOf (f 0x31 1) 7 4 != 0)
    else bitsOf (f 0x30 1) 7 4 != 0 || bitsOf (f 0x31 1) 7 4 != 0 || f 0x32 2 != 0
  { opcode := op, flags := f 1 1, formats := f 2 1, xform := f 3 1, tag := BitVec.ofNat 32 (f 4 4),
    src := f 8 8, srcLen := f 0x10 8, dst := BitVec.ofNat 64 (f 0x18 8),
    scaleDst := BitVec.ofNat 64 (f 0x20 8), rows := f 0x28 4, cols := f 0x2C 4,
    conn := bitsOf (f 0x30 1) 3 0, cove := cove, nsid := f 0x34 4, entryTag := BitVec.ofNat 32 (f 0x38 4),
    reservedSet := reserved || f 0x3C 4 != 0 || bitsOf (f 1 1) 7 3 != 0
      || bitsOf (f 3 1) 7 5 != 0 || bitsOf (f 3 1) 1 0 == 3 }
/-- Source and destination format codes. -/
def entrySrcFmt (e : LoadEntry) : Nat := bitsOf e.formats 3 0
/-- Destination format code. -/
def entryDstFmt (e : LoadEntry) : Nat := bitsOf e.formats 7 4
/-- The entry converts; the entry re-lays; its compression. -/
def entryConverts (e : LoadEntry) : Bool := entrySrcFmt e != entryDstFmt e
/-- Re-layout is set. -/
def entryRelays (e : LoadEntry) : Bool := bitOf e.xform 2
/-- A transformed entry. -/
def entryTransforms (e : LoadEntry) : Bool := entryConverts e || entryRelays e
/-- Bits per element of a code; the reserved code takes none. -/
def codeBits (c : Nat) : Nat := match fmtOfCode c with | some f => fmtBits f | none => 0
/-- The code names an MX format. -/
def codeMx (c : Nat) : Bool := match fmtOfCode c with | some f => fmtIsMx f | none => false
/-- Elements that a transformed entry writes: padded to 128 and 32 under re-layout (R416). -/
def entryElems (e : LoadEntry) : Nat :=
  if entryRelays e then
    let lead := if bitOf e.xform 4 then e.cols else e.rows
    let depth := if bitOf e.xform 4 then e.rows else e.cols
    roundUp lead 128 * roundUp depth 32
  else e.rows * e.cols
/-- Destination ranges by element plane and scale plane; a compressed plain entry's length is known only
when it has been read. -/
def entryRanges (e : LoadEntry) : List (Nat × Nat) :=
  if entryTransforms e then
    (e.dst.toNat, entryElems e * codeBits (entryDstFmt e) / 8) ::
      (if codeMx (entryDstFmt e) && entryConverts e then [(e.scaleDst.toNat, entryElems e / 32)] else [])
  else [(e.dst.toNat, e.srcLen)]
/-- A range lies in the cove's granted units, demoted ones among them, or the near memory of its dies. -/
def rangeAllowed (s : State) (c : Nat) (r : Nat × Nat) : Bool :=
  decide (r.2 = 0) || (decide (addrModule r.1 = s.moduleId) && match placeOf r.1 with
    | .hbm off => (List.range ((off % 4096 + r.2 + 4095) / 4096)).all fun i =>
        let a := off / 4096 * 4096 + 4096 * i
        let p := placementAt s (frameAt a).2
        coveOwns s c a || ((p.state == .demoted || p.state == .promoting) && p.cove == c)
    | .near die off => (coveAt s c).dies.getLsbD die && !dieFenced s die && decide (off + r.2 ≤ 2 ^ 30)
    | _ => false)
/-- R410: the cove's state admits the entry. -/
def stateAdmits (v : Cove) (e : LoadEntry) : Bool :=
  if e.opcode = 3 then
    v.mode == .free || v.mode == .stopped || (v.mode == .held && v.reshape.isNone)
  else if bitOf e.flags 0 then
    v.mode == .held || v.mode == .stopped || (v.mode == .loading && v.fromStopped)
  else v.mode == .running || v.mode == .held || v.mode == .stopped
/-- R409: the status that refuses an entry before a byte moves, in the order of the table; 0 for none. -/
def entryRefusal (s : State) (q : Nat) (e : LoadEntry) : Nat :=
  let v := coveAt s e.cove
  let src := entrySrcFmt e
  let dst := entryDstFmt e
  let sized := entryTransforms e
  let mxOut := codeMx dst && entryConverts e
  let fp4 := codeBits dst == 4
  if e.reservedSet ∨ 3 < e.opcode then 1
  else if e.opcode = 3 ∧ q < 16 then 1
  else if src = 0xF ∨ dst = 0xF then 2
  else if e.opcode = 0 then 0
  else if entryConverts e ∧ (src = 0xE ∨ dst = 0xE) then 2
  else if (sized && (e.rows == 0 || e.cols == 0)) || (!sized && (e.rows != 0 || e.cols != 0)) then 1
  else if (mxOut && !entryRelays e && e.rows * e.cols % 32 != 0)
      || (sized && fp4 && !entryRelays e && e.rows * e.cols % 2 != 0) then 1
  else if !sized && (e.dst.toNat % 64 != 0 || e.srcLen % 64 != 0 || (e.opcode == 1 && e.src % 64 != 0)) then 1
  else if sized && (e.dst.toNat % 4096 != 0 || (mxOut && e.scaleDst.toNat % 4096 != 0)) then 1
  else if e.opcode ≠ 1 ∧ (e.srcLen % (if Config.lba4096 e.conn e.nsid then 4096 else 512) ≠ 0 ∨ 2 ^ 36 < e.srcLen) then 1
  else if e.opcode ≠ 1 ∧ (Sparse.get .down s.load.conns e.conn ≠ .up
      ∨ ¬ bitOf (Sparse.get 0 s.load.connCoves e.conn) e.cove) then 6
  else if !((List.range 4).any fun j => jobTagReg s e.cove j == e.tag) then 4
  else if (if e.opcode = 3 then ((entryRanges e).take 1).any (fun p => decide (2 ^ 27 < p.1 + p.2))
        || !(((entryRanges e).drop 1).all (rangeAllowed s e.cove))
      else !((entryRanges e).all (rangeAllowed s e.cove))) then 5
  else if !stateAdmits v e then 3
  else 0
/-- Destination ranges that overlap those of an entry in flight on any queue (R411). -/
def entryBlocked (s : State) (e : LoadEntry) : Bool :=
  ((List.range 17).flatMap fun q => (queueAt s q).inflight).any fun x =>
    (entryRanges x.entry).any fun a => (entryRanges e).any fun b =>
      (x.entry.opcode == 3) == (e.opcode == 3)
        && (e.opcode != 3 || x.entry.cove == e.cove) && overlaps a.1 a.2 b.1 b.2

/-! ### Completion (R411, R423) -/

/-- Advance the head past completed entries; the fuel is the queue's length. -/
def advanceHead : Nat → LoadQueue → LoadQueue
  | 0, x => x
  | n + 1, x =>
    if x.doneIdx.contains x.head then
      advanceHead n { x with head := (x.head + 1) % 65536, doneIdx := x.doneIdx.filter (· ≠ x.head) }
    else x
/-- The status line of an entry, its event, and the head. -/
def endLoad (s : State) (q : Nat) (x : InFlight) : State :=
  let s := updQueue s q fun l =>
    advanceHead 65536 { l with inflight := l.inflight.filter fun y => y.index != x.index,
                               doneIdx := l.doneIdx ++ [x.index] }
  let code := if x.status = 7 then 0x8005 else if x.status = 9 ∨ x.status = 0xC then 0x8006
    else if x.status = 0xA then 0x8007 else 0x8004
  let s := if x.status = 0 then s else recordCove s code .corrected x.entry.cove (if code = 0x8004 then [x.status] else [])
  completionLine s (queueFn q) 1 x.entry.cove
    [(0, 2, x.index), (4, 4, x.entry.entryTag.toNat), (8, 1, x.status), (9, 1, x.peerBits),
     (0x10, 8, x.written), (0x18, 4, satTo 32 x.sats), (0x1C, 4, satTo 32 x.nonfinites),
     (0x20, 8, (coveAt s x.entry.cove).step.toNat)]
/-- R411, LOAD_ENTRY_START: `bytes` are the entry's 64 bytes in host memory. It starts when the queue has
room in flight, its fence and overlaps allow it and the pending store has a place; a refused entry ends at
once, event 0x8003. -/
def execLoadEntryStart (q : Nat) (bytes : List Byte) (s : State) : Result :=
  let x := queueAt s q
  let e := parseEntry q bytes
  if 16 < q ∨ ¬ queueOn x ∨ ¬ s.host.linkUp ∨ (fnAt s (queueFn q)).d3hot ∨ x.next = x.tail ∨ 4 ≤ x.inflight.length ∨ storeFull s (queueFn q)
      ∨ bytes.length ≠ 64 then .next s
  else
    let r := entryRefusal s q e
    if r = 0 ∧ ((bitOf e.flags 1 ∧ x.inflight ≠ []) ∨ (e.opcode ≠ 0 ∧ entryBlocked s e)) then .next s
    else
      let f : InFlight := ⟨x.next, e, 0, 0, 0, r, false, [], 0⟩
      let s := updQueue (reserveLine s (queueFn q)) q fun l =>
        { l with next := (l.next + 1) % 65536, inflight := l.inflight ++ [f] }
      .next (if r = 0 then s
        else
          let s := recordCove s 0x8003 .corrected e.cove [r]
          let s := updQueue s q fun l =>
            advanceHead 65536 { l with inflight := l.inflight.filter (fun y => y.index != f.index),
                                       doneIdx := l.doneIdx ++ [f.index] }
          completionLine s (queueFn q) 1 e.cove
            [(0, 2, f.index), (4, 4, e.entryTag.toNat), (8, 1, r), (0x20, 8, (coveAt s e.cove).step.toNat)])
/-- The tag of a broadcast packet: its queue and peer (log entry 22). -/
def peerTag (q p : Nat) : Nat := 0x8000 + 8 * q + p
/-- Acknowledgements cover every packet that the entry's queue has sent to its peers (R419). -/
def peersSettled (s : State) (q : Nat) : Bool :=
  let own := fun (p : Packet) => p.srcUnit == 1280 && decide (peerTag q 0 ≤ p.tag) && decide (p.tag ≤ peerTag q 7)
  (s.fab.waiting.all fun o => !own o.packet) && s.fab.ports.all fun x => x.2.unacked.all fun p => !own p
/-- The entry writes nothing more: it failed here or was aborted. A failed peer stops nothing (R419). -/
def entryStopped (x : InFlight) : Bool := x.status != 0 && x.peerBits == 0
/-- R411, LOAD_ENTRY_END: the oldest entry that has written everything, here and to its peers, or that failed or was aborted,
completes. -/
def execLoadEntryEnd (q : Nat) (s : State) : Result :=
  match (queueAt s q).inflight.find? fun x =>
      entryStopped x || (x.ran && x.out.isEmpty && (!bitOf x.entry.flags 2 || peersSettled s q)) with
  | some x => .next (endLoad s q x)
  | none => .next s

/-! ### Transforms (R413 to R417) -/

/-- R413: the first stage: the decompressed bytes, or status 7. -/
def decompress (e : LoadEntry) (bs : List Byte) : Option (List Byte) :=
  let ns := bs.map (·.toNat)
  let back := fun (r : Option (List Nat)) => r.map fun l => l.map (BitVec.ofNat 8)
  match bitsOf e.xform 1 0 with
  | 0 => some bs
  | 1 => back (lz4Frames (ns.length + 1) ns)
  | _ => back (unpackWeights ns)
/-- The logical element at a place of the destination's element plane: its source index, or none for
padding (R416, R93). -/
def sourceIndex (e : LoadEntry) (p : Nat) : Option Nat :=
  if !entryRelays e then some p
  else
    let cols := bitOf e.xform 4
    let lead := if cols then e.cols else e.rows
    let depth := if cols then e.rows else e.cols
    let units := roundUp depth 32 / 32
    let unit := p / 4096
    let l := unit / units * 128 + p % 4096 / 32
    let d := unit % units * 32 + p % 32
    if l < lead ∧ d < depth then some (if cols then d * e.cols + l else l * e.cols + d) else none
/-- What a transform makes: element-plane bytes, scale-plane bytes, saturations, non-finite sources. -/
structure Output where
  elems : List Byte
  scales : List Byte
  sats : Nat
  nonfinites : Nat
/-- Pack element codes into bytes. -/
def packElems (bits : Nat) (codes : List Nat) : List Byte :=
  memRead (setElems [] 0 bits 0 codes) 0 ((codes.length * bits + 7) / 8)
/-- R416, R417: re-layout and conversion of decompressed bytes. The scale of an element of an MX source, which the source
does not hold, is free (log entry 21). -/
def transform (s : State) (e : LoadEntry) (bs : List Byte) : Option Output :=
  match fmtOfCode (entrySrcFmt e), fmtOfCode (entryDstFmt e) with
  | some fs, some fd =>
    let n := entryElems e
    let m := memWrite [] 0 bs
    let code := fun p => match sourceIndex e p with | some i => elemAt m 0 (fmtBits fs) i | none => 0
    if fs = fd then
      some ⟨packElems (fmtBits fd) ((List.range n).map code), [], 0, 0⟩
    else
      let r := if bitOf e.xform 3 then Rnd.rtz else .rne
      let val := fun p =>
        if fmtIsMx fs then
          match sourceIndex e p with
          | some i => scaleVal (Config.freeByte s.free i).toNat (decodeElem fs (code p))
          | none => .fin false 0 0
        else decodeElem fs (code p)
      let vals := (List.range n).map val
      let bad := (vals.filter valNonfinite).length
      if fmtIsMx fd then
        let blocks := (List.range (n / 32)).map fun b =>
          quantiseBlock fd r (((vals.drop (32 * b)).take 32).map fun v => (v, 0))
        let convs := blocks.flatMap (·.2)
        some ⟨packElems (fmtBits fd) (convs.map (·.bits)), blocks.flatMap fun b => leOut 1 b.1,
          (convs.filter (·.saturated)).length, bad⟩
      else
        let convs := vals.map fun v => convElem fd r true 0 v
        some ⟨packElems (fmtBits fd) (convs.map (·.bits)), [], (convs.filter (·.saturated)).length, bad⟩
  | _, _ => none

/-! ### Writing the output (R405, R419) -/

/-- Cut bytes into pieces of at most 4 KiB from an address, each with its address. -/
def chunks : Nat → Nat → List Byte → List (Nat × List Byte)
  | 0, _, _ => []
  | fuel + 1, a, bs =>
    if bs = [] then []
    else
      let n := 4096 - a % 4096
      (a, bs.take n) :: chunks fuel (a + n) (bs.drop n)
/-- CV_LQ_PEER entries of a cove in use: index and module. -/
def loadPeers (s : State) (c : Nat) : List (Nat × Nat) :=
  (List.range 7).filterMap fun p =>
    let w := (regAt s (cvReg c (0x920 + 8 * p))).toNat
    if bitOf w 16 then some (p, bitsOf w 15 0) else none
/-- The cove's tables grant class 0xE a share or a slot on every resource that the output needs (R318, R405). -/
def loadGranted (s : State) (e : LoadEntry) (l : List (Nat × List Byte)) : Bool :=
  (l.all fun p => (placeNeeds (placeOf p.1) 1).all fun n => everGranted s n e.cove 0xE)
    && (!bitOf e.flags 2 || (loadPeers s e.cove).all fun p =>
      match routeTo s 64 p.2 with | some (port, _) => portEver s port e.cove 0xE | none => true)
/-- The load engine's packet to another module: from the mover of shore die 0, with the entry's job tag (R405). -/
def loadPacket (s : State) (e : LoadEntry) (cls tag dest : Nat) (bs : List Byte) : Packet :=
  dataPacket s 1 0 (moduleGenOf s 64) cls 1280 tag 0 e.tag dest (padFlit bs)
/-- Write one piece as a mover of shore die 0 in class 0xE: to this module, or in class 0xC to the lender of a demoted unit
(R222, R405, R412). -/
def loadPiece (s : State) (e : LoadEntry) (p : Nat × List Byte) : MoveStep :=
  let r := barnRedirect s e.cove p.1
  let cls := if r.2 then 0xC else 0xE
  if addrModule r.1 ≠ s.moduleId then
    moveAway (markDirty s (addrModule r.1) (r.1 % 2 ^ 44)) e.cove cls 0 [] (loadPacket s e cls 0 r.1 p.2)
  else
    moveHere s e.cove cls 0 [] ⟨.write, r.1, p.2.length, e.tag, moduleGenOf s 64, true, s.moduleId, 1280, 1⟩ fun s =>
      landWrite s e.tag (placeOf r.1) p.2
/-- Send the pieces to the peers, in the same order; peers that no route reaches give their bits. -/
def broadcast (s : State) (q : Nat) (e : LoadEntry) (l : List (Nat × List Byte)) : Nat × State :=
  (loadPeers s e.cove).foldl (fun r p =>
    if (routeTo r.2 64 p.2).isNone then (r.1 ||| 2 ^ p.1, r.2)
    else (r.1, l.foldl (fun s x => queueOut s ⟨64, some e.cove, 0xE, none, true,
      loadPacket s e 0xE (peerTag q p.1) (p.2 * 2 ^ 48 + x.1 % 2 ^ 48) x.2⟩) r.2)) (0, s)
/-- Note the outcome of an entry in flight. -/
def noteLoad (s : State) (q : Nat) (x : InFlight) : State :=
  updQueue s q fun l =>
    { l with inflight := l.inflight.map fun y => if y.index = x.index then x else y }
/-- R413: the stages of an entry on the bytes read: its output, or the status that ends it. -/
def stages (s : State) (e : LoadEntry) (data : List Byte) : Except Nat Output :=
  match decompress e data with
  | none => .error 7
  | some bs =>
    if !entryTransforms e then .ok ⟨bs, [], 0, 0⟩
    else if bs.length * 8 ≠ e.rows * e.cols * codeBits (entrySrcFmt e) then .error 8
    else match transform s e bs with
      | some o => .ok o
      | none => .error 2
/-- The scale-plane pieces of an output. -/
def scalePieces (e : LoadEntry) (o : Output) : List (Nat × List Byte) :=
  chunks (o.scales.length + 1) e.scaleDst.toNat o.scales
/-- A draw of free values was used for the scales of an MX source. -/
def drawnScales (s : State) (e : LoadEntry) : State :=
  if codeMx (entrySrcFmt e) && entryConverts e then freeTick s else s
/-- Run an entry on the bytes read; `ok` says that the source answered. -/
def runLoad (s : State) (q : Nat) (x : InFlight) (ok : Bool) (data : List Byte) : State :=
  let e := x.entry
  let fail := fun n => noteLoad s q { x with ran := true, status := n }
  if !ok || data.length ≠ e.srcLen then fail 6
  else match stages s e data with
    | .error n => fail n
    | .ok o =>
      let l := chunks (o.elems.length + 1) e.dst.toNat o.elems ++ scalePieces e o
      if !((l.map fun p => (p.1, p.2.length)).all (rangeAllowed s e.cove)) || !loadGranted s e l then fail 5
      else
        let s := drawnScales s e
        let r := if bitOf e.flags 2 then broadcast s q e l else (0, s)
        noteLoad r.2 q { x with
          ran := true, out := l, status := if r.1 = 0 then 0 else 0xC, peerBits := r.1,
          sats := o.sats, nonfinites := o.nonfinites }
/-- Run an image entry: its output goes to the target cove's image slot, which peers stage for themselves (R419), and a scale
plane to its global address. -/
def runImage (s : State) (q : Nat) (x : InFlight) (ok : Bool) (data : List Byte) : State :=
  let e := x.entry
  let fail := fun n => noteLoad s q { x with ran := true, status := n }
  if !ok || data.length ≠ e.srcLen then fail 6
  else match stages s e data with
    | .error n => fail n
    | .ok o =>
      let l := scalePieces e o
      if 2 ^ 27 < e.dst.toNat + o.elems.length || !((l.map fun p => (p.1, p.2.length)).all (rangeAllowed s e.cove))
          || !loadGranted s { e with flags := 0 } l then fail 5
      else
        let s := updCove (drawnScales s e) e.cove fun v => { v with image := memWrite v.image e.dst.toNat o.elems }
        noteLoad s q { x with ran := true, out := l, written := o.elems.length, sats := o.sats, nonfinites := o.nonfinites }
/-- The status of an entry whose write a target refused (R423): R405 and R412 name the address fault; an unreachable lender
is the one outcome that its table has for it (DEDUCED, log entry 22). -/
def loadStatus : WainStatus → Nat
  | .jobTagRefusal => 4 | .unreachable => 0xC | .tallyFailure => 0xB | _ => 5
/-- The next piece of a queue's oldest entry that still writes. -/
def loadNext (s : State) (q : Nat) : State :=
  match (queueAt s q).inflight.find? fun x => !entryStopped x && !x.out.isEmpty with
  | none => s
  | some x =>
    match x.out with
    | [] => s
    | p :: t =>
      if !rangeAllowed s x.entry.cove (p.1, p.2.length) then noteLoad s q { x with out := [], status := 5, peerBits := 0 }
      else match loadPiece s x.entry p with
        | .waits s => s
        | .fails w s => noteLoad s q { x with out := [], status := loadStatus w, peerBits := 0 }
        | .moved s => noteLoad s q { x with out := t, written := x.written + p.2.length }
/-- One tick of the load engine: a piece for every queue, as far as admission goes; the pace is the model's (log entry 13). -/
def loadTick (s : State) : State := forEach s (List.range 17) loadNext
/-- The oldest entry of an opcode that has not run. -/
def nextOf (s : State) (q op : Nat) : Option InFlight :=
  (queueAt s q).inflight.find? fun x => !x.ran && x.status == 0 && x.entry.opcode == op
/-- R408, LOAD_ENTRY_NOP: opcode 0x00. -/
def execLoadEntryNop (q : Nat) (s : State) : Result :=
  match nextOf s q 0 with
  | some x => .next (noteLoad s q { x with ran := true })
  | none => .next s
/-- R408, LOAD_HOST_COPY: opcode 0x01, from host memory. -/
def execLoadHostCopy (q : Nat) (ok : Bool) (data : List Byte) (s : State) : Result :=
  match nextOf s q 1 with
  | some x => .next (runLoad (if ok then s else hostFailed s (queueFn q) x.entry.src) q x ok data)
  | none => .next s
/-- R408, LOAD_STORAGE_READ: opcode 0x02, over a storage connection. -/
def execLoadStorageRead (q : Nat) (ok : Bool) (data : List Byte) (s : State) : Result :=
  match nextOf s q 2 with
  | some x => .next (runLoad s q x ok data)
  | none => .next s
/-- R408, LOAD_IMAGE: opcode 0x03 writes the target cove's image slot. -/
def execLoadImage (q : Nat) (ok : Bool) (data : List Byte) (s : State) : Result :=
  match nextOf s q 3 with
  | some x => .next (runImage s q x ok data)
  | none => .next s

/-! ### Storage connections (R407) -/

/-- Entries in flight on a connection end with source error. -/
def failEntries (s : State) (k : Nat) : State :=
  forEach s (List.range 17) fun s q => updQueue s q fun l =>
    { l with inflight := l.inflight.map fun x =>
        if x.entry.conn = k ∧ 2 ≤ x.entry.opcode ∧ ¬ x.ran ∧ x.status = 0 then { x with status := 6 } else x }
/-- Set a connection's state. -/
def setConn (s : State) (k : Nat) (m : ConnMode) : State :=
  { s with load := { s.load with conns := Sparse.set .down s.load.conns k m } }
/-- R407: the descriptor is valid, names a known port count and keeps its reserved fields 0. -/
def descriptorOk (d : List Byte) : Bool :=
  let f := fun o n => leVal ((d.drop o).take n)
  d.length == 512 && bitOf (f 0 1) 0 && bitsOf (f 0 1) 7 3 == 0 && decide (1 ≤ f 1 1) && decide (f 1 1 ≤ 4)
    && f 4 4 == 0 && f 0x32 14 == 0 && f 0x140 192 == 0
   
/-- R407, LOAD_CONN_CONNECT: the descriptor is read; a bad one takes the failed state without traffic. -/
def effectLoadConnConnect (k : Nat) (descriptor : List Byte) (ok : Bool) (s : State) : Result :=
  .next (if 16 ≤ k then s
    else if !ok || !descriptorOk descriptor then
      recordHead (setConn s k .failed) 0x8002 .corrected []
    else
      let s := setConn s k .connecting
      { s with load := { s.load with
          connCoves := Sparse.set 0 s.load.connCoves k (leVal ((descriptor.drop 2).take 2)) } })
/-- R407, LOAD_CONN_DISCONNECT: the connection closes; entries that use it end with source error. -/
def effectLoadConnDisconnect (k : Nat) (s : State) : Result :=
  .next (if 16 ≤ k ∨ Sparse.get .down s.load.conns k = .down then s
    else recordHead (failEntries (setConn s k .down) k) 0x8002 .corrected [])
/-- R407, CONNECTION_UP: an attempt ends, up or failed. -/
def execConnectionUp (k : Nat) (up : Bool) (s : State) : Result :=
  .next (if Sparse.get .down s.load.conns k ≠ .connecting then s
    else if up then recordHead (setConn s k .up) 0x8001 .corrected []
    else recordHead (setConn s k .failed) 0x8002 .corrected [])
/-- R407, CONNECTION_DROP: an up connection takes the failed state. A checkpoint action that uses it
fails at its end (R452). -/
def execConnectionDrop (k : Nat) (s : State) : Result :=
  .next (if Sparse.get .down s.load.conns k ≠ .up then s
    else recordHead (failEntries (setConn s k .failed) k) 0x8002 .corrected [])

end Sys2Proof.Machine
end

