-- ==== Sys2Proof/Machine/CoreEvents.lean ====
section
/-!
DEFINITION. Context switches and the die controller's scrub of a die's core memories (R113 to R118,
R126, R158, R165, R300).
-/
namespace Sys2Proof.Machine

/-! ### The save image (R113 to R117) -/

/-- `n` bytes of a list, with zeros after its end. -/
def fitBytes (n : Nat) (l : List Byte) : List Byte := (List.range n).map fun i => l.getD i 0#8
/-- The arrival state of a context. -/
def arrivalOf (x : Ctx) : ArrivalState :=
  { wait := x.wait, waitStart := x.waitStart, mainWait := x.mainWait, routine := x.routine, points := x.points,
    anchor := x.anchor, calls := x.calls, callsDone := x.callsDone, lastKind := x.lastKind, wainSeq := x.wainSeq,
    wainLate := x.wainStatus != .done, count := x.count }
/-- 512 bytes: program counter, s1 to s31, lc0 to lc3, arrival state. -/
def saveSequencer (x : Ctx) : List Byte :=
  fitBytes 512 (leOut 8 x.pc ++ (List.range 31).flatMap (fun i => leOut 8 (Sparse.get 0#64 x.sregs (i + 1)).toNat)
    ++ (List.range 4).flatMap (fun i => leOut 4 (lcAt x i).toNat) ++ Config.saveArrival (arrivalOf x))
/-- The queued work in its order, each with its progress word: strokes of a vector instruction, bundles of a TUPD, KiB
admitted of a descriptor. -/
def queuedWork (x : Ctx) : List (QueuedWork × Nat) :=
  x.matQ.map (fun i => (.mat i, 0)) ++ x.vecQ.map (fun e => (.vec e, e.strokes))
    ++ x.thrQ.map (fun e => (.thr e, e.run.bundle)) ++ x.wainQ.map fun d => (.wain d, d.moved / 1024)
/-- 1 KiB: matrix entries, then vector, then THR, then wain, each with a 16-bit progress word. -/
def saveQueues (x : Ctx) : List Byte :=
  fitBytes 1024 ((queuedWork x).flatMap fun e => fitBytes 16 (Config.saveEntry e.1) ++ leOut 2 e.2)
/-- 256 bytes: thresher state, on the lead core. -/
def saveThresher (s : State) (core k : Nat) : List Byte :=
  let r := threshAt s (clusterOf core) k
  let bundle := match (ctxAt s core k).thrQ with | e :: _ => e.run.bundle | [] => 0
  fitBytes 256 (if core % 4 = 0 then
    leOut 4 r.sumsq.toNat ++ leOut 4 r.scale.toNat ++ leOut 4 (natOf r.nonfinite) ++ leOut 4 bundle else [])
/-- 256 bytes: chain-valid, drain-pending, non-finite, saturation count. -/
def saveFlags (x : Ctx) : List Byte :=
  fitBytes 256 (leOut 4 (natOf x.held.isSome)
    ++ leOut 4 (match x.held with | some h => natOf h.drainPending | none => 0)
    ++ leOut 4 (natOf x.nonfinite) ++ leOut 4 x.satCount)
/-- The 99 KiB save image (R114): the held accumulator in the order of its output block, the vector registers, the
predicted sums p and q, the sequencer, the queues, the thresher and the flags. What R114 leaves open inside a region is in
log entry 23. -/
def saveImage (s : State) (core k : Nat) : List Byte :=
  let x := ctxAt s core k
  let acc := match x.held with
    | some h => (List.range 16384).flatMap fun e =>
        let p := outputPos (ctlBit h.tile.fields 69) e
        leOut 4 (Sparse.get 0#32 h.acc (128 * p.1 + p.2)).toNat
    | none => List.replicate 65536 0#8
  let vregs := (List.range 8192).flatMap fun i => leOut 4 (Sparse.get 0#32 x.vregs i).toNat
  let sums := match x.held with
    | some h => (List.range 128).flatMap (fun i => leOut 4 (Sparse.get 0#32 h.p i).toNat)
        ++ (List.range 128).flatMap fun i => leOut 4 (Sparse.get 0#32 h.q i).toNat
    | none => List.replicate 1024 0#8
  acc ++ vregs ++ sums ++ saveSequencer x ++ saveQueues x ++ saveThresher s core k ++ saveFlags x
/-- Scratchpad address of a context's save area. -/
def saveBase (x : Ctx) : Nat := winAddr x (scratchLimit x)
/-- Write the save image into the save area of a job context. -/
def writeSave (s : State) (core k : Nat) : State :=
  let x := ctxAt s core k
  if x.mode = .empty ∨ 4 ≤ k then s
  else scratchWrite s core (saveBase x) (saveImage s core k)
/-- `n` 32-bit values of a memory, as a table. -/
def loadWords (m : Memory) (a n : Nat) : Sparse Word :=
  (List.range n).foldl (fun t i => Sparse.set 0#32 t i (BitVec.ofNat 32 (leVal (memRead m (a + 4 * i) 4)))) []
/-- The parts of a context that its save image lays out, as the image holds them. -/
def loadImage (x : Ctx) (m : Memory) : Ctx :=
  let b := saveBase x
  let acc := loadWords m b 16384
  let held := match x.held with
    | some h => some { h with
        acc := (List.range 16384).foldl (fun t e =>
          let p := outputPos (ctlBit h.tile.fields 69) e
          Sparse.set 0#32 t (128 * p.1 + p.2) (Sparse.get 0#32 acc e)) [],
        p := loadWords m (b + 0x18000) 128, q := loadWords m (b + 0x18200) 128 }
    | none => none
  { x with
    held := held, vregs := loadWords m (b + 0x10000) 8192, pc := leVal (memRead m (b + 0x18400) 8),
    sregs := (List.range 31).foldl (fun t i =>
      Sparse.set 0#64 t (i + 1) (BitVec.ofNat 64 (leVal (memRead m (b + 0x18408 + 8 * i) 8)))) [],
    lcs := loadWords m (b + 0x18500) 4, nonfinite := leVal (memRead m (b + 0x18B08) 4) == 1,
    satCount := leVal (memRead m (b + 0x18B0C) 4) }
/-- R115: the incoming save image is read, and the context resumes from it; what R114 does not lay out comes from the state
that the context kept (log entry 23). An uncorrectable word in it is cove-fatal (R118). -/
def switchIn (s : State) (core k : Nat) : State :=
  let x := ctxAt s core k
  if x.mode = .empty ∨ 4 ≤ k then s
  else
    let r := readStorage s core 0 4 (saveBase x / 8) ((saveBase x + 101376) / 8)
    if r.1 then updCtx r.2 core k fun x => loadImage x (coreAt r.2 core).scratch else r.2
/-- A context on a core is switched out: the streaming tile's active buffer is discarded, its save image is written, and a
wait goes on in its absence (R116, R158). -/
def switchOut (s : State) (core k : Nat) : State :=
  let s := writeSave (discardStream s core k) core k
  let s := updCtx s core k fun x => { x with waitSwitched := x.waitSwitched || x.wait.isSome }
  bumpCore s core 15 436

/-! ### Owners and switches (R110, R115, R300) -/

/-- A cluster in an engine reset is switched out, or belongs to the suspect under test (R499, R505). -/
def recoveryOwner (s : State) (cl : Nat) : Option (Option Nat) :=
  match s.recov.current with
  | some r =>
    if r.rung = 2 ∧ clusterOf r.core = cl then some (if s.tide.now < r.testFrom then none else r.testing)
    else if s.recov.queue.any fun q => q.rung == 2 && clusterOf q.core == cl then some none
    else none
  | none => if s.recov.queue.any fun q => q.rung == 2 && clusterOf q.core == cl then some none else none
/-- The owner that a cluster's table names now: none for an idle span, a span of a context that holds
no job, a frozen cove or a fenced cluster. A free die's clusters run maintenance only. -/
def ownerNow (s : State) (cl : Nat) : Option Nat :=
  match coveOfDie s (cl / 4), recoveryOwner s cl with
  | none, _ => none
  | some _, some o => o
  | some c, none =>
    let v := coveAt s c
    let o := effectiveOwner s c (cl / 4)
    let frozen := v.ckpt.phase == .freezing || v.ckpt.phase == .frozen
    if frozen || !clusterUsable s cl || !(clustersOf v).contains cl || 5 ≤ o then none
    else if o = 4 then some 4
    else if (ctxAt s (4 * cl) o).mode = .empty then none
    else some o
/-- The chaff round of a tick (R473). -/
def chaffRound (t : Tick) : Nat := t / 50000000
/-- The partner of a core in a round (R473). -/
def chaffPartner (round core : Nat) : Nat :=
  16 * ((core / 16) ^^^ (1 + round % 63)) + core % 16

/-- Scratchpad address of the maintenance granule (R92). -/
def maintBase : Nat := 31 * 262144
/-- An operand of a chaff run: 64 KiB of draws of stream 0x5 as 32-bit values, with the chaff key, ID 0 for A and 1 for B
and the start tick of the chaff slot as the step (R82, R126, R474; the order of the draws is a DESIGN CHOICE, log entry
82). -/
def chaffOperand (s : State) (operand slot : Nat) : List Byte :=
  (List.range 16384).flatMap fun i => leOut 4 (draw s.health.chaffKey.toNat (streamId 5 operand) slot i)
/-- R126: the operands of a run are formed in the maintenance granule: A at its start, B at 64 KiB (log entry 82). -/
def formOperands (s : State) (core slot : Nat) : State :=
  scratchWrite (scratchWrite s core maintBase (chaffOperand s 0 slot)) core (maintBase + 65536) (chaffOperand s 1 slot)
/-- The fields of a chaff tile: two operands of format code `f` and depth 32 × `groups`, drained as FP32. -/
def chaffFields (f groups : Nat) : Fields :=
  { f1 := 0#5, f2 := 0#5, f3 := 0#5, f4 := 0#5, imm := 0#32, commune := 0#16, tail := 0#16,
    control := BitVec.ofNat 32 (groups * 2 ^ 24 + f * 2 ^ 20 + f * 2 ^ 16 + 2 ^ 6) }
/-- A chaff tile: A at the start of the maintenance granule, B at 64 KiB. -/
def chaffTile (f groups : Nat) : Issued :=
  { op := 0x100, addr := 0, inRoutine := false, fields := chaffFields f groups, r1 := 0#64, r2 := 65536#64, r3 := 0#64, r4 := 0#64, pair := 0#64, tick := 0, reruns := 0, ready := true, call := 0 }
/-- The FP32 output block of a chaff tile over the operands that the granule holds. -/
def chaffOutput (m : Memory) (t : Issued) : List Byte :=
  let st := streamRest m maintBase t [] TileStream.reset
  (List.range 16384).flatMap fun e =>
    let p := outputPos false e
    leOut 4 (Sparse.get 0#32 st.acc (128 * p.1 + p.2)).toNat
/-- Output bytes of the run's tiles in the order FP4, FP8, BF16 (R126, R475); `wrong` names 32-bit results that the core
gets wrong. -/
def chaffOutputs (m : Memory) (wrong : List (Nat × Word)) : List Byte :=
  let out := chaffOutput m (chaffTile 5 32) ++ chaffOutput m (chaffTile 3 16) ++ chaffOutput m (chaffTile 1 8)
  wrong.foldl (fun l p => l.take (4 * p.1) ++ leOut 4 p.2.toNat ++ l.drop (4 * p.1 + 4)) out
/-- The chaff digest: the CRC-64 over the tallies of the 48 blocks (R475). -/
def chaffDigest (out : List Byte) : DWord :=
  BitVec.ofNat 64 (crc64 0 ((List.range 48).flatMap fun b => leBytes 4 (crcOf ((out.drop (4096 * b)).take 4096))))
/-- A chaff run of a core with the operands of a slot: the FP4 and FP8 outputs end at 128 KiB and 192 KiB of the granule,
and the BF16 output over the first (log entry 82). -/
def runChaff (s : State) (core slot : Nat) (wrong : List (Nat × Word)) : State × DWord :=
  let s := formOperands s core slot
  let out := chaffOutputs (coreAt s core).scratch wrong
  let s := scratchWrite s core (maintBase + 131072) (out.take 131072)
  (scratchWrite s core (maintBase + 131072) (out.drop 131072), chaffDigest out)
/-- The chaff slot that a core's run of a round takes: the start of its partner's span when that one has started, which the
headland hands over, else of its own (R474). -/
def chaffSlotOf (s : State) (core round : Nat) : Tick :=
  let y := chaffPartner round core
  if Sparse.get 0 s.health.chaffRan y = round + 1 then Sparse.get 0 s.health.chaffSlot y else s.tide.now
/-- A maintenance span starts a core's chaff run when one is due in this round (R126, R473): its operands are formed. The test
of the maintenance context repeats the run with its original operands (R505). -/
def startChaff (s : State) (core : Nat) : State :=
  let r := chaffRound s.tide.now
  let s := { s with health := { s.health with spanStart := Sparse.set 0 s.health.spanStart core s.tide.now } }
  if (match s.recov.current with
      | some q => q.testing == some 4 && clusterOf q.core == clusterOf core
      | none => false) then
    formOperands s core (Sparse.get 0 s.health.chaffSlot core)
  else if s.health.chaffEn ∧ Sparse.get 0 s.health.chaffRan core ≠ r + 1 then
    let slot := chaffSlotOf s core r
    formOperands { s with health := { s.health with
      chaffRan := Sparse.set 0 s.health.chaffRan core (r + 1),
      chaffSlot := Sparse.set 0 s.health.chaffSlot core slot } } core slot
  else s
/-- The outgoing context of a cluster is saved on its four cores and the thresher, whose bundle is discarded or handed off
(R115, R123). The streaming tile stays at the head of its queue; its discarded cycles have no count here (log entry 13). -/
def leaveCluster (s : State) (cl : Nat) : State :=
  match (clusterAt s cl).owner with
  | some k => forEach (dropBundle s cl k) ((List.range 4).map (4 * cl + ·)) fun s i => switchOut s i k
  | none => s
/-- The incoming context of a cluster runs from its image on the four cores; the maintenance context starts its chaff runs. -/
def enterCluster (s : State) (cl k : Nat) : State :=
  let cores := (List.range 4).map (4 * cl + ·)
  if k = 4 then forEach s cores startChaff
  else forEach s cores fun s i => settleSlots (settleWait (switchIn s i k) i k) i k
/-- A cluster changes its owner. -/
def changeOwner (s : State) (cl : Nat) (next : Option Nat) : State :=
  if (clusterAt s cl).owner = next then s
  else
    let s := updCluster (leaveCluster s cl) cl fun c => { c with owner := next, switchTick := s.tide.now }
    match next with | some k => enterCluster s cl k | none => s
/-- R115, CONTEXT_SWITCH: the cluster's effective owner changed. -/
def execContextSwitch (cl : Nat) (s : State) : Result := .next (changeOwner s cl (ownerNow s cl))

/-! ### The scrub of the core memories (R118, R125) -/

/-- The errors that a scrub of a die finds on a core in the storages that it reads: scratchpad, instruction and routine
memory. -/
def scrubFinds (c : CoreState) : List (Nat × Nat × Bool) := c.upsets.filter fun u => decide (u.1 ≤ 2)
/-- One core's scrub: each corrected word is rewritten and counted; an uncorrectable one has the severity of its storage,
and stays until something writes it. -/
def scrubCore (s : State) (core : Nat) : State :=
  let found := scrubFinds (coreAt s core)
  let s := updCore s core fun c => { c with upsets := c.upsets.filter fun u => u.2.2 || decide (2 < u.1) }
  forEach s found fun s u => if u.2.2 then uncorrectableWord s core u.1 else correctedWord s core
/-- New errors of a core's words: storage, word and whether the error is uncorrectable or comes back. -/
def addUpset (s : State) (die : Nat) (u : Nat × Nat × Nat × Bool) : State :=
  updCore s (16 * die + u.1 % 16) fun c => { c with upsets := c.upsets ++ [u.2] }
/-- R118, SCRATCHPAD_SCRUB: one pass over the scratchpads, instruction memories and routine memories of a die, which meets the
errors that they hold. -/
def execScratchpadScrub (die : Nat) (corrected uncorrectable : List (Nat × Nat × Nat)) (s : State) : Result :=
  .next (if 64 ≤ die then s else
    let errors := (corrected.map fun u => (u.1, u.2.1, u.2.2, false)) ++ uncorrectable.map fun u => (u.1, u.2.1, u.2.2, true)
    let s := forEach s errors fun s u => addUpset s die u
    let s := { s with health := { s.health with dutyDone := Sparse.set 0 s.health.dutyDone (16 * die + 2) s.tide.now } }
    forEach s ((List.range 16).map (16 * die + ·)) scrubCore)

end Sys2Proof.Machine
end

