-- ==== Sys2Proof/Machine/Checkpoint.lean ====
section
/-!
DEFINITION. The checkpoint engine: step checkpoints, whole-device capture, freeze, thaw, restore,
rollback, adoption, stand-in and remap (R425 to R456).
-/
namespace Sys2Proof.Machine

/-! ### Registers (R453, R454) -/

/-- BAR0 offset of a register of cove `c`'s CKPT window. -/
def ckReg (c off : Nat) : Nat := 0x60100 + 0x100 * c + off
/-- A checkpoint register as a number. -/
def ckVal (s : State) (c off : Nat) : Nat := (regAt s (ckReg c off)).toNat
/-- A refused checkpoint write. -/
def ckError (s : State) (c off : Nat) : State := hostError s 0 2 (ckReg c off)
/-- The connection that a target register names is up and serves the cove. -/
def ckConnUp (s : State) (c off : Nat) : Bool :=
  let k := bitsOf (ckVal s c off) 51 48
  decide (Sparse.get .down s.load.conns k = .up) && bitOf (Sparse.get 0 s.load.connCoves k) c
/-- The carries of a core's group entries, as near-memory ranges: from each base to the next base of the
die's entries, or to the floor (log entry 24). -/
def carryRanges (s : State) (core : Nat) : List (Nat × Nat) :=
  let c := coreAt s core
  let areas := ((List.range 64).filter fun g => gValid c g).flatMap fun g =>
    [(gStubble c g), (gGleanArea c g)]
  let bases := (areas.filter fun a => a.2 != 0).map (·.1)
  bases.map fun b =>
    (b, ((bases.filter fun x => decide (b < x)).foldl min 0x30000000) - b)
/-- Zero the carries of every die of a cove, and with them the counts of what they hold (R194, R434, R450). -/
def zeroCarries (s : State) (c : Nat) : State :=
  forEach s (coresOf (coveAt s c)) fun s i =>
    let s := forEach s (carryRanges s i) fun s r => updNear s (dieOf i) fun m => memZero m r.1 r.2
    updCore s i fun x => { x with gleanCounts := [], gleanOpen := none }
/-- The counts of carries that a restore brought are nowhere in its regions: they are free (R194; log entry 80). -/
def openCounts (s : State) (c : Nat) : State :=
  let t := s.free
  freeTick (forEach s (coresOf (coveAt s c)) fun s i =>
    updCore s i fun x => { x with gleanCounts := [], gleanOpen := some t })

/-! ### Regions (R443, R447) -/

/-- The region records in host memory, up to the end record; kinds 3 to 5 are the engine's own. -/
def parseRegions : Nat → List Byte → List Region
  | 0, _ => []
  | n + 1, bs =>
    let f := fun o w => leVal ((bs.drop o).take w)
    if bs.length < 64 ∨ f 0 1 = 0xFF then []
    else ⟨f 0 1, bitsOf (f 1 1) 0 0, f 2 1, f 8 8, f 0x10 8⟩ :: parseRegions n (bs.drop 64)
/-- A record of the list is legal. -/
def regionOk (r : Region) : Bool := decide (r.kind ≤ 2) && r.len % 4096 == 0
/-- The region lies in the cove's units or dies; a barn region is checked by its lender. -/
def regionHeld (s : State) (c : Nat) (r : Region) : Bool :=
  let v := coveAt s c
  match r.kind with
  | 0 => rangeAllowed s c (r.addr, r.len)
  | 1 => addrModule r.addr != s.moduleId || rangeAllowed s c (r.addr, r.len)
  | 2 => decide (r.die < (diesOf v).length) && decide (r.addr + r.len ≤ 2 ^ 30)
  | _ => true
/-- Bytes of a package-space HBM range of a cove: a block captured before its writeback as it was, a
demoted unit's from its lender on this module; bytes that another module holds are free (log entry 25). -/
def captureHbm (s : State) (c a len : Nat) : List Byte :=
  (List.range len).map fun i =>
    let addr := a + i
    let r := barnRedirect s c addr
    let off := r.1 % 2 ^ 44
    let early := Sparse.get [] (coveAt s c).ckpt.early (addr % 2 ^ 44 / 4096)
    if addrModule addr ≠ s.moduleId ∨ addrModule r.1 ≠ s.moduleId then Config.freeByte s.free addr
    else if early = [] then hbmByte s off
    else BitVec.ofNat 8 (early.getD (addr % 4096) 0)
/-- Every interleaved unit that is granted to a cove, in increasing order, demoted ones included (R447). -/
def wholeUnits (s : State) (c : Nat) : List Nat :=
  (List.range 1020).filter fun u => (coveAt s c).unitsI.contains u || (placedUnits s c).contains u
/-- Bytes of a region as the engine reads it. -/
def regionBytes (s : State) (c : Nat) (r : Region) : List Byte :=
  let v := coveAt s c
  match r.kind with
  | 0 => captureHbm s c r.addr r.len
  | 1 => captureHbm s c r.addr r.len
  | 2 => memRead (nearAt s ((diesOf v).getD r.die 0)) r.addr r.len
  | 3 => (diesOf v).flatMap fun d => (List.range 16).flatMap fun i =>
      memRead (coreAt s (16 * d + i)).scratch 0 (31 * 262144)
  | 4 => (diesOf v).flatMap fun d => memRead (nearAt s d) 0 (2 ^ 30)
  | _ =>
    ((wholeUnits s c).flatMap fun u => captureHbm s c (hbmAddr s.moduleId (u * 2 ^ 30)) (2 ^ 30))
      ++ ((List.range 1024).filter (v.unitsS.contains ·)).flatMap fun u =>
        captureHbm s c (hbmAddr s.moduleId (2 ^ 40 + u / 64 * 2 ^ 36 + u % 64 * 2 ^ 30)) (2 ^ 30)
/-- The blocks of a region hold a condemned one (code 0x05). -/
def regionCondemned (s : State) (c : Nat) (r : Region) : Bool :=
  match r.kind with
  | 0 => condemned s (.hbm (r.addr % 2 ^ 44)) r.len
  | 1 => addrModule r.addr == s.moduleId && condemned s (.hbm (r.addr % 2 ^ 44)) r.len
  | 2 => condemned s (.near ((diesOf (coveAt s c)).getD r.die 0) r.addr) r.len
  | 4 => (diesOf (coveAt s c)).any fun d => condemned s (.near d 0) (2 ^ 30)
  | 5 => (wholeUnits s c).any fun u =>
      let r := barnRedirect s c (hbmAddr s.moduleId (u * 2 ^ 30))
      addrModule r.1 == s.moduleId && condemned s (.hbm (r.1 % 2 ^ 44)) (2 ^ 30)
  | _ => false
/-- Bytes cut into 4 KiB blocks; the fuel is their number. -/
def byteBlocks : Nat → List Byte → List (List Byte)
  | 0, _ => []
  | n + 1, bs => if bs = [] then [] else bs.take 4096 :: byteBlocks n (bs.drop 4096)
/-- R443: the region digest over block tallies. -/
def regionDigest (bs : List Byte) : Nat :=
  crc64 0 ((byteBlocks (bs.length / 4096 + 1) bs).flatMap fun b => leBytes 4 (crcOf b))
/-- The regions of a whole-device capture (R447). -/
def wholeRegions (s : State) (c : Nat) : List Region :=
  let v := coveAt s c
  let n := (diesOf v).length
  [⟨3, 0, 0, 0, n * 16 * 31 * 262144⟩, ⟨4, 0, 0, 0, n * 2 ^ 30⟩,
   ⟨5, 0, 0, 0, (grantedUnits v + ((placedUnits s c).filter fun u => !v.unitsI.contains u).length) * 2 ^ 30⟩]
    ++ v.ckpt.wholeList

/-! ### Manifests (R444, R445) -/

/-- The writer writes every region; another module leaves replicated ones out of a step checkpoint. -/
def regionWritten (k : Ckpt) (whole : Bool) (r : Region) : Bool :=
  whole || k.writer || !bitOf r.flags 0
/-- A manifest record with its LBA and digest. -/
def regionRecord (r : Region) (written : Bool) (lba digest : Nat) : List Byte :=
  let b := packFields 0x3C
    ([(0, 1, r.kind), (1, 1, r.flags + 2 * natOf written), (2, 1, r.die), (8, 8, r.addr), (0x10, 8, r.len)]
      ++ if written then [(0x18, 8, lba), (0x20, 8, digest)] else [])
  b ++ leOut 4 (crcOf b)
/-- R445: the manifest of a cove: the header of the capture and the records, padded to 64 KiB. -/
def manifestOf (s : State) (c : Nat) (whole : Bool) (rs : List (Region × Bool × Nat × Nat)) : List Byte :=
  let k := (coveAt s c).ckpt
  let carries := whole || rs.any fun r => r.1.kind == 2 && r.2.1
  let head := (if whole then k.wholeHead else k.stepHead).map fun f =>
    if f.1 = 7 then (7, 1, f.2.2 + 2 * natOf carries) else f
  let h := packFields 0x1FC (head ++ [(0x178, 4, rs.length)])
  let b := h ++ leOut 4 (crcOf h) ++ rs.flatMap fun r => regionRecord r.1 r.2.1 r.2.2.1 r.2.2.2
  b ++ List.replicate (65536 - b.length) 0#8
/-- A storage write put on a connection. -/
def storeAt (s : State) (conn nsid lba : Nat) (bs : List Byte) : State :=
  { s with load := { s.load with stored := (conn, nsid, lba, bs) :: s.load.stored } }
/-- Write one region of a checkpoint: its manifest entry, the bytes so far, and the state. -/
def writeRegion (c lbaSize : Nat) (whole : Bool) (a : (List (Region × Bool × Nat × Nat) × Nat) × State)
    (r : Region) : (List (Region × Bool × Nat × Nat) × Nat) × State :=
  if regionWritten (coveAt a.2 c).ckpt whole r then
    let bs := regionBytes a.2 c r
    let at_ := bitsOf (ckVal a.2 c 0x18) 47 0 + (65536 + a.1.2) / max 1 lbaSize
    ((a.1.1 ++ [(r, true, at_, regionDigest bs)], a.1.2 + roundUp r.len 4096),
      storeAt a.2 (bitsOf (ckVal a.2 c 0x18) 51 48) (ckVal a.2 c 0x20) at_ bs)
  else ((a.1.1 ++ [(r, false, 0, 0)], a.1.2), a.2)
/-- Write a checkpoint to storage: the regions from the target LBA + 64 KiB on, then the manifest; the
state after, the bytes moved and the regions written. -/
def writeCheckpoint (s : State) (c lbaSize : Nat) (whole : Bool) (l : List Region) : State × Nat × Nat :=
  let w := l.foldl (writeRegion c lbaSize whole) (([], 0), s)
  (freeTick (storeAt w.2 (bitsOf (ckVal s c 0x18) 51 48) (ckVal s c 0x20) (bitsOf (ckVal s c 0x18) 47 0)
      (manifestOf s c whole w.1.1)),
    w.1.2 + 65536, (w.1.1.filter fun r => r.2.1).length)

/-! ### Taking a checkpoint (R440 to R442) -/

/-- The phase when no drain, freeze or restore is in progress. -/
def restPhase (k : Ckpt) : CkptPhase := if k.take || k.freeze then .armed else .idle
/-- The outcome of a capture: the storage's code, or the first that the engine finds itself. -/
def captureCode (s : State) (c code : Nat) (whole : Bool) (l : List Region) : Nat :=
  let k := (coveAt s c).ckpt
  let read := l.filter (regionWritten k whole)
  if code ≠ 0 then code
  else if !ckConnUp s c 0x18 then 3
  else if !(if whole then k.wholeList else k.regions).all regionOk then 1
  else if !read.all (regionHeld s c) then 9
  else if read.any (regionCondemned s c) then 5
  else 0
/-- R440, CHECKPOINT_DRAIN_END: `code` is how the storage ended, `lbaSize` the namespace's LBA size. On
success the regions and the manifest are written, CKPT_C_STEP and DONE are set; event 0x8011. A frozen
cove's whole-device capture ends the same way, after a step checkpoint still draining (R446). -/
def execCheckpointDrainEnd (c code lbaSize : Nat) (s : State) : Result :=
  let k := (coveAt s c).ckpt
  let finish := fun (whole : Bool) (action : Nat) (l : List Region) (clear : Ckpt → Ckpt) =>
    let r := captureCode s c code whole l
    if r = 0 then
      let w := writeCheckpoint s c lbaSize whole l
      let s := updCkpt w.1 c fun k => clear { k with step := (coveAt s c).step }
      endCkpt (recordCove s 0x8011 .corrected c [(coveAt s c).step.toNat]) c action 0 w.2.1 w.2.2
    else endCkpt (updCkpt s c clear) c action r 0 0
  .next (if k.holdsCommit then
      finish false 1 k.regions fun k =>
        { k with holdsCommit := false, early := [], phase := if k.phase = .draining then restPhase k else k.phase }
    else if k.whole ∧ k.phase = .frozen then
      finish true 2 (wholeRegions s c) fun k => { k with whole := false }
    else s)
/-- RW bits of CKPT_C_CTRL. -/
def ckptModes (s : State) (c : Nat) (value : Word) : State :=
  updCkpt s c fun k =>
    { k with adoptP := value.getLsbD 6, undoEn := value.getLsbD 7, writer := value.getLsbD 8 }
/-- R452: a capture is armed, or a restore runs. -/
def ckptBusy (k : Ckpt) : Bool := k.take || k.freeze || k.phase == .restoring
/-- R440: TAKE arms a step checkpoint for the next commit; `regions` is the region list in host memory. -/
def takeCkpt (s : State) (c : Nat) (regions : List Byte) : State :=
  if ckptBusy (coveAt s c).ckpt || storeFull s 0 then ckError s c 0
  else updCkpt (reserveLine s 0) c fun k =>
    { k with take := true, nextRegions := parseRegions 64 regions, phase := if k.phase = .idle then .armed else k.phase }
/-- R446: FREEZE is armed for the freeze tick, or refused with code 1 when it lies too close. -/
def freezeCkpt (s : State) (c : Nat) (regions : List Byte) : State :=
  if ckptBusy (coveAt s c).ckpt || storeFull s 0 then ckError s c 0
  else
    let s := reserveLine s 0
    if ckVal s c 0x58 < s.tide.now + 250000 then endCkpt s c 4 1 0 0
    else updCkpt s c fun k =>
      { k with freeze := true, wholeList := parseRegions 64 regions, phase := if k.phase = .idle then .armed else k.phase }

/-! ### Freeze and thaw (R446 to R448) -/

/-- R446, FREEZE_TICK: admission stops and every cluster of the cove switches out. -/
def execFreezeTick (c : Nat) (s : State) : Result :=
  let v := coveAt s c
  let f := ckVal s c 0x58
  if v.ckpt.freeze ∧ f ≤ s.tide.now then
    let s := updCkpt s c fun k =>
      { k with freeze := false, phase := .freezing, frozenAt := f, wholeHead := captureHead s c true f }
    .next (forEach s (clustersOf v) fun s cl =>
      let s := match (clusterAt s cl).owner with
        | some k => forEach s ((List.range 4).map (4 * cl + ·)) fun s i => switchOut s i k
        | none => s
      updCluster s cl fun x => { x with owner := none, switchTick := s.tide.now })
  else .next s
/-- R446, FREEZE_LANDED: the cove is frozen and its whole-device capture starts; events 0x8017 and
0x8010. -/
def execFreezeLanded (c : Nat) (s : State) : Result :=
  let k := (coveAt s c).ckpt
  if k.phase = .freezing ∧ k.frozenAt + s.tide.boundHall ≤ s.tide.now then
    let s := updCkpt s c fun k => { k with phase := .frozen, whole := true }
    let s := recordCove (recordCove s 0x8017 .corrected c []) 0x8010 .corrected c []
    .next (reserveLine (endCkpt s c 4 0 0 0) 0)
  else .next s
/-- R448: THAW is armed for the thaw tick, or refused: code 2 when the cove is not frozen or its capture still runs,
code 1 when the tick breaks the rule. -/
def thawCkpt (s : State) (c : Nat) : State :=
  let k := (coveAt s c).ckpt
  let t := ckVal s c 0x60
  if storeFull s 0 then ckError s c 0
  else
    let s := reserveLine s 0
    if k.phase ≠ .frozen ∨ k.whole then endCkpt s c 5 2 0 0
    else if t ≤ k.frozenAt ∨ (t - k.frozenAt) % 2 ^ 22 ≠ 0 ∨ t < s.tide.now + 250000 then endCkpt s c 5 1 0 0
    else updCkpt s c fun k => { k with thaw := true }
/-- Move a cove's ticks forward by the time it was frozen (R448). -/
def shiftTicks (s : State) (c d : Nat) : State :=
  let up := fun t => if t = 0 then 0 else t + d
  let s := updCove s c fun v =>
    { v with commits := v.commits.map (fun a => { a with tick := a.tick + d }), commitTick := up v.commitTick,
             awaitReplay := v.awaitReplay.map (· + d), dMax := up v.dMax,
             ckpt := { v.ckpt with offset := v.ckpt.offset + d, phase := restPhase v.ckpt, thaw := false } }
  updCoveTide s c fun t =>
    { t with stepStart := t.stepStart + d, slackStart := t.slackStart + d, clockBusy := up t.clockBusy }
/-- R448, THAW_TICK: the clusters switch in and the tide offset grows; event 0x8018. -/
def execThawTick (c : Nat) (s : State) : Result :=
  let k := (coveAt s c).ckpt
  let t := ckVal s c 0x60
  if k.thaw ∧ t ≤ s.tide.now then
    let s := shiftTicks s c (t - k.frozenAt)
    let s := forEach s (clustersOf (coveAt s c)) fun s cl =>
      let o := ownerNow s cl
      let s := match o with
        | some k => forEach s ((List.range 4).map (4 * cl + ·)) fun s i => switchIn s i k
        | none => s
      updCluster s cl fun x => { x with owner := o, switchTick := s.tide.now }
    let s := recordCove s 0x8018 .corrected c [(coveAt s c).ckpt.offset]
    .next (endCkpt s c 5 0 0 0)
  else .next s

/-! ### Restore (R449, R450) -/

/-- A field of a manifest. -/
def manVal (m : List Byte) (off n : Nat) : Nat := leVal ((m.drop off).take n)
/-- Record `i` of a manifest as a region. -/
def manRegion (m : List Byte) (i : Nat) : Region :=
  let o := 0x200 + 64 * i
  ⟨manVal m o 1, manVal m (o + 1) 1, manVal m (o + 2) 1, manVal m (o + 8) 8, manVal m (o + 0x10) 8⟩
/-- Magic, version and the CRCs hold. -/
def manifestSound (m : List Byte) : Bool :=
  manVal m 0 4 == 0x31544B43 && manVal m 4 2 == 1 && manVal m 0x1FC 4 == crcOf (m.take 0x1FC)
    && decide (0x200 + 64 * manVal m 0x178 4 ≤ m.length)
    && (List.range (manVal m 0x178 4)).all fun i =>
      manVal m (0x200 + 64 * i + 0x3C) 4 == crcOf ((m.drop (0x200 + 64 * i)).take 0x3C)
/-- Every record that was not written has its like in the writer manifest. -/
def altMatches (s : State) (c : Nat) (m alt : List Byte) : Bool :=
  let n := manVal m 0x178 4
  let plain := fun a => a % 2 ^ 48
  (List.range n).all fun i =>
    let r := manRegion m i
    bitOf r.flags 1 || (bitOf (ckVal s c 0x28) 63 && manifestSound alt && manVal alt 8 8 == manVal m 8 8
      && bitsOf (manVal alt 0x13 1) 2 0 == bitsOf (manVal m 0x13 1) 2 0 && manVal alt 0x178 4 == n
      && (manRegion alt i).kind == r.kind && plain (manRegion alt i).addr == plain r.addr
      && (manRegion alt i).len == r.len)
/-- Some region is to be read from the writer manifest. -/
def needsAlt (m : List Byte) : Bool := (List.range (manVal m 0x178 4)).any fun i => !bitOf (manRegion m i).flags 1
/-- R449: the code that refuses a restore, 0 for none. -/
def restoreRefusal (s : State) (c : Nat) (m alt : List Byte) : Nat :=
  let v := coveAt s c
  let t := coveTideAt s c
  if !ckConnUp s c 0x18 then 3
  else if !manifestSound m then 6
  else if manVal m 0x14 4 ≠ imageVal v 4 4 ∨ bitsOf (manVal m 0x13 1) 2 0 ≠ v.variant
      ∨ bitsOf (manVal m 0x12 1) 7 4 ≠ t.gen then 6
  else if (bitsSet (manVal m 0x58 8) 64).length ≠ (diesOf v).length
      || !((List.range 32).all fun w => manVal m (0x60 + 8 * w) 8 == (regAt s (cvReg c (0x100 + 8 * w))).toNat)
    then 6
  else if !((List.range 4).all fun j => manVal m (0x20 + 8 * j) 8 == (regAt s (cvReg c (0x60 + 8 * j))).toNat
      && manVal m (0x40 + 4 * j) 4 == (jobTagReg s c j).toNat) then 6
  else if !altMatches s c m alt then 6
  else if (v.mode ≠ .held ∧ v.mode ≠ .stopped) ∨ v.variant = 0 then 2
  else if needsAlt m && !ckConnUp s c 0x28 then 3
  else 0
/-- The manifest that a restore goes by: records of regions that were not written are the writer manifest's. -/
def restoreManifest (m alt : List Byte) : List Byte :=
  m.take 0x200 ++ (List.range (manVal m 0x178 4)).flatMap fun i =>
    ((if bitOf (manRegion m i).flags 1 then m else alt).drop (0x200 + 64 * i)).take 64
/-- R449: RESTORE, with the manifests at CKPT_C_TARGET and CKPT_C_ALTSRC. -/
def restoreCkpt (s : State) (c : Nat) (manifest alt : List Byte) : State :=
  if (coveAt s c).ckpt.phase = .restoring ∨ storeFull s 0 then ckError s c 0
  else
    let s := reserveLine s 0
    let r := restoreRefusal s c manifest alt
    if r ≠ 0 then endCkpt s c 3 r 0 0
    else updCkpt s c fun k => { k with restore := true, phase := .restoring, manifest := restoreManifest manifest alt }
/-- Write bytes at a package-space HBM offset of this module, at the lender where the unit is demoted: on another module by
packets of the storage mover in class 0xE (R222, R450). -/
def restoreHbm (s : State) (c off : Nat) (bs : List Byte) : State :=
  let r := barnRedirect s c (hbmAddr s.moduleId off)
  if addrModule r.1 = s.moduleId then
    clearMark (hbmStore s (r.1 % 2 ^ 44) bs) (.hbm (r.1 % 2 ^ 44)) bs.length
  else forEach s ((byteBlocks (bs.length / 4096 + 1) bs).zipIdx) fun s b =>
    queueOut s ⟨headUnit s, some c, 0xE, none, true, moverPacket s c 0xE 0 1 0 0 (r.1 + 4096 * b.2) b.1⟩
/-- Write bytes to a die's near memory. -/
def restoreNear (s : State) (die off : Nat) (bs : List Byte) : State :=
  clearMark (updNear s die fun m => memWrite m off bs) (.near die off) bs.length
/-- Write a region's bytes at its place, near-memory and scratchpad regions to the cove's dies in rank
order. -/
def restoreRegion (s : State) (c : Nat) (r : Region) (bs : List Byte) : State :=
  let v := coveAt s c
  match r.kind with
  | 2 => restoreNear s ((diesOf v).getD r.die 0) r.addr bs
  | 3 =>
    let cores := (diesOf v).flatMap fun d => (List.range 16).map (16 * d + ·)
    forEach s (cores.zip (List.range cores.length)) fun s p =>
      scratchWrite s p.1 0 ((bs.drop (p.2 * (31 * 262144))).take (31 * 262144))
  | 4 =>
    forEach s ((diesOf v).zip (List.range 64)) fun s p =>
      restoreNear s p.1 0 ((bs.drop (p.2 * 2 ^ 30)).take (2 ^ 30))
  | 5 =>
    let units := (wholeUnits s c).map (· * 2 ^ 30)
      ++ ((List.range 1024).filter (v.unitsS.contains ·)).map fun u =>
        2 ^ 40 + u / 64 * 2 ^ 36 + u % 64 * 2 ^ 30
    forEach s (units.zip (List.range units.length)) fun s p =>
      restoreHbm s c p.1 ((bs.drop (p.2 * 2 ^ 30)).take (2 ^ 30))
  | _ => restoreHbm s c (r.addr % 2 ^ 44) bs
/-- The held accumulator that a save image names: its values are read with the rest of the image. -/
def imageHeld (m : Memory) (b : Nat) : Option Held :=
  if leVal (memRead m (b + 0x18B00) 4) = 0 then none
  else (Config.loadHeld (memRead m (b + 0x18B10) 240)).map fun t =>
    { tile := t, acc := [], int32 := matFmt t.fields 87 == some .int8 && matFmt t.fields 83 == some .int8,
      start := [], p := [], q := [], aMax := 0#32, bMax := 0#32, skip := false,
      drainPending := leVal (memRead m (b + 0x18B04) 4) == 1 }
/-- The queue entries of a save image, each with its progress word. -/
def imageWork (m : Memory) (b : Nat) : List QueuedWork :=
  (List.range 56).filterMap fun i =>
    Config.loadEntry (memRead m (b + 0x18600 + 18 * i) 16) (leVal (memRead m (b + 0x18600 + 18 * i + 16) 2))
/-- R448, R450: a context as its save image holds it. What R114 leaves open is as its reading says (log entry 23). -/
def resumeImage (s : State) (core k : Nat) : State :=
  let b := saveBase (ctxAt s core k)
  let m := (coreAt s core).scratch
  let a := Config.loadArrival (memRead m (b + 0x18510) 240)
  let l := imageWork m b
  let s := updCtx s core k fun x =>
    loadImage { resetContext x with
      held := imageHeld m b,
      matQ := l.filterMap fun e => (match e with | .mat i => some i | _ => none),
      vecQ := l.filterMap fun e => (match e with | .vec v => some v | _ => none),
      thrQ := l.filterMap fun e => (match e with | .thr t => some t | _ => none),
      wainQ := l.filterMap fun e => (match e with | .wain d => some d | _ => none),
      wait := a.wait, waitStart := a.waitStart, mainWait := a.mainWait, routine := a.routine, points := a.points,
      anchor := a.anchor, calls := a.calls, callsDone := a.callsDone, lastKind := a.lastKind, wainSeq := a.wainSeq,
      wainStatus := if a.wainLate then .late else .done, count := a.count } m
  if core % 4 = 0 then updThresh s (clusterOf core) k fun r =>
    { r with sumsq := BitVec.ofNat 32 (leVal (memRead m (b + 0x18A00) 4)),
             scale := BitVec.ofNat 32 (leVal (memRead m (b + 0x18A04) 4)),
             nonfinite := leVal (memRead m (b + 0x18A08) 4) == 1 }
  else s
/-- R450, RESTORE_END: `code` is how the storage ended, `data` the bytes of each region. A digest mismatch
leaves the memory undefined: the regions hold free bytes. -/
def execRestoreEnd (c code : Nat) (data : List (List Byte)) (s : State) : Result :=
  let k := (coveAt s c).ckpt
  let m := k.manifest
  let n := manVal m 0x178 4
  let idle := fun (s : State) => updCkpt s c fun k => { k with restore := false, phase := restPhase k, manifest := [] }
  if k.phase ≠ .restoring then .next s
  else if code ≠ 0 then .next (endCkpt (idle s) c 3 code 0 0)
  else
    let rs := (List.range n).map fun i => (manRegion m i, data.getD i [], manVal m (0x200 + 64 * i + 0x20) 8)
    let bytes := (rs.map fun r => r.2.1.length).foldl (· + ·) 0
    if rs.any fun r => bitOf r.1.flags 1 && regionDigest r.2.1 != r.2.2 then
      let s := rs.foldl (fun s r => freeTick (restoreRegion s c r.1
        ((List.range r.1.len).map (Config.freeByte s.free)))) s
      .next (endCkpt (idle s) c 3 7 bytes 0)
    else
      let s := rs.foldl (fun s r => restoreRegion s c r.1 r.2.1) s
      let carries := bitOf (manVal m 7 1) 1
      let s := updCove s c fun v =>
        { v with step := BitVec.ofNat 64 (manVal m 8 8), parity := carries && bitOf (manVal m 0x13 1) 5 }
      let s := if carries then openCounts s c else zeroCarries s c
      let s := idle s
      let s := if manVal m 6 1 = 2 then
          let s := updCoveTide s c fun t =>
            { t with bank := bitOf (manVal m 0x13 1) 6, stepStart := manVal m 0x168 8 + manVal m 0x160 8 }
          let s := updCkpt s c fun k =>
            { k with offset := manVal m 0x160 8, phase := .frozen, frozenAt := manVal m 0x18 8 }
          let s := updCove s c fun v => { v with mode := .running, changed := s.tide.now }
          let s := updCoveTide s c fun t => { t with slack := false, held := false }
          forEach s (ctxsOf (coveAt s c)) fun s p => resumeImage s p.1 p.2
        else if (coveAt s c).mode = .held then s else holdCove s c 1 0
      .next (endCkpt (recordCove s 0x8019 .corrected c []) c 3 0 bytes n)

/-! ### Losing a module (R433 to R439) -/

/-- R433: ROLLBACK discards a step with cause 9 and holds the cove with hold cause 2. Event 0x8014 of a discard before
the return point, where nothing is undone. -/
def rollbackCkpt (s : State) (c : Nat) : State :=
  if (coveAt s c).mode ≠ .running then s
  else
    let s' := if (coveTideAt s c).slack then s
      else
        let t := discardAnyway s c 9 none
        if (coveAt s c).ckpt.returnTick = 0 then recordCove t 0x8014 .corrected c [0] else t
    if (coveAt s' c).mode = .running then holdCove s' c 2 0 else s'
/-- R434: ADOPT, while held or stopped: the step counter and the parity are set and the carries zeroed; event
0x801A. -/
def adoptCkpt (s : State) (c : Nat) : State :=
  if (coveAt s c).mode ≠ .held ∧ (coveAt s c).mode ≠ .stopped then ckError s c 0
  else
    let s := updCove s c fun v => { v with step := regAt s (ckReg c 0x70), parity := v.ckpt.adoptP }
    recordCove (zeroCarries s c) 0x801A .corrected c []

/-! ### CKPT_C_CTRL (R19, R454) -/

/-- Bytes of host memory or of storage that the command does not bring: free ones (log entry 3). -/
def unseen (s : State) (n : Nat) : List Byte := (List.range n).map (Config.freeByte s.free)
/-- A write of CKPT_C_CTRL: the modes are stored, then each of the bits 0 to 5 that is 1 acts, in increasing order.
`regions` is the region list, `manifest` and `alt` are the manifests that the engine reads. -/
def writeCkpt (s : State) (c : Nat) (value : Word) (regions manifest alt : List Byte) : State :=
  let s := ckptModes s c value
  let s := if value.getLsbD 0 then takeCkpt s c regions else s
  let s := if value.getLsbD 1 then freezeCkpt s c regions else s
  let s := if value.getLsbD 2 then thawCkpt s c else s
  let s := if value.getLsbD 3 then rollbackCkpt s c else s
  let s := if value.getLsbD 4 then restoreCkpt s c manifest alt else s
  if value.getLsbD 5 then adoptCkpt s c else s
/-- A write whose command brings no host or storage bytes. -/
def writeCkptPlain (s : State) (c : Nat) (value : Word) : State :=
  freeTick (writeCkpt s c value (unseen s 4096) (unseen s 65536) (unseen (freeTick s) 65536))
/-- R440, CKPT_TAKE. -/
def effectCkptTake (c : Nat) (value : Word) (regions : List Byte) (s : State) : Result :=
  .next (freeTick (writeCkpt s c value regions (unseen s 65536) (unseen (freeTick s) 65536)))
/-- R446, CKPT_FREEZE. -/
def effectCkptFreeze (c : Nat) (value : Word) (regions : List Byte) (s : State) : Result :=
  .next (freeTick (writeCkpt s c value regions (unseen s 65536) (unseen (freeTick s) 65536)))
/-- R448, CKPT_THAW. -/
def effectCkptThaw (c : Nat) (value : Word) (s : State) : Result := .next (writeCkptPlain s c value)
/-- R433, CKPT_ROLLBACK. -/
def effectCkptRollback (c : Nat) (value : Word) (s : State) : Result := .next (writeCkptPlain s c value)
/-- R449, CKPT_RESTORE: the manifests come with the command. -/
def effectCkptRestore (c : Nat) (value : Word) (manifest alt : List Byte) (s : State) : Result :=
  .next (freeTick (writeCkpt s c value (unseen s 4096) manifest alt))
/-- R434, CKPT_ADOPT. -/
def effectCkptAdopt (c : Nat) (value : Word) (s : State) : Result := .next (writeCkptPlain s c value)

/-! ### Other identities (R435, R436) -/

/-- R435, CKPT_STANDIN_WRITE: while free, held or stopped; loaded group entries are checked against the
new identity. Event 0x801B. -/
def effectCkptStandinWrite (c : Nat) (value : Word) (s : State) : Result :=
  let v := coveAt s c
  let n := if value.getLsbD 16 then bitsOf value.toNat 15 0 + 1 else 0
  let s' := { setReg s (ckReg c 0xC0) (BitVec.ofNat 64 (bitsOf value.toNat 16 0)) with
    standin := Sparse.set 0 s.standin c n }
  let ok := v.mode = .free ∨ (coresOf v).all fun i => (List.range 64).all fun g => groupOk s' i g
  .next (if (v.mode ≠ .free ∧ v.mode ≠ .held ∧ v.mode ≠ .stopped) ∨ ¬ ok then ckError s c 0xC0
    else recordCove s' 0x801B .corrected c [bitsOf value.toNat 15 0])
/-- R436, CKPT_REMAP_WRITE: entry `index` = 8 × cove + k; a second valid entry with the same FROM fails. -/
def effectCkptRemapWrite (index : Nat) (value : DWord) (s : State) : Result :=
  let c := index / 8
  let n := value.toNat
  let other := (List.range 8).any fun k => 8 * c + k != index &&
    match Sparse.get none s.remap (8 * c + k) with
    | some r => r.1 == bitsOf n 15 0
    | none => false
  .next (if 128 ≤ index then s
    else if bitOf n 32 && other then ckError s c (0x80 + 8 * (index % 8))
    else
      let e := if bitOf n 32 then
          some (bitsOf n 15 0, if bitOf n 33 then 65536 else bitsOf n 31 16) else none
      let s := { setReg s (ckReg c (0x80 + 8 * (index % 8))) (BitVec.ofNat 64 (n % 2 ^ 34)) with
        remap := Sparse.set none s.remap index e }
      recordCove s 0x801B .corrected c [])

end Sys2Proof.Machine
end

