-- ==== Sys2Proof/Machine/Health.lean ====
section
/-!
DEFINITION. Scrubs of HBM and near memory, leases, chaff runs, wear scores, operator fences and the life
ledger (R215, R216, R226 to R228, R472 to R490).
-/
namespace Sys2Proof.Machine

/-! ### Scrubs (R216, R463, R465) -/

/-- One block of a scrub of a stack or of near memory that held an uncorrectable word: event 0x3030, the
mark and event 0x3031, and its counts. -/
def scrubBad (s : State) (unit : Nat) (p : Place) : State :=
  let s := record s 0x3030 .corrected (coveNum (placeCove s p)) (placeReporter p) []
  let s := record (condemnPlace s p) 0x3031 .corrected (coveNum (placeCove s p)) (placeReporter p) []
  updLedger s unit fun r => { r with uncorrectable := r.uncorrectable + 1 }
/-- The blocks of a memory of `n` blocks that hold an uncorrectable word which no access has met (R216), and those a pass
finds: each once. -/
def scrubList (latent bad : List Nat) (unit n : Nat) : List Nat :=
  (((latent.filter fun k => k / n == unit).map (· % n)) ++ bad.filter (· < n)).eraseDups
/-- R216, HBM_SCRUB: one pass over a stack, with the blocks found uncorrectable and one entry per block
with a corrected symbol. -/
def execHbmScrub (stack : Nat) (bad corrected : List Nat) (s : State) : Result :=
  .next (if 16 ≤ stack then s else
    let s := bump s 4 stack 7 (2 ^ 24)
    let s := forEach s (corrected.filter (· < 2 ^ 24)) fun s _ =>
      updLedger (bump (wearAdd s 3 stack 0 1) 4 stack 5 1) (64 + stack) fun r => { r with reruns := r.reruns + 1 }
    let found := scrubList s.mem.hbmLatent bad stack (2 ^ 24)
    let s := { s with mem := { s.mem with hbmLatent := s.mem.hbmLatent.filter fun k => k / 2 ^ 24 != stack } }
    forEach s found fun s b =>
      scrubBad (wearAdd s 3 stack 1 1) (64 + stack) (.hbm (2 ^ 40 + stack * 2 ^ 36 + 4096 * b)))
/-- R216, NEAR_MEMORY_SCRUB: one pass over a compute die's near memory. -/
def execNearMemoryScrub (die : Nat) (bad corrected : List Nat) (s : State) : Result :=
  .next (if 64 ≤ die then s else
    let s := forEach s (corrected.filter (· < 2 ^ 18)) fun s _ =>
      updLedger (wearAdd s 0 die 0 1) die fun r => { r with corrected := r.corrected + 1 }
    let found := scrubList s.mem.nearLatent bad die (2 ^ 18)
    let s := { s with mem := { s.mem with nearLatent := s.mem.nearLatent.filter fun k => k / 2 ^ 18 != die } }
    forEach s found fun s b => scrubBad s die (.near die (4096 * b)))

/-! ### Leases (R226, R227, R230) -/

/-- The entry that four 8-byte words spell; reserved fields are ignored (R24). -/
def leaseOf (words : List DWord) : Lease :=
  let w := fun i => (words.getD i 0#64).toNat
  { valid := bitOf (w 0) 48, withdraw := bitOf (w 0) 49, borrower := bitsOf (w 0) 15 0,
    first := bitsOf (w 0) 25 16, count := bitsOf (w 0) 42 32,
    tags := [bitsOf (w 1) 31 0, bitsOf (w 1) 63 32, bitsOf (w 2) 31 0, bitsOf (w 2) 63 32].map
      (BitVec.ofNat 32) }
/-- The units of a lease. -/
def leaseUnits (l : Lease) : List Nat := (List.range l.count).map (l.first + ·)
/-- Some cove holds the stack-local unit that contains a frame of interleaved unit `u`. -/
def stackLocalHolds (s : State) (u : Nat) : Bool :=
  (List.range 16).any fun c => (coveAt s c).unitsS.any fun k => k % 64 == u / 16
/-- R227: what the headland refuses: module frames, an overlap with another lease or a stack-local unit, a
lease without a job tag, a unit count outside its range. -/
def leaseAccepted (s : State) (index : Nat) (l : Lease) : Bool :=
  decide (1 ≤ l.count) && decide (l.first + l.count ≤ 1020) && l.tags.any (· != 0#32)
    && !(leaseUnits l).any (stackLocalHolds s)
    && (List.range 64).all fun n =>
      let o := Sparse.get Lease.reset s.mem.leases n
      n == index || !o.valid || !(overlaps l.first l.count o.first o.count)
/-- Store a lease entry. -/
def setLease (s : State) (index : Nat) (l : Lease) : State :=
  { s with mem := { s.mem with leases := Sparse.set Lease.reset s.mem.leases index l } }
/-- The units of a lease that ends are zeroed and go back to the cove that they were lent out of, or to the
free pool (R215, R226). -/
def endLease (s : State) (l : Lease) : State :=
  forEach s (leaseUnits l) fun s u =>
    let owner := match (List.range 16).find? fun c => (coveAt s c).unitsI.contains u with
      | some c => FrameOwner.cove c
      | none => .free
    passFrames s (framesOfI u) owner
/-- A new lease begins: units that no cove owns are zeroed for it, the headland's own work; those of a cove are zeroed in the
cove's slack water, at once while it is in one (R215, R226, R227). -/
def beginLease (s : State) (index : Nat) (l : Lease) : State :=
  let owned := fun (u : Nat) => (framesOfI u).any fun f =>
    match frameOwner s f.1 f.2 with | .cove _ => true | .free => false | .module => false | .lease _ => false
  let s := passFrames s (((leaseUnits l).filter fun u => !owned u).flatMap framesOfI) (.lease index)
  forEach s ((List.range 16).filter fun c => (coveTideAt s c).slack || (coveAt s c).mode == .stopped) leaseZeroing
/-- R227, LEASE_TABLE_WRITE: an entry is checked; a newly valid lease's units are zeroed, a refused entry
reads back with valid clear (event 0x3020). A write that replaces or refuses a valid entry ends the old lease (DESIGN CHOICE,
log entry 81). -/
def effectLeaseTableWrite (index : Nat) (words : List DWord) (s : State) : Result :=
  .next (if 64 ≤ index then s else
    let old := Sparse.get Lease.reset s.mem.leases index
    let l := leaseOf words
    let same := old.valid && l.valid && old.first == l.first && old.count == l.count
    if l.valid && !leaseAccepted s index l then
      let s := if old.valid then endLease s old else s
      recordHead (setLease s index { l with valid := false }) 0x3020 .corrected []
    else
      let s := if old.valid && !same then endLease s old else s
      let s := setLease s index l
      if l.valid && !same then beginLease s index l else s)

/-! ### Chaff runs (R472 to R477) -/

/-- A core that R480 fences, by itself, its cluster or its die. -/
def coreFenced (s : State) (core : Nat) : Bool :=
  Sparse.get 0 s.health.coreFence core != 0 || Sparse.get 0 s.health.clusterFence (core / 4) != 0
    || dieFenced s (dieOf core)
/-- The core of the same index on the lowest-numbered die that holds no core of the list, unfenced
(R476). -/
def nextArbiter (s : State) (core : Nat) (used : List Nat) : Option Nat :=
  ((List.range 64).map fun d => 16 * d + core % 16).find? fun a =>
    !coreFenced s a && !(used.any fun u => dieOf u == dieOf a)
/-- The digests of an arbitration that are in. -/
def arbDigest (a : Arbitration) (core : Nat) : Option DWord :=
  (a.digests.find? fun d => d.1 == core).map (·.2)
/-- Its cores, members first. -/
def arbCores (a : Arbitration) : List Nat := a.members ++ a.arbiters
/-- The digest that two of the runs hold. -/
def heldTwice (a : Arbitration) : Option DWord :=
  (a.digests.map (·.2)).find? fun d => decide (2 ≤ (a.digests.filter fun e => e.2 == d).length)
/-- A core that lost an arbitration: fenced with cause 1, with the partner, the arbiter and the round in
its log entry; chaff wear (R476, R478, R488). -/
def chaffLoser (a : Arbitration) (s : State) (core : Nat) : State :=
  let partner := (a.members.find? (· ≠ core)).getD core
  let arbiter := (a.arbiters.find? (· ≠ core)).getD 0
  let s := wearAdd s 0 (dieOf core) 4 1
  let s := updLedger s (dieOf core) fun r => { r with chaffLost := r.chaffLost + 1 }
  fenceCoreWith s core 1 (partner % 65536 + arbiter % 65536 * 65536 + a.round % 2 ^ 32 * 2 ^ 32)
/-- No digest is held twice: chaff wear for each core that ran; event 0x9022. -/
def undecided (s : State) (a : Arbitration) : State :=
  recordHead (forEach s (a.digests.map (·.1)) fun s i => wearAdd s 0 (dieOf i) 4 1) 0x9022 .corrected []
/-- Keep an arbitration open. -/
def openArb (s : State) (a : Arbitration) : State :=
  { s with health := { s.health with arbs := s.health.arbs ++ [a] } }
/-- R476: decide an arbitration once every digest is in, or name the next arbiter. A pair that has no
arbiter yet is compared first; with none left it ends undecided. -/
def judge (s : State) (a : Arbitration) : State :=
  if (arbCores a).any fun i => (arbDigest a i).isNone then openArb s a
  else
    let more := fun (s : State) =>
      match nextArbiter s (a.members.headD 0) (arbCores a) with
      | some x => openArb s { a with arbiters := a.arbiters ++ [x] }
      | none => undecided s a
    match heldTwice a with
    | some d =>
      let losers := (a.digests.filter fun e => e.2 != d).map (·.1)
      if losers.isEmpty then s
      else recordHead (forEach s losers (chaffLoser a)) 0x9021 .corrected []
    | none =>
      if a.arbiters.isEmpty then
        let s := { s with health := { s.health with mismatch := satTo 16 (s.health.mismatch + 1) } }
        let x := nextArbiter s (a.members.headD 0) a.members
        more (recordHead s 0x9020 .corrected (a.members ++ [x.getD 65535]))
      else if a.arbiters.length < (if a.directed then 3 else 2) then more s
      else undecided s a
/-- Count a pair whose digests are compared, and judge it. -/
def comparePair (s : State) (a : Arbitration) : State :=
  let full := (arbCores a).all fun i => (arbDigest a i).isSome
  let s := if full && a.arbiters.isEmpty then
      { s with health := { s.health with compared := satTo 32 (s.health.compared + 1) } } else s
  judge s a
/-- The round of a core's own run that has not been posted. -/
def ownRun (s : State) (core : Nat) : Option Nat :=
  match Sparse.get 0 s.health.chaffRan core with
  | 0 => none
  | r + 1 => if s.health.posts.any fun p => p.round == r && p.core == core then none else some r
/-- The own run of the round: post its digest; compare it with the partner's, or with an arbiter's when the
partner is fenced (R475, R477). -/
def postOwn (s : State) (core r : Nat) (digest : DWord) : State :=
  let slot := Sparse.get 0 s.health.chaffSlot core
  let s := { s with health := { s.health with posts := s.health.posts ++ [⟨r, core, digest⟩] } }
  let y := chaffPartner r core
  if coreFenced s y then
    match nextArbiter s core [core] with
    | some x => comparePair s ⟨r, slot, [core, x], false, [], [(core, digest)]⟩
    | none => s
  else match s.health.posts.find? fun p => p.round == r && p.core == y with
    | some p => comparePair s ⟨r, slot, [y, core], false, [], [(y, p.digest), (core, digest)]⟩
    | none => s
/-- The directed check of a suspect core: two arbiters run its operands, which its own span's start tick keys (R472). -/
def postDirected (s : State) (core : Nat) (digest : DWord) : State :=
  let slot := Sparse.get 0 s.health.spanStart core
  let s := { s with health := { s.health with directed := s.health.directed.filter (· ≠ core) } }
  match nextArbiter s core [core] with
  | some x =>
    (match nextArbiter s core [core, x] with
     | some y => openArb s ⟨chaffRound s.tide.now, slot, [core, x], true, [y], [(core, digest)]⟩
     | none => openArb s ⟨chaffRound s.tide.now, slot, [core, x], true, [], [(core, digest)]⟩)
  | none => s
/-- An arbitration that awaits a core's digest. -/
def awaits (core : Nat) (a : Arbitration) : Bool :=
  (arbCores a).contains core && (arbDigest a core).isNone
/-- R475, CHAFF_RUN_END: a run of a core ends and its die controller posts its digest: the core's own run of the round, then a
directed check that it owes, then the oldest arbitration that it serves. `wrong` names results that the core gets wrong. -/
def execChaffRunEnd (core : Nat) (wrong : List (Nat × Word)) (s : State) : Result :=
  .next (if 1024 ≤ core || coreFenced s core || !s.health.chaffEn then s
    else match ownRun s core with
      | some r =>
        let p := runChaff s core (Sparse.get 0 s.health.chaffSlot core) wrong
        postOwn p.1 core r p.2
      | none =>
        if s.health.directed.contains core then
          let p := runChaff s core (Sparse.get 0 s.health.spanStart core) wrong
          postDirected p.1 core p.2
        else match s.health.arbs.find? (awaits core) with
          | some a =>
            let p := runChaff s core a.slot wrong
            let s := { p.1 with health := { p.1.health with arbs := p.1.health.arbs.erase a } }
            comparePair s { a with digests := a.digests ++ [(core, p.2)] }
          | none => s)
/-- A core did not run in a round (R477). -/
def missedRun (s : State) (r core : Nat) : Bool :=
  !coreFenced s core && Sparse.get 0 s.health.chaffRan core != r + 1
/-- A pair of a finished round of which a member missed it: event 0x9023 for each member. -/
def missPair (r : Nat) (s : State) (core : Nat) : State :=
  let y := chaffPartner r core
  let s := if missedRun s r core then
      { s with health := { s.health with missed := satTo 16 (s.health.missed + 1) } } else s
  if !coreFenced s core && (missedRun s r core || missedRun s r y) then
    record s 0x9023 .corrected (coveNum (coveOfCore s core)) core []
  else s
/-- R473, CHAFF_ROUND: at the tick of a new round, the runs that the last round missed are counted,
arbitrations that found no span within 2 rounds end undecided, and the dies of the free pool start their
own spans. -/
def execChaffRound (s : State) : Result :=
  .next (if s.tide.now = 0 || s.tide.now % 50000000 != 0 || !s.health.chaffEn then s
    else
      let n := chaffRound s.tide.now
      let s := forEach s (List.range 1024) (missPair (n - 1))
      let late := s.health.arbs.filter fun a => decide (a.round + 2 < n)
      let s := { s with health := { s.health with
        arbs := s.health.arbs.filter fun a => decide (n ≤ a.round + 2),
        posts := s.health.posts.filter fun p => decide (n ≤ p.round + 1) } }
      let s := forEach s late undecided
      forEach s ((List.range 64).filter fun d => (coveOfDie s d).isNone) fun s d =>
        forEach s ((List.range 16).map (16 * d + ·)) fun s i => if coreFenced s i then s else startChaff s i)

/-! ### Wear scores (R478, R479) -/

/-- Weights of a kind's inputs, in 1/65,536. -/
def wearWeights : Nat → List Nat
  | 0 => [65536, 4 * 65536, 8 * 65536, 16 * 65536, 64 * 65536]
  | 1 => [16 * 65536]
  | 2 => [1, 65536, 16 * 65536, 32 * 65536]
  | 3 => [4096, 32 * 65536, 128 * 65536]
  | 4 => [8 * 65536, 16 * 65536]
  | _ => []
/-- Units of a kind. -/
def wearUnits : Nat → Nat
  | 0 => 64 | 1 => 16 | 2 => 128 | 3 => 16 | 4 => 16 | _ => 0
/-- The weighted sum over the 24 buckets, floored. -/
def wearTotal (s : State) (kind unit : Nat) : Nat :=
  ((List.range 8).foldl (fun a i =>
    a + (wearWeights kind).getD i 0
      * (List.range 24).foldl (fun b h => b + Sparse.get 0 s.health.wearIn (wearKey kind unit i h)) 0) 0) / 65536
/-- Recompute one score; events 0x9040 and 0x9041 when it reaches 512 and 896. -/
def wearScore (kind : Nat) (s : State) (unit : Nat) : State :=
  let key := kind * 128 + unit
  let old := Sparse.get 0 s.health.wear key
  let sum := satTo 32 (wearTotal s kind unit)
  let new := min 1023 sum
  let s := { s with health := { s.health with
    wear := Sparse.set 0 s.health.wear key new, wearSum := Sparse.set 0 s.health.wearSum key sum } }
  let s := if kind = 2 then updPort s unit fun p => { p with wear := new } else s
  let s := if kind < 2 then
      updLedger s (64 * kind + unit) fun r => { r with wear := new, peakWear := max r.peakWear new } else s
  let by_ := unitReporter ([2, 3, 6, 7, 5].getD kind 7) unit
  let by_ := if kind = 3 then 1536 + unit else by_
  let s := if old < 512 ∧ 512 ≤ new then record s 0x9040 .corrected 16 by_ [] else s
  if old < 896 ∧ 896 ≤ new then record s 0x9041 .corrected 16 by_ [] else s
/-- R478, WEAR_SCORE_UPDATE: every minute each score is recomputed. -/
def execWearScoreUpdate (s : State) : Result :=
  .next (forEach (wearRoll s) (List.range 5) fun s kind =>
    forEach s (List.range (wearUnits kind)) (wearScore kind))

/-! ### The life ledger (R485 to R488) -/

/-- Temperature bin of R487. -/
def tempBin (t : Int) : Nat :=
  if t < 40 then 0 else if t < 55 then 1 else if t < 70 then 2 else if t < 80 then 3
  else if t < 85 then 4 else if t < 95 then 5 else if t ≤ 105 then 6 else 7
/-- Units fenced now, as byte 0x82 of the record shows them. -/
def fencedNow (s : State) (u : Nat) : Nat :=
  if u < 64 then
    maskOf ((List.range 4).filter fun k => Sparse.get 0 s.health.clusterFence (4 * u + k) != 0)
      + 16 * natOf (dieFenced s u)
  else
    natOf (Sparse.get 0 s.health.shoreFence (u - 64) != 0)
      + 2 * natOf (s.health.stackFailed.contains (u - 64))
      + 4 * natOf (Sparse.get 0 s.health.opticFence (u - 64) != 0)
/-- The worse of a kept eye margin, 0 when none is kept, and a port's margins while it is active. -/
def worseEye (s : State) (old port : Nat) : Nat :=
  let p := portAt s port
  if p.mode ≠ .active then old
  else if old = 0 then min p.eye0 p.eye1
  else min old (min p.eye0 p.eye1)
/-- The eye margins of a shore die's record: ports 4n to 4n + 3, then 64 + 4n to 64 + 4n + 3. -/
def shoreEyes (s : State) (n : Nat) (old : List Nat) : List Nat :=
  (List.range 8).map fun i => worseEye s (old.getD i 0) (64 * (i / 4) + 4 * n + i % 4)
/-- The eye margins of a compute die's record, its north, east, south and west links: the worse of a kept margin, 0 when none
is kept, and the hour's. -/
def worseEyes (old new : List Nat) : List Nat :=
  (List.range 8).map fun i => match new[i]? with
    | some v => if v = 0 then old.getD i 0 else if old.getD i 0 = 0 then v else min (old.getD i 0) v
    | none => old.getD i 0
/-- The figures of an hour for one unit. -/
def ledgerHour (s : State) (u : Nat) : State :=
  let bin := tempBin (Sparse.get 0 s.pwr.temps u)
  let m := Sparse.get none s.health.margin u
  let e := Sparse.get [] s.health.torusEyes u
  updLedger s u fun r =>
    let worst := match m with
      | some v => if (r.worstMargin = 0 ∧ r.marginHour = 0) ∨ v < r.worstMargin then some v else none
      | none => none
    { r with hours := satTo 32 (r.hours + 1),
             binHours := r.binHours.set bin (satTo 32 (r.binHours.getD bin 0 + 1)),
             worstMargin := worst.getD r.worstMargin,
             marginHour := if worst.isSome then s.health.poweredHours else r.marginHour,
             eyes := if u < 64 then worseEyes r.eyes e else shoreEyes s (u - 64) r.eyes }
/-- The working copy as it is written. -/
def ledgerCopy (s : State) : LedgerCopy :=
  { seq := s.health.ledgerSeq, hours := s.health.poweredHours, ledger := s.health.ledger,
    fenced := (List.range 80).foldl (fun m u => Sparse.set 0 m u (fencedNow s u)) [],
    log := s.health.fenceLog, total := s.health.fenceTotal, sticky := s.health.sticky }
/-- The slot of the last copy written. -/
def lastLedgerSlot (s : State) : Nat :=
  if (Sparse.get LedgerCopy.reset s.health.nvm 0).seq < (Sparse.get LedgerCopy.reset s.health.nvm 1).seq
  then 1 else 0
/-- R485: write the ledger into the region that does not hold the last copy; event 0x9060, or 0x9061 when
the write fails. -/
def writeLedger (s : State) (ok : Bool) : State :=
  if ok then
    let slot := 1 - lastLedgerSlot s
    let s := { s with health := { s.health with ledgerSeq := s.health.ledgerSeq + 1 } }
    recordHead { s with health := { s.health with
      nvm := Sparse.set LedgerCopy.reset s.health.nvm slot (ledgerCopy s) } } 0x9060 .corrected []
  else recordHead s 0x9061 .corrected []
/-- R485, LIFE_LEDGER_WRITE: the hour's figures of every unit, then the ledger goes to NVM. -/
def execLifeLedgerWrite (ok : Bool) (s : State) : Result :=
  let s := forEach s (List.range 80) ledgerHour
  let s := forEach s (List.range 64) fun s die => { s with health := { s.health with
    dutyDone := Sparse.set 0 s.health.dutyDone (16 * die + 6) s.tide.now } }
  let s := { s with health := { s.health with
    poweredHours := satTo 32 (s.health.poweredHours + 1), margin := [], torusEyes := [] } }
  .next (writeLedger s ok)

/-- The 256 bytes of a unit record (R487). -/
def ledgerBytes (r : LedgerRec) (u fenced : Nat) : List Byte :=
  let b := packFields 0xFC
    ([(0, 1, natOf (decide (64 ≤ u))), (1, 1, if u < 64 then u else u - 64), (2, 2, 1), (4, 4, r.hours)]
     ++ (List.range 8).map (fun i => (8 + 4 * i, 4, r.binHours.getD i 0))
     ++ [(0x28, 2, (r.worstMargin % 65536).toNat), (0x2C, 4, r.marginHour)]
     ++ (List.range 8).map (fun i => (0x30 + 2 * i, 2, r.eyes.getD i 0))
     ++ [(0x40, 8, r.corrected), (0x48, 8, r.uncorrectable), (0x50, 8, r.reruns), (0x58, 8, r.suspects),
         (0x60, 8, r.chaffLost), (0x68, 8, r.hangs), (0x70, 8, r.tallyFails), (0x80, 2, r.fences),
         (0x82, 1, fenced), (0x84, 4, r.lastFence), (0x88, 2, r.peakWear), (0x8A, 2, r.wear),
         (0x8C, 4, r.retired)])
  b ++ leOut 4 (crcOf b)
/-- The 32 bytes of a fence entry (R488). -/
def fenceBytes (e : FenceEntry) : List Byte :=
  let b := packFields 0x1C
    [(0, 8, e.tick), (8, 4, e.hours), (0xC, 1, e.kind), (0xD, 1, e.cause), (0xE, 2, e.unit),
     (0x10, 8, e.detail)]
  b ++ leOut 4 (crcOf b)
/-- The entry of the ring at an index: the latest one written there. -/
def fenceAt (k : LedgerCopy) (i : Nat) : List Byte :=
  match (List.range k.log.length).find? fun j => (k.total - k.log.length + j) % 1024 == i with
  | some j => (match k.log[j]? with | some e => fenceBytes e | none => List.replicate 32 0#8)
  | none => List.replicate 32 0#8
/-- The ledger image's header (R486). -/
def ledgerHeader (k : LedgerCopy) : List Byte :=
  let b := packFields 0x3C
    [(0, 4, 0x3152444C), (4, 2, 1), (8, 8, k.seq), (0x10, 4, k.total % 1024), (0x14, 4, satTo 32 k.total)]
  b ++ leOut 4 (crcOf b)
/-- A 64-bit word of a ledger image (R486); one beyond the image reads 0. -/
def ledgerWord (k : LedgerCopy) (w : Nat) : DWord :=
  let at8 := fun (bs : List Byte) off => BitVec.ofNat 64 (leVal ((bs.drop off).take 8))
  let off := 8 * w
  if off < 0x40 then at8 (ledgerHeader k) off
  else if off < 0x5040 then
    let u := (off - 0x40) / 256
    at8 (ledgerBytes (Sparse.get LedgerRec.reset k.ledger u) u (Sparse.get 0 k.fenced u)) ((off - 0x40) % 256)
  else if off < 0xD040 then at8 (fenceAt k ((off - 0x5040) / 32)) ((off - 0x5040) % 32)
  else 0#64
/-- The word at HEALTH_LEDGER_INDEX (R490). -/
def ledgerData (s : State) : DWord :=
  let i := (regAt s 0xA8070).toNat
  let k := if bitOf i 13 then Sparse.get LedgerCopy.reset s.health.nvm (lastLedgerSlot s) else ledgerCopy s
  ledgerWord k (bitsOf i 12 0)
/-- R490, HEALTH_LEDGER_DATA_READ: the word is returned and the index advances. -/
def effectHealthLedgerDataRead (s : State) : Result :=
  let i := (regAt s 0xA8070).toNat
  let s := { s with host := { s.host with readData := ledgerData s } }
  .next (setReg s 0xA8070 (BitVec.ofNat 64 ((bitsOf i 12 0 + 1) % 8192 + 8192 * natOf (bitOf i 13))))

/-! ### Operator fences (R480 to R483, R490) -/

/-- Fence a shore die: its ports with FAB_STATUS.CAUSE 3, its optical engine, whose ports are absent (R260), and its stack,
which is module-fatal (R480, R483). Shore die 0 cannot be fenced. -/
def fenceShore (s : State) (n cause : Nat) : State :=
  if n = 0 then moduleFatal s 14
  else if Sparse.get 0 s.health.shoreFence n ≠ 0 then s
  else
    let s := { s with health := { s.health with
      shoreFence := Sparse.set 0 s.health.shoreFence n cause,
      opticFence := Sparse.set 0 s.health.opticFence n cause,
      stackFailed := if s.health.stackFailed.contains n then s.health.stackFailed
        else s.health.stackFailed ++ [n] } }
    let s := fenceNote s 3 n cause 0
    let s := forEach s (shorePorts n) fun s p => if isOptical s p then loseOptic s p else fencePort s p 3
    moduleFatal s 14
/-- Retire a frame (R465, R480). -/
def fenceFrame (s : State) (key cause : Nat) : State :=
  if s.health.retired.contains key then s
  else
    let s := { s with health := { s.health with retired := s.health.retired ++ [key] } }
    let s := fenceNote (wearAdd s 3 (key / 1024) 2 1) 4 key cause 0
    let s := updLedger s (64 + key / 1024) fun r => { r with retired := r.retired + 1 }
    record s 0x9003 .corrected 16 (1536 + key / 1024) []
/-- R412: the load entries in flight whose destination lies in a fenced die's near memory end with the
address-fault status. -/
def failLoads (s : State) (d : Nat) : State :=
  let there := fun (e : InFlight) => match placeOf e.entry.dst.toNat with
    | .near die _ => die == d
    | _ => false
  let end_ := fun (e : InFlight) => if there e && e.status == 0 then { e with status := 5 } else e
  let hit := fun (q : LoadQueue) => { q with inflight := q.inflight.map end_ }
  let s := forEach s (List.range 16) fun s c => updCove s c fun v => { v with lq := hit v.lq }
  { s with load := { s.load with pq := hit s.load.pq } }
/-- Fence a compute die, with what that does to loads; a router fence can take more dies with it (R34). -/
def loseDie (s : State) (d cause : Nat) : State :=
  let s := fenceDie s d cause
  forEach s ((List.range 64).filter (dieFenced s)) failLoads
/-- Fence a unit by its kind of R490. -/
def fenceUnit (s : State) (kind number cause : Nat) : State :=
  match kind with
  | 0 => fenceCore s number cause
  | 1 => fenceCluster s number cause
  | 2 => loseDie s number cause
  | 3 => fenceShore s number cause
  | _ => fenceFrame s number cause
/-- Units of a kind of R490. -/
def fenceRange : Nat → Nat
  | 0 => 1024 | 1 => 256 | 2 => 64 | 3 => 16 | 4 => 16384 | _ => 0
/-- R490: a write of HEALTH_FENCE_CMD. Action 1 fences with cause 5; action 2 marks a sticky fence to be
cleared at the next module reset and enters the clear in the log; any other write is discarded and counted
as a host-access error. -/
def writeFenceCmd (s : State) (value : Word) : State :=
  let v := value.toNat
  let kind := bitsOf v 2 0
  let number := bitsOf v 31 16
  let n := kind * 65536 + number
  if fenceRange kind ≤ number ∨ (kind = 3 ∧ number = 0) then hostError s 0 2 0xA8048
  else match bitsOf v 5 4 with
    | 1 => fenceUnit s kind number 5
    | 2 =>
      if s.health.sticky.contains n ∧ ¬ s.health.clearNext.contains n then
        fenceEntry { s with health := { s.health with clearNext := s.health.clearNext ++ [n] } } 7 number 5 kind
      else s
    | _ => hostError s 0 2 0xA8048
/-- R490, HEALTH_FENCE. -/
def effectHealthFence (value : Word) (s : State) : Result := .next (writeFenceCmd s value)
/-- R490, HEALTH_FENCE_CLEAR. -/
def effectHealthFenceClear (value : Word) (s : State) : Result := .next (writeFenceCmd s value)

end Sys2Proof.Machine
end

