-- ==== Sys2Proof/Machine/Boot.lean ====
section
/-!
DEFINITION. Starts: the choice of a slot, the boot log, the settings store and its items, safe harbour,
sticky fences, and the module reset and power-on that lead to them (R482, R500, R583 to R603).
-/
namespace Sys2Proof.Machine

/-! ### Images and the boot log (R587 to R593) -/

/-- The image of a slot: 0 A, 1 B. -/
def slotImage (s : State) (slot : Nat) : Option FwImage := if slot = 0 then s.fw.imageA else s.fw.imageB
/-- Store the image of a slot. -/
def setSlotImage (s : State) (slot : Nat) (i : Option FwImage) : State :=
  if slot = 0 then { s with fw := { s.fw with imageA := i } } else { s with fw := { s.fw with imageB := i } }
/-- A little-endian field of the image header (R585). -/
def imgField (i : FwImage) (off n : Nat) : Nat := leVal ((i.header.drop off).take n)
/-- Firmware version, image length, key index, revoke mask, settings schemas and live level (R585). -/
def imgVersion (i : FwImage) : Nat := imgField i 0x10 8
/-- Image length in bytes. -/
def imgLength (i : FwImage) : Nat := imgField i 0x08 8
/-- Key index. -/
def imgKey (i : FwImage) : Nat := imgField i 0x18 1
/-- Revoke mask. -/
def imgRevoke (i : FwImage) : Nat := bitsOf (imgField i 0x19 1) 3 0
/-- Highest settings schema the image reads. -/
def imgSchemaHigh (i : FwImage) : Nat := imgField i 0x1A 1
/-- Lowest settings schema the image reads. -/
def imgSchemaLow (i : FwImage) : Nat := imgField i 0x1B 1
/-- Live level. -/
def imgLiveLevel (i : FwImage) : Nat := imgField i 0x1C 4
/-- Header bytes from an offset that are all 0. -/
def imgZero (i : FwImage) (off n : Nat) : Bool := ((i.header.drop off).take n).all (· == 0#8)
/-- The sections of an image, as kind, length and offset (R586). -/
def imgSections (i : FwImage) : List (Nat × Nat × Nat) :=
  (List.range (min 32 (imgField i 6 2))).map fun k =>
    (imgField i (0x100 + 64 * k) 1, imgField i (0x104 + 64 * k) 4, imgField i (0x108 + 64 * k) 8)
/-- R586: one section of each kind from 1 to 7, offsets on 4 KiB, the boot firmware at most 8 MiB. Sections of reserved kinds
are let pass (DESIGN CHOICE, log entry 4). -/
def sectionsOk (l : List (Nat × Nat × Nat)) : Bool :=
  ([1, 2, 3, 4, 5, 6, 7].all fun k => decide ((l.filter fun x => x.1 == k).length = 1))
    && l.all fun x => decide (x.2.2 % 4096 = 0) && (x.1 != 1 || decide (x.2.1 ≤ 2 ^ 23))
/-- The header fields meet R585 and R586. -/
def headerOk (i : FwImage) : Bool :=
  let n := imgField i 6 2
  let len := imgLength i
  imgField i 0 4 == 0x314D4946 && imgField i 4 2 == 1 && decide (7 ≤ n) && decide (n ≤ 32)
    && decide (len % 4096 = 0) && decide (4096 ≤ len) && decide (len ≤ 192 * 2 ^ 20) && decide (imgKey i ≤ 3)
    && bitsOf (imgField i 0x19 1) 7 4 == 0 && imgField i 0x20 1 == 4 && imgZero i 0x81 0x7F
    && imgZero i (0x100 + 64 * n) (64 * (32 - n)) && imgZero i 0x900 0x6A0 && sectionsOk (imgSections i)
/-- The first check of R587 that an image fails, in the order of its list. -/
def imageFails (s : State) (i : FwImage) : Option Nat :=
  if !headerOk i then some 0
  else if !i.keyOk then some 1
  else if s.fw.fuses.getLsbD (imgKey i) then some 2
  else if !i.signatureOk then some 3
  else if !i.badSections.isEmpty then some 4
  else none
/-- A slot holds a valid image; a device that failed discovery holds none (R582). -/
def slotValid (s : State) (slot : Nat) : Bool :=
  !s.fw.noDevice.contains slot && match slotImage s slot with | some i => (imageFails s i).isNone | none => false
/-- A slot's count of starts since its last pass. -/
def slotCount (r : BootRec) (slot : Nat) : Nat := if slot = 0 then r.countA else r.countB
/-- Set a slot's count. -/
def setCount (r : BootRec) (slot n : Nat) : BootRec :=
  if slot = 0 then { r with countA := n } else { r with countB := n }
/-- The boot record changed and numbered. -/
def writeRec (s : State) (kind : Nat) (f : BootRec → BootRec) : State :=
  { s with fw := { s.fw with bootRec := { f s.fw.bootRec with seq := s.fw.bootRec.seq + 1, kind := kind } } }
/-- Records in the current sector. -/
def setLog (s : State) (n : Nat) : State := { s with fw := { s.fw with logCount := n } }
/-- The log goes on in the other device's sector, whose last record governs from now on (R589). -/
def swapLog (s : State) : State :=
  { s with fw := { s.fw with
      bootRec := if s.fw.otherCount = 0 then BootRec.reset else s.fw.otherRec, logCount := s.fw.otherCount,
      logDevice := 1 - s.fw.logDevice, otherRec := s.fw.bootRec, otherCount := s.fw.logCount } }
/-- The other device's sector is erased (event 0x000E). -/
def eraseOther (s : State) : State := recordHead { s with fw := { s.fw with otherCount := 0 } } 0x000E .corrected []
/-- The full log goes on: in the other device's erased sector, its record still the one that precedes; without that device
its own sector is erased (DESIGN CHOICE, log entry 4). -/
def turnLog (s : State) : State :=
  if s.fw.noDevice.contains (1 - s.fw.logDevice) then recordHead (setLog s 0) 0x000E .corrected []
  else { s with fw := { s.fw with
      logCount := 0, logDevice := 1 - s.fw.logDevice, otherRec := s.fw.bootRec, otherCount := s.fw.logCount } }
/-- R589: append a record of a kind; the 1,025th goes to the other device, whose sector is erased once the
current one holds 960 records (event 0x000E). -/
def appendRec (s : State) (kind : Nat) (f : BootRec → BootRec) : State :=
  let s := if s.fw.logCount = 1024 then turnLog s else s
  let n := s.fw.logCount + 1
  let s := setLog (writeRec s kind f) n
  if n = 960 ∧ !s.fw.noDevice.contains (1 - s.fw.logDevice) then eraseOther s else s
/-- R582, R589: the record that governs a start is the one with the largest sequence on the devices that answer. -/
def governLog (s : State) : State :=
  let other := 1 - s.fw.logDevice
  let here := !s.fw.noDevice.contains s.fw.logDevice
  let there := !s.fw.noDevice.contains other
  if there && (!here || (decide (0 < s.fw.otherCount) && decide (s.fw.bootRec.seq < s.fw.otherRec.seq))) then swapLog s
  else s
/-- The neutral record that precedes a commanded reset (R592). -/
def neutralRecord (s : State) : State :=
  appendRec s 3 fun r => setCount r s.fw.running (slotCount r s.fw.running - 1)
/-- R591: the slot to run, and whether it is a fallback or one past its start limit. -/
def chooseSlot (s : State) : Option (Nat × Bool × Bool) :=
  let r := s.fw.bootRec
  let n := r.next
  let o := 1 - n
  if slotValid s n && decide (slotCount r n < 3) then some (n, false, false)
  else if slotValid s o && decide (slotCount r o < 3) then some (o, true, false)
  else if slotValid s n then some (n, false, true)
  else if slotValid s o then some (o, false, true)
  else none

/-! ### The settings store (R594 to R598) -/

/-- A little-endian field of a store. -/
def storeVal (b : List Byte) (off n : Nat) : Nat := leVal ((b.drop off).take n)
/-- Length, schema and sequence of a store. -/
def storeLen (b : List Byte) : Nat := storeVal b 0x10 4
/-- Schema version. -/
def storeSchema (b : List Byte) : Nat := storeVal b 4 1
/-- Sequence. -/
def storeSeq (b : List Byte) : Nat := storeVal b 8 8
/-- The CRC over a store of its length, without its own bytes. -/
def storeCrc (b : List Byte) : Nat := crcOf (b.take 0x3C ++ (b.take (storeLen b)).drop 0x40)
/-- The copy's CRC holds. -/
def storeCrcOk (b : List Byte) : Bool :=
  decide (64 ≤ storeLen b) && decide (storeLen b ≤ 131072) && decide (storeLen b ≤ b.length)
    && storeVal b 0x3C 4 == storeCrc b
/-- The items of a store, as key and value. -/
def parseItems : Nat → List Byte → Option (List (Nat × List Byte))
  | 0, b => if b.isEmpty then some [] else none
  | n + 1, b =>
    if b.isEmpty then none
    else
      let len := storeVal b 2 2
      let size := (4 + len + 7) / 8 * 8
      if b.length < size ∨ ¬ ((b.take size).drop (4 + len)).all (· == 0#8) then none
      else (parseItems n (b.drop size)).map ((storeVal b 0 2, (b.drop 4).take len) :: ·)
/-- Keys rise strictly. -/
def keysRise : List (Nat × List Byte) → Bool
  | (a, _) :: (b, x) :: t => decide (a < b) && keysRise ((b, x) :: t)
  | _ => true
/-- R595, R596: an item of schema 1 has its length and a value in its range; optional keys are ignored. -/
def itemOk (i : Nat × List Byte) : Bool :=
  let v := leVal i.2
  match i.1 with
  | 0x0001 => i.2.length == 2
  | 0x0002 => i.2.length == 1 && decide (v ≤ 1)
  | 0x0003 => i.2.length == 16
  | 0x0004 => i.2.length == 16
  | 0x0005 => i.2.length == 8 && bitsOf v 15 2 == 0 && bitsOf v 63 48 == 0
  | 0x0006 => i.2.length == 4
  | 0x0007 => i.2.length == 512
  | 0x0008 => i.2.length == 2 && decide (1500 ≤ v) && decide (v ≤ 7200)
  | 0x0009 => i.2.length == 2 && bitsOf v 7 1 == 0
  | 0x000A => i.2.length == 1 && bitsOf v 7 2 == 0
  | 0x000B => i.2.length == 8
  | k => decide (0x8000 ≤ k)
/-- The items of a store whose header meets R594. -/
def storeItems (b : List Byte) : Option (List (Nat × List Byte)) :=
  let len := storeLen b
  let zero := fun (lo hi : Nat) => ((b.take hi).drop lo).all (· == 0#8)
  if storeVal b 0 4 ≠ 0x31535453 ∨ storeSchema b = 0 ∨ len % 8 ≠ 0 ∨ ¬ zero 5 8 ∨ ¬ zero 0x18 0x3C then none
  else (parseItems (storeVal b 0x14 4) ((b.take len).drop 64)).bind fun l => if keysRise l then some l else none
/-- R596: the running image can read the store. -/
def canRead (i : FwImage) (b : List Byte) : Bool :=
  storeCrcOk b && decide (imgSchemaLow i ≤ storeSchema b) && decide (storeSchema b ≤ imgSchemaHigh i)
    && match storeItems b with | some l => l.all itemOk | none => false
/-- R598: the copy that a start takes, with whether the other one's CRC failed. -/
def takeStore (s : State) : Option (List Byte × Bool) :=
  let a := s.fw.settingsA
  let b := s.fw.settingsB
  match storeCrcOk a, storeCrcOk b with
  | true, true => some (if storeSeq a < storeSeq b then b else a, false)
  | true, false => some (a, true)
  | false, true => some (b, true)
  | false, false => none
/-- An item's value, or its default. -/
def itemVal (l : List (Nat × List Byte)) (key dflt : Nat) : Nat :=
  match l.find? fun i => i.1 == key with | some i => leVal i.2 | none => dflt
/-- The ports' settings: enables and the FEC requests. -/
def settingsPorts (s : State) (l : List (Nat × List Byte)) : State :=
  forEach s (List.range 128) fun s p => updPort s p fun q =>
    { q with en := bitOf (itemVal l 3 0) p, hostFence := !bitOf (itemVal l 3 0) p, fecReq := bitOf (itemVal l 4 (2 ^ 128 - 1)) p }
/-- The settings of MOD, TIDE, HEALTH, RECOV and power. -/
def settingsModule (s : State) (l : List (Nat × List Byte)) : State :=
  let role := itemVal l 5 0x320000_0000
  let asym := itemVal l 7 0
  let chaff := itemVal l 9 0x0801
  let recov := itemVal l 10 3
  { s with
    moduleId := itemVal l 1 0,
    copperOnly := s.cu || !decide (itemVal l 2 1 = 0),
    tide := { s.tide with
      ctrl := BitVec.ofNat 64 role, role := bitsOf role 1 0, root := bitsOf role 31 16,
      parents := BitVec.ofNat 32 (itemVal l 6 0),
      asym := (List.range 128).foldl (fun m p =>
        Sparse.set 0#32 m p (BitVec.ofNat 32 (asym / 2 ^ (32 * p)))) [] },
    pwr := { s.pwr with cap := itemVal l 8 3600 },
    health := { s.health with
      chaffEn := bitOf chaff 0, suspectLimit := bitsOf chaff 15 8,
      chaffKey := BitVec.ofNat 64 (itemVal l 11 0) },
    recov := { s.recov with autoCove := bitOf recov 0, autoMod := bitOf recov 1 } }
/-- Role 3 is recorded: event 0x1007. -/
def checkRole (s : State) : State := if s.tide.role = 3 then recordHead s 0x1007 .corrected [] else s
/-- R595, R597: the registers that take settings take them. -/
def applySettings (s : State) (l : List (Nat × List Byte)) : State :=
  let s := settingsModule (settingsPorts s l) l
  let s := if s.cu && decide (itemVal l 2 1 = 0) then recordHead s 0x2009 .corrected [] else s
  checkRole s
/-- R599: safe harbour with its cause: the defaults, every port disabled (the present ones are fenced with cause 2 at READY),
single role, no chaff runs. Event 0x0009. -/
def enterHarbour (s : State) (cause : Nat) : State :=
  let s := applySettings s []
  let s := forEach s (List.range 128) fun s p => updPort s p fun q => { q with en := false, hostFence := true }
  let s := { s with
    health := { s.health with chaffEn := false },
    fw := { s.fw with mode := 1, shcause := cause } }
  recordHead s 0x0009 .corrected [cause]
/-- The tide registers that the override gives. -/
def overrideTide (s : State) : State :=
  let r := s.fw.bootRec
  { s with tide := { s.tide with
      ctrl := (s.tide.ctrl &&& 0xFFFF_0000_0000#64) ||| (r.ovCtrl &&& 0xFFFF_0003#64),
      role := bitsOf r.ovCtrl.toNat 1 0, root := bitsOf r.ovCtrl.toNat 31 16, epochStart := r.ovEpoch } }
/-- R590: the one-start override of the time role and epoch is taken and cleared. -/
def applyOverride (s : State) : State :=
  if !s.fw.bootRec.override then { s with tide := { s.tide with epochStart := 0#64 } }
  else appendRec (checkRole (overrideTide s)) 4 fun r => { r with override := false, ovCtrl := 0#64, ovEpoch := 0#64 }
/-- R590, R599: a start in safe harbour takes the override too and clears it; the time role stays single (log entry 38). -/
def harbourOverride (s : State) : State :=
  if !s.fw.bootRec.override then { s with tide := { s.tide with epochStart := 0#64 } }
  else
    let s := { s with tide := { s.tide with epochStart := s.fw.bootRec.ovEpoch } }
    appendRec s 4 fun r => { r with override := false, ovCtrl := 0#64, ovEpoch := 0#64 }
/-- R598: read the settings, or enter safe harbour. -/
def readSettings (s : State) (i : FwImage) : State :=
  let asked := s.fw.bootRec.safeHarbour
  let s := if asked then appendRec s 4 fun r => { r with safeHarbour := false } else s
  match takeStore s with
  | none => harbourOverride (enterHarbour { s with fw := { s.fw with taken := [] } } (if asked then 3 else 2))
  | some (b, torn) =>
    let s := { s with fw := { s.fw with taken := b } }
    let s := if torn then recordHead s 0x0007 .corrected [] else s
    if asked then harbourOverride (enterHarbour s 3)
    else if canRead i b then
      let l := (storeItems b).getD []
      let s := forEach s ((List.range 11).map (· + 1)) fun s k =>
        if l.any fun x => x.1 == k then s else recordHead s 0x0008 .corrected []
      applyOverride (applySettings { s with fw := { s.fw with mode := 0, shcause := 0 } } l)
    else harbourOverride (enterHarbour s 1)

/-! ### Sticky fences and the ledger at a start (R482 to R486) -/

/-- The cause of the last fence entry of a unit; 5 when the log no longer holds it. -/
def stickyCause (s : State) (kind unit : Nat) : Nat :=
  match s.health.fenceLog.reverse.find? fun e => e.kind == kind && e.unit == unit with
  | some e => e.cause
  | none => 5
/-- Apply one sticky fence again; the ports of a shore die follow at READY. -/
def applySticky (s : State) (n : Nat) : State :=
  let kind := n / 65536
  let unit := n % 65536
  let cause := stickyCause s kind unit
  let h := s.health
  match kind with
  | 0 => { s with health := { h with coreFence := Sparse.set 0 h.coreFence unit cause } }
  | 1 => { s with health := { h with clusterFence := Sparse.set 0 h.clusterFence unit cause } }
  | 2 => { s with health := { h with dieFence := Sparse.set 0 h.dieFence unit cause } }
  | 3 =>
    { s with health := { h with
        shoreFence := Sparse.set 0 h.shoreFence unit cause, opticFence := Sparse.set 0 h.opticFence unit cause,
        stackFailed := if h.stackFailed.contains unit then h.stackFailed else h.stackFailed ++ [unit] } }
  | _ => { s with health := { h with
      retired := if h.retired.contains unit then h.retired else h.retired ++ [unit] } }
/-- The clears that were asked for take effect (event 0x9031), the other sticky fences are applied, and the
shape generation counts the start (event 0x9032). -/
def applyFences (s : State) : State :=
  let gone := s.health.sticky.filter (s.health.clearNext.contains ·)
  let s := { s with health := { s.health with
    sticky := s.health.sticky.filter fun n => !gone.contains n, clearNext := [],
    routerFence := s.health.routerFence.filter fun e => !gone.contains (2 * 65536 + e.1) } }
  let s := forEach s gone fun s n => record s 0x9031 .corrected 16 (unitReporter (n / 65536) (n % 65536)) []
  let s := forEach s s.health.sticky applySticky
  recordHead { s with health := { s.health with shapeGen := (s.health.shapeGen + 1) % 65536 } } 0x9032
    .corrected []

/-! ### Starts (R591, R601, R602) -/

/-- The start proper: slot, start record, settings, fences. Events 0x0001, 0x0002, 0x0005, 0x0006; with no
valid image the module holds in ROM hold. -/
def bootStart (s : State) (kind : Nat) : State :=
  let s := governLog s
  let s := forEach s ([0, 1].filter fun slot => !s.fw.noDevice.contains slot) fun s slot =>
    match slotImage s slot with
    | some i => (match imageFails s i with
        | some k => recordHead s 0x0002 .corrected [slot, k]
        | none => s)
    | none => s
  match chooseSlot s with
  | none => { s with fw := { s.fw with romHold := true, ready := false, image := none } }
  | some (slot, fallback, limit) =>
    let s := appendRec s 1 fun r =>
      setCount { r with next := if fallback then slot else r.next, fallback := fallback } slot
        (min 3 (slotCount r slot + 1))
    let img := slotImage s slot
    let s := { s with fw := { s.fw with
      running := slot, image := img, romHold := false, ready := false, osc := 0, checkFrom := 0,
      passed := false, checkFailed := false, busy := none, result := 0#32, live := none, orderly := false } }
    let s := recordHead s 0x0001 .corrected [slot, kind, s.fw.bootRec.countA, s.fw.bootRec.countB]
    let s := if fallback then recordHead s 0x0005 .corrected [] else s
    let s := if limit then recordHead s 0x0006 .corrected [] else s
    match img with
    | some i => applyFences (readSettings s i)
    | none => s

/-- Module frames are kept, every other frame is zeroed (R499). -/
def keptHbm (m : Sparse Memory) : Sparse Memory :=
  (m.map fun e => (e.1, e.2.filter fun c => decide (1020 * 2 ^ 26 ≤ c.1))).filter fun e => !e.2.isEmpty
/-- The strandline survives; its counts since the last start, the error rings and every counter do not. -/
def keptTrace (t : TraceState) : TraceState :=
  { TraceState.reset with
      slSeq := t.slSeq, slDurable := t.slDurable, slCheckpoint := t.slCheckpoint, slEntries := t.slEntries }
/-- The life ledger, the sticky fences and failed stacks survive. -/
def keptHealth (h : HealthState) : HealthState :=
  { HealthState.reset with
      sticky := h.sticky, clearNext := h.clearNext, stackFailed := h.stackFailed, shapeGen := h.shapeGen,
      routerFence := h.routerFence, ledger := h.ledger, fenceLog := h.fenceLog, fenceTotal := h.fenceTotal, ledgerSeq := h.ledgerSeq,
      nvm := h.nvm, poweredHours := h.poweredHours }
/-- Ports forget everything but what stands in their connectors. -/
def keptPorts (p : Sparse Port) : Sparse Port :=
  (p.filter fun e => e.2.present).map fun e => (e.1, { Port.reset with present := true })
/-- The state of which a module reset makes a start (R500, rung 4): kept are the strandline, the life
ledger, the wrack area, the PCIe link with its configuration space, and what stands outside the module or
in non-volatile memory. -/
def afterReset (s : State) (kind cause : Nat) : State :=
  { s with
    cores := [], clusters := [],
    mem := { MemState.reset with hbm := keptHbm s.mem.hbm },
    fab := { FabState.reset with ports := keptPorts s.fab.ports, sent := s.fab.sent, lanes := s.fab.lanes },
    tide := { TideState.reset with now := s.tide.now, ref := s.tide.ref, lock := s.tide.ref },
    coves := (s.coves.map fun e => (e.1, { Cove.reset with image := e.2.image })).filter fun e => e.2 != Cove.reset,
    load := { LoadState.reset with stored := s.load.stored },
    standin := [], remap := [], trace := keptTrace s.trace, health := keptHealth s.health,
    recov := { RecovState.reset with
      resetting := true, fedTick := s.tide.now, lastKind := kind,
      lastCause := cause, resets := s.recov.resets + 1, wracks := s.recov.wracks,
      wrackNewest := s.recov.wrackNewest },
    host := { HostState.reset with
      fns := (s.host.fns.map fun e => (e.1, { HostFn.reset with config := e.2.config, d3hot := e.2.d3hot })).filter
        fun e => e.2 != HostFn.reset,
      linkUp := s.host.linkUp, rate := s.host.rate, width := s.host.width, vfEnable := s.host.vfEnable,
      numVfs := s.host.numVfs, readData := s.host.readData, written := s.host.written,
      vendor := s.host.vendor, stepping := s.host.stepping, board := s.host.board, serial := s.host.serial },
    pwr := { PwrState.reset with
      input := s.pwr.input, enMade := s.pwr.enMade, converters := s.pwr.converters,
      overVoltage := s.pwr.overVoltage, powerGood := s.pwr.powerGood, powerFail := s.pwr.powerFail,
      temps := s.pwr.temps, effCap := s.pwr.effCap },
    tray := { TrayState.reset with
      file := s.tray.file, cap := s.tray.cap, locate := s.tray.locate,
      heldService := s.tray.heldService, slSel := s.tray.slSel, slPart := s.tray.slPart,
      discarded := s.tray.discarded, reply := s.tray.reply, nack := s.tray.nack } }
/-- The strandline queue is written out before a reset (R499). -/
def flushStrand (s : State) : State :=
  if s.trace.slFail then s
  else { s with trace := { s.trace with
    slEntries := (s.trace.slEntries ++ s.trace.slQueue).drop
      (s.trace.slEntries.length + s.trace.slQueue.length - 16112),
    slQueue := [], slDurable := s.trace.slSeq, slCheckpoint := s.trace.slSeq } }

end Sys2Proof.Machine
end

