-- ==== Sys2Proof/Machine/Recovery.lean ====
section
/-!
DEFINITION. Hangs, the rungs of the recovery ladder, wrack samples, the headland role, the heartbeat and
the error rings (R120, R167, R493 to R527).
-/
namespace Sys2Proof.Machine

/-! ### Wrack samples (R508 to R511) -/

/-- Head and tail of the scratchpad part of a context's window. -/
def windowParts (s : State) (core k : Nat) : List WrackPart :=
  let x := ctxAt s core k
  let m := (coreAt s core).scratch
  if x.winCount = 0 then []
  else
    let tail := scratchLimit x - 4096
    [⟨0, k, core, 0, memRead m (winAddr x 0) 4096⟩, ⟨1, k, core, tail, memRead m (winAddr x tail) 4096⟩]
/-- Head and tail of the maintenance granule of a core in a chaff run. -/
def granuleParts (s : State) (core : Nat) : List WrackPart :=
  if (clusterAt s (clusterOf core)).owner = some 4 then
    let m := (coreAt s core).scratch
    [⟨0, 4, core, 0, memRead m maintBase 4096⟩, ⟨1, 4, core, 258048, memRead m (maintBase + 258048) 4096⟩]
  else []
/-- The context whose state a sample records: the one that hung, else the cluster's owner, else context 0 (DESIGN CHOICE, log
entry 23). -/
def stateContext (s : State) (core : Nat) : Nat :=
  let owner := match (clusterAt s (clusterOf core)).owner with | some k => k % 4 | none => 0
  match s.recov.current with
  | some r => if r.rung = 2 ∧ clusterOf r.core = clusterOf core ∧ r.ctx < 4 then r.ctx else owner
  | none => owner
/-- The 2 KiB state record of a core (R508): the sequencer, the queued instructions and the flags as the save image lays them
out, then 256 bytes of the engines' status words, which the spec does not define: they are free (log entry 23). -/
def stateRecord (s : State) (core : Nat) : List Byte :=
  let x := ctxAt s core (stateContext s core)
  saveSequencer x ++ saveQueues x ++ saveFlags x ++ (List.range 256).map fun i => Config.freeByte s.free (256 * core + i)
/-- What a sample holds of one core. -/
def coreParts (s : State) (core : Nat) : List WrackPart :=
  (List.range 4).flatMap (windowParts s core) ++ granuleParts s core ++
    [⟨2, stateContext s core, core, 0, stateRecord s core⟩]
/-- The last 64 entries of a table list up to the one in force at a position, oldest first. -/
def lastEntries (l : List (Nat × Nat)) (pos : Nat) : List Byte :=
  let n := l.length
  let i := (l.filter fun e => decide (spanStart e.2 ≤ pos)).length
  (List.range 64).flatMap fun j =>
    leOut 8 ((l[(i + 64 * n + j - 64) % max 1 n]?).map (·.2)).toList.sum
/-- The cluster-table entries of a die. -/
def dieParts (s : State) (d : Nat) : List WrackPart :=
  match coveOfDie s d with
  | some c =>
    let b := coveBankOf s c d
    [⟨3, 0, d, 0, lastEntries (tableList s 0 c b) (s.tide.now % 2 ^ planCycle s c b)⟩]
  | none => []
/-- The port-table and wain-table entries of a shore die. -/
def shoreParts (s : State) (n : Nat) : List WrackPart :=
  let b := moduleBankOf s (64 + n)
  let pos := s.tide.now % 2 ^ s.tide.cycleExp
  [⟨4, 0, n, 0, lastEntries (tableList s 1 n b) pos⟩, ⟨5, 0, n, 0, lastEntries (tableList s 2 n b) pos⟩]
/-- The sample of a scope; that of a module reset holds the headland mirror too. -/
def sampleParts (s : State) (cores : List Nat) (rung : Nat) : List WrackPart :=
  let dies := (List.range 64).filter fun d => cores.any fun i => dieOf i == d
  cores.flatMap (coreParts s) ++ dies.flatMap (dieParts s) ++ (List.range 16).flatMap (shoreParts s)
    ++ if rung = 4 then [⟨6, 0, 0, 0, Config.mirror s.free⟩] else []
/-- R509: a sample goes to the lowest free slot (event 0xA020), or is missed (event 0xA021). Cove 16 stands
for none; `fault` and `reporter` are those of the fault. -/
def takeWrack (s : State) (rung cause c : Nat) (fault : Tick) (reporter : Nat) (cores : List Nat) : State :=
  match (List.range 8).find? fun k => (Sparse.get none s.recov.wracks k).isNone with
  | some k =>
    let w : Wrack := ⟨rung, cause, fault, if c < 16 then (coveAt s c).step.toNat else 0, min c 15, reporter,
      sampleParts s cores rung⟩
    recordHead { freeTick s with recov := { s.recov with
      wracks := Sparse.set none s.recov.wracks k (some w), wrackNewest := k } } 0xA020 .corrected [k]
  | none =>
    recordHead { s with recov := { s.recov with wrackMissed := satTo 16 (s.recov.wrackMissed + 1) } } 0xA021
      .corrected []
/-- Place the data of the parts after the directory: each part with its offset in the slot. -/
def placeParts : Nat → List WrackPart → List (WrackPart × Nat)
  | _, [] => []
  | off, p :: t => (p, off) :: placeParts (off + p.bytes.length) t
/-- The used bytes of a slot (R510). -/
def wrackBytes (w : Wrack) : List Byte :=
  let n := w.parts.length
  let dir := (placeParts (4096 + 32 * n) w.parts).flatMap fun p =>
    packFields 32 [(0, 1, p.1.kind), (1, 1, p.1.ctx), (2, 2, p.1.unit), (4, 4, p.1.offset), (8, 8, p.2),
      (0x10, 8, p.1.bytes.length), (0x1C, 4, crcOf p.1.bytes)]
  let data := w.parts.flatMap (·.bytes)
  let h := packFields 0x3C
    [(0, 4, 0x31504B57), (4, 2, 1), (6, 1, w.rung), (7, 1, w.cause), (8, 8, w.tick), (0x10, 8, w.step),
     (0x18, 1, w.cove), (0x1A, 2, w.reporter), (0x1C, 4, n), (0x20, 8, 4096 + dir.length + data.length)]
  let h := h ++ leOut 4 (crcOf h)
  h ++ List.replicate 4032 0#8 ++ dir ++ data
/-- R523, RECOV_WRACK_FREE: each 1 frees its slot. -/
def effectRecovWrackFree (value : Word) (s : State) : Result :=
  .next { s with recov := { s.recov with
    wracks := (bitsSet value.toNat 8).foldl (fun m k => Sparse.set none m k none) s.recov.wracks } }
/-- R511, RECOV_WRACK_COPY: a copy of a slot starts; it reserves its status line. -/
def effectRecovWrackCopy (value : Word) (s : State) : Result :=
  .next (if s.recov.wrackCopy.isSome || storeFull s 0 then hostError s 0 2 0xC0048
    else reserveLine { s with recov := { s.recov with wrackCopy := some (bitsOf value.toNat 2 0) } } 0)
/-- The completion line of a wrack copy. -/
def wrackLine (s : State) (k st n : Nat) : State := completionLine s 0 3 16 [(0, 1, k), (1, 1, st), (8, 8, n)]
/-- R511, WRACK_COPY_END: the used bytes go to host memory, then a line of kind 0x03. -/
def execWrackCopyEnd (status : Nat) (s : State) : Result :=
  .next (match s.recov.wrackCopy with
    | none => s
    | some k =>
      let s := { s with recov := { s.recov with wrackCopy := none } }
      match Sparse.get none s.recov.wracks k with
      | none => wrackLine s k 1 0
      | some w =>
        if status ≠ 0 then wrackLine (hostFailed s 0 ((regAt s 0xC0040).toNat / 64 * 64)) k 2 0
        else
          wrackLine (hostWrite s 0 ((regAt s 0xC0040).toNat / 64 * 64) (wrackBytes w)) k 0 (wrackBytes w).length)

/-! ### Rung 4: module reset (R499, R500, R602) -/

/-- The actions of a module reset, then its start. `commanded` resets append the neutral record of R592. -/
def moduleReset (s : State) (kind cause : Nat) (commanded : Bool) : State :=
  let s := if kind = 2 then takeWrack s 4 cause 16 s.recov.fatalFrom.1 s.recov.fatalFrom.2 (List.range 1024)
    else takeWrack s 4 cause 16 s.tide.now 1296 (List.range 1024)
  let s := recordHead s 0xA060 .corrected []
  let s := writeLedger (if commanded then neutralRecord s else s) true
  bootStart (afterReset (flushStrand s) kind (if kind = 2 then cause else 0)) kind

/-! ### Hangs (R120, R167, R504 to R507) -/

/-- The owners of a cluster in the window of a hang (R504). -/
def windowOwners (s : State) (c core engine : Nat) : List Nat :=
  let die := dieOf core
  let b := coveBankOf s c die
  let len := 2 ^ planCycle s c b
  let h := s.tide.now
  let lo := max ((h / len - 1) * len) (Sparse.get 0 s.recov.engineReset (8 * core + engine))
  let l := tableList s 0 c b
  let slack := (coveTideAt s c).slack
  [h / len - 1, h / len].flatMap fun n =>
    (l.zip (l.drop 1 ++ [(0, len)])).filterMap fun p =>
      let from_ := n * len + spanStart p.1.2
      let to_ := n * len + if p.2.2 = len then len else spanStart p.2.2
      if from_ ≤ h ∧ lo < to_ then some (spanOwner p.1.2 slack) else none
/-- The suspects in their order: the context that hung, the other job contexts, maintenance. -/
def suspectsOf (s : State) (c core engine k : Nat) : List Nat :=
  if engine = 4 then [k]
  else if k = 5 then []
  else
    let o := windowOwners s c core engine
    k :: (List.range 5).filter fun j => j != k && o.contains j
/-- The cluster is switched out with the hung work discarded (R115, R499). -/
def switchClusterOut (s : State) (cl : Nat) : State :=
  changeOwner s cl none
/-- The recovery in progress ends: event 0xA002 with the cove's state. -/
def endRecovery (s : State) (c : Nat) : State :=
  let s := { s with recov := { s.recov with current := none } }
  let s := updRecov s c fun x => { x with active := false }
  let st := match (coveAt s c).mode with
    | .free => 0 | .loading => 1 | .held => 2 | .running => 3 | .stopped => 4 | .releasing => 5 | .fault => 6
  recordCove s 0xA002 .corrected c [st]
/-- Fence the core of a failed engine with cause 3: the recovery goes on at rung 3 (R501, R506). -/
def fenceEngineCore (s : State) (r : Recovery) (cause : Nat) : State :=
  let s := { s with recov := { s.recov with current := none } }
  let s := if Sparse.get 0 s.health.coreFence r.core ≠ 0 then s
    else fenceNote { s with health := { s.health with
      coreFence := Sparse.set 0 s.health.coreFence r.core 3 } } 0 r.core 3 0
  escalate s r cause
/-- R506: the suspect under test is guilty. Event 0xA012. -/
def guilty (s : State) (r : Recovery) (k : Nat) : State :=
  let s := recordCove s 0xA012 .coveFatal r.cove [k]
  if k = 4 then fenceEngineCore s r 2 else escalate s r 1
/-- A hang report: event 0xA010, the cluster is switched out, and the recovery queues at rung 2; within a
recovery of its cove it is the verdict on the suspect under test or a second fault (R513). -/
def hang (s : State) (core k engine : Nat) : State :=
  let c := coveOfCore s core
  let by_ := if engine = 3 then 1024 + clusterOf core else core
  let s := record s 0xA010 .stepContained (coveNum c) by_ []
  match c with
  | none => s
  | some c =>
    let queued := fun (s : State) =>
      let q : QueuedRecovery := ⟨c, 2, 1, s.tide.now, by_, engine, core, k⟩
      if s.recov.queue.any fun x => x.cove == c then s
      else { s with recov := { s.recov with queue := s.recov.queue ++ [q] } }
    match s.recov.current with
    | some r =>
      if r.cove = c then
        match r.testing with
        | some t => if r.core = core ∧ r.engine = engine then guilty s r t else coveFatal s c 11
        | none => coveFatal s c 11
      else
        recordCove (contain (queued (switchClusterOut s (clusterOf core))) c) 0xA004 .coveFatal c []
    | none => queued (switchClusterOut s (clusterOf core))
/-- An engine (0 matrix, 1 vector, 2 wain, 3 thresher) runs an instruction of a context, or a chaff run of the maintenance
context (R120): the wain and an admitted writeback go on while another context owns the cluster. -/
def engineRuns (s : State) (core k engine : Nat) : Bool :=
  let x := ctxAt s core k
  let owns := (clusterAt s (clusterOf core)).owner == some k
  match engine with
  | 0 => owns && (k == 4 || !x.matQ.isEmpty || x.stream.isSome)
  | 1 => owns && (k == 4 || !x.vecQ.isEmpty)
  | 2 => decide (k < 4) && !x.wainQ.isEmpty
  | _ => decide (k < 4) && (match (ctxAt s (4 * clusterOf core) k).thrQ.head? with
      | some e => owns || e.run.writing
      | none => false)
/-- R120, ENGINE_HANG: engines are 0 matrix, 1 vector, 2 wain, 3 thresher; the cycles that the instruction has run have no
count here (log entry 60). -/
def execEngineHang (core k engine : Nat) (s : State) : Result :=
  .next (if 1024 ≤ core ∨ 5 ≤ k ∨ 4 ≤ engine ∨ ¬ engineRuns s core k engine then s else hang s core k engine)
/-- The deadline of a routine's highest level (R167, R180). -/
def routineDeadline (s : State) (core : Nat) (r : RoutineCall) : Tick :=
  gDeadline (coreAt s core) r.group (highest r.mask) true r.anchor
/-- R167, ROUTINE_HANG: a hang of the context's sequencer, once the routine runs past the deadline of its highest level plus
the 2 µs that every hang threshold holds; the worst-case cycles of its longest instruction have no count here (log entry
60). -/
def execRoutineHang (core k : Nat) (s : State) : Result :=
  .next (match (ctxAt s core k).routine with
    | some r => if routineDeadline s core r + 2000 < s.tide.now then hang s core k 4 else s
    | none => s)

/-! ### The rungs (R499 to R503) -/

/-- Put a recovery in progress. Event 0xA001. -/
def enterRung (s : State) (r : Recovery) : State :=
  let s := { s with recov := { s.recov with current := some r } }
  let s := updRecov s r.cove fun x =>
    { x with rung := r.rung, active := true, cause := r.cause, count := satTo 16 (x.count + 1), tick := s.tide.now }
  recordCove s 0xA001 .corrected r.cove [r.cove, r.rung, r.cause]
/-- R502: a wain reset starts admitted copies again from their start; an atomic whose completion is not
known is dropped, and then the step is discarded once the recovery ends. -/
def resetWain (s : State) (core : Nat) : Bool × State :=
  let unknown := fun (d : WainDesc) => 8 ≤ d.op && d.op < 0x100 && decide (0 < d.awaiting)
  let lost := (List.range 4).any fun k => (ctxAt s core k).wainQ.any unknown
  (lost, forEach s (List.range 4) fun s k => updCtx s core k fun x =>
    { x with wainQ := (x.wainQ.filter fun d => !unknown d).map fun d =>
        if d.moved < d.len ∨ 0 < d.awaiting then { d with moved := 0, awaiting := 0 } else d })
/-- The beginning of rung 2. -/
def beginEngineReset (s : State) (q : QueuedRecovery) : State :=
  let cores := if q.engine = 3 then (List.range 4).map (4 * clusterOf q.core + ·) else [q.core]
  let r : Recovery := ⟨2, q.cove, q.cause, s.tide.now, q.tick, q.reporter, q.engine, q.core, q.ctx,
    suspectsOf s q.cove q.core q.engine q.ctx, none, 0, false, true⟩
  let s := takeWrack (enterRung s r) 2 q.cause q.cove q.tick q.reporter cores
  let s := switchClusterOut s (clusterOf q.core)
  if q.engine = 2 then
    let w := resetWain s q.core
    { w.2 with recov := { w.2.recov with current := some { r with redo := w.1 } } }
  else s
/-- The beginning of rung 3: containment, the sample, context resets, the discard of the step with cause 8,
and the other coves of the job held as ROLLBACK holds them (R433, R499). -/
def beginCoveReset (s : State) (r : Recovery) : State :=
  let c := r.cove
  let s := contain s c
  let cores := coresOf (coveAt s c)
  let s := takeWrack s 3 r.cause c r.fault r.reporter cores
  let s := abortCkpt s c
  let tags := tagsOf (coveAt s c)
  let s := if (recovAt s c).inStep then discardNow s c 8 none else s
  let s := forEach s (List.range 4) fun s k => resetContexts s c k
  let s := forEach s cores fun s i => { s with recov := { s.recov with
    engineReset := (List.range 4).foldl (fun m e => Sparse.set 0 m (8 * i + e) s.tide.now) s.recov.engineReset } }
  let s := forEach s (clustersOf (coveAt s c)) fun s cl => updCluster s cl fun x => { x with owner := none }
  forEach s ((List.range 16).filter fun o => o != c && (tagsOf (coveAt s o)).any tags.contains) rollbackCkpt
/-- R499, RECOVERY_START: a module-fatal fault starts a module reset when faults are answered by
themselves; an escalated recovery begins its new rung; else the oldest queued recovery starts. -/
def execRecoveryStart (s : State) : Result :=
  .next (match s.recov.moduleFatal with
    | some cause => if s.recov.autoMod ∧ ¬ s.pwr.shutdown then moduleReset s 2 cause false else s
    | none =>
      match s.recov.current with
      | some r =>
        if r.begun then s
        else
          let s := { s with recov := { s.recov with current := some { r with begun := true } } }
          beginCoveReset s r
      | none =>
        match s.recov.queue with
        | [] => s
        | q :: t =>
          let s := { s with recov := { s.recov with queue := t } }
          if q.rung = 2 then beginEngineReset s q
          else
            let r : Recovery := ⟨3, q.cove, q.cause, s.tide.now, q.tick, q.reporter, 0, 0, 5, [], none, 0, false, true⟩
            beginCoveReset (enterRung s r) r)
/-- R501, RUNG_OVERRUN: rung 2 is bounded by 200 µs without its suspect test, rung 3 by 8 ms. -/
def execRungOverrun (s : State) : Result :=
  .next (match s.recov.current with
    | some r =>
      if r.rung = 2 ∧ r.testing.isNone ∧ r.start + 200000 ≤ s.tide.now then escalate s r 12
      else if r.rung = 3 ∧ r.start + 8000000 ≤ s.tide.now then
        moduleFatal (recordCove s 0xA003 .moduleFatal r.cove []) 12
      else s
    | none => s)
/-- The tick at which the next test begins: the next boundary of the cove's cycle for a job context, at once for the
maintenance context (R505). -/
def testStart (s : State) (c k : Nat) : Tick :=
  if k = 4 then s.tide.now else roundUp s.tide.now (2 ^ planCycle s c (coveTideAt s c).bank)
/-- The discard that a collective timeout asked for while the engine was reset is made when the recovery ends, at the tick of
that end (R507). -/
def payOwed (s : State) (c : Nat) : State :=
  match (coveAt s c).owed with
  | some (cause, key) =>
    if (coveTideAt s c).slack then s else discardAnyway (updCove s c fun v => { v with owed := none }) c cause key
  | none => s
/-- Name the next suspect, to which the cluster under recovery goes when its test begins, or end the recovery: the hang is
charged to the engine (event 0xA013), a second charge within 24 hours fences the core (R506). -/
def nextSuspect (s : State) (r : Recovery) (charge : Bool) : State :=
  match r.suspects with
  | k :: t =>
    let s := { s with recov := { s.recov with
      current := some { r with suspects := t, testing := some k, testFrom := testStart s r.cove k } } }
    changeOwner s (clusterOf r.core) (ownerNow s (clusterOf r.core))
  | [] =>
    let key := 8 * r.core + r.engine
    let day := s.recov.charged.filter fun e => decide (s.tide.now < e.2 + 86400000000000)
    let again := day.any fun e => e.1 == key
    let s := if charge then
        let s := { s with recov := { s.recov with charged := day ++ [(key, s.tide.now)] } }
        recordCove (updLedger s (dieOf r.core) fun l => { l with hangs := l.hangs + 1 }) 0xA013 .stepContained
          r.cove []
      else s
    if charge && again then fenceEngineCore s r 2
    else
      let s := endRecovery s r.cove
      let s := updRecov s r.cove fun x => { x with contained := false }
      let s := if (coveAt s r.cove).mode = .fault then
          updCove s r.cove fun v => { v with mode := v.prior, changed := s.tide.now } else s
      let s := changeOwner s (clusterOf r.core) (ownerNow s (clusterOf r.core))
      if r.redo then discardAnyway s r.cove 8 none else payOwed s r.cove
/-- R501, ENGINE_SELF_TEST_END: after a pass the suspects are tested; a failure fences the core. -/
def execEngineSelfTestEnd (pass : Bool) (s : State) : Result :=
  .next (match s.recov.current with
    | some r =>
      if r.rung ≠ 2 ∨ r.testing.isSome then s
      else if !pass then fenceEngineCore s r 2
      else
        let s := { s with recov := { s.recov with
          engineReset := Sparse.set 0 s.recov.engineReset (8 * r.core + r.engine) s.tide.now } }
        nextSuspect s r (!r.suspects.isEmpty)
    | none => s)
/-- The tick before which a test cannot end with a pass: one whole cycle of the cove's cluster table for a job context. -/
def testUntil (s : State) (r : Recovery) (k : Nat) : Tick :=
  if k = 4 then r.testFrom else r.testFrom + 2 ^ planCycle s r.cove (coveTideAt s r.cove).bank
/-- R505, R506, SUSPECT_TEST_END: a pass (event 0xA011) after the whole test goes on to the next suspect. -/
def execSuspectTestEnd (pass : Bool) (s : State) : Result :=
  .next (match s.recov.current with
    | some r =>
      (match r.testing with
       | some k =>
         if !pass then guilty s r k
         else if s.tide.now < testUntil s r k then s
         else nextSuspect (recordCove s 0xA011 .corrected r.cove []) { r with testing := none } true
       | none => s)
    | none => s)
/-- Unfenced dies of a cove whose controller a cove reset finds unresponsive (R501): free (log entry 4). -/
def deadDies (s : State) (c : Nat) : List Nat :=
  (List.range 64).filter fun d => (coveAt s c).dies.getLsbD d && !dieFenced s d && bitOf (Config.freeByte s.free d).toNat 0
/-- R500, COVE_RESET_END: the memories are loaded again from the image slot, and the cove is stopped, or held
with hold cause 5 when the fault struck a reshape after its action 2 (R353). Dies whose controller is unresponsive are
fenced with cause 3 and the reset completes on the others (R501). -/
def execCoveResetEnd (s : State) : Result :=
  .next (match s.recov.current with
    | some r =>
      if r.rung ≠ 3 ∨ !r.begun then s
      else
        let c := r.cove
        let s := forEach (freeTick s) (deadDies s c) fun s d =>
          failLoads (markDie s d 3) d
        let v := coveAt s c
        let reshaped := v.reshapeOk && v.reshape.isSome && decide (2 ≤ v.actionsDone) || v.reshaped.isSome
        let s := if 0 < v.variant then (loadVariant s c (v.variant - 1) v.dies).2 else s
        let s := updRecov s c fun x => { x with contained := false, inStep := false }
        let s := updCove s c fun v =>
          { v with mode := .stopped, changed := s.tide.now, awaitReplay := none, owed := none, stopReq := false,
                   holdReq := false }
        let s := updCoveTide s c fun t => { t with slack := false, held := false, restart := 0#64 }
        let s := if reshaped then holdCove s c 5 0 else recordCove s 0x700B .corrected c []
        let s := endRecovery s c
        if (coveAt s c).releaseReq ∨ (coveAt s c).serviceRelease then startRelease s c else s
    | none => s)

/-! ### Commands (R513, R524) -/

/-- A recovery of the cove is in progress at a rung. -/
def rungOf (s : State) (c : Nat) : Nat :=
  match s.recov.current with | some r => if r.cove = c then r.rung else 0 | none => 0
/-- Kind 1: reset one job context of a cove; for context 0 the step is discarded with cause 8. -/
def commandContext (s : State) (c k : Nat) : State :=
  if (coveAt s c).mode = .free then s
  else if 0 < rungOf s c then hostError s 0 2 0xC0008
  else if k = 0 ∧ (coveAt s c).mode = .running then discardStep s c 8 none
  else resetContexts s c k
/-- Kind 2: queue a reset of one engine, without suspects. -/
def commandEngine (s : State) (core engine : Nat) : State :=
  match coveOfCore s core with
  | some c =>
    if 0 < rungOf s c then hostError s 0 2 0xC0008
    else { s with recov := { s.recov with
      queue := s.recov.queue ++ [⟨c, 2, 13, s.tide.now, 1296, engine, core, 5⟩] } }
  | none => s
/-- Kind 3: escalate a recovery of the cove below rung 3, or contain the cove and queue its reset. -/
def commandCove (s : State) (c : Nat) : State :=
  if (coveAt s c).mode = .free then s
  else match s.recov.current with
    | some r =>
      if r.cove = c then if r.rung < 3 then escalate s r 13 else hostError s 0 2 0xC0008
      else recordCove (queueRecovery (contain s c) ⟨c, 3, 13, s.tide.now, 1296, 0, 0, 5⟩) 0xA004 .coveFatal c []
    | none => queueRecovery (contain s c) ⟨c, 3, 13, s.tide.now, 1296, 0, 0, 5⟩
/-- A write of RECOV_CMD; a reserved kind is discarded and counted as a host-access error. -/
def writeRecovCmd (s : State) (value : Word) : State :=
  let v := value.toNat
  match bitsOf v 2 0 with
  | 1 => commandContext s (bitsOf v 7 4) (bitsOf v 9 8)
  | 2 => commandEngine s (bitsOf v 21 12) (bitsOf v 11 10)
  | 3 => commandCove s (bitsOf v 7 4)
  | 4 => moduleReset s 3 13 true
  | _ => hostError s 0 2 0xC0008
/-- R524, RECOV_CONTEXT_RESET. -/
def effectRecovContextReset (value : Word) (s : State) : Result := .next (writeRecovCmd s value)
/-- R524, RECOV_ENGINE_RESET. -/
def effectRecovEngineReset (value : Word) (s : State) : Result := .next (writeRecovCmd s value)
/-- R524, RECOV_COVE_RESET. -/
def effectRecovCoveReset (value : Word) (s : State) : Result := .next (writeRecovCmd s value)
/-- R524, RECOV_MODULE_RESET. -/
def effectRecovModuleReset (value : Word) (s : State) : Result := .next (writeRecovCmd s value)

/-! ### The headland role and the heartbeat (R514 to R516) -/

/-- A shore-die controller is unfenced. -/
def shoreLive (s : State) (n : Nat) : Bool := Sparse.get 0 s.health.shoreFence n == 0
/-- R514, HEADLAND_LIVENESS_ADVANCE: every shore-die controller advances its liveness word; the headland
writes its mirror and feeds the heartbeat. -/
def execHeadlandLivenessAdvance (s : State) : Result :=
  let live := (List.range 16).filter fun n =>
    shoreLive s n && !(n == s.recov.headland && s.recov.moving.isSome)
  let s := { s with recov := { s.recov with
    liveness := live.foldl (fun m n => Sparse.set 0 m n (Sparse.get 0 m n + 1)) s.recov.liveness } }
  .next (if s.fw.ready ∧ s.recov.moving = none ∧ ¬ s.recov.unclaimed then
    { s with recov := { s.recov with fedTick := s.tide.now } } else s)
/-- R514, HEADLAND_LIVENESS_LOST: no advance for 5 ms starts the move (event 0xA030); with strandline writes
failed the fault is module-fatal (R550). -/
def execHeadlandLivenessLost (s : State) : Result :=
  .next (if !s.fw.ready || s.recov.moving.isSome || s.recov.unclaimed || decide (s.tide.now < s.recov.fedTick + 5000000)
    then s
    else
      let s := recordHead s 0xA030 .corrected []
      if s.trace.slFail then moduleFatal s 14
      else { s with recov := { s.recov with moving := some s.tide.now } })
/-- R515, HEADLAND_UNCLAIMED: 15 ms after the last advance without a claim the controllers stop; event
0xA032. -/
def execHeadlandUnclaimed (s : State) : Result :=
  .next (match s.recov.moving with
    | some t =>
      if t + 10000000 ≤ s.tide.now then
        recordHead { s with recov := { s.recov with moving := none, unclaimed := true } } 0xA032 .moduleFatal []
      else s
    | none => s)
/-- The new headland of a move: the lowest-numbered live unfenced controller but the lost one. -/
def nextHeadland (s : State) : Option Nat :=
  (List.range 16).find? fun n => shoreLive s n && n != s.recov.headland
/-- R514: the role is taken (event 0xA031), the heartbeat fed and the recovery in progress bounded anew; a lost
controller that does not restart is module-fatal, and its shore die is fenced with cause 3. -/
def takeRole (s : State) (n : Nat) (restarted : Bool) : State :=
  let old := s.recov.headland
  let s := { s with recov := { s.recov with
    headland := n, moves := satTo 8 (s.recov.moves + 1), moving := none, fedTick := s.tide.now,
    current := s.recov.current.map fun r => { r with start := s.tide.now } } }
  let s := recordHead s 0xA031 .corrected [n]
  if restarted then s
  else if old = 0 then moduleFatal s 15
  else fenceShore (moduleFatal s 15) old 3
/-- R516: something feeds the heartbeat: the headland within the last 10 ms, or the boot firmware of a
start in progress. -/
def fed (s : State) : Bool :=
  if s.fw.ready then decide (s.tide.now < s.recov.fedTick + 10000000) && !s.pwr.shutdown
  else s.pwr.powerGood && !s.fw.romHold && !s.recov.starved
/-- R516, HEARTBEAT_ADVANCE. -/
def execHeartbeatAdvance (s : State) : Result :=
  .next (if fed s then { s with recov := { s.recov with heartbeat := (s.recov.heartbeat + 1) % 2 ^ 64 } }
    else { s with fw := { s.fw with checkFailed := true } })
/-- R516, BOOT_READY_TIMEOUT: 450 ms after a module reset began without READY the boot firmware stops feeding
the heartbeat. -/
def execBootReadyTimeout (s : State) : Result :=
  .next (if s.recov.resetting ∧ s.fw.ready = false ∧ 450000000 ≤ s.fw.osc then
    { s with recov := { s.recov with starved := true } } else s)

/-! ### Error rings (R518 to R521, R525) -/

/-- The 64 bytes of an error record (R519). -/
def recordBytes (e : Event) : List Byte :=
  let b := packFields 0x3C
    [(0, 8, e.tick), (8, 2, e.code), (0xA, 1, sevCode e.severity + 4 * natOf e.summary), (0xB, 1, min e.cove 15),
     (0xC, 2, e.reporter), (0x10, 4, e.count), (0x14, 4, e.srcCount), (0x18, 8, e.lastTick), (0x20, 8, e.step),
     (0x28, 8, e.detail.getD 0 0), (0x30, 8, e.detail.getD 1 0)]
  b ++ leOut 4 (crcOf b)
/-- R521, SUMMARY_FLUSH: a ring with room takes its pending summaries, oldest first tick first; the first one
of an episode records event 0xA042 with the number of events that it coalesced. -/
def execSummaryFlush (ring : Nat) (s : State) : Result :=
  let r := ringAt s ring
  let mine := (s.trace.summaries.filter fun e => e.1 == ring).map (·.2)
  let room := errCapacity ring - (r.wr - r.rd)
  let out := mine.take room
  .next (if 17 ≤ ring ∨ out = [] then s
    else
      let left := mine.drop room
      let s := updErrRing s ring fun r =>
        { r with wr := r.wr + out.length, recs := r.recs ++ out,
                 episode := if left = [] then none else some 0 }
      let s := { s with trace := { s.trace with
        summaries := (s.trace.summaries.filter fun e => e.1 != ring) ++ left.map (ring, ·) } }
      match r.episode with
      | some n => if 0 < n then recordHead s 0xA042 .corrected [n] else s
      | none => s)
/-- Where a function's view keeps a register of the HEALTH or TRACE block: the physical function's at its BAR0
offset, a virtual function's beside it (R561). -/
def viewReg (fn off : Nat) : Nat :=
  if fn = 0 then off
  else 0x2000000 + 0x40000 * fn + (if off < 0xB0000 then 0x10000 else 0x20000) + off % 0x10000
/-- The offset of the same register within the function's own BAR. -/
def viewOff (fn off : Nat) : Nat :=
  if fn = 0 then off else (if off < 0xB0000 then 0x10000 else 0x20000) + off % 0x10000
/-- The error ring that a function sees (R525). -/
def ringOf (s : State) (fn : Nat) : Nat :=
  if fn = 0 then bitsOf (regAt s 0xA9028).toNat 4 0 else fn - 1
/-- R525, HEALTH_ERR_RD_WRITE. -/
def effectHealthErrRdWrite (fn : Nat) (value : DWord) (s : State) : Result :=
  let n := ringOf s fn
  let r := ringAt s n
  let v := value.toNat
  .next (if v < r.rd ∨ r.wr < v then hostError s fn 2 (viewOff fn 0xA9008)
    else updErrRing s n fun r => { r with rd := v, recs := r.recs.drop (v - r.rd) })
/-- A fetch of a function starts, or is ignored and counted while its pending store is full or a fetch of the
same kind runs (R525, R536, R547, R562). -/
def startFetch (s : State) (fn off : Nat) (f : Fetch) : State :=
  let key := f.kind * 32 + fn
  if (Sparse.get none s.trace.fetches key).isSome || storeFull s fn then hostError s fn 2 (viewOff fn off)
  else reserveLine { s with trace := { s.trace with
    fetches := Sparse.set none s.trace.fetches key (some f) } } fn
/-- The fetch of a kind that a function runs, and the state without it; in D3hot it waits (R557). -/
def takeFetch (s : State) (fn kind : Nat) : Option (Fetch × State) :=
  let key := kind * 32 + fn
  (if (fnAt s fn).d3hot then none else Sparse.get none s.trace.fetches key).map fun f =>
    (f, { s with trace := { s.trace with fetches := Sparse.set none s.trace.fetches key none } })
/-- The cove of a function's status lines. -/
def fnCove (fn : Nat) : Nat := if fn = 0 then 16 else fn - 1
/-- R525, HEALTH_ERR_FETCH. -/
def effectHealthErrFetch (fn : Nat) (value : Word) (s : State) : Result :=
  let n := ringOf s fn
  .next (startFetch s fn 0xA9018 ⟨4, n, bitsOf value.toNat 17 0, (ringAt s n).rd, none, 0⟩)
/-- The completion line of an error fetch. -/
def errLine (s : State) (fn : Nat) (f : Fetch) (st n : Nat) : State :=
  completionLine s fn 4 (fnCove fn) [(0, 1, f.what), (1, 1, st), (8, 8, f.start), (0x10, 4, n)]
/-- The records that a fetch of a ring takes. -/
def errRecords (s : State) (f : Fetch) : List Event :=
  ((ringAt s f.what).recs.drop (f.start - (ringAt s f.what).rd)).take f.count
/-- R525, ERR_FETCH_END: up to COUNT records from the RD of the fetch go to host memory, then a line of kind
0x04. -/
def execErrFetchEnd (fn status : Nat) (s : State) : Result :=
  .next (match takeFetch s fn 4 with
    | none => s
    | some (f, s) =>
      if status ≠ 0 then errLine (hostFailed s fn ((regAt s (viewReg fn 0xA9010)).toNat / 64 * 64)) fn f 2 0
      else errLine (hostWrite s fn ((regAt s (viewReg fn 0xA9010)).toNat / 64 * 64)
          ((errRecords s f).flatMap recordBytes)) fn f 0 (errRecords s f).length)

end Sys2Proof.Machine
end

