-- ==== Sys2Proof/Machine/Firmware.lean ====
section
/-!
DEFINITION. Firmware commands, live update, the end of a start, the health check and emptying (R577, R578,
R588, R592, R601 to R610, R632, R633, R639, R640).
-/
namespace Sys2Proof.Machine

/-! ### Emptying (R359, R632, R633) -/

/-- A recovery of the cove is in progress or waits. -/
def inRecovery (s : State) (c : Nat) : Bool :=
  (match s.recov.current with | some r => r.cove == c | none => false)
    || s.recov.queue.any fun q => q.cove == c
/-- Order 2 of R633 for one cove. -/
def emptyCove (s : State) (c : Nat) : State :=
  if (coveAt s c).mode = .free then s
  else
    let s := updCove s c fun v => { v with serviceRelease := true, reason := 15 }
    let s := abortCkpt s c
    match (coveAt s c).mode with
    | .running => updCove s c fun v => { v with releaseReq := true, reshape := none, reshapeOk := false }
    | .fault => if inRecovery s c then updCove s c fun v => { v with releaseReq := true } else startRelease s c
    | .releasing => s
    | _ => startRelease s c
/-- Orders 1 and 2 of R633; event 0xC030. -/
def startEmptying (s : State) : State :=
  let s := recordHead { s with tray := { s.tray with service := 1, heldService := false } } 0xC030 .corrected []
  forEach s (List.range 16) emptyCove

/-! ### Commands of FW_CMD (R577, R578, R604 to R606) -/

/-- FW_LEN. -/
def fwLen (s : State) : Nat := bitsOf (regAt s 0xD0020).toNat 31 0
/-- Write FW_RESULT. -/
def fwResult (s : State) (op code : Nat) : State :=
  { s with fw := { s.fw with result := BitVec.ofNat 32 (op + 256 * code) } }
/-- R578: a command starts, unless one runs (code 7, no line) or no line can be reserved (R562). -/
def startFw (s : State) (b : FwBusy) : State :=
  if s.fw.busy.isSome then fwResult s b.op 7
  else if storeFull s 0 then hostError s 0 2 0xD0028
  else
    let s := if b.code = 3 then hostFailed s 0 ((regAt s 0xD0018).toNat / 64 * 64) else s
    reserveLine { s with fw := { s.fw with busy := some b } } 0
/-- A command with its operation, code and slot, and nothing to write. -/
def plainFw (op code slot : Nat) : FwBusy := ⟨op, slot, code, 0, none, []⟩
/-- The command ends: FW_RESULT and a line of kind 0x07. -/
def endFw (s : State) (b : FwBusy) (code moved : Nat) : State :=
  let s := fwResult { s with fw := { s.fw with busy := none, live := none } } b.op code
  completionLine s 0 7 16 [(0, 1, b.op), (1, 1, code), (2, 1, b.slot), (8, 8, moved)]
/-- R604, FW_WRITE_IMAGE: the image in the host buffer, as its checks see it, and whether the transfer
succeeded. -/
def effectFwWriteImage (slot : Nat) (image : FwImage) (ok : Bool) (s : State) : Result :=
  let slot := slot % 2
  let code := if slot = s.fw.running then 5
    else if !ok then 3
    else if fwLen s ≠ imgLength image then 2
    else if (imageFails s image).isSome then 1
    else 0
  .next (startFw s ⟨1, slot, code, imgLength image, some image, []⟩)
/-- R605, FW_WRITE_SETTINGS: the store in the host buffer. -/
def effectFwWriteSettings (store : List Byte) (ok : Bool) (s : State) : Result :=
  let readable := match s.fw.image with | some i => canRead i store | none => false
  let code := if !ok then 3
    else if fwLen s ≠ storeLen store then 2
    else if !readable then 6
    else 0
  .next (startFw s ⟨2, 0, code, storeLen store, none, store.take (storeLen store)⟩)
/-- R606, FW_READ_SETTINGS: the copy that the current start took. -/
def effectFwReadSettings (s : State) : Result :=
  let n := storeLen s.fw.taken
  .next (startFw s ⟨3, 0, if fwLen s < n then 2 else 0, n, none, s.fw.taken.take n⟩)
/-- R606, FW_SELECT_SLOT. -/
def effectFwSelectSlot (slot : Nat) (s : State) : Result :=
  let slot := slot % 2
  .next (startFw s (plainFw 4 (if fwLen s ≠ 0 then 2 else if slotValid s slot then 0 else 1) slot))
/-- The image in the slot that is not running, when R607 allows its code to replace the running code. -/
def liveImage (s : State) : Option FwImage :=
  match s.fw.image, slotImage s (1 - s.fw.running) with
  | some r, some i => if slotValid s (1 - s.fw.running) ∧ imgLiveLevel i = imgLiveLevel r then some i else none
  | _, _ => none
/-- R607, FW_LIVE_UPDATE. -/
def effectFwLiveUpdate (s : State) : Result :=
  let refused := fwLen s ≠ 0 || (liveImage s).isNone
  let t := startFw s (plainFw 5 (if refused then 2 else 0) (1 - s.fw.running))
  let starts := !refused && s.fw.busy.isNone && t.fw.busy.isSome
  .next (if starts then { t with fw := { t.fw with live := some ⟨1, 0, 0, false⟩ } } else t)
/-- R606, FW_SAFE_HARBOUR_REQUEST. -/
def effectFwSafeHarbourRequest (s : State) : Result :=
  .next (startFw s (plainFw 6 (if fwLen s ≠ 0 then 2 else 0) 0))
/-- R604: the writes of operation 1. -/
def endWriteImage (s : State) (b : FwBusy) (ok : Bool) : State :=
  let s := if b.slot = s.fw.bootRec.next then appendRec s 4 fun r => { r with next := s.fw.running } else s
  if ok then
    let s := appendRec (setSlotImage s b.slot b.image) 4 fun r => setCount r b.slot 0
    endFw (recordHead s 0x000A .corrected []) b 0 b.moved
  else endFw (setSlotImage s b.slot none) b 4 0
/-- A store with its sequence set and its CRC formed again (R605). -/
def sealStore (store : List Byte) (seq : Nat) : List Byte :=
  let b := store.take 8 ++ leOut 8 seq ++ store.drop 16
  b.take 0x3C ++ leOut 4 (storeCrc b) ++ b.drop 0x40
/-- The sequence of a stored copy; one whose CRC fails holds none. -/
def storedSeq (b : List Byte) : Nat := if storeCrcOk b then storeSeq b else 0
/-- R605: the writes of operation 2, first on the device that is not running. -/
def endWriteSettings (s : State) (b : FwBusy) (ok : Bool) : State :=
  let copy := sealStore b.store (max (storedSeq s.fw.settingsA) (storedSeq s.fw.settingsB) + 1)
  if ok then
    let s := { s with fw := { s.fw with settingsA := copy, settingsB := copy } }
    endFw (recordHead s 0x000B .corrected []) b 0 b.moved
  else
    let s := if s.fw.running = 0 then { s with fw := { s.fw with settingsB := [] } }
      else { s with fw := { s.fw with settingsA := [] } }
    endFw s b 4 0
/-- R578, FW_COMMAND_END: a command other than a running live update ends; `ok` says that its NVM writes
were read back, or for operation 3 that the host transfer succeeded. -/
def execFwCommandEnd (ok : Bool) (s : State) : Result :=
  .next (match s.fw.busy with
    | none => s
    | some b =>
      if s.fw.live.isSome then s
      else if b.code ≠ 0 then endFw s b b.code 0
      else match b.op with
        | 1 => endWriteImage s b ok
        | 2 => endWriteSettings s b ok
        | 3 =>
          if ok then
            endFw (hostWrite s 0 ((regAt s 0xD0018).toNat / 64 * 64) b.store) b 0 b.moved
          else endFw (hostFailed s 0 ((regAt s 0xD0018).toNat / 64 * 64)) b 3 0
        | 4 =>
          if ok then endFw (appendRec s 4 fun r => setCount { r with next := b.slot } b.slot 0) b 0 0
          else endFw s b 4 0
        | _ =>
          if ok then endFw (appendRec s 4 fun r => { r with safeHarbour := true }) b 0 0
          else endFw s b 4 0)

/-! ### Live update (R607 to R610) -/

/-- Units of an order of R607. -/
def liveUnits : Nat → Nat
  | 1 => 64 | 2 => 64 | 3 => 16 | 4 => 15 | 5 => 1 | 6 => 16 | 7 => 16 | _ => 0
/-- A port carries nothing. -/
def portIdle (s : State) (p : Nat) : Bool :=
  (portAt s p).mode == .fenced || (portAt s p).mode == .absent
/-- The unit is skipped: a SerDes shell or an optical engine with working ports. -/
def liveSkips (s : State) (order unit : Nat) : Bool :=
  match order with
  | 6 => !(shorePorts unit).all (portIdle s)
  | 7 => !(s.copperOnly || (List.range 4).all fun i => portIdle s (64 + 4 * unit + i))
  | _ => false
/-- R610: the update is applied after order 5; a start record is appended and the health check runs anew. -/
def liveApplied (s : State) : State :=
  let new := 1 - s.fw.running
  let img := slotImage s new
  let s := appendRec s 1 fun r => setCount { r with next := new } new (min 3 (slotCount r new + 1))
  { s with fw := { s.fw with
      running := new, image := img, checkFrom := s.fw.osc, passed := false, checkFailed := false } }
/-- Order 5: the headland role moves to shore die 1, unless it has left shore die 0 already. -/
def moveRole (s : State) : State :=
  if s.recov.headland ≠ 0 then s
  else match nextHeadland s with
    | some n => takeRole s n true
    | none => s
/-- R609: a unit that fails stops the update; it is a lost controller. -/
def liveLost (s : State) (order unit : Nat) : State :=
  match order with
  | 1 => loseDie s unit 3
  | 2 => loseDie s unit 3
  | 4 => fenceShore (moduleFatal s 15) (unit + 1) 3
  | 5 => moduleFatal s 15
  | _ => if unit = 0 then moduleFatal s 15 else fenceShore (moduleFatal s 15) unit 3
/-- The update ends with a code: event 0x000C. -/
def endLive (s : State) (b : FwBusy) (code skipped : Nat) : State :=
  endFw (recordHead s 0x000C .corrected [code, skipped]) b code 0
/-- The next unit, or the end. -/
def nextUnit (s : State) (b : FwBusy) (l : LiveUpdate) : State :=
  if l.unit + 1 < liveUnits l.order then { s with fw := { s.fw with live := some { l with unit := l.unit + 1 } } }
  else if l.order = 7 then endLive s b 0 l.skipped
  else
    let s := if l.order = 5 then liveApplied s else s
    let next := { l with order := l.order + 1, unit := 0, applied := l.applied || l.order == 5 }
    { s with fw := { s.fw with live := some next } }
/-- R608: a load, a reshape or a slack-water action of the die's cove needs the die's controller (log entry 92). -/
def controllerNeeded (s : State) (d : Nat) : Bool :=
  match coveOfDie s d with
  | none => false
  | some c =>
    let v := coveAt s c
    match v.mode with
    | .loading => true
    | .releasing => true
    | .running => (coveTideAt s c).slack
    | .held => v.reshapeOk && v.reshape.isSome
    | _ => false
/-- R608: the swap of a unit must wait. -/
def swapWaits (s : State) (l : LiveUpdate) : Bool :=
  s.recov.current.isSome || (l.order == 1 && controllerNeeded s l.unit)
/-- R607, LIVE_UPDATE_UNIT_SWAP: the unit in turn is swapped, or skipped (event 0x000D); no swap starts while
a recovery is in progress or the die's cove needs its controller (R608). -/
def execLiveUpdateUnitSwap (ok : Bool) (s : State) : Result :=
  .next (match s.fw.busy, s.fw.live with
    | some b, some l =>
      if swapWaits s l then s
      else if liveSkips s l.order l.unit then
        nextUnit (recordHead s 0x000D .corrected [l.unit]) b { l with skipped := l.skipped + 1 }
      else
        let s := if l.order = 5 then moveRole s else s
        if ok then nextUnit s b l else endLive (liveLost s l.order l.unit) b 4 l.skipped
    | _, _ => s)

/-! ### Starts (R591, R592, R601, R603, R639, R640) -/

/-- R639, INPUT_TURN_ON: the input rises through 44 V; with the enable contact made the converters start. -/
def execInputTurnOn (s : State) : Result :=
  .next (if s.pwr.converters then s
    else { s with pwr := { s.pwr with input := true, converters := s.pwr.enMade && !s.pwr.overVoltage && !s.pwr.shutdown } })
/-- The strandline's write position, rebuilt by a full scan when neither header copy is valid (R546): event 0xE005. -/
def findStrand (s : State) (header : Bool) : State :=
  let s := { s with trace := { s.trace with slRebuilt := !header } }
  if header then s else recordHead s 0xE005 .corrected []
/-- R486: unit records of the ledger whose CRC fails are replaced by zeros; event 0x9061 for each. -/
def readLedger (s : State) (bad : List Nat) : State :=
  forEach s (bad.filter (· < 80)) fun s u => recordHead (updLedger s u fun _ => LedgerRec.reset) 0x9061 .corrected []
/-- What a start finds on the NVM devices is free (log entry 4): which of them pass SFDP discovery (R582), whether a
strandline header copy is valid (R546), and whose ledger records fail their CRC (R486). -/
def deviceFound (s : State) (device : Nat) : Bool := bitOf (Config.freeByte s.free device).toNat 0
def strandFound (s : State) : Bool := bitOf (Config.freeByte s.free 2).toNat 0
def ledgerBad (s : State) : List Nat := (List.range 80).filter fun u => bitOf (Config.freeByte s.free (3 + u)).toNat 0
/-- R640, R601, POWER_GOOD: every rail is in regulation; the mask ROM starts the boot sequence, with reset
kind 0 after an orderly stop and 1 otherwise. -/
def execPowerGood (s : State) : Result :=
  .next (if !s.pwr.converters || s.pwr.powerGood then s
    else
      let kind := if s.fw.orderly then 0 else 1
      let s := { s with
        pwr := { s.pwr with powerGood := true },
        fw := { s.fw with
          upTime := 0, ready := false, noDevice := [0, 1].filter fun d => !deviceFound s d },
        recov := { s.recov with lastKind := kind, lastCause := 0 } }
      let header := strandFound s
      let bad := ledgerBad s
      let s := bootStart (findStrand (freeTick s) header) kind
      if s.fw.romHold then s else readLedger s bad)
/-- At READY a present port begins seeking when it is enabled; a disabled one is fenced with cause 2, and one of a fenced shore
die with cause 3 (R480, R482). -/
def startPort (s : State) (p : Nat) : State :=
  let q := portAt s p
  if !q.present || q.mode != .absent then s
  else if opticDown s p then setPortMode s p .absent 6
  else if Sparse.get 0 s.health.shoreFence (portShore p) ≠ 0 then movePort s p .fenced 3
  else if q.en then movePort s p .seeking 0
  else movePort s p .fenced 2
/-- R601 to R603, MODULE_READY: the start or reset ends once the counter is set or no reference is present;
event 0x0010. A held service request acts (R632). -/
def execModuleReady (s : State) : Result :=
  .next (if s.fw.ready || s.fw.romHold || !s.pwr.powerGood || s.fw.image.isNone
      || !(s.tide.marked || !s.tide.ref) then s
    else
      let mode := if s.fw.mode = 1 then 1 else if s.tide.marked then 0 else 2
      let s := { s with
        fw := { s.fw with ready := true, mode := mode, checkFrom := s.fw.osc },
        recov := { s.recov with resetting := false, fedTick := s.tide.now } }
      let s := forEach s (List.range 128) startPort
      let s := recordHead s 0x0010 .corrected [s.fw.osc]
      if s.tray.heldService then startEmptying s else s)
/-- R588: blow the fuses of the image's revoke mask but for the key that signed it; events 0x0004. -/
def blowFuses (s : State) (i : FwImage) : State :=
  forEach s ((List.range 4).filter fun k =>
    bitOf (imgRevoke i) k && k != imgKey i && !s.fw.fuses.getLsbD k) fun s k =>
      recordHead { s with fw := { s.fw with fuses := s.fw.fuses ||| BitVec.ofNat 4 (2 ^ k) } } 0x0004 .corrected [k]
/-- R592, HEALTH_CHECK_PASS: 30 s after READY with no failure. -/
def execHealthCheckPass (s : State) : Result :=
  .next (if !s.fw.ready || s.fw.passed || s.fw.checkFailed || decide (s.fw.osc < s.fw.checkFrom + 30000000000)
    then s
    else
      let s := appendRec s 2 fun r => setCount r s.fw.running 0
      let s := recordHead { s with fw := { s.fw with passed := true } } 0x0003 .corrected []
      match s.fw.image with
      | some i => blowFuses s i
      | none => s)

end Sys2Proof.Machine
end

