-- ==== Sys2Proof/Machine/Trace.lean ====
section
/-!
DEFINITION. Counters, snapshots and their fetches, the wait trace and the strandline (R528 to R552, R671).
-/
namespace Sys2Proof.Machine

/-! ### Counters and snapshots (R528 to R536) -/

/-- Counters per unit of a set. -/
def setWidth : Nat → Nat
  | 0 => 8 | 1 => 32 | 2 => 16 | 3 => 8 | 4 => 8 | 5 => 1 | _ => 0
/-- Units of a set: for cove scope the ranked cores, for module scope its units. -/
def setUnits (s : State) (set : Nat) (scope : Option Nat) : List Nat :=
  match scope with
  | none => (match set with
      | 0 => [0] | 2 => List.range 1024 | 3 => List.range 128 | 4 => List.range 16 | _ => [])
  | some c => (match set with
      | 1 => [0] | 2 => coresOf (coveAt s c) | _ => [])
/-- A counter of a snapshot or of the live counts, in a scope. -/
def counterIn (m c : Sparse Nat) (set unit index : Nat) (scope : Option Nat) : Nat :=
  match scope with
  | none => Sparse.get 0 m (counterKey set unit index)
  | some v => Sparse.get 0 c (coveCounterKey v set unit index)
/-- HEALTH_CNT_DATA for a function (R532, R535). -/
def counterData (s : State) (fn : Nat) : DWord :=
  let sel := (regAt s (viewReg fn 0xA_A008)).toNat
  let set := bitsOf sel 2 0
  let index := bitsOf sel 20 16
  let scope : Option Nat :=
    if fn ≠ 0 then some (fn - 1) else if bitOf sel 15 then some (bitsOf sel 24 21) else none
  let unit : Option Nat :=
    if set ≤ 1 then some 0
    else if fn ≠ 0 then (if set = 2 then (coresOf (coveAt s (fn - 1)))[bitsOf sel 14 4]? else none)
    else some (bitsOf sel 14 4)
  match unit with
  | some u =>
    if setWidth set ≤ index ∨ 5 ≤ set ∨ ¬ (setUnits s set scope).contains u then 0#64
    else if bitOf sel 3 then BitVec.ofNat 64 (counterIn s.trace.counters s.trace.coveCounters set u index scope)
    else BitVec.ofNat 64 (counterIn s.trace.snap.counters s.trace.snap.cove set u index scope)
  | none => 0#64
/-- HEALTH_SRC_DATA for a function: live. -/
def sourceData (s : State) (fn : Nat) : DWord :=
  let sel := (regAt s (viewReg fn 0xA_A028)).toNat
  let code := bitsOf sel 15 0
  let rep := bitsOf sel 26 16
  BitVec.ofNat 64 (if fn = 0 then Sparse.get 0 s.trace.sources (code * 2048 + rep)
    else Sparse.get 0 s.trace.coveSources (((fn - 1) * 65536 + code) * 2048 + rep))
/-- R533: every unit latches its counters; the module keeps the last two snapshots. A second mark replaces the
snapshot that a running fetch copies (R536). -/
def takeSnapshot (s : State) : State :=
  let s := bump s 0 0 7 1
  let snap : Snapshot := ⟨s.tide.now, s.trace.counters, s.trace.coveCounters, s.trace.sources, s.trace.coveSources⟩
  { s with trace := { s.trace with
      prevSnap := s.trace.snap, snap := snap,
      fetches := s.trace.fetches.map fun e => (e.1, e.2.map fun f => { f with snaps := f.snaps + 1 }) } }
/-- R536, HEALTH_CNT_FETCH: set and scope; a cove view is forced to its own cove. -/
def effectHealthCntFetch (fn : Nat) (value : Word) (s : State) : Result :=
  let v := value.toNat
  let scope := if fn ≠ 0 then some (fn - 1) else if bitOf v 3 then some (bitsOf v 7 4) else none
  .next (startFetch s fn 0xA_A020 ⟨1, bitsOf v 2 0, 0, s.trace.snap.tick, scope, 0⟩)
/-- Source entries of a snapshot in a scope, in increasing code and then reporter. -/
def sourceEntries (p : Snapshot) (scope : Option Nat) : List Nat :=
  match scope with
  | none => p.sources.map fun e => e.1 / 2048 + e.1 % 2048 * 65536 + e.2 * 2 ^ 32
  | some c => (p.coveSources.filter fun e => e.1 / 2048 / 65536 == c).map fun e =>
      e.1 / 2048 % 65536 + e.1 % 2048 * 65536 + e.2 * 2 ^ 32
/-- The bytes of a fetch: header, counters, CRC padded to 8 bytes. -/
def fetchBytes (s : State) (p : Snapshot) (f : Fetch) : List Byte :=
  let units := setUnits s f.what f.filter
  let data := if f.what = 5 then sourceEntries p f.filter
    else units.flatMap fun u => (List.range (setWidth f.what)).map fun i =>
      counterIn p.counters p.cove f.what u i f.filter
  let body := data.flatMap (leOut 8)
  let n := if f.what = 5 then data.length else units.length
  let h := packFields 0x3C
    [(0, 4, 0x31544E43), (4, 2, 1), (6, 1, f.what),
     (7, 1, match f.filter with | some c => c + 16 | none => 0), (8, 8, p.tick), (0x10, 4, n),
     (0x14, 4, setWidth f.what), (0x18, 2, s.moduleId)]
  h ++ leOut 4 (crcOf h) ++ body ++ leOut 8 (crcOf body)
/-- A line of kind 0x05 (R551); an outcome other than done records an event. -/
def fetchLine (s : State) (fn kind code st first n : Nat) : State :=
  let s := if st = 0 then s else record s code .corrected (fnCove fn) 1296 [st]
  completionLine s fn 5 (fnCove fn) [(0, 1, kind), (1, 1, st), (8, 8, first), (0x10, 4, n)]
/-- R536, COUNTER_FETCH_END: status 0 done, 2 host transfer failed, 3 snapshot replaced. -/
def execCounterFetchEnd (fn status : Nat) (s : State) : Result :=
  .next (match takeFetch s fn 1 with
    | none => s
    | some (f, s) =>
      if 2 ≤ f.snaps then fetchLine s fn 1 0xE001 3 f.start 0
      else if status ≠ 0 then
        fetchLine (hostFailed s fn ((regAt s (viewReg fn 0xA_A018)).toNat / 64 * 64)) fn 1 0xE001 2 f.start 0
      else
        let b := fetchBytes s (if s.trace.snap.tick = f.start then s.trace.snap else s.trace.prevSnap) f
        fetchLine (hostWrite s fn ((regAt s (viewReg fn 0xA_A018)).toNat / 64 * 64) b) fn 1 0xE001 0 f.start b.length)

/-! ### The wait trace (R537 to R542) -/

/-- The wait ring that a function may control. -/
def wtWriter (c fn : Nat) : Bool := fn == 0 || fn == c + 1
/-- The offset of a wait-trace register within a function's BAR. -/
def wtOff (c fn off : Nat) : Nat := if fn = 0 then wtReg c off else 0x20100 + off
/-- R542, TRACE_C_WT_CTRL_WRITE: it takes effect at the next step start; a change of MODE from 0, which 3 stands for too,
clears the ring's indexes and its drop state. -/
def effectTraceCWtCtrlWrite (c fn : Nat) (value : Word) (s : State) : Result :=
  let off := fun (v : Word) => bitsOf v.toNat 1 0 == 0 || bitsOf v.toNat 1 0 == 3
  let on := off (waitTraceAt s c).ctrl && !off value
  .next (if 16 ≤ c || !wtWriter c fn then s
    else updWaitTrace s c fun t =>
      let t := { t with ctrl := value &&& 0x001F3F03#32 }
      if on then { t with wr := 0, rd := 0, dropState := false, recs := [] } else t)
/-- R542, TRACE_C_WT_RD_WRITE. -/
def effectTraceCWtRdWrite (c fn : Nat) (value : DWord) (s : State) : Result :=
  let t := waitTraceAt s c
  .next (if 16 ≤ c || !wtWriter c fn then s
    else if value.toNat < t.rd ∨ t.wr < value.toNat then hostError s fn 2 (wtOff c fn 0x20)
    else updWaitTrace s c fun t => { t with rd := value.toNat, recs := t.recs.drop (value.toNat - t.rd) })
/-- The 32 bytes of a wait record (R538). -/
def waitBytes (r : WaitRec) : List Byte :=
  let b := packFields 0x1C
    [(0, 8, r.tick), (8, 4, r.length), (0xC, 2, r.waiter),
     (0xE, 1, r.ctx + 4 * r.level + 16 * natOf r.round2 + 32 * natOf r.afterDeadline + 64 * natOf r.dropped
       + 128 * natOf r.switched),
     (0xF, 1, r.kind), (0x10, 4, r.call), (0x14, 1, r.group), (0x15, 1, r.slot), (0x16, 2, r.module),
     (0x18, 2, r.core), (0x1A, 2, r.step)]
  b ++ leOut 4 (crcOf b)
/-- The cove's tables grant slots of the maintenance class. -/
def hasMaintenance (s : State) (c : Nat) : Bool :=
  (List.range 16).any fun st => (tableList s 2 st (moduleBankOf s (64 + st))).any fun e =>
    bitsOf e.2 25 22 == 0xD && bitsOf e.2 29 26 == c && decide (0 < bitsOf e.2 36 32) && bitsOf e.2 31 30 != 0
/-- Append one wait record to its cove's ring, or drop it (R540). -/
def forwardWait (s : State) (p : Nat × WaitRec) : State :=
  let c := p.1
  let t := waitTraceAt s c
  match wtSize t.inForce with
  | none => s
  | some n =>
    if 2 ^ n ≤ t.wr - t.rd then dropWait s c 2
    else match coveRange s c (wtReg c 0x10) (32 * 2 ^ n) with
      | none => dropWait s c 3
      | some base =>
        if !hasMaintenance s c then dropWait s c 4
        else
          let r := { p.2 with dropped := t.dropState }
          let s := hbmStore (bump s 0 0 5 1) (base + 32 * (t.wr % 2 ^ n)) (waitBytes r)
          updWaitTrace s c fun t => { t with wr := t.wr + 1, recs := t.recs ++ [r], dropState := false }
/-- R540, WAIT_RECORD_FORWARD: the die controller passes its buffer to the headland. -/
def execWaitRecordForward (die : Nat) (s : State) : Result :=
  let buf := Sparse.get [] s.trace.dieBuf die
  let s := { s with trace := { s.trace with dieBuf := Sparse.set [] s.trace.dieBuf die [] } }
  .next (forEach s buf forwardWait)

/-! ### The strandline (R543 to R550) -/

/-- The 256 bytes of a strandline entry (R543, R671). -/
def strandBytes (e : StrandEntry) : List Byte :=
  let x := e.event
  let b := packFields 0xFC
    ([(0, 8, e.seq), (8, 8, x.tick), (0x10, 2, x.code),
      (0x12, 1, sevCode x.severity + 4 * natOf x.summary + 8 * natOf e.boot + 16 * natOf e.early), (0x13, 1, min x.cove 15),
      (0x14, 2, x.reporter), (0x16, 1, e.headland), (0x18, 4, e.hours), (0x1C, 4, e.resets), (0x20, 8, x.step),
      (0x28, 4, x.count), (0x2C, 4, x.srcCount), (0x30, 8, x.lastTick)]
     ++ (List.range 24).map fun i => (0x38 + 8 * i, 8, x.detail.getD i 0))
  b ++ leOut 4 (crcOf b)
/-- Summaries waiting for the strandline enter its queue as entries of event 0xA040; the first of an episode
records event 0xA042 (R521, R545). -/
def flushStrandSummary (s : State) : State :=
  match s.trace.slSummaries with
  | [] => s
  | e :: t =>
    let n := s.trace.slEpisode.getD 0
    let s := { s with trace := { s.trace with
      slSummaries := t, slEpisode := if t = [] then none else some 0 } }
    let s := strandPut s { e with code := 0xA040, summary := true, detail := [e.code, e.reporter] ++ e.detail }
    if 0 < n then recordHead s 0xA042 .corrected [n] else s
/-- R545, STRANDLINE_WRITE: the MRAM path writes the entry at the head of the queue; a header copy follows
every 256 entries. A write that fails its read-back twice sets FAIL (event 0xE004, R550). -/
def execStrandlineWrite (ok : Bool) (s : State) : Result :=
  .next (if s.trace.slFail then s
    else match s.trace.slQueue with
      | [] => s
      | e :: t =>
        if !ok then recordHead { s with trace := { s.trace with slFail := true } } 0xE004 .corrected []
        else
          let all := s.trace.slEntries ++ [e]
          let s := { s with trace := { s.trace with
            slQueue := t, slEntries := all.drop (all.length - 16112), slDurable := e.seq + 1,
            slCheckpoint := if (e.seq + 1) % 256 = 0 then e.seq + 1 else s.trace.slCheckpoint } }
          flushStrandSummary s)
/-- R547, TRACE_SL_FETCH. -/
def effectTraceSlFetch (fn : Nat) (value : Word) (s : State) : Result :=
  let v := value.toNat
  let filter := if fn ≠ 0 then some (fn - 1) else if bitOf v 20 then some (bitsOf v 19 16) else none
  .next (startFetch s fn 0xB_0020
    ⟨2, 0, min 16112 (bitsOf v 13 0), (regAt s (viewReg fn 0xB_0010)).toNat, filter, 0⟩)
/-- R547, SL_FETCH_END: status 0 done, 2 host transfer failed, 4 MRAM read failed. -/
def execSlFetchEnd (fn status : Nat) (s : State) : Result :=
  .next (match takeFetch s fn 2 with
    | none => s
    | some (f, s) =>
      let seen := (s.trace.slEntries.filter fun e => decide (f.start ≤ e.seq) && decide (e.seq < s.trace.slDurable)).take
        f.count
      let l := seen.filter fun e => match f.filter with | some c => e.event.cove == c | none => true
      let first := (l.head?.map (·.seq)).getD f.start
      if status = 4 then fetchLine s fn 2 0xE003 4 first 0
      else if status ≠ 0 then
        fetchLine (hostFailed s fn ((regAt s (viewReg fn 0xB_0018)).toNat / 64 * 64)) fn 2 0xE003 2 first 0
      else fetchLine (hostWrite s fn ((regAt s (viewReg fn 0xB_0018)).toNat / 64 * 64) (l.flatMap strandBytes)) fn 2
        0xE003 0 first l.length)

end Sys2Proof.Machine
end

