-- ==== Sys2Proof/Machine/Power.lean ====
section
/-!
DEFINITION. Input power, rails, the cap, temperatures and calibration in service, and the work of a tide mark
(R125, R322, R326, R533, R611, R625 to R630, R639 to R643, R657).
-/
namespace Sys2Proof.Machine

/-! ### The input and the rails (R500, R639 to R643) -/

/-- Every rail turns off: what is not in non-volatile memory, outside the module or a fault of the silicon is
lost (R500, rung 5). The strandline queue is lost, the ledger is the last copy written. -/
def powerOff (s : State) : State :=
  let k := Sparse.get LedgerCopy.reset s.health.nvm (lastLedgerSlot s)
  { s with
    cores := [], clusters := [], mem := MemState.reset,
    fab := { FabState.reset with ports := keptPorts s.fab.ports, sent := s.fab.sent, lanes := s.fab.lanes },
    tide := { TideState.reset with ref := s.tide.ref, lock := s.tide.ref },
    coves := [], load := { LoadState.reset with stored := s.load.stored }, standin := [], remap := [],
    trace := { keptTrace s.trace with slSeq := s.trace.slDurable },
    health := { HealthState.reset with
      sticky := k.sticky, stackFailed := s.health.stackFailed, ledger := k.ledger, fenceLog := k.log,
      fenceTotal := k.total,
      routerFence := s.health.routerFence.filter fun e => k.sticky.contains (2 * 65536 + e.1), ledgerSeq := k.seq, nvm := s.health.nvm, poweredHours := k.hours },
    recov := RecovState.reset,
    host := { HostState.reset with
      written := s.host.written, vendor := s.host.vendor, stepping := s.host.stepping, board := s.host.board,
      serial := s.host.serial },
    fw := { FwState.reset with
      bootRec := s.fw.bootRec, logCount := s.fw.logCount, logDevice := s.fw.logDevice,
      otherRec := s.fw.otherRec, otherCount := s.fw.otherCount, imageA := s.fw.imageA,
      imageB := s.fw.imageB, fuses := s.fw.fuses, settingsA := s.fw.settingsA, settingsB := s.fw.settingsB,
      orderly := s.fw.orderly },
    pwr := { PwrState.reset with
      input := s.pwr.input, enMade := s.pwr.enMade, converters := s.pwr.converters,
      overVoltage := s.pwr.overVoltage },
    tray := TrayState.reset }
/-- R643, R657: event 0xD040 with the voltage and power of the last interval, at the head of the strandline
queue, beyond its 64 entries. -/
def powerFailEvent (s : State) : State :=
  let s := bump (countSource s 0xD040 1296 16) 0 0 1 1
  let e : Event := ⟨0xD040, .moduleFatal, 16, 1296, s.tide.now, 0, 1, Sparse.get 0 s.trace.sources (0xD040 * 2048 + 1296),
    false, 0, [s.pwr.vin, s.pwr.watts]⟩
  let before := ringAt s 16
  let s := noticeLine (ringPut s 16 e) 0 e 16 before.wr
  if s.trace.slFail then s
  else
    let first := match s.trace.slQueue with | x :: _ => x.seq | [] => s.trace.slSeq
    let head : StrandEntry := ⟨first, e, s.recov.headland, s.health.poweredHours, s.recov.resets, tickEarly s, !s.fw.ready⟩
    let rest := s.trace.slQueue.map fun x => { x with seq := x.seq + 1 }
    bump { s with trace := { s.trace with slQueue := head :: rest, slSeq := s.trace.slSeq + 1 } } 0 0 3 1
/-- The converters turn off and power-fail is signalled; the cores go on during holdup (R642). -/
def inputFails (s : State) : State :=
  powerFailEvent { s with pwr := { s.pwr with converters := false, powerFail := true } }
/-- R639, INPUT_UNDERVOLTAGE: the input stays below 40 V for 10 µs. -/
def execInputUndervoltage (s : State) : Result :=
  .next (if s.pwr.converters then inputFails { s with pwr := { s.pwr with input := false } }
    else { s with pwr := { s.pwr with input := false } })
/-- R639, INPUT_OVERVOLTAGE: the input stays above 59.5 V for 10 µs. -/
def execInputOvervoltage (s : State) : Result :=
  .next (if s.pwr.converters then inputFails { s with pwr := { s.pwr with overVoltage := true } }
    else { s with pwr := { s.pwr with overVoltage := true } })
/-- The converters start when the input is present, enable is made and nothing holds them off. -/
def startConverters (s : State) : State :=
  if s.pwr.input && s.pwr.enMade && !s.pwr.overVoltage && !s.pwr.shutdown then
    { s with pwr := { s.pwr with converters := true, powerFail := false } }
  else s
/-- R639, INPUT_OVERVOLTAGE_CLEAR: the input has fallen below 58 V and the converters restart. -/
def execInputOvervoltageClear (s : State) : Result :=
  .next (if s.pwr.overVoltage then startConverters { s with pwr := { s.pwr with overVoltage := false } } else s)
/-- R641, CONVERTER_ENABLE_CHANGE: the enable contact makes or breaks; while it is open the converters stay
off. -/
def execConverterEnableChange (made : Bool) (s : State) : Result :=
  let s := { s with pwr := { s.pwr with enMade := made } }
  .next (if made then startConverters s else { s with pwr := { s.pwr with converters := false } })
/-- R639, INTERMEDIATE_RAIL_LOSS: the 6 V rail stays below 5.4 V for 10 µs; every rail turns off. -/
def execIntermediateRailLoss (s : State) : Result := .next (if s.pwr.powerGood then powerOff s else s)
/-- R642, HOLDUP_END: the stored energy runs out. -/
def execHoldupEnd (s : State) : Result :=
  .next (if s.pwr.powerGood && !s.pwr.converters then powerOff s else s)

/-! ### Regulators and die controllers (R125, R478, R625) -/

/-- A rail turns off: event 0xD021; a compute die is fenced with cause 3, a shore die too, which is module-fatal. -/
def railOff (s : State) (die rail cause : Nat) : State :=
  let key := 4 * die + rail
  if 80 ≤ die ∨ 3 ≤ rail ∨ s.pwr.railsOff.contains key then s
  else
    let s := { s with pwr := { s.pwr with railsOff := s.pwr.railsOff ++ [key] } }
    if die < 64 then loseDie (record s 0xD021 .coveFatal (coveNum (coveOfDie s die)) (1297 + die) [die, rail, cause]) die 3
    else fenceShore (record s 0xD021 .moduleFatal 16 (1280 + (die - 64)) [die, rail, cause]) (die - 64) 3
/-- R625, REGULATOR_CURRENT_LIMIT: the limit has held for more than 100 µs. Cause 1 of the event. -/
def execRegulatorCurrentLimit (die rail : Nat) (s : State) : Result := .next (railOff s die rail 1)
/-- R625, REGULATOR_OVERTEMP: the regulator passes 125 °C. Cause 2 of the event. -/
def execRegulatorOvertemp (die rail : Nat) (s : State) : Result := .next (railOff s die rail 2)
/-- Reporter of a die's controller (R520). -/
def dieReporter (die : Nat) : Nat := if die < 64 then 1297 + die else 1280 + (die - 64)
/-- R125, R579, REGULATOR_TELEMETRY: mV, 0.1 A, °C and mW of a die, and the rails whose trim is at an end of
its range (event 0xD020). -/
def execRegulatorTelemetry (die vcore icore : Nat) (temp : Int) (power : Nat) (trimEnd : List Nat) (s : State) :
    Result :=
  .next (if 80 ≤ die then s
    else
      let old := Sparse.get DieTelem.reset s.pwr.telem die
      let new := { old with vcore := vcore, icore := icore, power := power, temp := temp, peak := max old.peak temp }
      let s := { s with pwr := { s.pwr with telem := Sparse.set DieTelem.reset s.pwr.telem die new } }
      forEach s (trimEnd.filter (· < 3)) fun s r => record s 0xD020 .corrected 16 (dieReporter die) [die, r])
/-- A bit error that has come up in a memory of a compute die (R118, R216): an error of a core's storage, or, as storage 7, an
uncorrectable word in block `word` of near memory. -/
def newUpset (die : Nat) (s : State) (u : Nat × Nat × Nat × Bool) : State :=
  if u.2.1 ≤ 6 then addUpset s die u
  else if u.2.1 = 7 ∧ u.2.2.2 ∧ u.2.2.1 < 2 ^ 18 then
    { s with mem := { s.mem with nearLatent := s.mem.nearLatent ++ [die * 2 ^ 18 + u.2.2.1] } }
  else s
/-- The same of a shore die's stack: an uncorrectable word in a block of HBM. -/
def newHbmUpset (st : Nat) (s : State) (u : Nat × Nat × Nat × Bool) : State :=
  if u.2.2.2 ∧ u.2.2.1 < 2 ^ 24 then { s with mem := { s.mem with hbmLatent := s.mem.hbmLatent ++ [st * 2 ^ 24 + u.2.2.1] } }
  else s
/-- R125, ERROR_COUNT_FORWARD: the counts that a die controller forwards are those that the headland's counters of this
model hold already (R517). The command also brings what the silicon did since the last one: `errors` are bit errors, which
the next access or scrub meets (R118, R216), and `router` says that the die's link routers have failed, which are then fenced
with cause 6 (R34, R480; log entries 40, 72 and 76). -/
def execErrorCountForward (report : ErrorReport) (s : State) : Result :=
  let die := report.die
  .next (if 80 ≤ die then s
    else if 64 ≤ die then forEach s report.errors (newHbmUpset (die - 64))
    else
      let s := { s with health := { s.health with dutyDone := Sparse.set 0 s.health.dutyDone (16 * die + 4) s.tide.now } }
      let s := forEach s report.errors (newUpset die)
      if report.router then loseDie s die 6 else s)
/-- R125, R478, R487, MARGIN_READ: the worst timing margin of the hour and the worst eye margins of the torus links, north,
east, south and west, are kept; a timing margin below 5 ps is an alarm (event 0x9050). -/
def execMarginRead (die : Nat) (reading : MarginReading) (s : State) : Result :=
  let margin := reading.margin
  .next (if 64 ≤ die then s
    else
      let old := Sparse.get DieTelem.reset s.pwr.telem die
      let worst := match Sparse.get none s.health.margin die with | some m => min m margin | none => margin
      let s := { s with
        pwr := { s.pwr with telem := Sparse.set DieTelem.reset s.pwr.telem die { old with margin := margin } },
        health := { s.health with
          margin := Sparse.set none s.health.margin die (some worst),
          torusEyes := Sparse.set [] s.health.torusEyes die (worseEyes (Sparse.get [] s.health.torusEyes die) (reading.eyes.take 4)),
          dutyDone := Sparse.set 0 s.health.dutyDone (16 * die + 5) s.tide.now } }
      if margin < 5 then record (wearAdd s 0 die 2 1) 0x9050 .corrected (coveNum (coveOfDie s die)) (1297 + die) []
      else s)

/-! ### Temperature (R322, R629, R630) -/

/-- Thresholds of a unit: compute dies 0 to 63, shore dies 64 to 79, stacks 80 to 95. -/
def capTemp (u : Nat) : Int := if u < 80 then 100 else 95
/-- Released below. -/
def releaseTemp (u : Nat) : Int := if u < 80 then 97 else 92
/-- Trip. -/
def tripTemp (u : Nat) : Int := if u < 80 then 105 else 100
/-- Shutdown. -/
def shutdownTemp (u : Nat) : Int := if u < 80 then 115 else 110
/-- The last reading of a unit. -/
def tempOf (s : State) (u : Nat) : Int := Sparse.get 0 s.pwr.temps u
/-- Every unit is below its release threshold. -/
def allCool (s : State) : Bool := s.pwr.temps.all fun e => decide (e.2 < releaseTemp e.1)
/-- Set the withholding level: event 0x1050 on a change, and the count of calm intervals starts again. -/
def setLevel (s : State) (level : Nat) : State :=
  if s.tide.withhold = level then s
  else recordHead { s with tide := { s.tide with
    withhold := level, withholdLog := (s.tide.now, level) :: s.tide.withholdLog, calm := 0 } } 0x1050 .corrected []
/-- R630, step 2: dies move to 0.9 GHz, with issue stopped for 20,000 ticks, the level goes to 15, timing is
void; event 0xD011. -/
def thermalTrip (s : State) (u : Nat) (t : Int) : State :=
  let s := forEach s ((List.range 16).filter fun c => (coveAt s c).dies != 0#64) fun s c =>
    let moved := (coveTideAt s c).clock != 2 && !(coveTideAt s c).slow
    updCoveTide s c fun x => { x with slow := true, clockBusy := if moved then s.tide.now + 20000 else x.clockBusy }
  let s := { s with
    pwr := { s.pwr with tripActive := true, tripped := true, tripTick := s.tide.now },
    tide := { s.tide with tripVoid := true } }
  recordHead (setLevel s 15) 0xD011 .corrected [u, (t % 2 ^ 64).toNat]
/-- R630, step 4: event 0xD012, the converters turn off, module-fatal. -/
def thermalShutdown (s : State) : State :=
  if s.pwr.shutdown then s
  else moduleFatal (recordHead { s with pwr := { s.pwr with shutdown := true, converters := false } } 0xD012
    .moduleFatal []) 0
/-- A reading of a unit against the thresholds of R629. -/
def takeTemp (s : State) (u : Nat) (t : Int) : State :=
  let run := if tripTemp u ≤ t then Sparse.get 0 s.pwr.tripRun u + 1 else 0
  let s' := { s with pwr := { s.pwr with
    temps := Sparse.set 0 s.pwr.temps u t, tripRun := Sparse.set 0 s.pwr.tripRun u run,
    coolSince := if releaseTemp u ≤ t then s.tide.now else s.pwr.coolSince } }
  let s' := if 3 ≤ run ∧ ¬ s'.pwr.tripActive then thermalTrip s' u t else s'
  notePwr s (if shutdownTemp u ≤ t then thermalShutdown s' else s')
/-- R629, DIE_TEMP_READING: compute dies 0 to 63, shore dies 64 to 79. -/
def execDieTempReading (unit : Nat) (temp : Int) (s : State) : Result :=
  .next (if 80 ≤ unit then s else takeTemp s unit temp)
/-- R322, R629, HBM_TEMP_READING: hot refresh from above 85 °C to below 82 °C (events 0x1030, 0x1032). -/
def execHbmTempReading (stack : Nat) (temp : Int) (s : State) : Result :=
  .next (if 16 ≤ stack then s
    else
      let hot := s.tide.hot.contains stack
      let s := if 85 < temp ∧ ¬ hot then
          record (hotUpdate { s with tide := { s.tide with hot := s.tide.hot ++ [stack] } }) 0x1030 .corrected 16
            (1536 + stack) []
        else if temp < 82 ∧ hot then
          record (hotUpdate { s with tide := { s.tide with hot := s.tide.hot.filter (· ≠ stack) } }) 0x1032 .corrected 16
            (1536 + stack) []
        else s
      takeTemp s (80 + stack) temp)
/-- R630, TRIP_TIMEOUT: a unit is still at its trip threshold 2 s after the trip. -/
def execTripTimeout (s : State) : Result :=
  .next (if s.pwr.tripActive && decide (s.pwr.tripTick + 2000000000 ≤ s.tide.now)
      && s.pwr.temps.any fun e => decide (tripTemp e.1 ≤ e.2) then thermalShutdown s else s)
/-- R630, THERMAL_RETURN: every unit has stayed below its release threshold for 1 s; each cove returns its dies
in its next slack water. -/
def execThermalReturn (s : State) : Result :=
  .next (if s.pwr.tripActive && allCool s && decide (s.pwr.coolSince + 1000000000 ≤ s.tide.now) then
    { s with pwr := { s.pwr with tripActive := false } } else s)

/-! ### Calibration in service (R483, R611) -/

/-- R611, HBM_RECENTRE: a re-centring that fails keeps the settings (event 0x0012); after 3 in a row the stack
fails under R483. -/
def execHbmRecentre (stack : Nat) (ok : Bool) (s : State) : Result :=
  .next (if 16 ≤ stack then s
    else if ok then { s with pwr := { s.pwr with
      recentreFails := Sparse.set 0 s.pwr.recentreFails stack 0,
      recentreTemp := Sparse.set 0 s.pwr.recentreTemp stack (tempOf s (80 + stack)) } }
    else
      let n := Sparse.get 0 s.pwr.recentreFails stack + 1
      let s := { s with pwr := { s.pwr with recentreFails := Sparse.set 0 s.pwr.recentreFails stack n } }
      let s := record s 0x0012 .corrected 16 (1536 + stack) [stack]
      if n < 3 ∨ s.health.stackFailed.contains stack then s
      else moduleFatal { s with health := { s.health with stackFailed := s.health.stackFailed ++ [stack] } } 14)
/-- One port of a trim: the first reading since its training is the value at training; more than 2 dB below
it is an alarm, once until it recovers. Powers are in 0.01 dB. -/
def trimPort (s : State) (engine p : Nat) (power : Int) : State :=
  let alarm := s.pwr.opticAlarm.contains p
  let setAlarm := fun (s : State) (on : Bool) => { s with pwr := { s.pwr with
    opticAlarm := if on then s.pwr.opticAlarm ++ [p] else s.pwr.opticAlarm.filter (· ≠ p) } }
  let setBase := fun (s : State) (b : Option Int) => { s with pwr := { s.pwr with
    opticPower := Sparse.set none s.pwr.opticPower p b } }
  if (portAt s p).mode ≠ .active then setBase (setAlarm s false) none
  else match Sparse.get none s.pwr.opticPower p with
    | none => setBase s (some power)
    | some b =>
      if power < b - 200 then if alarm then s else wearAdd (setAlarm s true) 4 engine 1 1
      else setAlarm s false
/-- R611, OPTICAL_TRIM: the transmit power of an engine's four ports. -/
def execOpticalTrim (engine : Nat) (power : List Int) (s : State) : Result :=
  .next (if 16 ≤ engine then s
    else forEach s (power.take 4).zipIdx fun s e => trimPort s engine (64 + 4 * engine + e.2) e.1)

/-! ### A tide mark (R51, R326, R533, R623, R626 to R628, R630) -/

/-- State of a local-bus segment. -/
def segState (s : State) (n : Nat) : Nat := (Sparse.get Segment.reset s.tray.segments n).state
/-- A segment was declared empty or failed. -/
def segLost (s : State) (n : Nat) : Bool := decide (2 ≤ segState s n)
/-- A local-bus target. -/
def targetAt (s : State) (seg addr : Nat) : Target := Sparse.get Target.reset s.tray.targets (128 * seg + addr)
/-- A target in service that has been read. -/
def targetRead (s : State) (seg addr : Nat) : Bool :=
  segState s seg == 1 && !(targetAt s seg addr).failed && !(targetAt s seg addr).reading.isEmpty
/-- A reading of a target, 0 when it has none. -/
def readingOf (s : State) (seg addr i : Nat) : Int := (targetAt s seg addr).reading.getD i 0
/-- Converters of segment 0 in service. -/
def converterList (s : State) : List Nat :=
  ((List.range 8).map (0x40 + ·)).filter fun a => !(targetAt s 0 a).failed
/-- Mean input power, voltage in 10 mV, current in 0.1 A and peak power of the last interval: from the input
monitor, else from the converters, else estimated from the rails (R623). -/
def inputFigures (s : State) : Nat × Nat × Nat × Nat :=
  if targetRead s 0 0x10 then
    ((readingOf s 0 0x10 2).toNat, (readingOf s 0 0x10 0).toNat, (readingOf s 0 0x10 1).toNat,
     (readingOf s 0 0x10 3).toNat)
  else if segLost s 0 then
    (((List.range 80).foldl (fun a d => a + (Sparse.get DieTelem.reset s.pwr.telem d).power) 0) * 112 / 100000, 0, 0, 0)
  else ((converterList s).foldl (fun a c => a + (readingOf s 0 c 2).toNat) 0, 0, 0, 0)
/-- R626: the effective cap. -/
def effectiveCap (s : State) (vin : Nat) : Nat :=
  let l := [s.pwr.cap]
    ++ (if s.tray.cap = 0 then [] else [s.tray.cap])
    ++ (if s.pwr.conservative then [3600] else [])
    ++ (if segState s 0 = 1 then [950 * (converterList s).length] else [])
    ++ (if vin = 0 then [] else [vin * 155 / 100])
  l.foldl min s.pwr.cap
/-- A unit is at or above its thermal-cap threshold. -/
def thermalCap (s : State) : Bool := s.pwr.temps.any fun e => decide (capTemp e.1 ≤ e.2)
/-- R326, R630: the level rises by 1 when the power exceeded the cap or a unit is too hot, and falls by 1 after 8
calm intervals in a row. It is fixed while the headland role moves (R514). -/
def moveLevel (s : State) (watts : Nat) : State :=
  let up := decide (s.pwr.effCap < watts) || thermalCap s
  let calm := decide (watts * 100 ≤ s.pwr.effCap * 97) && allCool s
  let count := if calm then s.tide.calm + 1 else 0
  let s := { s with tide := { s.tide with calm := count } }
  if s.recov.moving.isSome then s
  else if up then setLevel s (min 15 (s.tide.withhold + 1))
  else if 8 ≤ count then
    setLevel { s with tide := { s.tide with calm := 0 } } (s.tide.withhold - 1)
  else s
/-- R627, R628: CAPMISS and LOWVIN, with events 0xD003 and 0xD010 once per episode; R630: event 0xD031. -/
def noteInterval (s : State) (watts vin level : Nat) : State :=
  let miss := decide (level = 15) && decide (s.pwr.effCap < watts)
  let low := decide (0 < vin) && decide (vin < 4600)
  let hot := thermalCap s
  let was := s.pwr
  let s := { s with pwr := { s.pwr with
    capMiss := miss, capEpisode := miss, lowVin := low,
    thermEpisode := hot || (was.thermEpisode && !allCool s) } }
  let s := if miss && !was.capEpisode then recordHead s 0xD003 .corrected [] else s
  let s := if low && !was.lowVin then recordHead s 0xD010 .corrected [] else s
  if hot && !was.thermEpisode then recordHead s 0xD031 .corrected [] else s
/-- R533, R626, TIDE_MARK_INTERVAL: at a tide-mark tick the interval's figures, the effective cap, the level and
the counter snapshot. -/
def execTideMarkInterval (s : State) : Result :=
  .next (if !s.tide.marked || s.tide.now % 2 ^ 20 != 0 || s.trace.snap.tick == s.tide.now then s
    else
      let (watts, vin, iin, peak) := inputFigures s
      let level := s.tide.withhold
      let t := { s with pwr := { s.pwr with
        watts := watts, vin := vin, iin := iin, peak := peak, energy := s.pwr.energy + watts,
        conservative := segLost s 0 || segLost s 1 } }
      let t := { t with pwr := { t.pwr with effCap := effectiveCap t vin } }
      let t := moveLevel (noteInterval t watts vin level) watts
      takeSnapshot (notePwr s t))

end Sys2Proof.Machine
end

