-- ==== Sys2Proof/Machine/Tray.lean ====
section
/-!
DEFINITION. The tray bus, the local bus and the end of emptying (R613 to R624, R631 to R634).
-/
namespace Sys2Proof.Machine

/-! ### Values that more than one bus reports -/

/-- CV_STATE.STATE (R338). -/
def coveCode : CoveMode → Nat
  | .free => 0 | .loading => 1 | .held => 2 | .running => 3 | .stopped => 4 | .releasing => 5 | .fault => 6
/-- MOD_CAP (R570). -/
def modCap (s : State) : Nat :=
  natOf s.cu + 2 * natOf s.copperOnly + 4 * natOf (!s.copperOnly && !s.cu) + 16 * 256 + 16 * 65536
/-- MOD_FWVER. -/
def modFwver (s : State) : Nat := match s.fw.image with | some i => imgVersion i | none => 0
/-- MOD_SERIAL and MOD_REV.BOARD read 0 when the VPD was never read (R623). -/
def modSerial (s : State) : Nat := if s.tray.vpdRead then s.host.serial.toNat else 0
/-- MOD_REV. -/
def modRev (s : State) : Nat :=
  s.host.stepping.toNat + 256 * (if s.tray.vpdRead then s.host.board.toNat else 0)
/-- MOD_STATE. -/
def modState (s : State) : Nat := natOf s.fw.ready + 2 * s.fw.mode + 256 * s.fw.shcause
/-- RECOV_LASTRESET. -/
def lastReset (s : State) : Nat := s.recov.lastKind + 256 * s.recov.lastCause + 2 ^ 32 * s.recov.resets
/-- PWR_STATUS. -/
def pwrStatus (s : State) : Nat := pwrBits s + 2 ^ 32 * s.pwr.changed
/-- PWR_INPUT. -/
def pwrInput (s : State) : Nat :=
  s.pwr.watts % 65536 + 65536 * (s.pwr.vin % 65536) + 2 ^ 32 * (s.pwr.iin % 65536) + 2 ^ 48 * (s.pwr.peak % 65536)
/-- A signed byte. -/
def byteOf (t : Int) : Nat := (t % 256).toNat
/-- The hottest of the units from `lo`, with its number: the lowest-numbered one of equals. -/
def hottest (s : State) (lo n : Nat) : Int × Nat :=
  (List.range n).foldl (fun a i => if a.1 < tempOf s (lo + i) then (tempOf s (lo + i), i) else a) (tempOf s lo, 0)
/-- PWR_THERMAL (R576); INLET reads 0x80 when the sensor is lost (R623). -/
def pwrThermal (s : State) : Nat :=
  let die := hottest s 0 64
  let hbm := hottest s 80 16
  let inlet := if segLost s 1 || (targetAt s 1 0x4C).failed then 0x80 else byteOf (readingOf s 1 0x4C 0)
  byteOf die.1 + 256 * byteOf (hottest s 64 16).1 + 65536 * byteOf hbm.1 + 2 ^ 24 * inlet + 2 ^ 32 * die.2
    + 2 ^ 38 * hbm.2
/-- The LED states of R631, 2 bits each: POWER, HEALTH, SERVICE, LOCATE. -/
def ledStates (s : State) : Nat :=
  let power := if !s.pwr.input then 0 else if s.fw.ready then 1 else 2
  let bad := s.fw.mode == 1 || s.fw.romHold || s.pwr.tripped || s.recov.moduleFatal.isSome || s.recov.unclaimed
  let degraded := !s.health.sticky.isEmpty || s.pwr.conservative || s.pwr.capMiss
    || (List.range 4).any (fun n => segState s n == 3) || s.health.wear.any fun e => decide (896 ≤ e.2)
  let health := if bad then 1 else if degraded then 2 else 0
  let service := match s.tray.service with | 0 => 0 | 1 => 3 | _ => 1
  power + 4 * health + 16 * service + 64 * s.tray.locate

/-! ### The tray file and its reads (R614 to R617) -/

/-- IDENT. -/
def identBytes (s : State) : List Byte :=
  packFields 24 [(0, 2, 0x6401), (2, 2, s.moduleId), (4, 1, modCap s), (5, 1, modRev s / 256), (6, 6, modFwver s),
    (0xC, 8, modSerial s), (0x14, 1, s.host.stepping.toNat)]
/-- STATE. -/
def stateBytes (s : State) : List Byte :=
  packFields 16
    [(0, 1, natOf s.fw.ready + 2 * s.fw.mode + 8 * natOf s.recov.resetting + 16 * natOf s.fw.romHold),
     (1, 1, s.fw.shcause), (2, 1, ledStates s), (3, 1, s.tray.service), (4, 1, s.recov.headland),
     (5, 1, s.recov.lastKind), (6, 1, s.recov.lastCause), (8, 2, pwrBits s),
     (0xA, 2, segState s 0 + 16 * segState s 1 + 256 * segState s 2 + 4096 * segState s 3),
     (0xC, 4, s.trace.slSeq)]
/-- POWER. -/
def powerBytes (s : State) : List Byte :=
  packFields 16 [(0, 8, pwrInput s), (8, 2, s.pwr.effCap), (0xA, 2, s.tray.cap), (0xC, 4, pwrThermal s)]
/-- COVES. -/
def covesBytes (s : State) : List Byte :=
  leOut 8 ((List.range 16).foldl (fun a c => a + 16 ^ c * coveCode (coveAt s c).mode) 0)
/-- PORTS. -/
def portsBytes (s : State) : List Byte :=
  leOut 16 (maskOf ((List.range 128).filter fun p => (portAt s p).present))
    ++ leOut 16 (maskOf ((List.range 128).filter fun p => (portAt s p).mode == .active))
/-- R614, TRAY_FILE_REFRESH: the headland, or the firmware of a start, refreshes the file. -/
def execTrayFileRefresh (s : State) : Result :=
  .next (if !s.pwr.powerGood || s.recov.moving.isSome || s.recov.unclaimed then s
    else { s with tray := { s.tray with
      refreshed := s.fw.osc,
      file := { ident := identBytes s, heartbeat := s.recov.heartbeat, state := stateBytes s, power := powerBytes s,
                coves := covesBytes s, ports := portsBytes s } } })
/-- A tray read: the target answers whenever shore die 0 has power. -/
def trayReply (s : State) (bs : List Byte) : State :=
  if s.pwr.powerGood then { s with tray := { s.tray with reply := bs, nack := false } } else s
/-- R616, TRAY_IDENT. -/
def execTrayIdent (s : State) : Result := .next (trayReply s s.tray.file.ident)
/-- R616, TRAY_HEARTBEAT: the heartbeat and the milliseconds since the last refresh. -/
def execTrayHeartbeat (s : State) : Result :=
  .next (trayReply s (leOut 4 s.tray.file.heartbeat ++ leOut 2 (satTo 16 ((s.fw.osc - s.tray.refreshed) / 1000000))
    ++ leOut 2 0))
/-- R616, TRAY_STATE. -/
def execTrayState (s : State) : Result := .next (trayReply s s.tray.file.state)
/-- R616, TRAY_POWER. -/
def execTrayPower (s : State) : Result := .next (trayReply s s.tray.file.power)
/-- R616, TRAY_COVES. -/
def execTrayCoves (s : State) : Result := .next (trayReply s s.tray.file.coves)
/-- R616, TRAY_PORTS. -/
def execTrayPorts (s : State) : Result := .next (trayReply s s.tray.file.ports)
/-- R616, TRAY_SERVICE_READ. -/
def execTrayServiceRead (s : State) : Result := .next (trayReply s (leOut 1 s.tray.service))
/-- R616, TRAY_LOCATE_READ. -/
def execTrayLocateRead (s : State) : Result := .next (trayReply s (leOut 1 s.tray.locate))
/-- R616, TRAY_CAP_READ. -/
def execTrayCapRead (s : State) : Result := .next (trayReply s (leOut 2 s.tray.cap))
/-- R616, TRAY_SL_SEL_READ. -/
def execTraySlSelRead (s : State) : Result := .next (trayReply s (leOut 8 s.tray.slSel))
/-- The selected entry's 256 bytes; zeros when the ring does not hold it durably. -/
def selectedEntry (s : State) : List Byte :=
  match s.trace.slEntries.find? fun e => e.seq == s.tray.slSel && decide (e.seq < s.trace.slDurable) with
  | some e => strandBytes e
  | none => List.replicate 256 0#8
/-- R617, TRAY_SL_DATA: the next 32 bytes; after the eighth read SL_SEL advances. -/
def execTraySlData (s : State) : Result :=
  .next (if !s.pwr.powerGood then s
    else
      let t := trayReply s (((selectedEntry s).drop (32 * s.tray.slPart)).take 32)
      let last := s.tray.slPart = 7
      { t with tray := { t.tray with
          slPart := if last then 0 else s.tray.slPart + 1,
          slSel := if last then (s.tray.slSel + 1) % 2 ^ 64 else s.tray.slSel } })
/-- Codes of the command table of R616. -/
def trayCodes : List Nat := [0x00, 0x01, 0x02, 0x03, 0x04, 0x05, 0x10, 0x11, 0x12, 0x13, 0x20, 0x21]
/-- R615, TRAY_UNKNOWN_COMMAND: NACKed at the command byte. -/
def execTrayUnknownCommand (code : Byte) (s : State) : Result :=
  .next (if trayCodes.contains code.toNat || !s.pwr.powerGood then s
    else { s with tray := { s.tray with nack := true, reply := [] } })
/-- R613, TRAY_CLOCK_LOW_TIMEOUT: the lines are released and the transaction is abandoned. -/
def execTrayClockLowTimeout (s : State) : Result :=
  .next { s with tray := { s.tray with reply := [], nack := false } }

/-! ### Tray writes (R615, R616, R618, R632) -/

/-- A tray write: one with a bad or missing PEC or a disallowed value is discarded, counted and recorded as
event 0xC010. -/
def trayWrite (s : State) (good : Bool) (f : State → State) : State :=
  if !s.pwr.powerGood then s
  else if good then f { s with tray := { s.tray with nack := false } }
  else recordHead { s with tray := { s.tray with discarded := s.tray.discarded + 1 } } 0xC010 .corrected []
/-- R632: a service request. -/
def requestService (s : State) : State :=
  if s.tray.service ≠ 0 then s
  else if s.fw.ready then startEmptying s
  else { s with tray := { s.tray with heldService := true } }
/-- R632, TRAY_SERVICE_WRITE. -/
def execTrayServiceWrite (value : Byte) (pec : Bool) (s : State) : Result :=
  .next (trayWrite s (pec && value == 1#8) requestService)
/-- R616, TRAY_LOCATE_WRITE. -/
def execTrayLocateWrite (value : Byte) (pec : Bool) (s : State) : Result :=
  .next (trayWrite s (pec && decide (value.toNat ≤ 2)) fun s =>
    { s with tray := { s.tray with locate := value.toNat } })
/-- R616, TRAY_CAP_WRITE. -/
def execTrayCapWrite (value : BitVec 16) (pec : Bool) (s : State) : Result :=
  let v := value.toNat
  .next (trayWrite s pec fun s =>
    { s with tray := { s.tray with cap := if v = 0 then 0 else min 7200 (max 1500 v) } })
/-- R616, TRAY_RESET: 0xA55A starts a module reset of kind 4, after the neutral record of R592. A module in
ROM hold tries nothing more (R591). -/
def execTrayReset (value : BitVec 16) (pec : Bool) (s : State) : Result :=
  .next (trayWrite s (pec && value == 0xA55A#16) fun s =>
    if s.fw.romHold then s else moduleReset s 4 0 true)
/-- R617, TRAY_SL_SEL_WRITE: restarts at byte 0 of the named entry. -/
def execTraySlSelWrite (value : DWord) (pec : Bool) (s : State) : Result :=
  .next (trayWrite s pec fun s => { s with tray := { s.tray with slSel := value.toNat, slPart := 0 } })

/-! ### The local bus (R620 to R624) -/

/-- Change a segment. -/
def updSegment (s : State) (n : Nat) (f : Segment → Segment) : State :=
  { s with tray := { s.tray with
      segments := Sparse.set Segment.reset s.tray.segments n (f (Sparse.get Segment.reset s.tray.segments n)) } }
/-- Change a target. -/
def updTarget (s : State) (seg addr : Nat) (f : Target → Target) : State :=
  { s with tray := { s.tray with
      targets := Sparse.set Target.reset s.tray.targets (128 * seg + addr) (f (targetAt s seg addr)) } }
/-- Addresses of a segment's targets (R620); segments 2 and 3 of a VGX6401-CU are not probed. -/
def segTargets (s : State) (seg : Nat) : List Nat :=
  match seg with
  | 0 => 0x10 :: (List.range 8).map (0x40 + ·)
  | 1 => 0x50 :: (List.range 6).map (0x48 + ·)
  | 2 => if s.cu then [] else (List.range 8).map (0x60 + ·)
  | 3 => if s.cu then [] else (List.range 8).map (0x60 + ·)
  | _ => []
/-- The fallbacks of R623 that act at once: the conservative policy begins, ports of optical engines without
management become absent with cause 6, and come back when it returns. -/
def applyFallbacks (old s : State) : State :=
  let s := if segLost s 0 || segLost s 1 then { s with pwr := { s.pwr with conservative := true } } else s
  let s := forEach s ((List.range 64).map (64 + ·)) fun s p =>
    let q := portAt s p
    if !isOptical s p || !s.fw.ready then s
    else if opticDown s p then loseOptic s p
    else if q.present && q.mode == .absent && q.cause == 6 then standingFence (movePort s p .seeking 0) p
    else s
  notePwr old s
/-- A target fails: event 0xC003; a segment in which every target has failed is treated as empty. -/
def failTarget (s : State) (seg addr : Nat) : State :=
  let s := recordHead (updTarget s seg addr fun t => { t with failed := true, misses := 0, answers := 0 }) 0xC003
    .corrected [seg, addr]
  if (segTargets s seg).all fun a => (targetAt s seg a).failed then updSegment s seg fun x => { x with state := 2 }
  else s
/-- What a reading does besides being kept: the VPD gives serial number and board revision, an inlet above
40 °C records event 0xD030 once per episode. -/
def takeReading (s : State) (seg addr : Nat) (r : List Int) : State :=
  let s := updTarget s seg addr fun t => { t with misses := 0, reading := r }
  if seg = 1 ∧ addr = 0x50 then
    { s with tray := { s.tray with vpdRead := true },
             host := { s.host with serial := BitVec.ofInt 64 (r.getD 0 0), board := BitVec.ofInt 8 (r.getD 1 0) } }
  else if seg = 1 ∧ addr = 0x4C then
    let hot := decide (40 < r.getD 0 0)
    let was := s.pwr.inletEpisode
    let s := { s with pwr := { s.pwr with inletEpisode := hot } }
    if hot && !was then recordHead s 0xD030 .corrected [] else s
  else s
/-- R624: the next step on a segment whose data line is low when a START must be issued. Event 0xC020. -/
def clearSegment (s : State) (seg : Nat) : State :=
  let step := (Sparse.get Segment.reset s.tray.segments seg).clearStep + 1
  recordHead (updSegment s seg fun x => { x with clearStep := step }) 0xC020 .corrected [seg, step]
/-- R620, R622, R624, LOCAL_BUS_POLL: a poll of a target, its data line found low, or its readings. -/
def execLocalBusPoll (segment target : Nat) (lineLow : Bool) (reading : Option (List Int)) (s : State) : Result :=
  let x := Sparse.get Segment.reset s.tray.segments segment
  .next (if !s.pwr.powerGood || !(segTargets s segment).contains target || x.state != 1 || decide (2 ≤ x.clearStep)
      || (targetAt s segment target).failed then s
    else
      let t := { s with tray := { s.tray with selected := segment } }
      if lineLow then clearSegment t segment
      else
        let t := updSegment t segment fun x => { x with clearStep := 0 }
        applyFallbacks s (match reading with
          | some r => takeReading t segment target r
          | none =>
            if 2 ≤ (targetAt t segment target).misses then failTarget t segment target
            else updTarget t segment target fun y => { y with misses := y.misses + 1 }))
/-- The segment has been probed four times, or every target has answered. -/
def endProbe (s : State) (seg : Nat) : State :=
  let x := Sparse.get Segment.reset s.tray.segments seg
  let silent := (segTargets s seg).filter fun a => !x.acked.contains a
  if x.retries < 4 then s
  else if x.acked.isEmpty then
    let s := forEach s silent fun s a => updTarget s seg a fun t => { t with failed := true }
    recordHead (updSegment s seg fun x => { x with state := 2 }) 0xC001 .corrected []
  else forEach s silent fun s a => failTarget s seg a
/-- R622, SEGMENT_PROBE: one probe of a segment's targets after a start, up to four; `acks` are the addresses
that acknowledge. -/
def execSegmentProbe (segment : Nat) (acks : List Nat) (s : State) : Result :=
  let x := Sparse.get Segment.reset s.tray.segments segment
  let all := segTargets s segment
  .next (if !s.pwr.powerGood || all.isEmpty || decide (2 ≤ x.state) || decide (4 ≤ x.retries)
      || all.all x.acked.contains then s
    else
      let new := acks.filter fun a => all.contains a && !x.acked.contains a
      let t := updSegment s segment fun x =>
        { x with retries := x.retries + 1, acked := x.acked ++ new.eraseDups,
                 state := if (x.acked ++ new).isEmpty then x.state else 1 }
      applyFallbacks s (endProbe t segment))
/-- R622, FAILED_TARGET_PROBE: a failed target returns after three answered probes in a row (event 0xC004), and
its segment with it (event 0xC002). -/
def execFailedTargetProbe (segment target : Nat) (ack : Bool) (s : State) : Result :=
  .next (if !s.pwr.powerGood || !(targetAt s segment target).failed || segState s segment == 3
      || !(segTargets s segment).contains target then s
    else if !ack then updTarget s segment target fun t => { t with answers := 0 }
    else if (targetAt s segment target).answers < 2 then
      updTarget s segment target fun t => { t with answers := t.answers + 1 }
    else
      let t := recordHead (updTarget s segment target fun t => { t with failed := false, answers := 0, misses := 0 })
        0xC004 .corrected []
      let t := if segState s segment = 2 then
          recordHead (updSegment t segment fun x => { x with state := 1 }) 0xC002 .corrected [] else t
      applyFallbacks s t)
/-- R624, SEGMENT_POWER_RESTORE: step 2 ends. With the line high the segment is probed again; else it is
isolated by step 3 (event 0xC021); `stuck` says that the line stays low with every segment deselected and
after the mux's reset pulse: every segment is failed (event 0xC022). -/
def execSegmentPowerRestore (segment : Nat) (lineHigh stuck : Bool) (s : State) : Result :=
  let x := Sparse.get Segment.reset s.tray.segments segment
  .next (if x.clearStep ≠ 2 then s
    else if lineHigh then updSegment s segment fun _ => Segment.reset
    else
      let t := clearSegment s segment
      let t := recordHead (updSegment t segment fun x => { x with state := 3 }) 0xC021 .corrected []
      let t := if stuck then
          let t := forEach t (List.range 4) fun t n => updSegment t n fun x => { x with state := 3 }
          recordHead { t with tray := { t.tray with controllerStuck := true } } 0xC022 .corrected []
        else t
      applyFallbacks s t)

/-! ### The end of emptying (R633) -/

/-- R633, orders 3 and 4, EMPTYING_COVES_FREE: every port is fenced with cause 2, storage connections close and
load queues stop; the ledger, the strandline header and the orderly-stop record are written. -/
def execEmptyingCovesFree (s : State) : Result :=
  .next (if s.tray.service ≠ 1 ∨ s.tray.emptied ∨ (List.range 16).any fun c => (coveAt s c).mode != .free then s
    else
      let s := forEach s (List.range 128) fun s p => fencePort s p 2
      let s := forEach s (List.range 16) fun s c => updCove s c fun v => { v with lq := { v.lq with en := false } }
      let s := { s with
        load := { s.load with
          conns := (s.load.conns.map fun e => (e.1, ConnMode.down)).filter fun e => e.2 != ConnMode.down,
          pq := { s.load.pq with en := false } },
        trace := { s.trace with slCheckpoint := s.trace.slDurable },
        tray := { s.tray with emptied := true } }
      appendRec (writeLedger s true) 4 id)
/-- R633, order 5, SAFE_TO_REMOVE: the NVM writes have been read back; event 0xC031. -/
def execSafeToRemove (s : State) : Result :=
  .next (if s.tray.service ≠ 1 ∨ ¬ s.tray.emptied then s
    else recordHead { s with tray := { s.tray with service := 2 }, fw := { s.fw with orderly := true } } 0xC031
      .corrected [])

end Sys2Proof.Machine
end

