-- ==== Sys2Proof/Machine/Registers.lean ====
section
/-!
DEFINITION. Where the registers of BAR0 lie, how wide they are, and what a read of each returns (R22, R25,
R275, R280 to R283, R328 to R332, R362 to R365, R401, R402, R421, R422, R453, R454, R489 to R491, R523 to R525,
R534, R535, R541, R542, R548, R549, R559, R561, R568 to R579).
-/
namespace Sys2Proof.Machine

/-! ### Offsets and widths -/

/-- `o` is one of `n` places from `base` on, `step` bytes apart. -/
def inRow (o base step n : Nat) : Bool :=
  decide (base ≤ o) && decide (o < base + step * n) && (o - base) % step == 0
/-- Width of a register of a cove window in bits, 0 for a reserved offset. -/
def cvWidth (o : Nat) : Nat :=
  if [0x00, 0x10, 0x18, 0x20, 0x28, 0x30, 0x38, 0x80, 0x90, 0x98, 0xA0, 0xA8, 0xB8, 0x200, 0x208, 0x218, 0x228,
      0x240, 0x800, 0x810, 0x818, 0x820, 0x900, 0xA08, 0xA10, 0xD08].contains o
    || inRow o 0x40 8 8 || inRow o 0x100 8 32 || inRow o 0x300 8 32 || inRow o 0x400 8 128 || inRow o 0xB00 8 32
    || inRow o 0xC00 8 32 then 64
  else if [0x08, 0x88, 0xB0, 0x210, 0x220, 0x230, 0x238, 0x280, 0x288, 0x808, 0x908, 0x910, 0x918, 0xA00, 0xA18,
      0xD00].contains o
    || inRow o 0x248 8 7 || inRow o 0x920 8 7 then 32
  else 0
/-- Width of a register of the TIDE block. -/
def tideWidth (o : Nat) : Nat :=
  let r := (o - 0x800) % 0x40
  if [0x00, 0x08, 0x10, 0x20, 0x28, 0x40, 0x58, 0x60, 0x68, 0x70, 0x78, 0x80].contains o then 64
  else if [0x18, 0x30, 0x38, 0x48, 0x50, 0x88, 0x90, 0x94, 0x98, 0x9C].contains o || inRow o 0x1000 4 128 then 32
  else if 0x800 ≤ o ∧ o < 0xC00 then
    if [0x08, 0x18, 0x20, 0x28, 0x30].contains r then 64 else if r = 0 ∨ r = 0x10 then 32 else 0
  else 0
/-- Width of a register of the CKPT block. -/
def ckptWidth (o : Nat) : Nat :=
  let r := (o - 0x100) % 0x100
  if o = 0 then 64
  else if 0x100 ≤ o ∧ o < 0x1100 then
    if r = 0 ∨ r = 0x78 ∨ r = 0xC0 then 32 else if inRow r 0x08 8 23 then 64 else 0
  else 0
/-- Width of a register of the FAB block. -/
def fabWidth (o : Nat) : Nat :=
  let r := o % 0x200
  if [0x00, 0x18, 0x20, 0x40, 0x48, 0x50].contains r then 64
  else if [0x08, 0x10].contains r || inRow r 0x28 4 6 then 32
  else 0
/-- Width of a register of the HEALTH block. -/
def healthWidth (o : Nat) : Nat :=
  if inRow o 0x8000 8 9 || inRow o 0x8058 8 5 || [0x9000, 0x9008, 0x9010, 0x9020, 0xA000, 0xA010, 0xA018].contains o
    then 64
  else if [0x8048, 0x8050, 0x9018, 0x9028, 0xA008, 0xA020, 0xA028, 0xA030].contains o then 32
  else 0
/-- Width of a register of the TRACE block. -/
def traceWidth (o : Nat) : Nat :=
  let r := (o - 0x100) % 0x40
  if [0x00, 0x08, 0x10, 0x18, 0x28].contains o then 64
  else if o = 0x20 then 32
  else if 0x100 ≤ o ∧ o < 0x500 then
    if [0x10, 0x18, 0x20].contains r then 64 else if [0x00, 0x08, 0x28].contains r then 32 else 0
  else 0
/-- Width of a register of a die window. -/
def dieWidth (o : Nat) : Nat :=
  let r := o % 0x100
  if o = 0 ∨ o = 0x1_0000 ∨ o = 0x1_0008 then 32
  else if o = 8 then 64
  else if 0x1000 ≤ o ∧ o < 0x2000 then (if inRow r 0 8 5 then 64 else 0)
  else if 0x2_0000 ≤ o ∧ o < 0x3_8C00 ∧ o % 4 = 0 then 32
  else 0
/-- Width of the register at a BAR0 offset of the physical function: 64, 32, or 0 where none lies. -/
def regWidth (a : Nat) : Nat :=
  let o := a % 0x10000
  match a / 0x10000 with
  | 0x0 => if [0x10, 0x18, 0x20, 0x28, 0x38].contains o then 64 else if [0x00, 0x08, 0x30].contains o then 32 else 0
  | 0x1 => tideWidth o
  | 0x2 => cvWidth (o % 0x1000)
  | 0x4 => if o = 0x10 then 32 else if inRow o 0 8 8 then 64 else 0
  | 0x5 => if o = 0 ∨ o = 0x100 then 64
      else if [0x08, 0x10, 0x108, 0x110, 0x118].contains o then 32 else 0
  | 0x6 => ckptWidth o
  | 0x7 => fabWidth o
  | 0x8 => if o = 0x10 ∨ o = 0x18 then 64 else if [0x00, 0x08, 0x20, 0x28].contains o then 32 else 0
  | 0xA => healthWidth o
  | 0xB => traceWidth o
  | 0xC => if [0x00, 0x20, 0x40].contains o || inRow o 0x100 8 16 then 64
      else if [0x08, 0x10, 0x18, 0x28, 0x30, 0x38, 0x48].contains o then 32 else 0
  | 0xD => if inRow o 0 8 4 then 64 else if [0x20, 0x28, 0x30].contains o then 32 else 0
  | 0xE => if o = 8 then 32 else if [0x00, 0x10, 0x18, 0x20].contains o then 64 else 0
  | b => if 0x100 ≤ b ∧ b < 0x200 then dieWidth (a % 0x40000) else 0
/-- R561: the physical function's offset of what a function's offset presents; none where its BAR presents
nothing. -/
def pfOffset (fn off : Nat) : Option Nat :=
  if fn = 0 then (if off < 0x200_0000 then some off else none)
  else
    let c := fn - 1
    if off < 0x1000 then some (cvReg c off)
    else if (0x1_9000 ≤ off ∧ off < 0x1_9030) ∨ (0x1_A000 ≤ off ∧ off < 0x1_A038)
        ∨ (0x2_0000 ≤ off ∧ off < 0x2_0030) then some (off + 0x9_0000)
    else if 0x2_0100 ≤ off ∧ off < 0x2_0130 then some (wtReg c (off - 0x2_0100))
    else none

/-! ### Reads, block by block -/

/-- A register word from its fields, as pairs of lowest bit and value. -/
def word (fields : List (Nat × Nat)) : Nat := fields.foldl (fun a f => a + f.2 * 2 ^ f.1) 0
/-- A two's complement value in `w` bits. -/
def signedIn (w : Nat) (i : Int) : Nat := (i % (2 ^ w : Nat)).toNat
/-- The MOD block (R570). -/
def readMod (s : State) (o : Nat) : Nat :=
  match o with
  | 0x00 => s.host.vendor.toNat + 0x6401 * 65536
  | 0x08 => modRev s
  | 0x10 => modCap s
  | 0x18 => s.moduleId
  | 0x20 => modSerial s
  | 0x28 => modFwver s
  | 0x30 => modState s
  | _ => (regAt s o).toNat
/-- A switch control register (R332, R275 without the last three fields). -/
def switchWord (c : SwitchCtrl) (lagging : Bool) : Nat :=
  word [(0, natOf c.arm), (1, natOf c.done), (2, natOf c.refused), (3, natOf lagging), (4, natOf c.reapply),
    (8, c.reason), (16, c.entry)]
/-- TIDE_STATUS (R329): always aligned as root, never as single. -/
def tideStatus (s : State) : Nat :=
  let t := s.tide
  let aligned := match t.role with | 1 => t.aligned | 2 => true | _ => false
  word [(0, natOf t.ref), (1, natOf t.lock), (2, natOf aligned), (3, natOf t.holdover), (4, t.depth),
    (7, natOf t.pvalid), (8, t.parent), (15, natOf t.tripVoid), (16, t.rootSeen), (32, maskOf t.hot),
    (48, natOf t.hotVoid)]
/-- TIDE_C_STATE (R331). -/
def tideCState (t : CoveTide) : Nat :=
  word [(0, natOf t.bank), (4, t.gen % 16), (8, t.clock), (10, natOf t.hot), (11, natOf t.slack), (12, natOf t.held),
    (13, t.cause), (16, natOf t.skew)]
/-- The table entry at TIDE_INDEX; 0 beyond the kind's instances. -/
def tideData (s : State) : Nat :=
  let i := s.tide.index.toNat
  let kind := bitsOf i 1 0
  let inst := bitsOf i 9 4
  if (if kind = 3 then 64 ≤ inst else 16 ≤ inst) then 0 else tableEntry s kind inst (bitOf i 2) (bitsOf i 23 12)
/-- The TIDE block (R328). -/
def readTide (s : State) (o : Nat) : Nat :=
  let t := s.tide
  let c := (o - 0x800) / 0x40
  let x := coveTideAt s c
  if 0x1000 ≤ o then (Sparse.get 0#32 t.asym ((o - 0x1000) / 4)).toNat
  else if 0x800 ≤ o then
    match (o - 0x800) % 0x40 with
    | 0x00 => tideCState x
    | 0x08 => x.switchTick.toNat
    | 0x10 => switchWord x.ctrl (!(lagging x.lag).isEmpty || !(lagging x.lagShore).isEmpty)
    | 0x18 => maskOf (lagging x.lag)
    | 0x20 => maskOf (lagging x.lagShore)
    | 0x28 => x.restart.toNat
    | _ => x.stepStart
  else match o with
    | 0x00 => t.now
    | 0x08 => tideStatus s
    | 0x10 => t.ctrl.toNat
    | 0x18 => t.parents.toNat
    | 0x20 => signedIn 64 t.theta
    | 0x28 => t.epoch.toNat
    | 0x30 => word [(0, t.mgen % 16), (4, t.cycleExp), (9, natOf t.mbank)]
    | 0x38 => t.mhdr.toNat
    | 0x40 => t.mswitchTick.toNat
    | 0x48 => switchWord t.mswitchCtrl (!(lagging t.lag).isEmpty || !(lagging t.lagShore).isEmpty)
    | 0x50 => t.index.toNat
    | 0x58 => tideData s
    | 0x60 => 0x78
    | 0x68 => t.boundBay
    | 0x70 => t.boundHall
    | 0x78 => maskOf (lagging t.lag)
    | 0x80 => maskOf (lagging t.lagShore)
    | 0x88 => t.withhold
    | 0x90 => t.cntSlip
    | 0x94 => t.cntOverrun
    | 0x98 => t.cntHold
    | _ => t.cntReject
/-- CV_STATE (R363). -/
def cvState (s : State) (c : Nat) : Nat :=
  let v := coveAt s c
  word [(0, coveCode v.mode), (3, natOf ((coveTideAt s c).slack || v.mode == .held)), (4, natOf v.overHbm),
    (5, natOf v.overPort), (6, natOf v.blocked), (7, natOf v.deferred), (8, v.action), (12, v.reason % 256),
    (20, v.hcause), (24, natOf v.ended), (32, v.changed % 2 ^ 32)]
/-- Status-ring registers at their offsets from BASE (R568, R569). -/
def readRing (s : State) (ring o : Nat) : Nat :=
  let r := (fnAt s ring).ring
  match o with
  | 0x00 => (regAt s (ringBaseReg ring)).toNat
  | 0x08 => r.ctrl.toNat
  | 0x10 => r.wr
  | 0x18 => r.rd
  | _ => r.dropped
/-- CTRL, TAIL and HEAD of a load queue (R422). -/
def readQueue (x : LoadQueue) (o : Nat) : Nat :=
  match o with
  | 0x08 => x.size + 32 * natOf x.en
  | 0x10 => x.tail
  | _ => x.head + 65536 * x.inflight.length
/-- CV_BARNe with RELEASED (R574). -/
def barnWord (s : State) (c e : Nat) : Nat :=
  let w := barnEntry s c e
  w + 2 ^ 39 * natOf (bitOf w 38 && !barnInUse s c w)
/-- A cove window (R362, R401, R421, R491, R571 to R575). -/
def readCv (s : State) (c o : Nat) : Nat :=
  let v := coveAt s c
  if 0x800 ≤ o ∧ o ≤ 0x820 then readRing s (c + 1) (o - 0x800)
  else if 0x908 ≤ o ∧ o ≤ 0x918 then readQueue v.lq (o - 0x900)
  else if 0xC00 ≤ o ∧ o < 0xD00 then barnWord s c ((o - 0xC00) / 8)
  else match o with
    | 0x00 => cvState s c
    | 0x08 => 2 * natOf v.stopReq + 4 * natOf v.holdReq
    | 0x18 => v.dies.toNat
    | 0x28 => word [(0, grantedUnits v), (16, (placedUnits s c).length), (32, (diesOf v).length)]
    | 0x30 => word [(0, v.variant), (4, v.vGen % 16), (8, v.vClock), (16, v.cores)]
    | 0x38 => s.recov.heartbeat
    | 0x88 => natOf v.clogEn
    | 0x90 => v.clogWr
    | 0x98 => v.clogRd
    | 0xA0 => v.clogLost
    | 0xB8 => v.forcedRefused.toNat
    | 0x200 => v.step.toNat
    | 0x218 => v.srCount
    | 0x220 => v.srMissed
    | 0x228 => satTo 32 v.skipRun + 2 ^ 32 * v.skipTotal
    | 0x238 => word [(0, v.digestStep % 65536), (16, v.mismatch), (24, v.missing)]
    | 0x280 => word [(0, natOf v.evalArm), (1, natOf v.evalDone), (2, natOf v.evalDeferred)]
    | 0x288 => v.evalStep.toNat
    | 0xA10 => v.ldigCount
    | 0xA18 => v.ldigMissed
    | 0xD08 => placeData s c
    | _ => (regAt s (cvReg c o)).toNat
/-- The HOST block (R568). -/
def readHost (s : State) (o : Nat) : Nat :=
  match o with
  | 0x00 => s.recov.heartbeat
  | 0x30 => s.host.hosterr.toNat
  | 0x38 => (regAt s 0x40038).toNat
  | _ => readRing s 0 (o - 8)
/-- The LOAD block (R421, R422). -/
def readLoad (s : State) (o : Nat) : Nat :=
  let conn := fun k => Sparse.get ConnMode.down s.load.conns k
  match o with
  | 0x08 => maskOf ((List.range 16).filter fun k => conn k == .connecting)
  | 0x10 => word ((List.range 16).map fun k =>
      (2 * k, match conn k with | .down => 0 | .connecting => 1 | .up => 2 | .failed => 3))
  | 0x108 => readQueue s.load.pq 0x08
  | 0x110 => readQueue s.load.pq 0x10
  | 0x118 => readQueue s.load.pq 0x18
  | _ => (regAt s (0x50000 + o)).toNat
/-- PHASE codes of R454. -/
def phaseCode : CkptPhase → Nat
  | .idle => 0 | .armed => 1 | .draining => 2 | .freezing => 3 | .frozen => 4 | .restoring => 5
/-- The CKPT block (R453, R454). -/
def readCkpt (s : State) (o : Nat) : Nat :=
  if o = 0 then
    maskOf ((List.range 16).filter fun c =>
      let k := (coveAt s c).ckpt
      k.phase == .draining || k.phase == .freezing || k.phase == .restoring || k.whole)
  else
    let c := (o - 0x100) / 0x100
    let k := (coveAt s c).ckpt
    match (o - 0x100) % 0x100 with
    | 0x00 => word [(0, natOf k.take), (1, natOf k.freeze), (2, natOf k.thaw), (3, natOf k.rollback),
        (4, natOf k.restore), (6, natOf k.adoptP), (7, natOf k.undoEn), (8, natOf k.writer)]
    | 0x08 => word [(0, phaseCode k.phase), (3, natOf k.torn), (4, natOf k.unguarded), (5, natOf k.done),
        (6, natOf k.failed), (8, k.code), (32, k.undoUsed)]
    | 0x38 => k.step.toNat
    | 0x40 => k.returnTick
    | 0x68 => k.offset
    | _ => (regAt s (0x60000 + o)).toNat
/-- FAB_STATUS (R281); a service port shows cause 7 (R245). -/
def fabStatus (s : State) (p : Nat) : Nat :=
  let q := portAt s p
  word [(0, portCode q.mode), (3, natOf q.present), (4, natOf q.rs), (5, natOf (isOptical s p)), (6, natOf q.miswire),
    (8, if isService s p && q.cause == 0 then 7 else q.cause), (32, q.changed % 2 ^ 32)]
/-- A symbol error ratio in parts per 10^12 as -10 log10 of the ratio, rounded up; an error-free interval has no figure
that the spec states (log entries 2 and 27), and before the first the register reads 0. -/
def serWord (s : State) (r : Option Nat) : Nat :=
  match r with
  | none => 0
  | some 0 => (Config.freeDWord s.free).toNat % 65536
  | some n => 120 - ((List.range 121).filter fun k => decide (10 ^ (k + 1) ≤ n ^ 10)).length
/-- A port window (R280 to R283). -/
def readFab (s : State) (o : Nat) : Nat :=
  let p := o / 0x200
  let q := portAt s p
  match o % 0x200 with
  | 0x00 => fabStatus s p
  | 0x08 => word [(0, natOf q.en), (1, natOf q.fecReq), (2, natOf q.hfence), (3, natOf (isOptical s p))]
  | 0x10 => q.partner.toNat
  | 0x18 => q.flight
  | 0x20 => q.linkTerm
  | 0x28 => q.cntCorr
  | 0x2C => q.cntUncorr
  | 0x30 => q.cntReplay
  | 0x34 => q.cntLate
  | 0x38 => q.cntRetrain
  | 0x3C => q.cntRefused
  | 0x40 => word [(0, q.eye0), (16, q.eye1)]
  | 0x48 => word [(0, serWord s q.ser0), (16, serWord s q.ser1)]
  | _ => q.wear
/-- The ROUTE block (R275). -/
def readRoute (s : State) (o : Nat) : Nat :=
  let i := s.fab.routeIndex.toNat
  match o with
  | 0x00 => natOf s.fab.routeBank
  | 0x08 => i
  | 0x10 => routeEntry s (bitOf i 16) (bitsOf i 15 0)
  | 0x18 => s.fab.routeTick.toNat
  | 0x20 =>
    let c := s.fab.routeCtrl
    word [(0, natOf c.arm), (1, natOf c.done), (2, natOf c.refused), (3, natOf c.reapply)]
  | _ => natOf (decide (s.tide.now < s.fab.routeWritten)) + 256 * s.fab.routeLag.length
/-- HEALTH_SHAPE (R490). -/
def healthShape (s : State) : Nat :=
  let frames := (List.range 1020).filter fun u =>
    (List.range 16).all fun st => !s.health.retired.contains (1024 * st + u)
  word [(0, s.health.shapeGen % 65536), (16, ((List.range 64).filter fun d => !dieFenced s d).length),
    (23, ((List.range 256).filter fun k => clusterUsable s k).length), (32, frames.length),
    (43, natOf s.health.stackFailed.isEmpty)]
/-- Ports of a half that are neither fenced nor absent. -/
def portsUsable (s : State) (base : Nat) : Nat :=
  maskOf ((List.range 64).filter fun p =>
    (portAt s (base + p)).mode != .fenced && (portAt s (base + p)).mode != .absent)
/-- Score and sum of the unit at HEALTH_WEAR_INDEX. -/
def wearData (s : State) : Nat :=
  let i := (regAt s 0xA8060).toNat
  let kind := bitsOf i 2 0
  let n := bitsOf i 14 8
  if wearUnits kind ≤ n then 0
  else Sparse.get 0 s.health.wear (kind * 128 + n) + 2 ^ 32 * Sparse.get 0 s.health.wearSum (kind * 128 + n)
/-- The HEALTH block in a function's view (R489, R490, R525, R534, R535). -/
def readHealth (s : State) (fn o : Nat) : Nat :=
  let r := ringAt s (ringOf s fn)
  match o with
  | 0x8000 => healthShape s
  | 0x8008 => maskOf ((List.range 64).filter fun d => !dieFenced s d)
  | 0x8030 => word [(0, maskOf ((List.range 16).filter (shoreLive s ·))),
      (16, maskOf ((List.range 16).filter fun n => !s.health.stackFailed.contains n)),
      (32, if s.cu then 0 else maskOf ((List.range 16).filter fun n => Sparse.get 0 s.health.opticFence n == 0))]
  | 0x8038 => portsUsable s 0
  | 0x8040 => portsUsable s 64
  | 0x8050 => word [(0, natOf s.health.chaffEn), (8, s.health.suspectLimit)]
  | 0x8058 => word [(0, satTo 32 s.health.compared), (32, satTo 16 s.health.mismatch), (48, satTo 16 s.health.missed)]
  | 0x8068 => wearData s
  | 0x8078 => (ledgerData s).toNat
  | 0x9000 => r.wr
  | 0x9008 => r.rd
  | 0x9020 => word [(0, satTo 32 r.coalesced),
      (32, satTo 16 (s.trace.summaries.filter fun e => e.1 == ringOf s fn).length), (48, satTo 16 r.lost)]
  | 0xA000 => s.trace.snap.tick
  | 0xA010 => (counterData s fn).toNat
  | 0xA030 => (sourceData s fn).toNat
  | _ =>
    if 0x8010 ≤ o ∧ o < 0x8030 then
      maskOf ((List.range 64).filter fun k => clusterUsable s (64 * ((o - 0x8010) / 8) + k))
    else if o = 0x9018 ∨ o = 0xA020 ∨ o = 0x8048 then 0
    else (regAt s (viewReg fn (0xA0000 + o))).toNat
/-- The TRACE block in a function's view (R541, R542, R548, R549). -/
def readTrace (s : State) (fn o : Nat) : Nat :=
  let t := waitTraceAt s ((o - 0x100) / 0x40)
  if 0x100 ≤ o then
    match (o - 0x100) % 0x40 with
    | 0x00 => t.ctrl.toNat
    | 0x18 => t.wr
    | 0x20 => t.rd
    | 0x28 => t.dropped
    | _ => (regAt s (0xB0000 + o)).toNat
  else match o with
    | 0x00 => s.trace.slSeq
    | 0x08 => s.trace.slDurable
    | 0x20 => 0
    | 0x28 => word [(0, natOf (Sparse.get none s.trace.fetches (2 * 32 + fn)).isSome), (1, natOf s.trace.slFail),
        (2, natOf s.trace.slRebuilt), (8, satTo 8 s.trace.slMaxQueue), (32, s.trace.slCoalesced)]
    | _ => (regAt s (viewReg fn (0xB0000 + o))).toNat
/-- RECOV_STATUS (R524); every field reads 0 while no recovery is in progress. -/
def recovStatus (s : State) : Nat :=
  match s.recov.current with
  | some r => word [(0, 1), (1, r.rung), (4, min r.cove 15), (8, natOf r.testing.isSome), (9, r.testing.getD 0),
      (32, r.start % 2 ^ 32)]
  | none => 0
/-- The cove waits in the recovery queue. -/
def isQueued (s : State) (c : Nat) : Bool := s.recov.queue.any fun q => q.cove == c
/-- The RECOV block (R523, R524). -/
def readRecov (s : State) (o : Nat) : Nat :=
  let held := maskOf ((List.range 8).filter fun k => (Sparse.get none s.recov.wracks k).isSome)
  if 0x100 ≤ o then
    let c := (o - 0x100) / 8
    let x := recovAt s c
    word [(0, x.rung), (3, natOf x.active), (4, natOf (x.contained && isQueued s c)), (8, x.cause),
      (16, satTo 16 x.count), (32, x.tick % 2 ^ 32)]
  else match o with
    | 0x00 => recovStatus s
    | 0x10 => word [(0, natOf s.recov.autoCove), (1, natOf s.recov.autoMod)]
    | 0x18 => word [(0, s.recov.headland), (8, satTo 8 s.recov.moves)]
    | 0x20 => lastReset s
    | 0x28 => maskOf ((List.range 16).filter (isQueued s ·))
    | 0x30 => word [(0, held), (8, s.recov.wrackNewest), (16, satTo 16 s.recov.wrackMissed)]
    | 0x38 => held
    | 0x40 => (regAt s 0xC0040).toNat
    | _ => 0
/-- FW_STATUS (R577, R593). -/
def fwStatus (s : State) : Nat :=
  let r := s.fw.bootRec
  let n := slotCount r r.next
  word [(0, s.fw.running), (1, r.next), (2, natOf r.fallback),
    (3, if r.next = s.fw.running ∧ ¬ s.fw.passed then n - 1 else n), (5, natOf s.fw.busy.isSome),
    (8, storeSchema s.fw.taken), (16, match s.fw.image with | some i => imgSchemaHigh i | none => 0)]
/-- FW_VER_A and FW_VER_B. -/
def slotVersion (s : State) (slot : Nat) : Nat :=
  match slotValid s slot, slotImage s slot with
  | true, some i => imgVersion i
  | _, _ => 0
/-- The FW block (R577). -/
def readFw (s : State) (o : Nat) : Nat :=
  match o with
  | 0x00 => fwStatus s
  | 0x08 => slotVersion s 0
  | 0x10 => slotVersion s 1
  | 0x30 => s.fw.result.toNat
  | 0x28 => 0
  | _ => (regAt s (0xD0000 + o)).toNat
/-- The PWR block (R576). -/
def readPwr (s : State) (o : Nat) : Nat :=
  match o with
  | 0x00 => pwrStatus s
  | 0x08 => s.pwr.cap
  | 0x10 => pwrInput s
  | 0x18 => pwrThermal s
  | _ => s.pwr.energy * 1048576 / 1000000000
/-- Core and context that DIE_SAVE_SEL selects. -/
def saveSel (s : State) (d : Nat) : Nat × Nat :=
  let v := (regAt s (0x101_0000 + 0x4_0000 * d)).toNat
  (16 * d + bitsOf v 3 0, bitsOf v 5 4)
/-- DIE_SAVE_STATE.VALID: the context holds a window and is not running, so that its image is its last save. -/
def saveValid (s : State) (core k : Nat) : Bool :=
  decide (0 < (ctxAt s core k).winCount) && (ctxAt s core k).mode != .empty
    && (clusterAt s (clusterOf core)).owner != some k
/-- A die window (R579). -/
def readDie (s : State) (d o : Nat) : Nat :=
  let core := 16 * d + (o - 0x1000) / 0x100
  let t := Sparse.get DieTelem.reset s.pwr.telem d
  let sel := saveSel s d
  let x := ctxAt s sel.1 sel.2
  if 0x2_0000 ≤ o then
    if saveValid s sel.1 sel.2 then
      leVal (memRead (coreAt s sel.1).scratch (winAddr x (scratchLimit x) + (o - 0x2_0000)) 4)
    else 0
  else if o = 0x1_0000 then (regAt s (0x101_0000 + 0x4_0000 * d)).toNat
  else if o = 0x1_0008 then natOf (saveValid s sel.1 sel.2)
  else if 0x1000 ≤ o then
    if (o - 0x1000) % 0x100 = 0 then
      word [(0, ((clusterAt s (clusterOf core)).owner).getD 5), (3, natOf (Sparse.get 0 s.health.coreFence core != 0)),
        (4, maskOf ((List.range 4).filter fun k => decide (0 < (ctxAt s core k).winCount)))]
    else (ctxAt s core ((o - 0x1008) % 0x100 / 8)).pc % 2 ^ 14
  else if o = 8 then
    word [(0, t.vcore % 65536), (16, t.icore % 65536), (32, signedIn 8 t.temp), (40, signedIn 8 t.peak),
      (48, signedIn 16 t.margin)]
  else
    let c := coveOfDie s d
    word [(0, c.getD 0), (4, natOf c.isSome), (5, natOf (dieFenced s d)),
      (6, maskOf ((List.range 4).filter fun k => clusterUsable s (4 * d + k))), (10, clockOf s d)]
/-- What the register at a physical-function offset reads in a function's view. -/
def regRead (s : State) (fn a : Nat) : Nat :=
  let o := a % 0x10000
  match a / 0x10000 with
  | 0x0 => readMod s o
  | 0x1 => readTide s o
  | 0x2 => readCv s (o / 0x1000) (o % 0x1000)
  | 0x4 => readHost s o
  | 0x5 => readLoad s o
  | 0x6 => readCkpt s o
  | 0x7 => readFab s o
  | 0x8 => readRoute s o
  | 0xA => readHealth s fn o
  | 0xB => readTrace s fn o
  | 0xC => readRecov s o
  | 0xD => readFw s o
  | 0xE => readPwr s o
  | _ => readDie s ((a - 0x100_0000) / 0x4_0000) (a % 0x4_0000)

end Sys2Proof.Machine
end

