-- ==== Sys2Proof/Machine/Host.lean ====
section
/-!
DEFINITION. The host interface: register access, status rings, the one-start override, configuration space, the
link, Function Level Resets and power states (R22 to R24, R553 to R570, R573, R581, R590).
-/
namespace Sys2Proof.Machine

/-- The state that a meaning answers. -/
def after (s : State) (r : Result) : State :=
  match r with
  | .next t => t
  | .fault _ => s
  | .refused _ => s

/-! ### Status rings (R562, R566, R569) -/

/-- An episode of a full pending store ends when a place is free. -/
def ringSettle (s : State) (fn : Nat) : State :=
  if storeFull s fn then s else updRing s fn fun r => { r with fullEpisode := false }
/-- BAR offset of a register of ring `ring` for a writer; `o` is its distance from BASE. -/
def ringOff (ring fn o : Nat) : Nat :=
  if ring = 0 then 0x40008 + o else barOff (ring - 1) fn (0x800 + o)
/-- A write of a ring's CTRL: setting EN sets WR and RD to 0, and waiting lines are written. -/
def writeRingCtrl (s : State) (ring : Nat) (value : Word) : State :=
  let s := updRing s ring fun r =>
    let n := { r with ctrl := value &&& 0xFF#32 }
    if value.getLsbD 5 && !r.ctrl.getLsbD 5 then { n with wr := 0, rd := 0 } else n
  ringSettle (drainLines 64 s ring) ring
/-- A write of a ring's RD: above WR or below the current RD it is refused; else lines are consumed, room for
waiting lines may come, and an episode of dropped notices ends. -/
def writeRingRd (s : State) (ring fn : Nat) (value : DWord) : State :=
  let r := (fnAt s ring).ring
  if r.wr < value.toNat ∨ value.toNat < r.rd then hostError s fn 2 (ringOff ring fn 0x18)
  else ringSettle (drainLines 64 (updRing s ring fun r => { r with rd := value.toNat, dropEpisode := false }) ring) ring
/-- R562, SRING_ENABLE: a write of the function's own ring CTRL. -/
def effectSringEnable (fn : Nat) (value : Word) (s : State) : Result :=
  .next (if 17 ≤ fn then s else writeRingCtrl s fn value)
/-- R566, SRING_RD_WRITE. -/
def effectSringRdWrite (fn : Nat) (value : DWord) (s : State) : Result :=
  .next (if 17 ≤ fn then s else writeRingRd s fn fn value)
/-- R562, STATUS_LINE_WRITE: the oldest waiting line is written once the ring can take it. -/
def execStatusLineWrite (fn : Nat) (s : State) : Result :=
  .next (if 17 ≤ fn then s else ringSettle (drainLines 1 s fn) fn)

/-! ### The one-start override (R590) -/

/-- Copy the role, root and epoch registers into a command record with the override present. -/
def copyOverride (s : State) : State :=
  appendRec s 4 fun r =>
    { r with override := true, ovCtrl := s.tide.ctrl &&& 0xFFFF_0003#64, ovEpoch := s.tide.epoch }
/-- R590, TIDE_OVERRIDE_WRITE: TIDE_CTRL for `which` 0, else TIDE_EPOCH. HOLD acts at once. -/
def effectTideOverrideWrite (which : Nat) (value : DWord) (s : State) : Result :=
  .next (copyOverride { s with tide :=
    if which = 0 then { s.tide with ctrl := value &&& 0xFFFF_FFFF_0003#64 }
    else { s.tide with epoch := value &&& 0xFFFF_FFFF_FFF0_0000#64 } })

/-! ### Register writes, block by block -/

/-- Keep the bits of a mask in a plain register. -/
def setMasked (s : State) (a v mask : Nat) : State := setReg s a (BitVec.ofNat 64 (v &&& mask))
/-- Bits `hi` to `lo` as a mask. -/
def maskFor (hi lo : Nat) : Nat := 2 ^ (hi + 1) - 2 ^ lo
/-- R571: a virtual function may write the register of its window. -/
def vfMay (o : Nat) : Bool :=
  [0x08, 0x208, 0x210, 0x280, 0x900, 0x908, 0x910, 0xA00, 0xA08, 0xD00].contains o
    || (decide (0x60 ≤ o) && decide (o < 0xC0)) || (decide (0x300 ≤ o) && decide (o < 0x400))
    || (decide (0x800 ≤ o) && decide (o < 0x828)) || (decide (0xB00 ≤ o) && decide (o < 0xC00))
/-- A cove window: `off` is the offset in the writer's BAR. -/
def writeCv (s : State) (fn c o off v : Nat) : State :=
  let w := BitVec.ofNat 32 v
  let d := BitVec.ofNat 64 v
  let plain := fun mask => setMasked s (cvReg c o) v mask
  if fn ≠ 0 ∧ ¬ vfMay o then hostError s fn 3 off
  else if inRow o 0x40 8 4 then after s (effectCvJobtagWrite c fn ((o - 0x40) / 8) w s)
  else if inRow o 0x60 8 4 then
    if (coveAt s c).mode = .running then hostError s fn 2 off else plain (maskFor 63 0)
  else if inRow o 0x100 8 32 then after s (effectCvUmapWrite c fn ((o - 0x100) / 8) d s)
  else if inRow o 0x248 8 7 ∨ inRow o 0x920 8 7 then plain (maskFor 16 0)
  else if inRow o 0x300 8 32 ∨ inRow o 0x400 8 128 then plain (if o % 32 = 24 then 1 else maskFor 63 0)
  else if inRow o 0xB00 8 32 then
    plain (if o % 16 = 0 then maskFor 55 0 + maskFor 63 61 else maskFor 63 12)
  else if inRow o 0xC00 8 32 then after s (effectCvBarnWrite c fn ((o - 0xC00) / 8) d s)
  else match o with
    | 0x08 => writeCvCtrl s c fn w
    | 0x10 => after s (effectCvDiesWrite c fn d s)
    | 0x20 => after s (effectCvQuotaWrite c fn d s)
    | 0x80 => plain (maskFor 63 12)
    | 0x88 => after s (effectCvClogCtrlEnable c fn w s)
    | 0x98 => after s (effectCvClogRdWrite c fn d s)
    | 0xA8 => plain (maskFor 63 12)
    | 0xB0 => plain (maskFor 31 8 + 1)
    | 0x208 => plain (maskFor 63 12)
    | 0x210 => after s (effectCvSrCtrlEnable c fn w s)
    | 0x230 => plain (maskFor 18 0)
    | 0x240 => plain (maskFor 63 15)
    | 0x280 => after s (effectCvEvalCtrlArm c fn w s)
    | 0x800 => plain (maskFor 63 6)
    | 0x808 => writeRingCtrl s (c + 1) w
    | 0x818 => writeRingRd s (c + 1) fn d
    | 0x900 => plain (maskFor 63 6)
    | 0x908 => after s (effectLoadQueueEnable c fn w s)
    | 0x910 => after s (effectLoadQueueDoorbell c fn w s)
    | 0xA00 => after s (effectCvLdigCtrlEnable c fn w s)
    | 0xA08 => plain (maskFor 63 12)
    | 0xD00 => plain (maskFor 9 0)
    | _ => s
/-- The TIDE block. -/
def writeTide (s : State) (o v : Nat) : State :=
  let w := BitVec.ofNat 32 v
  let d := BitVec.ofNat 64 v
  let c := (o - 0x800) / 0x40
  if 0x1000 ≤ o then { s with tide := { s.tide with asym := Sparse.set 0#32 s.tide.asym ((o - 0x1000) / 4) w } }
  else if 0x800 ≤ o then
    match (o - 0x800) % 0x40 with
    | 0x08 => updCoveTide s c fun t => { t with switchTick := d }
    | 0x10 => writeCswitch s c w
    | 0x28 => after s (effectTideCRestartWrite c d 0 s)
    | _ => s
  else match o with
    | 0x10 => after s (effectTideOverrideWrite 0 d s)
    | 0x18 => { s with tide := { s.tide with parents := w } }
    | 0x28 => after s (effectTideOverrideWrite 1 d s)
    | 0x38 => { s with tide := { s.tide with mhdr := w &&& 0x3F1F#32 } }
    | 0x40 => { s with tide := { s.tide with mswitchTick := d } }
    | 0x48 => writeMswitch s w
    | 0x50 => { s with tide := { s.tide with index := w &&& 0x00FFF3F7#32 } }
    | 0x58 => after s (effectTideDataWrite d s)
    | _ => s
/-- The LOAD block. The descriptor that a CONNECT bit reads is in host memory: its bytes are free here, and come with the
row of LOAD_CONN_CONNECT (log entry 3). -/
def writeLoad (s : State) (o v : Nat) : State :=
  match o with
  | 0x00 => setMasked s 0x50000 v (maskFor 63 6)
  | 0x08 =>
    let s := forEach s (bitsSet v 16) fun s k =>
      freeTick (after s (effectLoadConnConnect k (unseen s 512) (bitOf (Config.freeDWord s.free).toNat 0) s))
    forEach s (bitsSet (v / 65536) 16) fun s k => after s (effectLoadConnDisconnect k s)
  | 0x100 => setMasked s 0x50100 v (maskFor 63 6)
  | 0x108 => after s (effectLoadQueueEnable 16 0 (BitVec.ofNat 32 v) s)
  | 0x110 => after s (effectLoadQueueDoorbell 16 0 (BitVec.ofNat 32 v) s)
  | _ => s
/-- The writable fields of a CKPT window's plain registers. -/
def ckptMask : Nat → Option Nat
  | 0x10 => some (maskFor 63 6)
  | 0x18 => some (maskFor 51 0)
  | 0x20 => some (maskFor 31 0)
  | 0x28 => some (maskFor 51 0 + 2 ^ 63)
  | 0x30 => some (maskFor 31 0)
  | 0x48 => some (maskFor 63 12)
  | 0x50 => some (maskFor 31 0)
  | 0x58 => some (maskFor 63 0)
  | 0x60 => some (maskFor 63 0)
  | 0x70 => some (maskFor 63 0)
  | 0x78 => some (maskFor 16 0)
  | _ => none
/-- CKPT_C_STATUS: the write-one fields. -/
def clearCkptStatus (s : State) (c v : Nat) : State :=
  updCkpt s c fun k =>
    { k with torn := k.torn && !bitOf v 3, done := k.done && !bitOf v 5, failed := k.failed && !bitOf v 6 }
/-- A register of a cove's CKPT window, by its place in the window. -/
def writeCkptWindow (s : State) (c r o v : Nat) : State :=
  match r with
  | 0x00 => writeCkptPlain s c (BitVec.ofNat 32 v)
  | 0x08 => clearCkptStatus s c v
  | 0xC0 => after s (effectCkptStandinWrite c (BitVec.ofNat 32 v) s)
  | _ => match ckptMask r with
    | some m => setMasked s (0x60000 + o) v m
    | none => s
/-- The CKPT block. -/
def writeCkptBlock (s : State) (o v : Nat) : State :=
  let c := (o - 0x100) / 0x100
  let r := (o - 0x100) % 0x100
  if o < 0x100 then s
  else if inRow r 0x80 8 8 then after s (effectCkptRemapWrite (8 * c + (r - 0x80) / 8) (BitVec.ofNat 64 v) s)
  else writeCkptWindow s c r o v
/-- The ROUTE block. -/
def writeRoute (s : State) (o v : Nat) : State :=
  match o with
  | 0x08 => { s with fab := { s.fab with routeIndex := BitVec.ofNat 32 (v % 2 ^ 17) } }
  | 0x10 => after s (effectRouteDataWrite (BitVec.ofNat 64 v) s)
  | 0x18 => { s with fab := { s.fab with routeTick := BitVec.ofNat 64 v } }
  | 0x20 => writeRouteCtrl s (BitVec.ofNat 32 v)
  | _ => s
/-- HEALTH_CHAFF_CTRL (R490): clearing EN stops every chaff run and directed check. -/
def writeChaff (s : State) (v : Nat) : State :=
  let h := { s.health with chaffEn := bitOf v 0, suspectLimit := bitsOf v 15 8 }
  { s with health := if bitOf v 0 then h else { h with directed := [], arbs := [], posts := [] } }
/-- The HEALTH block in a function's view. -/
def writeHealth (s : State) (fn o v : Nat) : State :=
  let w := BitVec.ofNat 32 v
  let plain := fun mask => setMasked s (viewReg fn (0xA0000 + o)) v mask
  match o with
  | 0x8048 => writeFenceCmd s w
  | 0x8050 => writeChaff s v
  | 0x8060 => plain (maskFor 2 0 + maskFor 14 8)
  | 0x8070 => plain (maskFor 13 0)
  | 0x9008 => after s (effectHealthErrRdWrite fn (BitVec.ofNat 64 v) s)
  | 0x9010 => plain (maskFor 63 6)
  | 0x9018 => after s (effectHealthErrFetch fn w s)
  | 0x9028 => if fn = 0 then plain (maskFor 4 0) else s
  | 0xA008 => plain (maskFor 24 0)
  | 0xA018 => plain (maskFor 63 6)
  | 0xA020 => after s (effectHealthCntFetch fn w s)
  | 0xA028 => plain (maskFor 26 0)
  | _ => s
/-- The TRACE block in a function's view. -/
def writeTrace (s : State) (fn o v : Nat) : State :=
  let c := (o - 0x100) / 0x40
  if 0x100 ≤ o then
    match (o - 0x100) % 0x40 with
    | 0x00 => after s (effectTraceCWtCtrlWrite c fn (BitVec.ofNat 32 v) s)
    | 0x08 => setMasked s (0xB0000 + o) v (maskFor 31 0)
    | 0x10 => setMasked s (0xB0000 + o) v (maskFor 63 12)
    | 0x20 => after s (effectTraceCWtRdWrite c fn (BitVec.ofNat 64 v) s)
    | _ => s
  else match o with
    | 0x10 => setMasked s (viewReg fn 0xB0010) v (maskFor 63 0)
    | 0x18 => setMasked s (viewReg fn 0xB0018) v (maskFor 63 6)
    | 0x20 => after s (effectTraceSlFetch fn (BitVec.ofNat 32 v) s)
    | _ => s
/-- The RECOV block. -/
def writeRecov (s : State) (o v : Nat) : State :=
  match o with
  | 0x08 => writeRecovCmd s (BitVec.ofNat 32 v)
  | 0x10 => { s with recov := { s.recov with autoCove := bitOf v 0, autoMod := bitOf v 1 } }
  | 0x38 => after s (effectRecovWrackFree (BitVec.ofNat 32 v) s)
  | 0x40 => setMasked s 0xC0040 v (maskFor 63 6)
  | 0x48 => after s (effectRecovWrackCopy (BitVec.ofNat 32 v) s)
  | _ => s
/-- A free bit of what the block does not see. -/
def freeBit (s : State) (n : Nat) : Bool := bitOf (Config.freeDWord s.free).toNat n
/-- FW_CMD. The buffer that operations 1 and 2 read is in host memory: its bytes and their checks are free here, and come with
the rows of those operations (log entry 3). A reserved operation ends with code 2. -/
def writeFwCmd (s : State) (v : Nat) : State :=
  match bitsOf v 3 0 with
  | 1 =>
    let image : FwImage := ⟨unseen s 4096, freeBit s 1, freeBit s 2, if freeBit s 3 then [] else [1]⟩
    freeTick (after s (effectFwWriteImage (bitsOf v 4 4) image (freeBit s 0) s))
  | 2 => freeTick (after s (effectFwWriteSettings (unseen s (min 131072 (fwLen s))) (freeBit s 0) s))
  | 3 => after s (effectFwReadSettings s)
  | 4 => after s (effectFwSelectSlot (bitsOf v 4 4) s)
  | 5 => after s (effectFwLiveUpdate s)
  | 6 => after s (effectFwSafeHarbourRequest s)
  | op => startFw s (plainFw op 2 (bitsOf v 4 4))
/-- A write of the whole register at a physical-function offset: `off` is its offset in the writer's BAR. A read-only
or reserved one ignores it. -/
def regWrite (s : State) (fn a off v : Nat) : State :=
  let o := a % 0x10000
  match a / 0x10000 with
  | 0x0 => if o = 0x38 then setMasked s 0x38 v (maskFor 63 0) else s
  | 0x1 => writeTide s o v
  | 0x2 => writeCv s fn (o / 0x1000) (o % 0x1000) off v
  | 0x4 => (match o with
      | 0x08 => setMasked s 0x40008 v (maskFor 63 6)
      | 0x10 => writeRingCtrl s 0 (BitVec.ofNat 32 v)
      | 0x20 => writeRingRd s 0 fn (BitVec.ofNat 64 v)
      | 0x38 => setMasked s 0x40038 v (maskFor 63 0)
      | _ => s)
  | 0x5 => writeLoad s o v
  | 0x6 => writeCkptBlock s o v
  | 0x7 => if o % 0x200 = 8 then writeFabCtrl s (o / 0x200) (BitVec.ofNat 32 v) else s
  | 0x8 => writeRoute s o v
  | 0xA => writeHealth s fn o v
  | 0xB => writeTrace s fn o v
  | 0xC => writeRecov s o v
  | 0xD => (match o with
      | 0x18 => setMasked s 0xD0018 v (maskFor 63 6)
      | 0x20 => setMasked s 0xD0020 v (maskFor 31 0)
      | 0x28 => writeFwCmd s v
      | _ => s)
  | 0xE => if o = 8 then { s with pwr := { s.pwr with cap := max 1500 (min 7200 (bitsOf v 12 0)) } } else s
  | b => if 0x100 ≤ b ∧ a % 0x4_0000 = 0x1_0000 then setMasked s a v (maskFor 5 0) else s

/-! ### Accesses (R22, R23, R560, R561) -/

/-- The register that a 32-bit access reaches: the physical function's offset, whether the access is to the upper half
of a 64-bit register, and its width. -/
inductive Half
  | none
  | reserved
  | whole (a : Nat)
  | lower (a : Nat)
  | upper (a : Nat)
  deriving DecidableEq, Repr
/-- Where a 32-bit access of a function lands. -/
def halfAt (fn off : Nat) : Half :=
  match pfOffset fn off with
  | .none => .none
  | .some a =>
    if regWidth a = 64 then .lower a
    else if regWidth a = 32 then .whole a
    else if a % 8 = 4 ∧ regWidth (a - 4) = 64 then .upper (a - 4)
    else .reserved
/-- R23: an access of a function to the register at `reg` discards a lower half held for another register, a
host-access error of kind 5. -/
def dropHeld (s : State) (fn reg : Nat) : State :=
  match (fnAt s fn).writeHeld with
  | some (o, _) => if o = reg then s else hostError (updFn s fn fun f => { f with writeHeld := none }) fn 5 o
  | none => s
/-- Side effects of a read: the index of HEALTH_LEDGER_DATA or CV_PLACE_DATA advances. -/
def readEffect (s : State) (fn a : Nat) : State :=
  if a = 0xA8078 then after s (effectHealthLedgerDataRead s)
  else if a / 0x10000 = 2 ∧ a % 0x1000 = 0xD08 then after s (effectCvPlaceDataRead (a % 0x10000 / 0x1000) fn s)
  else s
/-- A 32-bit read: its value and the state after. -/
def read32 (s : State) (fn off : Nat) : Nat × State :=
  match halfAt fn off with
  | .none => (0, s)
  | .reserved => (0, s)
  | .whole a =>
    let s := dropHeld s fn off
    (regRead s fn a, readEffect s fn a)
  | .lower a =>
    let s := dropHeld s fn off
    let v := regRead s fn a
    (v % 2 ^ 32, updFn (readEffect s fn a) fn fun f => { f with readLatch := some (off, BitVec.ofNat 32 (v / 2 ^ 32)) })
  | .upper a =>
    let s := dropHeld s fn (off - 4)
    match (fnAt s fn).readLatch with
    | some (o, h) =>
      if o = off - 4 then (h.toNat, updFn s fn fun f => { f with readLatch := none })
      else (regRead s fn a / 2 ^ 32, s)
    | none => (regRead s fn a / 2 ^ 32, s)
/-- An aligned read of 4 or 8 bytes. -/
def readBar (s : State) (fn off size : Nat) : Nat × State :=
  if size = 4 then read32 s fn off
  else match halfAt fn off with
    | .lower a =>
      let s := dropHeld s fn off
      (regRead s fn a, readEffect s fn a)
    | _ =>
      let lo := read32 s fn off
      let hi := read32 lo.2 fn (off + 4)
      (lo.1 + hi.1 * 2 ^ 32, hi.2)
/-- The stored lower half of a register for an upper-half write alone: write-one fields count as 0 (R23). -/
def lowNow (s : State) (fn a : Nat) : Nat :=
  if a / 0x10000 = 6 ∧ 0x60100 ≤ a ∧ a % 0x100 = 8 then 0 else regRead s fn a % 2 ^ 32
/-- A 32-bit write. -/
def write32 (s : State) (fn off v : Nat) : State :=
  match halfAt fn off with
  | .none => hostError s fn 2 off
  | .reserved => s
  | .whole a => regWrite (dropHeld s fn off) fn a off v
  | .lower _ => updFn (dropHeld s fn off) fn fun f => { f with writeHeld := some (off, BitVec.ofNat 32 v) }
  | .upper a =>
    match (fnAt s fn).writeHeld with
    | some (o, lo) =>
      let s' := updFn s fn fun f => { f with writeHeld := none }
      if o = off - 4 then regWrite s' fn a (off - 4) (lo.toNat + v * 2 ^ 32)
      else
        let s := dropHeld s fn (off - 4)
        regWrite s fn a (off - 4) (lowNow s fn a + v * 2 ^ 32)
    | none => regWrite s fn a (off - 4) (lowNow s fn a + v * 2 ^ 32)
/-- An aligned write of 4 or 8 bytes. -/
def writeBar (s : State) (fn off size v : Nat) : State :=
  if size = 4 then write32 s fn off (v % 2 ^ 32)
  else match halfAt fn off with
    | .lower a =>
      let s := updFn (dropHeld s fn off) fn fun f => { f with writeHeld := none }
      regWrite s fn a off v
    | _ => write32 (write32 s fn off (v % 2 ^ 32)) fn (off + 4) (v / 2 ^ 32)
/-- A naturally aligned access of 4 or 8 bytes (R22). -/
def goodAccess (off size : Nat) : Bool := (size == 4 || size == 8) && off % size == 0
/-- The data that a read returns. -/
def answer (s : State) (v : Nat) : State := { s with host := { s.host with readData := BitVec.ofNat 64 v } }
/-- All ones in the size of a read. -/
def allOnes (size : Nat) : Nat := if size = 4 then 2 ^ 32 - 1 else 2 ^ 64 - 1
/-- R22, REGISTER_WRITE. -/
def effectRegisterWrite (fn offset size : Nat) (value : DWord) (s : State) : Result :=
  .next (if goodAccess offset size then writeBar s fn offset size value.toNat else hostError s fn 1 offset)
/-- R22, R23, REGISTER_READ. -/
def effectRegisterRead (fn offset size : Nat) (s : State) : Result :=
  .next (if goodAccess offset size then
    let r := readBar s fn offset size
    freeTick (answer r.2 r.1)
  else answer (hostError s fn 1 offset) (allOnes size))

/-! ### Functions (R555) -/

/-- The function exists: the physical one, or a virtual one that is enabled. -/
def fnPresent (s : State) (fn : Nat) : Bool := fn == 0 || (s.host.vfEnable && decide (fn ≤ s.host.numVfs))
/-- Change VF Enable and NumVFs: event 0xB004 when either differs. -/
def setVfs (s : State) (en : Bool) (n : Nat) : State :=
  if s.host.vfEnable = en ∧ s.host.numVfs = n then s
  else recordHead { s with host := { s.host with vfEnable := en, numVfs := n } } 0xB004 .corrected []
/-! ### Link, Function Level Resets and power states (R557, R581) -/

/-- A load queue stops: entries in flight end with the aborted status (event 0x8007); with `lines`, their lines wait
in the pending store, else their places are freed. Its registers take their reset values. -/
def stopQueue (s : State) (q : Nat) (lines : Bool) : State :=
  let s := forEach s (queueAt s q).inflight fun s x =>
    if lines then endLoad s q { x with status := 0x0A }
    else
      let s := recordCove s 0x8007 .corrected x.entry.cove []
      updRing s (queueFn q) fun r => { r with reserved := r.reserved - 1 }
  let s := updQueue s q fun _ => LoadQueue.reset
  if 16 ≤ q then setReg s 0x50100 0#64
  else forEach s (0x900 :: (List.range 7).map (0x920 + 8 * ·)) fun s o => setReg s (cvReg q o) 0#64
/-- A status ring stops; its lines and reserved places stay in the pending store. -/
def stopRing (s : State) (fn : Nat) : State :=
  setReg (updRing s fn fun r => { r with ctrl := 0#32, wr := 0, rd := 0, dropped := 0, dropEpisode := false })
    (ringBaseReg fn) 0#64
/-- A cove's host-window table clears. -/
def stopWindow (s : State) (c : Nat) : State :=
  forEach s ((List.range 32).map (0xB00 + 8 * ·)) fun s o => setReg s (cvReg c o) 0#64
/-- A descriptor's transfer has a side in the host-memory window of its cove. -/
def hostSide (s : State) (c : Nat) (loc : Bool) (addr : Nat) : Bool :=
  !loc && match resolve s c addr with
    | .here a _ => (match placeOf a with | .host _ => true | _ => false)
    | .away _ _ => false
    | .absent => false
/-- R557: a cove's host-window descriptors in flight end with the unreachable status. -/
def endHostWains (s : State) (c : Nat) : State :=
  forEach s ((List.range 1024).filter fun core => coveOfCore s core == some c) fun s core =>
    forEach s (List.range 4) fun s k => forEach s (ctxAt s core k).wainQ fun s d =>
      if d.moved < d.len ∧ ((d.op == 0 && hostSide s c d.localSrc (d.src.toNat + d.moved))
          || hostSide s c d.localDst (d.dst.toNat + d.moved)) then failWain s core k d.seq .unreachable else s
/-- Configuration space and the halves of a function return to reset. -/
def resetFn (s : State) (fn : Nat) : State :=
  updFn s fn fun f => { f with readLatch := none, writeHeld := none, config := [], d3hot := false }
/-- R557, PCIE_LINK_RESET: PERST#, hot reset or link down; event 0xB002. -/
def execPcieLinkReset (s : State) : Result :=
  let s := { s with host := { s.host with linkUp := false } }
  let s := forEach s (List.range 17) fun s fn => stopRing (resetFn s fn) fn
  let s := forEach s (List.range 17) fun s q => stopQueue s q true
  let s := forEach s (List.range 16) fun s c => stopWindow (endHostWains s c) c
  let s := forEach s (List.range 16) fun s k => after s (effectLoadConnDisconnect k s)
  let s := setReg s 0x50000 0#64
  .next (recordHead (setVfs s false 0) 0xB002 .corrected [])
/-- R581, PCIE_LINK_UP: the link comes up with its rate in GT/s and its width; event 0xB001. -/
def execPcieLinkUp (rate width : Nat) (s : State) : Result :=
  .next (if !s.pwr.powerGood || s.host.linkUp then s
    else
      let s := { s with host := { s.host with linkUp := true, rate := rate, width := width } }
      recordHead s 0xB001 .corrected [rate, width])
/-- R557, VF_FLR: event 0xB003. -/
def execVfFlr (fn : Nat) (s : State) : Result :=
  .next (if fn = 0 ∨ 17 ≤ fn ∨ ¬ fnPresent s fn then s
    else
      let s := stopQueue (stopRing (resetFn s fn) fn) (fn - 1) false
      recordHead (stopWindow (endHostWains s (fn - 1)) (fn - 1)) 0xB003 .corrected [fn])
/-- R557, PF_FLR: a module reset with reset kind 5; event 0xB003. -/
def execPfFlr (s : State) : Result :=
  .next (if !s.pwr.powerGood || s.fw.romHold then s
    else moduleReset (setVfs (recordHead s 0xB003 .corrected [0]) false s.host.numVfs) 5 0 true)
/-- R557, D3HOT_ENTRY: event 0xB005. -/
def execD3hotEntry (fn : Nat) (s : State) : Result :=
  .next (if 17 ≤ fn ∨ ¬ fnPresent s fn ∨ (fnAt s fn).d3hot then s
    else
      let s := updFn s fn fun f => { f with d3hot := true }
      recordHead (if fn = 0 then s else endHostWains s (fn - 1)) 0xB005 .corrected [fn])
/-- R557, D0_RETURN: waiting lines are written; event 0xB005. -/
def execD0Return (fn : Nat) (s : State) : Result :=
  .next (if 17 ≤ fn ∨ ¬ (fnAt s fn).d3hot then s
    else
      let s := updFn s fn fun f => { f with d3hot := false }
      recordHead (ringSettle (drainLines 64 s fn) fn) 0xB005 .corrected [fn])

/-! ### Configuration space (R553 to R556; log entry 28) -/

/-- Offset of the SR-IOV capability. -/
def sriovAt : Nat := 0x160
/-- A configuration dword as last written. -/
def cfgAt (s : State) (fn off : Nat) : Nat := (Sparse.get 0#32 (fnAt s fn).config (off / 4)).toNat
/-- Header of an extended capability. -/
def extCap (id version next : Nat) : Nat := id + version * 65536 + next * 2 ^ 20
/-- Code of a link rate in GT/s. -/
def rateCode : Nat → Nat
  | 64 => 6 | 32 => 5 | 16 => 4 | 8 => 3 | 5 => 2 | _ => 1
/-- The capabilities of a function, those of R553 and no other, as a list whose offsets are a choice: what a dword of them
reads, where the spec or the standard gives it. A virtual function has those that concern a function. -/
def capRead (s : State) (fn off : Nat) : Option Nat :=
  let free := (Config.freeDWord s.free).toNat % 2 ^ 32
  let w := cfgAt s fn off
  match off with
  | 0x34 => some 0x40
  | 0x40 => some 0x0003_4801
  | 0x44 => some (8 + if (fnAt s fn).d3hot then 3 else 0)
  | 0x48 => some 0x0002_0010
  | 0x4C => some (free / 8 * 8 + 2)
  | 0x50 => some ((w &&& 0x7FFF) + free / 65536 * 65536)
  | 0x54 => some (free / 4096 * 4096 + 0x106)
  | 0x58 => some (w % 65536 + (rateCode s.host.rate + 16 * s.host.width) * 65536)
  | 0x100 => some (extCap 0x01 2 (if fn = 0 then 0x148 else 0x154))
  | 0x148 => if fn = 0 then some (extCap 0x03 1 0x154) else none
  | 0x14C => if fn = 0 then some (modSerial s % 2 ^ 32) else none
  | 0x150 => if fn = 0 then some (modSerial s / 2 ^ 32) else none
  | 0x154 => some (extCap 0x0E 1 (if fn = 0 then sriovAt else 0))
  | 0x160 => if fn = 0 then some (extCap 0x10 1 0x1A0) else none
  | 0x1A0 => if fn = 0 then some (extCap 0x25 1 0x1AC) else none
  | 0x1AC => if fn = 0 then some (extCap 0x26 1 0x1D0) else none
  | 0x1D0 => if fn = 0 then some (extCap 0x2A 1 0x1F0) else none
  | 0x1F0 => if fn = 0 then some (extCap 0x31 1 0x210) else none
  | 0x210 => if fn = 0 then some (extCap 0x27 1 0) else none
  | _ => none
/-- The SR-IOV capability's body (R555). -/
def sriovRead (s : State) (off : Nat) : Option Nat :=
  let w := cfgAt s 0 off
  match off - sriovAt with
  | 0x08 => some (natOf s.host.vfEnable + (w &&& 0x18))
  | 0x0C => some (16 + 16 * 65536)
  | 0x10 => some s.host.numVfs
  | 0x14 => some (1 + 65536)
  | 0x18 => some (0x6402 * 65536)
  | 0x1C => some 1
  | 0x20 => some 1
  | 0x24 => some ((w / 2 ^ 18) * 2 ^ 18 + 4)
  | 0x28 => some w
  | 0x2C => some 0 | 0x30 => some 0 | 0x34 => some 0 | 0x38 => some 0
  | _ => none
/-- The header of a function. -/
def headerRead (s : State) (fn off : Nat) : Option Nat :=
  let w := cfgAt s fn off
  match off with
  | 0x00 => some (if fn = 0 then s.host.vendor.toNat + 0x6401 * 65536 else 2 ^ 32 - 1)
  | 0x04 => some ((w &&& 0x0546) + 0x10_0000)
  | 0x10 => some (if fn = 0 then (w / 2 ^ 25) * 2 ^ 25 + 4 else 0)
  | 0x14 => some (if fn = 0 then w else 0)
  | 0x18 => some 0
  | 0x1C => some 0
  | 0x20 => some 0
  | 0x24 => some 0
  | 0x3C => some (w % 256)
  | _ => none
/-- What a configuration read returns; a dword whose value the spec does not give is a free value. -/
def cfgRead (s : State) (fn off : Nat) : Nat :=
  match (headerRead s fn off).orElse fun _ => (capRead s fn off).orElse fun _ =>
      if fn = 0 ∧ sriovAt + 8 ≤ off then sriovRead s off else none with
  | some v => v
  | none => (Config.freeDWord s.free).toNat % 2 ^ 32
/-- A configuration write: NumVFs is fixed while VF Enable is set; the power state and the Function Level Reset of the
capabilities act as their rows do. -/
def cfgWrite (s : State) (fn off : Nat) (value : Word) : State :=
  let s := updFn s fn fun f => { f with config := Sparse.set 0#32 f.config (off / 4) value }
  if off = 0x44 then
    match bitsOf value.toNat 1 0 with
    | 3 => after s (execD3hotEntry fn s)
    | 0 => after s (execD0Return fn s)
    | _ => s
  else if off = 0x50 ∧ value.getLsbD 15 then after s (if fn = 0 then execPfFlr s else execVfFlr fn s)
  else if fn = 0 ∧ off = sriovAt + 8 then setVfs s (value.getLsbD 0) s.host.numVfs
  else if fn = 0 ∧ off = sriovAt + 0x10 ∧ ¬ s.host.vfEnable then setVfs s false (min 16 (bitsOf value.toNat 15 0))
  else s
/-- The interface answers configuration requests with a retry status: until the boot firmware of a power-on start has
read the settings, and in ROM hold (R591, R601). -/
def cfgRetry (s : State) : Bool :=
  !s.fw.ready && (s.fw.romHold || (!s.recov.resetting && decide (s.fw.osc < 62000000)))
/-- R553, CONFIG_REQUEST: a request to an absent function is unsupported and reads all ones. -/
def execConfigRequest (fn : Nat) (write : Bool) (offset : Nat) (value : Word) (s : State) : Result :=
  let off := offset % 4096 / 4 * 4
  .next (if !s.host.linkUp || cfgRetry s then s
    else if !fnPresent s fn then (if write then s else answer s (2 ^ 32 - 1))
    else if write then cfgWrite s fn off value
    else freeTick (answer s (cfgRead s fn off)))

end Sys2Proof.Machine
end

