-- ==== Sys2Proof/Machine/Mirror.lean ====
section
/-!
DEFINITION. The die-control and shore-control regions: what the headland reads and writes there by address (R204, R208).
-/
namespace Sys2Proof.Machine

/-- The BAR0 offset of the physical function that a place of a control region mirrors: a die's window, or the blocks of the
first 1 MiB (R208). -/
def mirrorOff : Place → Option Nat
  | .dieControl die off => some (0x100_0000 + 0x4_0000 * die + off)
  | .shoreControl _ off => some off
  | .scratch _ _ => none | .near _ _ => none | .hbm _ => none | .host _ => none | .bad => none
/-- The eight bytes at an offset of BAR0, without the side effects of a read. -/
def mirrorWord (s : State) (a : Nat) : Nat :=
  let half := fun (a : Nat) => if regWidth a = 32 then regRead s 0 a % 2 ^ 32 else 0
  if regWidth a = 64 then regRead s 0 a else half a + 2 ^ 32 * half (a + 4)
/-- The bytes of a mirrored range. -/
def mirrorRead (s : State) (a n : Nat) : List Byte :=
  (List.range (n / 8)).flatMap fun i => leOut 8 (mirrorWord s (a + 8 * i))
/-- A write to a mirrored range acts as writes of its 64-bit words by the physical function. -/
def mirrorWrite (s : State) (a : Nat) (bs : List Byte) : State :=
  forEach s (List.range (bs.length / 8)) fun s i => writeBar s 0 (a + 8 * i) 8 (leVal ((bs.drop (8 * i)).take 8))
/-- The controller answers an access that the target checks have let pass. -/
def answerControl (s : State) (x : Nat × Packet) : State :=
  match packetAddr s x.2 with
  | none => s
  | some addr => match mirrorOff (placeOf addr) with
    | none => s
    | some a =>
      if x.2.ptype = 2 then sendResponse s x.1 x.2 (leVal (x.2.data.take 8)) (mirrorRead s a (requestLen x.2))
      else mirrorWrite s a x.2.data
/-- The accesses that wait for their controllers are answered in their order. -/
def controlTick (s : State) : State :=
  forEach { s with fab := { s.fab with control := [] } } s.fab.control answerControl

end Sys2Proof.Machine
end

