-- ==== Sys2Proof/Machine/Clock.lean ====
section
/-!
DEFINITION. What happens as a tick passes (R125, R286, R290, R293; log entries 13, 26 and 83).
-/
namespace Sys2Proof.Machine

/-- R293: a commit that must wait notes the tick, so that it is made no earlier. -/
def noteWait (s : State) (c : Nat) : State :=
  if (coveAt s c).mode = .running ∧ (coveTideAt s c).slack = false ∧ commitWaits s c then
    updCove s c fun v => { v with waited := s.tide.now }
  else s
/-- The periodic duties of R125 that commands stand for, by their place in its table, with their periods in ticks. -/
def dutyPeriods : List (Nat × Tick) := [(2, 100000000), (4, 1000000), (5, 10000000), (6, hourTicks)]
/-- One duty of a die controller: one that is not completed within its period is reported, event 0x4020 with the duty. The
first period begins with service. -/
def dutyCheck (die : Nat) (s : State) (d : Nat × Tick) : State :=
  let key := 16 * die + d.1
  let last := Sparse.get 0 s.health.dutyDone key
  let again := fun (s : State) =>
    { s with health := { s.health with dutyDone := Sparse.set 0 s.health.dutyDone key s.tide.now } }
  if last = 0 then again s
  else if last + d.2 < s.tide.now then
    again (record s 0x4020 .corrected (coveNum (coveOfDie s die)) (1297 + die) [d.1])
  else s
/-- The duties of every unfenced die, once the module is in service. -/
def dutyTick (s : State) : State :=
  if !s.fw.ready then s
  else forEach s ((List.range 64).filter fun d => !dieFenced s d) fun s die => dutyPeriods.foldl (dutyCheck die) s
/-- The counter advances, by 1 or in a slew by 0 or 2 (R286). -/
def advanceCounter (s : State) : State :=
  let d := advanceOf s
  { s with tide := { s.tide with
    now := s.tide.now + d, lastSlew := if d = 1 then s.tide.lastSlew else s.tide.now,
    slewed := s.tide.slewed + ((d : Int) - 1) } }
/-- Cycles of a clock point that have begun by a tick: 1.5, 1.2 and 0.9 GHz (R38, R325). -/
def cyclesBy (point : Nat) (t : Tick) : Nat :=
  match point with | 0 => 3 * t / 2 | 1 => 6 * t / 5 | _ => 9 * t / 10
/-- The counter of a wait (R529). -/
def waitCounter : Wait → Nat
  | .tide _ => 12 | .bar _ _ => 12
  | .arrive _ _ _ => 11 | .wains _ => 11 | .drain => 11 | .commit _ => 11 | .slots _ _ _ _ _ _ _ _ => 11
/-- The cycles of a core in the `d` ticks that end now: CYCLES, and those in which its context waits or its routine runs
(R528, R529). -/
def countCore (d : Nat) (s : State) (core : Nat) : State :=
  let p := clockOf s (dieOf core)
  let n := cyclesBy p s.tide.now - cyclesBy p (s.tide.now - d)
  let s := bumpCore s core 0 n
  match (clusterAt s (clusterOf core)).owner with
  | none => s
  | some k =>
    let x := ctxAt s core k
    let s := match x.wait with | some w => bumpCore s core (waitCounter w) n | none => s
    if x.routine.isSome then bumpCore s core 13 n else s
/-- What only waited for a tick ends: waits, layer closes, held packets, and the parent is chosen again. -/
def settleTick (s : State) : State :=
  let s := forEach s s.tide.hot fun s st => bump s 4 st 4 1
  let s := forEach s (s.cores.map (·.1)) fun s i => forEach s (List.range 4) fun s k => settleCtx s i k
  let s := forEach s (s.coves.map (·.1)) settleLayers
  let s := forEach s (s.coves.map (·.1)) noteWait
  chooseParent (if s.tide.heldPackets = [] then s else releaseHeld s)
/-- What works by itself goes on: the engines, the movers, the load engines, the controllers that are asked, the packets that wait, the links, and the die
controllers' duties. -/
def workTick (s : State) : State := dutyTick (linkTick (drainOut (controlTick (loadTick (moverTick (enginesTick s))))))
/-- One tick (log entry 26). The internal oscillator counts from power-good on; the counter advances once the first mark
has set it. -/
def clockTick (s : State) : State :=
  let s := if s.pwr.powerGood then { s with fw := { s.fw with osc := s.fw.osc + 1, upTime := s.fw.upTime + 1 } }
    else s
  if !s.tide.marked then s
  else
    let d := advanceOf s
    workTick (settleTick (forEach (advanceCounter s) (List.range 1024) (countCore d)))

end Sys2Proof.Machine
end

