-- ==== Sys2Proof/Machine/Bar.lean ====
section
/-!
DEFINITION. Every access to BAR0 by its own row: whether it is answered (R560, R561), a held lower half (R23), and the
queue of writes while the headland role moves (R514, R558). The effect of each row stands in the file of its family.
-/
namespace Sys2Proof.Machine

/-- BAR0 of a function answers: the module is READY, the link is up and the function exists. -/
def answers (s : State) (fn : Nat) : Bool :=
  s.fw.ready && s.pwr.powerGood && s.host.linkUp && decide (fn ≤ 16) && fnPresent s fn
/-- R560: in safe harbour only the physical function's blocks MOD, HOST, HEALTH, TRACE, RECOV, FW and PWR answer. -/
def openIn (s : State) (fn : Nat) (blockOpen : Bool) : Bool := s.fw.mode != 1 || (fn == 0 && blockOpen)
/-- The block at a physical-function offset answers in safe harbour. -/
def openAt (off : Nat) : Bool := [0x0, 0x4, 0xA, 0xB, 0xC, 0xD, 0xE].contains (off / 0x10000)
/-- R23: an access to a register by its own row; a whole write replaces a half held for it. -/
def touch (s : State) (fn off : Nat) : State :=
  match (fnAt s fn).writeHeld with
  | some h => if h.1 = off then updFn s fn fun f => { f with writeHeld := none } else dropHeld s fn off
  | none => s
/-- A write to BAR0: discarded when it is not answered; held back while the headland role moves, up to 256 writes,
further ones discarded with a host-access error of kind 4. `ok` says that the function's BAR presents the register. -/
def barWrite (s : State) (fn off : Nat) (ok blockOpen : Bool) (i : Instr) (effect : State → Result) :
    Result :=
  if !ok || !answers s fn || !openIn s fn blockOpen then .next s
  else if s.recov.moving.isSome then
    if s.host.moveQueue.length < 256 then
      .next { s with host := { s.host with moveQueue := s.host.moveQueue ++ [i] } }
    else .next (hostError s fn 4 off)
  else effect s
/-- A read of BAR0: all ones when it is not answered, 0 where safe harbour closes the block. -/
def barRead (s : State) (fn : Nat) (off : Option Nat) (ok blockOpen : Bool) (size : Nat) (effect : State → Result) :
    Result :=
  if !ok then .next s
  else if !answers s fn then .next (answer s (allOnes size))
  else if !openIn s fn blockOpen then .next (answer s 0)
  else effect (match off with | some o => dropHeld s fn o | none => s)

/-- R308, TIDE_DATA_WRITE. -/
def execTideDataWrite (value : DWord) (s : State) : Result :=
  barWrite s 0 0x10058 true false (.tideDataWrite value)
    (fun t => effectTideDataWrite value (touch t 0 0x10058))
/-- R309, MODULE_SWITCH_ARM. -/
def execModuleSwitchArm (value : Word) (s : State) : Result :=
  barWrite s 0 0x10048 true false (.moduleSwitchArm value)
    (fun t => effectModuleSwitchArm value (touch t 0 0x10048))
/-- R315, MODULE_SWITCH_REAPPLY. -/
def execModuleSwitchReapply (value : Word) (s : State) : Result :=
  barWrite s 0 0x10048 true false (.moduleSwitchReapply value)
    (fun t => effectModuleSwitchReapply value (touch t 0 0x10048))
/-- R309, COVE_SWITCH_ARM. -/
def execCoveSwitchArm (cove : Nat) (value : Word) (s : State) : Result :=
  barWrite s 0 (0x10810 + 0x40 * cove) (decide (cove < 16)) false (.coveSwitchArm cove value)
    (fun t => effectCoveSwitchArm cove value (touch t 0 (0x10810 + 0x40 * cove)))
/-- R315, COVE_SWITCH_REAPPLY. -/
def execCoveSwitchReapply (cove : Nat) (value : Word) (s : State) : Result :=
  barWrite s 0 (0x10810 + 0x40 * cove) (decide (cove < 16)) false (.coveSwitchReapply cove value)
    (fun t => effectCoveSwitchReapply cove value (touch t 0 (0x10810 + 0x40 * cove)))
/-- R331, TIDE_C_RESTART_WRITE. -/
def execTideCRestartWrite (cove : Nat) (value : DWord) (fn : Nat) (s : State) : Result :=
  barWrite s fn (0x10828 + 0x40 * cove) (decide (cove < 16)) false (.tideCRestartWrite cove value fn)
    (fun t => effectTideCRestartWrite cove value fn (touch t fn (0x10828 + 0x40 * cove)))
/-- R273, ROUTE_DATA_WRITE. -/
def execRouteDataWrite (value : DWord) (s : State) : Result :=
  barWrite s 0 0x80010 true false (.routeDataWrite value)
    (fun t => effectRouteDataWrite value (touch t 0 0x80010))
/-- R275, ROUTE_SWITCH_ARM. -/
def execRouteSwitchArm (value : Word) (s : State) : Result :=
  barWrite s 0 0x80020 true false (.routeSwitchArm value)
    (fun t => effectRouteSwitchArm value (touch t 0 0x80020))
/-- R274, ROUTE_REAPPLY. -/
def execRouteReapply (value : Word) (s : State) : Result :=
  barWrite s 0 0x80020 true false (.routeReapply value)
    (fun t => effectRouteReapply value (touch t 0 0x80020))
/-- R282, FAB_CTRL_HFENCE_SET. -/
def execFabCtrlHfenceSet (port : Nat) (value : Word) (s : State) : Result :=
  barWrite s 0 (fabReg port 8) (decide (port < 128)) false (.fabCtrlHfenceSet port value)
    (fun t => effectFabCtrlHfenceSet port value (touch t 0 (fabReg port 8)))
/-- R282, FAB_CTRL_HFENCE_CLEAR. -/
def execFabCtrlHfenceClear (port : Nat) (value : Word) (s : State) : Result :=
  barWrite s 0 (fabReg port 8) (decide (port < 128)) false (.fabCtrlHfenceClear port value)
    (fun t => effectFabCtrlHfenceClear port value (touch t 0 (fabReg port 8)))
/-- R282, FAB_CTRL_EN_CLEAR. -/
def execFabCtrlEnClear (port : Nat) (value : Word) (s : State) : Result :=
  barWrite s 0 (fabReg port 8) (decide (port < 128)) false (.fabCtrlEnClear port value)
    (fun t => effectFabCtrlEnClear port value (touch t 0 (fabReg port 8)))
/-- R282, FAB_CTRL_RELEASE. -/
def execFabCtrlRelease (port : Nat) (value : Word) (s : State) : Result :=
  barWrite s 0 (fabReg port 8) (decide (port < 128)) false (.fabCtrlRelease port value)
    (fun t => effectFabCtrlRelease port value (touch t 0 (fabReg port 8)))
/-- R227, LEASE_TABLE_WRITE. -/
def execLeaseTableWrite (index : Nat) (words : List DWord) (s : State) : Result :=
  barWrite s 0 0 (decide (index < 64)) false (.leaseTableWrite index words)
    (fun t => effectLeaseTableWrite index words t)
/-- R343, CV_CTRL_START. -/
def execCvCtrlStart (cove : Nat) (fn : Nat) (value : Word) (s : State) : Result :=
  barWrite s fn (barOff cove fn 0x08) (decide (cove < 16) && ownFn cove fn) false (.cvCtrlStart cove fn value)
    (fun t => effectCvCtrlStart cove fn value (touch t fn (barOff cove fn 0x08)))
/-- R357, CV_CTRL_STOP. -/
def execCvCtrlStop (cove : Nat) (fn : Nat) (value : Word) (s : State) : Result :=
  barWrite s fn (barOff cove fn 0x08) (decide (cove < 16) && ownFn cove fn) false (.cvCtrlStop cove fn value)
    (fun t => effectCvCtrlStop cove fn value (touch t fn (barOff cove fn 0x08)))
/-- R355, CV_CTRL_HOLD. -/
def execCvCtrlHold (cove : Nat) (fn : Nat) (value : Word) (s : State) : Result :=
  barWrite s fn (barOff cove fn 0x08) (decide (cove < 16) && ownFn cove fn) false (.cvCtrlHold cove fn value)
    (fun t => effectCvCtrlHold cove fn value (touch t fn (barOff cove fn 0x08)))
/-- R349, CV_DIES_WRITE. -/
def execCvDiesWrite (cove : Nat) (fn : Nat) (value : DWord) (s : State) : Result :=
  barWrite s fn (barOff cove fn 0x10) (decide (cove < 16) && ownFn cove fn) false (.cvDiesWrite cove fn value)
    (fun t => effectCvDiesWrite cove fn value (touch t fn (barOff cove fn 0x10)))
/-- R345, CV_UMAP_WRITE. -/
def execCvUmapWrite (cove : Nat) (fn : Nat) (word : Nat) (value : DWord) (s : State) : Result :=
  barWrite s fn (barOff cove fn (0x100 + 8 * word)) (decide (cove < 16) && ownFn cove fn && decide (word < 32)) false (.cvUmapWrite cove fn word value)
    (fun t => effectCvUmapWrite cove fn word value (touch t fn (barOff cove fn (0x100 + 8 * word))))
/-- R344, CV_QUOTA_WRITE. -/
def execCvQuotaWrite (cove : Nat) (fn : Nat) (value : DWord) (s : State) : Result :=
  barWrite s fn (barOff cove fn 0x20) (decide (cove < 16) && ownFn cove fn) false (.cvQuotaWrite cove fn value)
    (fun t => effectCvQuotaWrite cove fn value (touch t fn (barOff cove fn 0x20)))
/-- R336, CV_JOBTAG_WRITE. -/
def execCvJobtagWrite (cove : Nat) (fn : Nat) (j : Nat) (value : Word) (s : State) : Result :=
  barWrite s fn (barOff cove fn (0x40 + 8 * j)) (decide (cove < 16) && ownFn cove fn && decide (j < 4)) false (.cvJobtagWrite cove fn j value)
    (fun t => effectCvJobtagWrite cove fn j value (touch t fn (barOff cove fn (0x40 + 8 * j))))
/-- R395, CV_EVAL_CTRL_ARM. -/
def execCvEvalCtrlArm (cove : Nat) (fn : Nat) (value : Word) (s : State) : Result :=
  barWrite s fn (barOff cove fn 0x280) (decide (cove < 16) && ownFn cove fn) false (.cvEvalCtrlArm cove fn value)
    (fun t => effectCvEvalCtrlArm cove fn value (touch t fn (barOff cove fn 0x280)))
/-- R402, CV_SR_CTRL_ENABLE. -/
def execCvSrCtrlEnable (cove : Nat) (fn : Nat) (value : Word) (s : State) : Result :=
  barWrite s fn (barOff cove fn 0x210) (decide (cove < 16) && ownFn cove fn) false (.cvSrCtrlEnable cove fn value)
    (fun t => effectCvSrCtrlEnable cove fn value (touch t fn (barOff cove fn 0x210)))
/-- R491, CV_LDIG_CTRL_ENABLE. -/
def execCvLdigCtrlEnable (cove : Nat) (fn : Nat) (value : Word) (s : State) : Result :=
  barWrite s fn (barOff cove fn 0xA00) (decide (cove < 16) && ownFn cove fn) false (.cvLdigCtrlEnable cove fn value)
    (fun t => effectCvLdigCtrlEnable cove fn value (touch t fn (barOff cove fn 0xA00)))
/-- R572, CV_CLOG_CTRL_ENABLE. -/
def execCvClogCtrlEnable (cove : Nat) (fn : Nat) (value : Word) (s : State) : Result :=
  barWrite s fn (barOff cove fn 0x88) (decide (cove < 16) && ownFn cove fn) false (.cvClogCtrlEnable cove fn value)
    (fun t => effectCvClogCtrlEnable cove fn value (touch t fn (barOff cove fn 0x88)))
/-- R572, CV_CLOG_RD_WRITE. -/
def execCvClogRdWrite (cove : Nat) (fn : Nat) (value : DWord) (s : State) : Result :=
  barWrite s fn (barOff cove fn 0x98) (decide (cove < 16) && ownFn cove fn) false (.cvClogRdWrite cove fn value)
    (fun t => effectCvClogRdWrite cove fn value (touch t fn (barOff cove fn 0x98)))
/-- R574, CV_BARN_WRITE. -/
def execCvBarnWrite (cove : Nat) (fn : Nat) (e : Nat) (value : DWord) (s : State) : Result :=
  barWrite s fn (barOff cove fn (0xC00 + 8 * e)) (decide (cove < 16) && ownFn cove fn && decide (e < 32)) false (.cvBarnWrite cove fn e value)
    (fun t => effectCvBarnWrite cove fn e value (touch t fn (barOff cove fn (0xC00 + 8 * e))))
/-- R575, CV_PLACE_DATA_READ. -/
def execCvPlaceDataRead (cove : Nat) (fn : Nat) (s : State) : Result :=
  barRead s fn (some (barOff cove fn 0xD08)) (decide (cove < 16) && ownFn cove fn) false 8 (fun t => effectCvPlaceDataRead cove fn t)
/-- R567, LOAD_QUEUE_DOORBELL. -/
def execLoadQueueDoorbell (queue : Nat) (fn : Nat) (tail : Word) (s : State) : Result :=
  barWrite s fn (queueTailOff queue fn) (decide (queue ≤ 16) && queueWriter queue fn) false (.loadQueueDoorbell queue fn tail)
    (fun t => effectLoadQueueDoorbell queue fn tail (touch t fn (queueTailOff queue fn)))
/-- R422, LOAD_QUEUE_ENABLE. -/
def execLoadQueueEnable (queue : Nat) (fn : Nat) (value : Word) (s : State) : Result :=
  barWrite s fn (queueTailOff queue fn - 8) (decide (queue ≤ 16) && queueWriter queue fn) false (.loadQueueEnable queue fn value)
    (fun t => effectLoadQueueEnable queue fn value (touch t fn (queueTailOff queue fn - 8)))
/-- R407, LOAD_CONN_CONNECT. -/
def execLoadConnConnect (k : Nat) (descriptor : List Byte) (ok : Bool) (s : State) : Result :=
  barWrite s 0 0x50008 (decide (k < 16)) false (.loadConnConnect k descriptor ok)
    (fun t => effectLoadConnConnect k descriptor ok (touch t 0 0x50008))
/-- R407, LOAD_CONN_DISCONNECT. -/
def execLoadConnDisconnect (k : Nat) (s : State) : Result :=
  barWrite s 0 0x50008 (decide (k < 16)) false (.loadConnDisconnect k)
    (fun t => effectLoadConnDisconnect k (touch t 0 0x50008))
/-- R440, CKPT_TAKE. -/
def execCkptTake (cove : Nat) (value : Word) (regions : List Byte) (s : State) : Result :=
  barWrite s 0 (ckReg cove 0) (decide (cove < 16)) false (.ckptTake cove value regions)
    (fun t => effectCkptTake cove value regions (touch t 0 (ckReg cove 0)))
/-- R446, CKPT_FREEZE. -/
def execCkptFreeze (cove : Nat) (value : Word) (regions : List Byte) (s : State) : Result :=
  barWrite s 0 (ckReg cove 0) (decide (cove < 16)) false (.ckptFreeze cove value regions)
    (fun t => effectCkptFreeze cove value regions (touch t 0 (ckReg cove 0)))
/-- R448, CKPT_THAW. -/
def execCkptThaw (cove : Nat) (value : Word) (s : State) : Result :=
  barWrite s 0 (ckReg cove 0) (decide (cove < 16)) false (.ckptThaw cove value)
    (fun t => effectCkptThaw cove value (touch t 0 (ckReg cove 0)))
/-- R433, CKPT_ROLLBACK. -/
def execCkptRollback (cove : Nat) (value : Word) (s : State) : Result :=
  barWrite s 0 (ckReg cove 0) (decide (cove < 16)) false (.ckptRollback cove value)
    (fun t => effectCkptRollback cove value (touch t 0 (ckReg cove 0)))
/-- R449, CKPT_RESTORE. -/
def execCkptRestore (cove : Nat) (value : Word) (manifest : List Byte) (alt : List Byte) (s : State) : Result :=
  barWrite s 0 (ckReg cove 0) (decide (cove < 16)) false (.ckptRestore cove value manifest alt)
    (fun t => effectCkptRestore cove value manifest alt (touch t 0 (ckReg cove 0)))
/-- R434, CKPT_ADOPT. -/
def execCkptAdopt (cove : Nat) (value : Word) (s : State) : Result :=
  barWrite s 0 (ckReg cove 0) (decide (cove < 16)) false (.ckptAdopt cove value)
    (fun t => effectCkptAdopt cove value (touch t 0 (ckReg cove 0)))
/-- R435, CKPT_STANDIN_WRITE. -/
def execCkptStandinWrite (cove : Nat) (value : Word) (s : State) : Result :=
  barWrite s 0 (ckReg cove 0xC0) (decide (cove < 16)) false (.ckptStandinWrite cove value)
    (fun t => effectCkptStandinWrite cove value (touch t 0 (ckReg cove 0xC0)))
/-- R436, CKPT_REMAP_WRITE. -/
def execCkptRemapWrite (index : Nat) (value : DWord) (s : State) : Result :=
  barWrite s 0 (ckReg (index / 8) (0x80 + 8 * (index % 8))) (decide (index < 128)) false (.ckptRemapWrite index value)
    (fun t => effectCkptRemapWrite index value (touch t 0 (ckReg (index / 8) (0x80 + 8 * (index % 8)))))
/-- R490, HEALTH_FENCE. -/
def execHealthFence (value : Word) (s : State) : Result :=
  barWrite s 0 0xA8048 true true (.healthFence value)
    (fun t => effectHealthFence value (touch t 0 0xA8048))
/-- R490, HEALTH_FENCE_CLEAR. -/
def execHealthFenceClear (value : Word) (s : State) : Result :=
  barWrite s 0 0xA8048 true true (.healthFenceClear value)
    (fun t => effectHealthFenceClear value (touch t 0 0xA8048))
/-- R490, HEALTH_LEDGER_DATA_READ. -/
def execHealthLedgerDataRead  (s : State) : Result :=
  barRead s 0 (some 0xA8078) true true 8 effectHealthLedgerDataRead
/-- R524, RECOV_CONTEXT_RESET. -/
def execRecovContextReset (value : Word) (s : State) : Result :=
  barWrite s 0 0xC0008 true true (.recovContextReset value)
    (fun t => effectRecovContextReset value (touch t 0 0xC0008))
/-- R524, RECOV_ENGINE_RESET. -/
def execRecovEngineReset (value : Word) (s : State) : Result :=
  barWrite s 0 0xC0008 true true (.recovEngineReset value)
    (fun t => effectRecovEngineReset value (touch t 0 0xC0008))
/-- R524, RECOV_COVE_RESET. -/
def execRecovCoveReset (value : Word) (s : State) : Result :=
  barWrite s 0 0xC0008 true true (.recovCoveReset value)
    (fun t => effectRecovCoveReset value (touch t 0 0xC0008))
/-- R524, RECOV_MODULE_RESET. -/
def execRecovModuleReset (value : Word) (s : State) : Result :=
  barWrite s 0 0xC0008 true true (.recovModuleReset value)
    (fun t => effectRecovModuleReset value (touch t 0 0xC0008))
/-- R523, RECOV_WRACK_FREE. -/
def execRecovWrackFree (value : Word) (s : State) : Result :=
  barWrite s 0 0xC0038 true true (.recovWrackFree value)
    (fun t => effectRecovWrackFree value (touch t 0 0xC0038))
/-- R511, RECOV_WRACK_COPY. -/
def execRecovWrackCopy (value : Word) (s : State) : Result :=
  barWrite s 0 0xC0048 true true (.recovWrackCopy value)
    (fun t => effectRecovWrackCopy value (touch t 0 0xC0048))
/-- R525, HEALTH_ERR_RD_WRITE. -/
def execHealthErrRdWrite (fn : Nat) (value : DWord) (s : State) : Result :=
  barWrite s fn (viewOff fn 0xA9008) true true (.healthErrRdWrite fn value)
    (fun t => effectHealthErrRdWrite fn value (touch t fn (viewOff fn 0xA9008)))
/-- R525, HEALTH_ERR_FETCH. -/
def execHealthErrFetch (fn : Nat) (value : Word) (s : State) : Result :=
  barWrite s fn (viewOff fn 0xA9018) true true (.healthErrFetch fn value)
    (fun t => effectHealthErrFetch fn value (touch t fn (viewOff fn 0xA9018)))
/-- R536, HEALTH_CNT_FETCH. -/
def execHealthCntFetch (fn : Nat) (value : Word) (s : State) : Result :=
  barWrite s fn (viewOff fn 0xAA020) true true (.healthCntFetch fn value)
    (fun t => effectHealthCntFetch fn value (touch t fn (viewOff fn 0xAA020)))
/-- R547, TRACE_SL_FETCH. -/
def execTraceSlFetch (fn : Nat) (value : Word) (s : State) : Result :=
  barWrite s fn (viewOff fn 0xB0020) true true (.traceSlFetch fn value)
    (fun t => effectTraceSlFetch fn value (touch t fn (viewOff fn 0xB0020)))
/-- R542, TRACE_C_WT_CTRL_WRITE. -/
def execTraceCWtCtrlWrite (cove : Nat) (fn : Nat) (value : Word) (s : State) : Result :=
  barWrite s fn (wtOff cove fn 0) (decide (cove < 16) && wtWriter cove fn) true (.traceCWtCtrlWrite cove fn value)
    (fun t => effectTraceCWtCtrlWrite cove fn value (touch t fn (wtOff cove fn 0)))
/-- R542, TRACE_C_WT_RD_WRITE. -/
def execTraceCWtRdWrite (cove : Nat) (fn : Nat) (value : DWord) (s : State) : Result :=
  barWrite s fn (wtOff cove fn 0x20) (decide (cove < 16) && wtWriter cove fn) true (.traceCWtRdWrite cove fn value)
    (fun t => effectTraceCWtRdWrite cove fn value (touch t fn (wtOff cove fn 0x20)))
/-- R22, REGISTER_WRITE. -/
def execRegisterWrite (fn : Nat) (offset : Nat) (size : Nat) (value : DWord) (s : State) : Result :=
  barWrite s fn offset true (openAt offset) (.registerWrite fn offset size value)
    (fun t => effectRegisterWrite fn offset size value t)
/-- R562, SRING_ENABLE. -/
def execSringEnable (fn : Nat) (value : Word) (s : State) : Result :=
  barWrite s fn (ringOff fn fn 0x08) true true (.sringEnable fn value)
    (fun t => effectSringEnable fn value (touch t fn (ringOff fn fn 0x08)))
/-- R566, SRING_RD_WRITE. -/
def execSringRdWrite (fn : Nat) (value : DWord) (s : State) : Result :=
  barWrite s fn (ringOff fn fn 0x18) true true (.sringRdWrite fn value)
    (fun t => effectSringRdWrite fn value (touch t fn (ringOff fn fn 0x18)))
/-- R590, TIDE_OVERRIDE_WRITE. -/
def execTideOverrideWrite (which : Nat) (value : DWord) (s : State) : Result :=
  barWrite s 0 (if which = 0 then 0x10010 else 0x10028) true false (.tideOverrideWrite which value)
    (fun t => effectTideOverrideWrite which value (touch t 0 (if which = 0 then 0x10010 else 0x10028)))
/-- R604, FW_WRITE_IMAGE. -/
def execFwWriteImage (slot : Nat) (image : FwImage) (ok : Bool) (s : State) : Result :=
  barWrite s 0 0xD0028 true true (.fwWriteImage slot image ok)
    (fun t => effectFwWriteImage slot image ok (touch t 0 0xD0028))
/-- R605, FW_WRITE_SETTINGS. -/
def execFwWriteSettings (store : List Byte) (ok : Bool) (s : State) : Result :=
  barWrite s 0 0xD0028 true true (.fwWriteSettings store ok)
    (fun t => effectFwWriteSettings store ok (touch t 0 0xD0028))
/-- R606, FW_READ_SETTINGS. -/
def execFwReadSettings  (s : State) : Result :=
  barWrite s 0 0xD0028 true true .fwReadSettings
    (fun t => effectFwReadSettings (touch t 0 0xD0028))
/-- R606, FW_SELECT_SLOT. -/
def execFwSelectSlot (slot : Nat) (s : State) : Result :=
  barWrite s 0 0xD0028 true true (.fwSelectSlot slot)
    (fun t => effectFwSelectSlot slot (touch t 0 0xD0028))
/-- R607, FW_LIVE_UPDATE. -/
def execFwLiveUpdate  (s : State) : Result :=
  barWrite s 0 0xD0028 true true .fwLiveUpdate
    (fun t => effectFwLiveUpdate (touch t 0 0xD0028))
/-- R606, FW_SAFE_HARBOUR_REQUEST. -/
def execFwSafeHarbourRequest  (s : State) : Result :=
  barWrite s 0 0xD0028 true true .fwSafeHarbourRequest
    (fun t => effectFwSafeHarbourRequest (touch t 0 0xD0028))
/-- R23, REGISTER_READ. -/
def execRegisterRead (fn : Nat) (offset : Nat) (size : Nat) (s : State) : Result :=
  barRead s fn none true (openAt offset) size (fun t => effectRegisterRead fn offset size t)

/-! ### The headland resumes (R514, R558) -/

/-- The effect of a write that waited for the new headland. -/
def queuedEffect (i : Instr) (s : State) : Result :=
  match i with
  | .tideDataWrite value => execTideDataWrite value s
  | .moduleSwitchArm value => execModuleSwitchArm value s
  | .moduleSwitchReapply value => execModuleSwitchReapply value s
  | .coveSwitchArm cove value => execCoveSwitchArm cove value s
  | .coveSwitchReapply cove value => execCoveSwitchReapply cove value s
  | .tideCRestartWrite cove value fn => execTideCRestartWrite cove value fn s
  | .routeDataWrite value => execRouteDataWrite value s
  | .routeSwitchArm value => execRouteSwitchArm value s
  | .routeReapply value => execRouteReapply value s
  | .fabCtrlHfenceSet port value => execFabCtrlHfenceSet port value s
  | .fabCtrlHfenceClear port value => execFabCtrlHfenceClear port value s
  | .fabCtrlEnClear port value => execFabCtrlEnClear port value s
  | .fabCtrlRelease port value => execFabCtrlRelease port value s
  | .leaseTableWrite index words => execLeaseTableWrite index words s
  | .cvCtrlStart cove fn value => execCvCtrlStart cove fn value s
  | .cvCtrlStop cove fn value => execCvCtrlStop cove fn value s
  | .cvCtrlHold cove fn value => execCvCtrlHold cove fn value s
  | .cvDiesWrite cove fn value => execCvDiesWrite cove fn value s
  | .cvUmapWrite cove fn word value => execCvUmapWrite cove fn word value s
  | .cvQuotaWrite cove fn value => execCvQuotaWrite cove fn value s
  | .cvJobtagWrite cove fn j value => execCvJobtagWrite cove fn j value s
  | .cvEvalCtrlArm cove fn value => execCvEvalCtrlArm cove fn value s
  | .cvSrCtrlEnable cove fn value => execCvSrCtrlEnable cove fn value s
  | .cvLdigCtrlEnable cove fn value => execCvLdigCtrlEnable cove fn value s
  | .cvClogCtrlEnable cove fn value => execCvClogCtrlEnable cove fn value s
  | .cvClogRdWrite cove fn value => execCvClogRdWrite cove fn value s
  | .cvBarnWrite cove fn e value => execCvBarnWrite cove fn e value s
  | .loadQueueDoorbell queue fn tail => execLoadQueueDoorbell queue fn tail s
  | .loadQueueEnable queue fn value => execLoadQueueEnable queue fn value s
  | .loadConnConnect k descriptor ok => execLoadConnConnect k descriptor ok s
  | .loadConnDisconnect k => execLoadConnDisconnect k s
  | .ckptTake cove value regions => execCkptTake cove value regions s
  | .ckptFreeze cove value regions => execCkptFreeze cove value regions s
  | .ckptThaw cove value => execCkptThaw cove value s
  | .ckptRollback cove value => execCkptRollback cove value s
  | .ckptRestore cove value manifest alt => execCkptRestore cove value manifest alt s
  | .ckptAdopt cove value => execCkptAdopt cove value s
  | .ckptStandinWrite cove value => execCkptStandinWrite cove value s
  | .ckptRemapWrite index value => execCkptRemapWrite index value s
  | .healthFence value => execHealthFence value s
  | .healthFenceClear value => execHealthFenceClear value s
  | .recovContextReset value => execRecovContextReset value s
  | .recovEngineReset value => execRecovEngineReset value s
  | .recovCoveReset value => execRecovCoveReset value s
  | .recovModuleReset value => execRecovModuleReset value s
  | .recovWrackFree value => execRecovWrackFree value s
  | .recovWrackCopy value => execRecovWrackCopy value s
  | .healthErrRdWrite fn value => execHealthErrRdWrite fn value s
  | .healthErrFetch fn value => execHealthErrFetch fn value s
  | .healthCntFetch fn value => execHealthCntFetch fn value s
  | .traceSlFetch fn value => execTraceSlFetch fn value s
  | .traceCWtCtrlWrite cove fn value => execTraceCWtCtrlWrite cove fn value s
  | .traceCWtRdWrite cove fn value => execTraceCWtRdWrite cove fn value s
  | .registerWrite fn offset size value => execRegisterWrite fn offset size value s
  | .sringEnable fn value => execSringEnable fn value s
  | .sringRdWrite fn value => execSringRdWrite fn value s
  | .tideOverrideWrite which value => execTideOverrideWrite which value s
  | .fwWriteImage slot image ok => execFwWriteImage slot image ok s
  | .fwWriteSettings store ok => execFwWriteSettings store ok s
  | .fwReadSettings => execFwReadSettings s
  | .fwSelectSlot slot => execFwSelectSlot slot s
  | .fwLiveUpdate => execFwLiveUpdate s
  | .fwSafeHarbourRequest => execFwSafeHarbourRequest s
  | _ => .next s
/-- A write that waited for the new headland takes effect. -/
def applyQueued (s : State) (i : Instr) : State := after s (queuedEffect i s)
/-- R514, HEADLAND_RESUME: the role is taken, and the queued writes take effect in order. -/
def execHeadlandResume (restarted : Bool) (s : State) : Result :=
  .next (match s.recov.moving, nextHeadland s with
    | some _, some n =>
      let q := s.host.moveQueue
      let s := takeRole { s with host := { s.host with moveQueue := [] } } n restarted
      q.foldl applyQueued s
    | _, _ => s)

end Sys2Proof.Machine
end

