-- ==== Sys2Proof/Machine/Dispatch.lean ====
section
/-!
DEFINITION. What each command does, one arm per constructor of `Instr`.
-/
namespace Sys2Proof.Machine

/-- The effect of a command on everything but the queue. -/
def exec (i : Instr) (s : State) : Host.Outcome State Fault Refusal :=
  match i with
  | .nop core ctx w => Sys2Proof.Machine.execNop core ctx w s
  | .li core ctx w => Sys2Proof.Machine.execLi core ctx w s
  | .lui core ctx w => Sys2Proof.Machine.execLui core ctx w s
  | .add core ctx w => Sys2Proof.Machine.execAdd core ctx w s
  | .sub core ctx w => Sys2Proof.Machine.execSub core ctx w s
  | .mul core ctx w => Sys2Proof.Machine.execMul core ctx w s
  | .and core ctx w => Sys2Proof.Machine.execAnd core ctx w s
  | .or core ctx w => Sys2Proof.Machine.execOr core ctx w s
  | .xor core ctx w => Sys2Proof.Machine.execXor core ctx w s
  | .shl core ctx w => Sys2Proof.Machine.execShl core ctx w s
  | .shr core ctx w => Sys2Proof.Machine.execShr core ctx w s
  | .sra core ctx w => Sys2Proof.Machine.execSra core ctx w s
  | .min core ctx w => Sys2Proof.Machine.execMin core ctx w s
  | .max core ctx w => Sys2Proof.Machine.execMax core ctx w s
  | .ident core ctx w => Sys2Proof.Machine.execId core ctx w s
  | .stepRead core ctx w => Sys2Proof.Machine.execStep core ctx w s
  | .tideRead core ctx w => Sys2Proof.Machine.execTide core ctx w s
  | .br core ctx w => Sys2Proof.Machine.execBr core ctx w s
  | .loop core ctx w => Sys2Proof.Machine.execLoop core ctx w s
  | .endl core ctx w => Sys2Proof.Machine.execEndl core ctx w s
  | .endProgram core ctx w => Sys2Proof.Machine.execEnd core ctx w s
  | .mma core ctx w => Sys2Proof.Machine.execMma core ctx w s
  | .mmaGa core ctx w => Sys2Proof.Machine.execMmaGa core ctx w s
  | .mmaGb core ctx w => Sys2Proof.Machine.execMmaGb core ctx w s
  | .mmaRo core ctx w => Sys2Proof.Machine.execMmaRo core ctx w s
  | .vmov core ctx w => Sys2Proof.Machine.execVmov core ctx w s
  | .vadd core ctx w => Sys2Proof.Machine.execVadd core ctx w s
  | .vsub core ctx w => Sys2Proof.Machine.execVsub core ctx w s
  | .vmul core ctx w => Sys2Proof.Machine.execVmul core ctx w s
  | .vfma core ctx w => Sys2Proof.Machine.execVfma core ctx w s
  | .vmin core ctx w => Sys2Proof.Machine.execVmin core ctx w s
  | .vmax core ctx w => Sys2Proof.Machine.execVmax core ctx w s
  | .vdiv core ctx w => Sys2Proof.Machine.execVdiv core ctx w s
  | .vsqrt core ctx w => Sys2Proof.Machine.execVsqrt core ctx w s
  | .vabs core ctx w => Sys2Proof.Machine.execVabs core ctx w s
  | .vneg core ctx w => Sys2Proof.Machine.execVneg core ctx w s
  | .vcmp core ctx w => Sys2Proof.Machine.execVcmp core ctx w s
  | .vsel core ctx w => Sys2Proof.Machine.execVsel core ctx w s
  | .vsfu core ctx w => Sys2Proof.Machine.execVsfu core ctx w s
  | .vrsum core ctx w => Sys2Proof.Machine.execVrsum core ctx w s
  | .vramax core ctx w => Sys2Proof.Machine.execVramax core ctx w s
  | .vrssq core ctx w => Sys2Proof.Machine.execVrssq core ctx w s
  | .vrand core ctx w => Sys2Proof.Machine.execVrand core ctx w s
  | .vrbits core ctx w => Sys2Proof.Machine.execVrbits core ctx w s
  | .vbcast core ctx w => Sys2Proof.Machine.execVbcast core ctx w s
  | .vtos core ctx w => Sys2Proof.Machine.execVtos core ctx w s
  | .vstov core ctx w => Sys2Proof.Machine.execVstov core ctx w s
  | .wcopy core ctx w => Sys2Proof.Machine.execWcopy core ctx w s
  | .wzero core ctx w => Sys2Proof.Machine.execWzero core ctx w s
  | .waadd core ctx w => Sys2Proof.Machine.execWaadd core ctx w s
  | .wamax core ctx w => Sys2Proof.Machine.execWamax core ctx w s
  | .wacas core ctx w => Sys2Proof.Machine.execWacas core ctx w s
  | .wafadd core ctx w => Sys2Proof.Machine.execWafadd core ctx w s
  | .swtide core ctx w => Sys2Proof.Machine.execSwtide core ctx w s
  | .sarrive core ctx w => Sys2Proof.Machine.execSarrive core ctx w s
  | .swains core ctx w => Sys2Proof.Machine.execSwains core ctx w s
  | .sdrain core ctx w => Sys2Proof.Machine.execSdrain core ctx w s
  | .stbar core ctx w => Sys2Proof.Machine.execStbar core ctx w s
  | .scommit core ctx w => Sys2Proof.Machine.execScommit core ctx w s
  | .tupd core ctx w => Sys2Proof.Machine.execTupd core ctx w s
  | .tssq core ctx w => Sys2Proof.Machine.execTssq core ctx w s
  | .tclip core ctx w => Sys2Proof.Machine.execTclip core ctx w s
  | .tmov core ctx w => Sys2Proof.Machine.execTmov core ctx w s
  | .tlin core ctx w => Sys2Proof.Machine.execTlin core ctx w s
  | .tflag core ctx w => Sys2Proof.Machine.execTflag core ctx w s
  | .rret core ctx w => Sys2Proof.Machine.execRret core ctx w s
  | .rarg core ctx w => Sys2Proof.Machine.execRarg core ctx w s
  | .rsend core ctx w => Sys2Proof.Machine.execRsend core ctx w s
  | .rwait core ctx w => Sys2Proof.Machine.execRwait core ctx w s
  | .rred core ctx w => Sys2Proof.Machine.execRred core ctx w s
  | .rnarw core ctx w => Sys2Proof.Machine.execRnarw core ctx w s
  | .rglean core ctx w => Sys2Proof.Machine.execRglean core ctx w s
  | .tileCommit core ctx parityErrors wrong => Sys2Proof.Machine.execTileCommit core ctx parityErrors wrong s
  | .tileDrainEnd core ctx => Sys2Proof.Machine.execTileDrainEnd core ctx s
  | .collectivePoint core ctx => Sys2Proof.Machine.execCollectivePoint core ctx s
  | .packetAdmit core ctx hostOk hostData => Sys2Proof.Machine.execPacketAdmit core ctx hostOk hostData s
  | .wainDescriptorComplete core ctx => Sys2Proof.Machine.execWainDescriptorComplete core ctx s
  | .engineHang core ctx engine => Sys2Proof.Machine.execEngineHang core ctx engine s
  | .routineHang core ctx => Sys2Proof.Machine.execRoutineHang core ctx s
  | .contextSwitch cluster => Sys2Proof.Machine.execContextSwitch cluster s
  | .scratchpadScrub die corrected uncorrectable => Sys2Proof.Machine.execScratchpadScrub die corrected uncorrectable s
  | .arrivalDeadline core ctx => Sys2Proof.Machine.execArrivalDeadline core ctx s
  | .voteTick core ctx => Sys2Proof.Machine.execVoteTick core ctx s
  | .collectiveLimit core ctx => Sys2Proof.Machine.execCollectiveLimit core ctx s
  | .stepCommit cove remoteCommit => Sys2Proof.Machine.execStepCommit cove remoteCommit s
  | .slackWaterEnd cove => Sys2Proof.Machine.execSlackWaterEnd cove s
  | .commitLimit cove => Sys2Proof.Machine.execCommitLimit cove s
  | .discardNoticeReceive cove sender jobTag step tick => Sys2Proof.Machine.execDiscardNoticeReceive cove sender jobTag step tick s
  | .replayStart cove => Sys2Proof.Machine.execReplayStart cove s
  | .slackEvalSnapshot cove => Sys2Proof.Machine.execSlackEvalSnapshot cove s
  | .slackEbb cove => Sys2Proof.Machine.execSlackEbb cove s
  | .slackFlood cove => Sys2Proof.Machine.execSlackFlood cove s
  | .slackReplicaCopy cove peerData => Sys2Proof.Machine.execSlackReplicaCopy cove peerData s
  | .digestTableReceive cove peer step table crcOk => Sys2Proof.Machine.execDigestTableReceive cove peer step table crcOk s
  | .coveRestartTick cove => Sys2Proof.Machine.execCoveRestartTick cove s
  | .checkpointDrainEnd cove code lbaSize => Sys2Proof.Machine.execCheckpointDrainEnd cove code lbaSize s
  | .freezeTick cove => Sys2Proof.Machine.execFreezeTick cove s
  | .freezeLanded cove => Sys2Proof.Machine.execFreezeLanded cove s
  | .thawTick cove => Sys2Proof.Machine.execThawTick cove s
  | .restoreEnd cove code data => Sys2Proof.Machine.execRestoreEnd cove code data s
  | .markPulse => Sys2Proof.Machine.execMarkPulse s
  | .tideMarkInterval => Sys2Proof.Machine.execTideMarkInterval s
  | .referenceLost => Sys2Proof.Machine.execReferenceLost s
  | .referenceRestored => Sys2Proof.Machine.execReferenceRestored s
  | .referenceFound => Sys2Proof.Machine.execReferenceFound s
  | .timeTransferSend port stamp => Sys2Proof.Machine.execTimeTransferSend port stamp s
  | .timeTransferRequest port packet received sent => Sys2Proof.Machine.execTimeTransferRequest port packet received sent s
  | .timeTransferResponse port packet stamp => Sys2Proof.Machine.execTimeTransferResponse port packet stamp s
  | .holdoverLimit => Sys2Proof.Machine.execHoldoverLimit s
  | .tideDataWrite value => Sys2Proof.Machine.execTideDataWrite value s
  | .moduleSwitchArm value => Sys2Proof.Machine.execModuleSwitchArm value s
  | .moduleSwitchReapply value => Sys2Proof.Machine.execModuleSwitchReapply value s
  | .coveSwitchArm cove value => Sys2Proof.Machine.execCoveSwitchArm cove value s
  | .coveSwitchReapply cove value => Sys2Proof.Machine.execCoveSwitchReapply cove value s
  | .moduleSwitchTick bad badShore => Sys2Proof.Machine.execModuleSwitchTick bad badShore s
  | .coveSwitchTick cove bad badShore => Sys2Proof.Machine.execCoveSwitchTick cove bad badShore s
  | .moduleReapplyTick bad badShore => Sys2Proof.Machine.execModuleReapplyTick bad badShore s
  | .coveReapplyTick cove bad badShore => Sys2Proof.Machine.execCoveReapplyTick cove bad badShore s
  | .clockChangeEnd cove => Sys2Proof.Machine.execClockChangeEnd cove s
  | .tideCRestartWrite cove value fn => Sys2Proof.Machine.execTideCRestartWrite cove value fn s
  | .generationHoldTimeout => Sys2Proof.Machine.execGenerationHoldTimeout s
  | .refreshWindow stack => Sys2Proof.Machine.execRefreshWindow stack s
  | .stolenRefreshWindow stack => Sys2Proof.Machine.execStolenRefreshWindow stack s
  | .routeDataWrite value => Sys2Proof.Machine.execRouteDataWrite value s
  | .routeSwitchArm value => Sys2Proof.Machine.execRouteSwitchArm value s
  | .routeReapply value => Sys2Proof.Machine.execRouteReapply value s
  | .routeSwitchTick bad => Sys2Proof.Machine.execRouteSwitchTick bad s
  | .routeReapplyTick bad => Sys2Proof.Machine.execRouteReapplyTick bad s
  | .presenceLoss port => Sys2Proof.Machine.execPresenceLoss port s
  | .presenceAppear port => Sys2Proof.Machine.execPresenceAppear port s
  | .seekingPattern port => Sys2Proof.Machine.execSeekingPattern port s
  | .partnerSignalDetect port => Sys2Proof.Machine.execPartnerSignalDetect port s
  | .trainingPhaseEnd port m => Sys2Proof.Machine.execTrainingPhaseEnd port m s
  | .trainingTimeout port => Sys2Proof.Machine.execTrainingTimeout port s
  | .laneLockLost port => Sys2Proof.Machine.execLaneLockLost port s
  | .uncorrectableLimit port => Sys2Proof.Machine.execUncorrectableLimit port s
  | .serCheck port lane0 lane1 => Sys2Proof.Machine.execSerCheck port lane0 lane1 s
  | .codewordReceive port lane0 lane1 stamp => Sys2Proof.Machine.execCodewordReceive port lane0 lane1 stamp s
  | .nakReceive port seq => Sys2Proof.Machine.execNakReceive port seq s
  | .nakResendTimeout port => Sys2Proof.Machine.execNakResendTimeout port s
  | .packetWrite port p => Sys2Proof.Machine.execPacketWrite port p s
  | .packetReadRequest port p => Sys2Proof.Machine.execPacketReadRequest port p s
  | .packetReadResponse port p => Sys2Proof.Machine.execPacketReadResponse port p s
  | .packetAtomicRequest port p => Sys2Proof.Machine.execPacketAtomicRequest port p s
  | .packetAtomicResponse port p => Sys2Proof.Machine.execPacketAtomicResponse port p s
  | .packetAcknowledge port p => Sys2Proof.Machine.execPacketAcknowledge port p s
  | .packetStatus port p => Sys2Proof.Machine.execPacketStatus port p s
  | .packetReservedType port seq => Sys2Proof.Machine.execPacketReservedType port seq s
  | .packetTransit port p => Sys2Proof.Machine.execPacketTransit port p s
  | .ackEmit port stream => Sys2Proof.Machine.execAckEmit port stream s
  | .fabCtrlHfenceSet port value => Sys2Proof.Machine.execFabCtrlHfenceSet port value s
  | .fabCtrlHfenceClear port value => Sys2Proof.Machine.execFabCtrlHfenceClear port value s
  | .fabCtrlEnClear port value => Sys2Proof.Machine.execFabCtrlEnClear port value s
  | .fabCtrlRelease port value => Sys2Proof.Machine.execFabCtrlRelease port value s
  | .hbmScrub stack bad corrected => Sys2Proof.Machine.execHbmScrub stack bad corrected s
  | .nearMemoryScrub die bad corrected => Sys2Proof.Machine.execNearMemoryScrub die bad corrected s
  | .leaseTableWrite index words => Sys2Proof.Machine.execLeaseTableWrite index words s
  | .cvCtrlStart cove fn value => Sys2Proof.Machine.execCvCtrlStart cove fn value s
  | .cvCtrlStop cove fn value => Sys2Proof.Machine.execCvCtrlStop cove fn value s
  | .cvCtrlHold cove fn value => Sys2Proof.Machine.execCvCtrlHold cove fn value s
  | .cvDiesWrite cove fn value => Sys2Proof.Machine.execCvDiesWrite cove fn value s
  | .cvUmapWrite cove fn word value => Sys2Proof.Machine.execCvUmapWrite cove fn word value s
  | .cvQuotaWrite cove fn value => Sys2Proof.Machine.execCvQuotaWrite cove fn value s
  | .cvJobtagWrite cove fn j value => Sys2Proof.Machine.execCvJobtagWrite cove fn j value s
  | .loadingResourceFree cove => Sys2Proof.Machine.execLoadingResourceFree cove s
  | .loadingEnd cove => Sys2Proof.Machine.execLoadingEnd cove s
  | .releaseEnd cove => Sys2Proof.Machine.execReleaseEnd cove s
  | .cvEvalCtrlArm cove fn value => Sys2Proof.Machine.execCvEvalCtrlArm cove fn value s
  | .cvSrCtrlEnable cove fn value => Sys2Proof.Machine.execCvSrCtrlEnable cove fn value s
  | .cvLdigCtrlEnable cove fn value => Sys2Proof.Machine.execCvLdigCtrlEnable cove fn value s
  | .cvClogCtrlEnable cove fn value => Sys2Proof.Machine.execCvClogCtrlEnable cove fn value s
  | .cvClogRdWrite cove fn value => Sys2Proof.Machine.execCvClogRdWrite cove fn value s
  | .cvBarnWrite cove fn e value => Sys2Proof.Machine.execCvBarnWrite cove fn e value s
  | .cvPlaceDataRead cove fn => Sys2Proof.Machine.execCvPlaceDataRead cove fn s
  | .loadQueueDoorbell queue fn tail => Sys2Proof.Machine.execLoadQueueDoorbell queue fn tail s
  | .loadQueueEnable queue fn value => Sys2Proof.Machine.execLoadQueueEnable queue fn value s
  | .loadEntryNop queue => Sys2Proof.Machine.execLoadEntryNop queue s
  | .loadHostCopy queue ok data => Sys2Proof.Machine.execLoadHostCopy queue ok data s
  | .loadStorageRead queue ok data => Sys2Proof.Machine.execLoadStorageRead queue ok data s
  | .loadImage queue ok data => Sys2Proof.Machine.execLoadImage queue ok data s
  | .loadEntryStart queue entry => Sys2Proof.Machine.execLoadEntryStart queue entry s
  | .loadEntryEnd queue => Sys2Proof.Machine.execLoadEntryEnd queue s
  | .loadConnConnect k descriptor ok => Sys2Proof.Machine.execLoadConnConnect k descriptor ok s
  | .loadConnDisconnect k => Sys2Proof.Machine.execLoadConnDisconnect k s
  | .connectionUp k up => Sys2Proof.Machine.execConnectionUp k up s
  | .connectionDrop k => Sys2Proof.Machine.execConnectionDrop k s
  | .ckptTake cove value regions => Sys2Proof.Machine.execCkptTake cove value regions s
  | .ckptFreeze cove value regions => Sys2Proof.Machine.execCkptFreeze cove value regions s
  | .ckptThaw cove value => Sys2Proof.Machine.execCkptThaw cove value s
  | .ckptRollback cove value => Sys2Proof.Machine.execCkptRollback cove value s
  | .ckptRestore cove value manifest alt => Sys2Proof.Machine.execCkptRestore cove value manifest alt s
  | .ckptAdopt cove value => Sys2Proof.Machine.execCkptAdopt cove value s
  | .ckptStandinWrite cove value => Sys2Proof.Machine.execCkptStandinWrite cove value s
  | .ckptRemapWrite index value => Sys2Proof.Machine.execCkptRemapWrite index value s
  | .chaffRound => Sys2Proof.Machine.execChaffRound s
  | .chaffRunEnd core wrong => Sys2Proof.Machine.execChaffRunEnd core wrong s
  | .wearScoreUpdate => Sys2Proof.Machine.execWearScoreUpdate s
  | .lifeLedgerWrite ok => Sys2Proof.Machine.execLifeLedgerWrite ok s
  | .healthFence value => Sys2Proof.Machine.execHealthFence value s
  | .healthFenceClear value => Sys2Proof.Machine.execHealthFenceClear value s
  | .healthLedgerDataRead => Sys2Proof.Machine.execHealthLedgerDataRead s
  | .recoveryStart => Sys2Proof.Machine.execRecoveryStart s
  | .rungOverrun => Sys2Proof.Machine.execRungOverrun s
  | .engineSelfTestEnd pass => Sys2Proof.Machine.execEngineSelfTestEnd pass s
  | .suspectTestEnd pass => Sys2Proof.Machine.execSuspectTestEnd pass s
  | .coveResetEnd => Sys2Proof.Machine.execCoveResetEnd s
  | .recovContextReset value => Sys2Proof.Machine.execRecovContextReset value s
  | .recovEngineReset value => Sys2Proof.Machine.execRecovEngineReset value s
  | .recovCoveReset value => Sys2Proof.Machine.execRecovCoveReset value s
  | .recovModuleReset value => Sys2Proof.Machine.execRecovModuleReset value s
  | .recovWrackFree value => Sys2Proof.Machine.execRecovWrackFree value s
  | .recovWrackCopy value => Sys2Proof.Machine.execRecovWrackCopy value s
  | .wrackCopyEnd status => Sys2Proof.Machine.execWrackCopyEnd status s
  | .headlandLivenessAdvance => Sys2Proof.Machine.execHeadlandLivenessAdvance s
  | .headlandLivenessLost => Sys2Proof.Machine.execHeadlandLivenessLost s
  | .headlandResume restarted => Sys2Proof.Machine.execHeadlandResume restarted s
  | .headlandUnclaimed => Sys2Proof.Machine.execHeadlandUnclaimed s
  | .heartbeatAdvance => Sys2Proof.Machine.execHeartbeatAdvance s
  | .bootReadyTimeout => Sys2Proof.Machine.execBootReadyTimeout s
  | .summaryFlush ring => Sys2Proof.Machine.execSummaryFlush ring s
  | .healthErrRdWrite fn value => Sys2Proof.Machine.execHealthErrRdWrite fn value s
  | .healthErrFetch fn value => Sys2Proof.Machine.execHealthErrFetch fn value s
  | .errFetchEnd fn status => Sys2Proof.Machine.execErrFetchEnd fn status s
  | .healthCntFetch fn value => Sys2Proof.Machine.execHealthCntFetch fn value s
  | .counterFetchEnd fn status => Sys2Proof.Machine.execCounterFetchEnd fn status s
  | .traceSlFetch fn value => Sys2Proof.Machine.execTraceSlFetch fn value s
  | .slFetchEnd fn status => Sys2Proof.Machine.execSlFetchEnd fn status s
  | .traceCWtCtrlWrite cove fn value => Sys2Proof.Machine.execTraceCWtCtrlWrite cove fn value s
  | .traceCWtRdWrite cove fn value => Sys2Proof.Machine.execTraceCWtRdWrite cove fn value s
  | .waitRecordForward die => Sys2Proof.Machine.execWaitRecordForward die s
  | .strandlineWrite ok => Sys2Proof.Machine.execStrandlineWrite ok s
  | .configRequest fn write offset value => Sys2Proof.Machine.execConfigRequest fn write offset value s
  | .pcieLinkReset => Sys2Proof.Machine.execPcieLinkReset s
  | .pcieLinkUp rate width => Sys2Proof.Machine.execPcieLinkUp rate width s
  | .vfFlr fn => Sys2Proof.Machine.execVfFlr fn s
  | .pfFlr => Sys2Proof.Machine.execPfFlr s
  | .d3hotEntry fn => Sys2Proof.Machine.execD3hotEntry fn s
  | .d0Return fn => Sys2Proof.Machine.execD0Return fn s
  | .registerWrite fn offset size value => Sys2Proof.Machine.execRegisterWrite fn offset size value s
  | .sringEnable fn value => Sys2Proof.Machine.execSringEnable fn value s
  | .sringRdWrite fn value => Sys2Proof.Machine.execSringRdWrite fn value s
  | .statusLineWrite fn => Sys2Proof.Machine.execStatusLineWrite fn s
  | .tideOverrideWrite which value => Sys2Proof.Machine.execTideOverrideWrite which value s
  | .fwWriteImage slot image ok => Sys2Proof.Machine.execFwWriteImage slot image ok s
  | .fwWriteSettings store ok => Sys2Proof.Machine.execFwWriteSettings store ok s
  | .fwReadSettings => Sys2Proof.Machine.execFwReadSettings s
  | .fwSelectSlot slot => Sys2Proof.Machine.execFwSelectSlot slot s
  | .fwLiveUpdate => Sys2Proof.Machine.execFwLiveUpdate s
  | .fwSafeHarbourRequest => Sys2Proof.Machine.execFwSafeHarbourRequest s
  | .fwCommandEnd ok => Sys2Proof.Machine.execFwCommandEnd ok s
  | .liveUpdateUnitSwap ok => Sys2Proof.Machine.execLiveUpdateUnitSwap ok s
  | .inputTurnOn => Sys2Proof.Machine.execInputTurnOn s
  | .powerGood => Sys2Proof.Machine.execPowerGood s
  | .moduleReady => Sys2Proof.Machine.execModuleReady s
  | .healthCheckPass => Sys2Proof.Machine.execHealthCheckPass s
  | .inputUndervoltage => Sys2Proof.Machine.execInputUndervoltage s
  | .inputOvervoltage => Sys2Proof.Machine.execInputOvervoltage s
  | .intermediateRailLoss => Sys2Proof.Machine.execIntermediateRailLoss s
  | .holdupEnd => Sys2Proof.Machine.execHoldupEnd s
  | .regulatorCurrentLimit die rail => Sys2Proof.Machine.execRegulatorCurrentLimit die rail s
  | .regulatorOvertemp die rail => Sys2Proof.Machine.execRegulatorOvertemp die rail s
  | .regulatorTelemetry die vcore icore temp power trimEnd => Sys2Proof.Machine.execRegulatorTelemetry die vcore icore temp power trimEnd s
  | .errorCountForward report => Sys2Proof.Machine.execErrorCountForward report s
  | .marginRead die reading => Sys2Proof.Machine.execMarginRead die reading s
  | .dieTempReading unit temp => Sys2Proof.Machine.execDieTempReading unit temp s
  | .hbmTempReading stack temp => Sys2Proof.Machine.execHbmTempReading stack temp s
  | .tripTimeout => Sys2Proof.Machine.execTripTimeout s
  | .thermalReturn => Sys2Proof.Machine.execThermalReturn s
  | .hbmRecentre stack ok => Sys2Proof.Machine.execHbmRecentre stack ok s
  | .opticalTrim engine power => Sys2Proof.Machine.execOpticalTrim engine power s
  | .trayIdent => Sys2Proof.Machine.execTrayIdent s
  | .trayHeartbeat => Sys2Proof.Machine.execTrayHeartbeat s
  | .trayState => Sys2Proof.Machine.execTrayState s
  | .trayPower => Sys2Proof.Machine.execTrayPower s
  | .trayCoves => Sys2Proof.Machine.execTrayCoves s
  | .trayPorts => Sys2Proof.Machine.execTrayPorts s
  | .trayServiceWrite value pec => Sys2Proof.Machine.execTrayServiceWrite value pec s
  | .trayServiceRead => Sys2Proof.Machine.execTrayServiceRead s
  | .trayLocateWrite value pec => Sys2Proof.Machine.execTrayLocateWrite value pec s
  | .trayLocateRead => Sys2Proof.Machine.execTrayLocateRead s
  | .trayCapWrite value pec => Sys2Proof.Machine.execTrayCapWrite value pec s
  | .trayCapRead => Sys2Proof.Machine.execTrayCapRead s
  | .trayReset value pec => Sys2Proof.Machine.execTrayReset value pec s
  | .traySlSelWrite value pec => Sys2Proof.Machine.execTraySlSelWrite value pec s
  | .traySlSelRead => Sys2Proof.Machine.execTraySlSelRead s
  | .traySlData => Sys2Proof.Machine.execTraySlData s
  | .trayUnknownCommand code => Sys2Proof.Machine.execTrayUnknownCommand code s
  | .trayClockLowTimeout => Sys2Proof.Machine.execTrayClockLowTimeout s
  | .trayFileRefresh => Sys2Proof.Machine.execTrayFileRefresh s
  | .localBusPoll segment target lineLow reading => Sys2Proof.Machine.execLocalBusPoll segment target lineLow reading s
  | .segmentProbe segment acks => Sys2Proof.Machine.execSegmentProbe segment acks s
  | .failedTargetProbe segment target ack => Sys2Proof.Machine.execFailedTargetProbe segment target ack s
  | .segmentPowerRestore segment lineHigh stuck => Sys2Proof.Machine.execSegmentPowerRestore segment lineHigh stuck s
  | .emptyingCovesFree => Sys2Proof.Machine.execEmptyingCovesFree s
  | .safeToRemove => Sys2Proof.Machine.execSafeToRemove s
  | .registerRead fn offset size => Sys2Proof.Machine.execRegisterRead fn offset size s
  | .converterEnableChange made => Sys2Proof.Machine.execConverterEnableChange made s
  | .inputOvervoltageClear => Sys2Proof.Machine.execInputOvervoltageClear s

end Sys2Proof.Machine
end

