-- ==== Sys2Proof/Machine/Step.lean ====
section
/-!
DEFINITION. One step of the block: the command at the front of the queue, or, with no command waiting, one tick of the
module's clock.
-/
namespace Sys2Proof.Machine

/-- One step. On an empty queue a tick passes (DESIGN CHOICE, log entry 26). -/
def step (s : State) : Host.Outcome State Fault Refusal :=
  match s.pending with
  | [] => .next (clockTick s)
  | i :: q => exec i { s with pending := q }

/-- The state with the command that a word of the table spells at the front of its queue: the table gives no row any
bits, so the state is unchanged. -/
def State.withFetchWord (s : State) (nbits w : Nat) : State :=
  match decodeTableWord nbits w with
  | some i => { s with pending := i :: s.pending }
  | none => s

end Sys2Proof.Machine
end

