-- ==== Sys2Proof/Safety.lean ====
section
/-!
DEFINITION. What the statements take for a sound state: canonical memories, and the build and topology mode that R1 and
R2 allow; and what it means that a command leaves the queue and the build alone.
-/
namespace Sys2Proof.Machine

/-- A byte memory in canonical form: addresses strictly rising, no byte listed that reads as an unlisted one. -/
def Memory.wf (m : Memory) : Bool := Sparse.wf 0#8 m

/-- Every scratchpad, near memory and HBM stack of the module is in canonical form. -/
def State.memoriesCanonical (s : State) : Prop :=
  (∀ p ∈ s.cores, Memory.wf p.2.scratch = true) ∧ (∀ p ∈ s.mem.near, Memory.wf p.2 = true)
    ∧ ∀ p ∈ s.mem.hbm, Memory.wf p.2 = true

/-- A VGX6401-CU is in copper-only mode (R1, R2). -/
def State.buildOk (s : State) : Prop := s.cu = true → s.copperOnly = true

/-- The invariant of the module's states. -/
def State.Inv (s : State) : Prop := s.buildOk ∧ s.memoriesCanonical

/-- How often an event of a reporter has been counted (R517, R535), saturating at 2^32 - 1. -/
def eventCount (s : State) (code reporter : Nat) : Nat := Sparse.get 0 s.trace.sources (code * 2048 + reporter)

/-- One more occurrence of an event than before. -/
def Recorded (s t : State) (code reporter : Nat) : Prop :=
  eventCount t code reporter = satTo 32 (eventCount s code reporter + 1)

/-- A context may issue, the instruction `op` with fields `w` is what it fetches (R96, R100, R134), from a word without a
bit error (R118), and no register that it names is locked (R97). -/
structure Fetched (s : State) (core k op : Nat) (w : Fields) : Prop where
  can : canIssue s core k = true
  region : fetchBad (ctxAt s core k) = false
  sound : fetchRead s core k = (true, s)
  word : fetchedWord s core k = encodeWord op w
  listed : opListed op = true
  ready : scalarLocked (ctxAt s core k) op w = false
  clear : vregLocked (ctxAt s core k) op w = false

/-- The fields pass the checks that R128, R164 and R198 make of every instruction. -/
def FieldsOk (s : State) (core k op : Nat) (w : Fields) (u : Use) (wr : Writes) (allowed : Bool) : Prop :=
  unusedZero w u = true ∧ placeOk (inRoutine (ctxAt s core k)) (op / 256 == 6) allowed w = true
    ∧ ownsWrites (inRoutine (ctxAt s core k)) wr = true

/-- One context of one core changed, and counters. -/
def CoreFrame (s t : State) (core k : Nat) : Prop :=
  (∀ j, j ≠ k → ctxAt t core j = ctxAt s core j)
    ∧ coreAt t core = { coreAt s core with ctxs := (coreAt t core).ctxs }
    ∧ (∀ i, i ≠ core → coreAt t i = coreAt s i)
    ∧ t = { s with
        cores := t.cores,
        trace := { s.trace with counters := t.trace.counters, coveCounters := t.trace.coveCounters } }

/-- What every effect keeps: the build, the queue, copper-only mode on a CU module and canonical memories. -/
structure Keep (s t : State) : Prop where
  cu : t.cu = s.cu
  pending : t.pending = s.pending
  copper : s.buildOk → t.buildOk
  memories : s.memoriesCanonical → t.memoriesCanonical

/-- A result that is a next state which keeps these. -/
def OutKeep (s : State) (r : Result) : Prop := ∃ t, r = .next t ∧ Keep s t

end Sys2Proof.Machine
end

