-- ==== Sys2Proof/Certificates/Slice0/Obligations.lean ====
section
/-!
DEFINITION. The statements for the provers, and the words they are said in.
-/
open Sys2Proof Sys2Proof.Machine

/-! ### The block and its queue -/

/-- The front command of the queue is what a step executes, on the state with the rest of the queue. -/
def Obligations.StepTakesFrontCommand : Prop :=
  ∀ (s : State) (i : Instr) (q : List Instr), step { s with pending := i :: q } = exec i { s with pending := q }

/-- With no command waiting a step is one tick of the clock (the model's choice, log entry 26): it answers a next state;
once the marks have set the tide counter it advances as R286 says, by 1 or in a slew by 0 or 2, and the internal
oscillator counts while the rails are good. -/
def Obligations.EmptyQueueStepIsOneTick : Prop :=
  ∀ s : State, s.pending = [] → ∃ t, step s = .next t ∧ t = clockTick s ∧ t.pending = []
    ∧ t.tide.now = (if s.tide.marked then s.tide.now + advanceOf s else s.tide.now)
    ∧ t.fw.osc = (if s.pwr.powerGood then s.fw.osc + 1 else s.fw.osc) ∧ t.tide.marked = s.tide.marked

/-- Every command completes: it answers a next state, leaves the queue and the build alone, and neither takes a
VGX6401-CU out of copper-only mode (R1, R2) nor breaks the canonical form of a memory. -/
def Obligations.EveryCommandCompletes : Prop := ∀ (i : Instr) (s : State), OutKeep s (exec i s)

/-- The invariant of the module's states is kept by every step. -/
def Obligations.EveryStepKeepsInvariant : Prop := ∀ s t : State, s.Inv → step s = .next t → t.Inv

/-- The invariant holds at reset. -/
def Obligations.ResetMeetsInvariant : Prop := State.reset.Inv

/-! ### Instruction words -/

/-- Every instruction command's word decodes, on its own core and context, to that command, whatever its fields
(R127, R128). -/
def Obligations.DecodeOfEncodeIsSame : Prop :=
  ∀ (i : Instr) (core ctx : Nat) (b : BitVec 128), instrPlace i = some (core, ctx) → encode i = some b →
    decodeWord core ctx b = .ok i

/-- Two words that decode alike are one word, so every bit of a listed instruction's word is read (R127). -/
def Obligations.EncodeOfDecodeIsSame : Prop :=
  ∀ (core ctx : Nat) (b : BitVec 128) (i : Instr), decodeWord core ctx b = .ok i → encode i = some b

/-- The word that R144 writes out for MMA.RO, and the one of R161 for TUPD, decode to them; a reserved class and an
unlisted op are refused by name (R128). -/
def Obligations.SpecWordsDecode : Prop :=
  decodeWord 0 0 0x104214C8403311400000000014230000#128 = .ok (.mmaRo 0 0
      { f1 := 4#5, f2 := 5#5, f3 := 6#5, f4 := 8#5, control := 0x40331140#32, imm := 0#32, commune := 0x1423#16,
        tail := 0#16 })
    ∧ decodeWord 0 0 0x50052D8D300100000000014000000000#128 = .ok (.tupd 0 0
      { f1 := 10#5, f2 := 11#5, f3 := 12#5, f4 := 13#5, control := 0x30010000#32, imm := 0x140#32, commune := 0#16,
        tail := 0#16 })
    ∧ decodeWord 0 0 0#128 = .ok (.nop 0 0 ⟨0#5, 0#5, 0#5, 0#5, 0#32, 0#32, 0#16, 0#16⟩)
    ∧ decodeWord 0 0 (BitVec.ofNat 128 (0x00E * 2 ^ 116)) = .error .unlistedOp
    ∧ decodeWord 0 0 (BitVec.ofNat 128 (0x700 * 2 ^ 116)) = .error .reservedClass

/-! ### CTL instructions -/

namespace Sys2Proof.Claim

/-- Scalar register `rd` takes `v` (s0 stays 0), the program counter steps by one, and nothing else of the module
changes but counters. -/
def WroteScalar (s t : State) (core k : Nat) (rd : BitVec 5) (v : DWord) : Prop :=
  (∀ r, sreg (ctxAt t core k) r = if r = rd ∧ rd ≠ 0#5 then v else sreg (ctxAt s core k) r)
    ∧ ctxAt t core k = { ctxAt s core k with
        pc := (ctxAt s core k).pc + 1, sregs := (ctxAt t core k).sregs }
    ∧ CoreFrame s t core k

/-- The two-source operations of R137: class and op, command, and result. -/
def aluRows : List (Nat × (Nat → Nat → Fields → Instr) × (DWord → DWord → DWord)) :=
  [(0x003, .add, fun a b => a + b), (0x004, .sub, fun a b => a - b), (0x005, .mul, fun a b => a * b),
   (0x006, .and, fun a b => a &&& b), (0x007, .or, fun a b => a ||| b), (0x008, .xor, fun a b => a ^^^ b),
   (0x009, .shl, fun a b => a <<< (b.toNat % 64)), (0x00A, .shr, fun a b => a >>> (b.toNat % 64)),
   (0x00B, .sra, fun a b => BitVec.ofInt 64 (a.toInt / 2 ^ (b.toNat % 64))),
   (0x00C, .min, fun a b => if a.toInt < b.toInt then a else b),
   (0x00D, .max, fun a b => if a.toInt < b.toInt then b else a)]

/-- The second source of R136. -/
def second (x : Ctx) (w : Fields) : DWord :=
  if w.control.getLsbD 31 then w.imm.signExtend 64 else sreg x w.f3

end Sys2Proof.Claim

open Sys2Proof.Claim

/-- R136, R137: ADD, SUB, MUL, AND, OR, XOR, SHL, SHR, SRA, MIN and MAX write rD with their result of rA and the
second source, step the program counter and change nothing else but counters. -/
def Sys2Proof.Claim.TwoSourceScalarOps : Prop :=
  ∀ row ∈ aluRows, ∀ (core k : Nat) (w : Fields) (s : State), Fetched s core k row.1 w →
    FieldsOk s core k row.1 w (aluUse w) ⟨some w.f1, none, none⟩ true →
    ∃ t, exec (row.2.1 core k w) s = .next t
      ∧ WroteScalar s t core k w.f1 (row.2.2 (sreg (ctxAt s core k) w.f2) (second (ctxAt s core k) w))

/-- R137, R139: LI sign-extends Imm, LUI puts Imm in rD[63:32] and keeps the rest, ID reads an identity value,
STEP the step counter of the core's cove, TIDE the context's anchor. -/
def Sys2Proof.Claim.ScalarReads : Prop :=
  ∀ (core k : Nat) (w : Fields) (s : State),
    (Fetched s core k 0x001 w →
      FieldsOk s core k 0x001 w { Use.none with f1 := true, imm := true } ⟨some w.f1, none, none⟩ true →
      ∃ t, exec (.li core k w) s = .next t ∧ WroteScalar s t core k w.f1 (w.imm.signExtend 64))
    ∧ (Fetched s core k 0x002 w →
      FieldsOk s core k 0x002 w { Use.none with f1 := true, imm := true } ⟨some w.f1, none, none⟩ true →
      ∃ t, exec (.lui core k w) s = .next t
        ∧ WroteScalar s t core k w.f1 (w.imm ++ (sreg (ctxAt s core k) w.f1).truncate 32))
    ∧ (Fetched s core k 0x010 w → w.imm.toNat < 6 →
      FieldsOk s core k 0x010 w { Use.none with f1 := true, imm := true } ⟨some w.f1, none, none⟩ true →
      ∃ t, exec (.ident core k w) s = .next t ∧ WroteScalar s t core k w.f1 (BitVec.ofNat 64
        ([core, core / 16, core / 4, core % 4].getD w.imm.toNat (identity s core w.imm.toNat))))
    ∧ (Fetched s core k 0x011 w →
      FieldsOk s core k 0x011 w { Use.none with f1 := true } ⟨some w.f1, none, none⟩ true →
      ∃ t c, exec (.stepRead core k w) s = .next t ∧ coveOfCore s core = some c
        ∧ WroteScalar s t core k w.f1 (coveAt s c).step)
    ∧ (Fetched s core k 0x012 w →
      FieldsOk s core k 0x012 w { Use.none with f1 := true } ⟨some w.f1, none, none⟩ true →
      ∃ t, exec (.tideRead core k w) s = .next t
        ∧ WroteScalar s t core k w.f1 (BitVec.ofNat 64 (ctxAt s core k).anchor))

/-- R137, R138: NOP steps the program counter; BR goes to its target when its condition holds; LOOP sets its counter;
ENDL counts down and branches back until the counter is 0; END ends the context, which keeps its window and issues no
more. A LOOP of 0 or above 2^32 - 1 is an operand fault, a program counter outside the code region a bounds fault. -/
def Obligations.ControlFlow : Prop :=
  ∀ (core k : Nat) (w : Fields) (s : State),
    (Fetched s core k 0x000 w → FieldsOk s core k 0x000 w Use.none Writes.none true →
      ∃ t, exec (.nop core k w) s = .next t ∧ CoreFrame s t core k
        ∧ ctxAt t core k = { ctxAt s core k with pc := (ctxAt s core k).pc + 1 })
    ∧ (Fetched s core k 0x020 w → ctl w 94 92 ≠ 7 →
      FieldsOk s core k 0x020 w
        { aluUse w with f1 := false, control := 0xF0000000#32, tail := 0xFFFF#16 } Writes.none true →
      ∃ t, exec (.br core k w) s = .next t ∧ CoreFrame s t core k
        ∧ ctxAt t core k = { ctxAt s core k with
            pc := if condHolds (ctl w 94 92) (sreg (ctxAt s core k) w.f2) (second (ctxAt s core k) w)
              then branchTarget (ctxAt s core k) w else (ctxAt s core k).pc + 1 })
    ∧ (Fetched s core k 0x021 w → 1 ≤ (loopCount (ctxAt s core k) w).toNat →
      (loopCount (ctxAt s core k) w).toNat < 2 ^ 32 →
      FieldsOk s core k 0x021 w
        { Use.none with f2 := !ctlBit w 95, imm := ctlBit w 95, control := 0x8C000000#32 }
        ⟨none, some (ctl w 91 90), none⟩ true →
      ∃ t, exec (.loop core k w) s = .next t ∧ CoreFrame s t core k
        ∧ lcAt (ctxAt t core k) (ctl w 91 90) = BitVec.ofNat 32 (loopCount (ctxAt s core k) w).toNat
        ∧ (∀ i, i ≠ ctl w 91 90 → lcAt (ctxAt t core k) i = lcAt (ctxAt s core k) i)
        ∧ ctxAt t core k = { ctxAt s core k with
            pc := (ctxAt s core k).pc + 1, lcs := (ctxAt t core k).lcs })
    ∧ (Fetched s core k 0x021 w →
      (loopCount (ctxAt s core k) w).toNat = 0 ∨ 2 ^ 32 ≤ (loopCount (ctxAt s core k) w).toNat →
      exec (.loop core k w) s = .next (operandFault s core k (ctxAt s core k).pc 0x021))
    ∧ (canIssue s core k = true → fetchBad (ctxAt s core k) = true →
      ∀ row ∈ [(0x000, Instr.nop), (0x020, .br), (0x021, .loop), (0x022, .endl), (0x030, .endProgram)],
        exec (row.2 core k w) s = .next (fetchFault s core k (ctxAt s core k).pc row.1))
    ∧ (Fetched s core k 0x022 w →
      FieldsOk s core k 0x022 w { Use.none with control := 0x0C000000#32, tail := 0xFFFF#16 }
        ⟨none, some (ctl w 91 90), none⟩ true →
      ∃ t, exec (.endl core k w) s = .next t ∧ CoreFrame s t core k
        ∧ lcAt (ctxAt t core k) (ctl w 91 90) = lcAt (ctxAt s core k) (ctl w 91 90) - 1#32
        ∧ ctxAt t core k = { ctxAt s core k with
            pc := if lcAt (ctxAt s core k) (ctl w 91 90) = 1#32 then (ctxAt s core k).pc + 1
              else branchTarget (ctxAt s core k) w,
            lcs := (ctxAt t core k).lcs })
    ∧ (Fetched s core k 0x030 w → FieldsOk s core k 0x030 w Use.none Writes.none false →
      ∃ t, exec (.endProgram core k w) s = .next t
        ∧ ctxAt t core k = { ctxAt s core k with pc := (ctxAt s core k).pc + 1, mode := .ended }
        ∧ canIssue t core k = false
        ∧ (∀ i j, ¬ (i = core ∧ j = k) → ctxAt t i j = ctxAt s i j)
        ∧ (∀ i, coreAt t i = { coreAt s i with ctxs := (coreAt t i).ctxs })
        ∧ (∀ c, coveAt t c = { coveAt s c with
            ended := (coveAt s c).ended || (coveOfCore s core == some c && allEnded t c) })
        ∧ t = { s with
            cores := t.cores, coves := t.coves,
            trace := { s.trace with counters := t.trace.counters, coveCounters := t.trace.coveCounters } })

/-- A context that may not issue (R96) leaves the state as it is, and so does an instruction command that is not the
word at the program counter (the model's choice, log entry 12). A word with an uncorrectable error is not executed:
its error is reported (R118). A used bit of an unused field is an operand fault and
a program counter outside the code region is a bounds fault (R100, R128, R166): the context stops. -/
def Obligations.BlockedOrOtherWordDoesNothing : Prop :=
  ∀ row ∈ aluRows, ∀ (core k : Nat) (w : Fields) (s : State),
    (canIssue s core k = false → exec (row.2.1 core k w) s = .next s)
    ∧ (canIssue s core k = true → fetchBad (ctxAt s core k) = false → (fetchRead s core k).1 = true →
        opListed (wordOp (fetchedWord s core k)) = true →
        fetchedWord s core k ≠ encodeWord row.1 w → exec (row.2.1 core k w) s = .next s)
    ∧ (canIssue s core k = true → fetchBad (ctxAt s core k) = false → (fetchRead s core k).1 = false →
        exec (row.2.1 core k w) s = .next (fetchRead s core k).2)
    ∧ (Fetched s core k row.1 w → unusedZero w (aluUse w) = false →
        exec (row.2.1 core k w) s = .next (operandFault s core k (ctxAt s core k).pc row.1))
    ∧ (canIssue s core k = true → fetchBad (ctxAt s core k) = true →
        exec (row.2.1 core k w) s = .next (fetchFault s core k (ctxAt s core k).pc row.1))

/-- The scalar instructions that compute and that read. -/
def Obligations.ScalarOps : Prop :=
  Claim.TwoSourceScalarOps ∧ Claim.ScalarReads
/-! ### MAT and VEC instructions -/

namespace Sys2Proof.Claim

/-- The MAT rows of R142: op, command, fused, RO form, and the operand that is gathered (0 none, 1 A, 2 B). -/
def matRows : List (Nat × (Nat → Nat → Fields → Instr) × Bool × Bool × Nat) :=
  [(0x100, .mma, false, false, 0), (0x101, .mmaGa, true, false, 1), (0x102, .mmaGb, true, false, 2),
   (0x104, .mmaRo, true, true, 0)]

/-- The scratchpad ranges of the tile lie in the window, the queue of four has room and nothing open overlaps
(R88, R97, R131). -/
def TileReady (s : State) (core k : Nat) (w : Fields) : Prop :=
  let x := ctxAt s core k
  let reads := tileReads w (sreg x w.f1) (sreg x w.f2)
  let writes := tileWrites w (sreg x w.f3)
  (∀ r ∈ reads ++ writes, inWindow x r.1 r.2 = true) ∧ x.matQ.length < 4 ∧ interlocked x reads writes = false

/-- The elementwise rows of R147: operation, command, and the exact result from the function byte of the tail, the
immediate and three sources. -/
def vecRows : List (VecOp × (Nat → Nat → Fields → Instr) × (Nat → Word → Rnd → Val → Val → Val → Val)) :=
  [(.mov, .vmov, fun _ _ _ a _ _ => a), (.add, .vadd, fun _ _ r a b _ => valAdd r a b),
   (.sub, .vsub, fun _ _ r a b _ => valSub r a b), (.mul, .vmul, fun _ _ _ a b _ => valMul a b),
   (.fma, .vfma, fun _ _ r a b c => valAdd r (valMul a b) c), (.min, .vmin, fun _ _ _ a b _ => valMin a b),
   (.max, .vmax, fun _ _ _ a b _ => valMax a b), (.div, .vdiv, fun _ _ _ a b _ => valDiv a b),
   (.sqrt, .vsqrt, fun _ _ _ a _ _ => valSqrt a), (.abs, .vabs, fun _ _ _ a _ _ => valAbs a),
   (.neg, .vneg, fun _ _ _ a _ _ => valNeg a),
   (.cmp, .vcmp, fun t _ _ a b _ =>
      if predHolds ((predOfCode (t % 8)).getD .un) a b then .fin false 1 0 else .fin false 0 0),
   (.sel, .vsel, fun _ _ _ a b c => if valIsZero c then b else a),
   (.sfu, .vsfu, fun t _ _ a _ _ => roundF32 .rne 0 (sfuVal ((sfuOfCode (t % 8)).getD .recip) a)),
   (.bcast, .vbcast, fun _ i _ _ _ _ => ofF32 i)]

/-- The VEC instructions of R147: operation and command. -/
def vecOps : List (VecOp × (Nat → Nat → Fields → Instr)) :=
  [(.mov, .vmov), (.add, .vadd), (.sub, .vsub), (.mul, .vmul), (.fma, .vfma), (.min, .vmin), (.max, .vmax),
   (.div, .vdiv), (.sqrt, .vsqrt), (.abs, .vabs), (.neg, .vneg), (.cmp, .vcmp), (.sel, .vsel), (.sfu, .vsfu),
   (.rsum, .vrsum), (.ramax, .vramax), (.rssq, .vrssq), (.rand, .vrand), (.rbits, .vrbits), (.bcast, .vbcast),
   (.tos, .vtos), (.stov, .vstov)]

/-- The operand rules of R146 and R148 hold, the ranges lie in the window, the queue of eight has room and nothing open
overlaps the ranges (R88, R97). -/
def VecReady (s : State) (core k : Nat) (o : VecOp) (w : Fields) : Prop :=
  let x := ctxAt s core k
  let e := vecEntry s core k o w 0
  Fetched s core k (vecCode o) w
    ∧ FieldsOk s core k (vecCode o) w (vecUse o w)
        { Writes.none with
            sreg := if o == .tos then some w.f1 else none, vreg := vregWrite (vecCode o) w } true
    ∧ vecLegal s core o e = true
    ∧ (∀ r ∈ e.reads ++ e.writes, inWindow x r.1 r.2 = true) ∧ routineMayWrite s core k e.writes = true
    ∧ x.vecQ.length < 8 ∧ interlocked x e.reads e.writes = false

/-- What an engine of a core may change beside its context: scratchpad bytes of the given ranges of the context's window,
counters and the saturation count of the step. -/
def EngineFrame (s t : State) (core k : Nat) (dst : List Range) : Prop :=
  (∀ j, j ≠ k → ctxAt t core j = ctxAt s core j)
    ∧ (∀ a, (∀ r ∈ dst, ¬ (winAddr (ctxAt s core k) r.1 ≤ a ∧ a < winAddr (ctxAt s core k) r.1 + r.2)) →
        memByte (coreAt t core).scratch a = memByte (coreAt s core).scratch a)
    ∧ coreAt t core = { coreAt s core with ctxs := (coreAt t core).ctxs, scratch := (coreAt t core).scratch }
    ∧ (∀ i, i ≠ core → coreAt t i = coreAt s i)
    ∧ (∀ c, coveAt t c = { coveAt s c with stats := (coveAt t c).stats }
        ∧ (coveAt t c).stats = { (coveAt s c).stats with saturations := (coveAt t c).stats.saturations })
    ∧ t = { s with
        cores := t.cores, coves := t.coves,
        trace := { s.trace with counters := t.trace.counters, coveCounters := t.trace.coveCounters } }

/-- The vector queue after a stroke of its head: the instruction leaves with its last stroke (R107). -/
def queueAfter (x : Ctx) (e : VecEntry) : List VecEntry :=
  if e.n ≤ 256 * (e.strokes + 1) then x.vecQ.drop 1 else { e with strokes := e.strokes + 1 } :: x.vecQ.drop 1

/-- One stroke of an elementwise operation changes lanes of its destination register or scratchpad bytes of its
destination planes, the flags of R67 and the vector queue, and nothing else but counters. -/
def StrokeFrame (s t : State) (core k : Nat) (o : VecOp) (e : VecEntry) : Prop :=
  EngineFrame s t core k (opndRanges e.n (vecDest o e.inst))
    ∧ (∀ v l, l < 256 → ¬ (opndIsReg (vecDest o e.inst) = true ∧ v = e.inst.fields.f1.toNat) →
        lane (ctxAt t core k) v l = lane (ctxAt s core k) v l)
    ∧ ctxAt t core k = { ctxAt s core k with
        vregs := (ctxAt t core k).vregs, nonfinite := (ctxAt t core k).nonfinite,
        satCount := (ctxAt t core k).satCount, vecQ := queueAfter (ctxAt s core k) e }

/-- In a register destination, lane `i` of a stroke takes position 256 × strokes + `i`, and a lane past the last element
stays (R107). -/
def StrokeLanes (s t : State) (core k : Nat) (o : VecOp) (e : VecEntry) (v : Nat → Word) : Prop :=
  opndIsReg (vecDest o e.inst) = true → ∀ i < 256,
    lane (ctxAt t core k) e.inst.fields.f1.toNat i =
      if i < e.n - 256 * e.strokes then v (256 * e.strokes + i)
      else lane (ctxAt s core k) e.inst.fields.f1.toNat i

end Sys2Proof.Claim

/-- R142, R144: MMA, MMA.GA, MMA.GB and MMA.RO enter the matrix queue with the registers they read at issue; a
gathering form also reaches its collective point, with its call number, and waits for the routine. -/
def Obligations.TilesAreQueued : Prop :=
  ∀ row ∈ matRows, ∀ (core k : Nat) (w : Fields) (s : State), Fetched s core k row.1 w →
    FieldsOk s core k row.1 w (matUse w row.2.2.1) Writes.none false →
    matLegal s core k w row.2.2.1 row.2.2.2.1 = true → TileReady s core k w →
    ∃ t i ps, exec (row.2.1 core k w) s = .next t ∧ CoreFrame s t core k
      ∧ ctxAt t core k = { ctxAt s core k with
          pc := (ctxAt s core k).pc + 1, matQ := (ctxAt s core k).matQ ++ [i],
          lastKind := some (matFmt w 87 == some .int8 && matFmt w 83 == some .int8),
          calls := (ctxAt t core k).calls, points := (ctxAt s core k).points ++ ps }
      ∧ i.op = row.1 ∧ i.addr = (ctxAt s core k).pc ∧ i.fields = w ∧ i.tick = s.tide.now ∧ i.reruns = 0
      ∧ i.r1 = sreg (ctxAt s core k) w.f1 ∧ i.r2 = sreg (ctxAt s core k) w.f2 ∧ i.r3 = sreg (ctxAt s core k) w.f3
      ∧ i.r4 = sreg (ctxAt s core k) w.f4 ∧ i.ready = (row.2.2.2.2 == 0)
      ∧ (∀ g, Sparse.get 0 (ctxAt t core k).calls g = Sparse.get 0 (ctxAt s core k).calls g
          + if row.2.2.1 = true ∧ g = communeGroup w then 1 else 0)
      ∧ (row.2.2.1 = true → i.call = Sparse.get 0 (ctxAt s core k).calls (communeGroup w))
      ∧ (if row.2.2.2.2 = 0 then ps = [] else ∃ p, ps = [p] ∧ p.caller = i ∧ p.group = communeGroup w
          ∧ p.mask = communeMask w ∧ p.routine = communeRoutine w ∧ p.call = i.call
          ∧ p.retPc = (ctxAt s core k).pc + 1)

/-- R96, R129, R147: every VEC instruction enters the vector queue with the registers and ranges of its issue, and changes
nothing else of the context but the program counter; a fused reduction takes its call number (R134). -/
def Sys2Proof.Claim.VectorIssue : Prop :=
  ∀ row ∈ vecOps, ∀ (core k : Nat) (w : Fields) (s : State), VecReady s core k row.1 w →
    ∃ t e, exec (row.2 core k w) s = .next t ∧ CoreFrame s t core k
      ∧ ctxAt t core k = { ctxAt s core k with
          pc := (ctxAt s core k).pc + 1, vecQ := (ctxAt s core k).vecQ ++ [e], calls := (ctxAt t core k).calls }
      ∧ e.n = vecCount (ctxAt s core k) w ∧ e.strokes = 0 ∧ e.inst.op = vecCode row.1 ∧ e.inst.fields = w
      ∧ e.inst.addr = (ctxAt s core k).pc ∧ e.inst.r1 = sreg (ctxAt s core k) w.f1
      ∧ e.inst.r2 = sreg (ctxAt s core k) w.f2 ∧ e.inst.r3 = sreg (ctxAt s core k) w.f3
      ∧ e.inst.r4 = sreg (ctxAt s core k) w.f4
      ∧ e.map0 = sreg (ctxAt s core k) (vecMapReg w) ∧ e.map1 = sreg (ctxAt s core k) (vecMapReg w + 1#5)
      ∧ (∀ g, Sparse.get 0 (ctxAt t core k).calls g = Sparse.get 0 (ctxAt s core k).calls g
          + if communeMask w ≠ 0 ∧ g = communeGroup w then 1 else 0)
      ∧ (communeMask w ≠ 0 → e.inst.call = Sparse.get 0 (ctxAt s core k).calls (communeGroup w))

/-- R76, R107, R147: a stroke of VMOV to VNEG, VCMP, VSEL, VSFU or VBCAST puts in each lane of a register destination its
operation's exact result converted once to FP32; a memory destination is written within its element and scale planes
only, and every other register, byte and context stays. -/
def Sys2Proof.Claim.ElementwiseStrokes : Prop :=
  ∀ row ∈ vecRows, ∀ (core k : Nat) (e : VecEntry) (s : State), ∃ t, vecRun s core k row.1 e = t
    ∧ StrokeFrame s t core k row.1 e
    ∧ StrokeLanes s t core k row.1 e fun p =>
        let w := e.inst.fields
        let src := fun i => readOpnd (ctxAt s core k) (coreAt s core).scratch
          ((vecSources row.1 e.inst).getD i none) p
        BitVec.ofNat 32 (convElem .fp32 (vecRnd w) (ctlBit w 72) (vecDraw s core k row.1 e p)
          (row.2.2 w.tail.toNat w.imm (vecRnd w) (src 0) (src 1) (src 2))).bits

/-- R85, R147: a stroke of VRAND writes uniform values drawn at the mapped index, one of VRBITS the raw 32-bit draws; the
frame is that of an elementwise operation. -/
def Sys2Proof.Claim.RandomStrokes : Prop :=
  ∀ (core k : Nat) (e : VecEntry) (s : State),
    (∃ t, vecRun s core k .rand e = t ∧ StrokeFrame s t core k .rand e
      ∧ StrokeLanes s t core k .rand e fun p => BitVec.ofNat 32 (convElem .fp32 (vecRnd e.inst.fields)
          (ctlBit e.inst.fields 72) (vecDraw s core k .rand e p) (uniformOf (vecDraw s core k .rand e p))).bits)
    ∧ ∃ t, vecRun s core k .rbits e = t ∧ StrokeFrame s t core k .rbits e
      ∧ StrokeLanes s t core k .rbits e fun p => BitVec.ofNat 32 (vecDraw s core k .rbits e p)

/-- R108, R147: a stroke of VRSUM, VRAMAX or VRSSQ adds to the running value; the last puts it in lane 0 of the destination
register and +0 in the other lanes, and a fused form reaches its collective point with it as its scalar cell (R133,
R197). -/
def Sys2Proof.Claim.ReductionStrokes : Prop :=
  ∀ o ∈ [VecOp.rsum, .ramax, .rssq], ∀ (core k : Nat) (e : VecEntry) (s : State),
    ∃ t ps, vecRun s core k o e = t ∧ EngineFrame s t core k []
      ∧ (∀ v l, l < 256 → lane (ctxAt t core k) v l =
          if v = e.inst.fields.f1.toNat ∧ e.n ≤ 256 * (e.strokes + 1) then
            (if l = 0 then (reduceStroke s core k o e).1 else 0#32)
          else lane (ctxAt s core k) v l)
      ∧ ctxAt t core k = { ctxAt s core k with
          vregs := (ctxAt t core k).vregs, points := (ctxAt s core k).points ++ ps,
          satCount := (ctxAt s core k).satCount + (reduceStroke s core k o e).2,
          vecQ := queueAfter (ctxAt s core k) { e with acc := (reduceStroke s core k o e).1 } }
      ∧ (if communeMask e.inst.fields = 0 ∨ 256 * (e.strokes + 1) < e.n then ps = [] else ∃ p, ps = [p]
          ∧ p.scalar = true ∧ p.cell = (reduceStroke s core k o e).1 ∧ p.cellFlag = false
          ∧ p.group = communeGroup e.inst.fields ∧ p.mask = communeMask e.inst.fields
          ∧ p.routine = communeRoutine e.inst.fields ∧ p.call = e.inst.call)

/-- R147: VTOS puts the 32 bits of lane 0 of vA, zero-extended, in rD (s0 stays 0); VSTOV puts bits [31:0] of its scalar in
all 256 lanes of its register. -/
def Sys2Proof.Claim.ScalarStrokes : Prop :=
  ∀ (core k : Nat) (e : VecEntry) (s : State),
    (∃ t, vecRun s core k .tos e = t ∧ EngineFrame s t core k []
      ∧ (∀ r, sreg (ctxAt t core k) r = if r = e.inst.fields.f1 ∧ e.inst.fields.f1 ≠ 0#5 then
          (lane (ctxAt s core k) e.inst.fields.f2.toNat 0).zeroExtend 64 else sreg (ctxAt s core k) r)
      ∧ ctxAt t core k = { ctxAt s core k with
          sregs := (ctxAt t core k).sregs, vecQ := (ctxAt s core k).vecQ.drop 1 })
    ∧ ∃ t, vecRun s core k .stov e = t ∧ EngineFrame s t core k []
      ∧ (∀ v l, l < 256 → lane (ctxAt t core k) v l =
          if v = e.inst.fields.f1.toNat then e.inst.r2.truncate 32 else lane (ctxAt s core k) v l)
      ∧ ctxAt t core k = { ctxAt s core k with
          vregs := (ctxAt t core k).vregs, vecQ := (ctxAt s core k).vecQ.drop 1 }

/-- The vector instructions: their issue, and the strokes in which the engine runs them. -/
def Obligations.VectorOps : Prop :=
  Claim.VectorIssue ∧ Claim.ElementwiseStrokes ∧ Claim.RandomStrokes ∧ Claim.ReductionStrokes ∧ Claim.ScalarStrokes
/-! ### WAIN, SYNC and THR instructions -/

namespace Sys2Proof.Claim

/-- The WAIN rows of R151. -/
def wainRows : List (Nat × (Nat → Nat → Fields → Instr)) :=
  [(0x00, .wcopy), (0x01, .wzero), (0x08, .waadd), (0x09, .wamax), (0x0A, .wacas), (0x0B, .wafadd)]

/-- What an event, a status line or a notice may change beside its own effect: counters, records, rings and lines. -/
def Logged (s t : State) : Prop :=
  t = { s with trace := t.trace, host := { s.host with fns := t.host.fns, written := t.host.written } }

/-- A wait of a context starts, or ends at once when its condition holds: the program counter steps, the anchor and
the wain status become those of the kind (R154, R155, R180), and no other context, core or memory changes. -/
def Waited (s t : State) (core k : Nat) (w : Wait) (done : Bool) (anchor : Tick) (st : WainStatus) : Prop :=
  ctxAt t core k = { ctxAt s core k with
      pc := (ctxAt s core k).pc + 1, wait := if done then none else some w, waitStart := s.tide.now,
      waitSwitched := false, anchor := if done then anchor else (ctxAt s core k).anchor,
      wainStatus := if done then st else (ctxAt s core k).wainStatus }
    ∧ (∀ j, j ≠ k → ctxAt t core j = ctxAt s core j)
    ∧ coreAt t core = { coreAt s core with ctxs := (coreAt t core).ctxs }
    ∧ (∀ i, i ≠ core → coreAt t i = coreAt s i)
    ∧ Logged { s with cores := t.cores } t

/-- A limit that TCLIP takes: positive and finite (R160). -/
def positiveFinite (v : Word) : Bool :=
  match ofF32 v with | .fin false m _ => decide (0 < m) | .fin true _ _ => false | .nan => false | .inf _ => false

/-- The rows of R160: op, command, fields used, register written, and the rules that every copy meets. -/
def thrRows : List (Nat × (Nat → Nat → Fields → Instr) × Use × (Fields → Option (BitVec 5)) × (Fields → Bool)) :=
  let u := Use.none
  [(0x500, .tupd, { u with f1 := true, f2 := true, f3 := true, f4 := true, control := 0xFF8F0000#32, imm := true },
      fun _ => none, tupdFixed),
   (0x501, .tssq, { u with f2 := true, f3 := true, fusable := true }, fun _ => none, fun w => communeMask w != 0),
   (0x502, .tclip, { u with imm := true }, fun _ => none, fun w => positiveFinite w.imm),
   (0x503, .tmov, { u with f1 := true, f2 := true, f3 := true, control := 0x00800000#32, tail := 0xC000#16 },
      fun _ => none, fun _ => true),
   (0x504, .tlin, { u with f1 := true, f2 := true, f3 := true, f4 := true, tail := 0xC000#16 }, fun _ => none,
      fun _ => true),
   (0x505, .tflag, { u with f1 := true }, fun w => some w.f1, fun w => w.f1 != 0#5)]

/-- The rules of R160 and R161 that the operands of the lead core's copy meet. -/
def ThrLeadOk (s : State) (core k op : Nat) (w : Fields) : Prop :=
  let x := ctxAt s core k
  let y := ctxAt s (linkCore core w) k
  let a := (sreg x w.f1).toNat
  let b := (sreg x w.f2).toNat
  let n := (sreg x w.f3).toNat
  let rule := (sreg x w.f4).toNat
  (op = 0x500 → a % 4096 = 0 ∧ 1 ≤ n ∧ n ≤ 2 ^ 24 ∧ floorOk b (4 * n) = true ∧ rule % 64 = 0
      ∧ inWindow x rule 64 = true
      ∧ ruleBlockOk w (memRead (coreAt s core).scratch (winAddr x rule) 64) n = true)
    ∧ (op = 0x501 → communeOk (coreAt s core) w true false = true
      ∧ (bitOf (communeMask w) 0 = true → gLevel (coreAt s core) (communeGroup w) 0 0 &&& 0xEEEE = 0)
      ∧ 1 ≤ n ∧ n ≤ 2 ^ 24 ∧ floorOk b (4 * n) = true)
    ∧ (op = 0x503 → n % 512 = 0 ∧ floorOk b n = true ∧ inWindow y a n = true)
    ∧ (op = 0x504 → inWindow y a (4 * n) = true ∧ inWindow y b (4 * n) = true)

/-- The scratchpad ranges of the issuing core that the instruction declares (R97, R162): reads and writes. -/
def thrDeclares (s : State) (core k op : Nat) (w : Fields) : List Range × List Range :=
  let x := ctxAt s core k
  let a := (sreg x w.f1).toNat
  let b := (sreg x w.f2).toNat
  let n := (sreg x w.f3).toNat
  match op with
  | 0x500 => (if core % 4 = 0 then [((sreg x w.f4).toNat, 64)] else [], [])
  | 0x503 => if core ≠ linkCore core w then ([], []) else if ctlBit w 87 then ([(a, n)], []) else ([], [(a, n)])
  | 0x504 => if core ≠ linkCore core w then ([], []) else ([(a, 4 * n), (b, 4 * n)], [(a, 4 * n)])
  | _ => ([], [])

/-- The instruction at the heads of a cluster's THR queues, that its thresher may run now: the copies agree (R121). -/
def ThrHead (s : State) (cl k op : Nat) (e : ThrEntry) : Prop :=
  ∃ copies, thrHeads s cl k = some (e, copies) ∧ thrRuns s cl k e = true ∧ e.inst.op = op
    ∧ ∀ c ∈ copies, c.inst.addr = e.inst.addr ∧ c.inst.op = op

/-- The instruction completes: it leaves the queues of the four cores; no other context and no other thresher changes. -/
def ThrLeaves (s t : State) (cl k : Nat) : Prop :=
  (∀ i, clusterOf i = cl → (ctxAt t i k).thrQ = (ctxAt s i k).thrQ.drop 1)
    ∧ (∀ i j, ¬ (clusterOf i = cl ∧ j = k) → ctxAt t i j = ctxAt s i j)
    ∧ (∀ j, j ≠ k → threshAt t cl j = threshAt s cl j)
    ∧ ∀ c, c ≠ cl → clusterAt t c = clusterAt s c

end Sys2Proof.Claim

/-- R88, R150, R151: WCOPY, WZERO, WAADD, WAMAX, WACAS and WAFADD put one descriptor at the end of the context's wain
queue, with the addresses, the length, the class and the return offset that the instruction names, and change nothing
else but the program counter and counters. -/
def Obligations.WainDescriptorsAreQueued : Prop :=
  ∀ row ∈ wainRows, ∀ (core k : Nat) (w : Fields) (s : State), Fetched s core k (0x300 + row.1) w →
    FieldsOk s core k (0x300 + row.1) w (wainUse row.1) Writes.none (decide (row.1 < 2)) →
    wainLegal (ctxAt s core k) row.1 w = true →
    (∀ r ∈ wainReads (ctxAt s core k) row.1 w ++ wainWrites (ctxAt s core k) row.1 w,
      inWindow (ctxAt s core k) r.1 r.2 = true) →
    routineMayWrite s core k (wainWrites (ctxAt s core k) row.1 w) = true → (ctxAt s core k).wainQ.length < 32 →
    interlocked (ctxAt s core k) (wainReads (ctxAt s core k) row.1 w) (wainWrites (ctxAt s core k) row.1 w) = false →
    ∃ t d, exec (row.2 core k w) s = .next t ∧ CoreFrame s t core k
      ∧ ctxAt t core k = { ctxAt s core k with
          pc := (ctxAt s core k).pc + 1, wainQ := (ctxAt s core k).wainQ ++ [d],
          wainSeq := (ctxAt s core k).wainSeq + 1 }
      ∧ d.op = row.1 ∧ d.addr = (ctxAt s core k).pc ∧ d.src = sreg (ctxAt s core k) w.f1
      ∧ d.dst = sreg (ctxAt s core k) w.f2 ∧ d.len = (sreg (ctxAt s core k) w.f3).toNat
      ∧ d.ret = (if 8 ≤ row.1 ∧ w.f4 ≠ 0#5 then some (sreg (ctxAt s core k) w.f4).toNat else none)
      ∧ d.localSrc = (ctlBit w 95 && row.1 != 1) ∧ d.localDst = ctlBit w 94 ∧ d.cls = ctl w 91 88
      ∧ d.moved = 0 ∧ d.status = .done ∧ d.awaiting = 0 ∧ d.seq = (ctxAt s core k).wainSeq

/-- R154, R155, R180: SWTIDE waits for s[F2] + Imm, SWAINS for every earlier descriptor, SDRAIN for everything issued
before, STBAR for s[F2] plus the bound of its scope; a wait whose condition already holds ends at once. -/
def Obligations.WaitsStartOrEnd : Prop :=
  ∀ (core k : Nat) (w : Fields) (s : State),
    (Fetched s core k 0x400 w → FieldsOk s core k 0x400 w (syncUse true true 0#16) Writes.none false →
      ∃ t, exec (.swtide core k w) s = .next t
        ∧ let target := (sreg (ctxAt s core k) w.f2).toNat + w.imm.toNat
          Waited s t core k (.tide target) (decide (target ≤ ctxNow s core)) target (ctxAt s core k).wainStatus)
    ∧ (Fetched s core k 0x402 w → FieldsOk s core k 0x402 w Use.none Writes.none false →
      ∃ t, exec (.swains core k w) s = .next t
        ∧ Waited s t core k (.wains (ctxAt s core k).wainSeq)
            ((ctxAt s core k).wainQ.all fun d => decide ((ctxAt s core k).wainSeq ≤ d.seq)) (ctxAt s core k).anchor .done)
    ∧ (Fetched s core k 0x403 w → FieldsOk s core k 0x403 w Use.none Writes.none false →
      ∃ t, exec (.sdrain core k w) s = .next t
        ∧ Waited s t core k .drain (drained s core k) (ctxAt s core k).anchor (ctxAt s core k).wainStatus)
    ∧ (Fetched s core k 0x404 w → FieldsOk s core k 0x404 w (syncUse true false 0x0003#16) Writes.none false →
      bitsOf w.tail.toNat 1 0 < 3 →
      ∃ t, exec (.stbar core k w) s = .next t
        ∧ let base := (sreg (ctxAt s core k) w.f2).toNat
          let target := base + levelBound s (bitsOf w.tail.toNat 1 0 + 1)
          Waited s t core k (.bar base target) (decide (target ≤ ctxNow s core)) target .done)

/-- R44, R155, R156, R302: SARRIVE records its arrival in the cove and waits for the group until the deadline of the
highest level of its mask, ending at once when that holds; SCOMMIT records the commit arrival and the commit tick and
waits for the step's end, and by contexts 1 to 3 it is an operand fault (R386). Arrivals of one call from different
addresses are a divergence. -/
def Obligations.ArrivalsAreRecorded : Prop :=
  ∀ (core k c : Nat) (w : Fields) (s : State), coveOfCore s core = some c →
    (Fetched s core k 0x401 w →
      FieldsOk s core k 0x401 w { Use.none with fusable := true } Writes.none false →
      communeOk (coreAt s core) w true true = true →
      upsetsIn (coreAt s core) 3 (20 * communeGroup w) (20 * communeGroup w + 20) = [] →
      let n := Sparse.get 0 (ctxAt s core k).calls (64 + communeGroup w)
      let d := gDeadline (coreAt s core) (communeGroup w) (highest (communeMask w)) true (ctxAt s core k).anchor
      let key := BitVec.ofNat 32 (gKey (coreAt s core) (communeGroup w))
      let same := (coveAt s c).arrivals.filter fun a => a.key == key && a.call == n + 2 ^ 33 && a.ctx == k
      ((∃ a ∈ same, a.addr ≠ (ctxAt s core k).pc) →
        ∃ u, exec (.sarrive core k w) s = .next (divergence u core) ∧ CoreFrame s u core k)
      ∧ ((∀ a ∈ same, a.addr = (ctxAt s core k).pc) →
        genSkewed s c core (communeGroup w) (same.map (·.gen)) = false → bitOf (coveAt s c).ldig.toNat 6 = false →
        ∃ t, exec (.sarrive core k w) s = .next t
          ∧ (coveAt t c).arrivals = (coveAt s c).arrivals ++
              [⟨core, k, (ctxAt s core k).pc, coveGenOf s c (dieOf core), communeGroup w, key, n + 2 ^ 33,
                communeMask w, d⟩]
          ∧ coveAt t c = { coveAt s c with arrivals := (coveAt t c).arrivals }
          ∧ (∀ i, i ≠ c → coveAt t i = coveAt s i)
          ∧ (ctxNow s core < d → (ctxAt t core k).wait = some (.arrive (communeGroup w) (communeMask w) d)
              ∨ (ctxAt t core k).wait = none ∧ (ctxAt t core k).anchor = d ∧ (ctxAt t core k).wainStatus = .done)
          ∧ (d ≤ ctxNow s core → (ctxAt t core k).wait = none ∧ (ctxAt t core k).anchor = d
              ∧ (ctxAt t core k).wainStatus = .done)
          ∧ (ctxAt t core k).pc = (ctxAt s core k).pc + 1
          ∧ Sparse.get 0 (ctxAt t core k).calls (64 + communeGroup w) = n + 1
          ∧ (∀ i j, ¬ (i = core ∧ j = k) → ctxAt t i j = ctxAt s i j)
          ∧ Logged { s with cores := t.cores, coves := t.coves } t))
    ∧ (Fetched s core k 0x405 w → k ≠ 0 →
      exec (.scommit core k w) s = .next (operandFault s core k (ctxAt s core k).pc 0x405))
    ∧ (Fetched s core k 0x405 w →
      FieldsOk s core k 0x405 w { Use.none with f2 := true, fusable := true } Writes.none false → k = 0 →
      communeOk (coreAt s core) w true true = true → communeMask w = gLevels (coreAt s core) (communeGroup w) →
      (sreg (ctxAt s core k) w.f2).toNat + (coveAt s c).ckpt.offset = commitTickOf s c →
      (∀ a ∈ (coveAt s c).commits, a.addr = (ctxAt s core k).pc) →
      genSkewed s c core (communeGroup w) ((coveAt s c).commits.map (·.gen)) = false → (coveAt s c).failed = none →
      bitOf (coveAt s c).ldig.toNat 6 = false →
      ∃ t, exec (.scommit core k w) s = .next t
        ∧ (coveAt t c).commits = (coveAt s c).commits ++
            [⟨core, (ctxAt s core k).pc, coveGenOf s c (dieOf core), s.tide.now⟩]
        ∧ coveAt t c = { coveAt s c with
            commits := (coveAt t c).commits, commitTick := commitTickOf s c, commitGroup := some (communeGroup w) }
        ∧ (∀ i, i ≠ c → coveAt t i = coveAt s i)
        ∧ ctxAt t core k = { ctxAt s core k with
            pc := (ctxAt s core k).pc + 1, wait := some (.commit (commitTickOf s c)), waitStart := s.tide.now,
            waitSwitched := false }
        ∧ (∀ i j, ¬ (i = core ∧ j = k) → ctxAt t i j = ctxAt s i j)
        ∧ Logged { s with cores := t.cores, coves := t.coves } t)

/-- R88, R121, R160: every THR instruction joins its core's THR queue with the registers of its issue and the ranges that it
declares, on the lead core and on the other three alike; a TSSQ of the lead core takes its call number (R177). -/
def Obligations.ThrInstructionsAreQueued : Prop :=
  ∀ row ∈ thrRows, ∀ (core k : Nat) (w : Fields) (s : State), Fetched s core k row.1 w →
    FieldsOk s core k row.1 w row.2.2.1 { Writes.none with sreg := row.2.2.2.1 w } false → row.2.2.2.2 w = true →
    (core % 4 = 0 → ThrLeadOk s core k row.1 w) → (ctxAt s core k).thrQ.length < 4 →
    interlocked (ctxAt s core k) (thrDeclares s core k row.1 w).1 (thrDeclares s core k row.1 w).2 = false →
    let x := ctxAt s core k
    ∃ t e, exec (row.2.1 core k w) s = .next t ∧ CoreFrame s t core k
      ∧ ctxAt t core k = { x with
          pc := x.pc + 1, thrQ := x.thrQ ++ [e], calls := (ctxAt t core k).calls }
      ∧ e.inst.op = row.1 ∧ e.inst.fields = w ∧ e.inst.addr = x.pc ∧ e.inst.r1 = sreg x w.f1 ∧ e.inst.r2 = sreg x w.f2
      ∧ e.inst.r3 = sreg x w.f3 ∧ e.inst.r4 = sreg x w.f4 ∧ e.sdest = row.2.2.2.1 w ∧ e.handed = false
      ∧ e.run = BundleRun.reset ∧ e.reads = (thrDeclares s core k row.1 w).1
      ∧ e.writes = (thrDeclares s core k row.1 w).2
      ∧ (∀ g, Sparse.get 0 (ctxAt t core k).calls g = Sparse.get 0 x.calls g
          + if row.1 = 0x501 ∧ core % 4 = 0 ∧ g = communeGroup w then 1 else 0)
      ∧ (row.1 = 0x501 → core % 4 = 0 → e.inst.call = Sparse.get 0 x.calls (communeGroup w))

/-- R121: the thresher does nothing until all four copies stand at the heads of their queues; a copy at another address
is a divergence. -/
def Sys2Proof.Claim.ThrCopiesMatch : Prop :=
  ∀ (cl k : Nat) (s : State),
    ((∃ i, i < 4 ∧ (ctxAt s (4 * cl + i) k).thrQ = []) → thrStep s cl k = s)
    ∧ ∀ e copies, thrHeads s cl k = some (e, copies) → thrRuns s cl k e = true →
        (∃ c ∈ copies, c.inst.addr ≠ e.inst.addr) → thrStep s cl k = divergence s (4 * cl)

/-- R160, R380, TCLIP: the clipping scale becomes min(1, limit / sqrt(sum)), in FP32 with RNE; an infinite sum of finite
values records event 0x6011. TFLAG writes the flag in bit 0 and the scale in bits [63:32] to its register of all four
cores. -/
def Sys2Proof.Claim.ClipAndFlag : Prop :=
  ∀ (cl k : Nat) (e : ThrEntry) (s : State), cl < 256 →
    (ThrHead s cl k 0x502 e → ∃ t, thrStep s cl k = t ∧ ThrLeaves s t cl k
      ∧ threshAt t cl k = { threshAt s cl k with
          scale := f32min f32one (f32div e.inst.fields.imm (f32sqrt (threshAt s cl k).sumsq)) }
      ∧ ((threshAt s cl k).sumsq = 0x7F800000#32 → (threshAt s cl k).nonfinite = false →
          Recorded s t 0x6011 (1024 + cl))
      ∧ (∀ i, clusterOf i = cl → ctxAt t i k = { ctxAt s i k with thrQ := (ctxAt s i k).thrQ.drop 1 })
      ∧ t.mem = s.mem ∧ ∀ i, (coreAt t i).scratch = (coreAt s i).scratch)
    ∧ (ThrHead s cl k 0x505 e → ∃ t, thrStep s cl k = t ∧ ThrLeaves s t cl k
      ∧ threshAt t cl k = threshAt s cl k
      ∧ (∀ i, clusterOf i = cl → ctxAt t i k = { ctxAt s i k with
            thrQ := (ctxAt s i k).thrQ.drop 1, sregs := (ctxAt t i k).sregs }
          ∧ ∀ q, sreg (ctxAt t i k) q = if q = e.inst.fields.f1 ∧ e.inst.fields.f1 ≠ 0#5 then
              (threshAt s cl k).scale ++ (if (threshAt s cl k).nonfinite then 1#32 else 0#32)
            else sreg (ctxAt s i k) q)
      ∧ t.mem = s.mem ∧ ∀ i, (coreAt t i).scratch = (coreAt s i).scratch)

/-- R160: TMOV copies n bytes from the floor to the named core's scratchpad, or back; TLIN replaces each of n values D of a
core's scratchpad by fma(a, X, RNE(b × D)). No other byte of a scratchpad or of near memory changes. The words that they
read hold no bit error (R118). -/
def Sys2Proof.Claim.FloorMovesAndCombinations : Prop :=
  ∀ (cl k : Nat) (e : ThrEntry) (s : State),
    let w := e.inst.fields
    let toCore := linkCore (4 * cl) w
    let y := ctxAt s toCore k
    let a := e.inst.r1.toNat
    let n := e.inst.r3.toNat
    let near := floorBase cl + e.inst.r2.toNat
    (coreAt s toCore).upsets = [] →
    (ThrHead s cl k 0x503 e → s.mem.pinned = [] →
      (ctlBit w 87 = false → condemned s (floorPlace cl e.inst.r2.toNat) n = false) →
      ∃ t, thrStep s cl k = t ∧ ThrLeaves s t cl k
        ∧ (∀ i b, memByte (coreAt t i).scratch b =
            if ctlBit w 87 = false ∧ i = toCore ∧ winAddr y a ≤ b ∧ b < winAddr y a + n
            then memByte (nearAt s (cl / 4)) (near + (b - winAddr y a)) else memByte (coreAt s i).scratch b)
        ∧ (∀ i b, memByte (nearAt t i) b =
            if ctlBit w 87 = true ∧ i = cl / 4 ∧ near ≤ b ∧ b < near + n
            then memByte (coreAt s toCore).scratch (winAddr y a + (b - near)) else memByte (nearAt s i) b)
        ∧ t.mem.hbm = s.mem.hbm ∧ threshAt t cl k = threshAt s cl k)
    ∧ (ThrHead s cl k 0x504 e →
      let xo := e.inst.r2.toNat
      ∃ t, thrStep s cl k = t ∧ ThrLeaves s t cl k
        ∧ (∀ i, i < n →
            let at_ := fun o => BitVec.ofNat 32 (leVal (memRead (coreAt s toCore).scratch (winAddr y o + 4 * i) 4))
            memRead (coreAt t toCore).scratch (winAddr y a + 4 * i) 4 =
              leOut 4 (f32fma (e.inst.r4.truncate 32) (at_ xo)
                (f32mul ((e.inst.r4 >>> 32).truncate 32) (at_ a))).toNat)
        ∧ (∀ i b, ¬ (i = toCore ∧ winAddr y a ≤ b ∧ b < winAddr y a + 4 * n) →
            memByte (coreAt t i).scratch b = memByte (coreAt s i).scratch b)
        ∧ t.mem = s.mem ∧ threshAt t cl k = threshAt s cl k)

/-- R160, R369, R381: TSSQ hands its cluster's sum of squares and flag to the routine of its group as a scalar cell. A TUPD
counts a run; with the non-finite flag set it is skipped, the step's record says so, event 0x6001 tells it once, and no
memory changes; otherwise its first bundle starts with the blocks of the planes that its rule reads. -/
def Sys2Proof.Claim.SquaresAndUpdates : Prop :=
  ∀ (cl k c : Nat) (e : ThrEntry) (s : State), coveOfCore s (4 * cl) = some c → c < 16 →
    let x := ctxAt s (4 * cl) k
    let w := e.inst.fields
    let n := e.inst.r3.toNat
    let off := e.inst.r2.toNat
    (ThrHead s cl k 0x501 e → e.handed = false → condemned s (floorPlace cl off) (4 * n) = false →
      ∃ t p, thrStep s cl k = t
        ∧ ctxAt t (4 * cl) k = { x with points := x.points ++ [p], thrQ := { e with handed := true } :: x.thrQ.drop 1 }
        ∧ p.scalar = true ∧ p.cell = floorSquares (nearAt s (cl / 4)) cl off n
        ∧ p.cellFlag = (floorNonfinite (nearAt s (cl / 4)) cl off n
            || (List.range 4).any fun i => (ctxAt s (4 * cl + i) k).nonfinite)
        ∧ p.group = communeGroup w ∧ p.mask = communeMask w ∧ p.routine = communeRoutine w ∧ p.call = e.inst.call
        ∧ CoreFrame s t (4 * cl) k)
    ∧ (ThrHead s cl k 0x500 e → e.run.begun = false → (threshAt s cl k).nonfinite = true →
      ∃ t, thrStep s cl k = t ∧ ThrLeaves s t cl k
        ∧ (coveAt t c).stats = { (coveAt s c).stats with
            tupds := (coveAt s c).stats.tupds + 1, tupdStarted := true, skipped := true }
        ∧ ((coveAt s c).stats.skipped = false → Recorded s t 0x6001 1296)
        ∧ t.mem = s.mem ∧ threshAt t cl k = threshAt s cl k
        ∧ ∀ i, (coreAt t i).scratch = (coreAt s i).scratch)
    ∧ (ThrHead s cl k 0x500 e → e.run.begun = false → (threshAt s cl k).nonfinite = false →
      ∃ t run, thrStep s cl k = t
        ∧ ctxAt t (4 * cl) k = { x with thrQ := { e with run := run } :: x.thrQ.drop 1 }
        ∧ run.begun = true ∧ run.bundle = 0 ∧ run.toRead = bundleBlocks w n 0 ∧ run.awaiting = [] ∧ run.got = []
        ∧ run.computed = false ∧ run.toWrite = [] ∧ run.writing = false
        ∧ (coveAt t c).stats = { (coveAt s c).stats with
            tupds := (coveAt s c).stats.tupds + 1, tupdStarted := true }
        ∧ (∀ i j, ¬ (i = 4 * cl ∧ j = k) → ctxAt t i j = ctxAt s i j)
        ∧ t.mem.near = s.mem.near ∧ ∀ i, (coreAt t i).scratch = (coreAt s i).scratch)

/-- R122, R161, R222, R224, R376: a TUPD in progress reads a block of its shard in this module, writes a piece of its
writeback there, counts a bundle whose writeback has been admitted, and completes with the last bundle once its writes
have landed, when its pinned floor range is released. -/
def Sys2Proof.Claim.UpdateSteps : Prop :=
  ∀ (cl k c : Nat) (e : ThrEntry) (s : State), coveOfCore s (4 * cl) = some c → c < 16 → ThrHead s cl k 0x500 e →
    e.run.begun = true →
    let n := e.inst.r3.toNat
    (n ≤ 16384 * e.run.bundle → feedLanding s cl = false →
      ∃ t, thrStep s cl k = t ∧ ThrLeaves s t cl k ∧ (∀ p ∈ t.mem.pinned, p.cluster ≠ cl)
        ∧ (coveAt t c).stats = { (coveAt s c).stats with thresherEnd := s.tide.now }
        ∧ t.mem = { s.mem with pinned := s.mem.pinned.filter (·.cluster ≠ cl) }
        ∧ ∀ i, (coreAt t i).scratch = (coreAt s i).scratch)
    ∧ (n ≤ 16384 * e.run.bundle → feedLanding s cl = true → thrStep s cl k = s)
    ∧ (16384 * e.run.bundle < n → e.run.toRead = [] → e.run.awaiting = [] → e.run.computed = true → e.run.toSave = [] →
        e.run.toWrite = [] →
      ∃ t, thrStep s cl k = t
        ∧ (coveAt t c).stats.params = (coveAt s c).stats.params + min 16384 (n - 16384 * e.run.bundle)
        ∧ (coveAt t c).stats.nonfiniteWrites = (coveAt s c).stats.nonfiniteWrites + e.run.bad
        ∧ (0 < e.run.bad → Recorded s t 0x6010 (1024 + cl) ∧ (ctxAt t (4 * cl) k).nonfinite = true)
        ∧ (ctxAt t (4 * cl) k).thrQ = { e with
            run := startBundle e.inst.fields n (e.run.bundle + 1) e.run } :: (ctxAt s (4 * cl) k).thrQ.drop 1
        ∧ (∀ i j, ¬ (i = 4 * cl ∧ j = k) → ctxAt t i j = ctxAt s i j) ∧ t.mem = s.mem)
    ∧ (∀ j rest u a, 16384 * e.run.bundle < n → e.run.toRead = j :: rest →
        resolve s c (e.inst.r1.toNat + 4096 * j) = .here a false → feedRead s c cl k e.inst j = .moved u →
      ∃ t, thrStep s cl k = t ∧ t.mem.near = s.mem.near ∧ t.mem.hbm = s.mem.hbm
        ∧ (ctxAt t (4 * cl) k).thrQ = { e with run := { e.run with
            toRead := rest,
            got := memWrite e.run.got (4096 * j)
              (placeRead s (ctxAt s (4 * cl) k).jobTag (placeOf a) 4096) } } :: (ctxAt s (4 * cl) k).thrQ.drop 1
        ∧ ∀ i, (coreAt t i).scratch = (coreAt s i).scratch)

/-- R160, R161: what the thresher does with the instruction at its head. -/
def Obligations.ThresherRuns : Prop :=
  Claim.ThrCopiesMatch ∧ Claim.ClipAndFlag ∧ Claim.FloorMovesAndCombinations

/-- R160, R369, R376, R381: sums of squares and updates. -/
def Obligations.SquaresAndUpdates : Prop :=
  Claim.SquaresAndUpdates ∧ Claim.UpdateSteps
/-! ### RTN instructions -/

namespace Sys2Proof.Claim

/-- A stroke of a routine's arithmetic changes scratchpad bytes of the given ranges, the flags of R67 and the vector queue,
and nothing else but counters and the saturation count of the step. -/
def RoutineStroke (s t : State) (core k : Nat) (e : VecEntry) (dst : List Range) : Prop :=
  EngineFrame s t core k dst
    ∧ ctxAt t core k = { ctxAt s core k with
        nonfinite := (ctxAt t core k).nonfinite, satCount := (ctxAt t core k).satCount,
        vecQ := queueAfter (ctxAt s core k) e }

/-- The ranges of an entry lie in the window and in what the routine may write, nothing open overlaps them, and the vector
queue has room (R88, R97, R199). -/
def EntryFits (s : State) (core k : Nat) (e : VecEntry) : Prop :=
  (∀ r ∈ e.reads ++ e.writes, inWindow (ctxAt s core k) r.1 r.2 = true) ∧ routineMayWrite s core k e.writes = true
    ∧ (ctxAt s core k).vecQ.length < 8 ∧ interlocked (ctxAt s core k) e.reads e.writes = false

end Sys2Proof.Claim

/-- R163: RARG writes to rD the argument of the calling instruction that its selector names: the element offset, the
scale offset, the bytes, the format, the tensor, the group, the mask or the address. -/
def Sys2Proof.Claim.RoutineArguments : Prop :=
  ∀ (core k : Nat) (w : Fields) (s : State) (r : RoutineCall), Fetched s core k 0x601 w →
    FieldsOk s core k 0x601 w { Use.none with f1 := true, tail := 0x000F#16 } { Writes.none with sreg := some w.f1 } true →
    (ctxAt s core k).routine = some r → bitsOf w.tail.toNat 3 0 < 8 →
    ∃ t, exec (.rarg core k w) s = .next t
      ∧ WroteScalar s t core k w.f1 (BitVec.ofNat 64 ([r.elem, r.scale, r.bytes, r.fmt, r.caller.fields.imm.toNat,
          r.group, r.mask, r.caller.addr].getD (bitsOf w.tail.toNat 3 0) 0))

/-- R134, R155, R163, R180, R197: RRET ends the routine: the main stream goes on after the calling instruction, the anchor is
the deadline of the call's highest level, the call counts as returned, its pieces and notices leave the receive areas,
and a scalar cell goes back to lane 0 of the destination or, for TSSQ, to the running sum. A wait of the main stream that
the routine interrupted stands again. -/
def Sys2Proof.Claim.RoutineReturns : Prop :=
  ∀ (core k : Nat) (w : Fields) (s : State) (r : RoutineCall), Fetched s core k 0x600 w →
    FieldsOk s core k 0x600 w Use.none Writes.none true → (ctxAt s core k).routine = some r →
    interlocked (ctxAt s core k) (if r.scalar then [(r.elem, 64)] else []) [] = false →
    (r.scalar = true → r.caller.op ≠ 0x501 → vregBusy (ctxAt s core k) r.caller.fields.f1 = false) →
    let cell := memRead (coreAt s core).scratch (winAddr (ctxAt s core k) r.elem) 8
    (r.scalar = true → r.caller.op = 0x501 → bitOf (leVal (cell.drop 4)) 0 = false) →
    (∀ wt a b, (ctxAt s core k).mainWait = some (wt, a, b) → ∃ t', wt = .commit t') →
    ∃ t, exec (.rret core k w) s = .next t
      ∧ (ctxAt t core k).routine = none ∧ (ctxAt t core k).pc = r.retPc ∧ (ctxAt t core k).mainWait = none
      ∧ (ctxAt t core k).wait = (ctxAt s core k).mainWait.map (·.1)
      ∧ (ctxAt t core k).anchor = gDeadline (coreAt s core) r.group (highest r.mask) true r.anchor
      ∧ (∀ g, Sparse.get 0 (ctxAt t core k).callsDone g =
          if g = r.group then r.call + 1 else Sparse.get 0 (ctxAt s core k).callsDone g)
      ∧ (r.scalar = true → r.caller.op ≠ 0x501 → ∀ v l, l < 256 → lane (ctxAt t core k) v l =
          if v = r.caller.fields.f1.toNat then (if l = 0 then BitVec.ofNat 32 (leVal (cell.take 4)) else 0#32)
          else lane (ctxAt s core k) v l)
      ∧ (r.scalar = false → (ctxAt t core k).vregs = (ctxAt s core k).vregs)
      ∧ (r.scalar = true → r.caller.op = 0x501 →
          (threshAt t (clusterOf core) k).sumsq = BitVec.ofNat 32 (leVal (cell.take 4))
            ∧ (ctxAt t core k).thrQ = (ctxAt s core k).thrQ.drop 1)
      ∧ (∀ p, p ∈ (coreAt t core).landed ↔ p ∈ (coreAt s core).landed
          ∧ ¬ (p.ctx = k ∧ p.name.group = r.group ∧ p.name.call = r.call))
      ∧ (∀ n, n ∈ (coreAt t core).notices ↔ n ∈ (coreAt s core).notices
          ∧ ¬ (n.ctx = k ∧ n.key.toNat = gKey (coreAt s core) r.group ∧ n.call = r.call))
      ∧ (coreAt t core).scratch = (coreAt s core).scratch ∧ t.mem = s.mem
      ∧ (∀ q, sreg (ctxAt t core k) q = sreg (ctxAt s core k) q)
      ∧ ∀ i j, ¬ (clusterOf i = clusterOf core ∧ j = k) → ctxAt t i j = ctxAt s i j

/-- R155: a wait of the main stream that a routine interrupted ends at its return when its condition holds by then; an
SDRAIN, that is, when nothing else is in progress. -/
def Sys2Proof.Claim.DrainEndsAtReturn : Prop :=
  ∀ (core k : Nat) (w : Fields) (s : State) (r : RoutineCall) (tick : Tick) (sw : Bool), Fetched s core k 0x600 w →
    FieldsOk s core k 0x600 w Use.none Writes.none true → (ctxAt s core k).routine = some r → r.scalar = false →
    let x := ctxAt s core k
    x.mainWait = some (.drain, tick, sw) → x.matQ = [] → (∀ h, x.held = some h → h.drainPending = false) →
    x.vecQ = [] → x.thrQ = [] → x.wainQ = [] → x.points = [] →
    ∃ t, exec (.rret core k w) s = .next t ∧ (ctxAt t core k).wait = none ∧ (ctxAt t core k).routine = none
      ∧ (ctxAt t core k).pc = r.retPc
      ∧ (ctxAt t core k).anchor = gDeadline (coreAt s core) r.group (highest r.mask) true r.anchor
      ∧ ∀ i j, ¬ (i = core ∧ j = k) → ctxAt t i j = ctxAt s i j

/-- R163, R171, R189: RSEND queues a wain descriptor for the peer's receive slot, and RGLEAN one for the gleaning
buffer; nothing else changes but the program counter, the call's class and counters. -/
def Sys2Proof.Claim.RoutineSends : Prop :=
  ∀ (core k : Nat) (w : Fields) (s : State) (r : RoutineCall), (ctxAt s core k).routine = some r →
    let x := ctxAt s core k
    let l := bitsOf w.tail.toNat 1 0
    let slot := bitsOf w.tail.toNat 7 2
    let n := (sreg x w.f3).toNat
    let round2 := decide (32 ≤ slot) && gTwoRounds (coreAt s core) r.group l
    let gather := inGather r l round2
    inWindow x (sreg x w.f2).toNat n = true → x.wainQ.length < 32 →
    interlocked x [((sreg x w.f2).toNat, n)] [] = false →
    wainLenOk 0 n = true → (sreg x w.f2).toNat % 64 = 0 →
    (Fetched s core k 0x602 w →
      FieldsOk s core k 0x602 w { Use.none with
        f2 := true, f3 := true, f4 := true, control := 0x0F000000#32, tail := 0x00FF#16 } Writes.none true →
      bitOf (callMask x) l = true → 1 ≤ ctl w 91 88 → ctl w 91 88 ≤ 10 →
      (sreg x w.f4).toNat < (gMembers s core r.group l).length →
      dividesOk s core r l = true →
      ∃ t d, exec (.rsend core k w) s = .next t ∧ CoreFrame s t core k
        ∧ ctxAt t core k = { x with
            pc := x.pc + 1, wainQ := x.wainQ ++ [d], wainSeq := x.wainSeq + 1, routine := (ctxAt t core k).routine }
        ∧ d.op = 0x102 ∧ d.src = sreg x w.f2 ∧ d.len = n ∧ d.cls = ctl w 91 88 ∧ d.localSrc = true ∧ d.moved = 0
        ∧ d.dst = BitVec.ofNat 64 (peerAddr s core r.group l (sreg x w.f4).toNat
            (gSlotAddr s core r.group l gather r.call slot))
        ∧ ∃ m, (ctxAt t core k).routine = some { r with classes := m } ∧ Sparse.get 0 m l = ctl w 91 88)
    ∧ (Fetched s core k 0x606 w →
      FieldsOk s core k 0x606 w { Use.none with f1 := true, f2 := true, f3 := true } Writes.none true →
      (sreg x w.f1).toNat % 64 = 0 →
      ∃ t d, exec (.rglean core k w) s = .next t ∧ CoreFrame s t core k
        ∧ ctxAt t core k = { x with
            pc := x.pc + 1, wainQ := x.wainQ ++ [d], wainSeq := x.wainSeq + 1 }
        ∧ d.op = 0x106 ∧ d.src = sreg x w.f2 ∧ d.dst = sreg x w.f1 ∧ d.len = n ∧ d.localSrc = true ∧ d.moved = 0)

/-- R163, R182, R184: RWAIT at a level that is not an omit level, or in the gather half, returns the expected mask in rD
when every piece is here; with a piece missing before the limit it waits, and no register changes. -/
def Sys2Proof.Claim.RoutineWaits : Prop :=
  ∀ (core k : Nat) (w : Fields) (s : State) (r : RoutineCall), (ctxAt s core k).routine = some r →
    Fetched s core k 0x603 w →
    FieldsOk s core k 0x603 w { Use.none with f1 := true, f2 := true, tail := 0x0003#16 }
      { Writes.none with sreg := some w.f1 } true →
    let x := ctxAt s core k
    let l := bitsOf w.tail.toNat 1 0
    let expected := (sreg x w.f2).toNat
    let round2 := gTwoRounds (coreAt s core) r.group l && decide (2 ^ 32 ≤ expected)
    let gather := inGather r l round2
    let limit := if gather then gTopLimit (coreAt s core) r.group r.mask r.anchor
      else gLimit (coreAt s core) r.group l round2 r.anchor
    bitOf (callMask x) l = true → (bitOf (gOmit (coreAt s core) r.group) l = false ∨ gather = true) →
    (missingSlots s core k r l round2 gather false expected = [] →
      ∃ t, exec (.rwait core k w) s = .next t ∧ (ctxAt t core k).wait = none ∧ (ctxAt t core k).pc = x.pc + 1
        ∧ (∀ q, sreg (ctxAt t core k) q =
            if q = w.f1 ∧ w.f1 ≠ 0#5 then BitVec.ofNat 64 expected else sreg x q)
        ∧ (∀ i j, ¬ (i = core ∧ j = k) → ctxAt t i j = ctxAt s i j) ∧ t.mem = s.mem
        ∧ ∀ i, (coreAt t i).scratch = (coreAt s i).scratch)
    ∧ (missingSlots s core k r l round2 gather false expected ≠ [] → ctxNow s core < limit →
      ∃ t late dl, exec (.rwait core k w) s = .next t
        ∧ (ctxAt t core k).wait = some (.slots w.f1.toNat l round2 expected dl limit late none)
        ∧ dl = (if gather then gDeadline (coreAt s core) r.group (highest r.mask) true r.anchor
            else gDeadline (coreAt s core) r.group l round2 r.anchor)
        ∧ (ctxAt t core k).pc = x.pc + 1 ∧ (∀ q, sreg (ctxAt t core k) q = sreg x q) ∧ CoreFrame s t core k)

/-- R88, R163, R191, R192: RRED and RNARW enter the vector queue with the registers of their issue: RRED with the bank and
the slot size of the call's last wait, RNARW with the position of its first element and the stream of its level. -/
def Sys2Proof.Claim.RoutineDataIssue : Prop :=
  ∀ (core k : Nat) (w : Fields) (s : State) (r : RoutineCall), (ctxAt s core k).routine = some r →
    let x := ctxAt s core k
    let n := (sreg x w.f3).toNat
    let fr := redFmt w 91
    let fd := redFmt w 87
    let l := bitsOf w.tail.toNat 1 0
    let queued := fun (t : State) (e : VecEntry) =>
      CoreFrame s t core k ∧ ctxAt t core k = { x with pc := x.pc + 1, vecQ := x.vecQ ++ [e] }
        ∧ e.n = n ∧ e.strokes = 0 ∧ e.inst.fields = w ∧ e.inst.r1 = sreg x w.f1 ∧ e.inst.r2 = sreg x w.f2
        ∧ e.inst.r4 = sreg x w.f4
    1 ≤ n → n ≤ 2 ^ 23 → countFits fr n = true →
    (Fetched s core k 0x604 w →
      FieldsOk s core k 0x604 w { Use.none with
        f1 := true, f2 := true, f3 := true, control := 0x0FF00000#32, tail := 0x0003#16 } Writes.none true →
      ctl w 91 88 < 14 → ctl w 87 84 < 14 → l < 2 → countFits fd n = true →
      dividesOk s core r (redPlace r).1 = true → EntryFits s core k (rredEntry s core k w) →
      ∃ t e, exec (.rred core k w) s = .next t ∧ queued t e ∧ e.inst.op = 0x604
        ∧ e.map0 = BitVec.ofNat 64 (gBank s core r.group (redPlace r).1 (redPlace r).2.2 r.call)
        ∧ e.map1 = BitVec.ofNat 64 (gSlotSize (coreAt s core) r.group (redPlace r).1 (redPlace r).2.2))
    ∧ (Fetched s core k 0x605 w →
      FieldsOk s core k 0x605 w { Use.none with
        f1 := true, f2 := true, f3 := true, f4 := true, control := 0x0F000000#32, tail := 0x0003#16 } Writes.none true →
      bitOf (callMask x) l = true → wireAllowed l (ctl w 91 88) = true → EntryFits s core k (rnarwEntry s core k w) →
      ∃ t e, exec (.rnarw core k w) s = .next t ∧ queued t e ∧ e.inst.op = 0x605
        ∧ e.map0 = BitVec.ofNat 64 (enteringStart s core r l)
        ∧ e.map1 = BitVec.ofNat 64 (streamId (l + 1) r.caller.fields.imm.toNat))

/-- R107, R163, R191: a stroke of RRED replaces its destination elements by their sum, or maximum, with the masked slots in
rising order, rounded in FP32 and converted to the destination's format; no other byte of a scratchpad changes. -/
def Sys2Proof.Claim.RoutineReduces : Prop :=
  ∀ (core k : Nat) (e : VecEntry) (s : State), e.inst.op = 0x604 →
    let w := e.inst.fields
    let fd := redFmt w 87
    let base := winAddr (ctxAt s core k) 0
    let dst := e.inst.r1.toNat
    ∃ t, rtnRun s core k e = t ∧ RoutineStroke s t core k e [travelRange fd dst e.n]
      ∧ (fmtIsMx fd = false → fmtBits fd % 8 = 0 → ∀ i, 256 * e.strokes ≤ i → i < e.n → i < 256 * (e.strokes + 1) →
          let m := (coreAt s core).scratch
          let op := fun a b => if bitsOf w.tail.toNat 1 0 = 1 then f32max a b else f32add a b
          let v := (bitsSet e.inst.r2.toNat 64).foldl
            (fun a j => op a (travelElem m base (redFmt w 91) (e.map0.toNat + j * e.map1.toNat) e.n i))
            (travelElem m base fd dst e.n i)
          memRead (coreAt t core).scratch (base + dst + fmtBits fd / 8 * i) (fmtBits fd / 8) =
            leOut (fmtBits fd / 8) (convElem fd .rne true 0 (ofF32 v)).bits)

/-- R107, R163, R192: a stroke of RNARW forms x' = RNE(x + s) from FP32 values and their stubble, narrows x' with stochastic
rounding in the level's stream, and leaves RNE(x' - y) as the new stubble; no other byte of a scratchpad changes. -/
def Sys2Proof.Claim.RoutineNarrows : Prop :=
  ∀ (core k : Nat) (e : VecEntry) (s : State), e.inst.op = 0x605 →
    let f := redFmt e.inst.fields 91
    let base := winAddr (ctxAt s core k) 0
    let dst := e.inst.r1.toNat
    let src := e.inst.r2.toNat
    let stub := e.inst.r4.toNat
    ∃ t, rtnRun s core k e = t ∧ RoutineStroke s t core k e [travelRange f dst e.n, (stub, 4 * e.n)]
      ∧ (fmtIsMx f = false → fmtBits f % 8 = 0 → (dst + planeBytes f e.n ≤ stub ∨ stub + 4 * e.n ≤ dst) →
        ∀ i, 256 * e.strokes ≤ i → i < e.n → i < 256 * (e.strokes + 1) →
          let old := fun o => BitVec.ofNat 32 (leVal (memRead (coreAt s core).scratch (base + o + 4 * i) 4))
          let sum := f32add (old src) (old stub)
          let y := convElem f .sr true (drawFor s core k e.map1.toNat (e.map0.toNat + i)) (ofF32 sum)
          memRead (coreAt t core).scratch (base + dst + fmtBits f / 8 * i) (fmtBits f / 8) =
              leOut (fmtBits f / 8) y.bits
            ∧ memRead (coreAt t core).scratch (base + stub + 4 * i) 4 =
              leOut 4 (f32sub sum (travelElem (coreAt t core).scratch base f dst e.n i)).toNat)

/-- RARG and RRET (R134, R163, R180, R197). -/
def Obligations.RoutineCalls : Prop :=
  Claim.RoutineArguments ∧ Claim.RoutineReturns ∧ Claim.DrainEndsAtReturn

/-- RSEND, RGLEAN and RWAIT (R163, R171, R182, R184, R189). -/
def Obligations.RoutineExchange : Prop :=
  Claim.RoutineSends ∧ Claim.RoutineWaits

/-- RRED and RNARW (R163, R191, R192). -/
def Obligations.RoutineData : Prop :=
  Claim.RoutineDataIssue ∧ Claim.RoutineReduces ∧ Claim.RoutineNarrows
/-! ### Events of cores, engines and clusters -/

namespace Sys2Proof.Claim

/-- No other context of the module changes. -/
def OtherCtxs (s t : State) (core k : Nat) : Prop := ∀ i j, ¬ (i = core ∧ j = k) → ctxAt t i j = ctxAt s i j

/-- The place that the next packet of a descriptor reads, none for this core's scratchpad and for WZERO (R150). -/
def sourcePlace (s : State) (core : Nat) (d : WainDesc) : Option Place :=
  if d.op = 1 ∨ d.localSrc then none
  else match resolve s (coveNum (coveOfCore s core)) (d.src.toNat + d.moved) with
    | .here a _ => some (placeOf a) | .away _ _ => none | .absent => none

/-- Accumulator `n` of a tile after its groups of 32 depth steps from `lo` to `hi - 1` (R71 to R73): the operands of group
`g` are those at depths 32 × g to 32 × g + 31. -/
def accAfter (m : Memory) (base : Nat) (tl : Issued) (n lo hi : Nat) (v : Word) : Word :=
  let fa := (matFmt tl.fields 87).getD .fp32
  let fb := (matFmt tl.fields 83).getD .fp32
  (List.range (hi - lo)).foldl (fun acc g =>
    let a := fun d => tileElem m base fa tl.r1 (n / 128) (32 * (lo + g) + d)
    let b := fun d => tileElem m base fb tl.r2 (n % 128) (32 * (lo + g) + d)
    if fa = .int8 ∧ fb = .int8 then accI32 a b acc else accF32 fa a b acc) v

end Sys2Proof.Claim

/-- R102, R104, R118: TILE_COMMIT moves the head tile from the queue to the held buffer with its accumulators, each the
exact R71 or R72 result of the groups that the stream has not done yet over what it has, or over the chain value or +0
where the tile starts; a parity error discards the stream, and a second one the step, cause 7 and event 0x4013.
TILE_DRAIN_END writes within the output's planes, clears the pending drain and, for MMA.RO, reaches the collective point; a
tile that drains is compared at its drain, another at its commit (R106). -/
def Obligations.TileEvents : Prop :=
  ∀ (core k : Nat) (s : State), (clusterAt s (clusterOf core)).owner = some k → core < 1024 →
    let x := ctxAt s core k
    (∀ (tl : Issued) (rest : List Issued) (errs : Nat), x.matQ = tl :: rest → tl.ready = true →
      1 ≤ ctl tl.fields 95 88 → (∀ h, x.held = some h → h.drainPending = false) →
      ∀ wrong : List (Nat × Word),
      let st := (if errs = 1 then none else x.stream).getD TileStream.reset
      (errs < 2 → ∃ t h, exec (.tileCommit core k errs wrong) s = .next
            (if ctlBit tl.fields 70 then t else tallyCheck t core h)
        ∧ ctxAt t core k = { x with matQ := rest, stream := none, held := some h } ∧ OtherCtxs s t core k
        ∧ h.tile = tl ∧ h.drainPending = ctlBit tl.fields 70
        ∧ (∀ n, n < 16384 → (∀ p ∈ wrong, p.1 ≠ n) → Sparse.get 0#32 h.acc n =
            accAfter (coreAt s core).scratch (winAddr x 0) tl n st.groups (matK tl.fields / 32)
              (if st.groups ≠ 0 then Sparse.get 0#32 st.acc n
               else if ctlBit tl.fields 71 then
                 (match x.held with | some o => Sparse.get 0#32 o.acc n | none => 0#32)
               else 0#32))
        ∧ (∀ i, (coreAt t i).scratch = (coreAt s i).scratch) ∧ t.mem = s.mem
        ∧ (errs = 1 → Recorded s t 0x4012 core))
      ∧ (2 ≤ errs → ∃ u, Recorded s u 0x4013 core ∧ (ctxAt u core k).stream = none ∧ (ctxAt u core k).matQ = x.matQ
        ∧ u.mem = s.mem ∧ u.coves = s.coves
        ∧ exec (.tileCommit core k errs wrong) s = .next
            (match coveOfCore s core with | some c => discardStep u c 7 none | none => u)))
    ∧ (∀ h : Held, x.held = some h → h.drainPending = true → ∃ t, exec (.tileDrainEnd core k) s = .next (tallyCheck t core h)
        ∧ (∃ y ps, ctxAt t core k = { noteConvs x y with
              held := some { h with drainPending := false }, points := x.points ++ ps }
            ∧ (h.tile.op ≠ 0x104 → ps = [])
            ∧ (h.tile.op = 0x104 → ∃ p, ps = [p] ∧ p.caller = h.tile ∧ p.elem = opElem h.tile.r3
                ∧ p.group = communeGroup h.tile.fields))
        ∧ (∀ i a, memByte (coreAt t i).scratch a ≠ memByte (coreAt s i).scratch a → i = core
            ∧ ∃ r ∈ operandRanges ((fmtOfCode (ctl h.tile.fields 79 76)).getD .fp32) h.tile.r3 16384,
                winAddr x r.1 ≤ a ∧ a < winAddr x r.1 + r.2)
        ∧ OtherCtxs s t core k ∧ t.mem = s.mem)

/-- R134, R154, R155, R180, R197: COLLECTIVE_POINT takes the oldest recorded point of a context that owns its cluster and
runs no routine: its arrival is recorded, which clears the wain status, a wait of the main stream is put aside, the program
counter goes to the routine's start, s24 holds the call number and the parity, s29 the anchor, and the registers below s24
stay; a scalar call's cell is written at the start of the work area. -/
def Obligations.CollectivePointStartsRoutine : Prop :=
  ∀ (core k c : Nat) (s : State) (p : RoutineCall) (rest : List RoutineCall), coveOfCore s core = some c →
    let x := ctxAt s core k
    let e := routineEntry (coreAt s core) p.routine
    let key := BitVec.ofNat 32 (gKey (coreAt s core) p.group)
    let work := winAddr x (gWork (coreAt s core) p.group).1
    let same := (coveAt s c).arrivals.filter fun a => a.key == key && a.call == p.call && a.ctx == k
    x.points = p :: rest → x.routine = none → x.mode = .running → (clusterAt s (clusterOf core)).owner = some k →
    grantsNothing s (coveNum (coveOfCore s core)) = false → p.mask &&& e.2.2.2 = p.mask →
    upsetsIn (coreAt s core) 3 (20 * p.group) (20 * p.group + 20) = [] →
    (∀ a ∈ same, a.addr = p.caller.addr) →
    genSkewed s c core p.group (same.map (·.gen)) = false → bitOf (coveAt s c).ldig.toNat 6 = false →
    ∃ t r, exec (.collectivePoint core k) s = .next t ∧ (ctxAt t core k).routine = some r
      ∧ r.caller = p.caller ∧ r.call = p.call ∧ r.group = p.group ∧ r.mask = p.mask ∧ r.retPc = x.pc
      ∧ r.anchor = x.anchor ∧ r.start = e.1 ∧ r.startTick = s.tide.now
      ∧ (ctxAt t core k).pc = e.1 ∧ (ctxAt t core k).points = rest
      ∧ (ctxAt t core k).wainStatus = .done ∧ (ctxAt t core k).wait = none
      ∧ (ctxAt t core k).mainWait = x.wait.map (fun w => (w, x.waitStart, x.waitSwitched))
      ∧ sreg (ctxAt t core k) 24#5 =
          BitVec.ofNat 64 (p.call % 2 ^ 32 + 2 ^ 32 * natOf (coveAt s c).parity)
      ∧ sreg (ctxAt t core k) 29#5 = BitVec.ofNat 64 x.anchor
      ∧ (∀ q : BitVec 5, q.toNat < 24 → sreg (ctxAt t core k) q = sreg x q)
      ∧ (∃ a, (coveAt t c).arrivals = (coveAt s c).arrivals ++ [a] ∧ a.core = core ∧ a.ctx = k
          ∧ a.call = p.call ∧ a.key = key)
      ∧ (∀ i b, memByte (coreAt t i).scratch b =
          if p.scalar = true ∧ i = core ∧ work ≤ b ∧ b < work + 64 then (cellBytes p).getD (b - work) 0#8
          else memByte (coreAt s i).scratch b)
      ∧ OtherCtxs s t core k ∧ t.mem = s.mem

/-- R109, R154, R316: PACKET_ADMIT lands the next piece of a descriptor whose destination is this core's scratchpad and
advances it; WAIN_DESCRIPTOR_COMPLETE takes the oldest descriptor whose every byte has left and which awaits no answer off
the queue, and its status joins the sticky wain status and has the outcome that R154 gives it. -/
def Obligations.WainEvents : Prop :=
  ∀ (core k : Nat) (s : State),
    let x := ctxAt s core k
    (∀ (ok : Bool) (hd : List Byte) (d : WainDesc) (bs : List Byte) (barn : Bool) (needs : List Need) (s' : State)
      (leaves : Tick),
      headWain s core x = some d → (clusterAt s (clusterOf core)).owner = some k →
      grantsNothing s (coveNum (coveOfCore s core)) = false → d.localDst = true →
      readScratch s core (if d.op ≠ 1 ∧ d.localSrc then [(winAddr x (d.src.toNat + d.moved), pieceLen d)] else [])
        = (true, s) →
      sourceOf s core k d (pieceLen d) ok hd = (.data bs, barn) →
      packetNeeds s core (sourcePlace s core d) (.die (dieOf core)) = some needs →
      admitFor s (coveNum (coveOfCore s core)) (admitClass d barn) needs
        (shoreNeeds (sourceSite core (sourcePlace s core d)) (.die (dieOf core))) none (pieceLen d) 0
          = .granted s' leaves →
      ∃ t, exec (.packetAdmit core k ok hd) s = .next t
        ∧ (∀ i b, memByte (coreAt t i).scratch b =
            if i = core ∧ winAddr x (d.dst.toNat + d.moved) ≤ b ∧ b < winAddr x (d.dst.toNat + d.moved) + bs.length
            then bs.getD (b - winAddr x (d.dst.toNat + d.moved)) 0#8 else memByte (coreAt s i).scratch b)
        ∧ ctxAt t core k = { x with wainQ := x.wainQ.map fun e =>
            if e.seq = d.seq then { e with moved := e.moved + pieceLen d, leaves := max e.leaves leaves } else e }
        ∧ OtherCtxs s t core k ∧ t.mem = s.mem ∧ t.coves = s.coves)
    ∧ ∀ d : WainDesc, (x.wainQ.find? fun d =>
          decide (d.len ≤ d.moved) && d.awaiting == 0 && decide (d.leaves ≤ s.tide.now)) = some d →
      ∃ u, ctxAt u core k = { x with
            wainQ := x.wainQ.filter (fun e => e.seq ≠ d.seq), wainStatus := worse x.wainStatus d.status }
        ∧ OtherCtxs s u core k ∧ u = { s with cores := u.cores }
        ∧ exec (.wainDescriptorComplete core k) s = .next (statusOutcome u core d.addr d.status)
        ∧ (d.status = .done ∨ d.status = .late → statusOutcome u core d.addr d.status = u)
        ∧ (∀ c, coveOfCore s core = some c → d.status = .unreachable →
            statusOutcome u core d.addr d.status = discardStep u c 6 (some d.addr))

/-- R120, R167, R495, R499: with no recovery running, ENGINE_HANG of an engine that runs an instruction of the context and
ROUTINE_HANG of a routine more than 2 µs past the deadline of its highest level record event 0xA010, switch the cluster out
and queue a recovery of rung 2 with cause 1 for the cove, unless it has one; of an engine that runs nothing, and of a
routine within its deadline, they do nothing. -/
def Obligations.HangsQueueRecoveries : Prop :=
  ∀ (core k c : Nat) (s : State), core < 1024 → coveOfCore s core = some c → s.recov.current = none →
    (∀ q ∈ s.recov.queue, q.cove ≠ c) →
    (∀ engine, engine < 4 → k < 5 →
      (engineRuns s core k engine = true → ∃ t, exec (.engineHang core k engine) s = .next t
        ∧ Recorded s t 0xA010 (if engine = 3 then 1024 + clusterOf core else core)
        ∧ (clusterAt t (clusterOf core)).owner = none
        ∧ t.recov = { s.recov with queue := s.recov.queue ++
            [⟨c, 2, 1, s.tide.now, if engine = 3 then 1024 + clusterOf core else core, engine, core, k⟩] }
        ∧ t.coves = s.coves)
      ∧ (engineRuns s core k engine = false → exec (.engineHang core k engine) s = .next s))
    ∧ (∀ r, (ctxAt s core k).routine = some r →
      (routineDeadline s core r + 2000 < s.tide.now → ∃ t, exec (.routineHang core k) s = .next t
        ∧ Recorded s t 0xA010 core ∧ (clusterAt t (clusterOf core)).owner = none
        ∧ t.recov = { s.recov with queue := s.recov.queue ++ [⟨c, 2, 1, s.tide.now, core, 4, core, k⟩] }
        ∧ t.coves = s.coves)
      ∧ (s.tide.now ≤ routineDeadline s core r + 2000 → exec (.routineHang core k) s = .next s))

/-- R114, R115, R118: CONTEXT_SWITCH gives the cluster to the owner that its table names now and notes the tick, and no
other cluster changes owner; the outgoing context's save area holds its save image, and the incoming context takes from its
own image what that lays out. SCRATCHPAD_SCRUB counts a corrected word (event 0x4010), rewrites it, and answers an
uncorrectable one (event 0x4011), which stays, with a discard of cause 7 for the scratchpad and as cove-fatal otherwise. -/
def Obligations.SwitchAndScrub : Prop :=
  ∀ s : State,
    (∀ cl, (clusterAt s cl).owner ≠ ownerNow s cl → ∃ t, exec (.contextSwitch cl) s = .next t
      ∧ (clusterAt t cl).owner = ownerNow s cl ∧ (clusterAt t cl).switchTick = s.tide.now
      ∧ (∀ j, j ≠ cl → clusterAt t j = clusterAt s j) ∧ t.mem = s.mem
      ∧ (∀ k i, (clusterAt s cl).owner = some k → k < 4 → i / 4 = cl → ownerNow s cl ≠ some 4 →
          (ctxAt s i k).mode ≠ .empty →
          memRead (coreAt t i).scratch (saveBase (ctxAt s i k)) 101376
            = saveImage (discardStream (dropBundle s cl k) i k) i k)
      ∧ (∀ k i, ownerNow s cl = some k → k < 4 → i / 4 = cl → (ctxAt s i k).mode ≠ .empty →
          (ctxAt s i k).wait = none →
          upsetsIn (coreAt s i) 0 (saveBase (ctxAt s i k) / 8) ((saveBase (ctxAt s i k) + 101376) / 8) = [] →
          ctxAt t i k = loadImage (ctxAt s i k) (coreAt t i).scratch))
    ∧ (∀ die i store word, die < 64 → i < 16 → store < 3 → (∀ j, j < 16 → (coreAt s (16 * die + j)).upsets = []) →
      (∃ t, exec (.scratchpadScrub die [(i, store, word)] []) s = .next t
        ∧ Recorded s t 0x4010 (16 * die + i)
        ∧ (ledgerAt t die).corrected = satTo 32 ((ledgerAt s die).corrected + 1)
        ∧ (∀ j, coreAt t j = coreAt s j) ∧ t.mem = s.mem ∧ t.coves = s.coves)
      ∧ ∃ u t, exec (.scratchpadScrub die [] [(i, store, word)]) s = .next t
        ∧ Recorded s u 0x4011 (16 * die + i)
        ∧ (ledgerAt u die).uncorrectable = satTo 32 ((ledgerAt s die).uncorrectable + 1)
        ∧ coreAt u (16 * die + i) = { coreAt s (16 * die + i) with upsets := [(store, word, true)] }
        ∧ (∀ j, j ≠ 16 * die + i → coreAt u j = coreAt s j) ∧ u.mem = s.mem ∧ u.coves = s.coves
        ∧ let v := match coveOfCore s (16 * die + i) with
            | some c => if store = 0 then discardStep u c 7 none else coveFatal u c 4
            | none => u
          t = { v with cores := t.cores } ∧ ∀ j, coreAt t j = coreAt v j)

/-! ### Deadlines, votes and limits of collectives -/

namespace Sys2Proof.Claim

/-- An RWAIT ends with a mask: its register takes it, the wait is over, and no other context or scratchpad changes. -/
def WaitEndsWith (s t : State) (core k rd mask : Nat) : Prop :=
  (ctxAt t core k).wait = none
    ∧ (∀ q : BitVec 5, sreg (ctxAt t core k) q =
        if q.toNat = rd ∧ rd ≠ 0 then BitVec.ofNat 64 mask else sreg (ctxAt s core k) q)
    ∧ (ctxAt t core k).pc = (ctxAt s core k).pc ∧ OtherCtxs s t core k
    ∧ ∀ i, (coreAt t i).scratch = (coreAt s i).scratch

end Sys2Proof.Claim

/-- R155, R182, R184 to R186: ARRIVAL_DEADLINE ends an SARRIVE at its deadline, with the deadline as anchor; at an omit
level it sends the core's own notice, and at another it ends an RWAIT whose pieces are here. VOTE_TICK forms the decision
from the notices of the bank: the mask of P goes to rD, the context's count is the sum of P's counts, and an empty P
fails the call (event 0x5011). COLLECTIVE_LIMIT with a piece missing fails the call (event 0x5013) and ends the wait
with the pieces that came. -/
def Obligations.CollectiveDeadlines : Prop :=
  ∀ (core k c : Nat) (s : State), core < 1024 → coveOfCore s core = some c →
    (clusterAt s (clusterOf core)).owner = some k →
    let x := ctxAt s core k
    (∀ g mask d, x.wait = some (.arrive g mask d) → d ≤ ctxNow s core →
      ∃ t, exec (.arrivalDeadline core k) s = .next t
        ∧ ctxAt t core k = { x with wait := none, waitSwitched := false, anchor := d, wainStatus := .done }
        ∧ OtherCtxs s t core k ∧ t.mem = s.mem ∧ t.coves = s.coves)
    ∧ ∀ (rd l : Nat) (round2 late : Bool) (expected : Nat) (dl limit : Tick) (r : RoutineCall),
      x.wait = some (.slots rd l round2 expected dl limit late none) → x.routine = some r → rd < 32 →
      let gather := match r.last with | some p => p.2.2 | none => false
      let voted := bitOf (gOmit (coreAt s core) r.group) l && !gather
      let own := gOwnSlot s core r.group l round2
      let sent := (bankNotices s core k r l round2).any fun n => n.sender == own
      let missing := missingSlots s core k r l round2 gather false expected
      (voted = true → sent = false → dl ≤ ctxNow s core → l < 4 →
        ∃ t, exec (.arrivalDeadline core k) s = .next t ∧ ctxAt t core k = x
          ∧ noticeOf (noticeBytes s core k r l round2 false expected) (slotName s core r l round2 false true own) k false
            ∈ (coreAt t core).notices)
      ∧ (voted = false → missing = [] → dl ≤ ctxNow s core →
        ∃ t, exec (.arrivalDeadline core k) s = .next t ∧ WaitEndsWith s t core k rd expected ∧ t.mem = s.mem)
      ∧ (voted = true → sent = true → gVote s core r.group l round2 r.anchor ≤ ctxNow s core →
        (coveAt s c).forced = false →
        let p := decisionOf s core k r l round2
        (∀ j ∈ p, j ≠ own → slotWasRefused s core r l round2 j = false) →
        missingSlots s core k r l round2 gather true (maskOf p) = [] →
        ∃ t, exec (.voteTick core k) s = .next t ∧ WaitEndsWith s t core k rd (maskOf p)
          ∧ (ctxAt t core k).count = (p.map fun j =>
              match (bankNotices s core k r l round2).find? fun n => n.sender == j with
              | some n => n.count | none => ownCount s core k r l round2).foldl (· + ·) 0
          ∧ (p ≠ [] → (coveAt t c).failed = (coveAt s c).failed)
          ∧ (p = [] → Recorded s t 0x5011 core ∧ (coveAt t c).failed.isSome = true))
      ∧ (voted = false → missing ≠ [] → limit ≤ ctxNow s core →
        ∃ t, exec (.collectiveLimit core k) s = .next t
          ∧ WaitEndsWith s t core k rd (expected - maskOf missing)
          ∧ (ctxAt t core k).routine.map (·.late) = some true
          ∧ Recorded s t 0x5013 core ∧ (coveAt t c).failed.isSome = true ∧ t.mem = s.mem)

/-! ### Steps: commit, slack water, discard and replay -/

namespace Sys2Proof.Claim

/-- A step of cove `c` has started at a tick (R180, R221, R302, R572): anchors, call numbers, seeds and counts are those of
a step's start, a flip that its slack water did not see made waits for a later one, and no other memory and no context's
program changed. -/
def StepStarted (s t : State) (c : Nat) (tick : Tick) : Prop :=
  coveTideAt t c = { coveTideAt s c with
      slack := false, held := false, cause := 0, stepStart := tick, restart := 0#64, skew := (coveTideAt t c).skew,
      gen := (coveTideAt t c).gen }
    ∧ (coveAt t c).mode = .running ∧ (coveAt t c).awaitReplay = none ∧ (coveAt t c).stats = StepStats.reset
    ∧ (coveAt t c).step = (coveAt s c).step ∧ (coveAt t c).parity = (coveAt s c).parity
    ∧ (coveAt t c).commits = [] ∧ (coveAt t c).shards = []
    ∧ (coveAt t c).actionsDone = 0 ∧ (coveAt t c).barred = 0
    ∧ (∀ j, j < 4 → Sparse.get 0#64 (coveAt t c).seeds j = regAt s (cvReg c (0x60 + 8 * j)))
    ∧ (coveAt t c).forced = bitOf (regAt s (cvReg c 0xB0)).toNat 0
    ∧ (∀ i ∈ coresOf (coveAt s c), (ctxAt t i 0).anchor = tick - (coveAt s c).ckpt.offset
        ∧ (ctxAt t i 0).calls = [] ∧ (ctxAt t i 0).callsDone = [] ∧ (coreAt t i).digest = 0#64
        ∧ ∀ k, 1 ≤ k → k < 4 →
            ctxAt t i k = { ctxAt s i k with anchor := tick - (coveAt s c).ckpt.offset })
    ∧ (∀ i k, 4 ≤ k ∨ i ∉ coresOf (coveAt s c) → ctxAt t i k = ctxAt s i k)
    ∧ (∀ d, d ≠ c → coveAt t d = coveAt s d) ∧ t.tide.started = true
    ∧ t.mem = { s.mem with placement := t.mem.placement }
    ∧ ∀ u, placementAt t u =
        { placementAt s u with go := (placementAt s u).go && !(placedUnits s c).contains u }

/-- A step was discarded (R388, R496): its record, event 0x6002 and counts, and slack water from now until the least
multiple of the commit quantum at or after the greatest discard tick plus the slack length. -/
def StepDiscarded (s t : State) (c cause : Nat) (dMax : Tick) : Prop :=
  Recorded s t 0x6002 1296
    ∧ (coveAt t c).replaying = true ∧ (coveAt t c).replays = (coveAt s c).replays + 1 ∧ (coveAt t c).lastCause = cause
    ∧ (coveAt t c).step = (coveAt s c).step ∧ (coveAt t c).parity = (coveAt s c).parity
    ∧ (coveAt t c).commits = [] ∧ (coveAt t c).stats = StepStats.reset
    ∧ (coveAt t c).awaitReplay = some (roundUp (max s.tide.now dMax + planSlack s c (coveTideAt s c).bank)
        (planQuantum s c (coveTideAt s c).bank))
    ∧ coveTideAt t c = { coveTideAt s c with slack := true, slackStart := s.tide.now }
    ∧ (∀ i ∈ coresOf (coveAt s c), ctxAt t i 0 = resetContext (ctxAt s i 0))
    ∧ ∀ i k, k ≠ 0 → ctxAt t i k = ctxAt s i k

end Sys2Proof.Claim

/-- R49, R186, R293, R302, R386, R387: STEP_COMMIT counts the step, flips the parity unless the update was skipped, resets
the threshers' running values and the non-finite flags and opens slack water at the commit tick, event 0x1051 when it is
late; a stop request or the end of every program then stops the cove (event 0x700B), and an arrival of another module that
landed LATE fails the step instead (event 0x5010, cause 3). SLACK_WATER_END starts the next step at the end of slack water,
or holds a cove whose job spans modules while the module is not aligned. COMMIT_LIMIT discards the step with cause 3 and
event 0xA070; while an engine of the cove is reset, its discard waits for the end of that recovery (R507). -/
def Obligations.StepEnds : Prop :=
  ∀ (c : Nat) (s : State), c < 16 → (coveAt s c).mode = .running →
    let v := coveAt s c
    let tt := coveTideAt s c
    (∀ (remote : Option (Tick × Bool)) (k : Tick), tt.slack = false → commitWaits s c = false →
        remote.any (·.2) = false ∨ commitRemote s c = false → commitAt s c (remote.map (·.1)) = some k →
      ∃ u, exec (.stepCommit c remote) s = .next (afterCommit (startCapture u c) c)
        ∧ (coveAt u c).step = v.step + 1
        ∧ (coveAt u c).parity = (if v.stats.skipped then v.parity else !v.parity)
        ∧ (coveAt u c).skipRun = (if v.stats.skipped then v.skipRun + 1 else 0)
        ∧ (coveAt u c).replaying = false ∧ (coveAt u c).replays = 0 ∧ (coveAt u c).commits = []
        ∧ coveTideAt u c = { tt with slack := true, slackStart := k }
        ∧ (∀ i ∈ coresOf v, ctxAt u i 0 = { ctxAt s i 0 with nonfinite := false })
        ∧ (∀ i k, k ≠ 0 → ctxAt u i k = ctxAt s i k)
        ∧ (∀ cl ∈ clustersOf v, threshAt u cl 0 = ThreshRun.reset)
        ∧ (commitTickOf s c < k → Recorded s u 0x1051 1296)
        ∧ (v.releaseReq = false → (v.stopReq = true ∨ allEnded s c = true) → v.ckpt.take = false →
            ∃ t, exec (.stepCommit c remote) s = .next t ∧ (coveAt t c).mode = .stopped
              ∧ (coveAt t c).changed = s.tide.now ∧ (coveAt t c).stopReq = false ∧ Recorded u t 0x700B 1296))
    ∧ (∀ tick, tt.slack = false → commitRemote s c = true → engineRecovery s c = false → v.awaitReplay = none →
        v.replays < 2 → ¬ (v.replaying = true ∧ v.lastCause = 3 ∧ v.lastFail = 0) → v.ckpt.returnTick = 0 →
        ∃ t, exec (.stepCommit c (some (tick, true))) s = .next t ∧ StepDiscarded s t c 3 v.dMax ∧ Recorded s t 0x5010 1296)
    ∧ (tt.slack = true → coveFrozen v = false → v.awaitReplay = none → slackEnd s c ≤ s.tide.now →
        (unaligned s c = false → forceRefused s c = false → v.owed = none →
          ∃ t, exec (.slackWaterEnd c) s = .next t ∧ StepStarted s t c (slackEnd s c))
        ∧ (unaligned s c = true → ∃ t, exec (.slackWaterEnd c) s = .next t ∧ (coveAt t c).mode = .held
          ∧ (coveAt t c).hcause = 4 ∧ (coveTideAt t c).cause = 2 ∧ Recorded s t 0x700A 1296
          ∧ t.cores = s.cores ∧ t.mem = s.mem))
    ∧ (tt.slack = false → coveFrozen v = false → v.awaitReplay = none →
        commitTickOf s c + planCommitOffset s c tt.bank ≤ s.tide.now →
        (engineRecovery s c = false → v.replays < 2 → v.ckpt.returnTick = 0 →
          ∃ t, exec (.commitLimit c) s = .next t ∧ StepDiscarded s t c 3 v.dMax ∧ Recorded s t 0xA070 1296)
        ∧ (engineRecovery s c = true → ∃ t, exec (.commitLimit c) s = .next t ∧ Recorded s t 0xA070 1296
          ∧ (coveAt t c).owed = some (3, none) ∧ t.cores = s.cores ∧ t.mem = s.mem))

/-- R355, R400, R496: a DISCARD_NOTICE_RECEIVE from another module with this cove's job tag and step discards the step
with cause 9, or moves the start of a replay that waits; one of another job does nothing. REPLAY_START starts the replay
at its tick, or moves the start to a later multiple of the quantum while the unit of a floor conflict is on its way back
(R225). COVE_RESTART_TICK starts a held cove at its restart tick, or moves the restart to the next multiple of the quantum
(event 0x700A) while an action runs or the module is not aligned. DIGEST_TABLE_RECEIVE notes the peer's table and each difference (event
0x6031), or records event 0x6033. -/
def Obligations.DiscardsReplaysAndRestarts : Prop :=
  ∀ (c : Nat) (s : State), c < 16 →
    let v := coveAt s c
    let tt := coveTideAt s c
    (∀ (sender tick : Nat) (tag : Word) (step : DWord),
      ((sender = s.moduleId ∨ tag = 0#32 ∨ tag ≠ Sparse.get 0#32 v.tags 0 ∨ step ≠ v.step) →
        exec (.discardNoticeReceive c sender tag step tick) s = .next s)
      ∧ (sender ≠ s.moduleId → tag ≠ 0#32 → tag = Sparse.get 0#32 v.tags 0 → step = v.step →
        (∀ a, v.awaitReplay = some a → ∃ t, exec (.discardNoticeReceive c sender tag step tick) s = .next t
          ∧ coveAt t c = { v with
              dMax := max tick v.dMax,
              awaitReplay := some (roundUp (max tick v.dMax + planSlack s c tt.bank) (planQuantum s c tt.bank)) }
          ∧ t = { s with coves := t.coves, tide := { s.tide with coves := t.tide.coves } })
        ∧ (v.awaitReplay = none → v.mode = .running → tt.slack = false → v.replays < 2 → v.ckpt.returnTick = 0 →
          ∃ t, exec (.discardNoticeReceive c sender tag step tick) s = .next t
            ∧ StepDiscarded s t c 9 (max v.dMax tick))))
    ∧ (∀ t0, v.awaitReplay = some t0 → v.mode = .running → coveFrozen v = false → t0 ≤ s.tide.now →
        (v.lastCause ≠ 5 ∨ v.stats.conflicts = [] → forceRefused s c = false → v.owed = none →
          ∃ t, exec (.replayStart c) s = .next t ∧ StepStarted s t c t0)
        ∧ ∀ u, v.lastCause = 5 → v.stats.conflicts = [u] → (placementAt s u).state = .promoting →
          (placementAt s u).go = true → exec (.replayStart c) s = .next (updCove s c fun v => { v with
            awaitReplay := some (t0 + roundUp (s.tide.now + 1 - t0) (max 1 (planQuantum s c tt.bank))) }))
    ∧ (v.mode = .held → tt.restart.toNat ≠ 0 → tt.restart.toNat ≤ s.tide.now →
        let busy := v.ckpt.phase == .restoring || v.ckpt.phase == .frozen
          || v.lq.inflight.any (fun e => bitOf e.entry.flags 0)
          || s.load.pq.inflight.any (fun e => bitOf e.entry.flags 0 && e.entry.cove == c)
          || decide (s.tide.now < tt.clockBusy)
        (busy = false → unaligned s c = false → forceRefused s c = false → v.owed = none →
          ∃ t, exec (.coveRestartTick c) s = .next t ∧ StepStarted s t c tt.restart.toNat
            ∧ (coveTideAt t c).skew = false
            ∧ (coveTideAt t c).gen = (if v.hcause = 1 then v.vGen else tt.gen) ∧ Recorded s t 0x7001 1296)
        ∧ (busy = true ∨ unaligned s c = true → ∃ t, exec (.coveRestartTick c) s = .next t
          ∧ coveTideAt t c = { tt with
              restart := BitVec.ofNat 64 (roundUp (s.tide.now + 1) (planQuantum s c tt.bank)) }
          ∧ Recorded s t 0x700A 1296 ∧ t.cores = s.cores ∧ t.coves = s.coves ∧ t.mem = s.mem))
    ∧ ∀ (peer : Nat) (step : DWord) (table : List DWord) (crcOk : Bool),
        ((∀ p ∈ digestPeers s c, p.1 ≠ peer) → exec (.digestTableReceive c peer step table crcOk) s = .next s)
        ∧ ((∃ p ∈ digestPeers s c, p.1 = peer) →
          ((crcOk = false ∨ step.toNat ≠ v.digestStep) → ∃ t,
            exec (.digestTableReceive c peer step table crcOk) s = .next t ∧ Recorded s t 0x6033 1296
              ∧ t.coves = s.coves ∧ t.mem = s.mem)
          ∧ (crcOk = true → step.toNat = v.digestStep → ∃ t,
            exec (.digestTableReceive c peer step table crcOk) s = .next t
              ∧ (coveAt t c).received = v.received ||| 2 ^ peer ∧ t.cores = s.cores ∧ t.mem = s.mem
              ∧ ((∀ q, q < v.digestTable.length → v.digestTable.getD q 0#64 = table.getD q 0#64) →
                  (coveAt t c).mismatch = v.mismatch)
              ∧ ((∃ q, q < v.digestTable.length ∧ v.digestTable.getD q 0#64 ≠ table.getD q 0#64) →
                  (coveAt t c).mismatch = v.mismatch ||| 2 ^ peer ∧ Recorded s t 0x6031 1296)))

/-! ### Slack-water actions -/

namespace Sys2Proof.Claim

/-- An action of R48 waits (R49): CV_STATE's flag, action and reason say so and event 0x7006 records it. -/
def Deferred (s t : State) (c action reason : Nat) : Prop :=
  (coveAt t c).deferred = true ∧ (coveAt t c).action = action ∧ (coveAt t c).reason = reason
    ∧ Recorded s t 0x7006 1296 ∧ t.cores = s.cores ∧ t.mem = s.mem ∧ t.tide = s.tide

/-- An entry of a copy list ends done (bit 1) or failed with a status code (bit 2, bits [15:8]). -/
def EntryEnds (s t : State) (off : Nat) (status : Option Nat) : Prop :=
  let w := (regAt s (off + 24)).toNat
  regAt t (off + 24) = BitVec.ofNat 64 (match status with
    | none => w ||| 2
    | some code => (w - (w &&& 0xFF00)) ||| 4 ||| (code * 256))

end Sys2Proof.Claim

/-- R48, R49, R351, R353, R356, R395: in its slack water a running cove does SLACK_EVAL_SNAPSHOT, SLACK_EBB, SLACK_FLOOD
and SLACK_REPLICA_COPY in this order; one that does not fit is deferred with reason 7. The snapshot and the replica copy
copy an entry's bytes and set done; ebb zeroes the released dies and drops them from the cove; flood loads the variant
onto the target mask, or waits with reason 2 for a die that is taken or fenced, held with hold cause 5 when its own dies
have gone; its bank switch, event 0x7005, comes at once where no replica copy is asked for and else after the copies (R48). A replica source on another module whose bytes do not come fails with status 5, hold cause 5 and reason 14. -/
def Obligations.SlackActions : Prop :=
  ∀ (c : Nat) (s : State), c < 16 → (coveAt s c).mode = .running →
    let v := coveAt s c
    let tt := coveTideAt s c
    (v.evalArm = true → actionOpen s c 1 = true →
      let l := openEntries s (cvReg c 0x300) 8
      (fitsSlack s c (slackTicks s c 0xF 1 (entryBytes s l)) = false → ∃ t, exec (.slackEvalSnapshot c) s = .next t
        ∧ Deferred s t c 1 7 ∧ (coveAt t c).evalDeferred = true ∧ (coveAt t c).barred = 1)
      ∧ (fitsSlack s c (slackTicks s c 0xF 1 (entryBytes s l)) = true → ∃ t, exec (.slackEvalSnapshot c) s = .next t
        ∧ (coveAt t c).evalArm = false ∧ (coveAt t c).evalDone = true ∧ (coveAt t c).evalDeferred = false
        ∧ (coveAt t c).evalStep = BitVec.ofNat 32 v.step.toNat ∧ (coveAt t c).actionsDone = 1
        ∧ Recorded s t 0x6040 1296 ∧ t.cores = s.cores
        ∧ ∀ off, l = [off] →
          let e := copyEntry s off
          let ok := inUnits s c e.1 e.2.2.1 && inUnits s c e.2.1 e.2.2.1
          (ok = true → condemned s (.hbm (e.1 % 2 ^ 44)) e.2.2.1 = false → EntryEnds s t off none
            ∧ t.mem = (hbmStore s (e.2.1 % 2 ^ 44) (hbmRead s (e.1 % 2 ^ 44) e.2.2.1)).mem)
          ∧ (ok = true → condemned s (.hbm (e.1 % 2 ^ 44)) e.2.2.1 = true →
            EntryEnds s t off (some 6) ∧ Recorded s t 0x6041 1296 ∧ t.mem = s.mem)
          ∧ (ok = false → EntryEnds s t off (some 2) ∧ Recorded s t 0x6041 1296 ∧ t.mem = s.mem)))
    ∧ (∀ mask t0, v.reshape = some (mask, t0) → v.reshapeOk = true → v.evalArm = false →
      let ebb := (reshapeDies v mask).1
      let flood := (reshapeDies v mask).2
      (actionOpen s c 2 = true → flood ≠ [] → ∃ t, exec (.slackEbb c) s = .next t
        ∧ (coveAt t c).dies = v.dies &&& mask ∧ (coveAt t c).actionsDone = 2 ∧ (coveAt t c).reshape = v.reshape
        ∧ (∀ d ∈ ebb, nearAt t d = [] ∧ ∀ k, k < 16 → (coreAt t (16 * d + k)).scratch = []
            ∧ (coreAt t (16 * d + k)).ctxs = [])
        ∧ (∀ d, d ∉ ebb → nearAt t d = nearAt s d ∧ ∀ k, k < 16 → coreAt t (16 * d + k) = coreAt s (16 * d + k)))
      ∧ (actionOpen s c 3 = true → ebb = [] → flood ≠ [] →
        (flood.any (fun x => (coveOfDie s x).isSome || dieFenced s x) = true → ∃ t, exec (.slackFlood c) s = .next t
          ∧ (v.dies = v.atClock → Deferred s t c 3 2)
          ∧ (v.dies ≠ v.atClock → (coveAt t c).mode = .held ∧ (coveAt t c).hcause = 5 ∧ (coveAt t c).dies = v.dies
            ∧ (coveAt t c).reason = 2 ∧ Recorded s t 0x7006 1296 ∧ Recorded s t 0x700A 1296))
        ∧ (flood.any (fun x => (coveOfDie s x).isSome || dieFenced s x) = false → ∀ i, chooseVariant s c mask = some i →
          (loadVariant s c i mask).1 = true → ∃ t, exec (.slackFlood c) s = .next t
            ∧ (coveAt t c).dies = mask ∧ (coveAt t c).variant = i + 1 ∧ (coveAt t c).reshape = none
            ∧ (openEntries s (cvReg c 0x400) 32 = [] → (coveAt t c).actionsDone = 5 ∧ (coveAt t c).deferred = false
              ∧ (coveTideAt t c).bank = !tt.bank ∧ (coveTideAt t c).prevBank = tt.bank
              ∧ Recorded s t (if mask &&& ~~~ v.atClock = 0#64 then 0x7004 else 0x7005) 1296)
            ∧ (openEntries s (cvReg c 0x400) 32 ≠ [] → (coveAt t c).actionsDone = 3
              ∧ (coveAt t c).reshaped = some (i, v.atClock) ∧ (coveTideAt t c).bank = tt.bank))))
    ∧ (actionOpen s c 4 = true → ebbPending v = false → v.evalArm = false → openEntries s (cvReg c 0x400) 32 ≠ [] →
      let l := openEntries s (cvReg c 0x400) 32
      ∀ peer : List (List Byte),
      (fitsSlack s c (slackTicks s c 0xE 1 (entryBytes s l)) = false → ∃ t, exec (.slackReplicaCopy c peer) s = .next t
        ∧ Deferred s t c 4 7 ∧ (coveAt t c).barred = 4)
      ∧ (fitsSlack s c (slackTicks s c 0xE 1 (entryBytes s l)) = true → v.overHbm = false → ∀ off, l = [off] →
        let e := copyEntry s off
        inUnits s c e.2.1 e.2.2.1 = true → e.1 % 4096 = 0 →
        (∀ bs, addrModule e.1 ≠ s.moduleId → peer = [bs] → bs.length = e.2.2.1 →
          ∃ t, exec (.slackReplicaCopy c peer) s = .next t ∧ EntryEnds s t off none ∧ Recorded s t 0x700D 1296
            ∧ t.mem = (hbmStore s (e.2.1 % 2 ^ 44) bs).mem ∧ t.cores = s.cores
            ∧ (coveAt t c).actionsDone = (if v.reshaped.isSome then 5 else 4)
            ∧ (coveTideAt t c).bank = (if v.reshaped.isSome then !tt.bank else tt.bank))
        ∧ (addrModule e.1 ≠ s.moduleId → peer = [] →
          ∃ t, exec (.slackReplicaCopy c peer) s = .next t ∧ EntryEnds s t off (some 5) ∧ Recorded s t 0x700D 1296
            ∧ t.mem = s.mem ∧ (coveAt t c).mode = .held ∧ (coveAt t c).hcause = 5 ∧ (coveAt t c).reason = 14)))

/-! ### Writes to BAR0 -/

namespace Sys2Proof.Claim

/-- The rows that write a register of BAR0: the function that writes, the register's offset in its BAR (none where the
command names it or writes several), whether that BAR presents it, and whether safe harbour leaves its block open. -/
def barRow : Instr → Option (Nat × Option Nat × Bool × Bool)
  | .tideDataWrite _ => some (0, some 0x10058, true, false)
  | .moduleSwitchArm _ => some (0, some 0x10048, true, false)
  | .moduleSwitchReapply _ => some (0, some 0x10048, true, false)
  | .coveSwitchArm cove _ => some (0, some (0x10810 + 0x40 * cove), decide (cove < 16), false)
  | .coveSwitchReapply cove _ => some (0, some (0x10810 + 0x40 * cove), decide (cove < 16), false)
  | .tideCRestartWrite cove _ fn => some (fn, some (0x10828 + 0x40 * cove), decide (cove < 16), false)
  | .routeDataWrite _ => some (0, some 0x80010, true, false)
  | .routeSwitchArm _ => some (0, some 0x80020, true, false)
  | .routeReapply _ => some (0, some 0x80020, true, false)
  | .fabCtrlHfenceSet port _ => some (0, some (fabReg port 8), decide (port < 128), false)
  | .fabCtrlHfenceClear port _ => some (0, some (fabReg port 8), decide (port < 128), false)
  | .fabCtrlEnClear port _ => some (0, some (fabReg port 8), decide (port < 128), false)
  | .fabCtrlRelease port _ => some (0, some (fabReg port 8), decide (port < 128), false)
  | .leaseTableWrite index _ => some (0, none, decide (index < 64), false)
  | .cvCtrlStart cove fn _ => some (fn, some (barOff cove fn 0x08), (decide (cove < 16) && ownFn cove fn), false)
  | .cvCtrlStop cove fn _ => some (fn, some (barOff cove fn 0x08), (decide (cove < 16) && ownFn cove fn), false)
  | .cvCtrlHold cove fn _ => some (fn, some (barOff cove fn 0x08), (decide (cove < 16) && ownFn cove fn), false)
  | .cvDiesWrite cove fn _ => some (fn, some (barOff cove fn 0x10), (decide (cove < 16) && ownFn cove fn), false)
  | .cvUmapWrite cove fn word _
      => some (fn, some (barOff cove fn (0x100 + 8 * word)), (decide (cove < 16) && ownFn cove fn && decide (word < 32)), false)
  | .cvQuotaWrite cove fn _ => some (fn, some (barOff cove fn 0x20), (decide (cove < 16) && ownFn cove fn), false)
  | .cvJobtagWrite cove fn j _
      => some (fn, some (barOff cove fn (0x40 + 8 * j)), (decide (cove < 16) && ownFn cove fn && decide (j < 4)), false)
  | .cvEvalCtrlArm cove fn _ => some (fn, some (barOff cove fn 0x280), (decide (cove < 16) && ownFn cove fn), false)
  | .cvSrCtrlEnable cove fn _ => some (fn, some (barOff cove fn 0x210), (decide (cove < 16) && ownFn cove fn), false)
  | .cvLdigCtrlEnable cove fn _
      => some (fn, some (barOff cove fn 0xA00), (decide (cove < 16) && ownFn cove fn), false)
  | .cvClogCtrlEnable cove fn _
      => some (fn, some (barOff cove fn 0x88), (decide (cove < 16) && ownFn cove fn), false)
  | .cvClogRdWrite cove fn _ => some (fn, some (barOff cove fn 0x98), (decide (cove < 16) && ownFn cove fn), false)
  | .cvBarnWrite cove fn e _
      => some (fn, some (barOff cove fn (0xC00 + 8 * e)), (decide (cove < 16) && ownFn cove fn && decide (e < 32)), false)
  | .loadQueueDoorbell queue fn _
      => some (fn, some (queueTailOff queue fn), (decide (queue ≤ 16) && queueWriter queue fn), false)
  | .loadQueueEnable queue fn _
      => some (fn, some (queueTailOff queue fn - 8), (decide (queue ≤ 16) && queueWriter queue fn), false)
  | .loadConnConnect k _ _ => some (0, some 0x50008, decide (k < 16), false)
  | .loadConnDisconnect k => some (0, some 0x50008, decide (k < 16), false)
  | .ckptTake cove _ _ => some (0, some (ckReg cove 0), decide (cove < 16), false)
  | .ckptFreeze cove _ _ => some (0, some (ckReg cove 0), decide (cove < 16), false)
  | .ckptThaw cove _ => some (0, some (ckReg cove 0), decide (cove < 16), false)
  | .ckptRollback cove _ => some (0, some (ckReg cove 0), decide (cove < 16), false)
  | .ckptRestore cove _ _ _ => some (0, some (ckReg cove 0), decide (cove < 16), false)
  | .ckptAdopt cove _ => some (0, some (ckReg cove 0), decide (cove < 16), false)
  | .ckptStandinWrite cove _ => some (0, some (ckReg cove 0xC0), decide (cove < 16), false)
  | .ckptRemapWrite index _
      => some (0, some (ckReg (index / 8) (0x80 + 8 * (index % 8))), decide (index < 128), false)
  | .healthFence _ => some (0, some 0xA8048, true, true)
  | .healthFenceClear _ => some (0, some 0xA8048, true, true)
  | .recovContextReset _ => some (0, some 0xC0008, true, true)
  | .recovEngineReset _ => some (0, some 0xC0008, true, true)
  | .recovCoveReset _ => some (0, some 0xC0008, true, true)
  | .recovModuleReset _ => some (0, some 0xC0008, true, true)
  | .recovWrackFree _ => some (0, some 0xC0038, true, true)
  | .recovWrackCopy _ => some (0, some 0xC0048, true, true)
  | .healthErrRdWrite fn _ => some (fn, some (viewOff fn 0xA9008), true, true)
  | .healthErrFetch fn _ => some (fn, some (viewOff fn 0xA9018), true, true)
  | .healthCntFetch fn _ => some (fn, some (viewOff fn 0xAA020), true, true)
  | .traceSlFetch fn _ => some (fn, some (viewOff fn 0xB0020), true, true)
  | .traceCWtCtrlWrite cove fn _ => some (fn, some (wtOff cove fn 0), (decide (cove < 16) && wtWriter cove fn), true)
  | .traceCWtRdWrite cove fn _
      => some (fn, some (wtOff cove fn 0x20), (decide (cove < 16) && wtWriter cove fn), true)
  | .registerWrite fn offset _ _ => some (fn, none, true, openAt offset)
  | .sringEnable fn _ => some (fn, some (ringOff fn fn 0x08), true, true)
  | .sringRdWrite fn _ => some (fn, some (ringOff fn fn 0x18), true, true)
  | .tideOverrideWrite which _ => some (0, some (if which = 0 then 0x10010 else 0x10028), true, false)
  | .fwWriteImage _ _ _ => some (0, some 0xD0028, true, true)
  | .fwWriteSettings _ _ => some (0, some 0xD0028, true, true)
  | .fwReadSettings => some (0, some 0xD0028, true, true)
  | .fwSelectSlot _ => some (0, some 0xD0028, true, true)
  | .fwLiveUpdate => some (0, some 0xD0028, true, true)
  | .fwSafeHarbourRequest => some (0, some 0xD0028, true, true)
  | _ => none

/-- A write row takes effect at once: its function answers, its block is open, the headland role stays where it is and
no half of another write is held. -/
def BarOpen (s : State) (i : Instr) : Prop :=
  ∃ fn off ok op, barRow i = some (fn, off, ok, op) ∧ ok = true ∧ answers s fn = true ∧ openIn s fn op = true
    ∧ s.recov.moving = none ∧ (fnAt s fn).writeHeld = none

/-- A host-access error (R569) is all that a refused access leaves: TIDE_HOSTERR's value, event 0xB010 and its records. -/
def HostErred (s t : State) (fn kind off : Nat) : Prop :=
  Recorded s t 0xB010 1296 ∧ t.host.hosterr = BitVec.ofNat 64 (kind + fn * 16 + off % 2 ^ 25 * 2 ^ 32)
    ∧ t = { s with
        trace := t.trace,
        host := { s.host with hosterr := t.host.hosterr, fns := t.host.fns, written := t.host.written } }

end Sys2Proof.Claim

/-- R22, R23, R514, R558, R560: a write row whose function does not answer, or whose register is not presented or lies
in a block that safe harbour closes, changes nothing. While the headland role moves, up to 256 writes wait in order and
a further one is a host-access error; otherwise a held half of another write is dropped first. -/
def Obligations.BarWritesAreAnswered : Prop :=
  ∀ (i : Instr) (s : State) (fn : Nat) (off : Option Nat) (ok op : Bool), barRow i = some (fn, off, ok, op) →
    ((ok && answers s fn && openIn s fn op) = false → exec i s = .next s)
    ∧ ((ok && answers s fn && openIn s fn op) = true →
      (s.recov.moving.isSome = true →
        (s.host.moveQueue.length < 256 →
          exec i s = .next { s with host := { s.host with moveQueue := s.host.moveQueue ++ [i] } })
        ∧ (256 ≤ s.host.moveQueue.length → ∃ t, exec i s = .next t ∧ Recorded s t 0xB010 1296
          ∧ t = { s with
              trace := t.trace,
              host := { s.host with hosterr := t.host.hosterr, fns := t.host.fns, written := t.host.written } }))
      ∧ (s.recov.moving = none → ∀ o, off = some o → exec i s = exec i (touch s fn o)
        ∧ (fnAt (touch s fn o) fn).writeHeld = none))

/-! ### Coves -/

/-- R343, R355, R357, R358: CV_CTRL's START takes a free or stopped cove, whose image, tags and quotas pass, to loading and
is refused with a reason otherwise; STOP and HOLD act at the next commit of a running cove, STOP at once on a loading or
held one. A CV_DIES write asks for a release with 0, withdraws a reshape with the current mask, and asks for one
otherwise (event 0x7003). LOADING_RESOURCE_FREE takes each wanted die as it becomes free, LOADING_END ends held with
hold cause 1, RELEASE_END clears all that the cove held and frees it (event 0x700C). -/
def Obligations.CoveControl : Prop :=
  ∀ (c fn : Nat) (s : State), c < 16 →
    let v := coveAt s c
    (∀ value : Word, value.getLsbD 0 = true → value.getLsbD 1 = false → value.getLsbD 2 = false →
      BarOpen s (.cvCtrlStart c fn value) →
      (startBarred s = true → ∃ t, exec (.cvCtrlStart c fn value) s = .next t ∧ HostErred s t fn 2 (barOff c fn 8))
      ∧ (startBarred s = false → v.mode ≠ .free → v.mode ≠ .stopped → exec (.cvCtrlStart c fn value) s = .next s)
      ∧ (startBarred s = false → (v.mode = .free ∨ v.mode = .stopped) →
        let used := match (List.range (variantCount v)).find? fun i => fitsShape s c i (targetDies s c) with
          | some i => variantCtxs v i | none => 0
        let wanted := ((List.range 1020).filter fun u => mapsI s c u && !demotedFor s c u).length + ((List.range 1024).filter (mapsS s c ·)).length
        (imageOk v = false → exec (.cvCtrlStart c fn value) s = .next (setReason s c 11))
        ∧ (imageOk v = true → tagsRefused s c used = true → ∃ t, exec (.cvCtrlStart c fn value) s = .next t
          ∧ (coveAt t c).reason = 9 ∧ (coveAt t c).mode = v.mode ∧ Recorded s t 0x700E 1296)
        ∧ (imageOk v = true → tagsRefused s c used = false → quotaHbm s c < wanted →
          exec (.cvCtrlStart c fn value) s = .next (setReason s c 3))
        ∧ (imageOk v = true → tagsRefused s c used = false → wanted ≤ quotaHbm s c →
          quotaBarn s c < (barnUnits s c false).length → exec (.cvCtrlStart c fn value) s = .next (setReason s c 4))
        ∧ (imageOk v = true → tagsRefused s c used = false → wanted ≤ quotaHbm s c →
          (barnUnits s c false).length ≤ quotaBarn s c → ∃ u, exec (.cvCtrlStart c fn value) s = .next (tryLoading u c)
            ∧ (coveAt u c).mode = .loading ∧ (coveAt u c).startTick = s.tide.now ∧ (coveAt u c).loaded = false
            ∧ (coveAt u c).step = (if v.mode = .stopped then v.step else 0#64)
            ∧ (coveAt u c).parity = (v.mode == .stopped && v.parity)
            ∧ (∀ j, j < 4 → Sparse.get 0#64 (coveAt u c).seeds j = regAt s (cvReg c (0x60 + 8 * j)))
            ∧ u = { s with coves := u.coves } ∧ ∀ d, d ≠ c → coveAt u d = coveAt s d)))
    ∧ (∀ value : Word, value.getLsbD 0 = false → value.getLsbD 1 = true → value.getLsbD 2 = false →
      BarOpen s (.cvCtrlStop c fn value) →
      (v.mode = .running → exec (.cvCtrlStop c fn value) s = .next (updCove s c fun v => { v with stopReq := true }))
      ∧ (v.mode = .loading → exec (.cvCtrlStop c fn value) s = .next (updCove s c fun v =>
          { v with mode := if v.fromStopped then .stopped else .free, changed := s.tide.now }))
      ∧ (v.mode = .held → ∃ t, exec (.cvCtrlStop c fn value) s = .next t ∧ Recorded s t 0x700B 1296
          ∧ coveAt t c = { v with mode := .stopped, changed := s.tide.now }
          ∧ coveTideAt t c = { coveTideAt s c with held := false, restart := 0#64 } ∧ t.cores = s.cores ∧ t.mem = s.mem)
      ∧ (v.mode ≠ .running → v.mode ≠ .loading → v.mode ≠ .held → exec (.cvCtrlStop c fn value) s = .next s))
    ∧ (∀ value : Word, value.getLsbD 0 = false → value.getLsbD 1 = false → value.getLsbD 2 = true →
      BarOpen s (.cvCtrlHold c fn value) → (v.mode = .running →
          exec (.cvCtrlHold c fn value) s = .next (updCove s c fun v => { v with holdReq := true }))
        ∧ (v.mode ≠ .running → exec (.cvCtrlHold c fn value) s = .next s))
    ∧ (∀ value : DWord, BarOpen s (.cvDiesWrite c fn value) →
      (fn ≠ 0 → ∃ t, exec (.cvDiesWrite c fn value) s = .next t ∧ HostErred s t fn 3 (barOff c fn 0x10))
      ∧ (fn = 0 → s.tray.service = 0 → ∃ t, exec (.cvDiesWrite c fn value) s = .next t
        ∧ regAt t (cvReg c 0x10) = value ∧ t.cores = s.cores ∧ t.mem = s.mem
        ∧ (value = 0#64 → v.mode = .running → (coveAt t c).releaseReq = true ∧ (coveAt t c).reshape = none
            ∧ (coveAt t c).mode = .running)
        ∧ (value = 0#64 → (v.mode = .held ∨ v.mode = .stopped ∨ v.mode = .fault) → (coveAt t c).mode = .releasing
            ∧ (coveAt t c).dies = v.dies ∧ (∀ e ∈ (coveAt t c).lq.inflight, e.status = 0x0A))
        ∧ (value ≠ 0#64 → value = v.dies → (v.mode = .running ∨ (v.mode = .held ∧ v.dies = v.atClock)) →
            (coveAt t c).reshape = none
            ∧ (coveAt t c).mode = v.mode)
        ∧ (value ≠ 0#64 → (value ≠ v.dies ∧ (v.mode = .running ∨ v.mode = .held)) ∨ (v.mode = .held ∧ v.dies ≠ v.atClock) →
            (coveAt t c).reshape = some (value, s.tide.now) ∧ (coveAt t c).mode = v.mode
            ∧ Recorded s t 0x7003 1296)))
    ∧ ((v.mode = .loading → v.loaded = false → ∃ t, exec (.loadingResourceFree c) s = .next t
        ∧ (∀ d, d < 64 → (targetDies s c).getLsbD d = true → v.dies.getLsbD d = true ∨ dieFreeFor s c d = true →
            (coveAt t c).dies.getLsbD d = true)
        ∧ ((∃ d, d < 64 ∧ (targetDies s c).getLsbD d = true ∧ v.dies.getLsbD d = false ∧ dieFreeFor s c d = false) →
            (coveAt t c).mode = .loading ∧ (coveAt t c).loaded = false ∧ (coveAt t c).reason = 2
            ∧ Recorded s t 0x7002 1296 ∧ t.cores = s.cores))
      ∧ (v.mode ≠ .loading ∨ v.loaded = true → exec (.loadingResourceFree c) s = .next s))
    ∧ ((v.mode = .loading → v.loaded = true → ∃ t, exec (.loadingEnd c) s = .next t ∧ Recorded s t 0x700A 1296
        ∧ coveAt t c = { v with
            mode := .held, hcause := 1, changed := s.tide.now, awaitReplay := none, holdReq := false, loaded := false,
            reason := 0 }
        ∧ coveTideAt t c = { coveTideAt s c with slack := true, held := true, cause := 0, restart := 0#64 }
        ∧ t.cores = s.cores ∧ t.mem = s.mem)
      ∧ (v.mode ≠ .loading ∨ v.loaded = false → exec (.loadingEnd c) s = .next s))
    ∧ (v.mode = .releasing →
      let busy := s.load.pq.inflight.any fun x => x.entry.cove == c
      (v.lq.inflight ≠ [] ∨ busy = true → exec (.releaseEnd c) s = .next s)
      ∧ (v.lq.inflight = [] → busy = false → ∃ t, exec (.releaseEnd c) s = .next t ∧ Recorded s t 0x700C 1296
        ∧ (coveAt t c).mode = .free ∧ (coveAt t c).dies = 0#64 ∧ (coveAt t c).unitsI = [] ∧ (coveAt t c).unitsS = []
        ∧ (coveAt t c).tags = [] ∧ coveTideAt t c = CoveTide.reset
        ∧ (∀ d ∈ diesOf v, nearAt t d = [] ∧ ∀ k, k < 16 → (coreAt t (16 * d + k)).scratch = [])
        ∧ (∀ f, f < 16384 → Sparse.get .free t.mem.frames f ≠ .cove c)
        ∧ ∀ j, j < 4 → regAt t (cvReg c (0x40 + 8 * j)) = 0#64))

/-- R336, R344 to R346, R395, R402, R491, R566, R572, R574, R575: the registers of a cove's window. A map write beyond the
quota, or while over it, and a barn entry that its quota, an overlap or its use stands against are host-access errors, as
is a read index outside the log; otherwise the register takes the value, and setting an EN bit clears its count. -/
def Obligations.CoveRegisters : Prop :=
  ∀ (c fn : Nat) (s : State), c < 16 →
    let v := coveAt s c
    (∀ (word : Nat) (value : DWord), BarOpen s (.cvUmapWrite c fn word value) →
      (fn ≠ 0 → ∃ t, exec (.cvUmapWrite c fn word value) s = .next t ∧ HostErred s t fn 3 (barOff c fn (0x100 + 8 * word)))
      ∧ (fn = 0 →
        let off := cvReg c (0x100 + 8 * word)
        let value' := if word = 15 then value &&& 0x0FFFFFFFFFFFFFFF#64
          else if 16 ≤ word then value &&& 0x7FFFFFFFFFFFFFFF#64 else value
        let adds := (List.range 64).filter fun i => value'.getLsbD i && !(regAt s off).getLsbD i
        (adds = [] → v.mode ≠ .stopped → v.mode ≠ .held →
          exec (.cvUmapWrite c fn word value) s = .next (setReg s off value'))
        ∧ (adds ≠ [] → v.overHbm = true → ∃ t, exec (.cvUmapWrite c fn word value) s = .next t
          ∧ Recorded s t 0x7009 1296 ∧ Recorded s t 0xB010 1296 ∧ regAt t off = regAt s off ∧ t.coves = s.coves)))
    ∧ (∀ value : DWord, BarOpen s (.cvQuotaWrite c 0 value) → v.mode ≠ .held → v.mode ≠ .stopped →
      ∃ t, exec (.cvQuotaWrite c 0 value) s = .next t
        ∧ regAt t (cvReg c 0x20) = BitVec.ofNat 64 (min 1020 (bitsOf value.toNat 10 0)
            + bitsOf value.toNat 31 16 * 65536 + min 128 (bitsOf value.toNat 39 32) * 2 ^ 32)
        ∧ (v.mode ≠ .free → (coveAt t c).overHbm =
            decide (min 1020 (bitsOf value.toNat 10 0) < v.unitsI.length + v.unitsS.length))
        ∧ t.cores = s.cores ∧ t.mem = s.mem)
    ∧ (∀ (j : Nat) (value : Word), BarOpen s (.cvJobtagWrite c 0 j value) → v.mode ≠ .held →
        exec (.cvJobtagWrite c 0 j value) s = .next (setReg s (cvReg c (0x40 + 8 * j)) (BitVec.ofNat 64 value.toNat)))
    ∧ (∀ value : Word, BarOpen s (.cvEvalCtrlArm c fn value) →
        exec (.cvEvalCtrlArm c fn value) s = .next (updCove s c fun v =>
          { v with evalArm := v.evalArm || value.getLsbD 0, evalDone := v.evalDone && !value.getLsbD 1 }))
    ∧ (∀ value : Word, BarOpen s (.cvSrCtrlEnable c fn value) → ∃ t, exec (.cvSrCtrlEnable c fn value) s = .next t
        ∧ regAt t (cvReg c 0x210) = BitVec.ofNat 64 (bitsOf value.toNat 5 0)
        ∧ let starts := value.getLsbD 5 && !bitOf (regAt s (cvReg c 0x210)).toNat 5
          coveAt t c = { v with srCount := if starts then 0 else v.srCount })
    ∧ (∀ value : Word, BarOpen s (.cvLdigCtrlEnable c fn value) → ∃ t, exec (.cvLdigCtrlEnable c fn value) s = .next t
        ∧ regAt t (cvReg c 0xA00) = BitVec.ofNat 64 (value &&& 0x01F3FF7F#32).toNat
        ∧ let starts := value.getLsbD 6 && !bitOf (regAt s (cvReg c 0xA00)).toNat 6
          coveAt t c = { v with ldigCount := if starts then 0 else v.ldigCount })
    ∧ (∀ value : Word, BarOpen s (.cvClogCtrlEnable c fn value) →
        exec (.cvClogCtrlEnable c fn value) s = .next (updCove s c fun v =>
          if value.getLsbD 0 = true ∧ v.clogEn = false then
            { v with clogEn := true, clogWr := 0, clogRd := 0, clogLost := 0 }
          else { v with clogEn := value.getLsbD 0 }))
    ∧ (∀ value : DWord, BarOpen s (.cvClogRdWrite c fn value) →
        (v.clogRd ≤ value.toNat → value.toNat ≤ v.clogWr →
          exec (.cvClogRdWrite c fn value) s = .next (updCove s c fun v => { v with clogRd := value.toNat }))
        ∧ (v.clogWr < value.toNat ∨ value.toNat < v.clogRd → ∃ t, exec (.cvClogRdWrite c fn value) s = .next t
          ∧ HostErred s t fn 2 (barOff c fn 0x98)))
    ∧ (∀ (e : Nat) (value : DWord), BarOpen s (.cvBarnWrite c 0 e value) →
        let off := cvReg c (0xC00 + 8 * e)
        let n := value.toNat % 2 ^ 39
        (bitOf n 37 = false → (bitOf (regAt s off).toNat 37 = false ∨ barnInUse s c (barnEntry s c e) = false) →
          exec (.cvBarnWrite c 0 e value) s = .next (setReg s off (BitVec.ofNat 64 n)))
        ∧ (bitOf n 37 = true → quotaBarn s c < bitsOf n 36 26 → v.overHbm = false →
          ∃ t, exec (.cvBarnWrite c 0 e value) s = .next t ∧ HostErred s t 0 2 (barOff c 0 (0xC00 + 8 * e))))
    ∧ (ownFn c fn = true → answers s fn = true → openIn s fn false = true → (fnAt s fn).writeHeld = none →
        let i := bitsOf (regAt s (cvReg c 0xD00)).toNat 9 0
        ∃ t, exec (.cvPlaceDataRead c fn) s = .next t ∧ t.host.readData = BitVec.ofNat 64 (placeData s c)
          ∧ regAt t (cvReg c 0xD00) = BitVec.ofNat 64 (if i = 1019 then 0 else (i + 1) % 1024)
          ∧ t = { s with host := { s.host with readData := t.host.readData, regs := t.host.regs } })

/-! ### Weight loading -/

namespace Sys2Proof.Claim

/-- The entry of index `x.index` in flight on a queue becomes `y`, and nothing else of the module changes. -/
def entryBecomes (s : State) (q : Nat) (x y : InFlight) : State :=
  updQueue s q fun l => { l with inflight := l.inflight.map fun z => if z.index = x.index then y else z }

/-- The entries in flight that use a connection and have not run end with source error (R407). -/
def connLost (k : Nat) (l : LoadQueue) : LoadQueue :=
  { l with inflight := l.inflight.map fun x =>
      if x.entry.conn = k ∧ 2 ≤ x.entry.opcode ∧ x.ran = false ∧ x.status = 0 then { x with status := 6 } else x }

/-- A storage connection takes a state, with the event that says so. -/
def ConnBecomes (s t : State) (k : Nat) (m : ConnMode) (code : Nat) : Prop :=
  (∀ j, Sparse.get .down t.load.conns j = if j = k then m else Sparse.get .down s.load.conns j)
    ∧ Recorded s t code 1296 ∧ t.cores = s.cores ∧ t.mem = s.mem

end Sys2Proof.Claim

/-- R408 to R414, R422, R423, R567: a LOAD_QUEUE_DOORBELL moves the tail unless it is further than the queue's length ahead of
the head; LOAD_QUEUE_ENABLE empties a queue that it enables. LOAD_ENTRY_START puts the next entry in flight, or refuses
it with event 0x8003; LOAD_ENTRY_NOP, LOAD_HOST_COPY, LOAD_STORAGE_READ and LOAD_IMAGE run it: an image's bytes land in its
slot, other bytes become the entry's output, with status 6 for a source that fails, 7 for bad compressed data and 5 for a
range that is not granted; a tick writes the next piece of the output as far as admission goes; LOAD_ENTRY_END takes an
entry that has written everything off the queue, with the event of its status. -/
def Sys2Proof.Claim.LoadQueueEntries : Prop :=
  ∀ (q : Nat) (s : State), q ≤ 16 →
    let x := queueAt s q
    (∀ (fn : Nat) (tail : Word), BarOpen s (.loadQueueDoorbell q fn tail) →
      let t := bitsOf tail.toNat 15 0
      ((t + 65536 - x.head % 65536) % 65536 ≤ 2 ^ x.size →
        exec (.loadQueueDoorbell q fn tail) s = .next (updQueue s q fun x => { x with tail := t }))
      ∧ (2 ^ x.size < (t + 65536 - x.head % 65536) % 65536 → ∃ u, exec (.loadQueueDoorbell q fn tail) s = .next u
        ∧ HostErred s u fn 2 (queueTailOff q fn)))
    ∧ (∀ (fn : Nat) (value : Word), BarOpen s (.loadQueueEnable q fn value) →
      (value.getLsbD 5 = true → x.en = false → exec (.loadQueueEnable q fn value) s = .next (updQueue s q fun x =>
        { x with en := true, size := bitsOf value.toNat 4 0, head := 0, tail := 0, next := 0, doneIdx := [] }))
      ∧ ((value.getLsbD 5 = false ∨ x.en = true) → exec (.loadQueueEnable q fn value) s = .next (updQueue s q fun x =>
        { x with en := value.getLsbD 5, size := bitsOf value.toNat 4 0 })))
    ∧ (∀ bytes : List Byte, bytes.length = 64 → queueOn x = true → s.host.linkUp = true →
      (fnAt s (queueFn q)).d3hot = false → x.next ≠ x.tail → x.inflight.length < 4 → storeFull s (queueFn q) = false →
      let e := parseEntry q bytes
      let r := entryRefusal s q e
      (r = 0 → (bitOf e.flags 1 = false ∨ x.inflight = []) → (e.opcode = 0 ∨ entryBlocked s e = false) →
        ∃ t, exec (.loadEntryStart q bytes) s = .next t
          ∧ queueAt t q = { x with
              next := (x.next + 1) % 65536, inflight := x.inflight ++ [⟨x.next, e, 0, 0, 0, 0, false, [], 0⟩] }
          ∧ t.cores = s.cores ∧ t.mem = s.mem)
      ∧ (r ≠ 0 → ∃ t, exec (.loadEntryStart q bytes) s = .next t ∧ Recorded s t 0x8003 1296
          ∧ (queueAt t q).next = (x.next + 1) % 65536 ∧ (queueAt t q).tail = x.tail
          ∧ (∀ f ∈ (queueAt t q).inflight, f ∈ x.inflight) ∧ t.cores = s.cores ∧ t.mem = s.mem))
    ∧ (∀ f, nextOf s q 0 = some f →
        exec (.loadEntryNop q) s = .next (entryBecomes s q f { f with ran := true }))
    ∧ (∀ op ok data f, (op = 1 ∨ op = 2) → nextOf s q op = some f →
      let i : Instr := if op = 1 then .loadHostCopy q ok data else .loadStorageRead q ok data
      let e := f.entry
      let l := chunks (data.length + 1) e.dst.toNat data
      (ok = false → op = 2 → exec i s = .next (entryBecomes s q f { f with ran := true, status := 6 }))
      ∧ (ok = false → op = 1 → ∃ t, exec i s = .next t ∧ Recorded s t 0xB030 1296
          ∧ queueAt t q = queueAt (entryBecomes s q f { f with ran := true, status := 6 }) q ∧ t.mem = s.mem)
      ∧ (ok = true → data.length = e.srcLen → decompress e data = none →
          exec i s = .next (entryBecomes s q f { f with ran := true, status := 7 }))
      ∧ (ok = true → data.length = e.srcLen → bitsOf e.xform 1 0 = 0 → entryTransforms e = false →
          bitOf e.flags 2 = false →
        let fits := (l.map fun p => (p.1, p.2.length)).all (rangeAllowed s e.cove) && loadGranted s e l
        (fits = false → exec i s = .next (entryBecomes s q f { f with ran := true, status := 5 }))
        ∧ (fits = true → exec i s = .next (entryBecomes s q f
            { f with ran := true, out := l, status := 0, peerBits := 0, sats := 0, nonfinites := 0 }))))
    ∧ (∀ f p rest, (x.inflight.find? fun y => !entryStopped y && !y.out.isEmpty) = some f → f.out = p :: rest →
      (rangeAllowed s f.entry.cove (p.1, p.2.length) = false →
        loadNext s q = entryBecomes s q f { f with out := [], status := 5, peerBits := 0 })
      ∧ (rangeAllowed s f.entry.cove (p.1, p.2.length) = true →
        (∀ u, loadPiece s f.entry p = .moved u →
          loadNext s q = entryBecomes u q f { f with out := rest, written := f.written + p.2.length })
        ∧ (∀ u, loadPiece s f.entry p = .waits u → loadNext s q = u)))
    ∧ (∀ ok data f, nextOf s q 3 = some f →
      let e := f.entry
      ((ok = false ∨ data.length ≠ e.srcLen) →
        exec (.loadImage q ok data) s = .next (entryBecomes s q f { f with ran := true, status := 6 }))
      ∧ (∀ n, ok = true → data.length = e.srcLen → stages s e data = .error n →
        exec (.loadImage q ok data) s = .next (entryBecomes s q f { f with ran := true, status := n }))
      ∧ (∀ o, ok = true → data.length = e.srcLen → stages s e data = .ok o →
        let l := scalePieces e o
        let fits := decide (e.dst.toNat + o.elems.length ≤ 2 ^ 27)
          && (l.map fun p => (p.1, p.2.length)).all (rangeAllowed s e.cove) && loadGranted s { e with flags := 0 } l
        (fits = false → exec (.loadImage q ok data) s = .next (entryBecomes s q f { f with ran := true, status := 5 }))
        ∧ (fits = true → ∃ t, exec (.loadImage q ok data) s = .next t
          ∧ (∀ a, memByte (coveAt t e.cove).image a =
              if e.dst.toNat ≤ a ∧ a < e.dst.toNat + o.elems.length then o.elems.getD (a - e.dst.toNat) 0#8
              else memByte (coveAt s e.cove).image a)
          ∧ queueAt t q = queueAt (entryBecomes s q f { f with
              ran := true, out := l, written := o.elems.length, sats := o.sats, nonfinites := o.nonfinites }) q
          ∧ t.cores = s.cores ∧ t.mem = s.mem)))
    ∧ (∀ f, (x.inflight.find? fun y => entryStopped y
          || (y.ran && y.out.isEmpty && (!bitOf y.entry.flags 2 || peersSettled s q))) = some f →
        ∃ t, exec (.loadEntryEnd q) s = .next t
        ∧ (queueAt t q).inflight = x.inflight.filter (fun y => y.index != f.index)
        ∧ (queueAt t q).next = x.next ∧ (queueAt t q).tail = x.tail
        ∧ (f.status ≠ 0 → Recorded s t (if f.status = 7 then 0x8005 else if f.status = 9 ∨ f.status = 0xC then 0x8006
            else if f.status = 0xA then 0x8007 else 0x8004) 1296)
        ∧ (x.doneIdx = [] → f.index = x.head → x.head < 65535 → (queueAt t q).head = x.head + 1)
        ∧ t.cores = s.cores ∧ t.mem = s.mem)
    ∧ ((∀ y ∈ x.inflight, y.ran = false ∧ y.status = 0) → exec (.loadEntryEnd q) s = .next s)

/-- R407: LOAD_CONN_CONNECT starts an attempt for the coves of its descriptor, or fails it when the descriptor is bad (event
0x8002); CONNECTION_UP ends an attempt (event 0x8001 or 0x8002); LOAD_CONN_DISCONNECT closes a connection and
CONNECTION_DROP fails an up one (event 0x8002), and the entries that use it end with source error. -/
def Sys2Proof.Claim.StorageConnections : Prop :=
  ∀ (k : Nat) (s : State),
    let m := Sparse.get .down s.load.conns k
    (∀ d ok, BarOpen s (.loadConnConnect k d ok) →
      ((ok = false ∨ descriptorOk d = false) → ∃ t, exec (.loadConnConnect k d ok) s = .next t
        ∧ ConnBecomes s t k .failed 0x8002 ∧ t.coves = s.coves)
      ∧ (ok = true → descriptorOk d = true → exec (.loadConnConnect k d ok) s = .next { s with load := { s.load with
          conns := Sparse.set .down s.load.conns k .connecting,
          connCoves := Sparse.set 0 s.load.connCoves k (leVal ((d.drop 2).take 2)) } }))
    ∧ (BarOpen s (.loadConnDisconnect k) →
      (m = .down → exec (.loadConnDisconnect k) s = .next s)
      ∧ (m ≠ .down → ∃ t, exec (.loadConnDisconnect k) s = .next t ∧ ConnBecomes s t k .down 0x8002
        ∧ ∀ q, q ≤ 16 → queueAt t q = connLost k (queueAt s q)))
    ∧ (∀ up, (m ≠ .connecting → exec (.connectionUp k up) s = .next s)
      ∧ (m = .connecting → ∃ t, exec (.connectionUp k up) s = .next t ∧ t.coves = s.coves
        ∧ (if up then ConnBecomes s t k .up 0x8001 else ConnBecomes s t k .failed 0x8002)))
    ∧ (m ≠ .up → exec (.connectionDrop k) s = .next s)
    ∧ (m = .up → ∃ t, exec (.connectionDrop k) s = .next t ∧ ConnBecomes s t k .failed 0x8002
        ∧ ∀ q, q ≤ 16 → queueAt t q = connLost k (queueAt s q))

/-- The load queues and the storage connections. -/
def Obligations.WeightLoading : Prop :=
  Claim.LoadQueueEntries ∧ Claim.StorageConnections

/-! ### Checkpoints -/

namespace Sys2Proof.Claim

/-- A checkpoint action has ended with a code (R455): CODE, DONE or FAILED, and event 0x8012 on a failure. -/
def ActionEnded (s t : State) (c code : Nat) : Prop :=
  (coveAt t c).ckpt.code = code
    ∧ (code = 0 → (coveAt t c).ckpt.done = true ∧ (coveAt t c).ckpt.failed = (coveAt s c).ckpt.failed)
    ∧ (code ≠ 0 → (coveAt t c).ckpt.failed = true ∧ (coveAt t c).ckpt.done = (coveAt s c).ckpt.done
        ∧ Recorded s t 0x8012 1296)

/-- A byte of a die's near memory lies in the carries of a cove's core on that die. -/
def inCarries (s : State) (c d a : Nat) : Bool :=
  (coresOf (coveAt s c)).any fun i =>
    dieOf i == d && (carryRanges s i).any fun r => decide (r.1 ≤ a) && decide (a < r.1 + r.2)

/-- A value of CKPT_C_CTRL with bit `n` as the only one set of bits 0 to 5, the actions. -/
def OneAction (value : Word) (n : Nat) : Prop := ∀ j, j < 6 → value.getLsbD j = decide (j = n)

/-- The RW bits of CKPT_C_CTRL as a write leaves them. -/
def Modes (t : State) (c : Nat) (value : Word) : Prop :=
  (coveAt t c).ckpt.adoptP = value.getLsbD 6 ∧ (coveAt t c).ckpt.undoEn = value.getLsbD 7
    ∧ (coveAt t c).ckpt.writer = value.getLsbD 8

end Sys2Proof.Claim

/-- R433 to R436, R440, R446, R448, R449, R452, for the writes that set one of the actions (R19): CKPT_TAKE arms a step checkpoint and CKPT_FREEZE a freeze whose tick lies at
least 250,000 ticks ahead (code 1 otherwise); CKPT_THAW arms a thaw of a frozen cove; CKPT_ROLLBACK discards the step
(event 0x8014) and holds the cove with hold cause 2; CKPT_RESTORE starts a restore that no check refuses; CKPT_ADOPT sets the step and
the parity and zeroes the carries with their counts (event 0x801A); CKPT_STANDIN_WRITE and CKPT_REMAP_WRITE change the identity and a remap entry (event
0x801B). One refused is a host-access error and changes none of this. -/
def Sys2Proof.Claim.CheckpointCommands : Prop :=
  ∀ (c : Nat) (s : State) (value : Word), c < 16 →
    let v := coveAt s c
    let k := v.ckpt
    let busy := k.take || k.freeze || k.phase == .restoring
    (∀ regions, BarOpen s (.ckptTake c value regions) → (∀ n, n < 6 → value.getLsbD n = true → n = 0) →
      ∃ t, exec (.ckptTake c value regions) s = .next t ∧ Modes t c value ∧ t.cores = s.cores ∧ t.mem = s.mem
      ∧ (value.getLsbD 0 = false → (coveAt t c).ckpt.take = k.take ∧ (coveAt t c).ckpt.phase = k.phase
          ∧ t = { s with coves := t.coves, free := t.free })
      ∧ (value.getLsbD 0 = true → busy = false → storeFull s 0 = false → (coveAt t c).ckpt.take = true
          ∧ (coveAt t c).ckpt.nextRegions = parseRegions 64 regions
          ∧ (coveAt t c).ckpt.phase = (if k.phase = .idle then .armed else k.phase))
      ∧ (value.getLsbD 0 = true → busy = true ∨ storeFull s 0 = true → (coveAt t c).ckpt.take = k.take
          ∧ Recorded s t 0xB010 1296))
    ∧ (∀ regions, BarOpen s (.ckptFreeze c value regions) → OneAction value 1 →
      ∃ t, exec (.ckptFreeze c value regions) s = .next t ∧ Modes t c value ∧ t.cores = s.cores ∧ t.mem = s.mem
        ∧ (busy = true ∨ storeFull s 0 = true → (coveAt t c).ckpt.freeze = k.freeze ∧ Recorded s t 0xB010 1296)
        ∧ (busy = false → storeFull s 0 = false → ckVal s c 0x58 < s.tide.now + 250000 →
            ActionEnded s t c 1 ∧ (coveAt t c).ckpt.freeze = false)
        ∧ (busy = false → storeFull s 0 = false → s.tide.now + 250000 ≤ ckVal s c 0x58 →
            (coveAt t c).ckpt.freeze = true
            ∧ (coveAt t c).ckpt.phase = (if k.phase = .idle then .armed else k.phase)))
    ∧ (BarOpen s (.ckptThaw c value) → OneAction value 2 → storeFull s 0 = false →
      let tick := ckVal s c 0x60
      ∃ t, exec (.ckptThaw c value) s = .next t ∧ Modes t c value ∧ t.cores = s.cores ∧ t.mem = s.mem
        ∧ (k.phase ≠ .frozen ∨ k.whole = true → ActionEnded s t c 2 ∧ (coveAt t c).ckpt.thaw = k.thaw)
        ∧ (k.phase = .frozen → k.whole = false →
            (tick ≤ k.frozenAt ∨ (tick - k.frozenAt) % 2 ^ 22 ≠ 0 ∨ tick < s.tide.now + 250000 →
              ActionEnded s t c 1 ∧ (coveAt t c).ckpt.thaw = k.thaw)
            ∧ (k.frozenAt < tick → (tick - k.frozenAt) % 2 ^ 22 = 0 → s.tide.now + 250000 ≤ tick →
              (coveAt t c).ckpt.thaw = true)))
    ∧ (BarOpen s (.ckptRollback c value) → OneAction value 3 →
      ∃ t, exec (.ckptRollback c value) s = .next t ∧ Modes t c value
        ∧ (v.mode ≠ .running → t = { s with coves := t.coves, free := t.free } ∧ (coveAt t c).mode = v.mode)
        ∧ (v.mode = .running → (coveTideAt s c).slack = true → (coveAt t c).mode = .held ∧ (coveAt t c).hcause = 2
            ∧ (coveAt t c).replays = v.replays ∧ (coveAt t c).step = v.step ∧ Recorded s t 0x700A 1296)
        ∧ (v.mode = .running → v.awaitReplay = none → (coveTideAt s c).slack = false → v.replays < 2 →
            k.returnTick = 0 → (coveAt t c).mode = .held ∧ (coveAt t c).hcause = 2 ∧ (coveAt t c).lastCause = 9
            ∧ (coveAt t c).replays = v.replays + 1 ∧ (coveAt t c).step = v.step ∧ Recorded s t 0x6002 1296
            ∧ Recorded s t 0x8014 1296 ∧ Recorded s t 0x700A 1296))
    ∧ (∀ m alt, BarOpen s (.ckptRestore c value m alt) → OneAction value 4 → k.phase ≠ .restoring →
      storeFull s 0 = false → ∃ t, exec (.ckptRestore c value m alt) s = .next t ∧ Modes t c value
        ∧ t.cores = s.cores ∧ t.mem = s.mem
        ∧ (restoreRefusal s c m alt ≠ 0 → ActionEnded s t c (restoreRefusal s c m alt)
            ∧ (coveAt t c).ckpt.phase = k.phase)
        ∧ (restoreRefusal s c m alt = 0 → (coveAt t c).ckpt.phase = .restoring ∧ (coveAt t c).ckpt.manifest = restoreManifest m alt))
    ∧ (BarOpen s (.ckptAdopt c value) → OneAction value 5 → ∃ t, exec (.ckptAdopt c value) s = .next t
      ∧ Modes t c value ∧ t.mem.hbm = s.mem.hbm
      ∧ (v.mode = .held ∨ v.mode = .stopped → (coveAt t c).step = regAt s (ckReg c 0x70)
          ∧ (coveAt t c).parity = value.getLsbD 6 ∧ Recorded s t 0x801A 1296
          ∧ (∀ i, coreAt t i = if i ∈ coresOf v then { coreAt s i with gleanCounts := [], gleanOpen := none }
              else coreAt s i)
          ∧ ∀ d a, memByte (nearAt t d) a = if inCarries s c d a then 0#8 else memByte (nearAt s d) a)
      ∧ (v.mode ≠ .held → v.mode ≠ .stopped → (coveAt t c).step = v.step ∧ (coveAt t c).parity = v.parity
          ∧ t.cores = s.cores ∧ t.mem = s.mem ∧ Recorded s t 0xB010 1296))
    ∧ (BarOpen s (.ckptStandinWrite c value) →
      (v.mode = .free → ∃ t, exec (.ckptStandinWrite c value) s = .next t ∧ Recorded s t 0x801B 1296
        ∧ regAt t (ckReg c 0xC0) = BitVec.ofNat 64 (bitsOf value.toNat 16 0)
        ∧ (∀ d, Sparse.get 0 t.standin d = if d = c then (if value.getLsbD 16 then bitsOf value.toNat 15 0 + 1 else 0)
            else Sparse.get 0 s.standin d) ∧ t.coves = s.coves)
      ∧ (v.mode ≠ .free → v.mode ≠ .held → v.mode ≠ .stopped → ∃ t, exec (.ckptStandinWrite c value) s = .next t
        ∧ HostErred s t 0 2 (ckReg c 0xC0)))
    ∧ ∀ (index : Nat) (w : DWord), BarOpen s (.ckptRemapWrite index w) → index / 8 = c →
      let from_ := bitsOf w.toNat 15 0
      let taken := ∃ j r, j < 8 ∧ 8 * c + j ≠ index ∧ Sparse.get none s.remap (8 * c + j) = some r ∧ r.1 = from_
      (bitOf w.toNat 32 = true → taken → ∃ t, exec (.ckptRemapWrite index w) s = .next t
        ∧ HostErred s t 0 2 (ckReg c (0x80 + 8 * (index % 8))))
      ∧ (bitOf w.toNat 32 = false ∨ ¬ taken → ∃ t, exec (.ckptRemapWrite index w) s = .next t
        ∧ Recorded s t 0x801B 1296 ∧ t.coves = s.coves
        ∧ Sparse.get none t.remap index = (if bitOf w.toNat 32 then
            some (from_, if bitOf w.toNat 33 then 65536 else bitsOf w.toNat 31 16) else none)
        ∧ ∀ j, j ≠ index → Sparse.get none t.remap j = Sparse.get none s.remap j)

/-- R440, R442, R446, R448, R450, R455: CHECKPOINT_DRAIN_END writes the regions and the manifest, releases the held commit
and reports done (event 0x8011), or the code of what failed. FREEZE_TICK switches every cluster of the cove out,
FREEZE_LANDED freezes it and starts its whole-device capture (events 0x8017 and 0x8010), THAW_TICK moves its time on by
the ticks it was frozen (event 0x8018). RESTORE_END takes the manifest's step and parity and leaves the cove held, or frozen
after a whole-device checkpoint (event 0x8019), or fails with code 7 for a digest that differs. -/
def Sys2Proof.Claim.CheckpointEvents : Prop :=
  ∀ (c : Nat) (s : State), c < 16 →
    let v := coveAt s c
    let k := v.ckpt
    (∀ code lba, k.holdsCommit = true → ∃ t, exec (.checkpointDrainEnd c code lba) s = .next t
      ∧ (coveAt t c).ckpt.holdsCommit = false
      ∧ let r := captureCode s c code false k.regions
        ActionEnded s t c r ∧ t.cores = s.cores ∧ t.mem = s.mem
        ∧ (r = 0 → (coveAt t c).ckpt.step = v.step ∧ Recorded s t 0x8011 1296
          ∧ ∃ m rest, t.load.stored = (bitsOf (ckVal s c 0x18) 51 48, ckVal s c 0x20, bitsOf (ckVal s c 0x18) 47 0, m)
              :: rest ∧ rest.length = s.load.stored.length + (k.regions.filter (regionWritten k false)).length)
        ∧ (r ≠ 0 → t.load = s.load))
    ∧ (∀ code lba, k.holdsCommit = false → (k.whole = false ∨ k.phase ≠ .frozen) →
        exec (.checkpointDrainEnd c code lba) s = .next s)
    ∧ (k.freeze = true → ckVal s c 0x58 ≤ s.tide.now → ∃ t, exec (.freezeTick c) s = .next t
        ∧ (coveAt t c).ckpt = { k with
            freeze := false, phase := .freezing, frozenAt := ckVal s c 0x58,
            wholeHead := captureHead s c true (ckVal s c 0x58) }
        ∧ ∀ cl ∈ clustersOf v, (clusterAt t cl).owner = none ∧ (clusterAt t cl).switchTick = s.tide.now)
    ∧ (k.freeze = false → exec (.freezeTick c) s = .next s)
    ∧ (k.phase = .freezing → k.frozenAt + s.tide.boundHall ≤ s.tide.now → ∃ t, exec (.freezeLanded c) s = .next t
        ∧ (coveAt t c).ckpt.phase = .frozen ∧ (coveAt t c).ckpt.whole = true ∧ ActionEnded s t c 0
        ∧ Recorded s t 0x8017 1296 ∧ Recorded s t 0x8010 1296 ∧ t.cores = s.cores ∧ t.mem = s.mem)
    ∧ (k.phase ≠ .freezing → exec (.freezeLanded c) s = .next s)
    ∧ (k.thaw = true → ckVal s c 0x60 ≤ s.tide.now → ∃ t, exec (.thawTick c) s = .next t
        ∧ let d := ckVal s c 0x60 - k.frozenAt
          (coveAt t c).ckpt.offset = k.offset + d ∧ (coveAt t c).ckpt.phase = restPhase k ∧ (coveAt t c).ckpt.thaw = false
          ∧ (coveTideAt t c).stepStart = (coveTideAt s c).stepStart + d
          ∧ (coveTideAt t c).slackStart = (coveTideAt s c).slackStart + d
          ∧ (∀ cl ∈ clustersOf v, (clusterAt t cl).switchTick = s.tide.now)
          ∧ ActionEnded s t c 0 ∧ Recorded s t 0x8018 1296 ∧ t.mem = s.mem
          ∧ ∀ i, (coreAt t i).scratch = (coreAt s i).scratch)
    ∧ (k.thaw = false → exec (.thawTick c) s = .next s)
    ∧ (∀ code data, k.phase ≠ .restoring → exec (.restoreEnd c code data) s = .next s)
    ∧ (∀ code data, k.phase = .restoring → code ≠ 0 → ∃ t, exec (.restoreEnd c code data) s = .next t
        ∧ ActionEnded s t c code ∧ (coveAt t c).ckpt.phase = restPhase k ∧ (coveAt t c).step = v.step
        ∧ t.cores = s.cores ∧ t.mem = s.mem)
    ∧ (∀ data, k.phase = .restoring →
        let m := k.manifest
        let rs := (List.range (manVal m 0x178 4)).map fun i =>
          (manRegion m i, data.getD i [], manVal m (0x200 + 64 * i + 0x20) 8)
        let bad := rs.any fun r => bitOf r.1.flags 1 && regionDigest r.2.1 != r.2.2
        (bad = true → ∃ t, exec (.restoreEnd c 0 data) s = .next t ∧ ActionEnded s t c 7
          ∧ (coveAt t c).ckpt.phase = restPhase k ∧ (coveAt t c).step = v.step)
        ∧ (bad = false → manVal m 6 1 ≠ 2 → (v.mode = .held ∨ v.mode = .stopped) →
          ∃ t, exec (.restoreEnd c 0 data) s = .next t ∧ ActionEnded s t c 0 ∧ Recorded s t 0x8019 1296
            ∧ (coveAt t c).step = BitVec.ofNat 64 (manVal m 8 8)
            ∧ (coveAt t c).parity = (bitOf (manVal m 7 1) 1 && bitOf (manVal m 0x13 1) 5)
            ∧ (coveAt t c).ckpt.phase = restPhase k ∧ (coveAt t c).mode = .held
            ∧ (manVal m 0x178 4 = 1 → (manRegion m 0).kind = 2 → bitOf (manVal m 7 1) 1 = true →
                let die := (diesOf v).getD (manRegion m 0).die 0
                nearAt t die = memWrite (nearAt s die) (manRegion m 0).addr (data.getD 0 [])))
        ∧ (bad = false → manVal m 6 1 = 2 → ∃ t, exec (.restoreEnd c 0 data) s = .next t ∧ ActionEnded s t c 0
            ∧ Recorded s t 0x8019 1296 ∧ (coveAt t c).step = BitVec.ofNat 64 (manVal m 8 8)
            ∧ (coveAt t c).ckpt.phase = .frozen ∧ (coveAt t c).ckpt.frozenAt = manVal m 0x18 8
            ∧ (coveAt t c).ckpt.offset = manVal m 0x160 8 ∧ (coveAt t c).mode = .running
            ∧ (coveTideAt t c).stepStart = manVal m 0x168 8 + manVal m 0x160 8))

/-- The commands of the checkpoint engine, and what it then does. -/
def Obligations.Checkpoints : Prop :=
  Claim.CheckpointCommands ∧ Claim.CheckpointEvents

/-! ### The tide -/

/-- R286 to R288, R533, R603, R626: the first mark after lock sets the counter, a later one more than 64 ticks off is counted
(event 0x1003). A lost reference (event 0x1001) leaves the counter alone, a restored one relocks (event 0x1002); an
absent one that appears locks. At a tide-mark tick the interval's power, voltage, current and peak are noted, the energy
grows by the power, the effective cap is formed, the withholding level moves by at most one and the counters are
snapped; at another tick nothing changes. -/
def Obligations.TideMarks : Prop :=
  ∀ s : State,
    (s.tide.marked = false → s.tide.lock = false → exec .markPulse s = .next s)
    ∧ (s.tide.marked = false → s.tide.lock = true → ∃ t, exec .markPulse s = .next t
        ∧ t.tide = { s.tide with
            now := (if s.tide.role = 1 then s.tide.now / 2 ^ 20 else s.tide.epochStart.toNat / 2 ^ 20) * 2 ^ 20,
            marked := true }
        ∧ (s.fw.ready = true ∧ s.fw.mode = 2 → t.fw.mode = 0 ∧ Recorded s t 0x0011 1296)
        ∧ (¬ (s.fw.ready = true ∧ s.fw.mode = 2) → t.fw = s.fw) ∧ t.mem = s.mem ∧ t.cores = s.cores)
    ∧ (s.tide.marked = true →
        (64 < s.tide.now % 2 ^ 20 → s.tide.now % 2 ^ 20 < 2 ^ 20 - 64 → ∃ t, exec .markPulse s = .next t
          ∧ Recorded s t 0x1003 1296 ∧ t.tide = { s.tide with cntSlip := satTo 32 (s.tide.cntSlip + 1) })
        ∧ (s.tide.now % 2 ^ 20 ≤ 64 ∨ 2 ^ 20 - 64 ≤ s.tide.now % 2 ^ 20 → exec .markPulse s = .next s))
    ∧ (s.tide.ref = false → exec .referenceLost s = .next s)
    ∧ (s.tide.ref = true → ∃ t, exec .referenceLost s = .next t ∧ Recorded s t 0x1001 1296
        ∧ t.tide = { s.tide with ref := false, lock := false, refTick := s.tide.now })
    ∧ (s.tide.ref = true ∨ s.tide.marked = false → exec .referenceRestored s = .next s)
    ∧ (s.tide.ref = false → s.tide.marked = true → ∃ t, exec .referenceRestored s = .next t ∧ Recorded s t 0x1002 1296
        ∧ t.tide = { s.tide with ref := true, lock := true, refTick := s.tide.now })
    ∧ (s.tide.marked = true → exec .referenceFound s = .next s)
    ∧ (s.tide.marked = false → exec .referenceFound s = .next { s with tide := { s.tide with
        ref := true, lock := true, refTick := s.tide.now } })
    ∧ (s.tide.marked = false ∨ s.tide.now % 2 ^ 20 ≠ 0 ∨ s.trace.snap.tick = s.tide.now →
        exec .tideMarkInterval s = .next s)
    ∧ (s.tide.marked = true → s.tide.now % 2 ^ 20 = 0 → s.trace.snap.tick ≠ s.tide.now →
        ∃ t, exec .tideMarkInterval s = .next t
          ∧ (t.pwr.watts, t.pwr.vin, t.pwr.iin, t.pwr.peak) = inputFigures s
          ∧ t.pwr.energy = s.pwr.energy + (inputFigures s).1
          ∧ t.pwr.conservative = (segLost s 0 || segLost s 1)
          ∧ t.pwr.effCap ≤ s.pwr.cap ∧ (t.pwr.conservative = true → t.pwr.effCap ≤ 3600)
          ∧ (s.recov.moving = none → (t.pwr.effCap < t.pwr.watts ∨ thermalCap s = true) →
              t.tide.withhold = min 15 (s.tide.withhold + 1))
          ∧ (s.recov.moving.isSome = true → t.tide.withhold = s.tide.withhold)
          ∧ (s.tide.withhold ≤ 15 → s.tide.withhold ≤ t.tide.withhold + 1 ∧ t.tide.withhold ≤ s.tide.withhold + 1)
          ∧ t.trace.snap.tick = s.tide.now ∧ t.trace.prevSnap = s.trace.snap ∧ t.tide.now = s.tide.now
          ∧ t.cores = s.cores ∧ t.mem = s.mem ∧ t.coves = s.coves)

/-- R289 to R294: a member queues for each parent's port a time-transfer request that carries its send stamp, as control
traffic of class 0x0 (R305); a request is answered with that stamp echoed, its receive stamp and its send stamp. A response to the request that waits is taken once: what it
announces is noted (event 0x1007 for another root or depth 4), and one of the parent in use adds its offset to the
last 8, whose median is TIDE_THETA. Past the holdover limit ALIGNED is cleared (event 0x1005). -/
def Obligations.TimeTransfer : Prop :=
  ∀ (port : Nat) (s : State),
    (∀ stamp, (s.tide.role ≠ 1 ∨ port ∉ parentPorts s ∨ (portAt s port).mode ≠ .active) →
      exec (.timeTransferSend port stamp) s = .next s)
    ∧ (∀ stamp, s.tide.role = 1 → port ∈ parentPorts s → (portAt s port).mode = .active →
      ∃ t p, exec (.timeTransferSend port stamp) s = .next t
        ∧ t.fab.waiting = s.fab.waiting ++ [⟨64 + portShore port, none, 0, some port, false, p⟩]
        ∧ p.ptype = 8 ∧ p.op = 1 ∧ stampAt p.data 0 = stamp % 2 ^ 72
        ∧ (∀ q, Sparse.get 0 t.tide.requests q = if q = port then stamp + 1 else Sparse.get 0 s.tide.requests q)
        ∧ t.cores = s.cores ∧ t.mem = s.mem ∧ t.coves = s.coves)
    ∧ (∀ packet received sent, (portAt s port).mode ≠ .active →
      exec (.timeTransferRequest port packet received sent) s = .next s)
    ∧ (∀ packet received sent, (portAt s port).mode = .active → packet.data.length = 64 →
      ∃ t p, exec (.timeTransferRequest port packet received sent) s = .next t
        ∧ t.fab.waiting = s.fab.waiting ++ [⟨64 + portShore port, none, 0, some port, false, p⟩]
        ∧ p.ptype = 8 ∧ p.op = 2 ∧ stampAt p.data 0 = stampAt packet.data 0
        ∧ stampAt p.data 16 = received % 2 ^ 72 ∧ stampAt p.data 32 = sent % 2 ^ 72
        ∧ t.tide = s.tide ∧ t.cores = s.cores ∧ t.mem = s.mem)
    ∧ (∀ packet stamp, (s.tide.role ≠ 1 ∨ port ∉ parentPorts s ∨ (portAt s port).mode ≠ .active
        ∨ Sparse.get 0 s.tide.requests port ≠ stampAt packet.data 0 + 1) →
      exec (.timeTransferResponse port packet stamp) s = .next s)
    ∧ (∀ packet stamp, s.tide.role = 1 → port ∈ parentPorts s → (portAt s port).mode = .active →
      Sparse.get 0 s.tide.requests port = stampAt packet.data 0 + 1 →
      let b := leVal ((packet.data.drop 41).take 1)
      let root := leVal ((packet.data.drop 42).take 2)
      let depth := bitsOf b 3 1
      ∃ t, exec (.timeTransferResponse port packet stamp) s = .next t
        ∧ Sparse.get none t.tide.heard port = some (bitOf b 0, depth, root)
        ∧ Sparse.get 0 t.tide.requests port = 0
        ∧ (root ≠ s.tide.root ∨ 4 ≤ depth → Recorded s t 0x1007 1296)
        ∧ (bitOf b 0 = true → depth ≤ 3 → root = s.tide.root → (parentPorts s).head? = some port →
            t.tide.pvalid = true ∧ t.tide.parent = port ∧ t.tide.depth = depth + 1 ∧ t.tide.holdover = false
            ∧ (s.tide.started = true → s.tide.parent = port → s.tide.pvalid = true →
                t.tide.thetas = (offsetOf s port (stampAt packet.data 0) (stampAt packet.data 16)
                  (stampAt packet.data 32) stamp :: s.tide.thetas).take 8
                ∧ t.tide.theta = medianInt t.tide.thetas ∧ t.tide.now = s.tide.now))
        ∧ t.cores = s.cores ∧ t.mem = s.mem)
    ∧ (s.tide.role ≠ 1 → exec .holdoverLimit s = .next s)
    ∧ (s.tide.role = 1 → (∀ p ∈ parentPorts s, parentUsable s p = false) → ∃ t, exec .holdoverLimit s = .next t
        ∧ t.tide.holdover = true ∧ t.tide.pvalid = false
        ∧ (s.tide.aligned = true →
            let drift := bitsOf s.tide.ctrl.toNat 47 32 * (s.tide.now - s.tide.lastExchange) * 256
            (640 * 10 ^ 9 < residual s * 10 ^ 9 + drift → t.tide.aligned = false ∧ Recorded s t 0x1005 1296)
            ∧ (residual s * 10 ^ 9 + drift ≤ 640 * 10 ^ 9 → t.tide.aligned = true)))

namespace Sys2Proof.Claim

/-- A switch control after ARM or REAPPLY was written and its checks gave a failure (R309, R332). -/
def ctrlAfter (c : SwitchCtrl) (f : Option (Nat × Nat)) (reapply : Bool) : SwitchCtrl :=
  match f with
  | some (r, e) =>
    { c with arm := false, refused := true, reason := r, entry := e, reapply := if reapply then false else c.reapply }
  | none => if reapply then { c with reapply := true } else { c with arm := true, reason := 0, entry := 0 }

end Sys2Proof.Claim

/-- R308, R309, R315, R331, R332: TIDE_DATA_WRITE stores an entry of an inactive bank and moves the index on, and is refused
for an active one. MODULE_SWITCH_ARM and COVE_SWITCH_ARM arm when the tick and every checked table pass, or are refused
with the reason and entry of the first failure (event 0x1010); the REAPPLY writes check the tick alone.
TIDE_C_RESTART_WRITE takes a coming tick for a held cove that is not torn. -/
def Sys2Proof.Claim.SwitchWrites : Prop :=
  ∀ s : State,
    (∀ value : DWord, BarOpen s (.tideDataWrite value) →
      let i := s.tide.index.toNat
      let kind := bitsOf i 1 0
      let bank := bitOf i 2
      let inst := bitsOf i 9 4
      let e := bitsOf i 23 12
      let active := if kind = 0 then (coveTideAt s inst).bank else s.tide.mbank
      ∃ t, exec (.tideDataWrite value) s = .next t
        ∧ t.tide.index = BitVec.ofNat 32 (i - e * 4096 + (e + 1) % 4096 * 4096)
        ∧ t.cores = s.cores ∧ t.mem = s.mem ∧ t.coves = s.coves
        ∧ (bank = active ∨ 64 ≤ inst ∨ (kind ≠ 3 ∧ 16 ≤ inst) → t.tide.tables = s.tide.tables)
        ∧ (bank = active → (kind = 3 ∨ inst < 16) → inst < 64 → Recorded s t 0xB010 1296)
        ∧ (bank ≠ active → (kind = 3 ∨ inst < 16) → inst < 64 →
            tableEntry t kind inst bank e = value.toNat
            ∧ ∀ k n b m, k < 4 → n < 64 → m < 4096 → ¬ (k = kind ∧ n = inst ∧ b = bank ∧ m = e) →
                tableEntry t k n b m = tableEntry s k n b m))
    ∧ (∀ value : Word, (BarOpen s (.moduleSwitchArm value) → value.getLsbD 0 = true → value.getLsbD 4 = false →
        let f := firstFailure [tickFailure s s.tide.mswitchTick.toNat, moduleCheck s]
        ∃ t, exec (.moduleSwitchArm value) s = .next t
          ∧ t.tide.mswitchCtrl = ctrlAfter (clearCtrl s.tide.mswitchCtrl value) f false
          ∧ (f.isSome = true → Recorded s t 0x1010 1296)
          ∧ t = { s with
              tide := { s.tide with mswitchCtrl := t.tide.mswitchCtrl }, trace := t.trace, host := t.host })
      ∧ (BarOpen s (.moduleSwitchReapply value) → value.getLsbD 0 = false → value.getLsbD 4 = true →
        let f := tickFailure s s.tide.mswitchTick.toNat
        ∃ t, exec (.moduleSwitchReapply value) s = .next t
          ∧ t.tide.mswitchCtrl = ctrlAfter (clearCtrl s.tide.mswitchCtrl value) f true
          ∧ (f.isSome = true → Recorded s t 0x1010 1296)
          ∧ t = { s with
              tide := { s.tide with mswitchCtrl := t.tide.mswitchCtrl }, trace := t.trace, host := t.host }))
    ∧ (∀ (c : Nat) (value : Word),
      (BarOpen s (.coveSwitchArm c value) → value.getLsbD 0 = true → value.getLsbD 4 = false →
        let f := firstFailure [tickFailure s (coveTideAt s c).switchTick.toNat,
          clusterCheck s c (!(coveTideAt s c).bank)]
        ∃ t, exec (.coveSwitchArm c value) s = .next t
          ∧ coveTideAt t c = { coveTideAt s c with ctrl := ctrlAfter (clearCtrl (coveTideAt s c).ctrl value) f false }
          ∧ (∀ d, d ≠ c → coveTideAt t d = coveTideAt s d)
          ∧ (f.isSome = true → Recorded s t 0x1010 1296) ∧ t.cores = s.cores ∧ t.mem = s.mem ∧ t.coves = s.coves)
      ∧ (BarOpen s (.coveSwitchReapply c value) → value.getLsbD 0 = false → value.getLsbD 4 = true →
        let f := tickFailure s (coveTideAt s c).switchTick.toNat
        ∃ t, exec (.coveSwitchReapply c value) s = .next t
          ∧ coveTideAt t c = { coveTideAt s c with ctrl := ctrlAfter (clearCtrl (coveTideAt s c).ctrl value) f true }
          ∧ (f.isSome = true → Recorded s t 0x1010 1296) ∧ t.cores = s.cores ∧ t.mem = s.mem ∧ t.coves = s.coves))
    ∧ ∀ (c fn : Nat) (value : DWord), BarOpen s (.tideCRestartWrite c value fn) →
        (fn ≠ 0 → ∃ t, exec (.tideCRestartWrite c value fn) s = .next t ∧ HostErred s t fn 3 (0x10828 + 0x40 * c))
        ∧ (fn = 0 → s.tide.now < value.toNat → (coveAt s c).mode = .held → (coveAt s c).ckpt.torn = false →
            exec (.tideCRestartWrite c value fn) s = .next (updCoveTide s c fun t => { t with restart := value }))
        ∧ (fn = 0 → (value.toNat ≤ s.tide.now ∨ (coveAt s c).mode ≠ .held ∨ (coveAt s c).ckpt.torn = true) →
            ∃ t, exec (.tideCRestartWrite c value fn) s = .next t ∧ HostErred s t 0 2 (0x10828 + 0x40 * c))

/-- R270, R310, R315, R325, R522: at its tick an armed MODULE_SWITCH_TICK makes the other bank active, with the cycle and the
generation of TIDE_MHDR, and a COVE_SWITCH_TICK in slack water the cove's, with its clock point, once the slack-water actions before it have ended
(R48) and unless one was deferred (R49); outside slack water it is refused with reason 4. Units that kept the old bank lag (event 0x1012) until MODULE_REAPPLY_TICK or
COVE_REAPPLY_TICK brings them across (event 0x1013). CLOCK_CHANGE_END lets issue resume, and GENERATION_HOLD_TIMEOUT
refuses the packets held past a cycle and keeps the others. -/
def Sys2Proof.Claim.SwitchTicks : Prop :=
  ∀ s : State,
    (∀ bad badShore, ((s.tide.mswitchCtrl.arm = false ∨ s.tide.now < s.tide.mswitchTick.toNat) →
        exec (.moduleSwitchTick bad badShore) s = .next s)
      ∧ (s.tide.mswitchCtrl.arm = true → s.tide.mswitchTick.toNat ≤ s.tide.now → s.tide.heldPackets = [] →
        (∀ d ∈ bad, d < 64) → (∀ d ∈ badShore, d < 16) → bitOf s.tide.mhdr.toNat 13 = false →
        ∃ t, exec (.moduleSwitchTick bad badShore) s = .next t
          ∧ t.tide.mbank = !s.tide.mbank ∧ t.tide.cycleExp = bitsOf s.tide.mhdr.toNat 4 0
          ∧ t.tide.prevMgen = s.tide.mgen ∧ t.tide.mgen = bitsOf s.tide.mhdr.toNat 11 8
          ∧ t.tide.mhot = bitOf s.tide.mhdr.toNat 12 ∧ t.fab.routeCarried = false
          ∧ t.tide.mswitchCtrl = { s.tide.mswitchCtrl with
              arm := false, done := bad.isEmpty && badShore.isEmpty }
          ∧ (∀ d, Sparse.get false t.tide.lag d = bad.contains d)
          ∧ (∀ d, Sparse.get false t.tide.lagShore d = badShore.contains d)
          ∧ Recorded s t 0x1011 1296 ∧ t.cores = s.cores ∧ t.mem = s.mem))
    ∧ (∀ bad badShore, ((s.tide.mswitchCtrl.reapply = false ∨ s.tide.now < s.tide.mswitchTick.toNat) →
        exec (.moduleReapplyTick bad badShore) s = .next s)
      ∧ (s.tide.mswitchCtrl.reapply = true → s.tide.mswitchTick.toNat ≤ s.tide.now → s.tide.heldPackets = [] →
        ∃ t, exec (.moduleReapplyTick [] []) s = .next t
          ∧ t.tide.lag = [] ∧ t.tide.lagShore = []
          ∧ t.fab.routeLag = (if s.fab.routeCarried then [] else s.fab.routeLag)
          ∧ t.tide.mswitchCtrl = { s.tide.mswitchCtrl with reapply := false, done := true }
          ∧ t.tide.mbank = s.tide.mbank ∧ t.tide.mgen = s.tide.mgen
          ∧ Recorded s t 0x1013 1296 ∧ t.cores = s.cores ∧ t.mem = s.mem ∧ t.coves = s.coves))
    ∧ (∀ (c : Nat) (bad badShore : List Nat), c < 16 →
      let v := coveAt s c
      let tt := coveTideAt s c
      let inside := (v.mode = .running ∧ tt.slack = true ∧ tt.switchTick.toNat ≤ slackEnd s c
        ∧ (tt.slackStart ≤ tt.switchTick.toNat ∨ tt.pending = true)) ∨ v.mode = .held
      let mayTry := tt.pending = false ∨ tt.slack = true
      let opens := v.barred = 0 ∧ earlierActions s c = false
      let changes := planClock s c (!tt.bank) ≠ tt.clock
      ((tt.ctrl.arm = false ∨ s.tide.now < tt.switchTick.toNat) → exec (.coveSwitchTick c bad badShore) s = .next s)
      ∧ (tt.ctrl.arm = true → tt.switchTick.toNat ≤ s.tide.now →
        (¬ mayTry → exec (.coveSwitchTick c bad badShore) s = .next s)
        ∧ (mayTry → ¬ inside → ∃ t, exec (.coveSwitchTick c bad badShore) s = .next t ∧ Recorded s t 0x1010 1296
          ∧ coveTideAt t c = { tt with
              pending := false, ctrl := { tt.ctrl with arm := false, refused := true, reason := 4, entry := 0 } }
          ∧ t.coves = s.coves ∧ t.cores = s.cores ∧ t.mem = s.mem)
        ∧ (mayTry → inside → v.barred ≠ 0 →
          exec (.coveSwitchTick c bad badShore) s = .next (updCoveTide s c fun t => { t with pending := true }))
        ∧ (mayTry → inside → v.barred = 0 → earlierActions s c = true → exec (.coveSwitchTick c bad badShore) s = .next s)
        ∧ (mayTry → inside → opens → changes → fitsSlack s c 20000 = false →
          ∃ t, exec (.coveSwitchTick c bad badShore) s = .next t
          ∧ (coveTideAt t c).bank = tt.bank ∧ (coveTideAt t c).ctrl.reason = 10 ∧ (coveTideAt t c).ctrl.refused = true
          ∧ (coveAt t c).deferred = true ∧ (coveAt t c).action = 5 ∧ (coveAt t c).reason = 7
          ∧ (coveAt t c).barred = 5 ∧ Recorded s t 0x7006 1296)
        ∧ (mayTry → inside → opens → (changes → fitsSlack s c 20000 = true) → s.tide.heldPackets = [] →
          (∀ d ∈ bad, v.dies.getLsbD d = true) → (∀ d ∈ badShore, d < 16) →
          ∃ t, exec (.coveSwitchTick c bad badShore) s = .next t ∧ Recorded s t 0x1011 1296
            ∧ (coveTideAt t c).bank = !tt.bank ∧ (coveTideAt t c).prevBank = tt.bank
            ∧ (coveTideAt t c).gen = planGen s c (!tt.bank) ∧ (coveTideAt t c).prevGen = tt.gen
            ∧ (coveTideAt t c).clock = planClock s c (!tt.bank)
            ∧ (changes → (coveTideAt t c).clockBusy = s.tide.now + 20000)
            ∧ (∀ d, Sparse.get false (coveTideAt t c).lag d = bad.contains d)
            ∧ (coveTideAt t c).ctrl = { tt.ctrl with arm := false, done := bad.isEmpty && badShore.isEmpty }
            ∧ (coveAt t c).actionsDone = 5 ∧ t.cores = s.cores ∧ t.mem = s.mem))
      ∧ ((tt.ctrl.reapply = false ∨ s.tide.now < tt.switchTick.toNat ∨ (tt.prevClock ≠ tt.clock ∧ tt.slack = false)) →
          exec (.coveReapplyTick c bad badShore) s = .next s)
      ∧ (tt.ctrl.reapply = true → (tt.prevClock = tt.clock ∨ tt.slack = true) → tt.switchTick.toNat ≤ s.tide.now → s.tide.heldPackets = [] →
          ∃ t, exec (.coveReapplyTick c [] []) s = .next t
            ∧ (coveTideAt t c).lag = [] ∧ (coveTideAt t c).lagShore = []
            ∧ (tt.prevClock = tt.clock → (coveTideAt t c).clockBusy = tt.clockBusy)
            ∧ (coveTideAt t c).ctrl = { tt.ctrl with reapply := false, done := true }
            ∧ (coveTideAt t c).bank = tt.bank ∧ (coveTideAt t c).gen = tt.gen ∧ Recorded s t 0x1013 1296
            ∧ t.cores = s.cores ∧ t.mem = s.mem ∧ t.coves = s.coves)
      ∧ (tt.clockBusy ≠ 0 → tt.clockBusy ≤ s.tide.now →
          exec (.clockChangeEnd c) s = .next (updCoveTide s c fun t => { t with clockBusy := 0 }))
      ∧ ((tt.clockBusy = 0 ∨ s.tide.now < tt.clockBusy) → exec (.clockChangeEnd c) s = .next s))
    ∧ ((∀ h ∈ s.tide.heldPackets, s.tide.now ≤ h.tick + 2 ^ (if 1280 ≤ h.packet.srcUnit then s.tide.cycleExp
          else match placeCove s (placeOf ((packetAddr s h.packet).getD h.packet.dest.toNat)) with
            | some c => planCycle s c (coveTideAt s c).bank | none => s.tide.cycleExp)) →
        exec .generationHoldTimeout s = .next s)
    ∧ (∀ h, s.tide.heldPackets = [h] → 1280 ≤ h.packet.srcUnit → h.tick + 2 ^ s.tide.cycleExp < s.tide.now →
        ∃ u, u = { s with tide := { s.tide with heldPackets := [] } }
          ∧ exec .generationHoldTimeout s = .next (refusePacket u h.port h.packet
              ((packetAddr u h.packet).getD h.packet.dest.toNat) .generationReject))

/-- The writes that arm a table switch, and its tick. -/
def Obligations.ArmedSwitches : Prop :=
  Claim.SwitchWrites ∧ Claim.SwitchTicks

/-! ### Routing banks, port control and leases -/

/-- R227, R273 to R275, R279: ROUTE_DATA_WRITE stores an entry of the inactive bank and moves the index on, or is refused
(event 0x200B). ROUTE_SWITCH_ARM arms a tick at least 250,000 ticks ahead, ROUTE_REAPPLY one while units lag. At its
tick ROUTE_SWITCH_TICK makes the other bank active but for the units that kept the old one, and ROUTE_REAPPLY_TICK brings
those across (event 0x200D). LEASE_TABLE_WRITE gives the zeroed frames that no cove owns of an accepted lease to it, leaves those of a cove with it until
the cove's slack water, and a refused entry reads back with valid clear (event 0x3020). -/
def Obligations.RoutesAndLeases : Prop :=
  ∀ s : State,
    (∀ value : DWord, BarOpen s (.routeDataWrite value) →
      let i := s.fab.routeIndex.toNat
      let e := bitsOf i 15 0
      (s.fab.routeLag = [] → bitOf i 16 ≠ s.fab.routeBank → routeBad value.toNat = false →
        exec (.routeDataWrite value) s = .next { s with fab := { s.fab with
          routeWritten := s.tide.now + 1, routes := Sparse.set 0#64 s.fab.routes (65536 * natOf (bitOf i 16) + e) value,
          routeIndex := BitVec.ofNat 32 (i / 65536 * 65536 + (e + 1) % 65536) } })
      ∧ ((s.fab.routeLag ≠ [] ∨ bitOf i 16 = s.fab.routeBank ∨ routeBad value.toNat = true) →
        ∃ t, exec (.routeDataWrite value) s = .next t ∧ Recorded s t 0x200B 1296 ∧ Recorded s t 0xB010 1296
          ∧ t.fab = s.fab ∧ t.tide = s.tide))
    ∧ (∀ value : Word, BarOpen s (.routeSwitchArm value) → value.getLsbD 0 = true → value.getLsbD 3 = false →
      let c := s.fab.routeCtrl
      let kept := { c with done := c.done && !value.getLsbD 1, refused := c.refused && !value.getLsbD 2 }
      exec (.routeSwitchArm value) s = .next { s with fab := { s.fab with routeCtrl :=
        if s.fab.routeTick.toNat < s.tide.now + 250000 then { kept with refused := true }
        else { kept with arm := true } } })
    ∧ (∀ value : Word, BarOpen s (.routeReapply value) → value.getLsbD 0 = false → value.getLsbD 3 = true →
      ∃ t, exec (.routeReapply value) s = .next t ∧ t.fab = { s.fab with routeCtrl := t.fab.routeCtrl }
        ∧ (s.tide.now + 250000 ≤ s.fab.routeTick.toNat → s.fab.routeLag ≠ [] → t.fab.routeCtrl.reapply = true)
        ∧ ((s.fab.routeTick.toNat < s.tide.now + 250000 ∨ s.fab.routeLag = []) → t.fab.routeCtrl.reapply = false
            ∧ t.fab.routeCtrl.refused = true ∧ Recorded s t 0xB010 1296))
    ∧ (∀ bad : List Nat, (s.fab.routeCtrl.arm = false ∨ s.tide.now < s.fab.routeTick.toNat →
        exec (.routeSwitchTick bad) s = .next s)
      ∧ (s.fab.routeCtrl.arm = true → s.fab.routeTick.toNat ≤ s.tide.now →
        ∃ t, exec (.routeSwitchTick bad) s = .next t ∧ t.fab.routeBank = !s.fab.routeBank
          ∧ t.fab.routeLag = bad.filter (fun d => decide (d < 80)) ∧ t.fab.routeCtrl.arm = false
          ∧ t.fab.routes = s.fab.routes ∧ 250 ≤ t.tide.boundBay ∧ t.tide.boundBay ≤ t.tide.boundHall
          ∧ (t.fab.routeLag = [] → t.fab.routeCtrl.done = true)
          ∧ (t.fab.routeLag ≠ [] → t.fab.routeCtrl.refused = true ∧ Recorded s t 0x200B 1296)
          ∧ t.cores = s.cores ∧ t.mem = s.mem))
    ∧ (∀ bad : List Nat, (s.fab.routeCtrl.reapply = false ∨ s.tide.now < s.fab.routeTick.toNat →
        exec (.routeReapplyTick bad) s = .next s)
      ∧ (s.fab.routeCtrl.reapply = true → s.fab.routeTick.toNat ≤ s.tide.now →
        ∃ t, exec (.routeReapplyTick bad) s = .next t ∧ t.fab.routeBank = s.fab.routeBank
          ∧ t.fab.routeLag = s.fab.routeLag.filter (bad.contains ·) ∧ t.fab.routeCtrl.reapply = false
          ∧ (t.fab.routeLag = [] → t.fab.routeCtrl.done = true ∧ Recorded s t 0x200D 1296)
          ∧ (t.fab.routeLag ≠ [] → t.fab.routeCtrl.refused = true ∧ Recorded s t 0x200B 1296)
          ∧ t.tide = s.tide ∧ t.cores = s.cores ∧ t.mem = s.mem))
    ∧ (∀ (index : Nat) (words : List DWord), BarOpen s (.leaseTableWrite index words) →
      (Sparse.get Lease.reset s.mem.leases index).valid = false →
      let l := leaseOf words
      (l.valid = false → exec (.leaseTableWrite index words) s = .next { s with mem := { s.mem with
        leases := Sparse.set Lease.reset s.mem.leases index l } })
      ∧ (l.valid = true → leaseAccepted s index l = false →
        ∃ t, exec (.leaseTableWrite index words) s = .next t ∧ Recorded s t 0x3020 1296
          ∧ Sparse.get Lease.reset t.mem.leases index = { l with valid := false }
          ∧ t.mem = { s.mem with leases := t.mem.leases })
      ∧ (l.valid = true → leaseAccepted s index l = true →
        ∃ t, exec (.leaseTableWrite index words) s = .next t
          ∧ Sparse.get Lease.reset t.mem.leases index = l
          ∧ (∀ u ∈ leaseUnits l, (∀ f ∈ framesOfI u, ∀ c, Sparse.get .free s.mem.frames (1024 * f.1 + f.2) ≠ .cove c) →
              ∀ f ∈ framesOfI u, Sparse.get .free t.mem.frames (1024 * f.1 + f.2) = .lease index
              ∧ ∀ a, f.2 * 2 ^ 26 ≤ a → a < (f.2 + 1) * 2 ^ 26 → memByte (stackAt t f.1) a = 0#8)
          ∧ (∀ u ∈ leaseUnits l, ∀ c, c < 16 → (coveTideAt s c).slack = false → (coveAt s c).mode ≠ .stopped →
              (∀ f ∈ framesOfI u, Sparse.get .free s.mem.frames (1024 * f.1 + f.2) = .cove c) →
              ∀ f ∈ framesOfI u, Sparse.get .free t.mem.frames (1024 * f.1 + f.2) = .cove c)
          ∧ t = { s with mem := t.mem }))

/-- R272, R281, R282: FAB_CTRL_HFENCE_SET and FAB_CTRL_EN_CLEAR fence a port that is not absent with cause 2 and count a
fence (event 0x9030); FAB_CTRL_HFENCE_CLEAR lifts that fence and FAB_CTRL_RELEASE one of cause 2 to 5 (event 0x200E): the
port seeks, or is absent without a partner present. A release of a port whose EN is clear, in service or of a fenced shore die is refused. -/
def Obligations.PortControls : Prop :=
  ∀ (port : Nat) (s : State) (value : Word), port < 128 →
    let q := portAt s port
    let bits : Port → Port := fun x =>
      { x with en := value.getLsbD 0, fecReq := value.getLsbD 1, hfence := value.getLsbD 2,
               hostFence := !value.getLsbD 0 || value.getLsbD 2 }
    let free : PortMode := if q.present then .seeking else .absent
    (∀ i : Instr, (i = .fabCtrlHfenceSet port value ∧ value.getLsbD 2 = true)
        ∨ (i = .fabCtrlEnClear port value ∧ value.getLsbD 0 = false) → value.getLsbD 4 = false → BarOpen s i →
      (q.mode = .absent ∨ q.mode = .fenced → exec i s = .next (updPort s port bits))
      ∧ (q.mode ≠ .absent → q.mode ≠ .fenced → ∃ t, exec i s = .next t
        ∧ (portAt t port).mode = .fenced ∧ (portAt t port).cause = 2 ∧ (portAt t port).changed = s.tide.now
        ∧ (portAt t port).en = value.getLsbD 0 ∧ (portAt t port).hfence = value.getLsbD 2
        ∧ t.health.fenceTotal = s.health.fenceTotal + 1 ∧ t.health.shapeGen = (s.health.shapeGen + 1) % 65536
        ∧ Recorded s t 0x9030 (1408 + port) ∧ Recorded s t 0x2010 (1408 + port)
        ∧ (wasRouted q.mode = true → Recorded s t 0x2006 (1408 + port))
        ∧ t.cores = s.cores ∧ t.mem = s.mem ∧ t.coves = s.coves))
    ∧ (value.getLsbD 0 = true → value.getLsbD 2 = false → value.getLsbD 4 = false →
      BarOpen s (.fabCtrlHfenceClear port value) →
      (¬ (q.mode = .fenced ∧ q.cause = 2) →
        exec (.fabCtrlHfenceClear port value) s = .next (updPort s port bits))
      ∧ (q.mode = .fenced → q.cause = 2 → ∃ t, exec (.fabCtrlHfenceClear port value) s = .next t
        ∧ portAt t port = { bits q with mode := free, cause := 0, changed := s.tide.now }
        ∧ Recorded s t 0x200E (1408 + port) ∧ t.cores = s.cores ∧ t.mem = s.mem))
    ∧ (value.getLsbD 4 = true → value.getLsbD 2 = false → BarOpen s (.fabCtrlRelease port value) →
      (value.getLsbD 0 = true → s.tray.service = 0 → Sparse.get 0 s.health.shoreFence (portShore port) = 0 →
        q.mode = .fenced → 2 ≤ q.cause → q.cause ≤ 5 → ∃ t, exec (.fabCtrlRelease port value) s = .next t
          ∧ (portAt t port).mode = free ∧ (portAt t port).cause = 0 ∧ (portAt t port).hfence = false
          ∧ (portAt t port).hostFence = false ∧ (q.cause = 4 → (portAt t port).retrains = []) ∧ (q.cause ≠ 4 → (portAt t port).retrains = q.retrains)
          ∧ Recorded s t 0x200E (1408 + port) ∧ t.cores = s.cores ∧ t.mem = s.mem)
      ∧ (value.getLsbD 0 = false → (q.mode = .absent ∨ q.mode = .fenced) → ∃ t,
          exec (.fabCtrlRelease port value) s = .next t ∧ HostErred (updPort s port bits) t 0 2 (fabReg port 8))
      ∧ (value.getLsbD 0 = true → q.mode ≠ .fenced → (s.tray.service ≠ 0
          ∨ Sparse.get 0 s.health.shoreFence (portShore port) ≠ 0) → ∃ t,
          exec (.fabCtrlRelease port value) s = .next t ∧ HostErred (updPort s port bits) t 0 2 (fabReg port 8)))

/-! ### Ports -/

namespace Sys2Proof.Claim

/-- A port was retrained (R258): its retrains of the last 10 minutes and the count; it starts training (event 0x2004), and the
eighth fences it with cause 4 (event 0x200C); its packets fail over (event 0x2006). -/
def Retrained (s t : State) (p : Nat) : Prop :=
  let q := portAt s p
  let times := (q.retrains.filter fun x => decide (s.tide.now < x + 600000000000)) ++ [s.tide.now]
  (portAt t p).retrains = times ∧ (portAt t p).cntRetrain = satTo 32 (q.cntRetrain + 1)
    ∧ (portAt t p).trainStart = s.tide.now ∧ (portAt t p).phase = 1 ∧ Recorded s t 0x2004 (1408 + p)
    ∧ (times.length < 8 → (portAt t p).mode = .retraining)
    ∧ (8 ≤ times.length → (portAt t p).mode = .fenced ∧ (portAt t p).cause = 4 ∧ Recorded s t 0x200C (1408 + p))
    ∧ Recorded s t 0x2006 (1408 + p) ∧ t.cores = s.cores ∧ t.mem = s.mem ∧ t.coves = s.coves

end Sys2Proof.Claim

/-- R243, R255 to R260: PRESENCE_LOSS makes a copper port absent (event 0x2001), PRESENCE_APPEAR takes it to seeking, fenced
or absent; SEEKING_PATTERN runs every 100 ms; PARTNER_SIGNAL_DETECT starts training; each TRAINING_PHASE_END does its
phase's work, up to active (event 0x2002), a broken wiring rule fences with cause 5 (event 0x2005), and a failed phase
or TRAINING_TIMEOUT returns to seeking (event 0x2003). LANE_LOCK_LOST, UNCORRECTABLE_LIMIT and a SER_CHECK beyond ten
times the ratio at training retrain an active port. -/
def Obligations.PortLife : Prop :=
  ∀ (port : Nat) (s : State), port < 128 →
    let q := portAt s port
    (isOptical s port = false →
      (q.mode = .absent → q.present = false → exec (.presenceLoss port) s = .next s)
      ∧ (¬ (q.mode = .absent ∧ q.present = false) → ∃ t, exec (.presenceLoss port) s = .next t
        ∧ (portAt t port).mode = .absent ∧ (portAt t port).present = false ∧ (portAt t port).cause = 1
        ∧ Recorded s t 0x2001 (1408 + port) ∧ t.health.fenceTotal = s.health.fenceTotal + 1
        ∧ t.cores = s.cores ∧ t.mem = s.mem ∧ t.coves = s.coves))
    ∧ (isOptical s port = false → q.mode ≠ .absent →
        exec (.presenceAppear port) s = .next (updPort s port fun q => { q with present := true }))
    ∧ (isOptical s port = false → q.mode = .absent → ∃ t, exec (.presenceAppear port) s = .next t
        ∧ (portAt t port).present = true ∧ (portAt t port).changed = s.tide.now
        ∧ let dead := Sparse.get 0 s.health.shoreFence (portShore port) ≠ 0
          (¬ dead → q.hostFence = false → (portAt t port).mode = .seeking ∧ Recorded s t 0x2010 (1408 + port))
          ∧ (dead ∨ q.hostFence = true → (portAt t port).mode = .fenced ∧ Recorded s t 0x9030 (1408 + port))
          ∧ (dead → (portAt t port).cause = 3) ∧ (¬ dead → q.hostFence = true → (portAt t port).cause = 2))
    ∧ (exec (.seekingPattern port) s = .next
        (if q.mode = .seeking ∧ (q.pattern = 0 ∨ q.pattern + 100000000 ≤ s.tide.now) then
          updPort s port fun q => { q with pattern := s.tide.now } else s))
    ∧ (q.mode = .seeking → q.en = true → ∃ t, exec (.partnerSignalDetect port) s = .next t
        ∧ portAt t port = { q with
            mode := .training, cause := 0, changed := s.tide.now, trainStart := s.tide.now, phase := 1, miswire := false }
        ∧ Recorded s t 0x2010 (1408 + port) ∧ ∀ p, p ≠ port → portAt t p = portAt s p)
    ∧ (q.mode ≠ .seeking ∨ q.en = false → exec (.partnerSignalDetect port) s = .next s)
    ∧ (q.mode ≠ .training → q.mode ≠ .retraining →
        (∀ m, exec (.trainingPhaseEnd port m) s = .next s) ∧ exec (.trainingTimeout port) s = .next s)
    ∧ (q.mode = .training ∨ q.mode = .retraining →
      (∀ m : Training, m.ok = false → ∃ t, exec (.trainingPhaseEnd port m) s = .next t
        ∧ Recorded s t 0x2003 (1408 + port)
        ∧ portAt t port = { q with mode := .seeking, cause := 0, changed := s.tide.now })
      ∧ (∀ m : Training, m.ok = true → ∃ t, exec (.trainingPhaseEnd port m) s = .next t
        ∧ (q.phase = 3 → (portAt t port).rs = choosesRs s port m ∧ (portAt t port).phase = 4
            ∧ (portAt t port).trainSer0 = m.ser0 ∧ (portAt t port).trainSer1 = m.ser1)
        ∧ (q.phase = 5 → (portAt t port).partner = partnerWord m
            ∧ (isMiswire s port m = false → (portAt t port).phase = 6 ∧ (portAt t port).mode = q.mode)
            ∧ (isMiswire s port m = true → (portAt t port).mode = .fenced ∧ (portAt t port).cause = 5
                ∧ (portAt t port).miswire = true ∧ Recorded s t 0x2005 (1408 + port)))
        ∧ (q.phase = 6 → portAt t port = { q with
            flight := (m.flight + 500) / 1000, phase := 7,
            linkTerm := (3 * ((if q.rs then 30000000 else 10000000) + m.flight) + 999999) / 1000000 })
        ∧ (q.phase = 7 → (portAt t port).mode = .active ∧ (portAt t port).phase = 0 ∧ (portAt t port).eye0 = m.eye0
            ∧ (portAt t port).eye1 = m.eye1 ∧ (portAt t port).txSeq = 0 ∧ (portAt t port).rxSeq = 0
            ∧ Recorded s t 0x2002 (1408 + port))
        ∧ (q.phase = 1 → t = updPort s port fun q => { q with phase := 2 })
        ∧ (q.phase = 2 → portAt t port = { q with
            phase := 3, txEq := m.eq, txPre0 := m.pre0, txPre1 := m.pre1, rxPre0 := m.own0, rxPre1 := m.own1 })
        ∧ (q.phase = 4 → (findBoundary q.rs q.rxPre0 q.rxPre1 m.levels0 m.levels1).isSome = true →
            (portAt t port).phase = 5 ∧ (portAt t port).mode = q.mode)
        ∧ (q.phase = 4 → findBoundary q.rs q.rxPre0 q.rxPre1 m.levels0 m.levels1 = none →
            (portAt t port).mode = .seeking ∧ Recorded s t 0x2003 (1408 + port)))
      ∧ let limit := if isOptical s port then 120000000 else 40000000
        (s.tide.now < q.trainStart + limit → exec (.trainingTimeout port) s = .next s)
        ∧ (q.trainStart + limit ≤ s.tide.now → ∃ t, exec (.trainingTimeout port) s = .next t
          ∧ Recorded s t 0x2003 (1408 + port) ∧ portAt t port = { q with mode := .seeking, cause := 0, changed := s.tide.now }))
    ∧ (q.mode ≠ .active → exec (.laneLockLost port) s = .next s ∧ exec (.uncorrectableLimit port) s = .next s
        ∧ ∀ a b, exec (.serCheck port a b) s = .next s)
    ∧ (q.mode = .active →
      let recent := (q.uncorr.filter fun u => decide (s.tide.now < u + 1000000)).length
      (∃ t, exec (.laneLockLost port) s = .next t ∧ Retrained s t port)
      ∧ (16 < recent → ∃ t, exec (.uncorrectableLimit port) s = .next t ∧ Retrained s t port)
      ∧ (recent ≤ 16 → exec (.uncorrectableLimit port) s = .next s)
      ∧ ∀ a b, (a.ser ≤ 10 * q.trainSer0 → b.ser ≤ 10 * q.trainSer1 →
          exec (.serCheck port a b) s = .next (updPort s port fun q =>
            { q with ser0 := some a.ser, ser1 := some b.ser, eye0 := min q.eye0 a.eye, eye1 := min q.eye1 b.eye }))
        ∧ (10 * q.trainSer0 < a.ser ∨ 10 * q.trainSer1 < b.ser → ∃ t, exec (.serCheck port a b) s = .next t
          ∧ Retrained s t port ∧ (portAt t port).ser0 = some a.ser ∧ (portAt t port).ser1 = some b.ser))

/-- R241: what the lanes carry is the codeword that was dealt to them: undoing precoding, levels and dealing gives its symbols
back, and descrambling gives the bits that were scrambled. -/
def Sys2Proof.Claim.LanesCarryCodewords : Prop :=
  (∀ (pre0 pre1 : Bool) (last0 last1 : Nat) (word : List Nat), word.length % 2 = 0 → (∀ v ∈ word, v < 1024) →
    receivedWord pre0 pre1 last0 last1 (laneLevels pre0 last0 (everyOther word))
      (laneLevels pre1 last1 (everyOther (word.drop 1))) = word)
  ∧ (∀ (pre : Bool) (last : Nat) (symbols : List Nat), ∀ v ∈ laneLevels pre last symbols, v < 4)
  ∧ (∀ reg bits : List Bool, descramble reg (scramble reg bits) = bits)
  ∧ (∀ (rs : Bool) (flits : List (List Byte)) (control : Nat), flits.length = codeFlits rs →
      (∀ f ∈ flits, f.length = 32) → control < 2 ^ codeControl rs →
      ofDataSymbols rs (dataSymbols rs flits control) = (flits, control))

/-- R261, R262: a packet's flits are its header and its data padded to whole flits, and the flits of an idle link may stand
before and after them: the receiver takes the same packet from them, whose slot alone is what the hardware makes of
the header (a free value). -/
def Sys2Proof.Claim.FlitsCarryPackets : Prop :=
  ∀ (p : Packet) (before after : Nat), 1 ≤ p.ptype → p.ptype ≤ 8 → p.gen < 16 → p.cls < 16 → p.transit < 4 → p.op < 256 →
    p.srcModule < 65536 → p.srcUnit < 2048 → p.seq < 65536 → p.tag < 65536 → p.due < 2 ^ 24 → p.tally < 2 ^ 32 →
    p.data.length ≤ 4096 → p.data.length % 32 = 0 →
    (packetFlits p).length = p.data.length / 32 + 1
    ∧ takeFlits (List.replicate before idleFlit ++ packetFlits p ++ List.replicate after idleFlit) none [] 0 []
      = ([{ p with slot := Config.slotOfHeader (headerFlit p) }], .whole none [])

/-- The lanes of a link carry its codewords, and its flits carry its packets, without loss. -/
def Obligations.LinksCarryCodewordsAndPackets : Prop :=
  Claim.LanesCarryCodewords ∧ Claim.FlitsCarryPackets

/-- R250 to R253, R261 to R263: CODEWORD_RECEIVE discards an undecoded codeword with a NAK and holds the later ones; the decoded
replay of the one named releases them in order, and the flits of a codeword with nothing before it are taken.
NAK_RECEIVE replays the codeword ahead of all traffic: its slot's first replay takes the guard, a further one is a
second retry (event 0x2007); NAK_RESEND_TIMEOUT sends the NAK again once no replay came. PACKET_RESERVED_TYPE NAKs the
codeword (event 0x2012) and fences the port with cause 3 when its replay holds such a header again. -/
def Obligations.CodewordsAndReplay : Prop :=
  ∀ (port seq stamp : Nat) (lane0 lane1 : List Nat) (s : State), port < 128 →
    let q := portAt s port
    let n := q.rxSeq
    (q.mode ≠ .active → exec (.codewordReceive port lane0 lane1 stamp) s = .next s
        ∧ exec (.nakReceive port seq) s = .next s ∧ exec (.packetReservedType port seq) s = .next s
        ∧ exec (.nakResendTimeout port) s = .next s)
    ∧ (q.mode = .active →
      let decoded := decodeLevels q.rs q.rxPre0 q.rxPre1 q.rxLevel0 q.rxLevel1 lane0 lane1
      (decoded = none → ∃ t, exec (.codewordReceive port lane0 lane1 stamp) s = .next t
        ∧ (portAt t port).rxSeq = n + 1 ∧ (portAt t port).cntUncorr = satTo 32 (q.cntUncorr + 1)
        ∧ (portAt t port).rxHeld = q.rxHeld ++ [.codeword n none 0] ∧ (portAt t port).nakOut = q.nakOut ++ [n]
        ∧ (∀ p, p ≠ port → portAt t p = portAt s p)
        ∧ t = { s with fab := { s.fab with ports := t.fab.ports } })
      ∧ (∀ k flits control, decoded = some (k, flits, control) →
        let count := if k = 0 then q.cntCorr else satTo 32 (q.cntCorr + 1)
        (bitOf control 0 = false → bitOf control 1 = false →
          (∀ m i rest, q.rxHeld = .codeword m none i :: rest → ∃ t, exec (.codewordReceive port lane0 lane1 stamp) s = .next t
            ∧ (portAt t port).rxSeq = n + 1 ∧ (portAt t port).cntCorr = count
            ∧ (portAt t port).rxHeld = q.rxHeld ++ [.codeword n (some flits) 0]
            ∧ t.tide = s.tide ∧ t.cores = s.cores ∧ t.mem = s.mem)
          ∧ (q.rxHeld = [] → ∀ ps h d, takeFlits flits q.rxHeader q.rxData 0 [] = (ps, .whole h d) →
            ∃ u, exec (.codewordReceive port lane0 lane1 stamp) s = .next (ps.foldl (fun s p => takeAny s port p) u)
              ∧ (portAt u port).rxSeq = n + 1 ∧ (portAt u port).cntCorr = count
              ∧ (portAt u port).rxHeld = [] ∧ (portAt u port).rxHeader = h ∧ (portAt u port).rxData = d
              ∧ (portAt u port).mode = .active ∧ u.tide = s.tide ∧ u.cores = s.cores ∧ u.mem = s.mem)
          ∧ (q.rxHeld = [] → ∀ ps, takeFlits flits q.rxHeader q.rxData 0 [] = (ps, .bad) →
            ∃ t, exec (.codewordReceive port lane0 lane1 stamp) s = .next t
              ∧ (portAt t port).rxHeld = [.codeword n none 0] ∧ (portAt t port).nakOut = q.nakOut ++ [n]
              ∧ (portAt t port).cntUncorr = satTo 32 (q.cntUncorr + 1)
              ∧ t.tide = s.tide ∧ t.cores = s.cores ∧ t.mem = s.mem))
        ∧ (bitOf control 1 = true → ∀ m, q.rxHeld = [.codeword m none 0] →
            m % codeReplay q.rs = controlRef q.rs control →
            ∀ h d, takeFlits flits q.rxHeader q.rxData 0 [] = ([], .whole h d) →
            ∃ t, exec (.codewordReceive port lane0 lane1 stamp) s = .next t
              ∧ (portAt t port).rxHeld = [] ∧ (portAt t port).rxHeader = h ∧ (portAt t port).rxData = d
              ∧ (portAt t port).naks = q.naks.filter (fun x => x.1 != m)
              ∧ (portAt t port).rxRetry =
                  (if q.naks.any (fun x => x.1 == m && decide (2 ≤ x.2.2)) then some s.tide.now else q.rxRetry)
              ∧ t.tide = s.tide ∧ t.cores = s.cores ∧ t.mem = s.mem))
      ∧ (let slot := match sentCodeword q seq with | some c => (c.slot, c.slotEnd) | none => slotNow s port
        let taken := if slot.1 = q.guardSlot then q.guardTaken else decide (slot.1 = q.guardEnd) && q.nextGuardTaken
        ∃ t, exec (.nakReceive port seq) s = .next t ∧ (portAt t port).replays = q.replays ++ [seq]
          ∧ (portAt t port).guardSlot = slot.1 ∧ (portAt t port).guardEnd = slot.2 ∧ (portAt t port).guardTaken = true
          ∧ (taken = true → (portAt t port).nextGuardTaken = true)
          ∧ (taken = false → (portAt t port).cntReplay = satTo 32 (q.cntReplay + 1)
              ∧ (portAt t port).cntLate = q.cntLate)
          ∧ (taken = true → (portAt t port).cntLate = satTo 32 (q.cntLate + 1)
              ∧ (portAt t port).cntReplay = q.cntReplay ∧ Recorded s t 0x2007 (1408 + port))
          ∧ t.tide = s.tide ∧ t.cores = s.cores ∧ t.mem = s.mem)
      ∧ (q.naks = [] → exec (.nakResendTimeout port) s = .next s)
      ∧ (∀ m tk k, q.naks = [(m, tk, k)] → q.nakOut = [] →
        let wait := 2 * crossing q + (if q.rs then 12800 else 3200)
        (1000 * s.tide.now ≤ 1000 * tk + wait → exec (.nakResendTimeout port) s = .next s)
        ∧ (1000 * tk + wait < 1000 * s.tide.now → ∃ t, exec (.nakResendTimeout port) s = .next t
          ∧ (portAt t port).nakOut = [m] ∧ (portAt t port).naks = q.naks
          ∧ (portAt t port).cntLate = satTo 32 (q.cntLate + 1) ∧ Recorded s t 0x2007 (1408 + port)))
      ∧ ∃ t, exec (.packetReservedType port seq) s = .next t ∧ Recorded s t 0x2012 (1408 + port)
        ∧ t.cores = s.cores ∧ t.mem = s.mem
        ∧ (seq ∈ q.reserved → (portAt t port).mode = .fenced ∧ (portAt t port).cause = 3)
        ∧ (seq ∉ q.reserved → (portAt t port).mode = .active ∧ (portAt t port).reserved = q.reserved ++ [seq]
              ∧ (portAt t port).nakOut = q.nakOut ++ [seq]))

/-! ### Packets -/

namespace Sys2Proof.Claim

/-- The seven types of R263 that a port delivers, as commands. -/
def packetRows : List (Nat × (Nat → Packet → Instr)) :=
  [(1, .packetWrite), (2, .packetReadRequest), (3, .packetReadResponse), (4, .packetAtomicRequest),
   (5, .packetAtomicResponse), (6, .packetAcknowledge), (7, .packetStatus)]

/-- A packet of this module arrives in time on an active port with nothing held back (R251), and its stream has not delivered it
(R254, R266). -/
def InTime (s : State) (port : Nat) (p : Packet) : Prop :=
  port < 128 ∧ (portAt s port).mode = .active ∧ addrModule p.dest.toNat = s.moduleId ∧ delivered s p = false
    ∧ p.late = false ∧ pastDue s.tide.now p.due = false ∧ (portAt s port).rxHeld = [] ∧ p.data.length ≤ 4096

/-- The last packet queued to leave is a control packet of a type to the module that a packet came from (R670). -/
def RepliedTo (t : State) (port ptype op : Nat) (p : Packet) : Prop :=
  ∃ r : Packet, t.fab.waiting.getLast? = some ⟨64 + portShore port, none, 0, none, false, r⟩
    ∧ r.ptype = ptype ∧ r.op = op ∧ r.dest = BitVec.ofNat 64 (p.srcModule * 2 ^ 48) ∧ r.srcUnit = p.srcUnit
    ∧ r.tag = p.tag ∧ r.jobTag = p.jobTag ∧ r.data = []

/-- One answer of a descriptor has come with a status. -/
def Answered (s t : State) (core k seq : Nat) (w : WainStatus) : Prop :=
  (ctxAt t core k).wainQ = (ctxAt s core k).wainQ.map fun d =>
    if d.seq = seq then { d with awaiting := d.awaiting - 1, status := worse d.status w } else d

end Sys2Proof.Claim

/-- R210, R233, R263 to R267, R314, R670: a packet that its target's checks pass takes effect: a write lands its bytes, a read
request is answered with the bytes of its range, an atomic replaces the old value; one of a newer generation is held; one that a check or the tally
refuses is counted at the port and changes no memory, and a repeated one does nothing. Packets behind an undecoded codeword are held in arrival order. Responses land at their requester and
answer its descriptor, an acknowledgement frees the packets of its stream up to its sequence, a status sets the outcome
of its descriptor. -/
def Sys2Proof.Claim.PacketsLand : Prop :=
  ∀ (port : Nat) (s : State) (p : Packet),
    (∀ row ∈ packetRows, ((portAt s port).mode ≠ .active ∨ 4096 < p.data.length) → exec (row.2 port p) s = .next s)
    ∧ (∀ row ∈ packetRows, port < 128 → (portAt s port).mode = .active → p.data.length ≤ 4096 → (portAt s port).rxHeld ≠ [] →
        exec (row.2 port p) s = .next (updPort s port fun q =>
          { q with rxHeld := q.rxHeld ++ [.packet { p with ptype := row.1 }] }))
    ∧ (∀ row ∈ packetRows, row.1 < 6 → port < 128 → (portAt s port).rxHeld = [] → addrModule p.dest.toNat = s.moduleId →
        delivered s p = true →
        ∃ t, exec (row.2 port p) s = .next t ∧ t = { s with trace := { s.trace with counters := t.trace.counters } })
    ∧ (InTime s port p →
      (∀ row ∈ [(1, Instr.packetWrite), (2, .packetReadRequest), (4, .packetAtomicRequest)],
        let a := packetAccess s { p with ptype := row.1 } p.dest.toNat
        (p.slot = none → targetCheck s a = .hold →
          heldBytes s (holdDie p.dest.toNat) + 32 * flitsOf p.data.length ≤ 65536 →
          ∃ t, exec (row.2 port p) s = .next t ∧ t.mem = s.mem ∧ t.cores = s.cores ∧ t.tide.heldPackets
            = s.tide.heldPackets ++ [⟨holdDie p.dest.toNat, port, { p with ptype := row.1 }, s.tide.now⟩])
        ∧ (p.slot = none → ∀ w, (targetCheck s a = .refuse w
          ∨ (targetCheck s a = .ok ∧ p.tally ≠ tallyOf p.data ∧ w = .tallyFailure)) →
        ∃ t, exec (row.2 port p) s = .next t ∧ t.mem = s.mem ∧ t.cores = s.cores
          ∧ (portAt t port).cntRefused = satTo 32 ((portAt s port).cntRefused + 1)
          ∧ RepliedTo t port 7 (statusCode w) p
          ∧ Sparse.get 0 t.fab.rxStream (streamOf p) = p.seq % 65536 + 1))
      ∧ (let pl := placeOf p.dest.toNat
        p.slot = none → p.tally = tallyOf p.data →
        (targetCheck s (packetAccess s { p with ptype := 1 } p.dest.toNat) = .ok →
          floorConflict s pl p.data.length = none → ∃ t, exec (.packetWrite port p) s = .next t
            ∧ t.mem = (placeWrite s p.jobTag pl p.data).mem ∧ t.cores = (placeWrite s p.jobTag pl p.data).cores
            ∧ Sparse.get 0 t.fab.rxStream (streamOf p) = p.seq % 65536 + 1)
        ∧ (let n := requestLen p
          let back := leVal (p.data.take 8)
          let bs := placeRead s p.jobTag pl n
          targetCheck s (packetAccess s { p with ptype := 2 } p.dest.toNat) = .ok → isControl pl = false →
          n % 64 = 0 → 1 ≤ n → n ≤ 4096 → condemned s pl n = false →
          (∀ core off, pl = .scratch core off → (coreAt s core).upsets = []) →
          bs.length = n → back % 4096 + n ≤ 4096 →
          (addrModule back ≠ s.moduleId → ∃ t r, exec (.packetReadRequest port p) s = .next t
            ∧ t.fab.waiting.getLast? = some ⟨holdDie p.dest.toNat, none, p.cls, none, true, r⟩ ∧ r.ptype = 3
            ∧ r.data = bs ∧ r.tally = tallyOf bs ∧ r.dest = BitVec.ofNat 64 back ∧ r.tag = p.tag % 65536
            ∧ r.cls = p.cls ∧ r.srcUnit = p.srcUnit ∧ t.mem = s.mem ∧ t.cores = s.cores)
          ∧ (addrModule back = s.moduleId →
            targetCheck s (packetAccess s { p with
              ptype := 3, op := 0, dest := BitVec.ofNat 64 back, data := bs } back) = .ok →
            floorConflict s (placeOf back) n = none → ∃ t, exec (.packetReadRequest port p) s = .next t
              ∧ t.mem = (placeWrite s p.jobTag (placeOf back) bs).mem))
        ∧ (let old := placeRead s p.jobTag pl (atomicBytes (packetOp p) (packetOperand p).length)
          let new := atomicNew (packetOp p) old (packetOperand p)
          targetCheck s (packetAccess s { p with ptype := 4 } p.dest.toNat) = .ok → condemned s pl 1 = false →
          floorConflict s pl new.length = none →
          ∃ t, exec (.packetAtomicRequest port p) s = .next t ∧ t.mem = (placeWrite s p.jobTag pl new).mem
            ∧ (∀ i, (coreAt t i).scratch = (coreAt (placeWrite s p.jobTag pl new) i).scratch)
            ∧ (bitOf p.op 7 = true → ∃ r, t.fab.waiting.getLast?
                  = some ⟨holdDie p.dest.toNat, none, p.cls, none, true, r⟩
                ∧ r.ptype = 5 ∧ r.op = p.op ∧ r.data = padFlit old ∧ r.tag = p.tag % 65536 ∧ r.srcUnit = p.srcUnit)))
      ∧ (∀ k d, awaitsAt s p.srcUnit p = some (k, d) → p.srcUnit < 1024 →
        (p.tally ≠ tallyOf p.data → ∃ t, exec (.packetReadResponse port p) s = .next t
          ∧ Answered s t p.srcUnit k d.seq .tallyFailure ∧ t.mem = s.mem
          ∧ ∀ i, (coreAt t i).scratch = (coreAt s i).scratch)
        ∧ (p.tally = tallyOf p.data → p.slot = none →
          (barnRedirect s (coveNum (coveOfCore s p.srcUnit)) p.dest.toNat).1 = p.dest.toNat →
          (∀ off, placeOf p.dest.toNat ≠ .host off) → isControl (placeOf p.dest.toNat) = false →
          targetCheck s (packetAccess s { p with ptype := 3 } p.dest.toNat) = .ok →
          floorConflict s (placeOf p.dest.toNat) p.data.length = none →
          ∃ t, exec (.packetReadResponse port p) s = .next t ∧ Answered s t p.srcUnit k d.seq .done
            ∧ t.mem = (placeWrite s p.jobTag (placeOf p.dest.toNat) p.data).mem
            ∧ ∀ i, (coreAt t i).scratch = (coreAt (placeWrite s p.jobTag (placeOf p.dest.toNat) p.data) i).scratch))
      ∧ (∀ k d, descOf s p.srcUnit p = some (k, d) → p.tally = tallyOf p.data → ∀ off, d.ret = some off →
        genCheck s (packetAccess s { p with ptype := 5 } (scratchAddr s.moduleId p.srcUnit 0)) = .ok →
          ∃ t, exec (.packetAtomicResponse port p) s = .next t ∧ Answered s t p.srcUnit k d.seq .done
            ∧ (coreAt t p.srcUnit).scratch = memWrite (coreAt s p.srcUnit).scratch
                (winAddr (ctxAt s p.srcUnit k) off) (p.data.take (atomicBytes d.op d.len))
            ∧ t.mem = s.mem)
      ∧ (∀ u l, p.tally = tallyOf p.data → 1280 ≤ p.srcUnit → p.srcUnit < 1296 → s.mem.promoting = some (u, l) →
        targetCheck s (packetAccess s { p with ptype := 3 } p.dest.toNat) = .ok →
        ∃ t, exec (.packetReadResponse port p) s = .next t
          ∧ t.mem.promoting = some (u, l.filter (· ≠ (p.srcUnit - 1280) * 16384 + p.tag))
          ∧ t.mem.hbm = (hbmWrite s (p.dest.toNat % 2 ^ 44) p.data).mem.hbm ∧ t.cores = s.cores))
    ∧ (port < 128 → (portAt s port).mode = .active → (portAt s port).rxHeld = [] → p.data.length ≤ 4096 →
      addrModule p.dest.toNat = s.moduleId →
      (∃ t, exec (.packetAcknowledge port p) s = .next t ∧ t.mem = s.mem ∧ t.cores = s.cores
        ∧ ∀ q, q < 128 → (portAt t q).unacked = (portAt s q).unacked.filter fun u =>
            !(u.srcUnit == p.srcUnit && addrModule u.dest.toNat == p.srcModule && u.cls == p.cls
              && decide ((p.seq + 65536 - u.seq % 65536) % 65536 < 32768)))
      ∧ (∀ w k d, statusOfCode p.op = some w → p.srcUnit < 1024 → descOf s p.srcUnit p = some (k, d) →
        (w = .tallyFailure → d.localSrc = true) →
        ∃ t, exec (.packetStatus port p) s = .next t ∧ t.mem = s.mem ∧ t.coves = s.coves
          ∧ (ctxAt t p.srcUnit k).wainQ = (ctxAt s p.srcUnit k).wainQ.map fun e =>
              if e.seq = d.seq then
                { e with status := worse e.status w, awaiting := if w = .late then e.awaiting else e.awaiting - 1 }
              else e)
      ∧ (∀ w d k, statusOfCode p.op = some w → w = .tallyFailure → p.srcUnit < 1024 → descOf s p.srcUnit p = some (k, d) →
        d.localSrc = false → d.op = 0 → ∀ a g, resolve s (coveNum (coveOfCore s p.srcUnit)) d.src.toNat = .here a g →
        condemned s (placeOf a) d.len = true → ∃ t, exec (.packetStatus port p) s = .next t
          ∧ t.mem = (condemn s (placeOf a) d.len).mem)
      ∧ (statusOfCode p.op = none → ∃ t, exec (.packetStatus port p) s = .next t
        ∧ t = { s with trace := { s.trace with counters := t.trace.counters } }))

/-- R266, R271: PACKET_TRANSIT sends a packet of another module on with its transit count one higher, where a route and a
slot of its class leave it time, and refuses it otherwise (event 0x2008). ACK_EMIT acknowledges a stream that has
delivered since its last acknowledgement. -/
def Sys2Proof.Claim.TransitAndAcknowledgement : Prop :=
  ∀ (port : Nat) (s : State) (p : Packet),
    ((portAt s port).mode ≠ .active ∨ 128 ≤ port ∨ addrModule p.dest.toNat = s.moduleId ∨ p.ptype = 8
        ∨ 4096 < p.data.length → exec (.packetTransit port p) s = .next s)
    ∧ (port < 128 → (portAt s port).mode = .active → addrModule p.dest.toNat ≠ s.moduleId → p.ptype ≠ 8 →
      p.data.length ≤ 4096 →
      let m := addrModule p.dest.toNat
      let ctrl := p.ptype == 6 || p.ptype == 7
      ((portAt s port).rxHeld ≠ [] → exec (.packetTransit port p) s = .next (updPort s port fun q =>
          { q with rxHeld := q.rxHeld ++ [.packet p] }))
      ∧ ((portAt s port).rxHeld = [] →
        (∀ q bound w, p.transit < 3 → routeTo s (64 + portShore port) m = some (q, bound) →
          slotWait s q (if ctrl then 0 else p.cls) = some w →
          (ctrl = true ∨ (pastDue s.tide.now p.due = false ∧ w < untilDue s.tide.now p.due)) →
          ∃ t, exec (.packetTransit port p) s = .next t
            ∧ t.fab = { s.fab with waiting := s.fab.waiting
                ++ [⟨64 + portShore port, none, if ctrl then 0 else p.cls, some q, false,
                  { p with transit := p.transit + 1 }⟩] }
            ∧ t.mem = s.mem ∧ t.cores = s.cores)
        ∧ ((3 ≤ p.transit ∨ routeTo s (64 + portShore port) m = none
            ∨ (∃ q bound, routeTo s (64 + portShore port) m = some (q, bound)
                ∧ slotWait s q (if ctrl then 0 else p.cls) = none)) →
          ∃ t, exec (.packetTransit port p) s = .next t
            ∧ Recorded s t 0x2008 (1408 + port)
            ∧ (portAt t port).cntRefused = satTo 32 ((portAt s port).cntRefused + 1)
            ∧ (ctrl = false → RepliedTo t port 7 (statusCode .unreachable) p)
            ∧ t.mem = s.mem ∧ t.cores = s.cores)))
    ∧ ∀ stream, (Sparse.get 0 s.fab.rxSinceAck stream = 0 → exec (.ackEmit port stream) s = .next s)
      ∧ (Sparse.get 0 s.fab.rxSinceAck stream ≠ 0 → ∃ t r, exec (.ackEmit port stream) s = .next t
        ∧ Sparse.get 0 t.fab.rxSinceAck stream = 0 ∧ t.mem = s.mem ∧ t.cores = s.cores
        ∧ t.fab.waiting = s.fab.waiting ++ [⟨64 + portShore port, none, 0, none, false, r⟩]
        ∧ r.ptype = 6 ∧ r.cls = stream % 16 ∧ r.dest = BitVec.ofNat 64 (stream / 16 % 65536 * 2 ^ 48)
        ∧ r.seq = Sparse.get 0 s.fab.rxStream stream - 1 ∧ r.srcUnit = stream / (16 * 65536))

/-- Packets, their answers and their transit. -/
def Obligations.Packets : Prop :=
  Claim.PacketsLand ∧ Claim.TransitAndAcknowledgement

/-! ### Refresh, scrubs, chaff runs, wear, the life ledger and fences -/

namespace Sys2Proof.Claim

/-- A module counter of R528 to R531 goes up by a number. -/
def Counted (s t : State) (set unit index n : Nat) : Prop :=
  Sparse.get 0 t.trace.counters (counterKey set unit index)
    = satTo 64 (Sparse.get 0 s.trace.counters (counterKey set unit index) + n)

end Sys2Proof.Claim

/-- R216, R321, R322, R463: a REFRESH_WINDOW of the stack's table refreshes it once, and another span of the table does not;
a hot stack without a hot-refresh variant steals an 80-tick window every 2,048 ticks (event 0x1031). HBM_SCRUB and
NEAR_MEMORY_SCRUB count the corrected words of a pass and mark a block found uncorrectable, now or by an error that was
latent (events 0x3030, 0x3031); no byte changes. -/
def Obligations.RefreshAndScrubs : Prop :=
  ∀ s : State,
    (∀ st e, st < 16 →
      spanAt (tableList s 2 st (moduleBankOf s (64 + st))) (s.tide.now % 2 ^ s.tide.cycleExp) = some e →
      let cyc := 2 ^ s.tide.cycleExp
      let window := bitOf e.2 39 || (bitOf e.2 40 && s.tide.mhot && s.tide.hot.contains st)
      let start := s.tide.now - (s.tide.now % cyc + cyc - spanStart e.2) % cyc
      let last := Sparse.get 0 s.tide.lastRefresh st
      (window = true → last ≤ start → ∃ t, exec (.refreshWindow st) s = .next t
        ∧ Sparse.get 0 t.tide.lastRefresh st = s.tide.now + 1
        ∧ (∀ j, j ≠ st → Sparse.get 0 t.tide.lastRefresh j = Sparse.get 0 s.tide.lastRefresh j)
        ∧ (∀ x ∈ wainSpans (tableList s 2 st (moduleBankOf s (64 + st))) cyc, x.1.1 = e.1 →
            (∀ y ∈ wainSpans (tableList s 2 st (moduleBankOf s (64 + st))) cyc, y.1.1 = e.1 → y = x) →
            Counted s t 4 st 2 x.2)
        ∧ t = { s with
            tide := { s.tide with lastRefresh := t.tide.lastRefresh },
            trace := { s.trace with counters := t.trace.counters } })
      ∧ ((window = false ∨ start < last) → exec (.refreshWindow st) s = .next s))
    ∧ (∀ st, let due := decide (Sparse.get 0 s.tide.lastRefresh st + 2048 ≤ s.tide.now + 1)
      (s.tide.hot.contains st = true → s.tide.mhot = false → due = true →
        ∃ t, exec (.stolenRefreshWindow st) s = .next t ∧ Recorded s t 0x1031 (1536 + st)
          ∧ Counted s t 4 st 2 80 ∧ Counted s t 4 st 3 1 ∧ Sparse.get 0 t.tide.lastRefresh st = s.tide.now + 1
          ∧ t.cores = s.cores ∧ t.mem = s.mem ∧ t.coves = s.coves)
      ∧ (s.tide.hot.contains st = false ∨ s.tide.mhot = true ∨ due = false →
        exec (.stolenRefreshWindow st) s = .next s))
    ∧ (∀ st, st < 16 →
      let latent := s.mem.hbmLatent.filter fun k => k / 2 ^ 24 != st
      (latent = s.mem.hbmLatent → ∃ t, exec (.hbmScrub st [] []) s = .next t ∧ Counted s t 4 st 7 (2 ^ 24)
        ∧ t = { s with trace := { s.trace with counters := t.trace.counters } })
      ∧ (∀ b, b < 2 ^ 24 → latent = s.mem.hbmLatent → ∃ t, exec (.hbmScrub st [] [b]) s = .next t
        ∧ Counted s t 4 st 7 (2 ^ 24) ∧ Counted s t 4 st 5 1
        ∧ ledgerAt t (64 + st) = { ledgerAt s (64 + st) with reruns := (ledgerAt s (64 + st)).reruns + 1 }
        ∧ (∀ u, u ≠ 64 + st → ledgerAt t u = ledgerAt s u)
        ∧ t = { s with health := t.health, trace := { s.trace with counters := t.trace.counters } })
      ∧ (∀ bad b, scrubList s.mem.hbmLatent bad st (2 ^ 24) = [b] → b < 1020 * 2 ^ 14 →
        ∃ t, exec (.hbmScrub st bad []) s = .next t ∧ Counted s t 4 st 7 (2 ^ 24)
        ∧ Recorded s t 0x3030 (1536 + st) ∧ Recorded s t 0x3031 (1536 + st)
        ∧ (ledgerAt t (64 + st)).uncorrectable = (ledgerAt s (64 + st)).uncorrectable + 1
        ∧ Sparse.get false t.mem.hbmMarks (st * 2 ^ 24 + b) = true
        ∧ (∀ x, x ≠ st * 2 ^ 24 + b → Sparse.get false t.mem.hbmMarks x = Sparse.get false s.mem.hbmMarks x)
        ∧ t.mem = { s.mem with hbmMarks := t.mem.hbmMarks, hbmLatent := latent } ∧ t.cores = s.cores))
    ∧ ∀ die, die < 64 →
      let latent := s.mem.nearLatent.filter fun k => k / 2 ^ 18 != die
      (latent = s.mem.nearLatent → exec (.nearMemoryScrub die [] []) s = .next s)
      ∧ (∀ b, b < 2 ^ 18 → latent = s.mem.nearLatent → ∃ t, exec (.nearMemoryScrub die [] [b]) s = .next t
        ∧ ledgerAt t die = { ledgerAt s die with corrected := (ledgerAt s die).corrected + 1 }
        ∧ t = { s with health := t.health })
      ∧ (∀ bad b, scrubList s.mem.nearLatent bad die (2 ^ 18) = [b] → b < 2 ^ 18 →
        ∃ t, exec (.nearMemoryScrub die bad []) s = .next t
        ∧ Recorded s t 0x3030 (1297 + die) ∧ Recorded s t 0x3031 (1297 + die)
        ∧ (ledgerAt t die).uncorrectable = (ledgerAt s die).uncorrectable + 1
        ∧ Sparse.get false t.mem.nearMarks (die * 2 ^ 18 + b) = true
        ∧ (∀ x, x ≠ die * 2 ^ 18 + b → Sparse.get false t.mem.nearMarks x = Sparse.get false s.mem.nearMarks x)
        ∧ t.mem = { s.mem with nearMarks := t.mem.nearMarks, nearLatent := latent } ∧ t.cores = s.cores)

/-- R473, R475 to R477: CHAFF_ROUND, every 50,000,000 ticks, counts the runs that were missed, event 0x9023 for each member of
a pair without both, and starts the runs of the free pool. CHAFF_RUN_END runs the core's chaff instructions in the maintenance
granule, which changes no byte of the job's 7.75 MiB, and posts the digest of its own run: the pair's digests agree, or
event 0x9020 names an arbiter, whose digest fences the core that it disagrees with, cause 1
(event 0x9021). -/
def Obligations.ChaffRuns : Prop :=
  ∀ s : State,
    (s.tide.now = 0 ∨ s.tide.now % 50000000 ≠ 0 ∨ s.health.chaffEn = false → exec .chaffRound s = .next s)
    ∧ (0 < s.tide.now → s.tide.now % 50000000 = 0 → s.health.chaffEn = true →
      let n := s.tide.now / 50000000
      let without := (List.range 1024).filter (missedRun s (n - 1))
      ∃ t, exec .chaffRound s = .next t
        ∧ (without = [] → t.health.missed = s.health.missed)
        ∧ (without ≠ [] → t.health.missed = satTo 16 (s.health.missed + without.length))
        ∧ (∀ i, i < 1024 → coreFenced s i = false →
            missedRun s (n - 1) i = true ∨ missedRun s (n - 1) (chaffPartner (n - 1) i) = true →
            Recorded s t 0x9023 i)
        ∧ t.health.posts = s.health.posts.filter (fun p => decide (n ≤ p.round + 1))
        ∧ t.health.arbs = s.health.arbs.filter (fun a => decide (n ≤ a.round + 2))
        ∧ (∀ i, i < 1024 → coveOfDie s (dieOf i) = none → coreFenced s i = false →
            (∀ q, s.recov.current = some q → q.testing ≠ some 4) → Sparse.get 0 t.health.chaffRan i = n + 1)
        ∧ (∀ i, (∃ c, coveOfDie s (dieOf i) = some c) → (coreAt t i).scratch = (coreAt s i).scratch)
        ∧ t.mem = s.mem ∧ t.coves = s.coves)
    ∧ ∀ (core : Nat) (wrong : List (Nat × Word)),
      (1024 ≤ core ∨ coreFenced s core = true ∨ s.health.chaffEn = false →
        exec (.chaffRunEnd core wrong) s = .next s)
      ∧ (core < 1024 → coreFenced s core = false → s.health.chaffEn = true →
        (∀ r, ownRun s core = some r → coreFenced s (chaffPartner r core) = false →
          let y := chaffPartner r core
          let slot := Sparse.get 0 s.health.chaffSlot core
          let u := (runChaff s core slot wrong).1
          let digest := (runChaff s core slot wrong).2
          let posts : List ChaffPost := s.health.posts ++ [⟨r, core, digest⟩]
          ((∀ p ∈ s.health.posts, ¬ (p.round = r ∧ p.core = y)) → y ≠ core →
            exec (.chaffRunEnd core wrong) s = .next { u with health := { s.health with posts := posts } })
          ∧ ∀ p, s.health.posts.find? (fun p => p.round == r && p.core == y) = some p →
            (p.digest = digest → exec (.chaffRunEnd core wrong) s = .next { u with health := { s.health with
              posts := posts, compared := satTo 32 (s.health.compared + 1) } })
            ∧ (p.digest ≠ digest → y ≠ core → ∀ x, nextArbiter s y [y, core] = some x →
              ∃ t, exec (.chaffRunEnd core wrong) s = .next t ∧ Recorded s t 0x9020 1296
                ∧ t.health = { s.health with
                    posts := posts, compared := satTo 32 (s.health.compared + 1),
                    mismatch := satTo 16 (s.health.mismatch + 1),
                    arbs := s.health.arbs ++ [⟨r, slot, [y, core], false, [x], [(y, p.digest), (core, digest)]⟩] }
                ∧ t.cores = u.cores ∧ t.mem = s.mem ∧ t.coves = s.coves))
        ∧ (ownRun s core = none → s.health.directed.contains core = true →
          ∀ x y, nextArbiter s core [core] = some x → nextArbiter s core [core, x] = some y →
          let slot := Sparse.get 0 s.health.spanStart core
          let u := (runChaff s core slot wrong).1
          let digest := (runChaff s core slot wrong).2
          exec (.chaffRunEnd core wrong) s = .next { u with health := { s.health with
            directed := s.health.directed.filter (fun i => decide (i ≠ core)),
            arbs := s.health.arbs
              ++ [⟨s.tide.now / 50000000, slot, [core, x], true, [y], [(core, digest)]⟩] } })
        ∧ ∀ r slot m1 m2 d1 d2, ownRun s core = none → s.health.directed.contains core = false →
          let a : Arbitration := ⟨r, slot, [m1, m2], false, [core], [(m1, d1), (m2, d2)]⟩
          let u := (runChaff s core slot wrong).1
          let digest := (runChaff s core slot wrong).2
          s.health.arbs.find? (awaits core) = some a → m1 ≠ m2 → d1 ≠ d2 →
          (digest = d1 → Sparse.get 0 s.health.coreFence m2 = 0 →
            ∃ t, exec (.chaffRunEnd core wrong) s = .next t ∧ Recorded s t 0x9021 1296 ∧ Recorded s t 0x9030 m2
              ∧ Sparse.get 0 t.health.coreFence m2 = 1
              ∧ (∀ i, i ≠ m2 → Sparse.get 0 t.health.coreFence i = Sparse.get 0 s.health.coreFence i)
              ∧ m2 ∈ t.health.sticky ∧ t.health.arbs = s.health.arbs.erase a
              ∧ t.health.fenceTotal = s.health.fenceTotal + 1 ∧ t.cores = u.cores ∧ t.mem = s.mem)
          ∧ (digest ≠ d1 → digest ≠ d2 → ∀ x, nextArbiter s m1 [m1, m2, core] = some x →
            exec (.chaffRunEnd core wrong) s = .next { u with health := { s.health with
              arbs := s.health.arbs.erase a
                ++ [⟨r, slot, [m1, m2], false, [core, x], [(m1, d1), (m2, d2), (core, digest)]⟩] } }))
    ∧ ∀ (core slot : Nat) (wrong : List (Nat × Word)),
      let t := (runChaff s core slot wrong).1
      t = { s with cores := t.cores } ∧ (∀ i, i ≠ core → coreAt t i = coreAt s i)
        ∧ ∀ a, a < 31 * 262144 → memByte (coreAt t core).scratch a = memByte (coreAt s core).scratch a

/-- R478 to R490: WEAR_SCORE_UPDATE gives every unit the score of its 24 hours' inputs, at most 1,023. LIFE_LEDGER_WRITE adds
the hour to every record and writes the ledger, with its sequence number one up, to the region that does not hold
the last copy (event 0x9060), or leaves NVM alone when the write fails (event 0x9061). HEALTH_FENCE fences its unit
with cause 5, HEALTH_FENCE_CLEAR marks a sticky fence for the next module reset and enters that in the log; a unit out
of range or a reserved action is a host-access error. HEALTH_LEDGER_DATA_READ returns the word and moves the index on. -/
def Obligations.WearLedgerAndFences : Prop :=
  ∀ s : State,
    (∃ t, exec .wearScoreUpdate s = .next t ∧ t.cores = s.cores ∧ t.mem = s.mem ∧ t.coves = s.coves
      ∧ ∀ kind unit, kind < 5 → unit < wearUnits kind →
        let score := min 1023 (satTo 32 (wearTotal (wearRoll s) kind unit))
        Sparse.get 0 t.health.wear (kind * 128 + unit) = score
        ∧ (kind = 2 → (portAt t unit).wear = score)
        ∧ (kind < 2 → (ledgerAt t (64 * kind + unit)).wear = score
            ∧ (ledgerAt t (64 * kind + unit)).peakWear = max (ledgerAt s (64 * kind + unit)).peakWear score))
    ∧ (∀ ok : Bool, ∃ t, exec (.lifeLedgerWrite ok) s = .next t
      ∧ t.health.poweredHours = satTo 32 (s.health.poweredHours + 1) ∧ t.health.margin = [] ∧ t.health.torusEyes = []
      ∧ (∀ u, u < 80 → (ledgerAt t u).hours = satTo 32 ((ledgerAt s u).hours + 1)
          ∧ let bin := tempBin (Sparse.get 0 s.pwr.temps u)
            (ledgerAt t u).binHours =
              (ledgerAt s u).binHours.set bin (satTo 32 ((ledgerAt s u).binHours.getD bin 0 + 1)))
      ∧ (ok = true → Recorded s t 0x9060 1296 ∧ t.health.ledgerSeq = s.health.ledgerSeq + 1
          ∧ (let k := Sparse.get LedgerCopy.reset t.health.nvm (1 - lastLedgerSlot s)
             k.seq = s.health.ledgerSeq + 1 ∧ k.hours = t.health.poweredHours ∧ k.ledger = t.health.ledger
               ∧ k.log = s.health.fenceLog ∧ k.sticky = s.health.sticky)
          ∧ Sparse.get LedgerCopy.reset t.health.nvm (lastLedgerSlot s)
              = Sparse.get LedgerCopy.reset s.health.nvm (lastLedgerSlot s))
      ∧ (ok = false → Recorded s t 0x9061 1296 ∧ t.health.nvm = s.health.nvm
          ∧ t.health.ledgerSeq = s.health.ledgerSeq)
      ∧ t.cores = s.cores ∧ t.mem = s.mem ∧ t.coves = s.coves)
    ∧ (∀ value : Word,
      let kind := bitsOf value.toNat 2 0
      let unit := bitsOf value.toNat 31 16
      let action := bitsOf value.toNat 5 4
      let inRange := decide (unit < fenceRange kind) && !(kind == 3 && unit == 0)
      (∀ i, i = .healthFence value ∨ i = .healthFenceClear value → BarOpen s i →
        inRange = false ∨ (action ≠ 1 ∧ action ≠ 2) →
        ∃ t, exec i s = .next t ∧ HostErred s t 0 2 0xA8048)
      ∧ (BarOpen s (.healthFence value) → inRange = true → action = 1 →
        ∃ t, exec (.healthFence value) s = .next t ∧ t.cores = s.cores ∧ t.mem = s.mem
          ∧ (kind = 0 → Sparse.get 0 s.health.coreFence unit = 0 → Sparse.get 0 t.health.coreFence unit = 5
              ∧ t.health.fenceTotal = s.health.fenceTotal + 1 ∧ Recorded s t 0x9030 unit)
          ∧ (kind = 1 → Sparse.get 0 s.health.clusterFence unit = 0 → Sparse.get 0 t.health.clusterFence unit = 5)
          ∧ (kind = 2 → Sparse.get 0 s.health.dieFence unit = 0 → Sparse.get 0 t.health.dieFence unit = 5
              ∧ t.health.fenceTotal = s.health.fenceTotal + 1 ∧ Recorded s t 0x9030 (1297 + unit))
          ∧ (kind = 3 → Sparse.get 0 s.health.shoreFence unit = 0 → Sparse.get 0 t.health.shoreFence unit = 5
              ∧ Sparse.get 0 t.health.opticFence unit = 5 ∧ unit ∈ t.health.stackFailed)
          ∧ (kind = 4 → unit ∉ s.health.retired → t.health.retired = s.health.retired ++ [unit]
              ∧ Recorded s t 0x9003 (1536 + unit / 1024))
          ∧ (kind * 65536 + unit ∈ t.health.sticky
              ∨ (kind = 0 ∧ Sparse.get 0 s.health.coreFence unit ≠ 0)
              ∨ (kind = 1 ∧ Sparse.get 0 s.health.clusterFence unit ≠ 0)
              ∨ (kind = 2 ∧ Sparse.get 0 s.health.dieFence unit ≠ 0)
              ∨ (kind = 3 ∧ Sparse.get 0 s.health.shoreFence unit ≠ 0)
              ∨ (kind = 4 ∧ unit ∈ s.health.retired)))
      ∧ (BarOpen s (.healthFenceClear value) → inRange = true → action = 2 →
        let n := kind * 65536 + unit
        (n ∈ s.health.sticky → n ∉ s.health.clearNext →
          exec (.healthFenceClear value) s = .next { s with health := { s.health with
            clearNext := s.health.clearNext ++ [n],
            fenceLog := (s.health.fenceLog ++ [FenceEntry.mk s.tide.now s.health.poweredHours 7 5 unit kind]).drop
              (s.health.fenceLog.length + 1 - 1024),
            fenceTotal := s.health.fenceTotal + 1 } })
        ∧ (n ∉ s.health.sticky ∨ n ∈ s.health.clearNext → exec (.healthFenceClear value) s = .next s)))
    ∧ (answers s 0 = true → (fnAt s 0).writeHeld = none →
        let i := (regAt s 0xA8070).toNat
        ∃ t, exec .healthLedgerDataRead s = .next t ∧ t.host.readData = ledgerData s
          ∧ regAt t 0xA8070 = BitVec.ofNat 64 ((bitsOf i 12 0 + 1) % 8192 + 8192 * natOf (bitOf i 13))
          ∧ t = { s with host := { s.host with readData := t.host.readData, regs := t.host.regs } })

/-! ### Recovery -/

namespace Sys2Proof.Claim

/-- The recovery in progress goes on at rung 3 with a cause, its cove contained (R501, R513); event 0xA003. -/
def Escalated (s t : State) (r : Recovery) (cause : Nat) : Prop :=
  (∃ by_, (cause = 13 → by_ = 1296) ∧ t.recov.current = some { r with
      rung := 3, cause := cause, start := s.tide.now, fault := s.tide.now, reporter := by_, suspects := [],
      testing := none, begun := false })
    ∧ Recorded s t 0xA003 1296 ∧ (recovAt t r.cove).rung = 3 ∧ (recovAt t r.cove).cause = cause
    ∧ (recovAt t r.cove).contained = true ∧ t.recov.queue = s.recov.queue.filter (fun x => x.cove != r.cove)
    ∧ t.cores = s.cores ∧ t.mem = s.mem

/-- A module-fatal fault (R499, R513): every cove is contained and recoveries end; in a module reset the boot firmware stops
feeding the heartbeat instead. -/
def ModuleFatal (s t : State) (cause : Nat) : Prop :=
  (s.recov.resetting = true → t.recov.starved = true ∧ t.recov.moduleFatal = s.recov.moduleFatal)
    ∧ (s.recov.resetting = false → t.recov.moduleFatal = some (s.recov.moduleFatal.getD cause)
        ∧ t.recov.current = none ∧ t.recov.queue = [] ∧ t.fw.checkFailed = true
        ∧ (s.recov.moduleFatal = none → t.recov.fatalFrom.1 = s.tide.now)
        ∧ ∀ c, c < 16 → (coveAt s c).mode ≠ .free → (recovAt t c).contained = true)
    ∧ t.cores = s.cores ∧ t.mem = s.mem

/-- A wrack sample of a fault went to the lowest free slot (event 0xA020), or was missed (event 0xA021) (R509, R510). -/
def Sampled (s t : State) (rung cause : Nat) (fault : Tick) (reporter : Nat) : Prop :=
  match (List.range 8).find? fun k => (Sparse.get none s.recov.wracks k).isNone with
  | some k => Recorded s t 0xA020 1296 ∧ t.recov.wrackNewest = k
      ∧ ∃ w, Sparse.get none t.recov.wracks k = some w ∧ w.rung = rung ∧ w.cause = cause ∧ w.tick = fault ∧ w.reporter = reporter
  | none => Recorded s t 0xA021 1296 ∧ t.recov.wracks = s.recov.wracks
      ∧ t.recov.wrackMissed = satTo 16 (s.recov.wrackMissed + 1)

/-- A module reset has begun its start (R499, R500): coves, cores, near memory and recoveries are gone, HBM keeps the module
frames alone, the ledger was written, and RECOV_LASTRESET has the kind and cause. -/
def ResetStarted (s t : State) (kind cause : Nat) : Prop :=
  t.recov.lastKind = kind ∧ t.recov.lastCause = cause ∧ t.recov.resets = s.recov.resets + 1
    ∧ t.recov.resetting = true ∧ t.fw.ready = false ∧ t.recov.current = none ∧ t.recov.queue = []
    ∧ t.recov.moduleFatal = none ∧ t.cores = [] ∧ t.mem.near = [] ∧ t.health.ledgerSeq = s.health.ledgerSeq + 1
    ∧ t.tide.now = s.tide.now ∧ t.host.linkUp = s.host.linkUp
    ∧ (∀ c, (coveAt t c).mode = .free ∧ (coveAt t c).dies = 0#64)
    ∧ (∀ e ∈ t.mem.hbm, ∀ b ∈ e.2, 1020 * 2 ^ 26 ≤ b.1 ∧ ∃ e' ∈ s.mem.hbm, e'.1 = e.1 ∧ b ∈ e'.2)
    ∧ ∀ e ∈ s.mem.hbm, ∀ b ∈ e.2, 1020 * 2 ^ 26 ≤ b.1 → ∃ e' ∈ t.mem.hbm, e'.1 = e.1 ∧ b ∈ e'.2

/-- Rung 3 has begun on a cove (R499): contained, sampled, every context of it reset and its clusters without owner. -/
def CoveResetBegan (s t : State) (c cause : Nat) (fault : Tick) (reporter : Nat) : Prop :=
  Sampled s t 3 cause fault reporter ∧ (recovAt t c).contained = true
    ∧ (∀ i ∈ coresOf (coveAt s c), ∀ k, k < 4 → ctxAt t i k = resetContext (ctxAt s i k))
    ∧ ∀ cl ∈ clustersOf (coveAt s c), (clusterAt t cl).owner = none

/-- No other cove has a job tag of the cove. -/
def AloneInJob (s : State) (c : Nat) : Prop :=
  ∀ o, o < 16 → o ≠ c → (tagsOf (coveAt s o)).any (tagsOf (coveAt s c)).contains = false

/-- The cluster under recovery goes to its next suspect alone: a job context at the next boundary of the cove's cycle, the
maintenance context at once (R505). -/
def SuspectRuns (s t : State) (r : Recovery) (k : Nat) (rest : List Nat) : Prop :=
  let cl := clusterOf r.core
  let from_ := if k = 4 then s.tide.now else roundUp s.tide.now (2 ^ planCycle s r.cove (coveTideAt s r.cove).bank)
  t.recov.current = some { r with suspects := rest, testing := some k, testFrom := from_ }
    ∧ (r.rung = 2 → ∀ c, coveOfDie s (cl / 4) = some c →
        (clusterAt t cl).owner = (if s.tide.now < from_ then none else some k)
        ∧ (s.tide.now < from_ → (clusterAt s cl).owner = none →
            t.cores = s.cores ∧ t.mem = s.mem ∧ t.coves = s.coves))
    ∧ ∀ cl', cl' ≠ cl → clusterAt t cl' = clusterAt s cl'

/-- A recovery ended at rung 2 (R499, R506): event 0xA002, and the cove is what it was before it was contained. -/
def RecoveryEnded (s t : State) (r : Recovery) : Prop :=
  t.recov.current = none ∧ Recorded s t 0xA002 1296 ∧ (recovAt t r.cove).active = false
    ∧ (recovAt t r.cove).contained = false
    ∧ ((coveAt s r.cove).mode = .fault → (coveAt t r.cove).mode = (coveAt s r.cove).prior)
    ∧ ((coveAt s r.cove).mode ≠ .fault → coveAt t r.cove = coveAt s r.cove) ∧ t.cores = s.cores ∧ t.mem = s.mem

/-- What follows the end of a recovery (R502, R507): the cluster goes to the owner that its table names, and the step is
discarded for an atomic that was dropped, or for what is owed. -/
def afterRecovery (u : State) (r : Recovery) : State :=
  let v := changeOwner u (clusterOf r.core) (ownerNow u (clusterOf r.core))
  if r.redo then discardAnyway v r.cove 8 none else payOwed v r.cove

/-- The core of a failed engine is fenced with cause 3, and the recovery goes on at rung 3 (R501, R506). -/
def EngineFailed (s t : State) (r : Recovery) : Prop :=
  Escalated s t r 2 ∧ (Sparse.get 0 s.health.coreFence r.core = 0 → Sparse.get 0 t.health.coreFence r.core = 3)
    ∧ (Sparse.get 0 s.health.coreFence r.core ≠ 0 → t.health.coreFence = s.health.coreFence)

end Sys2Proof.Claim

/-- R499 to R506, R509, R512, R513: RECOVERY_START answers a module-fatal fault with a module reset, begins rung 3 of an
escalated recovery, or takes the oldest queued one: rung 2 stops its cluster, rung 3 resets its cove. RUNG_OVERRUN ends
rung 2 after 200 µs at rung 3, and rung 3 after 8 ms as module-fatal, both with cause 12. ENGINE_SELF_TEST_END gives the
cluster to the first suspect, or fences the core of an engine that failed; SUSPECT_TEST_END, once the test has lasted, goes on to
the next suspect (event 0xA011), charges the engine after the last one (event 0xA013), or escalates with a guilty one
(event 0xA012). COVE_RESET_END fences the dies that stayed dead and leaves the cove stopped, held after a reshape, or in release. -/
def Obligations.Recoveries : Prop :=
  ∀ s : State,
    (s.recov.moduleFatal = none → s.recov.current = none → s.recov.queue = [] → exec .recoveryStart s = .next s)
    ∧ (∀ cause, s.recov.moduleFatal = some cause →
        (s.recov.autoMod = false ∨ s.pwr.shutdown = true → exec .recoveryStart s = .next s)
        ∧ (s.recov.autoMod = true → s.pwr.shutdown = false →
            ∃ t, exec .recoveryStart s = .next t ∧ ResetStarted s t 2 cause))
    ∧ (∀ r, s.recov.moduleFatal = none → s.recov.current = some r →
        (r.begun = true → exec .recoveryStart s = .next s)
        ∧ (r.begun = false → AloneInJob s r.cove → ∃ t, exec .recoveryStart s = .next t
            ∧ CoveResetBegan s t r.cove r.cause r.fault r.reporter ∧ t.recov.current = some { r with begun := true }))
    ∧ (∀ q rest, s.recov.moduleFatal = none → s.recov.current = none → s.recov.queue = q :: rest →
        (q.rung = 2 → ∃ t, exec .recoveryStart s = .next t ∧ t.recov.queue = rest ∧ Recorded s t 0xA001 1296
          ∧ Sampled s t 2 q.cause q.tick q.reporter ∧ (clusterAt t (clusterOf q.core)).owner = none
          ∧ (recovAt t q.cove).rung = 2 ∧ (recovAt t q.cove).active = true ∧ (recovAt t q.cove).cause = q.cause
          ∧ (recovAt t q.cove).count = satTo 16 ((recovAt s q.cove).count + 1)
          ∧ ∃ redo, (q.engine ≠ 2 → redo = false) ∧ t.recov.current = some ⟨2, q.cove, q.cause, s.tide.now, q.tick,
              q.reporter, q.engine, q.core, q.ctx, suspectsOf s q.cove q.core q.engine q.ctx, none, 0, redo, true⟩)
        ∧ (q.rung ≠ 2 → AloneInJob s q.cove → ∃ t, exec .recoveryStart s = .next t ∧ t.recov.queue = rest
          ∧ Recorded s t 0xA001 1296 ∧ CoveResetBegan s t q.cove q.cause q.tick q.reporter
          ∧ t.recov.current
              = some ⟨3, q.cove, q.cause, s.tide.now, q.tick, q.reporter, 0, 0, 5, [], none, 0, false, true⟩))
    ∧ (s.recov.current = none → exec .rungOverrun s = .next s ∧ exec .coveResetEnd s = .next s
        ∧ ∀ pass, exec (.engineSelfTestEnd pass) s = .next s ∧ exec (.suspectTestEnd pass) s = .next s)
    ∧ ∀ r, s.recov.current = some r →
      (r.rung = 2 → r.testing = none → r.start + 200000 ≤ s.tide.now →
        ∃ t, exec .rungOverrun s = .next t ∧ Escalated s t r 12)
      ∧ (r.rung = 2 → r.testing ≠ none ∨ s.tide.now < r.start + 200000 → exec .rungOverrun s = .next s)
      ∧ (r.rung = 3 → r.start + 8000000 ≤ s.tide.now →
        ∃ t, exec .rungOverrun s = .next t ∧ Recorded s t 0xA003 1296 ∧ ModuleFatal s t 12)
      ∧ (r.rung = 3 → s.tide.now < r.start + 8000000 → exec .rungOverrun s = .next s)
      ∧ (∀ pass, r.rung ≠ 2 ∨ r.testing ≠ none → exec (.engineSelfTestEnd pass) s = .next s)
      ∧ (r.rung = 2 → r.testing = none →
        (∃ t, exec (.engineSelfTestEnd false) s = .next t ∧ EngineFailed s t r)
        ∧ (∀ k rest, r.suspects = k :: rest → ∃ t, exec (.engineSelfTestEnd true) s = .next t ∧ SuspectRuns s t r k rest
          ∧ Sparse.get 0 t.recov.engineReset (8 * r.core + r.engine) = s.tide.now)
        ∧ (r.suspects = [] → ∃ u, exec (.engineSelfTestEnd true) s = .next (afterRecovery u r) ∧ RecoveryEnded s u r
          ∧ Sparse.get 0 u.recov.engineReset (8 * r.core + r.engine) = s.tide.now))
      ∧ (∀ pass, r.testing = none → exec (.suspectTestEnd pass) s = .next s)
      ∧ (∀ k, r.testing = some k →
        (∃ t, exec (.suspectTestEnd false) s = .next t ∧ Recorded s t 0xA012 1296
          ∧ (k ≠ 4 → Escalated s t r 1) ∧ (k = 4 → EngineFailed s t r))
        ∧ (s.tide.now < testUntil s r k → exec (.suspectTestEnd true) s = .next s)
        ∧ (testUntil s r k ≤ s.tide.now →
          (∀ k' rest, r.suspects = k' :: rest → ∃ t, exec (.suspectTestEnd true) s = .next t
            ∧ Recorded s t 0xA011 1296 ∧ SuspectRuns s t r k' rest)
          ∧ (r.suspects = [] →
            let key := 8 * r.core + r.engine
            let day := s.recov.charged.filter fun e => decide (s.tide.now < e.2 + 86400000000000)
            let charged := fun (u : State) => Recorded s u 0xA011 1296 ∧ Recorded s u 0xA013 1296
              ∧ (ledgerAt u (dieOf r.core)).hangs = (ledgerAt s (dieOf r.core)).hangs + 1
              ∧ u.recov.charged = day ++ [(key, s.tide.now)]
            ((day.any fun e => e.1 == key) = true →
              ∃ t, exec (.suspectTestEnd true) s = .next t ∧ charged t ∧ EngineFailed s t r)
            ∧ ((day.any fun e => e.1 == key) = false →
              ∃ u, exec (.suspectTestEnd true) s = .next (afterRecovery u r) ∧ charged u ∧ RecoveryEnded s u r))))
      ∧ (r.rung ≠ 3 ∨ r.begun = false → exec .coveResetEnd s = .next s)
      ∧ (r.rung = 3 → r.begun = true →
        let v := coveAt s r.cove
        let reshaped := v.reshapeOk && v.reshape.isSome && decide (2 ≤ v.actionsDone) || v.reshaped.isSome
        ∃ t, exec .coveResetEnd s = .next t ∧ t.recov.current = none ∧ Recorded s t 0xA002 1296
          ∧ (recovAt t r.cove).contained = false ∧ (recovAt t r.cove).inStep = false
          ∧ (recovAt t r.cove).active = false
          ∧ (∀ d ∈ deadDies s r.cove, Sparse.get 0 t.health.dieFence d = 3)
          ∧ (reshaped = false → Recorded s t 0x700B 1296) ∧ (reshaped = true → Recorded s t 0x700A 1296)
          ∧ (v.releaseReq = true ∨ v.serviceRelease = true → (coveAt t r.cove).mode = .releasing)
          ∧ (v.releaseReq = false → v.serviceRelease = false →
              (reshaped = false → (coveAt t r.cove).mode = .stopped ∧ (coveTideAt t r.cove).held = false)
              ∧ (reshaped = true → (coveAt t r.cove).mode = .held ∧ (coveAt t r.cove).hcause = 5
                  ∧ (coveTideAt t r.cove).held = true)))

/-! ### Recovery commands, wrack samples, the headland role and the heartbeat -/

namespace Sys2Proof.Claim

/-- A completion line was given to a function's ring (R562): it frees its reserved place, waits in the pending store while
the ring cannot take it, and otherwise is the ring's next line. -/
def LineComes (s t : State) (fn kind cove : Nat) (body : List (Nat × Nat × Nat)) : Prop :=
  let r := (fnAt s fn).ring
  let l : StatusLine := ⟨s.tide.now, kind, cove, lineBody body⟩
  (fnAt t fn).ring.reserved = r.reserved - 1
    ∧ (ringWritable s fn = false → (fnAt t fn).ring.pending = r.pending ++ [l])
    ∧ (ringWritable s fn = true → r.pending = [] → (fnAt t fn).ring.pending = [] ∧ (fnAt t fn).ring.wr = r.wr + 1
        ∧ t.host.written.head? = some ⟨fn,
            (regAt s (ringBaseReg fn)).toNat / 64 * 64 + 64 * (r.wr % 2 ^ ringSize r), lineBytes l r.wr⟩)

end Sys2Proof.Claim

/-- R511, R523, R524: RECOV_CMD resets one context of a cove, discarding the step with cause 8 for context 0, queues an engine
reset without suspects, contains a cove and queues or escalates its reset with cause 13, or resets the module; a
reserved kind and a reset of what is in recovery are host-access errors. RECOV_WRACK_FREE frees slots;
RECOV_WRACK_COPY starts a copy, whose WRACK_COPY_END writes the sample and its status line. -/
def Obligations.RecoveryCommands : Prop :=
  ∀ (value : Word) (s : State),
    let kind := bitsOf value.toNat 2 0
    let c := bitsOf value.toNat 7 4
    let k := bitsOf value.toNat 9 8
    let core := bitsOf value.toNat 21 12
    let engine := bitsOf value.toNat 11 10
    (∀ i, i = .recovContextReset value ∨ i = .recovEngineReset value ∨ i = .recovCoveReset value
        ∨ i = .recovModuleReset value → BarOpen s i → kind = 0 ∨ 5 ≤ kind →
        ∃ t, exec i s = .next t ∧ HostErred s t 0 2 0xC0008)
    ∧ (kind = 1 → BarOpen s (.recovContextReset value) →
      ((coveAt s c).mode = .free → exec (.recovContextReset value) s = .next s)
      ∧ ((coveAt s c).mode ≠ .free → 0 < rungOf s c →
        ∃ t, exec (.recovContextReset value) s = .next t ∧ HostErred s t 0 2 0xC0008)
      ∧ ((coveAt s c).mode ≠ .free → rungOf s c = 0 → k ≠ 0 → ∃ t, exec (.recovContextReset value) s = .next t
        ∧ (∀ i ∈ coresOf (coveAt s c), ctxAt t i k = resetContext (ctxAt s i k))
        ∧ (∀ i j, ¬ (i ∈ coresOf (coveAt s c) ∧ j = k) → ctxAt t i j = ctxAt s i j)
        ∧ t = { s with cores := t.cores, trace := { s.trace with
            counters := t.trace.counters, coveCounters := t.trace.coveCounters } })
      ∧ ((coveAt s c).mode = .running → rungOf s c = 0 → k = 0 →
        exec (.recovContextReset value) s = .next (discardStep s c 8 none))
      ∧ ((coveAt s c).mode ≠ .running → (coveAt s c).mode ≠ .free → rungOf s c = 0 → k = 0 →
        ∃ t, exec (.recovContextReset value) s = .next t
          ∧ (∀ i ∈ coresOf (coveAt s c), ctxAt t i 0 = resetContext (ctxAt s i 0)) ∧ t.coves = s.coves))
    ∧ (kind = 2 → BarOpen s (.recovEngineReset value) →
      (coveOfCore s core = none → exec (.recovEngineReset value) s = .next s)
      ∧ ∀ o, coveOfCore s core = some o →
        (0 < rungOf s o → ∃ t, exec (.recovEngineReset value) s = .next t ∧ HostErred s t 0 2 0xC0008)
        ∧ (rungOf s o = 0 → exec (.recovEngineReset value) s = .next { s with recov := { s.recov with
            queue := s.recov.queue ++ [QueuedRecovery.mk o 2 13 s.tide.now 1296 engine core 5] } }))
    ∧ (kind = 3 → BarOpen s (.recovCoveReset value) →
      ((coveAt s c).mode = .free → exec (.recovCoveReset value) s = .next s)
      ∧ ((coveAt s c).mode ≠ .free →
        (rungOf s c = 0 → (∀ r, s.recov.current = some r → r.cove ≠ c) →
          ∃ t, exec (.recovCoveReset value) s = .next t ∧ (recovAt t c).contained = true
            ∧ ((recovAt s c).contained = false → (coveAt t c).mode = .fault)
            ∧ t.recov.queue = s.recov.queue.filter (fun x => x.cove != c)
                ++ [QueuedRecovery.mk c 3 13 s.tide.now 1296 0 0 5]
            ∧ (s.recov.current.isSome = true → Recorded s t 0xA004 1296)
            ∧ (∀ o, o ≠ c → coveAt t o = coveAt s o) ∧ t.cores = s.cores ∧ t.mem = s.mem)
        ∧ ∀ r, s.recov.current = some r → r.cove = c →
          (r.rung < 3 → ∃ t, exec (.recovCoveReset value) s = .next t ∧ Escalated s t r 13)
          ∧ (3 ≤ r.rung → ∃ t, exec (.recovCoveReset value) s = .next t ∧ HostErred s t 0 2 0xC0008)))
    ∧ (kind = 4 → BarOpen s (.recovModuleReset value) →
        ∃ t, exec (.recovModuleReset value) s = .next t ∧ ResetStarted s t 3 0)
    ∧ (BarOpen s (.recovWrackFree value) → ∃ t, exec (.recovWrackFree value) s = .next t
        ∧ (∀ n, Sparse.get none t.recov.wracks n =
            if n < 8 ∧ bitOf value.toNat n = true then none else Sparse.get none s.recov.wracks n)
        ∧ t = { s with recov := { s.recov with wracks := t.recov.wracks } })
    ∧ (BarOpen s (.recovWrackCopy value) →
      let busy := s.recov.wrackCopy.isSome || storeFull s 0
      (busy = true → ∃ t, exec (.recovWrackCopy value) s = .next t ∧ HostErred s t 0 2 0xC0048)
      ∧ (busy = false → ∃ t, exec (.recovWrackCopy value) s = .next t
        ∧ t.recov = { s.recov with wrackCopy := some (bitsOf value.toNat 2 0) }
        ∧ (fnAt t 0).ring.reserved = (fnAt s 0).ring.reserved + 1 ∧ Logged { s with recov := t.recov } t))
    ∧ ∀ status, (s.recov.wrackCopy = none → exec (.wrackCopyEnd status) s = .next s)
      ∧ ∀ n, s.recov.wrackCopy = some n →
        (Sparse.get none s.recov.wracks n = none → ∃ t, exec (.wrackCopyEnd status) s = .next t
          ∧ t.recov = { s.recov with wrackCopy := none }
          ∧ LineComes s t 0 3 15 [(0, 1, n), (1, 1, 1), (8, 8, 0)])
        ∧ ∀ w, Sparse.get none s.recov.wracks n = some w →
          (status = 0 → ∃ t, exec (.wrackCopyEnd status) s = .next t
            ∧ t.recov = { s.recov with wrackCopy := none }
            ∧ HostWrite.mk 0 ((regAt s 0xC0040).toNat / 64 * 64) (wrackBytes w) ∈ t.host.written
            ∧ LineComes s t 0 3 15 [(0, 1, n), (1, 1, 0), (8, 8, (wrackBytes w).length)])
          ∧ (status ≠ 0 → ∃ t, exec (.wrackCopyEnd status) s = .next t ∧ Recorded s t 0xB030 1296
            ∧ t.recov = { s.recov with wrackCopy := none }
            ∧ (fnAt t 0).ring.reserved = (fnAt s 0).ring.reserved - 1)

/-- R514 to R516: HEADLAND_LIVENESS_ADVANCE advances the live shore controllers and feeds the heartbeat; after 5 ms without
it HEADLAND_LIVENESS_LOST starts the move (event 0xA030), HEADLAND_RESUME gives the role to the lowest-numbered live
unfenced controller (event 0xA031), and HEADLAND_UNCLAIMED ends a move that none claims (event 0xA032); a lost controller
that does not restart is module-fatal. HEARTBEAT_ADVANCE counts while the heartbeat is fed, and BOOT_READY_TIMEOUT
starves it 450 ms into a module reset without READY. -/
def Obligations.HeadlandAndHeartbeat : Prop :=
  ∀ s : State,
    (∃ t, exec .headlandLivenessAdvance s = .next t
      ∧ (∀ n, Sparse.get 0 t.recov.liveness n =
          if n < 16 ∧ shoreLive s n = true ∧ ¬ (n = s.recov.headland ∧ s.recov.moving ≠ none) then
            Sparse.get 0 s.recov.liveness n + 1 else Sparse.get 0 s.recov.liveness n)
      ∧ t = { s with recov := { s.recov with
          liveness := t.recov.liveness,
          fedTick := if s.fw.ready = true ∧ s.recov.moving = none ∧ s.recov.unclaimed = false then s.tide.now
            else s.recov.fedTick } })
    ∧ (let quiet := s.fw.ready && s.recov.moving.isNone && !s.recov.unclaimed
        && decide (s.recov.fedTick + 5000000 ≤ s.tide.now)
      (quiet = false → exec .headlandLivenessLost s = .next s)
      ∧ (quiet = true → ∃ t, exec .headlandLivenessLost s = .next t ∧ Recorded s t 0xA030 1296
        ∧ t.cores = s.cores ∧ t.mem = s.mem
        ∧ (s.trace.slFail = false → t.recov = { s.recov with moving := some s.tide.now } ∧ t.coves = s.coves)
        ∧ (s.trace.slFail = true → ModuleFatal s t 14)))
    ∧ (s.recov.moving = none → exec .headlandUnclaimed s = .next s
        ∧ ∀ restarted, exec (.headlandResume restarted) s = .next s)
    ∧ (∀ since, s.recov.moving = some since →
      (s.tide.now < since + 10000000 → exec .headlandUnclaimed s = .next s)
      ∧ (since + 10000000 ≤ s.tide.now → ∃ t, exec .headlandUnclaimed s = .next t ∧ Recorded s t 0xA032 1296
        ∧ t.recov = { s.recov with moving := none, unclaimed := true }
        ∧ t.cores = s.cores ∧ t.mem = s.mem ∧ t.coves = s.coves)
      ∧ ∀ n, nextHeadland s = some n → s.host.moveQueue = [] →
        (∃ t, exec (.headlandResume true) s = .next t ∧ Recorded s t 0xA031 1296
          ∧ t.recov = { s.recov with
              headland := n, moves := satTo 8 (s.recov.moves + 1), moving := none, fedTick := s.tide.now,
              current := s.recov.current.map fun r => { r with start := s.tide.now } }
          ∧ t.cores = s.cores ∧ t.mem = s.mem ∧ t.coves = s.coves)
        ∧ ∃ t, exec (.headlandResume false) s = .next t ∧ Recorded s t 0xA031 1296 ∧ ModuleFatal s t 15
          ∧ t.recov.headland = n ∧ t.recov.moving = none
          ∧ (s.recov.headland ≠ 0 → Sparse.get 0 s.health.shoreFence s.recov.headland = 0 →
              Sparse.get 0 t.health.shoreFence s.recov.headland = 3))
    ∧ (fed s = true → exec .heartbeatAdvance s = .next { s with recov := { s.recov with
        heartbeat := (s.recov.heartbeat + 1) % 2 ^ 64 } })
    ∧ (fed s = false → exec .heartbeatAdvance s = .next { s with fw := { s.fw with checkFailed := true } })
    ∧ (s.recov.resetting = true → s.fw.ready = false → 450000000 ≤ s.fw.osc →
        exec .bootReadyTimeout s = .next { s with recov := { s.recov with starved := true } })
    ∧ (s.recov.resetting = false ∨ s.fw.ready = true ∨ s.fw.osc < 450000000 → exec .bootReadyTimeout s = .next s)

/-! ### Error rings, fetches, the wait trace and the strandline -/

namespace Sys2Proof.Claim

/-- The fetch that a write starts: its function, the register's offset and what it fetches (R525, R536, R547). -/
def fetchOf (s : State) : Instr → Option (Nat × Nat × Fetch)
  | .healthErrFetch fn value =>
    some (fn, 0xA9018, ⟨4, ringOf s fn, bitsOf value.toNat 17 0, (ringAt s (ringOf s fn)).rd, none, 0⟩)
  | .healthCntFetch fn value =>
    some (fn, 0xAA020, ⟨1, bitsOf value.toNat 2 0, 0, s.trace.snap.tick,
      if fn ≠ 0 then some (fn - 1) else if bitOf value.toNat 3 then some (bitsOf value.toNat 7 4) else none, 0⟩)
  | .traceSlFetch fn value =>
    some (fn, 0xB0020, ⟨2, 0, min 16112 (bitsOf value.toNat 13 0), (regAt s (viewReg fn 0xB0010)).toNat,
      if fn ≠ 0 then some (fn - 1) else if bitOf value.toNat 20 then some (bitsOf value.toNat 19 16) else none, 0⟩)
  | _ => none

/-- A fetch in progress is over; no other fetch changes. -/
def FetchOver (s t : State) (kind fn : Nat) : Prop :=
  ∀ k, Sparse.get none t.trace.fetches k = if k = kind * 32 + fn then none else Sparse.get none s.trace.fetches k

/-- The fetch failed at the host: event 0xB030, its place in the pending store is free again, and no fetch runs. -/
def FetchFailed (s t : State) (kind fn : Nat) : Prop :=
  Recorded s t 0xB030 1296 ∧ FetchOver s t kind fn
    ∧ (fnAt t fn).ring.reserved = (fnAt s fn).ring.reserved - 1 ∧ t.mem = s.mem ∧ t.cores = s.cores

/-- The fetch is done: the bytes are in host memory and its status line comes. -/
def FetchDone (s t : State) (kind fn reg line : Nat) (bytes : List Byte) (body : List (Nat × Nat × Nat)) : Prop :=
  HostWrite.mk fn ((regAt s (viewReg fn reg)).toNat / 64 * 64) bytes ∈ t.host.written ∧ FetchOver s t kind fn
    ∧ LineComes s t fn line (fnCove fn) body ∧ t.mem = s.mem ∧ t.cores = s.cores

end Sys2Proof.Claim

/-- R521, R525, R536, R547, R551: SUMMARY_FLUSH appends a ring's pending summaries while it has room; HEALTH_ERR_RD_WRITE
consumes records, or is refused outside RD to WR. HEALTH_ERR_FETCH, HEALTH_CNT_FETCH and TRACE_SL_FETCH start a fetch
that reserves its status line, or are host-access errors while one runs; ERR_FETCH_END, COUNTER_FETCH_END and
SL_FETCH_END write what was asked for with its line, or end with an event: 0xB030 for a failed transfer, 0xE001 for
a counter fetch, 0xE003 for a strandline one. -/
def Obligations.RingsAndFetches : Prop :=
  ∀ s : State,
    (∀ ring,
      let r := ringAt s ring
      let mine := (s.trace.summaries.filter fun e => e.1 == ring).map (·.2)
      let room := errCapacity ring - (r.wr - r.rd)
      (17 ≤ ring ∨ mine.take room = [] → exec (.summaryFlush ring) s = .next s)
      ∧ (ring < 17 → mine.take room ≠ [] → ∃ t, exec (.summaryFlush ring) s = .next t
        ∧ (r.episode = none ∨ r.episode = some 0 →
          ringAt t ring = { r with
              wr := r.wr + (mine.take room).length, recs := r.recs ++ mine.take room,
              episode := if mine.drop room = [] then none else some 0 }
          ∧ (∀ k, k ≠ ring → ringAt t k = ringAt s k)
          ∧ t = { s with trace := { s.trace with
              rings := t.trace.rings,
              summaries := (s.trace.summaries.filter fun e => e.1 != ring)
                ++ (mine.drop room).map fun e => (ring, e) } })
        ∧ (∀ n, r.episode = some (n + 1) → Recorded s t 0xA042 1296
          ∧ (ring ≠ 16 → (ringAt t ring).wr = r.wr + (mine.take room).length
              ∧ (ringAt t ring).recs = r.recs ++ mine.take room))
        ∧ t.cores = s.cores ∧ t.mem = s.mem))
    ∧ (∀ (fn : Nat) (value : DWord), BarOpen s (.healthErrRdWrite fn value) →
      let n := ringOf s fn
      let r := ringAt s n
      (value.toNat < r.rd ∨ r.wr < value.toNat → ∃ t, exec (.healthErrRdWrite fn value) s = .next t
        ∧ HostErred s t fn 2 (viewOff fn 0xA9008))
      ∧ (r.rd ≤ value.toNat → value.toNat ≤ r.wr →
        exec (.healthErrRdWrite fn value) s = .next (updErrRing s n fun r =>
          { r with rd := value.toNat, recs := r.recs.drop (value.toNat - r.rd) })))
    ∧ (∀ i fn off f, fetchOf s i = some (fn, off, f) → BarOpen s i →
      let key := f.kind * 32 + fn
      let busy := (Sparse.get none s.trace.fetches key).isSome || storeFull s fn
      (busy = true → ∃ t, exec i s = .next t ∧ HostErred s t fn 2 (viewOff fn off))
      ∧ (busy = false → ∃ t, exec i s = .next t ∧ (fnAt t fn).ring.reserved = (fnAt s fn).ring.reserved + 1
        ∧ (∀ k, Sparse.get none t.trace.fetches k = if k = key then some f else Sparse.get none s.trace.fetches k)
        ∧ Logged s t))
    ∧ ∀ fn status : Nat,
      (∀ kind i, (kind = 4 ∧ i = Instr.errFetchEnd fn status) ∨ (kind = 1 ∧ i = .counterFetchEnd fn status)
          ∨ (kind = 2 ∧ i = .slFetchEnd fn status) →
        (fnAt s fn).d3hot = true ∨ Sparse.get none s.trace.fetches (kind * 32 + fn) = none → exec i s = .next s)
      ∧ ((fnAt s fn).d3hot = false →
        (∀ f, Sparse.get none s.trace.fetches (4 * 32 + fn) = some f →
          (status = 0 → ∃ t, exec (.errFetchEnd fn status) s = .next t
            ∧ FetchDone s t 4 fn 0xA9010 4 ((errRecords s f).flatMap recordBytes)
                [(0, 1, f.what), (1, 1, 0), (8, 8, f.start), (0x10, 4, (errRecords s f).length)])
          ∧ (status ≠ 0 → ∃ t, exec (.errFetchEnd fn status) s = .next t ∧ FetchFailed s t 4 fn))
        ∧ (∀ f, Sparse.get none s.trace.fetches (1 * 32 + fn) = some f →
          let b := fetchBytes s (if s.trace.snap.tick = f.start then s.trace.snap else s.trace.prevSnap) f
          (2 ≤ f.snaps → ∃ t, exec (.counterFetchEnd fn status) s = .next t ∧ Recorded s t 0xE001 1296
            ∧ FetchOver s t 1 fn ∧ t.host.hosterr = s.host.hosterr)
          ∧ (f.snaps < 2 → status = 0 → ∃ t, exec (.counterFetchEnd fn status) s = .next t
            ∧ FetchDone s t 1 fn 0xAA018 5 b [(0, 1, 1), (1, 1, 0), (8, 8, f.start), (0x10, 4, b.length)])
          ∧ (f.snaps < 2 → status ≠ 0 → ∃ t, exec (.counterFetchEnd fn status) s = .next t
            ∧ FetchFailed s t 1 fn ∧ Recorded s t 0xE001 1296))
        ∧ (∀ f, Sparse.get none s.trace.fetches (2 * 32 + fn) = some f →
          let seen := (s.trace.slEntries.filter fun e =>
            decide (f.start ≤ e.seq) && decide (e.seq < s.trace.slDurable)).take f.count
          let l := seen.filter fun e => match f.filter with | some c => e.event.cove == c | none => true
          let first := (l.head?.map (·.seq)).getD f.start
          (status = 0 → ∃ t, exec (.slFetchEnd fn status) s = .next t
            ∧ FetchDone s t 2 fn 0xB0018 5 (l.flatMap strandBytes)
                [(0, 1, 2), (1, 1, 0), (8, 8, first), (0x10, 4, l.length)])
          ∧ (status = 4 → ∃ t, exec (.slFetchEnd fn status) s = .next t ∧ Recorded s t 0xE003 1296
            ∧ FetchOver s t 2 fn ∧ t.host.hosterr = s.host.hosterr)
          ∧ (status ≠ 0 → status ≠ 4 → ∃ t, exec (.slFetchEnd fn status) s = .next t
            ∧ FetchFailed s t 2 fn ∧ Recorded s t 0xE003 1296)))

/-- R540, R542, R545, R550: TRACE_C_WT_CTRL_WRITE sets the control word, and empties the ring when tracing goes on;
TRACE_C_WT_RD_WRITE consumes records. WAIT_RECORD_FORWARD writes a buffered record into its cove's ring in HBM, or drops
it: ring full, ring outside the cove's units, or no maintenance slots (event 0xE002 once per episode).
STRANDLINE_WRITE makes the oldest queued entry durable, with a header copy every 256 entries, or fails (event 0xE004). -/
def Obligations.WaitTraceAndStrandline : Prop :=
  ∀ s : State,
    (∀ (c fn : Nat) (value : Word), BarOpen s (.traceCWtCtrlWrite c fn value) →
      let w := waitTraceAt s c
      let ctrl := value &&& 0x001F3F03#32
      let off := fun v : Word => bitsOf v.toNat 1 0 = 0 ∨ bitsOf v.toNat 1 0 = 3
      let on := off w.ctrl ∧ ¬ off value
      (on → exec (.traceCWtCtrlWrite c fn value) s = .next (updWaitTrace s c fun w =>
        { w with ctrl := ctrl, wr := 0, rd := 0, dropState := false, recs := [] }))
      ∧ (¬ on → exec (.traceCWtCtrlWrite c fn value) s = .next (updWaitTrace s c fun w => { w with ctrl := ctrl })))
    ∧ (∀ (c fn : Nat) (value : DWord), BarOpen s (.traceCWtRdWrite c fn value) →
      let w := waitTraceAt s c
      (value.toNat < w.rd ∨ w.wr < value.toNat → ∃ t, exec (.traceCWtRdWrite c fn value) s = .next t
        ∧ HostErred s t fn 2 (wtOff c fn 0x20))
      ∧ (w.rd ≤ value.toNat → value.toNat ≤ w.wr → exec (.traceCWtRdWrite c fn value) s = .next
          (updWaitTrace s c fun w => { w with rd := value.toNat, recs := w.recs.drop (value.toNat - w.rd) })))
    ∧ (∀ die, Sparse.get [] s.trace.dieBuf die = [] →
        ∃ t, exec (.waitRecordForward die) s = .next t ∧ (∀ d, Sparse.get [] t.trace.dieBuf d = Sparse.get [] s.trace.dieBuf d)
          ∧ t = { s with trace := { s.trace with dieBuf := t.trace.dieBuf } })
    ∧ (∀ die c r, Sparse.get [] s.trace.dieBuf die = [(c, r)] → ∃ t, exec (.waitRecordForward die) s = .next t
      ∧ (∀ d, Sparse.get [] t.trace.dieBuf d = if d = die then [] else Sparse.get [] s.trace.dieBuf d)
      ∧ t.cores = s.cores ∧ t.coves = s.coves ∧ t.host.regs = s.host.regs
      ∧ let w := waitTraceAt s c
        let dropped := waitTraceAt t c = { w with dropped := satTo 32 (w.dropped + 1), dropState := true }
          ∧ t.mem = s.mem ∧ (w.dropState = false → Recorded s t 0xE002 1296)
          ∧ (w.dropState = true → t.host = s.host)
        (wtSize w.inForce = none → waitTraceAt t c = w ∧ t.mem = s.mem)
        ∧ ∀ n, wtSize w.inForce = some n →
          (2 ^ n ≤ w.wr - w.rd → dropped)
          ∧ (w.wr - w.rd < 2 ^ n → coveRange s c (wtReg c 0x10) (32 * 2 ^ n) = none → dropped)
          ∧ ∀ base, w.wr - w.rd < 2 ^ n → coveRange s c (wtReg c 0x10) (32 * 2 ^ n) = some base →
            (hasMaintenance s c = false → dropped)
            ∧ (hasMaintenance s c = true →
              t.mem = (hbmStore s (base + 32 * (w.wr % 2 ^ n)) (waitBytes { r with dropped := w.dropState })).mem
              ∧ waitTraceAt t c = { w with
                  wr := w.wr + 1, recs := w.recs ++ [{ r with dropped := w.dropState }], dropState := false }
              ∧ t.host = s.host))
    ∧ ∀ ok : Bool,
      (s.trace.slFail = true ∨ s.trace.slQueue = [] → exec (.strandlineWrite ok) s = .next s)
      ∧ ∀ e rest, s.trace.slFail = false → s.trace.slQueue = e :: rest → ∃ t, exec (.strandlineWrite ok) s = .next t
        ∧ t.cores = s.cores ∧ t.mem = s.mem
        ∧ (ok = false → t.trace.slFail = true ∧ Recorded s t 0xE004 1296 ∧ t.trace.slQueue = s.trace.slQueue
            ∧ t.trace.slDurable = s.trace.slDurable)
        ∧ (ok = true →
          let all := s.trace.slEntries ++ [e]
          t.trace.slEntries = all.drop (all.length - 16112) ∧ t.trace.slDurable = e.seq + 1
          ∧ t.trace.slCheckpoint = (if (e.seq + 1) % 256 = 0 then e.seq + 1 else s.trace.slCheckpoint)
          ∧ (s.trace.slSummaries = [] → t = { s with trace := { s.trace with
              slQueue := rest, slEntries := t.trace.slEntries, slDurable := t.trace.slDurable,
              slCheckpoint := t.trace.slCheckpoint } })
          ∧ (∀ x l n, s.trace.slSummaries = x :: l → s.trace.slEpisode = some (n + 1) → Recorded s t 0xA042 1296))

/-! ### The host interface -/

/-- R553 to R557, R581: CONFIG_REQUEST reads the function's configuration space, all ones for an absent function, and writes
it: the VF enable and the VF count of the SR-IOV capability act (event 0xB004). PCIE_LINK_UP and PCIE_LINK_RESET set
the link (events 0xB001, 0xB002); the reset, and VF_FLR for its function, stop the ring and the load queue and clear the
host window (event 0xB003). PF_FLR is a module reset of kind 5. D3HOT_ENTRY and D0_RETURN set the power state
(event 0xB005). -/
def Obligations.LinkAndFunctions : Prop :=
  ∀ s : State,
    (∀ (fn offset : Nat) (write : Bool) (value : Word),
      let off := offset % 4096 / 4 * 4
      (s.host.linkUp = false ∨ cfgRetry s = true → exec (.configRequest fn write offset value) s = .next s)
      ∧ (s.host.linkUp = true → cfgRetry s = false →
        (fnPresent s fn = false → exec (.configRequest fn true offset value) s = .next s
          ∧ ∃ t, exec (.configRequest fn false offset value) s = .next t
            ∧ t = { s with host := { s.host with readData := 0xFFFFFFFF#64 } })
        ∧ (fnPresent s fn = true →
          (∃ t, exec (.configRequest fn false offset value) s = .next t
            ∧ t = { s with host := { s.host with readData := t.host.readData }, free := t.free }
            ∧ (off = 0 → t.host.readData =
                if fn = 0 then BitVec.ofNat 64 (s.host.vendor.toNat + 0x6401 * 65536) else 0xFFFFFFFF#64)
            ∧ (off = 0x34 → t.host.readData = 0x40#64) ∧ (off = 0x40 → t.host.readData = 0x34801#64)
            ∧ (off = 0x48 → t.host.readData = 0x20010#64)
            ∧ (fn = 0 → off = 0x10 → t.host.readData = BitVec.ofNat 64 (cfgAt s 0 0x10 / 2 ^ 25 * 2 ^ 25 + 4))
            ∧ (fn = 0 → off = 0x170 → t.host.readData = BitVec.ofNat 64 s.host.numVfs)
            ∧ (fn = 0 → off = 0x178 → t.host.readData = BitVec.ofNat 64 (0x6402 * 65536)))
          ∧ (let one := updFn s fn fun f => { f with config := Sparse.set 0#32 f.config (off / 4) value }
            (off = 0x44 → bitsOf value.toNat 1 0 = 3 →
              exec (.configRequest fn true offset value) s = exec (.d3hotEntry fn) one)
            ∧ (off = 0x44 → bitsOf value.toNat 1 0 = 0 →
              exec (.configRequest fn true offset value) s = exec (.d0Return fn) one)
            ∧ (off = 0x50 → value.getLsbD 15 = true →
              exec (.configRequest fn true offset value) s = exec (if fn = 0 then .pfFlr else .vfFlr fn) one))
          ∧ (off ≠ 0x44 → (off = 0x50 → value.getLsbD 15 = false) → ∃ t, exec (.configRequest fn true offset value) s = .next t
            ∧ Sparse.get 0#32 (fnAt t fn).config (off / 4) = value ∧ t.cores = s.cores ∧ t.mem = s.mem
            ∧ (fn = 0 → off = 0x168 → t.host.vfEnable = value.getLsbD 0 ∧ t.host.numVfs = s.host.numVfs
                ∧ (s.host.vfEnable ≠ value.getLsbD 0 → Recorded s t 0xB004 1296))
            ∧ (fn = 0 → off = 0x170 → s.host.vfEnable = false →
                t.host.numVfs = min 16 (bitsOf value.toNat 15 0) ∧ t.host.vfEnable = false)
            ∧ (fn ≠ 0 ∨ (off ≠ 0x168 ∧ off ≠ 0x170) →
                t = { s with host := { s.host with fns := t.host.fns } })))))
    ∧ (∀ rate width, (s.pwr.powerGood = false ∨ s.host.linkUp = true → exec (.pcieLinkUp rate width) s = .next s)
        ∧ (s.pwr.powerGood = true → s.host.linkUp = false → ∃ t, exec (.pcieLinkUp rate width) s = .next t
          ∧ Recorded s t 0xB001 1296 ∧ t.host.linkUp = true ∧ t.host.rate = rate ∧ t.host.width = width
          ∧ t.cores = s.cores ∧ t.mem = s.mem ∧ t.coves = s.coves))
    ∧ (∃ t, exec .pcieLinkReset s = .next t ∧ Recorded s t 0xB002 1296 ∧ t.host.linkUp = false
      ∧ t.host.vfEnable = false ∧ t.host.numVfs = 0
      ∧ ((∀ i k, (ctxAt s i k).wainQ = []) → t.cores = s.cores ∧ t.mem = s.mem)
      ∧ (∀ fn, fn < 17 → (fnAt t fn).ring.ctrl = 0#32 ∧ (fnAt t fn).ring.wr = 0 ∧ (fnAt t fn).ring.rd = 0
          ∧ (fnAt t fn).config = [] ∧ (fnAt t fn).d3hot = false ∧ (fnAt t fn).writeHeld = none
          ∧ (fnAt t fn).readLatch = none)
      ∧ (∀ q, q ≤ 16 → queueAt t q = LoadQueue.reset)
      ∧ (∀ c j, c < 16 → j < 32 → regAt t (cvReg c (0xB00 + 8 * j)) = 0#64)
      ∧ ∀ k, k < 16 → Sparse.get .down t.load.conns k = .down)
    ∧ (∀ fn, (fn = 0 ∨ 17 ≤ fn ∨ fnPresent s fn = false → exec (.vfFlr fn) s = .next s)
      ∧ (1 ≤ fn → fn < 17 → fnPresent s fn = true → ∃ t, exec (.vfFlr fn) s = .next t ∧ Recorded s t 0xB003 1296
        ∧ (fnAt t fn).ring.ctrl = 0#32 ∧ (fnAt t fn).ring.wr = 0 ∧ (fnAt t fn).ring.rd = 0 ∧ (fnAt t fn).config = []
        ∧ (fnAt t fn).d3hot = false ∧ queueAt t (fn - 1) = LoadQueue.reset
        ∧ (∀ q, q ≤ 16 → q ≠ fn - 1 → queueAt t q = queueAt s q)
        ∧ (∀ j, j < 32 → regAt t (cvReg (fn - 1) (0xB00 + 8 * j)) = 0#64)
        ∧ ((∀ i k, (ctxAt s i k).wainQ = []) → t.cores = s.cores ∧ t.mem = s.mem)))
    ∧ (s.pwr.powerGood = false ∨ s.fw.romHold = true → exec .pfFlr s = .next s)
    ∧ (s.pwr.powerGood = true → s.fw.romHold = false → ∃ t, exec .pfFlr s = .next t ∧ ResetStarted s t 5 0 ∧ t.host.vfEnable = false)
    ∧ ∀ fn, (17 ≤ fn ∨ fnPresent s fn = false ∨ (fnAt s fn).d3hot = true → exec (.d3hotEntry fn) s = .next s)
      ∧ (fn < 17 → fnPresent s fn = true → (fnAt s fn).d3hot = false → ∃ t, exec (.d3hotEntry fn) s = .next t
        ∧ Recorded s t 0xB005 1296 ∧ (fnAt t fn).d3hot = true
        ∧ (fn = 0 ∨ (∀ i k, (ctxAt s i k).wainQ = []) → t.cores = s.cores ∧ t.mem = s.mem))
      ∧ (17 ≤ fn ∨ (fnAt s fn).d3hot = false → exec (.d0Return fn) s = .next s)
      ∧ (fn < 17 → (fnAt s fn).d3hot = true → ∃ t, exec (.d0Return fn) s = .next t ∧ Recorded s t 0xB005 1296
        ∧ (fnAt t fn).d3hot = false ∧ (∃ l, (fnAt s fn).ring.pending = l ++ (fnAt t fn).ring.pending)
        ∧ t.cores = s.cores ∧ t.mem = s.mem)

/-- R22, R23, R560, R562, R566, R590: an access of a wrong size or alignment is a host-access error of kind 1. A 4-byte write
of a 64-bit register's lower half is held, its upper half completes the write; a whole write acts as the row of its
register does. A read answers the register, with the upper half latched, all ones where nothing answers and 0 where
safe harbour closes the block. SRING_ENABLE takes the ring's control and starts it empty; SRING_RD_WRITE consumes
lines, STATUS_LINE_WRITE writes the oldest waiting one, and TIDE_OVERRIDE_WRITE copies role and epoch to the boot record. -/
def Obligations.RegistersAndRings : Prop :=
  ∀ s : State,
    (∀ (fn off size : Nat) (v : DWord), BarOpen s (.registerWrite fn off size v) →
      let one := updFn s fn fun f => { f with writeHeld := none }
      (goodAccess off size = false → ∃ t, exec (.registerWrite fn off size v) s = .next t ∧ HostErred s t fn 1 off)
      ∧ (goodAccess off size = true → size = 4 →
        (halfAt fn off = .none → ∃ t, exec (.registerWrite fn off 4 v) s = .next t ∧ HostErred s t fn 2 off)
        ∧ (halfAt fn off = .reserved → exec (.registerWrite fn off 4 v) s = .next s)
        ∧ (∀ a, halfAt fn off = .lower a → exec (.registerWrite fn off 4 v) s = .next (updFn s fn fun f =>
            { f with writeHeld := some (off, v.setWidth 32) }))
        ∧ (∀ a, halfAt fn off = .whole a →
            exec (.registerWrite fn off 4 v) s = .next (regWrite s fn a off (v.toNat % 2 ^ 32)))
        ∧ ∀ a, halfAt fn off = .upper a → exec (.registerWrite fn off 4 v) s = .next
            (regWrite s fn a (off - 4) (lowNow s fn a + v.toNat % 2 ^ 32 * 2 ^ 32)))
      ∧ (goodAccess off size = true → size = 8 → ∀ a, halfAt fn off = .lower a →
          exec (.registerWrite fn off 8 v) s = .next (regWrite one fn a off v.toNat))
      ∧ (fn = 0 → size = 8 → (off = 0x10058 → exec (.registerWrite fn off size v) s = exec (.tideDataWrite v) one)
          ∧ (off = 0x10010 → exec (.registerWrite fn off size v) s = exec (.tideOverrideWrite 0 v) one))
      ∧ (fn = 0 → size = 4 → off = 0xE0008 → exec (.registerWrite fn off size v) s = .next { s with
          pwr := { s.pwr with cap := max 1500 (min 7200 (bitsOf v.toNat 12 0)) } }))
    ∧ (∀ (fn off a : Nat) (lo : Word) (v : DWord), answers s fn = true → openIn s fn (openAt off) = true →
        s.recov.moving = none → (fnAt s fn).writeHeld = some (off - 4, lo) → goodAccess off 4 = true →
        halfAt fn off = .upper a → exec (.registerWrite fn off 4 v) s = .next (regWrite
          (updFn s fn fun f => { f with writeHeld := none }) fn a (off - 4)
          (lo.toNat + v.toNat % 2 ^ 32 * 2 ^ 32)))
    ∧ (∀ fn off size,
      (answers s fn = false → ∃ t, exec (.registerRead fn off size) s = .next t
        ∧ t = { s with host := { s.host with readData := BitVec.ofNat 64 (allOnes size) } })
      ∧ (answers s fn = true → openIn s fn (openAt off) = false → ∃ t, exec (.registerRead fn off size) s = .next t
        ∧ t = { s with host := { s.host with readData := 0#64 } })
      ∧ (answers s fn = true → openIn s fn (openAt off) = true → (fnAt s fn).writeHeld = none →
        (goodAccess off size = false → ∃ t, exec (.registerRead fn off size) s = .next t ∧ Recorded s t 0xB010 1296
          ∧ t.host.readData = BitVec.ofNat 64 (allOnes size) ∧ t.cores = s.cores ∧ t.mem = s.mem)
        ∧ (goodAccess off size = true → ∀ a, a ≠ 0xA8078 → ¬ (a / 0x10000 = 2 ∧ a % 0x1000 = 0xD08) →
          (size = 4 → halfAt fn off = .whole a → ∃ t, exec (.registerRead fn off size) s = .next t
            ∧ t = { s with
                host := { s.host with readData := BitVec.ofNat 64 (regRead s fn a) }, free := s.free + 1 })
          ∧ (size = 4 → halfAt fn off = .lower a → ∃ t, exec (.registerRead fn off size) s = .next t
            ∧ t.host.readData = BitVec.ofNat 64 (regRead s fn a % 2 ^ 32)
            ∧ (fnAt t fn).readLatch = some (off, BitVec.ofNat 32 (regRead s fn a / 2 ^ 32))
            ∧ t = { s with host := { s.host with readData := t.host.readData, fns := t.host.fns }, free := s.free + 1 })
          ∧ (size = 4 → halfAt fn off = .upper a → ∀ h, (fnAt s fn).readLatch = some (off - 4, h) → ∃ t,
            exec (.registerRead fn off size) s = .next t ∧ t.host.readData = h.setWidth 64
            ∧ (fnAt t fn).readLatch = none
            ∧ t = { s with host := { s.host with readData := t.host.readData, fns := t.host.fns }, free := s.free + 1 })
          ∧ (size = 8 → halfAt fn off = .lower a → ∃ t, exec (.registerRead fn off size) s = .next t
            ∧ t = { s with
                host := { s.host with readData := BitVec.ofNat 64 (regRead s fn a) }, free := s.free + 1 }))))
    ∧ (∀ (fn : Nat) (value : Word), BarOpen s (.sringEnable fn value) →
      let r := (fnAt s fn).ring
      let edge := value.getLsbD 5 && !r.ctrl.getLsbD 5
      ∃ t, exec (.sringEnable fn value) s = .next t ∧ (fnAt t fn).ring.ctrl = value &&& 0xFF#32
        ∧ (r.pending = [] → (edge = true → (fnAt t fn).ring.wr = 0 ∧ (fnAt t fn).ring.rd = 0)
            ∧ (edge = false → (fnAt t fn).ring.wr = r.wr ∧ (fnAt t fn).ring.rd = r.rd))
        ∧ (edge = true → s.host.linkUp = true → (fnAt s fn).d3hot = false → 6 ≤ bitsOf value.toNat 4 0 →
            bitsOf value.toNat 4 0 ≤ 16 → r.pending.length ≤ 64 →
            (fnAt t fn).ring.pending = [] ∧ (fnAt t fn).ring.wr = r.pending.length)
        ∧ t = { s with host := { s.host with fns := t.host.fns, written := t.host.written } })
    ∧ (∀ (fn : Nat) (value : DWord), BarOpen s (.sringRdWrite fn value) →
      let r := (fnAt s fn).ring
      (r.wr < value.toNat ∨ value.toNat < r.rd → ∃ t, exec (.sringRdWrite fn value) s = .next t
        ∧ HostErred s t fn 2 (ringOff fn fn 0x18))
      ∧ (r.rd ≤ value.toNat → value.toNat ≤ r.wr → ∃ t, exec (.sringRdWrite fn value) s = .next t
        ∧ (fnAt t fn).ring.rd = value.toNat ∧ (fnAt t fn).ring.dropEpisode = false
        ∧ (r.pending = [] → (fnAt t fn).ring.wr = r.wr)
        ∧ t = { s with host := { s.host with fns := t.host.fns, written := t.host.written } }))
    ∧ (∀ fn, (17 ≤ fn → exec (.statusLineWrite fn) s = .next s)
      ∧ (fn < 17 → ∃ t, exec (.statusLineWrite fn) s = .next t
        ∧ (∀ l rest, (fnAt s fn).ring.pending = l :: rest → ringWritable s fn = true →
            (fnAt t fn).ring.pending = rest ∧ (fnAt t fn).ring.wr = (fnAt s fn).ring.wr + 1
            ∧ t.host.written = HostWrite.mk fn ((regAt s (ringBaseReg fn)).toNat / 64 * 64
                + 64 * ((fnAt s fn).ring.wr % 2 ^ ringSize (fnAt s fn).ring))
                (lineBytes l (fnAt s fn).ring.wr) :: s.host.written)
        ∧ ((fnAt s fn).ring.pending = [] ∨ ringWritable s fn = false → (fnAt t fn).ring.wr = (fnAt s fn).ring.wr
            ∧ (fnAt t fn).ring.pending = (fnAt s fn).ring.pending ∧ t.host.written = s.host.written)
        ∧ t = { s with host := { s.host with fns := t.host.fns, written := t.host.written } }))
    ∧ ∀ (which : Nat) (value : DWord), BarOpen s (.tideOverrideWrite which value) →
      ∃ t, exec (.tideOverrideWrite which value) s = .next t
        ∧ t.tide = (if which = 0 then { s.tide with ctrl := value &&& 0xFFFF_FFFF_0003#64 }
            else { s.tide with epoch := value &&& 0xFFFF_FFFF_FFF0_0000#64 })
        ∧ t.fw.bootRec = { s.fw.bootRec with
            seq := s.fw.bootRec.seq + 1, kind := 4, override := true,
            ovCtrl := t.tide.ctrl &&& 0xFFFF_0003#64, ovEpoch := t.tide.epoch }
        ∧ t.cores = s.cores ∧ t.mem = s.mem ∧ t.coves = s.coves

/-! ### Firmware commands and live update -/

namespace Sys2Proof.Claim

/-- What a firmware command starts as: operation, slot, the code it will end with, and what it writes (R604 to R607). -/
def fwStart (s : State) : Instr → Option FwBusy
  | .fwWriteImage slot image ok => some ⟨1, slot % 2,
      if slot % 2 = s.fw.running then 5 else if ok = false then 3 else if fwLen s ≠ imgLength image then 2
      else if (imageFails s image).isSome then 1 else 0, imgLength image, some image, []⟩
  | .fwWriteSettings store ok => some ⟨2, 0,
      if ok = false then 3 else if fwLen s ≠ storeLen store then 2
      else if (match s.fw.image with | some i => canRead i store | none => false) then 0 else 6,
      storeLen store, none, store.take (storeLen store)⟩
  | .fwReadSettings => some ⟨3, 0, if fwLen s < storeLen s.fw.taken then 2 else 0, storeLen s.fw.taken, none,
      s.fw.taken.take (storeLen s.fw.taken)⟩
  | .fwSelectSlot slot => some ⟨4, slot % 2,
      if fwLen s ≠ 0 then 2 else if slotValid s (slot % 2) then 0 else 1, 0, none, []⟩
  | .fwLiveUpdate => some ⟨5, 1 - s.fw.running, if fwLen s = 0 ∧ (liveImage s).isSome then 0 else 2, 0, none, []⟩
  | .fwSafeHarbourRequest => some ⟨6, 0, if fwLen s = 0 then 0 else 2, 0, none, []⟩
  | _ => none

/-- A firmware command has ended with a code (R578): FW_RESULT says so, and its place in the pending store is free. -/
def FwEnds (s t : State) (b : FwBusy) (code : Nat) : Prop :=
  t.fw.result = BitVec.ofNat 32 (b.op + 256 * code) ∧ t.fw.busy = none ∧ t.fw.live = none
    ∧ (fnAt t 0).ring.reserved = (fnAt s 0).ring.reserved - 1 ∧ t.cores = s.cores ∧ t.mem = s.mem

end Sys2Proof.Claim

/-- R577, R578, R604 to R610: each FW_CMD row starts its operation with its checks' code, reserving a status line, or ends at
once with code 7 while one runs; FW_COMMAND_END writes the image (event 0x000A), both settings copies with the next
sequence number (event 0x000B), the settings to the host, the slot to run next or the safe-harbour request, or ends with
its code. LIVE_UPDATE_UNIT_SWAP swaps unit after unit and order after order, skips one that carries traffic
(event 0x000D), moves the headland role at order 5, where the update is applied, and ends with event 0x000C. It waits while a
recovery is in progress or the die's cove needs its controller (log entry 92). -/
def Obligations.FirmwareCommands : Prop :=
  ∀ s : State,
    (∀ i b, fwStart s i = some b → BarOpen s i →
      (s.fw.busy.isSome = true → exec i s = .next { s with fw := { s.fw with
          result := BitVec.ofNat 32 (b.op + 256 * 7) } })
      ∧ (s.fw.busy = none → storeFull s 0 = true → ∃ t, exec i s = .next t ∧ HostErred s t 0 2 0xD0028)
      ∧ (s.fw.busy = none → storeFull s 0 = false → ∃ t, exec i s = .next t
        ∧ t.fw = { s.fw with busy := some b, live := if b.op = 5 ∧ b.code = 0 then some ⟨1, 0, 0, false⟩ else s.fw.live }
        ∧ (fnAt t 0).ring.reserved = (fnAt s 0).ring.reserved + 1
        ∧ (b.code = 3 → Recorded s t 0xB030 1296) ∧ Logged { s with fw := t.fw } t))
    ∧ (∀ ok, s.fw.busy = none ∨ s.fw.live.isSome = true → exec (.fwCommandEnd ok) s = .next s)
    ∧ (∀ b, s.fw.busy = some b → s.fw.live = none →
      (b.code ≠ 0 → ∀ ok, ∃ t, exec (.fwCommandEnd ok) s = .next t ∧ FwEnds s t b b.code
        ∧ LineComes s t 0 7 15 [(0, 1, b.op), (1, 1, b.code), (2, 1, b.slot), (8, 8, 0)])
      ∧ (b.code = 0 → b.op = 1 →
        (∃ t, exec (.fwCommandEnd true) s = .next t ∧ FwEnds s t b 0 ∧ Recorded s t 0x000A 1296
          ∧ slotImage t b.slot = b.image ∧ slotCount t.fw.bootRec b.slot = 0
          ∧ (b.slot = s.fw.bootRec.next → t.fw.bootRec.next = s.fw.running))
        ∧ ∃ t, exec (.fwCommandEnd false) s = .next t ∧ FwEnds s t b 4 ∧ slotImage t b.slot = none)
      ∧ (b.code = 0 → b.op = 2 →
        (∃ t, exec (.fwCommandEnd true) s = .next t ∧ FwEnds s t b 0 ∧ Recorded s t 0x000B 1296
          ∧ t.fw.settingsA = sealStore b.store (max (storedSeq s.fw.settingsA) (storedSeq s.fw.settingsB) + 1)
          ∧ t.fw.settingsB = t.fw.settingsA)
        ∧ ∃ t, exec (.fwCommandEnd false) s = .next t ∧ FwEnds s t b 4
          ∧ (s.fw.running = 0 → t.fw.settingsB = [] ∧ t.fw.settingsA = s.fw.settingsA)
          ∧ (s.fw.running ≠ 0 → t.fw.settingsA = [] ∧ t.fw.settingsB = s.fw.settingsB))
      ∧ (b.code = 0 → b.op = 3 →
        (∃ t, exec (.fwCommandEnd true) s = .next t ∧ FwEnds s t b 0
          ∧ HostWrite.mk 0 ((regAt s 0xD0018).toNat / 64 * 64) b.store ∈ t.host.written
          ∧ LineComes s t 0 7 15 [(0, 1, 3), (1, 1, 0), (2, 1, b.slot), (8, 8, b.moved)])
        ∧ ∃ t, exec (.fwCommandEnd false) s = .next t ∧ FwEnds s t b 3 ∧ Recorded s t 0xB030 1296)
      ∧ (b.code = 0 → b.op = 4 →
        (∃ t, exec (.fwCommandEnd true) s = .next t ∧ FwEnds s t b 0 ∧ t.fw.bootRec.next = b.slot
          ∧ slotCount t.fw.bootRec b.slot = 0)
        ∧ ∃ t, exec (.fwCommandEnd false) s = .next t ∧ FwEnds s t b 4 ∧ t.fw.bootRec = s.fw.bootRec)
      ∧ (b.code = 0 → b.op = 6 →
        (∃ t, exec (.fwCommandEnd true) s = .next t ∧ FwEnds s t b 0 ∧ t.fw.bootRec.safeHarbour = true)
        ∧ ∃ t, exec (.fwCommandEnd false) s = .next t ∧ FwEnds s t b 4 ∧ t.fw.bootRec = s.fw.bootRec))
    ∧ (∀ ok, s.fw.busy = none ∨ s.fw.live = none ∨ s.recov.current.isSome = true →
        exec (.liveUpdateUnitSwap ok) s = .next s)
    ∧ (∀ ok l, s.fw.live = some l → l.order = 1 → controllerNeeded s l.unit = true →
        exec (.liveUpdateUnitSwap ok) s = .next s)
    ∧ ∀ b l, s.fw.busy = some b → s.fw.live = some l → s.recov.current = none →
      (l.order = 1 → controllerNeeded s l.unit = false) →
      let last := decide (liveUnits l.order ≤ l.unit + 1)
      (liveSkips s l.order l.unit = true → ∀ ok, ∃ t, exec (.liveUpdateUnitSwap ok) s = .next t
        ∧ Recorded s t 0x000D 1296 ∧ t.cores = s.cores ∧ t.mem = s.mem
        ∧ (last = false → t.fw.live = some { l with unit := l.unit + 1, skipped := l.skipped + 1 })
        ∧ (last = true → l.order = 6 → t.fw.live = some { l with order := 7, unit := 0, skipped := l.skipped + 1 })
        ∧ (last = true → l.order = 7 → FwEnds s t b 0 ∧ Recorded s t 0x000C 1296))
      ∧ (liveSkips s l.order l.unit = false →
        (l.order ≠ 5 → last = false → exec (.liveUpdateUnitSwap true) s = .next { s with fw := { s.fw with
            live := some { l with unit := l.unit + 1 } } })
        ∧ (l.order < 7 → l.order ≠ 5 → last = true →
          exec (.liveUpdateUnitSwap true) s = .next { s with fw := { s.fw with
            live := some { l with order := l.order + 1, unit := 0 } } })
        ∧ (l.order = 7 → last = true → ∃ t, exec (.liveUpdateUnitSwap true) s = .next t ∧ FwEnds s t b 0
          ∧ Recorded s t 0x000C 1296)
        ∧ (l.order = 5 → ∃ t, exec (.liveUpdateUnitSwap true) s = .next t ∧ t.fw.running = 1 - s.fw.running
          ∧ t.fw.live = some { l with order := 6, unit := 0, applied := true }
          ∧ t.fw.image = slotImage s (1 - s.fw.running) ∧ t.fw.bootRec.next = 1 - s.fw.running
          ∧ t.fw.bootRec.kind = 1 ∧ t.fw.passed = false ∧ t.fw.checkFrom = s.fw.osc
          ∧ (∀ n, s.recov.headland = 0 → nextHeadland s = some n →
              t.recov.headland = n ∧ Recorded s t 0xA031 1296)
          ∧ t.cores = s.cores ∧ t.mem = s.mem)
        ∧ ∃ t, exec (.liveUpdateUnitSwap false) s = .next t ∧ FwEnds s t b 4 ∧ Recorded s t 0x000C 1296
          ∧ (l.order = 1 ∨ l.order = 2 → Sparse.get 0 s.health.dieFence l.unit = 0 →
              Sparse.get 0 t.health.dieFence l.unit = 3)
          ∧ (l.order = 4 → Sparse.get 0 s.health.shoreFence (l.unit + 1) = 0 →
              Sparse.get 0 t.health.shoreFence (l.unit + 1) = 3)
          ∧ (l.order = 4 ∨ l.order = 5 → ModuleFatal s t 15))

/-! ### Power, starts and readiness -/

namespace Sys2Proof.Claim

/-- Every rail has turned off (R500): what stays is in non-volatile memory or outside the module. -/
def PoweredOff (s t : State) : Prop :=
  t.cores = [] ∧ t.coves = [] ∧ t.mem = MemState.reset ∧ t.pwr.powerGood = false ∧ t.fw.ready = false
    ∧ t.tide.marked = false ∧ t.recov = RecovState.reset ∧ t.tray = TrayState.reset
    ∧ t.fw.bootRec = s.fw.bootRec ∧ t.fw.otherRec = s.fw.otherRec ∧ t.fw.logCount = s.fw.logCount ∧ t.fw.imageA = s.fw.imageA ∧ t.fw.imageB = s.fw.imageB
    ∧ t.fw.settingsA = s.fw.settingsA ∧ t.fw.settingsB = s.fw.settingsB ∧ t.fw.fuses = s.fw.fuses
    ∧ t.trace.slEntries = s.trace.slEntries ∧ t.trace.slSeq = s.trace.slDurable ∧ t.trace.slQueue = []
    ∧ t.health.nvm = s.health.nvm
    ∧ t.health.ledger = (Sparse.get LedgerCopy.reset s.health.nvm (lastLedgerSlot s)).ledger
    ∧ t.pwr.input = s.pwr.input ∧ t.pwr.enMade = s.pwr.enMade ∧ t.pwr.converters = s.pwr.converters

/-- Power-fail (R639, R642, R643): the converters are off, the cores go on, and event 0xD040 stands at the head of the
strandline queue. -/
def PowerFails (s t : State) : Prop :=
  t.pwr.converters = false ∧ t.pwr.powerFail = true ∧ t.pwr.powerGood = s.pwr.powerGood ∧ Recorded s t 0xD040 1296
    ∧ (s.trace.slFail = false →
        t.trace.slQueue.map (·.event.code) = 0xD040 :: s.trace.slQueue.map (·.event.code)
        ∧ t.trace.slSeq = s.trace.slSeq + 1)
    ∧ t.cores = s.cores ∧ t.mem = s.mem ∧ t.coves = s.coves

end Sys2Proof.Claim

/-- R500, R639 to R643: INPUT_TURN_ON starts the converters with the enable contact made, no overvoltage hold and no thermal shutdown,
CONVERTER_ENABLE_CHANGE and INPUT_OVERVOLTAGE_CLEAR restart them or turn them off; INPUT_UNDERVOLTAGE and
INPUT_OVERVOLTAGE signal power-fail (event 0xD040); INTERMEDIATE_RAIL_LOSS and HOLDUP_END turn every rail off. -/
def Sys2Proof.Claim.InputPower : Prop :=
  ∀ s : State,
    (s.pwr.converters = true → exec .inputTurnOn s = .next s)
    ∧ (s.pwr.converters = false → exec .inputTurnOn s = .next { s with pwr := { s.pwr with
        input := true, converters := s.pwr.enMade && !s.pwr.overVoltage && !s.pwr.shutdown } })
    ∧ (s.pwr.converters = false →
        exec .inputUndervoltage s = .next { s with pwr := { s.pwr with input := false } }
        ∧ exec .inputOvervoltage s = .next { s with pwr := { s.pwr with overVoltage := true } })
    ∧ (s.pwr.converters = true →
        (∃ t, exec .inputUndervoltage s = .next t ∧ t.pwr.input = false ∧ PowerFails s t)
        ∧ ∃ t, exec .inputOvervoltage s = .next t ∧ t.pwr.overVoltage = true ∧ PowerFails s t)
    ∧ (let starts := s.pwr.input && !s.pwr.shutdown
      (s.pwr.overVoltage = false → exec .inputOvervoltageClear s = .next s)
      ∧ (s.pwr.overVoltage = true → exec .inputOvervoltageClear s = .next { s with pwr := { s.pwr with
          overVoltage := false, converters := s.pwr.converters || (starts && s.pwr.enMade),
          powerFail := s.pwr.powerFail && !(starts && s.pwr.enMade) } })
      ∧ exec (.converterEnableChange false) s = .next { s with pwr := { s.pwr with
          enMade := false, converters := false } }
      ∧ exec (.converterEnableChange true) s = .next { s with pwr := { s.pwr with
          enMade := true, converters := s.pwr.converters || (starts && !s.pwr.overVoltage),
          powerFail := s.pwr.powerFail && !(starts && !s.pwr.overVoltage) } })
    ∧ (s.pwr.powerGood = false → exec .intermediateRailLoss s = .next s ∧ exec .holdupEnd s = .next s)
    ∧ (s.pwr.powerGood = true → ∃ t, exec .intermediateRailLoss s = .next t ∧ PoweredOff s t)
    ∧ (s.pwr.powerGood = true → s.pwr.converters = true → exec .holdupEnd s = .next s)
    ∧ (s.pwr.powerGood = true → s.pwr.converters = false → ∃ t, exec .holdupEnd s = .next t ∧ PoweredOff s t)

/-- R486, R546, R582, R588, R589, R591, R592, R597 to R603: POWER_GOOD starts the slot that R591 chooses (events 0x0001,
0x0005, 0x0006) with its count up, or the module holds in ROM, by the boot record with the largest sequence on the devices
that answered discovery; it takes the settings or enters safe harbour with every port disabled (event 0x0009), rebuilds the
strandline position without a header (event 0xE005) and zeroes ledger records whose CRC fails (event 0x9061). MODULE_READY
ends the start once the counter is set or no reference is present (event 0x0010): enabled ports seek, disabled ones and those
of a fenced shore die are fenced. HEALTH_CHECK_PASS, 30 s later, clears the count (event 0x0003) and blows the revoked keys'
fuses. -/
def Sys2Proof.Claim.Starts : Prop :=
  ∀ s : State,
    (s.pwr.converters = false ∨ s.pwr.powerGood = true → exec .powerGood s = .next s)
    ∧ (s.pwr.converters = true → s.pwr.powerGood = false →
      let u := governLog { s with fw := { s.fw with noDevice := [0, 1].filter fun d => !deviceFound s d } }
      ∃ t, exec .powerGood s = .next t
      ∧ t.pwr.powerGood = true ∧ t.recov.lastKind = (if s.fw.orderly then 0 else 1) ∧ t.recov.lastCause = 0
      ∧ t.trace.slRebuilt = !strandFound s ∧ (strandFound s = false → Recorded s t 0xE005 1296)
      ∧ (chooseSlot u = none → t.fw.romHold = true ∧ t.fw.ready = false ∧ t.fw.image = none ∧ t.fw.bootRec = u.fw.bootRec)
      ∧ ∀ slot fallback limit, chooseSlot u = some (slot, fallback, limit) →
        t.fw.running = slot ∧ t.fw.image = slotImage s slot ∧ t.fw.romHold = false ∧ t.fw.ready = false
        ∧ t.fw.osc = 0 ∧ t.fw.orderly = false ∧ Recorded s t 0x0001 1296
        ∧ slotCount t.fw.bootRec slot = min 3 (slotCount u.fw.bootRec slot + 1)
        ∧ (fallback = true → t.fw.bootRec.next = slot ∧ Recorded s t 0x0005 1296)
        ∧ (limit = true → Recorded s t 0x0006 1296)
        ∧ ((ledgerBad s).length = 1 → Recorded s t 0x9061 1296)
        ∧ (∀ d, d ∈ ledgerBad s → ledgerAt t d = LedgerRec.reset)
        ∧ t.health.sticky = s.health.sticky.filter (fun n => !(s.health.clearNext.contains n))
        ∧ t.health.clearNext = [] ∧ t.health.shapeGen = (s.health.shapeGen + 1) % 65536
        ∧ (takeStore s = none → t.fw.mode = 1 ∧ Recorded s t 0x0009 1296
            ∧ t.fw.shcause = (if u.fw.bootRec.safeHarbour then 3 else 2)
            ∧ ∀ p, p < 128 → (portAt t p).en = false ∧ (portAt t p).hostFence = true)
        ∧ ∀ b torn i l, takeStore s = some (b, torn) → u.fw.bootRec.safeHarbour = false →
          slotImage s slot = some i → canRead i b = true → storeItems b = some l →
          t.fw.mode = 0 ∧ t.fw.shcause = 0 ∧ t.fw.taken = b ∧ t.moduleId = itemVal l 1 0
          ∧ t.pwr.cap = itemVal l 8 3600 ∧ t.tide.parents = BitVec.ofNat 32 (itemVal l 6 0)
          ∧ t.recov.autoCove = bitOf (itemVal l 10 3) 0 ∧ t.recov.autoMod = bitOf (itemVal l 10 3) 1
          ∧ (∀ p, p < 128 → (portAt t p).en = bitOf (itemVal l 3 0) p)
          ∧ (torn = true → Recorded s t 0x0007 1296))
    ∧ (let can := !s.fw.ready && !s.fw.romHold && s.pwr.powerGood && s.fw.image.isSome
        && (s.tide.marked || !s.tide.ref)
      (can = false → exec .moduleReady s = .next s)
      ∧ (can = true → ∃ t, exec .moduleReady s = .next t ∧ t.fw.ready = true ∧ Recorded s t 0x0010 1296
        ∧ t.fw.mode = (if s.fw.mode = 1 then 1 else if s.tide.marked then 0 else 2) ∧ t.fw.checkFrom = s.fw.osc
        ∧ t.recov.resetting = false ∧ t.recov.fedTick = s.tide.now
        ∧ (s.tray.heldService = true → t.tray.service = 1 ∧ t.tray.heldService = false
            ∧ Recorded s t 0xC030 1296)
        ∧ (s.tray.heldService = false → t.tray = s.tray ∧ t.cores = s.cores ∧ t.mem = s.mem ∧ t.coves = s.coves)
        ∧ ∀ p, p < 128 → (portAt s p).present = true → (portAt s p).mode = .absent →
          (opticDown s p = true → (portAt t p).mode = .absent ∧ (portAt t p).cause = 6)
          ∧ (opticDown s p = false → Sparse.get 0 s.health.shoreFence (portShore p) = 0 →
              (portAt t p).mode = if (portAt s p).en then .seeking else .fenced)
          ∧ (opticDown s p = false → Sparse.get 0 s.health.shoreFence (portShore p) ≠ 0 →
              (portAt t p).mode = .fenced ∧ (portAt t p).cause = 3)))
    ∧ (let due := s.fw.ready && !s.fw.passed && !s.fw.checkFailed
        && decide (s.fw.checkFrom + 30000000000 ≤ s.fw.osc)
      (due = false → exec .healthCheckPass s = .next s)
      ∧ (due = true → ∃ t, exec .healthCheckPass s = .next t ∧ Recorded s t 0x0003 1296 ∧ t.fw.passed = true
        ∧ slotCount t.fw.bootRec s.fw.running = 0 ∧ t.fw.bootRec.kind = 2
        ∧ (s.fw.image = none → t.fw.fuses = s.fw.fuses)
        ∧ (∀ i, s.fw.image = some i → ∀ k, k < 4 →
            t.fw.fuses.getLsbD k = (s.fw.fuses.getLsbD k || (bitOf (imgRevoke i) k && k != imgKey i)))
        ∧ t.cores = s.cores ∧ t.mem = s.mem ∧ t.coves = s.coves))

/-- Input power, and the starts that it leads to. -/
def Obligations.PowerAndStarts : Prop :=
  Claim.InputPower ∧ Claim.Starts

/-! ### Regulators, temperatures and calibration -/

namespace Sys2Proof.Claim

/-- A reading of a unit was taken (R629, R630): its value, its run of readings at trip, a trip after three of them
(event 0xD011) with withholding level 15 and every cove's dies slow, and shutdown at its threshold (event 0xD012). -/
def TempTaken (s t : State) (u : Nat) (temp : Int) : Prop :=
  let run := if tripTemp u ≤ temp then Sparse.get 0 s.pwr.tripRun u + 1 else 0
  (∀ v, Sparse.get 0 t.pwr.temps v = if v = u then temp else Sparse.get 0 s.pwr.temps v)
    ∧ (∀ v, Sparse.get 0 t.pwr.tripRun v = if v = u then run else Sparse.get 0 s.pwr.tripRun v)
    ∧ t.pwr.coolSince = (if releaseTemp u ≤ temp then s.tide.now else s.pwr.coolSince)
    ∧ (run < 3 ∨ s.pwr.tripActive = true → t.pwr.tripActive = s.pwr.tripActive ∧ t.tide.withhold = s.tide.withhold)
    ∧ (3 ≤ run → s.pwr.tripActive = false → t.pwr.tripActive = true ∧ t.pwr.tripped = true
        ∧ t.pwr.tripTick = s.tide.now ∧ t.tide.withhold = 15 ∧ t.tide.tripVoid = true ∧ Recorded s t 0xD011 1296
        ∧ ∀ c, c < 16 → (coveAt s c).dies ≠ 0#64 → (coveTideAt t c).slow = true)
    ∧ (shutdownTemp u ≤ temp → s.pwr.shutdown = false → t.pwr.shutdown = true ∧ t.pwr.converters = false
        ∧ Recorded s t 0xD012 1296 ∧ ModuleFatal s t 0)
    ∧ (temp < shutdownTemp u ∨ s.pwr.shutdown = true → t.pwr.shutdown = s.pwr.shutdown ∧ t.coves = s.coves)
    ∧ t.cores = s.cores ∧ t.mem = s.mem

end Sys2Proof.Claim

/-- R34, R118, R125, R216, R322, R478, R480, R483, R611, R625, R629, R630: a regulator at its current limit or too hot turns
its rail off (event 0xD021): a compute die is fenced with cause 3, a shore die is fenced too, which is module-fatal.
REGULATOR_TELEMETRY and MARGIN_READ keep their figures, with events 0xD020 and 0x9050. DIE_TEMP_READING and HBM_TEMP_READING
act on the thresholds; a stack is hot from above 85 °C to below 82 °C (events 0x1030, 0x1032). TRIP_TIMEOUT shuts down and
THERMAL_RETURN ends the trip. HBM_RECENTRE fails a stack after three failures in a row (event 0x0012); OPTICAL_TRIM raises a
port's alarm 2 dB below its power at training. ERROR_COUNT_FORWARD brings the bit errors that came up in a die's memories and
fences a die with failed routers with cause 6, and with it every die that some unfenced die no longer reaches (the model's
reading of the command, log entries 40 and 72). -/
def Obligations.RailsAndTemperatures : Prop :=
  ∀ s : State,
    (∀ die rail i, i = Instr.regulatorCurrentLimit die rail ∨ i = .regulatorOvertemp die rail →
      let key := 4 * die + rail
      (80 ≤ die ∨ 3 ≤ rail ∨ key ∈ s.pwr.railsOff → exec i s = .next s)
      ∧ (die < 80 → rail < 3 → key ∉ s.pwr.railsOff → ∃ t, exec i s = .next t
        ∧ t.pwr.railsOff = s.pwr.railsOff ++ [key] ∧ Recorded s t 0xD021 (dieReporter die)
        ∧ (die < 64 → Sparse.get 0 s.health.dieFence die = 0 → Sparse.get 0 t.health.dieFence die = 3
            ∧ Recorded s t 0x9030 (1297 + die))
        ∧ (die = 64 ∨ 64 < die ∧ Sparse.get 0 s.health.shoreFence (die - 64) = 0 → ModuleFatal s t 14)
        ∧ (64 < die → Sparse.get 0 s.health.shoreFence (die - 64) = 0 →
            Sparse.get 0 t.health.shoreFence (die - 64) = 3)
        ∧ t.cores = s.cores ∧ t.mem = s.mem))
    ∧ (∀ die vcore icore temp power trimEnd,
      (80 ≤ die → exec (.regulatorTelemetry die vcore icore temp power trimEnd) s = .next s)
      ∧ (die < 80 → ∃ t, exec (.regulatorTelemetry die vcore icore temp power trimEnd) s = .next t
        ∧ (let old := Sparse.get DieTelem.reset s.pwr.telem die
           Sparse.get DieTelem.reset t.pwr.telem die = { old with
            vcore := vcore, icore := icore, power := power, temp := temp, peak := max old.peak temp })
        ∧ (∀ d, d ≠ die → Sparse.get DieTelem.reset t.pwr.telem d = Sparse.get DieTelem.reset s.pwr.telem d)
        ∧ (∀ r, r < 3 → trimEnd = [r] → Recorded s t 0xD020 (dieReporter die))
        ∧ (trimEnd = [] → t = { s with pwr := { s.pwr with telem := t.pwr.telem } })
        ∧ t.cores = s.cores ∧ t.mem = s.mem ∧ t.coves = s.coves))
    ∧ (∀ die errors router,
      (80 ≤ die → exec (.errorCountForward ⟨die, errors, router⟩) s = .next s)
      ∧ (64 ≤ die → die < 80 → ∃ t, exec (.errorCountForward ⟨die, errors, router⟩) s = .next t
        ∧ (∀ u, errors = [u] → u.2.2.2 = true → u.2.2.1 < 2 ^ 24 →
            t.mem.hbmLatent = s.mem.hbmLatent ++ [(die - 64) * 2 ^ 24 + u.2.2.1])
        ∧ t = { s with mem := { s.mem with hbmLatent := t.mem.hbmLatent } })
      ∧ (die < 64 → ∃ t, exec (.errorCountForward ⟨die, errors, router⟩) s = .next t
        ∧ Sparse.get 0 t.health.dutyDone (16 * die + 4) = s.tide.now
        ∧ (∀ u, errors = [u] → u.2.1 ≤ 6 →
            (coreAt t (16 * die + u.1 % 16)).upsets = (coreAt s (16 * die + u.1 % 16)).upsets ++ [u.2] ∧ t.mem = s.mem)
        ∧ (∀ u, errors = [u] → u.2.1 = 7 → u.2.2.2 = true → u.2.2.1 < 2 ^ 18 →
            t.mem.nearLatent = s.mem.nearLatent ++ [die * 2 ^ 18 + u.2.2.1] ∧ t.cores = s.cores)
        ∧ (router = false → t = { s with
            cores := t.cores, mem := { s.mem with nearLatent := t.mem.nearLatent },
            health := { s.health with dutyDone := t.health.dutyDone } })
        ∧ (router = true → Sparse.get false t.health.routerFence die = true
          ∧ (Sparse.get 0 s.health.dieFence die = 0 → Sparse.get 0 t.health.dieFence die = 6
              ∧ Recorded s t 0x9030 (1297 + die))
          ∧ ∀ x y, x < 64 → y < 64 → x ≠ y → Sparse.get 0 t.health.dieFence x = 0 →
              Sparse.get 0 t.health.dieFence y = 0 → (torusRoute t x y).isSome = true)))
    ∧ (∀ die margin eyes, (64 ≤ die → exec (.marginRead die ⟨margin, eyes⟩) s = .next s)
      ∧ (die < 64 → ∃ t, exec (.marginRead die ⟨margin, eyes⟩) s = .next t
        ∧ Sparse.get none t.health.margin die = some (match Sparse.get none s.health.margin die with
            | some m => min m margin | none => margin)
        ∧ (Sparse.get DieTelem.reset t.pwr.telem die).margin = margin
        ∧ Sparse.get [] t.health.torusEyes die = worseEyes (Sparse.get [] s.health.torusEyes die) (eyes.take 4)
        ∧ Sparse.get 0 t.health.dutyDone (16 * die + 5) = s.tide.now
        ∧ (margin < 5 → Recorded s t 0x9050 (1297 + die))
        ∧ (5 ≤ margin → t = { s with
            pwr := { s.pwr with telem := t.pwr.telem }, health := { s.health with
              margin := t.health.margin, torusEyes := t.health.torusEyes, dutyDone := t.health.dutyDone } })
        ∧ t.cores = s.cores ∧ t.mem = s.mem ∧ t.coves = s.coves))
    ∧ (∀ u temp, (80 ≤ u → exec (.dieTempReading u temp) s = .next s)
        ∧ (u < 80 → ∃ t, exec (.dieTempReading u temp) s = .next t ∧ TempTaken s t u temp))
    ∧ (∀ st temp, (16 ≤ st → exec (.hbmTempReading st temp) s = .next s)
      ∧ (st < 16 → ∃ t, exec (.hbmTempReading st temp) s = .next t
        ∧ Sparse.get 0 t.pwr.temps (80 + st) = temp ∧ t.cores = s.cores ∧ t.mem = s.mem
        ∧ (85 < temp → st ∉ s.tide.hot → t.tide.hot = s.tide.hot ++ [st] ∧ Recorded s t 0x1030 (1536 + st)
            ∧ (s.tide.mhot = false → t.tide.hotVoid = true))
        ∧ (temp < 82 → st ∈ s.tide.hot → t.tide.hot = s.tide.hot.filter (fun j => decide (j ≠ st))
            ∧ Recorded s t 0x1032 (1536 + st))
        ∧ (¬ (85 < temp ∧ st ∉ s.tide.hot) → ¬ (temp < 82 ∧ st ∈ s.tide.hot) →
            t.tide.hot = s.tide.hot ∧ TempTaken s t (80 + st) temp)))
    ∧ (let due := s.pwr.tripActive && decide (s.pwr.tripTick + 2000000000 ≤ s.tide.now)
        && s.pwr.temps.any fun e => decide (tripTemp e.1 ≤ e.2)
      (due = false ∨ s.pwr.shutdown = true → exec .tripTimeout s = .next s)
      ∧ (due = true → s.pwr.shutdown = false → ∃ t, exec .tripTimeout s = .next t ∧ t.pwr.shutdown = true
        ∧ t.pwr.converters = false ∧ Recorded s t 0xD012 1296 ∧ ModuleFatal s t 0))
    ∧ (let cool := s.pwr.tripActive && s.pwr.temps.all (fun e => decide (e.2 < releaseTemp e.1))
        && decide (s.pwr.coolSince + 1000000000 ≤ s.tide.now)
      exec .thermalReturn s = .next (if cool then { s with pwr := { s.pwr with tripActive := false } } else s))
    ∧ (∀ st ok, (16 ≤ st → exec (.hbmRecentre st ok) s = .next s)
      ∧ (st < 16 → ∃ t, exec (.hbmRecentre st ok) s = .next t ∧ t.cores = s.cores ∧ t.mem = s.mem
        ∧ (ok = true → Sparse.get 0 t.pwr.recentreFails st = 0
            ∧ Sparse.get 0 t.pwr.recentreTemp st = Sparse.get 0 s.pwr.temps (80 + st)
            ∧ t.health = s.health ∧ t.trace = s.trace)
        ∧ (ok = false →
          let n := Sparse.get 0 s.pwr.recentreFails st + 1
          Sparse.get 0 t.pwr.recentreFails st = n ∧ Recorded s t 0x0012 (1536 + st)
          ∧ t.pwr.recentreTemp = s.pwr.recentreTemp
          ∧ (n < 3 ∨ st ∈ s.health.stackFailed → t.health = s.health ∧ t.coves = s.coves)
          ∧ (3 ≤ n → st ∉ s.health.stackFailed → t.health.stackFailed = s.health.stackFailed ++ [st]
              ∧ ModuleFatal s t 14))))
    ∧ ∀ engine power, (16 ≤ engine → exec (.opticalTrim engine power) s = .next s)
      ∧ (engine < 16 → ∃ t, exec (.opticalTrim engine power) s = .next t ∧ t.cores = s.cores ∧ t.mem = s.mem
        ∧ t.coves = s.coves ∧ t.fab = s.fab
        ∧ ∀ x, power = [x] →
          let p := 64 + 4 * engine
          ((portAt s p).mode ≠ .active → Sparse.get none t.pwr.opticPower p = none ∧ p ∉ t.pwr.opticAlarm)
          ∧ ((portAt s p).mode = .active → Sparse.get none s.pwr.opticPower p = none →
              Sparse.get none t.pwr.opticPower p = some x ∧ t.pwr.opticAlarm = s.pwr.opticAlarm)
          ∧ ∀ b, (portAt s p).mode = .active → Sparse.get none s.pwr.opticPower p = some b →
            t.pwr.opticPower = s.pwr.opticPower
            ∧ (x < b - 200 → p ∈ t.pwr.opticAlarm) ∧ (b - 200 ≤ x → p ∉ t.pwr.opticAlarm))

/-! ### The tray bus -/

namespace Sys2Proof.Claim

/-- What a tray read answers: a part of the tray file, or a register of the target (R614, R616). -/
def trayRead (s : State) : Instr → Option (List Byte)
  | .trayIdent => some s.tray.file.ident
  | .trayHeartbeat => some (leOut 4 s.tray.file.heartbeat
      ++ leOut 2 (min 65535 ((s.fw.osc - s.tray.refreshed) / 1000000)) ++ leOut 2 0)
  | .trayState => some s.tray.file.state
  | .trayPower => some s.tray.file.power
  | .trayCoves => some s.tray.file.coves
  | .trayPorts => some s.tray.file.ports
  | .trayServiceRead => some (leOut 1 s.tray.service)
  | .trayLocateRead => some (leOut 1 s.tray.locate)
  | .trayCapRead => some (leOut 2 s.tray.cap)
  | .traySlSelRead => some (leOut 8 s.tray.slSel)
  | _ => none

/-- A tray write and whether its PEC and its value are allowed (R615, R616). -/
def trayWritten : Instr → Option Bool
  | .trayServiceWrite value pec => some (pec && value == 1#8)
  | .trayLocateWrite value pec => some (pec && decide (value.toNat ≤ 2))
  | .trayCapWrite _ pec => some pec
  | .trayReset value pec => some (pec && value == 0xA55A#16)
  | .traySlSelWrite _ pec => some pec
  | _ => none

end Sys2Proof.Claim

/-- R613 to R618, R632: with power on shore die 0 a tray read answers its bytes, TRAY_SL_DATA the selected entry 32 bytes at a
time; a write with a bad PEC or value is discarded (event 0xC010), and a good one sets its register: a service request
starts emptying at once (event 0xC030) or is held until READY, 0xA55A resets the module with kind 4. An unknown code is
NACKed, CLOCK_LOW_TIMEOUT abandons the transaction, and TRAY_FILE_REFRESH renews the file. -/
def Obligations.TrayBus : Prop :=
  ∀ s : State,
    (∀ i bytes, trayRead s i = some bytes → exec i s = .next (if s.pwr.powerGood then
        { s with tray := { s.tray with reply := bytes, nack := false } } else s))
    ∧ (s.pwr.powerGood = false → exec .traySlData s = .next s ∧ (∀ code, exec (.trayUnknownCommand code) s = .next s)
        ∧ ∀ i good, trayWritten i = some good → exec i s = .next s)
    ∧ exec .trayClockLowTimeout s = .next { s with tray := { s.tray with reply := [], nack := false } }
    ∧ (s.pwr.powerGood = true →
      (∃ t, exec .traySlData s = .next t
        ∧ (∀ e, s.trace.slEntries.find? (fun e => e.seq == s.tray.slSel && decide (e.seq < s.trace.slDurable)) = some e →
            t.tray.reply = ((strandBytes e).drop (32 * s.tray.slPart)).take 32)
        ∧ ((∀ e ∈ s.trace.slEntries, e.seq = s.tray.slSel → s.trace.slDurable ≤ e.seq) → s.tray.slPart < 8 →
            t.tray.reply = List.replicate 32 0#8)
        ∧ t = { s with tray := { s.tray with
            reply := t.tray.reply, nack := false,
            slPart := if s.tray.slPart = 7 then 0 else s.tray.slPart + 1,
            slSel := if s.tray.slPart = 7 then (s.tray.slSel + 1) % 2 ^ 64 else s.tray.slSel } })
      ∧ (∀ code : Byte, exec (.trayUnknownCommand code) s = .next
          (if code.toNat ∈ [0x00, 0x01, 0x02, 0x03, 0x04, 0x05, 0x10, 0x11, 0x12, 0x13, 0x20, 0x21] then s
           else { s with tray := { s.tray with nack := true, reply := [] } }))
      ∧ (∀ i, trayWritten i = some false → ∃ t, exec i s = .next t ∧ Recorded s t 0xC010 1296
          ∧ t.tray = { s.tray with discarded := s.tray.discarded + 1 } ∧ t.cores = s.cores ∧ t.mem = s.mem
          ∧ t.coves = s.coves ∧ t.pwr = s.pwr ∧ t.fw = s.fw)
      ∧ (∀ value : Byte, value.toNat ≤ 2 → exec (.trayLocateWrite value true) s = .next
          { s with tray := { s.tray with nack := false, locate := value.toNat } })
      ∧ (∀ value : BitVec 16, exec (.trayCapWrite value true) s = .next { s with tray := { s.tray with
          nack := false, cap := if value = 0#16 then 0 else min 7200 (max 1500 value.toNat) } })
      ∧ (∀ value : DWord, exec (.traySlSelWrite value true) s = .next { s with tray := { s.tray with
          nack := false, slSel := value.toNat, slPart := 0 } })
      ∧ (s.tray.service ≠ 0 → exec (.trayServiceWrite 1#8 true) s = .next
          { s with tray := { s.tray with nack := false } })
      ∧ (s.tray.service = 0 → s.fw.ready = false → exec (.trayServiceWrite 1#8 true) s = .next
          { s with tray := { s.tray with nack := false, heldService := true } })
      ∧ (s.tray.service = 0 → s.fw.ready = true → ∃ t, exec (.trayServiceWrite 1#8 true) s = .next t
        ∧ Recorded s t 0xC030 1296 ∧ t.tray.service = 1 ∧ t.cores = s.cores ∧ t.mem = s.mem
        ∧ ∀ c, c < 16 → ((coveAt s c).mode = .free → coveAt t c = coveAt s c)
          ∧ ((coveAt s c).mode ≠ .free → (coveAt t c).serviceRelease = true ∧ (coveAt t c).reason = 15)
          ∧ ((coveAt s c).mode = .running → (coveAt t c).releaseReq = true ∧ (coveAt t c).mode = .running)
          ∧ ((coveAt s c).mode = .held ∨ (coveAt s c).mode = .stopped ∨ (coveAt s c).mode = .loading →
              (coveAt t c).mode = .releasing))
      ∧ (s.fw.romHold = true → exec (.trayReset 0xA55A#16 true) s = .next
          { s with tray := { s.tray with nack := false } })
      ∧ (s.fw.romHold = false → ∃ t, exec (.trayReset 0xA55A#16 true) s = .next t ∧ ResetStarted s t 4 0))
    ∧ (let open_ := s.pwr.powerGood && s.recov.moving.isNone && !s.recov.unclaimed
      (open_ = false → exec .trayFileRefresh s = .next s)
      ∧ (open_ = true → exec .trayFileRefresh s = .next { s with tray := { s.tray with
          refreshed := s.fw.osc,
          file := { ident := identBytes s, heartbeat := s.recov.heartbeat, state := stateBytes s,
                    power := powerBytes s, coves := covesBytes s, ports := portsBytes s } } }))

/-! ### The local bus and the end of emptying -/

/-- R620 to R624, R633: LOCAL_BUS_POLL keeps a target's reading, counts a miss and fails the target at the third
(event 0xC003), or takes the next step on a low data line (event 0xC020). SEGMENT_PROBE notes what acknowledges; after
four probes a silent segment is empty (event 0xC001). FAILED_TARGET_PROBE returns a target after three answers
(events 0xC004, 0xC002), and SEGMENT_POWER_RESTORE probes the segment again or isolates it (events 0xC021, 0xC022).
With every cove free EMPTYING_COVES_FREE fences the ports and writes the ledger, and SAFE_TO_REMOVE follows
(event 0xC031). -/
def Obligations.LocalBusAndEmptying : Prop :=
  ∀ s : State,
    let seg := fun (s : State) n => Sparse.get Segment.reset s.tray.segments n
    (∀ n a low r,
      let polled := s.pwr.powerGood && (segTargets s n).contains a && decide ((seg s n).state = 1)
        && decide ((seg s n).clearStep < 2) && !(targetAt s n a).failed
      (polled = false → exec (.localBusPoll n a low r) s = .next s)
      ∧ (polled = true → ∃ t, exec (.localBusPoll n a low r) s = .next t ∧ t.tray.selected = n
        ∧ t.cores = s.cores ∧ t.mem = s.mem ∧ t.coves = s.coves
        ∧ (low = true → (seg t n).clearStep = (seg s n).clearStep + 1 ∧ Recorded s t 0xC020 1296
            ∧ t.tray.targets = s.tray.targets)
        ∧ (∀ v, low = false → r = some v → (targetAt t n a).reading = v ∧ (targetAt t n a).misses = 0
            ∧ (seg t n).clearStep = 0 ∧ (seg t n).state = 1
            ∧ (∀ b, b < 128 → a < 128 → b ≠ a → targetAt t n b = targetAt s n b)
            ∧ (n = 1 → a = 0x50 → t.tray.vpdRead = true ∧ t.host.serial = BitVec.ofInt 64 (v.getD 0 0)
                ∧ t.host.board = BitVec.ofInt 8 (v.getD 1 0))
            ∧ (n = 1 → a = 0x4C → t.pwr.inletEpisode = decide (40 < v.getD 0 0)
                ∧ (40 < v.getD 0 0 → s.pwr.inletEpisode = false → Recorded s t 0xD030 1296)))
        ∧ (low = false → r = none → (targetAt s n a).misses < 2 →
            (targetAt t n a).misses = (targetAt s n a).misses + 1 ∧ (targetAt t n a).failed = false)
        ∧ (low = false → r = none → 2 ≤ (targetAt s n a).misses →
            (targetAt t n a).failed = true ∧ Recorded s t 0xC003 1296)))
    ∧ (∀ n acks,
      let all := segTargets s n
      let probed := s.pwr.powerGood && !all.isEmpty && decide ((seg s n).state < 2)
        && decide ((seg s n).retries < 4) && !(all.all (seg s n).acked.contains)
      let new := acks.filter fun a => all.contains a && !(seg s n).acked.contains a
      (probed = false → exec (.segmentProbe n acks) s = .next s)
      ∧ (probed = true → ∃ t, exec (.segmentProbe n acks) s = .next t
        ∧ (seg t n).retries = (seg s n).retries + 1 ∧ (seg t n).acked = (seg s n).acked ++ new.eraseDups
        ∧ ((seg s n).retries < 3 → t.tray.targets = s.tray.targets
            ∧ (seg t n).state = (if (seg s n).acked = [] ∧ new = [] then (seg s n).state else 1))
        ∧ (3 ≤ (seg s n).retries → ∀ a ∈ all, a < 128 → a ∉ (seg t n).acked → (targetAt t n a).failed = true)
        ∧ (3 ≤ (seg s n).retries → (seg s n).acked = [] → new = [] →
            (seg t n).state = 2 ∧ Recorded s t 0xC001 1296)
        ∧ t.cores = s.cores ∧ t.mem = s.mem ∧ t.coves = s.coves))
    ∧ (∀ n a,
      let probed := s.pwr.powerGood && (targetAt s n a).failed && decide ((seg s n).state ≠ 3)
        && (segTargets s n).contains a
      (∀ ack, probed = false → exec (.failedTargetProbe n a ack) s = .next s)
      ∧ (probed = true →
        (∃ t, exec (.failedTargetProbe n a false) s = .next t ∧ targetAt t n a = { targetAt s n a with answers := 0 }
          ∧ t = { s with tray := { s.tray with targets := t.tray.targets } })
        ∧ ((targetAt s n a).answers < 2 → ∃ t, exec (.failedTargetProbe n a true) s = .next t
          ∧ targetAt t n a = { targetAt s n a with answers := (targetAt s n a).answers + 1 }
          ∧ t = { s with tray := { s.tray with targets := t.tray.targets } })
        ∧ (2 ≤ (targetAt s n a).answers → ∃ t, exec (.failedTargetProbe n a true) s = .next t
          ∧ Recorded s t 0xC004 1296
          ∧ targetAt t n a = { targetAt s n a with failed := false, answers := 0, misses := 0 }
          ∧ ((seg s n).state = 2 → (seg t n).state = 1 ∧ Recorded s t 0xC002 1296)
          ∧ ((seg s n).state ≠ 2 → (seg t n).state = (seg s n).state)
          ∧ t.cores = s.cores ∧ t.mem = s.mem ∧ t.coves = s.coves)))
    ∧ (∀ n high stuck, n < 4 →
      ((seg s n).clearStep ≠ 2 → exec (.segmentPowerRestore n high stuck) s = .next s)
      ∧ ((seg s n).clearStep = 2 →
        (∃ t, exec (.segmentPowerRestore n true stuck) s = .next t ∧ seg t n = Segment.reset
          ∧ (∀ m, m ≠ n → seg t m = seg s m)
          ∧ t = { s with tray := { s.tray with segments := t.tray.segments } })
        ∧ ∃ t, exec (.segmentPowerRestore n false stuck) s = .next t ∧ Recorded s t 0xC020 1296
          ∧ Recorded s t 0xC021 1296 ∧ (seg t n).state = 3 ∧ (seg t n).clearStep = 3
          ∧ (stuck = false → (∀ m, m ≠ n → seg t m = seg s m) ∧ t.tray.controllerStuck = s.tray.controllerStuck)
          ∧ (stuck = true → Recorded s t 0xC022 1296 ∧ t.tray.controllerStuck = true
              ∧ ∀ m, m < 4 → (seg t m).state = 3)
          ∧ t.cores = s.cores ∧ t.mem = s.mem ∧ t.coves = s.coves))
    ∧ (let free := decide (s.tray.service = 1) && !s.tray.emptied
        && (List.range 16).all fun c => decide ((coveAt s c).mode = .free)
      (free = false → exec .emptyingCovesFree s = .next s)
      ∧ (free = true → ∃ t, exec .emptyingCovesFree s = .next t ∧ t.tray.emptied = true
        ∧ (∀ p, p < 128 → (portAt t p).mode = .absent ∨ (portAt t p).mode = .fenced)
        ∧ (∀ q, q ≤ 16 → (queueAt t q).en = false)
        ∧ (∀ k, Sparse.get .down t.load.conns k = .down)
        ∧ Recorded s t 0x9060 1296 ∧ t.health.ledgerSeq = s.health.ledgerSeq + 1
        ∧ t.trace.slCheckpoint = s.trace.slDurable ∧ t.fw.bootRec.kind = 4
        ∧ t.fw.bootRec.seq = s.fw.bootRec.seq + 1 ∧ t.cores = s.cores ∧ t.mem = s.mem))
    ∧ (s.tray.service ≠ 1 ∨ s.tray.emptied = false → exec .safeToRemove s = .next s)
    ∧ (s.tray.service = 1 → s.tray.emptied = true → ∃ t, exec .safeToRemove s = .next t ∧ Recorded s t 0xC031 1296
        ∧ t.tray.service = 2 ∧ t.fw.orderly = true ∧ t.cores = s.cores ∧ t.mem = s.mem ∧ t.coves = s.coves)
end

