-- ==== Sys2Proof/Laws/Sparse.lean ====
section
/-!
SUPPORT. Sparse tables: reading after a write, and the canonical form.
-/
namespace Sys2Proof.Laws
open Sys2Proof

variable {α : Type}

@[simp] theorem get_nil (d : α) (i : Nat) : Sparse.get d [] i = d := rfl

theorem get_cons (d : α) (k : Nat) (v : α) (t : Sparse α) (i : Nat) :
    Sparse.get d ((k, v) :: t) i = if i = k then v else Sparse.get d t i := rfl

variable [DecidableEq α]

/-- A key reads as it was set. -/
@[simp] theorem get_set_same (d : α) (t : Sparse α) (i : Nat) (x : α) :
    Sparse.get d (Sparse.set d t i x) i = x := by
  induction t with
  | nil => by_cases h : x = d <;> simp [Sparse.set, h, get_cons]
  | cons p t ih =>
    obtain ⟨k, v⟩ := p
    simp only [Sparse.set]
    split_ifs <;> simp_all [get_cons]

/-- Setting a key leaves every other key alone. -/
theorem get_set_other (d : α) (t : Sparse α) (i j : Nat) (x : α) (hj : j ≠ i) :
    Sparse.get d (Sparse.set d t i x) j = Sparse.get d t j := by
  induction t with
  | nil => by_cases h : x = d <;> simp [Sparse.set, h, get_cons, hj]
  | cons p t ih =>
    obtain ⟨k, v⟩ := p
    simp only [Sparse.set]
    split_ifs <;> simp_all [get_cons]

/-- The two laws in one: what a key reads as after any write. -/
theorem get_set (d : α) (t : Sparse α) (i j : Nat) (x : α) :
    Sparse.get d (Sparse.set d t i x) j = if j = i then x else Sparse.get d t j := by
  by_cases h : j = i
  · simp [h]
  · simp [h, get_set_other d t i j x h]

/-- Writing what an absent key reads as into an empty table leaves it empty. -/
@[simp] theorem set_nil_default (d : α) (i : Nat) : Sparse.set d ([] : Sparse α) i d = [] := by
  simp [Sparse.set]

/-- The entries of a table after a write: old ones, or the one written. -/
theorem mem_set {d : α} {t : Sparse α} {i : Nat} {x : α} {p : Nat × α} (h : p ∈ Sparse.set d t i x) :
    p ∈ t ∨ p = (i, x) := by
  induction t with
  | nil =>
    simp only [Sparse.set] at h
    split_ifs at h <;> simp_all
  | cons q t ih =>
    obtain ⟨k, v⟩ := q
    simp only [Sparse.set] at h
    split_ifs at h
    · exact (ih h).imp_left (List.mem_cons_of_mem _)
    · rcases List.mem_cons.1 h with rfl | h
      · simp
      · exact (ih h).imp_left (List.mem_cons_of_mem _)
    · rcases List.mem_cons.1 h with rfl | h <;> simp_all
    · rcases List.mem_cons.1 h with rfl | h <;> simp_all
    · rcases List.mem_cons.1 h with rfl | h
      · simp
      · exact (ih h).imp_left (List.mem_cons_of_mem _)

omit [DecidableEq α] in
/-- What a read answers: the default, or an entry of the table. -/
theorem get_mem (d : α) (t : Sparse α) (i : Nat) : Sparse.get d t i = d ∨ (i, Sparse.get d t i) ∈ t := by
  induction t with
  | nil => exact .inl rfl
  | cons q t ih =>
    obtain ⟨k, v⟩ := q
    by_cases h : i = k
    · subst h; simp [get_cons]
    · rcases ih with ih | ih <;> simp [get_cons, h, ih]

/-- A canonical table above a bound is canonical above any lower one. -/
theorem wfAbove_mono {d : α} {a b : Option Nat} {t : Sparse α} (h : Sparse.wfAbove d b t = true)
    (hab : ∀ x, a = some x → ∃ y, b = some y ∧ x ≤ y) : Sparse.wfAbove d a t = true := by
  cases t with
  | nil => simp [Sparse.wfAbove]
  | cons p t =>
    obtain ⟨k, v⟩ := p
    cases a with
    | none => cases b <;> simp_all [Sparse.wfAbove]
    | some x =>
      obtain ⟨y, rfl, hxy⟩ := hab x rfl
      simp_all [Sparse.wfAbove]
      omega

/-- A canonical table's head, and its tail above the head's key. -/
theorem wfAbove_cons {d : α} {lo : Option Nat} {k : Nat} {v : α} {t : Sparse α} :
    Sparse.wfAbove d lo ((k, v) :: t) = true ↔
      (∀ b, lo = some b → b < k) ∧ v ≠ d ∧ Sparse.wfAbove d (some k) t = true := by
  cases lo <;> simp [Sparse.wfAbove, and_assoc]

/-- Erasing a key keeps the canonical form. -/
theorem wfAbove_erase {d : α} (t : Sparse α) (i : Nat) (lo : Option Nat)
    (h : Sparse.wfAbove d lo t = true) : Sparse.wfAbove d lo (Sparse.set d t i d) = true := by
  induction t generalizing lo with
  | nil => simp [Sparse.set, Sparse.wfAbove]
  | cons p t ih =>
    obtain ⟨k, v⟩ := p
    obtain ⟨hb, hv, ht⟩ := wfAbove_cons.1 h
    simp only [Sparse.set, if_true]
    split_ifs
    · exact ih lo (wfAbove_mono ht fun x hx => ⟨k, rfl, (hb x hx).le⟩)
    · exact wfAbove_cons.2 ⟨hb, hv, ih _ ht⟩

/-- A write of a key above the bound keeps the canonical form. -/
theorem wfAbove_set {d : α} (t : Sparse α) (i : Nat) (x : α) (lo : Option Nat)
    (h : Sparse.wfAbove d lo t = true) (hi : ∀ b, lo = some b → b < i) :
    Sparse.wfAbove d lo (Sparse.set d t i x) = true := by
  by_cases hx : x = d
  · subst hx; exact wfAbove_erase t i lo h
  induction t generalizing lo with
  | nil =>
    simp only [Sparse.set, if_neg hx]
    exact wfAbove_cons.2 ⟨hi, hx, by simp [Sparse.wfAbove]⟩
  | cons p t ih =>
    obtain ⟨k, v⟩ := p
    obtain ⟨hb, hv, ht⟩ := wfAbove_cons.1 h
    simp only [Sparse.set, if_neg hx]
    split_ifs with h1 h2
    · exact wfAbove_cons.2 ⟨hi, hx, wfAbove_cons.2 ⟨fun b e => by simp_all, hv, ht⟩⟩
    · subst h2; exact wfAbove_cons.2 ⟨hb, hx, ht⟩
    · refine wfAbove_cons.2 ⟨hb, hv, ih _ ht fun b e => ?_⟩
      simp only [Option.some.injEq] at e
      omega

/-- Every write keeps the canonical form. -/
theorem wf_set {d : α} {t : Sparse α} (i : Nat) (x : α) (h : Sparse.wf d t = true) :
    Sparse.wf d (Sparse.set d t i x) = true :=
  wfAbove_set t i x none h fun _ e => by simp at e

/-- Dropping entries keeps the canonical form. -/
theorem wfAbove_filter {d : α} (t : Sparse α) (f : Nat × α → Bool) (lo : Option Nat)
    (h : Sparse.wfAbove d lo t = true) : Sparse.wfAbove d lo (t.filter f) = true := by
  induction t generalizing lo with
  | nil => simpa using h
  | cons p t ih =>
    obtain ⟨k, v⟩ := p
    obtain ⟨hb, hv, ht⟩ := wfAbove_cons.1 h
    by_cases hf : f (k, v) = true
    · rw [List.filter_cons_of_pos hf]
      exact wfAbove_cons.2 ⟨hb, hv, ih _ ht⟩
    · rw [List.filter_cons_of_neg hf]
      exact ih lo (wfAbove_mono ht fun x hx => ⟨k, rfl, (hb x hx).le⟩)

/-- Dropping entries keeps the canonical form. -/
theorem wf_filter {d : α} {t : Sparse α} (f : Nat × α → Bool) (h : Sparse.wf d t = true) :
    Sparse.wf d (t.filter f) = true := wfAbove_filter t f none h

/-- A key below every entry reads the default. -/
theorem get_below {d : α} (t : Sparse α) (i k : Nat) (h : Sparse.wfAbove d (some k) t = true) (hi : i ≤ k) :
    Sparse.get d t i = d := by
  induction t generalizing k with
  | nil => rfl
  | cons p t ih =>
    obtain ⟨j, v⟩ := p
    obtain ⟨hb, -, ht⟩ := wfAbove_cons.1 h
    have := hb k rfl
    rw [get_cons, if_neg (by omega)]
    exact ih j ht (by omega)

/-- Canonical tables that read alike are equal. -/
theorem ext_of_wfAbove {d : α} (t u : Sparse α) (lo lo' : Option Nat) (ht : Sparse.wfAbove d lo t = true)
    (hu : Sparse.wfAbove d lo' u = true) (h : ∀ i, Sparse.get d t i = Sparse.get d u i) : t = u := by
  induction t generalizing u lo lo' with
  | nil =>
    cases u with
    | nil => rfl
    | cons q u =>
      obtain ⟨k, v⟩ := q
      obtain ⟨-, hv, -⟩ := wfAbove_cons.1 hu
      exact absurd (by simpa [get_cons] using (h k).symm) hv
  | cons p t ih =>
    obtain ⟨k, v⟩ := p
    obtain ⟨-, hv, ht'⟩ := wfAbove_cons.1 ht
    cases u with
    | nil => exact absurd (by simpa [get_cons] using h k) hv
    | cons q u =>
      obtain ⟨j, w⟩ := q
      obtain ⟨-, hw, hu'⟩ := wfAbove_cons.1 hu
      have hkj : k = j := by
        rcases Nat.lt_trichotomy k j with hl | rfl | hl
        · have := h k
          rw [get_cons, if_pos rfl, get_cons, if_neg (by omega), get_below u k j hu' hl.le] at this
          exact absurd this hv
        · rfl
        · have := h j
          rw [get_cons, if_neg (by omega), get_below t j k ht' hl.le, get_cons, if_pos rfl] at this
          exact absurd this.symm hw
      subst hkj
      have hvw : v = w := by simpa [get_cons] using h k
      subst hvw
      refine congrArg _ (ih u _ _ ht' hu' fun i => ?_)
      by_cases hi : i = k
      · subst hi; rw [get_below t i i ht' le_rfl, get_below u i i hu' le_rfl]
      · simpa [get_cons, hi] using h i

/-- Canonical tables that read alike are equal. -/
theorem ext_of_wf {d : α} {t u : Sparse α} (ht : Sparse.wf d t = true) (hu : Sparse.wf d u = true)
    (h : ∀ i, Sparse.get d t i = Sparse.get d u i) : t = u := ext_of_wfAbove t u none none ht hu h

end Sys2Proof.Laws
end

