-- ==== Sys2Proof/Laws/State.lean ====
section
/-!
SUPPORT. What each shared operation leaves alone: one lemma per field of the state per operation, and what each table
reads as after a change of one entry.
-/
namespace Sys2Proof.Laws
open Sys2Proof Sys2Proof.Machine

variable (s : State)

/-! ### What a table reads as after a change -/

@[simp] theorem coreAt_updCore (i f) : coreAt (updCore s i f) i = f (coreAt s i) := get_set_same ..

theorem coreAt_updCore_other (i f j) (h : j ≠ i) : coreAt (updCore s i f) j = coreAt s j := get_set_other _ _ _ _ _ h

@[simp] theorem clusterAt_updCluster (i f) : clusterAt (updCluster s i f) i = f (clusterAt s i) := get_set_same ..

theorem clusterAt_updCluster_other (i f j) (h : j ≠ i) : clusterAt (updCluster s i f) j = clusterAt s j := get_set_other _ _ _ _ _ h

@[simp] theorem coveAt_updCove (i f) : coveAt (updCove s i f) i = f (coveAt s i) := get_set_same ..

theorem coveAt_updCove_other (i f j) (h : j ≠ i) : coveAt (updCove s i f) j = coveAt s j := get_set_other _ _ _ _ _ h

@[simp] theorem coveTideAt_updCoveTide (i f) : coveTideAt (updCoveTide s i f) i = f (coveTideAt s i) := get_set_same ..

theorem coveTideAt_updCoveTide_other (i f j) (h : j ≠ i) : coveTideAt (updCoveTide s i f) j = coveTideAt s j := get_set_other _ _ _ _ _ h

@[simp] theorem portAt_updPort (i f) : portAt (updPort s i f) i = f (portAt s i) := get_set_same ..

theorem portAt_updPort_other (i f j) (h : j ≠ i) : portAt (updPort s i f) j = portAt s j := get_set_other _ _ _ _ _ h

@[simp] theorem fnAt_updFn (i f) : fnAt (updFn s i f) i = f (fnAt s i) := get_set_same ..

theorem fnAt_updFn_other (i f j) (h : j ≠ i) : fnAt (updFn s i f) j = fnAt s j := get_set_other _ _ _ _ _ h

@[simp] theorem recovAt_updRecov (i f) : recovAt (updRecov s i f) i = f (recovAt s i) := get_set_same ..

theorem recovAt_updRecov_other (i f j) (h : j ≠ i) : recovAt (updRecov s i f) j = recovAt s j := get_set_other _ _ _ _ _ h

@[simp] theorem ringAt_updErrRing (i f) : ringAt (updErrRing s i f) i = f (ringAt s i) := get_set_same ..

theorem ringAt_updErrRing_other (i f j) (h : j ≠ i) : ringAt (updErrRing s i f) j = ringAt s j := get_set_other _ _ _ _ _ h

@[simp] theorem waitTraceAt_updWaitTrace (i f) : waitTraceAt (updWaitTrace s i f) i = f (waitTraceAt s i) := get_set_same ..

theorem waitTraceAt_updWaitTrace_other (i f j) (h : j ≠ i) : waitTraceAt (updWaitTrace s i f) j = waitTraceAt s j := get_set_other _ _ _ _ _ h

@[simp] theorem ledgerAt_updLedger (i f) : ledgerAt (updLedger s i f) i = f (ledgerAt s i) := get_set_same ..

theorem ledgerAt_updLedger_other (i f j) (h : j ≠ i) : ledgerAt (updLedger s i f) j = ledgerAt s j := get_set_other _ _ _ _ _ h

@[simp] theorem coreAt_setCore (i c) : coreAt (setCore s i c) i = c := get_set_same ..

theorem coreAt_setCore_other (i c j) (h : j ≠ i) : coreAt (setCore s i c) j = coreAt s j := get_set_other _ _ _ _ _ h

@[simp] theorem regAt_setReg (o v) : regAt (setReg s o v) o = v := get_set_same ..

theorem regAt_setReg_other (o v p) (h : p ≠ o) : regAt (setReg s o v) p = regAt s p := get_set_other _ _ _ _ _ h

@[simp] theorem ctxAt_setCtx (i k x) : ctxAt (setCtx s i k x) i k = x := by simp [ctxAt, setCtx]

@[simp] theorem ctxAt_updCtx (i k f) : ctxAt (updCtx s i k f) i k = f (ctxAt s i k) := ctxAt_setCtx ..

theorem ctxAt_setCtx_other (i k x j) (h : j ≠ k) : ctxAt (setCtx s i k x) i j = ctxAt s i j := by
  simp [ctxAt, setCtx, get_set_other _ _ _ _ _ h]

theorem ctxAt_setCtx_core (i k x i' j) (h : i' ≠ i) : ctxAt (setCtx s i k x) i' j = ctxAt s i' j := by
  simp [ctxAt, setCtx, coreAt_updCore_other _ _ _ _ h]

theorem ctxAt_updCtx_other (i k f j) (h : j ≠ k) : ctxAt (updCtx s i k f) i j = ctxAt s i j :=
  ctxAt_setCtx_other _ _ _ _ _ h

theorem ctxAt_updCtx_core (i k f i' j) (h : i' ≠ i) : ctxAt (updCtx s i k f) i' j = ctxAt s i' j :=
  ctxAt_setCtx_core _ _ _ _ _ _ h

/-- A change of a context leaves the rest of its core alone. -/
theorem coreAt_setCtx (i k x) :
    coreAt (setCtx s i k x) i = { coreAt s i with ctxs := Sparse.set Ctx.reset (coreAt s i).ctxs k x } :=
  coreAt_updCore ..

@[simp] theorem sreg_zero (x : Ctx) : sreg x 0#5 = 0#64 := rfl

/-- What a scalar register reads as after a write of one (R99, R129). -/
theorem sreg_setSreg (x : Ctx) (r q : BitVec 5) (v : DWord) :
    sreg (setSreg x r v) q = if q = r ∧ r ≠ 0#5 then v else sreg x q := by
  unfold setSreg
  split
  · next h => simp [h]
  · next h =>
    unfold sreg
    by_cases hq : q = 0#5
    · have : ¬ (0#5 = r) := fun e => h e.symm
      simp [hq, this]
    · simp only [if_neg hq, get_set, h, not_false_eq_true, and_true, ne_eq]
      by_cases e : q = r
      · simp [e]
      · simp [e, show q.toNat ≠ r.toNat from fun e' => e (BitVec.eq_of_toNat_eq e')]

@[simp] theorem lcAt_setLc (x : Ctx) (i v) : lcAt (setLc x i v) i = v := get_set_same ..

theorem lcAt_setLc_other (x : Ctx) (i v j) (h : j ≠ i) : lcAt (setLc x i v) j = lcAt x j :=
  get_set_other _ _ _ _ _ h

/-! ### Updates of one table -/

@[simp] theorem setCore_cu (a2 a3) : (setCore s a2 a3).cu = s.cu := rfl
@[simp] theorem setCore_moduleId (a2 a3) : (setCore s a2 a3).moduleId = s.moduleId := rfl
@[simp] theorem setCore_copperOnly (a2 a3) : (setCore s a2 a3).copperOnly = s.copperOnly := rfl
@[simp] theorem setCore_clusters (a2 a3) : (setCore s a2 a3).clusters = s.clusters := rfl
@[simp] theorem setCore_mem (a2 a3) : (setCore s a2 a3).mem = s.mem := rfl
@[simp] theorem setCore_fab (a2 a3) : (setCore s a2 a3).fab = s.fab := rfl
@[simp] theorem setCore_tide (a2 a3) : (setCore s a2 a3).tide = s.tide := rfl
@[simp] theorem setCore_coves (a2 a3) : (setCore s a2 a3).coves = s.coves := rfl
@[simp] theorem setCore_load (a2 a3) : (setCore s a2 a3).load = s.load := rfl
@[simp] theorem setCore_standin (a2 a3) : (setCore s a2 a3).standin = s.standin := rfl
@[simp] theorem setCore_remap (a2 a3) : (setCore s a2 a3).remap = s.remap := rfl
@[simp] theorem setCore_trace (a2 a3) : (setCore s a2 a3).trace = s.trace := rfl
@[simp] theorem setCore_health (a2 a3) : (setCore s a2 a3).health = s.health := rfl
@[simp] theorem setCore_recov (a2 a3) : (setCore s a2 a3).recov = s.recov := rfl
@[simp] theorem setCore_host (a2 a3) : (setCore s a2 a3).host = s.host := rfl
@[simp] theorem setCore_fw (a2 a3) : (setCore s a2 a3).fw = s.fw := rfl
@[simp] theorem setCore_pwr (a2 a3) : (setCore s a2 a3).pwr = s.pwr := rfl
@[simp] theorem setCore_tray (a2 a3) : (setCore s a2 a3).tray = s.tray := rfl
@[simp] theorem setCore_free (a2 a3) : (setCore s a2 a3).free = s.free := rfl
@[simp] theorem setCore_pending (a2 a3) : (setCore s a2 a3).pending = s.pending := rfl

@[simp] theorem updCore_cu (a2 a3) : (updCore s a2 a3).cu = s.cu := rfl
@[simp] theorem updCore_moduleId (a2 a3) : (updCore s a2 a3).moduleId = s.moduleId := rfl
@[simp] theorem updCore_copperOnly (a2 a3) : (updCore s a2 a3).copperOnly = s.copperOnly := rfl
@[simp] theorem updCore_clusters (a2 a3) : (updCore s a2 a3).clusters = s.clusters := rfl
@[simp] theorem updCore_mem (a2 a3) : (updCore s a2 a3).mem = s.mem := rfl
@[simp] theorem updCore_fab (a2 a3) : (updCore s a2 a3).fab = s.fab := rfl
@[simp] theorem updCore_tide (a2 a3) : (updCore s a2 a3).tide = s.tide := rfl
@[simp] theorem updCore_coves (a2 a3) : (updCore s a2 a3).coves = s.coves := rfl
@[simp] theorem updCore_load (a2 a3) : (updCore s a2 a3).load = s.load := rfl
@[simp] theorem updCore_standin (a2 a3) : (updCore s a2 a3).standin = s.standin := rfl
@[simp] theorem updCore_remap (a2 a3) : (updCore s a2 a3).remap = s.remap := rfl
@[simp] theorem updCore_trace (a2 a3) : (updCore s a2 a3).trace = s.trace := rfl
@[simp] theorem updCore_health (a2 a3) : (updCore s a2 a3).health = s.health := rfl
@[simp] theorem updCore_recov (a2 a3) : (updCore s a2 a3).recov = s.recov := rfl
@[simp] theorem updCore_host (a2 a3) : (updCore s a2 a3).host = s.host := rfl
@[simp] theorem updCore_fw (a2 a3) : (updCore s a2 a3).fw = s.fw := rfl
@[simp] theorem updCore_pwr (a2 a3) : (updCore s a2 a3).pwr = s.pwr := rfl
@[simp] theorem updCore_tray (a2 a3) : (updCore s a2 a3).tray = s.tray := rfl
@[simp] theorem updCore_free (a2 a3) : (updCore s a2 a3).free = s.free := rfl
@[simp] theorem updCore_pending (a2 a3) : (updCore s a2 a3).pending = s.pending := rfl

@[simp] theorem setCtx_cu (a2 a3 a4) : (setCtx s a2 a3 a4).cu = s.cu := rfl
@[simp] theorem setCtx_moduleId (a2 a3 a4) : (setCtx s a2 a3 a4).moduleId = s.moduleId := rfl
@[simp] theorem setCtx_copperOnly (a2 a3 a4) : (setCtx s a2 a3 a4).copperOnly = s.copperOnly := rfl
@[simp] theorem setCtx_clusters (a2 a3 a4) : (setCtx s a2 a3 a4).clusters = s.clusters := rfl
@[simp] theorem setCtx_mem (a2 a3 a4) : (setCtx s a2 a3 a4).mem = s.mem := rfl
@[simp] theorem setCtx_fab (a2 a3 a4) : (setCtx s a2 a3 a4).fab = s.fab := rfl
@[simp] theorem setCtx_tide (a2 a3 a4) : (setCtx s a2 a3 a4).tide = s.tide := rfl
@[simp] theorem setCtx_coves (a2 a3 a4) : (setCtx s a2 a3 a4).coves = s.coves := rfl
@[simp] theorem setCtx_load (a2 a3 a4) : (setCtx s a2 a3 a4).load = s.load := rfl
@[simp] theorem setCtx_standin (a2 a3 a4) : (setCtx s a2 a3 a4).standin = s.standin := rfl
@[simp] theorem setCtx_remap (a2 a3 a4) : (setCtx s a2 a3 a4).remap = s.remap := rfl
@[simp] theorem setCtx_trace (a2 a3 a4) : (setCtx s a2 a3 a4).trace = s.trace := rfl
@[simp] theorem setCtx_health (a2 a3 a4) : (setCtx s a2 a3 a4).health = s.health := rfl
@[simp] theorem setCtx_recov (a2 a3 a4) : (setCtx s a2 a3 a4).recov = s.recov := rfl
@[simp] theorem setCtx_host (a2 a3 a4) : (setCtx s a2 a3 a4).host = s.host := rfl
@[simp] theorem setCtx_fw (a2 a3 a4) : (setCtx s a2 a3 a4).fw = s.fw := rfl
@[simp] theorem setCtx_pwr (a2 a3 a4) : (setCtx s a2 a3 a4).pwr = s.pwr := rfl
@[simp] theorem setCtx_tray (a2 a3 a4) : (setCtx s a2 a3 a4).tray = s.tray := rfl
@[simp] theorem setCtx_free (a2 a3 a4) : (setCtx s a2 a3 a4).free = s.free := rfl
@[simp] theorem setCtx_pending (a2 a3 a4) : (setCtx s a2 a3 a4).pending = s.pending := rfl

@[simp] theorem updCtx_cu (a2 a3 a4) : (updCtx s a2 a3 a4).cu = s.cu := rfl
@[simp] theorem updCtx_moduleId (a2 a3 a4) : (updCtx s a2 a3 a4).moduleId = s.moduleId := rfl
@[simp] theorem updCtx_copperOnly (a2 a3 a4) : (updCtx s a2 a3 a4).copperOnly = s.copperOnly := rfl
@[simp] theorem updCtx_clusters (a2 a3 a4) : (updCtx s a2 a3 a4).clusters = s.clusters := rfl
@[simp] theorem updCtx_mem (a2 a3 a4) : (updCtx s a2 a3 a4).mem = s.mem := rfl
@[simp] theorem updCtx_fab (a2 a3 a4) : (updCtx s a2 a3 a4).fab = s.fab := rfl
@[simp] theorem updCtx_tide (a2 a3 a4) : (updCtx s a2 a3 a4).tide = s.tide := rfl
@[simp] theorem updCtx_coves (a2 a3 a4) : (updCtx s a2 a3 a4).coves = s.coves := rfl
@[simp] theorem updCtx_load (a2 a3 a4) : (updCtx s a2 a3 a4).load = s.load := rfl
@[simp] theorem updCtx_standin (a2 a3 a4) : (updCtx s a2 a3 a4).standin = s.standin := rfl
@[simp] theorem updCtx_remap (a2 a3 a4) : (updCtx s a2 a3 a4).remap = s.remap := rfl
@[simp] theorem updCtx_trace (a2 a3 a4) : (updCtx s a2 a3 a4).trace = s.trace := rfl
@[simp] theorem updCtx_health (a2 a3 a4) : (updCtx s a2 a3 a4).health = s.health := rfl
@[simp] theorem updCtx_recov (a2 a3 a4) : (updCtx s a2 a3 a4).recov = s.recov := rfl
@[simp] theorem updCtx_host (a2 a3 a4) : (updCtx s a2 a3 a4).host = s.host := rfl
@[simp] theorem updCtx_fw (a2 a3 a4) : (updCtx s a2 a3 a4).fw = s.fw := rfl
@[simp] theorem updCtx_pwr (a2 a3 a4) : (updCtx s a2 a3 a4).pwr = s.pwr := rfl
@[simp] theorem updCtx_tray (a2 a3 a4) : (updCtx s a2 a3 a4).tray = s.tray := rfl
@[simp] theorem updCtx_free (a2 a3 a4) : (updCtx s a2 a3 a4).free = s.free := rfl
@[simp] theorem updCtx_pending (a2 a3 a4) : (updCtx s a2 a3 a4).pending = s.pending := rfl

@[simp] theorem updCluster_cu (a2 a3) : (updCluster s a2 a3).cu = s.cu := rfl
@[simp] theorem updCluster_moduleId (a2 a3) : (updCluster s a2 a3).moduleId = s.moduleId := rfl
@[simp] theorem updCluster_copperOnly (a2 a3) : (updCluster s a2 a3).copperOnly = s.copperOnly := rfl
@[simp] theorem updCluster_cores (a2 a3) : (updCluster s a2 a3).cores = s.cores := rfl
@[simp] theorem updCluster_mem (a2 a3) : (updCluster s a2 a3).mem = s.mem := rfl
@[simp] theorem updCluster_fab (a2 a3) : (updCluster s a2 a3).fab = s.fab := rfl
@[simp] theorem updCluster_tide (a2 a3) : (updCluster s a2 a3).tide = s.tide := rfl
@[simp] theorem updCluster_coves (a2 a3) : (updCluster s a2 a3).coves = s.coves := rfl
@[simp] theorem updCluster_load (a2 a3) : (updCluster s a2 a3).load = s.load := rfl
@[simp] theorem updCluster_standin (a2 a3) : (updCluster s a2 a3).standin = s.standin := rfl
@[simp] theorem updCluster_remap (a2 a3) : (updCluster s a2 a3).remap = s.remap := rfl
@[simp] theorem updCluster_trace (a2 a3) : (updCluster s a2 a3).trace = s.trace := rfl
@[simp] theorem updCluster_health (a2 a3) : (updCluster s a2 a3).health = s.health := rfl
@[simp] theorem updCluster_recov (a2 a3) : (updCluster s a2 a3).recov = s.recov := rfl
@[simp] theorem updCluster_host (a2 a3) : (updCluster s a2 a3).host = s.host := rfl
@[simp] theorem updCluster_fw (a2 a3) : (updCluster s a2 a3).fw = s.fw := rfl
@[simp] theorem updCluster_pwr (a2 a3) : (updCluster s a2 a3).pwr = s.pwr := rfl
@[simp] theorem updCluster_tray (a2 a3) : (updCluster s a2 a3).tray = s.tray := rfl
@[simp] theorem updCluster_free (a2 a3) : (updCluster s a2 a3).free = s.free := rfl
@[simp] theorem updCluster_pending (a2 a3) : (updCluster s a2 a3).pending = s.pending := rfl

@[simp] theorem updThresh_cu (a2 a3 a4) : (updThresh s a2 a3 a4).cu = s.cu := rfl
@[simp] theorem updThresh_moduleId (a2 a3 a4) : (updThresh s a2 a3 a4).moduleId = s.moduleId := rfl
@[simp] theorem updThresh_copperOnly (a2 a3 a4) : (updThresh s a2 a3 a4).copperOnly = s.copperOnly := rfl
@[simp] theorem updThresh_cores (a2 a3 a4) : (updThresh s a2 a3 a4).cores = s.cores := rfl
@[simp] theorem updThresh_mem (a2 a3 a4) : (updThresh s a2 a3 a4).mem = s.mem := rfl
@[simp] theorem updThresh_fab (a2 a3 a4) : (updThresh s a2 a3 a4).fab = s.fab := rfl
@[simp] theorem updThresh_tide (a2 a3 a4) : (updThresh s a2 a3 a4).tide = s.tide := rfl
@[simp] theorem updThresh_coves (a2 a3 a4) : (updThresh s a2 a3 a4).coves = s.coves := rfl
@[simp] theorem updThresh_load (a2 a3 a4) : (updThresh s a2 a3 a4).load = s.load := rfl
@[simp] theorem updThresh_standin (a2 a3 a4) : (updThresh s a2 a3 a4).standin = s.standin := rfl
@[simp] theorem updThresh_remap (a2 a3 a4) : (updThresh s a2 a3 a4).remap = s.remap := rfl
@[simp] theorem updThresh_trace (a2 a3 a4) : (updThresh s a2 a3 a4).trace = s.trace := rfl
@[simp] theorem updThresh_health (a2 a3 a4) : (updThresh s a2 a3 a4).health = s.health := rfl
@[simp] theorem updThresh_recov (a2 a3 a4) : (updThresh s a2 a3 a4).recov = s.recov := rfl
@[simp] theorem updThresh_host (a2 a3 a4) : (updThresh s a2 a3 a4).host = s.host := rfl
@[simp] theorem updThresh_fw (a2 a3 a4) : (updThresh s a2 a3 a4).fw = s.fw := rfl
@[simp] theorem updThresh_pwr (a2 a3 a4) : (updThresh s a2 a3 a4).pwr = s.pwr := rfl
@[simp] theorem updThresh_tray (a2 a3 a4) : (updThresh s a2 a3 a4).tray = s.tray := rfl
@[simp] theorem updThresh_free (a2 a3 a4) : (updThresh s a2 a3 a4).free = s.free := rfl
@[simp] theorem updThresh_pending (a2 a3 a4) : (updThresh s a2 a3 a4).pending = s.pending := rfl

@[simp] theorem updCove_cu (a2 a3) : (updCove s a2 a3).cu = s.cu := rfl
@[simp] theorem updCove_moduleId (a2 a3) : (updCove s a2 a3).moduleId = s.moduleId := rfl
@[simp] theorem updCove_copperOnly (a2 a3) : (updCove s a2 a3).copperOnly = s.copperOnly := rfl
@[simp] theorem updCove_cores (a2 a3) : (updCove s a2 a3).cores = s.cores := rfl
@[simp] theorem updCove_clusters (a2 a3) : (updCove s a2 a3).clusters = s.clusters := rfl
@[simp] theorem updCove_mem (a2 a3) : (updCove s a2 a3).mem = s.mem := rfl
@[simp] theorem updCove_fab (a2 a3) : (updCove s a2 a3).fab = s.fab := rfl
@[simp] theorem updCove_tide (a2 a3) : (updCove s a2 a3).tide = s.tide := rfl
@[simp] theorem updCove_load (a2 a3) : (updCove s a2 a3).load = s.load := rfl
@[simp] theorem updCove_standin (a2 a3) : (updCove s a2 a3).standin = s.standin := rfl
@[simp] theorem updCove_remap (a2 a3) : (updCove s a2 a3).remap = s.remap := rfl
@[simp] theorem updCove_trace (a2 a3) : (updCove s a2 a3).trace = s.trace := rfl
@[simp] theorem updCove_health (a2 a3) : (updCove s a2 a3).health = s.health := rfl
@[simp] theorem updCove_recov (a2 a3) : (updCove s a2 a3).recov = s.recov := rfl
@[simp] theorem updCove_host (a2 a3) : (updCove s a2 a3).host = s.host := rfl
@[simp] theorem updCove_fw (a2 a3) : (updCove s a2 a3).fw = s.fw := rfl
@[simp] theorem updCove_pwr (a2 a3) : (updCove s a2 a3).pwr = s.pwr := rfl
@[simp] theorem updCove_tray (a2 a3) : (updCove s a2 a3).tray = s.tray := rfl
@[simp] theorem updCove_free (a2 a3) : (updCove s a2 a3).free = s.free := rfl
@[simp] theorem updCove_pending (a2 a3) : (updCove s a2 a3).pending = s.pending := rfl

@[simp] theorem updCkpt_cu (a2 a3) : (updCkpt s a2 a3).cu = s.cu := rfl
@[simp] theorem updCkpt_moduleId (a2 a3) : (updCkpt s a2 a3).moduleId = s.moduleId := rfl
@[simp] theorem updCkpt_copperOnly (a2 a3) : (updCkpt s a2 a3).copperOnly = s.copperOnly := rfl
@[simp] theorem updCkpt_cores (a2 a3) : (updCkpt s a2 a3).cores = s.cores := rfl
@[simp] theorem updCkpt_clusters (a2 a3) : (updCkpt s a2 a3).clusters = s.clusters := rfl
@[simp] theorem updCkpt_mem (a2 a3) : (updCkpt s a2 a3).mem = s.mem := rfl
@[simp] theorem updCkpt_fab (a2 a3) : (updCkpt s a2 a3).fab = s.fab := rfl
@[simp] theorem updCkpt_tide (a2 a3) : (updCkpt s a2 a3).tide = s.tide := rfl
@[simp] theorem updCkpt_load (a2 a3) : (updCkpt s a2 a3).load = s.load := rfl
@[simp] theorem updCkpt_standin (a2 a3) : (updCkpt s a2 a3).standin = s.standin := rfl
@[simp] theorem updCkpt_remap (a2 a3) : (updCkpt s a2 a3).remap = s.remap := rfl
@[simp] theorem updCkpt_trace (a2 a3) : (updCkpt s a2 a3).trace = s.trace := rfl
@[simp] theorem updCkpt_health (a2 a3) : (updCkpt s a2 a3).health = s.health := rfl
@[simp] theorem updCkpt_recov (a2 a3) : (updCkpt s a2 a3).recov = s.recov := rfl
@[simp] theorem updCkpt_host (a2 a3) : (updCkpt s a2 a3).host = s.host := rfl
@[simp] theorem updCkpt_fw (a2 a3) : (updCkpt s a2 a3).fw = s.fw := rfl
@[simp] theorem updCkpt_pwr (a2 a3) : (updCkpt s a2 a3).pwr = s.pwr := rfl
@[simp] theorem updCkpt_tray (a2 a3) : (updCkpt s a2 a3).tray = s.tray := rfl
@[simp] theorem updCkpt_free (a2 a3) : (updCkpt s a2 a3).free = s.free := rfl
@[simp] theorem updCkpt_pending (a2 a3) : (updCkpt s a2 a3).pending = s.pending := rfl

@[simp] theorem updStats_cu (a2 a3) : (updStats s a2 a3).cu = s.cu := rfl
@[simp] theorem updStats_moduleId (a2 a3) : (updStats s a2 a3).moduleId = s.moduleId := rfl
@[simp] theorem updStats_copperOnly (a2 a3) : (updStats s a2 a3).copperOnly = s.copperOnly := rfl
@[simp] theorem updStats_cores (a2 a3) : (updStats s a2 a3).cores = s.cores := rfl
@[simp] theorem updStats_clusters (a2 a3) : (updStats s a2 a3).clusters = s.clusters := rfl
@[simp] theorem updStats_mem (a2 a3) : (updStats s a2 a3).mem = s.mem := rfl
@[simp] theorem updStats_fab (a2 a3) : (updStats s a2 a3).fab = s.fab := rfl
@[simp] theorem updStats_tide (a2 a3) : (updStats s a2 a3).tide = s.tide := rfl
@[simp] theorem updStats_load (a2 a3) : (updStats s a2 a3).load = s.load := rfl
@[simp] theorem updStats_standin (a2 a3) : (updStats s a2 a3).standin = s.standin := rfl
@[simp] theorem updStats_remap (a2 a3) : (updStats s a2 a3).remap = s.remap := rfl
@[simp] theorem updStats_trace (a2 a3) : (updStats s a2 a3).trace = s.trace := rfl
@[simp] theorem updStats_health (a2 a3) : (updStats s a2 a3).health = s.health := rfl
@[simp] theorem updStats_recov (a2 a3) : (updStats s a2 a3).recov = s.recov := rfl
@[simp] theorem updStats_host (a2 a3) : (updStats s a2 a3).host = s.host := rfl
@[simp] theorem updStats_fw (a2 a3) : (updStats s a2 a3).fw = s.fw := rfl
@[simp] theorem updStats_pwr (a2 a3) : (updStats s a2 a3).pwr = s.pwr := rfl
@[simp] theorem updStats_tray (a2 a3) : (updStats s a2 a3).tray = s.tray := rfl
@[simp] theorem updStats_free (a2 a3) : (updStats s a2 a3).free = s.free := rfl
@[simp] theorem updStats_pending (a2 a3) : (updStats s a2 a3).pending = s.pending := rfl

@[simp] theorem updCoveTide_cu (a2 a3) : (updCoveTide s a2 a3).cu = s.cu := rfl
@[simp] theorem updCoveTide_moduleId (a2 a3) : (updCoveTide s a2 a3).moduleId = s.moduleId := rfl
@[simp] theorem updCoveTide_copperOnly (a2 a3) : (updCoveTide s a2 a3).copperOnly = s.copperOnly := rfl
@[simp] theorem updCoveTide_cores (a2 a3) : (updCoveTide s a2 a3).cores = s.cores := rfl
@[simp] theorem updCoveTide_clusters (a2 a3) : (updCoveTide s a2 a3).clusters = s.clusters := rfl
@[simp] theorem updCoveTide_mem (a2 a3) : (updCoveTide s a2 a3).mem = s.mem := rfl
@[simp] theorem updCoveTide_fab (a2 a3) : (updCoveTide s a2 a3).fab = s.fab := rfl
@[simp] theorem updCoveTide_coves (a2 a3) : (updCoveTide s a2 a3).coves = s.coves := rfl
@[simp] theorem updCoveTide_load (a2 a3) : (updCoveTide s a2 a3).load = s.load := rfl
@[simp] theorem updCoveTide_standin (a2 a3) : (updCoveTide s a2 a3).standin = s.standin := rfl
@[simp] theorem updCoveTide_remap (a2 a3) : (updCoveTide s a2 a3).remap = s.remap := rfl
@[simp] theorem updCoveTide_trace (a2 a3) : (updCoveTide s a2 a3).trace = s.trace := rfl
@[simp] theorem updCoveTide_health (a2 a3) : (updCoveTide s a2 a3).health = s.health := rfl
@[simp] theorem updCoveTide_recov (a2 a3) : (updCoveTide s a2 a3).recov = s.recov := rfl
@[simp] theorem updCoveTide_host (a2 a3) : (updCoveTide s a2 a3).host = s.host := rfl
@[simp] theorem updCoveTide_fw (a2 a3) : (updCoveTide s a2 a3).fw = s.fw := rfl
@[simp] theorem updCoveTide_pwr (a2 a3) : (updCoveTide s a2 a3).pwr = s.pwr := rfl
@[simp] theorem updCoveTide_tray (a2 a3) : (updCoveTide s a2 a3).tray = s.tray := rfl
@[simp] theorem updCoveTide_free (a2 a3) : (updCoveTide s a2 a3).free = s.free := rfl
@[simp] theorem updCoveTide_pending (a2 a3) : (updCoveTide s a2 a3).pending = s.pending := rfl

@[simp] theorem updPort_cu (a2 a3) : (updPort s a2 a3).cu = s.cu := rfl
@[simp] theorem updPort_moduleId (a2 a3) : (updPort s a2 a3).moduleId = s.moduleId := rfl
@[simp] theorem updPort_copperOnly (a2 a3) : (updPort s a2 a3).copperOnly = s.copperOnly := rfl
@[simp] theorem updPort_cores (a2 a3) : (updPort s a2 a3).cores = s.cores := rfl
@[simp] theorem updPort_clusters (a2 a3) : (updPort s a2 a3).clusters = s.clusters := rfl
@[simp] theorem updPort_mem (a2 a3) : (updPort s a2 a3).mem = s.mem := rfl
@[simp] theorem updPort_tide (a2 a3) : (updPort s a2 a3).tide = s.tide := rfl
@[simp] theorem updPort_coves (a2 a3) : (updPort s a2 a3).coves = s.coves := rfl
@[simp] theorem updPort_load (a2 a3) : (updPort s a2 a3).load = s.load := rfl
@[simp] theorem updPort_standin (a2 a3) : (updPort s a2 a3).standin = s.standin := rfl
@[simp] theorem updPort_remap (a2 a3) : (updPort s a2 a3).remap = s.remap := rfl
@[simp] theorem updPort_trace (a2 a3) : (updPort s a2 a3).trace = s.trace := rfl
@[simp] theorem updPort_health (a2 a3) : (updPort s a2 a3).health = s.health := rfl
@[simp] theorem updPort_recov (a2 a3) : (updPort s a2 a3).recov = s.recov := rfl
@[simp] theorem updPort_host (a2 a3) : (updPort s a2 a3).host = s.host := rfl
@[simp] theorem updPort_fw (a2 a3) : (updPort s a2 a3).fw = s.fw := rfl
@[simp] theorem updPort_pwr (a2 a3) : (updPort s a2 a3).pwr = s.pwr := rfl
@[simp] theorem updPort_tray (a2 a3) : (updPort s a2 a3).tray = s.tray := rfl
@[simp] theorem updPort_free (a2 a3) : (updPort s a2 a3).free = s.free := rfl
@[simp] theorem updPort_pending (a2 a3) : (updPort s a2 a3).pending = s.pending := rfl

@[simp] theorem updFn_cu (a2 a3) : (updFn s a2 a3).cu = s.cu := rfl
@[simp] theorem updFn_moduleId (a2 a3) : (updFn s a2 a3).moduleId = s.moduleId := rfl
@[simp] theorem updFn_copperOnly (a2 a3) : (updFn s a2 a3).copperOnly = s.copperOnly := rfl
@[simp] theorem updFn_cores (a2 a3) : (updFn s a2 a3).cores = s.cores := rfl
@[simp] theorem updFn_clusters (a2 a3) : (updFn s a2 a3).clusters = s.clusters := rfl
@[simp] theorem updFn_mem (a2 a3) : (updFn s a2 a3).mem = s.mem := rfl
@[simp] theorem updFn_fab (a2 a3) : (updFn s a2 a3).fab = s.fab := rfl
@[simp] theorem updFn_tide (a2 a3) : (updFn s a2 a3).tide = s.tide := rfl
@[simp] theorem updFn_coves (a2 a3) : (updFn s a2 a3).coves = s.coves := rfl
@[simp] theorem updFn_load (a2 a3) : (updFn s a2 a3).load = s.load := rfl
@[simp] theorem updFn_standin (a2 a3) : (updFn s a2 a3).standin = s.standin := rfl
@[simp] theorem updFn_remap (a2 a3) : (updFn s a2 a3).remap = s.remap := rfl
@[simp] theorem updFn_trace (a2 a3) : (updFn s a2 a3).trace = s.trace := rfl
@[simp] theorem updFn_health (a2 a3) : (updFn s a2 a3).health = s.health := rfl
@[simp] theorem updFn_recov (a2 a3) : (updFn s a2 a3).recov = s.recov := rfl
@[simp] theorem updFn_fw (a2 a3) : (updFn s a2 a3).fw = s.fw := rfl
@[simp] theorem updFn_pwr (a2 a3) : (updFn s a2 a3).pwr = s.pwr := rfl
@[simp] theorem updFn_tray (a2 a3) : (updFn s a2 a3).tray = s.tray := rfl
@[simp] theorem updFn_free (a2 a3) : (updFn s a2 a3).free = s.free := rfl
@[simp] theorem updFn_pending (a2 a3) : (updFn s a2 a3).pending = s.pending := rfl

@[simp] theorem updRing_cu (a2 a3) : (updRing s a2 a3).cu = s.cu := rfl
@[simp] theorem updRing_moduleId (a2 a3) : (updRing s a2 a3).moduleId = s.moduleId := rfl
@[simp] theorem updRing_copperOnly (a2 a3) : (updRing s a2 a3).copperOnly = s.copperOnly := rfl
@[simp] theorem updRing_cores (a2 a3) : (updRing s a2 a3).cores = s.cores := rfl
@[simp] theorem updRing_clusters (a2 a3) : (updRing s a2 a3).clusters = s.clusters := rfl
@[simp] theorem updRing_mem (a2 a3) : (updRing s a2 a3).mem = s.mem := rfl
@[simp] theorem updRing_fab (a2 a3) : (updRing s a2 a3).fab = s.fab := rfl
@[simp] theorem updRing_tide (a2 a3) : (updRing s a2 a3).tide = s.tide := rfl
@[simp] theorem updRing_coves (a2 a3) : (updRing s a2 a3).coves = s.coves := rfl
@[simp] theorem updRing_load (a2 a3) : (updRing s a2 a3).load = s.load := rfl
@[simp] theorem updRing_standin (a2 a3) : (updRing s a2 a3).standin = s.standin := rfl
@[simp] theorem updRing_remap (a2 a3) : (updRing s a2 a3).remap = s.remap := rfl
@[simp] theorem updRing_trace (a2 a3) : (updRing s a2 a3).trace = s.trace := rfl
@[simp] theorem updRing_health (a2 a3) : (updRing s a2 a3).health = s.health := rfl
@[simp] theorem updRing_recov (a2 a3) : (updRing s a2 a3).recov = s.recov := rfl
@[simp] theorem updRing_fw (a2 a3) : (updRing s a2 a3).fw = s.fw := rfl
@[simp] theorem updRing_pwr (a2 a3) : (updRing s a2 a3).pwr = s.pwr := rfl
@[simp] theorem updRing_tray (a2 a3) : (updRing s a2 a3).tray = s.tray := rfl
@[simp] theorem updRing_free (a2 a3) : (updRing s a2 a3).free = s.free := rfl
@[simp] theorem updRing_pending (a2 a3) : (updRing s a2 a3).pending = s.pending := rfl

@[simp] theorem updRecov_cu (a2 a3) : (updRecov s a2 a3).cu = s.cu := rfl
@[simp] theorem updRecov_moduleId (a2 a3) : (updRecov s a2 a3).moduleId = s.moduleId := rfl
@[simp] theorem updRecov_copperOnly (a2 a3) : (updRecov s a2 a3).copperOnly = s.copperOnly := rfl
@[simp] theorem updRecov_cores (a2 a3) : (updRecov s a2 a3).cores = s.cores := rfl
@[simp] theorem updRecov_clusters (a2 a3) : (updRecov s a2 a3).clusters = s.clusters := rfl
@[simp] theorem updRecov_mem (a2 a3) : (updRecov s a2 a3).mem = s.mem := rfl
@[simp] theorem updRecov_fab (a2 a3) : (updRecov s a2 a3).fab = s.fab := rfl
@[simp] theorem updRecov_tide (a2 a3) : (updRecov s a2 a3).tide = s.tide := rfl
@[simp] theorem updRecov_coves (a2 a3) : (updRecov s a2 a3).coves = s.coves := rfl
@[simp] theorem updRecov_load (a2 a3) : (updRecov s a2 a3).load = s.load := rfl
@[simp] theorem updRecov_standin (a2 a3) : (updRecov s a2 a3).standin = s.standin := rfl
@[simp] theorem updRecov_remap (a2 a3) : (updRecov s a2 a3).remap = s.remap := rfl
@[simp] theorem updRecov_trace (a2 a3) : (updRecov s a2 a3).trace = s.trace := rfl
@[simp] theorem updRecov_health (a2 a3) : (updRecov s a2 a3).health = s.health := rfl
@[simp] theorem updRecov_host (a2 a3) : (updRecov s a2 a3).host = s.host := rfl
@[simp] theorem updRecov_fw (a2 a3) : (updRecov s a2 a3).fw = s.fw := rfl
@[simp] theorem updRecov_pwr (a2 a3) : (updRecov s a2 a3).pwr = s.pwr := rfl
@[simp] theorem updRecov_tray (a2 a3) : (updRecov s a2 a3).tray = s.tray := rfl
@[simp] theorem updRecov_free (a2 a3) : (updRecov s a2 a3).free = s.free := rfl
@[simp] theorem updRecov_pending (a2 a3) : (updRecov s a2 a3).pending = s.pending := rfl

@[simp] theorem updErrRing_cu (a2 a3) : (updErrRing s a2 a3).cu = s.cu := rfl
@[simp] theorem updErrRing_moduleId (a2 a3) : (updErrRing s a2 a3).moduleId = s.moduleId := rfl
@[simp] theorem updErrRing_copperOnly (a2 a3) : (updErrRing s a2 a3).copperOnly = s.copperOnly := rfl
@[simp] theorem updErrRing_cores (a2 a3) : (updErrRing s a2 a3).cores = s.cores := rfl
@[simp] theorem updErrRing_clusters (a2 a3) : (updErrRing s a2 a3).clusters = s.clusters := rfl
@[simp] theorem updErrRing_mem (a2 a3) : (updErrRing s a2 a3).mem = s.mem := rfl
@[simp] theorem updErrRing_fab (a2 a3) : (updErrRing s a2 a3).fab = s.fab := rfl
@[simp] theorem updErrRing_tide (a2 a3) : (updErrRing s a2 a3).tide = s.tide := rfl
@[simp] theorem updErrRing_coves (a2 a3) : (updErrRing s a2 a3).coves = s.coves := rfl
@[simp] theorem updErrRing_load (a2 a3) : (updErrRing s a2 a3).load = s.load := rfl
@[simp] theorem updErrRing_standin (a2 a3) : (updErrRing s a2 a3).standin = s.standin := rfl
@[simp] theorem updErrRing_remap (a2 a3) : (updErrRing s a2 a3).remap = s.remap := rfl
@[simp] theorem updErrRing_health (a2 a3) : (updErrRing s a2 a3).health = s.health := rfl
@[simp] theorem updErrRing_recov (a2 a3) : (updErrRing s a2 a3).recov = s.recov := rfl
@[simp] theorem updErrRing_host (a2 a3) : (updErrRing s a2 a3).host = s.host := rfl
@[simp] theorem updErrRing_fw (a2 a3) : (updErrRing s a2 a3).fw = s.fw := rfl
@[simp] theorem updErrRing_pwr (a2 a3) : (updErrRing s a2 a3).pwr = s.pwr := rfl
@[simp] theorem updErrRing_tray (a2 a3) : (updErrRing s a2 a3).tray = s.tray := rfl
@[simp] theorem updErrRing_free (a2 a3) : (updErrRing s a2 a3).free = s.free := rfl
@[simp] theorem updErrRing_pending (a2 a3) : (updErrRing s a2 a3).pending = s.pending := rfl

@[simp] theorem updWaitTrace_cu (a2 a3) : (updWaitTrace s a2 a3).cu = s.cu := rfl
@[simp] theorem updWaitTrace_moduleId (a2 a3) : (updWaitTrace s a2 a3).moduleId = s.moduleId := rfl
@[simp] theorem updWaitTrace_copperOnly (a2 a3) : (updWaitTrace s a2 a3).copperOnly = s.copperOnly := rfl
@[simp] theorem updWaitTrace_cores (a2 a3) : (updWaitTrace s a2 a3).cores = s.cores := rfl
@[simp] theorem updWaitTrace_clusters (a2 a3) : (updWaitTrace s a2 a3).clusters = s.clusters := rfl
@[simp] theorem updWaitTrace_mem (a2 a3) : (updWaitTrace s a2 a3).mem = s.mem := rfl
@[simp] theorem updWaitTrace_fab (a2 a3) : (updWaitTrace s a2 a3).fab = s.fab := rfl
@[simp] theorem updWaitTrace_tide (a2 a3) : (updWaitTrace s a2 a3).tide = s.tide := rfl
@[simp] theorem updWaitTrace_coves (a2 a3) : (updWaitTrace s a2 a3).coves = s.coves := rfl
@[simp] theorem updWaitTrace_load (a2 a3) : (updWaitTrace s a2 a3).load = s.load := rfl
@[simp] theorem updWaitTrace_standin (a2 a3) : (updWaitTrace s a2 a3).standin = s.standin := rfl
@[simp] theorem updWaitTrace_remap (a2 a3) : (updWaitTrace s a2 a3).remap = s.remap := rfl
@[simp] theorem updWaitTrace_health (a2 a3) : (updWaitTrace s a2 a3).health = s.health := rfl
@[simp] theorem updWaitTrace_recov (a2 a3) : (updWaitTrace s a2 a3).recov = s.recov := rfl
@[simp] theorem updWaitTrace_host (a2 a3) : (updWaitTrace s a2 a3).host = s.host := rfl
@[simp] theorem updWaitTrace_fw (a2 a3) : (updWaitTrace s a2 a3).fw = s.fw := rfl
@[simp] theorem updWaitTrace_pwr (a2 a3) : (updWaitTrace s a2 a3).pwr = s.pwr := rfl
@[simp] theorem updWaitTrace_tray (a2 a3) : (updWaitTrace s a2 a3).tray = s.tray := rfl
@[simp] theorem updWaitTrace_free (a2 a3) : (updWaitTrace s a2 a3).free = s.free := rfl
@[simp] theorem updWaitTrace_pending (a2 a3) : (updWaitTrace s a2 a3).pending = s.pending := rfl

@[simp] theorem updLedger_cu (a2 a3) : (updLedger s a2 a3).cu = s.cu := rfl
@[simp] theorem updLedger_moduleId (a2 a3) : (updLedger s a2 a3).moduleId = s.moduleId := rfl
@[simp] theorem updLedger_copperOnly (a2 a3) : (updLedger s a2 a3).copperOnly = s.copperOnly := rfl
@[simp] theorem updLedger_cores (a2 a3) : (updLedger s a2 a3).cores = s.cores := rfl
@[simp] theorem updLedger_clusters (a2 a3) : (updLedger s a2 a3).clusters = s.clusters := rfl
@[simp] theorem updLedger_mem (a2 a3) : (updLedger s a2 a3).mem = s.mem := rfl
@[simp] theorem updLedger_fab (a2 a3) : (updLedger s a2 a3).fab = s.fab := rfl
@[simp] theorem updLedger_tide (a2 a3) : (updLedger s a2 a3).tide = s.tide := rfl
@[simp] theorem updLedger_coves (a2 a3) : (updLedger s a2 a3).coves = s.coves := rfl
@[simp] theorem updLedger_load (a2 a3) : (updLedger s a2 a3).load = s.load := rfl
@[simp] theorem updLedger_standin (a2 a3) : (updLedger s a2 a3).standin = s.standin := rfl
@[simp] theorem updLedger_remap (a2 a3) : (updLedger s a2 a3).remap = s.remap := rfl
@[simp] theorem updLedger_trace (a2 a3) : (updLedger s a2 a3).trace = s.trace := rfl
@[simp] theorem updLedger_recov (a2 a3) : (updLedger s a2 a3).recov = s.recov := rfl
@[simp] theorem updLedger_host (a2 a3) : (updLedger s a2 a3).host = s.host := rfl
@[simp] theorem updLedger_fw (a2 a3) : (updLedger s a2 a3).fw = s.fw := rfl
@[simp] theorem updLedger_pwr (a2 a3) : (updLedger s a2 a3).pwr = s.pwr := rfl
@[simp] theorem updLedger_tray (a2 a3) : (updLedger s a2 a3).tray = s.tray := rfl
@[simp] theorem updLedger_free (a2 a3) : (updLedger s a2 a3).free = s.free := rfl
@[simp] theorem updLedger_pending (a2 a3) : (updLedger s a2 a3).pending = s.pending := rfl

@[simp] theorem setReg_cu (a2 a3) : (setReg s a2 a3).cu = s.cu := rfl
@[simp] theorem setReg_moduleId (a2 a3) : (setReg s a2 a3).moduleId = s.moduleId := rfl
@[simp] theorem setReg_copperOnly (a2 a3) : (setReg s a2 a3).copperOnly = s.copperOnly := rfl
@[simp] theorem setReg_cores (a2 a3) : (setReg s a2 a3).cores = s.cores := rfl
@[simp] theorem setReg_clusters (a2 a3) : (setReg s a2 a3).clusters = s.clusters := rfl
@[simp] theorem setReg_mem (a2 a3) : (setReg s a2 a3).mem = s.mem := rfl
@[simp] theorem setReg_fab (a2 a3) : (setReg s a2 a3).fab = s.fab := rfl
@[simp] theorem setReg_tide (a2 a3) : (setReg s a2 a3).tide = s.tide := rfl
@[simp] theorem setReg_coves (a2 a3) : (setReg s a2 a3).coves = s.coves := rfl
@[simp] theorem setReg_load (a2 a3) : (setReg s a2 a3).load = s.load := rfl
@[simp] theorem setReg_standin (a2 a3) : (setReg s a2 a3).standin = s.standin := rfl
@[simp] theorem setReg_remap (a2 a3) : (setReg s a2 a3).remap = s.remap := rfl
@[simp] theorem setReg_trace (a2 a3) : (setReg s a2 a3).trace = s.trace := rfl
@[simp] theorem setReg_health (a2 a3) : (setReg s a2 a3).health = s.health := rfl
@[simp] theorem setReg_recov (a2 a3) : (setReg s a2 a3).recov = s.recov := rfl
@[simp] theorem setReg_fw (a2 a3) : (setReg s a2 a3).fw = s.fw := rfl
@[simp] theorem setReg_pwr (a2 a3) : (setReg s a2 a3).pwr = s.pwr := rfl
@[simp] theorem setReg_tray (a2 a3) : (setReg s a2 a3).tray = s.tray := rfl
@[simp] theorem setReg_free (a2 a3) : (setReg s a2 a3).free = s.free := rfl
@[simp] theorem setReg_pending (a2 a3) : (setReg s a2 a3).pending = s.pending := rfl

@[simp] theorem updNear_cu (a2 a3) : (updNear s a2 a3).cu = s.cu := rfl
@[simp] theorem updNear_moduleId (a2 a3) : (updNear s a2 a3).moduleId = s.moduleId := rfl
@[simp] theorem updNear_copperOnly (a2 a3) : (updNear s a2 a3).copperOnly = s.copperOnly := rfl
@[simp] theorem updNear_cores (a2 a3) : (updNear s a2 a3).cores = s.cores := rfl
@[simp] theorem updNear_clusters (a2 a3) : (updNear s a2 a3).clusters = s.clusters := rfl
@[simp] theorem updNear_fab (a2 a3) : (updNear s a2 a3).fab = s.fab := rfl
@[simp] theorem updNear_tide (a2 a3) : (updNear s a2 a3).tide = s.tide := rfl
@[simp] theorem updNear_coves (a2 a3) : (updNear s a2 a3).coves = s.coves := rfl
@[simp] theorem updNear_load (a2 a3) : (updNear s a2 a3).load = s.load := rfl
@[simp] theorem updNear_standin (a2 a3) : (updNear s a2 a3).standin = s.standin := rfl
@[simp] theorem updNear_remap (a2 a3) : (updNear s a2 a3).remap = s.remap := rfl
@[simp] theorem updNear_trace (a2 a3) : (updNear s a2 a3).trace = s.trace := rfl
@[simp] theorem updNear_health (a2 a3) : (updNear s a2 a3).health = s.health := rfl
@[simp] theorem updNear_recov (a2 a3) : (updNear s a2 a3).recov = s.recov := rfl
@[simp] theorem updNear_host (a2 a3) : (updNear s a2 a3).host = s.host := rfl
@[simp] theorem updNear_fw (a2 a3) : (updNear s a2 a3).fw = s.fw := rfl
@[simp] theorem updNear_pwr (a2 a3) : (updNear s a2 a3).pwr = s.pwr := rfl
@[simp] theorem updNear_tray (a2 a3) : (updNear s a2 a3).tray = s.tray := rfl
@[simp] theorem updNear_free (a2 a3) : (updNear s a2 a3).free = s.free := rfl
@[simp] theorem updNear_pending (a2 a3) : (updNear s a2 a3).pending = s.pending := rfl

@[simp] theorem updStack_cu (a2 a3) : (updStack s a2 a3).cu = s.cu := rfl
@[simp] theorem updStack_moduleId (a2 a3) : (updStack s a2 a3).moduleId = s.moduleId := rfl
@[simp] theorem updStack_copperOnly (a2 a3) : (updStack s a2 a3).copperOnly = s.copperOnly := rfl
@[simp] theorem updStack_cores (a2 a3) : (updStack s a2 a3).cores = s.cores := rfl
@[simp] theorem updStack_clusters (a2 a3) : (updStack s a2 a3).clusters = s.clusters := rfl
@[simp] theorem updStack_fab (a2 a3) : (updStack s a2 a3).fab = s.fab := rfl
@[simp] theorem updStack_tide (a2 a3) : (updStack s a2 a3).tide = s.tide := rfl
@[simp] theorem updStack_coves (a2 a3) : (updStack s a2 a3).coves = s.coves := rfl
@[simp] theorem updStack_load (a2 a3) : (updStack s a2 a3).load = s.load := rfl
@[simp] theorem updStack_standin (a2 a3) : (updStack s a2 a3).standin = s.standin := rfl
@[simp] theorem updStack_remap (a2 a3) : (updStack s a2 a3).remap = s.remap := rfl
@[simp] theorem updStack_trace (a2 a3) : (updStack s a2 a3).trace = s.trace := rfl
@[simp] theorem updStack_health (a2 a3) : (updStack s a2 a3).health = s.health := rfl
@[simp] theorem updStack_recov (a2 a3) : (updStack s a2 a3).recov = s.recov := rfl
@[simp] theorem updStack_host (a2 a3) : (updStack s a2 a3).host = s.host := rfl
@[simp] theorem updStack_fw (a2 a3) : (updStack s a2 a3).fw = s.fw := rfl
@[simp] theorem updStack_pwr (a2 a3) : (updStack s a2 a3).pwr = s.pwr := rfl
@[simp] theorem updStack_tray (a2 a3) : (updStack s a2 a3).tray = s.tray := rfl
@[simp] theorem updStack_free (a2 a3) : (updStack s a2 a3).free = s.free := rfl
@[simp] theorem updStack_pending (a2 a3) : (updStack s a2 a3).pending = s.pending := rfl

@[simp] theorem hbmSet_cu (a2 a3) : (hbmSet s a2 a3).cu = s.cu := rfl
@[simp] theorem hbmSet_moduleId (a2 a3) : (hbmSet s a2 a3).moduleId = s.moduleId := rfl
@[simp] theorem hbmSet_copperOnly (a2 a3) : (hbmSet s a2 a3).copperOnly = s.copperOnly := rfl
@[simp] theorem hbmSet_cores (a2 a3) : (hbmSet s a2 a3).cores = s.cores := rfl
@[simp] theorem hbmSet_clusters (a2 a3) : (hbmSet s a2 a3).clusters = s.clusters := rfl
@[simp] theorem hbmSet_fab (a2 a3) : (hbmSet s a2 a3).fab = s.fab := rfl
@[simp] theorem hbmSet_tide (a2 a3) : (hbmSet s a2 a3).tide = s.tide := rfl
@[simp] theorem hbmSet_coves (a2 a3) : (hbmSet s a2 a3).coves = s.coves := rfl
@[simp] theorem hbmSet_load (a2 a3) : (hbmSet s a2 a3).load = s.load := rfl
@[simp] theorem hbmSet_standin (a2 a3) : (hbmSet s a2 a3).standin = s.standin := rfl
@[simp] theorem hbmSet_remap (a2 a3) : (hbmSet s a2 a3).remap = s.remap := rfl
@[simp] theorem hbmSet_trace (a2 a3) : (hbmSet s a2 a3).trace = s.trace := rfl
@[simp] theorem hbmSet_health (a2 a3) : (hbmSet s a2 a3).health = s.health := rfl
@[simp] theorem hbmSet_recov (a2 a3) : (hbmSet s a2 a3).recov = s.recov := rfl
@[simp] theorem hbmSet_host (a2 a3) : (hbmSet s a2 a3).host = s.host := rfl
@[simp] theorem hbmSet_fw (a2 a3) : (hbmSet s a2 a3).fw = s.fw := rfl
@[simp] theorem hbmSet_pwr (a2 a3) : (hbmSet s a2 a3).pwr = s.pwr := rfl
@[simp] theorem hbmSet_tray (a2 a3) : (hbmSet s a2 a3).tray = s.tray := rfl
@[simp] theorem hbmSet_free (a2 a3) : (hbmSet s a2 a3).free = s.free := rfl
@[simp] theorem hbmSet_pending (a2 a3) : (hbmSet s a2 a3).pending = s.pending := rfl

@[simp] theorem setFrame_cu (a2 a3 a4) : (setFrame s a2 a3 a4).cu = s.cu := rfl
@[simp] theorem setFrame_moduleId (a2 a3 a4) : (setFrame s a2 a3 a4).moduleId = s.moduleId := rfl
@[simp] theorem setFrame_copperOnly (a2 a3 a4) : (setFrame s a2 a3 a4).copperOnly = s.copperOnly := rfl
@[simp] theorem setFrame_cores (a2 a3 a4) : (setFrame s a2 a3 a4).cores = s.cores := rfl
@[simp] theorem setFrame_clusters (a2 a3 a4) : (setFrame s a2 a3 a4).clusters = s.clusters := rfl
@[simp] theorem setFrame_fab (a2 a3 a4) : (setFrame s a2 a3 a4).fab = s.fab := rfl
@[simp] theorem setFrame_tide (a2 a3 a4) : (setFrame s a2 a3 a4).tide = s.tide := rfl
@[simp] theorem setFrame_coves (a2 a3 a4) : (setFrame s a2 a3 a4).coves = s.coves := rfl
@[simp] theorem setFrame_load (a2 a3 a4) : (setFrame s a2 a3 a4).load = s.load := rfl
@[simp] theorem setFrame_standin (a2 a3 a4) : (setFrame s a2 a3 a4).standin = s.standin := rfl
@[simp] theorem setFrame_remap (a2 a3 a4) : (setFrame s a2 a3 a4).remap = s.remap := rfl
@[simp] theorem setFrame_trace (a2 a3 a4) : (setFrame s a2 a3 a4).trace = s.trace := rfl
@[simp] theorem setFrame_health (a2 a3 a4) : (setFrame s a2 a3 a4).health = s.health := rfl
@[simp] theorem setFrame_recov (a2 a3 a4) : (setFrame s a2 a3 a4).recov = s.recov := rfl
@[simp] theorem setFrame_host (a2 a3 a4) : (setFrame s a2 a3 a4).host = s.host := rfl
@[simp] theorem setFrame_fw (a2 a3 a4) : (setFrame s a2 a3 a4).fw = s.fw := rfl
@[simp] theorem setFrame_pwr (a2 a3 a4) : (setFrame s a2 a3 a4).pwr = s.pwr := rfl
@[simp] theorem setFrame_tray (a2 a3 a4) : (setFrame s a2 a3 a4).tray = s.tray := rfl
@[simp] theorem setFrame_free (a2 a3 a4) : (setFrame s a2 a3 a4).free = s.free := rfl
@[simp] theorem setFrame_pending (a2 a3 a4) : (setFrame s a2 a3 a4).pending = s.pending := rfl

@[simp] theorem scratchWrite_cu (a2 a3 a4) : (scratchWrite s a2 a3 a4).cu = s.cu := rfl
@[simp] theorem scratchWrite_moduleId (a2 a3 a4) : (scratchWrite s a2 a3 a4).moduleId = s.moduleId := rfl
@[simp] theorem scratchWrite_copperOnly (a2 a3 a4) : (scratchWrite s a2 a3 a4).copperOnly = s.copperOnly := rfl
@[simp] theorem scratchWrite_clusters (a2 a3 a4) : (scratchWrite s a2 a3 a4).clusters = s.clusters := rfl
@[simp] theorem scratchWrite_mem (a2 a3 a4) : (scratchWrite s a2 a3 a4).mem = s.mem := rfl
@[simp] theorem scratchWrite_fab (a2 a3 a4) : (scratchWrite s a2 a3 a4).fab = s.fab := rfl
@[simp] theorem scratchWrite_tide (a2 a3 a4) : (scratchWrite s a2 a3 a4).tide = s.tide := rfl
@[simp] theorem scratchWrite_coves (a2 a3 a4) : (scratchWrite s a2 a3 a4).coves = s.coves := rfl
@[simp] theorem scratchWrite_load (a2 a3 a4) : (scratchWrite s a2 a3 a4).load = s.load := rfl
@[simp] theorem scratchWrite_standin (a2 a3 a4) : (scratchWrite s a2 a3 a4).standin = s.standin := rfl
@[simp] theorem scratchWrite_remap (a2 a3 a4) : (scratchWrite s a2 a3 a4).remap = s.remap := rfl
@[simp] theorem scratchWrite_trace (a2 a3 a4) : (scratchWrite s a2 a3 a4).trace = s.trace := rfl
@[simp] theorem scratchWrite_health (a2 a3 a4) : (scratchWrite s a2 a3 a4).health = s.health := rfl
@[simp] theorem scratchWrite_recov (a2 a3 a4) : (scratchWrite s a2 a3 a4).recov = s.recov := rfl
@[simp] theorem scratchWrite_host (a2 a3 a4) : (scratchWrite s a2 a3 a4).host = s.host := rfl
@[simp] theorem scratchWrite_fw (a2 a3 a4) : (scratchWrite s a2 a3 a4).fw = s.fw := rfl
@[simp] theorem scratchWrite_pwr (a2 a3 a4) : (scratchWrite s a2 a3 a4).pwr = s.pwr := rfl
@[simp] theorem scratchWrite_tray (a2 a3 a4) : (scratchWrite s a2 a3 a4).tray = s.tray := rfl
@[simp] theorem scratchWrite_free (a2 a3 a4) : (scratchWrite s a2 a3 a4).free = s.free := rfl
@[simp] theorem scratchWrite_pending (a2 a3 a4) : (scratchWrite s a2 a3 a4).pending = s.pending := rfl

@[simp] theorem freeTick_cu : (freeTick s).cu = s.cu := rfl
@[simp] theorem freeTick_moduleId : (freeTick s).moduleId = s.moduleId := rfl
@[simp] theorem freeTick_copperOnly : (freeTick s).copperOnly = s.copperOnly := rfl
@[simp] theorem freeTick_cores : (freeTick s).cores = s.cores := rfl
@[simp] theorem freeTick_clusters : (freeTick s).clusters = s.clusters := rfl
@[simp] theorem freeTick_mem : (freeTick s).mem = s.mem := rfl
@[simp] theorem freeTick_fab : (freeTick s).fab = s.fab := rfl
@[simp] theorem freeTick_tide : (freeTick s).tide = s.tide := rfl
@[simp] theorem freeTick_coves : (freeTick s).coves = s.coves := rfl
@[simp] theorem freeTick_load : (freeTick s).load = s.load := rfl
@[simp] theorem freeTick_standin : (freeTick s).standin = s.standin := rfl
@[simp] theorem freeTick_remap : (freeTick s).remap = s.remap := rfl
@[simp] theorem freeTick_trace : (freeTick s).trace = s.trace := rfl
@[simp] theorem freeTick_health : (freeTick s).health = s.health := rfl
@[simp] theorem freeTick_recov : (freeTick s).recov = s.recov := rfl
@[simp] theorem freeTick_host : (freeTick s).host = s.host := rfl
@[simp] theorem freeTick_fw : (freeTick s).fw = s.fw := rfl
@[simp] theorem freeTick_pwr : (freeTick s).pwr = s.pwr := rfl
@[simp] theorem freeTick_tray : (freeTick s).tray = s.tray := rfl
@[simp] theorem freeTick_pending : (freeTick s).pending = s.pending := rfl

@[simp] theorem bump_cu (a2 a3 a4 a5) : (bump s a2 a3 a4 a5).cu = s.cu := rfl
@[simp] theorem bump_moduleId (a2 a3 a4 a5) : (bump s a2 a3 a4 a5).moduleId = s.moduleId := rfl
@[simp] theorem bump_copperOnly (a2 a3 a4 a5) : (bump s a2 a3 a4 a5).copperOnly = s.copperOnly := rfl
@[simp] theorem bump_cores (a2 a3 a4 a5) : (bump s a2 a3 a4 a5).cores = s.cores := rfl
@[simp] theorem bump_clusters (a2 a3 a4 a5) : (bump s a2 a3 a4 a5).clusters = s.clusters := rfl
@[simp] theorem bump_mem (a2 a3 a4 a5) : (bump s a2 a3 a4 a5).mem = s.mem := rfl
@[simp] theorem bump_fab (a2 a3 a4 a5) : (bump s a2 a3 a4 a5).fab = s.fab := rfl
@[simp] theorem bump_tide (a2 a3 a4 a5) : (bump s a2 a3 a4 a5).tide = s.tide := rfl
@[simp] theorem bump_coves (a2 a3 a4 a5) : (bump s a2 a3 a4 a5).coves = s.coves := rfl
@[simp] theorem bump_load (a2 a3 a4 a5) : (bump s a2 a3 a4 a5).load = s.load := rfl
@[simp] theorem bump_standin (a2 a3 a4 a5) : (bump s a2 a3 a4 a5).standin = s.standin := rfl
@[simp] theorem bump_remap (a2 a3 a4 a5) : (bump s a2 a3 a4 a5).remap = s.remap := rfl
@[simp] theorem bump_health (a2 a3 a4 a5) : (bump s a2 a3 a4 a5).health = s.health := rfl
@[simp] theorem bump_recov (a2 a3 a4 a5) : (bump s a2 a3 a4 a5).recov = s.recov := rfl
@[simp] theorem bump_host (a2 a3 a4 a5) : (bump s a2 a3 a4 a5).host = s.host := rfl
@[simp] theorem bump_fw (a2 a3 a4 a5) : (bump s a2 a3 a4 a5).fw = s.fw := rfl
@[simp] theorem bump_pwr (a2 a3 a4 a5) : (bump s a2 a3 a4 a5).pwr = s.pwr := rfl
@[simp] theorem bump_tray (a2 a3 a4 a5) : (bump s a2 a3 a4 a5).tray = s.tray := rfl
@[simp] theorem bump_free (a2 a3 a4 a5) : (bump s a2 a3 a4 a5).free = s.free := rfl
@[simp] theorem bump_pending (a2 a3 a4 a5) : (bump s a2 a3 a4 a5).pending = s.pending := rfl

@[simp] theorem bumpCove_cu (a2 a3 a4 a5 a6) : (bumpCove s a2 a3 a4 a5 a6).cu = s.cu := rfl
@[simp] theorem bumpCove_moduleId (a2 a3 a4 a5 a6) : (bumpCove s a2 a3 a4 a5 a6).moduleId = s.moduleId := rfl
@[simp] theorem bumpCove_copperOnly (a2 a3 a4 a5 a6) : (bumpCove s a2 a3 a4 a5 a6).copperOnly = s.copperOnly := rfl
@[simp] theorem bumpCove_cores (a2 a3 a4 a5 a6) : (bumpCove s a2 a3 a4 a5 a6).cores = s.cores := rfl
@[simp] theorem bumpCove_clusters (a2 a3 a4 a5 a6) : (bumpCove s a2 a3 a4 a5 a6).clusters = s.clusters := rfl
@[simp] theorem bumpCove_mem (a2 a3 a4 a5 a6) : (bumpCove s a2 a3 a4 a5 a6).mem = s.mem := rfl
@[simp] theorem bumpCove_fab (a2 a3 a4 a5 a6) : (bumpCove s a2 a3 a4 a5 a6).fab = s.fab := rfl
@[simp] theorem bumpCove_tide (a2 a3 a4 a5 a6) : (bumpCove s a2 a3 a4 a5 a6).tide = s.tide := rfl
@[simp] theorem bumpCove_coves (a2 a3 a4 a5 a6) : (bumpCove s a2 a3 a4 a5 a6).coves = s.coves := rfl
@[simp] theorem bumpCove_load (a2 a3 a4 a5 a6) : (bumpCove s a2 a3 a4 a5 a6).load = s.load := rfl
@[simp] theorem bumpCove_standin (a2 a3 a4 a5 a6) : (bumpCove s a2 a3 a4 a5 a6).standin = s.standin := rfl
@[simp] theorem bumpCove_remap (a2 a3 a4 a5 a6) : (bumpCove s a2 a3 a4 a5 a6).remap = s.remap := rfl
@[simp] theorem bumpCove_health (a2 a3 a4 a5 a6) : (bumpCove s a2 a3 a4 a5 a6).health = s.health := rfl
@[simp] theorem bumpCove_recov (a2 a3 a4 a5 a6) : (bumpCove s a2 a3 a4 a5 a6).recov = s.recov := rfl
@[simp] theorem bumpCove_host (a2 a3 a4 a5 a6) : (bumpCove s a2 a3 a4 a5 a6).host = s.host := rfl
@[simp] theorem bumpCove_fw (a2 a3 a4 a5 a6) : (bumpCove s a2 a3 a4 a5 a6).fw = s.fw := rfl
@[simp] theorem bumpCove_pwr (a2 a3 a4 a5 a6) : (bumpCove s a2 a3 a4 a5 a6).pwr = s.pwr := rfl
@[simp] theorem bumpCove_tray (a2 a3 a4 a5 a6) : (bumpCove s a2 a3 a4 a5 a6).tray = s.tray := rfl
@[simp] theorem bumpCove_free (a2 a3 a4 a5 a6) : (bumpCove s a2 a3 a4 a5 a6).free = s.free := rfl
@[simp] theorem bumpCove_pending (a2 a3 a4 a5 a6) : (bumpCove s a2 a3 a4 a5 a6).pending = s.pending := rfl

@[simp] theorem hostWrite_cu (a2 a3 a4) : (hostWrite s a2 a3 a4).cu = s.cu := rfl
@[simp] theorem hostWrite_moduleId (a2 a3 a4) : (hostWrite s a2 a3 a4).moduleId = s.moduleId := rfl
@[simp] theorem hostWrite_copperOnly (a2 a3 a4) : (hostWrite s a2 a3 a4).copperOnly = s.copperOnly := rfl
@[simp] theorem hostWrite_cores (a2 a3 a4) : (hostWrite s a2 a3 a4).cores = s.cores := rfl
@[simp] theorem hostWrite_clusters (a2 a3 a4) : (hostWrite s a2 a3 a4).clusters = s.clusters := rfl
@[simp] theorem hostWrite_mem (a2 a3 a4) : (hostWrite s a2 a3 a4).mem = s.mem := rfl
@[simp] theorem hostWrite_fab (a2 a3 a4) : (hostWrite s a2 a3 a4).fab = s.fab := rfl
@[simp] theorem hostWrite_tide (a2 a3 a4) : (hostWrite s a2 a3 a4).tide = s.tide := rfl
@[simp] theorem hostWrite_coves (a2 a3 a4) : (hostWrite s a2 a3 a4).coves = s.coves := rfl
@[simp] theorem hostWrite_load (a2 a3 a4) : (hostWrite s a2 a3 a4).load = s.load := rfl
@[simp] theorem hostWrite_standin (a2 a3 a4) : (hostWrite s a2 a3 a4).standin = s.standin := rfl
@[simp] theorem hostWrite_remap (a2 a3 a4) : (hostWrite s a2 a3 a4).remap = s.remap := rfl
@[simp] theorem hostWrite_trace (a2 a3 a4) : (hostWrite s a2 a3 a4).trace = s.trace := rfl
@[simp] theorem hostWrite_health (a2 a3 a4) : (hostWrite s a2 a3 a4).health = s.health := rfl
@[simp] theorem hostWrite_recov (a2 a3 a4) : (hostWrite s a2 a3 a4).recov = s.recov := rfl
@[simp] theorem hostWrite_fw (a2 a3 a4) : (hostWrite s a2 a3 a4).fw = s.fw := rfl
@[simp] theorem hostWrite_pwr (a2 a3 a4) : (hostWrite s a2 a3 a4).pwr = s.pwr := rfl
@[simp] theorem hostWrite_tray (a2 a3 a4) : (hostWrite s a2 a3 a4).tray = s.tray := rfl
@[simp] theorem hostWrite_free (a2 a3 a4) : (hostWrite s a2 a3 a4).free = s.free := rfl
@[simp] theorem hostWrite_pending (a2 a3 a4) : (hostWrite s a2 a3 a4).pending = s.pending := rfl

@[simp] theorem writeLine_cu (a2 a3) : (writeLine s a2 a3).cu = s.cu := rfl
@[simp] theorem writeLine_moduleId (a2 a3) : (writeLine s a2 a3).moduleId = s.moduleId := rfl
@[simp] theorem writeLine_copperOnly (a2 a3) : (writeLine s a2 a3).copperOnly = s.copperOnly := rfl
@[simp] theorem writeLine_cores (a2 a3) : (writeLine s a2 a3).cores = s.cores := rfl
@[simp] theorem writeLine_clusters (a2 a3) : (writeLine s a2 a3).clusters = s.clusters := rfl
@[simp] theorem writeLine_mem (a2 a3) : (writeLine s a2 a3).mem = s.mem := rfl
@[simp] theorem writeLine_fab (a2 a3) : (writeLine s a2 a3).fab = s.fab := rfl
@[simp] theorem writeLine_tide (a2 a3) : (writeLine s a2 a3).tide = s.tide := rfl
@[simp] theorem writeLine_coves (a2 a3) : (writeLine s a2 a3).coves = s.coves := rfl
@[simp] theorem writeLine_load (a2 a3) : (writeLine s a2 a3).load = s.load := rfl
@[simp] theorem writeLine_standin (a2 a3) : (writeLine s a2 a3).standin = s.standin := rfl
@[simp] theorem writeLine_remap (a2 a3) : (writeLine s a2 a3).remap = s.remap := rfl
@[simp] theorem writeLine_trace (a2 a3) : (writeLine s a2 a3).trace = s.trace := rfl
@[simp] theorem writeLine_health (a2 a3) : (writeLine s a2 a3).health = s.health := rfl
@[simp] theorem writeLine_recov (a2 a3) : (writeLine s a2 a3).recov = s.recov := rfl
@[simp] theorem writeLine_fw (a2 a3) : (writeLine s a2 a3).fw = s.fw := rfl
@[simp] theorem writeLine_pwr (a2 a3) : (writeLine s a2 a3).pwr = s.pwr := rfl
@[simp] theorem writeLine_tray (a2 a3) : (writeLine s a2 a3).tray = s.tray := rfl
@[simp] theorem writeLine_free (a2 a3) : (writeLine s a2 a3).free = s.free := rfl
@[simp] theorem writeLine_pending (a2 a3) : (writeLine s a2 a3).pending = s.pending := rfl

@[simp] theorem emit_cu (a2 a3 a4) : (emit s a2 a3 a4).cu = s.cu := rfl
@[simp] theorem emit_moduleId (a2 a3 a4) : (emit s a2 a3 a4).moduleId = s.moduleId := rfl
@[simp] theorem emit_copperOnly (a2 a3 a4) : (emit s a2 a3 a4).copperOnly = s.copperOnly := rfl
@[simp] theorem emit_cores (a2 a3 a4) : (emit s a2 a3 a4).cores = s.cores := rfl
@[simp] theorem emit_clusters (a2 a3 a4) : (emit s a2 a3 a4).clusters = s.clusters := rfl
@[simp] theorem emit_mem (a2 a3 a4) : (emit s a2 a3 a4).mem = s.mem := rfl
@[simp] theorem emit_tide (a2 a3 a4) : (emit s a2 a3 a4).tide = s.tide := rfl
@[simp] theorem emit_coves (a2 a3 a4) : (emit s a2 a3 a4).coves = s.coves := rfl
@[simp] theorem emit_load (a2 a3 a4) : (emit s a2 a3 a4).load = s.load := rfl
@[simp] theorem emit_standin (a2 a3 a4) : (emit s a2 a3 a4).standin = s.standin := rfl
@[simp] theorem emit_remap (a2 a3 a4) : (emit s a2 a3 a4).remap = s.remap := rfl
@[simp] theorem emit_trace (a2 a3 a4) : (emit s a2 a3 a4).trace = s.trace := rfl
@[simp] theorem emit_health (a2 a3 a4) : (emit s a2 a3 a4).health = s.health := rfl
@[simp] theorem emit_recov (a2 a3 a4) : (emit s a2 a3 a4).recov = s.recov := rfl
@[simp] theorem emit_host (a2 a3 a4) : (emit s a2 a3 a4).host = s.host := rfl
@[simp] theorem emit_fw (a2 a3 a4) : (emit s a2 a3 a4).fw = s.fw := rfl
@[simp] theorem emit_pwr (a2 a3 a4) : (emit s a2 a3 a4).pwr = s.pwr := rfl
@[simp] theorem emit_tray (a2 a3 a4) : (emit s a2 a3 a4).tray = s.tray := rfl
@[simp] theorem emit_free (a2 a3 a4) : (emit s a2 a3 a4).free = s.free := rfl
@[simp] theorem emit_pending (a2 a3 a4) : (emit s a2 a3 a4).pending = s.pending := rfl

@[simp] theorem queueOut_cu (o) : (queueOut s o).cu = s.cu := rfl
@[simp] theorem queueOut_moduleId (o) : (queueOut s o).moduleId = s.moduleId := rfl
@[simp] theorem queueOut_copperOnly (o) : (queueOut s o).copperOnly = s.copperOnly := rfl
@[simp] theorem queueOut_cores (o) : (queueOut s o).cores = s.cores := rfl
@[simp] theorem queueOut_clusters (o) : (queueOut s o).clusters = s.clusters := rfl
@[simp] theorem queueOut_mem (o) : (queueOut s o).mem = s.mem := rfl
@[simp] theorem queueOut_tide (o) : (queueOut s o).tide = s.tide := rfl
@[simp] theorem queueOut_coves (o) : (queueOut s o).coves = s.coves := rfl
@[simp] theorem queueOut_load (o) : (queueOut s o).load = s.load := rfl
@[simp] theorem queueOut_standin (o) : (queueOut s o).standin = s.standin := rfl
@[simp] theorem queueOut_remap (o) : (queueOut s o).remap = s.remap := rfl
@[simp] theorem queueOut_trace (o) : (queueOut s o).trace = s.trace := rfl
@[simp] theorem queueOut_health (o) : (queueOut s o).health = s.health := rfl
@[simp] theorem queueOut_recov (o) : (queueOut s o).recov = s.recov := rfl
@[simp] theorem queueOut_host (o) : (queueOut s o).host = s.host := rfl
@[simp] theorem queueOut_fw (o) : (queueOut s o).fw = s.fw := rfl
@[simp] theorem queueOut_pwr (o) : (queueOut s o).pwr = s.pwr := rfl
@[simp] theorem queueOut_tray (o) : (queueOut s o).tray = s.tray := rfl
@[simp] theorem queueOut_free (o) : (queueOut s o).free = s.free := rfl
@[simp] theorem queueOut_pending (o) : (queueOut s o).pending = s.pending := rfl

@[simp] theorem fenceEntry_cu (a2 a3 a4 a5) : (fenceEntry s a2 a3 a4 a5).cu = s.cu := by simp only [fenceEntry]
@[simp] theorem fenceEntry_moduleId (a2 a3 a4 a5) : (fenceEntry s a2 a3 a4 a5).moduleId = s.moduleId := by simp only [fenceEntry]
@[simp] theorem fenceEntry_copperOnly (a2 a3 a4 a5) : (fenceEntry s a2 a3 a4 a5).copperOnly = s.copperOnly := by simp only [fenceEntry]
@[simp] theorem fenceEntry_cores (a2 a3 a4 a5) : (fenceEntry s a2 a3 a4 a5).cores = s.cores := by simp only [fenceEntry]
@[simp] theorem fenceEntry_clusters (a2 a3 a4 a5) : (fenceEntry s a2 a3 a4 a5).clusters = s.clusters := by simp only [fenceEntry]
@[simp] theorem fenceEntry_mem (a2 a3 a4 a5) : (fenceEntry s a2 a3 a4 a5).mem = s.mem := by simp only [fenceEntry]
@[simp] theorem fenceEntry_fab (a2 a3 a4 a5) : (fenceEntry s a2 a3 a4 a5).fab = s.fab := by simp only [fenceEntry]
@[simp] theorem fenceEntry_tide (a2 a3 a4 a5) : (fenceEntry s a2 a3 a4 a5).tide = s.tide := by simp only [fenceEntry]
@[simp] theorem fenceEntry_coves (a2 a3 a4 a5) : (fenceEntry s a2 a3 a4 a5).coves = s.coves := by simp only [fenceEntry]
@[simp] theorem fenceEntry_load (a2 a3 a4 a5) : (fenceEntry s a2 a3 a4 a5).load = s.load := by simp only [fenceEntry]
@[simp] theorem fenceEntry_standin (a2 a3 a4 a5) : (fenceEntry s a2 a3 a4 a5).standin = s.standin := by simp only [fenceEntry]
@[simp] theorem fenceEntry_remap (a2 a3 a4 a5) : (fenceEntry s a2 a3 a4 a5).remap = s.remap := by simp only [fenceEntry]
@[simp] theorem fenceEntry_trace (a2 a3 a4 a5) : (fenceEntry s a2 a3 a4 a5).trace = s.trace := by simp only [fenceEntry]
@[simp] theorem fenceEntry_recov (a2 a3 a4 a5) : (fenceEntry s a2 a3 a4 a5).recov = s.recov := by simp only [fenceEntry]
@[simp] theorem fenceEntry_host (a2 a3 a4 a5) : (fenceEntry s a2 a3 a4 a5).host = s.host := by simp only [fenceEntry]
@[simp] theorem fenceEntry_fw (a2 a3 a4 a5) : (fenceEntry s a2 a3 a4 a5).fw = s.fw := by simp only [fenceEntry]
@[simp] theorem fenceEntry_pwr (a2 a3 a4 a5) : (fenceEntry s a2 a3 a4 a5).pwr = s.pwr := by simp only [fenceEntry]
@[simp] theorem fenceEntry_tray (a2 a3 a4 a5) : (fenceEntry s a2 a3 a4 a5).tray = s.tray := by simp only [fenceEntry]
@[simp] theorem fenceEntry_free (a2 a3 a4 a5) : (fenceEntry s a2 a3 a4 a5).free = s.free := by simp only [fenceEntry]
@[simp] theorem fenceEntry_pending (a2 a3 a4 a5) : (fenceEntry s a2 a3 a4 a5).pending = s.pending := by simp only [fenceEntry]

/-! ### Operations that count, log and report -/

/-- A core counter touches counters only. -/
theorem bumpCore_frame (a2 a3 a4) :
    ∃ x0, bumpCore s a2 a3 a4 = { s with trace := x0 } := by
  unfold bumpCore; split <;> exact ⟨_, rfl⟩

@[simp] theorem bumpCore_cu (a2 a3 a4) : (bumpCore s a2 a3 a4).cu = s.cu := by
  obtain ⟨_, e⟩ := bumpCore_frame s _ _ _; rw [e]
@[simp] theorem bumpCore_moduleId (a2 a3 a4) : (bumpCore s a2 a3 a4).moduleId = s.moduleId := by
  obtain ⟨_, e⟩ := bumpCore_frame s _ _ _; rw [e]
@[simp] theorem bumpCore_copperOnly (a2 a3 a4) : (bumpCore s a2 a3 a4).copperOnly = s.copperOnly := by
  obtain ⟨_, e⟩ := bumpCore_frame s _ _ _; rw [e]
@[simp] theorem bumpCore_cores (a2 a3 a4) : (bumpCore s a2 a3 a4).cores = s.cores := by
  obtain ⟨_, e⟩ := bumpCore_frame s _ _ _; rw [e]
@[simp] theorem bumpCore_clusters (a2 a3 a4) : (bumpCore s a2 a3 a4).clusters = s.clusters := by
  obtain ⟨_, e⟩ := bumpCore_frame s _ _ _; rw [e]
@[simp] theorem bumpCore_mem (a2 a3 a4) : (bumpCore s a2 a3 a4).mem = s.mem := by
  obtain ⟨_, e⟩ := bumpCore_frame s _ _ _; rw [e]
@[simp] theorem bumpCore_fab (a2 a3 a4) : (bumpCore s a2 a3 a4).fab = s.fab := by
  obtain ⟨_, e⟩ := bumpCore_frame s _ _ _; rw [e]
@[simp] theorem bumpCore_tide (a2 a3 a4) : (bumpCore s a2 a3 a4).tide = s.tide := by
  obtain ⟨_, e⟩ := bumpCore_frame s _ _ _; rw [e]
@[simp] theorem bumpCore_coves (a2 a3 a4) : (bumpCore s a2 a3 a4).coves = s.coves := by
  obtain ⟨_, e⟩ := bumpCore_frame s _ _ _; rw [e]
@[simp] theorem bumpCore_load (a2 a3 a4) : (bumpCore s a2 a3 a4).load = s.load := by
  obtain ⟨_, e⟩ := bumpCore_frame s _ _ _; rw [e]
@[simp] theorem bumpCore_standin (a2 a3 a4) : (bumpCore s a2 a3 a4).standin = s.standin := by
  obtain ⟨_, e⟩ := bumpCore_frame s _ _ _; rw [e]
@[simp] theorem bumpCore_remap (a2 a3 a4) : (bumpCore s a2 a3 a4).remap = s.remap := by
  obtain ⟨_, e⟩ := bumpCore_frame s _ _ _; rw [e]
@[simp] theorem bumpCore_health (a2 a3 a4) : (bumpCore s a2 a3 a4).health = s.health := by
  obtain ⟨_, e⟩ := bumpCore_frame s _ _ _; rw [e]
@[simp] theorem bumpCore_recov (a2 a3 a4) : (bumpCore s a2 a3 a4).recov = s.recov := by
  obtain ⟨_, e⟩ := bumpCore_frame s _ _ _; rw [e]
@[simp] theorem bumpCore_host (a2 a3 a4) : (bumpCore s a2 a3 a4).host = s.host := by
  obtain ⟨_, e⟩ := bumpCore_frame s _ _ _; rw [e]
@[simp] theorem bumpCore_fw (a2 a3 a4) : (bumpCore s a2 a3 a4).fw = s.fw := by
  obtain ⟨_, e⟩ := bumpCore_frame s _ _ _; rw [e]
@[simp] theorem bumpCore_pwr (a2 a3 a4) : (bumpCore s a2 a3 a4).pwr = s.pwr := by
  obtain ⟨_, e⟩ := bumpCore_frame s _ _ _; rw [e]
@[simp] theorem bumpCore_tray (a2 a3 a4) : (bumpCore s a2 a3 a4).tray = s.tray := by
  obtain ⟨_, e⟩ := bumpCore_frame s _ _ _; rw [e]
@[simp] theorem bumpCore_free (a2 a3 a4) : (bumpCore s a2 a3 a4).free = s.free := by
  obtain ⟨_, e⟩ := bumpCore_frame s _ _ _; rw [e]
@[simp] theorem bumpCore_pending (a2 a3 a4) : (bumpCore s a2 a3 a4).pending = s.pending := by
  obtain ⟨_, e⟩ := bumpCore_frame s _ _ _; rw [e]

/-- A cove counter touches counters only. -/
theorem bumpCoveSet_frame (a2 a3 a4) :
    ∃ x0, bumpCoveSet s a2 a3 a4 = { s with trace := x0 } := by
  unfold bumpCoveSet; split <;> exact ⟨_, rfl⟩

@[simp] theorem bumpCoveSet_cu (a2 a3 a4) : (bumpCoveSet s a2 a3 a4).cu = s.cu := by
  obtain ⟨_, e⟩ := bumpCoveSet_frame s _ _ _; rw [e]
@[simp] theorem bumpCoveSet_moduleId (a2 a3 a4) : (bumpCoveSet s a2 a3 a4).moduleId = s.moduleId := by
  obtain ⟨_, e⟩ := bumpCoveSet_frame s _ _ _; rw [e]
@[simp] theorem bumpCoveSet_copperOnly (a2 a3 a4) : (bumpCoveSet s a2 a3 a4).copperOnly = s.copperOnly := by
  obtain ⟨_, e⟩ := bumpCoveSet_frame s _ _ _; rw [e]
@[simp] theorem bumpCoveSet_cores (a2 a3 a4) : (bumpCoveSet s a2 a3 a4).cores = s.cores := by
  obtain ⟨_, e⟩ := bumpCoveSet_frame s _ _ _; rw [e]
@[simp] theorem bumpCoveSet_clusters (a2 a3 a4) : (bumpCoveSet s a2 a3 a4).clusters = s.clusters := by
  obtain ⟨_, e⟩ := bumpCoveSet_frame s _ _ _; rw [e]
@[simp] theorem bumpCoveSet_mem (a2 a3 a4) : (bumpCoveSet s a2 a3 a4).mem = s.mem := by
  obtain ⟨_, e⟩ := bumpCoveSet_frame s _ _ _; rw [e]
@[simp] theorem bumpCoveSet_fab (a2 a3 a4) : (bumpCoveSet s a2 a3 a4).fab = s.fab := by
  obtain ⟨_, e⟩ := bumpCoveSet_frame s _ _ _; rw [e]
@[simp] theorem bumpCoveSet_tide (a2 a3 a4) : (bumpCoveSet s a2 a3 a4).tide = s.tide := by
  obtain ⟨_, e⟩ := bumpCoveSet_frame s _ _ _; rw [e]
@[simp] theorem bumpCoveSet_coves (a2 a3 a4) : (bumpCoveSet s a2 a3 a4).coves = s.coves := by
  obtain ⟨_, e⟩ := bumpCoveSet_frame s _ _ _; rw [e]
@[simp] theorem bumpCoveSet_load (a2 a3 a4) : (bumpCoveSet s a2 a3 a4).load = s.load := by
  obtain ⟨_, e⟩ := bumpCoveSet_frame s _ _ _; rw [e]
@[simp] theorem bumpCoveSet_standin (a2 a3 a4) : (bumpCoveSet s a2 a3 a4).standin = s.standin := by
  obtain ⟨_, e⟩ := bumpCoveSet_frame s _ _ _; rw [e]
@[simp] theorem bumpCoveSet_remap (a2 a3 a4) : (bumpCoveSet s a2 a3 a4).remap = s.remap := by
  obtain ⟨_, e⟩ := bumpCoveSet_frame s _ _ _; rw [e]
@[simp] theorem bumpCoveSet_health (a2 a3 a4) : (bumpCoveSet s a2 a3 a4).health = s.health := by
  obtain ⟨_, e⟩ := bumpCoveSet_frame s _ _ _; rw [e]
@[simp] theorem bumpCoveSet_recov (a2 a3 a4) : (bumpCoveSet s a2 a3 a4).recov = s.recov := by
  obtain ⟨_, e⟩ := bumpCoveSet_frame s _ _ _; rw [e]
@[simp] theorem bumpCoveSet_host (a2 a3 a4) : (bumpCoveSet s a2 a3 a4).host = s.host := by
  obtain ⟨_, e⟩ := bumpCoveSet_frame s _ _ _; rw [e]
@[simp] theorem bumpCoveSet_fw (a2 a3 a4) : (bumpCoveSet s a2 a3 a4).fw = s.fw := by
  obtain ⟨_, e⟩ := bumpCoveSet_frame s _ _ _; rw [e]
@[simp] theorem bumpCoveSet_pwr (a2 a3 a4) : (bumpCoveSet s a2 a3 a4).pwr = s.pwr := by
  obtain ⟨_, e⟩ := bumpCoveSet_frame s _ _ _; rw [e]
@[simp] theorem bumpCoveSet_tray (a2 a3 a4) : (bumpCoveSet s a2 a3 a4).tray = s.tray := by
  obtain ⟨_, e⟩ := bumpCoveSet_frame s _ _ _; rw [e]
@[simp] theorem bumpCoveSet_free (a2 a3 a4) : (bumpCoveSet s a2 a3 a4).free = s.free := by
  obtain ⟨_, e⟩ := bumpCoveSet_frame s _ _ _; rw [e]
@[simp] theorem bumpCoveSet_pending (a2 a3 a4) : (bumpCoveSet s a2 a3 a4).pending = s.pending := by
  obtain ⟨_, e⟩ := bumpCoveSet_frame s _ _ _; rw [e]

/-- Dropping old buckets touches the wear inputs only. -/
theorem wearRoll_frame :
    ∃ x0, wearRoll s = { s with health := x0 } := by
  unfold wearRoll; dsimp only; split <;> exact ⟨_, rfl⟩

@[simp] theorem wearRoll_cu : (wearRoll s).cu = s.cu := by
  obtain ⟨_, e⟩ := wearRoll_frame s; rw [e]
@[simp] theorem wearRoll_moduleId : (wearRoll s).moduleId = s.moduleId := by
  obtain ⟨_, e⟩ := wearRoll_frame s; rw [e]
@[simp] theorem wearRoll_copperOnly : (wearRoll s).copperOnly = s.copperOnly := by
  obtain ⟨_, e⟩ := wearRoll_frame s; rw [e]
@[simp] theorem wearRoll_cores : (wearRoll s).cores = s.cores := by
  obtain ⟨_, e⟩ := wearRoll_frame s; rw [e]
@[simp] theorem wearRoll_clusters : (wearRoll s).clusters = s.clusters := by
  obtain ⟨_, e⟩ := wearRoll_frame s; rw [e]
@[simp] theorem wearRoll_mem : (wearRoll s).mem = s.mem := by
  obtain ⟨_, e⟩ := wearRoll_frame s; rw [e]
@[simp] theorem wearRoll_fab : (wearRoll s).fab = s.fab := by
  obtain ⟨_, e⟩ := wearRoll_frame s; rw [e]
@[simp] theorem wearRoll_tide : (wearRoll s).tide = s.tide := by
  obtain ⟨_, e⟩ := wearRoll_frame s; rw [e]
@[simp] theorem wearRoll_coves : (wearRoll s).coves = s.coves := by
  obtain ⟨_, e⟩ := wearRoll_frame s; rw [e]
@[simp] theorem wearRoll_load : (wearRoll s).load = s.load := by
  obtain ⟨_, e⟩ := wearRoll_frame s; rw [e]
@[simp] theorem wearRoll_standin : (wearRoll s).standin = s.standin := by
  obtain ⟨_, e⟩ := wearRoll_frame s; rw [e]
@[simp] theorem wearRoll_remap : (wearRoll s).remap = s.remap := by
  obtain ⟨_, e⟩ := wearRoll_frame s; rw [e]
@[simp] theorem wearRoll_trace : (wearRoll s).trace = s.trace := by
  obtain ⟨_, e⟩ := wearRoll_frame s; rw [e]
@[simp] theorem wearRoll_recov : (wearRoll s).recov = s.recov := by
  obtain ⟨_, e⟩ := wearRoll_frame s; rw [e]
@[simp] theorem wearRoll_host : (wearRoll s).host = s.host := by
  obtain ⟨_, e⟩ := wearRoll_frame s; rw [e]
@[simp] theorem wearRoll_fw : (wearRoll s).fw = s.fw := by
  obtain ⟨_, e⟩ := wearRoll_frame s; rw [e]
@[simp] theorem wearRoll_pwr : (wearRoll s).pwr = s.pwr := by
  obtain ⟨_, e⟩ := wearRoll_frame s; rw [e]
@[simp] theorem wearRoll_tray : (wearRoll s).tray = s.tray := by
  obtain ⟨_, e⟩ := wearRoll_frame s; rw [e]
@[simp] theorem wearRoll_free : (wearRoll s).free = s.free := by
  obtain ⟨_, e⟩ := wearRoll_frame s; rw [e]
@[simp] theorem wearRoll_pending : (wearRoll s).pending = s.pending := by
  obtain ⟨_, e⟩ := wearRoll_frame s; rw [e]

/-- A wear input touches the wear inputs only. -/
theorem wearAdd_frame (a2 a3 a4 a5) :
    ∃ x0, wearAdd s a2 a3 a4 a5 = { s with health := x0 } := by
  unfold wearAdd
  obtain ⟨_, e⟩ := wearRoll_frame s
  rw [e]; exact ⟨_, rfl⟩

@[simp] theorem wearAdd_cu (a2 a3 a4 a5) : (wearAdd s a2 a3 a4 a5).cu = s.cu := by
  obtain ⟨_, e⟩ := wearAdd_frame s _ _ _ _; rw [e]
@[simp] theorem wearAdd_moduleId (a2 a3 a4 a5) : (wearAdd s a2 a3 a4 a5).moduleId = s.moduleId := by
  obtain ⟨_, e⟩ := wearAdd_frame s _ _ _ _; rw [e]
@[simp] theorem wearAdd_copperOnly (a2 a3 a4 a5) : (wearAdd s a2 a3 a4 a5).copperOnly = s.copperOnly := by
  obtain ⟨_, e⟩ := wearAdd_frame s _ _ _ _; rw [e]
@[simp] theorem wearAdd_cores (a2 a3 a4 a5) : (wearAdd s a2 a3 a4 a5).cores = s.cores := by
  obtain ⟨_, e⟩ := wearAdd_frame s _ _ _ _; rw [e]
@[simp] theorem wearAdd_clusters (a2 a3 a4 a5) : (wearAdd s a2 a3 a4 a5).clusters = s.clusters := by
  obtain ⟨_, e⟩ := wearAdd_frame s _ _ _ _; rw [e]
@[simp] theorem wearAdd_mem (a2 a3 a4 a5) : (wearAdd s a2 a3 a4 a5).mem = s.mem := by
  obtain ⟨_, e⟩ := wearAdd_frame s _ _ _ _; rw [e]
@[simp] theorem wearAdd_fab (a2 a3 a4 a5) : (wearAdd s a2 a3 a4 a5).fab = s.fab := by
  obtain ⟨_, e⟩ := wearAdd_frame s _ _ _ _; rw [e]
@[simp] theorem wearAdd_tide (a2 a3 a4 a5) : (wearAdd s a2 a3 a4 a5).tide = s.tide := by
  obtain ⟨_, e⟩ := wearAdd_frame s _ _ _ _; rw [e]
@[simp] theorem wearAdd_coves (a2 a3 a4 a5) : (wearAdd s a2 a3 a4 a5).coves = s.coves := by
  obtain ⟨_, e⟩ := wearAdd_frame s _ _ _ _; rw [e]
@[simp] theorem wearAdd_load (a2 a3 a4 a5) : (wearAdd s a2 a3 a4 a5).load = s.load := by
  obtain ⟨_, e⟩ := wearAdd_frame s _ _ _ _; rw [e]
@[simp] theorem wearAdd_standin (a2 a3 a4 a5) : (wearAdd s a2 a3 a4 a5).standin = s.standin := by
  obtain ⟨_, e⟩ := wearAdd_frame s _ _ _ _; rw [e]
@[simp] theorem wearAdd_remap (a2 a3 a4 a5) : (wearAdd s a2 a3 a4 a5).remap = s.remap := by
  obtain ⟨_, e⟩ := wearAdd_frame s _ _ _ _; rw [e]
@[simp] theorem wearAdd_trace (a2 a3 a4 a5) : (wearAdd s a2 a3 a4 a5).trace = s.trace := by
  obtain ⟨_, e⟩ := wearAdd_frame s _ _ _ _; rw [e]
@[simp] theorem wearAdd_recov (a2 a3 a4 a5) : (wearAdd s a2 a3 a4 a5).recov = s.recov := by
  obtain ⟨_, e⟩ := wearAdd_frame s _ _ _ _; rw [e]
@[simp] theorem wearAdd_host (a2 a3 a4 a5) : (wearAdd s a2 a3 a4 a5).host = s.host := by
  obtain ⟨_, e⟩ := wearAdd_frame s _ _ _ _; rw [e]
@[simp] theorem wearAdd_fw (a2 a3 a4 a5) : (wearAdd s a2 a3 a4 a5).fw = s.fw := by
  obtain ⟨_, e⟩ := wearAdd_frame s _ _ _ _; rw [e]
@[simp] theorem wearAdd_pwr (a2 a3 a4 a5) : (wearAdd s a2 a3 a4 a5).pwr = s.pwr := by
  obtain ⟨_, e⟩ := wearAdd_frame s _ _ _ _; rw [e]
@[simp] theorem wearAdd_tray (a2 a3 a4 a5) : (wearAdd s a2 a3 a4 a5).tray = s.tray := by
  obtain ⟨_, e⟩ := wearAdd_frame s _ _ _ _; rw [e]
@[simp] theorem wearAdd_free (a2 a3 a4 a5) : (wearAdd s a2 a3 a4 a5).free = s.free := by
  obtain ⟨_, e⟩ := wearAdd_frame s _ _ _ _; rw [e]
@[simp] theorem wearAdd_pending (a2 a3 a4 a5) : (wearAdd s a2 a3 a4 a5).pending = s.pending := by
  obtain ⟨_, e⟩ := wearAdd_frame s _ _ _ _; rw [e]

/-- Draining a ring touches the host side only. -/
theorem drainLines_frame (a1 a3) :
    ∃ x0, drainLines a1 s a3 = { s with host := x0 } := by
  induction a1 generalizing s with
  | zero => exact ⟨_, rfl⟩
  | succ n ih =>
    unfold drainLines
    split
    · exact ⟨_, rfl⟩
    · split
      · obtain ⟨_, e⟩ := ih (updRing (writeLine s a3 _) a3 _)
        rw [e]; exact ⟨_, rfl⟩
      · exact ⟨_, rfl⟩

@[simp] theorem drainLines_cu (a1 a3) : (drainLines a1 s a3).cu = s.cu := by
  obtain ⟨_, e⟩ := drainLines_frame s _ _; rw [e]
@[simp] theorem drainLines_moduleId (a1 a3) : (drainLines a1 s a3).moduleId = s.moduleId := by
  obtain ⟨_, e⟩ := drainLines_frame s _ _; rw [e]
@[simp] theorem drainLines_copperOnly (a1 a3) : (drainLines a1 s a3).copperOnly = s.copperOnly := by
  obtain ⟨_, e⟩ := drainLines_frame s _ _; rw [e]
@[simp] theorem drainLines_cores (a1 a3) : (drainLines a1 s a3).cores = s.cores := by
  obtain ⟨_, e⟩ := drainLines_frame s _ _; rw [e]
@[simp] theorem drainLines_clusters (a1 a3) : (drainLines a1 s a3).clusters = s.clusters := by
  obtain ⟨_, e⟩ := drainLines_frame s _ _; rw [e]
@[simp] theorem drainLines_mem (a1 a3) : (drainLines a1 s a3).mem = s.mem := by
  obtain ⟨_, e⟩ := drainLines_frame s _ _; rw [e]
@[simp] theorem drainLines_fab (a1 a3) : (drainLines a1 s a3).fab = s.fab := by
  obtain ⟨_, e⟩ := drainLines_frame s _ _; rw [e]
@[simp] theorem drainLines_tide (a1 a3) : (drainLines a1 s a3).tide = s.tide := by
  obtain ⟨_, e⟩ := drainLines_frame s _ _; rw [e]
@[simp] theorem drainLines_coves (a1 a3) : (drainLines a1 s a3).coves = s.coves := by
  obtain ⟨_, e⟩ := drainLines_frame s _ _; rw [e]
@[simp] theorem drainLines_load (a1 a3) : (drainLines a1 s a3).load = s.load := by
  obtain ⟨_, e⟩ := drainLines_frame s _ _; rw [e]
@[simp] theorem drainLines_standin (a1 a3) : (drainLines a1 s a3).standin = s.standin := by
  obtain ⟨_, e⟩ := drainLines_frame s _ _; rw [e]
@[simp] theorem drainLines_remap (a1 a3) : (drainLines a1 s a3).remap = s.remap := by
  obtain ⟨_, e⟩ := drainLines_frame s _ _; rw [e]
@[simp] theorem drainLines_trace (a1 a3) : (drainLines a1 s a3).trace = s.trace := by
  obtain ⟨_, e⟩ := drainLines_frame s _ _; rw [e]
@[simp] theorem drainLines_health (a1 a3) : (drainLines a1 s a3).health = s.health := by
  obtain ⟨_, e⟩ := drainLines_frame s _ _; rw [e]
@[simp] theorem drainLines_recov (a1 a3) : (drainLines a1 s a3).recov = s.recov := by
  obtain ⟨_, e⟩ := drainLines_frame s _ _; rw [e]
@[simp] theorem drainLines_fw (a1 a3) : (drainLines a1 s a3).fw = s.fw := by
  obtain ⟨_, e⟩ := drainLines_frame s _ _; rw [e]
@[simp] theorem drainLines_pwr (a1 a3) : (drainLines a1 s a3).pwr = s.pwr := by
  obtain ⟨_, e⟩ := drainLines_frame s _ _; rw [e]
@[simp] theorem drainLines_tray (a1 a3) : (drainLines a1 s a3).tray = s.tray := by
  obtain ⟨_, e⟩ := drainLines_frame s _ _; rw [e]
@[simp] theorem drainLines_free (a1 a3) : (drainLines a1 s a3).free = s.free := by
  obtain ⟨_, e⟩ := drainLines_frame s _ _; rw [e]
@[simp] theorem drainLines_pending (a1 a3) : (drainLines a1 s a3).pending = s.pending := by
  obtain ⟨_, e⟩ := drainLines_frame s _ _; rw [e]

/-- A completion line touches the host side only. -/
theorem completionLine_frame (a2 a3 a4 a5) :
    ∃ x0, completionLine s a2 a3 a4 a5 = { s with host := x0 } := by
  unfold completionLine; dsimp only
  obtain ⟨_, e⟩ := drainLines_frame (updRing s a2 _) 64 a2
  rw [e]; exact ⟨_, rfl⟩

@[simp] theorem completionLine_cu (a2 a3 a4 a5) : (completionLine s a2 a3 a4 a5).cu = s.cu := by
  obtain ⟨_, e⟩ := completionLine_frame s _ _ _ _; rw [e]
@[simp] theorem completionLine_moduleId (a2 a3 a4 a5) : (completionLine s a2 a3 a4 a5).moduleId = s.moduleId := by
  obtain ⟨_, e⟩ := completionLine_frame s _ _ _ _; rw [e]
@[simp] theorem completionLine_copperOnly (a2 a3 a4 a5) : (completionLine s a2 a3 a4 a5).copperOnly = s.copperOnly := by
  obtain ⟨_, e⟩ := completionLine_frame s _ _ _ _; rw [e]
@[simp] theorem completionLine_cores (a2 a3 a4 a5) : (completionLine s a2 a3 a4 a5).cores = s.cores := by
  obtain ⟨_, e⟩ := completionLine_frame s _ _ _ _; rw [e]
@[simp] theorem completionLine_clusters (a2 a3 a4 a5) : (completionLine s a2 a3 a4 a5).clusters = s.clusters := by
  obtain ⟨_, e⟩ := completionLine_frame s _ _ _ _; rw [e]
@[simp] theorem completionLine_mem (a2 a3 a4 a5) : (completionLine s a2 a3 a4 a5).mem = s.mem := by
  obtain ⟨_, e⟩ := completionLine_frame s _ _ _ _; rw [e]
@[simp] theorem completionLine_fab (a2 a3 a4 a5) : (completionLine s a2 a3 a4 a5).fab = s.fab := by
  obtain ⟨_, e⟩ := completionLine_frame s _ _ _ _; rw [e]
@[simp] theorem completionLine_tide (a2 a3 a4 a5) : (completionLine s a2 a3 a4 a5).tide = s.tide := by
  obtain ⟨_, e⟩ := completionLine_frame s _ _ _ _; rw [e]
@[simp] theorem completionLine_coves (a2 a3 a4 a5) : (completionLine s a2 a3 a4 a5).coves = s.coves := by
  obtain ⟨_, e⟩ := completionLine_frame s _ _ _ _; rw [e]
@[simp] theorem completionLine_load (a2 a3 a4 a5) : (completionLine s a2 a3 a4 a5).load = s.load := by
  obtain ⟨_, e⟩ := completionLine_frame s _ _ _ _; rw [e]
@[simp] theorem completionLine_standin (a2 a3 a4 a5) : (completionLine s a2 a3 a4 a5).standin = s.standin := by
  obtain ⟨_, e⟩ := completionLine_frame s _ _ _ _; rw [e]
@[simp] theorem completionLine_remap (a2 a3 a4 a5) : (completionLine s a2 a3 a4 a5).remap = s.remap := by
  obtain ⟨_, e⟩ := completionLine_frame s _ _ _ _; rw [e]
@[simp] theorem completionLine_trace (a2 a3 a4 a5) : (completionLine s a2 a3 a4 a5).trace = s.trace := by
  obtain ⟨_, e⟩ := completionLine_frame s _ _ _ _; rw [e]
@[simp] theorem completionLine_health (a2 a3 a4 a5) : (completionLine s a2 a3 a4 a5).health = s.health := by
  obtain ⟨_, e⟩ := completionLine_frame s _ _ _ _; rw [e]
@[simp] theorem completionLine_recov (a2 a3 a4 a5) : (completionLine s a2 a3 a4 a5).recov = s.recov := by
  obtain ⟨_, e⟩ := completionLine_frame s _ _ _ _; rw [e]
@[simp] theorem completionLine_fw (a2 a3 a4 a5) : (completionLine s a2 a3 a4 a5).fw = s.fw := by
  obtain ⟨_, e⟩ := completionLine_frame s _ _ _ _; rw [e]
@[simp] theorem completionLine_pwr (a2 a3 a4 a5) : (completionLine s a2 a3 a4 a5).pwr = s.pwr := by
  obtain ⟨_, e⟩ := completionLine_frame s _ _ _ _; rw [e]
@[simp] theorem completionLine_tray (a2 a3 a4 a5) : (completionLine s a2 a3 a4 a5).tray = s.tray := by
  obtain ⟨_, e⟩ := completionLine_frame s _ _ _ _; rw [e]
@[simp] theorem completionLine_free (a2 a3 a4 a5) : (completionLine s a2 a3 a4 a5).free = s.free := by
  obtain ⟨_, e⟩ := completionLine_frame s _ _ _ _; rw [e]
@[simp] theorem completionLine_pending (a2 a3 a4 a5) : (completionLine s a2 a3 a4 a5).pending = s.pending := by
  obtain ⟨_, e⟩ := completionLine_frame s _ _ _ _; rw [e]

/-- A notice line touches the host side only. -/
theorem noticeLine_frame (a2 a3 a4 a5) :
    ∃ x0, noticeLine s a2 a3 a4 a5 = { s with host := x0 } := by
  unfold noticeLine; dsimp only; (repeat' split) <;> exact ⟨_, rfl⟩

@[simp] theorem noticeLine_cu (a2 a3 a4 a5) : (noticeLine s a2 a3 a4 a5).cu = s.cu := by
  obtain ⟨_, e⟩ := noticeLine_frame s _ _ _ _; rw [e]
@[simp] theorem noticeLine_moduleId (a2 a3 a4 a5) : (noticeLine s a2 a3 a4 a5).moduleId = s.moduleId := by
  obtain ⟨_, e⟩ := noticeLine_frame s _ _ _ _; rw [e]
@[simp] theorem noticeLine_copperOnly (a2 a3 a4 a5) : (noticeLine s a2 a3 a4 a5).copperOnly = s.copperOnly := by
  obtain ⟨_, e⟩ := noticeLine_frame s _ _ _ _; rw [e]
@[simp] theorem noticeLine_cores (a2 a3 a4 a5) : (noticeLine s a2 a3 a4 a5).cores = s.cores := by
  obtain ⟨_, e⟩ := noticeLine_frame s _ _ _ _; rw [e]
@[simp] theorem noticeLine_clusters (a2 a3 a4 a5) : (noticeLine s a2 a3 a4 a5).clusters = s.clusters := by
  obtain ⟨_, e⟩ := noticeLine_frame s _ _ _ _; rw [e]
@[simp] theorem noticeLine_mem (a2 a3 a4 a5) : (noticeLine s a2 a3 a4 a5).mem = s.mem := by
  obtain ⟨_, e⟩ := noticeLine_frame s _ _ _ _; rw [e]
@[simp] theorem noticeLine_fab (a2 a3 a4 a5) : (noticeLine s a2 a3 a4 a5).fab = s.fab := by
  obtain ⟨_, e⟩ := noticeLine_frame s _ _ _ _; rw [e]
@[simp] theorem noticeLine_tide (a2 a3 a4 a5) : (noticeLine s a2 a3 a4 a5).tide = s.tide := by
  obtain ⟨_, e⟩ := noticeLine_frame s _ _ _ _; rw [e]
@[simp] theorem noticeLine_coves (a2 a3 a4 a5) : (noticeLine s a2 a3 a4 a5).coves = s.coves := by
  obtain ⟨_, e⟩ := noticeLine_frame s _ _ _ _; rw [e]
@[simp] theorem noticeLine_load (a2 a3 a4 a5) : (noticeLine s a2 a3 a4 a5).load = s.load := by
  obtain ⟨_, e⟩ := noticeLine_frame s _ _ _ _; rw [e]
@[simp] theorem noticeLine_standin (a2 a3 a4 a5) : (noticeLine s a2 a3 a4 a5).standin = s.standin := by
  obtain ⟨_, e⟩ := noticeLine_frame s _ _ _ _; rw [e]
@[simp] theorem noticeLine_remap (a2 a3 a4 a5) : (noticeLine s a2 a3 a4 a5).remap = s.remap := by
  obtain ⟨_, e⟩ := noticeLine_frame s _ _ _ _; rw [e]
@[simp] theorem noticeLine_trace (a2 a3 a4 a5) : (noticeLine s a2 a3 a4 a5).trace = s.trace := by
  obtain ⟨_, e⟩ := noticeLine_frame s _ _ _ _; rw [e]
@[simp] theorem noticeLine_health (a2 a3 a4 a5) : (noticeLine s a2 a3 a4 a5).health = s.health := by
  obtain ⟨_, e⟩ := noticeLine_frame s _ _ _ _; rw [e]
@[simp] theorem noticeLine_recov (a2 a3 a4 a5) : (noticeLine s a2 a3 a4 a5).recov = s.recov := by
  obtain ⟨_, e⟩ := noticeLine_frame s _ _ _ _; rw [e]
@[simp] theorem noticeLine_fw (a2 a3 a4 a5) : (noticeLine s a2 a3 a4 a5).fw = s.fw := by
  obtain ⟨_, e⟩ := noticeLine_frame s _ _ _ _; rw [e]
@[simp] theorem noticeLine_pwr (a2 a3 a4 a5) : (noticeLine s a2 a3 a4 a5).pwr = s.pwr := by
  obtain ⟨_, e⟩ := noticeLine_frame s _ _ _ _; rw [e]
@[simp] theorem noticeLine_tray (a2 a3 a4 a5) : (noticeLine s a2 a3 a4 a5).tray = s.tray := by
  obtain ⟨_, e⟩ := noticeLine_frame s _ _ _ _; rw [e]
@[simp] theorem noticeLine_free (a2 a3 a4 a5) : (noticeLine s a2 a3 a4 a5).free = s.free := by
  obtain ⟨_, e⟩ := noticeLine_frame s _ _ _ _; rw [e]
@[simp] theorem noticeLine_pending (a2 a3 a4 a5) : (noticeLine s a2 a3 a4 a5).pending = s.pending := by
  obtain ⟨_, e⟩ := noticeLine_frame s _ _ _ _; rw [e]

/-- A record touches the trace only. -/
theorem ringPut_frame (a2 a3) :
    ∃ x0, ringPut s a2 a3 = { s with trace := x0 } := by
  unfold ringPut; dsimp only; (repeat' split) <;> exact ⟨_, rfl⟩

@[simp] theorem ringPut_cu (a2 a3) : (ringPut s a2 a3).cu = s.cu := by
  obtain ⟨_, e⟩ := ringPut_frame s _ _; rw [e]
@[simp] theorem ringPut_moduleId (a2 a3) : (ringPut s a2 a3).moduleId = s.moduleId := by
  obtain ⟨_, e⟩ := ringPut_frame s _ _; rw [e]
@[simp] theorem ringPut_copperOnly (a2 a3) : (ringPut s a2 a3).copperOnly = s.copperOnly := by
  obtain ⟨_, e⟩ := ringPut_frame s _ _; rw [e]
@[simp] theorem ringPut_cores (a2 a3) : (ringPut s a2 a3).cores = s.cores := by
  obtain ⟨_, e⟩ := ringPut_frame s _ _; rw [e]
@[simp] theorem ringPut_clusters (a2 a3) : (ringPut s a2 a3).clusters = s.clusters := by
  obtain ⟨_, e⟩ := ringPut_frame s _ _; rw [e]
@[simp] theorem ringPut_mem (a2 a3) : (ringPut s a2 a3).mem = s.mem := by
  obtain ⟨_, e⟩ := ringPut_frame s _ _; rw [e]
@[simp] theorem ringPut_fab (a2 a3) : (ringPut s a2 a3).fab = s.fab := by
  obtain ⟨_, e⟩ := ringPut_frame s _ _; rw [e]
@[simp] theorem ringPut_tide (a2 a3) : (ringPut s a2 a3).tide = s.tide := by
  obtain ⟨_, e⟩ := ringPut_frame s _ _; rw [e]
@[simp] theorem ringPut_coves (a2 a3) : (ringPut s a2 a3).coves = s.coves := by
  obtain ⟨_, e⟩ := ringPut_frame s _ _; rw [e]
@[simp] theorem ringPut_load (a2 a3) : (ringPut s a2 a3).load = s.load := by
  obtain ⟨_, e⟩ := ringPut_frame s _ _; rw [e]
@[simp] theorem ringPut_standin (a2 a3) : (ringPut s a2 a3).standin = s.standin := by
  obtain ⟨_, e⟩ := ringPut_frame s _ _; rw [e]
@[simp] theorem ringPut_remap (a2 a3) : (ringPut s a2 a3).remap = s.remap := by
  obtain ⟨_, e⟩ := ringPut_frame s _ _; rw [e]
@[simp] theorem ringPut_health (a2 a3) : (ringPut s a2 a3).health = s.health := by
  obtain ⟨_, e⟩ := ringPut_frame s _ _; rw [e]
@[simp] theorem ringPut_recov (a2 a3) : (ringPut s a2 a3).recov = s.recov := by
  obtain ⟨_, e⟩ := ringPut_frame s _ _; rw [e]
@[simp] theorem ringPut_host (a2 a3) : (ringPut s a2 a3).host = s.host := by
  obtain ⟨_, e⟩ := ringPut_frame s _ _; rw [e]
@[simp] theorem ringPut_fw (a2 a3) : (ringPut s a2 a3).fw = s.fw := by
  obtain ⟨_, e⟩ := ringPut_frame s _ _; rw [e]
@[simp] theorem ringPut_pwr (a2 a3) : (ringPut s a2 a3).pwr = s.pwr := by
  obtain ⟨_, e⟩ := ringPut_frame s _ _; rw [e]
@[simp] theorem ringPut_tray (a2 a3) : (ringPut s a2 a3).tray = s.tray := by
  obtain ⟨_, e⟩ := ringPut_frame s _ _; rw [e]
@[simp] theorem ringPut_free (a2 a3) : (ringPut s a2 a3).free = s.free := by
  obtain ⟨_, e⟩ := ringPut_frame s _ _; rw [e]
@[simp] theorem ringPut_pending (a2 a3) : (ringPut s a2 a3).pending = s.pending := by
  obtain ⟨_, e⟩ := ringPut_frame s _ _; rw [e]

/-- A strandline entry touches the trace only. -/
theorem strandPut_frame (a2) :
    ∃ x0, strandPut s a2 = { s with trace := x0 } := by
  unfold strandPut; (repeat' split) <;> exact ⟨_, rfl⟩

@[simp] theorem strandPut_cu (a2) : (strandPut s a2).cu = s.cu := by
  obtain ⟨_, e⟩ := strandPut_frame s _; rw [e]
@[simp] theorem strandPut_moduleId (a2) : (strandPut s a2).moduleId = s.moduleId := by
  obtain ⟨_, e⟩ := strandPut_frame s _; rw [e]
@[simp] theorem strandPut_copperOnly (a2) : (strandPut s a2).copperOnly = s.copperOnly := by
  obtain ⟨_, e⟩ := strandPut_frame s _; rw [e]
@[simp] theorem strandPut_cores (a2) : (strandPut s a2).cores = s.cores := by
  obtain ⟨_, e⟩ := strandPut_frame s _; rw [e]
@[simp] theorem strandPut_clusters (a2) : (strandPut s a2).clusters = s.clusters := by
  obtain ⟨_, e⟩ := strandPut_frame s _; rw [e]
@[simp] theorem strandPut_mem (a2) : (strandPut s a2).mem = s.mem := by
  obtain ⟨_, e⟩ := strandPut_frame s _; rw [e]
@[simp] theorem strandPut_fab (a2) : (strandPut s a2).fab = s.fab := by
  obtain ⟨_, e⟩ := strandPut_frame s _; rw [e]
@[simp] theorem strandPut_tide (a2) : (strandPut s a2).tide = s.tide := by
  obtain ⟨_, e⟩ := strandPut_frame s _; rw [e]
@[simp] theorem strandPut_coves (a2) : (strandPut s a2).coves = s.coves := by
  obtain ⟨_, e⟩ := strandPut_frame s _; rw [e]
@[simp] theorem strandPut_load (a2) : (strandPut s a2).load = s.load := by
  obtain ⟨_, e⟩ := strandPut_frame s _; rw [e]
@[simp] theorem strandPut_standin (a2) : (strandPut s a2).standin = s.standin := by
  obtain ⟨_, e⟩ := strandPut_frame s _; rw [e]
@[simp] theorem strandPut_remap (a2) : (strandPut s a2).remap = s.remap := by
  obtain ⟨_, e⟩ := strandPut_frame s _; rw [e]
@[simp] theorem strandPut_health (a2) : (strandPut s a2).health = s.health := by
  obtain ⟨_, e⟩ := strandPut_frame s _; rw [e]
@[simp] theorem strandPut_recov (a2) : (strandPut s a2).recov = s.recov := by
  obtain ⟨_, e⟩ := strandPut_frame s _; rw [e]
@[simp] theorem strandPut_host (a2) : (strandPut s a2).host = s.host := by
  obtain ⟨_, e⟩ := strandPut_frame s _; rw [e]
@[simp] theorem strandPut_fw (a2) : (strandPut s a2).fw = s.fw := by
  obtain ⟨_, e⟩ := strandPut_frame s _; rw [e]
@[simp] theorem strandPut_pwr (a2) : (strandPut s a2).pwr = s.pwr := by
  obtain ⟨_, e⟩ := strandPut_frame s _; rw [e]
@[simp] theorem strandPut_tray (a2) : (strandPut s a2).tray = s.tray := by
  obtain ⟨_, e⟩ := strandPut_frame s _; rw [e]
@[simp] theorem strandPut_free (a2) : (strandPut s a2).free = s.free := by
  obtain ⟨_, e⟩ := strandPut_frame s _; rw [e]
@[simp] theorem strandPut_pending (a2) : (strandPut s a2).pending = s.pending := by
  obtain ⟨_, e⟩ := strandPut_frame s _; rw [e]

/-- Counting a source touches the trace only. -/
theorem countSource_frame (a2 a3 a4) :
    ∃ x0, countSource s a2 a3 a4 = { s with trace := x0 } := by
  unfold countSource; dsimp only; split <;> exact ⟨_, rfl⟩

@[simp] theorem countSource_cu (a2 a3 a4) : (countSource s a2 a3 a4).cu = s.cu := by
  obtain ⟨_, e⟩ := countSource_frame s _ _ _; rw [e]
@[simp] theorem countSource_moduleId (a2 a3 a4) : (countSource s a2 a3 a4).moduleId = s.moduleId := by
  obtain ⟨_, e⟩ := countSource_frame s _ _ _; rw [e]
@[simp] theorem countSource_copperOnly (a2 a3 a4) : (countSource s a2 a3 a4).copperOnly = s.copperOnly := by
  obtain ⟨_, e⟩ := countSource_frame s _ _ _; rw [e]
@[simp] theorem countSource_cores (a2 a3 a4) : (countSource s a2 a3 a4).cores = s.cores := by
  obtain ⟨_, e⟩ := countSource_frame s _ _ _; rw [e]
@[simp] theorem countSource_clusters (a2 a3 a4) : (countSource s a2 a3 a4).clusters = s.clusters := by
  obtain ⟨_, e⟩ := countSource_frame s _ _ _; rw [e]
@[simp] theorem countSource_mem (a2 a3 a4) : (countSource s a2 a3 a4).mem = s.mem := by
  obtain ⟨_, e⟩ := countSource_frame s _ _ _; rw [e]
@[simp] theorem countSource_fab (a2 a3 a4) : (countSource s a2 a3 a4).fab = s.fab := by
  obtain ⟨_, e⟩ := countSource_frame s _ _ _; rw [e]
@[simp] theorem countSource_tide (a2 a3 a4) : (countSource s a2 a3 a4).tide = s.tide := by
  obtain ⟨_, e⟩ := countSource_frame s _ _ _; rw [e]
@[simp] theorem countSource_coves (a2 a3 a4) : (countSource s a2 a3 a4).coves = s.coves := by
  obtain ⟨_, e⟩ := countSource_frame s _ _ _; rw [e]
@[simp] theorem countSource_load (a2 a3 a4) : (countSource s a2 a3 a4).load = s.load := by
  obtain ⟨_, e⟩ := countSource_frame s _ _ _; rw [e]
@[simp] theorem countSource_standin (a2 a3 a4) : (countSource s a2 a3 a4).standin = s.standin := by
  obtain ⟨_, e⟩ := countSource_frame s _ _ _; rw [e]
@[simp] theorem countSource_remap (a2 a3 a4) : (countSource s a2 a3 a4).remap = s.remap := by
  obtain ⟨_, e⟩ := countSource_frame s _ _ _; rw [e]
@[simp] theorem countSource_health (a2 a3 a4) : (countSource s a2 a3 a4).health = s.health := by
  obtain ⟨_, e⟩ := countSource_frame s _ _ _; rw [e]
@[simp] theorem countSource_recov (a2 a3 a4) : (countSource s a2 a3 a4).recov = s.recov := by
  obtain ⟨_, e⟩ := countSource_frame s _ _ _; rw [e]
@[simp] theorem countSource_host (a2 a3 a4) : (countSource s a2 a3 a4).host = s.host := by
  obtain ⟨_, e⟩ := countSource_frame s _ _ _; rw [e]
@[simp] theorem countSource_fw (a2 a3 a4) : (countSource s a2 a3 a4).fw = s.fw := by
  obtain ⟨_, e⟩ := countSource_frame s _ _ _; rw [e]
@[simp] theorem countSource_pwr (a2 a3 a4) : (countSource s a2 a3 a4).pwr = s.pwr := by
  obtain ⟨_, e⟩ := countSource_frame s _ _ _; rw [e]
@[simp] theorem countSource_tray (a2 a3 a4) : (countSource s a2 a3 a4).tray = s.tray := by
  obtain ⟨_, e⟩ := countSource_frame s _ _ _; rw [e]
@[simp] theorem countSource_free (a2 a3 a4) : (countSource s a2 a3 a4).free = s.free := by
  obtain ⟨_, e⟩ := countSource_frame s _ _ _; rw [e]
@[simp] theorem countSource_pending (a2 a3 a4) : (countSource s a2 a3 a4).pending = s.pending := by
  obtain ⟨_, e⟩ := countSource_frame s _ _ _; rw [e]

/-- An event touches the trace and the host side only. -/
theorem recordPlain_frame (a2 a3 a4 a5 a6) :
    ∃ x0 x1, recordPlain s a2 a3 a4 a5 a6 = { s with trace := x0, host := x1 } := by
  unfold recordPlain; dsimp only
  obtain ⟨_, e1⟩ := countSource_frame s a2 a5 a4
  simp only [e1]
  have frame : ∀ (u : State) fn e r w, (∃ x y, u = { s with trace := x, host := y }) →
      ∃ x y, noticeLine u fn e r w = { s with trace := x, host := y } := by
    rintro u fn e r w ⟨x, y, rfl⟩
    obtain ⟨_, e⟩ := noticeLine_frame { s with trace := x, host := y } fn e r w
    rw [e]; exact ⟨_, _, rfl⟩
  have put : ∀ (u : State) r e, (∃ x y, u = { s with trace := x, host := y }) →
      ∃ x y, strandPut (ringPut u r e) e = { s with trace := x, host := y } := by
    rintro u r e ⟨x, y, rfl⟩
    obtain ⟨_, e1⟩ := ringPut_frame { s with trace := x, host := y } r e
    rw [e1]
    obtain ⟨_, e2⟩ := strandPut_frame { s with trace := _, host := y } e
    rw [e2]; exact ⟨_, _, rfl⟩
  split
  · exact frame _ _ _ _ _ (frame _ _ _ _ _ (put _ _ _ ⟨_, _, rfl⟩))
  · exact frame _ _ _ _ _ (put _ _ _ ⟨_, _, rfl⟩)

@[simp] theorem recordPlain_cu (a2 a3 a4 a5 a6) : (recordPlain s a2 a3 a4 a5 a6).cu = s.cu := by
  obtain ⟨_, _, e⟩ := recordPlain_frame s _ _ _ _ _; rw [e]
@[simp] theorem recordPlain_moduleId (a2 a3 a4 a5 a6) : (recordPlain s a2 a3 a4 a5 a6).moduleId = s.moduleId := by
  obtain ⟨_, _, e⟩ := recordPlain_frame s _ _ _ _ _; rw [e]
@[simp] theorem recordPlain_copperOnly (a2 a3 a4 a5 a6) : (recordPlain s a2 a3 a4 a5 a6).copperOnly = s.copperOnly := by
  obtain ⟨_, _, e⟩ := recordPlain_frame s _ _ _ _ _; rw [e]
@[simp] theorem recordPlain_cores (a2 a3 a4 a5 a6) : (recordPlain s a2 a3 a4 a5 a6).cores = s.cores := by
  obtain ⟨_, _, e⟩ := recordPlain_frame s _ _ _ _ _; rw [e]
@[simp] theorem recordPlain_clusters (a2 a3 a4 a5 a6) : (recordPlain s a2 a3 a4 a5 a6).clusters = s.clusters := by
  obtain ⟨_, _, e⟩ := recordPlain_frame s _ _ _ _ _; rw [e]
@[simp] theorem recordPlain_mem (a2 a3 a4 a5 a6) : (recordPlain s a2 a3 a4 a5 a6).mem = s.mem := by
  obtain ⟨_, _, e⟩ := recordPlain_frame s _ _ _ _ _; rw [e]
@[simp] theorem recordPlain_fab (a2 a3 a4 a5 a6) : (recordPlain s a2 a3 a4 a5 a6).fab = s.fab := by
  obtain ⟨_, _, e⟩ := recordPlain_frame s _ _ _ _ _; rw [e]
@[simp] theorem recordPlain_tide (a2 a3 a4 a5 a6) : (recordPlain s a2 a3 a4 a5 a6).tide = s.tide := by
  obtain ⟨_, _, e⟩ := recordPlain_frame s _ _ _ _ _; rw [e]
@[simp] theorem recordPlain_coves (a2 a3 a4 a5 a6) : (recordPlain s a2 a3 a4 a5 a6).coves = s.coves := by
  obtain ⟨_, _, e⟩ := recordPlain_frame s _ _ _ _ _; rw [e]
@[simp] theorem recordPlain_load (a2 a3 a4 a5 a6) : (recordPlain s a2 a3 a4 a5 a6).load = s.load := by
  obtain ⟨_, _, e⟩ := recordPlain_frame s _ _ _ _ _; rw [e]
@[simp] theorem recordPlain_standin (a2 a3 a4 a5 a6) : (recordPlain s a2 a3 a4 a5 a6).standin = s.standin := by
  obtain ⟨_, _, e⟩ := recordPlain_frame s _ _ _ _ _; rw [e]
@[simp] theorem recordPlain_remap (a2 a3 a4 a5 a6) : (recordPlain s a2 a3 a4 a5 a6).remap = s.remap := by
  obtain ⟨_, _, e⟩ := recordPlain_frame s _ _ _ _ _; rw [e]
@[simp] theorem recordPlain_health (a2 a3 a4 a5 a6) : (recordPlain s a2 a3 a4 a5 a6).health = s.health := by
  obtain ⟨_, _, e⟩ := recordPlain_frame s _ _ _ _ _; rw [e]
@[simp] theorem recordPlain_recov (a2 a3 a4 a5 a6) : (recordPlain s a2 a3 a4 a5 a6).recov = s.recov := by
  obtain ⟨_, _, e⟩ := recordPlain_frame s _ _ _ _ _; rw [e]
@[simp] theorem recordPlain_fw (a2 a3 a4 a5 a6) : (recordPlain s a2 a3 a4 a5 a6).fw = s.fw := by
  obtain ⟨_, _, e⟩ := recordPlain_frame s _ _ _ _ _; rw [e]
@[simp] theorem recordPlain_pwr (a2 a3 a4 a5 a6) : (recordPlain s a2 a3 a4 a5 a6).pwr = s.pwr := by
  obtain ⟨_, _, e⟩ := recordPlain_frame s _ _ _ _ _; rw [e]
@[simp] theorem recordPlain_tray (a2 a3 a4 a5 a6) : (recordPlain s a2 a3 a4 a5 a6).tray = s.tray := by
  obtain ⟨_, _, e⟩ := recordPlain_frame s _ _ _ _ _; rw [e]
@[simp] theorem recordPlain_free (a2 a3 a4 a5 a6) : (recordPlain s a2 a3 a4 a5 a6).free = s.free := by
  obtain ⟨_, _, e⟩ := recordPlain_frame s _ _ _ _ _; rw [e]
@[simp] theorem recordPlain_pending (a2 a3 a4 a5 a6) : (recordPlain s a2 a3 a4 a5 a6).pending = s.pending := by
  obtain ⟨_, _, e⟩ := recordPlain_frame s _ _ _ _ _; rw [e]

/-- An event with the episodes it opens touches the trace and the host side only. -/
theorem record_frame (a2 a3 a4 a5 a6) :
    ∃ x0 x1, record s a2 a3 a4 a5 a6 = { s with trace := x0, host := x1 } := by
  have frame : ∀ (u : State) c v k r d, (∃ x y, u = { s with trace := x, host := y }) →
      ∃ x y, recordPlain u c v k r d = { s with trace := x, host := y } := by
    rintro u c v k r d ⟨x, y, rfl⟩
    obtain ⟨_, _, e⟩ := recordPlain_frame { s with trace := x, host := y } c v k r d
    rw [e]; exact ⟨_, _, rfl⟩
  unfold record; extract_lets ring ring0 strand0 drop0 s1 s2
  have h1 : ∃ x y, s1 = { s with trace := x, host := y } := recordPlain_frame ..
  have h2 : ∃ x y, s2 = { s with trace := x, host := y } := by
    simp only [s2]
    split
    · exact frame _ _ _ _ _ _ h1
    · exact h1
  split
  · exact frame _ _ _ _ _ _ h2
  · exact h2

@[simp] theorem record_cu (a2 a3 a4 a5 a6) : (record s a2 a3 a4 a5 a6).cu = s.cu := by
  obtain ⟨_, _, e⟩ := record_frame s _ _ _ _ _; rw [e]
@[simp] theorem record_moduleId (a2 a3 a4 a5 a6) : (record s a2 a3 a4 a5 a6).moduleId = s.moduleId := by
  obtain ⟨_, _, e⟩ := record_frame s _ _ _ _ _; rw [e]
@[simp] theorem record_copperOnly (a2 a3 a4 a5 a6) : (record s a2 a3 a4 a5 a6).copperOnly = s.copperOnly := by
  obtain ⟨_, _, e⟩ := record_frame s _ _ _ _ _; rw [e]
@[simp] theorem record_cores (a2 a3 a4 a5 a6) : (record s a2 a3 a4 a5 a6).cores = s.cores := by
  obtain ⟨_, _, e⟩ := record_frame s _ _ _ _ _; rw [e]
@[simp] theorem record_clusters (a2 a3 a4 a5 a6) : (record s a2 a3 a4 a5 a6).clusters = s.clusters := by
  obtain ⟨_, _, e⟩ := record_frame s _ _ _ _ _; rw [e]
@[simp] theorem record_mem (a2 a3 a4 a5 a6) : (record s a2 a3 a4 a5 a6).mem = s.mem := by
  obtain ⟨_, _, e⟩ := record_frame s _ _ _ _ _; rw [e]
@[simp] theorem record_fab (a2 a3 a4 a5 a6) : (record s a2 a3 a4 a5 a6).fab = s.fab := by
  obtain ⟨_, _, e⟩ := record_frame s _ _ _ _ _; rw [e]
@[simp] theorem record_tide (a2 a3 a4 a5 a6) : (record s a2 a3 a4 a5 a6).tide = s.tide := by
  obtain ⟨_, _, e⟩ := record_frame s _ _ _ _ _; rw [e]
@[simp] theorem record_coves (a2 a3 a4 a5 a6) : (record s a2 a3 a4 a5 a6).coves = s.coves := by
  obtain ⟨_, _, e⟩ := record_frame s _ _ _ _ _; rw [e]
@[simp] theorem record_load (a2 a3 a4 a5 a6) : (record s a2 a3 a4 a5 a6).load = s.load := by
  obtain ⟨_, _, e⟩ := record_frame s _ _ _ _ _; rw [e]
@[simp] theorem record_standin (a2 a3 a4 a5 a6) : (record s a2 a3 a4 a5 a6).standin = s.standin := by
  obtain ⟨_, _, e⟩ := record_frame s _ _ _ _ _; rw [e]
@[simp] theorem record_remap (a2 a3 a4 a5 a6) : (record s a2 a3 a4 a5 a6).remap = s.remap := by
  obtain ⟨_, _, e⟩ := record_frame s _ _ _ _ _; rw [e]
@[simp] theorem record_health (a2 a3 a4 a5 a6) : (record s a2 a3 a4 a5 a6).health = s.health := by
  obtain ⟨_, _, e⟩ := record_frame s _ _ _ _ _; rw [e]
@[simp] theorem record_recov (a2 a3 a4 a5 a6) : (record s a2 a3 a4 a5 a6).recov = s.recov := by
  obtain ⟨_, _, e⟩ := record_frame s _ _ _ _ _; rw [e]
@[simp] theorem record_fw (a2 a3 a4 a5 a6) : (record s a2 a3 a4 a5 a6).fw = s.fw := by
  obtain ⟨_, _, e⟩ := record_frame s _ _ _ _ _; rw [e]
@[simp] theorem record_pwr (a2 a3 a4 a5 a6) : (record s a2 a3 a4 a5 a6).pwr = s.pwr := by
  obtain ⟨_, _, e⟩ := record_frame s _ _ _ _ _; rw [e]
@[simp] theorem record_tray (a2 a3 a4 a5 a6) : (record s a2 a3 a4 a5 a6).tray = s.tray := by
  obtain ⟨_, _, e⟩ := record_frame s _ _ _ _ _; rw [e]
@[simp] theorem record_free (a2 a3 a4 a5 a6) : (record s a2 a3 a4 a5 a6).free = s.free := by
  obtain ⟨_, _, e⟩ := record_frame s _ _ _ _ _; rw [e]
@[simp] theorem record_pending (a2 a3 a4 a5 a6) : (record s a2 a3 a4 a5 a6).pending = s.pending := by
  obtain ⟨_, _, e⟩ := record_frame s _ _ _ _ _; rw [e]

/-- An event of the headland. -/
theorem recordHead_frame (a2 a3 a4) :
    ∃ x0 x1, recordHead s a2 a3 a4 = { s with trace := x0, host := x1 } := record_frame ..

@[simp] theorem recordHead_cu (a2 a3 a4) : (recordHead s a2 a3 a4).cu = s.cu := by
  obtain ⟨_, _, e⟩ := recordHead_frame s _ _ _; rw [e]
@[simp] theorem recordHead_moduleId (a2 a3 a4) : (recordHead s a2 a3 a4).moduleId = s.moduleId := by
  obtain ⟨_, _, e⟩ := recordHead_frame s _ _ _; rw [e]
@[simp] theorem recordHead_copperOnly (a2 a3 a4) : (recordHead s a2 a3 a4).copperOnly = s.copperOnly := by
  obtain ⟨_, _, e⟩ := recordHead_frame s _ _ _; rw [e]
@[simp] theorem recordHead_cores (a2 a3 a4) : (recordHead s a2 a3 a4).cores = s.cores := by
  obtain ⟨_, _, e⟩ := recordHead_frame s _ _ _; rw [e]
@[simp] theorem recordHead_clusters (a2 a3 a4) : (recordHead s a2 a3 a4).clusters = s.clusters := by
  obtain ⟨_, _, e⟩ := recordHead_frame s _ _ _; rw [e]
@[simp] theorem recordHead_mem (a2 a3 a4) : (recordHead s a2 a3 a4).mem = s.mem := by
  obtain ⟨_, _, e⟩ := recordHead_frame s _ _ _; rw [e]
@[simp] theorem recordHead_fab (a2 a3 a4) : (recordHead s a2 a3 a4).fab = s.fab := by
  obtain ⟨_, _, e⟩ := recordHead_frame s _ _ _; rw [e]
@[simp] theorem recordHead_tide (a2 a3 a4) : (recordHead s a2 a3 a4).tide = s.tide := by
  obtain ⟨_, _, e⟩ := recordHead_frame s _ _ _; rw [e]
@[simp] theorem recordHead_coves (a2 a3 a4) : (recordHead s a2 a3 a4).coves = s.coves := by
  obtain ⟨_, _, e⟩ := recordHead_frame s _ _ _; rw [e]
@[simp] theorem recordHead_load (a2 a3 a4) : (recordHead s a2 a3 a4).load = s.load := by
  obtain ⟨_, _, e⟩ := recordHead_frame s _ _ _; rw [e]
@[simp] theorem recordHead_standin (a2 a3 a4) : (recordHead s a2 a3 a4).standin = s.standin := by
  obtain ⟨_, _, e⟩ := recordHead_frame s _ _ _; rw [e]
@[simp] theorem recordHead_remap (a2 a3 a4) : (recordHead s a2 a3 a4).remap = s.remap := by
  obtain ⟨_, _, e⟩ := recordHead_frame s _ _ _; rw [e]
@[simp] theorem recordHead_health (a2 a3 a4) : (recordHead s a2 a3 a4).health = s.health := by
  obtain ⟨_, _, e⟩ := recordHead_frame s _ _ _; rw [e]
@[simp] theorem recordHead_recov (a2 a3 a4) : (recordHead s a2 a3 a4).recov = s.recov := by
  obtain ⟨_, _, e⟩ := recordHead_frame s _ _ _; rw [e]
@[simp] theorem recordHead_fw (a2 a3 a4) : (recordHead s a2 a3 a4).fw = s.fw := by
  obtain ⟨_, _, e⟩ := recordHead_frame s _ _ _; rw [e]
@[simp] theorem recordHead_pwr (a2 a3 a4) : (recordHead s a2 a3 a4).pwr = s.pwr := by
  obtain ⟨_, _, e⟩ := recordHead_frame s _ _ _; rw [e]
@[simp] theorem recordHead_tray (a2 a3 a4) : (recordHead s a2 a3 a4).tray = s.tray := by
  obtain ⟨_, _, e⟩ := recordHead_frame s _ _ _; rw [e]
@[simp] theorem recordHead_free (a2 a3 a4) : (recordHead s a2 a3 a4).free = s.free := by
  obtain ⟨_, _, e⟩ := recordHead_frame s _ _ _; rw [e]
@[simp] theorem recordHead_pending (a2 a3 a4) : (recordHead s a2 a3 a4).pending = s.pending := by
  obtain ⟨_, _, e⟩ := recordHead_frame s _ _ _; rw [e]

/-- An event of the port. -/
theorem recordPort_frame (a2 a3 a4) :
    ∃ x0 x1, recordPort s a2 a3 a4 = { s with trace := x0, host := x1 } := record_frame ..

@[simp] theorem recordPort_cu (a2 a3 a4) : (recordPort s a2 a3 a4).cu = s.cu := by
  obtain ⟨_, _, e⟩ := recordPort_frame s _ _ _; rw [e]
@[simp] theorem recordPort_moduleId (a2 a3 a4) : (recordPort s a2 a3 a4).moduleId = s.moduleId := by
  obtain ⟨_, _, e⟩ := recordPort_frame s _ _ _; rw [e]
@[simp] theorem recordPort_copperOnly (a2 a3 a4) : (recordPort s a2 a3 a4).copperOnly = s.copperOnly := by
  obtain ⟨_, _, e⟩ := recordPort_frame s _ _ _; rw [e]
@[simp] theorem recordPort_cores (a2 a3 a4) : (recordPort s a2 a3 a4).cores = s.cores := by
  obtain ⟨_, _, e⟩ := recordPort_frame s _ _ _; rw [e]
@[simp] theorem recordPort_clusters (a2 a3 a4) : (recordPort s a2 a3 a4).clusters = s.clusters := by
  obtain ⟨_, _, e⟩ := recordPort_frame s _ _ _; rw [e]
@[simp] theorem recordPort_mem (a2 a3 a4) : (recordPort s a2 a3 a4).mem = s.mem := by
  obtain ⟨_, _, e⟩ := recordPort_frame s _ _ _; rw [e]
@[simp] theorem recordPort_fab (a2 a3 a4) : (recordPort s a2 a3 a4).fab = s.fab := by
  obtain ⟨_, _, e⟩ := recordPort_frame s _ _ _; rw [e]
@[simp] theorem recordPort_tide (a2 a3 a4) : (recordPort s a2 a3 a4).tide = s.tide := by
  obtain ⟨_, _, e⟩ := recordPort_frame s _ _ _; rw [e]
@[simp] theorem recordPort_coves (a2 a3 a4) : (recordPort s a2 a3 a4).coves = s.coves := by
  obtain ⟨_, _, e⟩ := recordPort_frame s _ _ _; rw [e]
@[simp] theorem recordPort_load (a2 a3 a4) : (recordPort s a2 a3 a4).load = s.load := by
  obtain ⟨_, _, e⟩ := recordPort_frame s _ _ _; rw [e]
@[simp] theorem recordPort_standin (a2 a3 a4) : (recordPort s a2 a3 a4).standin = s.standin := by
  obtain ⟨_, _, e⟩ := recordPort_frame s _ _ _; rw [e]
@[simp] theorem recordPort_remap (a2 a3 a4) : (recordPort s a2 a3 a4).remap = s.remap := by
  obtain ⟨_, _, e⟩ := recordPort_frame s _ _ _; rw [e]
@[simp] theorem recordPort_health (a2 a3 a4) : (recordPort s a2 a3 a4).health = s.health := by
  obtain ⟨_, _, e⟩ := recordPort_frame s _ _ _; rw [e]
@[simp] theorem recordPort_recov (a2 a3 a4) : (recordPort s a2 a3 a4).recov = s.recov := by
  obtain ⟨_, _, e⟩ := recordPort_frame s _ _ _; rw [e]
@[simp] theorem recordPort_fw (a2 a3 a4) : (recordPort s a2 a3 a4).fw = s.fw := by
  obtain ⟨_, _, e⟩ := recordPort_frame s _ _ _; rw [e]
@[simp] theorem recordPort_pwr (a2 a3 a4) : (recordPort s a2 a3 a4).pwr = s.pwr := by
  obtain ⟨_, _, e⟩ := recordPort_frame s _ _ _; rw [e]
@[simp] theorem recordPort_tray (a2 a3 a4) : (recordPort s a2 a3 a4).tray = s.tray := by
  obtain ⟨_, _, e⟩ := recordPort_frame s _ _ _; rw [e]
@[simp] theorem recordPort_free (a2 a3 a4) : (recordPort s a2 a3 a4).free = s.free := by
  obtain ⟨_, _, e⟩ := recordPort_frame s _ _ _; rw [e]
@[simp] theorem recordPort_pending (a2 a3 a4) : (recordPort s a2 a3 a4).pending = s.pending := by
  obtain ⟨_, _, e⟩ := recordPort_frame s _ _ _; rw [e]

/-- An event of a cove. -/
theorem recordCove_frame (a2 a3 a4 a5) :
    ∃ x0 x1, recordCove s a2 a3 a4 a5 = { s with trace := x0, host := x1 } := record_frame ..

@[simp] theorem recordCove_cu (a2 a3 a4 a5) : (recordCove s a2 a3 a4 a5).cu = s.cu := by
  obtain ⟨_, _, e⟩ := recordCove_frame s _ _ _ _; rw [e]
@[simp] theorem recordCove_moduleId (a2 a3 a4 a5) : (recordCove s a2 a3 a4 a5).moduleId = s.moduleId := by
  obtain ⟨_, _, e⟩ := recordCove_frame s _ _ _ _; rw [e]
@[simp] theorem recordCove_copperOnly (a2 a3 a4 a5) : (recordCove s a2 a3 a4 a5).copperOnly = s.copperOnly := by
  obtain ⟨_, _, e⟩ := recordCove_frame s _ _ _ _; rw [e]
@[simp] theorem recordCove_cores (a2 a3 a4 a5) : (recordCove s a2 a3 a4 a5).cores = s.cores := by
  obtain ⟨_, _, e⟩ := recordCove_frame s _ _ _ _; rw [e]
@[simp] theorem recordCove_clusters (a2 a3 a4 a5) : (recordCove s a2 a3 a4 a5).clusters = s.clusters := by
  obtain ⟨_, _, e⟩ := recordCove_frame s _ _ _ _; rw [e]
@[simp] theorem recordCove_mem (a2 a3 a4 a5) : (recordCove s a2 a3 a4 a5).mem = s.mem := by
  obtain ⟨_, _, e⟩ := recordCove_frame s _ _ _ _; rw [e]
@[simp] theorem recordCove_fab (a2 a3 a4 a5) : (recordCove s a2 a3 a4 a5).fab = s.fab := by
  obtain ⟨_, _, e⟩ := recordCove_frame s _ _ _ _; rw [e]
@[simp] theorem recordCove_tide (a2 a3 a4 a5) : (recordCove s a2 a3 a4 a5).tide = s.tide := by
  obtain ⟨_, _, e⟩ := recordCove_frame s _ _ _ _; rw [e]
@[simp] theorem recordCove_coves (a2 a3 a4 a5) : (recordCove s a2 a3 a4 a5).coves = s.coves := by
  obtain ⟨_, _, e⟩ := recordCove_frame s _ _ _ _; rw [e]
@[simp] theorem recordCove_load (a2 a3 a4 a5) : (recordCove s a2 a3 a4 a5).load = s.load := by
  obtain ⟨_, _, e⟩ := recordCove_frame s _ _ _ _; rw [e]
@[simp] theorem recordCove_standin (a2 a3 a4 a5) : (recordCove s a2 a3 a4 a5).standin = s.standin := by
  obtain ⟨_, _, e⟩ := recordCove_frame s _ _ _ _; rw [e]
@[simp] theorem recordCove_remap (a2 a3 a4 a5) : (recordCove s a2 a3 a4 a5).remap = s.remap := by
  obtain ⟨_, _, e⟩ := recordCove_frame s _ _ _ _; rw [e]
@[simp] theorem recordCove_health (a2 a3 a4 a5) : (recordCove s a2 a3 a4 a5).health = s.health := by
  obtain ⟨_, _, e⟩ := recordCove_frame s _ _ _ _; rw [e]
@[simp] theorem recordCove_recov (a2 a3 a4 a5) : (recordCove s a2 a3 a4 a5).recov = s.recov := by
  obtain ⟨_, _, e⟩ := recordCove_frame s _ _ _ _; rw [e]
@[simp] theorem recordCove_fw (a2 a3 a4 a5) : (recordCove s a2 a3 a4 a5).fw = s.fw := by
  obtain ⟨_, _, e⟩ := recordCove_frame s _ _ _ _; rw [e]
@[simp] theorem recordCove_pwr (a2 a3 a4 a5) : (recordCove s a2 a3 a4 a5).pwr = s.pwr := by
  obtain ⟨_, _, e⟩ := recordCove_frame s _ _ _ _; rw [e]
@[simp] theorem recordCove_tray (a2 a3 a4 a5) : (recordCove s a2 a3 a4 a5).tray = s.tray := by
  obtain ⟨_, _, e⟩ := recordCove_frame s _ _ _ _; rw [e]
@[simp] theorem recordCove_free (a2 a3 a4 a5) : (recordCove s a2 a3 a4 a5).free = s.free := by
  obtain ⟨_, _, e⟩ := recordCove_frame s _ _ _ _; rw [e]
@[simp] theorem recordCove_pending (a2 a3 a4 a5) : (recordCove s a2 a3 a4 a5).pending = s.pending := by
  obtain ⟨_, _, e⟩ := recordCove_frame s _ _ _ _; rw [e]

/-- A failed host access. -/
theorem hostFailed_frame (a2 a3) :
    ∃ x0 x1, hostFailed s a2 a3 = { s with trace := x0, host := x1 } := record_frame ..

@[simp] theorem hostFailed_cu (a2 a3) : (hostFailed s a2 a3).cu = s.cu := by
  obtain ⟨_, _, e⟩ := hostFailed_frame s _ _; rw [e]
@[simp] theorem hostFailed_moduleId (a2 a3) : (hostFailed s a2 a3).moduleId = s.moduleId := by
  obtain ⟨_, _, e⟩ := hostFailed_frame s _ _; rw [e]
@[simp] theorem hostFailed_copperOnly (a2 a3) : (hostFailed s a2 a3).copperOnly = s.copperOnly := by
  obtain ⟨_, _, e⟩ := hostFailed_frame s _ _; rw [e]
@[simp] theorem hostFailed_cores (a2 a3) : (hostFailed s a2 a3).cores = s.cores := by
  obtain ⟨_, _, e⟩ := hostFailed_frame s _ _; rw [e]
@[simp] theorem hostFailed_clusters (a2 a3) : (hostFailed s a2 a3).clusters = s.clusters := by
  obtain ⟨_, _, e⟩ := hostFailed_frame s _ _; rw [e]
@[simp] theorem hostFailed_mem (a2 a3) : (hostFailed s a2 a3).mem = s.mem := by
  obtain ⟨_, _, e⟩ := hostFailed_frame s _ _; rw [e]
@[simp] theorem hostFailed_fab (a2 a3) : (hostFailed s a2 a3).fab = s.fab := by
  obtain ⟨_, _, e⟩ := hostFailed_frame s _ _; rw [e]
@[simp] theorem hostFailed_tide (a2 a3) : (hostFailed s a2 a3).tide = s.tide := by
  obtain ⟨_, _, e⟩ := hostFailed_frame s _ _; rw [e]
@[simp] theorem hostFailed_coves (a2 a3) : (hostFailed s a2 a3).coves = s.coves := by
  obtain ⟨_, _, e⟩ := hostFailed_frame s _ _; rw [e]
@[simp] theorem hostFailed_load (a2 a3) : (hostFailed s a2 a3).load = s.load := by
  obtain ⟨_, _, e⟩ := hostFailed_frame s _ _; rw [e]
@[simp] theorem hostFailed_standin (a2 a3) : (hostFailed s a2 a3).standin = s.standin := by
  obtain ⟨_, _, e⟩ := hostFailed_frame s _ _; rw [e]
@[simp] theorem hostFailed_remap (a2 a3) : (hostFailed s a2 a3).remap = s.remap := by
  obtain ⟨_, _, e⟩ := hostFailed_frame s _ _; rw [e]
@[simp] theorem hostFailed_health (a2 a3) : (hostFailed s a2 a3).health = s.health := by
  obtain ⟨_, _, e⟩ := hostFailed_frame s _ _; rw [e]
@[simp] theorem hostFailed_recov (a2 a3) : (hostFailed s a2 a3).recov = s.recov := by
  obtain ⟨_, _, e⟩ := hostFailed_frame s _ _; rw [e]
@[simp] theorem hostFailed_fw (a2 a3) : (hostFailed s a2 a3).fw = s.fw := by
  obtain ⟨_, _, e⟩ := hostFailed_frame s _ _; rw [e]
@[simp] theorem hostFailed_pwr (a2 a3) : (hostFailed s a2 a3).pwr = s.pwr := by
  obtain ⟨_, _, e⟩ := hostFailed_frame s _ _; rw [e]
@[simp] theorem hostFailed_tray (a2 a3) : (hostFailed s a2 a3).tray = s.tray := by
  obtain ⟨_, _, e⟩ := hostFailed_frame s _ _; rw [e]
@[simp] theorem hostFailed_free (a2 a3) : (hostFailed s a2 a3).free = s.free := by
  obtain ⟨_, _, e⟩ := hostFailed_frame s _ _; rw [e]
@[simp] theorem hostFailed_pending (a2 a3) : (hostFailed s a2 a3).pending = s.pending := by
  obtain ⟨_, _, e⟩ := hostFailed_frame s _ _; rw [e]

/-- A reserved place touches the host side, and the trace by event 0xB021. -/
theorem reserveLine_frame (a2) :
    ∃ x0 x1, reserveLine s a2 = { s with trace := x0, host := x1 } := by
  unfold reserveLine; dsimp only
  split
  · obtain ⟨_, _, e⟩ := recordHead_frame (updRing (updRing s a2 _) a2 _) 0xB021 .corrected [a2]
    rw [e]; exact ⟨_, _, rfl⟩
  · exact ⟨_, _, rfl⟩

@[simp] theorem reserveLine_cu (a2) : (reserveLine s a2).cu = s.cu := by
  obtain ⟨_, _, e⟩ := reserveLine_frame s _; rw [e]
@[simp] theorem reserveLine_moduleId (a2) : (reserveLine s a2).moduleId = s.moduleId := by
  obtain ⟨_, _, e⟩ := reserveLine_frame s _; rw [e]
@[simp] theorem reserveLine_copperOnly (a2) : (reserveLine s a2).copperOnly = s.copperOnly := by
  obtain ⟨_, _, e⟩ := reserveLine_frame s _; rw [e]
@[simp] theorem reserveLine_cores (a2) : (reserveLine s a2).cores = s.cores := by
  obtain ⟨_, _, e⟩ := reserveLine_frame s _; rw [e]
@[simp] theorem reserveLine_clusters (a2) : (reserveLine s a2).clusters = s.clusters := by
  obtain ⟨_, _, e⟩ := reserveLine_frame s _; rw [e]
@[simp] theorem reserveLine_mem (a2) : (reserveLine s a2).mem = s.mem := by
  obtain ⟨_, _, e⟩ := reserveLine_frame s _; rw [e]
@[simp] theorem reserveLine_fab (a2) : (reserveLine s a2).fab = s.fab := by
  obtain ⟨_, _, e⟩ := reserveLine_frame s _; rw [e]
@[simp] theorem reserveLine_tide (a2) : (reserveLine s a2).tide = s.tide := by
  obtain ⟨_, _, e⟩ := reserveLine_frame s _; rw [e]
@[simp] theorem reserveLine_coves (a2) : (reserveLine s a2).coves = s.coves := by
  obtain ⟨_, _, e⟩ := reserveLine_frame s _; rw [e]
@[simp] theorem reserveLine_load (a2) : (reserveLine s a2).load = s.load := by
  obtain ⟨_, _, e⟩ := reserveLine_frame s _; rw [e]
@[simp] theorem reserveLine_standin (a2) : (reserveLine s a2).standin = s.standin := by
  obtain ⟨_, _, e⟩ := reserveLine_frame s _; rw [e]
@[simp] theorem reserveLine_remap (a2) : (reserveLine s a2).remap = s.remap := by
  obtain ⟨_, _, e⟩ := reserveLine_frame s _; rw [e]
@[simp] theorem reserveLine_health (a2) : (reserveLine s a2).health = s.health := by
  obtain ⟨_, _, e⟩ := reserveLine_frame s _; rw [e]
@[simp] theorem reserveLine_recov (a2) : (reserveLine s a2).recov = s.recov := by
  obtain ⟨_, _, e⟩ := reserveLine_frame s _; rw [e]
@[simp] theorem reserveLine_fw (a2) : (reserveLine s a2).fw = s.fw := by
  obtain ⟨_, _, e⟩ := reserveLine_frame s _; rw [e]
@[simp] theorem reserveLine_pwr (a2) : (reserveLine s a2).pwr = s.pwr := by
  obtain ⟨_, _, e⟩ := reserveLine_frame s _; rw [e]
@[simp] theorem reserveLine_tray (a2) : (reserveLine s a2).tray = s.tray := by
  obtain ⟨_, _, e⟩ := reserveLine_frame s _; rw [e]
@[simp] theorem reserveLine_free (a2) : (reserveLine s a2).free = s.free := by
  obtain ⟨_, _, e⟩ := reserveLine_frame s _; rw [e]
@[simp] theorem reserveLine_pending (a2) : (reserveLine s a2).pending = s.pending := by
  obtain ⟨_, _, e⟩ := reserveLine_frame s _; rw [e]

/-- A host-access error touches the host side and the trace only. -/
theorem hostError_frame (a2 a3 a4) :
    ∃ x0 x1, hostError s a2 a3 a4 = { s with trace := x0, host := x1 } := by
  unfold hostError; extract_lets e r s1 s2
  have h2 : ∃ x y, s2 = { s with trace := x, host := y } := by
    simp only [s2]
    split <;> exact ⟨_, _, rfl⟩
  obtain ⟨x, y, h⟩ := h2
  rw [h]
  obtain ⟨_, _, e⟩ := record_frame { s with trace := x, host := y } 0xB010 .corrected (if a2 = 0 then 16 else a2 - 1)
    1296 [BitVec.toNat e]
  rw [e]; exact ⟨_, _, rfl⟩

@[simp] theorem hostError_cu (a2 a3 a4) : (hostError s a2 a3 a4).cu = s.cu := by
  obtain ⟨_, _, e⟩ := hostError_frame s _ _ _; rw [e]
@[simp] theorem hostError_moduleId (a2 a3 a4) : (hostError s a2 a3 a4).moduleId = s.moduleId := by
  obtain ⟨_, _, e⟩ := hostError_frame s _ _ _; rw [e]
@[simp] theorem hostError_copperOnly (a2 a3 a4) : (hostError s a2 a3 a4).copperOnly = s.copperOnly := by
  obtain ⟨_, _, e⟩ := hostError_frame s _ _ _; rw [e]
@[simp] theorem hostError_cores (a2 a3 a4) : (hostError s a2 a3 a4).cores = s.cores := by
  obtain ⟨_, _, e⟩ := hostError_frame s _ _ _; rw [e]
@[simp] theorem hostError_clusters (a2 a3 a4) : (hostError s a2 a3 a4).clusters = s.clusters := by
  obtain ⟨_, _, e⟩ := hostError_frame s _ _ _; rw [e]
@[simp] theorem hostError_mem (a2 a3 a4) : (hostError s a2 a3 a4).mem = s.mem := by
  obtain ⟨_, _, e⟩ := hostError_frame s _ _ _; rw [e]
@[simp] theorem hostError_fab (a2 a3 a4) : (hostError s a2 a3 a4).fab = s.fab := by
  obtain ⟨_, _, e⟩ := hostError_frame s _ _ _; rw [e]
@[simp] theorem hostError_tide (a2 a3 a4) : (hostError s a2 a3 a4).tide = s.tide := by
  obtain ⟨_, _, e⟩ := hostError_frame s _ _ _; rw [e]
@[simp] theorem hostError_coves (a2 a3 a4) : (hostError s a2 a3 a4).coves = s.coves := by
  obtain ⟨_, _, e⟩ := hostError_frame s _ _ _; rw [e]
@[simp] theorem hostError_load (a2 a3 a4) : (hostError s a2 a3 a4).load = s.load := by
  obtain ⟨_, _, e⟩ := hostError_frame s _ _ _; rw [e]
@[simp] theorem hostError_standin (a2 a3 a4) : (hostError s a2 a3 a4).standin = s.standin := by
  obtain ⟨_, _, e⟩ := hostError_frame s _ _ _; rw [e]
@[simp] theorem hostError_remap (a2 a3 a4) : (hostError s a2 a3 a4).remap = s.remap := by
  obtain ⟨_, _, e⟩ := hostError_frame s _ _ _; rw [e]
@[simp] theorem hostError_health (a2 a3 a4) : (hostError s a2 a3 a4).health = s.health := by
  obtain ⟨_, _, e⟩ := hostError_frame s _ _ _; rw [e]
@[simp] theorem hostError_recov (a2 a3 a4) : (hostError s a2 a3 a4).recov = s.recov := by
  obtain ⟨_, _, e⟩ := hostError_frame s _ _ _; rw [e]
@[simp] theorem hostError_fw (a2 a3 a4) : (hostError s a2 a3 a4).fw = s.fw := by
  obtain ⟨_, _, e⟩ := hostError_frame s _ _ _; rw [e]
@[simp] theorem hostError_pwr (a2 a3 a4) : (hostError s a2 a3 a4).pwr = s.pwr := by
  obtain ⟨_, _, e⟩ := hostError_frame s _ _ _; rw [e]
@[simp] theorem hostError_tray (a2 a3 a4) : (hostError s a2 a3 a4).tray = s.tray := by
  obtain ⟨_, _, e⟩ := hostError_frame s _ _ _; rw [e]
@[simp] theorem hostError_free (a2 a3 a4) : (hostError s a2 a3 a4).free = s.free := by
  obtain ⟨_, _, e⟩ := hostError_frame s _ _ _; rw [e]
@[simp] theorem hostError_pending (a2 a3 a4) : (hostError s a2 a3 a4).pending = s.pending := by
  obtain ⟨_, _, e⟩ := hostError_frame s _ _ _; rw [e]

/-- Saturations are charged to counters. -/
theorem chargeSats_frame (a2 a3) :
    ∃ x0 x1, chargeSats s a2 a3 = { s with trace := x0, coves := x1 } := by
  unfold chargeSats; split <;> exact ⟨_, _, rfl⟩

@[simp] theorem chargeSats_cu (a2 a3) : (chargeSats s a2 a3).cu = s.cu := by
  obtain ⟨_, _, e⟩ := chargeSats_frame s _ _; rw [e]
@[simp] theorem chargeSats_moduleId (a2 a3) : (chargeSats s a2 a3).moduleId = s.moduleId := by
  obtain ⟨_, _, e⟩ := chargeSats_frame s _ _; rw [e]
@[simp] theorem chargeSats_copperOnly (a2 a3) : (chargeSats s a2 a3).copperOnly = s.copperOnly := by
  obtain ⟨_, _, e⟩ := chargeSats_frame s _ _; rw [e]
@[simp] theorem chargeSats_cores (a2 a3) : (chargeSats s a2 a3).cores = s.cores := by
  obtain ⟨_, _, e⟩ := chargeSats_frame s _ _; rw [e]
@[simp] theorem chargeSats_clusters (a2 a3) : (chargeSats s a2 a3).clusters = s.clusters := by
  obtain ⟨_, _, e⟩ := chargeSats_frame s _ _; rw [e]
@[simp] theorem chargeSats_mem (a2 a3) : (chargeSats s a2 a3).mem = s.mem := by
  obtain ⟨_, _, e⟩ := chargeSats_frame s _ _; rw [e]
@[simp] theorem chargeSats_fab (a2 a3) : (chargeSats s a2 a3).fab = s.fab := by
  obtain ⟨_, _, e⟩ := chargeSats_frame s _ _; rw [e]
@[simp] theorem chargeSats_tide (a2 a3) : (chargeSats s a2 a3).tide = s.tide := by
  obtain ⟨_, _, e⟩ := chargeSats_frame s _ _; rw [e]
@[simp] theorem chargeSats_load (a2 a3) : (chargeSats s a2 a3).load = s.load := by
  obtain ⟨_, _, e⟩ := chargeSats_frame s _ _; rw [e]
@[simp] theorem chargeSats_standin (a2 a3) : (chargeSats s a2 a3).standin = s.standin := by
  obtain ⟨_, _, e⟩ := chargeSats_frame s _ _; rw [e]
@[simp] theorem chargeSats_remap (a2 a3) : (chargeSats s a2 a3).remap = s.remap := by
  obtain ⟨_, _, e⟩ := chargeSats_frame s _ _; rw [e]
@[simp] theorem chargeSats_health (a2 a3) : (chargeSats s a2 a3).health = s.health := by
  obtain ⟨_, _, e⟩ := chargeSats_frame s _ _; rw [e]
@[simp] theorem chargeSats_recov (a2 a3) : (chargeSats s a2 a3).recov = s.recov := by
  obtain ⟨_, _, e⟩ := chargeSats_frame s _ _; rw [e]
@[simp] theorem chargeSats_host (a2 a3) : (chargeSats s a2 a3).host = s.host := by
  obtain ⟨_, _, e⟩ := chargeSats_frame s _ _; rw [e]
@[simp] theorem chargeSats_fw (a2 a3) : (chargeSats s a2 a3).fw = s.fw := by
  obtain ⟨_, _, e⟩ := chargeSats_frame s _ _; rw [e]
@[simp] theorem chargeSats_pwr (a2 a3) : (chargeSats s a2 a3).pwr = s.pwr := by
  obtain ⟨_, _, e⟩ := chargeSats_frame s _ _; rw [e]
@[simp] theorem chargeSats_tray (a2 a3) : (chargeSats s a2 a3).tray = s.tray := by
  obtain ⟨_, _, e⟩ := chargeSats_frame s _ _; rw [e]
@[simp] theorem chargeSats_free (a2 a3) : (chargeSats s a2 a3).free = s.free := by
  obtain ⟨_, _, e⟩ := chargeSats_frame s _ _; rw [e]
@[simp] theorem chargeSats_pending (a2 a3) : (chargeSats s a2 a3).pending = s.pending := by
  obtain ⟨_, _, e⟩ := chargeSats_frame s _ _; rw [e]

/-- Retiring steps the program counter and counts. -/
theorem retire_frame (a2 a3 a4) :
    ∃ x0 x1, retire s a2 a3 a4 = { s with cores := x0, trace := x1 } := by
  unfold retire
  obtain ⟨_, e⟩ := bumpCore_frame (updCtx s a2 a3 _) a2 1 1
  rw [e]; exact ⟨_, _, rfl⟩

@[simp] theorem retire_cu (a2 a3 a4) : (retire s a2 a3 a4).cu = s.cu := by
  obtain ⟨_, _, e⟩ := retire_frame s _ _ _; rw [e]
@[simp] theorem retire_moduleId (a2 a3 a4) : (retire s a2 a3 a4).moduleId = s.moduleId := by
  obtain ⟨_, _, e⟩ := retire_frame s _ _ _; rw [e]
@[simp] theorem retire_copperOnly (a2 a3 a4) : (retire s a2 a3 a4).copperOnly = s.copperOnly := by
  obtain ⟨_, _, e⟩ := retire_frame s _ _ _; rw [e]
@[simp] theorem retire_clusters (a2 a3 a4) : (retire s a2 a3 a4).clusters = s.clusters := by
  obtain ⟨_, _, e⟩ := retire_frame s _ _ _; rw [e]
@[simp] theorem retire_mem (a2 a3 a4) : (retire s a2 a3 a4).mem = s.mem := by
  obtain ⟨_, _, e⟩ := retire_frame s _ _ _; rw [e]
@[simp] theorem retire_fab (a2 a3 a4) : (retire s a2 a3 a4).fab = s.fab := by
  obtain ⟨_, _, e⟩ := retire_frame s _ _ _; rw [e]
@[simp] theorem retire_tide (a2 a3 a4) : (retire s a2 a3 a4).tide = s.tide := by
  obtain ⟨_, _, e⟩ := retire_frame s _ _ _; rw [e]
@[simp] theorem retire_coves (a2 a3 a4) : (retire s a2 a3 a4).coves = s.coves := by
  obtain ⟨_, _, e⟩ := retire_frame s _ _ _; rw [e]
@[simp] theorem retire_load (a2 a3 a4) : (retire s a2 a3 a4).load = s.load := by
  obtain ⟨_, _, e⟩ := retire_frame s _ _ _; rw [e]
@[simp] theorem retire_standin (a2 a3 a4) : (retire s a2 a3 a4).standin = s.standin := by
  obtain ⟨_, _, e⟩ := retire_frame s _ _ _; rw [e]
@[simp] theorem retire_remap (a2 a3 a4) : (retire s a2 a3 a4).remap = s.remap := by
  obtain ⟨_, _, e⟩ := retire_frame s _ _ _; rw [e]
@[simp] theorem retire_health (a2 a3 a4) : (retire s a2 a3 a4).health = s.health := by
  obtain ⟨_, _, e⟩ := retire_frame s _ _ _; rw [e]
@[simp] theorem retire_recov (a2 a3 a4) : (retire s a2 a3 a4).recov = s.recov := by
  obtain ⟨_, _, e⟩ := retire_frame s _ _ _; rw [e]
@[simp] theorem retire_host (a2 a3 a4) : (retire s a2 a3 a4).host = s.host := by
  obtain ⟨_, _, e⟩ := retire_frame s _ _ _; rw [e]
@[simp] theorem retire_fw (a2 a3 a4) : (retire s a2 a3 a4).fw = s.fw := by
  obtain ⟨_, _, e⟩ := retire_frame s _ _ _; rw [e]
@[simp] theorem retire_pwr (a2 a3 a4) : (retire s a2 a3 a4).pwr = s.pwr := by
  obtain ⟨_, _, e⟩ := retire_frame s _ _ _; rw [e]
@[simp] theorem retire_tray (a2 a3 a4) : (retire s a2 a3 a4).tray = s.tray := by
  obtain ⟨_, _, e⟩ := retire_frame s _ _ _; rw [e]
@[simp] theorem retire_free (a2 a3 a4) : (retire s a2 a3 a4).free = s.free := by
  obtain ⟨_, _, e⟩ := retire_frame s _ _ _; rw [e]
@[simp] theorem retire_pending (a2 a3 a4) : (retire s a2 a3 a4).pending = s.pending := by
  obtain ⟨_, _, e⟩ := retire_frame s _ _ _; rw [e]

end Sys2Proof.Laws
end

