-- ==== Sys2Proof/Laws/Events.lean ====
section
/-!
SUPPORT. Events: what recording one adds to the counts of events.
-/
namespace Sys2Proof.Laws
open Sys2Proof Sys2Proof.Machine

variable (s : State)

theorem bump_sources (a b c d) : (bump s a b c d).trace.sources = s.trace.sources := rfl

theorem ringPut_sources (r e) : (ringPut s r e).trace.sources = s.trace.sources := by
  unfold ringPut; dsimp only; (repeat' split) <;> rfl

theorem strandPut_sources (e) : (strandPut s e).trace.sources = s.trace.sources := by
  unfold strandPut; (repeat' split) <;> rfl

theorem countSource_sources (c r k) : (countSource s c r k).trace.sources =
    Sparse.set 0 s.trace.sources (c * 2048 + r) (satTo 32 (Sparse.get 0 s.trace.sources (c * 2048 + r) + 1)) := by
  unfold countSource; dsimp only; split <;> rfl

/-- One event adds one to its own count and to no other. -/
theorem recordPlain_sources (c v k r d) : (recordPlain s c v k r d).trace.sources =
    Sparse.set 0 s.trace.sources (c * 2048 + r) (satTo 32 (Sparse.get 0 s.trace.sources (c * 2048 + r) + 1)) := by
  unfold recordPlain
  dsimp only
  split <;> simp only [noticeLine_trace, strandPut_sources, ringPut_sources, bump_sources, countSource_sources]

/-- The count of an event after one is recorded without episodes. -/
theorem eventCount_recordPlain (c v k r d c' r') (hr : r < 2048) (hr' : r' < 2048) :
    eventCount (recordPlain s c v k r d) c' r' =
      if c' = c ∧ r' = r then satTo 32 (eventCount s c r + 1) else eventCount s c' r' := by
  unfold eventCount
  rw [recordPlain_sources, get_set]
  by_cases h : c' = c ∧ r' = r
  · rw [if_pos h, h.1, h.2, if_pos rfl]
  · rw [if_neg h, if_neg (by omega)]

/-- The codes of the events that open an episode: R521's and R562's. -/
def episodeCode (c : Nat) : Prop := c = 0xA041 ∨ c = 0xB020

/-- Recording an event counts it, and no other event but those that open an episode. -/
theorem eventCount_record (c v k r d c' r') (hr : r < 2048) (hr' : r' < 2048) (hc : ¬ episodeCode c') :
    eventCount (record s c v k r d) c' r' =
      if c' = c ∧ r' = r then satTo 32 (eventCount s c r + 1) else eventCount s c' r' := by
  have h1 : c' ≠ 0xA041 := fun h => hc (.inl h)
  have h2 : c' ≠ 0xB020 := fun h => hc (.inr h)
  have plain := eventCount_recordPlain s c v k r d c' r' hr hr'
  unfold record
  extract_lets ring ring0 strand0 drop0 s1 s2
  have hs2 : eventCount s2 c' r' = eventCount s1 c' r' := by
    simp only [s2]
    split
    · rw [eventCount_recordPlain _ _ _ _ _ _ _ _ (by omega) hr', if_neg fun h => h1 h.1]
    · rfl
  split
  · rw [eventCount_recordPlain _ _ _ _ _ _ _ _ (by omega) hr', if_neg fun h => h2 h.1, hs2]
    exact plain
  · rw [hs2]
    exact plain

/-- An event is recorded. -/
theorem recorded_record (c v k r d) (hr : r < 2048) (hc : ¬ episodeCode c) : Recorded s (record s c v k r d) c r := by
  unfold Recorded
  rw [eventCount_record _ _ _ _ _ _ _ _ hr hr hc, if_pos ⟨rfl, rfl⟩]

/-- An event of the headland is recorded. -/
theorem recorded_recordHead (c v d) (hc : ¬ episodeCode c) : Recorded s (recordHead s c v d) c 1296 :=
  recorded_record _ _ _ _ _ _ (by omega) hc

/-- An event of a cove is recorded. -/
theorem recorded_recordCove (c v k d) (hc : ¬ episodeCode c) : Recorded s (recordCove s c v k d) c 1296 :=
  recorded_record _ _ _ _ _ _ (by omega) hc

/-- What a state recorded is read from its counts alone. -/
theorem recorded_of_sources {u t t' : State} {c r} (e : t'.trace.sources = t.trace.sources) (h : Recorded u t c r) :
    Recorded u t' c r := by
  unfold Recorded eventCount at *
  rw [e, h]

end Sys2Proof.Laws
end

