-- ==== Sys2Proof/Laws/Issue.lean ====
section
/-!
SUPPORT. Issue: an instruction whose checks pass has its effect, and what the frame of one context is made of.
-/
namespace Sys2Proof.Laws
open Sys2Proof Sys2Proof.Machine

variable {s : State} {core k op : Nat} {w : Fields} {u : Use} {wr : Writes} {allowed legal bounded : Bool}
  {stall : Option Nat} {body : State → State}

/-- Class and op read back from a word (R127). -/
theorem wordOp_encodeWord (op : Nat) (w : Fields) (h : op < 4096) : wordOp (encodeWord op w) = op := by
  have e : (encodeWord op w).extractLsb' 116 12 = BitVec.ofNat 12 op := by
    unfold encodeWord
    apply BitVec.eq_of_getLsbD_eq
    intro i hi
    simp only [BitVec.getLsbD_extractLsb', BitVec.getLsbD_append, hi, decide_true, Bool.true_and]
    simp only [show ¬ (116 + i < 16) by omega, show ¬ (116 + i - 16 < 16) by omega,
      show ¬ (116 + i - 16 - 16 < 32) by omega, show ¬ (116 + i - 16 - 16 - 32 < 32) by omega,
      show ¬ (116 + i - 16 - 16 - 32 - 32 < 5) by omega, show ¬ (116 + i - 16 - 16 - 32 - 32 - 5 < 5) by omega,
      show ¬ (116 + i - 16 - 16 - 32 - 32 - 5 - 5 < 5) by omega,
      show ¬ (116 + i - 16 - 16 - 32 - 32 - 5 - 5 - 5 < 5) by omega, if_false]
    rw [show 116 + i - 16 - 16 - 32 - 32 - 5 - 5 - 5 - 5 = i by omega]
  unfold wordOp
  rw [e, BitVec.toNat_ofNat, Nat.mod_eq_of_lt (by omega)]

/-- Every class and op that a table lists fits its field. -/
theorem listed_lt (h : opListed op = true) : op < 4096 := by
  by_contra hn
  unfold opListed at h
  have h16 : 16 ≤ op / 256 := by omega
  split at h <;> first | omega | exact absurd h (by simp)

/-- The instruction that a context fetches has its effect when its checks pass (R166). -/
theorem issue_body (f : Fetched s core k op w) (ok : FieldsOk s core k op w u wr allowed) :
    issue s core k op w u wr allowed true true none body = body s := by
  obtain ⟨h1, h2, h3⟩ := ok
  unfold issue
  simp [f.can, f.region, f.sound, f.ready, f.clear, f.word, wordOp_encodeWord op w (listed_lt f.listed), f.listed, h1, h2, h3]

/-- A full queue or the interlock holds it: one stall cycle is counted (R97, R529). -/
theorem issue_stall {n : Nat} (f : Fetched s core k op w) (ok : FieldsOk s core k op w u wr allowed) :
    issue s core k op w u wr allowed true true (some n) body = bumpCore s core n 1 := by
  obtain ⟨h1, h2, h3⟩ := ok
  unfold issue
  simp [f.can, f.region, f.sound, f.ready, f.clear, f.word, wordOp_encodeWord op w (listed_lt f.listed), f.listed, h1, h2, h3]

/-- A context that may not issue does nothing. -/
theorem issue_blocked (h : canIssue s core k = false) :
    issue s core k op w u wr allowed legal bounded stall body = s := by
  unfold issue
  simp [h]

/-- The counters that `bumpCore` changes. -/
theorem bumpCore_trace (s : State) (core n c : Nat) : ∃ x y, (bumpCore s core n c).trace =
    { s.trace with counters := x, coveCounters := y } := by
  unfold bumpCore
  split <;> exact ⟨_, _, rfl⟩

/-- A change of one context that retires stays in the frame of that context. -/
theorem frame_retire (s : State) (core k pc : Nat) (f : Ctx → Ctx) :
    CoreFrame s (retire (updCtx s core k f) core k pc) core k := by
  refine ⟨fun j hj => ?_, ?_, fun i hi => ?_, ?_⟩
  · simp only [retire, ctxAt, coreAt, bumpCore_cores]
    exact (ctxAt_updCtx_other _ _ _ _ _ hj).trans (ctxAt_updCtx_other _ _ _ _ _ hj)
  · have e : coreAt (retire (updCtx s core k f) core k pc) core =
        coreAt (updCtx (updCtx s core k f) core k fun x => { x with pc := pc }) core := by
      simp only [retire, coreAt, bumpCore_cores]
    rw [e, updCtx, coreAt_setCtx, updCtx, coreAt_setCtx]
  · simp only [retire, coreAt, bumpCore_cores]
    exact (coreAt_updCore_other _ _ _ _ hi).trans (coreAt_updCore_other _ _ _ _ hi)
  · obtain ⟨x, y, e⟩ := bumpCore_trace (updCtx (updCtx s core k f) core k fun x => { x with pc := pc }) core 1 1
    unfold retire
    rw [e]
    obtain ⟨z, e'⟩ := bumpCore_frame (updCtx (updCtx s core k f) core k fun x => { x with pc := pc }) core 1 1
    rw [e'] at e ⊢
    simp only at e
    subst e
    rfl

/-- The context after a change that retires. -/
theorem ctxAt_retire (s : State) (core k pc : Nat) :
    ctxAt (retire s core k pc) core k = { ctxAt s core k with pc := pc } := by
  simp only [retire, ctxAt, coreAt, bumpCore_cores]
  exact ctxAt_updCtx ..

end Sys2Proof.Laws
end

