-- ==== Sys2Proof/Laws/Memory.lean ====
section
/-!
SUPPORT. The byte memories: reading after a write, and every memory operation keeps the canonical form.
-/
namespace Sys2Proof.Laws
open Sys2Proof Sys2Proof.Machine

/-! One byte. -/

/-- A byte reads as it was written. -/
@[simp] theorem memByte_memSet_same (m : Memory) (a : Nat) (b : Byte) : memByte (memSet m a b) a = b :=
  get_set_same ..

/-- A write of one byte leaves every other byte alone. -/
theorem memByte_memSet_other (m : Memory) (a c : Nat) (b : Byte) (h : c ≠ a) :
    memByte (memSet m a b) c = memByte m c := get_set_other _ _ _ _ _ h

/-- What a byte reads as after a write of one byte. -/
theorem memByte_memSet (m : Memory) (a c : Nat) (b : Byte) :
    memByte (memSet m a b) c = if c = a then b else memByte m c := get_set ..

/-! Runs of bytes. -/

/-- What a byte reads as after a write of a run. -/
theorem memByte_memWrite (m : Memory) (a : Nat) (bs : List Byte) (c : Nat) :
    memByte (memWrite m a bs) c = if h : a ≤ c ∧ c - a < bs.length then bs[c - a]'h.2 else memByte m c := by
  induction bs generalizing m a with
  | nil => simp [memWrite]
  | cons b t ih =>
    rw [memWrite, ih, memByte_memSet]
    by_cases h1 : c = a
    · subst h1; simp
    · by_cases h2 : a + 1 ≤ c ∧ c - (a + 1) < t.length
      · have h3 : a ≤ c ∧ c - a < (b :: t).length := by simp only [List.length_cons]; omega
        rw [dif_pos h2, dif_pos h3]
        have : c - a = (c - (a + 1)) + 1 := by omega
        simp [this]
      · have h3 : ¬ (a ≤ c ∧ c - a < (b :: t).length) := by simp only [List.length_cons]; omega
        rw [dif_neg h2, dif_neg h3, if_neg h1]

/-- A write leaves every byte outside its run alone. -/
theorem memByte_memWrite_other (m : Memory) (a : Nat) (bs : List Byte) (c : Nat)
    (h : c < a ∨ a + bs.length ≤ c) : memByte (memWrite m a bs) c = memByte m c := by
  rw [memByte_memWrite, dif_neg (by omega)]

/-- A run reads as it was written. -/
theorem memRead_memWrite (m : Memory) (a : Nat) (bs : List Byte) :
    memRead (memWrite m a bs) a bs.length = bs := by
  apply List.ext_getElem
  · simp [memRead]
  · intro i h1 h2
    simp [memRead, memByte_memWrite, h2]

/-- What a byte reads as after a range is dropped. -/
theorem memByte_memZero (m : Memory) (a n c : Nat) :
    memByte (memZero m a n) c = if a ≤ c ∧ c < a + n then 0#8 else memByte m c := by
  unfold memZero memByte
  induction m with
  | nil => simp
  | cons p t ih =>
    obtain ⟨k, v⟩ := p
    rw [List.filter_cons, get_cons]
    by_cases hk : (decide (k < a) || decide (a + n ≤ k)) = true
    · rw [if_pos hk, get_cons, ih]
      simp only [Bool.or_eq_true, decide_eq_true_eq] at hk
      by_cases hc : c = k
      · subst hc; rw [if_pos rfl, if_pos rfl, if_neg (by omega)]
      · rw [if_neg hc, if_neg hc]
    · rw [if_neg hk, ih]
      simp only [Bool.or_eq_true, decide_eq_true_eq] at hk
      by_cases hc : c = k
      · subst hc; rw [if_pos (by omega), if_pos (by omega)]
      · rw [if_neg hc]

/-! The canonical form. -/

@[simp] theorem wf_nil : Memory.wf [] = true := rfl

/-- A write of one byte keeps the canonical form. -/
theorem wf_memSet {m : Memory} (a : Nat) (b : Byte) (h : Memory.wf m = true) : Memory.wf (memSet m a b) = true :=
  wf_set a b h

/-- A write of a run keeps the canonical form. -/
theorem wf_memWrite {m : Memory} (a : Nat) (bs : List Byte) (h : Memory.wf m = true) :
    Memory.wf (memWrite m a bs) = true := by
  induction bs generalizing m a with
  | nil => exact h
  | cons b t ih => exact ih _ (wf_memSet a b h)

/-- Dropping a range keeps the canonical form. -/
theorem wf_memZero {m : Memory} (a n : Nat) (h : Memory.wf m = true) : Memory.wf (memZero m a n) = true :=
  wf_filter _ h

/-- Storing an element keeps the canonical form. -/
theorem wf_setElem {m : Memory} (a w i v : Nat) (h : Memory.wf m = true) :
    Memory.wf (setElem m a w i v) = true := by
  unfold setElem
  split
  · exact wf_memWrite _ _ h
  · exact wf_memWrite _ _ h

/-- Storing elements keeps the canonical form. -/
theorem wf_setElems {m : Memory} (a w i : Nat) (vs : List Nat) (h : Memory.wf m = true) :
    Memory.wf (setElems m a w i vs) = true := by
  induction vs generalizing m i with
  | nil => exact h
  | cons v t ih => exact ih _ (wf_setElem a w i v h)

/-- Storing bytes one by one keeps the canonical form. -/
theorem wf_foldl_memSet {m : Memory} (l : List (Nat × Byte)) (h : Memory.wf m = true) :
    Memory.wf (l.foldl (fun m x => memSet m x.1 x.2) m) = true := by
  induction l generalizing m with
  | nil => exact h
  | cons x t ih => exact ih (wf_memSet x.1 x.2 h)

/-! HBM, near memory and scratchpads. -/

/-- What a stack holds after a change of a stack. -/
theorem stackAt_updStack (s : State) (st k : Nat) (f : Memory → Memory) :
    stackAt (updStack s st f) k = if k = st then f (stackAt s st) else stackAt s k := by
  simp [stackAt, updStack, get_set]

/-- What a die's near memory holds after a change of one. -/
theorem nearAt_updNear (s : State) (d k : Nat) (f : Memory → Memory) :
    nearAt (updNear s d f) k = if k = d then f (nearAt s d) else nearAt s k := by
  simp [nearAt, updNear, get_set]

/-- Distinct HBM offsets of package space stand at distinct places (R211). -/
theorem hbmPlace_inj {a b : Nat} (ha : a < 2 ^ 41) (hb : b < 2 ^ 41) (h : hbmPlace a = hbmPlace b)
    (hs : bitOf a 40 = bitOf b 40) : a = b := by
  have e : a / 1099511627776 % 2 = b / 1099511627776 % 2 := by
    have := decide_eq_decide.mp hs
    norm_num at this
    omega
  have p := congrArg Prod.fst h
  have q := congrArg Prod.snd h
  by_cases c : bitOf b 40 = true <;> simp only [hbmPlace, hs, c, if_true, if_false, Bool.false_eq_true, bitsOf] at p q
    <;> norm_num only at ha hb p q <;> omega

/-- What a byte of HBM reads as after a write of one. -/
theorem hbmByte_hbmSet (s : State) (a c : Nat) (b : Byte) :
    hbmByte (hbmSet s a b) c = if hbmPlace c = hbmPlace a then b else hbmByte s c := by
  unfold hbmByte hbmSet
  rw [stackAt_updStack]
  by_cases h1 : (hbmPlace c).1 = (hbmPlace a).1
  · rw [if_pos h1, memByte_memSet]
    by_cases h2 : (hbmPlace c).2 = (hbmPlace a).2
    · rw [if_pos h2, if_pos (Prod.ext h1 h2)]
    · rw [if_neg h2, if_neg fun e => h2 (congrArg Prod.snd e), h1]
  · rw [if_neg h1, if_neg fun e => h1 (congrArg Prod.fst e)]

end Sys2Proof.Laws
end

