-- ==== Sys2Proof/Laws/Keep.lean ====
section
/-!
SUPPORT. Composing `Keep` and `OutKeep`: the steps from which the lemma of every operation is built.
-/
namespace Sys2Proof.Laws
open Sys2Proof Sys2Proof.Machine

variable {s0 s t : State}

theorem Keep.refl (s : State) : Keep s s := ⟨rfl, rfl, id, id⟩

theorem Keep.trans {a b c : State} (h : Keep a b) (k : Keep b c) : Keep a c :=
  ⟨k.cu.trans h.cu, k.pending.trans h.pending, k.copper ∘ h.copper, k.memories ∘ h.memories⟩

/-- A next state keeps what it keeps. -/
theorem out_next (h : Keep s0 s) : OutKeep s0 (.next s) := ⟨s, rfl, h⟩

/-- A fact about a local value, for the rest of a proof. -/
theorem keepCut {P : Prop} (x : State) (h : Keep s0 x) (k : Keep s0 x → P) : P := k h

/-- The same of a local function of a state and a value. -/
theorem keepCutF {α : Type} {P : Prop} (x : State → α → State) (h : ∀ t a, Keep s0 t → Keep s0 (x t a))
    (k : (∀ t a, Keep s0 t → Keep s0 (x t a)) → P) : P := k h

/-- The same of a local function of a state. -/
theorem keepCutG {P : Prop} (x : State → State) (h : ∀ t, Keep s0 t → Keep s0 (x t))
    (k : (∀ t, Keep s0 t → Keep s0 (x t)) → P) : P := k h

theorem keep_fst {α : Type} {b : α} {p : State × α} (e : p = (t, b)) (h : Keep s0 p.1) : Keep s0 t := by
  subst e; exact h

theorem keep_snd {α : Type} {a : α} {p : α × State} (e : p = (a, t)) (h : Keep s0 p.2) : Keep s0 t := by
  subst e; exact h

theorem keep_next (h : OutKeep s0 (.next t)) : Keep s0 t := by
  obtain ⟨u, e, h⟩ := h
  cases e
  exact h

/-- The parts of a state on which `Keep` depends. -/
def KeepF (s0 : State) (cu copper : Bool) (cores : Sparse CoreState) (near hbm : Sparse Memory)
    (q : List Instr) : Prop :=
  cu = s0.cu ∧ q = s0.pending ∧ (s0.buildOk → cu = true → copper = true)
    ∧ (s0.memoriesCanonical → (∀ p ∈ cores, Memory.wf p.2.scratch = true)
        ∧ (∀ p ∈ near, Memory.wf p.2 = true) ∧ ∀ p ∈ hbm, Memory.wf p.2 = true)

/-- `Keep` of a state given by its fields. -/
theorem keep_mk (a b c d e f g i j k l m n o p q r u v w x) :
    Keep s0 ⟨a, b, c, d, e, f, g, i, j, k, l, m, n, o, p, q, r, u, v, w, x⟩ = KeepF s0 a c d f.near f.hbm x :=
  propext ⟨fun h => ⟨h.cu, h.pending, h.copper, h.memories⟩, fun h => ⟨h.1, h.2.1, h.2.2.1, h.2.2.2⟩⟩

/-- A state that differs in other fields only. -/
theorem keepF_of (h : Keep s0 t) : KeepF s0 t.cu t.copperOnly t.cores t.mem.near t.mem.hbm t.pending :=
  ⟨h.cu, h.pending, h.copper, h.memories⟩

/-- A fold keeps what each of its steps keeps. -/
theorem keep_foldl {α : Type} (h : Keep s0 s) (l : List α) (f : State → α → State)
    (hf : ∀ t a, Keep s0 t → Keep s0 (f t a)) : Keep s0 (l.foldl f s) := by
  induction l generalizing s with
  | nil => exact h
  | cons a t ih => exact ih (hf s a h)

/-- So does `forEach`. -/
theorem keep_forEach {α : Type} (h : Keep s0 s) (l : List α) (f : State → α → State)
    (hf : ∀ t a, Keep s0 t → Keep s0 (f t a)) : Keep s0 (forEach s l f) := keep_foldl h l f hf

/-- A fold over a value and a state. -/
theorem keep_foldl_snd {α β : Type} {a : β} (h : Keep s0 s) (l : List α) (f : β × State → α → β × State)
    (hf : ∀ t x, Keep s0 t.2 → Keep s0 (f t x).2) : Keep s0 (l.foldl f (a, s)).2 := by
  suffices ∀ p : β × State, Keep s0 p.2 → Keep s0 (l.foldl f p).2 from this (a, s) h
  induction l with
  | nil => exact fun _ h => h
  | cons x t ih => exact fun p hp => ih _ (hf p x hp)

/-- A fold over a state and a value. -/
theorem keep_foldl_fst {α β : Type} {p : State × β} (h : Keep s0 p.1) (l : List α) (f : State × β → α → State × β)
    (hf : ∀ t x, Keep s0 t.1 → Keep s0 (f t x).1) : Keep s0 (l.foldl f p).1 := by
  induction l generalizing p with
  | nil => exact h
  | cons x t ih => exact ih (hf p x h)

/-! What an access of a mover or of the thresher feed met. -/

/-- The state that it leaves keeps these. -/
structure MoveKeep (s0 : State) (r : MoveStep) : Prop where
  left : ∀ t, (r = .moved t ∨ r = .waits t ∨ ∃ w, r = .fails w t) → Keep s0 t

theorem move_moved (h : Keep s0 s) : MoveKeep s0 (.moved s) := by
  refine ⟨?_⟩
  rintro t (e | e | ⟨_, e⟩) <;> cases e
  exact h

theorem move_waits (h : Keep s0 s) : MoveKeep s0 (.waits s) := by
  refine ⟨?_⟩
  rintro t (e | e | ⟨_, e⟩) <;> cases e
  exact h

theorem move_fails {w : WainStatus} (h : Keep s0 s) : MoveKeep s0 (.fails w s) := by
  refine ⟨?_⟩
  rintro t (e | e | ⟨_, e⟩) <;> cases e
  exact h

theorem keep_moved {r : MoveStep} (e : r = .moved t) (h : MoveKeep s0 r) : Keep s0 t := h.left t (.inl e)

theorem keep_waits {r : MoveStep} (e : r = .waits t) (h : MoveKeep s0 r) : Keep s0 t := h.left t (.inr (.inl e))

theorem keep_fails {r : MoveStep} {w : WainStatus} (e : r = .fails w t) (h : MoveKeep s0 r) : Keep s0 t :=
  h.left t (.inr (.inr ⟨w, e⟩))

/-! The parts of the state that hold memories. -/

/-- Every scratchpad stays canonical when a core's is replaced by a canonical one. -/
theorem keep_setCore (h : Keep s0 s) (i : Nat) (c : CoreState)
    (hc : (∀ p ∈ s.cores, Memory.wf p.2.scratch = true) → Memory.wf c.scratch = true) :
    Keep s0 (setCore s i c) where
  cu := h.cu
  pending := h.pending
  copper := h.copper
  memories hm := by
    obtain ⟨h1, h2⟩ := h.memories hm
    refine ⟨fun p hp => ?_, h2⟩
    rcases mem_set hp with hp | rfl
    · exact h1 p hp
    · exact hc h1

/-- A change of a core that keeps its scratchpad canonical. -/
theorem keep_updCore (h : Keep s0 s) (i : Nat) (f : CoreState → CoreState)
    (hf : ∀ c, Memory.wf c.scratch = true → Memory.wf (f c).scratch = true) : Keep s0 (updCore s i f) := by
  refine keep_setCore h i _ fun hs => hf _ ?_
  rcases get_mem CoreState.reset s.cores i with e | e
  · rw [coreAt, e]; rfl
  · exact hs _ e

/-- A change of a core's context. -/
theorem keep_setCtx (h : Keep s0 s) (i k : Nat) (x : Ctx) : Keep s0 (setCtx s i k x) :=
  keep_updCore h i _ fun _ hc => hc

/-- A change of a core's context. -/
theorem keep_updCtx (h : Keep s0 s) (i k : Nat) (f : Ctx → Ctx) : Keep s0 (updCtx s i k f) := keep_setCtx h ..

/-- A write of a scratchpad. -/
theorem keep_scratchWrite (h : Keep s0 s) (core a : Nat) (bs : List Byte) : Keep s0 (scratchWrite s core a bs) :=
  keep_updCore h core _ fun _ hc => wf_memWrite a bs hc

/-- A change of a die's near memory that keeps it canonical. -/
theorem keep_updNear (h : Keep s0 s) (d : Nat) (f : Memory → Memory)
    (hf : ∀ m, Memory.wf m = true → Memory.wf (f m) = true) : Keep s0 (updNear s d f) where
  cu := h.cu
  pending := h.pending
  copper := h.copper
  memories hm := by
    obtain ⟨h1, h2, h3⟩ := h.memories hm
    refine ⟨h1, fun p hp => ?_, h3⟩
    rcases mem_set hp with hp | rfl
    · exact h2 p hp
    · rcases get_mem ([] : Memory) s.mem.near d with e | e
      · exact hf _ (by rw [nearAt, e]; rfl)
      · exact hf _ (h2 _ e)

/-- A change of an HBM stack that keeps it canonical. -/
theorem keep_updStack (h : Keep s0 s) (st : Nat) (f : Memory → Memory)
    (hf : ∀ m, Memory.wf m = true → Memory.wf (f m) = true) : Keep s0 (updStack s st f) where
  cu := h.cu
  pending := h.pending
  copper := h.copper
  memories hm := by
    obtain ⟨h1, h2, h3⟩ := h.memories hm
    refine ⟨h1, h2, fun p hp => ?_⟩
    rcases mem_set hp with hp | rfl
    · exact h3 p hp
    · rcases get_mem ([] : Memory) s.mem.hbm st with e | e
      · exact hf _ (by rw [stackAt, e]; rfl)
      · exact hf _ (h3 _ e)

/-- A write of one byte of HBM. -/
theorem keep_hbmSet (h : Keep s0 s) (off : Nat) (b : Byte) : Keep s0 (hbmSet s off b) :=
  keep_updStack h _ _ fun _ hm => wf_memSet _ b hm

/-- A write of HBM. -/
theorem keep_hbmWrite (h : Keep s0 s) (off : Nat) (bs : List Byte) : Keep s0 (hbmWrite s off bs) := by
  induction bs generalizing s off with
  | nil => exact h
  | cons b t ih => exact ih (keep_hbmSet h off b) (off + 1)

end Sys2Proof.Laws
end

