-- ==== Sys2Proof/Laws/KeepOps.lean ====
section
/-!
SUPPORT. Every shared operation keeps the build, the queue and canonical memories.
-/
namespace Sys2Proof.Laws
open Sys2Proof Sys2Proof.Machine

variable {s0 s t : State}

theorem keep_updCluster (h : Keep s0 s) (a2 a3) : Keep s0 (updCluster s a2 a3) := by
  unfold updCluster
  repeat' first
    | with_reducible assumption | (simp only [keep_mk]; with_reducible apply keepF_of)

theorem keep_updThresh (h : Keep s0 s) (a2 a3 a4) : Keep s0 (updThresh s a2 a3 a4) := by
  unfold updThresh
  repeat' first
    | with_reducible assumption | with_reducible apply keep_updCluster

theorem keep_updCove (h : Keep s0 s) (a2 a3) : Keep s0 (updCove s a2 a3) := by
  unfold updCove
  repeat' first
    | with_reducible assumption | (simp only [keep_mk]; with_reducible apply keepF_of)

theorem keep_updCkpt (h : Keep s0 s) (a2 a3) : Keep s0 (updCkpt s a2 a3) := by
  unfold updCkpt
  repeat' first
    | with_reducible assumption | with_reducible apply keep_updCove

theorem keep_updStats (h : Keep s0 s) (a2 a3) : Keep s0 (updStats s a2 a3) := by
  unfold updStats
  repeat' first
    | with_reducible assumption | with_reducible apply keep_updCove

theorem keep_updCoveTide (h : Keep s0 s) (a2 a3) : Keep s0 (updCoveTide s a2 a3) := by
  unfold updCoveTide
  repeat' first
    | with_reducible assumption | (simp only [keep_mk]; with_reducible apply keepF_of)

theorem keep_updPort (h : Keep s0 s) (a2 a3) : Keep s0 (updPort s a2 a3) := by
  unfold updPort
  repeat' first
    | with_reducible assumption | (simp only [keep_mk]; with_reducible apply keepF_of)

theorem keep_updFn (h : Keep s0 s) (a2 a3) : Keep s0 (updFn s a2 a3) := by
  unfold updFn
  repeat' first
    | with_reducible assumption | (simp only [keep_mk]; with_reducible apply keepF_of)

theorem keep_updRing (h : Keep s0 s) (a2 a3) : Keep s0 (updRing s a2 a3) := by
  unfold updRing
  repeat' first
    | with_reducible assumption | with_reducible apply keep_updFn

theorem keep_updRecov (h : Keep s0 s) (a2 a3) : Keep s0 (updRecov s a2 a3) := by
  unfold updRecov
  repeat' first
    | with_reducible assumption | (simp only [keep_mk]; with_reducible apply keepF_of)

theorem keep_updErrRing (h : Keep s0 s) (a2 a3) : Keep s0 (updErrRing s a2 a3) := by
  unfold updErrRing
  repeat' first
    | with_reducible assumption | (simp only [keep_mk]; with_reducible apply keepF_of)

theorem keep_updWaitTrace (h : Keep s0 s) (a2 a3) : Keep s0 (updWaitTrace s a2 a3) := by
  unfold updWaitTrace
  repeat' first
    | with_reducible assumption | (simp only [keep_mk]; with_reducible apply keepF_of)

theorem keep_updLedger (h : Keep s0 s) (a2 a3) : Keep s0 (updLedger s a2 a3) := by
  unfold updLedger
  repeat' first
    | with_reducible assumption | (simp only [keep_mk]; with_reducible apply keepF_of)

theorem keep_setReg (h : Keep s0 s) (a2 a3) : Keep s0 (setReg s a2 a3) := by
  unfold setReg
  repeat' first
    | with_reducible assumption | (simp only [keep_mk]; with_reducible apply keepF_of)

theorem keep_markDirty (h : Keep s0 s) (a2 a3) : Keep s0 (markDirty s a2 a3) := by
  unfold markDirty
  repeat' first
    | with_reducible assumption | (lift_lets -underBinder; intro (x : MemState); subst x)
    | (simp only [keep_mk]; with_reducible apply keepF_of) | split

theorem keep_hbmStore (h : Keep s0 s) (a2 a3) : Keep s0 (hbmStore s a2 a3) := by
  unfold hbmStore
  repeat' first
    | intro x | with_reducible assumption | with_reducible apply keep_markDirty | with_reducible apply keep_hbmWrite
    | with_reducible apply keep_foldl

theorem keep_setFrame (h : Keep s0 s) (a2 a3 a4) : Keep s0 (setFrame s a2 a3 a4) := by
  unfold setFrame
  repeat' first
    | with_reducible assumption | (simp only [keep_mk]; with_reducible apply keepF_of)

theorem keep_freeTick (h : Keep s0 s) : Keep s0 (freeTick s) := by
  unfold freeTick
  repeat' first
    | with_reducible assumption | (simp only [keep_mk]; with_reducible apply keepF_of)

theorem keep_bump (h : Keep s0 s) (a2 a3 a4 a5) : Keep s0 (bump s a2 a3 a4 a5) := by
  unfold bump
  repeat' first
    | with_reducible assumption | (simp only [keep_mk]; with_reducible apply keepF_of)

theorem keep_bumpCove (h : Keep s0 s) (a2 a3 a4 a5 a6) : Keep s0 (bumpCove s a2 a3 a4 a5 a6) := by
  unfold bumpCove
  repeat' first
    | with_reducible assumption | (simp only [keep_mk]; with_reducible apply keepF_of)

theorem keep_bumpCore (h : Keep s0 s) (a2 a3 a4) : Keep s0 (bumpCore s a2 a3 a4) := by
  unfold bumpCore
  repeat' first
    | with_reducible assumption | with_reducible apply keep_bumpCove | with_reducible apply keep_bump | split

theorem keep_bumpCoveSet (h : Keep s0 s) (a2 a3 a4) : Keep s0 (bumpCoveSet s a2 a3 a4) := by
  unfold bumpCoveSet
  repeat' first
    | with_reducible assumption | with_reducible apply keep_bumpCove | split

theorem keep_wearRoll (h : Keep s0 s) : Keep s0 (wearRoll s) := by
  unfold wearRoll
  repeat' first
    | (intro x; clear_value x) | with_reducible assumption | (lift_lets -underBinder; intro x; clear_value x)
    | (simp only [keep_mk]; with_reducible apply keepF_of) | split

theorem keep_wearAdd (h : Keep s0 s) (a2 a3 a4 a5) : Keep s0 (wearAdd s a2 a3 a4 a5) := by
  unfold wearAdd
  repeat' first
    | with_reducible assumption | with_reducible apply keep_wearRoll
    | (simp only [keep_mk]; with_reducible apply keepF_of)

theorem keep_hostWrite (h : Keep s0 s) (a2 a3 a4) : Keep s0 (hostWrite s a2 a3 a4) := by
  unfold hostWrite
  repeat' first
    | with_reducible assumption | (simp only [keep_mk]; with_reducible apply keepF_of)

theorem keep_writeLine (h : Keep s0 s) (a2 a3) : Keep s0 (writeLine s a2 a3) := by
  unfold writeLine
  repeat' first
    | with_reducible assumption | with_reducible apply keep_updRing | with_reducible apply keep_hostWrite

theorem keep_drainLines (h : Keep s0 s) (n fn) : Keep s0 (drainLines n s fn) := by
  induction n generalizing s with
  | zero => exact h
  | succ n ih =>
    unfold drainLines
    split
    · exact h
    · split
      · exact ih (keep_updRing (keep_writeLine h _ _) _ _)
      · exact h

theorem keep_completionLine (h : Keep s0 s) (a2 a3 a4 a5) : Keep s0 (completionLine s a2 a3 a4 a5) := by
  unfold completionLine
  repeat' first
    | with_reducible assumption | with_reducible apply keep_updRing | with_reducible apply keep_drainLines

theorem keep_noticeLine (h : Keep s0 s) (a2 a3 a4 a5) : Keep s0 (noticeLine s a2 a3 a4 a5) := by
  unfold noticeLine
  repeat' first
    | (intro x; clear_value x) | with_reducible assumption | with_reducible apply keep_writeLine
    | with_reducible apply keep_updRing | (lift_lets -underBinder; intro x; clear_value x) | split

theorem keep_ringPut (h : Keep s0 s) (a2 a3) : Keep s0 (ringPut s a2 a3) := by
  unfold ringPut
  repeat' first
    | (intro x; refine keepCut (s0 := s0) x ?_ ?_; rotate_left; intro hx; clear_value x; rotate_left; subst x)
    | with_reducible assumption | with_reducible apply keep_updErrRing | with_reducible apply keep_bump
    | (lift_lets -underBinder; intro x; clear_value x) | (simp only [keep_mk]; with_reducible apply keepF_of)
    | split

theorem keep_strandPut (h : Keep s0 s) (a2) : Keep s0 (strandPut s a2) := by
  unfold strandPut
  repeat' first
    | with_reducible assumption | with_reducible apply keep_bump
    | (simp only [keep_mk]; with_reducible apply keepF_of) | split

theorem keep_countSource (h : Keep s0 s) (a2 a3 a4) : Keep s0 (countSource s a2 a3 a4) := by
  unfold countSource
  repeat' first
    | with_reducible assumption | (simp only [keep_mk]; with_reducible apply keepF_of) | split

theorem keep_recordPlain (h : Keep s0 s) (a2 a3 a4 a5 a6) : Keep s0 (recordPlain s a2 a3 a4 a5 a6) := by
  unfold recordPlain
  repeat' first
    | intro x | with_reducible assumption | with_reducible apply keep_bump | with_reducible apply keep_countSource
    | with_reducible apply keep_strandPut | with_reducible apply keep_ringPut | with_reducible apply keep_noticeLine
    | (lift_lets -underBinder; intro x; (refine keepCut (s0 := s0) x ?_ ?_; rotate_left; intro hx; clear_value x; rotate_left; subst x))
    | split

theorem keep_record (h : Keep s0 s) (a2 a3 a4 a5 a6) : Keep s0 (record s a2 a3 a4 a5 a6) := by
  unfold record
  repeat' first
    | (intro x; refine keepCut (s0 := s0) x ?_ ?_; rotate_left; intro hx; clear_value x; rotate_left; subst x)
    | (intro x; clear_value x) | with_reducible assumption | with_reducible apply keep_recordPlain
    | (lift_lets -underBinder; intro x; clear_value x) | split

theorem keep_recordHead (h : Keep s0 s) (a2 a3 a4) : Keep s0 (recordHead s a2 a3 a4) := by
  unfold recordHead
  repeat' first
    | with_reducible assumption | with_reducible apply keep_record

theorem keep_recordCove (h : Keep s0 s) (a2 a3 a4 a5) : Keep s0 (recordCove s a2 a3 a4 a5) := by
  unfold recordCove
  repeat' first
    | with_reducible assumption | with_reducible apply keep_record

theorem keep_recordPort (h : Keep s0 s) (a2 a3 a4) : Keep s0 (recordPort s a2 a3 a4) := by
  unfold recordPort
  repeat' first
    | with_reducible assumption | with_reducible apply keep_record

theorem keep_reserveLine (h : Keep s0 s) (a2) : Keep s0 (reserveLine s a2) := by
  unfold reserveLine
  repeat' first
    | with_reducible assumption | with_reducible apply keep_updRing | with_reducible apply keep_recordHead
    | (lift_lets -underBinder; intro x; (refine keepCut (s0 := s0) x ?_ ?_; rotate_left; intro hx; clear_value x; rotate_left; subst x))
    | split

theorem keep_hostFailed (h : Keep s0 s) (a2 a3) : Keep s0 (hostFailed s a2 a3) := by
  unfold hostFailed
  repeat' first
    | with_reducible assumption | with_reducible apply keep_record

theorem keep_hostError (h : Keep s0 s) (a2 a3 a4) : Keep s0 (hostError s a2 a3 a4) := by
  unfold hostError
  repeat' first
    | with_reducible assumption | with_reducible apply keep_bump | with_reducible apply keep_bumpCove
    | with_reducible apply keep_record | (simp only [keep_mk]; with_reducible apply keepF_of) | split

theorem keep_setTable (h : Keep s0 s) (a2 a3 a4 a5 a6) : Keep s0 (setTable s a2 a3 a4 a5 a6) := by
  unfold setTable
  repeat' first
    | with_reducible assumption | (simp only [keep_mk]; with_reducible apply keepF_of)

theorem keep_discardStream (h : Keep s0 s) (a2 a3) : Keep s0 (discardStream s a2 a3) := by
  unfold discardStream
  repeat' first
    | with_reducible assumption | with_reducible apply keep_updCtx | with_reducible apply keep_bumpCore
    | (lift_lets -underBinder; intro x; clear_value x) | split

theorem keep_resetContexts (h : Keep s0 s) (a2 a3) : Keep s0 (resetContexts s a2 a3) := by
  unfold resetContexts
  repeat' first
    | (intro x; refine keepCut (s0 := s0) x ?_ ?_; rotate_left; intro hx; clear_value x; rotate_left; subst x)
    | (intro (x : MemState); subst x) | intro x | with_reducible assumption | with_reducible apply keep_forEach
    | with_reducible apply keep_updCtx | with_reducible apply keep_discardStream | with_reducible apply keep_updThresh
    | (lift_lets -underBinder; intro x; clear_value x) | (simp only [keep_mk]; with_reducible apply keepF_of) | split

theorem keep_writeStepRecord (h : Keep s0 s) (a2 a3 a4 a5) : Keep s0 (writeStepRecord s a2 a3 a4 a5) := by
  unfold writeStepRecord
  repeat' first
    | (intro x; clear_value x) | with_reducible assumption | with_reducible apply keep_updCove
    | with_reducible apply keep_hbmStore | with_reducible apply keep_recordCove
    | (lift_lets -underBinder; intro x; clear_value x) | split

theorem keep_holdCove (h : Keep s0 s) (a2 a3 a4) : Keep s0 (holdCove s a2 a3 a4) := by
  unfold holdCove
  repeat' first
    | with_reducible assumption | with_reducible apply keep_updCove | with_reducible apply keep_updCoveTide
    | with_reducible apply keep_recordCove

theorem keep_emit (h : Keep s0 s) (a2 a3 a4) : Keep s0 (emit s a2 a3 a4) := by
  unfold emit
  repeat' first
    | with_reducible assumption | with_reducible apply keep_updPort | (lift_lets -underBinder; intro x; clear_value x)
    | (simp only [keep_mk]; with_reducible apply keepF_of)

theorem keep_queueOut (h : Keep s0 s) (a2) : Keep s0 (queueOut s a2) := by
  unfold queueOut
  repeat' first
    | with_reducible assumption | (lift_lets -underBinder; intro x; clear_value x)
    | (simp only [keep_mk]; with_reducible apply keepF_of)

theorem keep_restorePiece (h : Keep s0 s) (a2 a3 a4) : Keep s0 (restorePiece s a2 a3 a4) := by
  unfold restorePiece
  repeat' first
    | with_reducible assumption | with_reducible apply keep_hbmStore | with_reducible apply keep_queueOut | split

theorem keep_restoreBundle (h : Keep s0 s) (a1 a3) : Keep s0 (restoreBundle a1 s a3) := by
  unfold restoreBundle
  repeat' first
    | intro x | with_reducible assumption | with_reducible apply keep_restorePiece | with_reducible apply keep_foldl

theorem keep_undoOrTear (h : Keep s0 s) (a2) : Keep s0 (undoOrTear s a2) := by
  unfold undoOrTear
  repeat' first
    | intro x | with_reducible assumption | with_reducible apply keep_recordCove | with_reducible apply keep_updCkpt
    | with_reducible apply keep_restoreBundle | with_reducible apply keep_holdCove | with_reducible apply keep_foldl
    | (lift_lets -underBinder; intro x; clear_value x) | split

theorem keep_contain (h : Keep s0 s) (a2) : Keep s0 (contain s a2) := by
  unfold contain
  repeat' first
    | with_reducible assumption | with_reducible apply keep_updCove | with_reducible apply keep_updRecov | split

theorem keep_moduleFatal (h : Keep s0 s) (a2) : Keep s0 (moduleFatal s a2) := by
  unfold moduleFatal
  repeat' first
    | intro x | with_reducible assumption | with_reducible apply keep_forEach | with_reducible apply keep_contain
    | (simp only [keep_mk]; with_reducible apply keepF_of) | split

theorem keep_queueRecovery (h : Keep s0 s) (a2) : Keep s0 (queueRecovery s a2) := by
  unfold queueRecovery
  repeat' first
    | with_reducible assumption | (simp only [keep_mk]; with_reducible apply keepF_of)

theorem keep_escalate (h : Keep s0 s) (a2 a3) : Keep s0 (escalate s a2 a3) := by
  unfold escalate
  repeat' first
    | with_reducible assumption | with_reducible apply keep_contain | with_reducible apply keep_recordCove
    | with_reducible apply keep_updRecov | (simp only [keep_mk]; with_reducible apply keepF_of)

theorem keep_coveFatal (h : Keep s0 s) (a2 a3) : Keep s0 (coveFatal s a2 a3) := by
  unfold coveFatal
  repeat' first
    | intro x | with_reducible apply keep_updRecov | with_reducible apply keep_contain
    | with_reducible apply keep_queueRecovery | with_reducible apply keep_moduleFatal
    | with_reducible apply keep_recordCove | with_reducible apply keep_escalate
    | (lift_lets -underBinder; intro x; first | (refine keepCut (s0 := s0) x ?_ ?_; rotate_left; intro hx; clear_value x; rotate_left; subst x) | (refine keepCutG (s0 := s0) x ?_ ?_; rotate_left; intro hx; clear_value x; rotate_left; subst x))
    | dsimp -zeta only | split | with_reducible apply_assumption

theorem keep_awaitReplayFrom (h : Keep s0 s) (a2 a3) : Keep s0 (awaitReplayFrom s a2 a3) := by
  unfold awaitReplayFrom
  repeat' first
    | with_reducible assumption | with_reducible apply keep_updCove | with_reducible apply keep_updCoveTide

theorem keep_discardNow (h : Keep s0 s) (a2 a3 a4) : Keep s0 (discardNow s a2 a3 a4) := by
  unfold discardNow
  repeat' first
    | intro x | with_reducible assumption | with_reducible apply keep_resetContexts
    | with_reducible apply keep_writeStepRecord | with_reducible apply keep_recordCove
    | with_reducible apply keep_bumpCoveSet | with_reducible apply keep_forEach | with_reducible apply keep_queueOut
    | with_reducible apply keep_updCove | with_reducible apply keep_updCore | with_reducible apply keep_undoOrTear
    | with_reducible apply keep_awaitReplayFrom

theorem keep_discardStep (h : Keep s0 s) (a2 a3 a4) : Keep s0 (discardStep s a2 a3 a4) := by
  unfold discardStep
  repeat' first
    | with_reducible assumption | with_reducible apply keep_updCove | with_reducible apply keep_coveFatal
    | with_reducible apply keep_discardNow | (lift_lets -underBinder; intro x; clear_value x) | split

theorem keep_stopContext (h : Keep s0 s) (a2 a3 a4 a5 a6) : Keep s0 (stopContext s a2 a3 a4 a5 a6) := by
  unfold stopContext
  repeat' first
    | (intro x; refine keepCut (s0 := s0) x ?_ ?_; rotate_left; intro hx; clear_value x; rotate_left; subst x)
    | (intro x; clear_value x) | with_reducible assumption | with_reducible apply keep_updCtx
    | with_reducible apply keep_record | with_reducible apply keep_coveFatal
    | (lift_lets -underBinder; intro x; (refine keepCut (s0 := s0) x ?_ ?_; rotate_left; intro hx; clear_value x; rotate_left; subst x))
    | split

theorem keep_operandFault (h : Keep s0 s) (a2 a3 a4 a5) : Keep s0 (operandFault s a2 a3 a4 a5) := by
  unfold operandFault
  repeat' first
    | with_reducible assumption | with_reducible apply keep_stopContext

theorem keep_boundsFault (h : Keep s0 s) (a2 a3 a4 a5) : Keep s0 (boundsFault s a2 a3 a4 a5) := by
  unfold boundsFault
  repeat' first
    | with_reducible assumption | with_reducible apply keep_stopContext

theorem keep_fetchFault (h : Keep s0 s) (a2 a3 a4 a5) : Keep s0 (fetchFault s a2 a3 a4 a5) := by
  unfold fetchFault
  repeat' first
    | with_reducible assumption | with_reducible apply keep_stopContext

theorem keep_divergence (h : Keep s0 s) (a2) : Keep s0 (divergence s a2) := by
  unfold divergence
  repeat' first
    | with_reducible assumption | with_reducible apply keep_discardStep | with_reducible apply keep_record | split

theorem keep_fenceEntry (h : Keep s0 s) (a2 a3 a4 a5) : Keep s0 (fenceEntry s a2 a3 a4 a5) := by
  unfold fenceEntry
  repeat' first
    | with_reducible assumption | (simp only [keep_mk]; with_reducible apply keepF_of)

theorem keep_fenceNote (h : Keep s0 s) (a2 a3 a4 a5) : Keep s0 (fenceNote s a2 a3 a4 a5) := by
  unfold fenceNote
  repeat' first
    | with_reducible assumption | with_reducible apply keep_updLedger | with_reducible apply keep_fenceEntry
    | with_reducible apply keep_recordHead | with_reducible apply keep_record
    | (simp only [keep_mk]; with_reducible apply keepF_of)

theorem keep_fenceHits (h : Keep s0 s) (a2) : Keep s0 (fenceHits s a2) := by
  unfold fenceHits
  repeat' first
    | with_reducible assumption | with_reducible apply keep_coveFatal | split

theorem keep_markDie (h : Keep s0 s) (a2 a3) : Keep s0 (markDie s a2 a3) := by
  unfold markDie
  repeat' first
    | with_reducible assumption | with_reducible apply keep_fenceNote
    | (lift_lets -underBinder; intro x; clear_value x) | (simp only [keep_mk]; with_reducible apply keepF_of)

theorem keep_fenceCores (h : Keep s0 s) (a2 a3) : Keep s0 (fenceCores s a2 a3) := by
  unfold fenceCores
  repeat' first
    | with_reducible assumption | with_reducible apply keep_fenceHits | with_reducible apply keep_markDie | split

theorem keep_fenceRouters (h : Keep s0 s) (a2) : Keep s0 (fenceRouters s a2) := by
  unfold fenceRouters
  repeat' first
    | intro x | with_reducible assumption | with_reducible apply keep_forEach | with_reducible apply keep_fenceCores
    | (lift_lets -underBinder; intro x; clear_value x) | (simp only [keep_mk]; with_reducible apply keepF_of) | split

theorem keep_fenceDie (h : Keep s0 s) (a2 a3) : Keep s0 (fenceDie s a2 a3) := by
  unfold fenceDie
  repeat' first
    | with_reducible assumption | with_reducible apply keep_fenceRouters | with_reducible apply keep_fenceCores
    | split

theorem keep_fenceFullDie (h : Keep s0 s) (a2) : Keep s0 (fenceFullDie s a2) := by
  unfold fenceFullDie
  repeat' first
    | with_reducible assumption | with_reducible apply keep_fenceDie | split

theorem keep_fenceCluster (h : Keep s0 s) (a2 a3) : Keep s0 (fenceCluster s a2 a3) := by
  unfold fenceCluster
  repeat' first
    | with_reducible assumption | with_reducible apply keep_fenceFullDie | with_reducible apply keep_fenceHits
    | with_reducible apply keep_fenceNote | (simp only [keep_mk]; with_reducible apply keepF_of) | split

theorem keep_fenceCoreWith (h : Keep s0 s) (a2 a3 a4) : Keep s0 (fenceCoreWith s a2 a3 a4) := by
  unfold fenceCoreWith
  repeat' first
    | with_reducible assumption | with_reducible apply keep_fenceHits | with_reducible apply keep_fenceNote
    | (simp only [keep_mk]; with_reducible apply keepF_of) | split

theorem keep_fenceCore (h : Keep s0 s) (a2 a3) : Keep s0 (fenceCore s a2 a3) := by
  unfold fenceCore
  repeat' first
    | with_reducible assumption | with_reducible apply keep_fenceCoreWith

theorem keep_clearUpsets (h : Keep s0 s) (a2 a3 a4 a5) : Keep s0 (clearUpsets s a2 a3 a4 a5) := by
  unfold clearUpsets
  repeat' first
    | intro x | with_reducible assumption | with_reducible apply keep_updCore

theorem keep_correctedWord (h : Keep s0 s) (a2) : Keep s0 (correctedWord s a2) := by
  unfold correctedWord
  repeat' first
    | with_reducible assumption | with_reducible apply keep_wearAdd | with_reducible apply keep_record
    | with_reducible apply keep_updLedger

theorem keep_uncorrectableWord (h : Keep s0 s) (a2 a3) : Keep s0 (uncorrectableWord s a2 a3) := by
  unfold uncorrectableWord
  repeat' first
    | (intro x; refine keepCut (s0 := s0) x ?_ ?_; rotate_left; intro hx; clear_value x; rotate_left; subst x)
    | (intro x; clear_value x) | with_reducible assumption | with_reducible apply keep_record
    | with_reducible apply keep_updLedger | with_reducible apply keep_discardStep
    | with_reducible apply keep_coveFatal | (lift_lets -underBinder; intro x; clear_value x) | split

theorem keep_readStorage (h : Keep s0 s) (a2 a3 a4 a5 a6) : Keep s0 (readStorage s a2 a3 a4 a5 a6).2 := by
  unfold readStorage
  repeat' first
    | intro x | with_reducible assumption | with_reducible apply keep_uncorrectableWord
    | with_reducible apply keep_forEach | with_reducible apply keep_correctedWord
    | (lift_lets -underBinder; intro x; clear_value x) | split

theorem keep_readScratch (h : Keep s0 s) (a2 a3) : Keep s0 (readScratch s a2 a3).2 := by
  unfold readScratch
  repeat' first
    | intro x | with_reducible assumption | with_reducible apply keep_readStorage
    | with_reducible apply keep_foldl_snd | split

theorem keep_parityCheck (h : Keep s0 s) (a2 a3 a4 a5) : Keep s0 (parityCheck s a2 a3 a4 a5).2 := by
  unfold parityCheck
  repeat' first
    | (intro x; refine keepCut (s0 := s0) x ?_ ?_; rotate_left; intro hx; clear_value x; rotate_left; subst x)
    | (intro x; clear_value x) | with_reducible assumption | with_reducible apply keep_clearUpsets
    | with_reducible apply keep_record | with_reducible apply keep_discardStep | with_reducible apply keep_wearAdd
    | with_reducible apply keep_updLedger | (lift_lets -underBinder; intro x; clear_value x) | split

theorem keep_retire (h : Keep s0 s) (a2 a3 a4) : Keep s0 (retire s a2 a3 a4) := by
  unfold retire
  repeat' first
    | with_reducible assumption | with_reducible apply keep_bumpCore | with_reducible apply keep_updCtx

theorem keep_fetchRead (h : Keep s0 s) (a2 a3) : Keep s0 (fetchRead s a2 a3).2 := by
  unfold fetchRead
  repeat' first
    | with_reducible assumption | with_reducible apply keep_readStorage

theorem keep_issue (h : Keep s0 s) (a2 a3 a4 a5 a6 a7 a8 a9 a10 a11 a12) (h12 : ∀ x0, Keep s0 x0 → Keep s0 (a12 x0)) : Keep s0 (issue s a2 a3 a4 a5 a6 a7 a8 a9 a10 a11 a12) := by
  unfold issue
  repeat' first
    | (intro x; clear_value x) | with_reducible assumption | with_reducible apply h12
    | with_reducible apply keep_fetchFault | with_reducible apply keep_fetchRead
    | with_reducible apply keep_operandFault | with_reducible apply keep_bumpCore
    | with_reducible apply keep_boundsFault | (lift_lets -underBinder; intro x; clear_value x) | split

theorem keep_issueNext (h : Keep s0 s) (a2 a3 a4 a5 a6 a7 a8 a9 a10 a11 a12) (h12 : ∀ x0, Keep s0 x0 → Keep s0 (a12 x0)) :
    Keep s0 (issueNext s a2 a3 a4 a5 a6 a7 a8 a9 a10 a11 a12) := by
  unfold issueNext
  repeat' first
    | intro x | with_reducible assumption | with_reducible apply h12 | with_reducible apply keep_issue
    | with_reducible apply keep_retire

theorem keep_issueThen (h : Keep s0 s) (a2 a3 a4 a5 a6 a7 a8 a9 a10 a11 a12) (h12 : ∀ x0 x1, Keep s0 x1 → Keep s0 (a12 x0 x1)) :
    Keep s0 (issueThen s a2 a3 a4 a5 a6 a7 a8 a9 a10 a11 a12) := by
  unfold issueThen
  repeat' first
    | intro x | with_reducible assumption | with_reducible apply h12 | with_reducible apply keep_issue
    | with_reducible apply keep_retire

end Sys2Proof.Laws
end

