-- ==== Sys2Proof/Laws/KeepCore.lean ====
section
/-!
SUPPORT. Accesses, admission, wain descriptors, the matrix engine and waits keep the build, the queue and canonical memories.
-/
namespace Sys2Proof.Laws
open Sys2Proof Sys2Proof.Machine

variable {s0 s t : State}

theorem wf_noteLanded {c : CoreState} (h : Memory.wf c.scratch = true) (k n b late t) :
    Memory.wf (noteLanded c k n b late t).scratch = true := by
  unfold noteLanded
  split <;> exact h

theorem keep_countRefused (h : Keep s0 s) (a2) : Keep s0 (countRefused s a2) := by
  unfold countRefused
  repeat' first
    | with_reducible assumption | with_reducible apply keep_bumpCoveSet
    | (lift_lets -underBinder; intro x; clear_value x) | (simp only [keep_mk]; with_reducible apply keepF_of) | split

theorem keep_countRefusal (h : Keep s0 s) (a2 a3) : Keep s0 (countRefusal s a2 a3) := by
  unfold countRefusal
  repeat' first
    | (intro x; refine keepCut (s0 := s0) x ?_ ?_; rotate_left; intro hx; clear_value x; rotate_left; subst x)
    | with_reducible assumption | with_reducible apply keep_countRefused | with_reducible apply keep_record
    | (lift_lets -underBinder; intro x; clear_value x) | split

theorem keep_countSkew (h : Keep s0 s) (a2 a3) : Keep s0 (countSkew s a2 a3) := by
  unfold countSkew
  repeat' first
    | with_reducible assumption | with_reducible apply keep_countRefused | with_reducible apply keep_updCoveTide
    | with_reducible apply keep_record | (lift_lets -underBinder; intro x; clear_value x)
    | (simp only [keep_mk]; with_reducible apply keepF_of) | split

theorem keep_condemnNear (h : Keep s0 s) (a2 a3) : Keep s0 (condemnNear s a2 a3) := by
  unfold condemnNear
  repeat' first
    | (intro x; refine keepCut (s0 := s0) x ?_ ?_; rotate_left; intro hx; clear_value x; rotate_left; subst x)
    | (intro x; clear_value x) | with_reducible assumption | with_reducible apply keep_record
    | with_reducible apply keep_fenceDie
    | (lift_lets -underBinder; intro x; ((have q : MemState := x; clear q); subst x))
    | (simp only [keep_mk]; with_reducible apply keepF_of) | split

theorem keep_retireFrame (h : Keep s0 s) (a2 a3) : Keep s0 (retireFrame s a2 a3) := by
  unfold retireFrame
  repeat' first
    | with_reducible assumption | with_reducible apply keep_fenceNote | with_reducible apply keep_wearAdd
    | with_reducible apply keep_updLedger | with_reducible apply keep_record
    | (lift_lets -underBinder; intro x; clear_value x) | (simp only [keep_mk]; with_reducible apply keepF_of)

theorem keep_condemnHbm (h : Keep s0 s) (off : Nat) : Keep s0 (condemnHbm s off) := by
  have mark : ∀ m : Sparse Bool, Keep s0 { s with mem := { s.mem with hbmMarks := m } } :=
    fun m => (keep_mk ..).symm ▸ keepF_of h
  have count : ∀ (u : State) l, Keep s0 u → Keep s0 { u with health := { u.health with frameCondemned := l } } :=
    fun u l hu => (keep_mk ..).symm ▸ keepF_of hu
  unfold condemnHbm
  dsimp only
  split
  · exact keep_moduleFatal h _
  split
  · exact h
  split
  · exact keep_retireFrame (count _ _ (keep_record (mark _) ..)) _ _
  · exact count _ _ (keep_record (mark _) ..)

theorem keep_meetNear (h : Keep s0 s) (a2 a3) : Keep s0 (meetNear s a2 a3) := by
  unfold meetNear
  repeat' first
    | (intro x; refine keepCut (s0 := s0) x ?_ ?_; rotate_left; intro hx; clear_value x; rotate_left; subst x)
    | with_reducible assumption | with_reducible apply keep_condemnNear | with_reducible apply keep_record
    | (lift_lets -underBinder; intro (x : MemState); subst x) | (simp only [keep_mk]; with_reducible apply keepF_of)
    | split

theorem keep_meetHbm (h : Keep s0 s) (a2) : Keep s0 (meetHbm s a2) := by
  unfold meetHbm
  repeat' first
    | (intro x; refine keepCut (s0 := s0) x ?_ ?_; rotate_left; intro hx; clear_value x; rotate_left; subst x)
    | with_reducible assumption | with_reducible apply keep_condemnHbm | with_reducible apply keep_record
    | (lift_lets -underBinder; intro (x : MemState); subst x) | (simp only [keep_mk]; with_reducible apply keepF_of)
    | split

theorem keep_condemnPlace (h : Keep s0 s) (a2) : Keep s0 (condemnPlace s a2) := by
  unfold condemnPlace
  repeat' first
    | with_reducible assumption | with_reducible apply keep_condemnNear | with_reducible apply keep_condemnHbm | split

theorem keep_tallyFound (h : Keep s0 s) (a2 a3 a4) : Keep s0 (tallyFound s a2 a3 a4) := by
  unfold tallyFound
  repeat' first
    | with_reducible assumption | with_reducible apply keep_record

theorem keep_badNear (h : Keep s0 s) (a1 a3) : Keep s0 (badNear a1 s a3) := by
  unfold badNear
  repeat' first
    | with_reducible assumption | with_reducible apply keep_meetNear | with_reducible apply keep_tallyFound | split

theorem keep_badHbm (h : Keep s0 s) (a2) : Keep s0 (badHbm s a2) := by
  unfold badHbm
  repeat' first
    | with_reducible assumption | with_reducible apply keep_meetHbm | with_reducible apply keep_tallyFound | split

theorem keep_condemn (h : Keep s0 s) (a2 a3) : Keep s0 (condemn s a2 a3) := by
  unfold condemn
  repeat' first
    | intro x | with_reducible assumption | with_reducible apply keep_forEach | with_reducible apply keep_badNear
    | with_reducible apply keep_badHbm | split

theorem keep_clearMark (h : Keep s0 s) (a2 a3) : Keep s0 (clearMark s a2 a3) := by
  unfold clearMark
  repeat' first
    | with_reducible assumption | (simp only [keep_mk]; with_reducible apply keepF_of) | split

theorem keep_placeWrite (h : Keep s0 s) (a2 a3 a4) : Keep s0 (placeWrite s a2 a3 a4) := by
  unfold placeWrite
  repeat' first
    | intro x | with_reducible assumption | with_reducible apply keep_scratchWrite
    | with_reducible apply keep_clearMark | with_reducible apply keep_updNear | with_reducible apply keep_hbmStore
    | with_reducible apply keep_bump | with_reducible apply wf_memWrite | split

theorem keep_floorFault (h : Keep s0 s) (a2 a3) : Keep s0 (floorFault s a2 a3) := by
  unfold floorFault
  repeat' first
    | with_reducible assumption | with_reducible apply keep_record | with_reducible apply keep_updStats
    | with_reducible apply keep_discardStep | split

theorem keep_landWrite (h : Keep s0 s) (a2 a3 a4) : Keep s0 (landWrite s a2 a3 a4) := by
  unfold landWrite
  repeat' first
    | with_reducible assumption | with_reducible apply keep_floorFault | with_reducible apply keep_placeWrite
    | split

theorem keep_atomicAt (h : Keep s0 s) (a2 a3 a4 a5) : Keep s0 (atomicAt s a2 a3 a4 a5).2 := by
  unfold atomicAt
  repeat' first
    | with_reducible assumption | with_reducible apply keep_landWrite

theorem keep_waitedStacks (h : Keep s0 s) (a2) : Keep s0 (waitedStacks s a2) := by
  unfold waitedStacks
  repeat' first
    | intro x | with_reducible assumption | with_reducible apply keep_forEach | with_reducible apply keep_bump

theorem keep_takeRoom (h : Keep s0 s) (a2 a3) : Keep s0 (takeRoom s a2 a3) := by
  unfold takeRoom
  repeat' first
    | with_reducible assumption | (simp only [keep_mk]; with_reducible apply keepF_of)

theorem keep_takeSlot (h : Keep s0 s) (p a) : Keep s0 (takeSlot s p a) := by
  unfold takeSlot
  simp only [keep_mk]
  exact keepF_of h

/-- What the movers, the feed, the wain and the load engine are granted keeps these. -/
theorem keep_admitFor {cove cls len flits : Nat} {needs : List Need} {shores : List (Nat × Nat)} {port : Option Nat}
    {leaves : Tick} (h : Keep s0 s) (e : admitFor s cove cls needs shores port len flits = .granted t leaves) :
    Keep s0 t := by
  have hr : Keep s0 (shores.foldl (fun s p => takeRoom s (shoreKey p.1 p.2) len)
      (needs.foldl (fun s n => takeRoom s (needKey n) len) s)) :=
    keep_foldl (keep_foldl h _ _ fun _ _ h => keep_takeRoom h _ _) _ _ fun _ _ h => keep_takeRoom h _ _
  unfold admitFor at e
  dsimp only at e
  split_ifs at e
  split at e
  · cases e
    exact hr
  · split at e <;> cases e
    exact keep_takeSlot hr _ _

theorem keep_countOut (h : Keep s0 s) (a2 a3 a4) : Keep s0 (countOut s a2 a3 a4) := by
  unfold countOut
  repeat' first
    | with_reducible assumption | with_reducible apply keep_bump
    | (lift_lets -underBinder; intro x; refine keepCut (s0 := s0) x ?_ ?_; rotate_left; intro hx; clear_value x; rotate_left; subst x)
    | split

theorem keep_sendOn (h : Keep s0 s) (a2 a3 a4) : Keep s0 (sendOn s a2 a3 a4) := by
  unfold sendOn
  repeat' first
    | with_reducible assumption | with_reducible apply keep_updPort | with_reducible apply keep_emit
    | with_reducible apply keep_countOut | (lift_lets -underBinder; intro x; clear_value x)
    | (simp only [keep_mk]; with_reducible apply keepF_of)

theorem keep_sendAgain (h : Keep s0 s) (a2 a3 a4) : Keep s0 (sendAgain s a2 a3 a4) := by
  unfold sendAgain
  repeat' first
    | with_reducible assumption | with_reducible apply keep_countOut | with_reducible apply keep_updPort
    | with_reducible apply keep_emit

theorem keep_noteRequest (h : Keep s0 s) (a2 a3) : Keep s0 (noteRequest s a2 a3) := by
  unfold noteRequest
  repeat' first
    | with_reducible assumption | (simp only [keep_mk]; with_reducible apply keepF_of) | split

/-- A packet that leaves from the waiting ones keeps these. -/
theorem keep_tryOut {o : OutPacket} (h : Keep s0 s) (e : tryOut s o = .sent t) : Keep s0 t := by
  unfold tryOut at e
  dsimp only at e
  split at e
  · cases e
  split at e
  · cases e
  rename_i links _
  generalize (if o.cove.isSome = true then links else []) = needs at e
  split at e
  · cases e
  split at e
  · cases e
  split at e <;> cases e
  repeat' first
    | exact h | with_reducible apply keep_bump | with_reducible apply keep_countOut | with_reducible apply keep_emit
    | with_reducible apply keep_noteRequest
    | with_reducible apply keep_sendAgain | with_reducible apply keep_sendOn | with_reducible apply keep_takeSlot
    | (refine keep_foldl ?_ _ _ fun _ _ h => keep_takeRoom h _ _) | split

theorem keep_drainFrom (h : Keep s0 s) (l held) : Keep s0 (drainFrom l held s) := by
  have hk : ∀ (s : State) (o : OutPacket), Keep s0 s →
      Keep s0 { s with fab := { s.fab with waiting := s.fab.waiting ++ [o] } } := by
    intro s o h
    simp only [keep_mk]
    exact keepF_of h
  induction l generalizing s held with
  | nil => exact h
  | cons o t ih =>
    unfold drainFrom
    dsimp only
    split
    · exact ih (hk _ _ h) _
    · split
      · exact ih (keep_tryOut h ‹_›) _
      · exact ih (hk _ _ h) _
      all_goals
        split
        · exact ih (hk _ _ h) _
        · exact ih h _

theorem keep_drainOut (h : Keep s0 s) : Keep s0 (drainOut s) := by
  unfold drainOut
  repeat' first
    | (intro x; clear_value x) | with_reducible assumption | with_reducible apply keep_drainFrom
    | (lift_lets -underBinder; intro x; clear_value x) | (simp only [keep_mk]; with_reducible apply keepF_of) | split

theorem keep_ctlWrite (h : Keep s0 s) (a2 a3 a4 a5 a6 a7 a8) : Keep s0 (ctlWrite s a2 a3 a4 a5 a6 a7 a8) := by
  unfold ctlWrite
  repeat' first
    | intro x | with_reducible assumption | with_reducible apply keep_issueNext | with_reducible apply keep_updCtx

theorem keep_ctlAlu (h : Keep s0 s) (a2 a3 a4 a5 a6) : OutKeep s0 (ctlAlu s a2 a3 a4 a5 a6) := by
  unfold ctlAlu
  repeat' first
    | with_reducible assumption | with_reducible apply keep_ctlWrite | with_reducible apply out_next

theorem keep_execNop (h : Keep s0 s) (a1 a2 a3) : OutKeep s0 (execNop a1 a2 a3 s) := by
  unfold execNop
  repeat' first
    | intro x | with_reducible apply keep_issueNext | with_reducible apply out_next
    | with_reducible apply_assumption

theorem keep_execLi (h : Keep s0 s) (a1 a2 a3) : OutKeep s0 (execLi a1 a2 a3 s) := by
  unfold execLi
  repeat' first
    | with_reducible assumption | with_reducible apply keep_ctlWrite | with_reducible apply out_next

theorem keep_execLui (h : Keep s0 s) (a1 a2 a3) : OutKeep s0 (execLui a1 a2 a3 s) := by
  unfold execLui
  repeat' first
    | with_reducible assumption | with_reducible apply keep_ctlWrite | with_reducible apply out_next

theorem keep_execAdd (h : Keep s0 s) (a1 a2 a3) : OutKeep s0 (execAdd a1 a2 a3 s) := by
  unfold execAdd
  repeat' first
    | with_reducible assumption | with_reducible apply keep_ctlAlu

theorem keep_execSub (h : Keep s0 s) (a1 a2 a3) : OutKeep s0 (execSub a1 a2 a3 s) := by
  unfold execSub
  repeat' first
    | with_reducible assumption | with_reducible apply keep_ctlAlu

theorem keep_execMul (h : Keep s0 s) (a1 a2 a3) : OutKeep s0 (execMul a1 a2 a3 s) := by
  unfold execMul
  repeat' first
    | with_reducible assumption | with_reducible apply keep_ctlAlu

theorem keep_execAnd (h : Keep s0 s) (a1 a2 a3) : OutKeep s0 (execAnd a1 a2 a3 s) := by
  unfold execAnd
  repeat' first
    | with_reducible assumption | with_reducible apply keep_ctlAlu

theorem keep_execOr (h : Keep s0 s) (a1 a2 a3) : OutKeep s0 (execOr a1 a2 a3 s) := by
  unfold execOr
  repeat' first
    | with_reducible assumption | with_reducible apply keep_ctlAlu

theorem keep_execXor (h : Keep s0 s) (a1 a2 a3) : OutKeep s0 (execXor a1 a2 a3 s) := by
  unfold execXor
  repeat' first
    | with_reducible assumption | with_reducible apply keep_ctlAlu

theorem keep_execShl (h : Keep s0 s) (a1 a2 a3) : OutKeep s0 (execShl a1 a2 a3 s) := by
  unfold execShl
  repeat' first
    | with_reducible assumption | with_reducible apply keep_ctlAlu

theorem keep_execShr (h : Keep s0 s) (a1 a2 a3) : OutKeep s0 (execShr a1 a2 a3 s) := by
  unfold execShr
  repeat' first
    | with_reducible assumption | with_reducible apply keep_ctlAlu

theorem keep_execSra (h : Keep s0 s) (a1 a2 a3) : OutKeep s0 (execSra a1 a2 a3 s) := by
  unfold execSra
  repeat' first
    | with_reducible assumption | with_reducible apply keep_ctlAlu

theorem keep_execMin (h : Keep s0 s) (a1 a2 a3) : OutKeep s0 (execMin a1 a2 a3 s) := by
  unfold execMin
  repeat' first
    | with_reducible assumption | with_reducible apply keep_ctlAlu

theorem keep_execMax (h : Keep s0 s) (a1 a2 a3) : OutKeep s0 (execMax a1 a2 a3 s) := by
  unfold execMax
  repeat' first
    | with_reducible assumption | with_reducible apply keep_ctlAlu

theorem keep_execId (h : Keep s0 s) (a1 a2 a3) : OutKeep s0 (execId a1 a2 a3 s) := by
  unfold execId
  repeat' first
    | with_reducible assumption | with_reducible apply keep_ctlWrite | with_reducible apply out_next

theorem keep_execStep (h : Keep s0 s) (a1 a2 a3) : OutKeep s0 (execStep a1 a2 a3 s) := by
  unfold execStep
  repeat' first
    | with_reducible assumption | with_reducible apply keep_ctlWrite | with_reducible apply out_next

theorem keep_execTide (h : Keep s0 s) (a1 a2 a3) : OutKeep s0 (execTide a1 a2 a3 s) := by
  unfold execTide
  repeat' first
    | with_reducible assumption | with_reducible apply keep_ctlWrite | with_reducible apply out_next

theorem keep_execBr (h : Keep s0 s) (a1 a2 a3) : OutKeep s0 (execBr a1 a2 a3 s) := by
  unfold execBr
  repeat' first
    | intro x | with_reducible assumption | with_reducible apply keep_issue | with_reducible apply keep_retire
    | with_reducible apply out_next

theorem keep_execLoop (h : Keep s0 s) (a1 a2 a3) : OutKeep s0 (execLoop a1 a2 a3 s) := by
  unfold execLoop
  repeat' first
    | intro x | with_reducible assumption | with_reducible apply keep_issueNext | with_reducible apply keep_updCtx
    | with_reducible apply out_next

theorem keep_execEndl (h : Keep s0 s) (a1 a2 a3) : OutKeep s0 (execEndl a1 a2 a3 s) := by
  unfold execEndl
  repeat' first
    | intro x | with_reducible assumption | with_reducible apply keep_issue | with_reducible apply keep_updCtx
    | with_reducible apply keep_retire | with_reducible apply out_next

theorem keep_execEnd (h : Keep s0 s) (a1 a2 a3) : OutKeep s0 (execEnd a1 a2 a3 s) := by
  unfold execEnd
  repeat' first
    | intro x | with_reducible assumption | with_reducible apply keep_issueNext | with_reducible apply keep_updCtx
    | with_reducible apply keep_updCove | with_reducible apply out_next
    | (lift_lets -underBinder; intro x; (refine keepCut (s0 := s0) x ?_ ?_; rotate_left; intro hx; clear_value x; rotate_left; subst x))
    | split

theorem keep_latePiece (h : Keep s0 s) (a2 a3 a4) : Keep s0 (latePiece s a2 a3 a4) := by
  unfold latePiece
  repeat' first
    | (intro x; refine keepCut (s0 := s0) x ?_ ?_; rotate_left; intro hx; clear_value x; rotate_left; subst x)
    | intro x | with_reducible assumption | with_reducible apply keep_updCore | with_reducible apply keep_bumpCoveSet
    | with_reducible apply keep_updStats | with_reducible apply keep_record
    | (lift_lets -underBinder; intro x; clear_value x) | split

theorem keep_slotRefused (h : Keep s0 s) (a2) : Keep s0 (slotRefused s a2) := by
  unfold slotRefused
  repeat' first
    | with_reducible assumption | with_reducible apply keep_record

theorem keep_callFails (h : Keep s0 s) (a2 a3 a4) : Keep s0 (callFails s a2 a3 a4) := by
  unfold callFails
  repeat' first
    | with_reducible assumption | with_reducible apply keep_updCove | with_reducible apply keep_record | split

theorem keep_slotLand (h : Keep s0 s) (a2 a3 a4 a5 a6 a7) : Keep s0 (slotLand s a2 a3 a4 a5 a6 a7).2 := by
  unfold slotLand
  repeat' first
    | (intro x; refine keepCut (s0 := s0) x ?_ ?_; rotate_left; intro hx; clear_value x; rotate_left; subst x)
    | (intro x; refine keepCutG (s0 := s0) x ?_ ?_; rotate_left; intro hx; clear_value x; rotate_left; subst x)
    | (intro (x : CoreState); subst x) | (intro x; clear_value x) | intro x | with_reducible assumption
    | with_reducible apply keep_callFails | with_reducible apply keep_slotRefused
    | with_reducible apply keep_latePiece | with_reducible apply keep_updCore | with_reducible apply keep_scratchWrite
    | with_reducible apply keep_updCtx | with_reducible apply wf_noteLanded
    | (lift_lets -underBinder; intro x; clear_value x) | split | with_reducible apply_assumption

theorem keep_wainIssue (h : Keep s0 s) (a2 a3 a4 a5) : Keep s0 (wainIssue s a2 a3 a4 a5) := by
  unfold wainIssue
  repeat' first
    | intro x | with_reducible assumption | with_reducible apply keep_issueNext | with_reducible apply keep_updCtx

theorem keep_execWcopy (h : Keep s0 s) (a1 a2 a3) : OutKeep s0 (execWcopy a1 a2 a3 s) := by
  unfold execWcopy
  repeat' first
    | with_reducible assumption | with_reducible apply keep_wainIssue | with_reducible apply out_next

theorem keep_execWzero (h : Keep s0 s) (a1 a2 a3) : OutKeep s0 (execWzero a1 a2 a3 s) := by
  unfold execWzero
  repeat' first
    | with_reducible assumption | with_reducible apply keep_wainIssue | with_reducible apply out_next

theorem keep_execWaadd (h : Keep s0 s) (a1 a2 a3) : OutKeep s0 (execWaadd a1 a2 a3 s) := by
  unfold execWaadd
  repeat' first
    | with_reducible assumption | with_reducible apply keep_wainIssue | with_reducible apply out_next

theorem keep_execWamax (h : Keep s0 s) (a1 a2 a3) : OutKeep s0 (execWamax a1 a2 a3 s) := by
  unfold execWamax
  repeat' first
    | with_reducible assumption | with_reducible apply keep_wainIssue | with_reducible apply out_next

theorem keep_execWacas (h : Keep s0 s) (a1 a2 a3) : OutKeep s0 (execWacas a1 a2 a3 s) := by
  unfold execWacas
  repeat' first
    | with_reducible assumption | with_reducible apply keep_wainIssue | with_reducible apply out_next

theorem keep_execWafadd (h : Keep s0 s) (a1 a2 a3) : OutKeep s0 (execWafadd a1 a2 a3 s) := by
  unfold execWafadd
  repeat' first
    | with_reducible assumption | with_reducible apply keep_wainIssue | with_reducible apply out_next

theorem keep_updWain (h : Keep s0 s) (a2 a3 a4 a5) : Keep s0 (updWain s a2 a3 a4 a5) := by
  unfold updWain
  repeat' first
    | with_reducible assumption | with_reducible apply keep_updCtx

theorem keep_failWain (h : Keep s0 s) (a2 a3 a4 a5) : Keep s0 (failWain s a2 a3 a4 a5) := by
  unfold failWain
  repeat' first
    | with_reducible assumption | with_reducible apply keep_updWain

theorem keep_advanceWain (h : Keep s0 s) (a2 a3 a4 a5 a6 a7) : Keep s0 (advanceWain s a2 a3 a4 a5 a6 a7) := by
  unfold advanceWain
  repeat' first
    | with_reducible assumption | with_reducible apply keep_updWain

theorem keep_foldDigest (h : Keep s0 s) (a2 a3 a4 a5) : Keep s0 (foldDigest s a2 a3 a4 a5) := by
  unfold foldDigest
  repeat' first
    | intro x | with_reducible assumption | with_reducible apply keep_updCore
    | (lift_lets -underBinder; intro x; clear_value x) | split

theorem keep_countMoved (h : Keep s0 s) (a2 a3 a4 a5 a6 a7) : Keep s0 (countMoved s a2 a3 a4 a5 a6 a7) := by
  unfold countMoved
  repeat' first
    | with_reducible assumption | with_reducible apply keep_bumpCore | with_reducible apply keep_bumpCoveSet
    | with_reducible apply keep_bump | split

theorem keep_sendAway (h : Keep s0 s) (a2 a3 a4 a5 a6 a7 a8 a9 a10 a11 a12) : Keep s0 (sendAway s a2 a3 a4 a5 a6 a7 a8 a9 a10 a11 a12) := by
  unfold sendAway
  repeat' first
    | with_reducible assumption | with_reducible apply keep_sendOn

theorem keep_admitWait (h : Keep s0 s) (a2 a3) : Keep s0 (admitWait s a2 a3) := by
  unfold admitWait
  repeat' first
    | with_reducible assumption | with_reducible apply keep_bumpCore | with_reducible apply keep_bump | split

theorem keep_admitAway (h : Keep s0 s) (core k d src ptype op addr barn data n await) :
    Keep s0 (admitAway s core k d src ptype op addr barn data n await) := by
  unfold admitAway
  dsimp only
  split
  · exact keep_failWain h ..
  split
  · exact keep_admitWait h ..
  split
  · exact keep_failWain h ..
  split
  · exact keep_failWain h ..
  · exact keep_admitWait (keep_waitedStacks h _) ..
  · refine keep_countMoved (keep_advanceWain ?_ ..) ..
    have hs := keep_sendAway (keep_admitFor h ‹_›)
    split
    · exact hs ..
    · exact keep_foldDigest (keep_markDirty (hs ..) ..) ..

theorem keep_landPiece (h : Keep s0 s) (a2 a3 a4 a5 a6) : Keep s0 (landPiece s a2 a3 a4 a5 a6) := by
  unfold landPiece
  repeat' first
    | (intro x; clear_value x) | with_reducible assumption | with_reducible apply keep_hostWrite
    | with_reducible apply keep_atomicAt | with_reducible apply keep_scratchWrite
    | with_reducible apply keep_slotLand | with_reducible apply keep_landWrite
    | (lift_lets -underBinder; intro x; first | (refine keepCut (s0 := s0) x.2 ?_ ?_; rotate_left; intro hx; clear_value x; rotate_left; subst x) | clear_value x)
    | split

theorem keep_refusalNote (h : Keep s0 s) (a2 a3) : Keep s0 (refusalNote s a2 a3) := by
  unfold refusalNote
  repeat' first
    | with_reducible assumption | with_reducible apply keep_countSkew | with_reducible apply keep_countRefusal | split

theorem keep_admitData (h : Keep s0 s) (core k d src barn n data) :
    Keep s0 (admitData s core k d src barn n data) := by
  unfold admitData
  dsimp only
  split
  · split
    · exact keep_failWain h ..
    split
    · exact keep_failWain h ..
    · exact keep_admitWait (keep_waitedStacks h _) ..
    · exact keep_countMoved (keep_advanceWain (keep_foldDigest (keep_scratchWrite (keep_admitFor h ‹_›) ..) ..) ..) ..
  · split
    · exact keep_advanceWain h ..
    · exact keep_admitAway h ..
    · split
      · exact keep_countSkew h ..
      · refine keep_failWain ?_ ..
        repeat' first
          | with_reducible assumption | with_reducible apply keep_slotRefused | with_reducible apply keep_refusalNote
          | with_reducible apply keep_condemn | split
      · split
        · exact keep_failWain h ..
        split
        · exact keep_failWain h ..
        · exact keep_admitWait (keep_waitedStacks h _) ..
        · exact keep_countMoved (keep_advanceWain (keep_foldDigest (keep_landPiece (keep_admitFor h ‹_›) ..) ..) ..) ..

theorem keep_execPacketAdmit (h : Keep s0 s) (a1 a2 a3 a4) : OutKeep s0 (execPacketAdmit a1 a2 a3 a4 s) := by
  unfold execPacketAdmit
  repeat' first
    | (intro x; refine keepCut (s0 := s0) x ?_ ?_; rotate_left; intro hx; clear_value x; rotate_left; subst x)
    | (intro (x : Bool × State); subst x) | (intro x; clear_value x) | with_reducible assumption
    | with_reducible apply keep_readScratch | with_reducible apply keep_advanceWain
    | with_reducible apply keep_countSkew | with_reducible apply keep_hostFailed | with_reducible apply keep_condemn
    | with_reducible apply keep_failWain | with_reducible apply keep_refusalNote | with_reducible apply keep_admitAway
    | with_reducible apply keep_admitData | with_reducible apply out_next
    | (lift_lets -underBinder; intro x; clear_value x) | split

theorem keep_coveOutcome (h : Keep s0 s) (a2 a3 a4) : Keep s0 (coveOutcome s a2 a3 a4) := by
  unfold coveOutcome
  repeat' first
    | with_reducible assumption | with_reducible apply keep_discardStep | with_reducible apply keep_bumpCoveSet
    | with_reducible apply keep_coveFatal
    | (lift_lets -underBinder; intro x; refine keepCut (s0 := s0) x ?_ ?_; rotate_left; intro hx; clear_value x; rotate_left; subst x)
    | split

theorem keep_statusOutcome (h : Keep s0 s) (a2 a3 a4) : Keep s0 (statusOutcome s a2 a3 a4) := by
  unfold statusOutcome
  repeat' first
    | with_reducible assumption | with_reducible apply keep_coveOutcome | split

theorem keep_execWainDescriptorComplete (h : Keep s0 s) (a1 a2) : OutKeep s0 (execWainDescriptorComplete a1 a2 s) := by
  unfold execWainDescriptorComplete
  repeat' first
    | with_reducible assumption | with_reducible apply keep_setCtx | with_reducible apply keep_statusOutcome
    | with_reducible apply out_next | (lift_lets -underBinder; intro x; clear_value x) | split

theorem keep_chargeSats (h : Keep s0 s) (a2 a3) : Keep s0 (chargeSats s a2 a3) := by
  unfold chargeSats
  repeat' first
    | with_reducible assumption | with_reducible apply keep_updStats
    | (simp only [keep_mk]; with_reducible apply keepF_of) | split

theorem keep_issueTile (h : Keep s0 s) (a2 a3 a4 a5 a6 a7 a8) : Keep s0 (issueTile s a2 a3 a4 a5 a6 a7 a8) := by
  unfold issueTile
  repeat' first
    | intro x | with_reducible assumption | with_reducible apply keep_issueNext | with_reducible apply keep_setCtx

theorem keep_execMma (h : Keep s0 s) (a1 a2 a3) : OutKeep s0 (execMma a1 a2 a3 s) := by
  unfold execMma
  repeat' first
    | with_reducible assumption | with_reducible apply keep_issueTile | with_reducible apply out_next

theorem keep_execMmaGa (h : Keep s0 s) (a1 a2 a3) : OutKeep s0 (execMmaGa a1 a2 a3 s) := by
  unfold execMmaGa
  repeat' first
    | with_reducible assumption | with_reducible apply keep_issueTile | with_reducible apply out_next

theorem keep_execMmaGb (h : Keep s0 s) (a1 a2 a3) : OutKeep s0 (execMmaGb a1 a2 a3 s) := by
  unfold execMmaGb
  repeat' first
    | with_reducible assumption | with_reducible apply keep_issueTile | with_reducible apply out_next

theorem keep_execMmaRo (h : Keep s0 s) (a1 a2 a3) : OutKeep s0 (execMmaRo a1 a2 a3 s) := by
  unfold execMmaRo
  repeat' first
    | with_reducible assumption | with_reducible apply keep_issueTile | with_reducible apply out_next

theorem keep_matStep (h : Keep s0 s) (a2 a3) : Keep s0 (matStep s a2 a3) := by
  unfold matStep
  repeat' first
    | with_reducible assumption | with_reducible apply keep_updCtx | (lift_lets -underBinder; intro x; clear_value x)
    | split

theorem keep_suspect (h : Keep s0 s) (a2 a3 a4) : Keep s0 (suspect s a2 a3 a4) := by
  unfold suspect
  repeat' first
    | (intro x; refine keepCut (s0 := s0) x ?_ ?_; rotate_left; intro hx; clear_value x; rotate_left; subst x)
    | (intro x; clear_value x) | with_reducible assumption | with_reducible apply keep_record
    | with_reducible apply keep_wearAdd | with_reducible apply keep_updLedger | with_reducible apply keep_fenceCore
    | (lift_lets -underBinder; intro x; (refine keepCut (s0 := s0) x ?_ ?_; rotate_left; intro hx; clear_value x; rotate_left; subst x))
    | (simp only [keep_mk]; with_reducible apply keepF_of) | split

theorem keep_tallyCheck (h : Keep s0 s) (a2 a3) : Keep s0 (tallyCheck s a2 a3) := by
  unfold tallyCheck
  repeat' first
    | with_reducible assumption | with_reducible apply keep_bumpCoveSet | with_reducible apply keep_suspect
    | (lift_lets -underBinder; intro x; clear_value x) | split

theorem keep_execTileCommit (h : Keep s0 s) (a1 a2 a3 a4) : OutKeep s0 (execTileCommit a1 a2 a3 a4 s) := by
  unfold execTileCommit
  repeat' first
    | (intro x; refine keepCut (s0 := s0) x ?_ ?_; rotate_left; intro hx; clear_value x; rotate_left; subst x)
    | (intro x; clear_value x) | with_reducible assumption | with_reducible apply keep_record
    | with_reducible apply keep_discardStream | with_reducible apply keep_discardStep
    | with_reducible apply keep_updLedger | with_reducible apply keep_wearAdd | with_reducible apply keep_updCtx
    | with_reducible apply keep_bumpCore | with_reducible apply keep_tallyCheck | with_reducible apply out_next
    | (lift_lets -underBinder; intro x; clear_value x) | split

theorem keep_execTileDrainEnd (h : Keep s0 s) (a1 a2) : OutKeep s0 (execTileDrainEnd a1 a2 s) := by
  unfold execTileDrainEnd
  repeat' first
    | intro x | with_reducible assumption | with_reducible apply keep_updCore | with_reducible apply keep_updCtx
    | with_reducible apply keep_tallyCheck | with_reducible apply keep_chargeSats | with_reducible apply out_next
    | with_reducible apply wf_memWrite | with_reducible apply wf_setElems
    | (lift_lets -underBinder; intro x; clear_value x) | split

theorem keep_dropWait (h : Keep s0 s) (a2 a3) : Keep s0 (dropWait s a2 a3) := by
  unfold dropWait
  repeat' first
    | with_reducible assumption | with_reducible apply keep_updWaitTrace | with_reducible apply keep_bump
    | with_reducible apply keep_recordCove | (lift_lets -underBinder; intro x; clear_value x) | split

theorem keep_traceWait (h : Keep s0 s) (a2 a3) : Keep s0 (traceWait s a2 a3) := by
  unfold traceWait
  repeat' first
    | (intro x; clear_value x) | with_reducible assumption | with_reducible apply keep_dropWait
    | (lift_lets -underBinder; intro x; clear_value x) | (simp only [keep_mk]; with_reducible apply keepF_of)
    | split

theorem keep_writeLayer (h : Keep s0 s) (a2 a3) : Keep s0 (writeLayer s a2 a3) := by
  unfold writeLayer
  repeat' first
    | (intro x; clear_value x) | with_reducible assumption | with_reducible apply keep_updCove
    | with_reducible apply keep_hbmStore | with_reducible apply keep_recordCove
    | (lift_lets -underBinder; intro x; clear_value x) | split

theorem keep_settleLayers (h : Keep s0 s) (a2) : Keep s0 (settleLayers s a2) := by
  unfold settleLayers
  repeat' first
    | intro x | with_reducible assumption | with_reducible apply keep_updCove | with_reducible apply keep_forEach
    | with_reducible apply keep_updCore | with_reducible apply keep_writeLayer
    | (lift_lets -underBinder; intro x; clear_value x) | split

theorem keep_closeLayer (h : Keep s0 s) (a2 a3 a4) : Keep s0 (closeLayer s a2 a3 a4) := by
  unfold closeLayer
  repeat' first
    | with_reducible assumption | with_reducible apply keep_settleLayers | with_reducible apply keep_updCove
    | (lift_lets -underBinder; intro x; clear_value x) | split

theorem keep_skewFail (h : Keep s0 s) (a2) : Keep s0 (skewFail s a2) := by
  unfold skewFail
  repeat' first
    | (intro x; refine keepCut (s0 := s0) x ?_ ?_; rotate_left; intro hx; clear_value x; rotate_left; subst x)
    | (intro x; clear_value x) | with_reducible assumption | with_reducible apply keep_recordCove
    | with_reducible apply keep_discardStep | with_reducible apply keep_holdCove
    | (lift_lets -underBinder; intro x; clear_value x) | split

theorem keep_arrive (h : Keep s0 s) (a2 a3 a4 a5 a6 a7 a8) : Keep s0 (arrive s a2 a3 a4 a5 a6 a7 a8).2 := by
  unfold arrive
  repeat' first
    | (intro x; refine keepCut (s0 := s0) x ?_ ?_; rotate_left; intro hx; clear_value x; rotate_left; subst x)
    | (intro x; clear_value x) | with_reducible assumption | with_reducible apply keep_readStorage
    | with_reducible apply keep_divergence | with_reducible apply keep_skewFail | with_reducible apply keep_closeLayer
    | with_reducible apply keep_updCove | (lift_lets -underBinder; intro (x : Bool × State); subst x)
    | (lift_lets -underBinder; intro x; clear_value x) | split

theorem keep_traceSync (h : Keep s0 s) (a2 a3 a4) : Keep s0 (traceSync s a2 a3 a4) := by
  unfold traceSync
  repeat' first
    | with_reducible assumption | with_reducible apply keep_traceWait | split

theorem keep_endWait (h : Keep s0 s) (a2 a3) : Keep s0 (endWait s a2 a3) := by
  unfold endWait
  repeat' first
    | with_reducible assumption | with_reducible apply keep_updCtx | with_reducible apply keep_traceSync | split

theorem keep_settleWait (h : Keep s0 s) (a2 a3) : Keep s0 (settleWait s a2 a3) := by
  unfold settleWait
  repeat' first
    | with_reducible assumption | with_reducible apply keep_endWait | split

theorem keep_startWait (h : Keep s0 s) (a2 a3 a4) : Keep s0 (startWait s a2 a3 a4) := by
  unfold startWait
  repeat' first
    | with_reducible assumption | with_reducible apply keep_settleWait | with_reducible apply keep_updCtx

theorem keep_execSwtide (h : Keep s0 s) (a1 a2 a3) : OutKeep s0 (execSwtide a1 a2 a3 s) := by
  unfold execSwtide
  repeat' first
    | intro x | with_reducible assumption | with_reducible apply keep_issueNext
    | with_reducible apply keep_startWait | with_reducible apply out_next

theorem keep_execSarrive (h : Keep s0 s) (a1 a2 a3) : OutKeep s0 (execSarrive a1 a2 a3 s) := by
  unfold execSarrive
  repeat' first
    | intro x | with_reducible assumption | with_reducible apply keep_issueThen | with_reducible apply keep_setCtx
    | with_reducible apply keep_arrive | with_reducible apply keep_startWait | with_reducible apply out_next
    | (lift_lets -underBinder; intro x; clear_value x) | split

theorem keep_execSwains (h : Keep s0 s) (a1 a2 a3) : OutKeep s0 (execSwains a1 a2 a3 s) := by
  unfold execSwains
  repeat' first
    | intro x | with_reducible assumption | with_reducible apply keep_issueNext
    | with_reducible apply keep_startWait | with_reducible apply out_next

theorem keep_execSdrain (h : Keep s0 s) (a1 a2 a3) : OutKeep s0 (execSdrain a1 a2 a3 s) := by
  unfold execSdrain
  repeat' first
    | intro x | with_reducible assumption | with_reducible apply keep_issueNext
    | with_reducible apply keep_startWait | with_reducible apply out_next

theorem keep_execStbar (h : Keep s0 s) (a1 a2 a3) : OutKeep s0 (execStbar a1 a2 a3 s) := by
  unfold execStbar
  repeat' first
    | intro x | with_reducible assumption | with_reducible apply keep_issueNext
    | with_reducible apply keep_startWait | with_reducible apply out_next

theorem keep_execScommit (h : Keep s0 s) (a1 a2 a3) : OutKeep s0 (execScommit a1 a2 a3 s) := by
  unfold execScommit
  repeat' first
    | intro x | with_reducible assumption | with_reducible apply keep_issueThen
    | with_reducible apply keep_divergence | with_reducible apply keep_skewFail
    | with_reducible apply keep_discardStep | with_reducible apply keep_updCove
    | with_reducible apply keep_startWait | with_reducible apply keep_closeLayer | with_reducible apply out_next
    | (lift_lets -underBinder; intro x; clear_value x) | split

end Sys2Proof.Laws
end

