-- ==== Sys2Proof/Laws/KeepCove.lean ====
section
/-!
SUPPORT. Slack water, barn moves and the load engine keep the build, the queue and canonical memories.
-/
namespace Sys2Proof.Laws
open Sys2Proof Sys2Proof.Machine

variable {s0 s t : State}

theorem keep_setPlacement (h : Keep s0 s) (a2 a3) : Keep s0 (setPlacement s a2 a3) := by
  unfold setPlacement
  repeat' first
    | with_reducible assumption | (simp only [keep_mk]; with_reducible apply keepF_of)

theorem keep_setReason (h : Keep s0 s) (a2 a3) : Keep s0 (setReason s a2 a3) := by
  unfold setReason
  repeat' first
    | with_reducible assumption | with_reducible apply keep_updCove

theorem keep_deferAction (h : Keep s0 s) (a2 a3 a4) : Keep s0 (deferAction s a2 a3 a4) := by
  unfold deferAction
  repeat' first
    | with_reducible assumption | with_reducible apply keep_recordCove | with_reducible apply keep_updCove

theorem keep_zeroFrame (h : Keep s0 s) (a2) : Keep s0 (zeroFrame s a2) := by
  unfold zeroFrame
  repeat' first
    | intro x | with_reducible assumption | with_reducible apply keep_updStack | with_reducible apply wf_memZero
    | (simp only [keep_mk]; with_reducible apply keepF_of)

theorem keep_passFrames (h : Keep s0 s) (a2 a3) : Keep s0 (passFrames s a2 a3) := by
  unfold passFrames
  repeat' first
    | intro x | with_reducible assumption | with_reducible apply keep_forEach | with_reducible apply keep_setFrame
    | with_reducible apply keep_zeroFrame

theorem keep_takeUnitI (h : Keep s0 s) (a2 a3) : Keep s0 (takeUnitI s a2 a3) := by
  unfold takeUnitI
  repeat' first
    | intro x | with_reducible assumption | with_reducible apply keep_updCove | with_reducible apply keep_forEach
    | with_reducible apply keep_setFrame

theorem keep_takeUnitS (h : Keep s0 s) (a2 a3) : Keep s0 (takeUnitS s a2 a3) := by
  unfold takeUnitS
  repeat' first
    | intro x | with_reducible assumption | with_reducible apply keep_updCove | with_reducible apply keep_forEach
    | with_reducible apply keep_setFrame

theorem keep_applyMaps (h : Keep s0 s) (a2) : Keep s0 (applyMaps s a2) := by
  unfold applyMaps
  repeat' first
    | intro x | with_reducible assumption | with_reducible apply keep_forEach | with_reducible apply keep_takeUnitI
    | with_reducible apply keep_updCove | with_reducible apply keep_takeUnitS
    | (lift_lets -underBinder; intro x; clear_value x) | split

theorem keep_giveUpUnits (h : Keep s0 s) (a2) : Keep s0 (giveUpUnits s a2) := by
  unfold giveUpUnits
  repeat' first
    | with_reducible assumption | with_reducible apply keep_passFrames | with_reducible apply keep_updCove

theorem keep_checkQuota (h : Keep s0 s) (a2) : Keep s0 (checkQuota s a2) := by
  unfold checkQuota
  repeat' first
    | (intro x; clear_value x) | with_reducible assumption | with_reducible apply keep_recordCove
    | with_reducible apply keep_updCove | (lift_lets -underBinder; intro x; clear_value x) | split

theorem keep_checkPortQuota (h : Keep s0 s) (a2) : Keep s0 (checkPortQuota s a2) := by
  unfold checkPortQuota
  repeat' first
    | with_reducible assumption | with_reducible apply keep_updCove | split

theorem keep_startDemotion (h : Keep s0 s) (a2) : Keep s0 (startDemotion s a2) := by
  unfold startDemotion
  repeat' first
    | intro x | with_reducible apply keep_recordCove | with_reducible apply keep_updCove
    | with_reducible apply keep_forEach | with_reducible apply keep_setPlacement
    | (lift_lets -underBinder; intro x; clear_value x) | split | with_reducible apply_assumption

theorem keep_startPromotion (h : Keep s0 s) (a2 a3) : Keep s0 (startPromotion s a2 a3) := by
  unfold startPromotion
  repeat' first
    | intro x | with_reducible assumption | with_reducible apply keep_takeUnitI
    | with_reducible apply keep_setPlacement | with_reducible apply keep_forEach | with_reducible apply keep_emit
    | with_reducible apply keep_recordCove | (simp only [keep_mk]; with_reducible apply keepF_of) | split

theorem keep_startPromotions (h : Keep s0 s) (a2) : Keep s0 (startPromotions s a2) := by
  unfold startPromotions
  repeat' first
    | intro x | with_reducible assumption | with_reducible apply keep_forEach
    | with_reducible apply keep_startPromotion | (lift_lets -underBinder; intro x; clear_value x) | split

theorem keep_moveWithdrawn (h : Keep s0 s) (a2) : Keep s0 (moveWithdrawn s a2) := by
  unfold moveWithdrawn
  repeat' first
    | (intro x; refine keepCut (s0 := s0) x ?_ ?_; rotate_left; intro hx; clear_value x; rotate_left; subst x)
    | (intro (x : MemState); subst x) | intro x | with_reducible assumption | with_reducible apply keep_forEach
    | with_reducible apply keep_setPlacement | with_reducible apply keep_recordCove
    | with_reducible apply keep_setReason
    | (lift_lets -underBinder; intro x; refine keepCut (s0 := s0) x ?_ ?_; rotate_left; intro hx; clear_value x; rotate_left; subst x)
    | (lift_lets -underBinder; intro x; clear_value x) | (simp only [keep_mk]; with_reducible apply keepF_of) | split

theorem keep_moveAway (h : Keep s0 s) (a2 a3 a4 a5 a6) : MoveKeep s0 (moveAway s a2 a3 a4 a5 a6) := by
  unfold moveAway
  repeat' first
    | with_reducible assumption | with_reducible apply keep_waitedStacks | with_reducible apply keep_bump
    | with_reducible apply keep_sendOn | with_reducible apply move_moved | with_reducible apply move_waits
    | with_reducible apply move_fails | (refine keep_admitFor ?_ ‹_ = Admit.granted _ _›)
    | (lift_lets -underBinder; intro x; clear_value x) | split

theorem keep_moveHere (h : Keep s0 s) (a2 a3 a4 a5 a6 a7) (h7 : ∀ x0, Keep s0 x0 → Keep s0 (a7 x0)) : MoveKeep s0 (moveHere s a2 a3 a4 a5 a6 a7) := by
  unfold moveHere
  repeat' first
    | with_reducible assumption | with_reducible apply h7 | with_reducible apply keep_refusalNote
    | with_reducible apply keep_waitedStacks | with_reducible apply move_moved | with_reducible apply move_waits
    | with_reducible apply move_fails | (refine keep_admitFor ?_ ‹_ = Admit.granted _ _›)
    | (lift_lets -underBinder; intro x; clear_value x) | split

theorem keep_moveTo (h : Keep s0 s) (a2 a3 a4 a5 a6 a7) : MoveKeep s0 (moveTo s a2 a3 a4 a5 a6 a7) := by
  unfold moveTo
  repeat' first
    | intro x | with_reducible assumption | with_reducible apply keep_moveAway | with_reducible apply keep_moveHere
    | with_reducible apply keep_clearMark | with_reducible apply keep_hbmWrite | split

theorem keep_moveBlock (h : Keep s0 s) (a2 a3 a4 a5 a6) : MoveKeep s0 (moveBlock s a2 a3 a4 a5 a6) := by
  unfold moveBlock
  repeat' first
    | (intro x; clear_value x) | with_reducible assumption | with_reducible apply keep_moveAway
    | with_reducible apply keep_refusalNote | with_reducible apply keep_condemn | with_reducible apply keep_moveTo
    | with_reducible apply move_moved | with_reducible apply move_waits | with_reducible apply move_fails
    | (refine keep_moved ‹_ = MoveStep.moved _› ?_) | (refine keep_waits ‹_ = MoveStep.waits _› ?_)
    | (refine keep_fails ‹_ = MoveStep.fails _ _› ?_) | (lift_lets -underBinder; intro (x : MemState); subst x)
    | (lift_lets -underBinder; intro x; clear_value x) | (simp only [keep_mk]; with_reducible apply keepF_of) | split

theorem keep_moveBlocks (h : Keep s0 s) (n c u) : Keep s0 (moveBlocks n s c u) := by
  induction n generalizing s with
  | zero => exact h
  | succ n ih =>
    unfold moveBlocks
    dsimp only
    split
    · split
      · exact keep_waits ‹_› (keep_moveBlock h ..)
      · exact keep_coveOutcome (keep_fails ‹_› (keep_moveBlock h ..)) ..
      · exact ih (keep_setPlacement (keep_moved ‹_› (keep_moveBlock h ..)) ..)
    · exact h

theorem keep_flipUnit (h : Keep s0 s) (a2 a3) : Keep s0 (flipUnit s a2 a3) := by
  unfold flipUnit
  repeat' first
    | (intro x; refine keepCut (s0 := s0) x ?_ ?_; rotate_left; intro hx; clear_value x; rotate_left; subst x)
    | with_reducible assumption | with_reducible apply keep_passFrames | with_reducible apply keep_updCove
    | with_reducible apply keep_setPlacement | with_reducible apply keep_checkQuota
    | with_reducible apply keep_recordCove | (lift_lets -underBinder; intro (x : MemState); subst x)
    | (lift_lets -underBinder; intro x; clear_value x) | (simp only [keep_mk]; with_reducible apply keepF_of) | split

theorem keep_flipReady (h : Keep s0 s) (a2 a3) : Keep s0 (flipReady s a2 a3) := by
  unfold flipReady
  repeat' first
    | with_reducible assumption | with_reducible apply keep_flipUnit
    | (lift_lets -underBinder; intro x; clear_value x) | split

theorem keep_moverTick (h : Keep s0 s) : Keep s0 (moverTick s) := by
  unfold moverTick
  repeat' first
    | intro x | with_reducible assumption | with_reducible apply keep_forEach | with_reducible apply keep_flipReady
    | with_reducible apply keep_moveBlocks

theorem keep_admitFlip (h : Keep s0 s) (a2 a3) : Keep s0 (admitFlip s a2 a3) := by
  unfold admitFlip
  repeat' first
    | with_reducible assumption | with_reducible apply keep_flipReady | with_reducible apply keep_setPlacement
    | with_reducible apply keep_recordCove | (lift_lets -underBinder; intro x; clear_value x) | split

theorem keep_endFlips (h : Keep s0 s) (a2) : Keep s0 (endFlips s a2) := by
  unfold endFlips
  repeat' first
    | intro x | with_reducible assumption | with_reducible apply keep_forEach | with_reducible apply keep_recordCove
    | with_reducible apply keep_setPlacement | (lift_lets -underBinder; intro x; clear_value x) | split

theorem keep_moverStatus (h : Keep s0 s) (a2 a3 a4 a5) : Keep s0 (moverStatus s a2 a3 a4 a5) := by
  unfold moverStatus
  repeat' first
    | (intro x; clear_value x) | intro x | with_reducible assumption | with_reducible apply keep_forEach
    | with_reducible apply keep_setPlacement | with_reducible apply keep_coveOutcome
    | (lift_lets -underBinder; intro (x : MemState); subst x) | (lift_lets -underBinder; intro x; clear_value x)
    | (simp only [keep_mk]; with_reducible apply keepF_of) | split

theorem keep_leaseZeroing (h : Keep s0 s) (a2) : Keep s0 (leaseZeroing s a2) := by
  unfold leaseZeroing
  repeat' first
    | intro x | with_reducible assumption | with_reducible apply keep_forEach | with_reducible apply keep_passFrames
    | (lift_lets -underBinder; intro x; clear_value x) | split

theorem keep_demotionWork (h : Keep s0 s) (a2) : Keep s0 (demotionWork s a2) := by
  unfold demotionWork
  repeat' first
    | intro x | with_reducible assumption | with_reducible apply keep_forEach | with_reducible apply keep_admitFlip
    | with_reducible apply keep_checkQuota | with_reducible apply keep_leaseZeroing
    | with_reducible apply keep_moveWithdrawn | with_reducible apply keep_startPromotions
    | with_reducible apply keep_startDemotion

theorem keep_applyTags (h : Keep s0 s) (a2) : Keep s0 (applyTags s a2) := by
  unfold applyTags
  repeat' first
    | intro x | with_reducible assumption | with_reducible apply keep_updCove | with_reducible apply keep_forEach
    | with_reducible apply keep_updCtx

theorem keep_refuseTags (h : Keep s0 s) (a2) : Keep s0 (refuseTags s a2) := by
  unfold refuseTags
  repeat' first
    | with_reducible assumption | with_reducible apply keep_recordCove | with_reducible apply keep_setReason

theorem keep_loadCore (h : Keep s0 s) (a2 a3 a4) : Keep s0 (loadCore s a2 a3 a4) := by
  unfold loadCore
  repeat' first
    | intro x | with_reducible assumption | with_reducible apply keep_updCore | with_reducible apply keep_forEach
    | with_reducible apply keep_updCtx | split

theorem keep_loadVariant (h : Keep s0 s) (a2 a3 a4) : Keep s0 (loadVariant s a2 a3 a4).2 := by
  unfold loadVariant
  repeat' first
    | intro x | with_reducible assumption | with_reducible apply keep_recordCove | with_reducible apply keep_updCove
    | with_reducible apply keep_forEach | with_reducible apply keep_loadCore | with_reducible apply keep_applyTags
    | (lift_lets -underBinder; intro x; clear_value x) | split

theorem keep_stageBank (h : Keep s0 s) (a2 a3) : Keep s0 (stageBank s a2 a3) := by
  unfold stageBank
  repeat' first
    | intro x | with_reducible assumption | with_reducible apply keep_forEach | with_reducible apply keep_setTable

theorem keep_switchBank (h : Keep s0 s) (a2 a3) : Keep s0 (switchBank s a2 a3) := by
  unfold switchBank
  repeat' first
    | with_reducible assumption | with_reducible apply keep_updCove | with_reducible apply keep_updCoveTide

theorem keep_clearDies (h : Keep s0 s) (dies : List Nat) : Keep s0 (clearDies s dies) := by
  refine keep_forEach h dies _ fun s d hs => ?_
  have h1 : Keep s0 (updNear s d fun _ => []) := keep_updNear hs d _ fun _ _ => wf_nil
  have h2 : ∀ m : Sparse Bool, Keep s0 (let u := updNear s d fun _ => []
      { u with mem := { u.mem with nearMarks := m } }) := fun m => (keep_mk ..).symm ▸ keepF_of h1
  exact keep_forEach (keep_forEach (h2 _) _ _ fun s k hs => keep_updCluster hs _ _) _ _
    fun s k hs => keep_updCore hs _ _ fun _ _ => wf_nil

theorem keep_takeDie (h : Keep s0 s) (a1 a3) : Keep s0 (takeDie a1 s a3) := by
  unfold takeDie
  repeat' first
    | with_reducible assumption | with_reducible apply keep_updCove | split

theorem keep_waitFor (h : Keep s0 s) (a2 a3) : Keep s0 (waitFor s a2 a3) := by
  unfold waitFor
  repeat' first
    | with_reducible assumption | with_reducible apply keep_recordCove | with_reducible apply keep_setReason

theorem keep_loadChosen (h : Keep s0 s) (a2 a3 a4) : Keep s0 (loadChosen s a2 a3 a4) := by
  unfold loadChosen
  split
  · exact keep_refuseTags h ..
  · extract_lets dropped r
    have hr : Keep s0 r.2 := keep_loadVariant (keep_clearDies h _) _ _ _
    split
    · exact keep_updCove (keep_switchBank (keep_stageBank hr ..) ..) ..
    · exact keep_waitFor hr ..

theorem keep_loadWhole (h : Keep s0 s) (a2 a3) : Keep s0 (loadWhole s a2 a3) := by
  unfold loadWhole
  repeat' first
    | with_reducible assumption | with_reducible apply keep_waitFor | with_reducible apply keep_loadChosen | split

theorem keep_tryLoading (h : Keep s0 s) (a2) : Keep s0 (tryLoading s a2) := by
  unfold tryLoading
  repeat' first
    | intro x | with_reducible assumption | with_reducible apply keep_loadWhole
    | with_reducible apply keep_applyMaps | with_reducible apply keep_forEach | with_reducible apply keep_takeDie

theorem keep_releaseCove (h : Keep s0 s) (a2) : Keep s0 (releaseCove s a2) := by
  unfold releaseCove
  repeat' first
    | intro x | with_reducible assumption | with_reducible apply keep_clearDies | with_reducible apply keep_forEach
    | with_reducible apply keep_setPlacement | with_reducible apply keep_passFrames
    | with_reducible apply keep_setReg | with_reducible apply keep_updCove | with_reducible apply keep_updCoveTide
    | with_reducible apply keep_recordCove | (simp only [keep_mk]; with_reducible apply keepF_of)

theorem keep_startRelease (h : Keep s0 s) (a2) : Keep s0 (startRelease s a2) := by
  unfold startRelease
  repeat' first
    | (intro x; clear_value x) | with_reducible assumption | with_reducible apply keep_updCove
    | (lift_lets -underBinder; intro x; clear_value x) | (simp only [keep_mk]; with_reducible apply keepF_of)

theorem keep_endCkpt (h : Keep s0 s) (a2 a3 a4 a5 a6) : Keep s0 (endCkpt s a2 a3 a4 a5 a6) := by
  unfold endCkpt
  repeat' first
    | with_reducible assumption | with_reducible apply keep_updCkpt | with_reducible apply keep_recordCove
    | with_reducible apply keep_completionLine | split

theorem keep_abortCkpt (h : Keep s0 s) (a2) : Keep s0 (abortCkpt s a2) := by
  unfold abortCkpt
  repeat' first
    | with_reducible assumption | with_reducible apply keep_endCkpt | with_reducible apply keep_updCkpt | split

theorem keep_buildDigest (h : Keep s0 s) (a2 a3) : Keep s0 (buildDigest s a2 a3) := by
  unfold buildDigest
  repeat' first
    | (intro x; refine keepCut (s0 := s0) x ?_ ?_; rotate_left; intro hx; clear_value x; rotate_left; subst x)
    | (intro x; clear_value x) | intro x | with_reducible assumption | with_reducible apply keep_updCove
    | with_reducible apply keep_recordCove | with_reducible apply keep_hbmStore | with_reducible apply keep_forEach
    | with_reducible apply keep_queueOut | (lift_lets -underBinder; intro x; clear_value x) | split

theorem keep_execDigestTableReceive (h : Keep s0 s) (a1 a2 a3 a4 a5) :
    OutKeep s0 (execDigestTableReceive a1 a2 a3 a4 a5 s) := by
  unfold execDigestTableReceive
  repeat' first
    | with_reducible assumption | with_reducible apply keep_recordCove | with_reducible apply keep_updCove
    | with_reducible apply out_next | (lift_lets -underBinder; intro x; clear_value x) | split

theorem keep_checkMissing (h : Keep s0 s) (a2) : Keep s0 (checkMissing s a2) := by
  unfold checkMissing
  repeat' first
    | intro x | with_reducible assumption | with_reducible apply keep_forEach | with_reducible apply keep_recordCove
    | with_reducible apply keep_updCove | (lift_lets -underBinder; intro x; clear_value x) | split

theorem keep_startStep (h : Keep s0 s) (a2 a3) : Keep s0 (startStep s a2 a3) := by
  unfold startStep
  repeat' first
    | (intro x; refine keepCut (s0 := s0) x ?_ ?_; rotate_left; intro hx; clear_value x; rotate_left; subst x)
    | (intro x; clear_value x) | intro x | with_reducible assumption | with_reducible apply keep_holdCove
    | with_reducible apply keep_updCove | with_reducible apply keep_endFlips | with_reducible apply keep_updCoveTide
    | with_reducible apply keep_forEach | with_reducible apply keep_endWait | with_reducible apply keep_updCtx
    | with_reducible apply keep_updCore | with_reducible apply keep_updWaitTrace
    | with_reducible apply keep_recordCove | with_reducible apply keep_discardStep
    | (lift_lets -underBinder; intro x; clear_value x) | (simp only [keep_mk]; with_reducible apply keepF_of) | split

theorem keep_checkReshape (h : Keep s0 s) (a2) : Keep s0 (checkReshape s a2) := by
  unfold checkReshape
  repeat' first
    | with_reducible assumption | with_reducible apply keep_updCove | with_reducible apply keep_recordCove
    | with_reducible apply keep_loadVariant | with_reducible apply keep_deferAction
    | (lift_lets -underBinder; intro x; clear_value x) | split

theorem keep_applySlackChanges (h : Keep s0 s) (a2) : Keep s0 (applySlackChanges s a2) := by
  unfold applySlackChanges
  repeat' first
    | with_reducible assumption | with_reducible apply keep_checkQuota | with_reducible apply keep_applyMaps
    | with_reducible apply keep_refuseTags | with_reducible apply keep_updCove | with_reducible apply keep_applyTags
    | (lift_lets -underBinder; intro x; (refine keepCut (s0 := s0) x ?_ ?_; rotate_left; intro hx; clear_value x; rotate_left; subst x))
    | split

theorem keep_returnClock (h : Keep s0 s) (a2) : Keep s0 (returnClock s a2) := by
  unfold returnClock
  repeat' first
    | with_reducible assumption | with_reducible apply keep_updCoveTide | split

theorem keep_slackBegins (h : Keep s0 s) (a2) : Keep s0 (slackBegins s a2) := by
  unfold slackBegins
  repeat' first
    | with_reducible assumption | with_reducible apply keep_checkReshape | with_reducible apply keep_demotionWork
    | with_reducible apply keep_applySlackChanges | with_reducible apply keep_returnClock

theorem keep_commitStep (h : Keep s0 s) (a2 a3) : Keep s0 (commitStep s a2 a3) := by
  unfold commitStep
  repeat' first
    | intro x | with_reducible assumption | with_reducible apply keep_bumpCoveSet
    | with_reducible apply keep_recordCove | with_reducible apply keep_updStats | with_reducible apply keep_forEach
    | with_reducible apply keep_updCtx | with_reducible apply keep_updThresh | with_reducible apply keep_updCove
    | with_reducible apply keep_buildDigest | with_reducible apply keep_writeStepRecord
    | with_reducible apply keep_updCoveTide | split

theorem keep_startCapture (h : Keep s0 s) (a2) : Keep s0 (startCapture s a2) := by
  unfold startCapture
  repeat' first
    | with_reducible assumption | with_reducible apply keep_recordCove | with_reducible apply keep_updCkpt | split

theorem keep_afterCommit (h : Keep s0 s) (a2) : Keep s0 (afterCommit s a2) := by
  unfold afterCommit
  repeat' first
    | with_reducible assumption | with_reducible apply keep_startRelease | with_reducible apply keep_abortCkpt
    | with_reducible apply keep_recordCove | with_reducible apply keep_updCove | with_reducible apply keep_holdCove
    | with_reducible apply keep_slackBegins | (lift_lets -underBinder; intro x; clear_value x) | split

theorem keep_discardAnyway (h : Keep s0 s) (a2 a3 a4) : Keep s0 (discardAnyway s a2 a3 a4) := by
  unfold discardAnyway
  repeat' first
    | with_reducible assumption | with_reducible apply keep_discardStep | with_reducible apply keep_updCove

theorem keep_execStepCommit (h : Keep s0 s) (a1 a2) : OutKeep s0 (execStepCommit a1 a2 s) := by
  unfold execStepCommit
  repeat' first
    | with_reducible assumption | with_reducible apply keep_discardAnyway | with_reducible apply keep_recordCove
    | with_reducible apply keep_afterCommit | with_reducible apply keep_startCapture
    | with_reducible apply keep_commitStep | with_reducible apply out_next
    | (lift_lets -underBinder; intro x; clear_value x) | split

theorem keep_execSlackWaterEnd (h : Keep s0 s) (a1) : OutKeep s0 (execSlackWaterEnd a1 s) := by
  unfold execSlackWaterEnd
  repeat' first
    | (intro x; refine keepCut (s0 := s0) x ?_ ?_; rotate_left; intro hx; clear_value x; rotate_left; subst x)
    | (intro x; clear_value x) | with_reducible assumption | with_reducible apply keep_checkMissing
    | with_reducible apply keep_holdCove | with_reducible apply keep_startStep | with_reducible apply out_next
    | (lift_lets -underBinder; intro x; clear_value x) | split

theorem keep_execCommitLimit (h : Keep s0 s) (a1) : OutKeep s0 (execCommitLimit a1 s) := by
  unfold execCommitLimit
  repeat' first
    | (intro x; clear_value x) | with_reducible assumption | with_reducible apply keep_discardAnyway
    | with_reducible apply keep_recordCove | with_reducible apply out_next
    | (lift_lets -underBinder; intro x; clear_value x) | split

theorem keep_execDiscardNoticeReceive (h : Keep s0 s) (a1 a2 a3 a4 a5) :
    OutKeep s0 (execDiscardNoticeReceive a1 a2 a3 a4 a5 s) := by
  unfold execDiscardNoticeReceive
  repeat' first
    | with_reducible assumption | with_reducible apply keep_awaitReplayFrom
    | with_reducible apply keep_discardAnyway | with_reducible apply keep_updCove | with_reducible apply out_next
    | (lift_lets -underBinder; intro x; clear_value x) | split

theorem keep_promoteConflicts (h : Keep s0 s) (a2) : Keep s0 (promoteConflicts s a2) := by
  unfold promoteConflicts
  repeat' first
    | (intro x; clear_value x) | intro x | with_reducible assumption | with_reducible apply keep_forEach
    | with_reducible apply keep_startPromotion | with_reducible apply keep_setPlacement
    | (lift_lets -underBinder; intro x; refine keepCut (s0 := s0) x ?_ ?_; rotate_left; intro hx; clear_value x; rotate_left; subst x)
    | split

theorem keep_execReplayStart (h : Keep s0 s) (a1) : OutKeep s0 (execReplayStart a1 s) := by
  unfold execReplayStart
  repeat' first
    | (intro x; clear_value x) | intro x | with_reducible assumption | with_reducible apply keep_promoteConflicts
    | with_reducible apply keep_updCove | with_reducible apply keep_startStep | with_reducible apply out_next
    | (lift_lets -underBinder; intro x; refine keepCut (s0 := s0) x ?_ ?_; rotate_left; intro hx; clear_value x; rotate_left; subst x)
    | (lift_lets -underBinder; intro x; clear_value x) | split

theorem keep_execCoveRestartTick (h : Keep s0 s) (a1) : OutKeep s0 (execCoveRestartTick a1 s) := by
  unfold execCoveRestartTick
  repeat' first
    | (intro x; refine keepCut (s0 := s0) x ?_ ?_; rotate_left; intro hx; clear_value x; rotate_left; subst x)
    | (intro x; clear_value x) | with_reducible assumption | with_reducible apply keep_recordCove
    | with_reducible apply keep_updCoveTide | with_reducible apply keep_startStep
    | with_reducible apply keep_checkMissing | with_reducible apply out_next
    | (lift_lets -underBinder; intro x; clear_value x) | split

theorem keep_endEntry (h : Keep s0 s) (a2 a3) : Keep s0 (endEntry s a2 a3) := by
  unfold endEntry
  repeat' first
    | with_reducible assumption | with_reducible apply keep_setReg

theorem keep_deferRest (h : Keep s0 s) (a2 a3) : Keep s0 (deferRest s a2 a3) := by
  unfold deferRest
  repeat' first
    | with_reducible assumption | with_reducible apply keep_deferAction | with_reducible apply keep_updCove

theorem keep_actionEnded (h : Keep s0 s) (a2 a3) : Keep s0 (actionEnded s a2 a3) := by
  unfold actionEnded
  repeat' first
    | with_reducible assumption | with_reducible apply keep_updCove

theorem keep_execSlackEvalSnapshot (h : Keep s0 s) (a1) : OutKeep s0 (execSlackEvalSnapshot a1 s) := by
  unfold execSlackEvalSnapshot
  repeat' first
    | (intro x; refine keepCut (s0 := s0) x ?_ ?_; rotate_left; intro hx; clear_value x; rotate_left; subst x)
    | (intro x; clear_value x) | intro x | with_reducible assumption | with_reducible apply keep_deferRest
    | with_reducible apply keep_updCove | with_reducible apply keep_forEach | with_reducible apply keep_recordCove
    | with_reducible apply keep_endEntry | with_reducible apply keep_hbmStore | with_reducible apply keep_actionEnded
    | with_reducible apply out_next | (lift_lets -underBinder; intro x; clear_value x) | split

theorem keep_reshapeEnds (h : Keep s0 s) (a2) : Keep s0 (reshapeEnds s a2) := by
  unfold reshapeEnds
  repeat' first
    | with_reducible assumption | with_reducible apply keep_switchBank | with_reducible apply keep_stageBank
    | with_reducible apply keep_updCove | with_reducible apply keep_recordCove
    | (lift_lets -underBinder; intro x; clear_value x) | split

theorem keep_reshapeStuck (h : Keep s0 s) (a2 a3 a4) : Keep s0 (reshapeStuck s a2 a3 a4) := by
  unfold reshapeStuck
  have hx := keep_deferAction h a2 a3 a4
  generalize deferAction s a2 a3 a4 = x at hx ⊢
  dsimp only
  split
  · exact keep_holdCove hx ..
  · exact hx

theorem keep_reshapeLoad (h : Keep s0 s) (a2 a3 a4 a5) : Keep s0 (reshapeLoad s a2 a3 a4 a5) := by
  unfold reshapeLoad
  repeat' first
    | (intro x; refine keepCut (s0 := s0) x ?_ ?_; rotate_left; intro hx; clear_value x; rotate_left; subst x)
    | with_reducible assumption | with_reducible apply keep_loadVariant | with_reducible apply keep_reshapeStuck
    | with_reducible apply keep_updCove | with_reducible apply keep_actionEnded
    | with_reducible apply keep_reshapeEnds | (lift_lets -underBinder; intro (x : Bool × State); subst x) | split

theorem keep_execSlackEbb (h : Keep s0 s) (a1) : OutKeep s0 (execSlackEbb a1 s) := by
  unfold execSlackEbb
  repeat' first
    | (intro x; refine keepCut (s0 := s0) x ?_ ?_; rotate_left; intro hx; clear_value x; rotate_left; subst x)
    | (intro x; clear_value x) | with_reducible assumption | with_reducible apply keep_checkReshape
    | with_reducible apply keep_clearDies | with_reducible apply keep_giveUpUnits | with_reducible apply keep_updCove
    | with_reducible apply keep_actionEnded | with_reducible apply keep_checkQuota
    | with_reducible apply keep_reshapeLoad | with_reducible apply keep_reshapeStuck
    | with_reducible apply out_next
    | (lift_lets -underBinder; intro x; refine keepCut (s0 := s0) x ?_ ?_; rotate_left; intro hx; clear_value x; rotate_left; subst x)
    | (lift_lets -underBinder; intro x; clear_value x) | split

theorem keep_execSlackFlood (h : Keep s0 s) (a1) : OutKeep s0 (execSlackFlood a1 s) := by
  unfold execSlackFlood
  repeat' first
    | (intro x; clear_value x) | with_reducible assumption | with_reducible apply keep_checkReshape
    | with_reducible apply keep_reshapeStuck | with_reducible apply keep_reshapeLoad | with_reducible apply out_next
    | (lift_lets -underBinder; intro x; first | (refine keepCut (s0 := s0) x ?_ ?_; rotate_left; intro hx; clear_value x; rotate_left; subst x) | clear_value x)
    | split

theorem keep_execSlackReplicaCopy (h : Keep s0 s) (a1 a2) : OutKeep s0 (execSlackReplicaCopy a1 a2 s) := by
  unfold execSlackReplicaCopy
  repeat' first
    | (intro x; refine keepCut (s0 := s0) x ?_ ?_; rotate_left; intro hx; clear_value x; rotate_left; subst x)
    | (intro x; refine keepCutF (s0 := s0) x ?_ ?_; rotate_left; intro hx; clear_value x; rotate_left; subst x)
    | (intro x; clear_value x) | intro x | with_reducible assumption | with_reducible apply keep_deferRest
    | with_reducible apply keep_forEach | with_reducible apply keep_recordCove | with_reducible apply keep_holdCove
    | with_reducible apply keep_setReason | with_reducible apply keep_endEntry | with_reducible apply keep_hbmStore
    | with_reducible apply keep_reshapeEnds | with_reducible apply keep_actionEnded | with_reducible apply out_next
    | (lift_lets -underBinder; intro x; clear_value x) | split | with_reducible apply_assumption

theorem keep_pfOnly (h : Keep s0 s) (a2 a3 a4 a5) (h5 : ∀ x0, Keep s0 x0 → Keep s0 (a5 x0)) :
    Keep s0 (pfOnly s a2 a3 a4 a5) := by
  unfold pfOnly
  repeat' first
    | with_reducible assumption | with_reducible apply h5 | with_reducible apply keep_hostError | split

theorem keep_startCove (h : Keep s0 s) (a2) : Keep s0 (startCove s a2) := by
  unfold startCove
  repeat' first
    | (intro x; refine keepCut (s0 := s0) x ?_ ?_; rotate_left; intro hx; clear_value x; rotate_left; subst x)
    | (intro x; clear_value x) | with_reducible assumption | with_reducible apply keep_setReason
    | with_reducible apply keep_refuseTags | with_reducible apply keep_updCove
    | with_reducible apply keep_tryLoading | (lift_lets -underBinder; intro x; clear_value x) | split

theorem keep_stopCove (h : Keep s0 s) (a2) : Keep s0 (stopCove s a2) := by
  unfold stopCove
  repeat' first
    | intro x | with_reducible apply keep_updCove | with_reducible apply keep_recordCove
    | with_reducible apply keep_updCoveTide | (lift_lets -underBinder; intro x; clear_value x) | split
    | with_reducible apply_assumption

theorem keep_requestHold (h : Keep s0 s) (a2) : Keep s0 (requestHold s a2) := by
  unfold requestHold
  repeat' first
    | with_reducible assumption | with_reducible apply keep_updCove | split

theorem keep_writeCvCtrl (h : Keep s0 s) (a2 a3 a4) : Keep s0 (writeCvCtrl s a2 a3 a4) := by
  unfold writeCvCtrl
  repeat' first
    | with_reducible assumption | with_reducible apply keep_hostError | with_reducible apply keep_startCove
    | with_reducible apply keep_stopCove | with_reducible apply keep_requestHold | split

theorem keep_effectCvCtrlStart (h : Keep s0 s) (a1 a2 a3) : OutKeep s0 (effectCvCtrlStart a1 a2 a3 s) := by
  unfold effectCvCtrlStart
  repeat' first
    | with_reducible assumption | with_reducible apply keep_writeCvCtrl | with_reducible apply out_next

theorem keep_effectCvCtrlStop (h : Keep s0 s) (a1 a2 a3) : OutKeep s0 (effectCvCtrlStop a1 a2 a3 s) := by
  unfold effectCvCtrlStop
  repeat' first
    | with_reducible assumption | with_reducible apply keep_writeCvCtrl | with_reducible apply out_next

theorem keep_effectCvCtrlHold (h : Keep s0 s) (a1 a2 a3) : OutKeep s0 (effectCvCtrlHold a1 a2 a3 s) := by
  unfold effectCvCtrlHold
  repeat' first
    | with_reducible assumption | with_reducible apply keep_writeCvCtrl | with_reducible apply out_next

theorem keep_effectCvDiesWrite (h : Keep s0 s) (a1 a2 a3) : OutKeep s0 (effectCvDiesWrite a1 a2 a3 s) := by
  unfold effectCvDiesWrite
  repeat' first
    | (intro x; refine keepCut (s0 := s0) x ?_ ?_; rotate_left; intro hx; clear_value x; rotate_left; subst x)
    | intro x | with_reducible assumption | with_reducible apply keep_pfOnly | with_reducible apply keep_hostError
    | with_reducible apply keep_setReg | with_reducible apply keep_updCove | with_reducible apply keep_stageBank
    | with_reducible apply keep_recordCove | with_reducible apply keep_startRelease
    | with_reducible apply keep_abortCkpt | with_reducible apply out_next
    | (lift_lets -underBinder; intro x; (refine keepCut (s0 := s0) x ?_ ?_; rotate_left; intro hx; clear_value x; rotate_left; subst x))
    | split

theorem keep_effectCvUmapWrite (h : Keep s0 s) (a1 a2 a3 a4) : OutKeep s0 (effectCvUmapWrite a1 a2 a3 a4 s) := by
  unfold effectCvUmapWrite
  repeat' first
    | (intro x; refine keepCut (s0 := s0) x ?_ ?_; rotate_left; intro hx; clear_value x; rotate_left; subst x)
    | intro x | with_reducible assumption | with_reducible apply keep_pfOnly | with_reducible apply keep_recordCove
    | with_reducible apply keep_hostError | with_reducible apply keep_setReg | with_reducible apply keep_checkQuota
    | with_reducible apply keep_applyMaps | with_reducible apply out_next
    | (lift_lets -underBinder; intro x; clear_value x) | split

theorem keep_effectCvQuotaWrite (h : Keep s0 s) (a1 a2 a3) : OutKeep s0 (effectCvQuotaWrite a1 a2 a3 s) := by
  unfold effectCvQuotaWrite
  repeat' first
    | intro x | with_reducible assumption | with_reducible apply keep_pfOnly | with_reducible apply keep_setReg
    | with_reducible apply keep_checkPortQuota | with_reducible apply keep_checkQuota
    | with_reducible apply keep_startDemotion | with_reducible apply keep_startPromotions
    | with_reducible apply out_next | (lift_lets -underBinder; intro x; clear_value x) | split

theorem keep_effectCvJobtagWrite (h : Keep s0 s) (a1 a2 a3 a4) : OutKeep s0 (effectCvJobtagWrite a1 a2 a3 a4 s) := by
  unfold effectCvJobtagWrite
  repeat' first
    | intro x | with_reducible assumption | with_reducible apply keep_pfOnly | with_reducible apply keep_setReg
    | with_reducible apply keep_applySlackChanges | with_reducible apply out_next
    | (lift_lets -underBinder; intro x; (refine keepCut (s0 := s0) x ?_ ?_; rotate_left; intro hx; clear_value x; rotate_left; subst x))
    | split

theorem keep_execLoadingResourceFree (h : Keep s0 s) (a1) : OutKeep s0 (execLoadingResourceFree a1 s) := by
  unfold execLoadingResourceFree
  repeat' first
    | with_reducible assumption | with_reducible apply keep_tryLoading | with_reducible apply out_next | split

theorem keep_execLoadingEnd (h : Keep s0 s) (a1) : OutKeep s0 (execLoadingEnd a1 s) := by
  unfold execLoadingEnd
  repeat' first
    | with_reducible assumption | with_reducible apply keep_updCove | with_reducible apply keep_holdCove
    | with_reducible apply out_next | split

theorem keep_execReleaseEnd (h : Keep s0 s) (a1) : OutKeep s0 (execReleaseEnd a1 s) := by
  unfold execReleaseEnd
  repeat' first
    | with_reducible assumption | with_reducible apply keep_releaseCove | with_reducible apply out_next | split

theorem keep_effectCvEvalCtrlArm (h : Keep s0 s) (a1 a2 a3) : OutKeep s0 (effectCvEvalCtrlArm a1 a2 a3 s) := by
  unfold effectCvEvalCtrlArm
  repeat' first
    | with_reducible assumption | with_reducible apply keep_updCove | with_reducible apply out_next | split

theorem keep_effectCvSrCtrlEnable (h : Keep s0 s) (a1 a2 a3) : OutKeep s0 (effectCvSrCtrlEnable a1 a2 a3 s) := by
  unfold effectCvSrCtrlEnable
  repeat' first
    | with_reducible assumption | with_reducible apply keep_setReg | with_reducible apply keep_updCove
    | with_reducible apply out_next | (lift_lets -underBinder; intro x; clear_value x) | split

theorem keep_effectCvLdigCtrlEnable (h : Keep s0 s) (a1 a2 a3) : OutKeep s0 (effectCvLdigCtrlEnable a1 a2 a3 s) := by
  unfold effectCvLdigCtrlEnable
  repeat' first
    | with_reducible assumption | with_reducible apply keep_setReg | with_reducible apply keep_updCove
    | with_reducible apply out_next | (lift_lets -underBinder; intro x; clear_value x) | split

theorem keep_effectCvClogCtrlEnable (h : Keep s0 s) (a1 a2 a3) : OutKeep s0 (effectCvClogCtrlEnable a1 a2 a3 s) := by
  unfold effectCvClogCtrlEnable
  repeat' first
    | with_reducible assumption | with_reducible apply keep_updCove | with_reducible apply out_next | split

theorem keep_effectCvClogRdWrite (h : Keep s0 s) (a1 a2 a3) : OutKeep s0 (effectCvClogRdWrite a1 a2 a3 s) := by
  unfold effectCvClogRdWrite
  repeat' first
    | with_reducible assumption | with_reducible apply keep_hostError | with_reducible apply keep_updCove
    | with_reducible apply out_next | split

theorem keep_effectCvBarnWrite (h : Keep s0 s) (a1 a2 a3 a4) : OutKeep s0 (effectCvBarnWrite a1 a2 a3 a4 s) := by
  unfold effectCvBarnWrite
  repeat' first
    | (intro x; refine keepCut (s0 := s0) x ?_ ?_; rotate_left; intro hx; clear_value x; rotate_left; subst x)
    | intro x | with_reducible assumption | with_reducible apply keep_pfOnly | with_reducible apply keep_recordCove
    | with_reducible apply keep_hostError | with_reducible apply keep_setReg | with_reducible apply out_next
    | (lift_lets -underBinder; intro x; clear_value x) | split

theorem keep_effectCvPlaceDataRead (h : Keep s0 s) (a1 a2) : OutKeep s0 (effectCvPlaceDataRead a1 a2 s) := by
  unfold effectCvPlaceDataRead
  repeat' first
    | with_reducible assumption | with_reducible apply keep_setReg | with_reducible apply out_next
    | (simp only [keep_mk]; with_reducible apply keepF_of) | split

theorem keep_updQueue (h : Keep s0 s) (a2 a3) : Keep s0 (updQueue s a2 a3) := by
  unfold updQueue
  repeat' first
    | with_reducible assumption | with_reducible apply keep_updCove
    | (simp only [keep_mk]; with_reducible apply keepF_of) | split

theorem keep_effectLoadQueueDoorbell (h : Keep s0 s) (a1 a2 a3) : OutKeep s0 (effectLoadQueueDoorbell a1 a2 a3 s) := by
  unfold effectLoadQueueDoorbell
  repeat' first
    | with_reducible assumption | with_reducible apply keep_hostError | with_reducible apply keep_updQueue
    | with_reducible apply out_next | split

theorem keep_effectLoadQueueEnable (h : Keep s0 s) (a1 a2 a3) : OutKeep s0 (effectLoadQueueEnable a1 a2 a3 s) := by
  unfold effectLoadQueueEnable
  repeat' first
    | with_reducible assumption | with_reducible apply keep_updQueue | with_reducible apply out_next | split

theorem keep_endLoad (h : Keep s0 s) (a2 a3) : Keep s0 (endLoad s a2 a3) := by
  unfold endLoad
  repeat' first
    | with_reducible assumption | with_reducible apply keep_updQueue | with_reducible apply keep_recordCove
    | with_reducible apply keep_completionLine | split

theorem keep_execLoadEntryStart (h : Keep s0 s) (a1 a2) : OutKeep s0 (execLoadEntryStart a1 a2 s) := by
  unfold execLoadEntryStart
  repeat' first
    | (intro x; refine keepCut (s0 := s0) x ?_ ?_; rotate_left; intro hx; clear_value x; rotate_left; subst x)
    | (intro x; clear_value x) | with_reducible assumption | with_reducible apply keep_updQueue
    | with_reducible apply keep_reserveLine | with_reducible apply keep_recordCove
    | with_reducible apply keep_completionLine | with_reducible apply out_next
    | (lift_lets -underBinder; intro x; clear_value x) | split

theorem keep_execLoadEntryEnd (h : Keep s0 s) (a1) : OutKeep s0 (execLoadEntryEnd a1 s) := by
  unfold execLoadEntryEnd
  repeat' first
    | with_reducible assumption | with_reducible apply keep_endLoad | with_reducible apply out_next | split

theorem keep_loadPiece (h : Keep s0 s) (a2 a3) : MoveKeep s0 (loadPiece s a2 a3) := by
  unfold loadPiece
  repeat' first
    | (intro x; clear_value x) | intro x | with_reducible assumption | with_reducible apply keep_moveAway
    | with_reducible apply keep_markDirty | with_reducible apply keep_moveHere | with_reducible apply keep_landWrite
    | (lift_lets -underBinder; intro x; clear_value x) | split

theorem keep_broadcast (h : Keep s0 s) (a2 a3 a4) : Keep s0 (broadcast s a2 a3 a4).2 := by
  unfold broadcast
  repeat' first
    | intro x | with_reducible assumption | with_reducible apply keep_queueOut | with_reducible apply keep_foldl
    | with_reducible apply keep_foldl_snd | split

theorem keep_noteLoad (h : Keep s0 s) (a2 a3) : Keep s0 (noteLoad s a2 a3) := by
  unfold noteLoad
  repeat' first
    | with_reducible assumption | with_reducible apply keep_updQueue

theorem keep_drawnScales (h : Keep s0 s) (e) : Keep s0 (drawnScales s e) := by
  unfold drawnScales
  split
  · exact keep_freeTick h
  · exact h

theorem keep_runLoad (h : Keep s0 s) (q x ok data) : Keep s0 (runLoad s q x ok data) := by
  have fail : ∀ n, Keep s0 (noteLoad s q { x with ran := true, status := n }) := fun n => keep_noteLoad h _ _
  unfold runLoad
  dsimp only
  split
  · exact fail _
  split
  · exact fail _
  split
  · exact fail _
  refine keep_noteLoad ?_ _ _
  split
  · exact keep_broadcast (keep_drawnScales h _) ..
  · exact keep_drawnScales h _

theorem keep_runImage (h : Keep s0 s) (q x ok data) : Keep s0 (runImage s q x ok data) := by
  have fail : ∀ n, Keep s0 (noteLoad s q { x with ran := true, status := n }) := fun n => keep_noteLoad h _ _
  unfold runImage
  dsimp only
  split
  · exact fail _
  split
  · exact fail _
  split
  · exact fail _
  exact keep_noteLoad (keep_updCove (keep_drawnScales h _) ..) _ _

theorem keep_loadNext (h : Keep s0 s) (q) : Keep s0 (loadNext s q) := by
  unfold loadNext
  split
  · exact h
  split
  · exact h
  split
  · exact keep_noteLoad h _ _
  split
  · exact keep_waits ‹_› (keep_loadPiece h ..)
  · exact keep_noteLoad (keep_fails ‹_› (keep_loadPiece h ..)) _ _
  · exact keep_noteLoad (keep_moved ‹_› (keep_loadPiece h ..)) _ _

theorem keep_loadTick (h : Keep s0 s) : Keep s0 (loadTick s) := by
  unfold loadTick
  repeat' first
    | intro x | with_reducible assumption | with_reducible apply keep_forEach | with_reducible apply keep_loadNext

theorem keep_execLoadEntryNop (h : Keep s0 s) (a1) : OutKeep s0 (execLoadEntryNop a1 s) := by
  unfold execLoadEntryNop
  repeat' first
    | with_reducible assumption | with_reducible apply keep_noteLoad | with_reducible apply out_next | split

theorem keep_execLoadHostCopy (h : Keep s0 s) (a1 a2 a3) : OutKeep s0 (execLoadHostCopy a1 a2 a3 s) := by
  unfold execLoadHostCopy
  repeat' first
    | with_reducible assumption | with_reducible apply keep_runLoad | with_reducible apply keep_hostFailed
    | with_reducible apply out_next | split

theorem keep_execLoadStorageRead (h : Keep s0 s) (a1 a2 a3) : OutKeep s0 (execLoadStorageRead a1 a2 a3 s) := by
  unfold execLoadStorageRead
  repeat' first
    | with_reducible assumption | with_reducible apply keep_runLoad | with_reducible apply out_next | split

theorem keep_execLoadImage (h : Keep s0 s) (a1 a2 a3) : OutKeep s0 (execLoadImage a1 a2 a3 s) := by
  unfold execLoadImage
  repeat' first
    | with_reducible assumption | with_reducible apply keep_runImage | with_reducible apply out_next | split

theorem keep_failEntries (h : Keep s0 s) (a2) : Keep s0 (failEntries s a2) := by
  unfold failEntries
  repeat' first
    | intro x | with_reducible assumption | with_reducible apply keep_forEach | with_reducible apply keep_updQueue

theorem keep_setConn (h : Keep s0 s) (a2 a3) : Keep s0 (setConn s a2 a3) := by
  unfold setConn
  repeat' first
    | with_reducible assumption | (simp only [keep_mk]; with_reducible apply keepF_of)

theorem keep_effectLoadConnConnect (h : Keep s0 s) (a1 a2 a3) : OutKeep s0 (effectLoadConnConnect a1 a2 a3 s) := by
  unfold effectLoadConnConnect
  repeat' first
    | with_reducible assumption | with_reducible apply keep_recordHead | with_reducible apply keep_setConn
    | with_reducible apply out_next | (simp only [keep_mk]; with_reducible apply keepF_of) | split

theorem keep_effectLoadConnDisconnect (h : Keep s0 s) (a1) : OutKeep s0 (effectLoadConnDisconnect a1 s) := by
  unfold effectLoadConnDisconnect
  repeat' first
    | with_reducible assumption | with_reducible apply keep_recordHead | with_reducible apply keep_failEntries
    | with_reducible apply keep_setConn | with_reducible apply out_next | split

theorem keep_execConnectionUp (h : Keep s0 s) (a1 a2) : OutKeep s0 (execConnectionUp a1 a2 s) := by
  unfold execConnectionUp
  repeat' first
    | with_reducible assumption | with_reducible apply keep_recordHead | with_reducible apply keep_setConn
    | with_reducible apply out_next | split

theorem keep_execConnectionDrop (h : Keep s0 s) (a1) : OutKeep s0 (execConnectionDrop a1 s) := by
  unfold execConnectionDrop
  repeat' first
    | with_reducible assumption | with_reducible apply keep_recordHead | with_reducible apply keep_failEntries
    | with_reducible apply keep_setConn | with_reducible apply out_next | split

end Sys2Proof.Laws
end

