-- ==== Sys2Proof/Laws/KeepEngine.lean ====
section
/-!
SUPPORT. The vector, thresher and routine engines, and the commands of a core, keep the build, the queue and canonical memories.
-/
namespace Sys2Proof.Laws
open Sys2Proof Sys2Proof.Machine

variable {s0 s t : State}

theorem keep_vecStroke (h : Keep s0 s) (a2 a3 a4 a5) : Keep s0 (vecStroke s a2 a3 a4 a5) := by
  unfold vecStroke
  repeat' first
    | (intro x; clear_value x) | intro x | with_reducible assumption | with_reducible apply keep_updCtx
    | with_reducible apply keep_chargeSats | with_reducible apply keep_updCore | with_reducible apply wf_memWrite
    | with_reducible apply wf_setElems | (lift_lets -underBinder; intro x; clear_value x) | split

theorem keep_vecIssue (h : Keep s0 s) (a2 a3 a4 a5) : Keep s0 (vecIssue s a2 a3 a4 a5) := by
  unfold vecIssue
  repeat' first
    | intro x | with_reducible assumption | with_reducible apply keep_issueNext | with_reducible apply keep_bumpCore
    | with_reducible apply keep_updCtx | with_reducible apply keep_setCtx | with_reducible apply keep_forEach
    | with_reducible apply keep_vecStroke | split

theorem keep_vecFinish (h : Keep s0 s) (a2 a3 a4 a5) : Keep s0 (vecFinish s a2 a3 a4 a5) := by
  unfold vecFinish
  repeat' first
    | (intro x; refine keepCut (s0 := s0) x ?_ ?_; rotate_left; intro hx; clear_value x; rotate_left; subst x)
    | (intro x; clear_value x) | with_reducible assumption | with_reducible apply keep_bumpCore
    | with_reducible apply keep_updCtx
    | (lift_lets -underBinder; intro x; refine keepCut (s0 := s0) x ?_ ?_; rotate_left; intro hx; clear_value x; rotate_left; subst x)
    | split

theorem keep_vecRun (h : Keep s0 s) (a2 a3 a4 a5) : Keep s0 (vecRun s a2 a3 a4 a5) := by
  unfold vecRun
  repeat' first
    | (intro x; refine keepCut (s0 := s0) x ?_ ?_; rotate_left; intro hx; clear_value x; rotate_left; subst x)
    | (intro x; refine keepCutF (s0 := s0) x ?_ ?_; rotate_left; intro hx; clear_value x; rotate_left; subst x)
    | (intro x; clear_value x) | intro x | with_reducible assumption | with_reducible apply keep_updCtx
    | with_reducible apply keep_vecFinish | with_reducible apply keep_chargeSats | with_reducible apply keep_vecStroke
    | (lift_lets -underBinder; intro x; clear_value x) | split | with_reducible apply_assumption

theorem keep_execVmov (h : Keep s0 s) (a1 a2 a3) : OutKeep s0 (execVmov a1 a2 a3 s) := by
  unfold execVmov
  repeat' first
    | with_reducible assumption | with_reducible apply keep_vecIssue | with_reducible apply out_next

theorem keep_execVadd (h : Keep s0 s) (a1 a2 a3) : OutKeep s0 (execVadd a1 a2 a3 s) := by
  unfold execVadd
  repeat' first
    | with_reducible assumption | with_reducible apply keep_vecIssue | with_reducible apply out_next

theorem keep_execVsub (h : Keep s0 s) (a1 a2 a3) : OutKeep s0 (execVsub a1 a2 a3 s) := by
  unfold execVsub
  repeat' first
    | with_reducible assumption | with_reducible apply keep_vecIssue | with_reducible apply out_next

theorem keep_execVmul (h : Keep s0 s) (a1 a2 a3) : OutKeep s0 (execVmul a1 a2 a3 s) := by
  unfold execVmul
  repeat' first
    | with_reducible assumption | with_reducible apply keep_vecIssue | with_reducible apply out_next

theorem keep_execVfma (h : Keep s0 s) (a1 a2 a3) : OutKeep s0 (execVfma a1 a2 a3 s) := by
  unfold execVfma
  repeat' first
    | with_reducible assumption | with_reducible apply keep_vecIssue | with_reducible apply out_next

theorem keep_execVmin (h : Keep s0 s) (a1 a2 a3) : OutKeep s0 (execVmin a1 a2 a3 s) := by
  unfold execVmin
  repeat' first
    | with_reducible assumption | with_reducible apply keep_vecIssue | with_reducible apply out_next

theorem keep_execVmax (h : Keep s0 s) (a1 a2 a3) : OutKeep s0 (execVmax a1 a2 a3 s) := by
  unfold execVmax
  repeat' first
    | with_reducible assumption | with_reducible apply keep_vecIssue | with_reducible apply out_next

theorem keep_execVdiv (h : Keep s0 s) (a1 a2 a3) : OutKeep s0 (execVdiv a1 a2 a3 s) := by
  unfold execVdiv
  repeat' first
    | with_reducible assumption | with_reducible apply keep_vecIssue | with_reducible apply out_next

theorem keep_execVsqrt (h : Keep s0 s) (a1 a2 a3) : OutKeep s0 (execVsqrt a1 a2 a3 s) := by
  unfold execVsqrt
  repeat' first
    | with_reducible assumption | with_reducible apply keep_vecIssue | with_reducible apply out_next

theorem keep_execVabs (h : Keep s0 s) (a1 a2 a3) : OutKeep s0 (execVabs a1 a2 a3 s) := by
  unfold execVabs
  repeat' first
    | with_reducible assumption | with_reducible apply keep_vecIssue | with_reducible apply out_next

theorem keep_execVneg (h : Keep s0 s) (a1 a2 a3) : OutKeep s0 (execVneg a1 a2 a3 s) := by
  unfold execVneg
  repeat' first
    | with_reducible assumption | with_reducible apply keep_vecIssue | with_reducible apply out_next

theorem keep_execVcmp (h : Keep s0 s) (a1 a2 a3) : OutKeep s0 (execVcmp a1 a2 a3 s) := by
  unfold execVcmp
  repeat' first
    | with_reducible assumption | with_reducible apply keep_vecIssue | with_reducible apply out_next

theorem keep_execVsel (h : Keep s0 s) (a1 a2 a3) : OutKeep s0 (execVsel a1 a2 a3 s) := by
  unfold execVsel
  repeat' first
    | with_reducible assumption | with_reducible apply keep_vecIssue | with_reducible apply out_next

theorem keep_execVsfu (h : Keep s0 s) (a1 a2 a3) : OutKeep s0 (execVsfu a1 a2 a3 s) := by
  unfold execVsfu
  repeat' first
    | with_reducible assumption | with_reducible apply keep_vecIssue | with_reducible apply out_next

theorem keep_execVrsum (h : Keep s0 s) (a1 a2 a3) : OutKeep s0 (execVrsum a1 a2 a3 s) := by
  unfold execVrsum
  repeat' first
    | with_reducible assumption | with_reducible apply keep_vecIssue | with_reducible apply out_next

theorem keep_execVramax (h : Keep s0 s) (a1 a2 a3) : OutKeep s0 (execVramax a1 a2 a3 s) := by
  unfold execVramax
  repeat' first
    | with_reducible assumption | with_reducible apply keep_vecIssue | with_reducible apply out_next

theorem keep_execVrssq (h : Keep s0 s) (a1 a2 a3) : OutKeep s0 (execVrssq a1 a2 a3 s) := by
  unfold execVrssq
  repeat' first
    | with_reducible assumption | with_reducible apply keep_vecIssue | with_reducible apply out_next

theorem keep_execVrand (h : Keep s0 s) (a1 a2 a3) : OutKeep s0 (execVrand a1 a2 a3 s) := by
  unfold execVrand
  repeat' first
    | with_reducible assumption | with_reducible apply keep_vecIssue | with_reducible apply out_next

theorem keep_execVrbits (h : Keep s0 s) (a1 a2 a3) : OutKeep s0 (execVrbits a1 a2 a3 s) := by
  unfold execVrbits
  repeat' first
    | with_reducible assumption | with_reducible apply keep_vecIssue | with_reducible apply out_next

theorem keep_execVbcast (h : Keep s0 s) (a1 a2 a3) : OutKeep s0 (execVbcast a1 a2 a3 s) := by
  unfold execVbcast
  repeat' first
    | with_reducible assumption | with_reducible apply keep_vecIssue | with_reducible apply out_next

theorem keep_execVtos (h : Keep s0 s) (a1 a2 a3) : OutKeep s0 (execVtos a1 a2 a3 s) := by
  unfold execVtos
  repeat' first
    | with_reducible assumption | with_reducible apply keep_vecIssue | with_reducible apply out_next

theorem keep_execVstov (h : Keep s0 s) (a1 a2 a3) : OutKeep s0 (execVstov a1 a2 a3 s) := by
  unfold execVstov
  repeat' first
    | with_reducible assumption | with_reducible apply keep_vecIssue | with_reducible apply out_next

theorem keep_thrIssue (h : Keep s0 s) (a2 a3 a4 a5 a6 a7 a8 a9 a10 a11 a12 a13 a14) : Keep s0 (thrIssue s a2 a3 a4 a5 a6 a7 a8 a9 a10 a11 a12 a13 a14) := by
  unfold thrIssue
  repeat' first
    | intro x | with_reducible assumption | with_reducible apply keep_issueNext | with_reducible apply keep_setCtx

theorem keep_thrBusy (h : Keep s0 s) (a2 a3) : Keep s0 (thrBusy s a2 a3) := by
  unfold thrBusy
  repeat' first
    | with_reducible assumption | with_reducible apply keep_bumpCoveSet

theorem keep_thrDone (h : Keep s0 s) (a2 a3) : Keep s0 (thrDone s a2 a3) := by
  unfold thrDone
  repeat' first
    | intro x | with_reducible assumption | with_reducible apply keep_forEach | with_reducible apply keep_updCtx

theorem keep_updBundle (h : Keep s0 s) (a2 a3 a4) : Keep s0 (updBundle s a2 a3 a4) := by
  unfold updBundle
  repeat' first
    | with_reducible assumption | with_reducible apply keep_updCtx

theorem keep_execTssq (h : Keep s0 s) (a1 a2 a3) : OutKeep s0 (execTssq a1 a2 a3 s) := by
  unfold execTssq
  repeat' first
    | intro x | with_reducible assumption | with_reducible apply keep_thrIssue | with_reducible apply keep_thrBusy
    | with_reducible apply keep_setCtx | with_reducible apply out_next

theorem keep_thrFails (h : Keep s0 s) (a2 a3 a4 a5) : Keep s0 (thrFails s a2 a3 a4 a5) := by
  unfold thrFails
  repeat' first
    | with_reducible assumption | with_reducible apply keep_statusOutcome | with_reducible apply keep_thrDone

theorem keep_tssqRun (h : Keep s0 s) (a2 a3 a4) : Keep s0 (tssqRun s a2 a3 a4) := by
  unfold tssqRun
  repeat' first
    | (intro (x : Memory); subst x) | (intro x; clear_value x) | with_reducible assumption
    | with_reducible apply keep_thrFails | with_reducible apply keep_condemn | with_reducible apply keep_thrBusy
    | with_reducible apply keep_updCtx | (lift_lets -underBinder; intro x; clear_value x) | split

theorem keep_tssqReturn (h : Keep s0 s) (a2 a3 a4 a5) : Keep s0 (tssqReturn s a2 a3 a4 a5) := by
  unfold tssqReturn
  repeat' first
    | (intro x; refine keepCut (s0 := s0) x ?_ ?_; rotate_left; intro hx; clear_value x; rotate_left; subst x)
    | (intro x; clear_value x) | with_reducible assumption | with_reducible apply keep_updThresh
    | with_reducible apply keep_thrDone | with_reducible apply keep_updStats | with_reducible apply keep_discardStep
    | (lift_lets -underBinder; intro x; refine keepCut (s0 := s0) x ?_ ?_; rotate_left; intro hx; clear_value x; rotate_left; subst x)
    | (lift_lets -underBinder; intro x; clear_value x) | split

theorem keep_execTclip (h : Keep s0 s) (a1 a2 a3) : OutKeep s0 (execTclip a1 a2 a3 s) := by
  unfold execTclip
  repeat' first
    | (intro x; refine keepCut (s0 := s0) x ?_ ?_; rotate_left; intro hx; clear_value x; rotate_left; subst x)
    | (intro x; clear_value x) | intro x | with_reducible assumption | with_reducible apply keep_thrIssue
    | with_reducible apply keep_updThresh | with_reducible apply keep_updStats | with_reducible apply keep_thrBusy
    | with_reducible apply keep_record | with_reducible apply out_next
    | (lift_lets -underBinder; intro x; clear_value x) | split

theorem keep_tclipRun (h : Keep s0 s) (a2 a3 a4) : Keep s0 (tclipRun s a2 a3 a4) := by
  unfold tclipRun
  repeat' first
    | (intro x; refine keepCut (s0 := s0) x ?_ ?_; rotate_left; intro hx; clear_value x; rotate_left; subst x)
    | (intro x; clear_value x) | with_reducible assumption | with_reducible apply keep_updThresh
    | with_reducible apply keep_thrDone | with_reducible apply keep_updStats | with_reducible apply keep_thrBusy
    | with_reducible apply keep_record | (lift_lets -underBinder; intro x; clear_value x) | split

theorem keep_execTflag (h : Keep s0 s) (a1 a2 a3) : OutKeep s0 (execTflag a1 a2 a3 s) := by
  unfold execTflag
  repeat' first
    | intro x | with_reducible assumption | with_reducible apply keep_updCtx | with_reducible apply keep_thrIssue
    | with_reducible apply keep_thrBusy | with_reducible apply out_next

theorem keep_tflagRun (h : Keep s0 s) (a2 a3 a4) : Keep s0 (tflagRun s a2 a3 a4) := by
  unfold tflagRun
  repeat' first
    | intro x | with_reducible assumption | with_reducible apply keep_forEach | with_reducible apply keep_thrDone
    | with_reducible apply keep_updCtx | with_reducible apply keep_thrBusy

theorem keep_execTmov (h : Keep s0 s) (a1 a2 a3) : OutKeep s0 (execTmov a1 a2 a3 s) := by
  unfold execTmov
  repeat' first
    | intro x | with_reducible assumption | with_reducible apply keep_thrIssue | with_reducible apply keep_thrBusy
    | with_reducible apply keep_landWrite | with_reducible apply keep_scratchWrite | with_reducible apply out_next
    | split

theorem keep_tmovRun (h : Keep s0 s) (a2 a3 a4) : Keep s0 (tmovRun s a2 a3 a4) := by
  unfold tmovRun
  repeat' first
    | (intro x; refine keepCut (s0 := s0) x ?_ ?_; rotate_left; intro hx; clear_value x; rotate_left; subst x)
    | (intro (x : Bool × State); subst x) | (intro x; clear_value x) | with_reducible assumption
    | with_reducible apply keep_readScratch | with_reducible apply keep_thrDone | with_reducible apply keep_updCtx
    | with_reducible apply keep_landWrite | with_reducible apply keep_thrBusy | with_reducible apply keep_thrFails
    | with_reducible apply keep_condemn | with_reducible apply keep_scratchWrite
    | (lift_lets -underBinder; intro x; clear_value x) | split

theorem keep_execTlin (h : Keep s0 s) (a1 a2 a3) : OutKeep s0 (execTlin a1 a2 a3 s) := by
  unfold execTlin
  repeat' first
    | intro x | with_reducible assumption | with_reducible apply keep_thrIssue
    | with_reducible apply keep_scratchWrite | with_reducible apply keep_updCtx | with_reducible apply keep_thrBusy
    | with_reducible apply out_next

theorem keep_tlinRun (h : Keep s0 s) (a2 a3 a4) : Keep s0 (tlinRun s a2 a3 a4) := by
  unfold tlinRun
  repeat' first
    | (intro x; refine keepCut (s0 := s0) x ?_ ?_; rotate_left; intro hx; clear_value x; rotate_left; subst x)
    | (intro (x : Memory); subst x) | (intro (x : Bool × State); subst x) | (intro x; clear_value x)
    | with_reducible assumption | with_reducible apply keep_readScratch | with_reducible apply keep_thrDone
    | with_reducible apply keep_scratchWrite | with_reducible apply keep_updCtx | with_reducible apply keep_thrBusy
    | (lift_lets -underBinder; intro x; clear_value x) | split

theorem keep_foldShard (h : Keep s0 s) (a2 a3 a4) : Keep s0 (foldShard s a2 a3 a4) := by
  unfold foldShard
  repeat' first
    | with_reducible assumption | with_reducible apply keep_updCove

theorem keep_guardBlock (h : Keep s0 s) (a2 a3) : Keep s0 (guardBlock s a2 a3) := by
  unfold guardBlock
  repeat' first
    | (intro x; clear_value x) | with_reducible assumption | with_reducible apply keep_recordCove
    | with_reducible apply keep_updCkpt | (lift_lets -underBinder; intro x; clear_value x) | split

theorem keep_startUndo (h : Keep s0 s) (a2 a3 a4 a5) : Keep s0 (startUndo s a2 a3 a4 a5).2 := by
  unfold startUndo
  repeat' first
    | (intro x; refine keepCutG (s0 := s0) x ?_ ?_; rotate_left; intro hx; clear_value x; rotate_left; subst x)
    | (intro x; clear_value x) | intro x | with_reducible assumption | with_reducible apply keep_recordCove
    | with_reducible apply keep_updCkpt | with_reducible apply keep_hbmStore
    | (lift_lets -underBinder; intro x; clear_value x) | split | with_reducible apply_assumption

theorem keep_keepBundle (h : Keep s0 s) (a2 a3 a4 a5 a6 a7) : Keep s0 (keepBundle s a2 a3 a4 a5 a6 a7) := by
  unfold keepBundle
  repeat' first
    | with_reducible assumption | with_reducible apply keep_updCkpt

theorem keep_noteRedirect (h : Keep s0 s) (a2 a3 a4 a5 a6) : Keep s0 (noteRedirect s a2 a3 a4 a5 a6) := by
  unfold noteRedirect
  repeat' first
    | (intro x; refine keepCut (s0 := s0) x ?_ ?_; rotate_left; intro hx; clear_value x; rotate_left; subst x)
    | (intro (x : MemState); subst x) | (intro x; clear_value x) | with_reducible assumption
    | with_reducible apply keep_record | with_reducible apply keep_updBundle | with_reducible apply keep_updStats
    | (lift_lets -underBinder; intro x; clear_value x) | (simp only [keep_mk]; with_reducible apply keepF_of) | split

theorem keep_countFeed (h : Keep s0 s) (a2 a3 a4 a5) : Keep s0 (countFeed s a2 a3 a4 a5) := by
  unfold countFeed
  repeat' first
    | (intro x; refine keepCut (s0 := s0) x ?_ ?_; rotate_left; intro hx; clear_value x; rotate_left; subst x)
    | with_reducible assumption | with_reducible apply keep_bumpCoveSet
    | (lift_lets -underBinder; intro x; refine keepCut (s0 := s0) x ?_ ?_; rotate_left; intro hx; clear_value x; rotate_left; subst x)
    | split

theorem keep_feedAway (h : Keep s0 s) (a2 a3 a4 a5 a6 a7 a8 a9 a10) : MoveKeep s0 (feedAway s a2 a3 a4 a5 a6 a7 a8 a9 a10) := by
  unfold feedAway
  repeat' first
    | with_reducible assumption | with_reducible apply keep_bump | with_reducible apply keep_countFeed
    | with_reducible apply keep_sendOn | with_reducible apply keep_markDirty | with_reducible apply move_moved
    | with_reducible apply move_waits | with_reducible apply move_fails
    | (refine keep_admitFor ?_ ‹_ = Admit.granted _ _›) | (lift_lets -underBinder; intro x; clear_value x) | split

theorem keep_feedHere (h : Keep s0 s) (a2 a3 a4 a5 a6 a7 a8 a9) (h9 : ∀ x0, Keep s0 x0 → Keep s0 (a9 x0)) : MoveKeep s0 (feedHere s a2 a3 a4 a5 a6 a7 a8 a9) := by
  unfold feedHere
  repeat' first
    | (intro x; clear_value x) | with_reducible assumption | with_reducible apply h9
    | with_reducible apply keep_refusalNote | with_reducible apply keep_condemn
    | with_reducible apply keep_waitedStacks | with_reducible apply keep_countFeed | with_reducible apply move_moved
    | with_reducible apply move_waits | with_reducible apply move_fails
    | (refine keep_admitFor ?_ ‹_ = Admit.granted _ _›) | (lift_lets -underBinder; intro x; clear_value x) | split

theorem keep_feedRead (h : Keep s0 s) (c cl k i j) : MoveKeep s0 (feedRead s c cl k i j) := by
  have note : ∀ (b : Bool) addr, Keep s0 (if b = true then noteRedirect s c cl k i addr else s) := by
    intro b addr
    split
    · exact keep_noteRedirect h ..
    · exact h
  unfold feedRead
  dsimp only
  split
  · exact move_fails h
  · exact keep_feedHere (note _ _) _ _ _ _ _ _ _ _ fun _ h => keep_updBundle h ..
  · have away := fun b a q d n => keep_feedAway (note b (i.r1.toNat + 4096 * j)) c cl k 2 j a q d n
    split
    · exact move_moved (keep_updBundle (keep_moved ‹_› (away ..)) ..)
    · exact away ..

theorem keep_feedWrite (h : Keep s0 s) (a2 a3 a4 a5 a6) : MoveKeep s0 (feedWrite s a2 a3 a4 a5 a6) := by
  unfold feedWrite
  repeat' first
    | intro x | with_reducible assumption | with_reducible apply keep_noteRedirect
    | with_reducible apply keep_feedHere | with_reducible apply keep_guardBlock | with_reducible apply keep_landWrite
    | with_reducible apply keep_feedAway | with_reducible apply move_fails | split

theorem keep_computeBundle (h : Keep s0 s) (a2 a3 a4 a5) : Keep s0 (computeBundle s a2 a3 a4 a5) := by
  unfold computeBundle
  repeat' first
    | with_reducible assumption | with_reducible apply keep_keepBundle | with_reducible apply keep_updBundle | split

theorem keep_endBundle (h : Keep s0 s) (a2 a3 a4 a5) : Keep s0 (endBundle s a2 a3 a4 a5) := by
  unfold endBundle
  repeat' first
    | with_reducible assumption | with_reducible apply keep_updCtx | with_reducible apply keep_chargeSats
    | with_reducible apply keep_updStats | with_reducible apply keep_record | with_reducible apply keep_bumpCoveSet
    | with_reducible apply keep_updBundle | split

theorem keep_endTupd (h : Keep s0 s) (a2 a3 a4) : Keep s0 (endTupd s a2 a3 a4) := by
  unfold endTupd
  repeat' first
    | (intro x; refine keepCut (s0 := s0) x ?_ ?_; rotate_left; intro hx; clear_value x; rotate_left; subst x)
    | with_reducible assumption | with_reducible apply keep_updStats | with_reducible apply keep_thrDone
    | (lift_lets -underBinder; intro (x : MemState); subst x) | (simp only [keep_mk]; with_reducible apply keepF_of)
    | split

theorem keep_beginTupd (h : Keep s0 s) (c cl k e) : Keep s0 (beginTupd s c cl k e) := by
  have hs := fun f => keep_updStats h c f
  unfold beginTupd
  dsimp only
  split
  · have ht := fun f => keep_thrBusy (keep_thrDone (hs f) cl k) (4 * cl) 1
    split
    · exact ht _
    · exact keep_recordCove (keep_updStats (ht _) ..) ..
  · exact keep_updBundle (keep_startUndo (hs _) ..) ..

theorem keep_afterFeed (h : Keep s0 s) (cl k addr f) {r : MoveStep} (hr : MoveKeep s0 r) :
    Keep s0 (afterFeed s cl k addr r f) := by
  cases r with
  | moved t => exact keep_updBundle (keep_moved rfl hr) _ _ _
  | waits t => exact keep_waits rfl hr
  | fails w t =>
    unfold afterFeed
    refine keep_thrFails ?_ ..
    simp only [keep_mk]
    exact keepF_of (keep_fails rfl hr)

theorem keep_tupdRun (h : Keep s0 s) (cl k e) : Keep s0 (tupdRun s cl k e) := by
  unfold tupdRun
  dsimp only
  split
  · exact h
  split
  · exact keep_beginTupd h ..
  split
  · exact keep_endTupd h ..
  split
  · exact keep_afterFeed h _ _ _ _ (keep_feedRead h ..)
  split
  · exact h
  split
  · split
    · exact keep_thrFails (keep_condemn h ..) ..
    · split
      · exact keep_updBundle (keep_parityCheck h ..) ..
      · exact keep_computeBundle (keep_parityCheck h ..) ..
  split
  · exact keep_afterFeed h _ _ _ _ (keep_feedHere h _ _ _ _ _ _ _ _ fun _ h => keep_hbmStore h _ _)
  · split
    · have hm := keep_moved ‹_› (keep_feedWrite h ..)
      exact keep_updBundle (keep_foldShard (keep_updStats (keep_updCkpt hm ..) ..) ..) ..
    · exact keep_afterFeed h _ _ _ _ (keep_feedWrite h ..)
  · exact keep_endBundle h ..

theorem keep_tupdResponse (h : Keep s0 s) (a2 a3 a4 a5) : Keep s0 (tupdResponse s a2 a3 a4 a5) := by
  unfold tupdResponse
  repeat' first
    | with_reducible assumption | with_reducible apply keep_updBundle

theorem keep_dropBundle (h : Keep s0 s) (a2 a3) : Keep s0 (dropBundle s a2 a3) := by
  unfold dropBundle
  repeat' first
    | with_reducible assumption | with_reducible apply keep_updBundle | split

theorem keep_thrStep (h : Keep s0 s) (a2 a3) : Keep s0 (thrStep s a2 a3) := by
  unfold thrStep
  repeat' first
    | with_reducible assumption | with_reducible apply keep_divergence | with_reducible apply keep_tupdRun
    | with_reducible apply keep_tssqRun | with_reducible apply keep_tclipRun | with_reducible apply keep_tmovRun
    | with_reducible apply keep_tlinRun | with_reducible apply keep_tflagRun | split

theorem keep_execTupd (h : Keep s0 s) (a1 a2 a3) : OutKeep s0 (execTupd a1 a2 a3 s) := by
  unfold execTupd
  repeat' first
    | intro x | with_reducible assumption | with_reducible apply keep_thrIssue | with_reducible apply keep_tupdRun
    | with_reducible apply out_next

theorem keep_execCollectivePoint (h : Keep s0 s) (a1 a2) : OutKeep s0 (execCollectivePoint a1 a2 s) := by
  unfold execCollectivePoint
  repeat' first
    | (intro x; refine keepCut (s0 := s0) x ?_ ?_; rotate_left; intro hx; clear_value x; rotate_left; subst x)
    | (intro x; refine keepCut (s0 := s0) x.2 ?_ ?_; rotate_left; intro hx; clear_value x; rotate_left; subst x)
    | (intro x; clear_value x) | with_reducible assumption | with_reducible apply keep_setCtx
    | with_reducible apply keep_operandFault | with_reducible apply keep_arrive
    | with_reducible apply keep_scratchWrite | with_reducible apply keep_updCtx | with_reducible apply out_next
    | (lift_lets -underBinder; intro x; clear_value x) | (simp only [keep_mk]; with_reducible apply keepF_of)
    | split

theorem keep_returnCell (h : Keep s0 s) (a2 a3 a4) : Keep s0 (returnCell s a2 a3 a4) := by
  unfold returnCell
  repeat' first
    | with_reducible assumption | with_reducible apply keep_tssqReturn | with_reducible apply keep_updCtx | split

theorem keep_execRret (h : Keep s0 s) (a1 a2 a3) : OutKeep s0 (execRret a1 a2 a3 s) := by
  unfold execRret
  repeat' first
    | intro x | with_reducible assumption | with_reducible apply keep_issue | with_reducible apply keep_returnCell
    | with_reducible apply keep_updCtx | with_reducible apply keep_updCore | with_reducible apply keep_settleWait
    | with_reducible apply keep_retire | with_reducible apply out_next | split

theorem keep_execRarg (h : Keep s0 s) (a1 a2 a3) : OutKeep s0 (execRarg a1 a2 a3 s) := by
  unfold execRarg
  repeat' first
    | intro x | with_reducible assumption | with_reducible apply keep_issueNext | with_reducible apply keep_updCtx
    | with_reducible apply out_next

theorem keep_execRsend (h : Keep s0 s) (a1 a2 a3) : OutKeep s0 (execRsend a1 a2 a3 s) := by
  unfold execRsend
  repeat' first
    | intro x | with_reducible assumption | with_reducible apply keep_issueNext | with_reducible apply keep_updCtx
    | with_reducible apply out_next | split

theorem keep_execRglean (h : Keep s0 s) (a1 a2 a3) : OutKeep s0 (execRglean a1 a2 a3 s) := by
  unfold execRglean
  repeat' first
    | intro x | with_reducible assumption | with_reducible apply keep_issueNext | with_reducible apply keep_updCtx
    | with_reducible apply out_next

theorem keep_sendNotice (h : Keep s0 s) (a2 a3 a4 a5 a6 a7 a8) : Keep s0 (sendNotice s a2 a3 a4 a5 a6 a7 a8) := by
  unfold sendNotice
  repeat' first
    | (intro x; clear_value x) | intro x | with_reducible assumption | with_reducible apply keep_scratchWrite
    | with_reducible apply keep_updCore | with_reducible apply keep_forEach | with_reducible apply keep_slotLand
    | with_reducible apply keep_queueOut | (lift_lets -underBinder; intro x; clear_value x) | split

theorem keep_logDecision (h : Keep s0 s) (a2 a3) : Keep s0 (logDecision s a2 a3) := by
  unfold logDecision
  repeat' first
    | (intro x; refine keepCut (s0 := s0) x ?_ ?_; rotate_left; intro hx; clear_value x; rotate_left; subst x)
    | (intro x; clear_value x) | with_reducible assumption | with_reducible apply keep_updStats
    | with_reducible apply keep_updCove | with_reducible apply keep_hbmStore | with_reducible apply keep_recordCove
    | (lift_lets -underBinder; intro x; clear_value x) | split

theorem keep_noteGlean (h : Keep s0 s) (a2 a3 a4 a5 a6 a7 a8) : Keep s0 (noteGlean s a2 a3 a4 a5 a6 a7 a8) := by
  unfold noteGlean
  repeat' first
    | intro x | with_reducible assumption | with_reducible apply keep_updCore
    | with_reducible apply keep_bumpCoveSet | with_reducible apply keep_updStats
    | (lift_lets -underBinder; intro x; clear_value x) | split

theorem keep_decide_ (h : Keep s0 s) (a2 a3 a4 a5 a6 a7 a8 a9 a10 a11) :
    Keep s0 (decide_ s a2 a3 a4 a5 a6 a7 a8 a9 a10 a11) := by
  unfold decide_
  repeat' first
    | with_reducible assumption | with_reducible apply keep_noteGlean | with_reducible apply keep_bumpCoveSet
    | with_reducible apply keep_updStats | with_reducible apply keep_logDecision
    | with_reducible apply keep_callFails | with_reducible apply keep_updCtx | split

theorem keep_endSlots (h : Keep s0 s) (a2 a3 a4 a5 a6 a7 a8 a9 a10 a11) :
    Keep s0 (endSlots s a2 a3 a4 a5 a6 a7 a8 a9 a10 a11) := by
  unfold endSlots
  repeat' first
    | with_reducible assumption | with_reducible apply keep_traceWait | with_reducible apply keep_updCtx

theorem keep_settleSlots (h : Keep s0 s) (a2 a3) : Keep s0 (settleSlots s a2 a3) := by
  unfold settleSlots
  repeat' first
    | (intro x; refine keepCut (s0 := s0) x ?_ ?_; rotate_left; intro hx; clear_value x; rotate_left; subst x)
    | (intro x; clear_value x) | with_reducible assumption | with_reducible apply keep_bumpCoveSet
    | with_reducible apply keep_endSlots | with_reducible apply keep_callFails | with_reducible apply keep_updCtx
    | (lift_lets -underBinder; intro x; clear_value x) | split

theorem keep_execRwait (h : Keep s0 s) (a1 a2 a3) : OutKeep s0 (execRwait a1 a2 a3 s) := by
  unfold execRwait
  repeat' first
    | intro x | with_reducible assumption | with_reducible apply keep_issueNext | with_reducible apply keep_updCtx
    | with_reducible apply keep_sendNotice | with_reducible apply keep_decide_
    | with_reducible apply keep_settleSlots | with_reducible apply out_next | split

theorem keep_execArrivalDeadline (h : Keep s0 s) (a1 a2) : OutKeep s0 (execArrivalDeadline a1 a2 s) := by
  unfold execArrivalDeadline
  repeat' first
    | (intro x; clear_value x) | with_reducible assumption | with_reducible apply keep_sendNotice
    | with_reducible apply keep_settleSlots | with_reducible apply keep_settleWait | with_reducible apply out_next
    | (lift_lets -underBinder; intro x; clear_value x) | split

theorem keep_execVoteTick (h : Keep s0 s) (a1 a2) : OutKeep s0 (execVoteTick a1 a2 s) := by
  unfold execVoteTick
  repeat' first
    | with_reducible assumption | with_reducible apply keep_sendNotice | with_reducible apply keep_settleSlots
    | with_reducible apply keep_decide_ | with_reducible apply out_next
    | (lift_lets -underBinder; intro x; clear_value x) | split

theorem keep_execCollectiveLimit (h : Keep s0 s) (a1 a2) : OutKeep s0 (execCollectiveLimit a1 a2 s) := by
  unfold execCollectiveLimit
  repeat' first
    | with_reducible assumption | with_reducible apply keep_settleSlots | with_reducible apply out_next

theorem keep_travelWrite (h : Keep s0 s) (a2 a3 a4 a5 a6 a7 a8) : Keep s0 (travelWrite s a2 a3 a4 a5 a6 a7 a8) := by
  unfold travelWrite
  repeat' first
    | intro x | with_reducible assumption | with_reducible apply keep_updCore | with_reducible apply wf_memWrite
    | with_reducible apply wf_setElems

theorem keep_execRred (h : Keep s0 s) (a1 a2 a3) : OutKeep s0 (execRred a1 a2 a3 s) := by
  unfold execRred
  repeat' first
    | intro x | with_reducible assumption | with_reducible apply keep_issueNext
    | with_reducible apply keep_travelWrite | with_reducible apply keep_chargeSats
    | with_reducible apply keep_updCtx | with_reducible apply keep_bumpCore | with_reducible apply out_next

theorem keep_rredStroke (h : Keep s0 s) (a2 a3 a4) : Keep s0 (rredStroke s a2 a3 a4) := by
  unfold rredStroke
  repeat' first
    | with_reducible assumption | with_reducible apply keep_travelWrite | with_reducible apply keep_chargeSats
    | with_reducible apply keep_updCtx

theorem keep_execRnarw (h : Keep s0 s) (a1 a2 a3) : OutKeep s0 (execRnarw a1 a2 a3 s) := by
  unfold execRnarw
  repeat' first
    | intro x | with_reducible assumption | with_reducible apply keep_issueNext
    | with_reducible apply keep_travelWrite | with_reducible apply keep_scratchWrite
    | with_reducible apply keep_chargeSats | with_reducible apply keep_updCtx | with_reducible apply keep_bumpCore
    | with_reducible apply out_next | split

theorem keep_rnarwStroke (h : Keep s0 s) (a2 a3 a4) : Keep s0 (rnarwStroke s a2 a3 a4) := by
  unfold rnarwStroke
  repeat' first
    | with_reducible assumption | with_reducible apply keep_travelWrite | with_reducible apply keep_scratchWrite
    | with_reducible apply keep_chargeSats | with_reducible apply keep_updCtx

theorem keep_matTick (h : Keep s0 s) (a2 a3) : Keep s0 (matTick s a2 a3) := by
  unfold matTick
  repeat' first
    | with_reducible assumption | with_reducible apply keep_readScratch | with_reducible apply keep_matStep
    | (lift_lets -underBinder; intro (x : Bool × State); subst x) | split

theorem keep_rtnRun (h : Keep s0 s) (a2 a3 a4) : Keep s0 (rtnRun s a2 a3 a4) := by
  unfold rtnRun
  repeat' first
    | with_reducible assumption | with_reducible apply keep_rredStroke | with_reducible apply keep_rnarwStroke
    | with_reducible apply keep_bumpCore | with_reducible apply keep_updCtx
    | (lift_lets -underBinder; intro x; refine keepCut (s0 := s0) x ?_ ?_; rotate_left; intro hx; clear_value x; rotate_left; subst x)
    | split

theorem keep_vecTick (h : Keep s0 s) (a2 a3) : Keep s0 (vecTick s a2 a3) := by
  unfold vecTick
  repeat' first
    | (intro (x : Bool × State); subst x) | intro x | with_reducible assumption | with_reducible apply keep_bumpCore
    | with_reducible apply keep_readScratch | with_reducible apply keep_parityCheck | with_reducible apply keep_vecRun
    | with_reducible apply keep_rtnRun | with_reducible apply keep_foldl_snd
    | (lift_lets -underBinder; intro (x : Bool × State); subst x) | split

theorem keep_coreTick (h : Keep s0 s) (a2 a3) : Keep s0 (coreTick s a2 a3) := by
  unfold coreTick
  repeat' first
    | with_reducible assumption | with_reducible apply keep_matTick | with_reducible apply keep_vecTick | split

theorem keep_clusterTick (h : Keep s0 s) (a2) : Keep s0 (clusterTick s a2) := by
  unfold clusterTick
  repeat' first
    | intro x | with_reducible assumption | with_reducible apply keep_forEach | with_reducible apply keep_coreTick
    | with_reducible apply keep_thrStep | split

theorem keep_enginesTick (h : Keep s0 s) : Keep s0 (enginesTick s) := by
  unfold enginesTick
  repeat' first
    | intro x | with_reducible assumption | with_reducible apply keep_forEach | with_reducible apply keep_clusterTick

theorem keep_writeSave (h : Keep s0 s) (a2 a3) : Keep s0 (writeSave s a2 a3) := by
  unfold writeSave
  repeat' first
    | with_reducible assumption | with_reducible apply keep_scratchWrite
    | (lift_lets -underBinder; intro x; clear_value x) | split

theorem keep_switchIn (h : Keep s0 s) (a2 a3) : Keep s0 (switchIn s a2 a3) := by
  unfold switchIn
  repeat' first
    | (intro (x : Bool × State); subst x) | with_reducible assumption | with_reducible apply keep_readStorage
    | with_reducible apply keep_updCtx | (lift_lets -underBinder; intro x; clear_value x) | split

theorem keep_switchOut (h : Keep s0 s) (a2 a3) : Keep s0 (switchOut s a2 a3) := by
  unfold switchOut
  repeat' first
    | with_reducible assumption | with_reducible apply keep_writeSave | with_reducible apply keep_discardStream
    | with_reducible apply keep_updCtx | with_reducible apply keep_bumpCore

theorem keep_formOperands (h : Keep s0 s) (a2 a3) : Keep s0 (formOperands s a2 a3) := by
  unfold formOperands
  repeat' first
    | with_reducible assumption | with_reducible apply keep_scratchWrite

theorem keep_runChaff (h : Keep s0 s) (a2 a3 a4) : Keep s0 (runChaff s a2 a3 a4).1 := by
  unfold runChaff
  repeat' first
    | with_reducible assumption | with_reducible apply keep_formOperands | with_reducible apply keep_scratchWrite

theorem keep_startChaff (h : Keep s0 s) (a2) : Keep s0 (startChaff s a2) := by
  unfold startChaff
  repeat' first
    | (intro x; refine keepCut (s0 := s0) x ?_ ?_; rotate_left; intro hx; clear_value x; rotate_left; subst x)
    | (intro x; clear_value x) | with_reducible assumption | with_reducible apply keep_formOperands
    | (lift_lets -underBinder; intro x; clear_value x) | (simp only [keep_mk]; with_reducible apply keepF_of) | split

theorem keep_leaveCluster (h : Keep s0 s) (a2) : Keep s0 (leaveCluster s a2) := by
  unfold leaveCluster
  repeat' first
    | intro x | with_reducible assumption | with_reducible apply keep_forEach | with_reducible apply keep_dropBundle
    | with_reducible apply keep_switchOut | split

theorem keep_enterCluster (h : Keep s0 s) (a2 a3) : Keep s0 (enterCluster s a2 a3) := by
  unfold enterCluster
  repeat' first
    | intro x | with_reducible assumption | with_reducible apply keep_forEach | with_reducible apply keep_startChaff
    | with_reducible apply keep_settleSlots | with_reducible apply keep_settleWait
    | with_reducible apply keep_switchIn | (lift_lets -underBinder; intro x; clear_value x) | split

theorem keep_changeOwner (h : Keep s0 s) (a2 a3) : Keep s0 (changeOwner s a2 a3) := by
  unfold changeOwner
  repeat' first
    | with_reducible assumption | with_reducible apply keep_updCluster | with_reducible apply keep_leaveCluster
    | with_reducible apply keep_enterCluster
    | (lift_lets -underBinder; intro x; refine keepCut (s0 := s0) x ?_ ?_; rotate_left; intro hx; clear_value x; rotate_left; subst x)
    | split

theorem keep_execContextSwitch (h : Keep s0 s) (a1) : OutKeep s0 (execContextSwitch a1 s) := by
  unfold execContextSwitch
  repeat' first
    | with_reducible assumption | with_reducible apply keep_changeOwner | with_reducible apply out_next

theorem keep_scrubCore (h : Keep s0 s) (a2) : Keep s0 (scrubCore s a2) := by
  unfold scrubCore
  repeat' first
    | intro x | with_reducible assumption | with_reducible apply keep_updCore | with_reducible apply keep_forEach
    | with_reducible apply keep_uncorrectableWord | with_reducible apply keep_correctedWord | split

theorem keep_addUpset (h : Keep s0 s) (a2 a3) : Keep s0 (addUpset s a2 a3) := by
  unfold addUpset
  repeat' first
    | intro x | with_reducible assumption | with_reducible apply keep_updCore

theorem keep_execScratchpadScrub (h : Keep s0 s) (a1 a2 a3) : OutKeep s0 (execScratchpadScrub a1 a2 a3 s) := by
  unfold execScratchpadScrub
  repeat' first
    | (intro x; refine keepCut (s0 := s0) x ?_ ?_; rotate_left; intro hx; clear_value x; rotate_left; subst x)
    | (intro x; clear_value x) | intro x | with_reducible assumption | with_reducible apply keep_forEach
    | with_reducible apply keep_addUpset | with_reducible apply keep_scrubCore | with_reducible apply out_next
    | (lift_lets -underBinder; intro x; refine keepCut (s0 := s0) x ?_ ?_; rotate_left; intro hx; clear_value x; rotate_left; subst x)
    | (simp only [keep_mk]; with_reducible apply keepF_of) | split

end Sys2Proof.Laws
end

