-- ==== Sys2Proof/Laws/KeepFabric.lean ====
section
/-!
SUPPORT. Checkpoints, packets, ports, the tide and the health engine keep the build, the queue and canonical memories.
-/
namespace Sys2Proof.Laws
open Sys2Proof Sys2Proof.Machine

variable {s0 s t : State}

theorem keep_ckError (h : Keep s0 s) (a2 a3) : Keep s0 (ckError s a2 a3) := by
  unfold ckError
  repeat' first
    | with_reducible assumption | with_reducible apply keep_hostError

theorem keep_zeroCarries (h : Keep s0 s) (a2) : Keep s0 (zeroCarries s a2) := by
  unfold zeroCarries
  repeat' first
    | intro x | with_reducible assumption | with_reducible apply keep_forEach | with_reducible apply keep_updNear
    | with_reducible apply keep_updCore | with_reducible apply wf_memZero

theorem keep_openCounts (h : Keep s0 s) (a2) : Keep s0 (openCounts s a2) := by
  unfold openCounts
  repeat' first
    | intro x | with_reducible assumption | with_reducible apply keep_freeTick | with_reducible apply keep_forEach
    | with_reducible apply keep_updCore

theorem keep_storeAt (h : Keep s0 s) (a2 a3 a4 a5) : Keep s0 (storeAt s a2 a3 a4 a5) := by
  unfold storeAt
  repeat' first
    | with_reducible assumption | (simp only [keep_mk]; with_reducible apply keepF_of)

theorem keep_writeRegion {a} (h : Keep s0 a.2) (c lbaSize whole r) :
    Keep s0 (writeRegion c lbaSize whole a r).2 := by
  unfold writeRegion
  split
  · exact keep_storeAt h _ _ _ _
  · exact h

theorem keep_writeCheckpoint (h : Keep s0 s) (c lbaSize whole l) :
    Keep s0 (writeCheckpoint s c lbaSize whole l).1 :=
  keep_freeTick (keep_storeAt (keep_foldl_snd h l _ fun _ _ ha => keep_writeRegion ha _ _ _ _) _ _ _ _)

theorem keep_execCheckpointDrainEnd (h : Keep s0 s) (a1 a2 a3) : OutKeep s0 (execCheckpointDrainEnd a1 a2 a3 s) := by
  unfold execCheckpointDrainEnd
  repeat' first
    | (intro x; refine keepCut (s0 := s0) x ?_ ?_; rotate_left; intro hx; clear_value x; rotate_left; subst x)
    | (intro x; refine keepCut (s0 := s0) x.1 ?_ ?_; rotate_left; intro hx; clear_value x; rotate_left; subst x)
    | (intro x; clear_value x) | with_reducible assumption | with_reducible apply keep_writeCheckpoint
    | with_reducible apply keep_updCkpt | with_reducible apply keep_endCkpt | with_reducible apply keep_recordCove
    | with_reducible apply out_next | (lift_lets -underBinder; intro x; clear_value x) | dsimp -zeta only | split

theorem keep_ckptModes (h : Keep s0 s) (a2 a3) : Keep s0 (ckptModes s a2 a3) := by
  unfold ckptModes
  repeat' first
    | with_reducible assumption | with_reducible apply keep_updCkpt

theorem keep_takeCkpt (h : Keep s0 s) (a2 a3) : Keep s0 (takeCkpt s a2 a3) := by
  unfold takeCkpt
  repeat' first
    | with_reducible assumption | with_reducible apply keep_ckError | with_reducible apply keep_updCkpt
    | with_reducible apply keep_reserveLine | split

theorem keep_freezeCkpt (h : Keep s0 s) (a2 a3) : Keep s0 (freezeCkpt s a2 a3) := by
  unfold freezeCkpt
  repeat' first
    | with_reducible assumption | with_reducible apply keep_ckError | with_reducible apply keep_reserveLine
    | with_reducible apply keep_endCkpt | with_reducible apply keep_updCkpt
    | (lift_lets -underBinder; intro x; refine keepCut (s0 := s0) x ?_ ?_; rotate_left; intro hx; clear_value x; rotate_left; subst x)
    | split

theorem keep_execFreezeTick (h : Keep s0 s) (a1) : OutKeep s0 (execFreezeTick a1 s) := by
  unfold execFreezeTick
  repeat' first
    | intro x | with_reducible assumption | with_reducible apply keep_updCkpt | with_reducible apply keep_forEach
    | with_reducible apply keep_switchOut | with_reducible apply keep_updCluster | with_reducible apply out_next
    | (lift_lets -underBinder; intro x; clear_value x) | split

theorem keep_execFreezeLanded (h : Keep s0 s) (a1) : OutKeep s0 (execFreezeLanded a1 s) := by
  unfold execFreezeLanded
  repeat' first
    | with_reducible assumption | with_reducible apply keep_updCkpt | with_reducible apply keep_recordCove
    | with_reducible apply keep_reserveLine | with_reducible apply keep_endCkpt | with_reducible apply out_next
    | (lift_lets -underBinder; intro x; clear_value x) | split

theorem keep_thawCkpt (h : Keep s0 s) (a2) : Keep s0 (thawCkpt s a2) := by
  unfold thawCkpt
  repeat' first
    | (intro x; refine keepCut (s0 := s0) x ?_ ?_; rotate_left; intro hx; clear_value x; rotate_left; subst x)
    | (intro x; clear_value x) | with_reducible assumption | with_reducible apply keep_ckError
    | with_reducible apply keep_reserveLine | with_reducible apply keep_endCkpt | with_reducible apply keep_updCkpt
    | (lift_lets -underBinder; intro x; clear_value x) | split

theorem keep_shiftTicks (h : Keep s0 s) (a2 a3) : Keep s0 (shiftTicks s a2 a3) := by
  unfold shiftTicks
  repeat' first
    | with_reducible assumption | with_reducible apply keep_updCove | with_reducible apply keep_updCoveTide

theorem keep_execThawTick (h : Keep s0 s) (a1) : OutKeep s0 (execThawTick a1 s) := by
  unfold execThawTick
  repeat' first
    | (intro x; refine keepCut (s0 := s0) x ?_ ?_; rotate_left; intro hx; clear_value x; rotate_left; subst x)
    | (intro x; clear_value x) | intro x | with_reducible assumption | with_reducible apply keep_shiftTicks
    | with_reducible apply keep_forEach | with_reducible apply keep_switchIn | with_reducible apply keep_updCluster
    | with_reducible apply keep_recordCove | with_reducible apply keep_endCkpt | with_reducible apply out_next
    | (lift_lets -underBinder; intro x; clear_value x) | split

theorem keep_restoreCkpt (h : Keep s0 s) (a2 a3 a4) : Keep s0 (restoreCkpt s a2 a3 a4) := by
  unfold restoreCkpt
  repeat' first
    | (intro x; clear_value x) | with_reducible assumption | with_reducible apply keep_ckError
    | with_reducible apply keep_reserveLine | with_reducible apply keep_endCkpt | with_reducible apply keep_updCkpt
    | (lift_lets -underBinder; intro x; refine keepCut (s0 := s0) x ?_ ?_; rotate_left; intro hx; clear_value x; rotate_left; subst x)
    | split

theorem keep_restoreHbm (h : Keep s0 s) (a2 a3 a4) : Keep s0 (restoreHbm s a2 a3 a4) := by
  unfold restoreHbm
  repeat' first
    | intro x | with_reducible assumption | with_reducible apply keep_clearMark | with_reducible apply keep_hbmStore
    | with_reducible apply keep_forEach | with_reducible apply keep_queueOut
    | (lift_lets -underBinder; intro x; clear_value x) | split

theorem keep_restoreNear (h : Keep s0 s) (a2 a3 a4) : Keep s0 (restoreNear s a2 a3 a4) := by
  unfold restoreNear
  repeat' first
    | intro x | with_reducible assumption | with_reducible apply keep_clearMark | with_reducible apply keep_updNear
    | with_reducible apply wf_memWrite

theorem keep_restoreRegion (h : Keep s0 s) (a2 a3 a4) : Keep s0 (restoreRegion s a2 a3 a4) := by
  unfold restoreRegion
  repeat' first
    | intro x | with_reducible assumption | with_reducible apply keep_restoreNear | with_reducible apply keep_forEach
    | with_reducible apply keep_scratchWrite | with_reducible apply keep_restoreHbm
    | (lift_lets -underBinder; intro x; clear_value x) | split

theorem keep_resumeImage (h : Keep s0 s) (a2 a3) : Keep s0 (resumeImage s a2 a3) := by
  unfold resumeImage
  repeat' first
    | (intro x; refine keepCut (s0 := s0) x ?_ ?_; rotate_left; intro hx; clear_value x; rotate_left; subst x)
    | (intro (x : Memory); subst x) | (intro x; clear_value x) | with_reducible assumption
    | with_reducible apply keep_updCtx | with_reducible apply keep_updThresh
    | (lift_lets -underBinder; intro x; clear_value x) | split

theorem keep_execRestoreEnd (h : Keep s0 s) (a1 a2 a3) : OutKeep s0 (execRestoreEnd a1 a2 a3 s) := by
  unfold execRestoreEnd
  repeat' first
    | (intro x; refine keepCut (s0 := s0) x ?_ ?_; rotate_left; intro hx; clear_value x; rotate_left; subst x)
    | (intro x; refine keepCutG (s0 := s0) x ?_ ?_; rotate_left; intro hx; clear_value x; rotate_left; subst x)
    | (intro x; clear_value x) | intro x | with_reducible assumption | with_reducible apply keep_updCkpt
    | with_reducible apply keep_endCkpt | with_reducible apply keep_freeTick | with_reducible apply keep_restoreRegion
    | with_reducible apply keep_updCove | with_reducible apply keep_openCounts | with_reducible apply keep_zeroCarries
    | with_reducible apply keep_updCoveTide | with_reducible apply keep_forEach
    | with_reducible apply keep_resumeImage | with_reducible apply keep_holdCove
    | with_reducible apply keep_recordCove | with_reducible apply out_next | with_reducible apply keep_foldl
    | (lift_lets -underBinder; intro x; clear_value x) | split | with_reducible apply_assumption

theorem keep_rollbackCkpt (h : Keep s0 s) (a2) : Keep s0 (rollbackCkpt s a2) := by
  unfold rollbackCkpt
  repeat' first
    | (intro x; refine keepCut (s0 := s0) x ?_ ?_; rotate_left; intro hx; clear_value x; rotate_left; subst x)
    | with_reducible assumption | with_reducible apply keep_discardAnyway | with_reducible apply keep_recordCove
    | with_reducible apply keep_holdCove
    | (lift_lets -underBinder; intro x; refine keepCut (s0 := s0) x ?_ ?_; rotate_left; intro hx; clear_value x; rotate_left; subst x)
    | split

theorem keep_adoptCkpt (h : Keep s0 s) (a2) : Keep s0 (adoptCkpt s a2) := by
  unfold adoptCkpt
  repeat' first
    | with_reducible assumption | with_reducible apply keep_ckError | with_reducible apply keep_updCove
    | with_reducible apply keep_recordCove | with_reducible apply keep_zeroCarries
    | (lift_lets -underBinder; intro x; refine keepCut (s0 := s0) x ?_ ?_; rotate_left; intro hx; clear_value x; rotate_left; subst x)
    | split

theorem keep_writeCkpt (h : Keep s0 s) (a2 a3 a4 a5 a6) : Keep s0 (writeCkpt s a2 a3 a4 a5 a6) := by
  unfold writeCkpt
  repeat' first
    | (intro x; refine keepCut (s0 := s0) x ?_ ?_; rotate_left; intro hx; clear_value x; rotate_left; subst x)
    | with_reducible assumption | with_reducible apply keep_ckptModes | with_reducible apply keep_takeCkpt
    | with_reducible apply keep_freezeCkpt | with_reducible apply keep_thawCkpt
    | with_reducible apply keep_rollbackCkpt | with_reducible apply keep_restoreCkpt
    | with_reducible apply keep_adoptCkpt
    | (lift_lets -underBinder; intro x; refine keepCut (s0 := s0) x ?_ ?_; rotate_left; intro hx; clear_value x; rotate_left; subst x)
    | split

theorem keep_writeCkptPlain (h : Keep s0 s) (a2 a3) : Keep s0 (writeCkptPlain s a2 a3) := by
  unfold writeCkptPlain
  repeat' first
    | with_reducible assumption | with_reducible apply keep_freeTick | with_reducible apply keep_writeCkpt

theorem keep_effectCkptTake (h : Keep s0 s) (a1 a2 a3) : OutKeep s0 (effectCkptTake a1 a2 a3 s) := by
  unfold effectCkptTake
  repeat' first
    | with_reducible assumption | with_reducible apply keep_freeTick | with_reducible apply keep_writeCkpt
    | with_reducible apply out_next

theorem keep_effectCkptFreeze (h : Keep s0 s) (a1 a2 a3) : OutKeep s0 (effectCkptFreeze a1 a2 a3 s) := by
  unfold effectCkptFreeze
  repeat' first
    | with_reducible assumption | with_reducible apply keep_freeTick | with_reducible apply keep_writeCkpt
    | with_reducible apply out_next

theorem keep_effectCkptThaw (h : Keep s0 s) (a1 a2) : OutKeep s0 (effectCkptThaw a1 a2 s) := by
  unfold effectCkptThaw
  repeat' first
    | with_reducible assumption | with_reducible apply keep_writeCkptPlain | with_reducible apply out_next

theorem keep_effectCkptRollback (h : Keep s0 s) (a1 a2) : OutKeep s0 (effectCkptRollback a1 a2 s) := by
  unfold effectCkptRollback
  repeat' first
    | with_reducible assumption | with_reducible apply keep_writeCkptPlain | with_reducible apply out_next

theorem keep_effectCkptRestore (h : Keep s0 s) (a1 a2 a3 a4) : OutKeep s0 (effectCkptRestore a1 a2 a3 a4 s) := by
  unfold effectCkptRestore
  repeat' first
    | with_reducible assumption | with_reducible apply keep_freeTick | with_reducible apply keep_writeCkpt
    | with_reducible apply out_next

theorem keep_effectCkptAdopt (h : Keep s0 s) (a1 a2) : OutKeep s0 (effectCkptAdopt a1 a2 s) := by
  unfold effectCkptAdopt
  repeat' first
    | with_reducible assumption | with_reducible apply keep_writeCkptPlain | with_reducible apply out_next

theorem keep_effectCkptStandinWrite (h : Keep s0 s) (a1 a2) : OutKeep s0 (effectCkptStandinWrite a1 a2 s) := by
  unfold effectCkptStandinWrite
  repeat' first
    | with_reducible assumption | with_reducible apply keep_setReg | with_reducible apply keep_ckError
    | with_reducible apply keep_recordCove | with_reducible apply out_next
    | (simp only [keep_mk]; with_reducible apply keepF_of) | split

theorem keep_effectCkptRemapWrite (h : Keep s0 s) (a1 a2) : OutKeep s0 (effectCkptRemapWrite a1 a2 s) := by
  unfold effectCkptRemapWrite
  repeat' first
    | with_reducible assumption | with_reducible apply keep_ckError | with_reducible apply keep_setReg
    | with_reducible apply keep_recordCove | with_reducible apply out_next
    | (simp only [keep_mk]; with_reducible apply keepF_of) | split

theorem keep_replyTo (h : Keep s0 s) (a2 a3 a4 a5) : Keep s0 (replyTo s a2 a3 a4 a5) := by
  unfold replyTo
  repeat' first
    | with_reducible assumption | with_reducible apply keep_queueOut

theorem keep_statusBack (h : Keep s0 s) (a2 a3 a4) : Keep s0 (statusBack s a2 a3 a4) := by
  unfold statusBack
  repeat' first
    | with_reducible assumption | with_reducible apply keep_replyTo | split

theorem keep_sendAck (h : Keep s0 s) (a2 a3) : Keep s0 (sendAck s a2 a3) := by
  unfold sendAck
  repeat' first
    | with_reducible assumption | with_reducible apply keep_replyTo
    | (simp only [keep_mk]; with_reducible apply keepF_of)

theorem keep_noteStream (h : Keep s0 s) (a2 a3) : Keep s0 (noteStream s a2 a3) := by
  unfold noteStream
  repeat' first
    | (intro x; refine keepCut (s0 := s0) x ?_ ?_; rotate_left; intro hx; clear_value x; rotate_left; subst x)
    | (intro x; clear_value x) | with_reducible assumption | with_reducible apply keep_sendAck
    | (lift_lets -underBinder; intro x; clear_value x) | (simp only [keep_mk]; with_reducible apply keepF_of)
    | split

theorem keep_execAckEmit (h : Keep s0 s) (a1 a2) : OutKeep s0 (execAckEmit a1 a2 s) := by
  unfold execAckEmit
  repeat' first
    | with_reducible assumption | with_reducible apply keep_sendAck | with_reducible apply out_next | split

theorem keep_markLate (h : Keep s0 s) (a2 a3 a4) : Keep s0 (markLate s a2 a3 a4) := by
  unfold markLate
  repeat' first
    | (intro x; refine keepCut (s0 := s0) x ?_ ?_; rotate_left; intro hx; clear_value x; rotate_left; subst x)
    | with_reducible assumption | with_reducible apply keep_bumpCoveSet | with_reducible apply keep_updStats
    | with_reducible apply keep_statusBack | with_reducible apply keep_record
    | (lift_lets -underBinder; intro x; (refine keepCut (s0 := s0) x ?_ ?_; rotate_left; intro hx; clear_value x; rotate_left; subst x))
    | (simp only [keep_mk]; with_reducible apply keepF_of) | split

theorem keep_refusePacket (h : Keep s0 s) (a2 a3 a4 a5) : Keep s0 (refusePacket s a2 a3 a4 a5) := by
  unfold refusePacket
  repeat' first
    | with_reducible assumption | with_reducible apply keep_refusalNote | with_reducible apply keep_tallyFound
    | with_reducible apply keep_statusBack | with_reducible apply keep_updPort | split

theorem keep_holdPacket (h : Keep s0 s) (a2 a3 a4) : Keep s0 (holdPacket s a2 a3 a4) := by
  unfold holdPacket
  repeat' first
    | with_reducible assumption | with_reducible apply keep_refusePacket | with_reducible apply keep_countSkew
    | (lift_lets -underBinder; intro x; clear_value x) | (simp only [keep_mk]; with_reducible apply keepF_of)
    | split

theorem keep_ingressRoom (h : Keep s0 s) (a2 a3 a4 a5) : Keep s0 (ingressRoom s a2 a3 a4 a5) := by
  unfold ingressRoom
  repeat' first
    | intro x | with_reducible assumption | with_reducible apply keep_takeRoom | with_reducible apply keep_foldl

theorem keep_sendFrom (h : Keep s0 s) (a2 a3) : Keep s0 (sendFrom s a2 a3) := by
  unfold sendFrom
  repeat' first
    | with_reducible assumption | with_reducible apply keep_queueOut

theorem keep_landHost (h : Keep s0 s) (a2 a3 a4) : Keep s0 (landHost s a2 a3 a4).2 := by
  unfold landHost
  repeat' first
    | with_reducible assumption | with_reducible apply keep_hostWrite | with_reducible apply keep_hostFailed | split

theorem keep_landBack (h : Keep s0 s) (a2 a3 a4) : Keep s0 (landBack s a2 a3 a4) := by
  unfold landBack
  repeat' first
    | with_reducible assumption | with_reducible apply keep_landWrite | with_reducible apply keep_statusBack
    | with_reducible apply keep_refusalNote | (lift_lets -underBinder; intro x; clear_value x) | split

theorem keep_sendResponse (h : Keep s0 s) (a2 a3 a4 a5) : Keep s0 (sendResponse s a2 a3 a4 a5) := by
  unfold sendResponse
  repeat' first
    | intro x | with_reducible assumption | with_reducible apply keep_landBack | with_reducible apply keep_sendFrom
    | with_reducible apply keep_foldl | split

theorem keep_landChecked (h : Keep s0 s) (port p addr late) : Keep s0 (landChecked s port p addr late) := by
  have hl : Keep s0 (if late = true then markLate s port p (placeCove s (placeOf addr)) else s) := by
    split
    · exact keep_markLate h ..
    · exact h
  unfold landChecked
  dsimp only
  generalize (if late = true then markLate s port p (placeCove s (placeOf addr)) else s) = s at hl
  split
  · exact (keep_mk ..).symm ▸ keepF_of hl
  split
  · split
    · exact keep_refusePacket hl ..
    split
    · exact keep_statusBack (keep_condemn hl ..) ..
    repeat' first
      | exact hl | with_reducible apply keep_statusBack | with_reducible apply keep_readScratch
      | with_reducible apply keep_sendResponse | with_reducible apply keep_ingressRoom | with_reducible apply keep_bump
      | split
  · split
    · exact keep_statusBack (keep_condemn hl ..) ..
    · have ha := fun x op d => keep_atomicAt (keep_ingressRoom hl port (placeOf addr) 1 64) x (placeOf addr) op d
      split
      · exact keep_sendFrom (ha ..) ..
      · exact ha ..
  · have hi := fun n => keep_ingressRoom hl port (placeOf addr) 1 n
    split
    · split
      · split
        · exact keep_slotLand (hi _) ..
        · exact keep_statusBack (keep_slotLand (hi _) ..) ..
      · exact hi _
    · exact keep_landWrite (hi _) ..

theorem keep_landPacket (h : Keep s0 s) (a2 a3 a4) : Keep s0 (landPacket s a2 a3 a4) := by
  unfold landPacket
  repeat' first
    | with_reducible assumption | with_reducible apply keep_refusePacket | with_reducible apply keep_holdPacket
    | with_reducible apply keep_landChecked | split

theorem keep_answered (h : Keep s0 s) (a2 a3 a4 a5) : Keep s0 (answered s a2 a3 a4 a5) := by
  unfold answered
  repeat' first
    | with_reducible assumption | with_reducible apply keep_updWain

theorem keep_refuseResponse (h : Keep s0 s) (a2 a3 a4) : Keep s0 (refuseResponse s a2 a3 a4) := by
  unfold refuseResponse
  repeat' first
    | with_reducible assumption | with_reducible apply keep_refusePacket | with_reducible apply keep_answered
    | (lift_lets -underBinder; intro x; refine keepCut (s0 := s0) x ?_ ?_; rotate_left; intro hx; clear_value x; rotate_left; subst x)
    | split

theorem keep_forwardWrite (h : Keep s0 s) (a2 a3 a4) : Keep s0 (forwardWrite s a2 a3 a4) := by
  unfold forwardWrite
  repeat' first
    | with_reducible assumption | with_reducible apply keep_queueOut | with_reducible apply keep_markDirty

theorem keep_landWainResponse (h : Keep s0 s) (port p late) : Keep s0 (landWainResponse s port p late) := by
  unfold landWainResponse
  dsimp only
  repeat' first
    | exact h | with_reducible apply keep_landHost | with_reducible apply keep_markLate
    | with_reducible apply keep_refuseResponse | with_reducible apply keep_refusePacket
    | with_reducible apply keep_holdPacket | with_reducible apply keep_answered | with_reducible apply keep_foldDigest
    | with_reducible apply keep_forwardWrite | with_reducible apply keep_landChecked | split

theorem keep_landPromoted (h : Keep s0 s) (a2) : Keep s0 (landPromoted s a2) := by
  unfold landPromoted
  repeat' first
    | (intro x; refine keepCut (s0 := s0) x ?_ ?_; rotate_left; intro hx; clear_value x; rotate_left; subst x)
    | (intro (x : MemState); subst x) | with_reducible assumption | with_reducible apply keep_clearMark
    | with_reducible apply keep_hbmWrite | (lift_lets -underBinder; intro x; clear_value x)
    | (simp only [keep_mk]; with_reducible apply keepF_of)

theorem keep_responseFails (h : Keep s0 s) (a2 a3 a4) : Keep s0 (responseFails s a2 a3 a4) := by
  unfold responseFails
  repeat' first
    | with_reducible assumption | with_reducible apply keep_refusePacket | with_reducible apply keep_thrFails
    | with_reducible apply keep_moverStatus
    | (lift_lets -underBinder; intro x; refine keepCut (s0 := s0) x ?_ ?_; rotate_left; intro hx; clear_value x; rotate_left; subst x)
    | split

theorem keep_landResponse (h : Keep s0 s) (a2 a3 a4) : Keep s0 (landResponse s a2 a3 a4) := by
  unfold landResponse
  repeat' first
    | with_reducible assumption | with_reducible apply keep_refuseResponse
    | with_reducible apply keep_landWainResponse | with_reducible apply keep_holdPacket
    | with_reducible apply keep_responseFails | with_reducible apply keep_markLate
    | with_reducible apply keep_tupdResponse | with_reducible apply keep_landPromoted
    | with_reducible apply keep_landWrite
    | (lift_lets -underBinder; intro x; refine keepCut (s0 := s0) x ?_ ?_; rotate_left; intro hx; clear_value x; rotate_left; subst x)
    | split

theorem keep_landAtomicResponse (h : Keep s0 s) (port p late) : Keep s0 (landAtomicResponse s port p late) := by
  have fails : ∀ w, Keep s0 (match descOf s p.srcUnit p with
      | some (k, d) => answered (refusePacket s port p p.dest.toNat w) p.srcUnit k d.seq w
      | none => refusePacket s port p p.dest.toNat w) := by
    intro w
    split
    · exact keep_answered (keep_refusePacket h ..) ..
    · exact keep_refusePacket h ..
  unfold landAtomicResponse
  dsimp only
  split
  · exact keep_holdPacket h ..
  · exact fails _
  · split
    · exact keep_refusePacket h ..
    · split
      · exact fails _
      · have hl : Keep s0 (if late = true then markLate s port p (coveOfCore s p.srcUnit) else s) := by
          split
          · exact keep_markLate h ..
          · exact h
        refine keep_answered ?_ ..
        split
        · exact keep_scratchWrite hl ..
        · exact hl

theorem keep_landAny (h : Keep s0 s) (a2 a3 a4) : Keep s0 (landAny s a2 a3 a4) := by
  unfold landAny
  repeat' first
    | with_reducible assumption | with_reducible apply keep_landResponse
    | with_reducible apply keep_landAtomicResponse | with_reducible apply keep_landPacket | split

theorem keep_releaseFrom (h : Keep s0 s) (n : Nat) (l : List HeldPacket) : Keep s0 (releaseFrom n s l) := by
  induction n generalizing s l with
  | zero => exact h
  | succ n ih =>
    cases l with
    | nil => exact h
    | cons p t =>
      unfold releaseFrom
      refine ih ?_ t
      split
      · exact (keep_mk ..).symm ▸ keepF_of h
      · exact keep_landAny h _ _ _

theorem keep_releaseHeld (h : Keep s0 s) : Keep s0 (releaseHeld s) := by
  unfold releaseHeld
  repeat' first
    | with_reducible assumption | with_reducible apply keep_releaseFrom
    | (simp only [keep_mk]; with_reducible apply keepF_of)

theorem keep_verifySource (h : Keep s0 s) (core d) : Keep s0 (verifySource s core d) := by
  have hu := fun c f => keep_updLedger h c f
  unfold verifySource
  dsimp only
  split
  · split
    · split
      · exact keep_updLedger (keep_wearAdd (hu _ _) ..) ..
      · exact hu _ _
    · exact hu _ _
    · exact hu _ _
  · split
    · split
      · exact keep_condemn h ..
      · split
        · split
          · exact keep_updLedger (keep_wearAdd (hu _ _) ..) ..
          · exact hu _ _
        · exact hu _ _
        · exact hu _ _
    · split
      · split
        · exact keep_updLedger (keep_wearAdd (hu _ _) ..) ..
        · exact hu _ _
      · exact hu _ _
      · exact hu _ _
    · exact h

theorem keep_landStatus (h : Keep s0 s) (a2) : Keep s0 (landStatus s a2) := by
  unfold landStatus
  repeat' first
    | (intro x; clear_value x) | with_reducible assumption | with_reducible apply keep_verifySource
    | with_reducible apply keep_updWain | with_reducible apply keep_updCtx | with_reducible apply keep_statusOutcome
    | with_reducible apply keep_thrFails | with_reducible apply keep_moverStatus | with_reducible apply keep_updCove
    | (lift_lets -underBinder; intro x; clear_value x) | (simp only [keep_mk]; with_reducible apply keepF_of) | split

theorem keep_landAck (h : Keep s0 s) (a2) : Keep s0 (landAck s a2) := by
  unfold landAck
  repeat' first
    | intro x | with_reducible assumption | with_reducible apply keep_forEach | with_reducible apply keep_updPort
    | (lift_lets -underBinder; intro x; clear_value x) | (simp only [keep_mk]; with_reducible apply keepF_of) | split

theorem keep_transit (h : Keep s0 s) (a2 a3) : Keep s0 (transit s a2 a3) := by
  unfold transit
  repeat' first
    | (intro x; refine keepCutG (s0 := s0) x ?_ ?_; rotate_left; intro hx; clear_value x; rotate_left; subst x)
    | (intro x; clear_value x) | intro x | with_reducible assumption | with_reducible apply keep_updPort
    | with_reducible apply keep_recordPort | with_reducible apply keep_statusBack | with_reducible apply keep_queueOut
    | (lift_lets -underBinder; intro x; clear_value x) | split | with_reducible apply_assumption

theorem keep_takePacket (h : Keep s0 s) (a2 a3) : Keep s0 (takePacket s a2 a3) := by
  unfold takePacket
  repeat' first
    | with_reducible assumption | with_reducible apply keep_bump | with_reducible apply keep_transit
    | with_reducible apply keep_landAck | with_reducible apply keep_landStatus | with_reducible apply keep_landAny
    | with_reducible apply keep_noteStream
    | (lift_lets -underBinder; intro x; refine keepCut (s0 := s0) x ?_ ?_; rotate_left; intro hx; clear_value x; rotate_left; subst x)
    | split

theorem keep_receive (h : Keep s0 s) (a2 a3) : Keep s0 (receive s a2 a3) := by
  unfold receive
  repeat' first
    | with_reducible assumption | with_reducible apply keep_updPort | with_reducible apply keep_takePacket | split

theorem keep_execPacketWrite (h : Keep s0 s) (a1 a2) : OutKeep s0 (execPacketWrite a1 a2 s) := by
  unfold execPacketWrite
  repeat' first
    | with_reducible assumption | with_reducible apply keep_receive | with_reducible apply out_next

theorem keep_execPacketReadRequest (h : Keep s0 s) (a1 a2) : OutKeep s0 (execPacketReadRequest a1 a2 s) := by
  unfold execPacketReadRequest
  repeat' first
    | with_reducible assumption | with_reducible apply keep_receive | with_reducible apply out_next

theorem keep_execPacketReadResponse (h : Keep s0 s) (a1 a2) : OutKeep s0 (execPacketReadResponse a1 a2 s) := by
  unfold execPacketReadResponse
  repeat' first
    | with_reducible assumption | with_reducible apply keep_receive | with_reducible apply out_next

theorem keep_execPacketAtomicRequest (h : Keep s0 s) (a1 a2) : OutKeep s0 (execPacketAtomicRequest a1 a2 s) := by
  unfold execPacketAtomicRequest
  repeat' first
    | with_reducible assumption | with_reducible apply keep_receive | with_reducible apply out_next

theorem keep_execPacketAtomicResponse (h : Keep s0 s) (a1 a2) : OutKeep s0 (execPacketAtomicResponse a1 a2 s) := by
  unfold execPacketAtomicResponse
  repeat' first
    | with_reducible assumption | with_reducible apply keep_receive | with_reducible apply out_next

theorem keep_execPacketAcknowledge (h : Keep s0 s) (a1 a2) : OutKeep s0 (execPacketAcknowledge a1 a2 s) := by
  unfold execPacketAcknowledge
  repeat' first
    | with_reducible assumption | with_reducible apply keep_receive | with_reducible apply out_next

theorem keep_execPacketStatus (h : Keep s0 s) (a1 a2) : OutKeep s0 (execPacketStatus a1 a2 s) := by
  unfold execPacketStatus
  repeat' first
    | with_reducible assumption | with_reducible apply keep_receive | with_reducible apply out_next

theorem keep_execPacketTransit (h : Keep s0 s) (a1 a2) : OutKeep s0 (execPacketTransit a1 a2 s) := by
  unfold execPacketTransit
  repeat' first
    | with_reducible assumption | with_reducible apply keep_receive | with_reducible apply out_next | split

theorem keep_execGenerationHoldTimeout (h : Keep s0 s) : OutKeep s0 (execGenerationHoldTimeout s) := by
  unfold execGenerationHoldTimeout
  repeat' first
    | intro x | with_reducible assumption | with_reducible apply keep_forEach
    | with_reducible apply keep_refusePacket | with_reducible apply out_next
    | (simp only [keep_mk]; with_reducible apply keepF_of)

theorem keep_setPortMode (h : Keep s0 s) (a2 a3 a4) : Keep s0 (setPortMode s a2 a3 a4) := by
  unfold setPortMode
  repeat' first
    | with_reducible assumption | with_reducible apply keep_updPort

theorem keep_movePort (h : Keep s0 s) (a2 a3 a4) : Keep s0 (movePort s a2 a3 a4) := by
  unfold movePort
  repeat' first
    | with_reducible assumption | with_reducible apply keep_setPortMode | with_reducible apply keep_recordPort
    | (lift_lets -underBinder; intro x; clear_value x) | split

theorem keep_failOver (h : Keep s0 s) (a2) : Keep s0 (failOver s a2) := by
  unfold failOver
  repeat' first
    | with_reducible assumption | with_reducible apply keep_updPort | with_reducible apply keep_recordPort
    | (lift_lets -underBinder; intro x; clear_value x) | (simp only [keep_mk]; with_reducible apply keepF_of)

theorem keep_fencePort (h : Keep s0 s) (a2 a3) : Keep s0 (fencePort s a2 a3) := by
  unfold fencePort
  repeat' first
    | with_reducible assumption | with_reducible apply keep_fenceNote | with_reducible apply keep_movePort
    | with_reducible apply keep_failOver | (lift_lets -underBinder; intro x; clear_value x) | split

theorem keep_execPresenceLoss (h : Keep s0 s) (a1) : OutKeep s0 (execPresenceLoss a1 s) := by
  unfold execPresenceLoss
  repeat' first
    | (intro x; refine keepCut (s0 := s0) x ?_ ?_; rotate_left; intro hx; clear_value x; rotate_left; subst x)
    | intro x | with_reducible assumption | with_reducible apply keep_forEach | with_reducible apply keep_updPort
    | with_reducible apply keep_recordPort | with_reducible apply keep_fenceNote
    | with_reducible apply keep_setPortMode | with_reducible apply keep_failOver | with_reducible apply out_next
    | (lift_lets -underBinder; intro x; clear_value x) | split

theorem keep_standingFence (h : Keep s0 s) (a2) : Keep s0 (standingFence s a2) := by
  unfold standingFence
  repeat' first
    | with_reducible assumption | with_reducible apply keep_fencePort | split

theorem keep_execPresenceAppear (h : Keep s0 s) (a1) : OutKeep s0 (execPresenceAppear a1 s) := by
  unfold execPresenceAppear
  repeat' first
    | intro x | with_reducible assumption | with_reducible apply keep_forEach | with_reducible apply keep_updPort
    | with_reducible apply keep_setPortMode | with_reducible apply keep_standingFence
    | with_reducible apply keep_movePort | with_reducible apply out_next
    | (lift_lets -underBinder; intro x; refine keepCut (s0 := s0) x ?_ ?_; rotate_left; intro hx; clear_value x; rotate_left; subst x)
    | split

theorem keep_loseOptic (h : Keep s0 s) (a2) : Keep s0 (loseOptic s a2) := by
  unfold loseOptic
  repeat' first
    | (intro x; refine keepCut (s0 := s0) x ?_ ?_; rotate_left; intro hx; clear_value x; rotate_left; subst x)
    | with_reducible assumption | with_reducible apply keep_setPortMode | with_reducible apply keep_fenceNote
    | with_reducible apply keep_movePort | with_reducible apply keep_failOver
    | (lift_lets -underBinder; intro x; clear_value x) | split

theorem keep_execSeekingPattern (h : Keep s0 s) (a1) : OutKeep s0 (execSeekingPattern a1 s) := by
  unfold execSeekingPattern
  repeat' first
    | with_reducible assumption | with_reducible apply keep_updPort | with_reducible apply out_next | split

theorem keep_execPartnerSignalDetect (h : Keep s0 s) (a1) : OutKeep s0 (execPartnerSignalDetect a1 s) := by
  unfold execPartnerSignalDetect
  repeat' first
    | with_reducible assumption | with_reducible apply keep_updPort | with_reducible apply keep_movePort
    | with_reducible apply out_next | split

theorem keep_trainingFails (h : Keep s0 s) (a2) : Keep s0 (trainingFails s a2) := by
  unfold trainingFails
  repeat' first
    | with_reducible assumption | with_reducible apply keep_recordPort | with_reducible apply keep_setPortMode

theorem keep_execTrainingPhaseEnd (h : Keep s0 s) (a1 a2) : OutKeep s0 (execTrainingPhaseEnd a1 a2 s) := by
  unfold execTrainingPhaseEnd
  repeat' first
    | (intro x; refine keepCut (s0 := s0) x ?_ ?_; rotate_left; intro hx; clear_value x; rotate_left; subst x)
    | intro x | with_reducible assumption | with_reducible apply keep_trainingFails
    | with_reducible apply keep_updPort | with_reducible apply keep_recordPort | with_reducible apply keep_fenceNote
    | with_reducible apply keep_setPortMode | with_reducible apply out_next
    | (lift_lets -underBinder; intro x; refine keepCut (s0 := s0) x ?_ ?_; rotate_left; intro hx; clear_value x; rotate_left; subst x)
    | (lift_lets -underBinder; intro x; refine keepCutG (s0 := s0) x ?_ ?_; rotate_left; intro hx; clear_value x; rotate_left; subst x)
    | (lift_lets -underBinder; intro x; clear_value x) | (simp only [keep_mk]; with_reducible apply keepF_of) | split
    | with_reducible apply_assumption

theorem keep_execTrainingTimeout (h : Keep s0 s) (a1) : OutKeep s0 (execTrainingTimeout a1 s) := by
  unfold execTrainingTimeout
  repeat' first
    | with_reducible assumption | with_reducible apply keep_trainingFails | with_reducible apply out_next | split

theorem keep_retrain (h : Keep s0 s) (a2) : Keep s0 (retrain s a2) := by
  unfold retrain
  repeat' first
    | (intro x; refine keepCut (s0 := s0) x ?_ ?_; rotate_left; intro hx; clear_value x; rotate_left; subst x)
    | (intro x; clear_value x) | with_reducible assumption | with_reducible apply keep_updPort
    | with_reducible apply keep_wearAdd | with_reducible apply keep_updLedger | with_reducible apply keep_recordPort
    | with_reducible apply keep_setPortMode | with_reducible apply keep_fenceNote | with_reducible apply keep_failOver
    | (lift_lets -underBinder; intro x; clear_value x) | split

theorem keep_execLaneLockLost (h : Keep s0 s) (a1) : OutKeep s0 (execLaneLockLost a1 s) := by
  unfold execLaneLockLost
  repeat' first
    | with_reducible assumption | with_reducible apply keep_retrain | with_reducible apply out_next

theorem keep_execUncorrectableLimit (h : Keep s0 s) (a1) : OutKeep s0 (execUncorrectableLimit a1 s) := by
  unfold execUncorrectableLimit
  repeat' first
    | with_reducible assumption | with_reducible apply keep_retrain | with_reducible apply out_next | split

theorem keep_execSerCheck (h : Keep s0 s) (a1 a2 a3) : OutKeep s0 (execSerCheck a1 a2 a3 s) := by
  unfold execSerCheck
  repeat' first
    | with_reducible assumption | with_reducible apply keep_updPort | with_reducible apply keep_retrain
    | with_reducible apply out_next
    | (lift_lets -underBinder; intro x; refine keepCut (s0 := s0) x ?_ ?_; rotate_left; intro hx; clear_value x; rotate_left; subst x)
    | split

theorem keep_secondRetry (h : Keep s0 s) (a2) : Keep s0 (secondRetry s a2) := by
  unfold secondRetry
  repeat' first
    | with_reducible assumption | with_reducible apply keep_updPort | with_reducible apply keep_updLedger
    | with_reducible apply keep_wearAdd | with_reducible apply keep_recordPort

theorem keep_nakTaken (h : Keep s0 s) (a2 a3) : Keep s0 (nakTaken s a2 a3) := by
  unfold nakTaken
  repeat' first
    | (intro x; refine keepCut (s0 := s0) x ?_ ?_; rotate_left; intro hx; clear_value x; rotate_left; subst x)
    | (intro x; clear_value x) | with_reducible assumption | with_reducible apply keep_updPort
    | with_reducible apply keep_secondRetry | with_reducible apply keep_wearAdd
    | (lift_lets -underBinder; intro x; clear_value x) | split

theorem keep_execNakReceive (h : Keep s0 s) (a1 a2) : OutKeep s0 (execNakReceive a1 a2 s) := by
  unfold execNakReceive
  repeat' first
    | with_reducible assumption | with_reducible apply keep_nakTaken | with_reducible apply out_next | split

theorem keep_sendCodeword (h : Keep s0 s) (a2) : Keep s0 (sendCodeword s a2) := by
  unfold sendCodeword
  repeat' first
    | (intro x; refine keepCut (s0 := s0) x ?_ ?_; rotate_left; intro hx; clear_value x; rotate_left; subst x)
    | (intro x; clear_value x) | with_reducible assumption | with_reducible apply keep_updPort
    | (lift_lets -underBinder; intro x; clear_value x) | (simp only [keep_mk]; with_reducible apply keepF_of)

theorem keep_linkTick (h : Keep s0 s) : Keep s0 (linkTick s) := by
  unfold linkTick
  repeat' first
    | intro x | with_reducible assumption | with_reducible apply keep_forEach | with_reducible apply keep_sendCodeword
    | (lift_lets -underBinder; intro x; clear_value x) | split

theorem keep_countUncorr (h : Keep s0 s) (a2) : Keep s0 (countUncorr s a2) := by
  unfold countUncorr
  repeat' first
    | with_reducible assumption | with_reducible apply keep_updPort

theorem keep_sendNak (h : Keep s0 s) (a2 a3) : Keep s0 (sendNak s a2 a3) := by
  unfold sendNak
  repeat' first
    | with_reducible assumption | with_reducible apply keep_updPort

theorem keep_execNakResendTimeout (h : Keep s0 s) (a1) : OutKeep s0 (execNakResendTimeout a1 s) := by
  unfold execNakResendTimeout
  repeat' first
    | intro x | with_reducible assumption | with_reducible apply keep_forEach | with_reducible apply keep_secondRetry
    | with_reducible apply keep_sendNak | with_reducible apply out_next | split

theorem keep_releasePort (h : Keep s0 s) (a2) : Keep s0 (releasePort s a2) := by
  unfold releasePort
  repeat' first
    | (intro x; refine keepCut (s0 := s0) x ?_ ?_; rotate_left; intro hx; clear_value x; rotate_left; subst x)
    | with_reducible assumption | with_reducible apply keep_updPort | with_reducible apply keep_setPortMode
    | with_reducible apply keep_recordPort | (lift_lets -underBinder; intro x; clear_value x) | split

theorem keep_writeFabCtrl (h : Keep s0 s) (a2 a3) : Keep s0 (writeFabCtrl s a2 a3) := by
  unfold writeFabCtrl
  repeat' first
    | (intro x; refine keepCut (s0 := s0) x ?_ ?_; rotate_left; intro hx; clear_value x; rotate_left; subst x)
    | with_reducible assumption | with_reducible apply keep_updPort | with_reducible apply keep_fencePort
    | with_reducible apply keep_releasePort | with_reducible apply keep_hostError
    | (lift_lets -underBinder; intro x; clear_value x) | split

theorem keep_effectFabCtrlHfenceSet (h : Keep s0 s) (a1 a2) : OutKeep s0 (effectFabCtrlHfenceSet a1 a2 s) := by
  unfold effectFabCtrlHfenceSet
  repeat' first
    | with_reducible assumption | with_reducible apply keep_writeFabCtrl | with_reducible apply out_next

theorem keep_effectFabCtrlHfenceClear (h : Keep s0 s) (a1 a2) : OutKeep s0 (effectFabCtrlHfenceClear a1 a2 s) := by
  unfold effectFabCtrlHfenceClear
  repeat' first
    | with_reducible assumption | with_reducible apply keep_writeFabCtrl | with_reducible apply out_next

theorem keep_effectFabCtrlEnClear (h : Keep s0 s) (a1 a2) : OutKeep s0 (effectFabCtrlEnClear a1 a2 s) := by
  unfold effectFabCtrlEnClear
  repeat' first
    | with_reducible assumption | with_reducible apply keep_writeFabCtrl | with_reducible apply out_next

theorem keep_effectFabCtrlRelease (h : Keep s0 s) (a1 a2) : OutKeep s0 (effectFabCtrlRelease a1 a2 s) := by
  unfold effectFabCtrlRelease
  repeat' first
    | with_reducible assumption | with_reducible apply keep_writeFabCtrl | with_reducible apply out_next

theorem keep_updRouteCtrl (h : Keep s0 s) (a2) : Keep s0 (updRouteCtrl s a2) := by
  unfold updRouteCtrl
  repeat' first
    | with_reducible assumption | (simp only [keep_mk]; with_reducible apply keepF_of)

theorem keep_effectRouteDataWrite (h : Keep s0 s) (a1) : OutKeep s0 (effectRouteDataWrite a1 s) := by
  unfold effectRouteDataWrite
  repeat' first
    | with_reducible assumption | with_reducible apply keep_recordHead | with_reducible apply keep_hostError
    | with_reducible apply out_next | (simp only [keep_mk]; with_reducible apply keepF_of) | split

theorem keep_writeRouteCtrl (h : Keep s0 s) (a2) : Keep s0 (writeRouteCtrl s a2) := by
  unfold writeRouteCtrl
  repeat' first
    | (intro x; refine keepCut (s0 := s0) x ?_ ?_; rotate_left; intro hx; clear_value x; rotate_left; subst x)
    | with_reducible assumption | with_reducible apply keep_updRouteCtrl | with_reducible apply keep_hostError
    | (lift_lets -underBinder; intro x; clear_value x) | split

theorem keep_effectRouteSwitchArm (h : Keep s0 s) (a1) : OutKeep s0 (effectRouteSwitchArm a1 s) := by
  unfold effectRouteSwitchArm
  repeat' first
    | with_reducible assumption | with_reducible apply keep_writeRouteCtrl | with_reducible apply out_next

theorem keep_effectRouteReapply (h : Keep s0 s) (a1) : OutKeep s0 (effectRouteReapply a1 s) := by
  unfold effectRouteReapply
  repeat' first
    | with_reducible assumption | with_reducible apply keep_writeRouteCtrl | with_reducible apply out_next

theorem keep_publishBounds (h : Keep s0 s) : Keep s0 (publishBounds s) := by
  unfold publishBounds
  repeat' first
    | with_reducible assumption | (simp only [keep_mk]; with_reducible apply keepF_of)

theorem keep_switchRoutes (h : Keep s0 s) (a2) : Keep s0 (switchRoutes s a2) := by
  unfold switchRoutes
  repeat' first
    | (intro x; refine keepCut (s0 := s0) x ?_ ?_; rotate_left; intro hx; clear_value x; rotate_left; subst x)
    | with_reducible assumption | with_reducible apply keep_publishBounds | with_reducible apply keep_updRouteCtrl
    | with_reducible apply keep_recordHead | (lift_lets -underBinder; intro x; clear_value x)
    | (simp only [keep_mk]; with_reducible apply keepF_of) | split

theorem keep_reapplyRoutes (h : Keep s0 s) (bad : List Nat) : Keep s0 (reapplyRoutes s bad) := by
  have lag : ∀ l, Keep s0 { s with fab := { s.fab with routeLag := l } } := fun l => (keep_mk ..).symm ▸ keepF_of h
  unfold reapplyRoutes
  dsimp only
  split
  · exact keep_recordHead (keep_updRouteCtrl (lag _) _) _ _ _
  · exact keep_recordHead (keep_updRouteCtrl (lag _) _) _ _ _

theorem keep_execRouteSwitchTick (h : Keep s0 s) (a1) : OutKeep s0 (execRouteSwitchTick a1 s) := by
  unfold execRouteSwitchTick
  repeat' first
    | with_reducible assumption | with_reducible apply keep_switchRoutes | with_reducible apply keep_updRouteCtrl
    | with_reducible apply out_next | split

theorem keep_execRouteReapplyTick (h : Keep s0 s) (a1) : OutKeep s0 (execRouteReapplyTick a1 s) := by
  unfold execRouteReapplyTick
  repeat' first
    | with_reducible assumption | with_reducible apply keep_reapplyRoutes | with_reducible apply keep_updRouteCtrl
    | with_reducible apply out_next | split

theorem keep_execMarkPulse (h : Keep s0 s) : OutKeep s0 (execMarkPulse s) := by
  have tide : ∀ x, Keep s0 { s with tide := x } := fun _ => (keep_mk ..).symm ▸ keepF_of h
  have mode : ∀ (u : State) x, Keep s0 u → Keep s0 { u with fw := x } := fun _ _ hu => (keep_mk ..).symm ▸ keepF_of hu
  unfold execMarkPulse
  refine out_next ?_
  split
  · split
    · exact h
    · have ht := tide { s.tide with now := markCount s.tide, marked := true }
      dsimp only
      split
      · exact keep_recordHead (mode { s with tide := { s.tide with now := markCount s.tide, marked := true } } _ ht) ..
      · exact ht
  · split
    · exact keep_recordHead (tide _) ..
    · exact h

theorem keep_execReferenceLost (h : Keep s0 s) : OutKeep s0 (execReferenceLost s) := by
  unfold execReferenceLost
  repeat' first
    | with_reducible assumption | with_reducible apply keep_recordHead | with_reducible apply out_next
    | (simp only [keep_mk]; with_reducible apply keepF_of) | split

theorem keep_execReferenceRestored (h : Keep s0 s) : OutKeep s0 (execReferenceRestored s) := by
  unfold execReferenceRestored
  repeat' first
    | with_reducible assumption | with_reducible apply keep_recordHead | with_reducible apply out_next
    | (simp only [keep_mk]; with_reducible apply keepF_of) | split

theorem keep_execReferenceFound (h : Keep s0 s) : OutKeep s0 (execReferenceFound s) := by
  unfold execReferenceFound
  repeat' first
    | with_reducible assumption | with_reducible apply out_next
    | (simp only [keep_mk]; with_reducible apply keepF_of) | split

theorem keep_chooseParent (h : Keep s0 s) : Keep s0 (chooseParent s) := by
  unfold chooseParent
  repeat' first
    | (intro x; refine keepCut (s0 := s0) x ?_ ?_; rotate_left; intro hx; clear_value x; rotate_left; subst x)
    | (intro x; clear_value x) | with_reducible assumption | with_reducible apply keep_recordHead
    | (lift_lets -underBinder; intro x; clear_value x) | (simp only [keep_mk]; with_reducible apply keepF_of)
    | split

theorem keep_sendTime (h : Keep s0 s) (a2 a3) : Keep s0 (sendTime s a2 a3) := by
  unfold sendTime
  repeat' first
    | with_reducible assumption | with_reducible apply keep_queueOut

theorem keep_execTimeTransferSend (h : Keep s0 s) (a1 a2) : OutKeep s0 (execTimeTransferSend a1 a2 s) := by
  unfold execTimeTransferSend
  repeat' first
    | (intro x; refine keepCut (s0 := s0) x ?_ ?_; rotate_left; intro hx; clear_value x; rotate_left; subst x)
    | with_reducible assumption | with_reducible apply keep_sendTime | with_reducible apply out_next
    | (lift_lets -underBinder; intro x; clear_value x) | (simp only [keep_mk]; with_reducible apply keepF_of) | split

theorem keep_execTimeTransferRequest (h : Keep s0 s) (a1 a2 a3 a4) : OutKeep s0 (execTimeTransferRequest a1 a2 a3 a4 s) := by
  unfold execTimeTransferRequest
  repeat' first
    | with_reducible assumption | with_reducible apply keep_sendTime | with_reducible apply out_next
    | (lift_lets -underBinder; intro x; clear_value x) | split

theorem keep_judgeAlignment (h : Keep s0 s) : Keep s0 (judgeAlignment s) := by
  unfold judgeAlignment
  repeat' first
    | (intro x; refine keepCut (s0 := s0) x ?_ ?_; rotate_left; intro hx; clear_value x; rotate_left; subst x)
    | (intro x; clear_value x) | with_reducible assumption | with_reducible apply keep_recordHead
    | (lift_lets -underBinder; intro x; clear_value x) | (simp only [keep_mk]; with_reducible apply keepF_of)
    | split

theorem keep_takeOffset (h : Keep s0 s) (a2) : Keep s0 (takeOffset s a2) := by
  unfold takeOffset
  repeat' first
    | with_reducible assumption | with_reducible apply keep_judgeAlignment
    | (simp only [keep_mk]; with_reducible apply keepF_of) | split

theorem keep_execTimeTransferResponse (h : Keep s0 s) (a1 a2 a3) : OutKeep s0 (execTimeTransferResponse a1 a2 a3 s) := by
  unfold execTimeTransferResponse
  repeat' first
    | (intro x; refine keepCut (s0 := s0) x ?_ ?_; rotate_left; intro hx; clear_value x; rotate_left; subst x)
    | (intro x; clear_value x) | with_reducible assumption | with_reducible apply keep_recordHead
    | with_reducible apply keep_chooseParent | with_reducible apply keep_takeOffset | with_reducible apply out_next
    | (lift_lets -underBinder; intro x; clear_value x) | (simp only [keep_mk]; with_reducible apply keepF_of)
    | split

theorem keep_execHoldoverLimit (h : Keep s0 s) : OutKeep s0 (execHoldoverLimit s) := by
  unfold execHoldoverLimit
  repeat' first
    | with_reducible assumption | with_reducible apply keep_chooseParent | with_reducible apply keep_recordHead
    | with_reducible apply out_next | (simp only [keep_mk]; with_reducible apply keepF_of) | split

theorem keep_effectTideDataWrite (h : Keep s0 s) (a1) : OutKeep s0 (effectTideDataWrite a1 s) := by
  unfold effectTideDataWrite
  repeat' first
    | with_reducible assumption | with_reducible apply keep_hostError | with_reducible apply keep_setTable
    | with_reducible apply out_next | (simp only [keep_mk]; with_reducible apply keepF_of) | split

theorem keep_updMswitch (h : Keep s0 s) (a2) : Keep s0 (updMswitch s a2) := by
  unfold updMswitch
  repeat' first
    | with_reducible assumption | (simp only [keep_mk]; with_reducible apply keepF_of)

theorem keep_updCswitch (h : Keep s0 s) (a2 a3) : Keep s0 (updCswitch s a2 a3) := by
  unfold updCswitch
  repeat' first
    | with_reducible assumption | with_reducible apply keep_updCoveTide

theorem keep_writeMswitch (h : Keep s0 s) (a2) : Keep s0 (writeMswitch s a2) := by
  unfold writeMswitch
  repeat' first
    | (intro x; refine keepCut (s0 := s0) x ?_ ?_; rotate_left; intro hx; clear_value x; rotate_left; subst x)
    | (intro x; refine keepCutF (s0 := s0) x ?_ ?_; rotate_left; intro hx; clear_value x; rotate_left; subst x)
    | intro x | with_reducible apply keep_recordHead | with_reducible apply keep_updMswitch
    | (lift_lets -underBinder; intro x; clear_value x) | dsimp -zeta only | split | with_reducible apply_assumption

theorem keep_effectModuleSwitchArm (h : Keep s0 s) (a1) : OutKeep s0 (effectModuleSwitchArm a1 s) := by
  unfold effectModuleSwitchArm
  repeat' first
    | with_reducible assumption | with_reducible apply keep_writeMswitch | with_reducible apply out_next

theorem keep_effectModuleSwitchReapply (h : Keep s0 s) (a1) : OutKeep s0 (effectModuleSwitchReapply a1 s) := by
  unfold effectModuleSwitchReapply
  repeat' first
    | with_reducible assumption | with_reducible apply keep_writeMswitch | with_reducible apply out_next

theorem keep_writeCswitch (h : Keep s0 s) (a2 a3) : Keep s0 (writeCswitch s a2 a3) := by
  unfold writeCswitch
  repeat' first
    | (intro x; refine keepCut (s0 := s0) x ?_ ?_; rotate_left; intro hx; clear_value x; rotate_left; subst x)
    | (intro x; refine keepCutF (s0 := s0) x ?_ ?_; rotate_left; intro hx; clear_value x; rotate_left; subst x)
    | intro x | with_reducible apply keep_recordCove | with_reducible apply keep_updCswitch
    | (lift_lets -underBinder; intro x; clear_value x) | dsimp -zeta only | split | with_reducible apply_assumption

theorem keep_effectCoveSwitchArm (h : Keep s0 s) (a1 a2) : OutKeep s0 (effectCoveSwitchArm a1 a2 s) := by
  unfold effectCoveSwitchArm
  repeat' first
    | with_reducible assumption | with_reducible apply keep_writeCswitch | with_reducible apply out_next

theorem keep_effectCoveSwitchReapply (h : Keep s0 s) (a1 a2) : OutKeep s0 (effectCoveSwitchReapply a1 a2 s) := by
  unfold effectCoveSwitchReapply
  repeat' first
    | with_reducible assumption | with_reducible apply keep_writeCswitch | with_reducible apply out_next

theorem keep_noteLag (h : Keep s0 s) (a2 a3) : Keep s0 (noteLag s a2 a3) := by
  unfold noteLag
  repeat' first
    | intro x | with_reducible assumption | with_reducible apply keep_forEach | with_reducible apply keep_record

theorem keep_notePwr (h : Keep s0 t) (old : State) : Keep s0 (notePwr old t) := by
  unfold notePwr
  split
  · exact h
  · exact (keep_mk ..).symm ▸ keepF_of h

theorem keep_voidSteps (h : Keep s0 s) : Keep s0 (voidSteps s) := by
  unfold voidSteps
  repeat' first
    | intro x | with_reducible assumption | with_reducible apply keep_forEach | with_reducible apply keep_updStats

theorem keep_hotUpdate (h : Keep s0 s) : Keep s0 (hotUpdate s) := by
  unfold hotUpdate
  repeat' first
    | with_reducible assumption | with_reducible apply keep_voidSteps | with_reducible apply keep_notePwr
    | (simp only [keep_mk]; with_reducible apply keepF_of) | split

theorem keep_execModuleSwitchTick (h : Keep s0 s) (a1 a2) : OutKeep s0 (execModuleSwitchTick a1 a2 s) := by
  unfold execModuleSwitchTick
  repeat' first
    | intro x | with_reducible assumption | with_reducible apply keep_updMswitch
    | with_reducible apply keep_recordHead | with_reducible apply keep_noteLag
    | with_reducible apply keep_switchRoutes | with_reducible apply keep_forEach
    | with_reducible apply keep_checkPortQuota | with_reducible apply keep_releaseHeld
    | with_reducible apply keep_hotUpdate | with_reducible apply out_next
    | (simp only [keep_mk]; with_reducible apply keepF_of) | split

theorem keep_stillLag (h : Keep s0 s) (a2 a3 a4) : Keep s0 (stillLag s a2 a3 a4) := by
  unfold stillLag
  repeat' first
    | intro x | with_reducible assumption | with_reducible apply keep_forEach | with_reducible apply keep_record
    | with_reducible apply keep_coveFatal | with_reducible apply keep_moduleFatal
    | with_reducible apply keep_recordHead | (lift_lets -underBinder; intro x; clear_value x) | split

theorem keep_execModuleReapplyTick (h : Keep s0 s) (a1 a2) : OutKeep s0 (execModuleReapplyTick a1 a2 s) := by
  unfold execModuleReapplyTick
  repeat' first
    | with_reducible assumption | with_reducible apply keep_updMswitch | with_reducible apply keep_recordHead
    | with_reducible apply keep_stillLag | with_reducible apply keep_reapplyRoutes
    | with_reducible apply keep_releaseHeld | with_reducible apply out_next
    | (simp only [keep_mk]; with_reducible apply keepF_of) | split

theorem keep_execCoveSwitchTick (h : Keep s0 s) (a1 a2 a3) : OutKeep s0 (execCoveSwitchTick a1 a2 a3 s) := by
  unfold execCoveSwitchTick
  repeat' first
    | intro x | with_reducible apply keep_recordCove | with_reducible apply keep_updCswitch
    | with_reducible apply keep_deferRest | with_reducible apply keep_switchBank
    | with_reducible apply keep_updCoveTide | with_reducible apply keep_releaseHeld
    | with_reducible apply keep_actionEnded | with_reducible apply keep_noteLag | with_reducible apply out_next
    | (lift_lets -underBinder; intro x; (refine keepCutF (s0 := s0) x ?_ ?_; rotate_left; intro hx; clear_value x; rotate_left; subst x))
    | split | with_reducible apply_assumption

theorem keep_execCoveReapplyTick (h : Keep s0 s) (a1 a2 a3) : OutKeep s0 (execCoveReapplyTick a1 a2 a3 s) := by
  unfold execCoveReapplyTick
  repeat' first
    | with_reducible assumption | with_reducible apply keep_updCoveTide | with_reducible apply keep_updCswitch
    | with_reducible apply keep_recordCove | with_reducible apply keep_stillLag
    | with_reducible apply keep_releaseHeld | with_reducible apply out_next | split

theorem keep_execClockChangeEnd (h : Keep s0 s) (a1) : OutKeep s0 (execClockChangeEnd a1 s) := by
  unfold execClockChangeEnd
  repeat' first
    | with_reducible assumption | with_reducible apply keep_updCoveTide | with_reducible apply out_next | split

theorem keep_effectTideCRestartWrite (h : Keep s0 s) (a1 a2 a3) : OutKeep s0 (effectTideCRestartWrite a1 a2 a3 s) := by
  unfold effectTideCRestartWrite
  repeat' first
    | with_reducible assumption | with_reducible apply keep_hostError | with_reducible apply keep_updCoveTide
    | with_reducible apply out_next | split

theorem keep_refreshed (h : Keep s0 s) (a2 a3) : Keep s0 (refreshed s a2 a3) := by
  unfold refreshed
  repeat' first
    | with_reducible assumption | with_reducible apply keep_bump
    | (simp only [keep_mk]; with_reducible apply keepF_of)

theorem keep_execRefreshWindow (h : Keep s0 s) (a1) : OutKeep s0 (execRefreshWindow a1 s) := by
  unfold execRefreshWindow
  repeat' first
    | (intro x; clear_value x) | with_reducible assumption | with_reducible apply keep_refreshed
    | with_reducible apply out_next | (lift_lets -underBinder; intro x; clear_value x) | split

theorem keep_execStolenRefreshWindow (h : Keep s0 s) (a1) : OutKeep s0 (execStolenRefreshWindow a1 s) := by
  unfold execStolenRefreshWindow
  repeat' first
    | with_reducible assumption | with_reducible apply keep_record | with_reducible apply keep_bump
    | with_reducible apply keep_refreshed | with_reducible apply out_next | split

theorem keep_settleCtx (h : Keep s0 s) (a2 a3) : Keep s0 (settleCtx s a2 a3) := by
  unfold settleCtx
  repeat' first
    | with_reducible assumption | with_reducible apply keep_settleSlots | with_reducible apply keep_settleWait
    | split

theorem keep_scrubBad (h : Keep s0 s) (a2 a3) : Keep s0 (scrubBad s a2 a3) := by
  unfold scrubBad
  repeat' first
    | with_reducible assumption | with_reducible apply keep_record | with_reducible apply keep_condemnPlace
    | with_reducible apply keep_updLedger

theorem keep_execHbmScrub (h : Keep s0 s) (a1 a2 a3) : OutKeep s0 (execHbmScrub a1 a2 a3 s) := by
  unfold execHbmScrub
  repeat' first
    | (intro x; refine keepCut (s0 := s0) x ?_ ?_; rotate_left; intro hx; clear_value x; rotate_left; subst x)
    | (intro (x : MemState); subst x) | (intro x; clear_value x) | intro x | with_reducible assumption
    | with_reducible apply keep_bump | with_reducible apply keep_forEach | with_reducible apply keep_updLedger
    | with_reducible apply keep_wearAdd | with_reducible apply keep_scrubBad | with_reducible apply out_next
    | (lift_lets -underBinder; intro x; refine keepCut (s0 := s0) x ?_ ?_; rotate_left; intro hx; clear_value x; rotate_left; subst x)
    | (simp only [keep_mk]; with_reducible apply keepF_of) | split

theorem keep_execNearMemoryScrub (h : Keep s0 s) (a1 a2 a3) : OutKeep s0 (execNearMemoryScrub a1 a2 a3 s) := by
  unfold execNearMemoryScrub
  repeat' first
    | (intro x; refine keepCut (s0 := s0) x ?_ ?_; rotate_left; intro hx; clear_value x; rotate_left; subst x)
    | (intro (x : MemState); subst x) | (intro x; clear_value x) | intro x | with_reducible assumption
    | with_reducible apply keep_forEach | with_reducible apply keep_updLedger | with_reducible apply keep_wearAdd
    | with_reducible apply keep_scrubBad | with_reducible apply out_next
    | (lift_lets -underBinder; intro x; refine keepCut (s0 := s0) x ?_ ?_; rotate_left; intro hx; clear_value x; rotate_left; subst x)
    | (simp only [keep_mk]; with_reducible apply keepF_of) | split

theorem keep_setLease (h : Keep s0 s) (a2 a3) : Keep s0 (setLease s a2 a3) := by
  unfold setLease
  repeat' first
    | with_reducible assumption | (simp only [keep_mk]; with_reducible apply keepF_of)

theorem keep_endLease (h : Keep s0 s) (a2) : Keep s0 (endLease s a2) := by
  unfold endLease
  repeat' first
    | intro x | with_reducible assumption | with_reducible apply keep_forEach | with_reducible apply keep_passFrames

theorem keep_beginLease (h : Keep s0 s) (a2 a3) : Keep s0 (beginLease s a2 a3) := by
  unfold beginLease
  repeat' first
    | intro x | with_reducible assumption | with_reducible apply keep_passFrames | with_reducible apply keep_forEach
    | with_reducible apply keep_leaseZeroing

theorem keep_effectLeaseTableWrite (h : Keep s0 s) (a1 a2) : OutKeep s0 (effectLeaseTableWrite a1 a2 s) := by
  unfold effectLeaseTableWrite
  repeat' first
    | (intro x; refine keepCut (s0 := s0) x ?_ ?_; rotate_left; intro hx; clear_value x; rotate_left; subst x)
    | (intro x; clear_value x) | with_reducible assumption | with_reducible apply keep_endLease
    | with_reducible apply keep_recordHead | with_reducible apply keep_setLease | with_reducible apply keep_beginLease
    | with_reducible apply out_next | (lift_lets -underBinder; intro x; clear_value x) | split

theorem keep_chaffLoser (h : Keep s0 s) (a1 a3) : Keep s0 (chaffLoser a1 s a3) := by
  unfold chaffLoser
  repeat' first
    | with_reducible assumption | with_reducible apply keep_wearAdd | with_reducible apply keep_updLedger
    | with_reducible apply keep_fenceCoreWith

theorem keep_undecided (h : Keep s0 s) (a2) : Keep s0 (undecided s a2) := by
  unfold undecided
  repeat' first
    | intro x | with_reducible assumption | with_reducible apply keep_recordHead | with_reducible apply keep_forEach
    | with_reducible apply keep_wearAdd

theorem keep_openArb (h : Keep s0 s) (a2) : Keep s0 (openArb s a2) := by
  unfold openArb
  repeat' first
    | with_reducible assumption | (simp only [keep_mk]; with_reducible apply keepF_of)

theorem keep_judge (h : Keep s0 s) (a2) : Keep s0 (judge s a2) := by
  unfold judge
  repeat' first
    | (intro x; refine keepCut (s0 := s0) x ?_ ?_; rotate_left; intro hx; clear_value x; rotate_left; subst x)
    | intro x | with_reducible apply keep_openArb | with_reducible apply keep_undecided
    | with_reducible apply keep_recordHead | with_reducible apply keep_forEach
    | with_reducible apply keep_chaffLoser
    | (lift_lets -underBinder; intro x; first | (refine keepCutG (s0 := s0) x ?_ ?_; rotate_left; intro hx; clear_value x; rotate_left; subst x) | clear_value x)
    | (simp only [keep_mk]; with_reducible apply keepF_of) | dsimp -zeta only | split
    | with_reducible apply_assumption

theorem keep_comparePair (h : Keep s0 s) (a2) : Keep s0 (comparePair s a2) := by
  unfold comparePair
  repeat' first
    | with_reducible assumption | with_reducible apply keep_judge
    | (simp only [keep_mk]; with_reducible apply keepF_of) | split

theorem keep_postOwn (h : Keep s0 s) (a2 a3 a4) : Keep s0 (postOwn s a2 a3 a4) := by
  unfold postOwn
  repeat' first
    | (intro x; refine keepCut (s0 := s0) x ?_ ?_; rotate_left; intro hx; clear_value x; rotate_left; subst x)
    | (intro x; clear_value x) | with_reducible assumption | with_reducible apply keep_comparePair
    | (lift_lets -underBinder; intro x; first | (refine keepCut (s0 := s0) x ?_ ?_; rotate_left; intro hx; clear_value x; rotate_left; subst x) | clear_value x | skip)
    | (simp only [keep_mk]; with_reducible apply keepF_of) | split

theorem keep_postDirected (h : Keep s0 s) (a2 a3) : Keep s0 (postDirected s a2 a3) := by
  unfold postDirected
  repeat' first
    | (intro x; refine keepCut (s0 := s0) x ?_ ?_; rotate_left; intro hx; clear_value x; rotate_left; subst x)
    | (intro x; clear_value x) | with_reducible assumption | with_reducible apply keep_openArb
    | (lift_lets -underBinder; intro x; first | (refine keepCut (s0 := s0) x ?_ ?_; rotate_left; intro hx; clear_value x; rotate_left; subst x) | clear_value x | skip)
    | (simp only [keep_mk]; with_reducible apply keepF_of) | split

theorem keep_execChaffRunEnd (h : Keep s0 s) (core wrong) : OutKeep s0 (execChaffRunEnd core wrong s) := by
  have run : ∀ slot, Keep s0 (runChaff s core slot wrong).1 := fun slot => keep_runChaff h ..
  unfold execChaffRunEnd
  refine out_next ?_
  split
  · exact h
  split
  · exact keep_postOwn (run _) ..
  split
  · exact keep_postDirected (run _) ..
  split
  · refine keep_comparePair ?_ _
    exact (keep_mk ..).symm ▸ keepF_of (run _)
  · exact h

theorem keep_missPair (h : Keep s0 s) (a1 a3) : Keep s0 (missPair a1 s a3) := by
  unfold missPair
  repeat' first
    | (intro x; refine keepCut (s0 := s0) x ?_ ?_; rotate_left; intro hx; clear_value x; rotate_left; subst x)
    | (intro x; clear_value x) | with_reducible assumption | with_reducible apply keep_record
    | (lift_lets -underBinder; intro x; first | (refine keepCut (s0 := s0) x ?_ ?_; rotate_left; intro hx; clear_value x; rotate_left; subst x) | clear_value x | skip)
    | (simp only [keep_mk]; with_reducible apply keepF_of) | split

theorem keep_execChaffRound (h : Keep s0 s) : OutKeep s0 (execChaffRound s) := by
  unfold execChaffRound
  repeat' first
    | (intro x; refine keepCut (s0 := s0) x ?_ ?_; rotate_left; intro hx; clear_value x; rotate_left; subst x)
    | (intro x; clear_value x) | intro x | with_reducible assumption | with_reducible apply keep_forEach
    | with_reducible apply keep_missPair | with_reducible apply keep_undecided
    | with_reducible apply keep_startChaff | with_reducible apply out_next | with_reducible apply keep_forEach
    | with_reducible apply keep_foldl
    | (lift_lets -underBinder; intro x; first | (refine keepCut (s0 := s0) x ?_ ?_; rotate_left; intro hx; clear_value x; rotate_left; subst x) | clear_value x | skip)
    | (simp only [keep_mk]; with_reducible apply keepF_of) | split

theorem keep_wearScore (h : Keep s0 s) (a1 a3) : Keep s0 (wearScore a1 s a3) := by
  unfold wearScore
  repeat' first
    | (intro x; refine keepCut (s0 := s0) x ?_ ?_; rotate_left; intro hx; clear_value x; rotate_left; subst x)
    | (intro x; clear_value x) | with_reducible assumption | with_reducible apply keep_updPort
    | with_reducible apply keep_updLedger | with_reducible apply keep_record
    | (lift_lets -underBinder; intro x; clear_value x) | (simp only [keep_mk]; with_reducible apply keepF_of) | split

theorem keep_execWearScoreUpdate (h : Keep s0 s) : OutKeep s0 (execWearScoreUpdate s) := by
  unfold execWearScoreUpdate
  repeat' first
    | intro x | with_reducible assumption | with_reducible apply keep_forEach | with_reducible apply keep_wearRoll
    | with_reducible apply keep_wearScore | with_reducible apply out_next

theorem keep_ledgerHour (h : Keep s0 s) (a2) : Keep s0 (ledgerHour s a2) := by
  unfold ledgerHour
  repeat' first
    | with_reducible assumption | with_reducible apply keep_updLedger

theorem keep_writeLedger (h : Keep s0 s) (a2) : Keep s0 (writeLedger s a2) := by
  unfold writeLedger
  repeat' first
    | with_reducible assumption | with_reducible apply keep_recordHead
    | (simp only [keep_mk]; with_reducible apply keepF_of) | split

theorem keep_execLifeLedgerWrite (h : Keep s0 s) (a1) : OutKeep s0 (execLifeLedgerWrite a1 s) := by
  unfold execLifeLedgerWrite
  repeat' first
    | intro x | with_reducible assumption | with_reducible apply keep_forEach | with_reducible apply keep_ledgerHour
    | with_reducible apply keep_writeLedger | with_reducible apply out_next
    | (simp only [keep_mk]; with_reducible apply keepF_of)

theorem keep_effectHealthLedgerDataRead (h : Keep s0 s) : OutKeep s0 (effectHealthLedgerDataRead s) := by
  unfold effectHealthLedgerDataRead
  repeat' first
    | with_reducible assumption | with_reducible apply keep_setReg | with_reducible apply out_next
    | (simp only [keep_mk]; with_reducible apply keepF_of)

theorem keep_fenceShore (h : Keep s0 s) (a2 a3) : Keep s0 (fenceShore s a2 a3) := by
  unfold fenceShore
  repeat' first
    | (intro x; refine keepCut (s0 := s0) x ?_ ?_; rotate_left; intro hx; clear_value x; rotate_left; subst x)
    | intro x | with_reducible assumption | with_reducible apply keep_moduleFatal
    | with_reducible apply keep_fenceNote | with_reducible apply keep_forEach | with_reducible apply keep_loseOptic
    | with_reducible apply keep_fencePort | (lift_lets -underBinder; intro x; clear_value x)
    | (simp only [keep_mk]; with_reducible apply keepF_of) | split

theorem keep_fenceFrame (h : Keep s0 s) (a2 a3) : Keep s0 (fenceFrame s a2 a3) := by
  unfold fenceFrame
  repeat' first
    | (intro x; refine keepCut (s0 := s0) x ?_ ?_; rotate_left; intro hx; clear_value x; rotate_left; subst x)
    | with_reducible assumption | with_reducible apply keep_fenceNote | with_reducible apply keep_wearAdd
    | with_reducible apply keep_updLedger | with_reducible apply keep_record
    | (lift_lets -underBinder; intro x; clear_value x) | (simp only [keep_mk]; with_reducible apply keepF_of) | split

theorem keep_failLoads (h : Keep s0 s) (a2) : Keep s0 (failLoads s a2) := by
  unfold failLoads
  repeat' first
    | intro x | with_reducible assumption | with_reducible apply keep_forEach | with_reducible apply keep_updCove
    | (simp only [keep_mk]; with_reducible apply keepF_of)

theorem keep_loseDie (h : Keep s0 s) (a2 a3) : Keep s0 (loseDie s a2 a3) := by
  unfold loseDie
  repeat' first
    | intro x | with_reducible assumption | with_reducible apply keep_fenceDie | with_reducible apply keep_forEach
    | with_reducible apply keep_failLoads

theorem keep_fenceUnit (h : Keep s0 s) (a2 a3 a4) : Keep s0 (fenceUnit s a2 a3 a4) := by
  unfold fenceUnit
  repeat' first
    | with_reducible assumption | with_reducible apply keep_fenceCore | with_reducible apply keep_fenceCluster
    | with_reducible apply keep_loseDie | with_reducible apply keep_fenceShore
    | with_reducible apply keep_fenceFrame | split

theorem keep_writeFenceCmd (h : Keep s0 s) (a2) : Keep s0 (writeFenceCmd s a2) := by
  unfold writeFenceCmd
  repeat' first
    | (intro x; refine keepCut (s0 := s0) x ?_ ?_; rotate_left; intro hx; clear_value x; rotate_left; subst x)
    | (intro x; clear_value x) | with_reducible assumption | with_reducible apply keep_hostError
    | with_reducible apply keep_fenceUnit | with_reducible apply keep_fenceEntry
    | (lift_lets -underBinder; intro x; first | (refine keepCut (s0 := s0) x ?_ ?_; rotate_left; intro hx; clear_value x; rotate_left; subst x) | clear_value x | skip)
    | (simp only [keep_mk]; with_reducible apply keepF_of) | split

theorem keep_effectHealthFence (h : Keep s0 s) (a1) : OutKeep s0 (effectHealthFence a1 s) := by
  unfold effectHealthFence
  repeat' first
    | with_reducible assumption | with_reducible apply keep_writeFenceCmd | with_reducible apply out_next

theorem keep_effectHealthFenceClear (h : Keep s0 s) (a1) : OutKeep s0 (effectHealthFenceClear a1 s) := by
  unfold effectHealthFenceClear
  repeat' first
    | with_reducible assumption | with_reducible apply keep_writeFenceCmd | with_reducible apply out_next

end Sys2Proof.Laws
end

