-- ==== Sys2Proof/Laws/KeepModule.lean ====
section
/-!
SUPPORT. The commands of boot, recovery, trace, firmware, power and the tray keep the build, the queue and canonical
memories.
-/
namespace Sys2Proof.Laws
open Sys2Proof Sys2Proof.Machine

variable {s0 s t : State}

theorem keep_setSlotImage (h : Keep s0 s) (a2 a3) : Keep s0 (setSlotImage s a2 a3) := by
  unfold setSlotImage
  repeat' first
    | with_reducible assumption | (simp only [keep_mk]; with_reducible apply keepF_of) | split

theorem keep_writeRec (h : Keep s0 s) (a2 a3) : Keep s0 (writeRec s a2 a3) := by
  unfold writeRec
  repeat' first
    | with_reducible assumption | (simp only [keep_mk]; with_reducible apply keepF_of)

theorem keep_setLog (h : Keep s0 s) (a2) : Keep s0 (setLog s a2) := by
  unfold setLog
  repeat' first
    | with_reducible assumption | (lift_lets -underBinder; intro x; clear_value x)
    | (simp only [keep_mk]; with_reducible apply keepF_of)

theorem keep_swapLog (h : Keep s0 s) : Keep s0 (swapLog s) := by
  unfold swapLog
  repeat' first
    | with_reducible assumption | (lift_lets -underBinder; intro x; clear_value x)
    | (simp only [keep_mk]; with_reducible apply keepF_of)

theorem keep_eraseOther (h : Keep s0 s) : Keep s0 (eraseOther s) := by
  unfold eraseOther
  repeat' first
    | with_reducible assumption | with_reducible apply keep_recordHead
    | (lift_lets -underBinder; intro x; clear_value x) | (simp only [keep_mk]; with_reducible apply keepF_of)

theorem keep_turnLog (h : Keep s0 s) : Keep s0 (turnLog s) := by
  unfold turnLog
  repeat' first
    | with_reducible assumption | with_reducible apply keep_recordHead | with_reducible apply keep_setLog
    | (lift_lets -underBinder; intro x; clear_value x) | (simp only [keep_mk]; with_reducible apply keepF_of) | split

theorem keep_appendRec (h : Keep s0 s) (a2 a3) : Keep s0 (appendRec s a2 a3) := by
  unfold appendRec
  repeat' first
    | (intro x; refine keepCut (s0 := s0) x ?_ ?_; rotate_left; intro hx; clear_value x; rotate_left; subst x)
    | (intro x; clear_value x) | with_reducible assumption | with_reducible apply keep_turnLog
    | with_reducible apply keep_setLog | with_reducible apply keep_writeRec | with_reducible apply keep_eraseOther
    | (lift_lets -underBinder; intro x; refine keepCut (s0 := s0) x ?_ ?_; rotate_left; intro hx; clear_value x; rotate_left; subst x)
    | split

theorem keep_governLog (h : Keep s0 s) : Keep s0 (governLog s) := by
  unfold governLog
  repeat' first
    | (intro x; clear_value x) | with_reducible assumption | with_reducible apply keep_swapLog
    | (lift_lets -underBinder; intro x; clear_value x) | split

theorem keep_neutralRecord (h : Keep s0 s) : Keep s0 (neutralRecord s) := by
  unfold neutralRecord
  repeat' first
    | with_reducible assumption | with_reducible apply keep_appendRec

theorem keep_settingsPorts (h : Keep s0 s) (a2) : Keep s0 (settingsPorts s a2) := by
  unfold settingsPorts
  repeat' first
    | intro x | with_reducible assumption | with_reducible apply keep_forEach | with_reducible apply keep_updPort

theorem keep_settingsModule (h : Keep s0 s) (l : List (Nat × List Byte)) : Keep s0 (settingsModule s l) := by
  unfold settingsModule
  dsimp only
  rw [keep_mk]
  exact ⟨h.cu, h.pending, fun _ hc => by rw [hc, Bool.true_or], h.memories⟩

theorem keep_checkRole (h : Keep s0 s) : Keep s0 (checkRole s) := by
  unfold checkRole
  repeat' first
    | with_reducible assumption | with_reducible apply keep_recordHead | split

theorem keep_applySettings (h : Keep s0 s) (a2) : Keep s0 (applySettings s a2) := by
  unfold applySettings
  repeat' first
    | with_reducible assumption | with_reducible apply keep_settingsModule | with_reducible apply keep_settingsPorts
    | with_reducible apply keep_recordHead | with_reducible apply keep_checkRole | split

theorem keep_enterHarbour (h : Keep s0 s) (a2) : Keep s0 (enterHarbour s a2) := by
  unfold enterHarbour
  repeat' first
    | intro x | with_reducible assumption | with_reducible apply keep_applySettings
    | with_reducible apply keep_forEach | with_reducible apply keep_updPort | with_reducible apply keep_recordHead
    | (simp only [keep_mk]; with_reducible apply keepF_of)

theorem keep_overrideTide (h : Keep s0 s) : Keep s0 (overrideTide s) := by
  unfold overrideTide
  repeat' first
    | with_reducible assumption | (simp only [keep_mk]; with_reducible apply keepF_of)

theorem keep_applyOverride (h : Keep s0 s) : Keep s0 (applyOverride s) := by
  unfold applyOverride
  repeat' first
    | with_reducible assumption | with_reducible apply keep_appendRec | with_reducible apply keep_checkRole
    | with_reducible apply keep_overrideTide | (simp only [keep_mk]; with_reducible apply keepF_of) | split

theorem keep_harbourOverride (h : Keep s0 s) : Keep s0 (harbourOverride s) := by
  unfold harbourOverride
  repeat' first
    | (intro x; refine keepCut (s0 := s0) x ?_ ?_; rotate_left; intro hx; clear_value x; rotate_left; subst x)
    | with_reducible assumption | with_reducible apply keep_appendRec
    | (lift_lets -underBinder; intro x; clear_value x) | (simp only [keep_mk]; with_reducible apply keepF_of) | split

theorem keep_readSettings (h : Keep s0 s) (a2) : Keep s0 (readSettings s a2) := by
  unfold readSettings
  repeat' first
    | (intro x; refine keepCut (s0 := s0) x ?_ ?_; rotate_left; intro hx; clear_value x; rotate_left; subst x)
    | intro x | with_reducible assumption | with_reducible apply keep_appendRec
    | with_reducible apply keep_enterHarbour | with_reducible apply keep_harbourOverride
    | with_reducible apply keep_recordHead
    | with_reducible apply keep_forEach | with_reducible apply keep_applyOverride
    | with_reducible apply keep_applySettings | (lift_lets -underBinder; intro x; clear_value x)
    | (simp only [keep_mk]; with_reducible apply keepF_of) | split

theorem keep_applySticky (h : Keep s0 s) (a2) : Keep s0 (applySticky s a2) := by
  unfold applySticky
  repeat' first
    | intro x | with_reducible assumption | with_reducible apply keep_forEach
    | with_reducible apply keep_setPortMode | (lift_lets -underBinder; intro x; clear_value x)
    | (simp only [keep_mk]; with_reducible apply keepF_of) | split

theorem keep_applyFences (h : Keep s0 s) : Keep s0 (applyFences s) := by
  unfold applyFences
  repeat' first
    | (intro x; clear_value x) | intro x | with_reducible assumption | with_reducible apply keep_forEach
    | with_reducible apply keep_record | with_reducible apply keep_applySticky | with_reducible apply keep_recordHead
    | (lift_lets -underBinder; intro x; clear_value x) | (simp only [keep_mk]; with_reducible apply keepF_of)

theorem keep_bootStart (h : Keep s0 s) (a2) : Keep s0 (bootStart s a2) := by
  unfold bootStart
  repeat' first
    | (intro x; refine keepCut (s0 := s0) x ?_ ?_; rotate_left; intro hx; clear_value x; rotate_left; subst x)
    | (intro x; clear_value x) | intro x | with_reducible assumption | with_reducible apply keep_governLog
    | with_reducible apply keep_forEach | with_reducible apply keep_recordHead | with_reducible apply keep_appendRec
    | with_reducible apply keep_applyFences | with_reducible apply keep_readSettings
    | (lift_lets -underBinder; intro x; refine keepCut (s0 := s0) x ?_ ?_; rotate_left; intro hx; clear_value x; rotate_left; subst x)
    | (lift_lets -underBinder; intro x; clear_value x) | (simp only [keep_mk]; with_reducible apply keepF_of) | split

theorem keep_afterReset (h : Keep s0 s) (kind cause : Nat) : Keep s0 (afterReset s kind cause) := by
  unfold afterReset
  rw [keep_mk]
  refine ⟨h.cu, h.pending, h.copper, fun hm => ⟨fun _ hp => (by cases hp), fun _ hp => (by cases hp), fun p hp => ?_⟩⟩
  obtain ⟨q, hq, rfl⟩ := List.mem_map.1 (List.mem_filter.1 hp).1
  exact wf_filter _ ((h.memories hm).2.2 q hq)

theorem keep_flushStrand (h : Keep s0 s) : Keep s0 (flushStrand s) := by
  unfold flushStrand
  repeat' first
    | with_reducible assumption | (simp only [keep_mk]; with_reducible apply keepF_of) | split

theorem keep_takeWrack (h : Keep s0 s) (a2 a3 a4 a5 a6 a7) : Keep s0 (takeWrack s a2 a3 a4 a5 a6 a7) := by
  unfold takeWrack
  repeat' first
    | (intro x; clear_value x) | with_reducible assumption | with_reducible apply keep_recordHead
    | with_reducible apply keep_freeTick
    | (lift_lets -underBinder; intro x; refine keepCut (s0 := s0) x ?_ ?_; rotate_left; intro hx; clear_value x; rotate_left; subst x)
    | (lift_lets -underBinder; intro x; clear_value x) | (simp only [keep_mk]; with_reducible apply keepF_of) | split

theorem keep_effectRecovWrackFree (h : Keep s0 s) (a1) : OutKeep s0 (effectRecovWrackFree a1 s) := by
  unfold effectRecovWrackFree
  repeat' first
    | with_reducible assumption | with_reducible apply out_next
    | (simp only [keep_mk]; with_reducible apply keepF_of)

theorem keep_effectRecovWrackCopy (h : Keep s0 s) (a1) : OutKeep s0 (effectRecovWrackCopy a1 s) := by
  unfold effectRecovWrackCopy
  repeat' first
    | with_reducible assumption | with_reducible apply keep_hostError | with_reducible apply keep_reserveLine
    | with_reducible apply out_next | (simp only [keep_mk]; with_reducible apply keepF_of) | split

theorem keep_wrackLine (h : Keep s0 s) (a2 a3 a4) : Keep s0 (wrackLine s a2 a3 a4) := by
  unfold wrackLine
  repeat' first
    | with_reducible assumption | with_reducible apply keep_completionLine

theorem keep_execWrackCopyEnd (h : Keep s0 s) (a1) : OutKeep s0 (execWrackCopyEnd a1 s) := by
  unfold execWrackCopyEnd
  repeat' first
    | (intro x; refine keepCut (s0 := s0) x ?_ ?_; rotate_left; intro hx; clear_value x; rotate_left; subst x)
    | with_reducible assumption | with_reducible apply keep_wrackLine | with_reducible apply keep_hostFailed
    | with_reducible apply keep_hostWrite | with_reducible apply out_next
    | (lift_lets -underBinder; intro x; clear_value x) | (simp only [keep_mk]; with_reducible apply keepF_of)
    | split

theorem keep_moduleReset (h : Keep s0 s) (a2 a3 a4) : Keep s0 (moduleReset s a2 a3 a4) := by
  unfold moduleReset
  repeat' first
    | with_reducible assumption | with_reducible apply keep_takeWrack | with_reducible apply keep_recordHead
    | with_reducible apply keep_writeLedger | with_reducible apply keep_neutralRecord
    | with_reducible apply keep_bootStart | with_reducible apply keep_afterReset
    | with_reducible apply keep_flushStrand | split

theorem keep_switchClusterOut (h : Keep s0 s) (a2) : Keep s0 (switchClusterOut s a2) := by
  unfold switchClusterOut
  repeat' first
    | with_reducible assumption | with_reducible apply keep_changeOwner

theorem keep_endRecovery (h : Keep s0 s) (a2) : Keep s0 (endRecovery s a2) := by
  unfold endRecovery
  repeat' first
    | with_reducible assumption | with_reducible apply keep_updRecov | with_reducible apply keep_recordCove
    | (simp only [keep_mk]; with_reducible apply keepF_of)

theorem keep_fenceEngineCore (h : Keep s0 s) (a2 a3) : Keep s0 (fenceEngineCore s a2 a3) := by
  unfold fenceEngineCore
  repeat' first
    | with_reducible assumption | with_reducible apply keep_fenceNote | with_reducible apply keep_escalate
    | (simp only [keep_mk]; with_reducible apply keepF_of) | split

theorem keep_guilty (h : Keep s0 s) (a2 a3) : Keep s0 (guilty s a2 a3) := by
  unfold guilty
  repeat' first
    | with_reducible assumption | with_reducible apply keep_recordCove | with_reducible apply keep_fenceEngineCore
    | with_reducible apply keep_escalate | split

theorem keep_hang (h : Keep s0 s) (a2 a3 a4) : Keep s0 (hang s a2 a3 a4) := by
  unfold hang
  repeat' first
    | intro x | with_reducible apply keep_record | with_reducible apply keep_guilty
    | with_reducible apply keep_coveFatal | with_reducible apply keep_recordCove | with_reducible apply keep_contain
    | with_reducible apply keep_switchClusterOut
    | (lift_lets -underBinder; intro x; first | (refine keepCutG (s0 := s0) x ?_ ?_; rotate_left; intro hx; clear_value x; rotate_left; subst x) | clear_value x)
    | (simp only [keep_mk]; with_reducible apply keepF_of) | dsimp -zeta only | split
    | with_reducible apply_assumption

theorem keep_execEngineHang (h : Keep s0 s) (a1 a2 a3) : OutKeep s0 (execEngineHang a1 a2 a3 s) := by
  unfold execEngineHang
  repeat' first
    | with_reducible assumption | with_reducible apply keep_hang | with_reducible apply out_next | split

theorem keep_execRoutineHang (h : Keep s0 s) (a1 a2) : OutKeep s0 (execRoutineHang a1 a2 s) := by
  unfold execRoutineHang
  repeat' first
    | with_reducible assumption | with_reducible apply keep_hang | with_reducible apply out_next | split

theorem keep_enterRung (h : Keep s0 s) (a2) : Keep s0 (enterRung s a2) := by
  unfold enterRung
  repeat' first
    | with_reducible assumption | with_reducible apply keep_updRecov | with_reducible apply keep_recordCove
    | (simp only [keep_mk]; with_reducible apply keepF_of)

theorem keep_resetWain (h : Keep s0 s) (a2) : Keep s0 (resetWain s a2).2 := by
  unfold resetWain
  repeat' first
    | intro x | with_reducible assumption | with_reducible apply keep_forEach | with_reducible apply keep_updCtx

theorem keep_beginEngineReset (h : Keep s0 s) (a2) : Keep s0 (beginEngineReset s a2) := by
  unfold beginEngineReset
  repeat' first
    | with_reducible assumption | with_reducible apply keep_takeWrack | with_reducible apply keep_enterRung
    | with_reducible apply keep_switchClusterOut | with_reducible apply keep_resetWain
    | (simp only [keep_mk]; with_reducible apply keepF_of) | split

theorem keep_beginCoveReset (h : Keep s0 s) (a2) : Keep s0 (beginCoveReset s a2) := by
  unfold beginCoveReset
  repeat' first
    | intro x | with_reducible assumption | with_reducible apply keep_contain | with_reducible apply keep_takeWrack
    | with_reducible apply keep_abortCkpt | with_reducible apply keep_discardNow | with_reducible apply keep_forEach
    | with_reducible apply keep_resetContexts | with_reducible apply keep_updCluster
    | with_reducible apply keep_rollbackCkpt | (lift_lets -underBinder; intro x; clear_value x)
    | (simp only [keep_mk]; with_reducible apply keepF_of) | split

theorem keep_execRecoveryStart (h : Keep s0 s) : OutKeep s0 (execRecoveryStart s) := by
  unfold execRecoveryStart
  repeat' first
    | with_reducible assumption | with_reducible apply keep_moduleReset | with_reducible apply keep_beginCoveReset
    | with_reducible apply keep_beginEngineReset | with_reducible apply keep_enterRung
    | with_reducible apply out_next | (simp only [keep_mk]; with_reducible apply keepF_of) | split

theorem keep_execRungOverrun (h : Keep s0 s) : OutKeep s0 (execRungOverrun s) := by
  unfold execRungOverrun
  repeat' first
    | with_reducible assumption | with_reducible apply keep_escalate | with_reducible apply keep_moduleFatal
    | with_reducible apply keep_recordCove | with_reducible apply out_next | split

theorem keep_payOwed (h : Keep s0 s) (a2) : Keep s0 (payOwed s a2) := by
  unfold payOwed
  repeat' first
    | with_reducible assumption | with_reducible apply keep_discardAnyway | with_reducible apply keep_updCove | split

theorem keep_nextSuspect (h : Keep s0 s) (a2 a3) : Keep s0 (nextSuspect s a2 a3) := by
  unfold nextSuspect
  repeat' first
    | (intro x; refine keepCut (s0 := s0) x ?_ ?_; rotate_left; intro hx; clear_value x; rotate_left; subst x)
    | (intro x; clear_value x) | with_reducible assumption | with_reducible apply keep_changeOwner
    | with_reducible apply keep_recordCove | with_reducible apply keep_updLedger
    | with_reducible apply keep_fenceEngineCore | with_reducible apply keep_endRecovery
    | with_reducible apply keep_updRecov | with_reducible apply keep_updCove | with_reducible apply keep_discardAnyway
    | with_reducible apply keep_payOwed | (lift_lets -underBinder; intro x; clear_value x)
    | (simp only [keep_mk]; with_reducible apply keepF_of) | split

theorem keep_execEngineSelfTestEnd (h : Keep s0 s) (a1) : OutKeep s0 (execEngineSelfTestEnd a1 s) := by
  unfold execEngineSelfTestEnd
  repeat' first
    | with_reducible assumption | with_reducible apply keep_fenceEngineCore | with_reducible apply keep_nextSuspect
    | with_reducible apply out_next | (simp only [keep_mk]; with_reducible apply keepF_of) | split

theorem keep_execSuspectTestEnd (h : Keep s0 s) (a1) : OutKeep s0 (execSuspectTestEnd a1 s) := by
  unfold execSuspectTestEnd
  repeat' first
    | with_reducible assumption | with_reducible apply keep_nextSuspect | with_reducible apply keep_recordCove
    | with_reducible apply keep_guilty | with_reducible apply out_next | split

theorem keep_execCoveResetEnd (h : Keep s0 s) : OutKeep s0 (execCoveResetEnd s) := by
  unfold execCoveResetEnd
  repeat' first
    | (intro x; refine keepCut (s0 := s0) x ?_ ?_; rotate_left; intro hx; clear_value x; rotate_left; subst x)
    | (intro x; clear_value x) | intro x | with_reducible assumption | with_reducible apply keep_forEach | with_reducible apply keep_freeTick
    | with_reducible apply keep_failLoads | with_reducible apply keep_markDie | with_reducible apply keep_loadVariant
    | with_reducible apply keep_updRecov | with_reducible apply keep_updCove | with_reducible apply keep_updCoveTide
    | with_reducible apply keep_holdCove | with_reducible apply keep_recordCove
    | with_reducible apply keep_endRecovery | with_reducible apply keep_startRelease | with_reducible apply out_next
    | (lift_lets -underBinder; intro x; clear_value x) | split

theorem keep_commandContext (h : Keep s0 s) (a2 a3) : Keep s0 (commandContext s a2 a3) := by
  unfold commandContext
  repeat' first
    | with_reducible assumption | with_reducible apply keep_hostError | with_reducible apply keep_discardStep
    | with_reducible apply keep_resetContexts | split

theorem keep_commandEngine (h : Keep s0 s) (a2 a3) : Keep s0 (commandEngine s a2 a3) := by
  unfold commandEngine
  repeat' first
    | with_reducible assumption | with_reducible apply keep_hostError
    | (simp only [keep_mk]; with_reducible apply keepF_of) | split

theorem keep_commandCove (h : Keep s0 s) (a2) : Keep s0 (commandCove s a2) := by
  unfold commandCove
  repeat' first
    | with_reducible assumption | with_reducible apply keep_escalate | with_reducible apply keep_hostError
    | with_reducible apply keep_recordCove | with_reducible apply keep_queueRecovery
    | with_reducible apply keep_contain | split

theorem keep_writeRecovCmd (h : Keep s0 s) (a2) : Keep s0 (writeRecovCmd s a2) := by
  unfold writeRecovCmd
  repeat' first
    | with_reducible assumption | with_reducible apply keep_commandContext | with_reducible apply keep_commandEngine
    | with_reducible apply keep_commandCove | with_reducible apply keep_moduleReset
    | with_reducible apply keep_hostError | (lift_lets -underBinder; intro x; clear_value x) | split

theorem keep_effectRecovContextReset (h : Keep s0 s) (a1) : OutKeep s0 (effectRecovContextReset a1 s) := by
  unfold effectRecovContextReset
  repeat' first
    | with_reducible assumption | with_reducible apply keep_writeRecovCmd | with_reducible apply out_next

theorem keep_effectRecovEngineReset (h : Keep s0 s) (a1) : OutKeep s0 (effectRecovEngineReset a1 s) := by
  unfold effectRecovEngineReset
  repeat' first
    | with_reducible assumption | with_reducible apply keep_writeRecovCmd | with_reducible apply out_next

theorem keep_effectRecovCoveReset (h : Keep s0 s) (a1) : OutKeep s0 (effectRecovCoveReset a1 s) := by
  unfold effectRecovCoveReset
  repeat' first
    | with_reducible assumption | with_reducible apply keep_writeRecovCmd | with_reducible apply out_next

theorem keep_effectRecovModuleReset (h : Keep s0 s) (a1) : OutKeep s0 (effectRecovModuleReset a1 s) := by
  unfold effectRecovModuleReset
  repeat' first
    | with_reducible assumption | with_reducible apply keep_writeRecovCmd | with_reducible apply out_next

theorem keep_execHeadlandLivenessAdvance (h : Keep s0 s) : OutKeep s0 (execHeadlandLivenessAdvance s) := by
  unfold execHeadlandLivenessAdvance
  repeat' first
    | with_reducible assumption | with_reducible apply out_next
    | (simp only [keep_mk]; with_reducible apply keepF_of) | split

theorem keep_execHeadlandLivenessLost (h : Keep s0 s) : OutKeep s0 (execHeadlandLivenessLost s) := by
  unfold execHeadlandLivenessLost
  repeat' first
    | with_reducible assumption | with_reducible apply keep_recordHead | with_reducible apply keep_moduleFatal
    | with_reducible apply out_next
    | (lift_lets -underBinder; intro x; (refine keepCut (s0 := s0) x ?_ ?_; rotate_left; intro hx; clear_value x; rotate_left; subst x))
    | (simp only [keep_mk]; with_reducible apply keepF_of) | split

theorem keep_execHeadlandUnclaimed (h : Keep s0 s) : OutKeep s0 (execHeadlandUnclaimed s) := by
  unfold execHeadlandUnclaimed
  repeat' first
    | with_reducible assumption | with_reducible apply keep_recordHead | with_reducible apply out_next
    | (simp only [keep_mk]; with_reducible apply keepF_of) | split

theorem keep_takeRole (h : Keep s0 s) (a2 a3) : Keep s0 (takeRole s a2 a3) := by
  unfold takeRole
  repeat' first
    | with_reducible assumption | with_reducible apply keep_recordHead | with_reducible apply keep_moduleFatal
    | with_reducible apply keep_fenceShore | (lift_lets -underBinder; intro x; clear_value x)
    | (simp only [keep_mk]; with_reducible apply keepF_of) | split

theorem keep_execHeartbeatAdvance (h : Keep s0 s) : OutKeep s0 (execHeartbeatAdvance s) := by
  unfold execHeartbeatAdvance
  repeat' first
    | with_reducible assumption | with_reducible apply out_next
    | (simp only [keep_mk]; with_reducible apply keepF_of) | split

theorem keep_execBootReadyTimeout (h : Keep s0 s) : OutKeep s0 (execBootReadyTimeout s) := by
  unfold execBootReadyTimeout
  repeat' first
    | with_reducible assumption | with_reducible apply out_next
    | (simp only [keep_mk]; with_reducible apply keepF_of) | split

theorem keep_execSummaryFlush (h : Keep s0 s) (a1) : OutKeep s0 (execSummaryFlush a1 s) := by
  unfold execSummaryFlush
  repeat' first
    | with_reducible assumption | with_reducible apply keep_updErrRing | with_reducible apply keep_recordHead
    | with_reducible apply out_next | (simp only [keep_mk]; with_reducible apply keepF_of) | split

theorem keep_effectHealthErrRdWrite (h : Keep s0 s) (a1 a2) : OutKeep s0 (effectHealthErrRdWrite a1 a2 s) := by
  unfold effectHealthErrRdWrite
  repeat' first
    | with_reducible assumption | with_reducible apply keep_hostError | with_reducible apply keep_updErrRing
    | with_reducible apply out_next | split

theorem keep_startFetch (h : Keep s0 s) (a2 a3 a4) : Keep s0 (startFetch s a2 a3 a4) := by
  unfold startFetch
  repeat' first
    | with_reducible assumption | with_reducible apply keep_hostError | with_reducible apply keep_reserveLine
    | (lift_lets -underBinder; intro x; clear_value x) | (simp only [keep_mk]; with_reducible apply keepF_of)
    | split

/-- Taking a fetch removes it and nothing else. -/
theorem keep_takeFetch {fn kind f} (h : Keep s0 s) (e : takeFetch s fn kind = some (f, t)) : Keep s0 t := by
  unfold takeFetch at e
  obtain ⟨f', -, e⟩ := Option.map_eq_some_iff.1 e
  cases e
  exact (keep_mk ..).symm ▸ keepF_of h

theorem keep_effectHealthErrFetch (h : Keep s0 s) (a1 a2) : OutKeep s0 (effectHealthErrFetch a1 a2 s) := by
  unfold effectHealthErrFetch
  repeat' first
    | with_reducible assumption | with_reducible apply keep_startFetch | with_reducible apply out_next

theorem keep_errLine (h : Keep s0 s) (a2 a3 a4 a5) : Keep s0 (errLine s a2 a3 a4 a5) := by
  unfold errLine
  repeat' first
    | with_reducible assumption | with_reducible apply keep_completionLine

theorem keep_execErrFetchEnd (h : Keep s0 s) (a1 a2) : OutKeep s0 (execErrFetchEnd a1 a2 s) := by
  unfold execErrFetchEnd
  repeat' first
    | with_reducible assumption | with_reducible apply keep_errLine | with_reducible apply keep_hostFailed
    | with_reducible apply keep_hostWrite | with_reducible apply out_next | split
    | (refine keep_takeFetch ?_ (by with_reducible assumption))

theorem keep_emptyCove (h : Keep s0 s) (a2) : Keep s0 (emptyCove s a2) := by
  unfold emptyCove
  repeat' first
    | (intro x; refine keepCut (s0 := s0) x ?_ ?_; rotate_left; intro hx; clear_value x; rotate_left; subst x)
    | with_reducible assumption | with_reducible apply keep_updCove | with_reducible apply keep_abortCkpt
    | with_reducible apply keep_startRelease
    | (lift_lets -underBinder; intro x; (refine keepCut (s0 := s0) x ?_ ?_; rotate_left; intro hx; clear_value x; rotate_left; subst x))
    | split

theorem keep_startEmptying (h : Keep s0 s) : Keep s0 (startEmptying s) := by
  unfold startEmptying
  repeat' first
    | intro x | with_reducible assumption | with_reducible apply keep_recordHead | with_reducible apply keep_forEach
    | with_reducible apply keep_emptyCove | (simp only [keep_mk]; with_reducible apply keepF_of)

theorem keep_fwResult (h : Keep s0 s) (a2 a3) : Keep s0 (fwResult s a2 a3) := by
  unfold fwResult
  repeat' first
    | with_reducible assumption | (simp only [keep_mk]; with_reducible apply keepF_of)

theorem keep_startFw (h : Keep s0 s) (a2) : Keep s0 (startFw s a2) := by
  unfold startFw
  repeat' first
    | with_reducible assumption | with_reducible apply keep_fwResult | with_reducible apply keep_hostError
    | with_reducible apply keep_hostFailed | with_reducible apply keep_reserveLine
    | (simp only [keep_mk]; with_reducible apply keepF_of) | split

theorem keep_endFw (h : Keep s0 s) (a2 a3 a4) : Keep s0 (endFw s a2 a3 a4) := by
  unfold endFw
  repeat' first
    | with_reducible assumption | with_reducible apply keep_fwResult | with_reducible apply keep_completionLine
    | (simp only [keep_mk]; with_reducible apply keepF_of)

theorem keep_effectFwWriteImage (h : Keep s0 s) (a1 a2 a3) : OutKeep s0 (effectFwWriteImage a1 a2 a3 s) := by
  unfold effectFwWriteImage
  repeat' first
    | with_reducible assumption | with_reducible apply keep_startFw | with_reducible apply out_next

theorem keep_effectFwWriteSettings (h : Keep s0 s) (a1 a2) : OutKeep s0 (effectFwWriteSettings a1 a2 s) := by
  unfold effectFwWriteSettings
  repeat' first
    | with_reducible assumption | with_reducible apply keep_startFw | with_reducible apply out_next

theorem keep_effectFwReadSettings (h : Keep s0 s) : OutKeep s0 (effectFwReadSettings s) := by
  unfold effectFwReadSettings
  repeat' first
    | with_reducible assumption | with_reducible apply keep_startFw | with_reducible apply out_next

theorem keep_effectFwSelectSlot (h : Keep s0 s) (a1) : OutKeep s0 (effectFwSelectSlot a1 s) := by
  unfold effectFwSelectSlot
  repeat' first
    | with_reducible assumption | with_reducible apply keep_startFw | with_reducible apply out_next

theorem keep_effectFwLiveUpdate (h : Keep s0 s) : OutKeep s0 (effectFwLiveUpdate s) := by
  unfold effectFwLiveUpdate
  repeat' first
    | with_reducible assumption | with_reducible apply keep_startFw | with_reducible apply out_next
    | (simp only [keep_mk]; with_reducible apply keepF_of) | split

theorem keep_effectFwSafeHarbourRequest (h : Keep s0 s) : OutKeep s0 (effectFwSafeHarbourRequest s) := by
  unfold effectFwSafeHarbourRequest
  repeat' first
    | with_reducible assumption | with_reducible apply keep_startFw | with_reducible apply out_next

theorem keep_endWriteImage (h : Keep s0 s) (a2 a3) : Keep s0 (endWriteImage s a2 a3) := by
  unfold endWriteImage
  repeat' first
    | with_reducible assumption | with_reducible apply keep_appendRec | with_reducible apply keep_setSlotImage
    | with_reducible apply keep_endFw | with_reducible apply keep_recordHead | split

theorem keep_endWriteSettings (h : Keep s0 s) (a2 a3) : Keep s0 (endWriteSettings s a2 a3) := by
  unfold endWriteSettings
  repeat' first
    | with_reducible assumption | with_reducible apply keep_endFw | with_reducible apply keep_recordHead
    | (simp only [keep_mk]; with_reducible apply keepF_of) | split

theorem keep_execFwCommandEnd (h : Keep s0 s) (a1) : OutKeep s0 (execFwCommandEnd a1 s) := by
  unfold execFwCommandEnd
  repeat' first
    | with_reducible assumption | with_reducible apply keep_endFw | with_reducible apply keep_endWriteImage
    | with_reducible apply keep_endWriteSettings | with_reducible apply keep_hostWrite
    | with_reducible apply keep_hostFailed | with_reducible apply keep_appendRec | with_reducible apply out_next
    | split

theorem keep_liveApplied (h : Keep s0 s) : Keep s0 (liveApplied s) := by
  unfold liveApplied
  repeat' first
    | with_reducible assumption | with_reducible apply keep_appendRec
    | (simp only [keep_mk]; with_reducible apply keepF_of)

theorem keep_moveRole (h : Keep s0 s) : Keep s0 (moveRole s) := by
  unfold moveRole
  repeat' first
    | with_reducible assumption | with_reducible apply keep_takeRole | split

theorem keep_liveLost (h : Keep s0 s) (a2 a3) : Keep s0 (liveLost s a2 a3) := by
  unfold liveLost
  repeat' first
    | with_reducible assumption | with_reducible apply keep_loseDie | with_reducible apply keep_fenceShore
    | with_reducible apply keep_moduleFatal | split

theorem keep_endLive (h : Keep s0 s) (a2 a3 a4) : Keep s0 (endLive s a2 a3 a4) := by
  unfold endLive
  repeat' first
    | with_reducible assumption | with_reducible apply keep_endFw | with_reducible apply keep_recordHead

theorem keep_nextUnit (h : Keep s0 s) (a2 a3) : Keep s0 (nextUnit s a2 a3) := by
  unfold nextUnit
  repeat' first
    | with_reducible assumption | with_reducible apply keep_endLive | with_reducible apply keep_liveApplied
    | (simp only [keep_mk]; with_reducible apply keepF_of) | split

theorem keep_execLiveUpdateUnitSwap (h : Keep s0 s) (a1) : OutKeep s0 (execLiveUpdateUnitSwap a1 s) := by
  unfold execLiveUpdateUnitSwap
  repeat' first
    | with_reducible assumption | with_reducible apply keep_nextUnit | with_reducible apply keep_recordHead
    | with_reducible apply keep_moveRole | with_reducible apply keep_endLive | with_reducible apply keep_liveLost
    | with_reducible apply out_next | split

theorem keep_execInputTurnOn (h : Keep s0 s) : OutKeep s0 (execInputTurnOn s) := by
  unfold execInputTurnOn
  repeat' first
    | with_reducible assumption | with_reducible apply out_next
    | (simp only [keep_mk]; with_reducible apply keepF_of) | split

theorem keep_findStrand (h : Keep s0 s) (a2) : Keep s0 (findStrand s a2) := by
  unfold findStrand
  repeat' first
    | (intro x; refine keepCut (s0 := s0) x ?_ ?_; rotate_left; intro hx; clear_value x; rotate_left; subst x)
    | with_reducible assumption | with_reducible apply keep_recordHead
    | (lift_lets -underBinder; intro x; clear_value x) | (simp only [keep_mk]; with_reducible apply keepF_of) | split

theorem keep_readLedger (h : Keep s0 s) (a2) : Keep s0 (readLedger s a2) := by
  unfold readLedger
  repeat' first
    | intro x | with_reducible assumption | with_reducible apply keep_forEach | with_reducible apply keep_recordHead
    | with_reducible apply keep_updLedger

theorem keep_execPowerGood (h : Keep s0 s) : OutKeep s0 (execPowerGood s) := by
  unfold execPowerGood
  repeat' first
    | (intro x; refine keepCut (s0 := s0) x ?_ ?_; rotate_left; intro hx; clear_value x; rotate_left; subst x)
    | (intro x; clear_value x) | with_reducible assumption | with_reducible apply keep_bootStart | with_reducible apply keep_freeTick
    | with_reducible apply keep_findStrand | with_reducible apply keep_readLedger | with_reducible apply out_next
    | (lift_lets -underBinder; intro x; clear_value x) | (simp only [keep_mk]; with_reducible apply keepF_of) | split

theorem keep_startPort (h : Keep s0 s) (a2) : Keep s0 (startPort s a2) := by
  unfold startPort
  repeat' first
    | with_reducible assumption | with_reducible apply keep_setPortMode | with_reducible apply keep_movePort
    | (lift_lets -underBinder; intro x; clear_value x) | split

theorem keep_execModuleReady (h : Keep s0 s) : OutKeep s0 (execModuleReady s) := by
  unfold execModuleReady
  repeat' first
    | (intro x; refine keepCut (s0 := s0) x ?_ ?_; rotate_left; intro hx; clear_value x; rotate_left; subst x)
    | intro x | with_reducible assumption | with_reducible apply keep_forEach | with_reducible apply keep_startPort
    | with_reducible apply keep_recordHead | with_reducible apply keep_startEmptying | with_reducible apply out_next
    | (lift_lets -underBinder; intro x; clear_value x) | (simp only [keep_mk]; with_reducible apply keepF_of)
    | split

theorem keep_blowFuses (h : Keep s0 s) (a2) : Keep s0 (blowFuses s a2) := by
  unfold blowFuses
  repeat' first
    | intro x | with_reducible assumption | with_reducible apply keep_forEach | with_reducible apply keep_recordHead
    | (simp only [keep_mk]; with_reducible apply keepF_of)

theorem keep_execHealthCheckPass (h : Keep s0 s) : OutKeep s0 (execHealthCheckPass s) := by
  unfold execHealthCheckPass
  repeat' first
    | (intro x; refine keepCut (s0 := s0) x ?_ ?_; rotate_left; intro hx; clear_value x; rotate_left; subst x)
    | (intro x; clear_value x) | with_reducible assumption | with_reducible apply keep_appendRec
    | with_reducible apply keep_recordHead | with_reducible apply keep_blowFuses | with_reducible apply out_next
    | (lift_lets -underBinder; intro x; (refine keepCut (s0 := s0) x ?_ ?_; rotate_left; intro hx; clear_value x; rotate_left; subst x))
    | (simp only [keep_mk]; with_reducible apply keepF_of) | split

theorem keep_takeSnapshot (h : Keep s0 s) : Keep s0 (takeSnapshot s) := by
  unfold takeSnapshot
  repeat' first
    | with_reducible assumption | with_reducible apply keep_bump
    | (simp only [keep_mk]; with_reducible apply keepF_of)

theorem keep_effectHealthCntFetch (h : Keep s0 s) (a1 a2) : OutKeep s0 (effectHealthCntFetch a1 a2 s) := by
  unfold effectHealthCntFetch
  repeat' first
    | with_reducible assumption | with_reducible apply keep_startFetch | with_reducible apply out_next

theorem keep_fetchLine (h : Keep s0 s) (a2 a3 a4 a5 a6 a7) : Keep s0 (fetchLine s a2 a3 a4 a5 a6 a7) := by
  unfold fetchLine
  repeat' first
    | with_reducible assumption | with_reducible apply keep_record | with_reducible apply keep_completionLine
    | split

theorem keep_execCounterFetchEnd (h : Keep s0 s) (a1 a2) : OutKeep s0 (execCounterFetchEnd a1 a2 s) := by
  unfold execCounterFetchEnd
  repeat' first
    | with_reducible assumption | with_reducible apply keep_fetchLine | with_reducible apply keep_hostFailed
    | with_reducible apply keep_hostWrite | with_reducible apply out_next | split
    | (refine keep_takeFetch ?_ (by with_reducible assumption))

theorem keep_effectTraceCWtCtrlWrite (h : Keep s0 s) (a1 a2 a3) : OutKeep s0 (effectTraceCWtCtrlWrite a1 a2 a3 s) := by
  unfold effectTraceCWtCtrlWrite
  repeat' first
    | with_reducible assumption | with_reducible apply keep_updWaitTrace | with_reducible apply out_next | split

theorem keep_effectTraceCWtRdWrite (h : Keep s0 s) (a1 a2 a3) : OutKeep s0 (effectTraceCWtRdWrite a1 a2 a3 s) := by
  unfold effectTraceCWtRdWrite
  repeat' first
    | with_reducible assumption | with_reducible apply keep_hostError | with_reducible apply keep_updWaitTrace
    | with_reducible apply out_next | split

theorem keep_forwardWait (h : Keep s0 s) (a2) : Keep s0 (forwardWait s a2) := by
  unfold forwardWait
  repeat' first
    | (intro x; refine keepCut (s0 := s0) x ?_ ?_; rotate_left; intro hx; clear_value x; rotate_left; subst x)
    | (intro x; clear_value x) | with_reducible assumption | with_reducible apply keep_dropWait
    | with_reducible apply keep_hbmStore | with_reducible apply keep_bump | with_reducible apply keep_updWaitTrace
    | (lift_lets -underBinder; intro x; clear_value x) | split

theorem keep_execWaitRecordForward (h : Keep s0 s) (a1) : OutKeep s0 (execWaitRecordForward a1 s) := by
  unfold execWaitRecordForward
  repeat' first
    | intro x | with_reducible assumption | with_reducible apply keep_forEach
    | with_reducible apply keep_forwardWait | with_reducible apply out_next
    | (simp only [keep_mk]; with_reducible apply keepF_of)

theorem keep_flushStrandSummary (h : Keep s0 s) : Keep s0 (flushStrandSummary s) := by
  unfold flushStrandSummary
  repeat' first
    | with_reducible assumption | with_reducible apply keep_strandPut | with_reducible apply keep_recordHead
    | (lift_lets -underBinder; intro x; clear_value x) | (simp only [keep_mk]; with_reducible apply keepF_of)
    | split

theorem keep_execStrandlineWrite (h : Keep s0 s) (a1) : OutKeep s0 (execStrandlineWrite a1 s) := by
  unfold execStrandlineWrite
  repeat' first
    | with_reducible assumption | with_reducible apply keep_recordHead
    | with_reducible apply keep_flushStrandSummary | with_reducible apply out_next
    | (simp only [keep_mk]; with_reducible apply keepF_of) | split

theorem keep_effectTraceSlFetch (h : Keep s0 s) (a1 a2) : OutKeep s0 (effectTraceSlFetch a1 a2 s) := by
  unfold effectTraceSlFetch
  repeat' first
    | with_reducible assumption | with_reducible apply keep_startFetch | with_reducible apply out_next

theorem keep_execSlFetchEnd (h : Keep s0 s) (a1 a2) : OutKeep s0 (execSlFetchEnd a1 a2 s) := by
  unfold execSlFetchEnd
  repeat' first
    | with_reducible assumption | with_reducible apply keep_fetchLine | with_reducible apply keep_hostFailed
    | with_reducible apply keep_hostWrite | with_reducible apply out_next | split
    | (refine keep_takeFetch ?_ (by with_reducible assumption))

theorem keep_powerOff (h : Keep s0 s) : Keep s0 (powerOff s) := by
  unfold powerOff
  dsimp only
  rw [keep_mk]
  exact ⟨h.cu, h.pending, h.copper, fun _ =>
    ⟨fun _ hp => (by cases hp), fun _ hp => (by cases hp), fun _ hp => (by cases hp)⟩⟩

theorem keep_powerFailEvent (h : Keep s0 s) : Keep s0 (powerFailEvent s) := by
  unfold powerFailEvent
  repeat' first
    | (intro x; refine keepCut (s0 := s0) x ?_ ?_; rotate_left; intro hx; clear_value x; rotate_left; subst x)
    | (intro x; clear_value x) | with_reducible assumption | with_reducible apply keep_bump
    | with_reducible apply keep_countSource | with_reducible apply keep_noticeLine
    | with_reducible apply keep_ringPut
    | (lift_lets -underBinder; intro x; (refine keepCut (s0 := s0) x ?_ ?_; rotate_left; intro hx; clear_value x; rotate_left; subst x))
    | (simp only [keep_mk]; with_reducible apply keepF_of) | split

theorem keep_inputFails (h : Keep s0 s) : Keep s0 (inputFails s) := by
  unfold inputFails
  repeat' first
    | with_reducible assumption | with_reducible apply keep_powerFailEvent
    | (simp only [keep_mk]; with_reducible apply keepF_of)

theorem keep_execInputUndervoltage (h : Keep s0 s) : OutKeep s0 (execInputUndervoltage s) := by
  unfold execInputUndervoltage
  repeat' first
    | with_reducible assumption | with_reducible apply keep_inputFails | with_reducible apply out_next
    | (simp only [keep_mk]; with_reducible apply keepF_of) | split

theorem keep_execInputOvervoltage (h : Keep s0 s) : OutKeep s0 (execInputOvervoltage s) := by
  unfold execInputOvervoltage
  repeat' first
    | with_reducible assumption | with_reducible apply keep_inputFails | with_reducible apply out_next
    | (simp only [keep_mk]; with_reducible apply keepF_of) | split

theorem keep_startConverters (h : Keep s0 s) : Keep s0 (startConverters s) := by
  unfold startConverters
  repeat' first
    | with_reducible assumption | (simp only [keep_mk]; with_reducible apply keepF_of) | split

theorem keep_execInputOvervoltageClear (h : Keep s0 s) : OutKeep s0 (execInputOvervoltageClear s) := by
  unfold execInputOvervoltageClear
  repeat' first
    | with_reducible assumption | with_reducible apply keep_startConverters | with_reducible apply out_next
    | (simp only [keep_mk]; with_reducible apply keepF_of) | split

theorem keep_execConverterEnableChange (h : Keep s0 s) (a1) : OutKeep s0 (execConverterEnableChange a1 s) := by
  unfold execConverterEnableChange
  repeat' first
    | with_reducible assumption | with_reducible apply keep_startConverters | with_reducible apply out_next
    | (simp only [keep_mk]; with_reducible apply keepF_of) | split

theorem keep_execIntermediateRailLoss (h : Keep s0 s) : OutKeep s0 (execIntermediateRailLoss s) := by
  unfold execIntermediateRailLoss
  repeat' first
    | with_reducible assumption | with_reducible apply keep_powerOff | with_reducible apply out_next | split

theorem keep_execHoldupEnd (h : Keep s0 s) : OutKeep s0 (execHoldupEnd s) := by
  unfold execHoldupEnd
  repeat' first
    | with_reducible assumption | with_reducible apply keep_powerOff | with_reducible apply out_next | split

theorem keep_railOff (h : Keep s0 s) (a2 a3 a4) : Keep s0 (railOff s a2 a3 a4) := by
  unfold railOff
  repeat' first
    | (intro x; refine keepCut (s0 := s0) x ?_ ?_; rotate_left; intro hx; clear_value x; rotate_left; subst x)
    | (intro x; clear_value x) | with_reducible assumption | with_reducible apply keep_loseDie
    | with_reducible apply keep_record | with_reducible apply keep_fenceShore
    | (lift_lets -underBinder; intro x; clear_value x) | (simp only [keep_mk]; with_reducible apply keepF_of) | split

theorem keep_execRegulatorCurrentLimit (h : Keep s0 s) (a1 a2) : OutKeep s0 (execRegulatorCurrentLimit a1 a2 s) := by
  unfold execRegulatorCurrentLimit
  repeat' first
    | with_reducible assumption | with_reducible apply keep_railOff | with_reducible apply out_next

theorem keep_execRegulatorOvertemp (h : Keep s0 s) (a1 a2) : OutKeep s0 (execRegulatorOvertemp a1 a2 s) := by
  unfold execRegulatorOvertemp
  repeat' first
    | with_reducible assumption | with_reducible apply keep_railOff | with_reducible apply out_next

theorem keep_execRegulatorTelemetry (h : Keep s0 s) (a1 a2 a3 a4 a5 a6) :
    OutKeep s0 (execRegulatorTelemetry a1 a2 a3 a4 a5 a6 s) := by
  unfold execRegulatorTelemetry
  repeat' first
    | intro x | with_reducible assumption | with_reducible apply keep_forEach | with_reducible apply keep_record
    | with_reducible apply out_next | (simp only [keep_mk]; with_reducible apply keepF_of) | split

theorem keep_newUpset (h : Keep s0 s) (a1 a3) : Keep s0 (newUpset a1 s a3) := by
  unfold newUpset
  repeat' first
    | with_reducible assumption | with_reducible apply keep_addUpset
    | (lift_lets -underBinder; intro (x : MemState); subst x) | (simp only [keep_mk]; with_reducible apply keepF_of)
    | split

theorem keep_newHbmUpset (h : Keep s0 s) (a1 a3) : Keep s0 (newHbmUpset a1 s a3) := by
  unfold newHbmUpset
  repeat' first
    | with_reducible assumption | (lift_lets -underBinder; intro (x : MemState); subst x)
    | (simp only [keep_mk]; with_reducible apply keepF_of) | split

theorem keep_execErrorCountForward (h : Keep s0 s) (a1) : OutKeep s0 (execErrorCountForward a1 s) := by
  unfold execErrorCountForward
  repeat' first
    | (intro x; refine keepCut (s0 := s0) x ?_ ?_; rotate_left; intro hx; clear_value x; rotate_left; subst x)
    | intro x | with_reducible assumption | with_reducible apply keep_forEach | with_reducible apply keep_newHbmUpset
    | with_reducible apply keep_newUpset | with_reducible apply keep_loseDie | with_reducible apply out_next
    | (lift_lets -underBinder; intro x; clear_value x) | (simp only [keep_mk]; with_reducible apply keepF_of) | split

theorem keep_execMarginRead (h : Keep s0 s) (a1 a2) : OutKeep s0 (execMarginRead a1 a2 s) := by
  unfold execMarginRead
  repeat' first
    | (intro x; refine keepCut (s0 := s0) x ?_ ?_; rotate_left; intro hx; clear_value x; rotate_left; subst x)
    | (intro x; clear_value x) | with_reducible assumption | with_reducible apply keep_record
    | with_reducible apply keep_wearAdd | with_reducible apply out_next
    | (lift_lets -underBinder; intro x; clear_value x) | (simp only [keep_mk]; with_reducible apply keepF_of) | split

theorem keep_setLevel (h : Keep s0 s) (a2) : Keep s0 (setLevel s a2) := by
  unfold setLevel
  repeat' first
    | with_reducible assumption | with_reducible apply keep_recordHead
    | (simp only [keep_mk]; with_reducible apply keepF_of) | split

theorem keep_thermalTrip (h : Keep s0 s) (a2 a3) : Keep s0 (thermalTrip s a2 a3) := by
  unfold thermalTrip
  repeat' first
    | intro x | with_reducible assumption | with_reducible apply keep_forEach
    | with_reducible apply keep_updCoveTide | with_reducible apply keep_recordHead
    | with_reducible apply keep_setLevel | (simp only [keep_mk]; with_reducible apply keepF_of)

theorem keep_thermalShutdown (h : Keep s0 s) : Keep s0 (thermalShutdown s) := by
  unfold thermalShutdown
  repeat' first
    | with_reducible assumption | with_reducible apply keep_moduleFatal | with_reducible apply keep_recordHead
    | (simp only [keep_mk]; with_reducible apply keepF_of) | split

theorem keep_takeTemp (h : Keep s0 s) (a2 a3) : Keep s0 (takeTemp s a2 a3) := by
  unfold takeTemp
  repeat' first
    | with_reducible assumption | with_reducible apply keep_thermalTrip | with_reducible apply keep_notePwr
    | with_reducible apply keep_thermalShutdown | (simp only [keep_mk]; with_reducible apply keepF_of) | split

theorem keep_execDieTempReading (h : Keep s0 s) (a1 a2) : OutKeep s0 (execDieTempReading a1 a2 s) := by
  unfold execDieTempReading
  repeat' first
    | with_reducible assumption | with_reducible apply keep_takeTemp | with_reducible apply out_next | split

theorem keep_execHbmTempReading (h : Keep s0 s) (a1 a2) : OutKeep s0 (execHbmTempReading a1 a2 s) := by
  unfold execHbmTempReading
  repeat' first
    | with_reducible assumption | with_reducible apply keep_record | with_reducible apply keep_hotUpdate
    | with_reducible apply keep_takeTemp | with_reducible apply out_next
    | (simp only [keep_mk]; with_reducible apply keepF_of) | split

theorem keep_execTripTimeout (h : Keep s0 s) : OutKeep s0 (execTripTimeout s) := by
  unfold execTripTimeout
  repeat' first
    | with_reducible assumption | with_reducible apply keep_thermalShutdown | with_reducible apply out_next | split

theorem keep_execThermalReturn (h : Keep s0 s) : OutKeep s0 (execThermalReturn s) := by
  unfold execThermalReturn
  repeat' first
    | with_reducible assumption | with_reducible apply out_next
    | (simp only [keep_mk]; with_reducible apply keepF_of) | split

theorem keep_execHbmRecentre (h : Keep s0 s) (a1 a2) : OutKeep s0 (execHbmRecentre a1 a2 s) := by
  unfold execHbmRecentre
  repeat' first
    | (intro x; refine keepCut (s0 := s0) x ?_ ?_; rotate_left; intro hx; clear_value x; rotate_left; subst x)
    | (intro x; clear_value x) | with_reducible assumption | with_reducible apply keep_record
    | with_reducible apply keep_moduleFatal | with_reducible apply out_next
    | (lift_lets -underBinder; intro x; clear_value x) | (simp only [keep_mk]; with_reducible apply keepF_of) | split

theorem keep_trimPort (h : Keep s0 s) (a2 a3 a4) : Keep s0 (trimPort s a2 a3 a4) := by
  unfold trimPort
  repeat' first
    | (intro x; refine keepCutF (s0 := s0) x ?_ ?_; rotate_left; intro hx; clear_value x; rotate_left; subst x)
    | intro x | with_reducible apply keep_wearAdd | (lift_lets -underBinder; intro x; clear_value x)
    | (simp only [keep_mk]; with_reducible apply keepF_of) | split | with_reducible apply_assumption

theorem keep_execOpticalTrim (h : Keep s0 s) (a1 a2) : OutKeep s0 (execOpticalTrim a1 a2 s) := by
  unfold execOpticalTrim
  repeat' first
    | (intro x; refine keepCut (s0 := s0) x ?_ ?_; rotate_left; intro hx; clear_value x; rotate_left; subst x)
    | (intro x; clear_value x) | intro x | with_reducible assumption | with_reducible apply keep_forEach
    | with_reducible apply keep_trimPort | with_reducible apply out_next | with_reducible apply keep_forEach
    | with_reducible apply keep_foldl
    | (lift_lets -underBinder; intro x; first | (refine keepCut (s0 := s0) x ?_ ?_; rotate_left; intro hx; clear_value x; rotate_left; subst x) | clear_value x | skip)
    | (simp only [keep_mk]; with_reducible apply keepF_of) | split

theorem keep_moveLevel (h : Keep s0 s) (a2) : Keep s0 (moveLevel s a2) := by
  unfold moveLevel
  repeat' first
    | (intro x; refine keepCut (s0 := s0) x ?_ ?_; rotate_left; intro hx; clear_value x; rotate_left; subst x)
    | (intro x; clear_value x) | with_reducible assumption | with_reducible apply keep_setLevel
    | (lift_lets -underBinder; intro x; clear_value x) | (simp only [keep_mk]; with_reducible apply keepF_of)
    | split

theorem keep_noteInterval (h : Keep s0 s) (a2 a3 a4) : Keep s0 (noteInterval s a2 a3 a4) := by
  unfold noteInterval
  repeat' first
    | (intro x; refine keepCut (s0 := s0) x ?_ ?_; rotate_left; intro hx; clear_value x; rotate_left; subst x)
    | (intro x; clear_value x) | with_reducible assumption | with_reducible apply keep_recordHead
    | (lift_lets -underBinder; intro x; clear_value x) | (simp only [keep_mk]; with_reducible apply keepF_of)
    | split

theorem keep_execTideMarkInterval (h : Keep s0 s) : OutKeep s0 (execTideMarkInterval s) := by
  unfold execTideMarkInterval
  repeat' first
    | with_reducible assumption | with_reducible apply keep_moveLevel | with_reducible apply keep_noteInterval
    | with_reducible apply keep_takeSnapshot | with_reducible apply keep_notePwr | with_reducible apply out_next
    | (simp only [keep_mk]; with_reducible apply keepF_of) | split

theorem keep_execTrayFileRefresh (h : Keep s0 s) : OutKeep s0 (execTrayFileRefresh s) := by
  unfold execTrayFileRefresh
  repeat' first
    | with_reducible assumption | with_reducible apply out_next
    | (simp only [keep_mk]; with_reducible apply keepF_of) | split

theorem keep_trayReply (h : Keep s0 s) (a2) : Keep s0 (trayReply s a2) := by
  unfold trayReply
  repeat' first
    | with_reducible assumption | (simp only [keep_mk]; with_reducible apply keepF_of) | split

theorem keep_execTrayIdent (h : Keep s0 s) : OutKeep s0 (execTrayIdent s) := by
  unfold execTrayIdent
  repeat' first
    | with_reducible assumption | with_reducible apply keep_trayReply | with_reducible apply out_next

theorem keep_execTrayHeartbeat (h : Keep s0 s) : OutKeep s0 (execTrayHeartbeat s) := by
  unfold execTrayHeartbeat
  repeat' first
    | with_reducible assumption | with_reducible apply keep_trayReply | with_reducible apply out_next

theorem keep_execTrayState (h : Keep s0 s) : OutKeep s0 (execTrayState s) := by
  unfold execTrayState
  repeat' first
    | with_reducible assumption | with_reducible apply keep_trayReply | with_reducible apply out_next

theorem keep_execTrayPower (h : Keep s0 s) : OutKeep s0 (execTrayPower s) := by
  unfold execTrayPower
  repeat' first
    | with_reducible assumption | with_reducible apply keep_trayReply | with_reducible apply out_next

theorem keep_execTrayCoves (h : Keep s0 s) : OutKeep s0 (execTrayCoves s) := by
  unfold execTrayCoves
  repeat' first
    | with_reducible assumption | with_reducible apply keep_trayReply | with_reducible apply out_next

theorem keep_execTrayPorts (h : Keep s0 s) : OutKeep s0 (execTrayPorts s) := by
  unfold execTrayPorts
  repeat' first
    | with_reducible assumption | with_reducible apply keep_trayReply | with_reducible apply out_next

theorem keep_execTrayServiceRead (h : Keep s0 s) : OutKeep s0 (execTrayServiceRead s) := by
  unfold execTrayServiceRead
  repeat' first
    | with_reducible assumption | with_reducible apply keep_trayReply | with_reducible apply out_next

theorem keep_execTrayLocateRead (h : Keep s0 s) : OutKeep s0 (execTrayLocateRead s) := by
  unfold execTrayLocateRead
  repeat' first
    | with_reducible assumption | with_reducible apply keep_trayReply | with_reducible apply out_next

theorem keep_execTrayCapRead (h : Keep s0 s) : OutKeep s0 (execTrayCapRead s) := by
  unfold execTrayCapRead
  repeat' first
    | with_reducible assumption | with_reducible apply keep_trayReply | with_reducible apply out_next

theorem keep_execTraySlSelRead (h : Keep s0 s) : OutKeep s0 (execTraySlSelRead s) := by
  unfold execTraySlSelRead
  repeat' first
    | with_reducible assumption | with_reducible apply keep_trayReply | with_reducible apply out_next

theorem keep_execTraySlData (h : Keep s0 s) : OutKeep s0 (execTraySlData s) := by
  unfold execTraySlData
  repeat' first
    | with_reducible assumption | with_reducible apply keep_trayReply | with_reducible apply out_next
    | (simp only [keep_mk]; with_reducible apply keepF_of) | split

theorem keep_execTrayUnknownCommand (h : Keep s0 s) (a1) : OutKeep s0 (execTrayUnknownCommand a1 s) := by
  unfold execTrayUnknownCommand
  repeat' first
    | with_reducible assumption | with_reducible apply out_next
    | (simp only [keep_mk]; with_reducible apply keepF_of) | split

theorem keep_execTrayClockLowTimeout (h : Keep s0 s) : OutKeep s0 (execTrayClockLowTimeout s) := by
  unfold execTrayClockLowTimeout
  repeat' first
    | with_reducible assumption | with_reducible apply out_next
    | (simp only [keep_mk]; with_reducible apply keepF_of)

theorem keep_trayWrite (h : Keep s0 s) (a2 a3) (h3 : ∀ x0, Keep s0 x0 → Keep s0 (a3 x0)) : Keep s0 (trayWrite s a2 a3) := by
  unfold trayWrite
  repeat' first
    | with_reducible assumption | with_reducible apply h3 | with_reducible apply keep_recordHead
    | (simp only [keep_mk]; with_reducible apply keepF_of) | split

theorem keep_requestService (h : Keep s0 s) : Keep s0 (requestService s) := by
  unfold requestService
  repeat' first
    | with_reducible assumption | with_reducible apply keep_startEmptying
    | (simp only [keep_mk]; with_reducible apply keepF_of) | split

theorem keep_execTrayServiceWrite (h : Keep s0 s) (a1 a2) : OutKeep s0 (execTrayServiceWrite a1 a2 s) := by
  unfold execTrayServiceWrite
  repeat' first
    | with_reducible assumption | with_reducible apply keep_trayWrite | with_reducible apply keep_requestService
    | with_reducible apply out_next

theorem keep_execTrayLocateWrite (h : Keep s0 s) (a1 a2) : OutKeep s0 (execTrayLocateWrite a1 a2 s) := by
  unfold execTrayLocateWrite
  repeat' first
    | with_reducible assumption | with_reducible apply keep_trayWrite | with_reducible apply out_next
    | (simp only [keep_mk]; with_reducible apply keepF_of)

theorem keep_execTrayCapWrite (h : Keep s0 s) (a1 a2) : OutKeep s0 (execTrayCapWrite a1 a2 s) := by
  unfold execTrayCapWrite
  repeat' first
    | with_reducible assumption | with_reducible apply keep_trayWrite | with_reducible apply out_next
    | (simp only [keep_mk]; with_reducible apply keepF_of)

theorem keep_execTrayReset (h : Keep s0 s) (a1 a2) : OutKeep s0 (execTrayReset a1 a2 s) := by
  unfold execTrayReset
  repeat' first
    | (intro x; refine keepCut (s0 := s0) x ?_ ?_; rotate_left; intro hx; clear_value x; rotate_left; subst x)
    | (intro x; clear_value x) | intro x | with_reducible assumption | with_reducible apply keep_trayWrite
    | with_reducible apply keep_moduleReset | with_reducible apply out_next | with_reducible apply keep_forEach
    | with_reducible apply keep_foldl
    | (lift_lets -underBinder; intro x; first | (refine keepCut (s0 := s0) x ?_ ?_; rotate_left; intro hx; clear_value x; rotate_left; subst x) | clear_value x | skip)
    | (simp only [keep_mk]; with_reducible apply keepF_of) | split

theorem keep_execTraySlSelWrite (h : Keep s0 s) (a1 a2) : OutKeep s0 (execTraySlSelWrite a1 a2 s) := by
  unfold execTraySlSelWrite
  repeat' first
    | with_reducible assumption | with_reducible apply keep_trayWrite | with_reducible apply out_next
    | (simp only [keep_mk]; with_reducible apply keepF_of)

theorem keep_updSegment (h : Keep s0 s) (a2 a3) : Keep s0 (updSegment s a2 a3) := by
  unfold updSegment
  repeat' first
    | with_reducible assumption | (simp only [keep_mk]; with_reducible apply keepF_of)

theorem keep_updTarget (h : Keep s0 s) (a2 a3 a4) : Keep s0 (updTarget s a2 a3 a4) := by
  unfold updTarget
  repeat' first
    | with_reducible assumption | (simp only [keep_mk]; with_reducible apply keepF_of)

theorem keep_applyFallbacks (h : Keep s0 s) (a1) : Keep s0 (applyFallbacks a1 s) := by
  unfold applyFallbacks
  repeat' first
    | intro x | with_reducible assumption | with_reducible apply keep_forEach | with_reducible apply keep_loseOptic
    | with_reducible apply keep_standingFence | with_reducible apply keep_movePort | with_reducible apply keep_notePwr
    | (lift_lets -underBinder; intro x; clear_value x) | (simp only [keep_mk]; with_reducible apply keepF_of) | split

theorem keep_failTarget (h : Keep s0 s) (a2 a3) : Keep s0 (failTarget s a2 a3) := by
  unfold failTarget
  repeat' first
    | (intro x; refine keepCut (s0 := s0) x ?_ ?_; rotate_left; intro hx; clear_value x; rotate_left; subst x)
    | (intro x; clear_value x) | with_reducible assumption | with_reducible apply keep_recordHead
    | with_reducible apply keep_updTarget | with_reducible apply keep_updSegment
    | (lift_lets -underBinder; intro x; first | (refine keepCut (s0 := s0) x ?_ ?_; rotate_left; intro hx; clear_value x; rotate_left; subst x) | clear_value x | skip)
    | split

theorem keep_takeReading (h : Keep s0 s) (a2 a3 a4) : Keep s0 (takeReading s a2 a3 a4) := by
  unfold takeReading
  repeat' first
    | (intro x; refine keepCut (s0 := s0) x ?_ ?_; rotate_left; intro hx; clear_value x; rotate_left; subst x)
    | (intro x; clear_value x) | with_reducible assumption | with_reducible apply keep_updTarget
    | with_reducible apply keep_recordHead
    | (lift_lets -underBinder; intro x; first | (refine keepCut (s0 := s0) x ?_ ?_; rotate_left; intro hx; clear_value x; rotate_left; subst x) | clear_value x | skip)
    | (simp only [keep_mk]; with_reducible apply keepF_of) | split

theorem keep_clearSegment (h : Keep s0 s) (a2) : Keep s0 (clearSegment s a2) := by
  unfold clearSegment
  repeat' first
    | with_reducible assumption | with_reducible apply keep_recordHead | with_reducible apply keep_updSegment

theorem keep_execLocalBusPoll (h : Keep s0 s) (a1 a2 a3 a4) : OutKeep s0 (execLocalBusPoll a1 a2 a3 a4 s) := by
  unfold execLocalBusPoll
  repeat' first
    | with_reducible assumption | with_reducible apply keep_clearSegment | with_reducible apply keep_updSegment
    | with_reducible apply keep_applyFallbacks | with_reducible apply keep_takeReading
    | with_reducible apply keep_failTarget | with_reducible apply keep_updTarget | with_reducible apply out_next
    | (simp only [keep_mk]; with_reducible apply keepF_of) | split

theorem keep_endProbe (h : Keep s0 s) (a2) : Keep s0 (endProbe s a2) := by
  unfold endProbe
  repeat' first
    | (intro x; refine keepCut (s0 := s0) x ?_ ?_; rotate_left; intro hx; clear_value x; rotate_left; subst x)
    | (intro x; clear_value x) | intro x | with_reducible assumption | with_reducible apply keep_forEach
    | with_reducible apply keep_updTarget | with_reducible apply keep_recordHead
    | with_reducible apply keep_updSegment | with_reducible apply keep_failTarget
    | with_reducible apply keep_forEach | with_reducible apply keep_foldl
    | (lift_lets -underBinder; intro x; first | (refine keepCut (s0 := s0) x ?_ ?_; rotate_left; intro hx; clear_value x; rotate_left; subst x) | clear_value x | skip)
    | (simp only [keep_mk]; with_reducible apply keepF_of) | split

theorem keep_execSegmentProbe (h : Keep s0 s) (a1 a2) : OutKeep s0 (execSegmentProbe a1 a2 s) := by
  unfold execSegmentProbe
  repeat' first
    | with_reducible assumption | with_reducible apply keep_updSegment | with_reducible apply keep_applyFallbacks
    | with_reducible apply keep_endProbe | with_reducible apply out_next | split

theorem keep_execFailedTargetProbe (h : Keep s0 s) (a1 a2 a3) : OutKeep s0 (execFailedTargetProbe a1 a2 a3 s) := by
  unfold execFailedTargetProbe
  repeat' first
    | with_reducible assumption | with_reducible apply keep_updTarget | with_reducible apply keep_recordHead
    | with_reducible apply keep_updSegment | with_reducible apply keep_applyFallbacks
    | with_reducible apply out_next | split

theorem keep_execSegmentPowerRestore (h : Keep s0 s) (a1 a2 a3) : OutKeep s0 (execSegmentPowerRestore a1 a2 a3 s) := by
  unfold execSegmentPowerRestore
  repeat' first
    | (intro x; refine keepCut (s0 := s0) x ?_ ?_; rotate_left; intro hx; clear_value x; rotate_left; subst x)
    | (intro x; clear_value x) | intro x | with_reducible assumption | with_reducible apply keep_updSegment
    | with_reducible apply keep_clearSegment | with_reducible apply keep_recordHead
    | with_reducible apply keep_forEach | with_reducible apply keep_applyFallbacks | with_reducible apply out_next
    | with_reducible apply keep_forEach | with_reducible apply keep_foldl
    | (lift_lets -underBinder; intro x; first | (refine keepCut (s0 := s0) x ?_ ?_; rotate_left; intro hx; clear_value x; rotate_left; subst x) | clear_value x | skip)
    | (simp only [keep_mk]; with_reducible apply keepF_of) | split

theorem keep_execEmptyingCovesFree (h : Keep s0 s) : OutKeep s0 (execEmptyingCovesFree s) := by
  unfold execEmptyingCovesFree
  repeat' first
    | (intro x; refine keepCut (s0 := s0) x ?_ ?_; rotate_left; intro hx; clear_value x; rotate_left; subst x)
    | (intro x; clear_value x) | intro x | with_reducible assumption | with_reducible apply keep_forEach
    | with_reducible apply keep_fencePort | with_reducible apply keep_updCove | with_reducible apply keep_appendRec
    | with_reducible apply keep_writeLedger | with_reducible apply out_next | with_reducible apply keep_forEach
    | with_reducible apply keep_foldl
    | (lift_lets -underBinder; intro x; first | (refine keepCut (s0 := s0) x ?_ ?_; rotate_left; intro hx; clear_value x; rotate_left; subst x) | clear_value x | skip)
    | (simp only [keep_mk]; with_reducible apply keepF_of) | split

theorem keep_execSafeToRemove (h : Keep s0 s) : OutKeep s0 (execSafeToRemove s) := by
  unfold execSafeToRemove
  repeat' first
    | with_reducible assumption | with_reducible apply keep_recordHead | with_reducible apply out_next
    | (simp only [keep_mk]; with_reducible apply keepF_of) | split

end Sys2Proof.Laws
end

