-- ==== Sys2Proof/Laws/KeepHost.lean ====
section
/-!
SUPPORT. The commands of the host keep the build, the queue and canonical memories.
-/
namespace Sys2Proof.Laws
open Sys2Proof Sys2Proof.Machine

variable {s0 s t : State}

theorem keep_after (h : Keep s0 s) {r : Result} (hr : OutKeep s0 r) : Keep s0 (after s r) := by
  obtain ⟨t, rfl, ht⟩ := hr
  exact ht

theorem keep_ringSettle (h : Keep s0 s) (a2) : Keep s0 (ringSettle s a2) := by
  unfold ringSettle
  repeat' first
    | with_reducible assumption | with_reducible apply keep_updRing | split

theorem keep_writeRingCtrl (h : Keep s0 s) (a2 a3) : Keep s0 (writeRingCtrl s a2 a3) := by
  unfold writeRingCtrl
  repeat' first
    | with_reducible assumption | with_reducible apply keep_updRing | with_reducible apply keep_ringSettle
    | with_reducible apply keep_drainLines

theorem keep_writeRingRd (h : Keep s0 s) (a2 a3 a4) : Keep s0 (writeRingRd s a2 a3 a4) := by
  unfold writeRingRd
  repeat' first
    | with_reducible assumption | with_reducible apply keep_hostError | with_reducible apply keep_ringSettle
    | with_reducible apply keep_drainLines | with_reducible apply keep_updRing
    | (lift_lets -underBinder; intro x; clear_value x) | split

theorem keep_effectSringEnable (h : Keep s0 s) (a1 a2) : OutKeep s0 (effectSringEnable a1 a2 s) := by
  unfold effectSringEnable
  repeat' first
    | with_reducible assumption | with_reducible apply keep_writeRingCtrl | with_reducible apply out_next | split

theorem keep_effectSringRdWrite (h : Keep s0 s) (a1 a2) : OutKeep s0 (effectSringRdWrite a1 a2 s) := by
  unfold effectSringRdWrite
  repeat' first
    | with_reducible assumption | with_reducible apply keep_writeRingRd | with_reducible apply out_next | split

theorem keep_execStatusLineWrite (h : Keep s0 s) (a1) : OutKeep s0 (execStatusLineWrite a1 s) := by
  unfold execStatusLineWrite
  repeat' first
    | with_reducible assumption | with_reducible apply keep_ringSettle | with_reducible apply keep_drainLines
    | with_reducible apply out_next | split

theorem keep_copyOverride (h : Keep s0 s) : Keep s0 (copyOverride s) := by
  unfold copyOverride
  repeat' first
    | with_reducible assumption | with_reducible apply keep_appendRec

theorem keep_effectTideOverrideWrite (h : Keep s0 s) (a1 a2) : OutKeep s0 (effectTideOverrideWrite a1 a2 s) := by
  unfold effectTideOverrideWrite
  repeat' first
    | with_reducible assumption | with_reducible apply keep_copyOverride | with_reducible apply out_next
    | (simp only [keep_mk]; with_reducible apply keepF_of)

theorem keep_setMasked (h : Keep s0 s) (a2 a3 a4) : Keep s0 (setMasked s a2 a3 a4) := by
  unfold setMasked
  repeat' first
    | with_reducible assumption | with_reducible apply keep_setReg

theorem keep_writeCv (h : Keep s0 s) (a2 a3 a4 a5 a6) : Keep s0 (writeCv s a2 a3 a4 a5 a6) := by
  unfold writeCv
  repeat' first
    | with_reducible assumption | with_reducible apply keep_setMasked | with_reducible apply keep_hostError
    | with_reducible apply keep_after | with_reducible apply keep_effectCvJobtagWrite
    | with_reducible apply keep_effectCvUmapWrite | with_reducible apply keep_effectCvBarnWrite
    | with_reducible apply keep_writeCvCtrl | with_reducible apply keep_effectCvDiesWrite
    | with_reducible apply keep_effectCvQuotaWrite | with_reducible apply keep_effectCvClogCtrlEnable
    | with_reducible apply keep_effectCvClogRdWrite | with_reducible apply keep_effectCvSrCtrlEnable
    | with_reducible apply keep_effectCvEvalCtrlArm | with_reducible apply keep_writeRingCtrl
    | with_reducible apply keep_writeRingRd | with_reducible apply keep_effectLoadQueueEnable
    | with_reducible apply keep_effectLoadQueueDoorbell | with_reducible apply keep_effectCvLdigCtrlEnable | split

theorem keep_writeTide (h : Keep s0 s) (a2 a3) : Keep s0 (writeTide s a2 a3) := by
  unfold writeTide
  repeat' first
    | with_reducible assumption | with_reducible apply keep_updCoveTide | with_reducible apply keep_writeCswitch
    | with_reducible apply keep_after | with_reducible apply keep_effectTideCRestartWrite
    | with_reducible apply keep_effectTideOverrideWrite | with_reducible apply keep_writeMswitch
    | with_reducible apply keep_effectTideDataWrite | (simp only [keep_mk]; with_reducible apply keepF_of) | split

theorem keep_writeLoad (h : Keep s0 s) (a2 a3) : Keep s0 (writeLoad s a2 a3) := by
  unfold writeLoad
  repeat' first
    | intro x | with_reducible assumption | with_reducible apply keep_setMasked | with_reducible apply keep_forEach
    | with_reducible apply keep_freeTick | with_reducible apply keep_after
    | with_reducible apply keep_effectLoadConnConnect | with_reducible apply keep_effectLoadConnDisconnect
    | with_reducible apply keep_effectLoadQueueEnable | with_reducible apply keep_effectLoadQueueDoorbell | split

theorem keep_clearCkptStatus (h : Keep s0 s) (a2 a3) : Keep s0 (clearCkptStatus s a2 a3) := by
  unfold clearCkptStatus
  repeat' first
    | with_reducible assumption | with_reducible apply keep_updCkpt

theorem keep_writeCkptWindow (h : Keep s0 s) (a2 a3 a4 a5) : Keep s0 (writeCkptWindow s a2 a3 a4 a5) := by
  unfold writeCkptWindow
  repeat' first
    | with_reducible assumption | with_reducible apply keep_writeCkptPlain | with_reducible apply keep_clearCkptStatus
    | with_reducible apply keep_after | with_reducible apply keep_effectCkptStandinWrite
    | with_reducible apply keep_setMasked | split

theorem keep_writeCkptBlock (h : Keep s0 s) (a2 a3) : Keep s0 (writeCkptBlock s a2 a3) := by
  unfold writeCkptBlock
  repeat' first
    | (intro x; clear_value x) | with_reducible assumption | with_reducible apply keep_after
    | with_reducible apply keep_effectCkptRemapWrite | with_reducible apply keep_writeCkptWindow
    | (lift_lets -underBinder; intro x; clear_value x) | split

theorem keep_writeRoute (h : Keep s0 s) (a2 a3) : Keep s0 (writeRoute s a2 a3) := by
  unfold writeRoute
  repeat' first
    | with_reducible assumption | with_reducible apply keep_after | with_reducible apply keep_effectRouteDataWrite
    | with_reducible apply keep_writeRouteCtrl | (simp only [keep_mk]; with_reducible apply keepF_of) | split

theorem keep_writeChaff (h : Keep s0 s) (a2) : Keep s0 (writeChaff s a2) := by
  unfold writeChaff
  repeat' first
    | with_reducible assumption | (simp only [keep_mk]; with_reducible apply keepF_of)

theorem keep_writeHealth (h : Keep s0 s) (a2 a3 a4) : Keep s0 (writeHealth s a2 a3 a4) := by
  unfold writeHealth
  repeat' first
    | with_reducible assumption | with_reducible apply keep_setMasked | with_reducible apply keep_writeFenceCmd
    | with_reducible apply keep_writeChaff | with_reducible apply keep_after
    | with_reducible apply keep_effectHealthErrRdWrite | with_reducible apply keep_effectHealthErrFetch
    | with_reducible apply keep_effectHealthCntFetch | split

theorem keep_writeTrace (h : Keep s0 s) (a2 a3 a4) : Keep s0 (writeTrace s a2 a3 a4) := by
  unfold writeTrace
  repeat' first
    | with_reducible assumption | with_reducible apply keep_after
    | with_reducible apply keep_effectTraceCWtCtrlWrite | with_reducible apply keep_setMasked
    | with_reducible apply keep_effectTraceCWtRdWrite | with_reducible apply keep_effectTraceSlFetch | split

theorem keep_writeRecov (h : Keep s0 s) (a2 a3) : Keep s0 (writeRecov s a2 a3) := by
  unfold writeRecov
  repeat' first
    | with_reducible assumption | with_reducible apply keep_writeRecovCmd | with_reducible apply keep_after
    | with_reducible apply keep_effectRecovWrackFree | with_reducible apply keep_setMasked
    | with_reducible apply keep_effectRecovWrackCopy | (simp only [keep_mk]; with_reducible apply keepF_of) | split

theorem keep_writeFwCmd (h : Keep s0 s) (a2) : Keep s0 (writeFwCmd s a2) := by
  unfold writeFwCmd
  repeat' first
    | with_reducible assumption | with_reducible apply keep_freeTick | with_reducible apply keep_after
    | with_reducible apply keep_effectFwWriteImage | with_reducible apply keep_effectFwWriteSettings
    | with_reducible apply keep_effectFwReadSettings | with_reducible apply keep_effectFwSelectSlot
    | with_reducible apply keep_effectFwLiveUpdate | with_reducible apply keep_effectFwSafeHarbourRequest
    | with_reducible apply keep_startFw | split

theorem keep_regWrite (h : Keep s0 s) (a2 a3 a4 a5) : Keep s0 (regWrite s a2 a3 a4 a5) := by
  unfold regWrite
  repeat' first
    | with_reducible assumption | with_reducible apply keep_setMasked | with_reducible apply keep_writeTide
    | with_reducible apply keep_writeCv | with_reducible apply keep_writeRingCtrl
    | with_reducible apply keep_writeRingRd | with_reducible apply keep_writeLoad
    | with_reducible apply keep_writeCkptBlock | with_reducible apply keep_writeFabCtrl
    | with_reducible apply keep_writeRoute | with_reducible apply keep_writeHealth
    | with_reducible apply keep_writeTrace | with_reducible apply keep_writeRecov
    | with_reducible apply keep_writeFwCmd | (lift_lets -underBinder; intro x; clear_value x)
    | (simp only [keep_mk]; with_reducible apply keepF_of) | split

theorem keep_dropHeld (h : Keep s0 s) (a2 a3) : Keep s0 (dropHeld s a2 a3) := by
  unfold dropHeld
  repeat' first
    | with_reducible assumption | with_reducible apply keep_hostError | with_reducible apply keep_updFn | split

theorem keep_readEffect (h : Keep s0 s) (a2 a3) : Keep s0 (readEffect s a2 a3) := by
  unfold readEffect
  repeat' first
    | with_reducible assumption | with_reducible apply keep_after
    | with_reducible apply keep_effectHealthLedgerDataRead | with_reducible apply keep_effectCvPlaceDataRead | split

theorem keep_read32 (h : Keep s0 s) (a2 a3) : Keep s0 (read32 s a2 a3).2 := by
  unfold read32
  repeat' first
    | with_reducible assumption | with_reducible apply keep_dropHeld | with_reducible apply keep_readEffect
    | with_reducible apply keep_updFn
    | (lift_lets -underBinder; intro x; (refine keepCut (s0 := s0) x ?_ ?_; rotate_left; intro hx; clear_value x; rotate_left; subst x))
    | split

theorem keep_readBar (h : Keep s0 s) (a2 a3 a4) : Keep s0 (readBar s a2 a3 a4).2 := by
  unfold readBar
  repeat' first
    | with_reducible assumption | with_reducible apply keep_read32 | with_reducible apply keep_dropHeld
    | with_reducible apply keep_readEffect | split

theorem keep_write32 (h : Keep s0 s) (a2 a3 a4) : Keep s0 (write32 s a2 a3 a4) := by
  unfold write32
  repeat' first
    | with_reducible assumption | with_reducible apply keep_hostError | with_reducible apply keep_regWrite
    | with_reducible apply keep_dropHeld | with_reducible apply keep_updFn | split

theorem keep_writeBar (h : Keep s0 s) (a2 a3 a4 a5) : Keep s0 (writeBar s a2 a3 a4 a5) := by
  unfold writeBar
  repeat' first
    | with_reducible assumption | with_reducible apply keep_write32 | with_reducible apply keep_updFn
    | with_reducible apply keep_dropHeld | with_reducible apply keep_regWrite | split

theorem keep_answer (h : Keep s0 s) (a2) : Keep s0 (answer s a2) := by
  unfold answer
  repeat' first
    | with_reducible assumption | (simp only [keep_mk]; with_reducible apply keepF_of)

theorem keep_effectRegisterWrite (h : Keep s0 s) (a1 a2 a3 a4) : OutKeep s0 (effectRegisterWrite a1 a2 a3 a4 s) := by
  unfold effectRegisterWrite
  repeat' first
    | with_reducible assumption | with_reducible apply keep_writeBar | with_reducible apply keep_hostError
    | with_reducible apply out_next | split

theorem keep_effectRegisterRead (h : Keep s0 s) (a1 a2 a3) : OutKeep s0 (effectRegisterRead a1 a2 a3 s) := by
  unfold effectRegisterRead
  repeat' first
    | with_reducible assumption | with_reducible apply keep_readBar | with_reducible apply keep_freeTick
    | with_reducible apply keep_answer | with_reducible apply keep_hostError | with_reducible apply out_next | split

theorem keep_setVfs (h : Keep s0 s) (a2 a3) : Keep s0 (setVfs s a2 a3) := by
  unfold setVfs
  repeat' first
    | with_reducible assumption | with_reducible apply keep_recordHead
    | (simp only [keep_mk]; with_reducible apply keepF_of) | split

theorem keep_stopQueue (h : Keep s0 s) (a2 a3) : Keep s0 (stopQueue s a2 a3) := by
  unfold stopQueue
  repeat' first
    | intro x | with_reducible assumption | with_reducible apply keep_forEach | with_reducible apply keep_endLoad
    | with_reducible apply keep_recordCove | with_reducible apply keep_updRing | with_reducible apply keep_updQueue
    | with_reducible apply keep_setReg | split

theorem keep_stopRing (h : Keep s0 s) (a2) : Keep s0 (stopRing s a2) := by
  unfold stopRing
  repeat' first
    | with_reducible assumption | with_reducible apply keep_setReg | with_reducible apply keep_updRing

theorem keep_stopWindow (h : Keep s0 s) (a2) : Keep s0 (stopWindow s a2) := by
  unfold stopWindow
  repeat' first
    | intro x | with_reducible assumption | with_reducible apply keep_forEach | with_reducible apply keep_setReg

theorem keep_endHostWains (h : Keep s0 s) (a2) : Keep s0 (endHostWains s a2) := by
  unfold endHostWains
  repeat' first
    | intro x | with_reducible assumption | with_reducible apply keep_forEach | with_reducible apply keep_failWain
    | split

theorem keep_resetFn (h : Keep s0 s) (a2) : Keep s0 (resetFn s a2) := by
  unfold resetFn
  repeat' first
    | with_reducible assumption | with_reducible apply keep_updFn

theorem keep_execPcieLinkReset (h : Keep s0 s) : OutKeep s0 (execPcieLinkReset s) := by
  unfold execPcieLinkReset
  repeat' first
    | intro x | with_reducible assumption | with_reducible apply keep_forEach | with_reducible apply keep_stopRing
    | with_reducible apply keep_resetFn | with_reducible apply keep_stopQueue | with_reducible apply keep_stopWindow
    | with_reducible apply keep_endHostWains | with_reducible apply keep_after
    | with_reducible apply keep_effectLoadConnDisconnect | with_reducible apply keep_setReg
    | with_reducible apply keep_recordHead | with_reducible apply keep_setVfs | with_reducible apply out_next
    | (lift_lets -underBinder; intro x; clear_value x) | (simp only [keep_mk]; with_reducible apply keepF_of)

theorem keep_execPcieLinkUp (h : Keep s0 s) (a1 a2) : OutKeep s0 (execPcieLinkUp a1 a2 s) := by
  unfold execPcieLinkUp
  repeat' first
    | with_reducible assumption | with_reducible apply keep_recordHead | with_reducible apply out_next
    | (simp only [keep_mk]; with_reducible apply keepF_of) | split

theorem keep_execVfFlr (h : Keep s0 s) (a1) : OutKeep s0 (execVfFlr a1 s) := by
  unfold execVfFlr
  repeat' first
    | with_reducible assumption | with_reducible apply keep_stopQueue | with_reducible apply keep_stopRing
    | with_reducible apply keep_resetFn | with_reducible apply keep_recordHead | with_reducible apply keep_stopWindow
    | with_reducible apply keep_endHostWains | with_reducible apply out_next
    | (lift_lets -underBinder; intro x; refine keepCut (s0 := s0) x ?_ ?_; rotate_left; intro hx; clear_value x; rotate_left; subst x)
    | split

theorem keep_execPfFlr (h : Keep s0 s) : OutKeep s0 (execPfFlr s) := by
  unfold execPfFlr
  repeat' first
    | with_reducible assumption | with_reducible apply keep_moduleReset | with_reducible apply keep_setVfs
    | with_reducible apply keep_recordHead | with_reducible apply out_next | split

theorem keep_execD3hotEntry (h : Keep s0 s) (a1) : OutKeep s0 (execD3hotEntry a1 s) := by
  unfold execD3hotEntry
  repeat' first
    | with_reducible assumption | with_reducible apply keep_updFn | with_reducible apply keep_recordHead
    | with_reducible apply keep_endHostWains | with_reducible apply out_next
    | (lift_lets -underBinder; intro x; refine keepCut (s0 := s0) x ?_ ?_; rotate_left; intro hx; clear_value x; rotate_left; subst x)
    | split

theorem keep_execD0Return (h : Keep s0 s) (a1) : OutKeep s0 (execD0Return a1 s) := by
  unfold execD0Return
  repeat' first
    | with_reducible assumption | with_reducible apply keep_updFn | with_reducible apply keep_recordHead
    | with_reducible apply keep_ringSettle | with_reducible apply keep_drainLines | with_reducible apply out_next
    | split

theorem keep_cfgWrite (h : Keep s0 s) (a2 a3 a4) : Keep s0 (cfgWrite s a2 a3 a4) := by
  unfold cfgWrite
  repeat' first
    | with_reducible assumption | with_reducible apply keep_updFn | with_reducible apply keep_after
    | with_reducible apply keep_execD3hotEntry | with_reducible apply keep_execD0Return
    | with_reducible apply keep_execPfFlr | with_reducible apply keep_execVfFlr | with_reducible apply keep_setVfs
    | (lift_lets -underBinder; intro x; refine keepCut (s0 := s0) x ?_ ?_; rotate_left; intro hx; clear_value x; rotate_left; subst x)
    | split

theorem keep_execConfigRequest (h : Keep s0 s) (a1 a2 a3 a4) : OutKeep s0 (execConfigRequest a1 a2 a3 a4 s) := by
  unfold execConfigRequest
  repeat' first
    | with_reducible assumption | with_reducible apply keep_answer | with_reducible apply keep_cfgWrite
    | with_reducible apply keep_freeTick | with_reducible apply out_next | split

theorem keep_touch (h : Keep s0 s) (a2 a3) : Keep s0 (touch s a2 a3) := by
  unfold touch
  repeat' first
    | with_reducible assumption | with_reducible apply keep_updFn | with_reducible apply keep_dropHeld | split

theorem keep_barWrite (h : Keep s0 s) (a2 a3 a4 a5 a6 a7) (h7 : ∀ x, Keep s0 x → OutKeep s0 (a7 x)) :
    OutKeep s0 (barWrite s a2 a3 a4 a5 a6 a7) := by
  unfold barWrite
  repeat' first
    | with_reducible assumption | with_reducible apply h7 | with_reducible apply keep_hostError
    | with_reducible apply out_next | (simp only [keep_mk]; with_reducible apply keepF_of) | split

theorem keep_barRead (h : Keep s0 s) (a2 a3 a4 a5 a6 a7) (h7 : ∀ x, Keep s0 x → OutKeep s0 (a7 x)) :
    OutKeep s0 (barRead s a2 a3 a4 a5 a6 a7) := by
  unfold barRead
  repeat' first
    | with_reducible assumption | with_reducible apply h7 | with_reducible apply keep_answer
    | with_reducible apply keep_dropHeld | with_reducible apply out_next | split

theorem keep_execTideDataWrite (h : Keep s0 s) (a1) : OutKeep s0 (execTideDataWrite a1 s) := by
  unfold execTideDataWrite
  repeat' first
    | intro x | with_reducible assumption | with_reducible apply keep_barWrite
    | with_reducible apply keep_effectTideDataWrite | with_reducible apply keep_touch

theorem keep_execModuleSwitchArm (h : Keep s0 s) (a1) : OutKeep s0 (execModuleSwitchArm a1 s) := by
  unfold execModuleSwitchArm
  repeat' first
    | intro x | with_reducible assumption | with_reducible apply keep_barWrite
    | with_reducible apply keep_effectModuleSwitchArm | with_reducible apply keep_touch

theorem keep_execModuleSwitchReapply (h : Keep s0 s) (a1) : OutKeep s0 (execModuleSwitchReapply a1 s) := by
  unfold execModuleSwitchReapply
  repeat' first
    | intro x | with_reducible assumption | with_reducible apply keep_barWrite
    | with_reducible apply keep_effectModuleSwitchReapply | with_reducible apply keep_touch

theorem keep_execCoveSwitchArm (h : Keep s0 s) (a1 a2) : OutKeep s0 (execCoveSwitchArm a1 a2 s) := by
  unfold execCoveSwitchArm
  repeat' first
    | intro x | with_reducible assumption | with_reducible apply keep_barWrite
    | with_reducible apply keep_effectCoveSwitchArm | with_reducible apply keep_touch

theorem keep_execCoveSwitchReapply (h : Keep s0 s) (a1 a2) : OutKeep s0 (execCoveSwitchReapply a1 a2 s) := by
  unfold execCoveSwitchReapply
  repeat' first
    | intro x | with_reducible assumption | with_reducible apply keep_barWrite
    | with_reducible apply keep_effectCoveSwitchReapply | with_reducible apply keep_touch

theorem keep_execTideCRestartWrite (h : Keep s0 s) (a1 a2 a3) : OutKeep s0 (execTideCRestartWrite a1 a2 a3 s) := by
  unfold execTideCRestartWrite
  repeat' first
    | intro x | with_reducible assumption | with_reducible apply keep_barWrite
    | with_reducible apply keep_effectTideCRestartWrite | with_reducible apply keep_touch

theorem keep_execRouteDataWrite (h : Keep s0 s) (a1) : OutKeep s0 (execRouteDataWrite a1 s) := by
  unfold execRouteDataWrite
  repeat' first
    | intro x | with_reducible assumption | with_reducible apply keep_barWrite
    | with_reducible apply keep_effectRouteDataWrite | with_reducible apply keep_touch

theorem keep_execRouteSwitchArm (h : Keep s0 s) (a1) : OutKeep s0 (execRouteSwitchArm a1 s) := by
  unfold execRouteSwitchArm
  repeat' first
    | intro x | with_reducible assumption | with_reducible apply keep_barWrite
    | with_reducible apply keep_effectRouteSwitchArm | with_reducible apply keep_touch

theorem keep_execRouteReapply (h : Keep s0 s) (a1) : OutKeep s0 (execRouteReapply a1 s) := by
  unfold execRouteReapply
  repeat' first
    | intro x | with_reducible assumption | with_reducible apply keep_barWrite
    | with_reducible apply keep_effectRouteReapply | with_reducible apply keep_touch

theorem keep_execFabCtrlHfenceSet (h : Keep s0 s) (a1 a2) : OutKeep s0 (execFabCtrlHfenceSet a1 a2 s) := by
  unfold execFabCtrlHfenceSet
  repeat' first
    | intro x | with_reducible assumption | with_reducible apply keep_barWrite
    | with_reducible apply keep_effectFabCtrlHfenceSet | with_reducible apply keep_touch

theorem keep_execFabCtrlHfenceClear (h : Keep s0 s) (a1 a2) : OutKeep s0 (execFabCtrlHfenceClear a1 a2 s) := by
  unfold execFabCtrlHfenceClear
  repeat' first
    | intro x | with_reducible assumption | with_reducible apply keep_barWrite
    | with_reducible apply keep_effectFabCtrlHfenceClear | with_reducible apply keep_touch

theorem keep_execFabCtrlEnClear (h : Keep s0 s) (a1 a2) : OutKeep s0 (execFabCtrlEnClear a1 a2 s) := by
  unfold execFabCtrlEnClear
  repeat' first
    | intro x | with_reducible assumption | with_reducible apply keep_barWrite
    | with_reducible apply keep_effectFabCtrlEnClear | with_reducible apply keep_touch

theorem keep_execFabCtrlRelease (h : Keep s0 s) (a1 a2) : OutKeep s0 (execFabCtrlRelease a1 a2 s) := by
  unfold execFabCtrlRelease
  repeat' first
    | intro x | with_reducible assumption | with_reducible apply keep_barWrite
    | with_reducible apply keep_effectFabCtrlRelease | with_reducible apply keep_touch

theorem keep_execLeaseTableWrite (h : Keep s0 s) (a1 a2) : OutKeep s0 (execLeaseTableWrite a1 a2 s) := by
  unfold execLeaseTableWrite
  repeat' first
    | intro x | with_reducible assumption | with_reducible apply keep_barWrite
    | with_reducible apply keep_effectLeaseTableWrite

theorem keep_execCvCtrlStart (h : Keep s0 s) (a1 a2 a3) : OutKeep s0 (execCvCtrlStart a1 a2 a3 s) := by
  unfold execCvCtrlStart
  repeat' first
    | intro x | with_reducible assumption | with_reducible apply keep_barWrite
    | with_reducible apply keep_effectCvCtrlStart | with_reducible apply keep_touch

theorem keep_execCvCtrlStop (h : Keep s0 s) (a1 a2 a3) : OutKeep s0 (execCvCtrlStop a1 a2 a3 s) := by
  unfold execCvCtrlStop
  repeat' first
    | intro x | with_reducible assumption | with_reducible apply keep_barWrite
    | with_reducible apply keep_effectCvCtrlStop | with_reducible apply keep_touch

theorem keep_execCvCtrlHold (h : Keep s0 s) (a1 a2 a3) : OutKeep s0 (execCvCtrlHold a1 a2 a3 s) := by
  unfold execCvCtrlHold
  repeat' first
    | intro x | with_reducible assumption | with_reducible apply keep_barWrite
    | with_reducible apply keep_effectCvCtrlHold | with_reducible apply keep_touch

theorem keep_execCvDiesWrite (h : Keep s0 s) (a1 a2 a3) : OutKeep s0 (execCvDiesWrite a1 a2 a3 s) := by
  unfold execCvDiesWrite
  repeat' first
    | intro x | with_reducible assumption | with_reducible apply keep_barWrite
    | with_reducible apply keep_effectCvDiesWrite | with_reducible apply keep_touch

theorem keep_execCvUmapWrite (h : Keep s0 s) (a1 a2 a3 a4) : OutKeep s0 (execCvUmapWrite a1 a2 a3 a4 s) := by
  unfold execCvUmapWrite
  repeat' first
    | intro x | with_reducible assumption | with_reducible apply keep_barWrite
    | with_reducible apply keep_effectCvUmapWrite | with_reducible apply keep_touch

theorem keep_execCvQuotaWrite (h : Keep s0 s) (a1 a2 a3) : OutKeep s0 (execCvQuotaWrite a1 a2 a3 s) := by
  unfold execCvQuotaWrite
  repeat' first
    | intro x | with_reducible assumption | with_reducible apply keep_barWrite
    | with_reducible apply keep_effectCvQuotaWrite | with_reducible apply keep_touch

theorem keep_execCvJobtagWrite (h : Keep s0 s) (a1 a2 a3 a4) : OutKeep s0 (execCvJobtagWrite a1 a2 a3 a4 s) := by
  unfold execCvJobtagWrite
  repeat' first
    | intro x | with_reducible assumption | with_reducible apply keep_barWrite
    | with_reducible apply keep_effectCvJobtagWrite | with_reducible apply keep_touch

theorem keep_execCvEvalCtrlArm (h : Keep s0 s) (a1 a2 a3) : OutKeep s0 (execCvEvalCtrlArm a1 a2 a3 s) := by
  unfold execCvEvalCtrlArm
  repeat' first
    | intro x | with_reducible assumption | with_reducible apply keep_barWrite
    | with_reducible apply keep_effectCvEvalCtrlArm | with_reducible apply keep_touch

theorem keep_execCvSrCtrlEnable (h : Keep s0 s) (a1 a2 a3) : OutKeep s0 (execCvSrCtrlEnable a1 a2 a3 s) := by
  unfold execCvSrCtrlEnable
  repeat' first
    | intro x | with_reducible assumption | with_reducible apply keep_barWrite
    | with_reducible apply keep_effectCvSrCtrlEnable | with_reducible apply keep_touch

theorem keep_execCvLdigCtrlEnable (h : Keep s0 s) (a1 a2 a3) : OutKeep s0 (execCvLdigCtrlEnable a1 a2 a3 s) := by
  unfold execCvLdigCtrlEnable
  repeat' first
    | intro x | with_reducible assumption | with_reducible apply keep_barWrite
    | with_reducible apply keep_effectCvLdigCtrlEnable | with_reducible apply keep_touch

theorem keep_execCvClogCtrlEnable (h : Keep s0 s) (a1 a2 a3) : OutKeep s0 (execCvClogCtrlEnable a1 a2 a3 s) := by
  unfold execCvClogCtrlEnable
  repeat' first
    | intro x | with_reducible assumption | with_reducible apply keep_barWrite
    | with_reducible apply keep_effectCvClogCtrlEnable | with_reducible apply keep_touch

theorem keep_execCvClogRdWrite (h : Keep s0 s) (a1 a2 a3) : OutKeep s0 (execCvClogRdWrite a1 a2 a3 s) := by
  unfold execCvClogRdWrite
  repeat' first
    | intro x | with_reducible assumption | with_reducible apply keep_barWrite
    | with_reducible apply keep_effectCvClogRdWrite | with_reducible apply keep_touch

theorem keep_execCvBarnWrite (h : Keep s0 s) (a1 a2 a3 a4) : OutKeep s0 (execCvBarnWrite a1 a2 a3 a4 s) := by
  unfold execCvBarnWrite
  repeat' first
    | intro x | with_reducible assumption | with_reducible apply keep_barWrite
    | with_reducible apply keep_effectCvBarnWrite | with_reducible apply keep_touch

theorem keep_execCvPlaceDataRead (h : Keep s0 s) (a1 a2) : OutKeep s0 (execCvPlaceDataRead a1 a2 s) := by
  unfold execCvPlaceDataRead
  repeat' first
    | intro x | with_reducible assumption | with_reducible apply keep_barRead
    | with_reducible apply keep_effectCvPlaceDataRead

theorem keep_execLoadQueueDoorbell (h : Keep s0 s) (a1 a2 a3) : OutKeep s0 (execLoadQueueDoorbell a1 a2 a3 s) := by
  unfold execLoadQueueDoorbell
  repeat' first
    | intro x | with_reducible assumption | with_reducible apply keep_barWrite
    | with_reducible apply keep_effectLoadQueueDoorbell | with_reducible apply keep_touch

theorem keep_execLoadQueueEnable (h : Keep s0 s) (a1 a2 a3) : OutKeep s0 (execLoadQueueEnable a1 a2 a3 s) := by
  unfold execLoadQueueEnable
  repeat' first
    | intro x | with_reducible assumption | with_reducible apply keep_barWrite
    | with_reducible apply keep_effectLoadQueueEnable | with_reducible apply keep_touch

theorem keep_execLoadConnConnect (h : Keep s0 s) (a1 a2 a3) : OutKeep s0 (execLoadConnConnect a1 a2 a3 s) := by
  unfold execLoadConnConnect
  repeat' first
    | intro x | with_reducible assumption | with_reducible apply keep_barWrite
    | with_reducible apply keep_effectLoadConnConnect | with_reducible apply keep_touch

theorem keep_execLoadConnDisconnect (h : Keep s0 s) (a1) : OutKeep s0 (execLoadConnDisconnect a1 s) := by
  unfold execLoadConnDisconnect
  repeat' first
    | intro x | with_reducible assumption | with_reducible apply keep_barWrite
    | with_reducible apply keep_effectLoadConnDisconnect | with_reducible apply keep_touch

theorem keep_execCkptTake (h : Keep s0 s) (a1 a2 a3) : OutKeep s0 (execCkptTake a1 a2 a3 s) := by
  unfold execCkptTake
  repeat' first
    | intro x | with_reducible assumption | with_reducible apply keep_barWrite
    | with_reducible apply keep_effectCkptTake | with_reducible apply keep_touch

theorem keep_execCkptFreeze (h : Keep s0 s) (a1 a2 a3) : OutKeep s0 (execCkptFreeze a1 a2 a3 s) := by
  unfold execCkptFreeze
  repeat' first
    | intro x | with_reducible assumption | with_reducible apply keep_barWrite
    | with_reducible apply keep_effectCkptFreeze | with_reducible apply keep_touch

theorem keep_execCkptThaw (h : Keep s0 s) (a1 a2) : OutKeep s0 (execCkptThaw a1 a2 s) := by
  unfold execCkptThaw
  repeat' first
    | intro x | with_reducible assumption | with_reducible apply keep_barWrite
    | with_reducible apply keep_effectCkptThaw | with_reducible apply keep_touch

theorem keep_execCkptRollback (h : Keep s0 s) (a1 a2) : OutKeep s0 (execCkptRollback a1 a2 s) := by
  unfold execCkptRollback
  repeat' first
    | intro x | with_reducible assumption | with_reducible apply keep_barWrite
    | with_reducible apply keep_effectCkptRollback | with_reducible apply keep_touch

theorem keep_execCkptRestore (h : Keep s0 s) (a1 a2 a3 a4) : OutKeep s0 (execCkptRestore a1 a2 a3 a4 s) := by
  unfold execCkptRestore
  repeat' first
    | intro x | with_reducible assumption | with_reducible apply keep_barWrite
    | with_reducible apply keep_effectCkptRestore | with_reducible apply keep_touch

theorem keep_execCkptAdopt (h : Keep s0 s) (a1 a2) : OutKeep s0 (execCkptAdopt a1 a2 s) := by
  unfold execCkptAdopt
  repeat' first
    | intro x | with_reducible assumption | with_reducible apply keep_barWrite
    | with_reducible apply keep_effectCkptAdopt | with_reducible apply keep_touch

theorem keep_execCkptStandinWrite (h : Keep s0 s) (a1 a2) : OutKeep s0 (execCkptStandinWrite a1 a2 s) := by
  unfold execCkptStandinWrite
  repeat' first
    | intro x | with_reducible assumption | with_reducible apply keep_barWrite
    | with_reducible apply keep_effectCkptStandinWrite | with_reducible apply keep_touch

theorem keep_execCkptRemapWrite (h : Keep s0 s) (a1 a2) : OutKeep s0 (execCkptRemapWrite a1 a2 s) := by
  unfold execCkptRemapWrite
  repeat' first
    | intro x | with_reducible assumption | with_reducible apply keep_barWrite
    | with_reducible apply keep_effectCkptRemapWrite | with_reducible apply keep_touch

theorem keep_execHealthFence (h : Keep s0 s) (a1) : OutKeep s0 (execHealthFence a1 s) := by
  unfold execHealthFence
  repeat' first
    | intro x | with_reducible assumption | with_reducible apply keep_barWrite
    | with_reducible apply keep_effectHealthFence | with_reducible apply keep_touch

theorem keep_execHealthFenceClear (h : Keep s0 s) (a1) : OutKeep s0 (execHealthFenceClear a1 s) := by
  unfold execHealthFenceClear
  repeat' first
    | intro x | with_reducible assumption | with_reducible apply keep_barWrite
    | with_reducible apply keep_effectHealthFenceClear | with_reducible apply keep_touch

theorem keep_execHealthLedgerDataRead (h : Keep s0 s) : OutKeep s0 (execHealthLedgerDataRead s) := by
  unfold execHealthLedgerDataRead
  repeat' first
    | with_reducible assumption | with_reducible apply keep_barRead
    | with_reducible apply keep_effectHealthLedgerDataRead

theorem keep_execRecovContextReset (h : Keep s0 s) (a1) : OutKeep s0 (execRecovContextReset a1 s) := by
  unfold execRecovContextReset
  repeat' first
    | intro x | with_reducible assumption | with_reducible apply keep_barWrite
    | with_reducible apply keep_effectRecovContextReset | with_reducible apply keep_touch

theorem keep_execRecovEngineReset (h : Keep s0 s) (a1) : OutKeep s0 (execRecovEngineReset a1 s) := by
  unfold execRecovEngineReset
  repeat' first
    | intro x | with_reducible assumption | with_reducible apply keep_barWrite
    | with_reducible apply keep_effectRecovEngineReset | with_reducible apply keep_touch

theorem keep_execRecovCoveReset (h : Keep s0 s) (a1) : OutKeep s0 (execRecovCoveReset a1 s) := by
  unfold execRecovCoveReset
  repeat' first
    | intro x | with_reducible assumption | with_reducible apply keep_barWrite
    | with_reducible apply keep_effectRecovCoveReset | with_reducible apply keep_touch

theorem keep_execRecovModuleReset (h : Keep s0 s) (a1) : OutKeep s0 (execRecovModuleReset a1 s) := by
  unfold execRecovModuleReset
  repeat' first
    | intro x | with_reducible assumption | with_reducible apply keep_barWrite
    | with_reducible apply keep_effectRecovModuleReset | with_reducible apply keep_touch

theorem keep_execRecovWrackFree (h : Keep s0 s) (a1) : OutKeep s0 (execRecovWrackFree a1 s) := by
  unfold execRecovWrackFree
  repeat' first
    | intro x | with_reducible assumption | with_reducible apply keep_barWrite
    | with_reducible apply keep_effectRecovWrackFree | with_reducible apply keep_touch

theorem keep_execRecovWrackCopy (h : Keep s0 s) (a1) : OutKeep s0 (execRecovWrackCopy a1 s) := by
  unfold execRecovWrackCopy
  repeat' first
    | intro x | with_reducible assumption | with_reducible apply keep_barWrite
    | with_reducible apply keep_effectRecovWrackCopy | with_reducible apply keep_touch

theorem keep_execHealthErrRdWrite (h : Keep s0 s) (a1 a2) : OutKeep s0 (execHealthErrRdWrite a1 a2 s) := by
  unfold execHealthErrRdWrite
  repeat' first
    | intro x | with_reducible assumption | with_reducible apply keep_barWrite
    | with_reducible apply keep_effectHealthErrRdWrite | with_reducible apply keep_touch

theorem keep_execHealthErrFetch (h : Keep s0 s) (a1 a2) : OutKeep s0 (execHealthErrFetch a1 a2 s) := by
  unfold execHealthErrFetch
  repeat' first
    | intro x | with_reducible assumption | with_reducible apply keep_barWrite
    | with_reducible apply keep_effectHealthErrFetch | with_reducible apply keep_touch

theorem keep_execHealthCntFetch (h : Keep s0 s) (a1 a2) : OutKeep s0 (execHealthCntFetch a1 a2 s) := by
  unfold execHealthCntFetch
  repeat' first
    | intro x | with_reducible assumption | with_reducible apply keep_barWrite
    | with_reducible apply keep_effectHealthCntFetch | with_reducible apply keep_touch

theorem keep_execTraceSlFetch (h : Keep s0 s) (a1 a2) : OutKeep s0 (execTraceSlFetch a1 a2 s) := by
  unfold execTraceSlFetch
  repeat' first
    | intro x | with_reducible assumption | with_reducible apply keep_barWrite
    | with_reducible apply keep_effectTraceSlFetch | with_reducible apply keep_touch

theorem keep_execTraceCWtCtrlWrite (h : Keep s0 s) (a1 a2 a3) : OutKeep s0 (execTraceCWtCtrlWrite a1 a2 a3 s) := by
  unfold execTraceCWtCtrlWrite
  repeat' first
    | intro x | with_reducible assumption | with_reducible apply keep_barWrite
    | with_reducible apply keep_effectTraceCWtCtrlWrite | with_reducible apply keep_touch

theorem keep_execTraceCWtRdWrite (h : Keep s0 s) (a1 a2 a3) : OutKeep s0 (execTraceCWtRdWrite a1 a2 a3 s) := by
  unfold execTraceCWtRdWrite
  repeat' first
    | intro x | with_reducible assumption | with_reducible apply keep_barWrite
    | with_reducible apply keep_effectTraceCWtRdWrite | with_reducible apply keep_touch

theorem keep_execRegisterWrite (h : Keep s0 s) (a1 a2 a3 a4) : OutKeep s0 (execRegisterWrite a1 a2 a3 a4 s) := by
  unfold execRegisterWrite
  repeat' first
    | intro x | with_reducible assumption | with_reducible apply keep_barWrite
    | with_reducible apply keep_effectRegisterWrite

theorem keep_execSringEnable (h : Keep s0 s) (a1 a2) : OutKeep s0 (execSringEnable a1 a2 s) := by
  unfold execSringEnable
  repeat' first
    | intro x | with_reducible assumption | with_reducible apply keep_barWrite
    | with_reducible apply keep_effectSringEnable | with_reducible apply keep_touch

theorem keep_execSringRdWrite (h : Keep s0 s) (a1 a2) : OutKeep s0 (execSringRdWrite a1 a2 s) := by
  unfold execSringRdWrite
  repeat' first
    | intro x | with_reducible assumption | with_reducible apply keep_barWrite
    | with_reducible apply keep_effectSringRdWrite | with_reducible apply keep_touch

theorem keep_execTideOverrideWrite (h : Keep s0 s) (a1 a2) : OutKeep s0 (execTideOverrideWrite a1 a2 s) := by
  unfold execTideOverrideWrite
  repeat' first
    | intro x | with_reducible assumption | with_reducible apply keep_barWrite
    | with_reducible apply keep_effectTideOverrideWrite | with_reducible apply keep_touch

theorem keep_execFwWriteImage (h : Keep s0 s) (a1 a2 a3) : OutKeep s0 (execFwWriteImage a1 a2 a3 s) := by
  unfold execFwWriteImage
  repeat' first
    | intro x | with_reducible assumption | with_reducible apply keep_barWrite
    | with_reducible apply keep_effectFwWriteImage | with_reducible apply keep_touch

theorem keep_execFwWriteSettings (h : Keep s0 s) (a1 a2) : OutKeep s0 (execFwWriteSettings a1 a2 s) := by
  unfold execFwWriteSettings
  repeat' first
    | intro x | with_reducible assumption | with_reducible apply keep_barWrite
    | with_reducible apply keep_effectFwWriteSettings | with_reducible apply keep_touch

theorem keep_execFwReadSettings (h : Keep s0 s) : OutKeep s0 (execFwReadSettings s) := by
  unfold execFwReadSettings
  repeat' first
    | intro x | with_reducible assumption | with_reducible apply keep_barWrite
    | with_reducible apply keep_effectFwReadSettings | with_reducible apply keep_touch

theorem keep_execFwSelectSlot (h : Keep s0 s) (a1) : OutKeep s0 (execFwSelectSlot a1 s) := by
  unfold execFwSelectSlot
  repeat' first
    | intro x | with_reducible assumption | with_reducible apply keep_barWrite
    | with_reducible apply keep_effectFwSelectSlot | with_reducible apply keep_touch

theorem keep_execFwLiveUpdate (h : Keep s0 s) : OutKeep s0 (execFwLiveUpdate s) := by
  unfold execFwLiveUpdate
  repeat' first
    | intro x | with_reducible assumption | with_reducible apply keep_barWrite
    | with_reducible apply keep_effectFwLiveUpdate | with_reducible apply keep_touch

theorem keep_execFwSafeHarbourRequest (h : Keep s0 s) : OutKeep s0 (execFwSafeHarbourRequest s) := by
  unfold execFwSafeHarbourRequest
  repeat' first
    | intro x | with_reducible assumption | with_reducible apply keep_barWrite
    | with_reducible apply keep_effectFwSafeHarbourRequest | with_reducible apply keep_touch

theorem keep_execRegisterRead (h : Keep s0 s) (a1 a2 a3) : OutKeep s0 (execRegisterRead a1 a2 a3 s) := by
  unfold execRegisterRead
  repeat' first
    | intro x | with_reducible assumption | with_reducible apply keep_barRead
    | with_reducible apply keep_effectRegisterRead

theorem keep_queuedEffect (h : Keep s0 s) (i : Instr) : OutKeep s0 (queuedEffect i s) := by
  cases i with
  | tideDataWrite _ => exact keep_execTideDataWrite h _
  | moduleSwitchArm _ => exact keep_execModuleSwitchArm h _
  | moduleSwitchReapply _ => exact keep_execModuleSwitchReapply h _
  | coveSwitchArm _ _ => exact keep_execCoveSwitchArm h _ _
  | coveSwitchReapply _ _ => exact keep_execCoveSwitchReapply h _ _
  | tideCRestartWrite _ _ _ => exact keep_execTideCRestartWrite h _ _ _
  | routeDataWrite _ => exact keep_execRouteDataWrite h _
  | routeSwitchArm _ => exact keep_execRouteSwitchArm h _
  | routeReapply _ => exact keep_execRouteReapply h _
  | fabCtrlHfenceSet _ _ => exact keep_execFabCtrlHfenceSet h _ _
  | fabCtrlHfenceClear _ _ => exact keep_execFabCtrlHfenceClear h _ _
  | fabCtrlEnClear _ _ => exact keep_execFabCtrlEnClear h _ _
  | fabCtrlRelease _ _ => exact keep_execFabCtrlRelease h _ _
  | leaseTableWrite _ _ => exact keep_execLeaseTableWrite h _ _
  | cvCtrlStart _ _ _ => exact keep_execCvCtrlStart h _ _ _
  | cvCtrlStop _ _ _ => exact keep_execCvCtrlStop h _ _ _
  | cvCtrlHold _ _ _ => exact keep_execCvCtrlHold h _ _ _
  | cvDiesWrite _ _ _ => exact keep_execCvDiesWrite h _ _ _
  | cvUmapWrite _ _ _ _ => exact keep_execCvUmapWrite h _ _ _ _
  | cvQuotaWrite _ _ _ => exact keep_execCvQuotaWrite h _ _ _
  | cvJobtagWrite _ _ _ _ => exact keep_execCvJobtagWrite h _ _ _ _
  | cvEvalCtrlArm _ _ _ => exact keep_execCvEvalCtrlArm h _ _ _
  | cvSrCtrlEnable _ _ _ => exact keep_execCvSrCtrlEnable h _ _ _
  | cvLdigCtrlEnable _ _ _ => exact keep_execCvLdigCtrlEnable h _ _ _
  | cvClogCtrlEnable _ _ _ => exact keep_execCvClogCtrlEnable h _ _ _
  | cvClogRdWrite _ _ _ => exact keep_execCvClogRdWrite h _ _ _
  | cvBarnWrite _ _ _ _ => exact keep_execCvBarnWrite h _ _ _ _
  | loadQueueDoorbell _ _ _ => exact keep_execLoadQueueDoorbell h _ _ _
  | loadQueueEnable _ _ _ => exact keep_execLoadQueueEnable h _ _ _
  | loadConnConnect _ _ _ => exact keep_execLoadConnConnect h _ _ _
  | loadConnDisconnect _ => exact keep_execLoadConnDisconnect h _
  | ckptTake _ _ _ => exact keep_execCkptTake h _ _ _
  | ckptFreeze _ _ _ => exact keep_execCkptFreeze h _ _ _
  | ckptThaw _ _ => exact keep_execCkptThaw h _ _
  | ckptRollback _ _ => exact keep_execCkptRollback h _ _
  | ckptRestore _ _ _ _ => exact keep_execCkptRestore h _ _ _ _
  | ckptAdopt _ _ => exact keep_execCkptAdopt h _ _
  | ckptStandinWrite _ _ => exact keep_execCkptStandinWrite h _ _
  | ckptRemapWrite _ _ => exact keep_execCkptRemapWrite h _ _
  | healthFence _ => exact keep_execHealthFence h _
  | healthFenceClear _ => exact keep_execHealthFenceClear h _
  | recovContextReset _ => exact keep_execRecovContextReset h _
  | recovEngineReset _ => exact keep_execRecovEngineReset h _
  | recovCoveReset _ => exact keep_execRecovCoveReset h _
  | recovModuleReset _ => exact keep_execRecovModuleReset h _
  | recovWrackFree _ => exact keep_execRecovWrackFree h _
  | recovWrackCopy _ => exact keep_execRecovWrackCopy h _
  | healthErrRdWrite _ _ => exact keep_execHealthErrRdWrite h _ _
  | healthErrFetch _ _ => exact keep_execHealthErrFetch h _ _
  | healthCntFetch _ _ => exact keep_execHealthCntFetch h _ _
  | traceSlFetch _ _ => exact keep_execTraceSlFetch h _ _
  | traceCWtCtrlWrite _ _ _ => exact keep_execTraceCWtCtrlWrite h _ _ _
  | traceCWtRdWrite _ _ _ => exact keep_execTraceCWtRdWrite h _ _ _
  | registerWrite _ _ _ _ => exact keep_execRegisterWrite h _ _ _ _
  | sringEnable _ _ => exact keep_execSringEnable h _ _
  | sringRdWrite _ _ => exact keep_execSringRdWrite h _ _
  | tideOverrideWrite _ _ => exact keep_execTideOverrideWrite h _ _
  | fwWriteImage _ _ _ => exact keep_execFwWriteImage h _ _ _
  | fwWriteSettings _ _ => exact keep_execFwWriteSettings h _ _
  | fwReadSettings => exact keep_execFwReadSettings h
  | fwSelectSlot _ => exact keep_execFwSelectSlot h _
  | fwLiveUpdate => exact keep_execFwLiveUpdate h
  | fwSafeHarbourRequest => exact keep_execFwSafeHarbourRequest h
  | _ => exact out_next h

theorem keep_applyQueued (h : Keep s0 s) (a2) : Keep s0 (applyQueued s a2) := by
  unfold applyQueued
  repeat' first
    | with_reducible assumption | with_reducible apply keep_after | with_reducible apply keep_queuedEffect

theorem keep_execHeadlandResume (h : Keep s0 s) (a1) : OutKeep s0 (execHeadlandResume a1 s) := by
  unfold execHeadlandResume
  repeat' first
    | intro x | with_reducible assumption | with_reducible apply keep_takeRole
    | with_reducible apply keep_applyQueued | with_reducible apply out_next | with_reducible apply keep_foldl
    | (simp only [keep_mk]; with_reducible apply keepF_of) | split

end Sys2Proof.Laws
end

