-- ==== Sys2Proof/Laws/KeepClock.lean ====
section
/-!
SUPPORT. Codewords, accesses to the control regions and the tick of the clock keep the build, the queue and canonical memories.
-/
namespace Sys2Proof.Laws
open Sys2Proof Sys2Proof.Machine

variable {s0 s t : State}

theorem keep_takeTime (h : Keep s0 s) (port p t) : Keep s0 (takeTime s port p t) := by
  unfold takeTime
  split
  · rename_i e
    refine keep_next (e ▸ ?_)
    split
    · exact keep_execTimeTransferRequest h ..
    · split
      · exact keep_execTimeTransferResponse h ..
      · exact out_next h
  · exact h
  · exact h

theorem keep_takeAny (h : Keep s0 s) (a2 a3) : Keep s0 (takeAny s a2 a3) := by
  unfold takeAny
  repeat' first
    | with_reducible assumption | with_reducible apply keep_takeTime | with_reducible apply keep_takePacket
    | with_reducible apply keep_updPort | (lift_lets -underBinder; intro x; clear_value x) | split

theorem keep_holdHead (h : Keep s0 s) (a2 a3 a4) : Keep s0 (holdHead s a2 a3 a4) := by
  unfold holdHead
  repeat' first
    | with_reducible assumption | with_reducible apply keep_updPort

theorem keep_headerFails (h : Keep s0 s) (a2 a3 a4) : Keep s0 (headerFails s a2 a3 a4) := by
  unfold headerFails
  repeat' first
    | with_reducible assumption | with_reducible apply keep_sendNak | with_reducible apply keep_holdHead
    | with_reducible apply keep_countUncorr

theorem keep_headerReserved (h : Keep s0 s) (a2 a3 a4) : Keep s0 (headerReserved s a2 a3 a4) := by
  unfold headerReserved
  repeat' first
    | (intro x; refine keepCut (s0 := s0) x ?_ ?_; rotate_left; intro hx; clear_value x; rotate_left; subst x)
    | with_reducible assumption | with_reducible apply keep_recordPort | with_reducible apply keep_fencePort
    | with_reducible apply keep_sendNak | with_reducible apply keep_updPort | with_reducible apply keep_holdHead
    | (lift_lets -underBinder; intro x; clear_value x) | split

theorem keep_takeCodeword (h : Keep s0 s) (a2 a3 a4 a5) : Keep s0 (takeCodeword s a2 a3 a4 a5).2 := by
  unfold takeCodeword
  repeat' first
    | (intro x; refine keepCut (s0 := s0) x ?_ ?_; rotate_left; intro hx; clear_value x; rotate_left; subst x)
    | (intro x; clear_value x) | intro x | with_reducible assumption | with_reducible apply keep_headerFails
    | with_reducible apply keep_updPort | with_reducible apply keep_headerReserved | with_reducible apply keep_forEach
    | with_reducible apply keep_takeAny
    | (lift_lets -underBinder; intro x; refine keepCut (s0 := s0) x ?_ ?_; rotate_left; intro hx; clear_value x; rotate_left; subst x)
    | (lift_lets -underBinder; intro x; clear_value x) | split

theorem keep_releaseRx (h : Keep s0 s) (n port) : Keep s0 (releaseRx n s port) := by
  induction n generalizing s with
  | zero => exact h
  | succ n ih =>
    unfold releaseRx
    split
    · exact h
    split
    · exact h
    · exact ih (keep_takeAny (keep_updPort h _ _) _ _)
    · exact h
    · dsimp only
      split
      · exact ih (keep_takeCodeword (keep_updPort h _ _) ..)
      · exact keep_takeCodeword (keep_updPort h _ _) ..

theorem keep_releaseAll (h : Keep s0 s) (a2) : Keep s0 (releaseAll s a2) := by
  unfold releaseAll
  repeat' first
    | with_reducible assumption | with_reducible apply keep_releaseRx

theorem keep_holdCodeword (h : Keep s0 s) (a2 a3 a4) : Keep s0 (holdCodeword s a2 a3 a4) := by
  unfold holdCodeword
  repeat' first
    | with_reducible assumption | with_reducible apply keep_updPort

theorem keep_codewordFails (h : Keep s0 s) (a2 a3) : Keep s0 (codewordFails s a2 a3) := by
  unfold codewordFails
  repeat' first
    | with_reducible assumption | with_reducible apply keep_sendNak | with_reducible apply keep_holdCodeword
    | with_reducible apply keep_countUncorr

theorem keep_takeReplay (h : Keep s0 s) (a2 a3 a4) : Keep s0 (takeReplay s a2 a3 a4) := by
  unfold takeReplay
  repeat' first
    | with_reducible assumption | with_reducible apply keep_releaseAll | with_reducible apply keep_updPort | split

theorem keep_countCorrected (h : Keep s0 s) (a2) : Keep s0 (countCorrected s a2) := by
  unfold countCorrected
  repeat' first
    | with_reducible assumption | with_reducible apply keep_updLedger | with_reducible apply keep_wearAdd
    | with_reducible apply keep_updPort

theorem keep_takeDecoded (h : Keep s0 s) (a2 a3 a4 a5) : Keep s0 (takeDecoded s a2 a3 a4 a5) := by
  unfold takeDecoded
  repeat' first
    | with_reducible assumption | with_reducible apply keep_takeReplay | with_reducible apply keep_releaseAll
    | with_reducible apply keep_holdCodeword | with_reducible apply keep_nakTaken
    | (lift_lets -underBinder; intro x; clear_value x) | split

theorem keep_execCodewordReceive (h : Keep s0 s) (a1 a2 a3 a4) : OutKeep s0 (execCodewordReceive a1 a2 a3 a4 s) := by
  unfold execCodewordReceive
  repeat' first
    | with_reducible assumption | with_reducible apply keep_updPort | with_reducible apply keep_codewordFails
    | with_reducible apply keep_takeDecoded | with_reducible apply keep_countCorrected | with_reducible apply out_next
    | (lift_lets -underBinder; intro x; refine keepCut (s0 := s0) x ?_ ?_; rotate_left; intro hx; clear_value x; rotate_left; subst x)
    | split

theorem keep_execPacketReservedType (h : Keep s0 s) (a1 a2) : OutKeep s0 (execPacketReservedType a1 a2 s) := by
  unfold execPacketReservedType
  repeat' first
    | with_reducible assumption | with_reducible apply keep_headerReserved | with_reducible apply out_next | split

theorem keep_mirrorWrite (h : Keep s0 s) (a2 a3) : Keep s0 (mirrorWrite s a2 a3) := by
  unfold mirrorWrite
  repeat' first
    | intro x | with_reducible assumption | with_reducible apply keep_forEach | with_reducible apply keep_writeBar

theorem keep_answerControl (h : Keep s0 s) (a2) : Keep s0 (answerControl s a2) := by
  unfold answerControl
  repeat' first
    | with_reducible assumption | with_reducible apply keep_sendResponse | with_reducible apply keep_mirrorWrite
    | split

theorem keep_controlTick (h : Keep s0 s) : Keep s0 (controlTick s) := by
  unfold controlTick
  repeat' first
    | intro x | with_reducible assumption | with_reducible apply keep_forEach
    | with_reducible apply keep_answerControl | (lift_lets -underBinder; intro x; clear_value x)
    | (simp only [keep_mk]; with_reducible apply keepF_of)

theorem keep_noteWait (h : Keep s0 s) (a2) : Keep s0 (noteWait s a2) := by
  unfold noteWait
  repeat' first
    | with_reducible assumption | with_reducible apply keep_updCove | split

theorem keep_dutyCheck (h : Keep s0 s) (a1 a3) : Keep s0 (dutyCheck a1 s a3) := by
  unfold dutyCheck
  repeat' first
    | (intro x; refine keepCutG (s0 := s0) x ?_ ?_; rotate_left; intro hx; clear_value x; rotate_left; subst x)
    | (intro x; clear_value x) | intro x | with_reducible assumption | with_reducible apply keep_record
    | (lift_lets -underBinder; intro x; clear_value x) | (simp only [keep_mk]; with_reducible apply keepF_of) | split
    | with_reducible apply_assumption

theorem keep_dutyTick (h : Keep s0 s) : Keep s0 (dutyTick s) := by
  unfold dutyTick
  repeat' first
    | intro x | with_reducible assumption | with_reducible apply keep_forEach | with_reducible apply keep_dutyCheck
    | with_reducible apply keep_foldl | split

theorem keep_advanceCounter (h : Keep s0 s) : Keep s0 (advanceCounter s) := by
  unfold advanceCounter
  repeat' first
    | (intro x; clear_value x) | with_reducible assumption | (lift_lets -underBinder; intro x; clear_value x)
    | (simp only [keep_mk]; with_reducible apply keepF_of)

theorem keep_countCore (h : Keep s0 s) (a1 a3) : Keep s0 (countCore a1 s a3) := by
  unfold countCore
  repeat' first
    | (intro x; refine keepCut (s0 := s0) x ?_ ?_; rotate_left; intro hx; clear_value x; rotate_left; subst x)
    | (intro x; clear_value x) | with_reducible assumption | with_reducible apply keep_bumpCore
    | (lift_lets -underBinder; intro x; clear_value x) | split

theorem keep_settleTick (h : Keep s0 s) : Keep s0 (settleTick s) := by
  unfold settleTick
  repeat' first
    | intro x | with_reducible assumption | with_reducible apply keep_forEach | with_reducible apply keep_bump
    | with_reducible apply keep_settleCtx | with_reducible apply keep_settleLayers
    | with_reducible apply keep_noteWait | with_reducible apply keep_chooseParent
    | with_reducible apply keep_releaseHeld | split

theorem keep_workTick (h : Keep s0 s) : Keep s0 (workTick s) := by
  unfold workTick
  repeat' first
    | with_reducible assumption | with_reducible apply keep_dutyTick | with_reducible apply keep_linkTick
    | with_reducible apply keep_drainOut | with_reducible apply keep_controlTick | with_reducible apply keep_loadTick
    | with_reducible apply keep_moverTick | with_reducible apply keep_enginesTick

theorem keep_clockTick (h : Keep s0 s) : Keep s0 (clockTick s) := by
  unfold clockTick
  repeat' first
    | (intro x; refine keepCut (s0 := s0) x ?_ ?_; rotate_left; intro hx; clear_value x; rotate_left; subst x)
    | (intro x; clear_value x) | intro x | with_reducible assumption | with_reducible apply keep_workTick
    | with_reducible apply keep_settleTick | with_reducible apply keep_forEach
    | with_reducible apply keep_advanceCounter | with_reducible apply keep_countCore
    | (lift_lets -underBinder; intro x; clear_value x) | (simp only [keep_mk]; with_reducible apply keepF_of) | split

end Sys2Proof.Laws
end

