-- ==== Sys2Proof/WellFormed.lean ====
section
/-!
DEFINITION. Well-formed commands: every unit number lies in its range (R36, R99, R239, R335, R555). Values that host
software, other modules or the environment bring are unconstrained: the meanings check them.
-/
namespace Sys2Proof

/-- Every core, context, cove, die, port, stack, function, queue and index that the command names exists. -/
def Instr.wf (i : Instr) : Bool :=
  match i with
  | .nop core ctx _ => decide (core < 1024) && decide (ctx < 5)
  | .li core ctx _ => decide (core < 1024) && decide (ctx < 5)
  | .lui core ctx _ => decide (core < 1024) && decide (ctx < 5)
  | .add core ctx _ => decide (core < 1024) && decide (ctx < 5)
  | .sub core ctx _ => decide (core < 1024) && decide (ctx < 5)
  | .mul core ctx _ => decide (core < 1024) && decide (ctx < 5)
  | .and core ctx _ => decide (core < 1024) && decide (ctx < 5)
  | .or core ctx _ => decide (core < 1024) && decide (ctx < 5)
  | .xor core ctx _ => decide (core < 1024) && decide (ctx < 5)
  | .shl core ctx _ => decide (core < 1024) && decide (ctx < 5)
  | .shr core ctx _ => decide (core < 1024) && decide (ctx < 5)
  | .sra core ctx _ => decide (core < 1024) && decide (ctx < 5)
  | .min core ctx _ => decide (core < 1024) && decide (ctx < 5)
  | .max core ctx _ => decide (core < 1024) && decide (ctx < 5)
  | .ident core ctx _ => decide (core < 1024) && decide (ctx < 5)
  | .stepRead core ctx _ => decide (core < 1024) && decide (ctx < 5)
  | .tideRead core ctx _ => decide (core < 1024) && decide (ctx < 5)
  | .br core ctx _ => decide (core < 1024) && decide (ctx < 5)
  | .loop core ctx _ => decide (core < 1024) && decide (ctx < 5)
  | .endl core ctx _ => decide (core < 1024) && decide (ctx < 5)
  | .endProgram core ctx _ => decide (core < 1024) && decide (ctx < 5)
  | .mma core ctx _ => decide (core < 1024) && decide (ctx < 5)
  | .mmaGa core ctx _ => decide (core < 1024) && decide (ctx < 5)
  | .mmaGb core ctx _ => decide (core < 1024) && decide (ctx < 5)
  | .mmaRo core ctx _ => decide (core < 1024) && decide (ctx < 5)
  | .vmov core ctx _ => decide (core < 1024) && decide (ctx < 5)
  | .vadd core ctx _ => decide (core < 1024) && decide (ctx < 5)
  | .vsub core ctx _ => decide (core < 1024) && decide (ctx < 5)
  | .vmul core ctx _ => decide (core < 1024) && decide (ctx < 5)
  | .vfma core ctx _ => decide (core < 1024) && decide (ctx < 5)
  | .vmin core ctx _ => decide (core < 1024) && decide (ctx < 5)
  | .vmax core ctx _ => decide (core < 1024) && decide (ctx < 5)
  | .vdiv core ctx _ => decide (core < 1024) && decide (ctx < 5)
  | .vsqrt core ctx _ => decide (core < 1024) && decide (ctx < 5)
  | .vabs core ctx _ => decide (core < 1024) && decide (ctx < 5)
  | .vneg core ctx _ => decide (core < 1024) && decide (ctx < 5)
  | .vcmp core ctx _ => decide (core < 1024) && decide (ctx < 5)
  | .vsel core ctx _ => decide (core < 1024) && decide (ctx < 5)
  | .vsfu core ctx _ => decide (core < 1024) && decide (ctx < 5)
  | .vrsum core ctx _ => decide (core < 1024) && decide (ctx < 5)
  | .vramax core ctx _ => decide (core < 1024) && decide (ctx < 5)
  | .vrssq core ctx _ => decide (core < 1024) && decide (ctx < 5)
  | .vrand core ctx _ => decide (core < 1024) && decide (ctx < 5)
  | .vrbits core ctx _ => decide (core < 1024) && decide (ctx < 5)
  | .vbcast core ctx _ => decide (core < 1024) && decide (ctx < 5)
  | .vtos core ctx _ => decide (core < 1024) && decide (ctx < 5)
  | .vstov core ctx _ => decide (core < 1024) && decide (ctx < 5)
  | .wcopy core ctx _ => decide (core < 1024) && decide (ctx < 5)
  | .wzero core ctx _ => decide (core < 1024) && decide (ctx < 5)
  | .waadd core ctx _ => decide (core < 1024) && decide (ctx < 5)
  | .wamax core ctx _ => decide (core < 1024) && decide (ctx < 5)
  | .wacas core ctx _ => decide (core < 1024) && decide (ctx < 5)
  | .wafadd core ctx _ => decide (core < 1024) && decide (ctx < 5)
  | .swtide core ctx _ => decide (core < 1024) && decide (ctx < 5)
  | .sarrive core ctx _ => decide (core < 1024) && decide (ctx < 5)
  | .swains core ctx _ => decide (core < 1024) && decide (ctx < 5)
  | .sdrain core ctx _ => decide (core < 1024) && decide (ctx < 5)
  | .stbar core ctx _ => decide (core < 1024) && decide (ctx < 5)
  | .scommit core ctx _ => decide (core < 1024) && decide (ctx < 5)
  | .tupd core ctx _ => decide (core < 1024) && decide (ctx < 5)
  | .tssq core ctx _ => decide (core < 1024) && decide (ctx < 5)
  | .tclip core ctx _ => decide (core < 1024) && decide (ctx < 5)
  | .tmov core ctx _ => decide (core < 1024) && decide (ctx < 5)
  | .tlin core ctx _ => decide (core < 1024) && decide (ctx < 5)
  | .tflag core ctx _ => decide (core < 1024) && decide (ctx < 5)
  | .rret core ctx _ => decide (core < 1024) && decide (ctx < 5)
  | .rarg core ctx _ => decide (core < 1024) && decide (ctx < 5)
  | .rsend core ctx _ => decide (core < 1024) && decide (ctx < 5)
  | .rwait core ctx _ => decide (core < 1024) && decide (ctx < 5)
  | .rred core ctx _ => decide (core < 1024) && decide (ctx < 5)
  | .rnarw core ctx _ => decide (core < 1024) && decide (ctx < 5)
  | .rglean core ctx _ => decide (core < 1024) && decide (ctx < 5)
  | .tileCommit core ctx _ _ => decide (core < 1024) && decide (ctx < 5)
  | .tileDrainEnd core ctx => decide (core < 1024) && decide (ctx < 5)
  | .collectivePoint core ctx => decide (core < 1024) && decide (ctx < 5)
  | .packetAdmit core ctx _ _ => decide (core < 1024) && decide (ctx < 5)
  | .wainDescriptorComplete core ctx => decide (core < 1024) && decide (ctx < 5)
  | .engineHang core ctx engine => decide (core < 1024) && decide (ctx < 5) && decide (engine < 5)
  | .routineHang core ctx => decide (core < 1024) && decide (ctx < 5)
  | .contextSwitch cluster => decide (cluster < 256)
  | .scratchpadScrub die _ _ => decide (die < 64)
  | .arrivalDeadline core ctx => decide (core < 1024) && decide (ctx < 5)
  | .voteTick core ctx => decide (core < 1024) && decide (ctx < 5)
  | .collectiveLimit core ctx => decide (core < 1024) && decide (ctx < 5)
  | .stepCommit cove _ => decide (cove < 16)
  | .slackWaterEnd cove => decide (cove < 16)
  | .commitLimit cove => decide (cove < 16)
  | .discardNoticeReceive cove sender _ _ _ => decide (cove < 16) && decide (sender < 65536)
  | .replayStart cove => decide (cove < 16)
  | .slackEvalSnapshot cove => decide (cove < 16)
  | .slackEbb cove => decide (cove < 16)
  | .slackFlood cove => decide (cove < 16)
  | .slackReplicaCopy cove _ => decide (cove < 16)
  | .digestTableReceive cove peer _ _ _ => decide (cove < 16) && decide (peer < 7)
  | .coveRestartTick cove => decide (cove < 16)
  | .checkpointDrainEnd cove _ _ => decide (cove < 16)
  | .freezeTick cove => decide (cove < 16)
  | .freezeLanded cove => decide (cove < 16)
  | .thawTick cove => decide (cove < 16)
  | .restoreEnd cove _ _ => decide (cove < 16)
  | .markPulse => true
  | .tideMarkInterval => true
  | .referenceLost => true
  | .referenceRestored => true
  | .referenceFound => true
  | .timeTransferSend port _ => decide (port < 128)
  | .timeTransferRequest port _ _ _ => decide (port < 128)
  | .timeTransferResponse port _ _ => decide (port < 128)
  | .holdoverLimit => true
  | .tideDataWrite _ => true
  | .moduleSwitchArm _ => true
  | .moduleSwitchReapply _ => true
  | .coveSwitchArm cove _ => decide (cove < 16)
  | .coveSwitchReapply cove _ => decide (cove < 16)
  | .moduleSwitchTick bad badShore => bad.all (fun n => decide (n < 64)) && badShore.all (fun n => decide (n < 16))
  | .coveSwitchTick cove bad badShore => decide (cove < 16) && bad.all (fun n => decide (n < 64)) && badShore.all (fun n => decide (n < 16))
  | .moduleReapplyTick bad badShore => bad.all (fun n => decide (n < 64)) && badShore.all (fun n => decide (n < 16))
  | .coveReapplyTick cove bad badShore => decide (cove < 16) && bad.all (fun n => decide (n < 64)) && badShore.all (fun n => decide (n < 16))
  | .clockChangeEnd cove => decide (cove < 16)
  | .tideCRestartWrite cove _ fn => decide (cove < 16) && decide (fn < 17)
  | .generationHoldTimeout => true
  | .refreshWindow stack => decide (stack < 16)
  | .stolenRefreshWindow stack => decide (stack < 16)
  | .routeDataWrite _ => true
  | .routeSwitchArm _ => true
  | .routeReapply _ => true
  | .routeSwitchTick bad => bad.all (fun n => decide (n < 80))
  | .routeReapplyTick bad => bad.all (fun n => decide (n < 80))
  | .presenceLoss port => decide (port < 128)
  | .presenceAppear port => decide (port < 128)
  | .seekingPattern port => decide (port < 128)
  | .partnerSignalDetect port => decide (port < 128)
  | .trainingPhaseEnd port _ => decide (port < 128)
  | .trainingTimeout port => decide (port < 128)
  | .laneLockLost port => decide (port < 128)
  | .uncorrectableLimit port => decide (port < 128)
  | .serCheck port _ _ => decide (port < 128)
  | .codewordReceive port _ _ _ => decide (port < 128)
  | .nakReceive port _ => decide (port < 128)
  | .nakResendTimeout port => decide (port < 128)
  | .packetWrite port _ => decide (port < 128)
  | .packetReadRequest port _ => decide (port < 128)
  | .packetReadResponse port _ => decide (port < 128)
  | .packetAtomicRequest port _ => decide (port < 128)
  | .packetAtomicResponse port _ => decide (port < 128)
  | .packetAcknowledge port _ => decide (port < 128)
  | .packetStatus port _ => decide (port < 128)
  | .packetReservedType port _ => decide (port < 128)
  | .packetTransit port _ => decide (port < 128)
  | .ackEmit port _ => decide (port < 128)
  | .fabCtrlHfenceSet port _ => decide (port < 128)
  | .fabCtrlHfenceClear port _ => decide (port < 128)
  | .fabCtrlEnClear port _ => decide (port < 128)
  | .fabCtrlRelease port _ => decide (port < 128)
  | .hbmScrub stack _ _ => decide (stack < 16)
  | .nearMemoryScrub die _ _ => decide (die < 64)
  | .leaseTableWrite index _ => decide (index < 64)
  | .cvCtrlStart cove fn _ => decide (cove < 16) && decide (fn < 17)
  | .cvCtrlStop cove fn _ => decide (cove < 16) && decide (fn < 17)
  | .cvCtrlHold cove fn _ => decide (cove < 16) && decide (fn < 17)
  | .cvDiesWrite cove fn _ => decide (cove < 16) && decide (fn < 17)
  | .cvUmapWrite cove fn word _ => decide (cove < 16) && decide (fn < 17) && decide (word < 32)
  | .cvQuotaWrite cove fn _ => decide (cove < 16) && decide (fn < 17)
  | .cvJobtagWrite cove fn j _ => decide (cove < 16) && decide (fn < 17) && decide (j < 4)
  | .loadingResourceFree cove => decide (cove < 16)
  | .loadingEnd cove => decide (cove < 16)
  | .releaseEnd cove => decide (cove < 16)
  | .cvEvalCtrlArm cove fn _ => decide (cove < 16) && decide (fn < 17)
  | .cvSrCtrlEnable cove fn _ => decide (cove < 16) && decide (fn < 17)
  | .cvLdigCtrlEnable cove fn _ => decide (cove < 16) && decide (fn < 17)
  | .cvClogCtrlEnable cove fn _ => decide (cove < 16) && decide (fn < 17)
  | .cvClogRdWrite cove fn _ => decide (cove < 16) && decide (fn < 17)
  | .cvBarnWrite cove fn e _ => decide (cove < 16) && decide (fn < 17) && decide (e < 32)
  | .cvPlaceDataRead cove fn => decide (cove < 16) && decide (fn < 17)
  | .loadQueueDoorbell queue fn _ => decide (queue < 17) && decide (fn < 17)
  | .loadQueueEnable queue fn _ => decide (queue < 17) && decide (fn < 17)
  | .loadEntryNop queue => decide (queue < 17)
  | .loadHostCopy queue _ _ => decide (queue < 17)
  | .loadStorageRead queue _ _ => decide (queue < 17)
  | .loadImage queue _ _ => decide (queue < 17)
  | .loadEntryStart queue _ => decide (queue < 17)
  | .loadEntryEnd queue => decide (queue < 17)
  | .loadConnConnect k _ _ => decide (k < 16)
  | .loadConnDisconnect k => decide (k < 16)
  | .connectionUp k _ => decide (k < 16)
  | .connectionDrop k => decide (k < 16)
  | .ckptTake cove _ _ => decide (cove < 16)
  | .ckptFreeze cove _ _ => decide (cove < 16)
  | .ckptThaw cove _ => decide (cove < 16)
  | .ckptRollback cove _ => decide (cove < 16)
  | .ckptRestore cove _ _ _ => decide (cove < 16)
  | .ckptAdopt cove _ => decide (cove < 16)
  | .ckptStandinWrite cove _ => decide (cove < 16)
  | .ckptRemapWrite index _ => decide (index < 128)
  | .chaffRound => true
  | .chaffRunEnd core _ => decide (core < 1024)
  | .wearScoreUpdate => true
  | .lifeLedgerWrite _ => true
  | .healthFence _ => true
  | .healthFenceClear _ => true
  | .healthLedgerDataRead => true
  | .recoveryStart => true
  | .rungOverrun => true
  | .engineSelfTestEnd _ => true
  | .suspectTestEnd _ => true
  | .coveResetEnd => true
  | .recovContextReset _ => true
  | .recovEngineReset _ => true
  | .recovCoveReset _ => true
  | .recovModuleReset _ => true
  | .recovWrackFree _ => true
  | .recovWrackCopy _ => true
  | .wrackCopyEnd _ => true
  | .headlandLivenessAdvance => true
  | .headlandLivenessLost => true
  | .headlandResume _ => true
  | .headlandUnclaimed => true
  | .heartbeatAdvance => true
  | .bootReadyTimeout => true
  | .summaryFlush ring => decide (ring < 17)
  | .healthErrRdWrite fn _ => decide (fn < 17)
  | .healthErrFetch fn _ => decide (fn < 17)
  | .errFetchEnd fn _ => decide (fn < 17)
  | .healthCntFetch fn _ => decide (fn < 17)
  | .counterFetchEnd fn _ => decide (fn < 17)
  | .traceSlFetch fn _ => decide (fn < 17)
  | .slFetchEnd fn _ => decide (fn < 17)
  | .traceCWtCtrlWrite cove fn _ => decide (cove < 16) && decide (fn < 17)
  | .traceCWtRdWrite cove fn _ => decide (cove < 16) && decide (fn < 17)
  | .waitRecordForward die => decide (die < 64)
  | .strandlineWrite _ => true
  | .configRequest fn _ _ _ => decide (fn < 17)
  | .pcieLinkReset => true
  | .pcieLinkUp _ width => [1, 2, 4, 8, 16].contains width
  | .vfFlr fn => decide (fn < 17)
  | .pfFlr => true
  | .d3hotEntry fn => decide (fn < 17)
  | .d0Return fn => decide (fn < 17)
  | .registerWrite fn _ _ _ => decide (fn < 17)
  | .sringEnable fn _ => decide (fn < 17)
  | .sringRdWrite fn _ => decide (fn < 17)
  | .statusLineWrite fn => decide (fn < 17)
  | .tideOverrideWrite which _ => decide (which < 2)
  | .fwWriteImage slot image _ => decide (slot < 2) && decide (image.header.length ≤ 4096)
  | .fwWriteSettings _ _ => true
  | .fwReadSettings => true
  | .fwSelectSlot slot => decide (slot < 2)
  | .fwLiveUpdate => true
  | .fwSafeHarbourRequest => true
  | .fwCommandEnd _ => true
  | .liveUpdateUnitSwap _ => true
  | .inputTurnOn => true
  | .powerGood => true
  | .moduleReady => true
  | .healthCheckPass => true
  | .inputUndervoltage => true
  | .inputOvervoltage => true
  | .intermediateRailLoss => true
  | .holdupEnd => true
  | .regulatorCurrentLimit die rail => decide (die < 80) && decide (rail < 4)
  | .regulatorOvertemp die rail => decide (die < 80) && decide (rail < 4)
  | .regulatorTelemetry die _ _ _ _ _ => decide (die < 80)
  | .errorCountForward report => decide (report.die < 80)
  | .marginRead die _ => decide (die < 64)
  | .dieTempReading unit _ => decide (unit < 80)
  | .hbmTempReading stack _ => decide (stack < 16)
  | .tripTimeout => true
  | .thermalReturn => true
  | .hbmRecentre stack _ => decide (stack < 16)
  | .opticalTrim engine _ => decide (engine < 16)
  | .trayIdent => true
  | .trayHeartbeat => true
  | .trayState => true
  | .trayPower => true
  | .trayCoves => true
  | .trayPorts => true
  | .trayServiceWrite _ _ => true
  | .trayServiceRead => true
  | .trayLocateWrite _ _ => true
  | .trayLocateRead => true
  | .trayCapWrite _ _ => true
  | .trayCapRead => true
  | .trayReset _ _ => true
  | .traySlSelWrite _ _ => true
  | .traySlSelRead => true
  | .traySlData => true
  | .trayUnknownCommand _ => true
  | .trayClockLowTimeout => true
  | .trayFileRefresh => true
  | .localBusPoll segment target _ _ => decide (segment < 4) && decide (target < 128)
  | .segmentProbe segment _ => decide (segment < 4)
  | .failedTargetProbe segment target _ => decide (segment < 4) && decide (target < 128)
  | .segmentPowerRestore segment _ _ => decide (segment < 4)
  | .emptyingCovesFree => true
  | .safeToRemove => true
  | .registerRead fn _ _ => decide (fn < 17)
  | .converterEnableChange _ => true
  | .inputOvervoltageClear => true

end Sys2Proof
end

