-- ==== Sys2Proof/Tests/Slice0.lean ====
section
/-!
SUPPORT. Tests: ill-formed commands are refused, single steps on small states, and for the statements with hypotheses a state
and operands that meet them.
-/
namespace Sys2Proof.Tests
set_option Elab.async false
open Sys2Proof Sys2Proof.Machine

/-! ### Ill-formed commands -/

/-- An instruction's fields, all 0. -/
def noFields : Fields := ⟨0, 0, 0, 0, 0, 0, 0, 0⟩
/-- A write packet with nothing in it. -/
def noPacket : Packet :=
  { ptype := 1, gen := 0, cls := 0, transit := 0, late := false, resent := false, op := 0, jobTag := 0, dest := 0,
    srcModule := 0, srcUnit := 0, seq := 0, tag := 0, due := 0, tally := 0, data := [], slot := none }
/-- A training phase that passes with nothing measured. -/
def noTraining : Training :=
  { ok := true, ser0 := 0, ser1 := 0, serBack := 0, partnerRs := false, partnerModule := 1, partnerPort := 0,
    partnerCu := false, partnerCopperOnly := false, partnerGen := 0, flight := 0, eye0 := 0, eye1 := 0, eq := 0,
    pre0 := false, pre1 := false, own0 := false, own1 := false, levels0 := [], levels1 := [] }
/-- An image without a header. -/
def noImage : FwImage := ⟨[], false, false, []⟩

/-- Each of these names a unit that does not exist: nop to mmaGb. -/
theorem test_refused_0 :
    ([ .nop 1024 0 noFields, .nop 0 5 noFields, .li 1024 0 noFields, .li 0 5 noFields, .lui 1024 0 noFields,
      .lui 0 5 noFields, .add 1024 0 noFields, .add 0 5 noFields, .sub 1024 0 noFields, .sub 0 5 noFields,
      .mul 1024 0 noFields, .mul 0 5 noFields, .and 1024 0 noFields, .and 0 5 noFields, .or 1024 0 noFields,
      .or 0 5 noFields, .xor 1024 0 noFields, .xor 0 5 noFields, .shl 1024 0 noFields, .shl 0 5 noFields,
      .shr 1024 0 noFields, .shr 0 5 noFields, .sra 1024 0 noFields, .sra 0 5 noFields, .min 1024 0 noFields,
      .min 0 5 noFields, .max 1024 0 noFields, .max 0 5 noFields, .ident 1024 0 noFields, .ident 0 5 noFields,
      .stepRead 1024 0 noFields, .stepRead 0 5 noFields, .tideRead 1024 0 noFields, .tideRead 0 5 noFields,
      .br 1024 0 noFields, .br 0 5 noFields, .loop 1024 0 noFields, .loop 0 5 noFields, .endl 1024 0 noFields,
      .endl 0 5 noFields, .endProgram 1024 0 noFields, .endProgram 0 5 noFields, .mma 1024 0 noFields,
      .mma 0 5 noFields, .mmaGa 1024 0 noFields, .mmaGa 0 5 noFields, .mmaGb 1024 0 noFields, .mmaGb 0 5 noFields ]
      : List Instr).all (fun i => !i.wf) = true := by
  decide +kernel

/-- Each of these names a unit that does not exist: mmaRo to wcopy. -/
theorem test_refused_1 :
    ([ .mmaRo 1024 0 noFields, .mmaRo 0 5 noFields, .vmov 1024 0 noFields, .vmov 0 5 noFields, .vadd 1024 0 noFields,
      .vadd 0 5 noFields, .vsub 1024 0 noFields, .vsub 0 5 noFields, .vmul 1024 0 noFields, .vmul 0 5 noFields,
      .vfma 1024 0 noFields, .vfma 0 5 noFields, .vmin 1024 0 noFields, .vmin 0 5 noFields, .vmax 1024 0 noFields,
      .vmax 0 5 noFields, .vdiv 1024 0 noFields, .vdiv 0 5 noFields, .vsqrt 1024 0 noFields, .vsqrt 0 5 noFields,
      .vabs 1024 0 noFields, .vabs 0 5 noFields, .vneg 1024 0 noFields, .vneg 0 5 noFields, .vcmp 1024 0 noFields,
      .vcmp 0 5 noFields, .vsel 1024 0 noFields, .vsel 0 5 noFields, .vsfu 1024 0 noFields, .vsfu 0 5 noFields,
      .vrsum 1024 0 noFields, .vrsum 0 5 noFields, .vramax 1024 0 noFields, .vramax 0 5 noFields,
      .vrssq 1024 0 noFields, .vrssq 0 5 noFields, .vrand 1024 0 noFields, .vrand 0 5 noFields,
      .vrbits 1024 0 noFields, .vrbits 0 5 noFields, .vbcast 1024 0 noFields, .vbcast 0 5 noFields,
      .vtos 1024 0 noFields, .vtos 0 5 noFields, .vstov 1024 0 noFields, .vstov 0 5 noFields, .wcopy 1024 0 noFields,
      .wcopy 0 5 noFields ] : List Instr).all (fun i => !i.wf) = true := by decide +kernel

/-- Each of these names a unit that does not exist: wzero to rglean. -/
theorem test_refused_2 :
    ([ .wzero 1024 0 noFields, .wzero 0 5 noFields, .waadd 1024 0 noFields, .waadd 0 5 noFields,
      .wamax 1024 0 noFields, .wamax 0 5 noFields, .wacas 1024 0 noFields, .wacas 0 5 noFields,
      .wafadd 1024 0 noFields, .wafadd 0 5 noFields, .swtide 1024 0 noFields, .swtide 0 5 noFields,
      .sarrive 1024 0 noFields, .sarrive 0 5 noFields, .swains 1024 0 noFields, .swains 0 5 noFields,
      .sdrain 1024 0 noFields, .sdrain 0 5 noFields, .stbar 1024 0 noFields, .stbar 0 5 noFields,
      .scommit 1024 0 noFields, .scommit 0 5 noFields, .tupd 1024 0 noFields, .tupd 0 5 noFields,
      .tssq 1024 0 noFields, .tssq 0 5 noFields, .tclip 1024 0 noFields, .tclip 0 5 noFields, .tmov 1024 0 noFields,
      .tmov 0 5 noFields, .tlin 1024 0 noFields, .tlin 0 5 noFields, .tflag 1024 0 noFields, .tflag 0 5 noFields,
      .rret 1024 0 noFields, .rret 0 5 noFields, .rarg 1024 0 noFields, .rarg 0 5 noFields, .rsend 1024 0 noFields,
      .rsend 0 5 noFields, .rwait 1024 0 noFields, .rwait 0 5 noFields, .rred 1024 0 noFields, .rred 0 5 noFields,
      .rnarw 1024 0 noFields, .rnarw 0 5 noFields, .rglean 1024 0 noFields, .rglean 0 5 noFields ]
      : List Instr).all (fun i => !i.wf) = true := by
  decide +kernel

/-- Each of these names a unit that does not exist: tileCommit to moduleSwitchTick. -/
theorem test_refused_3 :
    ([ .tileCommit 1024 0 0 [], .tileCommit 0 5 0 [], .tileDrainEnd 1024 0, .tileDrainEnd 0 5,
      .collectivePoint 1024 0, .collectivePoint 0 5, .packetAdmit 1024 0 false [], .packetAdmit 0 5 false [],
      .wainDescriptorComplete 1024 0, .wainDescriptorComplete 0 5, .engineHang 1024 0 0, .engineHang 0 5 0,
      .engineHang 0 0 5, .routineHang 1024 0, .routineHang 0 5, .contextSwitch 256, .scratchpadScrub 64 [] [],
      .arrivalDeadline 1024 0, .arrivalDeadline 0 5, .voteTick 1024 0, .voteTick 0 5, .collectiveLimit 1024 0,
      .collectiveLimit 0 5, .stepCommit 16 none, .slackWaterEnd 16, .commitLimit 16,
      .discardNoticeReceive 16 0 0 0 0, .discardNoticeReceive 0 65536 0 0 0, .replayStart 16, .slackEvalSnapshot 16,
      .slackEbb 16, .slackFlood 16, .slackReplicaCopy 16 [], .digestTableReceive 16 0 0 [] false,
      .digestTableReceive 0 7 0 [] false, .coveRestartTick 16, .checkpointDrainEnd 16 0 0, .freezeTick 16,
      .freezeLanded 16, .thawTick 16, .restoreEnd 16 0 [], .timeTransferSend 128 0,
      .timeTransferRequest 128 noPacket 0 0, .timeTransferResponse 128 noPacket 0, .coveSwitchArm 16 0,
      .coveSwitchReapply 16 0, .moduleSwitchTick [64] [], .moduleSwitchTick [] [16] ]
      : List Instr).all (fun i => !i.wf) = true := by
  decide +kernel

/-- Each of these names a unit that does not exist: coveSwitchTick to cvCtrlStop. -/
theorem test_refused_4 :
    ([ .coveSwitchTick 16 [] [], .coveSwitchTick 0 [64] [], .coveSwitchTick 0 [] [16], .moduleReapplyTick [64] [],
      .moduleReapplyTick [] [16], .coveReapplyTick 16 [] [], .coveReapplyTick 0 [64] [], .coveReapplyTick 0 [] [16],
      .clockChangeEnd 16, .tideCRestartWrite 16 0 0, .tideCRestartWrite 0 0 17, .refreshWindow 16,
      .stolenRefreshWindow 16, .routeSwitchTick [80], .routeReapplyTick [80], .presenceLoss 128, .presenceAppear 128,
      .seekingPattern 128, .partnerSignalDetect 128, .trainingPhaseEnd 128 noTraining, .trainingTimeout 128,
      .laneLockLost 128, .uncorrectableLimit 128, .serCheck 128 ⟨0, 0⟩ ⟨0, 0⟩, .codewordReceive 128 [] [] 0,
      .nakReceive 128 0, .nakResendTimeout 128, .packetWrite 128 noPacket, .packetReadRequest 128 noPacket,
      .packetReadResponse 128 noPacket, .packetAtomicRequest 128 noPacket, .packetAtomicResponse 128 noPacket,
      .packetAcknowledge 128 noPacket, .packetStatus 128 noPacket, .packetReservedType 128 0,
      .packetTransit 128 noPacket, .ackEmit 128 0, .fabCtrlHfenceSet 128 0, .fabCtrlHfenceClear 128 0,
      .fabCtrlEnClear 128 0, .fabCtrlRelease 128 0, .hbmScrub 16 [] [], .nearMemoryScrub 64 [] [],
      .leaseTableWrite 64 [], .cvCtrlStart 16 0 0, .cvCtrlStart 0 17 0, .cvCtrlStop 16 0 0, .cvCtrlStop 0 17 0 ]
      : List Instr).all (fun i => !i.wf) = true := by
  decide +kernel

/-- Each of these names a unit that does not exist: cvCtrlHold to ckptRollback. -/
theorem test_refused_5 :
    ([ .cvCtrlHold 16 0 0, .cvCtrlHold 0 17 0, .cvDiesWrite 16 0 0, .cvDiesWrite 0 17 0, .cvUmapWrite 16 0 0 0,
      .cvUmapWrite 0 17 0 0, .cvUmapWrite 0 0 32 0, .cvQuotaWrite 16 0 0, .cvQuotaWrite 0 17 0,
      .cvJobtagWrite 16 0 0 0, .cvJobtagWrite 0 17 0 0, .cvJobtagWrite 0 0 4 0, .loadingResourceFree 16,
      .loadingEnd 16, .releaseEnd 16, .cvEvalCtrlArm 16 0 0, .cvEvalCtrlArm 0 17 0, .cvSrCtrlEnable 16 0 0,
      .cvSrCtrlEnable 0 17 0, .cvLdigCtrlEnable 16 0 0, .cvLdigCtrlEnable 0 17 0, .cvClogCtrlEnable 16 0 0,
      .cvClogCtrlEnable 0 17 0, .cvClogRdWrite 16 0 0, .cvClogRdWrite 0 17 0, .cvBarnWrite 16 0 0 0,
      .cvBarnWrite 0 17 0 0, .cvBarnWrite 0 0 32 0, .cvPlaceDataRead 16 0, .cvPlaceDataRead 0 17,
      .loadQueueDoorbell 17 0 0, .loadQueueDoorbell 0 17 0, .loadQueueEnable 17 0 0, .loadQueueEnable 0 17 0,
      .loadEntryNop 17, .loadHostCopy 17 false [], .loadStorageRead 17 false [], .loadImage 17 false [],
      .loadEntryStart 17 [], .loadEntryEnd 17, .loadConnConnect 16 [] false, .loadConnDisconnect 16,
      .connectionUp 16 false, .connectionDrop 16, .ckptTake 16 0 [], .ckptFreeze 16 0 [], .ckptThaw 16 0,
      .ckptRollback 16 0 ] : List Instr).all (fun i => !i.wf) = true := by decide +kernel

/-- Each of these names a unit that does not exist: ckptRestore to failedTargetProbe. -/
theorem test_refused_6 :
    ([ .ckptRestore 16 0 [] [], .ckptAdopt 16 0, .ckptStandinWrite 16 0, .ckptRemapWrite 128 0, .chaffRunEnd 1024 [],
      .summaryFlush 17, .healthErrRdWrite 17 0, .healthErrFetch 17 0, .errFetchEnd 17 0, .healthCntFetch 17 0,
      .counterFetchEnd 17 0, .traceSlFetch 17 0, .slFetchEnd 17 0, .traceCWtCtrlWrite 16 0 0,
      .traceCWtCtrlWrite 0 17 0, .traceCWtRdWrite 16 0 0, .traceCWtRdWrite 0 17 0, .waitRecordForward 64,
      .configRequest 17 false 0 0, .pcieLinkUp 0 3, .vfFlr 17, .d3hotEntry 17, .d0Return 17, .registerWrite 17 0 0 0,
      .sringEnable 17 0, .sringRdWrite 17 0, .statusLineWrite 17, .tideOverrideWrite 2 0,
      .fwWriteImage 2 noImage false, .fwWriteImage 0 ({ noImage with header := List.replicate 4097 0 }) false,
      .fwSelectSlot 2, .regulatorCurrentLimit 80 0, .regulatorCurrentLimit 0 4,
      .regulatorOvertemp 80 0, .regulatorOvertemp 0 4, .regulatorTelemetry 80 0 0 0 0 [],
      .errorCountForward ⟨80, [], false⟩, .marginRead 64 ⟨0, []⟩, .dieTempReading 80 0, .hbmTempReading 16 0,
      .hbmRecentre 16 false, .opticalTrim 16 [], .localBusPoll 4 0 false none, .localBusPoll 0 128 false none,
      .segmentProbe 4 [], .failedTargetProbe 4 0 false, .failedTargetProbe 0 128 false ]
      : List Instr).all (fun i => !i.wf) = true := by
  decide +kernel

/-- Each of these names a unit that does not exist: segmentPowerRestore to registerRead. -/
theorem test_refused_7 :
    ([ .segmentPowerRestore 4 false false, .registerRead 17 0 0 ]
      : List Instr).all (fun i => !i.wf) = true := by
  decide +kernel

/-! ### Instructions -/

/-- Core 0 of a running cove 0 with context 0 of cluster 0, which has a window of 31 granules, eight instructions of code
and the given registers, and the word at its program counter. -/
def bench (op : Nat) (w : Fields) (sregs : Sparse DWord) : State :=
  { State.reset with
    coves := [(0, { Cove.reset with mode := .running, dies := 1#64 })]
    clusters := [(0, { ClusterState.reset with owner := some 0 })]
    cores := [(0, { CoreState.reset with
      ctxs := [(0, { Ctx.reset with mode := .running, winCount := 31, codeLen := 8, sregs := sregs })]
      imem := [(0, encodeWord op w)] })] }
/-- The state that a command leaves. -/
def after (r : Result) : State := match r with | .next t => t | _ => State.reset
/-- Context 0 of core 0. -/
def ctx0 (s : State) : Ctx := ctxAt s 0 0
/-- Context 0 of core 0 changed. -/
def withCtx (f : Ctx → Ctx) (s : State) : State := updCtx s 0 0 f
/-- rD = 1, rA = 2, rB = 3. -/
def regs3 : Fields := { noFields with f1 := 1, f2 := 2, f3 := 3 }

/-- The hypotheses of ControlFlow and ScalarOps at their boundaries. -/
theorem test_nop_fetched : Fetched (bench 0x000 noFields []) 0 0 0x000 noFields :=
  ⟨by decide +kernel, by decide +kernel, by decide +kernel, by decide +kernel, by decide +kernel, by decide +kernel,
    by decide +kernel⟩
theorem test_add_fetched : Fetched (bench 0x003 regs3 []) 0 0 0x003 regs3 :=
  ⟨by decide +kernel, by decide +kernel, by decide +kernel, by decide +kernel, by decide +kernel, by decide +kernel,
    by decide +kernel⟩
theorem test_add_fields : FieldsOk (bench 0x003 regs3 []) 0 0 0x003 regs3 (aluUse regs3) ⟨some 1, none, none⟩ true :=
  ⟨by decide +kernel, by decide +kernel, by decide +kernel⟩
theorem test_add_wraps :
    sreg (ctx0 (after (exec (.add 0 0 regs3) (bench 0x003 regs3 [(2, 0xFFFFFFFFFFFFFFFF), (3, 2)])))) 1 = 1#64 := by
  decide +kernel
theorem test_add_keeps_s0 :
    let w := { regs3 with f1 := 0 }
    sreg (ctx0 (after (exec (.add 0 0 w) (bench 0x003 w [(2, 7), (3, 2)])))) 0 = 0#64 := by decide +kernel
theorem test_sra_is_signed :
    sreg (ctx0 (after (exec (.sra 0 0 regs3) (bench 0x00B regs3 [(2, 0x8000000000000000), (3, 63)])))) 1
      = 0xFFFFFFFFFFFFFFFF#64 := by decide +kernel
theorem test_shl_takes_six_bits :
    sreg (ctx0 (after (exec (.shl 0 0 regs3) (bench 0x009 regs3 [(2, 1), (3, 65)])))) 1 = 2#64 := by decide +kernel
theorem test_li_extends_sign :
    let w := { noFields with f1 := 1, imm := 0x80000000 }
    sreg (ctx0 (after (exec (.li 0 0 w) (bench 0x001 w [])))) 1 = 0xFFFFFFFF80000000#64 := by decide +kernel
theorem test_lui_keeps_low_half :
    let w := { noFields with f1 := 1, imm := 5 }
    sreg (ctx0 (after (exec (.lui 0 0 w) (bench 0x002 w [(1, 0x1_00000007)])))) 1 = 0x5_00000007#64 := by decide +kernel
/-- LOOP with a count of 2 ^ 32 - 1, the largest, of 2 ^ 32 and of 0 (R138). -/
theorem test_loop_largest :
    let w := { noFields with f2 := 2 }
    lcAt (ctx0 (after (exec (.loop 0 0 w) (bench 0x021 w [(2, 0xFFFFFFFF)])))) 0 = 0xFFFFFFFF#32 := by decide +kernel
theorem test_loop_too_large :
    let w := { noFields with f2 := 2 }
    (ctx0 (after (exec (.loop 0 0 w) (bench 0x021 w [(2, 0x1_00000000)])))).mode = .stopped := by decide +kernel
theorem test_loop_zero :
    let w := { noFields with f2 := 2 }
    (ctx0 (after (exec (.loop 0 0 w) (bench 0x021 w [])))).mode = .stopped := by decide +kernel
theorem test_endl_last_turn :
    (ctx0 (after (exec (.endl 0 0 noFields) (withCtx (fun x => { x with lcs := [(0, 1)] }) (bench 0x022 noFields []))))).pc
      = 1 := by decide +kernel
theorem test_end_stops_issue :
    canIssue (after (exec (.endProgram 0 0 noFields) (bench 0x030 noFields []))) 0 0 = false := by decide +kernel
theorem test_fetch_outside_code :
    fetchBad (ctxAt (withCtx (fun x => { x with pc := 8 }) (bench 0x000 noFields [])) 0 0) = true := by decide +kernel
/-- BlockedOrOtherWordDoesNothing: a blocked context, another word, a used bit of an unused field, an error in the word. -/
theorem test_blocked : canIssue (withCtx (fun x => { x with wait := some .drain }) (bench 0x003 regs3 [])) 0 0 = false := by
  decide +kernel
theorem test_other_word : fetchedWord (bench 0x000 noFields []) 0 0 ≠ encodeWord 0x003 regs3 := by decide +kernel
theorem test_unused_field : unusedZero { regs3 with commune := 1 } (aluUse { regs3 with commune := 1 }) = false := by
  decide +kernel
theorem test_bad_word :
    (fetchRead (updCore (bench 0x003 regs3 []) 0 fun c => { c with upsets := [(1, 0, true)] }) 0 0).1 = false := by
  decide +kernel

/-- The tile of R144's example, without its routine: 2,048 deep, E4M3 by E4M3, drained to BF16. -/
def tile144 : Fields := { noFields with f1 := 4, f2 := 5, f3 := 6, f4 := 8, control := 0x40331140 }
/-- Its registers. -/
def regs144 : Sparse DWord := [(4, 0x200000), (5, 0x400000), (6, 0x600000), (8, 0x3F0000003F800000)]
theorem test_tile_fetched : Fetched (bench 0x100 tile144 regs144) 0 0 0x100 tile144 :=
  ⟨by decide +kernel, by decide +kernel, by decide +kernel, by decide +kernel, by decide +kernel, by decide +kernel,
    by decide +kernel⟩
theorem test_tile_legal : matLegal (bench 0x100 tile144 regs144) 0 0 tile144 false false = true := by decide +kernel
theorem test_tile_reads :
    tileReads tile144 0x200000 0x400000 = [(0x200000, 0x40000), (0x400000, 0x40000)] := by decide +kernel
theorem test_tile_queued :
    (ctx0 (after (exec (.mma 0 0 tile144) (bench 0x100 tile144 regs144)))).matQ.length = 1 := by decide +kernel
theorem test_tile_without_scales_under_sr :
    matLegal (bench 0x100 { tile144 with f4 := 0, control := 0x40331940 } regs144) 0 0
      { tile144 with f4 := 0, control := 0x40331940 } false false = false := by decide +kernel

/-- VADD v1, v2, v3 of four elements in registers, count in s4. -/
def vadd4 : Fields := { noFields with f1 := 1, f2 := 2, f3 := 3, control := 0xE0000020 }
theorem test_vadd_fetched : Fetched (bench 0x201 vadd4 [(4, 4)]) 0 0 0x201 vadd4 :=
  ⟨by decide +kernel, by decide +kernel, by decide +kernel, by decide +kernel, by decide +kernel, by decide +kernel,
    by decide +kernel⟩
theorem test_vadd_legal :
    vecLegal (bench 0x201 vadd4 [(4, 4)]) 0 .add (vecEntry (bench 0x201 vadd4 [(4, 4)]) 0 0 .add vadd4 0) = true := by
  decide +kernel
theorem test_vadd_queued :
    ((ctx0 (after (exec (.vadd 0 0 vadd4) (bench 0x201 vadd4 [(4, 4)])))).vecQ.map (·.n)) = [4] := by decide +kernel
/-- The stroke of VADD: 1.5 + 2.25 = 3.75 in lane 0, and lane 4 is past the last element (R107). -/
theorem test_vadd_stroke :
    let s := withCtx (fun x => { x with vregs := [(512, 0x3FC00000), (768, 0x40100000)] }) (bench 0x201 vadd4 [(4, 4)])
    let t := vecRun s 0 0 .add (vecEntry s 0 0 .add vadd4 0)
    lane (ctx0 t) 1 0 = 0x40700000#32 ∧ lane (ctx0 t) 1 4 = 0#32 := by decide +kernel
theorem test_vtos :
    let s := withCtx (fun x => { x with vregs := [(512, 0x80000000)] }) (bench 0x229 regs3 [])
    sreg (ctx0 (vecRun s 0 0 .tos (vecEntry s 0 0 .tos regs3 0))) 1 = 0x80000000#64 := by decide +kernel

/-- WCOPY of 4,096 bytes of class 3 between two window offsets. -/
def wcopy4k : Fields := { noFields with f1 := 2, f2 := 3, f3 := 4, control := 0xC3000000 }
theorem test_wcopy_legal :
    wainLegal (ctx0 (bench 0x300 wcopy4k [(3, 0x1000), (4, 4096)])) 0 wcopy4k = true := by decide +kernel
theorem test_wcopy_queued :
    (ctx0 (after (exec (.wcopy 0 0 wcopy4k) (bench 0x300 wcopy4k [(3, 0x1000), (4, 4096)])))).wainQ.map
      (fun d => (d.op, d.len, d.cls)) = [(0, 4096, 3)] := by decide +kernel
/-- SWTIDE to a coming tick waits; to a past one it ends at once and sets the anchor (R155, R180). -/
theorem test_swtide_waits :
    let w := { noFields with imm := 1000 }
    (ctx0 (after (exec (.swtide 0 0 w) (bench 0x400 w [])))).wait = some (.tide 1000) := by decide +kernel
theorem test_swtide_ends :
    let t := after (exec (.swtide 0 0 noFields) (bench 0x400 noFields []))
    (ctx0 t).wait = none ∧ (ctx0 t).anchor = 0 := by decide +kernel
theorem test_sdrain_ends : (ctx0 (after (exec (.sdrain 0 0 noFields) (bench 0x403 noFields [])))).wait = none := by
  decide +kernel
/-- SCOMMIT by context 1 is an operand fault (R386): its hypotheses, and the stop. -/
theorem test_scommit_of_context_1 :
    let s := { bench 0x405 noFields [] with
      clusters := [(0, { ClusterState.reset with owner := some 1 })]
      cores := [(0, { CoreState.reset with
        ctxs := [(1, { Ctx.reset with mode := .running, winCount := 1, codeLen := 8 })]
        imem := [(0, encodeWord 0x405 noFields)] })] }
    canIssue s 0 1 = true ∧ (ctxAt (after (exec (.scommit 0 1 noFields) s)) 0 1).mode = .stopped := by decide +kernel
/-- A TFLAG joins the THR queue; TCLIP of a positive finite limit does, too. -/
theorem test_tflag_queued :
    let w := { noFields with f1 := 1 }
    (ctx0 (after (exec (.tflag 0 0 w) (bench 0x505 w [])))).thrQ.map (·.inst.op) = [0x505] := by decide +kernel
/-- The four copies of TCLIP with limit 1.0 at the heads of their queues: with a sum of 4.0 the scale becomes 0.5 (R380). -/
def clipBench : State :=
  let w := { noFields with imm := 0x3F800000 }
  let e := fun i => ThrEntry.mk (issuedOf State.reset i 0 0x502 w true 0) [] [] none false BundleRun.reset
  let x := fun i => { Ctx.reset with mode := .running, winCount := 1, codeLen := 8, thrQ := [e i] }
  { State.reset with
    coves := [(0, { Cove.reset with mode := .running, dies := 1#64 })]
    clusters := [(0, { ClusterState.reset with
      owner := some 0, thresh := [(0, { ThreshRun.reset with sumsq := 0x40800000 })] })]
    cores := (List.range 4).map fun i => (i, { CoreState.reset with ctxs := [(0, x i)] }) }
theorem test_tclip : (threshAt (thrStep clipBench 0 0) 0 0).scale = 0x3F000000#32 := by decide +kernel
theorem test_tclip_leaves : (ctxAt (thrStep clipBench 0 0) 3 0).thrQ = [] := by decide +kernel

/-! ### Events of cores and coves -/

/-- A running cove 0 of die 0 whose context 0 of core 0 was changed. -/
def coreBench (f : Ctx → Ctx) : State := withCtx f (bench 0x000 noFields [])
/-- The routine of a recorded point starts (R134). -/
theorem test_routine_starts :
    let p : RoutineCall :=
      { caller := issuedOf State.reset 0 0 0x104 noFields true 0, retPc := 1, routine := 0, start := 0, len := 0, group := 0,
        mask := 0, call := 5, anchor := 0, late := false, elem := 0, scale := 0, bytes := 0, fmt := 0, scalar := false,
        cell := 0, cellFlag := false, startTick := 0, waited := [], last := none, classes := [] }
    let t := after (exec (.collectivePoint 0 0) (coreBench fun x => { x with points := [p], anchor := 9 }))
    (ctx0 t).points = [] ∧ (ctx0 t).routine.map (·.call) = some 5 := by decide +kernel
/-- A descriptor whose bytes have left and that awaits nothing completes; a late one marks the wain status (R154). -/
theorem test_descriptor_completes :
    let d : WainDesc :=
      { op := 0, addr := 0, src := 0, dst := 0, len := 64, ret := none, localSrc := true, localDst := true, cls := 1,
        slot := none, moved := 64, status := .late, awaiting := 0, leaves := 0, tick := 0, seq := 0 }
    let t := after (exec (.wainDescriptorComplete 0 0) (coreBench fun x => { x with wainQ := [d] }))
    (ctx0 t).wainQ = [] ∧ (ctx0 t).wainStatus = .late := by decide +kernel
/-- An engine with a queued tile runs, so it can hang; an idle one cannot (R120). -/
theorem test_engine_runs :
    engineRuns (coreBench fun x => { x with matQ := [issuedOf State.reset 0 0 0x100 noFields true 0] }) 0 0 0 = true := by
  decide +kernel
theorem test_idle_engine_does_not_hang : (after (exec (.engineHang 0 0 0) (coreBench id))).recov.queue = [] := by
  decide +kernel
/-- A scrub counts a corrected word, event 0x4010 (R118). -/
theorem test_scrub : eventCount (after (exec (.scratchpadScrub 0 [(3, 0, 7)] []) State.reset)) 0x4010 3 = 1 := by
  decide +kernel
/-- An SARRIVE at its deadline ends (R155). -/
theorem test_arrival_deadline :
    (ctx0 (after (exec (.arrivalDeadline 0 0) (coreBench fun x => { x with wait := some (.arrive 0 0 0) })))).wait = none := by
  decide +kernel
/-- A discard notice of another job does nothing (R496). -/
theorem test_other_job :
    (coveAt (after (exec (.discardNoticeReceive 0 7 5 0 9) (coreBench id))) 0).replays = 0 := by decide +kernel
/-- A held cove at its restart tick starts, event 0x7001 (R355). -/
theorem test_restart :
    let s := { coreBench id with tide := { State.reset.tide with
      now := 5000, coves := [(0, { CoveTide.reset with slack := true, restart := 4096 })] } }
    let t := after (exec (.coveRestartTick 0) (updCove s 0 fun v => { v with mode := .held, hcause := 3 }))
    (coveAt t 0).mode = .running ∧ eventCount t 0x7001 1296 = 1 := by decide +kernel

/-! ### Coves, loading and checkpoints -/

/-- CV_CTRL.START of a cove without an image is refused (R343). -/
theorem test_start_without_image :
    (coveAt (after (exec (.cvCtrlStart 0 0 1) State.reset)) 0).mode = .free := by decide +kernel
/-- CV_DIES of 0 asks a running cove for its release (R358). -/
theorem test_release_asked : (coveAt (after (exec (.cvDiesWrite 0 0 0) (coreBench id))) 0).releaseReq = true := by
  decide +kernel
/-- A job tag register takes its value (R336). -/
theorem test_jobtag : regAt (after (exec (.cvJobtagWrite 0 0 1 0x1234) State.reset)) (cvReg 0 0x48) = 0x1234#64 := by
  decide +kernel
/-- The doorbell of a queue that is not enabled changes no place (R407). -/
theorem test_doorbell_disabled : (queueAt (after (exec (.loadQueueDoorbell 0 0 4) State.reset)) 0).inflight = [] := by
  decide +kernel
/-- ADOPT sets the step counter and the parity of a stopped cove (R434). -/
theorem test_adopt :
    let s := updCove (coreBench id) 0 fun v => { v with mode := .stopped }
    let s := { s with host := { s.host with regs := [(0x60170, 77)] } }
    let t := after (exec (.ckptAdopt 0 0x60) s)
    (coveAt t 0).step = 77#64 ∧ (coveAt t 0).parity = true := by decide +kernel
theorem test_adopt_of_running_cove : eventCount (after (exec (.ckptAdopt 0 0x20) (coreBench id))) 0xB010 1296 = 1 := by
  decide +kernel

/-! ### Tide and tables -/

/-- A mark at bits [19:0] = 65 is a slip, one at 64 is not (R287). -/
theorem test_mark_slip :
    let at_ := fun n => { State.reset with tide := { State.reset.tide with now := n, marked := true, lock := true, ref := true } }
    eventCount (after (exec .markPulse (at_ 65))) 0x1003 1296 = 1
      ∧ eventCount (after (exec .markPulse (at_ 64))) 0x1003 1296 = 0 := by decide +kernel
/-- An odd offset count's median, the root's alignment: a holdover limit clears ALIGNED (R294). -/
theorem test_reference_lost : (after (exec .referenceLost State.reset)).tide.ref = false := by decide +kernel
/-- An arm in the past is refused, event 0x1010 (R308). -/
theorem test_arm_in_the_past :
    let s := { State.reset with tide := { State.reset.tide with now := 10 ^ 9 } }
    eventCount (after (exec (.moduleSwitchArm 1) s)) 0x1010 1296 = 1 := by decide +kernel
/-- A refused lease reads back invalid (R227). -/
theorem test_lease_refused :
    (Sparse.get Lease.reset (after (exec (.leaseTableWrite 0 [1, 0, 0, 0]) State.reset)).mem.leases 0).valid = false := by
  decide +kernel

/-! ### Ports and packets -/

/-- The reset module with port 3 changed. -/
def portBench (f : Port → Port) : State := updPort State.reset 3 f
/-- HFENCE of an active port: fenced with cause 2 (R282). -/
theorem test_hfence :
    let t := after (exec (.fabCtrlHfenceSet 3 2) (portBench fun q => { q with mode := .active, present := true }))
    (portAt t 3).mode = .fenced ∧ (portAt t 3).cause = 2 := by decide +kernel
/-- HFENCE of an absent port leaves it absent (R282). -/
theorem test_hfence_absent : (portAt (after (exec (.fabCtrlHfenceSet 3 2) State.reset)) 3).mode = .absent := by
  decide +kernel
/-- A present enabled port seeks (R255). -/
theorem test_presence :
    let t := after (exec (.presenceAppear 3) (portBench fun q => { q with en := true }))
    (portAt t 3).mode = .seeking := by decide +kernel
/-- A loss of presence: absent, event 0x2001 of reporter 1408 + 3 (R259, R520). -/
theorem test_presence_loss :
    let t := after (exec (.presenceLoss 3) (portBench fun q => { q with mode := .active, present := true }))
    (portAt t 3).mode = .absent ∧ eventCount t 0x2001 1411 = 1 := by decide +kernel
/-- Seventeen uncorrectable codewords within 1 ms retrain, sixteen do not (R258). -/
theorem test_uncorrectable :
    let s := fun n => { portBench (fun q => { q with
        mode := .active, present := true, uncorr := List.replicate n 0, trainSer0 := 1, trainSer1 := 1 }) with
      tide := { State.reset.tide with now := 999999 } }
    (portAt (after (exec (.uncorrectableLimit 3) (s 16))) 3).mode = .active
      ∧ (portAt (after (exec (.uncorrectableLimit 3) (s 17))) 3).mode ≠ .active := by decide +kernel
/-- A reserved header discards the codeword, event 0x2012 (R263). -/
theorem test_reserved_header :
    eventCount (after (exec (.packetReservedType 3 0) (portBench fun q => { q with mode := .active, present := true }))) 0x2012
      1411 = 1 := by decide +kernel
/-- Scrambling and descrambling: the first bit of zeros scrambled from a register of ones comes back (R241). -/
theorem test_scramble :
    let reg := List.replicate 58 true
    descramble reg (scramble reg [false, true, true, false]) = [false, true, true, false] := by decide +kernel

/-! ### Integrity, recovery and observability -/

/-- A fence by the operator: a core, cause 5, event 0x9030 of its reporter (R481, R520). -/
theorem test_operator_fence :
    let t := after (exec (.healthFence 0x00010002) State.reset)
    eventCount t 0x9030 1296 + eventCount t 0x9030 2 + eventCount t 0xB010 1296 ≥ 1 := by decide +kernel
/-- A module-fatal fault is answered by a module reset (R500): kind 2. -/
theorem test_module_fatal_resets :
    let s := { State.reset with recov := { State.reset.recov with moduleFatal := some 14, autoMod := true } }
    (after (exec .recoveryStart s)).recov.lastKind = 2 := by decide +kernel
/-- A wrack slot is freed by its bit (R523). -/
theorem test_wrack_free :
    let w : Wrack := ⟨3, 1, 0, 0, 0, 0, []⟩
    let s := { State.reset with recov := { State.reset.recov with wracks := [(2, some w)] } }
    Sparse.get none (after (exec (.recovWrackFree 4) s)).recov.wracks 2 = none := by decide +kernel
/-- The strandline's oldest queued entry becomes durable (R545). -/
theorem test_strandline :
    let s := recordHead State.reset 0x0003 .moduleFatal []
    (after (exec (.strandlineWrite true) s)).trace.slQueue.length + 1 = s.trace.slQueue.length
      ∨ s.trace.slQueue = [] := by decide +kernel

/-! ### Host interface, firmware, power and management -/

/-- A 2-byte write is a host-access error of kind 1, event 0xB010 (R22, R569). -/
theorem test_size :
    let t := after (exec (.registerWrite 0 0x8 2 0) State.reset)
    t.host.hosterr.toNat % 16 = 1 ∧ eventCount t 0xB010 1296 = 1 := by decide +kernel
/-- A read where nothing answers: all ones (R560). -/
theorem test_absent_function :
    (after (exec (.registerRead 5 0x8 4) State.reset)).host.readData = 0xFFFFFFFF#64 := by decide +kernel
/-- FW_CMD 6 waits for its end, and reserves a line (R562, R578). -/
theorem test_firmware_command :
    let t := after (exec .fwSafeHarbourRequest State.reset)
    t.fw.busy.map (·.op) = some 6 ∧ (fnAt t 0).ring.reserved = 1
      ∧ (after (exec (.fwCommandEnd true) t)).fw.bootRec.safeHarbour = true := by decide +kernel
/-- The swap of a die's controller waits while its cove is loading; die 1 is free, and its swap goes on (R608). -/
theorem test_swap_waits :
    let s := updCove State.reset 0 fun v => { v with mode := .loading, dies := 1#64 }
    let s := fun unit => { s with fw := { s.fw with busy := some (plainFw 5 0 1), live := some ⟨1, unit, 0, false⟩ } }
    (after (exec (.liveUpdateUnitSwap true) (s 0))).fw.live = some ⟨1, 0, 0, false⟩
      ∧ (after (exec (.liveUpdateUnitSwap true) (s 1))).fw.live = some ⟨1, 2, 0, false⟩ := by decide +kernel
/-- A start in safe harbour takes the override's epoch and clears it (R590). -/
theorem test_harbour_override :
    let r := { State.reset.fw.bootRec with override := true, ovCtrl := 1#64, ovEpoch := 0x100000#64 }
    let t := harbourOverride { State.reset with fw := { State.reset.fw with bootRec := r } }
    t.tide.epochStart = 0x100000#64 ∧ t.fw.bootRec.override = false ∧ t.tide.role = State.reset.tide.role := by
  decide +kernel
/-- The input falls: power-fail, event 0xD040 (R639, R642). -/
theorem test_undervoltage :
    let t := after (exec .inputUndervoltage State.reset)
    t.pwr.powerFail = true ∧ t.pwr.converters = false ∧ eventCount t 0xD040 1296 = 1 := by decide +kernel
/-- A regulator of die 5 at its current limit: the die is fenced with cause 3 (R625). -/
theorem test_regulator :
    let t := after (exec (.regulatorCurrentLimit 5 1) State.reset)
    Sparse.get 0 t.health.dieFence 5 = 3 ∧ eventCount t 0xD021 1302 = 1 := by decide +kernel
/-- Three readings at trip trip; two do not (R629, R630). -/
theorem test_trip :
    let s := fun n => { State.reset with pwr := { State.reset.pwr with tripRun := [(7, n)] } }
    (after (exec (.dieTempReading 7 105) (s 1))).pwr.tripActive = false
      ∧ (after (exec (.dieTempReading 7 105) (s 2))).pwr.tripActive = true
      ∧ (after (exec (.dieTempReading 7 105) (s 2))).tide.withhold = 15 := by decide +kernel
/-- A tray write with a bad PEC is discarded, event 0xC010 (R615). -/
theorem test_tray_pec :
    let t := after (exec (.trayLocateWrite 1 false) State.reset)
    t.tray.locate = 0 ∧ t.tray.discarded = 1 ∧ eventCount t 0xC010 1296 = 1 := by decide +kernel
/-- CAP is clamped to 1,500 to 7,200 W; 0 clears it (R616). -/
theorem test_tray_cap :
    (after (exec (.trayCapWrite 1 true) State.reset)).tray.cap = 1500
      ∧ (after (exec (.trayCapWrite 9000 true) State.reset)).tray.cap = 7200
      ∧ (after (exec (.trayCapWrite 0 true) State.reset)).tray.cap = 0 := by decide +kernel
/-- A silent segment is empty after the fourth probe, event 0xC001 (R622). -/
theorem test_silent_segment :
    let s := { State.reset with tray := { State.reset.tray with segments := [(1, { Segment.reset with retries := 3 })] } }
    let t := after (exec (.segmentProbe 1 []) s)
    (Sparse.get Segment.reset t.tray.segments 1).state = 2 ∧ eventCount t 0xC001 1296 = 1 := by decide +kernel
/-- With no cove and a service request in progress emptying ends: the ledger is written, and removal is safe (R633). -/
theorem test_emptying :
    let s := { State.reset with tray := { State.reset.tray with service := 1 } }
    let t := after (exec .emptyingCovesFree s)
    t.tray.emptied = true ∧ (after (exec .safeToRemove t)).tray.service = 2 := by decide +kernel
/-- A step takes the command at the front. -/
theorem test_step :
    (after (step { State.reset with pending := [.trayLocateWrite 1 true, .trayLocateWrite 2 true] })).pending.length = 1 := by
  decide +kernel

end Sys2Proof.Tests
end

section
/-!
PROOFS. Every command completes, every step keeps the invariant, and reset meets it: O3, O4, O5.
-/
namespace Sys2Proof.Proofs
open Sys2Proof Sys2Proof.Machine Sys2Proof.Laws

variable {s0 s : State}

/-- Every command answers a next state that keeps the build, the queue and the canonical memories: the lemma of the
command's own meaning. -/
theorem keep_exec (h : Keep s0 s) (i : Instr) : OutKeep s0 (exec i s) := by
  cases i with
  | nop _ _ _ => exact keep_execNop h ..
  | li _ _ _ => exact keep_execLi h ..
  | lui _ _ _ => exact keep_execLui h ..
  | add _ _ _ => exact keep_execAdd h ..
  | sub _ _ _ => exact keep_execSub h ..
  | mul _ _ _ => exact keep_execMul h ..
  | and _ _ _ => exact keep_execAnd h ..
  | or _ _ _ => exact keep_execOr h ..
  | xor _ _ _ => exact keep_execXor h ..
  | shl _ _ _ => exact keep_execShl h ..
  | shr _ _ _ => exact keep_execShr h ..
  | sra _ _ _ => exact keep_execSra h ..
  | min _ _ _ => exact keep_execMin h ..
  | max _ _ _ => exact keep_execMax h ..
  | ident _ _ _ => exact keep_execId h ..
  | stepRead _ _ _ => exact keep_execStep h ..
  | tideRead _ _ _ => exact keep_execTide h ..
  | br _ _ _ => exact keep_execBr h ..
  | loop _ _ _ => exact keep_execLoop h ..
  | endl _ _ _ => exact keep_execEndl h ..
  | endProgram _ _ _ => exact keep_execEnd h ..
  | mma _ _ _ => exact keep_execMma h ..
  | mmaGa _ _ _ => exact keep_execMmaGa h ..
  | mmaGb _ _ _ => exact keep_execMmaGb h ..
  | mmaRo _ _ _ => exact keep_execMmaRo h ..
  | vmov _ _ _ => exact keep_execVmov h ..
  | vadd _ _ _ => exact keep_execVadd h ..
  | vsub _ _ _ => exact keep_execVsub h ..
  | vmul _ _ _ => exact keep_execVmul h ..
  | vfma _ _ _ => exact keep_execVfma h ..
  | vmin _ _ _ => exact keep_execVmin h ..
  | vmax _ _ _ => exact keep_execVmax h ..
  | vdiv _ _ _ => exact keep_execVdiv h ..
  | vsqrt _ _ _ => exact keep_execVsqrt h ..
  | vabs _ _ _ => exact keep_execVabs h ..
  | vneg _ _ _ => exact keep_execVneg h ..
  | vcmp _ _ _ => exact keep_execVcmp h ..
  | vsel _ _ _ => exact keep_execVsel h ..
  | vsfu _ _ _ => exact keep_execVsfu h ..
  | vrsum _ _ _ => exact keep_execVrsum h ..
  | vramax _ _ _ => exact keep_execVramax h ..
  | vrssq _ _ _ => exact keep_execVrssq h ..
  | vrand _ _ _ => exact keep_execVrand h ..
  | vrbits _ _ _ => exact keep_execVrbits h ..
  | vbcast _ _ _ => exact keep_execVbcast h ..
  | vtos _ _ _ => exact keep_execVtos h ..
  | vstov _ _ _ => exact keep_execVstov h ..
  | wcopy _ _ _ => exact keep_execWcopy h ..
  | wzero _ _ _ => exact keep_execWzero h ..
  | waadd _ _ _ => exact keep_execWaadd h ..
  | wamax _ _ _ => exact keep_execWamax h ..
  | wacas _ _ _ => exact keep_execWacas h ..
  | wafadd _ _ _ => exact keep_execWafadd h ..
  | swtide _ _ _ => exact keep_execSwtide h ..
  | sarrive _ _ _ => exact keep_execSarrive h ..
  | swains _ _ _ => exact keep_execSwains h ..
  | sdrain _ _ _ => exact keep_execSdrain h ..
  | stbar _ _ _ => exact keep_execStbar h ..
  | scommit _ _ _ => exact keep_execScommit h ..
  | tupd _ _ _ => exact keep_execTupd h ..
  | tssq _ _ _ => exact keep_execTssq h ..
  | tclip _ _ _ => exact keep_execTclip h ..
  | tmov _ _ _ => exact keep_execTmov h ..
  | tlin _ _ _ => exact keep_execTlin h ..
  | tflag _ _ _ => exact keep_execTflag h ..
  | rret _ _ _ => exact keep_execRret h ..
  | rarg _ _ _ => exact keep_execRarg h ..
  | rsend _ _ _ => exact keep_execRsend h ..
  | rwait _ _ _ => exact keep_execRwait h ..
  | rred _ _ _ => exact keep_execRred h ..
  | rnarw _ _ _ => exact keep_execRnarw h ..
  | rglean _ _ _ => exact keep_execRglean h ..
  | tileCommit _ _ _ _ => exact keep_execTileCommit h ..
  | tileDrainEnd _ _ => exact keep_execTileDrainEnd h ..
  | collectivePoint _ _ => exact keep_execCollectivePoint h ..
  | packetAdmit _ _ _ _ => exact keep_execPacketAdmit h ..
  | wainDescriptorComplete _ _ => exact keep_execWainDescriptorComplete h ..
  | engineHang _ _ _ => exact keep_execEngineHang h ..
  | routineHang _ _ => exact keep_execRoutineHang h ..
  | contextSwitch _ => exact keep_execContextSwitch h ..
  | scratchpadScrub _ _ _ => exact keep_execScratchpadScrub h ..
  | arrivalDeadline _ _ => exact keep_execArrivalDeadline h ..
  | voteTick _ _ => exact keep_execVoteTick h ..
  | collectiveLimit _ _ => exact keep_execCollectiveLimit h ..
  | stepCommit _ _ => exact keep_execStepCommit h ..
  | slackWaterEnd _ => exact keep_execSlackWaterEnd h ..
  | commitLimit _ => exact keep_execCommitLimit h ..
  | discardNoticeReceive _ _ _ _ _ => exact keep_execDiscardNoticeReceive h ..
  | replayStart _ => exact keep_execReplayStart h ..
  | slackEvalSnapshot _ => exact keep_execSlackEvalSnapshot h ..
  | slackEbb _ => exact keep_execSlackEbb h ..
  | slackFlood _ => exact keep_execSlackFlood h ..
  | slackReplicaCopy _ _ => exact keep_execSlackReplicaCopy h ..
  | digestTableReceive _ _ _ _ _ => exact keep_execDigestTableReceive h ..
  | coveRestartTick _ => exact keep_execCoveRestartTick h ..
  | checkpointDrainEnd _ _ _ => exact keep_execCheckpointDrainEnd h ..
  | freezeTick _ => exact keep_execFreezeTick h ..
  | freezeLanded _ => exact keep_execFreezeLanded h ..
  | thawTick _ => exact keep_execThawTick h ..
  | restoreEnd _ _ _ => exact keep_execRestoreEnd h ..
  | markPulse => exact keep_execMarkPulse h
  | tideMarkInterval => exact keep_execTideMarkInterval h
  | referenceLost => exact keep_execReferenceLost h
  | referenceRestored => exact keep_execReferenceRestored h
  | referenceFound => exact keep_execReferenceFound h
  | timeTransferSend _ _ => exact keep_execTimeTransferSend h ..
  | timeTransferRequest _ _ _ _ => exact keep_execTimeTransferRequest h ..
  | timeTransferResponse _ _ _ => exact keep_execTimeTransferResponse h ..
  | holdoverLimit => exact keep_execHoldoverLimit h
  | tideDataWrite _ => exact keep_execTideDataWrite h ..
  | moduleSwitchArm _ => exact keep_execModuleSwitchArm h ..
  | moduleSwitchReapply _ => exact keep_execModuleSwitchReapply h ..
  | coveSwitchArm _ _ => exact keep_execCoveSwitchArm h ..
  | coveSwitchReapply _ _ => exact keep_execCoveSwitchReapply h ..
  | moduleSwitchTick _ _ => exact keep_execModuleSwitchTick h ..
  | coveSwitchTick _ _ _ => exact keep_execCoveSwitchTick h ..
  | moduleReapplyTick _ _ => exact keep_execModuleReapplyTick h ..
  | coveReapplyTick _ _ _ => exact keep_execCoveReapplyTick h ..
  | clockChangeEnd _ => exact keep_execClockChangeEnd h ..
  | tideCRestartWrite _ _ _ => exact keep_execTideCRestartWrite h ..
  | generationHoldTimeout => exact keep_execGenerationHoldTimeout h
  | refreshWindow _ => exact keep_execRefreshWindow h ..
  | stolenRefreshWindow _ => exact keep_execStolenRefreshWindow h ..
  | routeDataWrite _ => exact keep_execRouteDataWrite h ..
  | routeSwitchArm _ => exact keep_execRouteSwitchArm h ..
  | routeReapply _ => exact keep_execRouteReapply h ..
  | routeSwitchTick _ => exact keep_execRouteSwitchTick h ..
  | routeReapplyTick _ => exact keep_execRouteReapplyTick h ..
  | presenceLoss _ => exact keep_execPresenceLoss h ..
  | presenceAppear _ => exact keep_execPresenceAppear h ..
  | seekingPattern _ => exact keep_execSeekingPattern h ..
  | partnerSignalDetect _ => exact keep_execPartnerSignalDetect h ..
  | trainingPhaseEnd _ _ => exact keep_execTrainingPhaseEnd h ..
  | trainingTimeout _ => exact keep_execTrainingTimeout h ..
  | laneLockLost _ => exact keep_execLaneLockLost h ..
  | uncorrectableLimit _ => exact keep_execUncorrectableLimit h ..
  | serCheck _ _ _ => exact keep_execSerCheck h ..
  | codewordReceive _ _ _ _ => exact keep_execCodewordReceive h ..
  | nakReceive _ _ => exact keep_execNakReceive h ..
  | nakResendTimeout _ => exact keep_execNakResendTimeout h ..
  | packetWrite _ _ => exact keep_execPacketWrite h ..
  | packetReadRequest _ _ => exact keep_execPacketReadRequest h ..
  | packetReadResponse _ _ => exact keep_execPacketReadResponse h ..
  | packetAtomicRequest _ _ => exact keep_execPacketAtomicRequest h ..
  | packetAtomicResponse _ _ => exact keep_execPacketAtomicResponse h ..
  | packetAcknowledge _ _ => exact keep_execPacketAcknowledge h ..
  | packetStatus _ _ => exact keep_execPacketStatus h ..
  | packetReservedType _ _ => exact keep_execPacketReservedType h ..
  | packetTransit _ _ => exact keep_execPacketTransit h ..
  | ackEmit _ _ => exact keep_execAckEmit h ..
  | fabCtrlHfenceSet _ _ => exact keep_execFabCtrlHfenceSet h ..
  | fabCtrlHfenceClear _ _ => exact keep_execFabCtrlHfenceClear h ..
  | fabCtrlEnClear _ _ => exact keep_execFabCtrlEnClear h ..
  | fabCtrlRelease _ _ => exact keep_execFabCtrlRelease h ..
  | hbmScrub _ _ _ => exact keep_execHbmScrub h ..
  | nearMemoryScrub _ _ _ => exact keep_execNearMemoryScrub h ..
  | leaseTableWrite _ _ => exact keep_execLeaseTableWrite h ..
  | cvCtrlStart _ _ _ => exact keep_execCvCtrlStart h ..
  | cvCtrlStop _ _ _ => exact keep_execCvCtrlStop h ..
  | cvCtrlHold _ _ _ => exact keep_execCvCtrlHold h ..
  | cvDiesWrite _ _ _ => exact keep_execCvDiesWrite h ..
  | cvUmapWrite _ _ _ _ => exact keep_execCvUmapWrite h ..
  | cvQuotaWrite _ _ _ => exact keep_execCvQuotaWrite h ..
  | cvJobtagWrite _ _ _ _ => exact keep_execCvJobtagWrite h ..
  | loadingResourceFree _ => exact keep_execLoadingResourceFree h ..
  | loadingEnd _ => exact keep_execLoadingEnd h ..
  | releaseEnd _ => exact keep_execReleaseEnd h ..
  | cvEvalCtrlArm _ _ _ => exact keep_execCvEvalCtrlArm h ..
  | cvSrCtrlEnable _ _ _ => exact keep_execCvSrCtrlEnable h ..
  | cvLdigCtrlEnable _ _ _ => exact keep_execCvLdigCtrlEnable h ..
  | cvClogCtrlEnable _ _ _ => exact keep_execCvClogCtrlEnable h ..
  | cvClogRdWrite _ _ _ => exact keep_execCvClogRdWrite h ..
  | cvBarnWrite _ _ _ _ => exact keep_execCvBarnWrite h ..
  | cvPlaceDataRead _ _ => exact keep_execCvPlaceDataRead h ..
  | loadQueueDoorbell _ _ _ => exact keep_execLoadQueueDoorbell h ..
  | loadQueueEnable _ _ _ => exact keep_execLoadQueueEnable h ..
  | loadEntryNop _ => exact keep_execLoadEntryNop h ..
  | loadHostCopy _ _ _ => exact keep_execLoadHostCopy h ..
  | loadStorageRead _ _ _ => exact keep_execLoadStorageRead h ..
  | loadImage _ _ _ => exact keep_execLoadImage h ..
  | loadEntryStart _ _ => exact keep_execLoadEntryStart h ..
  | loadEntryEnd _ => exact keep_execLoadEntryEnd h ..
  | loadConnConnect _ _ _ => exact keep_execLoadConnConnect h ..
  | loadConnDisconnect _ => exact keep_execLoadConnDisconnect h ..
  | connectionUp _ _ => exact keep_execConnectionUp h ..
  | connectionDrop _ => exact keep_execConnectionDrop h ..
  | ckptTake _ _ _ => exact keep_execCkptTake h ..
  | ckptFreeze _ _ _ => exact keep_execCkptFreeze h ..
  | ckptThaw _ _ => exact keep_execCkptThaw h ..
  | ckptRollback _ _ => exact keep_execCkptRollback h ..
  | ckptRestore _ _ _ _ => exact keep_execCkptRestore h ..
  | ckptAdopt _ _ => exact keep_execCkptAdopt h ..
  | ckptStandinWrite _ _ => exact keep_execCkptStandinWrite h ..
  | ckptRemapWrite _ _ => exact keep_execCkptRemapWrite h ..
  | chaffRound => exact keep_execChaffRound h
  | chaffRunEnd _ _ => exact keep_execChaffRunEnd h ..
  | wearScoreUpdate => exact keep_execWearScoreUpdate h
  | lifeLedgerWrite _ => exact keep_execLifeLedgerWrite h ..
  | healthFence _ => exact keep_execHealthFence h ..
  | healthFenceClear _ => exact keep_execHealthFenceClear h ..
  | healthLedgerDataRead => exact keep_execHealthLedgerDataRead h
  | recoveryStart => exact keep_execRecoveryStart h
  | rungOverrun => exact keep_execRungOverrun h
  | engineSelfTestEnd _ => exact keep_execEngineSelfTestEnd h ..
  | suspectTestEnd _ => exact keep_execSuspectTestEnd h ..
  | coveResetEnd => exact keep_execCoveResetEnd h
  | recovContextReset _ => exact keep_execRecovContextReset h ..
  | recovEngineReset _ => exact keep_execRecovEngineReset h ..
  | recovCoveReset _ => exact keep_execRecovCoveReset h ..
  | recovModuleReset _ => exact keep_execRecovModuleReset h ..
  | recovWrackFree _ => exact keep_execRecovWrackFree h ..
  | recovWrackCopy _ => exact keep_execRecovWrackCopy h ..
  | wrackCopyEnd _ => exact keep_execWrackCopyEnd h ..
  | headlandLivenessAdvance => exact keep_execHeadlandLivenessAdvance h
  | headlandLivenessLost => exact keep_execHeadlandLivenessLost h
  | headlandResume _ => exact keep_execHeadlandResume h ..
  | headlandUnclaimed => exact keep_execHeadlandUnclaimed h
  | heartbeatAdvance => exact keep_execHeartbeatAdvance h
  | bootReadyTimeout => exact keep_execBootReadyTimeout h
  | summaryFlush _ => exact keep_execSummaryFlush h ..
  | healthErrRdWrite _ _ => exact keep_execHealthErrRdWrite h ..
  | healthErrFetch _ _ => exact keep_execHealthErrFetch h ..
  | errFetchEnd _ _ => exact keep_execErrFetchEnd h ..
  | healthCntFetch _ _ => exact keep_execHealthCntFetch h ..
  | counterFetchEnd _ _ => exact keep_execCounterFetchEnd h ..
  | traceSlFetch _ _ => exact keep_execTraceSlFetch h ..
  | slFetchEnd _ _ => exact keep_execSlFetchEnd h ..
  | traceCWtCtrlWrite _ _ _ => exact keep_execTraceCWtCtrlWrite h ..
  | traceCWtRdWrite _ _ _ => exact keep_execTraceCWtRdWrite h ..
  | waitRecordForward _ => exact keep_execWaitRecordForward h ..
  | strandlineWrite _ => exact keep_execStrandlineWrite h ..
  | configRequest _ _ _ _ => exact keep_execConfigRequest h ..
  | pcieLinkReset => exact keep_execPcieLinkReset h
  | pcieLinkUp _ _ => exact keep_execPcieLinkUp h ..
  | vfFlr _ => exact keep_execVfFlr h ..
  | pfFlr => exact keep_execPfFlr h
  | d3hotEntry _ => exact keep_execD3hotEntry h ..
  | d0Return _ => exact keep_execD0Return h ..
  | registerWrite _ _ _ _ => exact keep_execRegisterWrite h ..
  | sringEnable _ _ => exact keep_execSringEnable h ..
  | sringRdWrite _ _ => exact keep_execSringRdWrite h ..
  | statusLineWrite _ => exact keep_execStatusLineWrite h ..
  | tideOverrideWrite _ _ => exact keep_execTideOverrideWrite h ..
  | fwWriteImage _ _ _ => exact keep_execFwWriteImage h ..
  | fwWriteSettings _ _ => exact keep_execFwWriteSettings h ..
  | fwReadSettings => exact keep_execFwReadSettings h
  | fwSelectSlot _ => exact keep_execFwSelectSlot h ..
  | fwLiveUpdate => exact keep_execFwLiveUpdate h
  | fwSafeHarbourRequest => exact keep_execFwSafeHarbourRequest h
  | fwCommandEnd _ => exact keep_execFwCommandEnd h ..
  | liveUpdateUnitSwap _ => exact keep_execLiveUpdateUnitSwap h ..
  | inputTurnOn => exact keep_execInputTurnOn h
  | powerGood => exact keep_execPowerGood h
  | moduleReady => exact keep_execModuleReady h
  | healthCheckPass => exact keep_execHealthCheckPass h
  | inputUndervoltage => exact keep_execInputUndervoltage h
  | inputOvervoltage => exact keep_execInputOvervoltage h
  | intermediateRailLoss => exact keep_execIntermediateRailLoss h
  | holdupEnd => exact keep_execHoldupEnd h
  | regulatorCurrentLimit _ _ => exact keep_execRegulatorCurrentLimit h ..
  | regulatorOvertemp _ _ => exact keep_execRegulatorOvertemp h ..
  | regulatorTelemetry _ _ _ _ _ _ => exact keep_execRegulatorTelemetry h ..
  | errorCountForward _ => exact keep_execErrorCountForward h ..
  | marginRead _ _ => exact keep_execMarginRead h ..
  | dieTempReading _ _ => exact keep_execDieTempReading h ..
  | hbmTempReading _ _ => exact keep_execHbmTempReading h ..
  | tripTimeout => exact keep_execTripTimeout h
  | thermalReturn => exact keep_execThermalReturn h
  | hbmRecentre _ _ => exact keep_execHbmRecentre h ..
  | opticalTrim _ _ => exact keep_execOpticalTrim h ..
  | trayIdent => exact keep_execTrayIdent h
  | trayHeartbeat => exact keep_execTrayHeartbeat h
  | trayState => exact keep_execTrayState h
  | trayPower => exact keep_execTrayPower h
  | trayCoves => exact keep_execTrayCoves h
  | trayPorts => exact keep_execTrayPorts h
  | trayServiceWrite _ _ => exact keep_execTrayServiceWrite h ..
  | trayServiceRead => exact keep_execTrayServiceRead h
  | trayLocateWrite _ _ => exact keep_execTrayLocateWrite h ..
  | trayLocateRead => exact keep_execTrayLocateRead h
  | trayCapWrite _ _ => exact keep_execTrayCapWrite h ..
  | trayCapRead => exact keep_execTrayCapRead h
  | trayReset _ _ => exact keep_execTrayReset h ..
  | traySlSelWrite _ _ => exact keep_execTraySlSelWrite h ..
  | traySlSelRead => exact keep_execTraySlSelRead h
  | traySlData => exact keep_execTraySlData h
  | trayUnknownCommand _ => exact keep_execTrayUnknownCommand h ..
  | trayClockLowTimeout => exact keep_execTrayClockLowTimeout h
  | trayFileRefresh => exact keep_execTrayFileRefresh h
  | localBusPoll _ _ _ _ => exact keep_execLocalBusPoll h ..
  | segmentProbe _ _ => exact keep_execSegmentProbe h ..
  | failedTargetProbe _ _ _ => exact keep_execFailedTargetProbe h ..
  | segmentPowerRestore _ _ _ => exact keep_execSegmentPowerRestore h ..
  | emptyingCovesFree => exact keep_execEmptyingCovesFree h
  | safeToRemove => exact keep_execSafeToRemove h
  | registerRead _ _ _ => exact keep_execRegisterRead h ..
  | converterEnableChange _ => exact keep_execConverterEnableChange h ..
  | inputOvervoltageClear => exact keep_execInputOvervoltageClear h

/-- A step is a command or a tick of the clock, and each keeps what the invariant asks. -/
theorem step_keeps_inv {t : State} (hs : s.Inv) (h : step s = .next t) : t.Inv := by
  obtain ⟨hbuild, hmem⟩ := hs
  unfold step at h
  split at h
  case h_1 =>
    have k : Keep s (clockTick s) := keep_clockTick (Keep.refl s)
    cases h
    exact ⟨k.copper hbuild, k.memories hmem⟩
  case h_2 i q _ =>
    obtain ⟨u, e, k⟩ := keep_exec (Keep.refl { s with pending := q }) i
    cases e.symm.trans h
    exact ⟨k.copper hbuild, k.memories hmem⟩

/-- Settles O3: each command's own lemma, from the state itself. -/
theorem everyCommandCompletes : Obligations.EveryCommandCompletes := fun i s => keep_exec (Keep.refl s) i

/-- Settles O4: a command by the lemma of `exec`, a tick by that of the clock. -/
theorem everyStepKeepsInvariant : Obligations.EveryStepKeepsInvariant := fun _ _ => step_keeps_inv

/-- Settles O5: at reset the module is in copper-only mode, and no memory lists a byte. -/
theorem resetMeetsInvariant : Obligations.ResetMeetsInvariant :=
  ⟨fun _ => rfl, nofun, nofun, nofun⟩

end Sys2Proof.Proofs
end

section
/-!
PROOFS. Writes and reads of BAR0, host-access errors, status rings and the override: O32 and O55.
-/
namespace Sys2Proof.Proofs
open Sys2Proof Sys2Proof.Machine Sys2Proof.Laws Sys2Proof.Claim

variable {s t u : State}

/-! ### What recording an event and writing status lines touch -/

/-- `t` differs from `s` in the trace, the writes to host memory and the functions' status rings only. -/
structure RingsOnly (s t : State) : Prop where
  frame : ∃ tr fns wr, t = { s with trace := tr, host := { s.host with fns := fns, written := wr } }
  keeps : ∀ k, ∃ r, fnAt t k = { fnAt s k with ring := r }

theorem RingsOnly.refl (s : State) : RingsOnly s s := ⟨⟨_, _, _, rfl⟩, fun _ => ⟨_, rfl⟩⟩

theorem RingsOnly.trans (h : RingsOnly s t) (h' : RingsOnly t u) : RingsOnly s u where
  frame := by
    obtain ⟨_, _, _, rfl⟩ := h.frame
    obtain ⟨_, _, _, rfl⟩ := h'.frame
    exact ⟨_, _, _, rfl⟩
  keeps k := by
    obtain ⟨_, e⟩ := h.keeps k
    obtain ⟨r, e'⟩ := h'.keeps k
    exact ⟨r, by rw [e', e]⟩

theorem RingsOnly.writeHeld (h : RingsOnly s t) (k : Nat) : (fnAt t k).writeHeld = (fnAt s k).writeHeld := by
  obtain ⟨_, e⟩ := h.keeps k
  rw [e]

/-- Without a change of the trace the frame is the host interface's alone. -/
theorem RingsOnly.host_frame (h : RingsOnly s t) (e : t.trace = s.trace) :
    t = { s with host := { s.host with fns := t.host.fns, written := t.host.written } } := by
  obtain ⟨_, _, _, rfl⟩ := h.frame
  cases e
  rfl

theorem ringsOnly_trace (h : ∃ tr, t = { s with trace := tr }) : RingsOnly s t := by
  obtain ⟨_, rfl⟩ := h
  exact ⟨⟨_, _, _, rfl⟩, fun _ => ⟨_, rfl⟩⟩

theorem ringsOnly_hostWrite (s fn a bs) : RingsOnly s (hostWrite s fn a bs) :=
  ⟨⟨_, _, _, rfl⟩, fun _ => ⟨_, rfl⟩⟩

theorem ringsOnly_updRing (s fn f) : RingsOnly s (updRing s fn f) where
  frame := ⟨_, _, _, rfl⟩
  keeps k := by
    by_cases hk : k = fn
    · subst hk; exact ⟨_, fnAt_updFn ..⟩
    · exact ⟨_, fnAt_updFn_other _ _ _ _ hk⟩

theorem ringsOnly_writeLine (s fn l) : RingsOnly s (writeLine s fn l) := by
  unfold writeLine
  exact (ringsOnly_hostWrite ..).trans (ringsOnly_updRing ..)

theorem ringsOnly_drainLines (n : Nat) (s fn) : RingsOnly s (drainLines n s fn) := by
  induction n generalizing s with
  | zero => exact .refl s
  | succ n ih =>
    unfold drainLines
    split
    · exact .refl s
    · split
      · exact ((ringsOnly_writeLine ..).trans (ringsOnly_updRing ..)).trans (ih _)
      · exact .refl s

theorem ringsOnly_noticeLine (s fn e r w) : RingsOnly s (noticeLine s fn e r w) := by
  unfold noticeLine
  dsimp only
  split
  · exact .refl s
  · split
    · exact ringsOnly_writeLine ..
    · exact ringsOnly_updRing ..

theorem ringsOnly_recordPlain (s c v k r d) : RingsOnly s (recordPlain s c v k r d) := by
  unfold recordPlain
  extract_lets s1 src step e ring before coalesces s2 wr s3
  have h1 : RingsOnly s s1 := (ringsOnly_trace (countSource_frame ..)).trans (ringsOnly_trace ⟨_, rfl⟩)
  have h2 : RingsOnly s1 s2 := (ringsOnly_trace (ringPut_frame ..)).trans (ringsOnly_trace (strandPut_frame ..))
  have h3 : RingsOnly s s3 := (h1.trans h2).trans (ringsOnly_noticeLine ..)
  split
  · exact h3.trans (ringsOnly_noticeLine ..)
  · exact h3

theorem ringsOnly_record (s c v k r d) : RingsOnly s (record s c v k r d) := by
  unfold record
  extract_lets ring ring0 strand0 drop0 s1 s2
  have h1 : RingsOnly s s1 := ringsOnly_recordPlain ..
  have h2 : RingsOnly s s2 := by
    simp only [s2]
    split
    · exact h1.trans (ringsOnly_recordPlain ..)
    · exact h1
  split
  · exact h2.trans (ringsOnly_recordPlain ..)
  · exact h2

/-! ### Host-access errors -/

/-- The counter of host-access errors is no count of an event. -/
theorem hostError_count (s : State) (fn : Nat) : ∃ tr,
    (if fn = 0 then bump s 0 0 0 1 else bumpCove s (fn - 1) 1 0 7 1) = { s with trace := tr }
    ∧ tr.sources = s.trace.sources := by
  split <;> exact ⟨_, rfl, rfl⟩

/-- A host-access error sets HOST_HOSTERR, counts, and records event 0xB010 (R569). -/
theorem hostError_eq (s : State) (fn kind off : Nat) : ∃ u tr w,
    w = BitVec.ofNat 64 (kind + fn * 16 + off % 2 ^ 25 * 2 ^ 32)
    ∧ u = { s with trace := tr, host := { s.host with hosterr := w } } ∧ tr.sources = s.trace.sources
    ∧ ∃ cove detail, hostError s fn kind off = record u 0xB010 .corrected cove 1296 detail := by
  obtain ⟨tr, e, hsrc⟩ := hostError_count { s with host := { s.host with
    hosterr := BitVec.ofNat 64 (kind + fn * 16 + off % 2 ^ 25 * 2 ^ 32) } } fn
  exact ⟨_, tr, _, rfl, rfl, hsrc, _, _, congrArg (record · 0xB010 .corrected _ 1296 _) e⟩

theorem hostErred_hostError (s : State) (fn kind off : Nat) : HostErred s (hostError s fn kind off) fn kind off := by
  obtain ⟨u, tr, w, hw, hu, hsrc, _, _, e⟩ := hostError_eq s fn kind off
  have hrec : Recorded u (hostError s fn kind off) 0xB010 1296 :=
    e ▸ recorded_record u _ _ _ _ _ (by decide) (by simp [episodeCode])
  obtain ⟨_, _, _, hframe⟩ := (e ▸ ringsOnly_record u _ _ _ _ _ : RingsOnly u (hostError s fn kind off)).frame
  subst hu
  refine ⟨?_, ?_, ?_⟩
  · unfold Recorded eventCount at hrec ⊢
    rw [hrec, hsrc]
  · rw [hframe, ← hw]
  · rw [hframe]

@[simp] theorem writeHeld_hostError (s : State) (fn kind off k : Nat) :
    (fnAt (hostError s fn kind off) k).writeHeld = (fnAt s k).writeHeld := by
  obtain ⟨u, _, w, -, rfl, -, _, _, e⟩ := hostError_eq s fn kind off
  rw [e, (ringsOnly_record ..).writeHeld k]
  rfl

/-! ### A held lower half (R23) -/

theorem dropHeld_of_none {fn : Nat} (reg : Nat) (h : (fnAt s fn).writeHeld = none) : dropHeld s fn reg = s := by
  simp only [dropHeld, h]

theorem touch_of_none {fn : Nat} (off : Nat) (h : (fnAt s fn).writeHeld = none) : touch s fn off = s := by
  simp only [touch, h]

/-- A touch leaves the state, frees a half held for the register, or drops one held for another as an error. -/
theorem touch_cases (s : State) (fn off : Nat) :
    ((fnAt s fn).writeHeld = none ∧ touch s fn off = s)
    ∨ touch s fn off = updFn s fn (fun f => { f with writeHeld := none })
    ∨ ∃ o, touch s fn off = hostError (updFn s fn fun f => { f with writeHeld := none }) fn 5 o := by
  cases h : (fnAt s fn).writeHeld with
  | none => exact .inl ⟨rfl, touch_of_none off h⟩
  | some p =>
    simp only [touch, dropHeld, h]
    split
    · exact .inr (.inl rfl)
    · exact .inr (.inr ⟨_, rfl⟩)

/-- After an access to a register no half is held. -/
theorem writeHeld_touch (s : State) (fn off : Nat) : (fnAt (touch s fn off) fn).writeHeld = none := by
  rcases touch_cases s fn off with ⟨h, e⟩ | e | ⟨o, e⟩ <;> rw [e]
  · exact h
  · simp
  · simp

theorem touch_touch (s : State) (fn off : Nat) : touch (touch s fn off) fn off = touch s fn off :=
  touch_of_none off (writeHeld_touch s fn off)

/-- A touch leaves alone what decides whether a write is answered. -/
theorem touch_frame (s : State) (fn off : Nat) : ∃ tr fns w wr,
    touch s fn off = { s with trace := tr, host := { s.host with fns := fns, hosterr := w, written := wr } } := by
  rcases touch_cases s fn off with ⟨-, e⟩ | e | ⟨o, e⟩ <;> rw [e]
  · exact ⟨_, _, _, _, rfl⟩
  · exact ⟨_, _, _, _, rfl⟩
  · obtain ⟨-, -, e'⟩ := hostErred_hostError (updFn s fn fun f => { f with writeHeld := none }) fn 5 o
    rw [e']
    exact ⟨_, _, _, _, rfl⟩

/-! ### Writes to BAR0 -/

/-- A write by its three outcomes: unanswered, held back while the headland moves, or in effect. -/
theorem barWrite_eq (s : State) (fn off : Nat) (ok op : Bool) (i : Instr) (e : State → Result) :
    barWrite s fn off ok op i e =
      if (ok && answers s fn && openIn s fn op) = true then
        if s.recov.moving.isSome then
          if s.host.moveQueue.length < 256 then
            .next { s with host := { s.host with moveQueue := s.host.moveQueue ++ [i] } }
          else .next (hostError s fn 4 off)
        else e s
      else .next s := by
  unfold barWrite
  cases ok <;> cases answers s fn <;> cases openIn s fn op <;> rfl

/-- A row is one write of a register, at offset `off` where the row names one, whose effect begins with a touch of it. -/
def WritesRow (i : Instr) (fn : Nat) (off : Option Nat) (ok op : Bool) : Prop :=
  ∃ reg e, (∀ s, exec i s = barWrite s fn reg ok op i e) ∧ ∀ o, off = some o → ∀ s, e s = e (touch s fn o)

/-- A row that names its register and touches it first. -/
theorem writesRow_touch {i : Instr} {fn reg : Nat} {ok op : Bool} {e : State → Result}
    (h : ∀ s, exec i s = barWrite s fn reg ok op i fun t => e (touch t fn reg)) :
    WritesRow i fn (some reg) ok op :=
  ⟨reg, _, h, fun o ho s => by cases ho; rw [touch_touch]⟩

/-- Every row of `barRow` is a write of its register. -/
theorem writesRow_of_barRow {i : Instr} {fn : Nat} {off : Option Nat} {ok op : Bool}
    (h : barRow i = some (fn, off, ok, op)) : WritesRow i fn off ok op := by
  cases i with
  | leaseTableWrite index words => cases h; exact ⟨0, _, fun _ => rfl, nofun⟩
  | registerWrite fn offset size value => cases h; exact ⟨offset, _, fun _ => rfl, nofun⟩
  | _ => cases h <;> exact writesRow_touch fun _ => rfl

/-- Settles O32: a row is a `barWrite`, whose outcomes `barWrite_eq` lists; the touch that begins its effect can be made
beforehand, since it changes nothing that the write asks about. -/
theorem barWritesAreAnswered : Obligations.BarWritesAreAnswered := by
  intro i s fn off ok op hrow
  obtain ⟨reg, e, hexec, htouch⟩ := writesRow_of_barRow hrow
  simp only [hexec, barWrite_eq]
  refine ⟨fun hopen => if_neg (by simp [hopen]), fun hopen => ⟨fun hmove => ⟨fun hlt => ?_, fun hge => ?_⟩,
    fun hstay o ho => ⟨?_, writeHeld_touch s fn o⟩⟩⟩
  · rw [if_pos hopen, if_pos hmove, if_pos hlt]
  · obtain ⟨hrec, -, hframe⟩ := hostErred_hostError s fn 4 reg
    exact ⟨_, by rw [if_pos hopen, if_pos hmove, if_neg (by omega)], hrec, hframe⟩
  · obtain ⟨tr, fns, w, wr, hframe⟩ := touch_frame s fn o
    have hopen' : (ok && answers (touch s fn o) fn && openIn (touch s fn o) fn op) = true := by rw [hframe]; exact hopen
    have hstay' : (touch s fn o).recov.moving = none := by rw [hframe]; exact hstay
    simp only [hopen, hopen', hstay, hstay', if_true, Option.isSome_none, Bool.false_eq_true, if_false]
    exact htouch o ho s

/-! ### Answered accesses -/

/-- What an open row gives: its register answers, the headland stays and no half is held. -/
theorem barOpen_row {i : Instr} {fn : Nat} {off : Option Nat} {ok op : Bool} (h : BarOpen s i)
    (hi : barRow i = some (fn, off, ok, op)) :
    (ok && answers s fn && openIn s fn op) = true ∧ s.recov.moving = none ∧ (fnAt s fn).writeHeld = none := by
  obtain ⟨fn', off', ok', op', hrow, rfl, hans, hopen, hstay, hheld⟩ := h
  cases hrow.symm.trans hi
  exact ⟨by rw [hans, hopen]; rfl, hstay, hheld⟩

theorem barWrite_open {fn off : Nat} {ok op : Bool} {i : Instr} {e : State → Result}
    (h : (ok && answers s fn && openIn s fn op) = true) (hstay : s.recov.moving = none) :
    barWrite s fn off ok op i e = e s := by
  rw [barWrite_eq, if_pos h, hstay]
  rfl

theorem barOpen_fn {i : Instr} {fn : Nat} {off : Option Nat} {ok op : Bool} (h : BarOpen s i)
    (hrow : barRow i = some (fn, off, ok, op)) : fn < 17 := by
  obtain ⟨hopen, -, -⟩ := barOpen_row h hrow
  simp only [answers, Bool.and_eq_true, decide_eq_true_eq] at hopen
  omega

/-! ### Register writes (R22, R23) -/

section
variable {fn off a : Nat} (v : DWord)

theorem effectRegisterWrite_bad {size : Nat} (h : goodAccess off size = false) :
    effectRegisterWrite fn off size v s = .next (hostError s fn 1 off) := by
  simp only [effectRegisterWrite, h, Bool.false_eq_true, if_false]

theorem effectRegisterWrite_word (h : goodAccess off 4 = true) :
    effectRegisterWrite fn off 4 v s = .next (write32 s fn off (v.toNat % 2 ^ 32)) := by
  simp only [effectRegisterWrite, writeBar, h, if_true]

theorem effectRegisterWrite_whole (h : goodAccess off 8 = true) (ha : halfAt fn off = .lower a)
    (hheld : (fnAt s fn).writeHeld = none) :
    effectRegisterWrite fn off 8 v s =
      .next (regWrite (updFn s fn fun f => { f with writeHeld := none }) fn a off v.toNat) := by
  simp [effectRegisterWrite, writeBar, h, ha, dropHeld_of_none off hheld]

end

section
variable {fn off a : Nat} (v : Nat)

theorem write32_none (h : halfAt fn off = .none) : write32 s fn off v = hostError s fn 2 off := by
  simp only [write32, h]

theorem write32_reserved (h : halfAt fn off = .reserved) : write32 s fn off v = s := by
  simp only [write32, h]

theorem write32_whole (h : halfAt fn off = .whole a) (hheld : (fnAt s fn).writeHeld = none) :
    write32 s fn off v = regWrite s fn a off v := by
  simp only [write32, h, dropHeld_of_none off hheld]

theorem write32_lower (h : halfAt fn off = .lower a) (hheld : (fnAt s fn).writeHeld = none) :
    write32 s fn off v = updFn s fn fun f => { f with writeHeld := some (off, BitVec.ofNat 32 v) } := by
  simp only [write32, h, dropHeld_of_none off hheld]

theorem write32_upper_alone (h : halfAt fn off = .upper a) (hheld : (fnAt s fn).writeHeld = none) :
    write32 s fn off v = regWrite s fn a (off - 4) (lowNow s fn a + v * 2 ^ 32) := by
  simp only [write32, h, hheld]

theorem write32_upper_held {lo : Word} (h : halfAt fn off = .upper a)
    (hheld : (fnAt s fn).writeHeld = some (off - 4, lo)) :
    write32 s fn off v =
      regWrite (updFn s fn fun f => { f with writeHeld := none }) fn a (off - 4) (lo.toNat + v * 2 ^ 32) := by
  simp only [write32, h, hheld, if_true]

end

theorem exec_registerWrite {fn off size : Nat} (v : DWord)
    (hopen : (true && answers s fn && openIn s fn (openAt off)) = true) (hstay : s.recov.moving = none) :
    exec (.registerWrite fn off size v) s = effectRegisterWrite fn off size v s := barWrite_open hopen hstay

theorem regWrite_tideData (u : State) (v : DWord) :
    regWrite u 0 0x10058 0x10058 v.toNat = after u (effectTideDataWrite v u) := by
  show writeTide u 0x58 v.toNat = _
  simp [writeTide]

theorem regWrite_override (u : State) (v : DWord) :
    regWrite u 0 0x10010 0x10010 v.toNat = after u (effectTideOverrideWrite 0 v u) := by
  show writeTide u 0x10 v.toNat = _
  simp [writeTide]

theorem regWrite_cap (u : State) (v : Nat) :
    regWrite u 0 0xE0008 0xE0008 v = { u with pwr := { u.pwr with cap := max 1500 (min 7200 (bitsOf v 12 0)) } } := rfl

/-- An 8-byte write of a register of the physical function acts as the register's row when its block writes it by the
row's effect. -/
theorem registerWrite_acts_as_row {off : Nat} {v : DWord} {row : Instr} {e : State → Result}
    (h : BarOpen s (.registerWrite 0 off 8 v)) (hgood : goodAccess off 8 = true) (ha : halfAt 0 off = .lower off)
    (hclosed : openAt off = false) (hreg : ∀ u, regWrite u 0 off off v.toNat = after u (e u))
    (hnext : ∀ u, ∃ t, e u = .next t)
    (hrow : ∀ u, exec row u = barWrite u 0 off true false row fun t => e (touch t 0 off)) :
    exec (.registerWrite 0 off 8 v) s = exec row (updFn s 0 fun f => { f with writeHeld := none }) := by
  obtain ⟨hopen, hstay, hheld⟩ := barOpen_row h rfl
  rw [hclosed] at hopen
  obtain ⟨t, ht⟩ := hnext (updFn s 0 fun f => { f with writeHeld := none })
  rw [exec_registerWrite v (hclosed.symm ▸ hopen) hstay, effectRegisterWrite_whole v hgood ha hheld, hreg, hrow,
    barWrite_open (s := updFn s 0 _) hopen hstay,
    touch_of_none off (by rw [fnAt_updFn]), ht]
  rfl

theorem registerWrite_tideData {v : DWord} (h : BarOpen s (.registerWrite 0 0x10058 8 v)) :
    exec (.registerWrite 0 0x10058 8 v) s =
      exec (.tideDataWrite v) (updFn s 0 fun f => { f with writeHeld := none }) :=
  registerWrite_acts_as_row (e := effectTideDataWrite v) h (by decide) (by decide) (by decide)
    (regWrite_tideData · v) (fun _ => ⟨_, rfl⟩) fun _ => rfl

theorem registerWrite_override {v : DWord} (h : BarOpen s (.registerWrite 0 0x10010 8 v)) :
    exec (.registerWrite 0 0x10010 8 v) s =
      exec (.tideOverrideWrite 0 v) (updFn s 0 fun f => { f with writeHeld := none }) :=
  registerWrite_acts_as_row (e := effectTideOverrideWrite 0 v) h (by decide) (by decide) (by decide)
    (regWrite_override · v) (fun _ => ⟨_, rfl⟩) fun _ => rfl

/-- PWR_CAP is clamped to 1,500 to 7,200 W. -/
theorem registerWrite_cap {v : DWord} (h : BarOpen s (.registerWrite 0 0xE0008 4 v)) :
    exec (.registerWrite 0 0xE0008 4 v) s =
      .next { s with pwr := { s.pwr with cap := max 1500 (min 7200 (bitsOf v.toNat 12 0)) } } := by
  obtain ⟨hopen, hstay, hheld⟩ := barOpen_row h rfl
  have hbits : bitsOf (v.toNat % 2 ^ 32) 12 0 = bitsOf v.toNat 12 0 := by simp only [bitsOf]; omega
  rw [exec_registerWrite v hopen hstay, effectRegisterWrite_word v (by decide),
    write32_whole (a := 0xE0008) _ (by decide) hheld, regWrite_cap, hbits]

/-! ### Register reads (R23) -/

section
variable {fn off a : Nat}

/-- The state after a read: its data, and the next free value. -/
theorem effectRegisterRead_good {size : Nat} (h : goodAccess off size = true) :
    effectRegisterRead fn off size s =
      .next (freeTick (answer (readBar s fn off size).2 (readBar s fn off size).1)) := by
  simp only [effectRegisterRead, h, if_true]

theorem readEffect_plain (h : a ≠ 0xA8078) (h' : ¬ (a / 0x10000 = 2 ∧ a % 0x1000 = 0xD08)) : readEffect s fn a = s := by
  rw [readEffect, if_neg h, if_neg h']

theorem readBar_whole (h : halfAt fn off = .whole a) (hheld : (fnAt s fn).writeHeld = none)
    (hplain : readEffect s fn a = s) : readBar s fn off 4 = (regRead s fn a, s) := by
  simp only [readBar, read32, h, dropHeld_of_none off hheld, hplain, if_true]

theorem readBar_lower (h : halfAt fn off = .lower a) (hheld : (fnAt s fn).writeHeld = none)
    (hplain : readEffect s fn a = s) :
    readBar s fn off 4 = (regRead s fn a % 2 ^ 32,
      updFn s fn fun f => { f with readLatch := some (off, BitVec.ofNat 32 (regRead s fn a / 2 ^ 32)) }) := by
  simp only [readBar, read32, h, dropHeld_of_none off hheld, hplain, if_true]

theorem readBar_upper_latched {w : Word} (h : halfAt fn off = .upper a) (hheld : (fnAt s fn).writeHeld = none)
    (hlatch : (fnAt s fn).readLatch = some (off - 4, w)) :
    readBar s fn off 4 = (w.toNat, updFn s fn fun f => { f with readLatch := none }) := by
  simp only [readBar, read32, h, dropHeld_of_none _ hheld, hlatch, if_true]

theorem readBar_dword (h : halfAt fn off = .lower a) (hheld : (fnAt s fn).writeHeld = none)
    (hplain : readEffect s fn a = s) : readBar s fn off 8 = (regRead s fn a, s) := by
  simp [readBar, h, dropHeld_of_none off hheld, hplain]

end

/-! ### Status rings (R562, R566, R569) -/

section
variable {fn : Nat}

theorem drainLines_nil (n : Nat) (h : (fnAt s fn).ring.pending = []) : drainLines n s fn = s := by
  cases n with
  | zero => rfl
  | succ n => simp only [drainLines, h]

theorem drainLines_barred (n : Nat) (h : ringWritable s fn = false) : drainLines n s fn = s := by
  cases n with
  | zero => rfl
  | succ n =>
    unfold drainLines
    split
    · rfl
    · rw [h]; rfl

/-- Writing the oldest waiting line. -/
def writeOldest (s : State) (fn : Nat) (l : StatusLine) (rest : List StatusLine) : State :=
  updRing (writeLine s fn l) fn fun r => { r with pending := rest }

theorem drainLines_cons (n : Nat) {l : StatusLine} {rest : List StatusLine}
    (h : (fnAt s fn).ring.pending = l :: rest) (hw : ringWritable s fn = true) :
    drainLines (n + 1) s fn = drainLines n (writeOldest s fn l rest) fn := by
  simp only [drainLines, h, hw, if_true]
  rfl

theorem fnAt_writeOldest (s : State) (fn : Nat) (l : StatusLine) (rest : List StatusLine) :
    fnAt (writeOldest s fn l rest) fn =
      { fnAt s fn with ring := { (fnAt s fn).ring with wr := (fnAt s fn).ring.wr + 1, pending := rest } } := by
  simp only [writeOldest, writeLine, updRing, fnAt_updFn]
  rfl

/-- Draining moves WR and takes waiting lines, nothing else of the ring. -/
theorem ring_drainLines (n : Nat) (s : State) (fn : Nat) :
    ∃ w p, (fnAt (drainLines n s fn) fn).ring = { (fnAt s fn).ring with wr := w, pending := p } := by
  induction n generalizing s with
  | zero => exact ⟨_, _, rfl⟩
  | succ n ih =>
    match hp : (fnAt s fn).ring.pending, hw : ringWritable s fn with
    | [], _ => rw [drainLines_nil _ hp]; exact ⟨_, _, rfl⟩
    | _ :: _, false => rw [drainLines_barred _ hw]; exact ⟨_, _, rfl⟩
    | l :: rest, true =>
      obtain ⟨w, p, e⟩ := ih (writeOldest s fn l rest)
      rw [drainLines_cons n hp hw]
      exact ⟨w, p, by rw [e, fnAt_writeOldest]⟩

/-- With room for all waiting lines, draining writes them all. -/
theorem drainLines_all {n : Nat} (hen : ringEnabled (fnAt s fn).ring = true) (hlink : s.host.linkUp = true)
    (hd0 : (fnAt s fn).d3hot = false) (hn : (fnAt s fn).ring.pending.length ≤ n)
    (hroom : (fnAt s fn).ring.wr - (fnAt s fn).ring.rd + (fnAt s fn).ring.pending.length
      ≤ 2 ^ ringSize (fnAt s fn).ring) :
    (fnAt (drainLines n s fn) fn).ring.pending = [] ∧ (fnAt (drainLines n s fn) fn).ring.wr
      = (fnAt s fn).ring.wr + (fnAt s fn).ring.pending.length := by
  induction n generalizing s with
  | zero =>
    have hp : (fnAt s fn).ring.pending = [] := List.length_eq_zero_iff.1 (by omega)
    exact ⟨hp, by rw [hp]; rfl⟩
  | succ n ih =>
    cases hp : (fnAt s fn).ring.pending with
    | nil => rw [drainLines_nil _ hp]; exact ⟨hp, rfl⟩
    | cons l rest =>
      rw [hp, List.length_cons] at hn hroom
      have hw : ringWritable s fn = true := by
        simp only [ringWritable, hen, hlink, hd0, Bool.true_and, Bool.and_true, Bool.not_false, decide_eq_true_eq]
        omega
      rw [drainLines_cons n hp hw]
      have e := fnAt_writeOldest s fn l rest
      have h := ih (s := writeOldest s fn l rest) (by rw [e]; exact hen) hlink (by rw [e]; exact hd0)
        (by rw [e]; exact Nat.le_of_succ_le_succ hn)
        (by rw [e]; simp only [ringSize] at hroom ⊢; omega)
      rw [h.1, h.2, e, List.length_cons]
      exact ⟨rfl, by simp only; omega⟩

/-- Settling ends an episode of a full store, nothing else of the ring. -/
theorem ring_ringSettle (s : State) (fn : Nat) :
    ∃ b, (fnAt (ringSettle s fn) fn).ring = { (fnAt s fn).ring with fullEpisode := b } := by
  unfold ringSettle
  split
  · exact ⟨_, rfl⟩
  · exact ⟨_, by rw [updRing, fnAt_updFn]⟩

theorem ringSettle_trace (s : State) (fn : Nat) : (ringSettle s fn).trace = s.trace := by
  unfold ringSettle
  split <;> rfl

@[simp] theorem ringSettle_written (s : State) (fn : Nat) : (ringSettle s fn).host.written = s.host.written := by
  unfold ringSettle
  split <;> rfl

theorem ringsOnly_ringSettle (s : State) (fn : Nat) : RingsOnly s (ringSettle s fn) := by
  unfold ringSettle
  split
  · exact .refl s
  · exact ringsOnly_updRing ..

/-- Waiting lines are written as the ring takes them, and an episode of a full store may end. -/
def settle (n : Nat) (s : State) (fn : Nat) : State := ringSettle (drainLines n s fn) fn

/-- The ring after that: only WR, the waiting lines and the episode of a full store differ. -/
theorem ring_settle (n : Nat) (s : State) (fn : Nat) : ∃ b, (fnAt (settle n s fn) fn).ring =
    { (fnAt s fn).ring with
        wr := (fnAt (drainLines n s fn) fn).ring.wr, pending := (fnAt (drainLines n s fn) fn).ring.pending,
        fullEpisode := b } := by
  obtain ⟨w, p, hd⟩ := ring_drainLines n s fn
  obtain ⟨b, hb⟩ := ring_ringSettle (drainLines n s fn) fn
  exact ⟨b, by rw [settle, hb, hd]⟩

theorem ringsOnly_settle (n : Nat) (s : State) (fn : Nat) : RingsOnly s (settle n s fn) :=
  (ringsOnly_drainLines n s fn).trans (ringsOnly_ringSettle _ fn)

theorem settle_trace (n : Nat) (s : State) (fn : Nat) : (settle n s fn).trace = s.trace :=
  (ringSettle_trace ..).trans (drainLines_trace ..)

end

/-- A ring whose CTRL is written: setting EN sets WR and RD to 0 (R562). -/
def ctrlWritten (value : Word) (r : StatusRing) : StatusRing :=
  if value.getLsbD 5 && !r.ctrl.getLsbD 5 then { r with ctrl := value &&& 0xFF#32, wr := 0, rd := 0 }
  else { r with ctrl := value &&& 0xFF#32 }

theorem writeRingCtrl_eq (s : State) (fn : Nat) (value : Word) :
    writeRingCtrl s fn value = settle 64 (updRing s fn (ctrlWritten value)) fn := rfl

@[simp] theorem ctrlWritten_ctrl (value : Word) (r : StatusRing) : (ctrlWritten value r).ctrl = value &&& 0xFF#32 := by
  unfold ctrlWritten
  split <;> rfl

@[simp] theorem ctrlWritten_pending (value : Word) (r : StatusRing) : (ctrlWritten value r).pending = r.pending := by
  unfold ctrlWritten
  split <;> rfl

/-- CTRL keeps SIZE and EN as written. -/
theorem ringEnabled_ctrlWritten {value : Word} (r : StatusRing) (hen : value.getLsbD 5 = true)
    (hlo : 6 ≤ bitsOf value.toNat 4 0) (hhi : bitsOf value.toNat 4 0 ≤ 16) :
    ringSize (ctrlWritten value r) = bitsOf value.toNat 4 0 ∧ ringEnabled (ctrlWritten value r) = true := by
  have hmod : (value &&& 0xFF#32).toNat = value.toNat % 256 := Nat.and_two_pow_sub_one_eq_mod value.toNat 8
  have hsize : ringSize (ctrlWritten value r) = bitsOf value.toNat 4 0 := by
    simp only [ringSize, ctrlWritten_ctrl, hmod, bitsOf]
    omega
  have hbit : bitOf (value &&& 0xFF#32).toNat 5 = true := by
    simp only [BitVec.getLsbD, Nat.testBit_eq_decide_div_mod_eq, decide_eq_true_eq] at hen
    simp only [bitOf, hmod, decide_eq_true_eq]
    omega
  exact ⟨hsize, by simp only [ringEnabled, hsize, ctrlWritten_ctrl, hbit, hlo, hhi, decide_true, Bool.and_self]⟩

/-- A ring whose RD is written: lines are consumed and an episode of dropped notices ends. -/
def rdWritten (value : DWord) (r : StatusRing) : StatusRing := { r with rd := value.toNat, dropEpisode := false }

theorem writeRingRd_refused {ring fn : Nat} {value : DWord}
    (h : (fnAt s ring).ring.wr < value.toNat ∨ value.toNat < (fnAt s ring).ring.rd) :
    writeRingRd s ring fn value = hostError s fn 2 (ringOff ring fn 0x18) := if_pos h

theorem writeRingRd_taken {ring fn : Nat} {value : DWord}
    (hlo : (fnAt s ring).ring.rd ≤ value.toNat) (hhi : value.toNat ≤ (fnAt s ring).ring.wr) :
    writeRingRd s ring fn value = settle 64 (updRing s ring (rdWritten value)) ring := if_neg (by omega)

/-! ### The boot record (R589, R590) -/

theorem turnLog_frame (s : State) : ∃ tr h fw, turnLog s = { s with trace := tr, host := h, fw := fw }
    ∧ fw.bootRec = s.fw.bootRec := by
  unfold turnLog
  split
  · obtain ⟨_, _, e⟩ := recordHead_frame (setLog s 0) 0x000E .corrected []
    exact ⟨_, _, _, e, rfl⟩
  · exact ⟨_, _, _, rfl, rfl⟩

/-- An appended record numbers the changed boot record; only the trace, the host side and the log change with it. -/
theorem appendRec_frame (s : State) (kind : Nat) (f : BootRec → BootRec) :
    ∃ tr h fw, appendRec s kind f = { s with trace := tr, host := h, fw := fw }
      ∧ fw.bootRec = { f s.fw.bootRec with seq := s.fw.bootRec.seq + 1, kind := kind } := by
  unfold appendRec
  extract_lets s1 n s2
  have h1 : ∃ tr h fw, s1 = { s with trace := tr, host := h, fw := fw } ∧ fw.bootRec = s.fw.bootRec := by
    simp only [s1]
    split
    · exact turnLog_frame s
    · exact ⟨_, _, _, rfl, rfl⟩
  have h2 : ∃ tr h fw, s2 = { s with trace := tr, host := h, fw := fw }
      ∧ fw.bootRec = { f s.fw.bootRec with seq := s.fw.bootRec.seq + 1, kind := kind } := by
    obtain ⟨_, _, fw, e, hrec⟩ := h1
    simp only [s2, e, setLog, writeRec, hrec]
    exact ⟨_, _, _, rfl, rfl⟩
  split
  · obtain ⟨_, _, fw, e, hrec⟩ := h2
    obtain ⟨_, _, e'⟩ := recordHead_frame { s2 with fw := { s2.fw with otherCount := 0 } } 0x000E .corrected []
    rw [eraseOther, e', e]
    exact ⟨_, _, _, rfl, hrec⟩
  · exact h2

/-! ### The commands of O55 -/

theorem exec_registerRead (s : State) (fn off size : Nat) : exec (.registerRead fn off size) s =
    barRead s fn none true (openAt off) size (effectRegisterRead fn off size) := rfl

theorem exec_registerRead_unanswered {fn off size : Nat} (h : answers s fn = false) :
    exec (.registerRead fn off size) s = .next (answer s (allOnes size)) := by
  simp [exec_registerRead, barRead, h]

theorem exec_registerRead_closed {fn off size : Nat} (h : answers s fn = true) (ho : openIn s fn (openAt off) = false) :
    exec (.registerRead fn off size) s = .next (answer s 0) := by
  simp [exec_registerRead, barRead, h, ho]

theorem exec_registerRead_open {fn off size : Nat} (h : answers s fn = true) (ho : openIn s fn (openAt off) = true) :
    exec (.registerRead fn off size) s = effectRegisterRead fn off size s := by
  simp [exec_registerRead, barRead, h, ho]

/-- The effect of an open row that names its register. -/
theorem exec_barOpen {i : Instr} {fn reg : Nat} {off : Option Nat} {ok op : Bool} {e : State → Result}
    (h : BarOpen s i) (hrow : barRow i = some (fn, off, ok, op))
    (hexec : exec i s = barWrite s fn reg ok op i fun t => e (touch t fn reg)) : exec i s = e s := by
  obtain ⟨hopen, hstay, hheld⟩ := barOpen_row h hrow
  rw [hexec, barWrite_open hopen hstay, touch_of_none _ hheld]

theorem exec_sringEnable {fn : Nat} {value : Word} (h : BarOpen s (.sringEnable fn value)) :
    exec (.sringEnable fn value) s = .next (settle 64 (updRing s fn (ctrlWritten value)) fn) := by
  have hfn : fn < 17 := barOpen_fn h rfl
  rw [exec_barOpen (e := effectSringEnable fn value) h rfl rfl, effectSringEnable, if_neg (by omega), writeRingCtrl_eq]

theorem exec_sringRdWrite {fn : Nat} {value : DWord} (h : BarOpen s (.sringRdWrite fn value)) :
    exec (.sringRdWrite fn value) s = .next (writeRingRd s fn fn value) := by
  have hfn : fn < 17 := barOpen_fn h rfl
  rw [exec_barOpen (e := effectSringRdWrite fn value) h rfl rfl, effectSringRdWrite, if_neg (by omega)]

theorem exec_tideOverrideWrite {which : Nat} {value : DWord} (h : BarOpen s (.tideOverrideWrite which value)) :
    exec (.tideOverrideWrite which value) s = effectTideOverrideWrite which value s :=
  exec_barOpen (e := effectTideOverrideWrite which value) h rfl rfl

/-- A register write by its size and where it lands. -/
theorem registerWrite_outcomes {fn off size : Nat} {v : DWord} (h : BarOpen s (.registerWrite fn off size v)) :
    (goodAccess off size = false → exec (.registerWrite fn off size v) s = .next (hostError s fn 1 off))
    ∧ (goodAccess off size = true → size = 4 →
      exec (.registerWrite fn off 4 v) s = .next (write32 s fn off (v.toNat % 2 ^ 32)))
    ∧ (goodAccess off size = true → size = 8 → ∀ a, halfAt fn off = .lower a →
      exec (.registerWrite fn off 8 v) s =
        .next (regWrite (updFn s fn fun f => { f with writeHeld := none }) fn a off v.toNat)) := by
  obtain ⟨hopen, hstay, hheld⟩ := barOpen_row h rfl
  simp only [exec_registerWrite v hopen hstay]
  refine ⟨effectRegisterWrite_bad v, ?_, ?_⟩
  · rintro hgood rfl
    exact effectRegisterWrite_word v hgood
  · rintro hgood rfl a ha
    exact effectRegisterWrite_whole v hgood ha hheld

/-- R562, SRING_ENABLE: what the ring is after the write. -/
theorem sringEnable_ring {fn : Nat} {value : Word} :
    let r := (fnAt s fn).ring
    let t := settle 64 (updRing s fn (ctrlWritten value)) fn
    (fnAt t fn).ring.ctrl = value &&& 0xFF#32
    ∧ (r.pending = [] → (fnAt t fn).ring.wr = (ctrlWritten value r).wr ∧ (fnAt t fn).ring.rd = (ctrlWritten value r).rd)
    ∧ ((value.getLsbD 5 && !r.ctrl.getLsbD 5) = true → s.host.linkUp = true → (fnAt s fn).d3hot = false →
      6 ≤ bitsOf value.toNat 4 0 → bitsOf value.toNat 4 0 ≤ 16 → r.pending.length ≤ 64 →
      (fnAt t fn).ring.pending = [] ∧ (fnAt t fn).ring.wr = r.pending.length) := by
  intro r t
  have hring : (fnAt (updRing s fn (ctrlWritten value)) fn).ring = ctrlWritten value r := by rw [updRing, fnAt_updFn]
  obtain ⟨b, ht⟩ := ring_settle 64 (updRing s fn (ctrlWritten value)) fn
  simp only [t, ht, hring, ctrlWritten_ctrl, true_and]
  refine ⟨fun hp => ⟨?_, trivial⟩, fun hedge hlink hd0 hlo hhi hlen => ?_⟩
  · rw [drainLines_nil _ (by rw [hring, ctrlWritten_pending, hp]), hring]
  · obtain ⟨hsize, hen⟩ := ringEnabled_ctrlWritten r (Bool.and_eq_true .. ▸ hedge).1 hlo hhi
    have hzero : (ctrlWritten value r).wr = 0 := by rw [ctrlWritten, if_pos hedge]
    have hroom : 64 ≤ 2 ^ bitsOf value.toNat 4 0 := Nat.pow_le_pow_right (n := 2) (by decide) hlo
    have hall := drainLines_all (s := updRing s fn (ctrlWritten value)) (fn := fn) (n := 64) (by rw [hring]; exact hen)
      hlink (by rw [updRing, fnAt_updFn]; exact hd0) (by rw [hring, ctrlWritten_pending]; exact hlen)
      (by rw [hring, ctrlWritten_pending, hzero, hsize]; omega)
    rw [hall.1, hall.2, hring, ctrlWritten_pending, hzero, Nat.zero_add]
    exact ⟨rfl, rfl⟩

theorem lowerHalf_eq_setWidth (v : DWord) : BitVec.ofNat 32 (v.toNat % 2 ^ 32) = v.setWidth 32 :=
  BitVec.eq_of_toNat_eq (by simp)

theorem fnAt_freeTick_answer (s : State) (v fn : Nat) : fnAt (freeTick (answer s v)) fn = fnAt s fn := rfl

/-- R566, SRING_RD_WRITE: what the ring is after lines are consumed. -/
theorem sringRdWrite_ring {fn : Nat} {value : DWord} :
    let r := (fnAt s fn).ring
    let t := settle 64 (updRing s fn (rdWritten value)) fn
    (fnAt t fn).ring.rd = value.toNat ∧ (fnAt t fn).ring.dropEpisode = false
    ∧ (r.pending = [] → (fnAt t fn).ring.wr = r.wr) := by
  intro r t
  have hring : (fnAt (updRing s fn (rdWritten value)) fn).ring = rdWritten value r := by rw [updRing, fnAt_updFn]
  obtain ⟨b, ht⟩ := ring_settle 64 (updRing s fn (rdWritten value)) fn
  simp only [t, ht, hring]
  refine ⟨rfl, rfl, fun hp => ?_⟩
  rw [drainLines_nil _ (by rw [hring]; exact hp), hring]
  rfl

/-- R562, STATUS_LINE_WRITE: the oldest waiting line is written once the ring can take it. -/
theorem settle_one {fn : Nat} :
    let t := settle 1 s fn
    (∀ l rest, (fnAt s fn).ring.pending = l :: rest → ringWritable s fn = true →
      (fnAt t fn).ring.pending = rest ∧ (fnAt t fn).ring.wr = (fnAt s fn).ring.wr + 1
      ∧ t.host.written = (writeLine s fn l).host.written)
    ∧ ((fnAt s fn).ring.pending = [] ∨ ringWritable s fn = false → (fnAt t fn).ring.wr = (fnAt s fn).ring.wr
      ∧ (fnAt t fn).ring.pending = (fnAt s fn).ring.pending ∧ t.host.written = s.host.written) := by
  intro t
  obtain ⟨b, ht⟩ := ring_settle 1 s fn
  have hw : t.host.written = (drainLines 1 s fn).host.written := ringSettle_written ..
  simp only [t, ht] at hw ⊢
  refine ⟨fun l rest hp hroom => ?_, fun h => ?_⟩
  · rw [hw, drainLines_cons 0 hp hroom, drainLines, fnAt_writeOldest]
    exact ⟨rfl, rfl, rfl⟩
  · have hd : drainLines 1 s fn = s := h.elim (drainLines_nil 1) (drainLines_barred 1)
    rw [hw, hd]
    exact ⟨rfl, rfl, rfl⟩

/-- R590: the role or epoch is written, and with the other one copied to a command record. -/
theorem effectTideOverrideWrite_eq (which : Nat) (value : DWord) (s : State) :
    ∃ t, effectTideOverrideWrite which value s = .next t
      ∧ t.tide = (if which = 0 then { s.tide with ctrl := value &&& 0xFFFF_FFFF_0003#64 }
          else { s.tide with epoch := value &&& 0xFFFF_FFFF_FFF0_0000#64 })
      ∧ t.fw.bootRec = { s.fw.bootRec with
          seq := s.fw.bootRec.seq + 1, kind := 4, override := true,
          ovCtrl := t.tide.ctrl &&& 0xFFFF_0003#64, ovEpoch := t.tide.epoch }
      ∧ t.cores = s.cores ∧ t.mem = s.mem ∧ t.coves = s.coves := by
  unfold effectTideOverrideWrite copyOverride
  generalize (if which = 0 then { s.tide with ctrl := value &&& 0xFFFF_FFFF_0003#64 }
    else { s.tide with epoch := value &&& 0xFFFF_FFFF_FFF0_0000#64 }) = tide
  obtain ⟨tr, h, fw, e, hrec⟩ := appendRec_frame { s with tide := tide } 4 fun r =>
    { r with override := true, ovCtrl := tide.ctrl &&& 0xFFFF_0003#64, ovEpoch := tide.epoch }
  exact ⟨_, rfl, by rw [e], by rw [e]; exact hrec, by rw [e], by rw [e], by rw [e]⟩

/-- A register read by its size and where it lands, when no half of a write is held and the read has no effect of its
own. -/
theorem registerRead_outcomes {fn off size a : Nat} (hans : answers s fn = true)
    (hopen : openIn s fn (openAt off) = true) (hheld : (fnAt s fn).writeHeld = none)
    (hgood : goodAccess off size = true) (hplain : readEffect s fn a = s) :
    (size = 4 → halfAt fn off = .whole a →
      exec (.registerRead fn off size) s = .next (freeTick (answer s (regRead s fn a))))
    ∧ (size = 4 → halfAt fn off = .lower a → exec (.registerRead fn off size) s = .next (freeTick (answer
        (updFn s fn fun f => { f with readLatch := some (off, BitVec.ofNat 32 (regRead s fn a / 2 ^ 32)) })
        (regRead s fn a % 2 ^ 32))))
    ∧ (size = 4 → halfAt fn off = .upper a → ∀ w, (fnAt s fn).readLatch = some (off - 4, w) →
      exec (.registerRead fn off size) s =
        .next (freeTick (answer (updFn s fn fun f => { f with readLatch := none }) w.toNat)))
    ∧ (size = 8 → halfAt fn off = .lower a →
      exec (.registerRead fn off size) s = .next (freeTick (answer s (regRead s fn a)))) := by
  rw [exec_registerRead_open hans hopen, effectRegisterRead_good hgood]
  refine ⟨?_, ?_, ?_, ?_⟩
  · rintro rfl ha; rw [readBar_whole ha hheld hplain]
  · rintro rfl ha; rw [readBar_lower ha hheld hplain]
  · rintro rfl ha w hw; rw [readBar_upper_latched ha hheld hw]
  · rintro rfl ha; rw [readBar_dword ha hheld hplain]

/-- Settles O55: each access by the lemma of its size and landing, each ring command by the ring it leaves. -/
theorem registersAndRings : Obligations.RegistersAndRings := by
  intro s
  refine ⟨fun fn off size v h => ?_, fun fn off a lo v hans hopen hstay hheld hgood ha => ?_,
    fun fn off size => ⟨fun h => ?_, fun h ho => ?_, fun h ho hheld => ⟨fun hbad => ?_, fun hgood a h1 h2 => ?_⟩⟩,
    fun fn value h => ?_, fun fn value h => ?_, fun fn => ⟨fun h => ?_, fun h => ?_⟩, fun which value h => ?_⟩
  · obtain ⟨-, -, hheld⟩ := barOpen_row h rfl
    obtain ⟨hbad, hword, hdword⟩ := registerWrite_outcomes h
    refine ⟨fun hb => ⟨_, hbad hb, hostErred_hostError ..⟩, ?_, hdword, ?_, ?_⟩
    · rintro hgood rfl
      rw [hword hgood rfl]
      refine ⟨fun ha => ⟨_, by rw [write32_none _ ha], hostErred_hostError ..⟩, fun ha => by rw [write32_reserved _ ha],
        fun a ha => ?_, fun a ha => by rw [write32_whole _ ha hheld],
        fun a ha => by rw [write32_upper_alone _ ha hheld]⟩
      rw [write32_lower _ ha hheld, lowerHalf_eq_setWidth]
    · rintro rfl rfl
      exact ⟨fun e => by subst e; exact registerWrite_tideData h, fun e => by subst e; exact registerWrite_override h⟩
    · rintro rfl rfl rfl
      exact registerWrite_cap h
  · rw [exec_registerWrite v (by rw [hans, hopen]; rfl) hstay, effectRegisterWrite_word v hgood,
      write32_upper_held _ ha hheld]
  · exact ⟨_, exec_registerRead_unanswered h, rfl⟩
  · exact ⟨_, exec_registerRead_closed h ho, rfl⟩
  · obtain ⟨hrec, -, -⟩ := hostErred_hostError s fn 1 off
    refine ⟨answer (hostError s fn 1 off) (allOnes size), ?_, hrec, rfl, hostError_cores .., hostError_mem ..⟩
    rw [exec_registerRead_open h ho, effectRegisterRead, hbad]
    rfl
  · obtain ⟨hwhole, hlower, hupper, hdword⟩ :=
      registerRead_outcomes h ho hheld hgood (readEffect_plain (s := s) (fn := fn) h1 h2)
    refine ⟨fun e ha => ⟨_, hwhole e ha, rfl⟩, fun e ha => ⟨_, hlower e ha, rfl, ?_, rfl⟩,
      fun e ha w hw => ⟨_, hupper e ha w hw, ?_, ?_, rfl⟩, fun e ha => ⟨_, hdword e ha, rfl⟩⟩
    · rw [fnAt_freeTick_answer, fnAt_updFn]
    · exact BitVec.ofNat_toNat 64 w
    · rw [fnAt_freeTick_answer, fnAt_updFn]
  · obtain ⟨hctrl, hidle, hall⟩ := sringEnable_ring (s := s) (fn := fn) (value := value)
    refine ⟨_, exec_sringEnable h, hctrl, fun hp => ⟨fun hedge => ?_, fun hedge => ?_⟩, hall,
      ((ringsOnly_updRing ..).trans (ringsOnly_settle ..)).host_frame (settle_trace ..)⟩
    · rw [(hidle hp).1, (hidle hp).2, ctrlWritten, if_pos hedge]
      exact ⟨rfl, rfl⟩
    · rw [(hidle hp).1, (hidle hp).2, ctrlWritten, hedge]
      exact ⟨rfl, rfl⟩
  · rw [exec_sringRdWrite h]
    refine ⟨fun hbad => ⟨_, by rw [writeRingRd_refused hbad], hostErred_hostError ..⟩, fun hlo hhi => ?_⟩
    obtain ⟨hrd, hdrop, hidle⟩ := sringRdWrite_ring (s := s) (fn := fn) (value := value)
    exact ⟨_, by rw [writeRingRd_taken hlo hhi], hrd, hdrop, hidle,
      ((ringsOnly_updRing ..).trans (ringsOnly_settle ..)).host_frame (settle_trace ..)⟩
  · exact congrArg Host.Outcome.next (if_pos h)
  · obtain ⟨hwrite, hwait⟩ := settle_one (s := s) (fn := fn)
    exact ⟨_, congrArg Host.Outcome.next (if_neg (by omega)), hwrite, hwait,
      (ringsOnly_settle ..).host_frame (settle_trace ..)⟩
  · rw [exec_tideOverrideWrite h]
    exact effectTideOverrideWrite_eq ..

end Sys2Proof.Proofs
end

section
/-!
PROOFS. What events, faults and fences leave alone, and what they count.
-/
namespace Sys2Proof.Proofs
open Sys2Proof Sys2Proof.Machine Sys2Proof.Laws Sys2Proof.Claim

variable {s t u : State}

/-! ### A change applied to every item of a list -/

@[simp] theorem forEach_nil {α : Type} (s : State) (f : State → α → State) : forEach s [] f = s := rfl

@[simp] theorem forEach_cons {α : Type} (s : State) (a : α) (l : List α) (f : State → α → State) :
    forEach s (a :: l) f = forEach (f s a) l f := rfl

/-- A relation that composes and holds across each change holds across all of them. -/
theorem forEach_rel {α : Type} {R : State → State → Prop} {l : List α} {f : State → α → State} (refl : ∀ t, R t t)
    (trans : ∀ {a b c}, R a b → R b c → R a c) (h : ∀ t a, a ∈ l → R t (f t a)) : R s (forEach s l f) := by
  induction l generalizing s with
  | nil => exact refl s
  | cons a l ih =>
    exact trans (h s a (List.mem_cons_self ..)) (ih fun t b hb => h t b (List.mem_cons_of_mem _ hb))

/-- What no change alters is unaltered. -/
theorem forEach_same {α β : Type} (p : State → β) {l : List α} {f : State → α → State}
    (h : ∀ t a, a ∈ l → p (f t a) = p t) : p (forEach s l f) = p s :=
  forEach_rel (R := fun s t => p t = p s) (fun _ => rfl) (fun e e' => e'.trans e) h

/-- Changes of coves leave the rest of the state alone. -/
theorem forEach_updCove_eq {α : Type} (s : State) (l : List α) (k : State → α → Nat) (f : State → α → Cove → Cove) :
    ∃ cv, forEach s l (fun s a => updCove s (k s a) (f s a)) = { s with coves := cv } := by
  induction l generalizing s with
  | nil => exact ⟨_, rfl⟩
  | cons a l ih =>
    obtain ⟨cv, e⟩ := ih (updCove s (k s a) (f s a))
    exact ⟨cv, e⟩

/-! ### Entries of other tables -/

@[simp] theorem coveAt_updCoveTide (s : State) (c f i) : coveAt (updCoveTide s c f) i = coveAt s i := rfl
@[simp] theorem coveTideAt_updCove (s : State) (c f i) : coveTideAt (updCove s c f) i = coveTideAt s i := rfl
@[simp] theorem recovAt_updCove (s : State) (c f i) : recovAt (updCove s c f) i = recovAt s i := rfl

/-! ### Events -/

section
variable (c : Nat) (v : Severity) (k r : Nat) (d : List Nat)

@[simp] theorem coveAt_record (i) : coveAt (record s c v k r d) i = coveAt s i := by simp only [coveAt, record_coves]
@[simp] theorem coveTideAt_record (i) : coveTideAt (record s c v k r d) i = coveTideAt s i := by
  simp only [coveTideAt, record_tide]
@[simp] theorem coreAt_record (i) : coreAt (record s c v k r d) i = coreAt s i := by simp only [coreAt, record_cores]
@[simp] theorem ctxAt_record (i j) : ctxAt (record s c v k r d) i j = ctxAt s i j := by
  simp only [ctxAt, coreAt_record]
@[simp] theorem recovAt_record (i) : recovAt (record s c v k r d) i = recovAt s i := by
  simp only [recovAt, record_recov]

/-- Recording an event writes no register. -/
theorem record_regs : (record s c v k r d).host.regs = s.host.regs := by
  obtain ⟨_, _, _, e⟩ := (ringsOnly_record s c v k r d).frame
  rw [e]

@[simp] theorem regAt_record (off) : regAt (record s c v k r d) off = regAt s off := by
  simp only [regAt, record_regs]

end

theorem recordHead_eq (s : State) (c v d) : recordHead s c v d = record s c v 16 1296 d := rfl
theorem recordCove_eq (s : State) (c v k d) : recordCove s c v k d = record s c v k 1296 d := rfl
theorem recordPort_eq (s : State) (p c d) : recordPort s p c d = record s c .corrected 16 (1408 + p) d := rfl

theorem eventCount_of_trace {c r : Nat} (e : t.trace = s.trace) : eventCount t c r = eventCount s c r := by
  simp only [eventCount, e]

/-- Recording one event leaves the count of every other alone. -/
theorem eventCount_record_other {c r c' r' : Nat} (v k d) (hr : r < 2048) (hr' : r' < 2048) (hc : ¬ episodeCode c')
    (h : ¬ (c' = c ∧ r' = r)) : eventCount (record s c v k r d) c' r' = eventCount s c' r' := by
  rw [eventCount_record _ _ _ _ _ _ _ _ hr hr' hc, if_neg h]

/-- An event recorded between two states that count alike with their neighbours. -/
theorem recorded_between {s' t' : State} {c r : Nat} (h : Recorded s t c r) (hs : eventCount s c r = eventCount s' c r)
    (ht : eventCount t' c r = eventCount t c r) : Recorded s' t' c r := by
  unfold Recorded at *
  rw [ht, h, hs]

/-- Between `s` and `t` only events of the listed codes, and those that open an episode, were counted. -/
def CountsOnly (codes : List Nat) (s t : State) : Prop :=
  ∀ c r, r < 2048 → ¬ episodeCode c → c ∉ codes → eventCount t c r = eventCount s c r

theorem CountsOnly.refl {codes} (s : State) : CountsOnly codes s s := fun _ _ _ _ _ => rfl

theorem CountsOnly.trans {codes} (h : CountsOnly codes s t) (h' : CountsOnly codes t u) : CountsOnly codes s u :=
  fun c r hr hc hn => (h' c r hr hc hn).trans (h c r hr hc hn)

theorem CountsOnly.mono {codes codes'} (h : CountsOnly codes s t) (hsub : codes ⊆ codes') : CountsOnly codes' s t :=
  fun c r hr hc hn => h c r hr hc fun hm => hn (hsub hm)

theorem countsOnly_of_trace (codes) (e : t.trace = s.trace) : CountsOnly codes s t := fun _ _ _ _ _ =>
  eventCount_of_trace e

theorem countsOnly_of_sources (codes) (e : t.trace.sources = s.trace.sources) : CountsOnly codes s t :=
  fun _ _ _ _ _ => by simp only [eventCount, e]

theorem countsOnly_record {codes : List Nat} {c r : Nat} (s : State) (v k d) (hr : r < 2048) (hc : c ∈ codes) :
    CountsOnly codes s (record s c v k r d) := fun _ _ hr' he hn =>
  eventCount_record_other _ _ _ hr hr' he fun h => hn (h.1 ▸ hc)

theorem countsOnly_forEach {α : Type} {codes : List Nat} {l : List α} {f : State → α → State}
    (h : ∀ t a, a ∈ l → CountsOnly codes t (f t a)) : CountsOnly codes s (forEach s l f) :=
  forEach_rel (fun t => .refl t) (fun h h' => h.trans h') h

/-! ### Containment and fatal faults (R495, R499, R513) -/

/-- Only the coves, the trace, recoveries, the host side and the firmware's state differ, and of the events that open no
episode only 0xA003 and 0xA004 were counted. -/
structure FaultOnly (s t : State) : Prop where
  frame : t = { s with coves := t.coves, trace := t.trace, recov := t.recov, host := t.host, fw := t.fw }
  counts : CountsOnly [0xA003, 0xA004] s t

theorem FaultOnly.refl (s : State) : FaultOnly s s := ⟨rfl, .refl s⟩

theorem FaultOnly.trans (h : FaultOnly s t) (h' : FaultOnly t u) : FaultOnly s u where
  frame := h'.frame.trans (congrArg (fun x : State =>
    { x with coves := u.coves, trace := u.trace, recov := u.recov, host := u.host, fw := u.fw }) h.frame)
  counts := h.counts.trans h'.counts

theorem faultOnly_recordCove {c k : Nat} (s : State) (v d) (h : c ∈ [0xA003, 0xA004]) :
    FaultOnly s (recordCove s c v k d) where
  frame := by
    obtain ⟨_, _, e⟩ := record_frame s c v k 1296 d
    rw [recordCove, e]
  counts := countsOnly_record _ _ _ _ (by decide) h

theorem faultOnly_contain (s : State) (c) : FaultOnly s (contain s c) := by
  unfold contain
  dsimp only
  split
  · exact .refl s
  · exact ⟨rfl, countsOnly_of_trace _ rfl⟩

/-- A cove is contained when it was, or is the one that is contained now. -/
theorem contained_contain (s : State) (c d : Nat) :
    (recovAt (contain s c) d).contained = ((recovAt s d).contained || decide (d = c)) := by
  unfold contain
  extract_lets v step
  split
  · next h => by_cases hd : d = c <;> simp [hd, h]
  · rw [recovAt_updCove]
    by_cases hd : d = c
    · simp [hd]
    · simp [hd, recovAt_updRecov_other]

theorem contained_forEach_contain {l : List Nat} {c : Nat} (h : c ∈ l ∨ (recovAt s c).contained = true) :
    (recovAt (forEach s l contain) c).contained = true := by
  induction l generalizing s with
  | nil => simpa using h
  | cons a l ih =>
    refine ih ?_
    rw [contained_contain]
    rcases h with h | h
    · rcases List.mem_cons.1 h with rfl | h
      · simp
      · exact .inl h
    · simp [h]

theorem contain_moduleFatal (s : State) (c) : (contain s c).recov.moduleFatal = s.recov.moduleFatal := by
  unfold contain
  dsimp only
  split <;> rfl

theorem faultOnly_moduleFatal (s : State) (k) : FaultOnly s (moduleFatal s k) := by
  unfold moduleFatal
  split
  · exact ⟨rfl, countsOnly_of_trace _ rfl⟩
  · exact (forEach_rel (R := FaultOnly) .refl .trans fun t c _ => faultOnly_contain t c).trans
      ⟨rfl, countsOnly_of_trace _ rfl⟩

/-- A module-fatal fault does what R499 and R513 say. -/
theorem moduleFatal_moduleFatal (s : State) (k) : ModuleFatal s (moduleFatal s k) k := by
  have hkeep := (faultOnly_moduleFatal s k).frame
  refine ⟨fun h => ?_, fun h => ?_, by rw [hkeep], by rw [hkeep]⟩
  · rw [moduleFatal, if_pos h]
    exact ⟨rfl, rfl⟩
  · rw [moduleFatal, h, if_neg Bool.false_ne_true]
    refine ⟨?_, rfl, rfl, rfl, fun hn => ?_, fun c hc hm => ?_⟩
    · exact congrArg (fun m => some (m.getD k))
        (forEach_same (fun u => u.recov.moduleFatal) fun t c _ => contain_moduleFatal t c)
    · simp [hn]
    · exact contained_forEach_contain (.inl (by simp [hc, hm]))

/-- A module-fatal fault of a state that agrees with `s` in what the fault asks about is one of `s`. -/
theorem moduleFatal_of_agree {k : Nat} (h : ModuleFatal u t k) (hrecov : u.recov = s.recov)
    (hnow : u.tide.now = s.tide.now) (hmode : ∀ c, (coveAt u c).mode = (coveAt s c).mode) (hcores : u.cores = s.cores)
    (hmem : u.mem = s.mem) : ModuleFatal s t k := by
  unfold ModuleFatal at *
  simpa only [hrecov, hnow, hmode, hcores, hmem] using h

theorem faultOnly_escalate (s : State) (r k) : FaultOnly s (escalate s r k) := by
  unfold escalate
  exact ((faultOnly_recordCove _ _ _ (by decide)).trans (faultOnly_contain ..)).trans ⟨rfl, countsOnly_of_trace _ rfl⟩

/-- Where a cove-fatal fault leads: nowhere, module-fatal, a recovery continued at rung 3, or the cove contained and perhaps
queued (R513). -/
theorem faultOnly_coveFatal (s : State) (c k) : FaultOnly s (coveFatal s c k) := by
  unfold coveFatal
  extract_lets enter
  have henter : ∀ u, FaultOnly u (enter u) := by
    intro u
    refine (faultOnly_contain u c).trans ?_
    simp only [enter]
    split <;> exact ⟨rfl, countsOnly_of_trace _ rfl⟩
  split
  · split
    · split
      · exact (faultOnly_recordCove _ _ _ (by decide)).trans (faultOnly_moduleFatal ..)
      · exact faultOnly_escalate ..
    · split
      · exact .refl s
      · exact (henter s).trans (faultOnly_recordCove _ _ _ (by decide))
  · split
    · exact .refl s
    · exact henter s

/-! ### Fences (R480 to R484) -/

/-- Only ports, coves, loads, the trace, health, recoveries, the host side and the firmware's state differ; of the events that
open no episode only those of fences and of the faults that they cause were counted. -/
structure FenceOnly (s t : State) : Prop where
  frame : t = { s with
    fab := t.fab, coves := t.coves, load := t.load, trace := t.trace, health := t.health, recov := t.recov, host := t.host,
    fw := t.fw }
  counts : CountsOnly [0xA003, 0xA004, 0x9030, 0x9032, 0x2006, 0x2010] s t

theorem FenceOnly.refl (s : State) : FenceOnly s s := ⟨rfl, .refl s⟩

theorem FenceOnly.trans (h : FenceOnly s t) (h' : FenceOnly t u) : FenceOnly s u where
  frame := h'.frame.trans (congrArg (fun x : State =>
    { x with fab := u.fab, coves := u.coves, load := u.load, trace := u.trace, health := u.health, recov := u.recov,
             host := u.host, fw := u.fw }) h.frame)
  counts := h.counts.trans h'.counts

theorem FaultOnly.fenceOnly (h : FaultOnly s t) : FenceOnly s t :=
  ⟨by rw [h.frame], h.counts.mono (by simp)⟩

theorem fenceOnly_record {c r : Nat} (s : State) (v k d) (hr : r < 2048)
    (h : c ∈ [0xA003, 0xA004, 0x9030, 0x9032, 0x2006, 0x2010]) : FenceOnly s (record s c v k r d) where
  frame := by
    obtain ⟨_, _, e⟩ := record_frame s c v k r d
    rw [e]
  counts := countsOnly_record _ _ _ _ hr h

theorem fenceEntry_eq (s : State) (kind unit cause detail : Nat) : ∃ log total,
    fenceEntry s kind unit cause detail =
      { s with health := { s.health with fenceLog := log, fenceTotal := total } } := ⟨_, _, rfl⟩

/-- A fence is entered in the log, its unit's record and the sticky list, with events 0x9030 and 0x9032. -/
theorem fenceNote_eq (s : State) (kind unit cause detail : Nat) : ∃ log total led gen sticky,
    fenceNote s kind unit cause detail =
      recordHead (record { s with health := { s.health with
        fenceLog := log, fenceTotal := total, ledger := led, shapeGen := gen, sticky := sticky } } 0x9030 .corrected 16
        (unitReporter kind unit) [kind, cause]) 0x9032 .corrected [] := by
  obtain ⟨log, tot, e⟩ := fenceEntry_eq s kind unit cause detail
  unfold fenceNote
  rw [e]
  exact ⟨_, _, _, _, _, rfl⟩

/-- What a fence's note changes of the state of health. -/
theorem fenceNote_health (s : State) (kind unit cause detail : Nat) : ∃ log total led gen sticky,
    (fenceNote s kind unit cause detail).health = { s.health with
      fenceLog := log, fenceTotal := total, ledger := led, shapeGen := gen, sticky := sticky } := by
  obtain ⟨_, _, _, _, _, e⟩ := fenceNote_eq s kind unit cause detail
  rw [e, recordHead_health, record_health]
  exact ⟨_, _, _, _, _, rfl⟩

section
variable {kind unit : Nat} (cause detail : Nat) (h : unitReporter kind unit < 2048)
include h

theorem fenceOnly_fenceNote (s : State) : FenceOnly s (fenceNote s kind unit cause detail) := by
  obtain ⟨_, _, _, _, _, e⟩ := fenceNote_eq s kind unit cause detail
  rw [e]
  refine .trans ?_ ((fenceOnly_record _ _ _ _ h (by decide)).trans (fenceOnly_record _ _ _ _ (by decide) (by decide)))
  exact ⟨rfl, countsOnly_of_trace _ rfl⟩

/-- A fence counts event 0x9030 of its unit. -/
theorem eventCount_fenceNote {r : Nat} (s : State) (hr : r < 2048) :
    eventCount (fenceNote s kind unit cause detail) 0x9030 r =
      if r = unitReporter kind unit then satTo 32 (eventCount s 0x9030 r + 1) else eventCount s 0x9030 r := by
  obtain ⟨_, _, _, _, _, e⟩ := fenceNote_eq s kind unit cause detail
  rw [e, recordHead_eq, eventCount_record_other _ _ _ (by decide) hr (by simp [episodeCode]) (by simp),
    eventCount_record _ _ _ _ _ _ _ _ h hr (by simp [episodeCode])]
  by_cases e : r = unitReporter kind unit
  · rw [if_pos ⟨rfl, e⟩, if_pos e, e]
    rfl
  · rw [if_neg fun e' => e e'.2, if_neg e]
    rfl

end

theorem fenceHits_coveFatal (s : State) (d) : fenceHits s d = s ∨ ∃ c, fenceHits s d = coveFatal s c 9 := by
  unfold fenceHits
  split
  · exact .inr ⟨_, rfl⟩
  · exact .inl rfl

theorem faultOnly_fenceHits (s : State) (d) : FaultOnly s (fenceHits s d) := by
  rcases fenceHits_coveFatal s d with e | ⟨c, e⟩ <;> rw [e]
  · exact .refl s
  · exact faultOnly_coveFatal ..

/-- A fenced die is left alone. -/
theorem fenceCores_of_fenced {d : Nat} (k) (h : dieFenced s d = true) : fenceCores s d k = s := by
  rw [fenceCores, if_pos h]

section
variable {d k : Nat}

theorem dieFenced_eq_false : dieFenced s d = false ↔ Sparse.get 0 s.health.dieFence d = 0 := by simp [dieFenced]

theorem fenceOnly_fenceCores (s : State) (hd : d < 64) (k) : FenceOnly s (fenceCores s d k) := by
  unfold fenceCores
  split
  · exact .refl s
  · refine .trans (.trans ?_ (fenceOnly_fenceNote k 0 (show unitReporter 2 d < 2048 by simp only [unitReporter]; omega) _))
      (faultOnly_fenceHits ..).fenceOnly
    exact ⟨rfl, countsOnly_of_trace _ rfl⟩

/-- Fencing a compute die marks it alone. -/
theorem fenceCores_health (s : State) (d k) : ∃ log total led gen sticky,
    (fenceCores s d k).health = { s.health with
      dieFence := if dieFenced s d then s.health.dieFence else Sparse.set 0 s.health.dieFence d k,
      fenceLog := log, fenceTotal := total, ledger := led, shapeGen := gen, sticky := sticky } := by
  unfold fenceCores
  split
  · exact ⟨_, _, _, _, _, rfl⟩
  · have e : ∀ u, (fenceHits u d).health = u.health := fun u => by rw [(faultOnly_fenceHits u d).frame]
    rw [e]
    exact fenceNote_health ..

theorem dieFence_fenceCores (s : State) (d k x) : Sparse.get 0 (fenceCores s d k).health.dieFence x =
    if x = d ∧ dieFenced s d = false then k else Sparse.get 0 s.health.dieFence x := by
  obtain ⟨_, _, _, _, _, e⟩ := fenceCores_health s d k
  rw [e]
  by_cases h : dieFenced s d = true
  · simp [h]
  · simp [h, get_set]

/-- Fencing a compute die counts event 0x9030 of it, once. -/
theorem eventCount_fenceCores (s : State) (hd : d < 64) (k) {x : Nat} (hx : x < 64) :
    eventCount (fenceCores s d k) 0x9030 (1297 + x) =
      if x = d ∧ dieFenced s d = false then satTo 32 (eventCount s 0x9030 (1297 + x) + 1)
      else eventCount s 0x9030 (1297 + x) := by
  unfold fenceCores
  split
  · next h => simp [h]
  · next h =>
    rw [(faultOnly_fenceHits _ d).counts _ _ (by omega) (by simp [episodeCode]) (by decide), markDie,
      eventCount_fenceNote k 0 (show unitReporter 2 d < 2048 by simp only [unitReporter]; omega) _ (by omega)]
    simp [unitReporter, h, eventCount]

end

end Sys2Proof.Proofs
end

section
/-!
PROOFS. Regulators, margins, temperatures, calibration and failed routers: O58.
-/
namespace Sys2Proof.Proofs
open Sys2Proof Sys2Proof.Machine Sys2Proof.Laws Sys2Proof.Claim

variable {s t u : State}

/-! ### Dies that a fence takes (R34, R480) -/

/-- Die fences only join, each with one event, and no router or duty changes. -/
structure Sweep (s t : State) : Prop where
  routers : t.health.routerFence = s.health.routerFence
  duty : t.health.dutyDone = s.health.dutyDone
  grows : ∀ x, Sparse.get 0 s.health.dieFence x ≠ 0 → Sparse.get 0 t.health.dieFence x = Sparse.get 0 s.health.dieFence x
  counted : ∀ x, x < 64 → Sparse.get 0 s.health.dieFence x ≠ 0 →
    eventCount t 0x9030 (1297 + x) = eventCount s 0x9030 (1297 + x)

theorem Sweep.refl (s : State) : Sweep s s := ⟨rfl, rfl, fun _ _ => rfl, fun _ _ _ => rfl⟩

theorem Sweep.trans (h : Sweep s t) (h' : Sweep t u) : Sweep s u where
  routers := h'.routers.trans h.routers
  duty := h'.duty.trans h.duty
  grows x hx := (h'.grows x (by rwa [h.grows x hx])).trans (h.grows x hx)
  counted x hlt hx := (h'.counted x hlt (by rwa [h.grows x hx])).trans (h.counted x hlt hx)

theorem dieFenced_iff {d : Nat} : dieFenced s d = true ↔ Sparse.get 0 s.health.dieFence d ≠ 0 := by simp [dieFenced]

theorem sweep_fenceCores {d : Nat} (s : State) (hd : d < 64) (k) : Sweep s (fenceCores s d k) := by
  obtain ⟨_, _, _, _, _, e⟩ := fenceCores_health s d k
  have hne : ∀ x, Sparse.get 0 s.health.dieFence x ≠ 0 → ¬ (x = d ∧ dieFenced s d = false) := by
    rintro x hx ⟨rfl, h⟩
    exact hx (dieFenced_eq_false.1 h)
  exact ⟨by rw [e], by rw [e], fun x hx => by rw [dieFence_fenceCores, if_neg (hne x hx)],
    fun x hlt hx => by rw [eventCount_fenceCores s hd k hlt, if_neg (hne x hx)]⟩

/-- A fence leaves the die fenced. -/
theorem dieFence_fenceCores_self (s : State) (d) {k : Nat} (hk : k ≠ 0) :
    Sparse.get 0 (fenceCores s d k).health.dieFence d ≠ 0 := by
  rw [dieFence_fenceCores]
  split
  · exact hk
  · next h => exact fun h0 => h ⟨rfl, dieFenced_eq_false.2 h0⟩

theorem torusRoute_congr (h : t.health.routerFence = s.health.routerFence) (a b) : torusRoute t a b = torusRoute s a b := by
  have hbroken : ∀ m, routeBroken t a m = routeBroken s a m := fun m => by simp only [routeBroken, h]
  simp only [torusRoute, hbroken]

/-- A die that every unfenced die reaches stays one while more dies are fenced. -/
theorem Sweep.reached (h : Sweep s t) {b : Nat} (hb : dieReached s b = true) : dieReached t b = true := by
  simp only [dieReached, List.all_eq_true, Bool.or_eq_true, torusRoute_congr h.routers] at hb ⊢
  refine fun a ha => (hb a ha).imp_left (Or.imp_right fun hf => ?_)
  rw [dieFenced_iff] at hf ⊢
  rwa [h.grows a hf]

/-- One die of the sweep: fenced when some unfenced die no longer reaches it. -/
def sweepDie (s : State) (b : Nat) : State := if dieReached s b then s else fenceCores s b 6

theorem sweep_sweepDie {b : Nat} (s : State) (hb : b < 64) : Sweep s (sweepDie s b) := by
  unfold sweepDie
  split
  · exact .refl s
  · exact sweep_fenceCores s hb 6

/-- After the sweep every unfenced die of the list is reached. -/
theorem reached_forEach_sweepDie {l : List Nat} (hl : ∀ b ∈ l, b < 64) {y : Nat} (hy : y ∈ l)
    (h0 : Sparse.get 0 (forEach s l sweepDie).health.dieFence y = 0) : dieReached (forEach s l sweepDie) y = true := by
  induction l generalizing s with
  | nil => simp at hy
  | cons b l ih =>
    have hl' : ∀ b ∈ l, b < 64 := fun x hx => hl x (List.mem_cons_of_mem _ hx)
    have hrest : Sweep (sweepDie s b) (forEach (sweepDie s b) l sweepDie) :=
      forEach_rel .refl .trans fun t a ha => sweep_sweepDie t (hl' a ha)
    rcases List.mem_cons.1 hy with rfl | hy
    · refine hrest.reached ?_
      by_cases hr : dieReached s y = true
      · rwa [sweepDie, if_pos hr]
      · have hfenced : sweepDie s y = fenceCores s y 6 := if_neg hr
        have hf : Sparse.get 0 (sweepDie s y).health.dieFence y ≠ 0 := by
          rw [hfenced]
          exact dieFence_fenceCores_self s y (by decide)
        exact absurd h0 (by rw [forEach_cons, hrest.grows y hf]; exact hf)
    · exact ih hl' hy h0

theorem fenceRouters_eq (s : State) (d) : fenceRouters s d = forEach (fenceCores
    { s with health := { s.health with routerFence := Sparse.set false s.health.routerFence d true } } d 6)
    (List.range 64) sweepDie := rfl

/-- What a fence of a die's routers comes to: the routers fenced, the die with cause 6 and one event, and no pair of unfenced
dies apart. -/
theorem fenceRouters_outcome {d : Nat} (s : State) (hd : d < 64) :
    let t := fenceRouters s d
    FenceOnly s t ∧ Sparse.get false t.health.routerFence d = true ∧ t.health.dutyDone = s.health.dutyDone
    ∧ (Sparse.get 0 s.health.dieFence d = 0 → Sparse.get 0 t.health.dieFence d = 6 ∧ Recorded s t 0x9030 (1297 + d))
    ∧ ∀ x y, x < 64 → y < 64 → x ≠ y → Sparse.get 0 t.health.dieFence x = 0 → Sparse.get 0 t.health.dieFence y = 0 →
        (torusRoute t x y).isSome = true := by
  intro t
  let s0 : State := { s with health := { s.health with routerFence := Sparse.set false s.health.routerFence d true } }
  let u := fenceCores s0 d 6
  have hu : Sweep s0 u := sweep_fenceCores s0 hd 6
  have ht : Sweep u t := forEach_rel .refl .trans fun v b hb => sweep_sweepDie v (List.mem_range.1 hb)
  have hut := hu.trans ht
  refine ⟨?_, ?_, hut.duty, fun h0 => ?_, fun x y hx hy hxy hfx hfy => ?_⟩
  · have h0 : FenceOnly s s0 := ⟨rfl, countsOnly_of_trace _ rfl⟩
    refine (h0.trans (fenceOnly_fenceCores s0 hd 6)).trans (forEach_rel (f := sweepDie) .refl .trans fun v b hb => ?_)
    unfold sweepDie
    split
    · exact .refl v
    · exact fenceOnly_fenceCores v (List.mem_range.1 hb) 6
  · rw [hut.routers]
    exact get_set_same ..
  · have hd0 : dieFenced s0 d = false := dieFenced_eq_false.2 h0
    have h6 : Sparse.get 0 u.health.dieFence d = 6 := by rw [dieFence_fenceCores, if_pos ⟨rfl, hd0⟩]
    have hrec : eventCount u 0x9030 (1297 + d) = satTo 32 (eventCount s0 0x9030 (1297 + d) + 1) := by
      rw [eventCount_fenceCores s0 hd 6 hd, if_pos ⟨rfl, hd0⟩]
    exact ⟨by rw [ht.grows d (by simp [h6]), h6], (ht.counted d hd (by simp [h6])).trans hrec⟩
  · rw [show t = forEach u (List.range 64) sweepDie from rfl] at hfx hfy ⊢
    have hr := reached_forEach_sweepDie (fun b hb => List.mem_range.1 hb) (List.mem_range.2 hy) hfy
    simp only [dieReached, List.all_eq_true, Bool.or_eq_true, beq_iff_eq] at hr
    rcases hr x (List.mem_range.2 hx) with (h | h) | h
    · exact absurd h hxy
    · exact absurd hfx (dieFenced_iff.1 h)
    · exact h

theorem failLoads_eq (s : State) (d) : ∃ cv pq, failLoads s d = { s with coves := cv, load := { s.load with pq := pq } } := by
  unfold failLoads
  extract_lets there end_ hit s1
  clear_value hit
  obtain ⟨cv, h⟩ : ∃ cv, s1 = { s with coves := cv } :=
    forEach_updCove_eq s (List.range 16) (fun _ c => c) fun _ _ v => { v with lq := hit v.lq }
  clear_value s1
  subst h
  exact ⟨_, _, rfl⟩

theorem failLoads_fenceOnly (s : State) (d) : FenceOnly s (failLoads s d) := by
  obtain ⟨_, _, e⟩ := failLoads_eq s d
  rw [e]
  exact ⟨rfl, countsOnly_of_trace _ rfl⟩

theorem failLoads_health (s : State) (d) : (failLoads s d).health = s.health := by
  obtain ⟨_, _, e⟩ := failLoads_eq s d
  rw [e]

theorem failLoads_trace (s : State) (d) : (failLoads s d).trace = s.trace := by
  obtain ⟨_, _, e⟩ := failLoads_eq s d
  rw [e]

/-- What fencing a die does to loads touches neither health nor events. -/
theorem loseDie_fence (s : State) (d k) : (loseDie s d k).health = (fenceDie s d k).health
    ∧ (loseDie s d k).trace = (fenceDie s d k).trace ∧ FenceOnly (fenceDie s d k) (loseDie s d k) :=
  ⟨forEach_same (fun u => u.health) fun t a _ => failLoads_health t a,
    forEach_same (fun u => u.trace) fun t a _ => failLoads_trace t a,
    forEach_rel .refl .trans fun t a _ => failLoads_fenceOnly t a⟩

/-- A compute die lost with another cause than its routers' is fenced alone. -/
theorem loseDie_outcome {d k : Nat} (s : State) (hd : d < 64) (hk : k ≠ 6) : FenceOnly s (loseDie s d k)
    ∧ (Sparse.get 0 s.health.dieFence d = 0 → Sparse.get 0 (loseDie s d k).health.dieFence d = k
      ∧ Recorded s (loseDie s d k) 0x9030 (1297 + d)) := by
  obtain ⟨hhealth, htrace, hfence⟩ := loseDie_fence s d k
  rw [fenceDie, if_neg hk] at hhealth htrace hfence
  refine ⟨(fenceOnly_fenceCores s hd k).trans hfence, fun h0 => ?_⟩
  have hd0 : dieFenced s d = false := dieFenced_eq_false.2 h0
  refine ⟨by rw [hhealth, dieFence_fenceCores, if_pos ⟨rfl, hd0⟩], ?_⟩
  rw [Recorded, eventCount_of_trace htrace, eventCount_fenceCores s hd k hd, if_pos ⟨rfl, hd0⟩]

/-! ### Shore dies (R260, R272, R480, R483) -/

/-- Only ports, the trace, health and the host side differ, and no shore die's fence does. -/
structure PortFence (s t : State) : Prop where
  frame : t = { s with fab := t.fab, trace := t.trace, health := t.health, host := t.host }
  counts : CountsOnly [0xA003, 0xA004, 0x9030, 0x9032, 0x2006, 0x2010] s t
  shores : t.health.shoreFence = s.health.shoreFence

theorem PortFence.refl (s : State) : PortFence s s := ⟨rfl, .refl s, rfl⟩

theorem PortFence.trans (h : PortFence s t) (h' : PortFence t u) : PortFence s u where
  frame := h'.frame.trans (congrArg (fun x : State =>
    { x with fab := u.fab, trace := u.trace, health := u.health, host := u.host }) h.frame)
  counts := h.counts.trans h'.counts
  shores := h'.shores.trans h.shores

theorem PortFence.fenceOnly (h : PortFence s t) : FenceOnly s t := ⟨by rw [h.frame], h.counts⟩

theorem portFence_record {c r : Nat} (s : State) (v k d) (hr : r < 2048)
    (h : c ∈ [0xA003, 0xA004, 0x9030, 0x9032, 0x2006, 0x2010]) : PortFence s (record s c v k r d) where
  frame := by
    obtain ⟨_, _, e⟩ := record_frame s c v k r d
    rw [e]
  counts := countsOnly_record _ _ _ _ hr h
  shores := by rw [record_health]

theorem portFence_fenceNote {kind unit : Nat} (s : State) (cause detail) (h : unitReporter kind unit < 2048) :
    PortFence s (fenceNote s kind unit cause detail) where
  frame := by
    obtain ⟨_, _, _, _, _, e⟩ := fenceNote_eq s kind unit cause detail
    obtain ⟨_, _, e'⟩ := record_frame { s with health := _ } 0x9030 .corrected 16 (unitReporter kind unit) [kind, cause]
    rw [e, e', recordHead]
    obtain ⟨_, _, e''⟩ := record_frame { s with health := _, trace := _, host := _ } 0x9032 .corrected 16 1296 []
    rw [e'']
  counts := (fenceOnly_fenceNote cause detail h s).counts
  shores := by
    obtain ⟨_, _, _, _, _, e⟩ := fenceNote_health s kind unit cause detail
    rw [e]

section
variable {p : Nat} (hp : p < 128)
include hp

theorem portFence_movePort (s : State) (m k) : PortFence s (movePort s p m k) := by
  unfold movePort
  dsimp only
  have hset : PortFence s (setPortMode s p m k) := ⟨rfl, countsOnly_of_trace _ rfl, rfl⟩
  split
  · exact hset
  · exact hset.trans (portFence_record _ _ _ _ (by omega) (by decide))

theorem portFence_failOver (s : State) : PortFence s (failOver s p) := by
  unfold failOver
  extract_lets l s1 fab s2
  have h2 : PortFence s s2 := ⟨rfl, countsOnly_of_trace _ rfl, rfl⟩
  exact h2.trans (portFence_record _ _ _ _ (by omega) (by decide))

/-- A port stops in a state: its fence is noted, and what it carried fails over. -/
theorem portFence_stopPort (s : State) (m : PortMode) (k : Nat) (b : Bool) : PortFence s
    (if b then failOver (fenceNote (movePort s p m k) 6 p k 0) p else fenceNote (movePort s p m k) 6 p k 0) := by
  have h := (portFence_movePort hp s m k).trans
    (portFence_fenceNote (movePort s p m k) (kind := 6) (unit := p) k 0 (by simp only [unitReporter]; omega))
  split
  · exact h.trans (portFence_failOver hp _)
  · exact h

theorem portFence_fencePort (s : State) (k) : PortFence s (fencePort s p k) := by
  unfold fencePort
  dsimp only
  split
  · exact .refl s
  · exact portFence_stopPort hp s .fenced k _

theorem portFence_loseOptic (s : State) : PortFence s (loseOptic s p) := by
  unfold loseOptic
  dsimp only
  split
  · split
    · exact ⟨rfl, countsOnly_of_trace _ rfl, rfl⟩
    · exact .refl s
  · exact portFence_stopPort hp s .absent 6 _

end

theorem shorePorts_lt {n p : Nat} (hn : n < 16) (h : p ∈ shorePorts n) : p < 128 := by
  simp only [shorePorts, List.mem_flatMap, List.mem_range, List.mem_cons, List.not_mem_nil, or_false] at h
  omega

/-- A shore die that is lost: 0 is module-fatal at once; another is fenced with its ports, and is module-fatal, unless it was
fenced before. -/
theorem fenceShore_outcome {n k : Nat} (s : State) (hn : n < 16) : FenceOnly s (fenceShore s n k)
    ∧ (n = 0 ∨ Sparse.get 0 s.health.shoreFence n = 0 → ModuleFatal s (fenceShore s n k) 14)
    ∧ (n ≠ 0 → Sparse.get 0 s.health.shoreFence n = 0 → Sparse.get 0 (fenceShore s n k).health.shoreFence n = k) := by
  unfold fenceShore
  split
  · next h => exact ⟨(faultOnly_moduleFatal s 14).fenceOnly, fun _ => moduleFatal_moduleFatal s 14, fun h' => absurd h h'⟩
  · next hn0 =>
    split
    · next h =>
      exact ⟨.refl s, fun h' => absurd (h'.resolve_left hn0) h, fun _ h' => absurd h' h⟩
    · extract_lets health s1 s2 s3
      have h2 : PortFence s1 s2 := portFence_fenceNote s1 k 0 (by simp only [unitReporter]; omega)
      have h3 : PortFence s1 s3 := h2.trans (forEach_rel .refl .trans fun t p hp => by
        have hp' := shorePorts_lt hn hp
        split
        · exact portFence_loseOptic hp' t
        · exact portFence_fencePort hp' t 3)
      have h1 : FenceOnly s s1 := ⟨rfl, countsOnly_of_trace _ rfl⟩
      refine ⟨(h1.trans h3.fenceOnly).trans (faultOnly_moduleFatal s3 14).fenceOnly, fun _ => ?_, fun _ _ => ?_⟩
      · exact moduleFatal_of_agree (moduleFatal_moduleFatal s3 14) (by rw [h3.frame]) (by rw [h3.frame])
          (fun c => by rw [h3.frame]; rfl) (by rw [h3.frame]) (by rw [h3.frame])
      · rw [(faultOnly_moduleFatal s3 14).frame]
        show Sparse.get 0 s3.health.shoreFence n = k
        rw [h3.shores]
        exact get_set_same ..

/-! ### Rails (R625) -/

theorem dieReporter_lt {die : Nat} (h : die < 80) : dieReporter die < 2048 := by
  unfold dieReporter
  split <;> omega

/-- A rail that turns off is noted with its event before the die is lost. -/
theorem railOff_eq {die rail : Nat} (s : State) (k : Nat) (hd : die < 80) (hr : rail < 3)
    (hk : 4 * die + rail ∉ s.pwr.railsOff) : ∃ sev cove detail,
    railOff s die rail k =
      let u := record { s with pwr := { s.pwr with railsOff := s.pwr.railsOff ++ [4 * die + rail] } } 0xD021 sev cove
        (dieReporter die) detail
      if die < 64 then loseDie u die 3 else fenceShore u (die - 64) 3 := by
  have hopen : ¬ (80 ≤ die ∨ 3 ≤ rail ∨ s.pwr.railsOff.contains (4 * die + rail) = true) := by simp [hk]; omega
  rw [railOff, if_neg hopen]
  unfold dieReporter
  by_cases h : die < 64
  · refine ⟨.coveFatal, coveNum (coveOfDie s die), [die, rail, k], ?_⟩
    simp only [if_pos h]
    rfl
  · refine ⟨.moduleFatal, 16, [die, rail, k], ?_⟩
    simp only [if_neg h]

/-- What a rail that turns off leads to. -/
theorem railOff_outcome {die rail k : Nat} (s : State) (hd : die < 80) (hr : rail < 3)
    (hk : 4 * die + rail ∉ s.pwr.railsOff) :
    let t := railOff s die rail k
    t.pwr.railsOff = s.pwr.railsOff ++ [4 * die + rail] ∧ Recorded s t 0xD021 (dieReporter die)
    ∧ (die < 64 → Sparse.get 0 s.health.dieFence die = 0 → Sparse.get 0 t.health.dieFence die = 3
        ∧ Recorded s t 0x9030 (1297 + die))
    ∧ (die = 64 ∨ 64 < die ∧ Sparse.get 0 s.health.shoreFence (die - 64) = 0 → ModuleFatal s t 14)
    ∧ (64 < die → Sparse.get 0 s.health.shoreFence (die - 64) = 0 →
        Sparse.get 0 t.health.shoreFence (die - 64) = 3)
    ∧ t.cores = s.cores ∧ t.mem = s.mem := by
  obtain ⟨sev, cove, detail, e⟩ := railOff_eq s k hd hr hk
  intro t
  let u0 : State := { s with pwr := { s.pwr with railsOff := s.pwr.railsOff ++ [4 * die + rail] } }
  obtain ⟨u, hu⟩ : ∃ u, u = record u0 0xD021 sev cove (dieReporter die) detail := ⟨_, rfl⟩
  have ht : t = if die < 64 then loseDie u die 3 else fenceShore u (die - 64) 3 := by rw [hu]; exact e
  have hframe : ∃ tr h, u = { u0 with trace := tr, host := h } := hu ▸ record_frame ..
  have hrec : Recorded s u 0xD021 (dieReporter die) :=
    hu ▸ recorded_record u0 _ _ _ _ _ (dieReporter_lt hd) (by simp [episodeCode])
  have hother : ∀ r, r < 2048 → eventCount u 0x9030 r = eventCount s 0x9030 r := fun r hr => by
    rw [hu, eventCount_record_other _ _ _ (dieReporter_lt hd) hr (by simp [episodeCode]) (by simp)]
    rfl
  -- the events and the rest of the state once the die is lost
  have close : FenceOnly u t → t.pwr.railsOff = s.pwr.railsOff ++ [4 * die + rail]
      ∧ Recorded s t 0xD021 (dieReporter die) ∧ t.cores = s.cores ∧ t.mem = s.mem := by
    intro h
    obtain ⟨_, _, hframe⟩ := hframe
    refine ⟨by rw [h.frame, hframe], recorded_between hrec rfl ?_, by rw [h.frame, hframe], by rw [h.frame, hframe]⟩
    exact h.counts _ _ (dieReporter_lt hd) (by simp [episodeCode]) (by decide)
  obtain ⟨_, _, hframe⟩ := hframe
  by_cases hc : die < 64
  · rw [if_pos hc] at ht
    obtain ⟨hfence, hfirst⟩ := loseDie_outcome u hc (k := 3) (by decide)
    obtain ⟨hoff, hrec', hcores, hmem⟩ := close (ht ▸ hfence)
    refine ⟨hoff, hrec', fun _ h0 => ?_, fun h => by omega, fun h => by omega, hcores, hmem⟩
    obtain ⟨h3, h9⟩ := hfirst (by rw [hframe]; exact h0)
    exact ⟨ht ▸ h3, recorded_between (ht ▸ h9) (hother _ (by omega)) rfl⟩
  · rw [if_neg hc] at ht
    obtain ⟨hfence, hfatal, hshore⟩ := fenceShore_outcome u (n := die - 64) (k := 3) (by omega)
    obtain ⟨hoff, hrec', hcores, hmem⟩ := close (ht ▸ hfence)
    have hsame : u.health = s.health := by rw [hframe]
    rw [hsame] at hfatal hshore
    refine ⟨hoff, hrec', fun h => absurd h hc, fun h => ?_, fun h h0 => ht ▸ hshore (by omega) h0, hcores, hmem⟩
    exact moduleFatal_of_agree (ht ▸ hfatal (h.imp (fun h => by omega) And.right)) (by rw [hframe]) (by rw [hframe])
      (fun c => by rw [hframe]; rfl) (by rw [hframe]) (by rw [hframe])

/-! ### Temperatures (R322, R629, R630) -/

theorem notePwr_eq (old s : State) : ∃ n, notePwr old s = { s with pwr := { s.pwr with changed := n } } := by
  unfold notePwr
  split <;> exact ⟨_, rfl⟩

/-- What the trip changes: pwr's trip fields, the level and the dies' clocks, with event 0xD011 and, of others, 0x1050. -/
structure Tripped (s t : State) : Prop where
  frame : t = { s with tide := t.tide, pwr := t.pwr, trace := t.trace, host := t.host }
  pwr : t.pwr = { s.pwr with tripActive := true, tripped := true, tripTick := s.tide.now }
  now : t.tide.now = s.tide.now
  hot : t.tide.hot = s.tide.hot ∧ t.tide.hotVoid = s.tide.hotVoid
  level : t.tide.withhold = 15 ∧ t.tide.tripVoid = true
  event : Recorded s t 0xD011 1296
  counts : CountsOnly [0xD011, 0x1050] s t
  slow : ∀ c, c < 16 → (coveAt s c).dies ≠ 0#64 → (coveTideAt t c).slow = true

/-- Each cove of a list becomes slow, and one that is stays so. -/
theorem slow_forEach {l : List Nat} {f : State → Nat → CoveTide → CoveTide}
    (hf : ∀ s c x, (f s c x).slow = true) {c : Nat} (h : c ∈ l ∨ (coveTideAt s c).slow = true) :
    (coveTideAt (forEach s l fun s c => updCoveTide s c (f s c)) c).slow = true := by
  induction l generalizing s with
  | nil => simpa using h
  | cons a l ih =>
    refine ih ?_
    by_cases hc : c = a
    · subst hc
      exact .inr (by rw [coveTideAt_updCoveTide, hf])
    · rw [coveTideAt_updCoveTide_other _ _ _ _ hc]
      exact h.imp_left fun h => (List.mem_cons.1 h).resolve_left hc

theorem setLevel_outcome (s : State) (n) : (setLevel s n).tide.withhold = n
    ∧ (∃ log calm, (setLevel s n).tide = { s.tide with withhold := n, withholdLog := log, calm := calm })
    ∧ (∃ tr h, setLevel s n = { s with tide := (setLevel s n).tide, trace := tr, host := h })
    ∧ CountsOnly [0x1050] s (setLevel s n) := by
  unfold setLevel
  split
  · next h => exact ⟨h, ⟨_, _, by rw [← h]⟩, ⟨_, _, rfl⟩, .refl s⟩
  · obtain ⟨u, hu⟩ : ∃ u : State, u = { s with tide := { s.tide with
      withhold := n, withholdLog := (s.tide.now, n) :: s.tide.withholdLog, calm := 0 } } := ⟨_, rfl⟩
    obtain ⟨tr, h, e⟩ := record_frame u 0x1050 .corrected 16 1296 []
    rw [← hu, recordHead_tide]
    refine ⟨by rw [hu], ⟨_, _, by rw [hu]⟩, ⟨tr, h, e.trans (by rw [hu])⟩, ?_⟩
    exact .trans (countsOnly_of_trace _ (by rw [hu])) (countsOnly_record u _ _ _ (by decide) (by decide))

theorem tripped_thermalTrip (s : State) (u : Nat) (x : Int) : Tripped s (thermalTrip s u x) := by
  unfold thermalTrip
  extract_lets s1 pw tide s2
  have h1 : ∃ cv, s1 = { s with tide := { s.tide with coves := cv } } := ⟨_,
    forEach_rel (R := fun s t => t = { s with tide := { s.tide with coves := t.tide.coves } }) (fun _ => rfl)
      (fun {_ _ c} e e' => e'.trans (congrArg (fun y : State => { y with tide := { y.tide with coves := c.tide.coves } }) e))
      fun t c _ => rfl⟩
  have hslow : ∀ c, c < 16 → (coveAt s c).dies ≠ 0#64 → (coveTideAt s1 c).slow = true := fun c hc hd =>
    slow_forEach (fun _ _ _ => rfl) (.inl (by simp [hc, hd]))
  clear_value s1
  obtain ⟨cv, rfl⟩ := h1
  obtain ⟨hw, ⟨log, calm, htide⟩, ⟨tr, h, hframe⟩, hcounts⟩ := setLevel_outcome s2 15
  have hcount : CountsOnly [0x1050] s (setLevel s2 15) := .trans (countsOnly_of_trace _ rfl) hcounts
  have hrec := recorded_recordHead (setLevel s2 15) 0xD011 .corrected [u, (x % 2 ^ 64).toNat] (by simp [episodeCode])
  obtain ⟨tr', h', hframe'⟩ := record_frame (setLevel s2 15) 0xD011 .corrected 16 1296 [u, (x % 2 ^ 64).toNat]
  refine ⟨?_, ?_, ?_, ?_, ?_, ?_, ?_, ?_⟩
  · rw [recordHead, hframe', hframe]
  · rw [recordHead_pwr, hframe]
  · rw [recordHead_tide, htide]
  · rw [recordHead_tide, htide]
    exact ⟨rfl, rfl⟩
  · rw [recordHead_tide]
    exact ⟨hw, by rw [htide]⟩
  · exact recorded_between hrec (hcount _ _ (by decide) (by simp [episodeCode]) (by decide)) rfl
  · exact (hcount.mono (by simp)).trans (countsOnly_record _ _ _ _ (by decide) (by decide))
  · intro c hc hd
    refine Eq.trans ?_ (hslow c hc hd)
    rw [recordHead_eq, coveTideAt_record]
    simp only [coveTideAt, htide]
    rfl

/-! ### The shutdown (R630, step 4) -/

/-- What the shutdown changes: the converters and the fault it is, with event 0xD012. -/
structure ShutDown (s t : State) : Prop where
  frame : t = { s with coves := t.coves, trace := t.trace, recov := t.recov, host := t.host, fw := t.fw, pwr := t.pwr }
  pwr : t.pwr = { s.pwr with shutdown := true, converters := false }
  event : Recorded s t 0xD012 1296
  counts : CountsOnly [0xD012, 0xA003, 0xA004] s t
  fatal : ModuleFatal s t 0

theorem shutDown_thermalShutdown (h : s.pwr.shutdown = false) : ShutDown s (thermalShutdown s) := by
  obtain ⟨v, hv⟩ : ∃ v : State, v = { s with pwr := { s.pwr with shutdown := true, converters := false } } := ⟨_, rfl⟩
  rw [thermalShutdown, h, if_neg Bool.false_ne_true, ← hv]
  obtain ⟨tr, ho, hframe⟩ := record_frame v 0xD012 .moduleFatal 16 1296 []
  have hrec : Recorded v (recordHead v 0xD012 .moduleFatal []) 0xD012 1296 :=
    recorded_recordHead v _ _ _ (by simp [episodeCode])
  have hcount : CountsOnly [0xD012] v (recordHead v 0xD012 .moduleFatal []) :=
    countsOnly_record v _ _ _ (by decide) (by decide)
  rw [← recordHead_eq] at hframe
  generalize recordHead v 0xD012 .moduleFatal [] = u at hframe hrec hcount ⊢
  subst hv
  have hfault := faultOnly_moduleFatal u 0
  refine ⟨?_, ?_, ?_, ?_, ?_⟩
  · rw [hfault.frame, hframe]
  · rw [hfault.frame, hframe]
  · exact recorded_between hrec rfl (hfault.counts _ _ (by decide) (by simp [episodeCode]) (by decide))
  · exact .trans (countsOnly_of_trace _ rfl) ((hcount.mono (by simp)).trans (hfault.counts.mono (by simp)))
  · exact moduleFatal_of_agree (moduleFatal_moduleFatal u 0) (by rw [hframe]) (by rw [hframe])
      (fun c => by rw [hframe]; rfl) (by rw [hframe]) (by rw [hframe])

/-! ### A reading (R629) -/

/-- The run of readings at trip that a reading makes. -/
def tripRunAfter (s : State) (u : Nat) (x : Int) : Nat := if tripTemp u ≤ x then Sparse.get 0 s.pwr.tripRun u + 1 else 0

/-- A reading before the thresholds act: its value, its run and the start of the calm. -/
def readingKept (s : State) (u : Nat) (x : Int) : State :=
  { s with pwr := { s.pwr with
      temps := Sparse.set 0 s.pwr.temps u x, tripRun := Sparse.set 0 s.pwr.tripRun u (tripRunAfter s u x),
      coolSince := if releaseTemp u ≤ x then s.tide.now else s.pwr.coolSince } }

/-- The trip of a reading, if it makes one. -/
def tripOf (s : State) (u : Nat) (x : Int) : State :=
  if 3 ≤ tripRunAfter s u x ∧ ¬ s.pwr.tripActive then thermalTrip (readingKept s u x) u x else readingKept s u x

/-- The shutdown of a reading, if it makes one. -/
def shutdownOf (s : State) (u : Nat) (x : Int) : State := if shutdownTemp u ≤ x then thermalShutdown s else s

/-- A reading in its parts; the tick of a change of PWR_STATUS comes last. -/
theorem takeTemp_eq (s : State) (u x) : ∃ n, takeTemp s u x =
    { shutdownOf (tripOf s u x) u x with pwr := { (shutdownOf (tripOf s u x) u x).pwr with changed := n } } :=
  notePwr_eq s (shutdownOf (tripOf s u x) u x)

/-- What the shutdown of a reading leaves, and what it does. -/
theorem shutdownOf_outcome (s : State) (u : Nat) (x : Int) :
    let t := shutdownOf s u x
    t.tide = s.tide ∧ (∃ a b, t.pwr = { s.pwr with shutdown := a, converters := b }) ∧ t.cores = s.cores ∧ t.mem = s.mem
    ∧ CountsOnly [0xD012, 0xA003, 0xA004] s t
    ∧ (x < shutdownTemp u ∨ s.pwr.shutdown = true → t = s)
    ∧ (shutdownTemp u ≤ x → s.pwr.shutdown = false → ShutDown s t) := by
  intro t
  by_cases hx : shutdownTemp u ≤ x ∧ s.pwr.shutdown = false
  · have e : t = thermalShutdown s := if_pos hx.1
    have h : ShutDown s t := e ▸ shutDown_thermalShutdown hx.2
    refine ⟨by rw [h.frame], ⟨_, _, h.pwr⟩, by rw [h.frame], by rw [h.frame], h.counts, fun h' => ?_, fun _ _ => h⟩
    rcases h' with h' | h'
    · omega
    · rw [hx.2] at h'
      cases h'
  · have e : t = s := by
      simp only [t, shutdownOf, thermalShutdown]
      grind
    rw [e]
    exact ⟨rfl, ⟨_, _, rfl⟩, rfl, rfl, .refl s, fun _ => rfl, fun h1 h2 => absurd ⟨h1, h2⟩ hx⟩

/-- What a reading can change and count beside the readings: a trip and a shutdown. -/
structure Heated (s t : State) : Prop where
  frame : t = { s with
    tide := t.tide, pwr := t.pwr, coves := t.coves, trace := t.trace, recov := t.recov, host := t.host, fw := t.fw }
  hot : t.tide.hot = s.tide.hot ∧ t.tide.hotVoid = s.tide.hotVoid
  counts : CountsOnly [0xD011, 0x1050, 0xD012, 0xA003, 0xA004] s t

theorem Heated.refl (s : State) : Heated s s := ⟨rfl, ⟨rfl, rfl⟩, .refl s⟩

theorem Heated.trans (h : Heated s t) (h' : Heated t u) : Heated s u where
  frame := h'.frame.trans (congrArg (fun x : State =>
    { x with tide := u.tide, pwr := u.pwr, coves := u.coves, trace := u.trace, recov := u.recov, host := u.host, fw := u.fw })
    h.frame)
  hot := ⟨h'.hot.1.trans h.hot.1, h'.hot.2.trans h.hot.2⟩
  counts := h.counts.trans h'.counts

theorem heated_shutdownOf (s : State) (u x) : Heated s (shutdownOf s u x) := by
  by_cases hx : shutdownTemp u ≤ x ∧ s.pwr.shutdown = false
  · obtain ⟨-, -, -, -, hcount, -, h⟩ := shutdownOf_outcome s u x
    have h := h hx.1 hx.2
    exact ⟨by rw [h.frame], by rw [h.frame]; exact ⟨rfl, rfl⟩, hcount.mono (by simp)⟩
  · obtain ⟨-, -, -, -, -, h, -⟩ := shutdownOf_outcome s u x
    rw [h (by simpa [or_iff_not_imp_left] using hx)]
    exact .refl s

theorem heated_tripOf (s : State) (u x) : Heated s (tripOf s u x) := by
  have h : Heated s (readingKept s u x) := ⟨rfl, ⟨rfl, rfl⟩, countsOnly_of_trace _ rfl⟩
  unfold tripOf
  split
  · have ht := tripped_thermalTrip (readingKept s u x) u x
    exact h.trans ⟨by rw [ht.frame], ht.hot, ht.counts.mono (by simp)⟩
  · exact h

theorem heated_takeTemp (s : State) (u x) : Heated s (takeTemp s u x) := by
  obtain ⟨n, e⟩ := takeTemp_eq s u x
  refine ((heated_tripOf s u x).trans (heated_shutdownOf (tripOf s u x) u x)).trans ?_
  rw [e]
  exact ⟨rfl, ⟨rfl, rfl⟩, countsOnly_of_trace _ rfl⟩

/-- What the trip of a reading leaves, and what it does. -/
theorem tripOf_outcome (s : State) (u : Nat) (x : Int) :
    let t := tripOf s u x
    let r := readingKept s u x
    t.pwr.temps = r.pwr.temps ∧ t.pwr.tripRun = r.pwr.tripRun ∧ t.pwr.coolSince = r.pwr.coolSince
    ∧ t.pwr.shutdown = s.pwr.shutdown ∧ t.coves = s.coves ∧ t.recov = s.recov ∧ t.tide.now = s.tide.now
    ∧ t.cores = s.cores ∧ t.mem = s.mem
    ∧ (tripRunAfter s u x < 3 ∨ s.pwr.tripActive = true → t = r)
    ∧ (3 ≤ tripRunAfter s u x → s.pwr.tripActive = false → Tripped r t)
    ∧ CountsOnly [0xD011, 0x1050] s t := by
  intro t r
  by_cases h : 3 ≤ tripRunAfter s u x ∧ ¬ s.pwr.tripActive
  · have e : t = thermalTrip r u x := if_pos h
    have ht : Tripped r t := e ▸ tripped_thermalTrip r u x
    have hc : CountsOnly [0xD011, 0x1050] s t := .trans (countsOnly_of_trace _ rfl) ht.counts
    obtain ⟨hrun, hact⟩ := h
    exact ⟨by rw [ht.pwr], by rw [ht.pwr], by rw [ht.pwr], by rw [ht.pwr]; rfl, by rw [ht.frame]; rfl, by rw [ht.frame]; rfl,
      ht.now, by rw [ht.frame]; rfl, by rw [ht.frame]; rfl, fun h' => absurd h' (not_or.2 ⟨by omega, hact⟩), fun _ _ => ht, hc⟩
  · have e : t = r := if_neg h
    rw [e]
    exact ⟨rfl, rfl, rfl, rfl, rfl, rfl, rfl, rfl, rfl, fun _ => rfl, fun h1 h2 => absurd ⟨h1, by simp [h2]⟩ h,
      countsOnly_of_trace _ rfl⟩

/-- A reading does what R629 and R630 say: the parts of `TempTaken` come from the trip, from the shutdown, or from neither. -/
theorem tempTaken_takeTemp (s : State) (u : Nat) (x : Int) : TempTaken s (takeTemp s u x) u x := by
  obtain ⟨n, e⟩ := takeTemp_eq s u x
  obtain ⟨htemps, hrun, hcool, hshut, hcoves, hrecov, hnow, hcores, hmem, hstay, htrip, hcount⟩ := tripOf_outcome s u x
  obtain ⟨htide, ⟨a, b, hpwr⟩, hcores', hmem', hcount', hstay', hdown⟩ := shutdownOf_outcome (tripOf s u x) u x
  rw [e]
  generalize shutdownOf (tripOf s u x) u x = w at *
  generalize tripOf s u x = v at *
  refine ⟨fun k => ?_, fun k => ?_, ?_, fun h => ?_, fun h hact => ?_, fun h hoff => ?_, fun h => ?_, ?_, ?_⟩
  · simp only [hpwr, htemps, readingKept, get_set]
  · simp only [hpwr, hrun, readingKept, get_set]
    rfl
  · simp only [hpwr, hcool, readingKept]
  · have hv := hstay h
    subst hv
    simp only [hpwr, htide]
    exact ⟨rfl, rfl⟩
  · have ht := htrip h hact
    simp only [hpwr, htide, ht.pwr, ht.level, coveTideAt]
    refine ⟨trivial, trivial, rfl, trivial, trivial, ?_, ht.slow⟩
    exact recorded_between ht.event rfl (hcount' _ _ (by decide) (by simp [episodeCode]) (by decide))
  · have hd := hdown h (hshut.trans hoff)
    refine ⟨by rw [hd.pwr], by rw [hd.pwr], ?_, ?_⟩
    · exact recorded_between hd.event (hcount _ _ (by decide) (by simp [episodeCode]) (by decide)) rfl
    · exact moduleFatal_of_agree hd.fatal hrecov hnow (fun c => by rw [coveAt, hcoves]; rfl) hcores hmem
  · have hw := hstay' (h.imp_right (hshut.trans ·))
    subst hw
    exact ⟨hshut, hcoves⟩
  · exact hcores'.trans hcores
  · exact hmem'.trans hmem

/-! ### Hot stacks (R322) -/

/-- A change of the hot stacks: HOTVOID follows, and steps whose timing was void are marked. -/
theorem hotUpdate_eq (s : State) : ∃ cv n, hotUpdate s = { s with
    coves := cv, pwr := { s.pwr with changed := n },
    tide := { s.tide with hotVoid := !s.tide.hot.isEmpty && !s.tide.mhot } } := by
  unfold hotUpdate
  extract_lets s1
  have h1 : ∃ cv, s1 = { s with coves := cv } := by
    simp only [s1]
    split
    · exact ⟨_, forEach_rel (R := fun s t => t = { s with coves := t.coves }) (fun _ => rfl)
        (fun {_ _ c} e e' => e'.trans (congrArg (fun y : State => { y with coves := c.coves }) e)) fun _ _ _ => rfl⟩
    · exact ⟨_, rfl⟩
  clear_value s1
  obtain ⟨cv, rfl⟩ := h1
  obtain ⟨n, e⟩ := notePwr_eq { s with coves := cv } { s with
    coves := cv, tide := { s.tide with hotVoid := !s.tide.hot.isEmpty && !s.tide.mhot } }
  exact ⟨cv, n, e⟩

/-- A change of the hot stacks with its event, and the reading of the stack then. -/
theorem hot_changes {code st : Nat} (s : State) (l : List Nat) (x : Int) (hst : st < 16) (hc : ¬ episodeCode code)
    (hn : code ∉ [0xD011, 0x1050, 0xD012, 0xA003, 0xA004]) :
    let t := takeTemp (record (hotUpdate { s with tide := { s.tide with hot := l } }) code .corrected 16 (1536 + st) [])
      (80 + st) x
    t.tide.hot = l ∧ t.tide.hotVoid = (!l.isEmpty && !s.tide.mhot) ∧ Recorded s t code (1536 + st)
    ∧ Sparse.get 0 t.pwr.temps (80 + st) = x ∧ t.cores = s.cores ∧ t.mem = s.mem := by
  obtain ⟨cv, n, e⟩ := hotUpdate_eq { s with tide := { s.tide with hot := l } }
  rw [e]
  generalize hu : ({ s with
    tide := { s.tide with hot := l, hotVoid := !l.isEmpty && !s.tide.mhot }, coves := cv,
    pwr := { s.pwr with changed := n } } : State) = u
  intro t
  have ht := heated_takeTemp (record u code .corrected 16 (1536 + st) []) (80 + st) x
  obtain ⟨htemps, -⟩ := tempTaken_takeTemp (record u code .corrected 16 (1536 + st) []) (80 + st) x
  have hrec : Recorded u (record u code .corrected 16 (1536 + st) []) code (1536 + st) :=
    recorded_record _ _ _ _ _ _ (by omega) hc
  have hsame : u.cores = s.cores ∧ u.mem = s.mem ∧ u.trace = s.trace ∧ u.tide.hot = l
      ∧ u.tide.hotVoid = (!l.isEmpty && !s.tide.mhot) := by
    subst hu
    exact ⟨rfl, rfl, rfl, rfl, rfl⟩
  obtain ⟨hcores, hmem, htrace, hhot, hvoid⟩ := hsame
  refine ⟨?_, ?_, ?_, (htemps _).trans (if_pos rfl), ?_, ?_⟩
  · exact ht.hot.1.trans (by rw [record_tide, hhot])
  · exact ht.hot.2.trans (by rw [record_tide, hvoid])
  · exact recorded_between hrec (eventCount_of_trace htrace) (ht.counts _ _ (by omega) hc hn)
  · exact (congrArg State.cores ht.frame).trans ((record_cores ..).trans hcores)
  · exact (congrArg State.mem ht.frame).trans ((record_mem ..).trans hmem)

theorem exec_hbmTempReading {st : Nat} (s : State) (x : Int) (h : st < 16) : exec (.hbmTempReading st x) s = .next
    (takeTemp (if 85 < x ∧ st ∉ s.tide.hot then
        record (hotUpdate { s with tide := { s.tide with hot := s.tide.hot ++ [st] } }) 0x1030 .corrected 16 (1536 + st) []
      else if x < 82 ∧ st ∈ s.tide.hot then
        record (hotUpdate { s with tide := { s.tide with hot := s.tide.hot.filter (· ≠ st) } }) 0x1032 .corrected 16
          (1536 + st) []
      else s) (80 + st) x) := by
  show execHbmTempReading st x s = _
  simp only [execHbmTempReading, if_neg (show ¬ 16 ≤ st by omega), List.contains_eq_mem, decide_eq_true_eq]

/-- HBM_TEMP_READING by what the reading does to the hot stacks. -/
theorem hbmTempReading_outcome {st : Nat} (s : State) (x : Int) (h : st < 16) :
    ∃ t, exec (.hbmTempReading st x) s = .next t
        ∧ Sparse.get 0 t.pwr.temps (80 + st) = x ∧ t.cores = s.cores ∧ t.mem = s.mem
        ∧ (85 < x → st ∉ s.tide.hot → t.tide.hot = s.tide.hot ++ [st] ∧ Recorded s t 0x1030 (1536 + st)
            ∧ (s.tide.mhot = false → t.tide.hotVoid = true))
        ∧ (x < 82 → st ∈ s.tide.hot → t.tide.hot = s.tide.hot.filter (fun j => decide (j ≠ st))
            ∧ Recorded s t 0x1032 (1536 + st))
        ∧ (¬ (85 < x ∧ st ∉ s.tide.hot) → ¬ (x < 82 ∧ st ∈ s.tide.hot) →
            t.tide.hot = s.tide.hot ∧ TempTaken s t (80 + st) x) := by
  refine ⟨_, exec_hbmTempReading s x h, ?_⟩
  by_cases hup : 85 < x ∧ st ∉ s.tide.hot
  · rw [if_pos hup]
    obtain ⟨hhot, hvoid, hrec, htemp, hcores, hmem⟩ :=
      hot_changes s (s.tide.hot ++ [st]) x h (code := 0x1030) (by simp [episodeCode]) (by decide)
    exact ⟨htemp, hcores, hmem, fun _ _ => ⟨hhot, hrec, fun hm => by rw [hvoid, hm]; simp⟩, fun _ hin => absurd hin hup.2,
      fun hn => absurd hup hn⟩
  · rw [if_neg hup]
    by_cases hdown : x < 82 ∧ st ∈ s.tide.hot
    · rw [if_pos hdown]
      obtain ⟨hhot, -, hrec, htemp, hcores, hmem⟩ :=
        hot_changes s (s.tide.hot.filter (· ≠ st)) x h (code := 0x1032) (by simp [episodeCode]) (by decide)
      exact ⟨htemp, hcores, hmem, fun h1 h2 => absurd ⟨h1, h2⟩ hup, fun _ _ => ⟨hhot, hrec⟩, fun _ hn => absurd hdown hn⟩
    · rw [if_neg hdown]
      have ht := heated_takeTemp s (80 + st) x
      have htaken := tempTaken_takeTemp s (80 + st) x
      exact ⟨(htaken.1 _).trans (if_pos rfl), by rw [ht.frame], by rw [ht.frame], fun h1 h2 => absurd ⟨h1, h2⟩ hup,
        fun h1 h2 => absurd ⟨h1, h2⟩ hdown, fun _ _ => ⟨ht.hot.1, htaken⟩⟩

/-! ### Telemetry, margins and calibration (R125, R478, R483, R611) -/

/-- Only the trace and the host side differ. -/
def Noted (s t : State) : Prop := t = { s with trace := t.trace, host := t.host }

theorem Noted.trans (h : Noted s t) (h' : Noted t u) : Noted s u :=
  Eq.trans h' (congrArg (fun x : State => { x with trace := u.trace, host := u.host }) h)

theorem noted_record (s : State) (c v k r d) : Noted s (record s c v k r d) := by
  obtain ⟨_, _, e⟩ := record_frame s c v k r d
  rw [Noted, e]

theorem noted_forEach_record {α : Type} (s : State) (l : List α) (c v k r) (d : α → List Nat) :
    Noted s (forEach s l fun s a => record s c v k r (d a)) :=
  forEach_rel (R := Noted) (fun _ => rfl) (fun h h' => h.trans h') fun t a _ => noted_record t c v k r (d a)

/-- REGULATOR_TELEMETRY keeps a die's figures and records the rails whose trim is at an end. -/
theorem regulatorTelemetry_outcome {die : Nat} (s : State) (vcore icore : Nat) (temp : Int) (power : Nat)
    (trimEnd : List Nat) (h : die < 80) : ∃ t, exec (.regulatorTelemetry die vcore icore temp power trimEnd) s = .next t
        ∧ (let old := Sparse.get DieTelem.reset s.pwr.telem die
           Sparse.get DieTelem.reset t.pwr.telem die = { old with
            vcore := vcore, icore := icore, power := power, temp := temp, peak := max old.peak temp })
        ∧ (∀ d, d ≠ die → Sparse.get DieTelem.reset t.pwr.telem d = Sparse.get DieTelem.reset s.pwr.telem d)
        ∧ (∀ r, r < 3 → trimEnd = [r] → Recorded s t 0xD020 (dieReporter die))
        ∧ (trimEnd = [] → t = { s with pwr := { s.pwr with telem := t.pwr.telem } })
        ∧ t.cores = s.cores ∧ t.mem = s.mem ∧ t.coves = s.coves := by
  obtain ⟨new, hnew⟩ : ∃ new : DieTelem, new = { Sparse.get DieTelem.reset s.pwr.telem die with
    vcore := vcore, icore := icore, power := power, temp := temp,
    peak := max (Sparse.get DieTelem.reset s.pwr.telem die).peak temp } := ⟨_, rfl⟩
  obtain ⟨u, hu⟩ : ∃ u : State, u =
    { s with pwr := { s.pwr with telem := Sparse.set DieTelem.reset s.pwr.telem die new } } := ⟨_, rfl⟩
  have e : exec (.regulatorTelemetry die vcore icore temp power trimEnd) s = .next
      (forEach u (trimEnd.filter (· < 3)) fun s r => record s 0xD020 .corrected 16 (dieReporter die) [die, r]) := by
    rw [hu, hnew]
    exact congrArg Host.Outcome.next (if_neg (by omega))
  have hnoted := noted_forEach_record u (trimEnd.filter (· < 3)) 0xD020 .corrected 16 (dieReporter die) (fun r => [die, r])
  refine ⟨_, e, ?_, fun d hd => ?_, fun r hr htrim => ?_, fun htrim => ?_, ?_, ?_, ?_⟩
  · rw [hnoted, hu]
    exact (get_set_same ..).trans hnew
  · rw [hnoted, hu]
    exact get_set_other _ _ _ _ _ hd
  · subst htrim
    rw [List.filter_cons_of_pos (by simpa using hr)]
    exact recorded_between (recorded_record u 0xD020 .corrected 16 _ _ (dieReporter_lt h) (by simp [episodeCode]))
      (eventCount_of_trace (by rw [hu])) rfl
  · subst htrim hu
    rfl
  · rw [hnoted, hu]
  · rw [hnoted, hu]
  · rw [hnoted, hu]

/-- Counting a wear input changes the inputs and their hour alone. -/
theorem wearAdd_eq (s : State) (kind unit input n) : ∃ hour inputs,
    wearAdd s kind unit input n = { s with health := { s.health with wearHour := hour, wearIn := inputs } } := by
  unfold wearAdd wearRoll
  extract_lets hour old h s1 k
  have h1 : ∃ hour inputs, s1 = { s with health := { s.health with wearHour := hour, wearIn := inputs } } := by
    simp only [s1]
    split <;> exact ⟨_, _, rfl⟩
  clear_value s1
  obtain ⟨_, _, rfl⟩ := h1
  exact ⟨_, _, rfl⟩

/-- MARGIN_READ keeps the worst margins, and a thin one is an alarm. -/
theorem marginRead_outcome {die : Nat} (s : State) (margin : Int) (eyes : List Nat) (h : die < 64) :
    ∃ t, exec (.marginRead die ⟨margin, eyes⟩) s = .next t
        ∧ Sparse.get none t.health.margin die = some (match Sparse.get none s.health.margin die with
            | some m => min m margin | none => margin)
        ∧ (Sparse.get DieTelem.reset t.pwr.telem die).margin = margin
        ∧ Sparse.get [] t.health.torusEyes die = worseEyes (Sparse.get [] s.health.torusEyes die) (eyes.take 4)
        ∧ Sparse.get 0 t.health.dutyDone (16 * die + 5) = s.tide.now
        ∧ (margin < 5 → Recorded s t 0x9050 (1297 + die))
        ∧ (5 ≤ margin → t = { s with
            pwr := { s.pwr with telem := t.pwr.telem }, health := { s.health with
              margin := t.health.margin, torusEyes := t.health.torusEyes, dutyDone := t.health.dutyDone } })
        ∧ t.cores = s.cores ∧ t.mem = s.mem ∧ t.coves = s.coves := by
  obtain ⟨u, hu⟩ : ∃ u : State, u = { s with
      pwr := { s.pwr with
        telem := Sparse.set DieTelem.reset s.pwr.telem die
          { Sparse.get DieTelem.reset s.pwr.telem die with margin := margin } },
      health := { s.health with
        margin := Sparse.set none s.health.margin die (some (match Sparse.get none s.health.margin die with
          | some m => min m margin | none => margin)),
        torusEyes := Sparse.set [] s.health.torusEyes die
          (worseEyes (Sparse.get [] s.health.torusEyes die) (eyes.take 4)),
        dutyDone := Sparse.set 0 s.health.dutyDone (16 * die + 5) s.tide.now } } := ⟨_, rfl⟩
  have e : exec (.marginRead die ⟨margin, eyes⟩) s = .next (if margin < 5 then
      record (wearAdd u 0 die 2 1) 0x9050 .corrected (coveNum (coveOfDie u die)) (1297 + die) [] else u) := by
    rw [hu]
    exact congrArg Host.Outcome.next (if_neg (by omega))
  have hkept : Sparse.get none u.health.margin die = some (match Sparse.get none s.health.margin die with
        | some m => min m margin | none => margin)
      ∧ (Sparse.get DieTelem.reset u.pwr.telem die).margin = margin
      ∧ Sparse.get [] u.health.torusEyes die = worseEyes (Sparse.get [] s.health.torusEyes die) (eyes.take 4)
      ∧ Sparse.get 0 u.health.dutyDone (16 * die + 5) = s.tide.now := by
    rw [hu]
    simp only [get_set_same, and_self]
  obtain ⟨hm, ht, he, hd⟩ := hkept
  refine ⟨_, e, ?_⟩
  by_cases hlow : margin < 5
  · obtain ⟨_, _, hw⟩ := wearAdd_eq u 0 die 2 1
    rw [if_pos hlow, hw]
    have hrec := recorded_record (wearAdd u 0 die 2 1) 0x9050 .corrected (coveNum (coveOfDie u die)) (1297 + die) []
      (by omega) (by simp [episodeCode])
    rw [hw] at hrec
    rw [record_health, record_pwr, record_cores, record_mem, record_coves]
    exact ⟨hm, ht, he, hd, fun _ => recorded_between hrec (eventCount_of_trace (by rw [hu])) rfl, fun h5 => by omega,
      by rw [hu], by rw [hu], by rw [hu]⟩
  · rw [if_neg hlow]
    exact ⟨hm, ht, he, hd, fun h5 => absurd h5 hlow, fun _ => by rw [hu], by rw [hu], by rw [hu], by rw [hu]⟩

/-- HBM_RECENTRE keeps the count of failures in a row; the third fails the stack. -/
theorem hbmRecentre_outcome {st : Nat} (s : State) (ok : Bool) (h : st < 16) :
    ∃ t, exec (.hbmRecentre st ok) s = .next t ∧ t.cores = s.cores ∧ t.mem = s.mem
        ∧ (ok = true → Sparse.get 0 t.pwr.recentreFails st = 0
            ∧ Sparse.get 0 t.pwr.recentreTemp st = Sparse.get 0 s.pwr.temps (80 + st)
            ∧ t.health = s.health ∧ t.trace = s.trace)
        ∧ (ok = false →
          let n := Sparse.get 0 s.pwr.recentreFails st + 1
          Sparse.get 0 t.pwr.recentreFails st = n ∧ Recorded s t 0x0012 (1536 + st)
          ∧ t.pwr.recentreTemp = s.pwr.recentreTemp
          ∧ (n < 3 ∨ st ∈ s.health.stackFailed → t.health = s.health ∧ t.coves = s.coves)
          ∧ (3 ≤ n → st ∉ s.health.stackFailed → t.health.stackFailed = s.health.stackFailed ++ [st]
              ∧ ModuleFatal s t 14)) := by
  cases ok with
  | true =>
    refine ⟨_, congrArg Host.Outcome.next (if_neg (by omega)), rfl, rfl, fun _ => ⟨?_, ?_, rfl, rfl⟩, nofun⟩
    · exact get_set_same ..
    · exact get_set_same ..
  | false =>
    obtain ⟨u, hu⟩ : ∃ u : State, u = { s with pwr := { s.pwr with
      recentreFails := Sparse.set 0 s.pwr.recentreFails st (Sparse.get 0 s.pwr.recentreFails st + 1) } } := ⟨_, rfl⟩
    obtain ⟨v, hv⟩ : ∃ v, v = record u 0x0012 .corrected 16 (1536 + st) [st] := ⟨_, rfl⟩
    have hnoted : Noted u v := hv ▸ noted_record u ..
    have hrec : Recorded s v 0x0012 (1536 + st) := recorded_between (t := v)
      (hv ▸ recorded_record u _ _ _ _ _ (by omega) (by simp [episodeCode])) (eventCount_of_trace (by rw [hu])) rfl
    have e : exec (.hbmRecentre st false) s = .next
        (if Sparse.get 0 s.pwr.recentreFails st + 1 < 3 ∨ st ∈ s.health.stackFailed then v
         else moduleFatal { v with health := { v.health with stackFailed := s.health.stackFailed ++ [st] } } 14) := by
      have hhealth : v.health = s.health := by rw [hnoted, hu]
      show execHbmRecentre st false s = _
      simp only [execHbmRecentre, if_neg (show ¬ 16 ≤ st by omega), Bool.false_eq_true, if_false, ← hu, ← hv, hhealth,
        List.contains_eq_mem, decide_eq_true_eq]
    have hkept : v.pwr = u.pwr ∧ v.health = s.health ∧ v.coves = s.coves ∧ v.recov = s.recov ∧ v.tide = s.tide
        ∧ v.cores = s.cores ∧ v.mem = s.mem := by
      rw [hnoted, hu]
      exact ⟨rfl, rfl, rfl, rfl, rfl, rfl, rfl⟩
    obtain ⟨hpwr, hhealth, hcoves, hrecov, htide, hcores, hmem⟩ := hkept
    have hfails : Sparse.get 0 u.pwr.recentreFails st = Sparse.get 0 s.pwr.recentreFails st + 1 := by
      rw [hu]
      exact get_set_same ..
    have htemp : u.pwr.recentreTemp = s.pwr.recentreTemp := by rw [hu]
    refine ⟨_, e, ?_⟩
    by_cases hn : Sparse.get 0 s.pwr.recentreFails st + 1 < 3 ∨ st ∈ s.health.stackFailed
    · rw [if_pos hn]
      exact ⟨hcores, hmem, nofun, fun _ => ⟨by rw [hpwr, hfails], hrec, by rw [hpwr, htemp], fun _ => ⟨hhealth, hcoves⟩,
        fun h3 h4 => absurd hn (not_or.2 ⟨by omega, h4⟩)⟩⟩
    · rw [if_neg hn]
      have hfault := faultOnly_moduleFatal { v with health := { v.health with
        stackFailed := s.health.stackFailed ++ [st] } } 14
      have hfatal := moduleFatal_moduleFatal { v with health := { v.health with
        stackFailed := s.health.stackFailed ++ [st] } } 14
      generalize moduleFatal { v with health := { v.health with stackFailed := s.health.stackFailed ++ [st] } } 14 = t at *
      have hp : t.pwr = u.pwr := (congrArg State.pwr hfault.frame).trans hpwr
      refine ⟨(congrArg State.cores hfault.frame).trans hcores, (congrArg State.mem hfault.frame).trans hmem, nofun,
        fun _ => ⟨by rw [hp, hfails], ?_, by rw [hp, htemp], fun h => absurd h hn, fun _ _ => ⟨?_, ?_⟩⟩⟩
      · exact recorded_between hrec rfl (hfault.counts _ _ (by omega) (by simp [episodeCode]) (by decide))
      · rw [hfault.frame]
      · exact moduleFatal_of_agree hfatal hrecov (congrArg TideState.now htide) (fun c => by simp only [coveAt, hcoves]) hcores hmem

/-! ### What the silicon did since the last report (R118, R125, R216, R480) -/

theorem newHbmUpset_eq (s : State) (st e) : ∃ l,
    newHbmUpset st s e = { s with mem := { s.mem with hbmLatent := l } } := by
  unfold newHbmUpset
  split <;> exact ⟨_, rfl⟩

theorem newUpset_eq (s : State) (die e) : ∃ c l,
    newUpset die s e = { s with cores := c, mem := { s.mem with nearLatent := l } } := by
  unfold newUpset addUpset
  split
  · exact ⟨_, _, rfl⟩
  · split <;> exact ⟨_, _, rfl⟩

theorem forEach_newHbmUpset_eq (s : State) (st l) :
    forEach s l (newHbmUpset st) = { s with mem := { s.mem with hbmLatent := (forEach s l (newHbmUpset st)).mem.hbmLatent } } :=
  forEach_rel (R := fun s t => t = { s with mem := { s.mem with hbmLatent := t.mem.hbmLatent } }) (fun _ => rfl)
    (fun {_ _ c} e e' => e'.trans (congrArg (fun y : State => { y with mem := { y.mem with hbmLatent := c.mem.hbmLatent } }) e))
    fun t e _ => by
      obtain ⟨_, h⟩ := newHbmUpset_eq t st e
      rw [h]

/-- Bit errors change the cores' lists and those of near memory. -/
def Upset (s t : State) : Prop := t = { s with cores := t.cores, mem := { s.mem with nearLatent := t.mem.nearLatent } }

theorem upset_forEach_newUpset (s : State) (die l) : Upset s (forEach s l (newUpset die)) :=
  forEach_rel (R := Upset) (fun _ => rfl)
    (fun {_ _ c} e e' => Eq.trans e' (congrArg (fun y : State =>
      { y with cores := c.cores, mem := { y.mem with nearLatent := c.mem.nearLatent } }) e))
    fun t e _ => by
      obtain ⟨_, _, h⟩ := newUpset_eq t die e
      rw [Upset, h]

/-- The state after a report's bit errors, before its routers. -/
def afterErrors (s : State) (die : Nat) (errors : List (Nat × Nat × Nat × Bool)) : State :=
  forEach { s with health := { s.health with dutyDone := Sparse.set 0 s.health.dutyDone (16 * die + 4) s.tide.now } }
    errors (newUpset die)

/-- What a report's bit errors do, when a compute die forwards them. -/
theorem afterErrors_outcome (s : State) (die : Nat) (errors) : let t := afterErrors s die errors
    Sparse.get 0 t.health.dutyDone (16 * die + 4) = s.tide.now
    ∧ (∀ u, errors = [u] → u.2.1 ≤ 6 →
        (coreAt t (16 * die + u.1 % 16)).upsets = (coreAt s (16 * die + u.1 % 16)).upsets ++ [u.2] ∧ t.mem = s.mem)
    ∧ (∀ u, errors = [u] → u.2.1 = 7 → u.2.2.2 = true → u.2.2.1 < 2 ^ 18 →
        t.mem.nearLatent = s.mem.nearLatent ++ [die * 2 ^ 18 + u.2.2.1] ∧ t.cores = s.cores)
    ∧ t = { s with
        cores := t.cores, mem := { s.mem with nearLatent := t.mem.nearLatent },
        health := { s.health with dutyDone := t.health.dutyDone } } := by
  intro t
  have hframe : Upset _ t := upset_forEach_newUpset ..
  have hduty : t.health.dutyDone = Sparse.set 0 s.health.dutyDone (16 * die + 4) s.tide.now := by rw [hframe]
  refine ⟨by rw [hduty, get_set_same], fun u hu hk => ?_, fun u hu hk hbad hw => ?_, by rw [hduty]; exact hframe⟩
  · subst hu
    simp only [t, afterErrors, forEach_cons, forEach_nil, newUpset, if_pos hk, addUpset, coreAt_updCore]
    exact ⟨rfl, rfl⟩
  · subst hu
    simp only [t, afterErrors, forEach_cons, forEach_nil, newUpset, if_neg (show ¬ u.2.1 ≤ 6 by omega),
      if_pos (show u.2.1 = 7 ∧ u.2.2.2 = true ∧ u.2.2.1 < 2 ^ 18 from ⟨hk, hbad, hw⟩), and_self]

/-- ERROR_COUNT_FORWARD of a compute die. -/
theorem errorCountForward_outcome {die : Nat} (s : State) (errors : List (Nat × Nat × Nat × Bool)) (router : Bool)
    (hd : die < 64) :
    ∃ t, exec (.errorCountForward ⟨die, errors, router⟩) s = .next t
        ∧ Sparse.get 0 t.health.dutyDone (16 * die + 4) = s.tide.now
        ∧ (∀ u, errors = [u] → u.2.1 ≤ 6 →
            (coreAt t (16 * die + u.1 % 16)).upsets = (coreAt s (16 * die + u.1 % 16)).upsets ++ [u.2] ∧ t.mem = s.mem)
        ∧ (∀ u, errors = [u] → u.2.1 = 7 → u.2.2.2 = true → u.2.2.1 < 2 ^ 18 →
            t.mem.nearLatent = s.mem.nearLatent ++ [die * 2 ^ 18 + u.2.2.1] ∧ t.cores = s.cores)
        ∧ (router = false → t = { s with
            cores := t.cores, mem := { s.mem with nearLatent := t.mem.nearLatent },
            health := { s.health with dutyDone := t.health.dutyDone } })
        ∧ (router = true → Sparse.get false t.health.routerFence die = true
          ∧ (Sparse.get 0 s.health.dieFence die = 0 → Sparse.get 0 t.health.dieFence die = 6
              ∧ Recorded s t 0x9030 (1297 + die))
          ∧ ∀ x y, x < 64 → y < 64 → x ≠ y → Sparse.get 0 t.health.dieFence x = 0 →
              Sparse.get 0 t.health.dieFence y = 0 → (torusRoute t x y).isSome = true) := by
  have e : exec (.errorCountForward ⟨die, errors, router⟩) s = .next
      (if router then loseDie (afterErrors s die errors) die 6 else afterErrors s die errors) := by
    show execErrorCountForward ⟨die, errors, router⟩ s = _
    simp only [execErrorCountForward, if_neg (show ¬ 80 ≤ die by omega), if_neg (show ¬ 64 ≤ die by omega), afterErrors]
  refine ⟨_, e, ?_⟩
  obtain ⟨hduty, hcore, hnear, hframe⟩ := afterErrors_outcome s die errors
  generalize afterErrors s die errors = v at *
  cases router with
  | false => exact ⟨hduty, hcore, hnear, fun _ => hframe, nofun⟩
  | true =>
    rw [if_pos rfl]
    obtain ⟨hhealth, htrace, hlose⟩ := loseDie_fence v die 6
    rw [fenceDie, if_pos rfl] at hhealth htrace hlose
    obtain ⟨hfence, hrouter, hdone, hfirst, hreach⟩ := fenceRouters_outcome v hd
    have hall := hfence.trans hlose
    generalize loseDie v die 6 = t at *
    generalize fenceRouters v die = w at *
    have hcores : t.cores = v.cores := by rw [hall.frame]
    have hmem : t.mem = v.mem := by rw [hall.frame]
    have hcore' : coreAt t = coreAt v := funext fun k => by rw [coreAt, hcores]; rfl
    have hroute : torusRoute t = torusRoute w := funext fun x => funext fun y =>
      torusRoute_congr (congrArg HealthState.routerFence hhealth) x y
    refine ⟨by rw [hhealth, hdone, hduty], by rwa [hcore', hmem], by rwa [hcores, hmem], nofun, fun _ => ⟨?_, fun h0 => ?_, ?_⟩⟩
    · rw [hhealth, hrouter]
    · obtain ⟨h6, hrec⟩ := hfirst (by rw [hframe]; exact h0)
      exact ⟨by rw [hhealth, h6], recorded_between hrec (eventCount_of_trace (by rw [hframe])) (eventCount_of_trace htrace)⟩
    · rw [hroute, hhealth]
      exact hreach

/-! ### Optical trim (R611) -/

theorem trimPort_eq (s : State) (engine p : Nat) (x : Int) : ∃ base alarm hour inputs,
    trimPort s engine p x = { s with
      pwr := { s.pwr with opticPower := base, opticAlarm := alarm },
      health := { s.health with wearHour := hour, wearIn := inputs } } := by
  unfold trimPort
  extract_lets alarm setAlarm setBase
  split
  · exact ⟨_, _, _, _, rfl⟩
  · split
    · exact ⟨_, _, _, _, rfl⟩
    · split
      · split
        · exact ⟨_, _, _, _, rfl⟩
        · obtain ⟨_, _, e⟩ := wearAdd_eq (setAlarm s true) 4 engine 1 1
          rw [e]
          exact ⟨_, _, _, _, rfl⟩
      · exact ⟨_, _, _, _, rfl⟩

/-- One port's reading by the port's mode and its value at training. -/
theorem trimPort_outcome (s : State) (engine p : Nat) (x : Int) : let t := trimPort s engine p x
    ((portAt s p).mode ≠ .active → Sparse.get none t.pwr.opticPower p = none ∧ p ∉ t.pwr.opticAlarm)
    ∧ ((portAt s p).mode = .active → Sparse.get none s.pwr.opticPower p = none →
        Sparse.get none t.pwr.opticPower p = some x ∧ t.pwr.opticAlarm = s.pwr.opticAlarm)
    ∧ ∀ b, (portAt s p).mode = .active → Sparse.get none s.pwr.opticPower p = some b →
      t.pwr.opticPower = s.pwr.opticPower
      ∧ (x < b - 200 → p ∈ t.pwr.opticAlarm) ∧ (b - 200 ≤ x → p ∉ t.pwr.opticAlarm) := by
  intro t
  refine ⟨fun hm => ?_, fun hm h0 => ?_, fun b hm hb => ?_⟩
  · simp only [t, trimPort, if_pos hm]
    exact ⟨get_set_same .., by simp⟩
  · simp only [t, trimPort, hm, h0, ne_eq, not_true_eq_false, if_false]
    exact ⟨get_set_same .., trivial⟩
  · simp only [t, trimPort, hm, hb, ne_eq, not_true_eq_false, if_false]
    by_cases hx : x < b - 200
    · rw [if_pos hx]
      by_cases ha : p ∈ s.pwr.opticAlarm
      · rw [if_pos (by simpa using ha)]
        exact ⟨rfl, fun _ => ha, fun h => by omega⟩
      · rw [if_neg (by simpa using ha)]
        obtain ⟨_, _, e⟩ := wearAdd_eq { s with pwr := { s.pwr with opticAlarm := s.pwr.opticAlarm ++ [p] } } 4 engine 1 1
        simp only [if_true, e]
        exact ⟨trivial, fun _ => by simp, fun h => by omega⟩
    · rw [if_neg hx]
      exact ⟨rfl, fun h => absurd h hx, fun _ => by simp⟩

/-- OPTICAL_TRIM of an engine. -/
theorem opticalTrim_outcome {engine : Nat} (s : State) (power : List Int) (h : engine < 16) :
    ∃ t, exec (.opticalTrim engine power) s = .next t ∧ t.cores = s.cores ∧ t.mem = s.mem
        ∧ t.coves = s.coves ∧ t.fab = s.fab
        ∧ ∀ x, power = [x] → t = trimPort s engine (64 + 4 * engine) x := by
  refine ⟨_, congrArg Host.Outcome.next (if_neg (by omega)), ?_⟩
  have hframe := forEach_rel (s := s) (l := (power.take 4).zipIdx)
    (f := fun s e => trimPort s engine (64 + 4 * engine + e.2) e.1)
    (R := fun s t => t.cores = s.cores ∧ t.mem = s.mem ∧ t.coves = s.coves ∧ t.fab = s.fab)
    (fun _ => ⟨rfl, rfl, rfl, rfl⟩)
    (fun ⟨h1, h2, h3, h4⟩ ⟨h1', h2', h3', h4'⟩ => ⟨h1'.trans h1, h2'.trans h2, h3'.trans h3, h4'.trans h4⟩)
    fun t e _ => by
      obtain ⟨_, _, _, _, e⟩ := trimPort_eq t engine (64 + 4 * engine + e.2) e.1
      rw [e]
      exact ⟨rfl, rfl, rfl, rfl⟩
  obtain ⟨hcores, hmem, hcoves, hfab⟩ := hframe
  exact ⟨hcores, hmem, hcoves, hfab, fun x hx => by subst hx; rfl⟩

/-! ### The statement -/

/-- A rail that is turned off. -/
theorem railOff_none {die rail : Nat} (cause : Nat) (h : 80 ≤ die ∨ 3 ≤ rail ∨ 4 * die + rail ∈ s.pwr.railsOff) :
    railOff s die rail cause = s := by
  simp only [railOff, List.contains_eq_mem, decide_eq_true_eq]
  exact if_pos h

/-- Settles O58: one lemma per command, over the rules of fences, of module-fatal faults, of the trip and of the shutdown. -/
theorem railsAndTemperatures : Obligations.RailsAndTemperatures := by
  intro s
  refine ⟨?rails, ?telemetry, ?errors, ?margin, ?die, ?hbm, ?timeout, ?back, ?recentre, ?optics⟩
  case rails =>
    rintro die rail i (rfl | rfl)
    · exact ⟨fun h => congrArg Host.Outcome.next (railOff_none 1 h), fun hd hr hk => ⟨_, rfl, railOff_outcome s hd hr hk⟩⟩
    · exact ⟨fun h => congrArg Host.Outcome.next (railOff_none 2 h), fun hd hr hk => ⟨_, rfl, railOff_outcome s hd hr hk⟩⟩
  case telemetry =>
    exact fun die vcore icore temp power trimEnd => ⟨fun h => congrArg Host.Outcome.next (if_pos h),
      regulatorTelemetry_outcome s vcore icore temp power trimEnd⟩
  case errors =>
    refine fun die errors router => ⟨fun h => congrArg Host.Outcome.next (if_pos h), fun h64 h80 => ?_,
      errorCountForward_outcome s errors router⟩
    refine ⟨forEach s errors (newHbmUpset (die - 64)), ?_, fun u hu hbad hw => ?_, forEach_newHbmUpset_eq ..⟩
    · show execErrorCountForward ⟨die, errors, router⟩ s = _
      simp only [execErrorCountForward, if_neg (show ¬ 80 ≤ die by omega), if_pos h64]
    · subst hu
      simp only [forEach_cons, forEach_nil, newHbmUpset, hbad, hw, and_self, if_true]
  case margin =>
    exact fun die margin eyes => ⟨fun h => congrArg Host.Outcome.next (if_pos h), marginRead_outcome s margin eyes⟩
  case die =>
    exact fun u temp => ⟨fun h => congrArg Host.Outcome.next (if_pos h), fun h =>
      ⟨_, congrArg Host.Outcome.next (if_neg (by omega)), tempTaken_takeTemp s u temp⟩⟩
  case hbm =>
    exact fun st temp => ⟨fun h => congrArg Host.Outcome.next (if_pos h), hbmTempReading_outcome s temp⟩
  case timeout =>
    intro due
    refine ⟨fun h => congrArg Host.Outcome.next ?_, fun hdue hoff => ?_⟩
    · rcases h with h | h
      · exact if_neg (by simpa [due] using h)
      · rw [thermalShutdown, if_pos h, ite_self]
    · have h := shutDown_thermalShutdown hoff
      exact ⟨_, congrArg Host.Outcome.next (if_pos hdue), by rw [h.pwr], by rw [h.pwr], h.event, h.fatal⟩
  case back => rfl
  case recentre =>
    exact fun st ok => ⟨fun h => congrArg Host.Outcome.next (if_pos h), hbmRecentre_outcome s ok⟩
  case optics =>
    refine fun engine power => ⟨fun h => congrArg Host.Outcome.next (if_pos h), fun h => ?_⟩
    obtain ⟨t, e, hcores, hmem, hcoves, hfab, ht⟩ := opticalTrim_outcome s power h
    exact ⟨t, e, hcores, hmem, hcoves, hfab, fun x hx => ht x hx ▸ trimPort_outcome s engine (64 + 4 * engine) x⟩

end Sys2Proof.Proofs
end

section
/-!
PROOFS. The writes that arm a table switch, and its ticks: O39.
-/
namespace Sys2Proof.Proofs
open Sys2Proof Sys2Proof.Machine Sys2Proof.Laws Sys2Proof.Claim

variable {s t u : State}

/-! ### Tables by their keys (R331) -/

/-- Different entries have different keys. -/
theorem tableKey_inj {k n e k' n' e' : Nat} {b b' : Bool} (hn : n < 64) (hn' : n' < 64) (he : e < 4096) (he' : e' < 4096)
    (h : tableKey k n b e = tableKey k' n' b' e') : k = k' ∧ n = n' ∧ b = b' ∧ e = e' := by
  unfold tableKey at h
  cases b <;> cases b' <;> simp only [natOf, Bool.false_eq_true, if_true, if_false] at h <;> simp <;> omega

theorem tableEntry_setTable (s : State) (k n : Nat) (b : Bool) (e : Nat) (v : DWord) :
    tableEntry (setTable s k n b e v) k n b e = v.toNat := by
  simp only [tableEntry, setTable, get_set_same]

theorem tableEntry_setTable_other {k n e k' n' e' : Nat} {b b' : Bool} (s : State) (v : DWord)
    (h : tableKey k' n' b' e' ≠ tableKey k n b e) :
    tableEntry (setTable s k n b e v) k' n' b' e' = tableEntry s k' n' b' e' := by
  simp only [tableEntry, setTable, get_set_other _ _ _ _ _ h]

theorem bitsOf_lt (n hi lo : Nat) : bitsOf n hi lo < 2 ^ (hi + 1 - lo) := by
  unfold bitsOf
  exact Nat.mod_lt _ (Nat.two_pow_pos _)

/-- A host-access error leaves the tide block, the coves, the cores and memory. -/
theorem hostError_kept (s : State) (fn kind off : Nat) : let t := hostError s fn kind off
    t.tide = s.tide ∧ t.cores = s.cores ∧ t.mem = s.mem ∧ t.coves = s.coves := by
  obtain ⟨_, _, _, _, hu, _, _, _, e⟩ := hostError_eq s fn kind off
  simp only [e, record_tide, record_cores, record_mem, record_coves, hu, and_self]

theorem exec_tideDataWrite {value : DWord} (h : BarOpen s (.tideDataWrite value)) :
    exec (.tideDataWrite value) s = effectTideDataWrite value s :=
  exec_barOpen (e := effectTideDataWrite value) h rfl rfl

/-- TIDE_DATA_WRITE by whether the index names a bank that stands, an active one, or neither. -/
theorem tideDataWrite_outcome {value : DWord} (h : BarOpen s (.tideDataWrite value)) :
    let i := s.tide.index.toNat
    let kind := bitsOf i 1 0
    let bank := bitOf i 2
    let inst := bitsOf i 9 4
    let e := bitsOf i 23 12
    let active := if kind = 0 then (coveTideAt s inst).bank else s.tide.mbank
    ∃ t, exec (.tideDataWrite value) s = .next t
      ∧ t.tide.index = BitVec.ofNat 32 (i - e * 4096 + (e + 1) % 4096 * 4096)
      ∧ t.cores = s.cores ∧ t.mem = s.mem ∧ t.coves = s.coves
      ∧ (bank = active ∨ 64 ≤ inst ∨ (kind ≠ 3 ∧ 16 ≤ inst) → t.tide.tables = s.tide.tables)
      ∧ (bank = active → (kind = 3 ∨ inst < 16) → inst < 64 → Recorded s t 0xB010 1296)
      ∧ (bank ≠ active → (kind = 3 ∨ inst < 16) → inst < 64 →
          tableEntry t kind inst bank e = value.toNat
          ∧ ∀ k n b m, k < 4 → n < 64 → m < 4096 → ¬ (k = kind ∧ n = inst ∧ b = bank ∧ m = e) →
              tableEntry t k n b m = tableEntry s k n b m) := by
  intro i kind bank inst e active
  have hinst : inst < 64 := bitsOf_lt ..
  have he : e < 4096 := bitsOf_lt ..
  obtain ⟨v, hv⟩ : ∃ v : State, v = if (if kind = 3 then 64 ≤ inst else 16 ≤ inst) then s
      else if bank = active then hostError s 0 2 0x10058 else setTable s kind inst bank e value := ⟨_, rfl⟩
  refine ⟨{ v with tide := { v.tide with index := BitVec.ofNat 32 (i - e * 4096 + (e + 1) % 4096 * 4096) } }, ?_, rfl, ?_⟩
  · rw [exec_tideDataWrite h, hv]
    rfl
  · by_cases hbeyond : kind ≠ 3 ∧ 16 ≤ inst
    · obtain ⟨hk, hi⟩ := hbeyond
      rw [if_pos (by rwa [if_neg hk])] at hv
      subst hv
      exact ⟨rfl, rfl, rfl, fun _ => rfl, fun _ h3 _ => by omega, fun _ h3 _ => by omega⟩
    · rw [if_neg (by split <;> omega)] at hv
      by_cases hactive : bank = active
      · rw [if_pos hactive] at hv
        obtain ⟨htide, hcores, hmem, hcoves⟩ := hostError_kept s 0 2 0x10058
        obtain ⟨hrec, -, -⟩ := hostErred_hostError s 0 2 0x10058
        rw [← hv] at htide hcores hmem hcoves hrec
        exact ⟨hcores, hmem, hcoves, fun _ => by rw [htide],
          fun _ _ _ => recorded_between hrec rfl rfl, fun hn => absurd hactive hn⟩
      · rw [if_neg hactive] at hv
        subst hv
        refine ⟨rfl, rfl, rfl, fun hn => ?_, fun hn => absurd hn hactive,
          fun _ _ _ => ⟨tableEntry_setTable .., fun k n b m _ hn hm hne => ?_⟩⟩
        · rcases hn with hn | hn | hn
          · exact absurd hn hactive
          · omega
          · exact absurd hn hbeyond
        · exact tableEntry_setTable_other s value fun hkey => hne (tableKey_inj hn hinst hm he hkey)

/-! ### Arming (R309, R315, R332) -/

/-- What a write comes to is what the claim says of a control. -/
theorem armed_clearCtrl (c : SwitchCtrl) (f : Failure) (reapply : Bool) : armed c f reapply = ctrlAfter c f reapply := by
  unfold armed ctrlAfter refuseCtrl
  cases f with
  | some _ => cases reapply <;> rfl
  | none => rfl

/-- The note of a failed check: event 0x1010 for the cove or the module. -/
def noteFailure (s : State) (c : Nat) (f : Failure) : State :=
  match f with | some (r, _) => record s 0x1010 .corrected c 1296 [r] | none => s

theorem noteFailure_noted (s : State) (c f) : Noted s (noteFailure s c f) := by
  cases f with
  | some f => exact noted_record ..
  | none => rfl

theorem noteFailure_recorded (s : State) (c : Nat) {f : Failure} (h : f.isSome = true) :
    Recorded s (noteFailure s c f) 0x1010 1296 := by
  obtain ⟨f, rfl⟩ := Option.isSome_iff_exists.1 h
  exact recorded_record _ _ _ _ _ _ (by decide) (by simp [episodeCode])

theorem tickFailure_congr (h : t.tide.now = s.tide.now) (tick : Nat) : tickFailure t tick = tickFailure s tick := by
  unfold tickFailure tickReason
  rw [h]

theorem tableEntry_congr (h : t.tide.tables = s.tide.tables) : tableEntry t = tableEntry s := by
  funext k n b e
  simp only [tableEntry, h]

theorem listFrom_congr (h : t.tide.tables = s.tide.tables) (kind inst bank n e) :
    listFrom t kind inst bank n e = listFrom s kind inst bank n e := by
  induction n generalizing e with
  | zero => rfl
  | succ n ih => rw [listFrom, listFrom, tableEntry_congr h, ih]

theorem tableList_congr (h : t.tide.tables = s.tide.tables) : tableList t = tableList s := by
  funext kind inst bank
  exact listFrom_congr h ..

/-- The checks of a module switch do not ask its control. -/
theorem moduleCheck_updMswitch (s : State) (g) : moduleCheck (updMswitch s g) = moduleCheck s := by
  have hlist : tableList (updMswitch s g) = tableList s := tableList_congr rfl
  have hport (n b cyc) : portCheck (updMswitch s g) n b cyc = portCheck s n b cyc := by
    simp only [portCheck, hlist]
    rfl
  have hwain (k n b cyc hot) : wainCheck (updMswitch s g) k n b cyc hot = wainCheck s k n b cyc hot := by
    simp only [wainCheck, hlist]
    rfl
  have htide : (updMswitch s g).tide.mbank = s.tide.mbank ∧ (updMswitch s g).tide.mhdr = s.tide.mhdr := ⟨rfl, rfl⟩
  simp only [moduleCheck, hport, hwain, htide]

/-- The checks of a cove's switch do not ask its control. -/
theorem clusterCheck_updCswitch (s : State) (c g d b) : clusterCheck (updCswitch s c g) d b = clusterCheck s d b := by
  have hlist : tableList (updCswitch s c g) = tableList s := tableList_congr rfl
  have hplan : planCheck (updCswitch s c g) = planCheck s := rfl
  have hbad : clusterBad (updCswitch s c g) = clusterBad s := rfl
  have hentry : tableEntry (updCswitch s c g) = tableEntry s := rfl
  simp only [clusterCheck, planCycle, planClock, hlist, hplan, hbad, hentry]

section
variable {value : Word}

/-- A write that arms the module switch alone. -/
theorem writeMswitch_arm (h0 : value.getLsbD 0 = true) (h4 : value.getLsbD 4 = false) :
    let f := firstFailure [tickFailure s s.tide.mswitchTick.toNat, moduleCheck s]
    writeMswitch s value = noteFailure (updMswitch s fun c => ctrlAfter (clearCtrl c value) f false) 16 f := by
  simp only [writeMswitch, h0, h4, Bool.not_true, Bool.not_false, Bool.false_eq_true, if_true, if_false, armed_clearCtrl,
    moduleCheck_updMswitch, tickFailure_congr (s := s) (t := updMswitch s fun c => clearCtrl c value) rfl]
  rfl

/-- A write that arms the module's re-apply alone. -/
theorem writeMswitch_reapply (h0 : value.getLsbD 0 = false) (h4 : value.getLsbD 4 = true) :
    let f := tickFailure s s.tide.mswitchTick.toNat
    writeMswitch s value = noteFailure (updMswitch s fun c => ctrlAfter (clearCtrl c value) f true) 16 f := by
  simp only [writeMswitch, h0, h4, Bool.not_true, Bool.not_false, Bool.false_eq_true, if_true, if_false, armed_clearCtrl,
    tickFailure_congr (s := s) (t := updMswitch s fun c => clearCtrl c value) rfl]
  rfl

end

section
variable {c : Nat} {value : Word}

/-- What a write of a cove's switch control leaves: the control after the cleared bits and then the check. -/
def cswitchWritten (s : State) (c : Nat) (value : Word) (f : Failure) (reapply : Bool) : State :=
  updCswitch (updCswitch s c fun x => clearCtrl x value) c fun x => ctrlAfter x f reapply

variable (hc : c < 16)
include hc

/-- A write that arms a cove's switch alone. -/
theorem writeCswitch_arm (h0 : value.getLsbD 0 = true) (h4 : value.getLsbD 4 = false) :
    let f := firstFailure [tickFailure s (coveTideAt s c).switchTick.toNat, clusterCheck s c (!(coveTideAt s c).bank)]
    writeCswitch s c value = noteFailure (cswitchWritten s c value f false) c f := by
  have hbank : (coveTideAt (updCswitch s c fun x => clearCtrl x value) c).bank = (coveTideAt s c).bank := by
    simp only [updCswitch, coveTideAt_updCoveTide]
  simp only [writeCswitch, if_neg (show ¬ 16 ≤ c by omega), h0, h4, Bool.not_true, Bool.not_false, Bool.false_eq_true,
    if_true, if_false, armed_clearCtrl, clusterCheck_updCswitch, hbank,
    tickFailure_congr (s := s) (t := updCswitch s c fun x => clearCtrl x value) rfl]
  rfl

/-- A write that arms a cove's re-apply alone. -/
theorem writeCswitch_reapply (h0 : value.getLsbD 0 = false) (h4 : value.getLsbD 4 = true) :
    let f := tickFailure s (coveTideAt s c).switchTick.toNat
    writeCswitch s c value = noteFailure (cswitchWritten s c value f true) c f := by
  simp only [writeCswitch, if_neg (show ¬ 16 ≤ c by omega), h0, h4, Bool.not_true, Bool.not_false, Bool.false_eq_true,
    if_true, if_false, armed_clearCtrl,
    tickFailure_congr (s := s) (t := updCswitch s c fun x => clearCtrl x value) rfl]
  rfl

end

/-- The outcome of a write of a cove's switch control. -/
theorem cswitchWritten_outcome (s : State) (c : Nat) (value : Word) (f : Failure) (reapply : Bool) :
    let t := noteFailure (cswitchWritten s c value f reapply) c f
    coveTideAt t c = { coveTideAt s c with ctrl := ctrlAfter (clearCtrl (coveTideAt s c).ctrl value) f reapply }
    ∧ (∀ d, d ≠ c → coveTideAt t d = coveTideAt s d)
    ∧ (f.isSome = true → Recorded s t 0x1010 1296) ∧ t.cores = s.cores ∧ t.mem = s.mem ∧ t.coves = s.coves := by
  have hnoted := noteFailure_noted (cswitchWritten s c value f reapply) c f
  have hrec (hf) := noteFailure_recorded (cswitchWritten s c value f reapply) c (f := f) hf
  have hself : coveTideAt (cswitchWritten s c value f reapply) c
      = { coveTideAt s c with ctrl := ctrlAfter (clearCtrl (coveTideAt s c).ctrl value) f reapply } := by
    simp only [cswitchWritten, updCswitch, coveTideAt_updCoveTide]
  have hother (d) (hd : d ≠ c) : coveTideAt (cswitchWritten s c value f reapply) d = coveTideAt s d := by
    simp only [cswitchWritten, updCswitch, coveTideAt_updCoveTide_other _ _ _ _ hd]
  have hkept : (cswitchWritten s c value f reapply).cores = s.cores ∧ (cswitchWritten s c value f reapply).mem = s.mem
    ∧ (cswitchWritten s c value f reapply).coves = s.coves ∧ (cswitchWritten s c value f reapply).trace = s.trace :=
    ⟨rfl, rfl, rfl, rfl⟩
  generalize cswitchWritten s c value f reapply = u at *
  generalize noteFailure u c f = t at *
  obtain ⟨hcores, hmem, hcoves, htrace⟩ := hkept
  have htide (d) : coveTideAt t d = coveTideAt u d := by rw [coveTideAt, hnoted]; rfl
  exact ⟨by rw [htide, hself], fun d hd => by rw [htide, hother d hd],
    fun hf => recorded_between (hrec hf) (eventCount_of_trace htrace) rfl, by rw [hnoted, hcores], by rw [hnoted, hmem],
    by rw [hnoted, hcoves]⟩

/-- The outcome of a write of TIDE_MSWITCH_CTRL. -/
theorem mswitchWritten_outcome (s : State) (value : Word) (f : Failure) (reapply : Bool) :
    let t := noteFailure (updMswitch s fun c => ctrlAfter (clearCtrl c value) f reapply) 16 f
    t.tide.mswitchCtrl = ctrlAfter (clearCtrl s.tide.mswitchCtrl value) f reapply
    ∧ (f.isSome = true → Recorded s t 0x1010 1296)
    ∧ t = { s with tide := { s.tide with mswitchCtrl := t.tide.mswitchCtrl }, trace := t.trace, host := t.host } := by
  have hnoted := noteFailure_noted (updMswitch s fun c => ctrlAfter (clearCtrl c value) f reapply) 16 f
  have hrec (hf) := noteFailure_recorded (updMswitch s fun c => ctrlAfter (clearCtrl c value) f reapply) 16 (f := f) hf
  generalize hx : ctrlAfter (clearCtrl s.tide.mswitchCtrl value) f reapply = x
  have hu : (updMswitch s fun c => ctrlAfter (clearCtrl c value) f reapply)
    = { s with tide := { s.tide with mswitchCtrl := x } } := by rw [updMswitch, hx]
  rw [hu] at hnoted hrec ⊢
  generalize noteFailure { s with tide := { s.tide with mswitchCtrl := x } } 16 f = t at *
  have htide : t.tide.mswitchCtrl = x := by rw [hnoted]
  exact ⟨htide, fun hf => recorded_between (hrec hf) rfl rfl, by rw [htide]; exact hnoted⟩

/-- A write to the switch registers of a cove names one of the 16. -/
theorem barOpen_cove {i : Instr} {fn c : Nat} {off : Option Nat} {op : Bool} (h : BarOpen s i)
    (hrow : barRow i = some (fn, off, decide (c < 16), op)) : c < 16 := by
  obtain ⟨hopen, -, -⟩ := barOpen_row h hrow
  simp only [Bool.and_eq_true, decide_eq_true_eq] at hopen
  exact hopen.1.1

/-- TIDE_C_RESTART_WRITE of a cove. -/
theorem exec_tideCRestartWrite {c fn : Nat} {value : DWord} (h : BarOpen s (.tideCRestartWrite c value fn)) :
    exec (.tideCRestartWrite c value fn) s = .next (if fn ≠ 0 then hostError s fn 3 (0x10828 + 0x40 * c)
      else if value.toNat ≤ s.tide.now ∨ (coveAt s c).mode ≠ .held ∨ (coveAt s c).ckpt.torn then
        hostError s 0 2 (0x10828 + 0x40 * c)
      else updCoveTide s c fun t => { t with restart := value }) := by
  have hc : c < 16 := barOpen_cove h rfl
  rw [exec_barOpen (e := effectTideCRestartWrite c value fn) h rfl rfl]
  exact congrArg Host.Outcome.next (if_neg (by omega))

/-- The writes of O39. -/
theorem switchWrites : Claim.SwitchWrites := by
  intro s
  refine ⟨fun value h => tideDataWrite_outcome h, fun value => ⟨fun h h0 h4 => ?_, fun h h0 h4 => ?_⟩,
    fun c value => ⟨fun h h0 h4 => ?_, fun h h0 h4 => ?_⟩, fun c fn value h => ?_⟩
  · refine ⟨_, ?_, mswitchWritten_outcome s value _ false⟩
    rw [exec_barOpen (e := effectModuleSwitchArm value) h rfl rfl, ← writeMswitch_arm h0 h4]
    rfl
  · refine ⟨_, ?_, mswitchWritten_outcome s value _ true⟩
    rw [exec_barOpen (e := effectModuleSwitchReapply value) h rfl rfl, ← writeMswitch_reapply h0 h4]
    rfl
  · refine ⟨_, ?_, cswitchWritten_outcome s c value _ false⟩
    rw [exec_barOpen (e := effectCoveSwitchArm c value) h rfl rfl, ← writeCswitch_arm (barOpen_cove h rfl) h0 h4]
    rfl
  · obtain ⟨hctrl, -, hrest⟩ := cswitchWritten_outcome s c value (tickFailure s (coveTideAt s c).switchTick.toNat) true
    refine ⟨_, ?_, hctrl, hrest⟩
    rw [exec_barOpen (e := effectCoveSwitchReapply c value) h rfl rfl, ← writeCswitch_reapply (barOpen_cove h rfl) h0 h4]
    rfl
  · rw [exec_tideCRestartWrite h]
    refine ⟨fun hfn => ⟨_, congrArg Host.Outcome.next (if_pos hfn), hostErred_hostError ..⟩, fun hfn hv hm ht => ?_,
      fun hfn hv => ⟨_, ?_, hostErred_hostError ..⟩⟩
    · rw [if_neg (not_not.2 hfn), if_neg (by simp [hm, ht]; omega)]
    · rw [if_neg (not_not.2 hfn), if_pos hv]

/-! ### Lagging units (R310, R315) -/

theorem get_foldl_set_true (l : List Nat) (t : Sparse Bool) (d : Nat) :
    Sparse.get false (l.foldl (fun t d => Sparse.set false t d true) t) d = (Sparse.get false t d || l.contains d) := by
  induction l generalizing t with
  | nil => simp
  | cons a l ih =>
    rw [List.foldl_cons, ih, get_set, List.contains_cons]
    by_cases h : d = a
    · simp [h]
    · rw [if_neg h, beq_false_of_ne h, Bool.false_or]

/-- A table of lagging units names those of its list. -/
theorem get_lagTable (l : List Nat) (d : Nat) : Sparse.get false (lagTable l) d = l.contains d := by
  rw [lagTable, get_foldl_set_true]
  simp [Sparse.get]

/-- Without held packets nothing is released. -/
theorem releaseHeld_of_none (h : s.tide.heldPackets = []) : releaseHeld s = s := by
  unfold releaseHeld
  rw [h]
  exact congrArg (fun l => { s with tide := { s.tide with heldPackets := l } }) h.symm

theorem mem_unitsOf_lt {bad badShore : List Nat} (hbad : ∀ d ∈ bad, d < 64) (hshore : ∀ d ∈ badShore, d < 16) {x : Nat}
    (h : x ∈ unitsOf bad badShore) : x < 80 := by
  rw [unitsOf, List.mem_append, List.mem_map] at h
  rcases h with h | ⟨d, h, rfl⟩
  · have := hbad x h
    omega
  · have := hshore d h
    omega

/-- The note of lagging units counts event 0x1012 alone. -/
theorem noted_noteLag (s : State) (c : Nat) (l : List Nat) : Noted s (noteLag s c l) :=
  forEach_rel (R := Noted) (fun _ => rfl) (fun h h' => h.trans h') fun t _ _ => noted_record t ..

theorem countsOnly_noteLag (s : State) (c : Nat) {l : List Nat} (h : ∀ x ∈ l, x < 80) :
    CountsOnly [0x1012] s (noteLag s c l) :=
  countsOnly_forEach fun t x hx => countsOnly_record t _ _ _
    (by have := h x hx; split <;> omega) (by decide)

theorem filter_true {l : List Nat} {p : Nat → Bool} (h : ∀ x ∈ l, p x = true) : l.filter p = l :=
  List.filter_eq_self.2 h

theorem filter_contains_nil (l : List Nat) : l.filter (([] : List Nat).contains ·) = [] := by simp

/-! ### The module switch (R274, R310, R315) -/

theorem checkPortQuota_eq (s : State) (c) : ∃ cv, checkPortQuota s c = { s with coves := cv } := by
  unfold checkPortQuota
  split <;> exact ⟨_, rfl⟩

theorem forEach_checkPortQuota_eq (s : State) (l : List Nat) :
    ∃ cv, forEach s l checkPortQuota = { s with coves := cv } := by
  induction l generalizing s with
  | nil => exact ⟨_, rfl⟩
  | cons a l ih =>
    obtain ⟨cv, e⟩ := checkPortQuota_eq s a
    obtain ⟨cv', e'⟩ := ih (checkPortQuota s a)
    exact ⟨cv', by rw [forEach_cons, e', e]⟩

/-- The module's bank, cycle and generation after a switch, before its events. -/
def moduleSwitched (s : State) (bad badShore : List Nat) : State :=
  let w := s.tide.mhdr.toNat
  { s with
    fab := { s.fab with routeCarried := bitOf w 13 },
    tide := { s.tide with
      mbank := !s.tide.mbank, cycleExp := bitsOf w 4 0, prevMgen := s.tide.mgen, mgen := bitsOf w 11 8, mhot := bitOf w 12,
      lag := lagTable bad, lagShore := lagTable badShore,
      mswitchCtrl := { s.tide.mswitchCtrl with arm := false, done := bad.isEmpty && badShore.isEmpty } } }

/-- The end of a module switch: its events, the port quotas and the hot stacks. -/
def moduleSwitchEnd (s : State) (units : List Nat) : State :=
  hotUpdate (forEach (noteLag (recordHead s 0x1011 .corrected []) 16 units) (List.range 16) checkPortQuota)

/-- The end of a module switch counts its event and leaves the rest of the switch. -/
theorem moduleSwitchEnd_outcome (s : State) {units : List Nat} (h : ∀ x ∈ units, x < 80) :
    ∃ cv n b tr ho, moduleSwitchEnd s units = { s with
      coves := cv, pwr := { s.pwr with changed := n }, tide := { s.tide with hotVoid := b }, trace := tr, host := ho }
    ∧ Recorded s (moduleSwitchEnd s units) 0x1011 1296 := by
  unfold moduleSwitchEnd
  obtain ⟨u, hu⟩ : ∃ u, u = recordHead s 0x1011 .corrected [] := ⟨_, rfl⟩
  have hrec : Recorded s u 0x1011 1296 := hu ▸ recorded_recordHead s _ _ _ (by simp [episodeCode])
  have hnoted : Noted s u := hu ▸ noted_record s ..
  rw [← hu]
  have hcount := countsOnly_noteLag u 16 h 0x1011 1296 (by decide) (by simp [episodeCode]) (by decide)
  have hlag := hnoted.trans (noted_noteLag u 16 units)
  generalize noteLag u 16 units = v at *
  obtain ⟨cv, hv⟩ := forEach_checkPortQuota_eq v (List.range 16)
  rw [hv]
  obtain ⟨cv', n, hw⟩ := hotUpdate_eq { v with coves := cv }
  rw [hw]
  rw [Noted] at hlag
  generalize v.trace = tr, v.host = ho at *
  subst hlag
  exact ⟨_, _, _, _, _, rfl, recorded_between hrec rfl hcount⟩

theorem exec_moduleSwitchTick {bad badShore : List Nat} (harm : s.tide.mswitchCtrl.arm = true)
    (htick : s.tide.mswitchTick.toNat ≤ s.tide.now) (hbad : ∀ d ∈ bad, d < 64) (hshore : ∀ d ∈ badShore, d < 16)
    (hroute : bitOf s.tide.mhdr.toNat 13 = false) : exec (.moduleSwitchTick bad badShore) s
      = .next (releaseHeld (moduleSwitchEnd (moduleSwitched s bad badShore) (unitsOf bad badShore))) := by
  show execModuleSwitchTick bad badShore s = _
  simp only [execModuleSwitchTick, harm, htick, hroute, and_self, not_true_eq_false, if_false, Bool.false_eq_true,
    filter_true (p := fun d => decide (d < 64)) (fun d hd => decide_eq_true (hbad d hd)),
    filter_true (p := fun d => decide (d < 16)) (fun d hd => decide_eq_true (hshore d hd)), moduleSwitched, moduleSwitchEnd,
    updMswitch]

/-- MODULE_SWITCH_TICK of an armed switch. -/
theorem moduleSwitchTick_outcome {bad badShore : List Nat} (harm : s.tide.mswitchCtrl.arm = true)
    (htick : s.tide.mswitchTick.toNat ≤ s.tide.now) (hheld : s.tide.heldPackets = [])
    (hbad : ∀ d ∈ bad, d < 64) (hshore : ∀ d ∈ badShore, d < 16) (hroute : bitOf s.tide.mhdr.toNat 13 = false) :
    ∃ t, exec (.moduleSwitchTick bad badShore) s = .next t
      ∧ t.tide.mbank = !s.tide.mbank ∧ t.tide.cycleExp = bitsOf s.tide.mhdr.toNat 4 0
      ∧ t.tide.prevMgen = s.tide.mgen ∧ t.tide.mgen = bitsOf s.tide.mhdr.toNat 11 8
      ∧ t.tide.mhot = bitOf s.tide.mhdr.toNat 12 ∧ t.fab.routeCarried = false
      ∧ t.tide.mswitchCtrl = { s.tide.mswitchCtrl with arm := false, done := bad.isEmpty && badShore.isEmpty }
      ∧ (∀ d, Sparse.get false t.tide.lag d = bad.contains d)
      ∧ (∀ d, Sparse.get false t.tide.lagShore d = badShore.contains d)
      ∧ Recorded s t 0x1011 1296 ∧ t.cores = s.cores ∧ t.mem = s.mem := by
  obtain ⟨cv, n, b, tr, ho, hend, hrec⟩ := moduleSwitchEnd_outcome (moduleSwitched s bad badShore)
    fun x hx => mem_unitsOf_lt hbad hshore hx
  have e := exec_moduleSwitchTick harm htick hbad hshore hroute
  rw [hend, releaseHeld_of_none (by simpa [moduleSwitched] using hheld)] at e
  rw [hend] at hrec
  exact ⟨_, e, rfl, rfl, rfl, rfl, rfl, hroute, rfl, get_lagTable bad, get_lagTable badShore, recorded_between hrec rfl rfl,
    rfl, rfl⟩

/-- The routing bank when a re-apply brings every unit across. -/
def routesReapplied (s : State) : State :=
  { s with fab := { s.fab with routeLag := [], routeCtrl := { s.fab.routeCtrl with done := true } } }

theorem reapplyRoutes_all (s : State) :
    reapplyRoutes s (unitsOf [] []) = recordHead (routesReapplied s) 0x200D .corrected [] := by
  simp only [reapplyRoutes, unitsOf, List.map_nil, List.append_nil, filter_contains_nil, if_true, updRouteCtrl,
    routesReapplied]

theorem countsOnly_reapplyRoutes_all (s : State) : CountsOnly [0x200D] s (reapplyRoutes s (unitsOf [] [])) := by
  rw [reapplyRoutes_all]
  exact .trans (t := routesReapplied s) (countsOnly_of_trace _ rfl) (countsOnly_record _ _ _ _ (by decide) (by decide))

/-- The module's bank once every unit has come across. -/
def moduleReapplied (s : State) : State :=
  { s with tide := { s.tide with
      lag := [], lagShore := [], mswitchCtrl := { s.tide.mswitchCtrl with reapply := false, done := true } } }

theorem exec_moduleReapplyTick (hre : s.tide.mswitchCtrl.reapply = true) (htick : s.tide.mswitchTick.toNat ≤ s.tide.now) :
    exec (.moduleReapplyTick [] []) s = .next (
      let u := recordHead (moduleReapplied s) 0x1013 .corrected []
      releaseHeld (if u.fab.routeCarried ∧ u.fab.routeLag ≠ [] then reapplyRoutes u (unitsOf [] []) else u)) := by
  show execModuleReapplyTick [] [] s = _
  simp only [execModuleReapplyTick, hre, htick, and_self, not_true_eq_false, if_false, filter_contains_nil, List.isEmpty_nil,
    Bool.and_self, if_true, Bool.or_true]
  rfl

/-- MODULE_REAPPLY_TICK when no unit is named. -/
theorem moduleReapplyTick_outcome (hre : s.tide.mswitchCtrl.reapply = true)
    (htick : s.tide.mswitchTick.toNat ≤ s.tide.now) (hheld : s.tide.heldPackets = []) :
    ∃ t, exec (.moduleReapplyTick [] []) s = .next t
      ∧ t.tide.lag = [] ∧ t.tide.lagShore = []
      ∧ t.fab.routeLag = (if s.fab.routeCarried then [] else s.fab.routeLag)
      ∧ t.tide.mswitchCtrl = { s.tide.mswitchCtrl with reapply := false, done := true }
      ∧ t.tide.mbank = s.tide.mbank ∧ t.tide.mgen = s.tide.mgen
      ∧ Recorded s t 0x1013 1296 ∧ t.cores = s.cores ∧ t.mem = s.mem ∧ t.coves = s.coves := by
  have e := exec_moduleReapplyTick hre htick
  obtain ⟨u, hu⟩ : ∃ u, u = recordHead (moduleReapplied s) 0x1013 .corrected [] := ⟨_, rfl⟩
  have hnoted : Noted (moduleReapplied s) u := hu ▸ noted_record ..
  have hrec : Recorded s u 0x1013 1296 :=
    recorded_between (hu ▸ recorded_recordHead (moduleReapplied s) _ _ _ (by simp [episodeCode]) : Recorded _ u 0x1013 1296)
      rfl rfl
  have hfab : u.fab = s.fab := by rw [hnoted]; rfl
  have htide : u.tide = (moduleReapplied s).tide := by rw [hnoted]
  dsimp only at e
  rw [← hu, hfab] at e
  by_cases hr : s.fab.routeCarried = true ∧ s.fab.routeLag ≠ []
  · have hroutes : Noted (routesReapplied u) (reapplyRoutes u (unitsOf [] [])) :=
      reapplyRoutes_all u ▸ noted_record ..
    have hcount := countsOnly_reapplyRoutes_all u
    have hkept : (routesReapplied u).tide = u.tide ∧ (routesReapplied u).fab.routeLag = []
      ∧ (routesReapplied u).cores = u.cores ∧ (routesReapplied u).mem = u.mem ∧ (routesReapplied u).coves = u.coves :=
      ⟨rfl, rfl, rfl, rfl, rfl⟩
    generalize routesReapplied u = v at *
    obtain ⟨hvtide, hvlag, hvcores, hvmem, hvcoves⟩ := hkept
    rw [if_pos hr] at e
    generalize reapplyRoutes u (unitsOf [] []) = t at *
    have ht : t.tide = (moduleReapplied s).tide := by rw [hroutes, ← htide, ← hvtide]
    rw [releaseHeld_of_none (by rw [ht]; exact hheld)] at e
    refine ⟨t, e, by rw [ht]; rfl, by rw [ht]; rfl, by rw [hroutes, if_pos hr.1]; exact hvlag, by rw [ht]; rfl, by rw [ht]; rfl,
      by rw [ht]; rfl, recorded_between hrec rfl (hcount _ _ (by decide) (by simp [episodeCode]) (by decide)), ?_, ?_, ?_⟩
    · rw [hroutes]; exact hvcores.trans (by rw [hnoted]; rfl)
    · rw [hroutes]; exact hvmem.trans (by rw [hnoted]; rfl)
    · rw [hroutes]; exact hvcoves.trans (by rw [hnoted]; rfl)
  · rw [if_neg hr, releaseHeld_of_none (by rw [htide]; exact hheld)] at e
    refine ⟨u, e, by rw [htide]; rfl, by rw [htide]; rfl, ?_, by rw [htide]; rfl, by rw [htide]; rfl, by rw [htide]; rfl, hrec,
      by rw [hnoted]; rfl, by rw [hnoted]; rfl, by rw [hnoted]; rfl⟩
    rw [hfab]
    split
    · next h => exact not_not.1 fun h' => hr ⟨h, h'⟩
    · rfl

/-! ### A cove's switch (R309, R310, R315, R325) -/

/-- COVE_SWITCH_TICK may act: the tick is not pending for the next slack water. -/
abbrev mayTry (s : State) (c : Nat) : Prop := (coveTideAt s c).pending = false ∨ (coveTideAt s c).slack = true

theorem not_waits_of_mayTry {c : Nat} (h : mayTry s c) :
    ¬ ((coveTideAt s c).pending = true ∧ ¬ (coveTideAt s c).slack = true) := by
  rcases h with h | h <;> simp [h]

/-- Its tick lies in slack water, or the cove is held. -/
abbrev inSlackWater (s : State) (c : Nat) : Prop :=
  ((coveAt s c).mode = .running ∧ (coveTideAt s c).slack = true ∧ (coveTideAt s c).switchTick.toNat ≤ slackEnd s c
    ∧ ((coveTideAt s c).slackStart ≤ (coveTideAt s c).switchTick.toNat ∨ (coveTideAt s c).pending = true))
  ∨ (coveAt s c).mode = .held

/-- The switch changes the cove's clock point. -/
abbrev changesClock (s : State) (c : Nat) : Prop := planClock s c (!(coveTideAt s c).bank) ≠ (coveTideAt s c).clock

/-- A refused switch. -/
def switchRefused (s : State) (c r : Nat) : State :=
  recordCove (updCswitch (updCoveTide s c fun t => { t with pending := false }) c fun x => refuseCtrl x r 0) 0x1010
    .corrected c [r]

/-- A refused switch leaves its reason in the control, and event 0x1010. -/
theorem switchRefused_outcome (s : State) (c r : Nat) : let t := switchRefused s c r
    Recorded s t 0x1010 1296
    ∧ coveTideAt t c = { coveTideAt s c with
        pending := false
        ctrl := { (coveTideAt s c).ctrl with arm := false, refused := true, reason := r, entry := 0 } }
    ∧ t.coves = s.coves ∧ t.cores = s.cores ∧ t.mem = s.mem := by
  obtain ⟨v, hv⟩ : ∃ v, v = updCswitch (updCoveTide s c fun t => { t with pending := false }) c
    fun x => refuseCtrl x r 0 := ⟨_, rfl⟩
  have hkept : v.coves = s.coves ∧ v.cores = s.cores ∧ v.mem = s.mem ∧ v.trace = s.trace := by
    rw [hv]
    exact ⟨rfl, rfl, rfl, rfl⟩
  have hself : coveTideAt v c = { coveTideAt s c with
      pending := false
      ctrl := { (coveTideAt s c).ctrl with arm := false, refused := true, reason := r, entry := 0 } } := by
    rw [hv]
    simp only [updCswitch, coveTideAt_updCoveTide, refuseCtrl]
  have hrec := recorded_record v 0x1010 .corrected c 1296 [r] (by decide) (by simp [episodeCode])
  unfold switchRefused
  dsimp only
  rw [← hv, recordCove_eq, coveTideAt_record, record_coves, record_cores, record_mem]
  obtain ⟨hcoves, hcores, hmem, htrace⟩ := hkept
  exact ⟨recorded_between hrec (eventCount_of_trace htrace) rfl, hself, hcoves, hcores, hmem⟩

/-- A deferral shows in the cove's state, with event 0x7006. -/
theorem deferAction_outcome (s : State) (c n r : Nat) : let t := deferAction s c n r
    coveAt t c = { coveAt s c with deferred := true, action := n, reason := r }
    ∧ Recorded s t 0x7006 1296 ∧ t.tide = s.tide ∧ t.cores = s.cores ∧ t.mem = s.mem := by
  obtain ⟨v, hv⟩ : ∃ v, v = updCove s c fun v => { v with deferred := true, action := n, reason := r } := ⟨_, rfl⟩
  have hkept : v.tide = s.tide ∧ v.cores = s.cores ∧ v.mem = s.mem ∧ v.trace = s.trace := by
    rw [hv]
    exact ⟨rfl, rfl, rfl, rfl⟩
  have hself : coveAt v c = { coveAt s c with deferred := true, action := n, reason := r } := by
    rw [hv, coveAt_updCove]
  have hrec := recorded_record v 0x7006 .corrected c 1296 [r] (by decide) (by simp [episodeCode])
  unfold deferAction
  dsimp only
  rw [← hv, recordCove_eq, coveAt_record, record_tide, record_cores, record_mem]
  obtain ⟨htide, hcores, hmem, htrace⟩ := hkept
  exact ⟨hself, recorded_between hrec (eventCount_of_trace htrace) rfl, htide, hcores, hmem⟩

/-- A deferral of an action that does not fit closes the slack water's actions from it on. -/
theorem deferRest_outcome (s : State) (c n : Nat) : let t := deferRest s c n
    coveAt t c = { coveAt s c with barred := n, deferred := true, action := n, reason := 7 }
    ∧ Recorded s t 0x7006 1296 ∧ t.tide = s.tide ∧ t.cores = s.cores ∧ t.mem = s.mem := by
  obtain ⟨hself, hrec, htide, hcores, hmem⟩ := deferAction_outcome (updCove s c fun v => { v with barred := n }) c n 7
  rw [coveAt_updCove] at hself
  exact ⟨hself, recorded_between hrec rfl rfl, htide, hcores, hmem⟩

/-- A switch that is refused and deferred counts event 0x7006. -/
theorem switchDeferred_recorded (s : State) (c : Nat) : Recorded s (deferRest (switchRefused s c 10) c 5) 0x7006 1296 := by
  obtain ⟨-, hrec, -⟩ := deferRest_outcome (switchRefused s c 10) c 5
  refine recorded_between hrec ?_ rfl
  unfold switchRefused
  rw [recordCove_eq, eventCount_record_other _ _ _ (by decide) (by decide) (by simp [episodeCode]) (by decide)]
  rfl

/-- The cove's tables after a switch, before its events. -/
def coveSwitched (s : State) (c : Nat) (bad badShore : List Nat) : State :=
  updCswitch (updCoveTide (switchBank s c true) c fun t =>
      { t with lag := lagTable bad, lagShore := lagTable badShore, pending := false }) c
    fun x => { x with arm := false, done := bad.isEmpty && badShore.isEmpty }

/-- The end of a cove's switch: its events and the end of action 5. -/
def coveSwitchEnd (s : State) (c : Nat) (units : List Nat) : State :=
  actionEnded (noteLag (recordCove s 0x1011 .corrected c []) c units) c 5

section
variable {c : Nat} (bad badShore : List Nat)

theorem exec_coveSwitchTick (hc : c < 16) (harm : (coveTideAt s c).ctrl.arm = true)
    (htick : (coveTideAt s c).switchTick.toNat ≤ s.tide.now) :
    exec (.coveSwitchTick c bad badShore) s = .next (
      if (coveTideAt s c).pending = true ∧ ¬ (coveTideAt s c).slack = true then s
      else if ¬ inSlackWater s c then switchRefused s c 4
      else if (coveAt s c).barred ≠ 0 then updCoveTide s c fun t => { t with pending := true }
      else if earlierActions s c then s
      else if changesClock s c ∧ ¬ fitsSlack s c 20000 = true then deferRest (switchRefused s c 10) c 5
      else
        let bad := bad.filter fun d => (coveAt s c).dies.getLsbD d
        let badShore := badShore.filter fun d => decide (d < 16)
        releaseHeld (coveSwitchEnd (coveSwitched s c bad badShore) c (unitsOf bad badShore))) := by
  show execCoveSwitchTick c bad badShore s = _
  simp only [execCoveSwitchTick, hc, harm, htick, and_self, not_true_eq_false, if_false, switchRefused, coveSwitched,
    coveSwitchEnd]

end

/-- The cove's tables after a switch. -/
theorem coveTideAt_switchBank (s : State) (c : Nat) (adopt : Bool) : coveTideAt (switchBank s c adopt) c =
    { coveTideAt s c with
      bank := !(coveTideAt s c).bank, prevBank := (coveTideAt s c).bank, prevGen := (coveTideAt s c).gen
      prevClock := (coveTideAt s c).clock
      gen := if adopt then planGen s c (!(coveTideAt s c).bank) else (coveTideAt s c).gen
      clock := planClock s c (!(coveTideAt s c).bank), hot := planHot s c (!(coveTideAt s c).bank), lag := [], lagShore := []
      clockBusy := if planClock s c (!(coveTideAt s c).bank) = (coveTideAt s c).clock then (coveTideAt s c).clockBusy
        else s.tide.now + 20000 } := by
  unfold switchBank
  dsimp only
  rw [coveTideAt_updCoveTide]
  rfl

theorem switchBank_eq (s : State) (c adopt) : ∃ cv ct,
    switchBank s c adopt = { s with coves := cv, tide := { s.tide with coves := ct } } := ⟨_, _, rfl⟩

theorem coveSwitched_eq (s : State) (c bad badShore) : ∃ cv ct,
    coveSwitched s c bad badShore = { s with coves := cv, tide := { s.tide with coves := ct } } := by
  obtain ⟨_, _, e⟩ := switchBank_eq s c true
  rw [coveSwitched, e]
  exact ⟨_, _, rfl⟩

/-- The end of a cove's switch counts its event, ends action 5, and leaves the tables. -/
theorem coveSwitchEnd_outcome (s : State) (c : Nat) {units : List Nat} (h : ∀ x ∈ units, x < 80) :
    let t := coveSwitchEnd s c units
    Recorded s t 0x1011 1296 ∧ (coveAt t c).actionsDone = 5
    ∧ t.tide = s.tide ∧ t.cores = s.cores ∧ t.mem = s.mem := by
  dsimp only [coveSwitchEnd]
  obtain ⟨u, hu⟩ : ∃ u, u = recordCove s 0x1011 .corrected c [] := ⟨_, rfl⟩
  have hrec : Recorded s u 0x1011 1296 := hu ▸ recorded_record s _ _ _ _ _ (by decide) (by simp [episodeCode])
  have hnoted : Noted s u := hu ▸ noted_record ..
  rw [← hu]
  have hcount := countsOnly_noteLag u c h 0x1011 1296 (by decide) (by simp [episodeCode]) (by decide)
  have hall := hnoted.trans (noted_noteLag u c units)
  generalize noteLag u c units = v at *
  refine ⟨recorded_between hrec rfl ((eventCount_of_trace rfl).trans hcount), by rw [actionEnded, coveAt_updCove], ?_⟩
  rw [actionEnded, updCove_tide, updCove_cores, updCove_mem, hall]
  exact ⟨rfl, rfl, rfl⟩

section
variable {c : Nat} {bad badShore : List Nat} (hc : c < 16)
include hc

/-- COVE_SWITCH_TICK that switches. -/
theorem coveSwitchTick_switches (harm : (coveTideAt s c).ctrl.arm = true)
    (htick : (coveTideAt s c).switchTick.toNat ≤ s.tide.now) (htry : mayTry s c) (hin : inSlackWater s c)
    (hbar : (coveAt s c).barred = 0) (hearly : earlierActions s c = false)
    (hfit : changesClock s c → fitsSlack s c 20000 = true) (hheld : s.tide.heldPackets = [])
    (hbad : ∀ d ∈ bad, (coveAt s c).dies.getLsbD d = true) (hshore : ∀ d ∈ badShore, d < 16) :
    let tt := coveTideAt s c
    ∃ t, exec (.coveSwitchTick c bad badShore) s = .next t ∧ Recorded s t 0x1011 1296
      ∧ (coveTideAt t c).bank = !tt.bank ∧ (coveTideAt t c).prevBank = tt.bank
      ∧ (coveTideAt t c).gen = planGen s c (!tt.bank) ∧ (coveTideAt t c).prevGen = tt.gen
      ∧ (coveTideAt t c).clock = planClock s c (!tt.bank)
      ∧ (changesClock s c → (coveTideAt t c).clockBusy = s.tide.now + 20000)
      ∧ (∀ d, Sparse.get false (coveTideAt t c).lag d = bad.contains d)
      ∧ (coveTideAt t c).ctrl = { tt.ctrl with arm := false, done := bad.isEmpty && badShore.isEmpty }
      ∧ (coveAt t c).actionsDone = 5 ∧ t.cores = s.cores ∧ t.mem = s.mem := by
  intro tt
  have hbad64 : ∀ d ∈ bad, d < 64 := fun d hd => BitVec.lt_of_getLsbD (hbad d hd)
  have e := exec_coveSwitchTick bad badShore hc harm htick
  rw [if_neg (not_waits_of_mayTry htry), if_neg (not_not.2 hin), if_neg (not_not.2 hbar), hearly,
    if_neg Bool.false_ne_true, if_neg fun h => h.2 (hfit h.1),
    filter_true (p := fun d => (coveAt s c).dies.getLsbD d) hbad,
    filter_true (p := fun d => decide (d < 16)) (fun d hd => decide_eq_true (hshore d hd))] at e
  have htables : coveTideAt (coveSwitched s c bad badShore) c = { coveTideAt (switchBank s c true) c with
      lag := lagTable bad, lagShore := lagTable badShore, pending := false
      ctrl := { (coveTideAt (switchBank s c true) c).ctrl with arm := false, done := bad.isEmpty && badShore.isEmpty } } := by
    simp only [coveSwitched, updCswitch, coveTideAt_updCoveTide]
  rw [coveTideAt_switchBank] at htables
  obtain ⟨cv, ct, heq⟩ := coveSwitched_eq s c bad badShore
  have hkept : (coveSwitched s c bad badShore).trace = s.trace ∧ (coveSwitched s c bad badShore).cores = s.cores
      ∧ (coveSwitched s c bad badShore).mem = s.mem ∧ (coveSwitched s c bad badShore).tide.heldPackets = [] := by
    rw [heq]
    exact ⟨rfl, rfl, rfl, hheld⟩
  obtain ⟨htrace, hcores, hmem, hnone⟩ := hkept
  dsimp only at e
  obtain ⟨hrec, hdone, htide, hcores', hmem'⟩ := coveSwitchEnd_outcome (coveSwitched s c bad badShore) c
    fun x hx => mem_unitsOf_lt hbad64 hshore hx
  generalize coveSwitched s c bad badShore = v at *
  generalize coveSwitchEnd v c (unitsOf bad badShore) = t at *
  rw [releaseHeld_of_none (by rw [htide, hnone])] at e
  have htt : coveTideAt t c = coveTideAt v c := by simp only [coveTideAt, htide]
  refine ⟨t, e, recorded_between hrec (eventCount_of_trace htrace) rfl, ?_⟩
  rw [htt, htables]
  exact ⟨rfl, rfl, rfl, rfl, rfl, fun h => if_neg h, get_lagTable bad, rfl, hdone, hcores'.trans hcores, hmem'.trans hmem⟩

/-- COVE_REAPPLY_TICK when no unit is named. -/
theorem coveReapplyTick_outcome (hre : (coveTideAt s c).ctrl.reapply = true)
    (hclock : (coveTideAt s c).prevClock = (coveTideAt s c).clock ∨ (coveTideAt s c).slack = true)
    (htick : (coveTideAt s c).switchTick.toNat ≤ s.tide.now) (hheld : s.tide.heldPackets = []) :
    let tt := coveTideAt s c
    ∃ t, exec (.coveReapplyTick c [] []) s = .next t
      ∧ (coveTideAt t c).lag = [] ∧ (coveTideAt t c).lagShore = []
      ∧ (tt.prevClock = tt.clock → (coveTideAt t c).clockBusy = tt.clockBusy)
      ∧ (coveTideAt t c).ctrl = { tt.ctrl with reapply := false, done := true }
      ∧ (coveTideAt t c).bank = tt.bank ∧ (coveTideAt t c).gen = tt.gen ∧ Recorded s t 0x1013 1296
      ∧ t.cores = s.cores ∧ t.mem = s.mem ∧ t.coves = s.coves := by
  intro tt
  obtain ⟨busy, hbusy, v, hv, e⟩ : ∃ busy, (tt.prevClock = tt.clock → busy = tt.clockBusy) ∧ ∃ v,
      v = updCswitch (updCoveTide s c fun t => { t with lag := [], lagShore := [], clockBusy := busy }) c
        (fun x => { x with reapply := false, done := x.done || true })
      ∧ exec (.coveReapplyTick c [] []) s = .next (releaseHeld (recordCove v 0x1013 .corrected c [])) := by
    refine ⟨if tt.prevClock != tt.clock && 0 != (lagging tt.lag).length then s.tide.now + 20000 else tt.clockBusy,
      fun h => by simp [h], _, rfl, ?_⟩
    show execCoveReapplyTick c [] [] s = _
    have hgo : ¬ (¬ (c < 16 ∧ (coveTideAt s c).ctrl.reapply = true ∧ (coveTideAt s c).switchTick.toNat ≤ s.tide.now)
        ∨ ((coveTideAt s c).prevClock ≠ (coveTideAt s c).clock ∧ ¬ (coveTideAt s c).slack = true)) := by
      rcases hclock with h | h <;> simp [hc, hre, htick, h]
    simp only [execCoveReapplyTick, if_neg hgo, filter_contains_nil, List.isEmpty_nil, Bool.and_self, if_true]
    rfl
  have hself : coveTideAt v c = { tt with
      lag := [], lagShore := [], clockBusy := busy, ctrl := { tt.ctrl with reapply := false, done := true } } := by
    rw [hv]
    simp only [updCswitch, coveTideAt_updCoveTide, Bool.or_true, tt]
  have hkept : v.trace = s.trace ∧ v.cores = s.cores ∧ v.mem = s.mem ∧ v.coves = s.coves ∧ v.tide.heldPackets = [] := by
    rw [hv]
    exact ⟨rfl, rfl, rfl, rfl, hheld⟩
  obtain ⟨htrace, hcores, hmem, hcoves, hnone⟩ := hkept
  have hrec := recorded_record v 0x1013 .corrected c 1296 [] (by decide) (by simp [episodeCode])
  rw [releaseHeld_of_none (by rw [recordCove_eq, record_tide, hnone])] at e
  refine ⟨_, e, ?_⟩
  rw [recordCove_eq, coveTideAt_record, record_cores, record_mem, record_coves, hself]
  exact ⟨rfl, rfl, hbusy, rfl, rfl, rfl, recorded_between hrec (eventCount_of_trace htrace) rfl, hcores, hmem, hcoves⟩

end

/-! ### The end of a clock change, and packets held past a cycle -/

/-- The cycle that a held packet waits for. -/
def holdCycle (s : State) (h : HeldPacket) : Nat :=
  if 1280 ≤ h.packet.srcUnit then s.tide.cycleExp
  else match placeCove s (placeOf ((packetAddr s h.packet).getD h.packet.dest.toNat)) with
    | some c => planCycle s c (coveTideAt s c).bank
    | none => s.tide.cycleExp

theorem exec_generationHoldTimeout (s : State) : exec .generationHoldTimeout s = .next (
    let past := fun (h : HeldPacket) => decide (h.tick + 2 ^ holdCycle s h < s.tide.now)
    forEach { s with tide := { s.tide with heldPackets := s.tide.heldPackets.filter fun h => !past h } }
      (s.tide.heldPackets.filter past) fun s h =>
        refusePacket s h.port h.packet ((packetAddr s h.packet).getD h.packet.dest.toNat) .generationReject) := rfl

/-- Packets that wait within their cycle stay held. -/
theorem generationHoldTimeout_waits (h : ∀ p ∈ s.tide.heldPackets, s.tide.now ≤ p.tick + 2 ^ holdCycle s p) :
    exec .generationHoldTimeout s = .next s := by
  rw [exec_generationHoldTimeout]
  have hnone : s.tide.heldPackets.filter (fun p => decide (p.tick + 2 ^ holdCycle s p < s.tide.now)) = [] :=
    List.filter_eq_nil_iff.2 fun p hp => by simpa using h p hp
  have hall : s.tide.heldPackets.filter (fun p => !decide (p.tick + 2 ^ holdCycle s p < s.tide.now)) = s.tide.heldPackets :=
    List.filter_eq_self.2 fun p hp => by simpa using h p hp
  simp only [hnone, hall, forEach_nil]

/-- The only packet held past its cycle is refused. -/
theorem generationHoldTimeout_refuses {p : HeldPacket} (h : s.tide.heldPackets = [p]) (hsrc : 1280 ≤ p.packet.srcUnit)
    (hpast : p.tick + 2 ^ s.tide.cycleExp < s.tide.now) :
    ∃ u, u = { s with tide := { s.tide with heldPackets := [] } }
      ∧ exec .generationHoldTimeout s = .next (refusePacket u p.port p.packet
          ((packetAddr u p.packet).getD p.packet.dest.toNat) .generationReject) := by
  refine ⟨_, rfl, ?_⟩
  have hcycle : holdCycle s p = s.tide.cycleExp := if_pos hsrc
  rw [exec_generationHoldTimeout]
  dsimp only
  rw [h, List.filter_cons_of_neg (by simp [hcycle, hpast]), List.filter_cons_of_pos (by simp [hcycle, hpast])]
  rfl

/-! ### The statement -/

/-- A switch that is not armed, or whose tick has not come. -/
theorem not_armed {b : Bool} {tick now : Nat} (h : b = false ∨ now < tick) : ¬ (b = true ∧ tick ≤ now) := by
  rintro ⟨hb, ht⟩
  rcases h with h | h
  · exact Bool.false_ne_true (h.symm.trans hb)
  · omega

/-- The ticks of O39. -/
theorem switchTicks : Claim.SwitchTicks := by
  intro s
  refine ⟨fun bad badShore => ⟨fun h => ?_, moduleSwitchTick_outcome⟩,
    fun bad badShore => ⟨fun h => ?_, moduleReapplyTick_outcome⟩, fun c bad badShore hc => ?cove,
    generationHoldTimeout_waits, fun p => generationHoldTimeout_refuses⟩
  · exact congrArg Host.Outcome.next (if_pos (not_armed h))
  · exact congrArg Host.Outcome.next (if_pos (not_armed h))
  case cove =>
    intro v tt inside mayTry' opens changes
    refine ⟨fun h => ?_, fun harm htick => ⟨fun hno => ?_, fun hyes hout => ?_, fun hyes hin hbar => ?_,
      fun hyes hin hbar hearly => ?_, fun hyes hin hopen hch hfit => ?_, fun hyes hin hopen hfit hheld hbad hshore => ?_⟩,
      fun h => ?_, fun hre hclock htick hheld => coveReapplyTick_outcome hc hre hclock htick hheld, fun h0 hnow => ?_,
      fun h => ?_⟩
    · exact congrArg Host.Outcome.next (if_pos fun h' => not_armed h h'.2)
    · rw [exec_coveSwitchTick _ _ hc harm htick, if_pos (by simpa [mayTry', tt] using hno)]
    · rw [exec_coveSwitchTick _ _ hc harm htick, if_neg (not_waits_of_mayTry hyes),
        if_pos hout]
      exact ⟨_, rfl, switchRefused_outcome s c 4⟩
    · rw [exec_coveSwitchTick _ _ hc harm htick, if_neg (not_waits_of_mayTry hyes),
        if_neg (not_not.2 hin), if_pos hbar]
    · rw [exec_coveSwitchTick _ _ hc harm htick, if_neg (not_waits_of_mayTry hyes),
        if_neg (not_not.2 hin), if_neg (not_not.2 hbar), if_pos hearly]
    · obtain ⟨hbar, hearly⟩ := hopen
      obtain ⟨-, hctrl, -⟩ := switchRefused_outcome s c 10
      obtain ⟨hself, -, htide, -⟩ := deferRest_outcome (switchRefused s c 10) c 5
      refine ⟨deferRest (switchRefused s c 10) c 5, ?_, ?_⟩
      · rw [exec_coveSwitchTick _ _ hc harm htick, if_neg (not_waits_of_mayTry hyes),
          if_neg (not_not.2 hin), if_neg (not_not.2 hbar), hearly, if_neg Bool.false_ne_true,
          if_pos ⟨hch, by rw [hfit]; exact Bool.false_ne_true⟩]
      · have htables : coveTideAt (deferRest (switchRefused s c 10) c 5) c = coveTideAt (switchRefused s c 10) c := by
          simp only [coveTideAt, htide]
        rw [htables, hctrl, hself]
        exact ⟨rfl, rfl, rfl, rfl, rfl, rfl, rfl, switchDeferred_recorded s c⟩
    · exact coveSwitchTick_switches hc harm htick hyes hin hopen.1 hopen.2 hfit hheld hbad hshore
    · refine congrArg Host.Outcome.next (if_pos ?_)
      rcases h with h | h | ⟨hne, hslack⟩
      · exact .inl fun h' => not_armed (.inl h) h'.2
      · exact .inl fun h' => not_armed (.inr h) h'.2
      · exact .inr ⟨hne, by simpa using hslack⟩
    · exact congrArg Host.Outcome.next (if_pos ⟨h0, hnow⟩)
    · refine congrArg Host.Outcome.next (if_neg ?_)
      rintro ⟨h0, hnow⟩
      rcases h with h | h
      · exact h0 h
      · exact absurd h (Nat.not_lt.2 hnow)

/-- Settles O39: the writes and the ticks. -/
theorem armedSwitches : Obligations.ArmedSwitches := ⟨switchWrites, switchTicks⟩

end Sys2Proof.Proofs
end

section
/-!
PROOFS. The commit, the start and the discard of a step: O29.
-/
namespace Sys2Proof.Proofs
open Sys2Proof Sys2Proof.Machine Sys2Proof.Laws Sys2Proof.Claim

variable {s t u : State}

/-! ### Changes of every core of a cove -/

/-- What each change establishes for its own item and no change undoes holds of every item. -/
theorem forEach_establish {α : Type} {p : State → α → Prop} {l : List α} {f : State → α → State}
    (est : ∀ t a, p (f t a) a) (keep : ∀ t a b, p t b → p (f t a) b) {a : α} (h : a ∈ l ∨ p s a) : p (forEach s l f) a := by
  induction l generalizing s with
  | nil => simpa using h
  | cons b l ih =>
    refine ih ?_
    rcases h with h | h
    · rcases List.mem_cons.1 h with rfl | h
      · exact .inr (est s a)
      · exact .inl h
    · exact .inr (keep s b a h)

/-- A change of each core's contexts by an idempotent `h`: the listed cores' contexts are changed, those of others are not. -/
theorem ctxAt_forEach {l : List Nat} {f : State → Nat → State} {h : Nat → Ctx → Ctx} (idem : ∀ k x, h k (h k x) = h k x)
    (own : ∀ t i k, ctxAt (f t i) i k = h k (ctxAt t i k)) (other : ∀ t i j k, j ≠ i → ctxAt (f t i) j k = ctxAt t j k)
    (i k : Nat) : ctxAt (forEach s l f) i k = if i ∈ l then h k (ctxAt s i k) else ctxAt s i k := by
  induction l generalizing s with
  | nil => simp
  | cons a l ih =>
    rw [forEach_cons, ih]
    by_cases ha : i = a
    · subst ha
      rw [own]
      simp [idem]
    · rw [other _ _ _ _ ha]
      simp [ha]

/-- A change of cores that leaves their contexts. -/
theorem ctxAt_updCore_of_ctxs {f : CoreState → CoreState} (h : ∀ x, (f x).ctxs = x.ctxs) (s : State) (i j k : Nat) :
    ctxAt (updCore s i f) j k = ctxAt s j k := by
  unfold ctxAt
  by_cases hj : j = i
  · subst hj
    rw [coreAt_updCore, h]
  · rw [coreAt_updCore_other _ _ _ _ hj]

theorem ctxAt_of_cores (h : t.cores = s.cores) (i k : Nat) : ctxAt t i k = ctxAt s i k := by
  simp only [ctxAt, coreAt, h]

/-! ### Memory and packets -/

theorem hbmStore_eq (s : State) (off : Nat) (l : List Byte) : ∃ m, hbmStore s off l = { s with mem := m } := by
  have hwrite : ∀ (l : List Byte) (s : State) (off : Nat), ∃ m, hbmWrite s off l = { s with mem := m } := by
    intro l
    induction l with
    | nil => exact fun s _ => ⟨_, rfl⟩
    | cons b l ih =>
      intro s off
      obtain ⟨m, e⟩ := ih (hbmSet s off b) (off + 1)
      exact ⟨m, e⟩
  have hmark : ∀ (l : List Nat) (s : State), ∃ x, l.foldl (fun s b => markDirty s s.moduleId b) s = { s with mem := x } := by
    intro l
    induction l with
    | nil => exact fun s => ⟨_, rfl⟩
    | cons b l ih =>
      intro s
      obtain ⟨x, e⟩ : ∃ x, markDirty s s.moduleId b = { s with mem := x } := by
        unfold markDirty
        split
        · split <;> exact ⟨_, rfl⟩
        · exact ⟨_, rfl⟩
      obtain ⟨y, e'⟩ := ih (markDirty s s.moduleId b)
      exact ⟨y, by rw [List.foldl_cons, e', e]⟩
  obtain ⟨m, e⟩ := hwrite l s off
  obtain ⟨x, e'⟩ := hmark (blocksOf off l.length) (hbmWrite s off l)
  exact ⟨x, e'.trans (by rw [e])⟩

theorem forEach_queueOut_eq {α : Type} (s : State) (l : List α) (o : State → α → OutPacket) : ∃ f,
    forEach s l (fun s a => queueOut s (o s a)) = { s with fab := f } := by
  induction l generalizing s with
  | nil => exact ⟨_, rfl⟩
  | cons a l ih =>
    obtain ⟨f, e⟩ := ih (queueOut s (o s a))
    exact ⟨f, e⟩

/-! ### Step records and digest tables (R391, R399, R400) -/

/-- `w` is `v` but for the figures of digest tables and step records. -/
def SameButFigures (v w : Cove) : Prop := w = { v with
  digestStep := w.digestStep, digestTable := w.digestTable, mismatch := w.mismatch, missing := w.missing,
  received := w.received, srCount := w.srCount, srMissed := w.srMissed }

theorem SameButFigures.refl (v : Cove) : SameButFigures v v := rfl

theorem SameButFigures.trans {v w x : Cove} (h : SameButFigures v w) (h' : SameButFigures w x) : SameButFigures v x :=
  Eq.trans h' (congrArg (fun y : Cove => { y with
    digestStep := x.digestStep, digestTable := x.digestTable, mismatch := x.mismatch, missing := x.missing,
    received := x.received, srCount := x.srCount, srMissed := x.srMissed }) h)

/-- Only figures of cove `c`, memory, waiting packets and notes differ, and of the events that open no episode only those of
missed records and tables were counted. -/
structure Figures (c : Nat) (s t : State) : Prop where
  frame : t = { s with coves := t.coves, mem := t.mem, fab := t.fab, trace := t.trace, host := t.host }
  cove : SameButFigures (coveAt s c) (coveAt t c)
  others : ∀ d, d ≠ c → coveAt t d = coveAt s d
  regs : t.host.regs = s.host.regs
  counts : CountsOnly [0x6020, 0x6032] s t

theorem Figures.refl (c : Nat) (s : State) : Figures c s s := ⟨rfl, .refl _, fun _ _ => rfl, rfl, .refl s⟩

theorem Figures.trans {c : Nat} (h : Figures c s t) (h' : Figures c t u) : Figures c s u where
  frame := h'.frame.trans (congrArg (fun x : State =>
    { x with coves := u.coves, mem := u.mem, fab := u.fab, trace := u.trace, host := u.host }) h.frame)
  cove := h.cove.trans h'.cove
  others := fun d hd => (h'.others d hd).trans (h.others d hd)
  regs := h'.regs.trans h.regs
  counts := h.counts.trans h'.counts

theorem figures_recordCove {c code k : Nat} (s : State) (v d) (h : code ∈ [0x6020, 0x6032]) :
    Figures c s (recordCove s code v k d) where
  frame := by
    obtain ⟨_, _, e⟩ := record_frame s code v k 1296 d
    rw [recordCove, e]
  cove := by rw [recordCove_eq, coveAt_record]; exact .refl _
  others := fun d _ => by rw [recordCove_eq, coveAt_record]
  regs := record_regs ..
  counts := countsOnly_record _ _ _ _ (by decide) h

theorem figures_updCove {c : Nat} {f : Cove → Cove} (s : State) (h : ∀ v, SameButFigures v (f v)) :
    Figures c s (updCove s c f) where
  frame := rfl
  cove := by rw [coveAt_updCove]; exact h _
  others := fun d hd => coveAt_updCove_other s c f d hd
  regs := rfl
  counts := countsOnly_of_trace _ rfl

theorem figures_mem (c : Nat) (s : State) (m) : Figures c s { s with mem := m } :=
  ⟨rfl, .refl _, fun _ _ => rfl, rfl, countsOnly_of_trace _ rfl⟩

theorem figures_fab (c : Nat) (s : State) (f) : Figures c s { s with fab := f } :=
  ⟨rfl, .refl _, fun _ _ => rfl, rfl, countsOnly_of_trace _ rfl⟩

theorem figures_writeStepRecord (s : State) (c outcome cause tick) : Figures c s (writeStepRecord s c outcome cause tick) := by
  unfold writeStepRecord
  dsimp only
  split
  · obtain ⟨m, e⟩ := hbmStore_eq s _ (stepRecord s c outcome cause tick)
    rw [e]
    exact (figures_mem c s m).trans (figures_updCove _ (by exact fun _ => rfl))
  · exact (figures_updCove s (by exact fun _ => rfl)).trans (figures_recordCove _ _ _ (by decide))

theorem figures_buildDigest (s : State) (c step) : Figures c s (buildDigest s c step) := by
  unfold buildDigest
  extract_lets v table s1 bytes
  have h1 : Figures c s s1 := figures_updCove s fun _ => rfl
  split
  · exact h1.trans (figures_recordCove _ _ _ (by decide))
  · next off _ =>
    obtain ⟨m, e⟩ := hbmStore_eq s1 off bytes
    extract_lets s2
    have h2 : Figures c s s2 := by
      simp only [s2, e]
      exact h1.trans (figures_mem c s1 m)
    obtain ⟨f, e'⟩ := forEach_queueOut_eq s2 (digestPeers s2 c) fun s p =>
      ⟨headUnit s, some c, 0xE, none, true,
        dataPacket s 1 0 (moduleGenOf s (headUnit s)) 0xE 1296 0 0 (Sparse.get 0#32 (coveAt s c).tags 0)
          (hbmAddr p.2 (off + 4096 * (p.1 + 1))) bytes⟩
    rw [e']
    exact h2.trans (figures_fab c s2 f)

theorem figures_checkMissing (s : State) (c) : Figures c s (checkMissing s c) := by
  unfold checkMissing
  dsimp only
  split
  · refine forEach_rel (R := Figures c) (.refl c) .trans fun t p _ => ?_
    split
    · exact .refl c t
    · exact (figures_updCove t (by exact fun _ => rfl)).trans (figures_recordCove _ _ _ (by decide))
  · exact .refl c s

/-- The counters are no counts of events. -/
theorem bumpCoveSet_eq (s : State) (c index n) : ∃ tr,
    bumpCoveSet s c index n = { s with trace := tr } ∧ tr.sources = s.trace.sources := by
  unfold bumpCoveSet
  split <;> exact ⟨_, rfl, rfl⟩

theorem bumpCore_eq (s : State) (core index n) : ∃ tr,
    bumpCore s core index n = { s with trace := tr } ∧ tr.sources = s.trace.sources := by
  unfold bumpCore
  split <;> exact ⟨_, rfl, rfl⟩

/-! ### Context 0 reset on every core (R499, rung 1) -/

theorem resetContext_resetContext (x : Ctx) : resetContext (resetContext x) = resetContext x := by
  cases x with
  | mk mode => cases mode <;> rfl

theorem discardStream_cases (s : State) (i k : Nat) : discardStream s i k = s
    ∨ ∃ n, discardStream s i k = updCtx (bumpCore s i 3 n) i k fun x => { x with stream := none } := by
  unfold discardStream
  dsimp only
  split
  · exact .inr ⟨_, rfl⟩
  · exact .inl rfl

/-- Only cores and the counters differ. -/
def CoresOnly (s t : State) : Prop := (∃ co tr, t = { s with cores := co, trace := tr }) ∧ t.trace.sources = s.trace.sources

theorem CoresOnly.trans (h : CoresOnly s t) (h' : CoresOnly t u) : CoresOnly s u := by
  obtain ⟨⟨_, _, rfl⟩, e⟩ := h
  obtain ⟨⟨_, _, rfl⟩, e'⟩ := h'
  exact ⟨⟨_, _, rfl⟩, e'.trans e⟩

theorem coresOnly_discardStream (s : State) (i k) : CoresOnly s (discardStream s i k) := by
  rcases discardStream_cases s i k with e | ⟨n, e⟩
  · rw [e]
    exact ⟨⟨_, _, rfl⟩, rfl⟩
  · obtain ⟨tr, h, hsrc⟩ := bumpCore_eq s i 3 n
    rw [e, h]
    exact ⟨⟨_, _, rfl⟩, hsrc⟩

/-- One core's context 0, reset. -/
def resetCore (s : State) (i : Nat) : State := updCtx (discardStream s i 0) i 0 resetContext

theorem ctxAt_discardStream (s : State) (i k j l : Nat) : ctxAt (discardStream s i k) j l = ctxAt s j l
    ∨ (j = i ∧ l = k ∧ ctxAt (discardStream s i k) j l = { ctxAt s j l with stream := none }) := by
  rcases discardStream_cases s i k with e | ⟨n, e⟩
  · exact .inl (by rw [e])
  · have hbump : ∀ j l, ctxAt (bumpCore s i 3 n) j l = ctxAt s j l := ctxAt_of_cores (bumpCore_cores ..)
    rw [e]
    by_cases hj : j = i
    · subst hj
      by_cases hl : l = k
      · subst hl
        exact .inr ⟨rfl, rfl, by rw [ctxAt_updCtx, hbump]⟩
      · exact .inl (by rw [ctxAt_updCtx_other _ _ _ _ _ hl, hbump])
    · exact .inl (by rw [ctxAt_updCtx_core _ _ _ _ _ _ hj, hbump])

/-- Context 0 of a reset core is reset, and its other contexts stay. -/
theorem ctxAt_resetCore (s : State) (i k : Nat) :
    ctxAt (resetCore s i) i k = if k = 0 then resetContext (ctxAt s i k) else ctxAt s i k := by
  unfold resetCore
  by_cases hk : k = 0
  · subst hk
    rw [ctxAt_updCtx, if_pos rfl]
    rcases ctxAt_discardStream s i 0 i 0 with e | ⟨-, -, e⟩ <;> rw [e]
    rfl
  · rw [ctxAt_updCtx_other _ _ _ _ _ hk, if_neg hk]
    exact (ctxAt_discardStream s i 0 i k).resolve_right fun h => hk h.2.1

theorem ctxAt_resetCore_other {i j : Nat} (s : State) (k) (h : j ≠ i) : ctxAt (resetCore s i) j k = ctxAt s j k := by
  unfold resetCore
  rw [ctxAt_updCtx_core _ _ _ _ _ _ h]
  exact (ctxAt_discardStream s i 0 j k).resolve_right fun h' => h h'.1

theorem coresOnly_resetCore (s : State) (i) : CoresOnly s (resetCore s i) :=
  (coresOnly_discardStream s i 0).trans ⟨⟨_, _, rfl⟩, rfl⟩

theorem coresOnly_forEach {α : Type} {l : List α} {f : State → α → State} (h : ∀ t a, CoresOnly t (f t a)) :
    CoresOnly s (forEach s l f) :=
  forEach_rel (R := CoresOnly) (fun _ => ⟨⟨_, _, rfl⟩, rfl⟩) .trans fun t a _ => h t a

theorem forEach_updThresh_eq (s : State) (l : List Nat) (k : Nat) (f : ThreshRun → ThreshRun) : ∃ cl,
    forEach s l (fun s c => updThresh s c k f) = { s with clusters := cl } := by
  induction l generalizing s with
  | nil => exact ⟨_, rfl⟩
  | cons a l ih =>
    obtain ⟨cl, e⟩ := ih (updThresh s a k f)
    exact ⟨cl, e⟩

/-- What resetting context 0 of a cove does. -/
theorem resetContexts_outcome (s : State) (c : Nat) : let t := resetContexts s c 0
    (∃ co cl tr m, t = { s with cores := co, clusters := cl, trace := tr, mem := m })
    ∧ t.trace.sources = s.trace.sources
    ∧ ∀ i k, ctxAt t i k = if i ∈ coresOf (coveAt s c) ∧ k = 0 then resetContext (ctxAt s i k) else ctxAt s i k := by
  obtain ⟨v, hv⟩ : ∃ v, v = forEach s (coresOf (coveAt s c)) resetCore := ⟨_, rfl⟩
  have hcores : CoresOnly s v := hv ▸ coresOnly_forEach coresOnly_resetCore
  have hctx : ∀ i k, ctxAt v i k =
      if i ∈ coresOf (coveAt s c) ∧ k = 0 then resetContext (ctxAt s i k) else ctxAt s i k := by
    intro i k
    rw [hv, ctxAt_forEach (h := fun k x => if k = 0 then resetContext x else x) (fun k x => ?_) ctxAt_resetCore
      fun t i j k h => ctxAt_resetCore_other t k h]
    · by_cases hi : i ∈ coresOf (coveAt s c) <;> simp [hi]
    · by_cases hk : k = 0 <;> simp [hk, resetContext_resetContext]
  obtain ⟨cl, hcl⟩ := forEach_updThresh_eq v (clustersOf (coveAt s c)) 0 fun _ => ThreshRun.reset
  have e : resetContexts s c 0 = { v with clusters := cl, mem := { v.mem with
      pinned := v.mem.pinned.filter fun p => !(clustersOf (coveAt s c)).contains p.cluster } } := by
    have hv' : forEach s (coresOf (coveAt s c)) (fun s i => updCtx (discardStream s i 0) i 0 resetContext) = v := hv.symm
    unfold resetContexts
    dsimp only
    rw [if_pos rfl, hv', hcl]
  rw [e]
  obtain ⟨⟨co, tr, rfl⟩, hsrc⟩ := hcores
  exact ⟨⟨_, _, _, _, rfl⟩, hsrc, hctx⟩

/-! ### The discard of a step (R388, R496) -/

/-- A discard up to its notices: the contexts, the record, event 0x6002 with its count, and the notices. -/
def discardNoticed (s : State) (c cause : Nat) : State :=
  let d := s.tide.now
  let s := bumpCoveSet (recordCove (writeStepRecord (resetContexts s c 0) c 2 cause d) 0x6002 .stepContained c [cause])
    (some c) 2 1
  forEach s (noticeModules s c) fun s m => queueOut s ⟨headUnit s, none, 0xF, none, true, discardNotice s c m d⟩

/-- What a discard leaves of its cove before the replay is awaited. -/
def discardedCove (cause : Nat) (key : Option Nat) (v : Cove) : Cove :=
  { v with
    replaying := true, replays := v.replays + 1, lastCause := cause, lastFail := key.getD 0,
    stats := { StepStats.reset with conflicts := if cause = 5 then v.stats.conflicts else [] },
    arrivals := v.arrivals.filter fun a => a.ctx != 0, commits := [], commitTick := 0, shards := [], owed := none,
    failed := none, closing := [], closed := [], digestPoint := 0 }

/-- A discard after its notices, up to its undo. -/
def discardAwaits (s : State) (c cause : Nat) (key : Option Nat) (d : Tick) : State :=
  let s := updCove s c (discardedCove cause key)
  awaitReplayFrom (forEach s (coresOf (coveAt s c)) fun s i => updCore s i fun x =>
    { x with digest := 0#64, landed := x.landed.filter fun p => p.ctx != 0,
             notices := x.notices.filter fun p => p.ctx != 0, refusedAhead := [], lateSeen := [] }) c d

theorem discardNow_eq (s : State) (c cause key) :
    discardNow s c cause key = undoOrTear (discardAwaits (discardNoticed s c cause) c cause key s.tide.now) c := rfl

theorem discardNoticed_outcome (s : State) (c cause : Nat) : let t := discardNoticed s c cause
    t.tide = s.tide ∧ SameButFigures (coveAt s c) (coveAt t c)
    ∧ (∀ i k, ctxAt t i k = if i ∈ coresOf (coveAt s c) ∧ k = 0 then resetContext (ctxAt s i k) else ctxAt s i k)
    ∧ Recorded s t 0x6002 1296 ∧ CountsOnly [0x6020, 0x6032, 0x6002] s t := by
  dsimp only [discardNoticed]
  obtain ⟨⟨co, cl, tr, m, hframe⟩, hsrc, hctx⟩ := resetContexts_outcome s c
  have hfig := figures_writeStepRecord (resetContexts s c 0) c 2 cause s.tide.now
  generalize resetContexts s c 0 = v at *
  generalize writeStepRecord v c 2 cause s.tide.now = w at *
  obtain ⟨x, hx⟩ : ∃ x, x = recordCove w 0x6002 .stepContained c [cause] := ⟨_, rfl⟩
  have hrec : Recorded w x 0x6002 1296 := hx ▸ recorded_record w _ _ _ _ _ (by decide) (by simp [episodeCode])
  have hcount : CountsOnly [0x6002] w x := hx ▸ countsOnly_record w _ _ _ (by decide) (by decide)
  have hnoted : Noted w x := hx ▸ noted_record w ..
  rw [← hx]
  obtain ⟨tr', hbump, hsrc'⟩ := bumpCoveSet_eq x (some c) 2 1
  obtain ⟨f, hout⟩ := forEach_queueOut_eq (bumpCoveSet x (some c) 2 1) (noticeModules (bumpCoveSet x (some c) 2 1) c)
    fun t m => ⟨headUnit t, none, 0xF, none, true, discardNotice t c m s.tide.now⟩
  rw [hout, hbump]
  have htide : x.tide = s.tide := by rw [hnoted, hfig.frame, hframe]
  have hcove : coveAt x c = coveAt w c := by rw [coveAt, hnoted]; rfl
  have hcove' : coveAt v c = coveAt s c := by rw [coveAt, hframe]; rfl
  have hcores : x.cores = v.cores := by rw [hnoted, hfig.frame]
  have hmore : CountsOnly [0x6020, 0x6032] s w := (countsOnly_of_sources _ hsrc).trans hfig.counts
  refine ⟨htide, ?_, fun i k => (ctxAt_of_cores hcores i k).trans (hctx i k), ?_, ?_⟩
  · rw [← hcove']
    exact hcove ▸ hfig.cove
  · refine recorded_between hrec (hmore _ _ (by decide) (by simp [episodeCode]) (by decide)) ?_
    simp only [eventCount, hsrc']
  · exact (hmore.mono (by simp)).trans ((hcount.mono (by simp)).trans (countsOnly_of_sources _ hsrc'))

theorem discardAwaits_outcome (s : State) (c cause : Nat) (key : Option Nat) (d : Tick) :
    let t := discardAwaits s c cause key d
    t.trace = s.trace
    ∧ coveAt t c = { discardedCove cause key (coveAt s c) with
        dMax := max d (coveAt s c).dMax
        awaitReplay := some (roundUp (max d (coveAt s c).dMax + planSlack s c (coveTideAt s c).bank)
          (planQuantum s c (coveTideAt s c).bank)) }
    ∧ coveTideAt t c = { coveTideAt s c with slack := true, slackStart := d }
    ∧ ∀ i k, ctxAt t i k = ctxAt s i k := by
  dsimp only [discardAwaits]
  obtain ⟨v, hv⟩ : ∃ v, v = updCove s c (discardedCove cause key) := ⟨_, rfl⟩
  obtain ⟨w, hw⟩ : ∃ w, w = forEach v (coresOf (coveAt v c)) fun s i => updCore s i fun x =>
    { x with digest := 0#64, landed := x.landed.filter fun p => p.ctx != 0,
             notices := x.notices.filter fun p => p.ctx != 0, refusedAhead := [], lateSeen := [] } := ⟨_, rfl⟩
  rw [← hv, ← hw]
  have hframe : w = { v with cores := w.cores } := by
    rw [hw]
    exact forEach_rel (R := fun s t => t = { s with cores := t.cores }) (fun _ => rfl)
      (fun {_ _ c} e e' => e'.trans (congrArg (fun y : State => { y with cores := c.cores }) e)) fun _ _ _ => rfl
  have hctx : ∀ i k, ctxAt w i k = ctxAt s i k := by
    intro i k
    have hkept : ctxAt v i k = ctxAt s i k := by rw [hv]; rfl
    rw [hw, ← hkept]
    exact forEach_same (fun u => ctxAt u i k) fun t j _ => ctxAt_updCore_of_ctxs (by exact fun _ => rfl) t j i k
  have hcove : coveAt w c = discardedCove cause key (coveAt s c) := by
    rw [hframe]
    exact hv ▸ coveAt_updCove ..
  have htide : w.tide = s.tide := by rw [hframe, hv, updCove_tide]
  have htrace : w.trace = s.trace := by rw [hframe, hv, updCove_trace]
  have htables : tableEntry w = tableEntry s := tableEntry_congr (congrArg TideState.tables htide)
  unfold awaitReplayFrom
  dsimp only
  refine ⟨htrace, ?_, ?_, hctx⟩
  · have hbank : coveTideAt w c = coveTideAt s c := by simp only [coveTideAt, htide]
    rw [coveAt_updCoveTide, coveAt_updCove, hcove, hbank]
    simp only [planSlack, planQuantum, htables, discardedCove]
  · rw [coveTideAt_updCoveTide]
    simp only [coveTideAt, updCove_tide, htide]

/-- A discard of a step that has not passed its return point, from the cove as it stands. -/
theorem discardNow_outcome {c cause : Nat} (s : State) (key) (hcause : cause ≠ 5)
    (hret : (coveAt s c).ckpt.returnTick = 0) :
    StepDiscarded s (discardNow s c cause key) c cause (coveAt s c).dMax
    ∧ CountsOnly [0x6020, 0x6032, 0x6002] s (discardNow s c cause key) := by
  obtain ⟨htide, hfig, hctx, hrec, hcount⟩ := discardNoticed_outcome s c cause
  obtain ⟨htrace, hcove, htables, hctx'⟩ := discardAwaits_outcome (discardNoticed s c cause) c cause key s.tide.now
  rw [discardNow_eq]
  generalize discardNoticed s c cause = v at *
  generalize discardAwaits v c cause key s.tide.now = t at *
  have hbank : coveTideAt v c = coveTideAt s c := by simp only [coveTideAt, htide]
  have hentry : tableEntry v = tableEntry s := tableEntry_congr (congrArg TideState.tables htide)
  rw [hfig, hbank] at hcove
  rw [hbank] at htables
  have hend : undoOrTear t c = t := by
    unfold undoOrTear
    dsimp only
    rw [if_pos (by rw [hcove]; exact hret)]
  have hsrc : ∀ c r, eventCount t c r = eventCount v c r := fun c r => eventCount_of_trace htrace
  rw [hend]
  simp only [planSlack, planQuantum, hentry] at hcove
  refine ⟨⟨recorded_between hrec rfl (hsrc ..), ?_, ?_, ?_, ?_, ?_, ?_, ?_, ?_, htables, fun i hi => ?_, fun i k hk => ?_⟩,
    hcount.trans fun c r _ _ _ => hsrc c r⟩
  · rw [hcove]; rfl
  · rw [hcove]; rfl
  · rw [hcove]; rfl
  · rw [hcove]; rfl
  · rw [hcove]; rfl
  · rw [hcove]; rfl
  · rw [hcove]
    simp only [discardedCove, if_neg hcause]
    rfl
  · rw [hcove]
    rfl
  · rw [hctx', hctx, if_pos ⟨hi, rfl⟩]
  · rw [hctx', hctx, if_neg fun h => hk h.2]

/-! ### A discard that a rule demands (R498, R507) -/

/-- A cove without commit arrivals has not sent all of them. -/
theorem allCommitted_of_none {v : Cove} (h : v.commits = []) : allCommitted v = false := by
  unfold allCommitted
  rw [h]
  cases coresOf v <;> simp

theorem inEngineReset_of_not {c : Nat} (h : engineRecovery s c = false) : inEngineReset s c = false := by
  unfold engineRecovery at h
  exact (Bool.or_eq_false_iff.1 h).1

section
variable {c : Nat} (hmode : (coveAt s c).mode = .running) (hslack : (coveTideAt s c).slack = false)
  (hawait : (coveAt s c).awaitReplay = none)
include hmode hslack hawait

/-- A first or second run of a step is discarded at once, unless its fault repeats. -/
theorem discardAnyway_now {cause : Nat} {key : Option Nat} (hengine : engineRecovery s c = false)
    (hruns : (coveAt s c).replays < 2)
    (hrepeat : ¬ ((coveAt s c).replaying = true ∧ key.isSome = true ∧ (coveAt s c).lastCause = cause
      ∧ key = some (coveAt s c).lastFail)) :
    discardAnyway s c cause key = discardNow (updCove s c fun v => { v with commits := [] }) c cause key := by
  have hcove : coveAt (updCove s c fun v => { v with commits := [] }) c = { coveAt s c with commits := [] } :=
    coveAt_updCove ..
  have hengine' : engineRecovery (updCove s c fun v => { v with commits := [] }) c = false := hengine
  unfold discardAnyway discardStep
  dsimp only
  rw [hcove, coveTideAt_updCove, hslack, hengine', inEngineReset_of_not hengine', allCommitted_of_none rfl,
    if_neg (not_not.2 hmode), if_neg (by simp [hawait]), if_neg (by simp), if_neg (by simp), if_neg hrepeat,
    if_neg (Nat.not_le.2 hruns)]

omit hslack in
/-- While an engine of the cove is reset the discard is owed to the end of that recovery. -/
theorem discardAnyway_owed {key : Option Nat} (hengine : engineRecovery s c = true) : discardAnyway s c 3 key =
    updCove (updCove s c fun v => { v with commits := [] }) c fun v => { v with owed := some (3, key) } := by
  have hcove : coveAt (updCove s c fun v => { v with commits := [] }) c = { coveAt s c with commits := [] } :=
    coveAt_updCove ..
  have hengine' : engineRecovery (updCove s c fun v => { v with commits := [] }) c = true := hengine
  unfold discardAnyway discardStep
  dsimp only
  rw [hcove, coveTideAt_updCove, hengine', if_neg (not_not.2 hmode), if_neg (by simp [hawait]),
    if_pos (.inr (.inr ⟨rfl, rfl⟩))]

end

/-- The discard of a state that agrees with `s` in what `StepDiscarded` asks about is one of `s`. -/
theorem stepDiscarded_of_agree {c cause dMax : Nat} (h : StepDiscarded u t c cause dMax) (htide : u.tide = s.tide)
    (hcores : u.cores = s.cores)
    (hcove : ∃ l d, coveAt u c = { coveAt s c with commits := l, dMax := d }) (hcount : CountsOnly [0x5010, 0xA070] s u) :
    StepDiscarded s t c cause dMax := by
  obtain ⟨hrec, hreplaying, hreplays, hlast, hstep, hparity, hcommits, hstats, hstart, htables, hreset, hother⟩ := h
  obtain ⟨l, d, hcove⟩ := hcove
  have hbank : coveTideAt u c = coveTideAt s c := by simp only [coveTideAt, htide]
  have hentry : tableEntry u = tableEntry s := tableEntry_congr (congrArg TideState.tables htide)
  simp only [planSlack, planQuantum, hentry, hbank, htide, hcove] at hreplays hstep hparity hstart htables hreset
  exact ⟨recorded_between hrec (hcount _ _ (by decide) (by simp [episodeCode]) (by decide)) rfl, hreplaying, hreplays, hlast,
    hstep, hparity, hcommits, hstats, hstart, htables,
    fun i hi => (hreset i hi).trans (congrArg _ (ctxAt_of_cores hcores i 0)),
    fun i k hk => (hother i k hk).trans (ctxAt_of_cores hcores i k)⟩

section
variable {c : Nat} (hmode : (coveAt s c).mode = .running) (hslack : (coveTideAt s c).slack = false)
  (hawait : (coveAt s c).awaitReplay = none)
include hmode hslack hawait

/-- A step-contained fault with its event, whose step is discarded. -/
theorem faultDiscards {code : Nat} {key : Option Nat} (hcode : code ∈ [0x5010, 0xA070])
    (hengine : engineRecovery s c = false) (hruns : (coveAt s c).replays < 2)
    (hrepeat : ¬ ((coveAt s c).replaying = true ∧ key.isSome = true ∧ (coveAt s c).lastCause = 3
      ∧ key = some (coveAt s c).lastFail)) (hret : (coveAt s c).ckpt.returnTick = 0) :
    let t := discardAnyway (recordCove s code .stepContained c []) c 3 key
    StepDiscarded s t c 3 (coveAt s c).dMax ∧ Recorded s t code 1296 := by
  intro t
  have hepisode : ¬ episodeCode code := by
    rcases List.mem_pair.1 hcode with rfl | rfl <;> simp [episodeCode]
  obtain ⟨v, hv⟩ : ∃ v, v = recordCove s code .stepContained c [] := ⟨_, rfl⟩
  have hnoted : Noted s v := hv ▸ noted_record s ..
  have hrec : Recorded s v code 1296 := hv ▸ recorded_record s _ _ _ _ _ (by decide) hepisode
  have hcount : CountsOnly [0x5010, 0xA070] s v := hv ▸ countsOnly_record s _ _ _ (by decide) hcode
  have hcove : coveAt v c = coveAt s c := by rw [coveAt, hnoted]; rfl
  have htide : v.tide = s.tide := by rw [hnoted]
  have hcores : v.cores = s.cores := by rw [hnoted]
  have hengine' : engineRecovery v c = false := by rw [engineRecovery, hnoted]; exact hengine
  have hbank : coveTideAt v c = coveTideAt s c := by simp only [coveTideAt, htide]
  have ht : t = discardNow (updCove v c fun v => { v with commits := [] }) c 3 key := by
    simp only [t, ← hv]
    exact discardAnyway_now (by rw [hcove, hmode]) (by rw [hbank, hslack]) (by rw [hcove, hawait]) hengine'
      (by rw [hcove]; exact hruns) (by rw [hcove]; exact hrepeat)
  have hself : coveAt (updCove v c fun v => { v with commits := [] }) c = { coveAt s c with commits := [] } := by
    rw [coveAt_updCove, hcove]
  obtain ⟨hdiscard, hmore⟩ := discardNow_outcome (c := c) (cause := 3) (updCove v c fun v => { v with commits := [] }) key
    (by decide) (by rw [hself]; exact hret)
  rw [← ht] at hdiscard hmore
  rw [hself] at hdiscard
  refine ⟨stepDiscarded_of_agree hdiscard htide hcores ⟨_, _, hself⟩ hcount, recorded_between hrec rfl ?_⟩
  refine hmore _ _ (by decide) hepisode ?_
  rcases List.mem_pair.1 hcode with rfl | rfl <;> decide

omit hslack in
/-- The event of a step-contained fault whose discard an engine's recovery holds up. -/
theorem faultOwed {key : Option Nat} (hengine : engineRecovery s c = true) :
    let t := discardAnyway (recordCove s 0xA070 .stepContained c []) c 3 key
    Recorded s t 0xA070 1296 ∧ (coveAt t c).owed = some (3, key) ∧ t.cores = s.cores ∧ t.mem = s.mem := by
  intro t
  obtain ⟨v, hv⟩ : ∃ v, v = recordCove s 0xA070 .stepContained c [] := ⟨_, rfl⟩
  have hnoted : Noted s v := hv ▸ noted_record s ..
  have hrec : Recorded s v 0xA070 1296 := hv ▸ recorded_record s _ _ _ _ _ (by decide) (by simp [episodeCode])
  have hcove : coveAt v c = coveAt s c := by rw [coveAt, hnoted]; rfl
  have hengine' : engineRecovery v c = true := by rw [engineRecovery, hnoted]; exact hengine
  have ht := discardAnyway_owed (key := key) (by rw [hcove, hmode]) (by rw [hcove, hawait]) hengine'
  simp only [t, ← hv]
  rw [ht, coveAt_updCove]
  exact ⟨recorded_between hrec rfl rfl, rfl, by rw [updCove_cores, updCove_cores, hnoted],
    by rw [updCove_mem, updCove_mem, hnoted]⟩

end

/-! ### The commit (R302, R386, R387) -/

/-- The note of a late commit. -/
def lateNoted (s : State) (c : Nat) (k : Tick) : State :=
  if decide (commitTickOf s c < k) then
    bumpCoveSet (recordCove (updStats s c fun t => { t with late := true }) 0x1051 .corrected c []) (some c) 3 1
  else s

/-- The non-finite flags and the threshers' running values of a cove, reset. -/
def commitCleared (s : State) (v : Cove) : State :=
  forEach (forEach s (coresOf v) fun s i => updCtx s i 0 fun x => { x with nonfinite := false }) (clustersOf v)
    fun s cl => updThresh s cl 0 fun _ => ThreshRun.reset

/-- The parity and the counts of skipped updates after a commit. -/
def parityTurned (skipped : Bool) (v : Cove) : Cove :=
  { v with parity := if skipped then v.parity else !v.parity
           skipRun := if skipped then v.skipRun + 1 else 0
           skipTotal := if skipped then satTo 32 (v.skipTotal + 1) else v.skipTotal }

/-- The digest table and the record of a committed step. -/
def commitFigures (s : State) (c : Nat) (v : Cove) (k : Tick) : State :=
  writeStepRecord (if isDigestStep s c v.step.toNat then buildDigest s c v.step.toNat else s) c
    (if v.stats.skipped then 1 else 0) 0 k

/-- The cove once its step has committed. -/
def stepCounted (v : Cove) : Cove :=
  { v with step := v.step + 1, replaying := false, replays := 0, lastCause := 0, lastFail := 0,
           commits := [], arrivals := v.arrivals.filter fun a => a.ctx != 0, commitTick := 0, closing := [], closed := [],
           ckpt := { v.ckpt with undo := [], undoUsed := 0, returnTick := 0, unguarded := false } }

theorem commitStep_eq (s : State) (c k) : commitStep s c k =
    let v := coveAt s c
    let u := commitFigures (updCove (commitCleared (lateNoted s c k) v) c (parityTurned v.stats.skipped)) c v k
    updCoveTide (updCove (bumpCoveSet (bumpCoveSet u (some c) 0 1) (some c) 1 (natOf v.stats.skipped)) c stepCounted) c
      fun t => { t with slack := true, slackStart := k } := rfl

theorem lateNoted_outcome (s : State) (c : Nat) (k : Tick) : let t := lateNoted s c k
    (∃ x, coveAt t c = { coveAt s c with stats := x }) ∧ (∃ cv tr h, t = { s with coves := cv, trace := tr, host := h })
    ∧ (commitTickOf s c < k → Recorded s t 0x1051 1296) := by
  dsimp only [lateNoted]
  split
  · obtain ⟨v, hv⟩ : ∃ v, v = updStats s c fun t => { t with late := true } := ⟨_, rfl⟩
    obtain ⟨w, hw⟩ : ∃ w, w = recordCove v 0x1051 .corrected c [] := ⟨_, rfl⟩
    have hcove : ∃ x, coveAt w c = { coveAt s c with stats := x } :=
      ⟨_, by rw [hw, recordCove_eq, coveAt_record, hv, updStats, coveAt_updCove]⟩
    have hrec : Recorded v w 0x1051 1296 := hw ▸ recorded_record v _ _ _ _ _ (by decide) (by simp [episodeCode])
    have hrec : Recorded s w 0x1051 1296 := recorded_between hrec (eventCount_of_trace (by rw [hv, updStats, updCove_trace])) rfl
    have hframe : ∃ cv tr h, w = { s with coves := cv, trace := tr, host := h } := by
      have hnoted : Noted v w := hw ▸ noted_record v ..
      rw [hnoted, hv]
      exact ⟨_, _, _, rfl⟩
    obtain ⟨tr, hbump, hsrc⟩ := bumpCoveSet_eq w (some c) 3 1
    rw [← hv, ← hw, hbump]
    obtain ⟨_, _, _, hframe⟩ := hframe
    refine ⟨hcove, ⟨_, _, _, by rw [hframe]⟩, fun _ => recorded_between hrec rfl ?_⟩
    simp only [eventCount, hsrc]
  · next h => exact ⟨⟨_, rfl⟩, ⟨_, _, _, rfl⟩, fun hk => absurd (decide_eq_true hk) h⟩

theorem commitCleared_outcome (s : State) (v : Cove) : let t := commitCleared s v
    (∃ co cl, t = { s with cores := co, clusters := cl })
    ∧ (∀ i k, ctxAt t i k =
        if i ∈ coresOf v ∧ k = 0 then { ctxAt s i k with nonfinite := false } else ctxAt s i k)
    ∧ ∀ cl ∈ clustersOf v, threshAt t cl 0 = ThreshRun.reset := by
  dsimp only [commitCleared]
  obtain ⟨w, hw⟩ : ∃ w, w = forEach s (coresOf v) fun s i => updCtx s i 0 fun x => { x with nonfinite := false } :=
    ⟨_, rfl⟩
  have hframe : w = { s with cores := w.cores } := by
    rw [hw]
    exact forEach_rel (R := fun s t => t = { s with cores := t.cores }) (fun _ => rfl)
      (fun {_ _ c} e e' => e'.trans (congrArg (fun y : State => { y with cores := c.cores }) e)) fun _ _ _ => rfl
  have hctx : ∀ i k, ctxAt w i k =
      if i ∈ coresOf v ∧ k = 0 then { ctxAt s i k with nonfinite := false } else ctxAt s i k := by
    intro i k
    rw [hw, ctxAt_forEach (h := fun k x => if k = 0 then { x with nonfinite := false } else x)
      (fun k x => by by_cases hk : k = 0 <;> simp [hk])
      (fun t i k => ?_) fun t i j k h => ctxAt_updCtx_core _ _ _ _ _ _ h]
    · by_cases hi : i ∈ coresOf v <;> simp [hi]
    · by_cases hk : k = 0
      · subst hk
        rw [ctxAt_updCtx, if_pos rfl]
      · rw [ctxAt_updCtx_other _ _ _ _ _ hk, if_neg hk]
  rw [← hw]
  refine ⟨?_, fun i k => ?_, fun cl hcl => ?_⟩
  · obtain ⟨cl, e⟩ := forEach_updThresh_eq w (clustersOf v) 0 fun _ => ThreshRun.reset
    rw [e, hframe]
    exact ⟨_, _, rfl⟩
  · obtain ⟨cl, e⟩ := forEach_updThresh_eq w (clustersOf v) 0 fun _ => ThreshRun.reset
    rw [e, ← hctx]
    rfl
  · refine forEach_establish (p := fun t cl => threshAt t cl 0 = ThreshRun.reset) (fun t a => ?_) (fun t a b hb => ?_)
      (.inl hcl)
    · rw [updThresh, threshAt, clusterAt_updCluster]
      exact get_set_same ..
    · rw [updThresh, threshAt]
      by_cases h : b = a
      · subst h
        rw [clusterAt_updCluster]
        exact get_set_same ..
      · rw [clusterAt_updCluster_other _ _ _ _ h]
        exact hb

theorem figures_commitFigures (s : State) (c v k) : Figures c s (commitFigures s c v k) := by
  unfold commitFigures
  split
  · exact (figures_buildDigest ..).trans (figures_writeStepRecord ..)
  · exact figures_writeStepRecord ..

/-- What a commit does before it decides where it leads (R387). -/
theorem commitStep_outcome (s : State) (c : Nat) (k : Tick) :
    let v := coveAt s c
    let u := commitStep s c k
    (∃ w x, SameButFigures { parityTurned v.stats.skipped v with stats := x } w ∧ coveAt u c = stepCounted w)
    ∧ coveTideAt u c = { coveTideAt s c with slack := true, slackStart := k }
    ∧ (∀ i k, ctxAt u i k =
        if i ∈ coresOf v ∧ k = 0 then { ctxAt s i k with nonfinite := false } else ctxAt s i k)
    ∧ (∀ cl ∈ clustersOf v, threshAt u cl 0 = ThreshRun.reset)
    ∧ (commitTickOf s c < k → Recorded s u 0x1051 1296) ∧ u.tide.now = s.tide.now := by
  intro v u
  obtain ⟨⟨x, hcove⟩, ⟨cv, tr, h, hframe⟩, hrec⟩ := lateNoted_outcome s c k
  obtain ⟨⟨co, cl, hframe'⟩, hctx, hthresh⟩ := commitCleared_outcome (lateNoted s c k) v
  have hu : u = _ := commitStep_eq s c k
  dsimp only at hu
  generalize lateNoted s c k = a at *
  generalize commitCleared a v = b at *
  obtain ⟨d, hd⟩ : ∃ d, d = updCove b c (parityTurned v.stats.skipped) := ⟨_, rfl⟩
  have hdcove : coveAt d c = { parityTurned v.stats.skipped v with stats := x } := by
    rw [hd, coveAt_updCove, coveAt, hframe']
    exact congrArg _ hcove
  have hdframe : d.tide = s.tide ∧ d.cores = b.cores ∧ d.clusters = b.clusters ∧ d.trace = a.trace := by
    rw [hd]
    exact ⟨by rw [updCove_tide, hframe', hframe], rfl, rfl, by rw [updCove_trace, hframe']⟩
  have hfig := figures_commitFigures d c v k
  rw [← hd] at hu
  generalize commitFigures d c v k = e at *
  obtain ⟨tr1, hbump1, hsrc1⟩ := bumpCoveSet_eq e (some c) 0 1
  obtain ⟨tr2, hbump2, hsrc2⟩ := bumpCoveSet_eq (bumpCoveSet e (some c) 0 1) (some c) 1 (natOf v.stats.skipped)
  rw [hbump1] at hsrc2
  rw [hbump2, hbump1] at hu
  obtain ⟨htide, hcores, hclusters, htrace⟩ := hdframe
  have hetide : e.tide = s.tide := by rw [hfig.frame, htide]
  have hecores : e.cores = b.cores := by rw [hfig.frame, hcores]
  have heclusters : e.clusters = b.clusters := by rw [hfig.frame, hclusters]
  refine ⟨⟨coveAt e c, x, hdcove ▸ hfig.cove, ?_⟩, ?_, fun i k => ?_, fun cl hcl => ?_, fun hk => ?_, ?_⟩
  · rw [hu, coveAt_updCoveTide, coveAt_updCove]
    rfl
  · rw [hu, coveTideAt_updCoveTide, coveTideAt_updCove]
    simp only [coveTideAt, hetide]
  · have hctx' := hctx i k
    rw [ctxAt_of_cores (t := a) (s := s) (by rw [hframe])] at hctx'
    rw [← hctx', hu]
    exact ctxAt_of_cores (by rw [updCoveTide_cores, updCove_cores, hecores]) i k
  · rw [hu, threshAt, clusterAt, updCoveTide_clusters, updCove_clusters]
    dsimp only
    rw [heclusters]
    exact hthresh cl hcl
  · have hcount := hfig.counts 0x1051 1296 (by decide) (by simp [episodeCode]) (by decide)
    refine recorded_between (hrec hk) rfl (Eq.trans ?_ (hcount.trans (eventCount_of_trace htrace)))
    rw [hu]
    simp only [eventCount, updCoveTide_trace, updCove_trace, hsrc2, hsrc1]
  · rw [hu]
    show e.tide.now = _
    rw [hetide]

/-- A commit ends no program. -/
theorem allEnded_commitStep (s : State) (c k) : allEnded (commitStep s c k) c = allEnded s c := by
  obtain ⟨⟨w, x, hw, hcove⟩, -, hctx, -⟩ := commitStep_outcome s c k
  have hctxs : ctxsOf (coveAt (commitStep s c k) c) = ctxsOf (coveAt s c) := by
    rw [hcove, hw]
    rfl
  have hmode : ∀ i j, (ctxAt (commitStep s c k) i j).mode = (ctxAt s i j).mode := by
    intro i j
    rw [hctx]
    split <;> rfl
  unfold allEnded
  simp only [hctxs, hmode]

theorem startCapture_of_not {c : Nat} (h : (coveAt s c).ckpt.take = false) : startCapture s c = s := by
  rw [startCapture, h, if_neg Bool.false_ne_true]

/-- A commit that is asked to stop the cove, or after which no program runs, stops it. -/
theorem afterCommit_stops {c : Nat} (hrelease : (coveAt s c).releaseReq = false)
    (hstop : (coveAt s c).stopReq = true ∨ allEnded s c = true) : let t := afterCommit s c
    (coveAt t c).mode = .stopped ∧ (coveAt t c).changed = s.tide.now ∧ (coveAt t c).stopReq = false
    ∧ Recorded s t 0x700B 1296 := by
  obtain ⟨v, hv⟩ : ∃ v, v = updCove s c fun v =>
    { v with mode := .stopped, changed := s.tide.now, stopReq := false, ended := allEnded s c } := ⟨_, rfl⟩
  have e : afterCommit s c = recordCove v 0x700B .corrected c [] := by
    unfold afterCommit
    dsimp only
    rw [hrelease, if_neg Bool.false_ne_true, if_pos (by simpa using hstop), hv]
  have hcove : coveAt v c = { coveAt s c with
      mode := .stopped, changed := s.tide.now, stopReq := false, ended := allEnded s c } := by rw [hv, coveAt_updCove]
  have hrec : Recorded v (recordCove v 0x700B .corrected c []) 0x700B 1296 :=
    recorded_record v _ _ _ _ _ (by decide) (by simp [episodeCode])
  dsimp only
  rw [e, recordCove_eq, coveAt_record, hcove]
  exact ⟨rfl, rfl, rfl, recorded_between hrec (eventCount_of_trace (by rw [hv, updCove_trace])) rfl⟩

section
variable {c : Nat} (hmode : (coveAt s c).mode = .running)
include hmode

theorem exec_stepCommit {remote : Option (Tick × Bool)} {k : Tick} (hslack : (coveTideAt s c).slack = false)
    (hwaits : commitWaits s c = false) (hlate : remote.any (·.2) = false ∨ commitRemote s c = false)
    (hat : commitAt s c (remote.map (·.1)) = some k) :
    exec (.stepCommit c remote) s = .next (afterCommit (startCapture (commitStep s c k) c) c) := by
  show execStepCommit c remote s = _
  unfold execStepCommit
  dsimp only
  rw [if_neg (by rcases hlate with h | h <;> simp [h]), if_pos ⟨hmode, hslack, by simp [hwaits]⟩, hat]

/-- STEP_COMMIT of a step whose commit test has succeeded. -/
theorem stepCommit_outcome {remote : Option (Tick × Bool)} {k : Tick} (hslack : (coveTideAt s c).slack = false)
    (hwaits : commitWaits s c = false) (hlate : remote.any (·.2) = false ∨ commitRemote s c = false)
    (hat : commitAt s c (remote.map (·.1)) = some k) :
    let v := coveAt s c
    let tt := coveTideAt s c
    ∃ u, exec (.stepCommit c remote) s = .next (afterCommit (startCapture u c) c)
      ∧ (coveAt u c).step = v.step + 1
      ∧ (coveAt u c).parity = (if v.stats.skipped then v.parity else !v.parity)
      ∧ (coveAt u c).skipRun = (if v.stats.skipped then v.skipRun + 1 else 0)
      ∧ (coveAt u c).replaying = false ∧ (coveAt u c).replays = 0 ∧ (coveAt u c).commits = []
      ∧ coveTideAt u c = { tt with slack := true, slackStart := k }
      ∧ (∀ i ∈ coresOf v, ctxAt u i 0 = { ctxAt s i 0 with nonfinite := false })
      ∧ (∀ i k, k ≠ 0 → ctxAt u i k = ctxAt s i k)
      ∧ (∀ cl ∈ clustersOf v, threshAt u cl 0 = ThreshRun.reset)
      ∧ (commitTickOf s c < k → Recorded s u 0x1051 1296)
      ∧ (v.releaseReq = false → (v.stopReq = true ∨ allEnded s c = true) → v.ckpt.take = false →
          ∃ t, exec (.stepCommit c remote) s = .next t ∧ (coveAt t c).mode = .stopped
            ∧ (coveAt t c).changed = s.tide.now ∧ (coveAt t c).stopReq = false ∧ Recorded u t 0x700B 1296) := by
  intro v tt
  have e := exec_stepCommit hmode hslack hwaits hlate hat
  have hended := allEnded_commitStep s c k
  obtain ⟨⟨w, x, hw, hcove⟩, htables, hctx, hthresh, hrec, hnow⟩ := commitStep_outcome s c k
  generalize commitStep s c k = u at *
  rw [hw] at hcove
  refine ⟨u, e, by rw [hcove]; rfl, by rw [hcove]; rfl, by rw [hcove]; rfl, by rw [hcove]; rfl, by rw [hcove]; rfl,
    by rw [hcove]; rfl, htables, fun i hi => ?_, fun i k hk => ?_, hthresh, hrec, fun hrelease hstop htake => ?_⟩
  · rw [hctx, if_pos ⟨hi, rfl⟩]
  · rw [hctx, if_neg fun h => hk h.2]
  · rw [startCapture_of_not (by rw [hcove]; exact htake)] at e
    obtain ⟨hstopped, hchanged, hasked, hevent⟩ := afterCommit_stops (s := u) (c := c) (by rw [hcove]; exact hrelease)
      (by rw [hended, hcove]; exact hstop)
    exact ⟨_, e, hstopped, hchanged.trans hnow, hasked, hevent⟩

end

/-! ### The start of a step (R180, R302, R572) -/

theorem coreAt_updCtx_other {i j : Nat} (s : State) (k f) (h : j ≠ i) : coreAt (updCtx s i k f) j = coreAt s j :=
  coreAt_updCore_other _ _ _ _ h

/-- Cores, the trace and the host side may differ, but no register. -/
structure Traced (s t : State) : Prop where
  frame : t = { s with cores := t.cores, trace := t.trace, host := t.host }
  regs : t.host.regs = s.host.regs

theorem Traced.refl (s : State) : Traced s s := ⟨rfl, rfl⟩

theorem Traced.trans (h : Traced s t) (h' : Traced t u) : Traced s u where
  frame := h'.frame.trans (congrArg (fun x : State => { x with cores := u.cores, trace := u.trace, host := u.host }) h.frame)
  regs := h'.regs.trans h.regs

theorem traced_record (s : State) (c v k r d) : Traced s (record s c v k r d) where
  frame := by
    obtain ⟨_, _, e⟩ := record_frame s c v k r d
    rw [e]
  regs := record_regs ..

theorem traced_dropWait (s : State) (c cause) : Traced s (dropWait s c cause) ∧ (dropWait s c cause).cores = s.cores := by
  unfold dropWait
  extract_lets first s1 s2
  have h2 : ∃ tr, s2 = { s with trace := tr } := ⟨_, rfl⟩
  clear_value s2
  obtain ⟨tr, rfl⟩ := h2
  split
  · exact ⟨.trans (t := { s with trace := tr }) ⟨rfl, rfl⟩ (traced_record ..), record_cores ..⟩
  · exact ⟨⟨rfl, rfl⟩, rfl⟩

theorem traced_traceWait (s : State) (core r) : Traced s (traceWait s core r) ∧ (traceWait s core r).cores = s.cores := by
  unfold traceWait
  split
  · exact ⟨.refl s, rfl⟩
  · next c _ =>
    dsimp only
    split
    · split
      · exact traced_dropWait s c 1
      · exact ⟨⟨rfl, rfl⟩, rfl⟩
    · exact ⟨.refl s, rfl⟩

theorem traced_traceSync (s : State) (core k w) : Traced s (traceSync s core k w) ∧ (traceSync s core k w).cores = s.cores := by
  cases w with
  | drain => exact ⟨.refl s, rfl⟩
  | slots => exact ⟨.refl s, rfl⟩
  | _ => exact traced_traceWait ..

/-- A context whose wait for the commit has ended. -/
def commitEnded (x : Ctx) : Ctx :=
  match x.wait with
  | some (.commit _) => { x with wait := none, waitSwitched := false, wainStatus := .done }
  | _ => x

/-- The commit wait of a core's context 0 ends. -/
def endCommitWait (s : State) (i : Nat) : State :=
  match (ctxAt s i 0).wait with
  | some (.commit _) => endWait s i 0
  | _ => s

/-- Nothing, or a change of context 0 after what the wait trace notes. -/
theorem endCommitWait_cases (s : State) (i : Nat) : (endCommitWait s i = s ∧ commitEnded (ctxAt s i 0) = ctxAt s i 0)
    ∨ ∃ v, Traced s v ∧ v.cores = s.cores ∧ endCommitWait s i = updCtx v i 0 fun _ => commitEnded (ctxAt s i 0) := by
  unfold endCommitWait commitEnded
  split
  · next tick hw =>
    obtain ⟨htraced, hcores⟩ := traced_traceSync s i 0 (.commit tick)
    refine .inr ⟨_, htraced, hcores, ?_⟩
    unfold endWait
    rw [hw]
    simp only [updCtx, ctxAt_of_cores hcores, anchorAfter, statusAfter]
  · next h =>
    exact .inl ⟨rfl, rfl⟩

/-- Every context 0 to 3 of a core takes its anchor. -/
theorem ctxAt_anchors (l : List Nat) (s : State) (i a j k : Nat) :
    ctxAt (forEach s l fun s k => updCtx s i k fun x => { x with anchor := a }) j k =
      if j = i ∧ k ∈ l then { ctxAt s j k with anchor := a } else ctxAt s j k := by
  induction l generalizing s with
  | nil => simp
  | cons b l ih =>
    rw [forEach_cons, ih]
    by_cases hj : j = i
    · subst hj
      by_cases hk : k = b
      · subst hk
        rw [ctxAt_updCtx]
        simp
      · rw [ctxAt_updCtx_other _ _ _ _ _ hk]
        simp [hk]
    · rw [ctxAt_updCtx_core _ _ _ _ _ _ hj]
      simp [hj]

/-- What a step's start does to one core. -/
def startCore (a : Tick) (s : State) (i : Nat) : State :=
  let s := endCommitWait s i
  let s := forEach s (List.range 4) fun s k => updCtx s i k fun x => { x with anchor := a }
  let s := updCtx s i 0 fun x => { x with calls := [], callsDone := [] }
  updCore s i fun x =>
    { x with landed := x.landed.filter fun p => p.ctx != 0,
             notices := x.notices.filter fun p => p.ctx != 0, refusedAhead := [], lateSeen := [], digest := 0#64 }

/-- What a step's start does to a context of one core. -/
def startCtx (a : Tick) (k : Nat) (x : Ctx) : Ctx :=
  if k = 0 then { commitEnded x with anchor := a, calls := [], callsDone := [] }
  else if k < 4 then { x with anchor := a } else x

theorem startCtx_startCtx (a : Tick) (k : Nat) (x : Ctx) : startCtx a k (startCtx a k x) = startCtx a k x := by
  unfold startCtx
  by_cases h0 : k = 0
  · simp only [if_pos h0, commitEnded]
    cases hw : x.wait with
    | none => simp [hw]
    | some w => cases w <;> simp [hw]
  · by_cases h4 : k < 4 <;> simp [h0, h4]

theorem ctxAt_startCore (a : Tick) (s : State) (i k : Nat) : ctxAt (startCore a s i) i k = startCtx a k (ctxAt s i k) := by
  unfold startCore
  dsimp only
  rw [ctxAt_updCore_of_ctxs (by exact fun _ => rfl)]
  have hend : ctxAt (endCommitWait s i) i k = if k = 0 then commitEnded (ctxAt s i k) else ctxAt s i k := by
    rcases endCommitWait_cases s i with ⟨e, hx⟩ | ⟨v, -, hcores, e⟩
    · rw [e]
      split
      · next h => rw [h, hx]
      · rfl
    · rw [e]
      by_cases hk : k = 0
      · subst hk
        rw [ctxAt_updCtx, if_pos rfl]
      · rw [ctxAt_updCtx_other _ _ _ _ _ hk, if_neg hk, ctxAt_of_cores hcores]
  unfold startCtx
  by_cases hk : k = 0
  · subst hk
    rw [ctxAt_updCtx, ctxAt_anchors, hend, if_pos rfl, if_pos ⟨rfl, by decide⟩, if_pos rfl]
  · rw [ctxAt_updCtx_other _ _ _ _ _ hk, ctxAt_anchors, hend]
    simp [hk]

theorem coreAt_startCore_other {i j : Nat} (a : Tick) (s : State) (h : j ≠ i) : coreAt (startCore a s i) j = coreAt s j := by
  have hend : coreAt (endCommitWait s i) j = coreAt s j := by
    rcases endCommitWait_cases s i with ⟨e, -⟩ | ⟨v, -, hcores, e⟩
    · rw [e]
    · rw [e, coreAt_updCtx_other _ _ _ h]
      simp only [coreAt, hcores]
  unfold startCore
  dsimp only
  rw [coreAt_updCore_other _ _ _ _ h, coreAt_updCtx_other _ _ _ h, ← hend]
  exact forEach_same (fun t => coreAt t j) fun t k _ => coreAt_updCtx_other t k _ h

theorem digest_startCore (a : Tick) (s : State) (i : Nat) : (coreAt (startCore a s i) i).digest = 0#64 := by
  unfold startCore
  dsimp only
  rw [coreAt_updCore]

theorem traced_startCore (a : Tick) (s : State) (i : Nat) : Traced s (startCore a s i) := by
  have hend : Traced s (endCommitWait s i) := by
    rcases endCommitWait_cases s i with ⟨e, -⟩ | ⟨v, htraced, -, e⟩
    · rw [e]
      exact .refl s
    · rw [e]
      exact htraced.trans ⟨rfl, rfl⟩
  have hanchors : Traced (endCommitWait s i)
      (forEach (endCommitWait s i) (List.range 4) fun s k => updCtx s i k fun x => { x with anchor := a }) :=
    forEach_rel .refl .trans fun t k _ => ⟨rfl, rfl⟩
  exact (hend.trans hanchors).trans ⟨rfl, rfl⟩

/-- What a step's start does to the cores. -/
theorem startCores_outcome (s : State) (a : Tick) (l : List Nat) : let t := forEach s l (startCore a)
    Traced s t ∧ (∀ i k, ctxAt t i k = if i ∈ l then startCtx a k (ctxAt s i k) else ctxAt s i k)
    ∧ ∀ i ∈ l, (coreAt t i).digest = 0#64 := by
  refine ⟨forEach_rel (R := Traced) .refl .trans fun t i _ => traced_startCore a t i,
    ctxAt_forEach (startCtx_startCtx a) (ctxAt_startCore a) fun t i j k h => ?_, fun i hi => ?_⟩
  · simp only [ctxAt, coreAt_startCore_other a t h]
  · refine forEach_establish (p := fun t i => (coreAt t i).digest = 0#64) (digest_startCore a) (fun t j k hk => ?_) (.inl hi)
    by_cases h : k = j
    · subst h
      exact digest_startCore a t k
    · rw [coreAt_startCore_other a t h]
      exact hk

/-! ### Flips that a slack water did not see made (R221) -/

/-- Only placements and notes differ. -/
structure PlacementOnly (s t : State) : Prop where
  frame : t = { s with mem := { s.mem with placement := t.mem.placement }, trace := t.trace, host := t.host }
  regs : t.host.regs = s.host.regs

theorem PlacementOnly.refl (s : State) : PlacementOnly s s := ⟨rfl, rfl⟩

theorem PlacementOnly.trans (h : PlacementOnly s t) (h' : PlacementOnly t u) : PlacementOnly s u where
  frame := h'.frame.trans (congrArg (fun x : State =>
    { x with mem := { x.mem with placement := u.mem.placement }, trace := u.trace, host := u.host }) h.frame)
  regs := h'.regs.trans h.regs

/-- The flip of one unit, put off. -/
def endFlip (c : Nat) (s : State) (u : Nat) : State :=
  let p := placementAt s u
  if p.go then recordCove (setPlacement s u { p with go := false }) 0x3003 .corrected c [] else s

theorem placementAt_endFlip (c : Nat) (s : State) (u x : Nat) : placementAt (endFlip c s u) x =
    { placementAt s x with go := (placementAt s x).go && !decide (x = u) } := by
  unfold endFlip
  dsimp only
  split
  · next hgo =>
    have hset : placementAt (recordCove (setPlacement s u { placementAt s u with go := false }) 0x3003 .corrected c []) x
        = if x = u then { placementAt s u with go := false } else placementAt s x := by
      simp only [placementAt, recordCove_eq, record_mem, setPlacement, get_set]
    rw [hset]
    by_cases h : x = u
    · subst h
      simp
    · simp [h]
  · next hgo =>
    have hkept : (placementAt s x).go = ((placementAt s x).go && !decide (x = u)) := by
      by_cases h : x = u
      · subst h
        simp [hgo]
      · simp [h]
    exact congrArg (fun b => { placementAt s x with go := b }) hkept

theorem placementOnly_endFlip (c : Nat) (s : State) (u : Nat) : PlacementOnly s (endFlip c s u) := by
  unfold endFlip
  dsimp only
  split
  · obtain ⟨_, _, e⟩ := record_frame (setPlacement s u { placementAt s u with go := false }) 0x3003 .corrected c 1296 []
    exact ⟨by rw [recordCove, e]; rfl, record_regs ..⟩
  · exact .refl s

theorem endFlips_outcome (s : State) (c : Nat) : PlacementOnly s (endFlips s c)
    ∧ ∀ x, placementAt (endFlips s c) x =
      { placementAt s x with go := (placementAt s x).go && !(placedUnits s c).contains x } := by
  refine ⟨forEach_rel (R := PlacementOnly) .refl .trans fun t u _ => placementOnly_endFlip c t u, fun x => ?_⟩
  show placementAt (forEach s (placedUnits s c) (endFlip c)) x = _
  generalize placedUnits s c = l
  induction l generalizing s with
  | nil => simp
  | cons u l ih =>
    rw [forEach_cons, ih, placementAt_endFlip]
    by_cases h : x = u <;> simp [h]

/-- A table of the first four keys reads what it was filled with. -/
theorem get_foldl_range_four (f : Nat → DWord) (j : Nat) (hj : j < 4) :
    Sparse.get 0#64 ((List.range 4).foldl (fun t j => Sparse.set 0#64 t j (f j)) []) j = f j := by
  simp only [show List.range 4 = [0, 1, 2, 3] from rfl, List.foldl_cons, List.foldl_nil, get_set]
  rcases (show j = 0 ∨ j = 1 ∨ j = 2 ∨ j = 3 by omega) with rfl | rfl | rfl | rfl <;> rfl

/-- The tide state of a cove whose step starts. -/
def startedTables (tick : Tick) (t : CoveTide) : CoveTide :=
  { t with slack := false, held := false, cause := 0, stepStart := tick, restart := 0#64 }

/-- The start of a step on the cores: flips put off, the cove's tables and every core's contexts. -/
def coresStarted (s : State) (c : Nat) (tick : Tick) : State :=
  forEach (updCoveTide (endFlips s c) c (startedTables tick)) (coresOf (coveAt s c))
    (startCore (tick - (coveAt s c).ckpt.offset))

/-- The cove of a step that starts; `first` says that it did not run before. -/
def startedCove (s : State) (c : Nat) (first : Prop) [Decidable first] (v : Cove) : Cove :=
  { v with mode := .running, changed := if first then s.tide.now else v.changed, hcause := 0,
           seeds := (List.range 4).foldl (fun t j => Sparse.set 0#64 t j (regAt s (cvReg c (0x60 + 8 * j)))) [],
           forced := bitOf (regAt s (cvReg c 0xB0)).toNat 0,
           ldig := BitVec.ofNat 32 (regAt s (cvReg c 0xA00)).toNat, stats := StepStats.reset,
           arrivals := v.arrivals.filter fun a => a.ctx != 0, commits := [], commitTick := 0, shards := [],
           digestPoint := 0, dMax := 0, awaitReplay := none, failed := none, closing := [], closed := [], action := 0,
           actionsDone := 0, barred := 0, reshapeOk := false, reshaped := none,
           ckpt := { v.ckpt with undoOn := v.ckpt.undoEn, undo := [], undoUsed := 0, returnTick := 0,
                                 unguarded := false } }

/-- The start of a step on its cove and wait traces. -/
def coveStarted (s : State) (c : Nat) (first : Prop) [Decidable first] : State :=
  let s := updWaitTrace (updCove s c (startedCove s c first)) c fun t =>
    { t with inForce := t.ctrl, thresh := (regAt (updCove s c (startedCove s c first)) (wtReg c 8)).toNat }
  { s with tide := { s.tide with started := true } }

/-- The event of a cove that starts its first step. -/
def startNoted (s : State) (c : Nat) (first : Prop) [Decidable first] (v : Cove) : State :=
  if first then recordCove s 0x7001 .corrected c [v.variant, v.dies.toNat, v.step.toNat] else s

theorem startStep_eq {c : Nat} (s : State) (tick : Tick) (hforce : forceRefused s c = false) : startStep s c tick =
    let v := coveAt s c
    let u := startNoted (coveStarted (coresStarted s c tick) c (v.mode ≠ .running)) c (v.mode ≠ .running) v
    match (coveAt u c).owed with
    | some (cause, key) => discardStep (updCove u c fun v => { v with owed := none }) c cause key
    | none => u := by
  unfold startStep
  dsimp only
  rw [if_neg (by rw [hforce]; exact Bool.false_ne_true)]
  rfl

theorem coresStarted_outcome (s : State) (c : Nat) (tick : Tick) : let t := coresStarted s c tick
    t.coves = s.coves ∧ coveTideAt t c = startedTables tick (coveTideAt s c) ∧ (∀ off, regAt t off = regAt s off)
    ∧ (∀ i k, ctxAt t i k =
        if i ∈ coresOf (coveAt s c) then startCtx (tick - (coveAt s c).ckpt.offset) k (ctxAt s i k) else ctxAt s i k)
    ∧ (∀ i ∈ coresOf (coveAt s c), (coreAt t i).digest = 0#64)
    ∧ t.mem = { s.mem with placement := t.mem.placement }
    ∧ ∀ x, placementAt t x = { placementAt s x with go := (placementAt s x).go && !(placedUnits s c).contains x } := by
  obtain ⟨ha, hplaced⟩ := endFlips_outcome s c
  obtain ⟨b, hb⟩ : ∃ b, b = updCoveTide (endFlips s c) c (startedTables tick) := ⟨_, rfl⟩
  obtain ⟨hd, hctx, hdigest⟩ := startCores_outcome b (tick - (coveAt s c).ckpt.offset) (coresOf (coveAt s c))
  have hbkept : b.cores = (endFlips s c).cores ∧ b.mem = (endFlips s c).mem ∧ b.coves = (endFlips s c).coves
      ∧ b.host = (endFlips s c).host ∧ coveTideAt b c = startedTables tick (coveTideAt (endFlips s c) c) :=
    hb ▸ ⟨rfl, rfl, rfl, rfl, coveTideAt_updCoveTide ..⟩
  obtain ⟨hcores, hmem, hcoves, hhost, htables⟩ := hbkept
  dsimp only [coresStarted]
  rw [← hb]
  generalize forEach b (coresOf (coveAt s c)) (startCore (tick - (coveAt s c).ckpt.offset)) = t at *
  generalize endFlips s c = a at *
  have htmem : t.mem = a.mem := by rw [hd.frame, hmem]
  have hatide : coveTideAt a c = coveTideAt s c := by rw [coveTideAt, ha.frame]; rfl
  have htide : coveTideAt t c = coveTideAt b c := by rw [coveTideAt, hd.frame]; rfl
  refine ⟨?_, by rw [htide, htables, hatide], fun off => ?_, fun i k => ?_, hdigest, ?_, fun x => ?_⟩
  · rw [hd.frame, hcoves, ha.frame]
  · simp only [regAt, hd.regs, hhost, ha.regs]
  · have hacores : a.cores = s.cores := by rw [ha.frame]
    rw [hctx, ctxAt_of_cores (hcores.trans hacores)]
  · rw [htmem, ha.frame]
  · rw [placementAt, htmem]
    exact hplaced x

theorem coveStarted_outcome (s : State) (c : Nat) (first : Prop) [Decidable first] : let t := coveStarted s c first
    coveAt t c = startedCove s c first (coveAt s c) ∧ (∀ d, d ≠ c → coveAt t d = coveAt s d)
    ∧ t.cores = s.cores ∧ t.mem = s.mem ∧ t.tide = { s.tide with started := true } :=
  ⟨coveAt_updCove .., fun d hd => coveAt_updCove_other s c _ d hd, rfl, rfl, rfl⟩

theorem startNoted_outcome (s : State) (c : Nat) (first : Prop) [Decidable first] (v : Cove) :
    let t := startNoted s c first v
    t.coves = s.coves ∧ t.cores = s.cores ∧ t.mem = s.mem ∧ t.tide = s.tide := by
  dsimp only [startNoted]
  split
  · rw [recordCove_eq, record_coves, record_cores, record_mem, record_tide]
    exact ⟨rfl, rfl, rfl, rfl⟩
  · exact ⟨rfl, rfl, rfl, rfl⟩

/-- A step that is neither refused nor owed a discard starts as R302 and R572 say. -/
theorem stepStarted_startStep {c : Nat} (s : State) (tick : Tick) (hforce : forceRefused s c = false)
    (howed : (coveAt s c).owed = none) : StepStarted s (startStep s c tick) c tick := by
  obtain ⟨hcoves, htables, hregs, hctx, hdigest, hmem, hplaced⟩ := coresStarted_outcome s c tick
  obtain ⟨hself, hother, hcores', hmem', htide'⟩ := coveStarted_outcome (coresStarted s c tick) c ((coveAt s c).mode ≠ .running)
  have hnoted := startNoted_outcome (coveStarted (coresStarted s c tick) c ((coveAt s c).mode ≠ .running)) c
    ((coveAt s c).mode ≠ .running) (coveAt s c)
  rw [startStep_eq s tick hforce]
  dsimp only
  generalize coveStarted (coresStarted s c tick) c ((coveAt s c).mode ≠ .running) = e at *
  generalize startNoted e c ((coveAt s c).mode ≠ .running) (coveAt s c) = t at *
  generalize coresStarted s c tick = d at *
  obtain ⟨hcoves'', hcores'', hmem'', htide''⟩ := hnoted
  have hcove (x) : coveAt d x = coveAt s x := by simp only [coveAt, hcoves]
  have htcove (x) : coveAt t x = coveAt e x := by simp only [coveAt, hcoves'']
  rw [hcove c, ← htcove c] at hself
  have htctx (i k) : ctxAt t i k = ctxAt d i k := ctxAt_of_cores (hcores''.trans hcores') i k
  have httables : coveTideAt t c = coveTideAt d c := by simp only [coveTideAt, htide'', htide']
  have htmem : t.mem = d.mem := hmem''.trans hmem'
  rw [show (coveAt t c).owed = none by rw [hself]; exact howed]
  refine ⟨by rw [httables, htables]; rfl, by rw [hself]; rfl, by rw [hself]; rfl, by rw [hself]; rfl, by rw [hself]; rfl,
    by rw [hself]; rfl, by rw [hself]; rfl, by rw [hself]; rfl, by rw [hself]; rfl, by rw [hself]; rfl, fun j hj => ?_, ?_,
    fun i hi => ⟨?_, ?_, ?_, ?_, fun k hk hk4 => ?_⟩, fun i k hik => ?_, fun x hx => ?_, ?_, ?_, fun x => ?_⟩
  · rw [hself]
    exact (get_foldl_range_four (fun j => regAt d (cvReg c (0x60 + 8 * j))) j hj).trans (hregs _)
  · rw [hself]
    exact congrArg (fun w : DWord => bitOf w.toNat 0) (hregs _)
  · rw [htctx, hctx, if_pos hi]; rfl
  · rw [htctx, hctx, if_pos hi]; rfl
  · rw [htctx, hctx, if_pos hi]; rfl
  · rw [coreAt, hcores''.trans hcores']
    exact hdigest i hi
  · rw [htctx, hctx, if_pos hi, startCtx, if_neg (by omega), if_pos hk4]
  · rw [htctx, hctx]
    split
    · next hi =>
      have hk : 4 ≤ k := hik.resolve_right (not_not.2 hi)
      rw [startCtx, if_neg (by omega), if_neg (by omega)]
    · rfl
  · rw [htcove, hother x hx, hcove]
  · rw [htide'', htide']
  · rw [htmem, hmem]
  · rw [placementAt, htmem]
    exact hplaced x

/-! ### What missing digest tables leave alone (R293, R400) -/

theorem checkMissing_mem (s : State) (c : Nat) : (checkMissing s c).mem = s.mem := by
  unfold checkMissing
  dsimp only
  split
  · refine forEach_same (fun t => t.mem) fun t p _ => ?_
    split
    · rfl
    · rw [recordCove_eq, record_mem, updCove_mem]
  · rfl

section
variable {c : Nat} (h : Figures c s u)
include h

theorem Figures.dies (d : Nat) : (coveAt u d).dies = (coveAt s d).dies := by
  by_cases hd : d = c
  · rw [hd, h.cove]
  · rw [h.others d hd]

theorem Figures.cores : u.cores = s.cores := by rw [h.frame]

theorem Figures.tide : u.tide = s.tide := by rw [h.frame]

theorem Figures.groupModules : groupModules u = groupModules s := by
  have hcore : coreAt u = coreAt s := funext fun i => by simp only [coreAt, h.cores]
  have hacting : actingModule u = actingModule s := by rw [h.frame]; rfl
  have howner : coveOfCore u = coveOfCore s := funext fun i => by simp only [coveOfCore, coveOfDie, h.dies]
  funext core g
  simp only [Machine.groupModules, gMembers, hcore, hacting, howner]

theorem Figures.coresOf : coresOf (coveAt u c) = coresOf (coveAt s c) := by
  rw [h.cove]
  rfl

/-- Neither alignment nor the members on other modules are figures of steps. -/
theorem Figures.unaligned : unaligned u c = unaligned s c := by
  have hcore : coreAt u = coreAt s := funext fun i => by simp only [coreAt, h.cores]
  simp only [Machine.unaligned, spansOthers, h.groupModules, h.coresOf, h.tide, hcore]

theorem Figures.regAt (off : Nat) : regAt u off = regAt s off := by simp only [Machine.regAt, h.regs]

/-- The records that force a step are in memory and registers. -/
theorem Figures.forceRefused (hmem : u.mem = s.mem) : forceRefused u c = forceRefused s c := by
  have hread : hbmRead u = hbmRead s := by
    funext off n
    simp only [hbmRead, hbmByte, stackAt, hmem]
  have hrange (reg n) : coveRange u c reg n = coveRange s c reg n := by
    have hid : u.moduleId = s.moduleId := by rw [h.frame]
    have howner : frameOwner u = frameOwner s := by
      funext st f
      simp only [frameOwner, hmem]
    unfold coveRange coveOwnsRange coveOwns
    rw [howner, hid, h.regAt]
  have hstep : (coveAt u c).step = (coveAt s c).step := by rw [h.cove]
  simp only [Machine.forceRefused, hread, hrange, hstep, h.regAt]

/-- A step that starts once only figures have changed starts from the state before. -/
theorem Figures.stepStarted {tick : Tick} (hmem : u.mem = s.mem) (hstart : StepStarted u t c tick) :
    StepStarted s t c tick := by
  obtain ⟨htables, hmode, hawait, hstats, hstep, hparity, hcommits, hshards, hdone, hbarred, hseeds, hforced, hcores, hother,
    hcoves, hstarted, hmem', hplaced⟩ := hstart
  have hbank : coveTideAt u c = coveTideAt s c := by simp only [coveTideAt, h.tide]
  have hctx : ctxAt u = ctxAt s := funext fun i => funext fun k => ctxAt_of_cores h.cores i k
  have hkept : (coveAt u c).step = (coveAt s c).step ∧ (coveAt u c).parity = (coveAt s c).parity
      ∧ (coveAt u c).ckpt = (coveAt s c).ckpt := by
    rw [h.cove]
    exact ⟨rfl, rfl, rfl⟩
  obtain ⟨hstep', hparity', hckpt⟩ := hkept
  have hplace : placementAt u = placementAt s := by funext x; simp only [placementAt, hmem]
  rw [hbank] at htables
  simp only [h.regAt] at hseeds hforced
  rw [h.coresOf, hckpt, hctx] at hcores
  rw [h.coresOf, hctx] at hother
  rw [hmem] at hmem'
  have hunits : placedUnits u c = placedUnits s c := by simp only [placedUnits, hmem]
  rw [hplace, hunits] at hplaced
  exact ⟨htables, hmode, hawait, hstats, hstep.trans hstep', hparity.trans hparity', hcommits, hshards, hdone, hbarred, hseeds,
    hforced, hcores, hother, fun d hd => (hcoves d hd).trans (h.others d hd), hstarted, hmem', hplaced⟩

end

/-- A cove that is held: its causes, with event 0x700A. -/
theorem holdCove_outcome (s : State) (c hcause cause : Nat) : let t := holdCove s c hcause cause
    coveAt t c = { coveAt s c with
      mode := .held, hcause := hcause, changed := s.tide.now, awaitReplay := none, holdReq := false }
    ∧ coveTideAt t c = { coveTideAt s c with slack := true, held := true, cause := cause, restart := 0#64 }
    ∧ Recorded s t 0x700A 1296 ∧ t.cores = s.cores ∧ t.mem = s.mem
    ∧ (∃ cv ct tr h, t = { s with coves := cv, tide := { s.tide with coves := ct }, trace := tr, host := h })
    ∧ CountsOnly [0x700A] s t := by
  dsimp only [holdCove]
  obtain ⟨v, hv⟩ : ∃ v, v = updCoveTide (updCove s c fun v =>
      { v with mode := .held, hcause := hcause, changed := s.tide.now, awaitReplay := none, holdReq := false }) c
    fun t => { t with slack := true, held := true, cause := cause, restart := 0#64 } := ⟨_, rfl⟩
  have hcove : coveAt v c = { coveAt s c with
      mode := .held, hcause := hcause, changed := s.tide.now, awaitReplay := none, holdReq := false } := by
    rw [hv, coveAt_updCoveTide, coveAt_updCove]
  have htables : coveTideAt v c = { coveTideAt s c with slack := true, held := true, cause := cause, restart := 0#64 } := by
    rw [hv, coveTideAt_updCoveTide, coveTideAt_updCove]
  have hframe : ∃ cv ct, v = { s with coves := cv, tide := { s.tide with coves := ct } } := hv ▸ ⟨_, _, rfl⟩
  obtain ⟨cv, ct, hframe⟩ := hframe
  have hrec : Recorded v (recordCove v 0x700A .corrected c []) 0x700A 1296 :=
    recorded_record v _ _ _ _ _ (by decide) (by simp [episodeCode])
  have htrace : v.trace = s.trace := by rw [hframe]
  have hcount : CountsOnly [0x700A] v (recordCove v 0x700A .corrected c []) :=
    countsOnly_record v _ _ _ (by decide) (by decide)
  rw [← hv]
  refine ⟨by rw [recordCove_eq, coveAt_record, hcove], by rw [recordCove_eq, coveTideAt_record, htables],
    recorded_between hrec (eventCount_of_trace htrace) rfl, by rw [recordCove_eq, record_cores, hframe],
    by rw [recordCove_eq, record_mem, hframe], ?_, (countsOnly_of_trace _ htrace).trans hcount⟩
  obtain ⟨tr, ho, e⟩ := record_frame v 0x700A .corrected c 1296 []
  exact ⟨cv, ct, tr, ho, by rw [recordCove_eq, e, hframe]⟩

/-! ### The statement -/

section
variable {c : Nat} (hmode : (coveAt s c).mode = .running)
include hmode

theorem exec_slackWaterEnd (hslack : (coveTideAt s c).slack = true) (hfrozen : coveFrozen (coveAt s c) = false)
    (hawait : (coveAt s c).awaitReplay = none) (hend : slackEnd s c ≤ s.tide.now) :
    exec (.slackWaterEnd c) s = .next (if unaligned s c then holdCove (checkMissing s c) c 4 2
      else startStep (checkMissing s c) c (slackEnd s c)) := by
  have hfig := figures_checkMissing s c
  have hsame : slackEnd (checkMissing s c) c = slackEnd s c := by
    have hentry : tableEntry (checkMissing s c) = tableEntry s := tableEntry_congr (congrArg TideState.tables hfig.tide)
    simp only [slackEnd, planSlack, coveTideAt, hfig.tide, hentry]
  show execSlackWaterEnd c s = _
  unfold execSlackWaterEnd
  dsimp only
  rw [if_pos ⟨hmode, hslack, by simp [hfrozen], by simp [hawait], hend⟩, hfig.unaligned, hsame]

/-- SLACK_WATER_END: the next step, or a cove that is held for want of alignment. -/
theorem slackWaterEnd_outcome (hslack : (coveTideAt s c).slack = true) (hfrozen : coveFrozen (coveAt s c) = false)
    (hawait : (coveAt s c).awaitReplay = none) (hend : slackEnd s c ≤ s.tide.now) :
    (unaligned s c = false → forceRefused s c = false → (coveAt s c).owed = none →
      ∃ t, exec (.slackWaterEnd c) s = .next t ∧ StepStarted s t c (slackEnd s c))
    ∧ (unaligned s c = true → ∃ t, exec (.slackWaterEnd c) s = .next t ∧ (coveAt t c).mode = .held
      ∧ (coveAt t c).hcause = 4 ∧ (coveTideAt t c).cause = 2 ∧ Recorded s t 0x700A 1296
      ∧ t.cores = s.cores ∧ t.mem = s.mem) := by
  have hfig := figures_checkMissing s c
  have hmem := checkMissing_mem s c
  refine ⟨fun hal hforce howed => ⟨_, exec_slackWaterEnd hmode hslack hfrozen hawait hend, ?_⟩,
    fun hal => ⟨_, exec_slackWaterEnd hmode hslack hfrozen hawait hend, ?_⟩⟩
  · rw [hal, if_neg Bool.false_ne_true]
    refine hfig.stepStarted hmem (stepStarted_startStep _ _ (by rw [hfig.forceRefused hmem, hforce]) ?_)
    rw [hfig.cove]
    exact howed
  · rw [hal, if_pos rfl]
    obtain ⟨hcove, htables, hrec, hcores, hmem', -⟩ := holdCove_outcome (checkMissing s c) c 4 2
    refine ⟨by rw [hcove], by rw [hcove], by rw [htables],
      recorded_between hrec (hfig.counts _ _ (by decide) (by simp [episodeCode]) (by decide)) rfl, hcores.trans hfig.cores,
      hmem'.trans hmem⟩

/-- COMMIT_LIMIT: the discard, or one that an engine's recovery holds up. -/
theorem commitLimit_outcome (hslack : (coveTideAt s c).slack = false) (hfrozen : coveFrozen (coveAt s c) = false)
    (hawait : (coveAt s c).awaitReplay = none)
    (hlimit : commitTickOf s c + planCommitOffset s c (coveTideAt s c).bank ≤ s.tide.now) :
    (engineRecovery s c = false → (coveAt s c).replays < 2 → (coveAt s c).ckpt.returnTick = 0 →
      ∃ t, exec (.commitLimit c) s = .next t ∧ StepDiscarded s t c 3 (coveAt s c).dMax ∧ Recorded s t 0xA070 1296)
    ∧ (engineRecovery s c = true → ∃ t, exec (.commitLimit c) s = .next t ∧ Recorded s t 0xA070 1296
      ∧ (coveAt t c).owed = some (3, none) ∧ t.cores = s.cores ∧ t.mem = s.mem) := by
  have e : exec (.commitLimit c) s = .next (discardAnyway (recordCove s 0xA070 .stepContained c []) c 3 none) :=
    if_pos ⟨hmode, hslack, by simp [hfrozen], by simp [hawait], hlimit⟩
  exact ⟨fun hengine hruns hret => ⟨_, e, faultDiscards hmode hslack hawait (by decide) hengine hruns (by simp) hret⟩,
    fun hengine => ⟨_, e, faultOwed hmode hawait hengine⟩⟩

/-- STEP_COMMIT when an arrival of another module landed LATE. -/
theorem stepCommit_late {tick : Tick} (hslack : (coveTideAt s c).slack = false) (hremote : commitRemote s c = true)
    (hengine : engineRecovery s c = false) (hawait : (coveAt s c).awaitReplay = none) (hruns : (coveAt s c).replays < 2)
    (hrepeat : ¬ ((coveAt s c).replaying = true ∧ (coveAt s c).lastCause = 3 ∧ (coveAt s c).lastFail = 0))
    (hret : (coveAt s c).ckpt.returnTick = 0) :
    ∃ t, exec (.stepCommit c (some (tick, true))) s = .next t ∧ StepDiscarded s t c 3 (coveAt s c).dMax
      ∧ Recorded s t 0x5010 1296 := by
  refine ⟨_, if_pos ⟨rfl, hremote, hmode, hslack⟩, faultDiscards hmode hslack hawait (by decide) hengine hruns ?_ hret⟩
  rintro ⟨hreplaying, -, hcause, hkey⟩
  exact hrepeat ⟨hreplaying, hcause, (Option.some.inj hkey).symm⟩

end

/-- Settles O29: the commit, the start of a step and its discard, each from one lemma. -/
theorem stepEnds : Obligations.StepEnds := by
  intro c s _ hmode
  exact ⟨fun remote k hslack hwaits hlate hat => stepCommit_outcome hmode hslack hwaits hlate hat,
    fun tick hslack hremote hengine hawait hruns hrepeat hret =>
      stepCommit_late hmode hslack hremote hengine hawait hruns hrepeat hret,
    fun hslack hfrozen hawait hend => slackWaterEnd_outcome hmode hslack hfrozen hawait hend,
    fun hslack hfrozen hawait hlimit => commitLimit_outcome hmode hslack hfrozen hawait hlimit⟩

end Sys2Proof.Proofs
end

section
/-!
PROOFS. The slack-water actions of a running cove: O31.
-/
namespace Sys2Proof.Proofs
open Sys2Proof Sys2Proof.Machine Sys2Proof.Laws Sys2Proof.Claim

variable {s t u : State}

/-! ### Entries of a copy list (R356, R395) -/

/-- The register of an entry's control word, as an entry that ends leaves it. -/
theorem regAt_endEntry (s : State) (off : Nat) (status) : EntryEnds s (endEntry s off status) off status := by
  unfold EntryEnds endEntry
  exact regAt_setReg ..

theorem endEntry_eq (s : State) (off status) : ∃ r, endEntry s off status = { s with host := { s.host with regs := r } } :=
  ⟨_, rfl⟩

/-- An entry that ends in a state with the registers of `s`, and whose register stays. -/
theorem entryEnds_between {off : Nat} {status : Option Nat} {s' t' : State} (h : EntryEnds s t off status)
    (hs : s.host.regs = s'.host.regs) (ht : t'.host.regs = t.host.regs) : EntryEnds s' t' off status := by
  unfold EntryEnds regAt at *
  rw [ht, ← hs]
  exact h

/-- Only memory, notes and registers differ, and of the events that open no episode only those of copies were counted. -/
structure Copied (s t : State) : Prop where
  frame : t = { s with mem := t.mem, trace := t.trace, host := t.host }
  counts : CountsOnly [0x6041] s t

theorem Copied.refl (s : State) : Copied s s := ⟨rfl, .refl s⟩

theorem Copied.trans (h : Copied s t) (h' : Copied t u) : Copied s u where
  frame := h'.frame.trans (congrArg (fun x : State => { x with mem := u.mem, trace := u.trace, host := u.host }) h.frame)
  counts := h.counts.trans h'.counts

theorem copied_endEntry (s : State) (off status) : Copied s (endEntry s off status) :=
  ⟨rfl, countsOnly_of_trace _ rfl⟩

theorem copied_hbmStore (s : State) (off l) : Copied s (hbmStore s off l) := by
  obtain ⟨_, e⟩ := hbmStore_eq s off l
  rw [e]
  exact ⟨rfl, countsOnly_of_trace _ rfl⟩

/-- An entry of a snapshot that cannot be copied. -/
def entryFailed (s : State) (c off code : Nat) : State := recordCove (endEntry s off (some code)) 0x6041 .corrected c []

/-- An entry that is copied. -/
def entryCopied (s : State) (off dst : Nat) (l : List Byte) : State := endEntry (hbmStore s dst l) off none

theorem entryFailed_outcome (s : State) (c off code : Nat) : let t := entryFailed s c off code
    Copied s t ∧ EntryEnds s t off (some code) ∧ Recorded s t 0x6041 1296 ∧ t.mem = s.mem := by
  unfold entryFailed
  have hends := regAt_endEntry s off (some code)
  obtain ⟨r, e⟩ := endEntry_eq s off (some code)
  have hcopied := copied_endEntry s off (some code)
  rw [e] at hends hcopied ⊢
  obtain ⟨v, hv⟩ : ∃ v : State, v = { s with host := { s.host with regs := r } } := ⟨_, rfl⟩
  rw [← hv] at hends hcopied ⊢
  have hrec : Recorded v (recordCove v 0x6041 .corrected c []) 0x6041 1296 :=
    recorded_record v _ _ _ _ _ (by decide) (by simp [episodeCode])
  have hnoted : Noted v (recordCove v 0x6041 .corrected c []) := noted_record ..
  have hframe : Copied v (recordCove v 0x6041 .corrected c []) :=
    ⟨by rw [hnoted], countsOnly_record v _ _ _ (by decide) (by decide)⟩
  refine ⟨hcopied.trans hframe, entryEnds_between hends rfl (record_regs ..),
    recorded_between hrec (eventCount_of_trace (by rw [hv])) rfl, by rw [hnoted, hv]⟩

theorem entryCopied_outcome (s : State) (off dst : Nat) (l : List Byte) : let t := entryCopied s off dst l
    Copied s t ∧ EntryEnds s t off none ∧ t.mem = (hbmStore s dst l).mem
    ∧ t = { s with mem := t.mem, host := { s.host with regs := t.host.regs } } := by
  unfold entryCopied
  have hends := regAt_endEntry (hbmStore s dst l) off none
  have hcopied := (copied_hbmStore s dst l).trans (copied_endEntry (hbmStore s dst l) off none)
  obtain ⟨m, e⟩ := hbmStore_eq s dst l
  have hmem : (hbmStore s dst l).mem = m := by rw [e]
  rw [hmem]
  rw [e] at hends hcopied ⊢
  exact ⟨hcopied, entryEnds_between hends rfl rfl, rfl, rfl⟩

/-! ### The snapshot (R395) -/

/-- One entry of a snapshot. -/
def snapshotEntry (c : Nat) (s : State) (off : Nat) : State :=
  let e := copyEntry s off
  if !(inUnits s c e.1 e.2.2.1 && inUnits s c e.2.1 e.2.2.1) then entryFailed s c off 2
  else if condemned s (.hbm (e.1 % 2 ^ 44)) e.2.2.1 then entryFailed s c off 6
  else entryCopied s off (e.2.1 % 2 ^ 44) (hbmRead s (e.1 % 2 ^ 44) e.2.2.1)

theorem copied_snapshotEntry (c : Nat) (s : State) (off : Nat) : Copied s (snapshotEntry c s off) := by
  unfold snapshotEntry
  dsimp only
  split
  · exact (entryFailed_outcome ..).1
  · split
    · exact (entryFailed_outcome ..).1
    · exact (entryCopied_outcome ..).1

/-- The cove once its snapshot has been taken. -/
def snapshotTaken (s : State) (c : Nat) : State :=
  actionEnded (recordCove (updCove s c fun v =>
    { v with evalArm := false, evalDone := true, evalDeferred := false, evalStep := BitVec.ofNat 32 v.step.toNat })
    0x6040 .corrected c []) c 1

theorem snapshotTaken_outcome (s : State) (c : Nat) : let t := snapshotTaken s c
    (coveAt t c).evalArm = false ∧ (coveAt t c).evalDone = true ∧ (coveAt t c).evalDeferred = false
    ∧ (coveAt t c).evalStep = BitVec.ofNat 32 (coveAt s c).step.toNat ∧ (coveAt t c).actionsDone = 1
    ∧ Recorded s t 0x6040 1296 ∧ t.cores = s.cores ∧ t.mem = s.mem ∧ t.host.regs = s.host.regs
    ∧ CountsOnly [0x6040] s t := by
  dsimp only [snapshotTaken]
  obtain ⟨v, hv⟩ : ∃ v, v = updCove s c fun v =>
    { v with evalArm := false, evalDone := true, evalDeferred := false, evalStep := BitVec.ofNat 32 v.step.toNat } := ⟨_, rfl⟩
  have hcove : coveAt v c = { coveAt s c with
      evalArm := false, evalDone := true, evalDeferred := false
      evalStep := BitVec.ofNat 32 (coveAt s c).step.toNat } := by
    rw [hv, coveAt_updCove]
  have hrec : Recorded v (recordCove v 0x6040 .corrected c []) 0x6040 1296 :=
    recorded_record v _ _ _ _ _ (by decide) (by simp [episodeCode])
  have hcount : CountsOnly [0x6040] v (recordCove v 0x6040 .corrected c []) :=
    countsOnly_record v _ _ _ (by decide) (by decide)
  have hregs : (recordCove v 0x6040 .corrected c []).host.regs = v.host.regs := record_regs ..
  have hnoted : Noted v (recordCove v 0x6040 .corrected c []) := noted_record ..
  have htrace : v.trace = s.trace := by rw [hv, updCove_trace]
  rw [← hv]
  generalize recordCove v 0x6040 .corrected c [] = w at *
  have hwcove : coveAt w c = coveAt v c := by rw [coveAt, hnoted]; rfl
  rw [actionEnded, coveAt_updCove, hwcove, hcove, updCove_cores, updCove_mem, updCove_host]
  refine ⟨rfl, rfl, rfl, rfl, rfl, recorded_between hrec (eventCount_of_trace htrace) rfl, by rw [hnoted, hv, updCove_cores],
    by rw [hnoted, hv, updCove_mem], hregs.trans (by rw [hv, updCove_host]), ?_⟩
  exact (countsOnly_of_trace _ htrace).trans (hcount.trans (countsOnly_of_trace _ rfl))

section
variable {c : Nat} (harm : (coveAt s c).evalArm = true) (hopen : actionOpen s c 1 = true)
include harm hopen

/-- A snapshot that does not fit its slack water. -/
theorem slackEvalSnapshot_defers
    (hfit : fitsSlack s c (slackTicks s c 0xF 1 (entryBytes s (openEntries s (cvReg c 0x300) 8))) = false) :
    ∃ t, exec (.slackEvalSnapshot c) s = .next t ∧ Deferred s t c 1 7 ∧ (coveAt t c).evalDeferred = true
      ∧ (coveAt t c).barred = 1 := by
  obtain ⟨hself, hrec, htide, hcores, hmem⟩ := deferRest_outcome (updCove s c fun v => { v with evalDeferred := true }) c 1
  refine ⟨deferRest (updCove s c fun v => { v with evalDeferred := true }) c 1, ?_, ?_⟩
  · show execSlackEvalSnapshot c s = _
    simp only [execSlackEvalSnapshot, harm, hopen, hfit, Bool.not_true, Bool.not_false, Bool.or_self, Bool.false_eq_true,
      if_false, if_true]
  · rw [coveAt_updCove] at hself
    rw [Deferred, hself]
    exact ⟨⟨rfl, rfl, rfl, recorded_between hrec rfl rfl, hcores, hmem, htide⟩, rfl, rfl⟩

/-- A snapshot that fits its slack water. -/
theorem slackEvalSnapshot_takes
    (hfit : fitsSlack s c (slackTicks s c 0xF 1 (entryBytes s (openEntries s (cvReg c 0x300) 8))) = true) :
    let l := openEntries s (cvReg c 0x300) 8
    ∃ t, exec (.slackEvalSnapshot c) s = .next t
      ∧ (coveAt t c).evalArm = false ∧ (coveAt t c).evalDone = true ∧ (coveAt t c).evalDeferred = false
      ∧ (coveAt t c).evalStep = BitVec.ofNat 32 (coveAt s c).step.toNat ∧ (coveAt t c).actionsDone = 1
      ∧ Recorded s t 0x6040 1296 ∧ t.cores = s.cores
      ∧ ∀ off, l = [off] →
        let e := copyEntry s off
        let ok := inUnits s c e.1 e.2.2.1 && inUnits s c e.2.1 e.2.2.1
        (ok = true → condemned s (.hbm (e.1 % 2 ^ 44)) e.2.2.1 = false → EntryEnds s t off none
          ∧ t.mem = (hbmStore s (e.2.1 % 2 ^ 44) (hbmRead s (e.1 % 2 ^ 44) e.2.2.1)).mem)
        ∧ (ok = true → condemned s (.hbm (e.1 % 2 ^ 44)) e.2.2.1 = true →
          EntryEnds s t off (some 6) ∧ Recorded s t 0x6041 1296 ∧ t.mem = s.mem)
        ∧ (ok = false → EntryEnds s t off (some 2) ∧ Recorded s t 0x6041 1296 ∧ t.mem = s.mem) := by
  intro l
  have e : exec (.slackEvalSnapshot c) s =
      .next (snapshotTaken (forEach s l (snapshotEntry c)) c) := by
    show execSlackEvalSnapshot c s = _
    unfold execSlackEvalSnapshot
    dsimp only
    rw [if_neg (by simp [harm, hopen]), if_neg (by simp [hfit])]
    rfl
  have hcopied : Copied s (forEach s l (snapshotEntry c)) :=
    forEach_rel .refl .trans fun t off _ => copied_snapshotEntry c t off
  obtain ⟨harm', hdone, hdeferred, hstep, hactions, hrec, hcores, hmem, hregs, hcount⟩ :=
    snapshotTaken_outcome (forEach s l (snapshotEntry c)) c
  have hcove : coveAt (forEach s l (snapshotEntry c)) c = coveAt s c := by rw [coveAt, hcopied.frame]; rfl
  rw [hcove] at hstep
  refine ⟨_, e, harm', hdone, hdeferred, hstep, hactions,
    recorded_between hrec (hcopied.counts _ _ (by decide) (by simp [episodeCode]) (by decide)) rfl,
    hcores.trans (by rw [hcopied.frame]), fun off hl => ?_⟩
  have hone : forEach s l (snapshotEntry c) = snapshotEntry c s off := by rw [hl]; rfl
  rw [hone] at hmem hregs hcount ⊢
  have hnote : eventCount (snapshotTaken (snapshotEntry c s off) c) 0x6041 1296
      = eventCount (snapshotEntry c s off) 0x6041 1296 := hcount _ _ (by decide) (by simp [episodeCode]) (by decide)
  generalize snapshotTaken (snapshotEntry c s off) c = t at *
  refine ⟨fun hok hgood => ?_, fun hok hbad => ?_, fun hok => ?_⟩
  · have hentry : snapshotEntry c s off = entryCopied s off ((copyEntry s off).2.1 % 2 ^ 44)
        (hbmRead s ((copyEntry s off).1 % 2 ^ 44) (copyEntry s off).2.2.1) := by
      simp only [snapshotEntry, hok, hgood, Bool.not_true, Bool.false_eq_true, if_false]
    rw [hentry] at hmem hregs
    obtain ⟨-, hends, hstored, -⟩ := entryCopied_outcome s off ((copyEntry s off).2.1 % 2 ^ 44)
      (hbmRead s ((copyEntry s off).1 % 2 ^ 44) (copyEntry s off).2.2.1)
    exact ⟨entryEnds_between hends rfl hregs, hmem.trans hstored⟩
  · have hentry : snapshotEntry c s off = entryFailed s c off 6 := by
      simp only [snapshotEntry, hok, hbad, Bool.not_true, Bool.false_eq_true, if_false, if_true]
    rw [hentry] at hmem hregs hnote
    obtain ⟨-, hends, hfailed, hkept⟩ := entryFailed_outcome s c off 6
    exact ⟨entryEnds_between hends rfl hregs, recorded_between hfailed rfl hnote, hmem.trans hkept⟩
  · have hentry : snapshotEntry c s off = entryFailed s c off 2 := by
      simp only [snapshotEntry, hok, Bool.not_false, if_true]
    rw [hentry] at hmem hregs hnote
    obtain ⟨-, hends, hfailed, hkept⟩ := entryFailed_outcome s c off 2
    exact ⟨entryEnds_between hends rfl hregs, recorded_between hfailed rfl hnote, hmem.trans hkept⟩

end

/-! ### Dies that are cleared (R213, R351) -/

/-- One die cleared: its near memory and its cores. -/
def clearDie (s : State) (d : Nat) : State :=
  let s := updNear s d fun _ => []
  let s := { s with mem := { s.mem with nearMarks := s.mem.nearMarks.filter fun b => b.1 / 2 ^ 18 != d } }
  forEach (forEach s (List.range 4) fun s k => updCluster s (4 * d + k) fun x =>
      { ClusterState.reset with thresherDown := x.thresherDown })
    (List.range 16) fun s k => updCore s (16 * d + k) fun x => { CoreState.reset with engineDown := x.engineDown }

/-- A die holds nothing. -/
def DieClear (s : State) (d : Nat) : Prop :=
  nearAt s d = [] ∧ ∀ k, k < 16 → (coreAt s (16 * d + k)).scratch = [] ∧ (coreAt s (16 * d + k)).ctxs = []

/-- The parts of a state that clearing dies changes. -/
def DiesOnly (s t : State) : Prop := t = { s with cores := t.cores, clusters := t.clusters, mem := t.mem }

theorem DiesOnly.trans (h : DiesOnly s t) (h' : DiesOnly t u) : DiesOnly s u :=
  Eq.trans h' (congrArg (fun x : State => { x with cores := u.cores, clusters := u.clusters, mem := u.mem }) h)

/-- Before its cores, clearing a die changes its near memory. -/
theorem clearDie_eq (s : State) (d : Nat) : ∃ v, clearDie s d = forEach v (List.range 16)
      (fun s k => updCore s (16 * d + k) fun x => { CoreState.reset with engineDown := x.engineDown })
    ∧ DiesOnly s v ∧ v.cores = s.cores ∧ v.mem.near = Sparse.set [] s.mem.near d [] := by
  obtain ⟨w, hw⟩ : ∃ w : State, w = { updNear s d fun _ => [] with mem := { (updNear s d fun _ => []).mem with
    nearMarks := s.mem.nearMarks.filter fun b => b.1 / 2 ^ 18 != d } } := ⟨_, rfl⟩
  have hclusters : ∃ cl, forEach w (List.range 4) (fun s k => updCluster s (4 * d + k) fun x =>
      { ClusterState.reset with thresherDown := x.thresherDown }) = { w with clusters := cl } :=
    ⟨_, forEach_rel (R := fun s t => t = { s with clusters := t.clusters }) (fun _ => rfl)
      (fun {_ _ c} e e' => e'.trans (congrArg (fun y : State => { y with clusters := c.clusters }) e)) fun _ _ _ => rfl⟩
  obtain ⟨cl, e⟩ := hclusters
  refine ⟨{ w with clusters := cl }, ?_, ?_, ?_, ?_⟩
  · rw [← e, hw]
    rfl
  · rw [hw]
    rfl
  · rw [hw]
    rfl
  · rw [hw]
    rfl

theorem diesOnly_clearDie (s : State) (d : Nat) : DiesOnly s (clearDie s d) := by
  obtain ⟨v, e, hv, -⟩ := clearDie_eq s d
  rw [e]
  exact hv.trans (forEach_rel (R := DiesOnly) (fun _ => rfl) .trans fun _ _ _ => rfl)

theorem nearAt_clearDie (s : State) (d x : Nat) : nearAt (clearDie s d) x = if x = d then [] else nearAt s x := by
  obtain ⟨v, e, -, -, hnear⟩ := clearDie_eq s d
  have hmem : (clearDie s d).mem = v.mem := by
    rw [e]
    exact forEach_same (fun t => t.mem) fun _ _ _ => rfl
  rw [nearAt, hmem, hnear, get_set]
  rfl

theorem coreAt_clearDie_other {d i : Nat} (s : State) (h : ∀ k, k < 16 → i ≠ 16 * d + k) :
    coreAt (clearDie s d) i = coreAt s i := by
  obtain ⟨v, e, -, hcores, -⟩ := clearDie_eq s d
  have hv : coreAt v i = coreAt s i := by simp only [coreAt, hcores]
  rw [e, ← hv]
  exact forEach_same (fun t => coreAt t i) fun t k hk => coreAt_updCore_other _ _ _ _ (h k (List.mem_range.1 hk))

theorem dieClear_clearDie (s : State) (d : Nat) : DieClear (clearDie s d) d := by
  refine ⟨by rw [nearAt_clearDie, if_pos rfl], fun k hk => ?_⟩
  obtain ⟨v, e, -⟩ := clearDie_eq s d
  rw [e]
  refine forEach_establish (p := fun t k => (coreAt t (16 * d + k)).scratch = [] ∧ (coreAt t (16 * d + k)).ctxs = [])
    (fun t a => ?_) (fun t a b hb => ?_) (.inl (List.mem_range.2 hk))
  · rw [coreAt_updCore]
    exact ⟨rfl, rfl⟩
  · by_cases h : b = a
    · subst h
      rw [coreAt_updCore]
      exact ⟨rfl, rfl⟩
    · rw [coreAt_updCore_other _ _ _ _ (by omega)]
      exact hb

/-- The listed dies hold nothing, and the others are as they were. -/
theorem clearDies_outcome (s : State) (l : List Nat) : let t := clearDies s l
    DiesOnly s t ∧ (∀ d ∈ l, DieClear t d)
    ∧ ∀ d, d ∉ l → nearAt t d = nearAt s d ∧ ∀ k, k < 16 → coreAt t (16 * d + k) = coreAt s (16 * d + k) := by
  have hcore {d b : Nat} (t : State) (h : b ≠ d) (k : Nat) (hk : k < 16) :
      coreAt (clearDie t d) (16 * b + k) = coreAt t (16 * b + k) := coreAt_clearDie_other t fun j hj => by omega
  refine ⟨forEach_rel (R := DiesOnly) (f := clearDie) (fun _ => rfl) .trans fun t d _ => diesOnly_clearDie t d,
    fun d hd => ?_, fun d hd => ⟨?_, fun k hk => ?_⟩⟩
  · refine forEach_establish (p := DieClear) (f := clearDie) dieClear_clearDie (fun t a b hb => ?_) (.inl hd)
    by_cases h : b = a
    · subst h
      exact dieClear_clearDie t b
    · refine ⟨by rw [nearAt_clearDie, if_neg h, hb.1], fun k hk => ?_⟩
      rw [hcore t h k hk]
      exact hb.2 k hk
  · refine forEach_same (f := clearDie) (fun t => nearAt t d) fun t a ha => ?_
    rw [nearAt_clearDie, if_neg (ne_of_mem_of_not_mem ha hd).symm]
  · exact forEach_same (f := clearDie) (fun t => coreAt t (16 * d + k)) fun t a ha =>
      hcore t (ne_of_mem_of_not_mem ha hd).symm k hk

/-! ### Units given up, and the quota (R346, R351) -/

theorem passFrames_eq (s : State) (l o) : ∃ m, passFrames s l o = { s with mem := m } ∧ m.near = s.mem.near := by
  have h : (fun s t : State => t = { s with mem := t.mem } ∧ t.mem.near = s.mem.near) s (passFrames s l o) :=
    forEach_rel (R := fun s t : State => t = { s with mem := t.mem } ∧ t.mem.near = s.mem.near) (fun _ => ⟨rfl, rfl⟩)
      (fun {_ _ c} e e' => ⟨e'.1.trans (congrArg (fun y : State => { y with mem := c.mem }) e.1), e'.2.trans e.2⟩)
      fun _ _ _ => ⟨rfl, rfl⟩
  exact ⟨_, h⟩

/-- Giving up units changes the unit lists, frames and HBM. -/
theorem giveUpUnits_outcome (s : State) (c : Nat) : let t := giveUpUnits s c
    (∃ a b, coveAt t c = { coveAt s c with unitsI := a, unitsS := b }) ∧ t.cores = s.cores ∧ t.mem.near = s.mem.near := by
  unfold giveUpUnits
  extract_lets v outI outS s1
  obtain ⟨m, e, hnear⟩ := passFrames_eq s (outI.flatMap framesOfI ++ outS.flatMap fun u => framesOfS (u / 64) (u % 64)) .free
  have h1 : s1 = { s with mem := m } := e
  have hcove : coveAt s1 c = coveAt s c := by rw [h1]; rfl
  refine ⟨⟨(coveAt s c).unitsI.filter (!outI.contains ·), (coveAt s c).unitsS.filter (!outS.contains ·), ?_⟩, ?_, ?_⟩
  · rw [coveAt_updCove, hcove]
  · rw [updCove_cores, h1]
  · rw [updCove_mem, h1, hnear]

theorem checkQuota_outcome (s : State) (c : Nat) : let t := checkQuota s c
    (∃ a b, coveAt t c = { coveAt s c with overHbm := a, blocked := b }) ∧ t.cores = s.cores ∧ t.mem = s.mem := by
  unfold checkQuota
  dsimp only
  split
  · exact ⟨⟨_, _, rfl⟩, rfl, rfl⟩
  · rw [recordCove_eq, coveAt_record, record_cores, record_mem, coveAt_updCove]
    exact ⟨⟨_, _, rfl⟩, rfl, rfl⟩

/-! ### The ebb (R351) -/

section
variable {c : Nat} {mask : DWord} {t0 : Tick} (hmode : (coveAt s c).mode = .running)
  (hreshape : (coveAt s c).reshape = some (mask, t0)) (hok : (coveAt s c).reshapeOk = true)
  (harm : (coveAt s c).evalArm = false)
include hmode hreshape hok harm

/-- The dies of an ebb leave the cove once they are cleared. -/
def ebbed (s : State) (c : Nat) (mask : DWord) : State :=
  actionEnded (checkQuota (giveUpUnits (updCove (clearDies s (reshapeDies (coveAt s c) mask).1) c
    fun v => { v with dies := v.dies &&& mask }) c) c) c 2

theorem exec_slackEbb (hopen : actionOpen s c 2 = true) (hflood : (reshapeDies (coveAt s c) mask).2 ≠ []) :
    exec (.slackEbb c) s = .next (ebbed s c mask) := by
  show execSlackEbb c s = _
  unfold execSlackEbb
  rw [if_neg (show ¬ (coveAt s c).mode = .held by rw [hmode]; nofun)]
  dsimp only
  rw [hreshape]
  dsimp only
  rw [if_neg (by simp [ebbPending, hok, hreshape, hopen, harm]), if_neg (by simpa using hflood)]
  rfl

/-- SLACK_EBB of a reshape with dies to flood. -/
theorem slackEbb_outcome (hopen : actionOpen s c 2 = true) (hflood : (reshapeDies (coveAt s c) mask).2 ≠ []) :
    let v := coveAt s c
    let ebb := (reshapeDies v mask).1
    ∃ t, exec (.slackEbb c) s = .next t
      ∧ (coveAt t c).dies = v.dies &&& mask ∧ (coveAt t c).actionsDone = 2 ∧ (coveAt t c).reshape = v.reshape
      ∧ (∀ d ∈ ebb, nearAt t d = [] ∧ ∀ k, k < 16 → (coreAt t (16 * d + k)).scratch = []
          ∧ (coreAt t (16 * d + k)).ctxs = [])
      ∧ (∀ d, d ∉ ebb → nearAt t d = nearAt s d ∧ ∀ k, k < 16 → coreAt t (16 * d + k) = coreAt s (16 * d + k)) := by
  intro v ebb
  refine ⟨_, exec_slackEbb hmode hreshape hok harm hopen hflood, ?_⟩
  obtain ⟨hframe, hclear, hkept⟩ := clearDies_outcome s ebb
  obtain ⟨w, hw⟩ : ∃ w, w = updCove (clearDies s ebb) c fun v => { v with dies := v.dies &&& mask } := ⟨_, rfl⟩
  have hwcove : coveAt w c = { v with dies := v.dies &&& mask } := by
    rw [hw, coveAt_updCove, coveAt, hframe]
    rfl
  have hwkept : w.cores = (clearDies s ebb).cores ∧ w.mem = (clearDies s ebb).mem := by rw [hw]; exact ⟨rfl, rfl⟩
  have hebbed : ebbed s c mask = actionEnded (checkQuota (giveUpUnits w c) c) c 2 := by rw [hw]; rfl
  obtain ⟨⟨a, b, hunits⟩, hcores, hnear⟩ := giveUpUnits_outcome w c
  obtain ⟨⟨a', b', hquota⟩, hcores', hmem'⟩ := checkQuota_outcome (giveUpUnits w c) c
  rw [hebbed]
  generalize clearDies s ebb = x at *
  generalize giveUpUnits w c = y at *
  generalize checkQuota y c = z at *
  rw [hunits, hwcove] at hquota
  have hcoreAt (i) : coreAt (actionEnded z c 2) i = coreAt x i := by
    rw [actionEnded, coreAt, updCove_cores, hcores', hcores, hwkept.1]
    rfl
  have hnearAt (d) : nearAt (actionEnded z c 2) d = nearAt x d := by
    rw [actionEnded, nearAt, updCove_mem, hmem', hnear, hwkept.2]
    rfl
  rw [actionEnded, coveAt_updCove, hquota, ← actionEnded]
  simp only [hcoreAt, hnearAt]
  exact ⟨trivial, trivial, trivial, hclear, hkept⟩

end

/-! ### A variant loaded (R340, R352) -/

/-- Only cores differ. -/
def OnlyCores (s t : State) : Prop := t = { s with cores := t.cores }

theorem OnlyCores.trans (h : OnlyCores s t) (h' : OnlyCores t u) : OnlyCores s u :=
  Eq.trans h' (congrArg (fun x : State => { x with cores := u.cores }) h)

theorem onlyCores_forEach {α : Type} {l : List α} {f : State → α → State} (h : ∀ t a, OnlyCores t (f t a)) :
    OnlyCores s (forEach s l f) :=
  forEach_rel (R := OnlyCores) (fun _ => rfl) .trans fun t a _ => h t a

theorem onlyCores_loadCore (s : State) (core used im) : OnlyCores s (loadCore s core used im) := by
  unfold loadCore
  refine .trans (t := updCore s core _) rfl (onlyCores_forEach fun t k => ?_)
  dsimp only
  split <;> rfl

/-- Only cores and coves differ. -/
def Loaded (s t : State) : Prop := t = { s with cores := t.cores, coves := t.coves }

theorem Loaded.trans (h : Loaded s t) (h' : Loaded t u) : Loaded s u :=
  Eq.trans h' (congrArg (fun x : State => { x with cores := u.cores, coves := u.coves }) h)

theorem OnlyCores.loaded (h : OnlyCores s t) : Loaded s t := by
  rw [OnlyCores] at h
  rw [h]
  rfl

theorem OnlyCores.coveAt (h : OnlyCores s t) (c : Nat) : coveAt t c = Machine.coveAt s c := by
  rw [OnlyCores] at h
  rw [h]
  rfl

theorem applyTags_outcome (s : State) (c : Nat) :
    (∃ tags, coveAt (applyTags s c) c = { coveAt s c with tags := tags }) ∧ Loaded s (applyTags s c) := by
  unfold applyTags
  extract_lets tags s1 v
  have h1 : Loaded s s1 := rfl
  have hcove : coveAt s1 c = { coveAt s c with tags := tags } := coveAt_updCove ..
  clear_value s1
  have h : OnlyCores s1 (forEach s1 (ctxsOf v) fun s p =>
      updCtx s p.1 p.2 fun x => { x with jobTag := Sparse.get 0#32 tags p.2 }) := onlyCores_forEach fun _ _ => rfl
  exact ⟨⟨tags, (h.coveAt c).trans hcove⟩, h1.trans h.loaded⟩

/-- A variant that is loaded: the cove takes its shape, and neither registers nor tables nor notes change. -/
theorem loadVariant_outcome {c i : Nat} {mask : DWord} (h : (loadVariant s c i mask).1 = true) :
    (∃ w : Cove, coveAt (loadVariant s c i mask).2 c = { coveAt s c with
        variant := i + 1, vGen := w.vGen, vClock := w.vClock, clusterMask := w.clusterMask, ctxUsed := w.ctxUsed
        dies := mask, cores := w.cores, tags := w.tags })
    ∧ Loaded s (loadVariant s c i mask).2 := by
  revert h
  unfold loadVariant
  extract_lets v sec used dies cores image live s1 s2 s3
  split
  · nofun
  · split
    · nofun
    · split
      · intro _
        have h1 : Loaded s s1 := rfl
        have hcove : coveAt s1 c = _ := coveAt_updCove s c _
        clear_value s1
        have h2 : OnlyCores s1 s2 := onlyCores_forEach fun t p => by
          split
          · exact onlyCores_loadCore ..
          · exact onlyCores_loadCore ..
        clear_value s2
        obtain ⟨⟨tags, htags⟩, h3⟩ : (∃ tags, coveAt s3 c = { coveAt s2 c with tags := tags }) ∧ Loaded s2 s3 :=
          applyTags_outcome s2 c
        rw [h2.coveAt, hcove] at htags
        exact ⟨⟨coveAt s3 c, by rw [htags]⟩, (h1.trans h2.loaded).trans h3⟩
      · nofun

/-! ### The end of a reshape (R351) -/

/-- Staging a bank changes the tables. -/
theorem stageBank_eq (s : State) (c i : Nat) : ∃ tb, stageBank s c i = { s with tide := { s.tide with tables := tb } } := by
  have h {α : Type} (s : State) (l : List α) (e : α → Nat) (v : α → DWord) (b : Bool) :
      ∃ tb, forEach s l (fun s a => setTable s 0 c b (e a) (v a)) = { s with tide := { s.tide with tables := tb } } :=
    ⟨_, forEach_rel (R := fun s t => t = { s with tide := { s.tide with tables := t.tide.tables } }) (fun _ => rfl)
      (fun {_ _ c} e e' => e'.trans (congrArg (fun y : State => { y with tide := { y.tide with tables := c.tide.tables } }) e))
      fun _ _ _ => rfl⟩
  unfold stageBank
  obtain ⟨tb, e⟩ := h s (List.range 4096) (fun e => e) (fun _ => 0#64) (!(coveTideAt s c).bank)
  obtain ⟨tb', e'⟩ := h { s with tide := { s.tide with tables := tb } } (variantSections (coveAt s c) i).bank (·.1) (·.2)
    (!(coveTideAt s c).bank)
  dsimp only
  rw [e, show (variantSections (coveAt { s with tide := { s.tide with tables := tb } } c) i) = variantSections (coveAt s c) i
    from rfl, e']
  exact ⟨tb', rfl⟩

theorem reshapeEnds_of_none {c : Nat} (h : (coveAt s c).reshaped = none) : reshapeEnds s c = s := by
  simp only [reshapeEnds, h]

theorem coveAt_switchBank (s : State) (c : Nat) (adopt : Bool) :
    coveAt (switchBank s c adopt) c = { coveAt s c with atClock := (coveAt s c).dies } := by
  unfold switchBank
  dsimp only
  rw [coveAt_updCoveTide, coveAt_updCove]

/-- The cove and its tables at the switch to the bank of a reshape, before its event. -/
def reshapeSwitched (s : State) (c i : Nat) : State :=
  updCove (switchBank (stageBank s c i) c true) c fun v =>
    { v with reshaped := none, reason := if v.reason = 14 then 14 else 0, deferred := false, actionsDone := max 5 v.actionsDone }

theorem reshapeSwitched_outcome (s : State) (c i : Nat) : let t := reshapeSwitched s c i
    coveAt t c = { coveAt s c with
      atClock := (coveAt s c).dies, reshaped := none, reason := if (coveAt s c).reason = 14 then 14 else 0, deferred := false
      actionsDone := max 5 (coveAt s c).actionsDone }
    ∧ (coveTideAt t c).bank = (!(coveTideAt s c).bank) ∧ (coveTideAt t c).prevBank = (coveTideAt s c).bank
    ∧ t = { s with coves := t.coves, tide := t.tide } := by
  dsimp only [reshapeSwitched]
  obtain ⟨tb, e⟩ := stageBank_eq s c i
  have hcove : coveAt (stageBank s c i) c = coveAt s c := by rw [e]; rfl
  have htide : coveTideAt (stageBank s c i) c = coveTideAt s c := by rw [e]; rfl
  have hbank := coveTideAt_switchBank (stageBank s c i) c true
  have hswitch : coveAt (switchBank (stageBank s c i) c true) c = { coveAt s c with atClock := (coveAt s c).dies } := by
    rw [coveAt_switchBank, hcove]
  obtain ⟨cv, ct, e'⟩ := switchBank_eq (stageBank s c i) c true
  rw [htide] at hbank
  rw [coveAt_updCove, coveTideAt_updCove, hswitch, hbank]
  refine ⟨rfl, rfl, rfl, ?_⟩
  rw [e', e]
  rfl

/-- Action 5 of a reshape: the switch to its bank and its event. -/
theorem reshapeEnds_outcome {c i : Nat} {old : DWord} (h : (coveAt s c).reshaped = some (i, old)) : let t := reshapeEnds s c
    coveAt t c = { coveAt s c with
      atClock := (coveAt s c).dies, reshaped := none, reason := if (coveAt s c).reason = 14 then 14 else 0, deferred := false
      actionsDone := max 5 (coveAt s c).actionsDone }
    ∧ (coveTideAt t c).bank = (!(coveTideAt s c).bank) ∧ (coveTideAt t c).prevBank = (coveTideAt s c).bank
    ∧ Recorded s t (if (coveAt s c).dies &&& ~~~ old = 0#64 then 0x7004 else 0x7005) 1296
    ∧ t.cores = s.cores ∧ t.mem = s.mem ∧ t.host.regs = s.host.regs ∧ CountsOnly [0x7004, 0x7005] s t := by
  obtain ⟨code, hcode⟩ : ∃ k, k = if (coveAt s c).dies &&& ~~~ old = 0#64 then 0x7004 else 0x7005 := ⟨_, rfl⟩
  have hlisted : code ∈ [0x7004, 0x7005] := by
    rw [hcode]
    split <;> decide
  have e : reshapeEnds s c = record (reshapeSwitched s c i) code .corrected c 1296 [old.toNat, (coveAt s c).dies.toNat] := by
    rw [hcode]
    simp only [reshapeEnds, h]
    rfl
  obtain ⟨hcove, hbank, hprev, hframe⟩ := reshapeSwitched_outcome s c i
  rw [e, ← hcode]
  dsimp only
  rw [coveAt_record, coveTideAt_record, record_cores, record_mem, record_regs]
  generalize reshapeSwitched s c i = v at *
  have htrace : v.trace = s.trace := by rw [hframe]
  have hrec : Recorded v (record v code .corrected c 1296 [old.toNat, (coveAt s c).dies.toNat]) code 1296 :=
    recorded_record v _ _ _ _ _ (by decide) (by rw [hcode]; split <;> simp [episodeCode])
  exact ⟨hcove, hbank, hprev, recorded_between hrec (eventCount_of_trace htrace) rfl, by rw [hframe], by rw [hframe],
    by rw [hframe], (countsOnly_of_trace _ htrace).trans (countsOnly_record v _ _ _ (by decide) hlisted)⟩

/-! ### A reshape that waits (R353) -/

theorem countsOnly_deferAction (s : State) (c n r : Nat) : CountsOnly [0x7006] s (deferAction s c n r) :=
  .trans (t := updCove s c fun v => { v with deferred := true, action := n, reason := r }) (countsOnly_of_trace _ rfl)
    (countsOnly_record _ _ _ _ (by decide) (by decide))

theorem deferred_deferAction (s : State) (c n r : Nat) : Deferred s (deferAction s c n r) c n r := by
  obtain ⟨hself, hrec, htide, hcores, hmem⟩ := deferAction_outcome s c n r
  rw [Deferred, hself]
  exact ⟨rfl, rfl, rfl, hrec, hcores, hmem, htide⟩

/-- While the dies of the cove are those of its bank, the action waits. -/
theorem reshapeStuck_defers {c : Nat} (n r : Nat) (h : (coveAt s c).dies = (coveAt s c).atClock) :
    Deferred s (reshapeStuck s c n r) c n r := by
  have hdeferred := deferred_deferAction s c n r
  obtain ⟨hself, -⟩ := deferAction_outcome s c n r
  have e : reshapeStuck s c n r = deferAction s c n r := by
    rw [reshapeStuck, hself]
    exact if_neg fun h' => h'.1 h
  rw [e]
  exact hdeferred

/-- Once some of its dies have gone, the cove is held as well. -/
theorem reshapeStuck_holds {c : Nat} (n r : Nat) (h : (coveAt s c).dies ≠ (coveAt s c).atClock)
    (hmode : (coveAt s c).mode = .running) : let t := reshapeStuck s c n r
    (coveAt t c).mode = .held ∧ (coveAt t c).hcause = 5 ∧ (coveAt t c).dies = (coveAt s c).dies ∧ (coveAt t c).reason = r
    ∧ Recorded s t 0x7006 1296 ∧ Recorded s t 0x700A 1296 := by
  obtain ⟨hself, hrec, -⟩ := deferAction_outcome s c n r
  have hcount := countsOnly_deferAction s c n r
  have e : reshapeStuck s c n r = holdCove (deferAction s c n r) c 5 0 := by
    rw [reshapeStuck, hself]
    exact if_pos ⟨h, hmode⟩
  rw [e]
  generalize deferAction s c n r = w at *
  obtain ⟨hcove, -, hheld, -, -, -, hcount'⟩ := holdCove_outcome w c 5 0
  dsimp only
  rw [hcove, hself]
  exact ⟨rfl, rfl, rfl, rfl, recorded_between hrec rfl (hcount' _ _ (by decide) (by simp [episodeCode]) (by decide)),
    recorded_between hheld (hcount _ _ (by decide) (by simp [episodeCode]) (by decide)) rfl⟩

/-! ### A reshape whose variant is loaded (R351, R352) -/

section
variable {c i n : Nat} {mask : DWord} (hload : (loadVariant s c i mask).1 = true)

/-- The cove with its variant loaded. -/
def reshapeLoaded (s : State) (c n i : Nat) (mask : DWord) : State :=
  actionEnded (updCove (loadVariant s c i mask).2 c fun v =>
    { v with reshape := none, reshapeOk := false, reshaped := some (i, v.atClock) }) c n

include hload

theorem reshapeLoaded_outcome (n : Nat) : let t := reshapeLoaded s c n i mask
    (coveAt t c).dies = mask ∧ (coveAt t c).variant = i + 1 ∧ (coveAt t c).reshape = none ∧ (coveAt t c).actionsDone = n
    ∧ (coveAt t c).reshaped = some (i, (coveAt s c).atClock) ∧ t = { s with cores := t.cores, coves := t.coves } := by
  obtain ⟨⟨w, hcove⟩, hframe⟩ := loadVariant_outcome hload
  dsimp only [reshapeLoaded]
  generalize (loadVariant s c i mask).2 = x at *
  rw [actionEnded, coveAt_updCove, coveAt_updCove, hcove]
  refine ⟨rfl, rfl, rfl, rfl, rfl, ?_⟩
  rw [hframe]
  rfl

theorem reshapeLoad_eq (n : Nat) : reshapeLoad s c n i mask =
    if (openEntries s (cvReg c 0x400) 32).isEmpty then reshapeEnds (reshapeLoaded s c n i mask) c
    else reshapeLoaded s c n i mask := by
  obtain ⟨-, -, -, -, -, hframe⟩ := reshapeLoaded_outcome hload n
  have hentries : openEntries (reshapeLoaded s c n i mask) (cvReg c 0x400) 32 = openEntries s (cvReg c 0x400) 32 := by
    rw [hframe]
    rfl
  rw [← hentries]
  simp only [reshapeLoad, hload, Bool.not_true, Bool.false_eq_true, if_false]
  rfl

/-- A reshape whose variant loads at its flood: the switch comes at once where no copy is asked for. -/
theorem reshapeLoad_outcome : let t := reshapeLoad s c 3 i mask
    let v := coveAt s c
    (coveAt t c).dies = mask ∧ (coveAt t c).variant = i + 1 ∧ (coveAt t c).reshape = none
    ∧ (openEntries s (cvReg c 0x400) 32 = [] → (coveAt t c).actionsDone = 5 ∧ (coveAt t c).deferred = false
      ∧ (coveTideAt t c).bank = (!(coveTideAt s c).bank) ∧ (coveTideAt t c).prevBank = (coveTideAt s c).bank
      ∧ Recorded s t (if mask &&& ~~~ v.atClock = 0#64 then 0x7004 else 0x7005) 1296)
    ∧ (openEntries s (cvReg c 0x400) 32 ≠ [] → (coveAt t c).actionsDone = 3
      ∧ (coveAt t c).reshaped = some (i, v.atClock) ∧ (coveTideAt t c).bank = (coveTideAt s c).bank) := by
  intro t v
  obtain ⟨hdies, hvariant, hreshape, hactions, hreshaped, hframe⟩ := reshapeLoaded_outcome hload 3
  have e : t = _ := reshapeLoad_eq hload 3
  clear_value t
  generalize reshapeLoaded s c 3 i mask = w at *
  have htables : coveTideAt w c = coveTideAt s c := by rw [hframe]; rfl
  have htrace : w.trace = s.trace := by rw [hframe]
  by_cases hnone : openEntries s (cvReg c 0x400) 32 = []
  · rw [if_pos (by rw [hnone]; rfl)] at e
    obtain ⟨hcove, hbank, hprev, hrec, -⟩ := reshapeEnds_outcome hreshaped
    rw [← e] at hcove hbank hprev hrec
    rw [hdies] at hrec
    rw [hcove, hbank, hprev, htables]
    exact ⟨hdies, hvariant, hreshape, fun _ => ⟨congrArg (max 5) hactions, rfl, rfl, rfl,
      recorded_between hrec (eventCount_of_trace htrace) rfl⟩, fun h => absurd hnone h⟩
  · rw [if_neg (by simpa using hnone)] at e
    rw [e, htables]
    exact ⟨hdies, hvariant, hreshape, fun h => absurd h hnone, fun _ => ⟨hactions, hreshaped, rfl⟩⟩

end

/-! ### The flood (R351) -/

section
variable {c : Nat} {mask : DWord} {t0 : Tick} (hmode : (coveAt s c).mode = .running)
  (hreshape : (coveAt s c).reshape = some (mask, t0)) (hok : (coveAt s c).reshapeOk = true)
  (harm : (coveAt s c).evalArm = false) (hopen : actionOpen s c 3 = true)
  (hebb : (reshapeDies (coveAt s c) mask).1 = []) (hflood : (reshapeDies (coveAt s c) mask).2 ≠ [])
include hmode hreshape hok harm hopen hebb hflood

/-- SLACK_FLOOD of a reshape without dies to ebb: a die that is taken or fenced makes it wait. -/
theorem exec_slackFlood : exec (.slackFlood c) s = .next (
    if ((reshapeDies (coveAt s c) mask).2.any fun x => (coveOfDie s x).isSome || dieFenced s x) = true then
      reshapeStuck s c 3 2
    else (chooseVariant s c mask).elim (reshapeStuck s c 3 1) fun i => reshapeLoad s c 3 i mask) := by
  show execSlackFlood c s = _
  unfold execSlackFlood
  rw [if_neg (show ¬ (coveAt s c).mode = .held by rw [hmode]; nofun)]
  dsimp only
  rw [hreshape]
  dsimp only
  rw [if_neg (by simp [ebbPending, hok, hreshape, hopen, harm, hebb, hflood]), apply_ite Host.Outcome.next]
  cases chooseVariant s c mask <;> rfl

end

/-! ### The copies of replicas (R356) -/

/-- An entry whose replica cannot be copied holds the cove. -/
def replicaFailed (s : State) (c off code : Nat) : State :=
  recordCove (holdCove (setReason (endEntry s off (some code)) c 14) c 5 0) 0x700D .corrected c [code]

/-- An entry whose replica is copied. -/
def replicaCopied (s : State) (c off dst : Nat) (l : List Byte) : State :=
  recordCove (entryCopied s off dst l) 0x700D .corrected c [0]

theorem replicaCopied_outcome (s : State) (c off dst : Nat) (l : List Byte) : let t := replicaCopied s c off dst l
    EntryEnds s t off none ∧ Recorded s t 0x700D 1296 ∧ t.mem = (hbmStore s dst l).mem ∧ t.cores = s.cores
    ∧ coveAt t c = coveAt s c ∧ coveTideAt t c = coveTideAt s c := by
  obtain ⟨-, hends, hstored, hframe⟩ := entryCopied_outcome s off dst l
  dsimp only [replicaCopied]
  generalize entryCopied s off dst l = w at *
  have hrec : Recorded w (recordCove w 0x700D .corrected c [0]) 0x700D 1296 :=
    recorded_record w _ _ _ _ _ (by decide) (by simp [episodeCode])
  have htrace : w.trace = s.trace := by rw [hframe]
  rw [recordCove_eq] at hrec ⊢
  rw [coveAt_record, coveTideAt_record, record_mem, record_cores]
  refine ⟨entryEnds_between hends rfl (record_regs ..), recorded_between hrec (eventCount_of_trace htrace) rfl, hstored, ?_⟩
  rw [hframe]
  exact ⟨rfl, rfl, rfl⟩

theorem replicaFailed_outcome (s : State) (c off code : Nat) : let t := replicaFailed s c off code
    EntryEnds s t off (some code) ∧ Recorded s t 0x700D 1296 ∧ t.mem = s.mem
    ∧ (coveAt t c).mode = .held ∧ (coveAt t c).hcause = 5 ∧ (coveAt t c).reason = 14 := by
  dsimp only [replicaFailed]
  obtain ⟨w, hw⟩ : ∃ w, w = setReason (endEntry s off (some code)) c 14 := ⟨_, rfl⟩
  have hends : EntryEnds s w off (some code) := by
    rw [hw]
    exact entryEnds_between (regAt_endEntry s off (some code)) rfl rfl
  have hreason : (coveAt w c).reason = 14 := by rw [hw, setReason, coveAt_updCove]
  have hkept : w.trace = s.trace ∧ w.mem = s.mem := by rw [hw]; exact ⟨rfl, rfl⟩
  obtain ⟨htrace, hmem⟩ := hkept
  rw [← hw]
  obtain ⟨hcove, -, -, -, hmem', -, hcount⟩ := holdCove_outcome w c 5 0
  have hregs : (holdCove w c 5 0).host.regs = w.host.regs := by
    unfold holdCove
    rw [recordCove_eq, record_regs]
    rfl
  generalize holdCove w c 5 0 = x at *
  have hrec : Recorded x (recordCove x 0x700D .corrected c [code]) 0x700D 1296 :=
    recorded_record x _ _ _ _ _ (by decide) (by simp [episodeCode])
  rw [recordCove_eq] at hrec ⊢
  rw [coveAt_record, record_mem, hcove]
  exact ⟨entryEnds_between hends rfl ((record_regs ..).trans hregs),
    recorded_between hrec ((hcount _ _ (by decide) (by simp [episodeCode]) (by decide)).trans (eventCount_of_trace htrace)) rfl,
    hmem'.trans hmem, rfl, rfl, hreason⟩

/-- Action 5 after the copies: only a loaded reshape switches. -/
theorem copiesEnd_outcome (s : State) (c : Nat) : let t := reshapeEnds (actionEnded s c 4) c
    t.cores = s.cores ∧ t.mem = s.mem ∧ t.host.regs = s.host.regs ∧ CountsOnly [0x7004, 0x7005] s t
    ∧ (coveAt t c).mode = (coveAt s c).mode ∧ (coveAt t c).hcause = (coveAt s c).hcause
    ∧ ((coveAt s c).reason = 14 → (coveAt t c).reason = 14)
    ∧ (coveAt t c).actionsDone = (if (coveAt s c).reshaped.isSome then 5 else 4)
    ∧ (coveTideAt t c).bank = (if (coveAt s c).reshaped.isSome then !(coveTideAt s c).bank else (coveTideAt s c).bank) := by
  obtain ⟨w, hw⟩ : ∃ w, w = actionEnded s c 4 := ⟨_, rfl⟩
  have hcove : coveAt w c = { coveAt s c with
      actionsDone := 4, deferred := (coveAt s c).deferred && (coveAt s c).action != 4
      action := if (coveAt s c).action = 4 then 0 else (coveAt s c).action } := by
    rw [hw, actionEnded, coveAt_updCove]
  have hkept : w.trace = s.trace ∧ w.cores = s.cores ∧ w.mem = s.mem ∧ w.host = s.host ∧ w.tide = s.tide := by
    rw [hw]
    exact ⟨rfl, rfl, rfl, rfl, rfl⟩
  obtain ⟨htrace, hcores, hmem, hhost, htide⟩ := hkept
  have htables : coveTideAt w c = coveTideAt s c := by simp only [coveTideAt, htide]
  rw [← hw]
  clear hw
  cases hr : (coveAt s c).reshaped with
  | none =>
    dsimp only
    rw [reshapeEnds_of_none (by rw [hcove]; exact hr), hcove, htables]
    exact ⟨hcores, hmem, congrArg _ hhost, countsOnly_of_trace _ htrace, rfl, rfl, id, rfl, rfl⟩
  | some p =>
    obtain ⟨hself, hbank, -, -, hcores', hmem', hregs, hcount⟩ :=
      reshapeEnds_outcome (s := w) (c := c) (i := p.1) (old := p.2) (by rw [hcove]; exact hr)
    generalize reshapeEnds w c = x at *
    dsimp only
    rw [hself, hbank, hcove, htables]
    exact ⟨hcores'.trans hcores, hmem'.trans hmem, hregs.trans (congrArg _ hhost),
      (countsOnly_of_trace _ htrace).trans hcount, rfl, rfl, fun h => if_pos h, rfl, rfl⟩

/-- One entry of the copies. -/
def replicaEntry (c : Nat) (peer : List (List Byte)) (s : State) (p : Nat × Nat) : State :=
  let e := copyEntry s p.1
  let excess := (coveAt s c).overHbm && !inUnits s c e.2.1 e.2.2.1
  let s := if excess then recordCove s 0x7009 .corrected c [] else s
  if !(inUnits s c e.2.1 e.2.2.1 && e.1 % 4096 == 0) then replicaFailed s c p.1 2
  else
    let r := if addrModule e.1 = s.moduleId then
        (match placeOf e.1 with
         | .hbm off => if condemned s (.hbm off) e.2.2.1 then Except.error 6 else .ok (hbmRead s off e.2.2.1)
         | _ => .error 2)
      else match peer[p.2]? with
        | some bs => if bs.length = e.2.2.1 then .ok bs else .error 5
        | none => .error 5
    match r with
    | .ok bs => replicaCopied s c p.1 (e.2.1 % 2 ^ 44) bs
    | .error code => replicaFailed s c p.1 code

section
variable {c : Nat} (hopen : actionOpen s c 4 = true) (hebb : ebbPending (coveAt s c) = false)
  (harm : (coveAt s c).evalArm = false)
include hopen hebb harm

/-- Copies that do not fit their slack water. -/
theorem slackReplicaCopy_defers (peer : List (List Byte)) (hl : openEntries s (cvReg c 0x400) 32 ≠ [])
    (hfit : fitsSlack s c (slackTicks s c 0xE 1 (entryBytes s (openEntries s (cvReg c 0x400) 32))) = false) :
    ∃ t, exec (.slackReplicaCopy c peer) s = .next t ∧ Deferred s t c 4 7 ∧ (coveAt t c).barred = 4 := by
  obtain ⟨hself, hrec, htide, hcores, hmem⟩ := deferRest_outcome s c 4
  refine ⟨deferRest s c 4, ?_, ?_⟩
  · show execSlackReplicaCopy c peer s = _
    unfold execSlackReplicaCopy
    dsimp only
    rw [if_neg (by simp [hopen, hebb, harm, hl]), if_pos (by simp [hfit])]
  · rw [Deferred, hself]
    exact ⟨⟨rfl, rfl, rfl, hrec, hcores, hmem, htide⟩, rfl⟩

variable {off : Nat} (hl : openEntries s (cvReg c 0x400) 32 = [off])
  (hfit : fitsSlack s c (slackTicks s c 0xE 1 (entryBytes s (openEntries s (cvReg c 0x400) 32))) = true)
include hl hfit

theorem exec_slackReplicaCopy (peer : List (List Byte)) : exec (.slackReplicaCopy c peer) s =
    .next (reshapeEnds (actionEnded (replicaEntry c peer s (off, 0)) c 4) c) := by
  show execSlackReplicaCopy c peer s = _
  unfold execSlackReplicaCopy
  dsimp only
  rw [if_neg (by simp [hopen, hebb, harm, hl]), if_neg (by simp [hfit]), hl]
  rfl

variable (hover : (coveAt s c).overHbm = false) (hin : inUnits s c (copyEntry s off).2.1 (copyEntry s off).2.2.1 = true)
  (halign : (copyEntry s off).1 % 4096 = 0) (hfar : addrModule (copyEntry s off).1 ≠ s.moduleId)
include hover hin halign hfar

/-- The bytes of a replica source on another module come. -/
theorem slackReplicaCopy_copies {bs : List Byte} (hlen : bs.length = (copyEntry s off).2.2.1) :
    ∃ t, exec (.slackReplicaCopy c [bs]) s = .next t ∧ EntryEnds s t off none ∧ Recorded s t 0x700D 1296
      ∧ t.mem = (hbmStore s ((copyEntry s off).2.1 % 2 ^ 44) bs).mem ∧ t.cores = s.cores
      ∧ (coveAt t c).actionsDone = (if (coveAt s c).reshaped.isSome then 5 else 4)
      ∧ (coveTideAt t c).bank = (if (coveAt s c).reshaped.isSome then !(coveTideAt s c).bank else (coveTideAt s c).bank) := by
  have hentry : replicaEntry c [bs] s (off, 0) = replicaCopied s c off ((copyEntry s off).2.1 % 2 ^ 44) bs := by
    simp [replicaEntry, hover, hin, halign, hfar, hlen]
  have e := exec_slackReplicaCopy hopen hebb harm hl hfit [bs]
  rw [hentry] at e
  obtain ⟨hends, hrec, hmem, hcores, hcove, htables⟩ := replicaCopied_outcome s c off ((copyEntry s off).2.1 % 2 ^ 44) bs
  generalize replicaCopied s c off ((copyEntry s off).2.1 % 2 ^ 44) bs = w at *
  obtain ⟨hcores', hmem', hregs, hcount, -, -, -, hactions, hbank⟩ := copiesEnd_outcome w c
  rw [hcove] at hactions hbank
  rw [htables] at hbank
  exact ⟨_, e, entryEnds_between hends rfl hregs,
    recorded_between hrec rfl (hcount _ _ (by decide) (by simp [episodeCode]) (by decide)), hmem'.trans hmem,
    hcores'.trans hcores, hactions, hbank⟩

/-- They do not come. -/
theorem slackReplicaCopy_fails : ∃ t, exec (.slackReplicaCopy c []) s = .next t ∧ EntryEnds s t off (some 5)
    ∧ Recorded s t 0x700D 1296 ∧ t.mem = s.mem ∧ (coveAt t c).mode = .held ∧ (coveAt t c).hcause = 5
    ∧ (coveAt t c).reason = 14 := by
  have hentry : replicaEntry c [] s (off, 0) = replicaFailed s c off 5 := by
    simp [replicaEntry, hover, hin, halign, hfar]
  have e := exec_slackReplicaCopy hopen hebb harm hl hfit []
  rw [hentry] at e
  obtain ⟨hends, hrec, hmem, hmode, hcause, hreason⟩ := replicaFailed_outcome s c off 5
  generalize replicaFailed s c off 5 = w at *
  obtain ⟨-, hmem', hregs, hcount, hmode', hcause', hreason', -⟩ := copiesEnd_outcome w c
  exact ⟨_, e, entryEnds_between hends rfl hregs,
    recorded_between hrec rfl (hcount _ _ (by decide) (by simp [episodeCode]) (by decide)), hmem'.trans hmem,
    hmode'.trans hmode, hcause'.trans hcause, hreason' hreason⟩

end

/-! ### The statement -/

/-- Settles O31: each action of the slack water in its order, by the outcome of its command. -/
theorem slackActions : Obligations.SlackActions := by
  intro c s _ hmode v tt
  refine ⟨fun harm hopen => ⟨slackEvalSnapshot_defers harm hopen, slackEvalSnapshot_takes harm hopen⟩,
    fun mask t0 hreshape hok harm => ⟨slackEbb_outcome hmode hreshape hok harm, fun hopen hebb hflood => ?flood⟩,
    fun hopen hebb harm hl peer => ⟨slackReplicaCopy_defers hopen hebb harm peer hl,
      fun hfit hover off hone hin halign => ⟨fun bs hfar hpeer hlen => ?_, fun hfar hpeer => ?_⟩⟩⟩
  case flood =>
    have e := exec_slackFlood hmode hreshape hok harm hopen hebb hflood
    refine ⟨fun htaken => ?_, fun hfree i hchoose hload => ?_⟩
    · rw [if_pos htaken] at e
      exact ⟨_, e, reshapeStuck_defers 3 2, fun h => reshapeStuck_holds 3 2 h hmode⟩
    · rw [if_neg (ne_true_of_eq_false hfree), hchoose] at e
      exact ⟨_, e, reshapeLoad_outcome hload⟩
  · rw [hpeer]
    exact slackReplicaCopy_copies hopen hebb harm hone hfit hover hin halign hfar hlen
  · rw [hpeer]
    exact slackReplicaCopy_fails hopen hebb harm hone hfit hover hin halign hfar

end Sys2Proof.Proofs
end

section
/-!
PROOFS. What an engine of a core writes: elements of an operand's planes, lanes, counters and saturations.
-/
namespace Sys2Proof.Proofs
open Sys2Proof Sys2Proof.Machine Sys2Proof.Laws Sys2Proof.Claim

variable {s t u : State} {core k : Nat}

/-! ### Elements of a plane (R93, R94) -/

theorem length_leOut (n v : Nat) : (leOut n v).length = n := by
  have h : ∀ n v, (leBytes n v).length = n := by
    intro n
    induction n with
    | zero => exact fun _ => rfl
    | succ n ih => exact fun v => congrArg (· + 1) (ih _)
  rw [leOut, List.length_map, h]

/-- Storing element `i` touches no byte outside those that its bits lie in. -/
theorem memByte_setElem_other (m : Memory) (a w i v c : Nat) (h : c < a + w * i / 8 ∨ a + (w * (i + 1) + 7) / 8 ≤ c) :
    memByte (setElem m a w i v) c = memByte m c := by
  have hmul : w * (i + 1) = w * i + w := Nat.mul_succ w i
  unfold setElem
  split
  · next hw =>
    have hbytes : w * i = 8 * (w / 8 * i) := by rw [← Nat.mul_assoc, Nat.mul_div_cancel' (Nat.dvd_of_mod_eq_zero hw)]
    exact memByte_memWrite_other _ _ _ _ (by rw [length_leOut]; omega)
  · exact memByte_memWrite_other _ _ _ _ (by rw [length_leOut]; omega)

/-- Storing elements from `lo` on touches no byte outside the plane up to the last of them. -/
theorem memByte_setElems_other (m : Memory) (a w lo : Nat) (vs : List Nat) (c : Nat)
    (h : c < a ∨ a + (w * (lo + vs.length) + 7) / 8 ≤ c) : memByte (setElems m a w lo vs) c = memByte m c := by
  induction vs generalizing m lo with
  | nil => rfl
  | cons v vs ih =>
    have hlen : lo + (v :: vs).length = lo + 1 + vs.length := by rw [List.length_cons]; omega
    have hlast : w * (lo + 1) ≤ w * (lo + (v :: vs).length) := Nat.mul_le_mul_left w (by omega)
    rw [setElems, ih _ _ (hlen ▸ h), memByte_setElem_other _ _ _ _ _ _ (by omega)]

/-- The element and scale planes of an operand after elements from position `lo` on were stored with their MX scales. -/
def storePlanes (x : Ctx) (f : Fmt) (d : DWord) (lo : Nat) (out : List Conv × List Nat) (m : Memory) : Memory :=
  memWrite (setElems m (winAddr x (opElem d)) (fmtBits f) lo (out.1.map (·.bits))) (winAddr x (opScale d) + lo / 32)
    (out.2.map (BitVec.ofNat 8))

theorem storePlanes_zero (x : Ctx) (f : Fmt) (d : DWord) (out : List Conv × List Nat) (m : Memory) :
    storePlanes x f d 0 out m = memWrite (setElems m (winAddr x (opElem d)) (fmtBits f) 0 (out.1.map (·.bits)))
      (winAddr x (opScale d)) (out.2.map (BitVec.ofNat 8)) := by
  rw [storePlanes, Nat.zero_div, Nat.add_zero]

/-- Results that positions `lo` to `n - 1` of an operand have room for, with the scales of whole MX blocks only. -/
structure FitsPlanes (f : Fmt) (lo n : Nat) (out : List Conv × List Nat) : Prop where
  elems : out.1 = [] ∨ lo + out.1.length ≤ n
  scales : out.2 = [] ∨ (fmtIsMx f = true ∧ lo / 32 + out.2.length ≤ n / 32)

/-- A store within an operand's planes touches no byte outside the ranges that the operand declares (R97). -/
theorem memByte_storePlanes_other {f : Fmt} {lo n : Nat} {out : List Conv × List Nat} (h : FitsPlanes f lo n out)
    (x : Ctx) (d : DWord) (m : Memory) {a : Nat}
    (ha : ∀ r ∈ operandRanges f d n, ¬ (winAddr x r.1 ≤ a ∧ a < winAddr x r.1 + r.2)) :
    memByte (storePlanes x f d lo out m) a = memByte m a := by
  have hscale : memByte (storePlanes x f d lo out m) a
      = memByte (setElems m (winAddr x (opElem d)) (fmtBits f) lo (out.1.map (·.bits))) a := by
    unfold storePlanes
    rcases h.scales with e | ⟨hmx, hle⟩
    · rw [e]
      rfl
    · have hr := ha (opScale d, n / 32) (by simp [operandRanges, hmx])
      exact memByte_memWrite_other _ _ _ _ (by rw [List.length_map]; dsimp only at hr; omega)
  rw [hscale]
  rcases h.elems with e | hle
  · rw [e]
    rfl
  · have hr := ha (opElem d, planeBytes f n) (by simp [operandRanges])
    have hbits : fmtBits f * (lo + out.1.length) ≤ n * fmtBits f := by
      rw [Nat.mul_comm n]
      exact Nat.mul_le_mul_left _ hle
    refine memByte_setElems_other _ _ _ _ _ _ ?_
    rw [List.length_map]
    unfold planeBytes at hr
    dsimp only at hr
    omega

theorem length_quantiseBlock (f : Fmt) (r : Rnd) (vs : List (Val × Nat)) :
    (quantiseBlock f r vs).2.length = vs.length := by
  unfold quantiseBlock
  split <;> exact List.length_map ..

/-- `n` blocks of 32 elements each. -/
theorem length_flatMap_quantiseBlock (f : Fmt) (r : Rnd) (n : Nat) (v : Nat → Nat → Val × Nat) :
    (((List.range n).map fun b => quantiseBlock f r ((List.range 32).map (v b))).flatMap (·.2)).length = 32 * n := by
  simp [List.length_flatMap, length_quantiseBlock, Function.comp_def, Nat.mul_comm]

/-! ### Lanes (R107) -/

/-- Writing lanes changes nothing else of a context. -/
theorem setLanes_eq (x : Ctx) (v l : Nat) (ws : List Word) : ∃ vr, setLanes x v l ws = { x with vregs := vr } := by
  induction ws generalizing x l with
  | nil => exact ⟨_, rfl⟩
  | cons w ws ih =>
    obtain ⟨vr, e⟩ := ih (setLane x v l w) (l + 1)
    exact ⟨vr, e⟩

theorem lane_setLane (x : Ctx) (v l : Nat) (w : Word) (v' l' : Nat) (hl : l < 256) (hl' : l' < 256) :
    lane (setLane x v l w) v' l' = if v' = v ∧ l' = l then w else lane x v' l' := by
  unfold lane setLane
  rw [get_set]
  exact if_congr (by omega) rfl rfl

/-- What a lane reads as after a run of lanes of one register was written. -/
theorem lane_setLanes (x : Ctx) (v l : Nat) (ws : List Word) (v' l' : Nat) (hl : l + ws.length ≤ 256) (hl' : l' < 256) :
    lane (setLanes x v l ws) v' l' =
      if v' = v ∧ l ≤ l' ∧ l' < l + ws.length then ws.getD (l' - l) 0#32 else lane x v' l' := by
  induction ws generalizing x l with
  | nil => rw [if_neg (by simp only [List.length_nil]; omega)]; rfl
  | cons w ws ih =>
    rw [List.length_cons] at hl ⊢
    rw [setLanes, ih _ _ (by omega), lane_setLane _ _ _ _ _ _ (by omega) hl']
    by_cases hfirst : v' = v ∧ l' = l
    · obtain ⟨rfl, rfl⟩ := hfirst
      rw [if_neg (by omega), if_pos ⟨rfl, rfl⟩, if_pos (by omega), Nat.sub_self, List.getD_cons_zero]
    · rw [if_neg hfirst]
      by_cases hrest : v' = v ∧ l + 1 ≤ l' ∧ l' < l + 1 + ws.length
      · rw [if_pos hrest, if_pos (by omega), show l' - l = l' - (l + 1) + 1 by omega, List.getD_cons_succ]
      · rw [if_neg hrest, if_neg (by omega)]

/-! ### Stores of an engine (R98) -/

/-- The state after a context's engine stored results in the planes of an operand. -/
def writePlanes (s : State) (core k : Nat) (f : Fmt) (d : DWord) (lo : Nat) (out : List Conv × List Nat) : State :=
  updCore s core fun c => { c with scratch := storePlanes (ctxAt s core k) f d lo out c.scratch }

@[simp] theorem ctxAt_writePlanes (s : State) (core k f d lo out i j) :
    ctxAt (writePlanes s core k f d lo out) i j = ctxAt s i j := by
  unfold writePlanes
  refine ctxAt_updCore_of_ctxs ?_ s core i j
  exact fun _ => rfl

/-- Only bytes in the operand's ranges change, and in the scratchpad of the core alone. -/
theorem memByte_writePlanes {f : Fmt} {lo n : Nat} {out : List Conv × List Nat} (h : FitsPlanes f lo n out)
    (s : State) (core k : Nat) (d : DWord) {i a : Nat}
    (ha : ¬ (i = core ∧ ∃ r ∈ operandRanges f d n,
      winAddr (ctxAt s core k) r.1 ≤ a ∧ a < winAddr (ctxAt s core k) r.1 + r.2)) :
    memByte (coreAt (writePlanes s core k f d lo out) i).scratch a = memByte (coreAt s i).scratch a := by
  unfold writePlanes
  by_cases hi : i = core
  · subst hi
    rw [coreAt_updCore]
    exact memByte_storePlanes_other h _ _ _ fun r hr hin => ha ⟨rfl, r, hr, hin⟩
  · rw [coreAt_updCore_other _ _ _ _ hi]

/-! ### Counters and saturations (R65, R529) -/

/-- Only counters and the saturation counts of steps differ. -/
def Tallied (s t : State) : Prop :=
  (∃ cv a b, t = { s with coves := cv, trace := { s.trace with counters := a, coveCounters := b } })
    ∧ ∀ c, ∃ n, coveAt t c = { coveAt s c with stats := { (coveAt s c).stats with saturations := n } }

theorem Tallied.refl (s : State) : Tallied s s := ⟨⟨_, _, _, rfl⟩, fun _ => ⟨_, rfl⟩⟩

theorem tallied_bumpCore (s : State) (core index n : Nat) : Tallied s (bumpCore s core index n) := by
  unfold bumpCore
  split <;> exact ⟨⟨_, _, _, rfl⟩, fun _ => ⟨_, rfl⟩⟩

theorem tallied_chargeSats (s : State) (core n : Nat) : Tallied s (chargeSats s core n) := by
  unfold chargeSats
  split
  · next c _ =>
    refine ⟨⟨_, _, _, rfl⟩, fun i => ?_⟩
    by_cases h : i = c
    · subst h
      exact ⟨_, coveAt_updCove ..⟩
    · exact ⟨_, coveAt_updCove_other _ _ _ _ h⟩
  · exact .refl s

theorem bumpCore_sources (s : State) (core index n : Nat) :
    (bumpCore s core index n).trace.sources = s.trace.sources := by
  obtain ⟨_, e, hsources⟩ := bumpCore_eq s core index n
  rw [e, hsources]

@[simp] theorem coreAt_bumpCore (s : State) (core index n i : Nat) :
    coreAt (bumpCore s core index n) i = coreAt s i := by
  simp only [coreAt, bumpCore_cores]
@[simp] theorem ctxAt_bumpCore (s : State) (core index n i j : Nat) :
    ctxAt (bumpCore s core index n) i j = ctxAt s i j := ctxAt_of_cores (bumpCore_cores ..) i j
@[simp] theorem coreAt_chargeSats (s : State) (core n i : Nat) : coreAt (chargeSats s core n) i = coreAt s i := by
  simp only [coreAt, chargeSats_cores]
@[simp] theorem ctxAt_chargeSats (s : State) (core n i j : Nat) : ctxAt (chargeSats s core n) i j = ctxAt s i j :=
  ctxAt_of_cores (chargeSats_cores ..) i j

/-! ### Changes of one context -/

/-- A change of a context leaves every core's scratchpad alone. -/
@[simp] theorem scratch_updCtx (s : State) (i k : Nat) (f : Ctx → Ctx) (j : Nat) :
    (coreAt (updCtx s i k f) j).scratch = (coreAt s j).scratch := by
  by_cases h : j = i
  · subst h
    rw [updCtx, coreAt_setCtx]
  · rw [coreAt_updCtx_other _ _ _ h]

theorem otherCtxs_of_cores (h : t.cores = s.cores) : OtherCtxs s t core k := fun i j _ => ctxAt_of_cores h i j

theorem otherCtxs_trans (h : OtherCtxs s t core k) (h' : OtherCtxs t u core k) : OtherCtxs s u core k :=
  fun i j hij => (h' i j hij).trans (h i j hij)

theorem otherCtxs_updCtx (s : State) (core k : Nat) (f : Ctx → Ctx) : OtherCtxs s (updCtx s core k f) core k := by
  intro i j hij
  by_cases hi : i = core
  · subst hi
    exact ctxAt_updCtx_other _ _ _ _ _ fun hj => hij ⟨rfl, hj⟩
  · exact ctxAt_updCtx_core _ _ _ _ _ _ hi

end Sys2Proof.Proofs
end

section
/-!
PROOFS. The commit and the drain of a tile: O23.
-/
namespace Sys2Proof.Proofs
open Sys2Proof Sys2Proof.Machine Sys2Proof.Laws Sys2Proof.Claim

variable {s t u : State} {core k : Nat}

/-! ### Accumulators (R71 to R73, R102) -/

/-- A table whose entries below `n` are set one after another. -/
theorem get_foldl_set {α : Type} [DecidableEq α] (d : α) (l : Sparse α) (v : Nat → α) (n i : Nat) :
    Sparse.get d ((List.range n).foldl (fun l j => Sparse.set d l j (v j)) l) i =
      if i < n then v i else Sparse.get d l i := by
  induction n with
  | zero => rfl
  | succ n ih =>
    rw [List.range_succ, List.foldl_append, List.foldl_cons, List.foldl_nil, get_set, ih]
    by_cases h : i = n
    · subst h
      rw [if_pos rfl, if_pos (Nat.lt_succ_self i)]
    · rw [if_neg h]
      exact if_congr (by omega) rfl rfl

/-- Accumulator `n` of a tile after group `g` of 32 depth steps (R71, R73). -/
def accGroup (m : Memory) (base : Nat) (tl : Issued) (n g : Nat) (acc : Word) : Word :=
  let fa := (matFmt tl.fields 87).getD .fp32
  let fb := (matFmt tl.fields 83).getD .fp32
  let a := fun d => tileElem m base fa tl.r1 (n / 128) (32 * g + d)
  let b := fun d => tileElem m base fb tl.r2 (n % 128) (32 * g + d)
  if fa = .int8 ∧ fb = .int8 then accI32 a b acc else accF32 fa a b acc

theorem accAfter_zero (m base tl n lo v) : accAfter m base tl n lo lo v = v := by
  unfold accAfter
  rw [Nat.sub_self]
  rfl

theorem accAfter_succ (m base tl n lo j v) :
    accAfter m base tl n lo (lo + (j + 1)) v = accGroup m base tl n (lo + j) (accAfter m base tl n lo (lo + j) v) := by
  unfold accAfter
  simp only [Nat.add_sub_cancel_left, List.range_succ, List.foldl_append]
  rfl

/-- The accumulators that the next group of a stream adds to: a first group starts from the chain value (R102). -/
def accsNext (start : Sparse Word) (st : TileStream) : Sparse Word := if st.groups = 0 then start else st.acc

/-- A group adds its products to every accumulator. -/
theorem get_streamGroup_acc (m base tl start st) {n : Nat} (hn : n < 16384) :
    Sparse.get 0#32 (streamGroup m base tl start st).acc n =
      accGroup m base tl n st.groups (Sparse.get 0#32 (accsNext start st) n) := by
  unfold streamGroup accGroup accsNext
  simp only [get_foldl_set, if_pos hn, Bool.and_eq_true, beq_iff_eq]

/-- The value that accumulator `n` of a tile starts from: the held buffer's in a chain, else +0 (R72). -/
def chainValue (x : Ctx) (tl : Issued) (n : Nat) : Word :=
  if ctlBit tl.fields 71 then (match x.held with | some o => Sparse.get 0#32 o.acc n | none => 0#32) else 0#32

theorem get_accsNext_chainStart (x : Ctx) (tl : Issued) (st : TileStream) (n : Nat) :
    Sparse.get 0#32 (accsNext (chainStart x tl) st) n =
      if st.groups ≠ 0 then Sparse.get 0#32 st.acc n else chainValue x tl n := by
  unfold accsNext chainStart chainValue
  by_cases hst : st.groups = 0
  · rw [if_pos hst, if_neg (not_not.mpr hst)]
    by_cases hchain : ctlBit tl.fields 71 = true
    · rw [if_pos hchain, if_pos hchain]
      cases x.held with
      | none => rfl
      | some o => rfl
    · rw [if_neg hchain, if_neg hchain]
      rfl
  · rw [if_neg hst, if_pos hst]

/-- A stream after `j` more groups. -/
def streamGroups (m : Memory) (base : Nat) (tl : Issued) (start : Sparse Word) (st : TileStream) (j : Nat) :
    TileStream :=
  (List.range j).foldl (fun st _ => streamGroup m base tl start st) st

theorem streamGroups_succ (m base tl start st j) : streamGroups m base tl start st (j + 1) =
    streamGroup m base tl start (streamGroups m base tl start st j) := by
  unfold streamGroups
  rw [List.range_succ, List.foldl_append]
  rfl

theorem streamGroups_groups (m base tl start st j) : (streamGroups m base tl start st j).groups = st.groups + j := by
  induction j with
  | zero => rfl
  | succ j ih =>
    rw [streamGroups_succ, ← Nat.add_assoc, ← ih]
    rfl

/-- Groups that stream one after another give the sums of R71 and R73 over what the stream had. -/
theorem get_streamGroups_acc (m base tl start st j) {n : Nat} (hn : n < 16384) :
    Sparse.get 0#32 (accsNext start (streamGroups m base tl start st j)) n =
      accAfter m base tl n st.groups (st.groups + j) (Sparse.get 0#32 (accsNext start st) n) := by
  induction j with
  | zero => exact (accAfter_zero ..).symm
  | succ j ih =>
    have hseen : accsNext start (streamGroups m base tl start st (j + 1)) =
        (streamGroup m base tl start (streamGroups m base tl start st j)).acc := by
      unfold accsNext
      rw [if_neg (by rw [streamGroups_groups]; omega), streamGroups_succ]
    rw [hseen, get_streamGroup_acc _ _ _ _ _ hn, ih, streamGroups_groups, accAfter_succ]

/-- The accumulators of a tile whose stream has ended. -/
theorem get_streamRest_acc (m base tl start st) (hk : matK tl.fields / 32 ≠ 0) {n : Nat} (hn : n < 16384) :
    Sparse.get 0#32 (streamRest m base tl start st).acc n =
      accAfter m base tl n st.groups (matK tl.fields / 32) (Sparse.get 0#32 (accsNext start st) n) := by
  have hrest : streamRest m base tl start st = streamGroups m base tl start st (matK tl.fields / 32 - st.groups) := rfl
  have hseen : (streamRest m base tl start st).acc = accsNext start (streamRest m base tl start st) := by
    unfold accsNext
    rw [if_neg]
    rw [hrest, streamGroups_groups]
    omega
  rw [hseen, hrest, get_streamGroups_acc _ _ _ _ _ _ hn]
  unfold accAfter
  rw [Nat.add_sub_cancel_left]

/-- Wrong values that the silicon put in other accumulators do not matter to this one. -/
theorem get_foldl_wrong (acc : Sparse Word) {wrong : List (Nat × Word)} {n : Nat} (h : ∀ p ∈ wrong, p.1 ≠ n) :
    Sparse.get 0#32 (wrong.foldl (fun acc p => if p.1 < 16384 then Sparse.set 0#32 acc p.1 p.2 else acc) acc) n =
      Sparse.get 0#32 acc n := by
  induction wrong generalizing acc with
  | nil => rfl
  | cons p wrong ih =>
    rw [List.foldl_cons, ih _ fun q hq => h q (List.mem_cons_of_mem _ hq)]
    split
    · exact get_set_other _ _ _ _ _ (h p (List.mem_cons_self ..)).symm
    · rfl

/-! ### The commit (R102, R118) -/

/-- A tile's depth is 32 times the field that counts its groups (R140). -/
theorem matK_groups (w : Fields) : matK w / 32 = ctl w 95 88 := Nat.mul_div_cancel_left _ (by decide)

/-- The discard of a stream of a context that has a tile: the context has no stream then. -/
theorem ctxAt_discardStream_self (hq : (ctxAt s core k).matQ ≠ []) :
    ctxAt (discardStream s core k) core k = { ctxAt s core k with stream := none } := by
  unfold discardStream
  dsimp only
  split
  · rw [ctxAt_updCtx, ctxAt_bumpCore]
  · next hnone =>
    obtain ⟨tl, rest, hq⟩ := List.exists_cons_of_ne_nil hq
    cases hst : (ctxAt s core k).stream with
    | none => rw [← hst]
    | some st => exact absurd hq (hnone st tl rest hst)

/-- What the discard of a stream leaves alone. -/
theorem discardStream_outcome (s : State) (core k : Nat) : let t := discardStream s core k
    OtherCtxs s t core k ∧ (∀ i, (coreAt t i).scratch = (coreAt s i).scratch) ∧ t.mem = s.mem ∧ t.coves = s.coves
      ∧ t.trace.sources = s.trace.sources := by
  obtain ⟨⟨_, _, e⟩, hsources⟩ := coresOnly_discardStream s core k
  refine ⟨fun i j hij => (ctxAt_discardStream s core k i j).resolve_right fun h => hij ⟨h.1, h.2.1⟩, fun i => ?_,
    by rw [e], by rw [e], hsources⟩
  rcases discardStream_cases s core k with h | ⟨n, h⟩
  · rw [h]
  · rw [h, scratch_updCtx, coreAt_bumpCore]

/-- A parity error of a tile is noted: event 0x4012, and a re-run in the wear inputs and the ledger (R118). -/
def rerunNoted (s : State) (core : Nat) : State :=
  updLedger (wearAdd (record s 0x4012 .corrected (coveNum (coveOfCore s core)) core []) 0 (dieOf core) 1 1) (dieOf core)
    fun r => { r with reruns := r.reruns + 1 }

theorem rerunNoted_cores (s : State) (core : Nat) : (rerunNoted s core).cores = s.cores := by
  rw [rerunNoted, updLedger_cores, wearAdd_cores, record_cores]

theorem rerunNoted_mem (s : State) (core : Nat) : (rerunNoted s core).mem = s.mem := by
  rw [rerunNoted, updLedger_mem, wearAdd_mem, record_mem]

theorem recorded_rerunNoted (hcore : core < 1024) : Recorded s (rerunNoted s core) 0x4012 core :=
  recorded_of_sources (by rw [rerunNoted, updLedger_trace, wearAdd_trace])
    (recorded_record s 0x4012 .corrected _ core [] (by omega) (by simp [episodeCode]))

/-- The re-run of a tile after a parity error: the stream starts again (R118). -/
def parityRerun (s : State) (core k : Nat) : State := discardStream (rerunNoted s core) core k

theorem parityRerun_outcome (hcore : core < 1024) (hq : (ctxAt s core k).matQ ≠ []) : let t := parityRerun s core k
    ctxAt t core k = { ctxAt s core k with stream := none } ∧ OtherCtxs s t core k
      ∧ (∀ i, (coreAt t i).scratch = (coreAt s i).scratch) ∧ t.mem = s.mem ∧ Recorded s t 0x4012 core := by
  have hcores := rerunNoted_cores s core
  have hctx := ctxAt_of_cores hcores core k
  obtain ⟨hother, hscratch, hmem, -, hsources⟩ := discardStream_outcome (rerunNoted s core) core k
  unfold parityRerun
  refine ⟨?_, otherCtxs_trans (otherCtxs_of_cores hcores) hother, fun i => ?_, hmem.trans (rerunNoted_mem s core),
    recorded_of_sources hsources (recorded_rerunNoted hcore)⟩
  · rw [ctxAt_discardStream_self (by rwa [hctx]), hctx]
  · rw [hscratch, coreAt, hcores]
    rfl

/-- The state in which a tile commits after `errs` parity errors, fewer than two. -/
def beforeCommit (s : State) (core k errs : Nat) : State := if errs = 1 then parityRerun s core k else s

theorem beforeCommit_outcome (hcore : core < 1024) (hq : (ctxAt s core k).matQ ≠ []) (errs : Nat) :
    let t := beforeCommit s core k errs
    ctxAt t core k = { ctxAt s core k with stream := if errs = 1 then none else (ctxAt s core k).stream }
      ∧ OtherCtxs s t core k ∧ (∀ i, (coreAt t i).scratch = (coreAt s i).scratch) ∧ t.mem = s.mem
      ∧ (errs = 1 → Recorded s t 0x4012 core) := by
  unfold beforeCommit
  by_cases h : errs = 1
  · rw [if_pos h, if_pos h]
    obtain ⟨hctx, hother, hscratch, hmem, hrec⟩ := parityRerun_outcome hcore hq
    exact ⟨hctx, hother, hscratch, hmem, fun _ => hrec⟩
  · rw [if_neg h, if_neg h]
    exact ⟨rfl, otherCtxs_of_cores rfl, fun _ => rfl, rfl, fun h' => absurd h' h⟩

/-- The state after a tile went to the held buffer, with its counters (R102, R529). -/
def committed (s : State) (core k : Nat) (tl : Issued) (rest : List Issued) (h : Held) : State :=
  bumpCore (bumpCore (updCtx s core k fun x => { x with matQ := rest, stream := none, held := some h }) core 4 1) core 2
    (streamLen ((matFmt tl.fields 87).getD .fp32) ((matFmt tl.fields 83).getD .fp32) (matK tl.fields))

theorem committed_outcome (s : State) (core k tl rest h) : let t := committed s core k tl rest h
    ctxAt t core k = { ctxAt s core k with matQ := rest, stream := none, held := some h } ∧ OtherCtxs s t core k
      ∧ (∀ i, (coreAt t i).scratch = (coreAt s i).scratch) ∧ t.mem = s.mem ∧ t.trace.sources = s.trace.sources := by
  unfold committed
  dsimp only
  refine ⟨?_, fun i j hij => ?_, fun i => ?_, ?_, ?_⟩
  · rw [ctxAt_bumpCore, ctxAt_bumpCore, ctxAt_updCtx]
  · rw [ctxAt_bumpCore, ctxAt_bumpCore]
    exact otherCtxs_updCtx s core k _ i j hij
  · rw [coreAt_bumpCore, coreAt_bumpCore, scratch_updCtx]
  · rw [bumpCore_mem, bumpCore_mem, updCtx_mem]
  · rw [bumpCore_sources, bumpCore_sources, updCtx_trace]

/-- What the held buffer takes at a commit. -/
def tileHeld (s : State) (core k errs : Nat) (tl : Issued) (wrong : List (Nat × Word)) : Held :=
  commitTile (beforeCommit s core k errs) core k tl (chainStart (ctxAt s core k) tl) wrong

/-- The accumulators of a tile at its commit (R71 to R73, R102). -/
theorem get_tileHeld_acc {tl : Issued} (hcore : core < 1024) (hq : (ctxAt s core k).matQ ≠ [])
    (hk : 1 ≤ ctl tl.fields 95 88) (errs : Nat) {wrong : List (Nat × Word)} {n : Nat} (hn : n < 16384)
    (hwrong : ∀ p ∈ wrong, p.1 ≠ n) :
    let st := (if errs = 1 then none else (ctxAt s core k).stream).getD TileStream.reset
    Sparse.get 0#32 (tileHeld s core k errs tl wrong).acc n =
      accAfter (coreAt s core).scratch (winAddr (ctxAt s core k) 0) tl n st.groups (matK tl.fields / 32)
        (if st.groups ≠ 0 then Sparse.get 0#32 st.acc n else chainValue (ctxAt s core k) tl n) := by
  obtain ⟨hctx, -, hscratch, -, -⟩ := beforeCommit_outcome hcore hq errs
  unfold tileHeld commitTile
  dsimp only
  rw [get_foldl_wrong _ hwrong, get_streamRest_acc _ _ _ _ _ (by rw [matK_groups]; omega) hn, hctx, hscratch,
    get_accsNext_chainStart]
  rfl

/-- A second parity error: the stream is discarded and event 0x4013 recorded (R118). -/
def parityDiscard (s : State) (core k : Nat) : State :=
  record (discardStream s core k) 0x4013 .stepContained (coveNum (coveOfCore s core)) core []

theorem coveOfCore_of_coves (h : t.coves = s.coves) (core : Nat) : coveOfCore t core = coveOfCore s core := by
  simp only [coveOfCore, coveOfDie, coveAt, h]

theorem parityDiscard_outcome (hcore : core < 1024) (hq : (ctxAt s core k).matQ ≠ []) : let t := parityDiscard s core k
    Recorded s t 0x4013 core ∧ ctxAt t core k = { ctxAt s core k with stream := none } ∧ t.mem = s.mem
      ∧ t.coves = s.coves := by
  obtain ⟨-, -, hmem, hcoves, hsources⟩ := discardStream_outcome s core k
  unfold parityDiscard
  refine ⟨recorded_between (recorded_record _ _ _ _ _ _ (by omega) (by simp [episodeCode])) ?_ rfl, ?_, ?_, ?_⟩
  · simp only [eventCount, hsources]
  · rw [ctxAt_record, ctxAt_discardStream_self hq]
  · rw [record_mem, hmem]
  · rw [record_coves, hcoves]

theorem coveOfCore_parityDiscard (s : State) (core k : Nat) :
    coveOfCore (parityDiscard s core k) core = coveOfCore s core := by
  obtain ⟨-, -, -, hcoves, -⟩ := discardStream_outcome s core k
  exact coveOfCore_of_coves (by rw [parityDiscard, record_coves, hcoves]) core

/-- TILE_COMMIT of a ready tile while the held buffer is free, by the number of parity errors (R118). A tile that does
not drain is compared at once (R106). -/
theorem exec_tileCommit {tl : Issued} {rest : List Issued} (hown : (clusterAt s (clusterOf core)).owner = some k)
    (hq : (ctxAt s core k).matQ = tl :: rest) (hready : tl.ready = true)
    (hfree : ∀ h, (ctxAt s core k).held = some h → h.drainPending = false) (errs : Nat) (wrong : List (Nat × Word)) :
    let h := tileHeld s core k errs tl wrong
    let t := committed (beforeCommit s core k errs) core k tl rest h
    exec (.tileCommit core k errs wrong) s =
      if 2 ≤ errs then .next ((coveOfCore s core).elim (parityDiscard s core k) fun c =>
        discardStep (parityDiscard s core k) c 7 none)
      else .next (if h.drainPending then t else tallyCheck t core h) := by
  show execTileCommit core k errs wrong s = _
  unfold execTileCommit
  dsimp only
  rw [hq]
  refine (if_neg ?gate).trans (if_ctx_congr Iff.rfl (fun _ => ?discard) fun herrs => ?commit)
  case gate =>
    cases hheld : (ctxAt s core k).held with
    | none => simp [hready, hown]
    | some h => simp [hready, hown, hfree h hheld]
  case discard =>
    show Host.Outcome.next (match coveOfCore (parityDiscard s core k) core with
      | some c => discardStep (parityDiscard s core k) c 7 none
      | none => parityDiscard s core k) = _
    rw [coveOfCore_parityDiscard]
    cases coveOfCore s core with
    | none => rfl
    | some c => rfl
  case commit =>
    obtain rfl | rfl : errs = 0 ∨ errs = 1 := by omega
    · rfl
    · rfl

/-! ### The drain (R104) -/

/-- A tile's conversions fill its element plane, and its scales its scale plane. -/
theorem outputConvs_fits (s : State) (core k : Nat) (h : Held) :
    FitsPlanes ((fmtOfCode (ctl h.tile.fields 79 76)).getD .fp32) 0 16384 (outputConvs s core k h) := by
  unfold outputConvs
  dsimp only
  split
  · next hmx => exact ⟨.inr (by rw [length_flatMap_quantiseBlock]), .inr ⟨hmx, by simp⟩⟩
  · exact ⟨.inr (by simp), .inl rfl⟩

/-- The collective point of MMA.RO: the drained output is handed to the routine (R133). -/
def drainPoint (c : CoreState) (h : Held) : RoutineCall :=
  pointOf c h.tile (opElem h.tile.r3) (opScale h.tile.r3)
    (planeBytes ((fmtOfCode (ctl h.tile.fields 79 76)).getD .fp32) 16384) (ctl h.tile.fields 79 76) none

/-- The collective points that a drain reaches. -/
def drainPoints (c : CoreState) (h : Held) : List RoutineCall := if h.tile.op = 0x104 then [drainPoint c h] else []

theorem drainPoints_other (c : CoreState) {h : Held} (hop : h.tile.op ≠ 0x104) : drainPoints c h = [] := if_neg hop

theorem drainPoints_ro (c : CoreState) {h : Held} (hop : h.tile.op = 0x104) : drainPoints c h = [drainPoint c h] :=
  if_pos hop

/-- The context after the drain of its held tile: the flag and the count take the conversions (R67, R104). -/
def drainedCtx (c : CoreState) (h : Held) (out : List Conv) (x : Ctx) : Ctx :=
  { noteConvs x out with
    held := some { h with drainPending := false },
    points := if h.tile.op = 0x104 then x.points ++ [drainPoint c h] else x.points }

theorem drainedCtx_eq (c : CoreState) (h : Held) (out : List Conv) (x : Ctx) : drainedCtx c h out x =
    { noteConvs x out with held := some { h with drainPending := false }, points := x.points ++ drainPoints c h } := by
  unfold drainedCtx
  by_cases hop : h.tile.op = 0x104
  · rw [drainPoints_ro c hop, if_pos hop]
  · rw [drainPoints_other c hop, if_neg hop, List.append_nil]

/-- The state after a drain, before the comparison of the tile. -/
def drained (s : State) (core k : Nat) (h : Held) : State :=
  let f := (fmtOfCode (ctl h.tile.fields 79 76)).getD .fp32
  let out := outputConvs s core k h
  let u := writePlanes s core k f h.tile.r3 0 out
  chargeSats (updCtx u core k (drainedCtx (coreAt u core) h out.1)) core (satsOf out.1)

/-- A drain compares the tile that it wrote (R106). -/
theorem exec_tileDrainEnd {h : Held} (hown : (clusterAt s (clusterOf core)).owner = some k)
    (hheld : (ctxAt s core k).held = some h) (hpending : h.drainPending = true) :
    exec (.tileDrainEnd core k) s = .next (tallyCheck (drained s core k h) core h) := by
  show execTileDrainEnd core k s = _
  unfold execTileDrainEnd
  dsimp only
  rw [hheld]
  refine (if_neg (by simp [hpending, hown])).trans ?_
  unfold drained writePlanes
  simp only [storePlanes_zero]
  rfl

theorem drained_outcome (s : State) (core k : Nat) (h : Held) : let t := drained s core k h
    (∃ c, ctxAt t core k = drainedCtx c h (outputConvs s core k h).1 (ctxAt s core k)) ∧ OtherCtxs s t core k
      ∧ (∀ i a, memByte (coreAt t i).scratch a ≠ memByte (coreAt s i).scratch a → i = core
        ∧ ∃ r ∈ operandRanges ((fmtOfCode (ctl h.tile.fields 79 76)).getD .fp32) h.tile.r3 16384,
          winAddr (ctxAt s core k) r.1 ≤ a ∧ a < winAddr (ctxAt s core k) r.1 + r.2)
      ∧ t.mem = s.mem := by
  unfold drained
  dsimp only
  refine ⟨⟨_, by rw [ctxAt_chargeSats, ctxAt_updCtx, ctxAt_writePlanes]⟩, ?_, fun i a hne => ?_, ?_⟩
  · exact otherCtxs_trans (fun i j _ => ctxAt_writePlanes ..)
      (otherCtxs_trans (otherCtxs_updCtx _ core k _) (otherCtxs_of_cores (chargeSats_cores ..)))
  · rw [coreAt_chargeSats, scratch_updCtx] at hne
    exact by_contra fun hout => hne (memByte_writePlanes (outputConvs_fits s core k h) s core k _ hout)
  · rw [chargeSats_mem, updCtx_mem]
    rfl

/-! ### The statement -/

/-- Settles O23: a commit after fewer than two parity errors, after more, and a drain. -/
theorem tileEvents : Obligations.TileEvents := by
  intro core k s hown hcore x
  refine ⟨fun tl rest errs hq hready hk hfree wrong => ⟨fun herrs => ?commit, fun herrs => ?discard⟩,
    fun h hheld hpending => ?drain⟩
  case commit =>
    have hne : (ctxAt s core k).matQ ≠ [] := ne_of_eq_of_ne hq (List.cons_ne_nil _ _)
    obtain ⟨hctx, hother, hscratch, hmem, hrec⟩ := beforeCommit_outcome hcore hne errs
    obtain ⟨hctx', hother', hscratch', hmem', hsources⟩ :=
      committed_outcome (beforeCommit s core k errs) core k tl rest (tileHeld s core k errs tl wrong)
    refine ⟨_, tileHeld s core k errs tl wrong,
      (exec_tileCommit hown hq hready hfree errs wrong).trans (if_neg (Nat.not_le.mpr herrs)), by rw [hctx', hctx],
      otherCtxs_trans hother hother', rfl, rfl, fun n hn hwrong => ?_, fun i => (hscratch' i).trans (hscratch i),
      hmem'.trans hmem, fun h1 => recorded_of_sources hsources (hrec h1)⟩
    exact get_tileHeld_acc hcore hne hk errs hn hwrong
  case discard =>
    obtain ⟨hrec, hctx, hmem, hcoves⟩ := parityDiscard_outcome (k := k) hcore (ne_of_eq_of_ne hq (List.cons_ne_nil _ _))
    refine ⟨parityDiscard s core k, hrec, by rw [hctx], by rw [hctx], hmem, hcoves, ?_⟩
    refine (exec_tileCommit hown hq hready hfree errs wrong).trans ((if_pos herrs).trans ?_)
    cases coveOfCore s core with
    | none => rfl
    | some c => rfl
  case drain =>
    obtain ⟨⟨c, hctx⟩, hother, hbytes, hmem⟩ := drained_outcome s core k h
    refine ⟨_, exec_tileDrainEnd hown hheld hpending, ⟨(outputConvs s core k h).1, drainPoints c h,
      hctx.trans (drainedCtx_eq ..), drainPoints_other c, fun hop => ⟨_, drainPoints_ro c hop, rfl, rfl, rfl⟩⟩, hbytes,
      hother, hmem⟩

end Sys2Proof.Proofs
end

section
/-!
PROOFS. The vector instructions, their issue and their strokes: O13.
-/
namespace Sys2Proof.Proofs
open Sys2Proof Sys2Proof.Machine Sys2Proof.Laws Sys2Proof.Claim

variable {s t u : State} {core k : Nat} {dst : List Range}

/-! ### What an engine leaves alone -/

/-- A step of a context's engine, within the frame of R129, that leaves the context's window where it is. -/
structure EngineStep (s t : State) (core k : Nat) (dst : List Range) : Prop where
  frame : EngineFrame s t core k dst
  window : (ctxAt t core k).winBase = (ctxAt s core k).winBase

theorem EngineStep.trans (h : EngineStep s t core k dst) (h' : EngineStep t u core k dst) :
    EngineStep s u core k dst := by
  obtain ⟨⟨hctx, hbyte, hcore, hother, hcove, e⟩, hwin⟩ := h
  obtain ⟨⟨hctx', hbyte', hcore', hother', hcove', e'⟩, hwin'⟩ := h'
  refine ⟨⟨fun j hj => (hctx' j hj).trans (hctx j hj), fun a ha => (hbyte' a fun r hr => ?_).trans (hbyte a ha),
    hcore'.trans ?_, fun i hi => (hother' i hi).trans (hother i hi),
    fun c => ⟨(hcove' c).1.trans ?_, (hcove' c).2.trans ?_⟩, e'.trans ?_⟩, hwin'.trans hwin⟩
  · unfold winAddr
    rw [hwin]
    exact ha r hr
  · exact congrArg
      (fun c : CoreState => { c with ctxs := (coreAt u core).ctxs, scratch := (coreAt u core).scratch }) hcore
  · exact congrArg (fun v : Cove => { v with stats := (coveAt u c).stats }) (hcove c).1
  · exact congrArg (fun x : StepStats => { x with saturations := (coveAt u c).stats.saturations }) (hcove c).2
  · exact congrArg (fun x : State => { x with
      cores := u.cores, coves := u.coves,
      trace := { x.trace with counters := u.trace.counters, coveCounters := u.trace.coveCounters } }) e

theorem engineStep_tallied (h : Tallied s t) : EngineStep s t core k dst := by
  obtain ⟨⟨cv, a, b, rfl⟩, hcove⟩ := h
  refine ⟨⟨fun _ _ => rfl, fun _ _ => rfl, rfl, fun _ _ => rfl, fun c => ?_, rfl⟩, rfl⟩
  obtain ⟨n, e⟩ := hcove c
  rw [e]
  exact ⟨rfl, rfl⟩

theorem engineStep_updCtx {f : Ctx → Ctx} (h : (f (ctxAt s core k)).winBase = (ctxAt s core k).winBase) :
    EngineStep s (updCtx s core k f) core k dst := by
  refine ⟨⟨fun j hj => ctxAt_updCtx_other _ _ _ _ _ hj, fun a _ => by rw [scratch_updCtx], ?_,
    fun i hi => coreAt_updCtx_other _ _ _ hi, fun c => ⟨rfl, rfl⟩, rfl⟩, by rw [ctxAt_updCtx, h]⟩
  rw [updCtx, coreAt_setCtx]

theorem engineStep_writePlanes {f : Fmt} {lo n : Nat} {out : List Conv × List Nat} (h : FitsPlanes f lo n out)
    (d : DWord) : EngineStep s (writePlanes s core k f d lo out) core k (operandRanges f d n) := by
  refine ⟨⟨fun j _ => ctxAt_writePlanes .., fun a ha => ?_, ?_, fun i hi => coreAt_updCore_other _ _ _ _ hi,
    fun c => ⟨rfl, rfl⟩, rfl⟩, by rw [ctxAt_writePlanes]⟩
  · exact memByte_writePlanes h s core k d fun ⟨_, r, hr, hin⟩ => ha r hr hin
  · rw [writePlanes, coreAt_updCore]

/-! ### The end of a stroke (R107) -/

/-- An instruction with strokes to come stays at the head of the queue. -/
def vecAgain (s : State) (core k : Nat) (e : VecEntry) : State :=
  updCtx s core k fun x => { x with vecQ := { e with strokes := e.strokes + 1 } :: x.vecQ.drop 1 }

/-- The end of the last stroke: the instruction leaves the queue, and a fused reduction reaches its point (R133). -/
theorem vecFinish_outcome (s : State) (core k : Nat) (o : VecOp) (e : VecEntry) : let t := vecFinish s core k o e
    EngineStep s t core k dst ∧ ∃ ps,
      ctxAt t core k = { ctxAt s core k with
        vecQ := (ctxAt s core k).vecQ.drop 1, points := (ctxAt s core k).points ++ ps }
      ∧ (if vecReduces o = true ∧ communeMask e.inst.fields ≠ 0 then
          ∃ c, ps = [pointOf c e.inst 0 0 4 0 (some (e.acc, false))] else ps = []) := by
  have hleave : EngineStep s
      (updCtx (bumpCore s core 5 (vecCycles o e)) core k fun x => { x with vecQ := x.vecQ.drop 1 }) core k dst :=
    (engineStep_tallied (tallied_bumpCore ..)).trans (engineStep_updCtx rfl)
  unfold vecFinish
  by_cases h : vecReduces o = true ∧ communeMask e.inst.fields ≠ 0
  · have hpoint : (vecReduces o && communeMask e.inst.fields != 0) = true := by simpa using h
    simp only [if_pos h, if_pos hpoint]
    exact ⟨hleave.trans (engineStep_updCtx rfl), _, by rw [ctxAt_updCtx, ctxAt_updCtx, ctxAt_bumpCore], _, rfl⟩
  · have hpoint : ¬ (vecReduces o && communeMask e.inst.fields != 0) = true := by simpa using h
    simp only [if_neg h, if_neg hpoint]
    exact ⟨hleave, [], by rw [ctxAt_updCtx, ctxAt_bumpCore, List.append_nil], rfl⟩

/-- What follows the work of a stroke: the instruction leaves with its last stroke. -/
def vecEnd (s : State) (core k : Nat) (o : VecOp) (e : VecEntry) : State :=
  if e.n ≤ 256 * (e.strokes + 1) then vecFinish s core k o e else vecAgain s core k e

theorem vecEnd_outcome (s : State) (core k : Nat) (o : VecOp) (e : VecEntry) : let t := vecEnd s core k o e
    EngineStep s t core k dst ∧ ∃ ps,
      ctxAt t core k = { ctxAt s core k with
        vecQ := queueAfter (ctxAt s core k) e, points := (ctxAt s core k).points ++ ps }
      ∧ (if vecReduces o = true ∧ communeMask e.inst.fields ≠ 0 ∧ e.n ≤ 256 * (e.strokes + 1) then
          ∃ c, ps = [pointOf c e.inst 0 0 4 0 (some (e.acc, false))] else ps = []) := by
  unfold vecEnd queueAfter
  by_cases hlast : e.n ≤ 256 * (e.strokes + 1)
  · simpa only [hlast, if_true, and_true] using vecFinish_outcome s core k o e
  · simp only [hlast, and_false, if_false]
    exact ⟨engineStep_updCtx rfl, [], by rw [vecAgain, ctxAt_updCtx, List.append_nil], rfl⟩

/-! ### Elementwise strokes (R76, R85, R107) -/

/-- The operations that a stroke writes element by element. -/
def writesElements (o : VecOp) : Bool := !(vecReduces o || o == .tos || o == .stov)

theorem vecRun_elements {o : VecOp} (ho : writesElements o = true) (s : State) (core k : Nat) (e : VecEntry) :
    vecRun s core k o e = vecEnd (vecStroke s core k o e) core k o e := by
  have hred : vecReduces o = false ∧ (o == .tos) = false ∧ (o == .stov) = false := by
    simpa [writesElements, and_assoc] using ho
  obtain ⟨hred, htos, hstov⟩ := hred
  simp only [vecRun, vecEnd, vecAgain, hred, htos, hstov, decide_eq_true_eq, Bool.false_eq_true, if_false]

theorem length_strokeConvs (s : State) (core k : Nat) (o : VecOp) (e : VecEntry) (f : Fmt) (lo len : Nat) :
    let out := strokeConvs s core k o e f lo len
    out.1.length ≤ len ∧ (out.2 = [] ∨ (fmtIsMx f = true ∧ out.2.length = len / 32)) := by
  unfold strokeConvs
  dsimp only
  split
  · exact ⟨by simp, .inl rfl⟩
  · split
    · next hmx => exact ⟨by rw [length_flatMap_quantiseBlock]; omega, .inr ⟨hmx, by simp⟩⟩
    · exact ⟨by simp, .inl rfl⟩

/-- The results of a stroke from position `256 × strokes` fit the planes of an operand of `n` elements. -/
theorem strokeConvs_fits (s : State) (core k : Nat) (o : VecOp) (e : VecEntry) (f : Fmt) :
    FitsPlanes f (256 * e.strokes) e.n
      (strokeConvs s core k o e f (256 * e.strokes) (min 256 (e.n - 256 * e.strokes))) := by
  obtain ⟨helems, hscales⟩ := length_strokeConvs s core k o e f (256 * e.strokes) (min 256 (e.n - 256 * e.strokes))
  by_cases hroom : 256 * e.strokes ≤ e.n
  · exact ⟨.inr (by omega), hscales.imp_right fun ⟨hmx, hlen⟩ => ⟨hmx, by omega⟩⟩
  · exact ⟨.inl (List.length_eq_zero_iff.mp (by omega)),
      .inl (hscales.elim id fun ⟨_, hlen⟩ => List.length_eq_zero_iff.mp (by omega))⟩

/-- The 32 bits that an operation puts in the lane of position `p`. -/
def strokeWord (s : State) (core k : Nat) (o : VecOp) (e : VecEntry) (p : Nat) : Word :=
  if o == .rbits then BitVec.ofNat 32 (vecDraw s core k o e p)
  else BitVec.ofNat 32 (convElem .fp32 (vecRnd e.inst.fields) (ctlBit e.inst.fields 72) (vecDraw s core k o e p)
    (vecElem s core k o e p)).bits

/-- The lanes that a stroke writes, from its first position on. -/
theorem strokeConvs_fp32 (s : State) (core k : Nat) (o : VecOp) (e : VecEntry) (lo len : Nat) :
    (strokeConvs s core k o e .fp32 lo len).1.map (fun c => BitVec.ofNat 32 c.bits) =
      (List.range len).map fun i => strokeWord s core k o e (lo + i) := by
  unfold strokeConvs strokeWord
  by_cases h : (o == VecOp.rbits) = true
  · simp only [if_pos h, List.map_map, Function.comp_def]
  · simp only [if_neg h, if_neg (show ¬ fmtIsMx .fp32 = true from Bool.false_ne_true), List.map_map, Function.comp_def]

theorem vecDest_reg {o : VecOp} {i : Issued} {v : Nat} (h : vecDest o i = some (.reg v)) : v = i.fields.f1.toNat := by
  unfold vecDest vecOpnd at h
  cases hf : fmtOfCode (ctl i.fields 91 88) with
  | none => simp [hf] at h
  | some f =>
    simp only [hf] at h
    split_ifs at h
    · cases h
      rfl
    · cases h

/-- The results of a stroke in the format of its destination. -/
def strokeOut (s : State) (core k : Nat) (o : VecOp) (e : VecEntry) (f : Fmt) : List Conv × List Nat :=
  strokeConvs s core k o e f (256 * e.strokes) (min 256 (e.n - 256 * e.strokes))

theorem vecStroke_none {o : VecOp} {e : VecEntry} (h : vecDest o e.inst = none) (s : State) (core k : Nat) :
    vecStroke s core k o e = s := by
  unfold vecStroke
  rw [h]

theorem vecStroke_reg {o : VecOp} {e : VecEntry} {r : Nat} (h : vecDest o e.inst = some (.reg r)) (s : State)
    (core k : Nat) : ∃ n, vecStroke s core k o e = chargeSats (updCtx s core k fun x =>
      { setLanes x e.inst.fields.f1.toNat 0 ((List.range (min 256 (e.n - 256 * e.strokes))).map fun i =>
          strokeWord s core k o e (256 * e.strokes + i)) with satCount := x.satCount + n }) core n := by
  obtain rfl := vecDest_reg h
  unfold vecStroke
  rw [h, ← strokeConvs_fp32]
  exact ⟨_, rfl⟩

theorem vecStroke_mem {o : VecOp} {e : VecEntry} {f : Fmt} {d : DWord} (h : vecDest o e.inst = some (.mem f d))
    (s : State) (core k : Nat) : vecStroke s core k o e =
      chargeSats (updCtx (writePlanes s core k f d (256 * e.strokes) (strokeOut s core k o e f)) core k fun x =>
        noteConvs x (strokeOut s core k o e f).1) core (satsOf (strokeOut s core k o e f).1) := by
  unfold vecStroke
  rw [h]
  rfl

/-- The work of a stroke: it writes lanes of a register destination, or bytes of a memory destination. -/
theorem vecStroke_outcome (s : State) (core k : Nat) (o : VecOp) (e : VecEntry) : let t := vecStroke s core k o e
    EngineStep s t core k (opndRanges e.n (vecDest o e.inst))
    ∧ (∃ vr nf n, ctxAt t core k = { ctxAt s core k with vregs := vr, nonfinite := nf, satCount := n })
    ∧ ∀ v l, l < 256 → lane (ctxAt t core k) v l =
        if opndIsReg (vecDest o e.inst) = true ∧ v = e.inst.fields.f1.toNat ∧ l < e.n - 256 * e.strokes then
          strokeWord s core k o e (256 * e.strokes + l) else lane (ctxAt s core k) v l := by
  dsimp only
  cases hdest : vecDest o e.inst with
  | none =>
    rw [vecStroke_none hdest]
    exact ⟨engineStep_tallied (.refl s), ⟨_, _, _, rfl⟩, fun v l _ => (if_neg fun h => Bool.false_ne_true h.1).symm⟩
  | some opnd =>
    cases opnd with
    | reg r =>
      obtain ⟨n, e'⟩ := vecStroke_reg hdest s core k
      rw [e']
      have hlanes := fun v l => lane_setLanes (ctxAt s core k) e.inst.fields.f1.toNat 0
        ((List.range (min 256 (e.n - 256 * e.strokes))).map fun i => strokeWord s core k o e (256 * e.strokes + i)) v l
        (by rw [List.length_map, List.length_range]; omega)
      obtain ⟨vr, hvr⟩ := setLanes_eq (ctxAt s core k) e.inst.fields.f1.toNat 0
        ((List.range (min 256 (e.n - 256 * e.strokes))).map fun i => strokeWord s core k o e (256 * e.strokes + i))
      refine ⟨(engineStep_updCtx (by rw [hvr])).trans (engineStep_tallied (tallied_chargeSats ..)), ?_, fun v l hl => ?_⟩
      · rw [ctxAt_chargeSats, ctxAt_updCtx, hvr]
        exact ⟨_, _, _, rfl⟩
      · rw [ctxAt_chargeSats, ctxAt_updCtx]
        refine (hlanes v l hl).trans (if_ctx_congr ?_ (fun ⟨_, _, hlast⟩ => ?_) fun _ => rfl)
        · simp only [opndIsReg, List.length_map, List.length_range, true_and]
          omega
        · rw [List.getD_eq_getElem _ _ (by rw [List.length_map, List.length_range]; omega), List.getElem_map,
            List.getElem_range, Nat.sub_zero]
    | mem f d =>
      rw [vecStroke_mem hdest]
      refine ⟨?_, ?_, fun v l _ => ?_⟩
      · exact ((engineStep_writePlanes (strokeConvs_fits s core k o e f) d).trans (engineStep_updCtx rfl)).trans
          (engineStep_tallied (tallied_chargeSats ..))
      · rw [ctxAt_chargeSats, ctxAt_updCtx, ctxAt_writePlanes]
        exact ⟨_, _, _, rfl⟩
      · rw [ctxAt_chargeSats, ctxAt_updCtx, ctxAt_writePlanes, if_neg fun h => Bool.false_ne_true h.1]
        rfl

/-- A stroke of an elementwise operation, of VRAND and of VRBITS. -/
theorem vecRun_outcome {o : VecOp} (ho : writesElements o = true) (s : State) (core k : Nat) (e : VecEntry) :
    StrokeFrame s (vecRun s core k o e) core k o e
      ∧ StrokeLanes s (vecRun s core k o e) core k o e (strokeWord s core k o e) := by
  have hred : vecReduces o = false := by
    simp only [writesElements, Bool.not_eq_true', Bool.or_eq_false_iff] at ho
    exact ho.1.1
  obtain ⟨hwork, ⟨vr, nf, n, hctx⟩, hlanes⟩ := vecStroke_outcome s core k o e
  obtain ⟨hend, ps, hctx', hps⟩ := vecEnd_outcome (vecStroke s core k o e) core k o e
    (dst := opndRanges e.n (vecDest o e.inst))
  obtain rfl : ps = [] := by simpa [hred] using hps
  have hlane : ∀ v l, lane (ctxAt (vecRun s core k o e) core k) v l =
      lane (ctxAt (vecStroke s core k o e) core k) v l := by
    intro v l
    rw [vecRun_elements ho, hctx']
    rfl
  refine ⟨⟨?_, fun v l hl hv => ?_, ?_⟩, fun hreg i hi => ?_⟩
  · rw [vecRun_elements ho]
    exact (hwork.trans hend).frame
  · rw [hlane, hlanes v l hl, if_neg fun h => hv ⟨h.1, h.2.1⟩]
  · rw [vecRun_elements ho, hctx', hctx, List.append_nil]
    rfl
  · rw [hlane, hlanes _ i hi]
    exact if_congr (by simp [hreg]) rfl rfl

/-- The rows of R147 give the exact result of their operations, each written element by element. -/
theorem vecRows_value : ∀ row ∈ vecRows, writesElements row.1 = true
    ∧ ∀ (s : State) (core k : Nat) (e : VecEntry) (p : Nat),
    let w := e.inst.fields
    let src := fun i => readOpnd (ctxAt s core k) (coreAt s core).scratch ((vecSources row.1 e.inst).getD i none) p
    strokeWord s core k row.1 e p = BitVec.ofNat 32 (convElem .fp32 (vecRnd w) (ctlBit w 72) (vecDraw s core k row.1 e p)
      (row.2.2 w.tail.toNat w.imm (vecRnd w) (src 0) (src 1) (src 2))).bits := by
  simp only [vecRows, List.forall_mem_cons]
  refine ⟨?_, ?_, ?_, ?_, ?_, ?_, ?_, ?_, ?_, ?_, ?_, ?_, ?_, ?_, ?_, fun _ h => (List.not_mem_nil h).elim⟩
  all_goals exact ⟨rfl, fun _ _ _ _ _ => rfl⟩

theorem elementwiseStrokes : ElementwiseStrokes := by
  intro row hrow core k e s
  obtain ⟨ho, hvalue⟩ := vecRows_value row hrow
  obtain ⟨hframe, hlanes⟩ := vecRun_outcome ho s core k e
  refine ⟨_, rfl, hframe, ?_⟩
  rw [funext (hvalue s core k e)] at hlanes
  exact hlanes

theorem randomStrokes : RandomStrokes := fun core k e s =>
  ⟨⟨_, rfl, vecRun_outcome rfl s core k e⟩, ⟨_, rfl, vecRun_outcome rfl s core k e⟩⟩

/-! ### Reductions (R108) -/

/-- The state after a stroke of a reduction was added to its running value. -/
def addStroke (s : State) (core k : Nat) (r : Word × Nat) : State :=
  chargeSats (updCtx s core k fun x => { x with satCount := x.satCount + r.2 }) core r.2

/-- The lanes of a vector register of a result: the value, then +0. -/
def resultLanes (x : Ctx) (v : Nat) (r : Word) : Ctx := setLanes x v 0 (r :: List.replicate 255 0#32)

theorem lane_resultLanes (x : Ctx) (v : Nat) (r : Word) (v' l : Nat) (hl : l < 256) :
    lane (resultLanes x v r) v' l = if v' = v then (if l = 0 then r else 0#32) else lane x v' l := by
  refine (lane_setLanes x v 0 (r :: List.replicate 255 0#32) v' l (by rw [List.length_cons, List.length_replicate])
    hl).trans (if_ctx_congr ?_ (fun _ => ?_) fun _ => rfl)
  · simp only [List.length_cons, List.length_replicate]
    omega
  · cases l with
    | zero => rfl
    | succ l => rw [Nat.sub_zero, List.getD_cons_succ, List.getD_replicate _ (by omega), if_neg (Nat.succ_ne_zero l)]

/-- The work of a stroke of a reduction: the last one writes the result's register. -/
def reduceWork (s : State) (core k : Nat) (e : VecEntry) (r : Word × Nat) : State :=
  if e.n ≤ 256 * (e.strokes + 1) then
    updCtx (addStroke s core k r) core k fun x => resultLanes x e.inst.fields.f1.toNat r.1
  else addStroke s core k r

theorem reduceWork_outcome (s : State) (core k : Nat) (e : VecEntry) (r : Word × Nat) : let t := reduceWork s core k e r
    EngineStep s t core k dst
    ∧ (∃ vr, ctxAt t core k = { ctxAt s core k with vregs := vr, satCount := (ctxAt s core k).satCount + r.2 })
    ∧ ∀ v l, l < 256 → lane (ctxAt t core k) v l =
        if v = e.inst.fields.f1.toNat ∧ e.n ≤ 256 * (e.strokes + 1) then (if l = 0 then r.1 else 0#32)
        else lane (ctxAt s core k) v l := by
  have hadd : EngineStep s (addStroke s core k r) core k dst :=
    (engineStep_updCtx rfl).trans (engineStep_tallied (tallied_chargeSats ..))
  have hctx : ctxAt (addStroke s core k r) core k =
      { ctxAt s core k with satCount := (ctxAt s core k).satCount + r.2 } := by
    rw [addStroke, ctxAt_chargeSats, ctxAt_updCtx]
  unfold reduceWork
  by_cases hlast : e.n ≤ 256 * (e.strokes + 1)
  · simp only [if_pos hlast]
    obtain ⟨vr, hvr⟩ := setLanes_eq (ctxAt (addStroke s core k r) core k) e.inst.fields.f1.toNat 0
      (r.1 :: List.replicate 255 0#32)
    refine ⟨hadd.trans (engineStep_updCtx (by rw [resultLanes, hvr])), ⟨vr, ?_⟩, fun v l hl => ?_⟩
    · rw [ctxAt_updCtx, resultLanes, hvr, hctx]
    · rw [ctxAt_updCtx, lane_resultLanes _ _ _ _ _ hl, hctx]
      exact if_congr (by simp [hlast]) rfl rfl
  · simp only [if_neg hlast]
    refine ⟨hadd, ⟨_, hctx⟩, fun v l _ => ?_⟩
    rw [if_neg fun h => hlast h.2, hctx]
    rfl

theorem vecRun_reduces {o : VecOp} (ho : vecReduces o = true) (s : State) (core k : Nat) (e : VecEntry) :
    let r := reduceStroke s core k o e
    vecRun s core k o e = vecEnd (reduceWork s core k e r) core k o { e with acc := r.1 } := by
  have htos : (o == .tos) = false := beq_eq_false_iff_ne.mpr fun h =>
    Bool.false_ne_true ((congrArg vecReduces h).symm.trans ho)
  have hstov : (o == .stov) = false := beq_eq_false_iff_ne.mpr fun h =>
    Bool.false_ne_true ((congrArg vecReduces h).symm.trans ho)
  unfold reduceWork
  by_cases hlast : e.n ≤ 256 * (e.strokes + 1)
  · simp only [vecRun, vecEnd, htos, hstov, ho, hlast, decide_true, Bool.false_eq_true, if_true, if_false]
    rfl
  · simp only [vecRun, vecEnd, htos, hstov, ho, hlast, decide_false, Bool.false_eq_true, if_true, if_false]
    rfl

theorem reductionStrokes : ReductionStrokes := by
  intro o hmem core k e s
  have ho : vecReduces o = true := by
    simp only [List.mem_cons, List.not_mem_nil, or_false] at hmem
    obtain rfl | rfl | rfl := hmem <;> rfl
  have hrun := vecRun_reduces ho s core k e
  generalize reduceStroke s core k o e = r at hrun ⊢
  obtain ⟨hwork, ⟨vr, hctx⟩, hlanes⟩ := reduceWork_outcome s core k e r (dst := [])
  obtain ⟨hend, ps, hctx', hps⟩ := vecEnd_outcome (reduceWork s core k e r) core k o { e with acc := r.1 } (dst := [])
  dsimp only at hrun hps
  refine ⟨_, ps, hrun, (hwork.trans hend).frame, fun v l hl => ?_, ?_, ?_⟩
  · rw [hctx']
    exact hlanes v l hl
  · rw [hctx', hctx]
    rfl
  · by_cases hpoint : communeMask e.inst.fields = 0 ∨ 256 * (e.strokes + 1) < e.n
    · rw [if_pos hpoint]
      rwa [if_neg fun h => hpoint.elim h.2.1 (Nat.not_lt.mpr h.2.2)] at hps
    · rw [if_neg hpoint]
      rw [not_or, Nat.not_lt] at hpoint
      rw [if_pos ⟨ho, hpoint⟩] at hps
      obtain ⟨c, rfl⟩ := hps
      exact ⟨_, rfl, rfl, rfl, rfl, rfl, rfl, rfl, rfl⟩

/-! ### VTOS and VSTOV (R147) -/

theorem setSreg_eq (x : Ctx) (r : BitVec 5) (v : DWord) : ∃ sr, setSreg x r v = { x with sregs := sr } := by
  unfold setSreg
  split
  · exact ⟨_, rfl⟩
  · exact ⟨_, rfl⟩

/-- A vector register with one value in all lanes. -/
def allLanes (x : Ctx) (v : Nat) (w : Word) : Ctx := setLanes x v 0 (List.replicate 256 w)

theorem allLanes_eq (x : Ctx) (v : Nat) (w : Word) : ∃ vr, allLanes x v w = { x with vregs := vr } := setLanes_eq ..

theorem lane_allLanes (x : Ctx) (v : Nat) (w : Word) (v' l : Nat) (hl : l < 256) :
    lane (allLanes x v w) v' l = if v' = v then w else lane x v' l := by
  refine (lane_setLanes x v 0 (List.replicate 256 w) v' l (by rw [List.length_replicate]) hl).trans (if_ctx_congr ?_
    (fun _ => ?_) fun _ => rfl)
  · rw [List.length_replicate]
    omega
  · exact List.getD_replicate _ (by omega)

theorem vecRun_tos (s : State) (core k : Nat) (e : VecEntry) : vecRun s core k .tos e =
    vecFinish (updCtx s core k fun x =>
      setSreg x e.inst.fields.f1 ((lane x e.inst.fields.f2.toNat 0).zeroExtend 64)) core k .tos e := rfl

theorem vecRun_stov (s : State) (core k : Nat) (e : VecEntry) : vecRun s core k .stov e =
    vecFinish (updCtx s core k fun x => allLanes x e.inst.fields.f1.toNat (e.inst.r2.truncate 32)) core k .stov e := by
  unfold vecRun allLanes
  exact if_neg Bool.false_ne_true

theorem scalarStrokes : ScalarStrokes := by
  intro core k e s
  refine ⟨?tos, ?stov⟩
  case tos =>
    rw [vecRun_tos]
    obtain ⟨hend, ps, hctx, hps⟩ := vecFinish_outcome (updCtx s core k fun x =>
      setSreg x e.inst.fields.f1 ((lane x e.inst.fields.f2.toNat 0).zeroExtend 64)) core k .tos e (dst := [])
    obtain rfl : ps = [] := hps
    obtain ⟨sr, hsr⟩ := setSreg_eq (ctxAt s core k) e.inst.fields.f1
      ((lane (ctxAt s core k) e.inst.fields.f2.toNat 0).zeroExtend 64)
    rw [ctxAt_updCtx, List.append_nil] at hctx
    refine ⟨_, rfl, ((engineStep_updCtx (by rw [hsr])).trans hend).frame, fun r => ?_, ?_⟩
    · exact (congrArg (sreg · r) hctx).trans (sreg_setSreg ..)
    · rw [hctx, hsr]
  case stov =>
    rw [vecRun_stov]
    obtain ⟨hend, ps, hctx, hps⟩ := vecFinish_outcome (updCtx s core k fun x =>
      allLanes x e.inst.fields.f1.toNat (e.inst.r2.truncate 32)) core k .stov e (dst := [])
    obtain rfl : ps = [] := hps
    have hlanes := lane_allLanes (ctxAt s core k) e.inst.fields.f1.toNat (e.inst.r2.truncate 32)
    obtain ⟨vr, hvr⟩ := allLanes_eq (ctxAt s core k) e.inst.fields.f1.toNat (e.inst.r2.truncate 32)
    rw [ctxAt_updCtx, List.append_nil, hvr] at hctx
    rw [hvr] at hlanes
    refine ⟨_, rfl, ((engineStep_updCtx (by rw [hvr])).trans hend).frame, fun v l hl => ?_, ?_⟩
    · rw [hctx]
      exact hlanes v l hl
    · rw [hctx]

/-! ### Issue (R96, R129, R147) -/

/-- The context after an instruction entered the vector queue, with the call number that a fused one takes (R134). -/
def vecQueued (e : VecEntry) (w : Fields) (x : Ctx) : Ctx :=
  let (call, x) := if communeMask w = 0 then (0, x) else takeCall x (communeGroup w)
  { x with vecQ := x.vecQ ++ [{ e with inst := { e.inst with call := call } }] }

theorem vecQueued_outcome (e : VecEntry) (w : Fields) (x : Ctx) : ∃ call cs,
    vecQueued e w x = { x with vecQ := x.vecQ ++ [{ e with inst := { e.inst with call := call } }], calls := cs }
    ∧ (∀ g, Sparse.get 0 cs g = Sparse.get 0 x.calls g + if communeMask w ≠ 0 ∧ g = communeGroup w then 1 else 0)
    ∧ (communeMask w ≠ 0 → call = Sparse.get 0 x.calls (communeGroup w)) := by
  unfold vecQueued takeCall
  by_cases h : communeMask w = 0
  · simp only [if_pos h]
    exact ⟨0, x.calls, rfl, fun g => by rw [if_neg fun h' => h'.1 h]; rfl, fun h' => absurd h h'⟩
  · simp only [if_neg h]
    refine ⟨_, _, rfl, fun g => ?_, fun _ => rfl⟩
    rw [get_set]
    by_cases hg : g = communeGroup w
    · rw [if_pos hg, if_pos ⟨h, hg⟩, hg]
    · rw [if_neg hg, if_neg fun h' => hg h'.2, Nat.add_zero]

/-- An instruction whose checks pass and that has room enters the queue and retires (R166). -/
theorem vecIssue_ready {o : VecOp} {w : Fields} (h : VecReady s core k o w) : vecIssue s core k o w =
    retire (updCtx s core k (vecQueued (vecEntry s core k o w 0) w)) core k ((ctxAt s core k).pc + 1) := by
  obtain ⟨hfetched, hfields, hlegal, hwindow, hroutine, hroom, hfree⟩ := h
  have hbounded : (((vecEntry s core k o w 0).reads ++ (vecEntry s core k o w 0).writes).all
      fun r => inWindow (ctxAt s core k) r.1 r.2) = true := List.all_eq_true.mpr hwindow
  unfold vecIssue issueNext
  dsimp only
  rw [hlegal, hbounded, hroutine, hfree, decide_eq_false (Nat.not_le.mpr hroom)]
  exact issue_body hfetched hfields

/-- Every VEC command issues its operation. -/
theorem exec_vecOps : ∀ row ∈ vecOps, ∀ (core k : Nat) (w : Fields) (s : State),
    exec (row.2 core k w) s = .next (vecIssue s core k row.1 w) := by
  simp only [vecOps, List.forall_mem_cons]
  refine ⟨?_, ?_, ?_, ?_, ?_, ?_, ?_, ?_, ?_, ?_, ?_, ?_, ?_, ?_, ?_, ?_, ?_, ?_, ?_, ?_, ?_, ?_,
    fun _ h => (List.not_mem_nil h).elim⟩
  all_goals exact fun _ _ _ _ => rfl

theorem vectorIssue : VectorIssue := by
  intro row hrow core k w s hready
  obtain ⟨call, cs, hqueued, hcalls, hcall⟩ := vecQueued_outcome (vecEntry s core k row.1 w 0) w (ctxAt s core k)
  have hctx := ctxAt_retire (updCtx s core k (vecQueued (vecEntry s core k row.1 w 0) w)) core k
    ((ctxAt s core k).pc + 1)
  rw [ctxAt_updCtx, hqueued] at hctx
  refine ⟨_, { vecEntry s core k row.1 w 0 with inst := { (vecEntry s core k row.1 w 0).inst with call := call } },
    (exec_vecOps row hrow core k w s).trans (congrArg _ (vecIssue_ready hready)), frame_retire .., ?_, rfl, rfl,
    rfl, rfl, rfl, rfl, rfl, rfl, rfl, rfl, rfl, fun g => ?_, hcall⟩
  · rw [hctx]
  · rw [hctx]
    exact hcalls g

/-! ### The statement -/

/-- Settles O13: the issue, the strokes of each kind of operation, and their frames. -/
theorem vectorOps : Obligations.VectorOps :=
  ⟨vectorIssue, elementwiseStrokes, randomStrokes, reductionStrokes, scalarStrokes⟩

end Sys2Proof.Proofs
end

section
/-!
PROOFS. Instructions that the checks of R166 stop: O10.
-/
namespace Sys2Proof.Proofs
open Sys2Proof Sys2Proof.Machine Sys2Proof.Laws Sys2Proof.Claim

variable {s : State} {core k op : Nat} {w : Fields} {u : Use} {wr : Writes} {allowed legal bounded : Bool}
  {stall : Option Nat} {body : State → State}

/-! ### What stops an instruction (R166) -/

theorem issue_fetchFault (hcan : canIssue s core k = true) (hbad : fetchBad (ctxAt s core k) = true) :
    issue s core k op w u wr allowed legal bounded stall body = fetchFault s core k (ctxAt s core k).pc op := by
  unfold issue
  simp [hcan, hbad]

/-- A word with an uncorrectable error is not executed: the fetch has reported it (R118). -/
theorem issue_unreadable (hcan : canIssue s core k = true) (hin : fetchBad (ctxAt s core k) = false)
    (hread : (fetchRead s core k).1 = false) :
    issue s core k op w u wr allowed legal bounded stall body = (fetchRead s core k).2 := by
  unfold issue
  simp [hcan, hin, hread]

/-- A command that is not the listed word at the program counter (log entry 12). -/
theorem issue_otherWord (hcan : canIssue s core k = true) (hin : fetchBad (ctxAt s core k) = false)
    (hread : (fetchRead s core k).1 = true) (hlisted : opListed (wordOp (fetchedWord s core k)) = true)
    (hother : fetchedWord s core k ≠ encodeWord op w) :
    issue s core k op w u wr allowed legal bounded stall body = s := by
  unfold issue
  simp [hcan, hin, hread, hlisted, hother]

/-- A used bit of an unused field is an operand fault (R128). -/
theorem issue_unusedField (f : Fetched s core k op w) (hunused : unusedZero w u = false) :
    issue s core k op w u wr allowed legal bounded stall body = operandFault s core k (ctxAt s core k).pc op := by
  unfold issue
  simp [f.can, f.region, f.sound, f.ready, f.word, wordOp_encodeWord op w (listed_lt f.listed), f.listed, hunused]

/-! ### The two-source operations (R137) -/

/-- Each row's command is a two-source operation of its word. -/
theorem exec_aluRows : ∀ row ∈ aluRows, ∃ f, ∀ (core k : Nat) (w : Fields) (s : State),
    exec (row.2.1 core k w) s = ctlAlu s core k row.1 w f := by
  simp only [aluRows, List.forall_mem_cons]
  refine ⟨⟨(· + ·), fun _ _ _ _ => rfl⟩, ⟨(· - ·), fun _ _ _ _ => rfl⟩, ⟨(· * ·), fun _ _ _ _ => rfl⟩,
    ⟨(· &&& ·), fun _ _ _ _ => rfl⟩, ⟨(· ||| ·), fun _ _ _ _ => rfl⟩, ⟨(· ^^^ ·), fun _ _ _ _ => rfl⟩,
    ⟨fun a b => a <<< (b.toNat % 64), fun _ _ _ _ => rfl⟩, ⟨fun a b => a >>> (b.toNat % 64), fun _ _ _ _ => rfl⟩,
    ⟨fun a b => a.sshiftRight (b.toNat % 64), fun _ _ _ _ => rfl⟩,
    ⟨fun a b => if a.slt b then a else b, fun _ _ _ _ => rfl⟩,
    ⟨fun a b => if a.slt b then b else a, fun _ _ _ _ => rfl⟩, fun _ h => (List.not_mem_nil h).elim⟩

/-- Settles O10: a two-source operation is an issue, and each check that fails stops it in its own way. -/
theorem blockedOrOtherWordDoesNothing : Obligations.BlockedOrOtherWordDoesNothing := by
  intro row hrow core k w s
  obtain ⟨f, hexec⟩ := exec_aluRows row hrow
  simp only [hexec, ctlAlu, ctlWrite, issueNext]
  refine ⟨fun hblocked => ?_, fun hcan hin hread hlisted hother => ?_, fun hcan hin hread => ?_,
    fun hfetched hunused => ?_, fun hcan hbad => ?_⟩
  · rw [issue_blocked hblocked]
  · rw [issue_otherWord hcan hin hread hlisted hother]
  · rw [issue_unreadable hcan hin hread]
  · rw [issue_unusedField hfetched hunused]
  · rw [issue_fetchFault hcan hbad]

end Sys2Proof.Proofs
end

section
/-!
PROOFS. A routine's wain instruction whose destination names its own scratchpad by global address: O14.
-/
namespace Sys2Proof.Proofs
open Sys2Proof Sys2Proof.Machine Sys2Proof.Laws Sys2Proof.Claim

/-! ### The state of the refutation

Core 0 runs a routine that was handed bytes 4096 to 4159. Its WZERO is of class 1, clears Ls and Ld, and names the
64 bytes at global address 0, which are the first bytes of its own scratchpad (R199, R232): no range of R152 covers
them, and the routine may not write them. -/

/-- WZERO of s2 bytes at the address in s1, of class 1, with no bit for a local range. -/
def globalZeroFields : Fields :=
  { f1 := 0#5, f2 := 1#5, f3 := 2#5, f4 := 0#5, control := 0x01000000#32, imm := 0#32, commune := 0#16, tail := 0#16 }

/-- A call that hands over bytes 4096 to 4159 of the scratchpad. -/
def callOfRange : RoutineCall :=
  pointOf CoreState.reset (issuedOf State.reset 0 0 0x200 globalZeroFields false 0) 4096 0 64 0 none

def callContext : Ctx :=
  { Ctx.reset with mode := .running, routine := some callOfRange, sregs := [(2, 64#64)] }

def globalZeroState : State :=
  { State.reset with
    coves := [(0, { Cove.reset with mode := .running, dies := 1#64 })]
    clusters := [(0, { ClusterState.reset with owner := some 0 })]
    cores := [(0, { CoreState.reset with ctxs := [(0, callContext)], rmem := [(0, encodeWord 0x301 globalZeroFields)] })] }

theorem globalZero_fetched : Fetched globalZeroState 0 0 0x301 globalZeroFields where
  can := by decide +kernel
  region := by decide +kernel
  sound := rfl
  word := by decide +kernel
  listed := by decide +kernel
  ready := by decide +kernel
  clear := by decide +kernel

theorem globalZero_fieldsOk : FieldsOk globalZeroState 0 0 0x301 globalZeroFields (wainUse 0x01) Writes.none true := by
  refine ⟨?_, ?_, ?_⟩ <;> decide +kernel

/-- It names no local range. -/
theorem globalZero_ranges : wainReads (ctxAt globalZeroState 0 0) 0x01 globalZeroFields = []
    ∧ wainWrites (ctxAt globalZeroState 0 0) 0x01 globalZeroFields = [] := by
  decide +kernel

/-- The bytes that it would clear lie in no area of the call: a bounds fault stops the context (R166, R199). -/
theorem globalZero_stops : ∃ t, exec (.wzero 0 0 globalZeroFields) globalZeroState = .next t
    ∧ (ctxAt t 0 0).mode = .stopped :=
  ⟨wainIssue globalZeroState 0 0 0x01 globalZeroFields, rfl, by decide +kernel⟩

/-- Refutes O14: a routine's WZERO whose destination is a global address of its core's own scratchpad, outside the
areas of its call, is a bounds fault (R199), although it names no local range that the hypotheses could ask about. -/
theorem not_wainDescriptorsAreQueued : ¬ Obligations.WainDescriptorsAreQueued := by
  intro h
  obtain ⟨hreads, hwrites⟩ := globalZero_ranges
  obtain ⟨t, d, hexec, -, hctx, -⟩ := h (0x01, .wzero) (by simp [wainRows]) 0 0 globalZeroFields globalZeroState
    globalZero_fetched globalZero_fieldsOk (by decide +kernel) (by simp [hreads, hwrites])
    (by decide +kernel) (by decide +kernel) (by decide +kernel)
  obtain ⟨t', hexec', hstopped⟩ := globalZero_stops
  obtain rfl : t = t' := by simpa [hexec] using hexec'
  have hrunning : (ctxAt t 0 0).mode = .running := by rw [hctx]; rfl
  rw [hrunning] at hstopped
  exact absurd hstopped (by decide)

end Sys2Proof.Proofs
end

section
/-!
PROOFS. The bit errors of the words that a stroke of RNARW rewrites: O22.
-/
namespace Sys2Proof.Proofs
open Sys2Proof Sys2Proof.Machine Sys2Proof.Laws Sys2Proof.Claim

/-! ### The state of the refutation

Word 0 of core 0's scratchpad holds a bit error that a rewrite of the word removes (R118). An RNARW of two FP32
elements has its stubble in that word, its source at 1024 and its destination at 2048. -/

def stubbleErrorState : State :=
  { State.reset with cores := [(0, { CoreState.reset with upsets := [(0, 0, false)] })] }

/-- RNARW from s2 to s1 with its stubble at s4. -/
def narrowFields : Fields :=
  { f1 := 1#5, f2 := 2#5, f3 := 3#5, f4 := 4#5, control := 0#32, imm := 0#32, commune := 0#16, tail := 0#16 }

def narrowEntry : VecEntry :=
  { inst := { issuedOf stubbleErrorState 0 0 0x605 narrowFields true 0 with r1 := 2048#64, r2 := 1024#64, r3 := 2#64, r4 := 0#64 }
    n := 2, map0 := 0#64, map1 := 0#64, reads := [(1024, 8), (0, 8)], writes := [(2048, 8), (0, 8)]
    vreads := [], vwrite := none, sdest := none, strokes := 0, acc := 0#32 }

theorem narrow_upsets : (coreAt stubbleErrorState 0).upsets = [(0, 0, false)]
    ∧ (coreAt (rtnRun stubbleErrorState 0 0 narrowEntry) 0).upsets = [] := by
  decide +kernel

/-- Refutes O22 at its RNARW: the new stubble of the two elements rewrites scratchpad word 0 whole, so that the word
holds no bit error any more (R118); the statement has nothing of the core change but its contexts and its bytes. -/
theorem not_routineData : ¬ Obligations.RoutineData := by
  rintro ⟨-, -, hnarrows⟩
  obtain ⟨before, afterStroke⟩ := narrow_upsets
  obtain ⟨t, ht, ⟨⟨-, -, hcore, -⟩, -⟩, -⟩ := hnarrows 0 0 narrowEntry stubbleErrorState rfl
  have hkept : (coreAt t 0).upsets = (coreAt stubbleErrorState 0).upsets := by rw [hcore]
  rw [← ht, before, afterStroke] at hkept
  exact absurd hkept (by decide)

end Sys2Proof.Proofs
end

section
/-!
PROOFS. The THR instructions at their issue: O17.
-/
namespace Sys2Proof.Proofs
open Sys2Proof Sys2Proof.Machine Sys2Proof.Laws Sys2Proof.Claim

variable {s : State} {core k op : Nat} {w : Fields} {u : Use} {wr : Writes} {fixed lead bounded locked : Bool}
  {reads writes : List Range} {sdest : Option (BitVec 5)} {i : Instr}

/-- Does the instruction take a call number: a TSSQ of the lead core (R177). -/
def takesCall (core op : Nat) : Bool := op == 0x501 && core % 4 == 0

/-- The copy that enters a core's THR queue. -/
def thrCopy (s : State) (core k op : Nat) (w : Fields) (reads writes : List Range) (sdest : Option (BitVec 5)) : ThrEntry :=
  thrEntry (issuedOf s core k op w true
    (if takesCall core op then Sparse.get 0 (ctxAt s core k).calls (communeGroup w) else 0)) reads writes sdest

/-- The context with that copy in its queue, and its call counted. -/
def joinThr (s : State) (core k op : Nat) (w : Fields) (e : ThrEntry) : Ctx :=
  { (if takesCall core op then (takeCall (ctxAt s core k) (communeGroup w)).2 else ctxAt s core k) with
    thrQ := (ctxAt s core k).thrQ ++ [e] }

/-- An instruction that its checks let pass joins the queue and retires. -/
theorem thrIssue_joins (f : Fetched s core k op w) (ok : FieldsOk s core k op w u wr false) (hfixed : fixed = true)
    (hlead : core % 4 = 0 → lead = true ∧ bounded = true) (hroom : (ctxAt s core k).thrQ.length < 4)
    (hfree : locked = false) :
    thrIssue s core k op w u wr fixed lead bounded locked reads writes sdest =
      retire (updCtx s core k fun _ => joinThr s core k op w (thrCopy s core k op w reads writes sdest)) core k
        ((ctxAt s core k).pc + 1) := by
  have hlegal : (fixed && (!(core % 4 == 0) || lead)) = true := by
    by_cases h : core % 4 = 0 <;> simp [h, hfixed, hlead]
  have hbounded : (!(core % 4 == 0) || bounded) = true := by
    by_cases h : core % 4 = 0 <;> simp [h, hlead]
  have hstall : stallOf (decide (4 ≤ (ctxAt s core k).thrQ.length)) locked = none := by
    simp [stallOf, hfree, hroom]
  unfold thrIssue issueNext
  simp only [hlegal, hbounded, hstall]
  exact issue_body f ok

/-- Only the call number of a TSSQ's group advances (R177). -/
theorem calls_joinThr (e : ThrEntry) (g : Nat) : Sparse.get 0 (joinThr s core k op w e).calls g =
    Sparse.get 0 (ctxAt s core k).calls g + if op = 0x501 ∧ core % 4 = 0 ∧ g = communeGroup w then 1 else 0 := by
  by_cases h : op = 0x501 ∧ core % 4 = 0
  · obtain ⟨hop, hcore⟩ := h
    by_cases hg : g = communeGroup w <;> simp [joinThr, takesCall, takeCall, get_set, hop, hcore, hg]
  · have hnone : takesCall core op = false := by simpa [takesCall] using h
    have hother : ¬ (op = 0x501 ∧ core % 4 = 0 ∧ g = communeGroup w) := fun h' => h ⟨h'.1, h'.2.1⟩
    simp [joinThr, hnone, hother]

theorem joinThr_eq (e : ThrEntry) : joinThr s core k op w e =
    { ctxAt s core k with thrQ := (ctxAt s core k).thrQ ++ [e], calls := (joinThr s core k op w e).calls } := by
  unfold joinThr
  split <;> rfl

/-- What the queue holds after an instruction that its checks let pass (R88, R121). -/
theorem thr_queued (hexec : exec i s = .next (thrIssue s core k op w u wr fixed lead bounded locked reads writes sdest))
    (f : Fetched s core k op w) (ok : FieldsOk s core k op w u wr false) (hfixed : fixed = true)
    (hlead : core % 4 = 0 → lead = true ∧ bounded = true) (hroom : (ctxAt s core k).thrQ.length < 4)
    (hfree : locked = false) (hdeclares : thrDeclares s core k op w = (reads, writes)) :
    let x := ctxAt s core k
    ∃ t e, exec i s = .next t ∧ CoreFrame s t core k
      ∧ ctxAt t core k = { x with pc := x.pc + 1, thrQ := x.thrQ ++ [e], calls := (ctxAt t core k).calls }
      ∧ e.inst.op = op ∧ e.inst.fields = w ∧ e.inst.addr = x.pc ∧ e.inst.r1 = sreg x w.f1 ∧ e.inst.r2 = sreg x w.f2
      ∧ e.inst.r3 = sreg x w.f3 ∧ e.inst.r4 = sreg x w.f4 ∧ e.sdest = sdest ∧ e.handed = false
      ∧ e.run = BundleRun.reset ∧ e.reads = (thrDeclares s core k op w).1
      ∧ e.writes = (thrDeclares s core k op w).2
      ∧ (∀ g, Sparse.get 0 (ctxAt t core k).calls g = Sparse.get 0 x.calls g
          + if op = 0x501 ∧ core % 4 = 0 ∧ g = communeGroup w then 1 else 0)
      ∧ (op = 0x501 → core % 4 = 0 → e.inst.call = Sparse.get 0 x.calls (communeGroup w)) := by
  intro x
  have hctx : ctxAt (thrIssue s core k op w u wr fixed lead bounded locked reads writes sdest) core k =
      { joinThr s core k op w (thrCopy s core k op w reads writes sdest) with pc := x.pc + 1 } := by
    rw [thrIssue_joins f ok hfixed hlead hroom hfree, ctxAt_retire, ctxAt_updCtx]
  refine ⟨_, thrCopy s core k op w reads writes sdest, hexec, ?_, ?_, rfl, rfl, rfl, rfl, rfl, rfl, rfl, rfl, rfl, rfl,
    by rw [hdeclares]; rfl, by rw [hdeclares]; rfl, fun g => ?_, fun hop hcore => ?_⟩
  · rw [thrIssue_joins f ok hfixed hlead hroom hfree]
    exact frame_retire ..
  · rw [hctx, joinThr_eq]
  · rw [hctx]
    exact calls_joinThr (thrCopy s core k op w reads writes sdest) g
  · simp [thrCopy, thrEntry, issuedOf, takesCall, hop, hcore, x]

/-- TSSQ, TCLIP and TFLAG declare no range (R162). -/
theorem thrDeclares_tssq : thrDeclares s core k 0x501 w = ([], []) := by simp [thrDeclares]

theorem thrDeclares_tclip : thrDeclares s core k 0x502 w = ([], []) := by simp [thrDeclares]

theorem thrDeclares_tflag : thrDeclares s core k 0x505 w = ([], []) := by simp [thrDeclares]

/-- TMOV and TLIN declare ranges on the core that they name. -/
theorem thrDeclares_tmov : thrDeclares s core k 0x503 w =
    (if core = linkCore core w ∧ ctlBit w 87 = true
      then [((sreg (ctxAt s core k) w.f1).toNat, (sreg (ctxAt s core k) w.f3).toNat)] else [],
     if core = linkCore core w ∧ (!ctlBit w 87) = true
      then [((sreg (ctxAt s core k) w.f1).toNat, (sreg (ctxAt s core k) w.f3).toNat)] else []) := by
  unfold thrDeclares
  generalize linkCore core w = l
  by_cases hown : core = l <;> by_cases hback : ctlBit w 87 = true <;> simp [hown, hback]

theorem thrDeclares_tlin : thrDeclares s core k 0x504 w =
    (if core = linkCore core w
      then [((sreg (ctxAt s core k) w.f1).toNat, 4 * (sreg (ctxAt s core k) w.f3).toNat),
        ((sreg (ctxAt s core k) w.f2).toNat, 4 * (sreg (ctxAt s core k) w.f3).toNat)] else [],
     if core = linkCore core w
      then [((sreg (ctxAt s core k) w.f1).toNat, 4 * (sreg (ctxAt s core k) w.f3).toNat)] else []) := by
  unfold thrDeclares
  generalize linkCore core w = l
  by_cases hown : core = l <;> simp [hown]

/-- Settles O17: each row issues through the queue of its core, and the rules of R160 are what its checks ask. -/
theorem thrInstructionsAreQueued : Obligations.ThrInstructionsAreQueued := by
  unfold Obligations.ThrInstructionsAreQueued thrRows
  refine List.forall_mem_cons.2 ⟨?tupd, List.forall_mem_cons.2 ⟨?tssq, List.forall_mem_cons.2 ⟨?tclip,
    List.forall_mem_cons.2 ⟨?tmov, List.forall_mem_cons.2 ⟨?tlin, List.forall_mem_cons.2 ⟨?tflag,
      fun _ h => (List.not_mem_nil h).elim⟩⟩⟩⟩⟩⟩ <;>
    intro core k w s f ok hfixed hlead hroom hfree
  case tupd =>
    refine thr_queued (rfl : exec (.tupd core k w) s = _) f ok hfixed (fun h => ?_) hroom hfree rfl
    obtain ⟨haddr, hlow, hhigh, hfloor, hrule, hwindow, hblock⟩ := (hlead h).1 rfl
    exact ⟨by simp only [haddr, hlow, hhigh, hfloor, hrule, hwindow, hblock]; decide, hwindow⟩
  case tssq =>
    refine thr_queued (rfl : exec (.tssq core k w) s = _) f ok hfixed (fun h => ⟨?_, rfl⟩) hroom rfl thrDeclares_tssq
    obtain ⟨hcommune, hdie, hlow, hhigh, hfloor⟩ := (hlead h).2.1 rfl
    simp only [hcommune, hlow, hhigh, hfloor]
    by_cases h0 : bitOf (communeMask w) 0 = true <;> simp [h0, hdie]
  case tclip =>
    exact thr_queued (rfl : exec (.tclip core k w) s = _) f ok hfixed (fun _ => ⟨rfl, rfl⟩) hroom rfl thrDeclares_tclip
  case tmov =>
    rw [thrDeclares_tmov] at hfree
    refine thr_queued (rfl : exec (.tmov core k w) s = _) f ok rfl (fun h => ?_) hroom hfree thrDeclares_tmov
    obtain ⟨hlength, hfloor, hwindow⟩ := (hlead h).2.2.1 rfl
    exact ⟨by simp [hlength, hfloor], hwindow⟩
  case tlin =>
    rw [thrDeclares_tlin] at hfree
    refine thr_queued (rfl : exec (.tlin core k w) s = _) f ok rfl (fun h => ?_) hroom hfree thrDeclares_tlin
    obtain ⟨hdest, hsource⟩ := (hlead h).2.2.2 rfl
    exact ⟨rfl, by simp [hdest, hsource]⟩
  case tflag =>
    exact thr_queued (rfl : exec (.tflag core k w) s = _) f ok hfixed (fun _ => ⟨rfl, rfl⟩) hroom rfl thrDeclares_tflag

end Sys2Proof.Proofs
end

section
/-!
PROOFS. A cluster whose work is discarded and switched out (R115, R123, R499): O26.
-/
namespace Sys2Proof.Proofs
open Sys2Proof Sys2Proof.Machine Sys2Proof.Laws Sys2Proof.Claim

variable {s t u : State} {core k cl c : Nat}

/-! ### The outgoing context (R115, R116, R123) -/

theorem CoresOnly.refl (s : State) : CoresOnly s s := ⟨⟨_, _, rfl⟩, rfl⟩

theorem coresOnly_updCore (s : State) (i f) : CoresOnly s (updCore s i f) := ⟨⟨_, _, rfl⟩, rfl⟩

theorem coresOnly_bumpCore (s : State) (i n a : Nat) : CoresOnly s (bumpCore s i n a) := by
  obtain ⟨tr, e, hsources⟩ := bumpCore_eq s i n a
  rw [e]
  exact ⟨⟨_, _, rfl⟩, hsources⟩

/-- A bundle that is dropped starts again, or nothing happens (R123). -/
theorem dropBundle_cases (s : State) (cl k : Nat) : dropBundle s cl k = s ∨ ∃ f, dropBundle s cl k = updBundle s cl k f := by
  unfold dropBundle
  split
  · split
    · exact .inr ⟨_, rfl⟩
    · exact .inl rfl
  · exact .inl rfl

theorem coresOnly_dropBundle (s : State) (cl k) : CoresOnly s (dropBundle s cl k) := by
  rcases dropBundle_cases s cl k with e | ⟨f, e⟩ <;> rw [e]
  · exact .refl s
  · exact ⟨⟨_, _, rfl⟩, rfl⟩

theorem coresOnly_writeSave (s : State) (core k) : CoresOnly s (writeSave s core k) := by
  unfold writeSave
  dsimp only
  split
  · exact .refl s
  · exact coresOnly_updCore ..

theorem coresOnly_switchOut (s : State) (core k) : CoresOnly s (switchOut s core k) :=
  (((coresOnly_discardStream s core k).trans (coresOnly_writeSave ..)).trans (coresOnly_updCore ..)).trans
    (coresOnly_bumpCore ..)

theorem coresOnly_leaveCluster (s : State) (cl) : CoresOnly s (leaveCluster s cl) := by
  unfold leaveCluster
  split
  · exact (coresOnly_dropBundle ..).trans (coresOnly_forEach fun t i => coresOnly_switchOut t i _)
  · exact .refl s

/-- A cluster switched out has no owner, and only cores, clusters and counters change. -/
theorem switchClusterOut_outcome (s : State) (cl : Nat) : let t := switchClusterOut s cl
    (∃ co cs tr, t = { s with cores := co, clusters := cs, trace := tr }) ∧ t.trace.sources = s.trace.sources
      ∧ (clusterAt t cl).owner = none := by
  unfold switchClusterOut changeOwner
  split
  · next hnone => exact ⟨⟨_, _, _, rfl⟩, rfl, hnone⟩
  · obtain ⟨⟨co, tr, e⟩, hsources⟩ := coresOnly_leaveCluster s cl
    rw [e] at hsources ⊢
    exact ⟨⟨_, _, _, rfl⟩, hsources, by rw [clusterAt_updCluster]⟩

/-! ### The hang -/

/-- The unit that a hang of an engine reports: the thresher of a cluster, or a core (R519). -/
def hangReporter (core engine : Nat) : Nat := if engine = 3 then 1024 + clusterOf core else core

theorem hangReporter_lt {engine : Nat} (hcore : core < 1024) : hangReporter core engine < 2048 := by
  unfold hangReporter clusterOf
  split <;> omega

/-- The event of a hang. -/
def hangNoted (s : State) (core c engine : Nat) : State :=
  record s 0xA010 .stepContained (coveNum (some c)) (hangReporter core engine) []

/-- The recovery that a hang asks for (R495). -/
def hangRecovery (s : State) (core k c engine : Nat) : QueuedRecovery :=
  ⟨c, 2, 1, s.tide.now, hangReporter core engine, engine, core, k⟩

/-- The event and the switch of a hang leave the recoveries, the coves and the tide. -/
theorem hangNoted_switched (s : State) (core c engine : Nat) : let t := switchClusterOut (hangNoted s core c engine) (clusterOf core)
    t.recov = s.recov ∧ t.coves = s.coves ∧ t.tide = s.tide
      ∧ t.trace.sources = (hangNoted s core c engine).trace.sources ∧ (clusterAt t (clusterOf core)).owner = none := by
  intro t
  obtain ⟨⟨co, cs, tr, e⟩, hsources, howner⟩ := switchClusterOut_outcome (hangNoted s core c engine) (clusterOf core)
  refine ⟨?_, ?_, ?_, hsources, howner⟩ <;> simp only [t, e, hangNoted, record_recov, record_coves, record_tide]

/-- A hang of a cove that no recovery serves or waits for queues one (R499). -/
theorem hang_eq {engine : Nat} (hcove : coveOfCore s core = some c) (hidle : s.recov.current = none)
    (hnew : ∀ q ∈ s.recov.queue, q.cove ≠ c) : hang s core k engine =
      { switchClusterOut (hangNoted s core c engine) (clusterOf core) with
        recov := { s.recov with queue := s.recov.queue ++ [hangRecovery s core k c engine] } } := by
  obtain ⟨hrecov, -, htide, -, -⟩ := hangNoted_switched s core c engine
  have hmiss : (s.recov.queue.any fun q => q.cove == c) = false := by simpa using hnew
  have hcurrent : (hangNoted s core c engine).recov.current = none := by rw [hangNoted, record_recov, hidle]
  unfold hangNoted hangReporter at *
  unfold hang hangRecovery hangReporter
  simp only [hcove, hcurrent, hrecov, htide, hmiss, Bool.false_eq_true, if_false]

theorem hang_outcome {engine : Nat} (hcore : core < 1024) (hcove : coveOfCore s core = some c)
    (hidle : s.recov.current = none) (hnew : ∀ q ∈ s.recov.queue, q.cove ≠ c) :
    let t := hang s core k engine
    Recorded s t 0xA010 (hangReporter core engine) ∧ (clusterAt t (clusterOf core)).owner = none
      ∧ t.recov = { s.recov with queue := s.recov.queue ++ [hangRecovery s core k c engine] } ∧ t.coves = s.coves := by
  obtain ⟨-, hcoves, -, hsources, howner⟩ := hangNoted_switched s core c engine
  intro t
  simp only [t, hang_eq hcove hidle hnew]
  exact ⟨recorded_of_sources hsources
    (recorded_record _ _ _ _ _ _ (hangReporter_lt hcore) (by simp [episodeCode])), howner, trivial, hcoves⟩

/-- Settles O26: the report of a hang passes its guard exactly when the engine runs an instruction of the context or the
routine is past its deadline and 2 µs, the part of R167's threshold that the model counts (log entry 60). -/
theorem hangsQueueRecoveries : Obligations.HangsQueueRecoveries := by
  intro core k c s hcore hcove hidle hnew
  refine ⟨fun engine hengine hk => ⟨fun hruns => ?_, fun hrests => ?_⟩, fun r hroutine => ⟨fun hlate => ?_, fun htime => ?_⟩⟩
  · have hexec : exec (.engineHang core k engine) s = .next (hang s core k engine) := by
      change execEngineHang core k engine s = _
      rw [execEngineHang, if_neg (by simp [hruns]; omega)]
    exact ⟨_, hexec, hang_outcome hcore hcove hidle hnew⟩
  · change execEngineHang core k engine s = _
    rw [execEngineHang, if_pos (by simp [hrests])]
  · have hexec : exec (.routineHang core k) s = .next (hang s core k 4) := by
      change execRoutineHang core k s = _
      simp only [execRoutineHang, hroutine, if_pos hlate]
    exact ⟨_, hexec, hang_outcome hcore hcove hidle hnew⟩
  · change execRoutineHang core k s = _
    simp only [execRoutineHang, hroutine, if_neg (Nat.not_lt.2 htime)]

end Sys2Proof.Proofs
end

section
/-!
PROOFS. The bytes that a core's scratchpad holds, and what admission and counting leave alone.
-/
namespace Sys2Proof.Proofs
open Sys2Proof Sys2Proof.Machine Sys2Proof.Laws Sys2Proof.Claim

variable {s s' t : State} {core k : Nat}

/-! ### A scratchpad write (R93) -/

theorem memByte_memWrite_getD (m : Memory) (a : Nat) (bs : List Byte) (b : Nat) :
    memByte (memWrite m a bs) b = if a ≤ b ∧ b < a + bs.length then bs.getD (b - a) 0#8 else memByte m b := by
  rw [memByte_memWrite]
  by_cases h : a ≤ b ∧ b < a + bs.length
  · have hin : b - a < bs.length := by omega
    rw [dif_pos ⟨h.1, hin⟩, if_pos h, List.getD_eq_getElem _ _ hin]
  · rw [dif_neg (by omega), if_neg h]

@[simp] theorem scratch_scratchWrite (s : State) (core a : Nat) (bs : List Byte) :
    (coreAt (scratchWrite s core a bs) core).scratch = memWrite (coreAt s core).scratch a bs := by
  rw [scratchWrite, coreAt_updCore]

theorem coreAt_scratchWrite_other {i : Nat} (s : State) (a : Nat) (bs : List Byte) (h : i ≠ core) :
    coreAt (scratchWrite s core a bs) i = coreAt s i :=
  coreAt_updCore_other _ _ _ _ h

@[simp] theorem ctxAt_scratchWrite (s : State) (core a : Nat) (bs : List Byte) (i j : Nat) :
    ctxAt (scratchWrite s core a bs) i j = ctxAt s i j := by
  refine ctxAt_updCore_of_ctxs ?_ s core i j
  exact fun _ => rfl

theorem memByte_scratchWrite (s : State) (core a : Nat) (bs : List Byte) (i b : Nat) :
    memByte (coreAt (scratchWrite s core a bs) i).scratch b =
      if i = core ∧ a ≤ b ∧ b < a + bs.length then bs.getD (b - a) 0#8 else memByte (coreAt s i).scratch b := by
  by_cases h : i = core
  · subst h
    simp only [scratch_scratchWrite, memByte_memWrite_getD, true_and]
  · simp only [h, coreAt_scratchWrite_other s a bs h, false_and, if_false]

/-! ### Admission inside the module (R316, R318) -/

theorem foldl_takeRoom_eq {α : Type} (key : α → Nat) (len : Nat) (l : List α) (s : State) : ∃ ti,
    l.foldl (fun s n => takeRoom s (key n) len) s = { s with tide := ti } ∧ ti.now = s.tide.now := by
  induction l generalizing s with
  | nil => exact ⟨_, rfl, rfl⟩
  | cons a l ih =>
    obtain ⟨ti, e, hnow⟩ := ih (takeRoom s (key a) len)
    exact ⟨ti, e, hnow⟩

/-- An admission that needs no port takes room of the tide's window, and nothing else. -/
theorem admitFor_granted {cove cls len flits leaves : Nat} {needs : List Need} {shores : List (Nat × Nat)}
    (h : admitFor s cove cls needs shores none len flits = .granted s' leaves) :
    ∃ ti, s' = { s with tide := ti } ∧ ti.now = s.tide.now := by
  unfold admitFor at h
  dsimp only at h
  split at h
  · cases h
  split at h
  · cases h
  split at h
  · cases h
  obtain ⟨ti, e, hnow⟩ := foldl_takeRoom_eq (fun n => needKey n) len needs s
  obtain ⟨ti', e', hnow'⟩ := foldl_takeRoom_eq (fun p : Nat × Nat => shoreKey p.1 p.2) len shores { s with tide := ti }
  simp only [e, e', Admit.granted.injEq] at h
  exact ⟨ti', h.1.symm, hnow'.trans hnow⟩

theorem admitFor_frame {cove cls len flits leaves : Nat} {needs : List Need} {shores : List (Nat × Nat)}
    (h : admitFor s cove cls needs shores none len flits = .granted s' leaves) :
    s'.cores = s.cores ∧ s'.mem = s.mem ∧ s'.coves = s.coves := by
  obtain ⟨ti, rfl, -⟩ := admitFor_granted h
  exact ⟨rfl, rfl, rfl⟩

/-! ### Counters -/

/-- Only the trace differs, and no event was counted. -/
def Counted (s t : State) : Prop := ∃ tr, t = { s with trace := tr } ∧ tr.sources = s.trace.sources

theorem Counted.refl (s : State) : Counted s s := ⟨_, rfl, rfl⟩

theorem Counted.trans {u : State} (h : Counted s t) (h' : Counted t u) : Counted s u := by
  obtain ⟨tr, rfl, hsources⟩ := h
  obtain ⟨tr', rfl, hsources'⟩ := h'
  exact ⟨tr', rfl, hsources'.trans hsources⟩

theorem Counted.thenIte {p : Prop} [Decidable p] {u : State} (h : Counted s t) (h' : Counted t u) :
    Counted s (if p then u else t) := by
  split
  · exact h.trans h'
  · exact h

theorem Counted.cores (h : Counted s t) : t.cores = s.cores := by
  obtain ⟨tr, rfl, -⟩ := h
  rfl

theorem Counted.mem (h : Counted s t) : t.mem = s.mem := by
  obtain ⟨tr, rfl, -⟩ := h
  rfl

theorem Counted.coves (h : Counted s t) : t.coves = s.coves := by
  obtain ⟨tr, rfl, -⟩ := h
  rfl

theorem Counted.clusters (h : Counted s t) : t.clusters = s.clusters := by
  obtain ⟨tr, rfl, -⟩ := h
  rfl

theorem Counted.coreAt (h : Counted s t) (i : Nat) : coreAt t i = coreAt s i := by
  simp only [Machine.coreAt, h.cores]

theorem Counted.ctxAt (h : Counted s t) (i j : Nat) : ctxAt t i j = ctxAt s i j := ctxAt_of_cores h.cores i j

theorem counted_bump (s : State) (a b c d : Nat) : Counted s (bump s a b c d) := ⟨_, rfl, rfl⟩

theorem counted_bumpCore (s : State) (core index n : Nat) : Counted s (bumpCore s core index n) :=
  bumpCore_eq s core index n

theorem counted_bumpCoveSet (s : State) (c index n) : Counted s (bumpCoveSet s c index n) := bumpCoveSet_eq s c index n

end Sys2Proof.Proofs
end

section
/-!
PROOFS. The wain's packets to this core's scratchpad, and the ends of its descriptors: O25.
-/
namespace Sys2Proof.Proofs
open Sys2Proof Sys2Proof.Machine Sys2Proof.Laws Sys2Proof.Claim

variable {s s' t : State} {core k n leaves : Nat} {d : WainDesc} {bs : List Byte} {barn : Bool} {needs : List Need}
  {src dst : Option Place}

/-! ### What a moved piece counts (R466, R529 to R531) -/

theorem counted_countMoved (s : State) (core : Nat) (d : WainDesc) (src dst barn n) :
    Counted s (countMoved s core d src dst barn n) := by
  unfold countMoved
  refine .thenIte ?_ (counted_bumpCoveSet ..)
  have hlocal : Counted s (if d.localDst then bumpCore (if d.localSrc then bumpCore s core 6 n else s) core 7 n
      else if d.localSrc then bumpCore s core 6 n else s) :=
    .thenIte (.thenIte (.refl s) (counted_bumpCore ..)) (counted_bumpCore ..)
  split
  · refine .trans ?_ (counted_bumpCoveSet ..)
    split
    · exact hlocal.trans ((counted_bump ..).trans (counted_bumpCoveSet ..))
    · exact hlocal
  · split
    · exact hlocal.trans ((counted_bump ..).trans (counted_bumpCoveSet ..))
    · exact hlocal

/-- Only a core's digest of the step changes (R466). -/
theorem foldDigest_cases (s : State) (core k : Nat) (d : WainDesc) (bs : List Byte) : foldDigest s core k d bs = s
    ∨ ∃ f : CoreState → DWord, foldDigest s core k d bs = updCore s core fun c => { c with digest := f c } := by
  unfold foldDigest
  dsimp only
  split
  · exact .inr ⟨_, rfl⟩
  · exact .inl rfl

@[simp] theorem scratch_foldDigest (s : State) (core k : Nat) (d : WainDesc) (bs : List Byte) (i : Nat) :
    (coreAt (foldDigest s core k d bs) i).scratch = (coreAt s i).scratch := by
  rcases foldDigest_cases s core k d bs with e | ⟨f, e⟩ <;> rw [e]
  by_cases h : i = core
  · rw [h, coreAt_updCore]
  · rw [coreAt_updCore_other _ _ _ _ h]

@[simp] theorem ctxAt_foldDigest (s : State) (core k : Nat) (d : WainDesc) (bs : List Byte) (i j : Nat) :
    ctxAt (foldDigest s core k d bs) i j = ctxAt s i j := by
  rcases foldDigest_cases s core k d bs with e | ⟨f, e⟩ <;> rw [e]
  exact ctxAt_updCore_of_ctxs (f := fun c => { c with digest := f c }) (fun _ => rfl) s core i j

theorem foldDigest_frame (s : State) (core k : Nat) (d : WainDesc) (bs : List Byte) :
    ∃ co, foldDigest s core k d bs = { s with cores := co } := by
  rcases foldDigest_cases s core k d bs with e | ⟨f, e⟩ <;> rw [e] <;> exact ⟨_, rfl⟩

/-! ### A piece that lands in this core's scratchpad (R109, R316) -/

/-- The state once a piece for this core's scratchpad has been admitted. -/
def pieceLanded (s : State) (core k n leaves : Nat) (d : WainDesc) (src : Option Place) (barn : Bool) (bs : List Byte) : State :=
  countMoved (advanceWain (foldDigest (scratchWrite s core (winAddr (ctxAt s core k) (d.dst.toNat + d.moved)) bs) core k d bs)
    core k d.seq n 0 leaves) core d src none barn n

/-- The command of a head descriptor whose data is at hand. -/
theorem packetAdmit_data {ok : Bool} {hd : List Byte} (hhead : headWain s core (ctxAt s core k) = some d)
    (howner : (clusterAt s (clusterOf core)).owner = some k) (hgrants : grantsNothing s (coveNum (coveOfCore s core)) = false)
    (hread : readScratch s core (if d.op ≠ 1 ∧ d.localSrc then [(winAddr (ctxAt s core k) (d.src.toNat + d.moved), pieceLen d)]
      else []) = (true, s))
    (hsource : sourceOf s core k d (pieceLen d) ok hd = (.data bs, barn)) :
    exec (.packetAdmit core k ok hd) s = .next (admitData s core k d (sourcePlace s core d) barn (pieceLen d) bs) := by
  change execPacketAdmit core k ok hd s = _
  unfold execPacketAdmit
  simp only [hhead, howner, hgrants, hread, hsource, bne_self_eq_false, Bool.or_false, Bool.false_eq_true, if_false,
    Bool.not_true]
  rfl

/-- A piece for this core's scratchpad that is admitted. -/
theorem admitData_local (hlocal : d.localDst = true) (hneeds : packetNeeds s core src (.die (dieOf core)) = some needs)
    (hgranted : admitFor s (coveNum (coveOfCore s core)) (admitClass d barn) needs
      (shoreNeeds (sourceSite core src) (.die (dieOf core))) none n 0 = .granted s' leaves) :
    admitData s core k d src barn n bs = pieceLanded s' core k n leaves d src barn bs := by
  obtain ⟨ti, rfl, -⟩ := admitFor_granted hgranted
  unfold admitData
  simp only [hlocal, hneeds, hgranted, if_true]
  rfl

theorem memByte_pieceLanded (s : State) (core k n leaves : Nat) (d : WainDesc) (src barn) (bs : List Byte) (i b : Nat) :
    let a := winAddr (ctxAt s core k) (d.dst.toNat + d.moved)
    memByte (coreAt (pieceLanded s core k n leaves d src barn bs) i).scratch b =
      if i = core ∧ a ≤ b ∧ b < a + bs.length then bs.getD (b - a) 0#8 else memByte (coreAt s i).scratch b := by
  intro a
  unfold pieceLanded
  rw [(counted_countMoved ..).coreAt, advanceWain, updWain, scratch_updCtx, scratch_foldDigest, memByte_scratchWrite]

theorem ctxAt_pieceLanded (s : State) (core k n leaves : Nat) (d : WainDesc) (src barn) (bs : List Byte) :
    ctxAt (pieceLanded s core k n leaves d src barn bs) core k = { ctxAt s core k with
      wainQ := (ctxAt s core k).wainQ.map fun e =>
        if e.seq = d.seq then { e with moved := e.moved + n, leaves := max e.leaves leaves } else e } := by
  unfold pieceLanded
  rw [(counted_countMoved ..).ctxAt, advanceWain, updWain, ctxAt_updCtx, ctxAt_foldDigest, ctxAt_scratchWrite]
  rfl

theorem otherCtxs_pieceLanded (s : State) (core k n leaves : Nat) (d : WainDesc) (src barn) (bs : List Byte) :
    OtherCtxs s (pieceLanded s core k n leaves d src barn bs) core k := by
  intro i j hij
  unfold pieceLanded
  rw [(counted_countMoved ..).ctxAt, advanceWain, updWain, otherCtxs_updCtx _ _ _ _ i j hij, ctxAt_foldDigest,
    ctxAt_scratchWrite]

theorem pieceLanded_frame (s : State) (core k n leaves : Nat) (d : WainDesc) (src barn) (bs : List Byte) :
    (pieceLanded s core k n leaves d src barn bs).mem = s.mem
      ∧ (pieceLanded s core k n leaves d src barn bs).coves = s.coves := by
  obtain ⟨co, e⟩ := foldDigest_frame (scratchWrite s core (winAddr (ctxAt s core k) (d.dst.toNat + d.moved)) bs) core k d bs
  unfold pieceLanded
  rw [(counted_countMoved ..).mem, (counted_countMoved ..).coves, e]
  exact ⟨rfl, rfl⟩

/-! ### The end of a descriptor (R109, R154) -/

/-- The context once a descriptor has left the queue, its status in the sticky status. -/
def descriptorTaken (x : Ctx) (d : WainDesc) : Ctx :=
  { x with wainQ := x.wainQ.filter fun e => e.seq ≠ d.seq, wainStatus := worse x.wainStatus d.status }

theorem wainDescriptorComplete_exec (hfirst : ((ctxAt s core k).wainQ.find? fun d =>
      decide (d.len ≤ d.moved) && d.awaiting == 0 && decide (d.leaves ≤ s.tide.now)) = some d) :
    exec (.wainDescriptorComplete core k) s =
      .next (statusOutcome (updCtx s core k fun x => descriptorTaken x d) core d.addr d.status) := by
  change execWainDescriptorComplete core k s = _
  unfold execWainDescriptorComplete
  simp only [hfirst]
  rfl

theorem statusOutcome_good (s : State) (core addr : Nat) {w : WainStatus} (h : w = .done ∨ w = .late) :
    statusOutcome s core addr w = s := by
  unfold statusOutcome
  split
  · rfl
  · rcases h with rfl | rfl <;> rfl

theorem statusOutcome_unreachable {c : Nat} (addr : Nat) (h : coveOfCore s core = some c) :
    statusOutcome s core addr .unreachable = discardStep s c 6 (some addr) := by
  simp only [statusOutcome, h, coveOutcome]

/-- Settles O25: an admission takes room of the tide's window alone, so that the piece is written and counted as if it were
the state's only change; a completed descriptor leaves the queue before its status has its outcome. -/
theorem wainEvents : Obligations.WainEvents := by
  intro core k s x
  refine ⟨fun ok hd d bs barn needs s' leaves hhead howner hgrants hlocal hread hsource hneeds hgranted => ?_,
    fun d hfirst => ?_⟩
  · have hexec := (packetAdmit_data hhead howner hgrants hread hsource).trans
      (congrArg _ (admitData_local (k := k) (bs := bs) hlocal hneeds hgranted))
    obtain ⟨hcores, hmem, hcoves⟩ := admitFor_frame hgranted
    have hcore : ∀ i, coreAt s' i = coreAt s i := fun i => by simp only [coreAt, hcores]
    have hctx : ∀ i j, ctxAt s' i j = ctxAt s i j := ctxAt_of_cores hcores
    obtain ⟨hm, hc⟩ := pieceLanded_frame s' core k (pieceLen d) leaves d (sourcePlace s core d) barn bs
    have hbytes := memByte_pieceLanded s' core k (pieceLen d) leaves d (sourcePlace s core d) barn bs
    have hself := ctxAt_pieceLanded s' core k (pieceLen d) leaves d (sourcePlace s core d) barn bs
    have hother := otherCtxs_pieceLanded s' core k (pieceLen d) leaves d (sourcePlace s core d) barn bs
    simp only [hctx, hcore] at hbytes hself
    exact ⟨_, hexec, hbytes, hself, fun i j hij => (hother i j hij).trans (hctx i j), hm.trans hmem, hc.trans hcoves⟩
  · refine ⟨updCtx s core k fun x => descriptorTaken x d, ctxAt_updCtx .., otherCtxs_updCtx s core k _, rfl,
      wainDescriptorComplete_exec hfirst, statusOutcome_good _ _ _, fun c hcove hstatus => ?_⟩
    rw [hstatus]
    exact statusOutcome_unreachable _ hcove

end Sys2Proof.Proofs
end

section
/-!
PROOFS. The thresher's step: the copies at the heads, and what an instruction that completes leaves (R121).
-/
namespace Sys2Proof.Proofs
open Sys2Proof Sys2Proof.Machine Sys2Proof.Laws Sys2Proof.Claim

variable {s t u : State} {cl k op : Nat} {e : ThrEntry}

/-! ### Changes of the four cores of a cluster -/

/-- Each listed unit changes by its own step alone: a step of one unit leaves what is read of the others. -/
theorem forEach_own {β : Type} {p : State → Nat → β} {f : State → Nat → State} {g : Nat → β → β} {l : List Nat}
    (self : ∀ t a, p (f t a) a = g a (p t a)) (other : ∀ t a b, b ≠ a → p (f t a) b = p t b) (hl : l.Nodup) (b : Nat) :
    p (forEach s l f) b = if b ∈ l then g b (p s b) else p s b := by
  induction l generalizing s with
  | nil => simp
  | cons a l ih =>
    obtain ⟨ha, hl⟩ := List.nodup_cons.1 hl
    rw [forEach_cons, ih hl]
    by_cases hb : b = a
    · subst hb
      simp [ha, self]
    · simp [hb, other _ _ _ hb]

theorem mem_clusterCores {i : Nat} : i ∈ (List.range 4).map (4 * cl + ·) ↔ clusterOf i = cl := by
  simp only [List.mem_map, List.mem_range, clusterOf]
  constructor
  · rintro ⟨j, hj, rfl⟩
    omega
  · intro h
    exact ⟨i % 4, by omega, by omega⟩

theorem nodup_clusterCores (cl : Nat) : ((List.range 4).map (4 * cl + ·)).Nodup :=
  List.nodup_range.map fun _ _ h => Nat.add_left_cancel h

/-- A change of one context on every core of a cluster. -/
theorem ctxAt_clusterCores (s : State) (cl k : Nat) (f : Ctx → Ctx) (i j : Nat) :
    ctxAt (forEach s ((List.range 4).map (4 * cl + ·)) fun s i => updCtx s i k f) i j =
      if clusterOf i = cl ∧ j = k then f (ctxAt s i k) else ctxAt s i j := by
  by_cases hj : j = k
  · subst hj
    rw [forEach_own (p := fun t i => ctxAt t i j) (g := fun _ => f) (fun t a => ctxAt_updCtx ..)
      (fun t a b hb => ctxAt_updCtx_core _ _ _ _ _ _ hb) (nodup_clusterCores cl)]
    simp only [mem_clusterCores, and_true]
  · rw [if_neg fun h => hj h.2]
    refine forEach_same (p := fun t => ctxAt t i j) fun t a _ => ?_
    exact otherCtxs_updCtx t a k f i j fun h => hj h.2

theorem scratch_clusterCores (s : State) (cl k : Nat) (f : Ctx → Ctx) (i : Nat) :
    (coreAt (forEach s ((List.range 4).map (4 * cl + ·)) fun s i => updCtx s i k f) i).scratch = (coreAt s i).scratch :=
  forEach_same (p := fun t => (coreAt t i).scratch) fun t a _ => scratch_updCtx t a k f i

/-- Only cores differ after it. -/
theorem forEach_updCtx_eq (s : State) (l : List Nat) (k : Nat) (f : Ctx → Ctx) : ∃ co,
    forEach s l (fun s i => updCtx s i k f) = { s with cores := co } := by
  induction l generalizing s with
  | nil => exact ⟨_, rfl⟩
  | cons a l ih =>
    obtain ⟨co, e⟩ := ih (updCtx s a k f)
    exact ⟨co, e⟩

/-! ### What a step of the thresher keeps -/

/-- The queues of the cluster's context, every other context, and the other threshers stay. -/
structure ThrKeeps (s t : State) (cl k : Nat) : Prop where
  queue : ∀ i, clusterOf i = cl → (ctxAt t i k).thrQ = (ctxAt s i k).thrQ
  others : ∀ i j, ¬ (clusterOf i = cl ∧ j = k) → ctxAt t i j = ctxAt s i j
  threshers : ∀ j, j ≠ k → threshAt t cl j = threshAt s cl j
  clusters : ∀ c, c ≠ cl → clusterAt t c = clusterAt s c

theorem ThrKeeps.trans (h : ThrKeeps s t cl k) (h' : ThrKeeps t u cl k) : ThrKeeps s u cl k where
  queue i hi := (h'.queue i hi).trans (h.queue i hi)
  others i j hij := (h'.others i j hij).trans (h.others i j hij)
  threshers j hj := (h'.threshers j hj).trans (h.threshers j hj)
  clusters c hc := (h'.clusters c hc).trans (h.clusters c hc)

theorem ThrKeeps.of_ctxs (hctx : ∀ i j, ctxAt t i j = ctxAt s i j) (hclusters : t.clusters = s.clusters) :
    ThrKeeps s t cl k where
  queue i _ := by rw [hctx]
  others i j _ := hctx i j
  threshers j _ := by simp only [threshAt, clusterAt, hclusters]
  clusters c _ := by simp only [clusterAt, hclusters]

theorem ThrKeeps.of_cores (hcores : t.cores = s.cores) (hclusters : t.clusters = s.clusters) : ThrKeeps s t cl k :=
  .of_ctxs (ctxAt_of_cores hcores) hclusters

theorem Counted.thrKeeps (h : Counted s t) : ThrKeeps s t cl k := by
  obtain ⟨tr, rfl, -⟩ := h
  exact .of_cores rfl rfl

theorem ThrKeeps.updCtx {f : Ctx → Ctx} (core : Nat) (hcore : clusterOf core = cl) (hq : ∀ x, (f x).thrQ = x.thrQ) :
    ThrKeeps s (updCtx s core k f) cl k where
  queue i _ := by
    by_cases h : i = core
    · rw [h, ctxAt_updCtx, hq]
    · rw [ctxAt_updCtx_core _ _ _ _ _ _ h]
  others i j hij := otherCtxs_updCtx s core k f i j fun h => hij ⟨by rw [h.1, hcore], h.2⟩
  threshers _ _ := rfl
  clusters _ _ := rfl

theorem ThrKeeps.updThresh (f : ThreshRun → ThreshRun) : ThrKeeps s (updThresh s cl k f) cl k where
  queue _ _ := rfl
  others _ _ _ := rfl
  threshers j hj := by
    simp only [threshAt, Machine.updThresh, clusterAt_updCluster]
    exact get_set_other _ _ _ _ _ hj
  clusters c hc := clusterAt_updCluster_other _ _ _ _ hc

@[simp] theorem threshAt_updThresh (s : State) (cl k : Nat) (f : ThreshRun → ThreshRun) :
    threshAt (updThresh s cl k f) cl k = f (threshAt s cl k) := by
  simp [threshAt, Machine.updThresh]

theorem threshAt_of_clusters (h : t.clusters = s.clusters) (cl k : Nat) : threshAt t cl k = threshAt s cl k := by
  simp only [threshAt, clusterAt, h]

/-! ### The end of an instruction -/

theorem ctxAt_thrDone (s : State) (cl k i j : Nat) : ctxAt (thrDone s cl k) i j =
    if clusterOf i = cl ∧ j = k then { ctxAt s i k with thrQ := (ctxAt s i k).thrQ.drop 1 } else ctxAt s i j :=
  ctxAt_clusterCores s cl k _ i j

@[simp] theorem scratch_thrDone (s : State) (cl k i : Nat) :
    (coreAt (thrDone s cl k) i).scratch = (coreAt s i).scratch := scratch_clusterCores s cl k _ i

theorem thrDone_eq (s : State) (cl k : Nat) : ∃ co, thrDone s cl k = { s with cores := co } := forEach_updCtx_eq s _ k _

@[simp] theorem thrDone_mem (s : State) (cl k : Nat) : (thrDone s cl k).mem = s.mem := by
  obtain ⟨co, e⟩ := thrDone_eq s cl k
  rw [e]

@[simp] theorem thrDone_clusters (s : State) (cl k : Nat) : (thrDone s cl k).clusters = s.clusters := by
  obtain ⟨co, e⟩ := thrDone_eq s cl k
  rw [e]

@[simp] theorem thrDone_coves (s : State) (cl k : Nat) : (thrDone s cl k).coves = s.coves := by
  obtain ⟨co, e⟩ := thrDone_eq s cl k
  rw [e]

@[simp] theorem thrDone_trace (s : State) (cl k : Nat) : (thrDone s cl k).trace = s.trace := by
  obtain ⟨co, e⟩ := thrDone_eq s cl k
  rw [e]

theorem thrLeaves_thrDone (s : State) (cl k : Nat) : ThrLeaves s (thrDone s cl k) cl k := by
  refine ⟨fun i hi => ?_, fun i j hij => ?_, fun j _ => threshAt_of_clusters (thrDone_clusters ..) cl j, fun c _ => ?_⟩
  · rw [ctxAt_thrDone, if_pos ⟨hi, rfl⟩]
  · rw [ctxAt_thrDone, if_neg hij]
  · simp only [clusterAt, thrDone_clusters]

theorem thrLeaves_trans (h : ThrLeaves s t cl k) (h' : ThrKeeps t u cl k) : ThrLeaves s u cl k := by
  obtain ⟨hqueue, hothers, hthreshers, hclusters⟩ := h
  exact ⟨fun i hi => (h'.queue i hi).trans (hqueue i hi), fun i j hij => (h'.others i j hij).trans (hothers i j hij),
    fun j hj => (h'.threshers j hj).trans (hthreshers j hj), fun c hc => (h'.clusters c hc).trans (hclusters c hc)⟩

/-- An instruction leaves the queues with a change that keeps them. -/
theorem thrLeaves_of_keeps (h : ThrKeeps (thrDone s cl k) t cl k) : ThrLeaves s t cl k :=
  thrLeaves_trans (thrLeaves_thrDone s cl k) h

/-! ### The dispatch (R121) -/

theorem counted_thrBusy (s : State) (core n : Nat) : Counted s (thrBusy s core n) := counted_bumpCoveSet ..

/-- What the thresher does with an instruction, by its op (R160). -/
def thrWork (s : State) (cl k : Nat) (e : ThrEntry) (op : Nat) : State :=
  match op with
  | 0x500 => tupdRun s cl k e
  | 0x501 => tssqRun s cl k e
  | 0x502 => tclipRun s cl k e
  | 0x503 => tmovRun s cl k e
  | 0x504 => tlinRun s cl k e
  | _ => tflagRun s cl k e

/-- The thresher executes the instruction at the heads when the copies agree. -/
theorem thrStep_head (h : ThrHead s cl k op e) : thrStep s cl k = thrWork s cl k e op := by
  obtain ⟨copies, hheads, hruns, rfl, hsame⟩ := h
  have hagree : (copies.any fun x => x.inst.addr != e.inst.addr || x.inst.op != e.inst.op) = false := by
    simpa using hsame
  unfold thrStep
  simp only [hheads, hruns, hagree, Bool.not_true, Bool.false_eq_true, if_false]
  rfl

/-- A core without an instruction holds the others back. -/
theorem thrHeads_of_empty {i : Nat} (hi : i < 4) (hempty : (ctxAt s (4 * cl + i) k).thrQ = []) : thrHeads s cl k = none := by
  unfold thrHeads
  split
  · rfl
  · next e rest hq =>
    refine if_neg fun hlength => ?_
    have hall := List.filterMap_length_eq_length.1 hlength
    obtain _ | i := i
    · simp [hq] at hempty
    · have := hall i (List.mem_range.2 (by omega))
      rw [show 4 * cl + 1 + i = 4 * cl + (i + 1) by omega, hempty] at this
      simp at this

theorem thrCopiesMatch : Claim.ThrCopiesMatch := by
  intro cl k s
  refine ⟨fun ⟨i, hi, hempty⟩ => ?_, fun e copies hheads hruns ⟨c, hc, hother⟩ => ?_⟩
  · simp only [thrStep, thrHeads_of_empty hi hempty]
  · have hdiffer : (copies.any fun x => x.inst.addr != e.inst.addr || x.inst.op != e.inst.op) = true :=
      List.any_eq_true.2 ⟨c, hc, by simp [hother]⟩
    simp only [thrStep, hheads, hruns, hdiffer, Bool.not_true, Bool.false_eq_true, if_false, if_true]

end Sys2Proof.Proofs
end

section
/-!
PROOFS. TCLIP and TFLAG (R160, R380).
-/
namespace Sys2Proof.Proofs
open Sys2Proof Sys2Proof.Machine Sys2Proof.Laws Sys2Proof.Claim

variable {s t u : State} {cl k : Nat} {e : ThrEntry}

/-! ### TCLIP -/

/-- The scale in the step's record, when the thresher is that of the cove's first core (R389). -/
def scaleNoted (s : State) (core : Nat) (scale : Word) : State :=
  match coveOfCore s core with
  | some c => if some core = (coresOf (coveAt s c)).head? then updStats s c fun t => { t with scale := scale } else s
  | none => s

theorem scaleNoted_eq (s : State) (core : Nat) (scale : Word) : ∃ cv, scaleNoted s core scale = { s with coves := cv } := by
  unfold scaleNoted
  split
  · split <;> exact ⟨_, rfl⟩
  · exact ⟨_, rfl⟩

/-- The state after a TCLIP, but for the event of R380. -/
def clipped (s : State) (cl k : Nat) (scale : Word) : State :=
  thrBusy (scaleNoted (updThresh (thrDone s cl k) cl k fun r => { r with scale := scale }) (4 * cl) scale) (4 * cl) 4

theorem tclipRun_eq (s : State) (cl k : Nat) (e : ThrEntry) :
    tclipRun s cl k e =
      let t := clipped s cl k (clipScale e.inst.fields.imm (threshAt s cl k).sumsq)
      if (threshAt s cl k).sumsq = 0x7F800000#32 ∧ (threshAt s cl k).nonfinite = false then
        record t 0x6011 .corrected
          (coveNum (coveOfCore (updThresh (thrDone s cl k) cl k fun r =>
            { r with scale := clipScale e.inst.fields.imm (threshAt s cl k).sumsq }) (4 * cl))) (1024 + cl) []
      else t := rfl

/-- What a TCLIP changes beside the scale of its thresher: cores' queues, the coves' records and the trace. -/
theorem clipped_outcome (s : State) (cl k : Nat) (scale : Word) : let t := clipped s cl k scale
    ThrKeeps (thrDone s cl k) t cl k ∧ (∀ i j, ctxAt t i j = ctxAt (thrDone s cl k) i j)
      ∧ threshAt t cl k = { threshAt s cl k with scale := scale } ∧ t.mem = s.mem
      ∧ (∀ i, (coreAt t i).scratch = (coreAt s i).scratch) ∧ t.trace.sources = s.trace.sources := by
  intro t
  obtain ⟨v, hv⟩ : ∃ v, v = updThresh (thrDone s cl k) cl k fun r => { r with scale := scale } := ⟨_, rfl⟩
  obtain ⟨cv, hnoted⟩ := scaleNoted_eq v (4 * cl) scale
  obtain ⟨tr, hbusy, hsources⟩ := counted_thrBusy (scaleNoted v (4 * cl) scale) (4 * cl) 4
  rw [hnoted] at hbusy hsources
  have ht : t = { v with coves := cv, trace := tr } := by
    simp only [t, clipped, ← hv, hnoted, hbusy]
  have hcores : t.cores = (thrDone s cl k).cores := by rw [ht, hv]; rfl
  have hthresh : threshAt v cl k = { threshAt s cl k with scale := scale } := by
    rw [hv, threshAt_updThresh, threshAt_of_clusters (thrDone_clusters ..)]
  refine ⟨.trans (t := v) (hv ▸ .updThresh _) (by rw [ht]; exact .of_cores rfl rfl), ctxAt_of_cores hcores, ?_, ?_,
    fun i => ?_, ?_⟩
  · rw [← hthresh]
    exact threshAt_of_clusters (by rw [ht]) cl k
  · rw [ht, hv, updThresh_mem, thrDone_mem]
  · rw [coreAt, hcores]
    exact scratch_thrDone s cl k i
  · rw [ht]
    exact hsources.trans (by rw [hv, updThresh_trace, thrDone_trace])

theorem clip_runs (hcl : cl < 256) (h : ThrHead s cl k 0x502 e) : ∃ t, thrStep s cl k = t ∧ ThrLeaves s t cl k
    ∧ threshAt t cl k = { threshAt s cl k with
        scale := f32min f32one (f32div e.inst.fields.imm (f32sqrt (threshAt s cl k).sumsq)) }
    ∧ ((threshAt s cl k).sumsq = 0x7F800000#32 → (threshAt s cl k).nonfinite = false → Recorded s t 0x6011 (1024 + cl))
    ∧ (∀ i, clusterOf i = cl → ctxAt t i k = { ctxAt s i k with thrQ := (ctxAt s i k).thrQ.drop 1 })
    ∧ t.mem = s.mem ∧ ∀ i, (coreAt t i).scratch = (coreAt s i).scratch := by
  set u := clipped s cl k (clipScale e.inst.fields.imm (threshAt s cl k).sumsq)
  obtain ⟨hkeeps, hctx, hthresh, hmem, hscratch, hsources⟩ : _ :=
    clipped_outcome s cl k (clipScale e.inst.fields.imm (threshAt s cl k).sumsq)
  have hstep : thrStep s cl k = tclipRun s cl k e := thrStep_head h
  have hrun := tclipRun_eq s cl k e
  obtain ⟨hcores, hclusters, hmem'⟩ : (tclipRun s cl k e).cores = u.cores ∧ (tclipRun s cl k e).clusters = u.clusters
      ∧ (tclipRun s cl k e).mem = u.mem := by
    rw [hrun]
    dsimp only
    split
    · exact ⟨record_cores .., record_clusters .., record_mem ..⟩
    · exact ⟨rfl, rfl, rfl⟩
  refine ⟨_, hstep, thrLeaves_of_keeps (hkeeps.trans (.of_cores hcores hclusters)),
    (threshAt_of_clusters hclusters cl k).trans hthresh, fun hsum hfinite => ?_, fun i hi => ?_, hmem'.trans hmem, fun i => ?_⟩
  · rw [hrun]
    dsimp only
    rw [if_pos ⟨hsum, hfinite⟩]
    exact recorded_between (recorded_record _ _ _ _ _ _ (by omega) (by simp [episodeCode]))
      (by rw [eventCount, eventCount, hsources]) rfl
  · rw [ctxAt_of_cores hcores, hctx, ctxAt_thrDone, if_pos ⟨hi, rfl⟩]
  · rw [← hscratch i, coreAt, coreAt, hcores]

/-! ### TFLAG -/

/-- The flag in bit 0 and the clipping scale in bits [63:32]. -/
def flagValue (s : State) (cl k : Nat) : DWord :=
  (threshAt s cl k).scale ++ BitVec.ofNat 32 (natOf (threshAt s cl k).nonfinite)

/-- The state after a TFLAG, but for its cycles. -/
def flagged (s : State) (cl k : Nat) (r : BitVec 5) (v : DWord) : State :=
  forEach (thrDone s cl k) ((List.range 4).map (4 * cl + ·)) fun s i =>
    updCtx s i k fun x => setSreg x r v

theorem flagValue_eq (s : State) (cl k : Nat) : flagValue s cl k =
    (threshAt s cl k).scale ++ (if (threshAt s cl k).nonfinite then 1#32 else 0#32) := by
  unfold flagValue
  cases (threshAt s cl k).nonfinite <;> rfl

theorem ctxAt_flagged (s : State) (cl k : Nat) (r : BitVec 5) (v : DWord) (i j : Nat) : ctxAt (flagged s cl k r v) i j =
    if clusterOf i = cl ∧ j = k then setSreg (ctxAt (thrDone s cl k) i k) r v else ctxAt (thrDone s cl k) i j :=
  ctxAt_clusterCores ..

theorem flagged_eq (s : State) (cl k : Nat) (r : BitVec 5) (v : DWord) : ∃ co,
    flagged s cl k r v = { s with cores := co } := by
  obtain ⟨co, e⟩ := thrDone_eq s cl k
  obtain ⟨co', e'⟩ := forEach_updCtx_eq (thrDone s cl k) ((List.range 4).map (4 * cl + ·)) k fun x => setSreg x r v
  exact ⟨co', e'.trans (by rw [e])⟩

theorem thrKeeps_flagged (s : State) (cl k : Nat) (r : BitVec 5) (v : DWord) :
    ThrKeeps (thrDone s cl k) (flagged s cl k r v) cl k where
  queue i hi := by
    obtain ⟨sr, hsreg⟩ := setSreg_eq (ctxAt (thrDone s cl k) i k) r v
    rw [ctxAt_flagged, if_pos ⟨hi, rfl⟩, hsreg]
  others i j hij := by rw [ctxAt_flagged, if_neg hij]
  threshers j _ := threshAt_of_clusters (by
    obtain ⟨co, e⟩ := flagged_eq s cl k r v
    rw [e, thrDone_clusters]) cl j
  clusters c _ := by
    obtain ⟨co, e⟩ := flagged_eq s cl k r v
    simp only [clusterAt, e, thrDone_clusters]

theorem flag_runs (h : ThrHead s cl k 0x505 e) : ∃ t, thrStep s cl k = t ∧ ThrLeaves s t cl k
    ∧ threshAt t cl k = threshAt s cl k
    ∧ (∀ i, clusterOf i = cl → ctxAt t i k = { ctxAt s i k with
          thrQ := (ctxAt s i k).thrQ.drop 1, sregs := (ctxAt t i k).sregs }
        ∧ ∀ q, sreg (ctxAt t i k) q = if q = e.inst.fields.f1 ∧ e.inst.fields.f1 ≠ 0#5 then
            (threshAt s cl k).scale ++ (if (threshAt s cl k).nonfinite then 1#32 else 0#32)
          else sreg (ctxAt s i k) q)
    ∧ t.mem = s.mem ∧ ∀ i, (coreAt t i).scratch = (coreAt s i).scratch := by
  obtain ⟨tr, hbusy, -⟩ := counted_thrBusy (flagged s cl k e.inst.fields.f1 (flagValue s cl k)) (4 * cl) 4
  have hstep : thrStep s cl k = thrBusy (flagged s cl k e.inst.fields.f1 (flagValue s cl k)) (4 * cl) 4 := thrStep_head h
  have hcounted := counted_thrBusy (flagged s cl k e.inst.fields.f1 (flagValue s cl k)) (4 * cl) 4
  obtain ⟨co, hflagged⟩ := flagged_eq s cl k e.inst.fields.f1 (flagValue s cl k)
  refine ⟨_, hstep, thrLeaves_of_keeps ((thrKeeps_flagged ..).trans hcounted.thrKeeps),
    threshAt_of_clusters (by rw [hbusy, hflagged]) cl k, fun i hi => ?_, by rw [hbusy, hflagged], fun i => ?_⟩
  · have hctx := hcounted.ctxAt i k
    rw [ctxAt_flagged, if_pos ⟨hi, rfl⟩, ctxAt_thrDone, if_pos ⟨hi, rfl⟩] at hctx
    obtain ⟨sr, hsreg⟩ := setSreg_eq { ctxAt s i k with thrQ := (ctxAt s i k).thrQ.drop 1 } e.inst.fields.f1 (flagValue s cl k)
    refine ⟨by rw [hctx, hsreg], fun q => ?_⟩
    rw [hctx, sreg_setSreg, flagValue_eq]
    rfl
  · rw [hcounted.coreAt]
    exact (scratch_clusterCores ..).trans (scratch_thrDone ..)

theorem clipAndFlag : Claim.ClipAndFlag := fun _ _ _ _ hcl => ⟨clip_runs hcl, flag_runs⟩

end Sys2Proof.Proofs
end

section
/-!
PROOFS. TMOV and TLIN, and the thresher's part of O18 (R160).
-/
namespace Sys2Proof.Proofs
open Sys2Proof Sys2Proof.Machine Sys2Proof.Laws Sys2Proof.Claim

variable {s t u : State} {cl k : Nat} {e : ThrEntry}

/-! ### Runs of bytes -/

@[simp] theorem length_memRead (m : Memory) (a n : Nat) : (memRead m a n).length = n := by simp [memRead]

theorem getD_memRead (m : Memory) (a : Nat) {n i : Nat} (h : i < n) : (memRead m a n).getD i 0#8 = memByte m (a + i) := by
  simp [memRead, h]

theorem memWrite_append (m : Memory) (a : Nat) (bs cs : List Byte) :
    memWrite m a (bs ++ cs) = memWrite (memWrite m a bs) (a + bs.length) cs := by
  induction bs generalizing m a with
  | nil => rfl
  | cons b bs ih => rw [List.cons_append, memWrite, ih, memWrite, List.length_cons, Nat.add_assoc, Nat.add_comm 1]

/-- A run that ends before what is written. -/
theorem memRead_memWrite_other {m : Memory} {a n b : Nat} {bs : List Byte} (h : a + n ≤ b) :
    memRead (memWrite m b bs) a n = memRead m a n := by
  refine List.map_congr_left fun i hi => ?_
  have hlt := List.mem_range.1 hi
  exact memByte_memWrite_other _ _ _ _ (.inl (by omega))

/-- Entry `i` of a run of `w`-byte values. -/
theorem memRead_memWrite_flatMap {α : Type} {w : Nat} {g : α → List Byte} (hg : ∀ x, (g x).length = w) (l : List α)
    (m : Memory) (a : Nat) {i : Nat} (hi : i < l.length) :
    memRead (memWrite m a (l.flatMap g)) (a + w * i) w = g l[i] := by
  induction l generalizing m a i with
  | nil => simp at hi
  | cons x l ih =>
    rw [List.flatMap_cons, memWrite_append, hg]
    obtain _ | i := i
    · rw [Nat.mul_zero, Nat.add_zero, memRead_memWrite_other (by omega)]
      exact hg x ▸ memRead_memWrite m a (g x)
    · have hadd : a + w * (i + 1) = a + w + w * i := by rw [Nat.mul_add, Nat.mul_one]; omega
      rw [hadd]
      exact ih (memWrite m a (g x)) (a + w) (by simpa using hi)

/-! ### Reads of words without bit errors (R118) -/

theorem readStorage_clean {core st as_ lo hi : Nat} (h : upsetsIn (coreAt s core) st lo hi = []) :
    readStorage s core st as_ lo hi = (true, s) := by
  simp [readStorage, h]

theorem readScratch_clean {core : Nat} (h : (coreAt s core).upsets = []) (ranges : List (Nat × Nat)) :
    readScratch s core ranges = (true, s) := by
  unfold readScratch
  induction ranges with
  | nil => rfl
  | cons r l ih =>
    have hclean : upsetsIn (coreAt s core) 0 (r.1 / 8) ((r.1 + r.2 + 7) / 8) = [] := by simp [upsetsIn, h]
    rw [List.foldl_cons, readStorage_clean hclean, ite_self]
    exact ih

/-! ### A write to the floor -/

/-- A write to near memory that no pinned floor range meets. -/
theorem landWrite_near (hpinned : s.mem.pinned = []) (tag : Word) (die off : Nat) (bs : List Byte) :
    let t := landWrite s tag (.near die off) bs
    (∀ i, nearAt t i = if i = die then memWrite (nearAt s die) off bs else nearAt s i) ∧ t.mem.hbm = s.mem.hbm
      ∧ t.cores = s.cores ∧ t.clusters = s.clusters := by
  have hland : landWrite s tag (.near die off) bs =
      clearMark (updNear s die fun m => memWrite m off bs) (.near die off) bs.length := by
    simp only [landWrite, floorConflict, hpinned, List.find?_nil, Option.map_none, placeWrite]
  have hnear := fun i => nearAt_updNear s die i fun m => memWrite m off bs
  intro t
  simp only [t, hland, clearMark]
  split
  · exact ⟨hnear, rfl, rfl, rfl⟩
  · exact ⟨hnear, rfl, rfl, rfl⟩

/-! ### TMOV -/

/-- The instruction has left the queues, its cycles are counted, and a written NaN or infinity sets the flag (R67). -/
def thrEnded (s : State) (cl k cycles : Nat) (bad : Bool) : State :=
  thrBusy (updCtx (thrDone s cl k) (4 * cl) k fun x => { x with nonfinite := x.nonfinite || bad }) (4 * cl) cycles

theorem clusterOf_lead (cl : Nat) : clusterOf (4 * cl) = cl := by unfold clusterOf; omega

theorem thrEnded_outcome (s : State) (cl k cycles : Nat) (bad : Bool) : let t := thrEnded s cl k cycles bad
    ThrKeeps (thrDone s cl k) t cl k ∧ (∀ i, (coreAt t i).scratch = (coreAt s i).scratch) ∧ t.mem = s.mem
      ∧ t.clusters = s.clusters := by
  intro t
  refine ⟨.trans (.updCtx _ (clusterOf_lead cl) ?_) (counted_thrBusy ..).thrKeeps, fun i => ?_, ?_, ?_⟩
  · exact fun _ => rfl
  · simp only [t, thrEnded, (counted_thrBusy ..).coreAt, scratch_updCtx, scratch_thrDone]
  · exact (counted_thrBusy ..).mem.trans (thrDone_mem s cl k)
  · exact (counted_thrBusy ..).clusters.trans (thrDone_clusters s cl k)

/-- An instruction that ends with a write to a scratchpad. -/
theorem scratchWrite_thrEnded (s : State) (cl k cycles : Nat) (bad : Bool) (core a : Nat) (bs : List Byte) :
    let t := scratchWrite (thrEnded s cl k cycles bad) core a bs
    ThrLeaves s t cl k
      ∧ (∀ i b, memByte (coreAt t i).scratch b =
          if i = core ∧ a ≤ b ∧ b < a + bs.length then bs.getD (b - a) 0#8 else memByte (coreAt s i).scratch b)
      ∧ t.mem = s.mem ∧ threshAt t cl k = threshAt s cl k := by
  obtain ⟨hkeeps, hscratch, hmem, hclusters⟩ := thrEnded_outcome s cl k cycles bad
  refine ⟨thrLeaves_of_keeps (hkeeps.trans (.of_ctxs (fun i j => ctxAt_scratchWrite _ core a bs i j) rfl)), fun i b => ?_,
    hmem, threshAt_of_clusters hclusters cl k⟩
  rw [memByte_scratchWrite, hscratch]

/-- An instruction that ends with a write to near memory. -/
theorem landWrite_thrEnded (hpinned : s.mem.pinned = []) (cl k cycles : Nat) (bad : Bool) (tag : Word) (die off : Nat)
    (bs : List Byte) :
    let t := landWrite (thrEnded s cl k cycles bad) tag (.near die off) bs
    ThrLeaves s t cl k ∧ (∀ i, (coreAt t i).scratch = (coreAt s i).scratch)
      ∧ (∀ i b, memByte (nearAt t i) b =
          if i = die ∧ off ≤ b ∧ b < off + bs.length then bs.getD (b - off) 0#8 else memByte (nearAt s i) b)
      ∧ t.mem.hbm = s.mem.hbm ∧ threshAt t cl k = threshAt s cl k := by
  obtain ⟨hkeeps, hscratch, hmem, hclusters⟩ := thrEnded_outcome s cl k cycles bad
  obtain ⟨hnear, hhbm, hcores, hclusters'⟩ := landWrite_near (hmem ▸ hpinned) tag die off bs
  have hsame : ∀ i, nearAt (thrEnded s cl k cycles bad) i = nearAt s i := fun i => by rw [nearAt, nearAt, hmem]
  refine ⟨thrLeaves_of_keeps (hkeeps.trans (.of_cores hcores hclusters')), fun i => ?_, fun i b => ?_, hhbm.trans (by rw [hmem]),
    threshAt_of_clusters (hclusters'.trans hclusters) cl k⟩
  · rw [← hscratch i, coreAt, hcores, coreAt]
  · rw [hnear, hsame]
    by_cases hi : i = die
    · simp only [hi, if_true, memByte_memWrite_getD, true_and]
    · simp only [hi, if_false, false_and, hsame]

/-- A TMOV from the named core's scratchpad to the floor. -/
theorem tmovRun_back (hback : ctlBit e.inst.fields 87 = true) (hclean : (coreAt s (linkCore (4 * cl) e.inst.fields)).upsets = []) :
    let toCore := linkCore (4 * cl) e.inst.fields
    let bs := memRead (coreAt s toCore).scratch (winAddr (ctxAt s toCore k) e.inst.r1.toNat) e.inst.r3.toNat
    tmovRun s cl k e = landWrite (thrEnded s cl k (8 + e.inst.r3.toNat / 512) (bytesNonfinite bs)) (ctxAt s (4 * cl) k).jobTag
      (.near (cl / 4) (floorBase cl + e.inst.r2.toNat)) bs := by
  unfold tmovRun
  simp only [hback, readScratch_clean hclean, if_true, Bool.not_true, Bool.false_eq_true, if_false]
  rfl

/-- A TMOV from the floor to the named core's scratchpad. -/
theorem tmovRun_forth (hforth : ctlBit e.inst.fields 87 = false)
    (hsound : condemned s (floorPlace cl e.inst.r2.toNat) e.inst.r3.toNat = false) :
    let toCore := linkCore (4 * cl) e.inst.fields
    let bs := memRead (nearAt s (cl / 4)) (floorBase cl + e.inst.r2.toNat) e.inst.r3.toNat
    tmovRun s cl k e = scratchWrite (thrEnded s cl k (8 + e.inst.r3.toNat / 512) (bytesNonfinite bs)) toCore
      (winAddr (ctxAt s toCore k) e.inst.r1.toNat) bs := by
  unfold tmovRun
  simp only [hforth, hsound, Bool.false_eq_true, if_false]
  rfl

theorem tmov_runs (hclean : (coreAt s (linkCore (4 * cl) e.inst.fields)).upsets = []) (h : ThrHead s cl k 0x503 e)
    (hpinned : s.mem.pinned = [])
    (hsound : ctlBit e.inst.fields 87 = false → condemned s (floorPlace cl e.inst.r2.toNat) e.inst.r3.toNat = false) :
    let w := e.inst.fields
    let toCore := linkCore (4 * cl) w
    let y := ctxAt s toCore k
    let a := e.inst.r1.toNat
    let n := e.inst.r3.toNat
    let near := floorBase cl + e.inst.r2.toNat
    ∃ t, thrStep s cl k = t ∧ ThrLeaves s t cl k
      ∧ (∀ i b, memByte (coreAt t i).scratch b =
          if ctlBit w 87 = false ∧ i = toCore ∧ winAddr y a ≤ b ∧ b < winAddr y a + n
          then memByte (nearAt s (cl / 4)) (near + (b - winAddr y a)) else memByte (coreAt s i).scratch b)
      ∧ (∀ i b, memByte (nearAt t i) b =
          if ctlBit w 87 = true ∧ i = cl / 4 ∧ near ≤ b ∧ b < near + n
          then memByte (coreAt s toCore).scratch (winAddr y a + (b - near)) else memByte (nearAt s i) b)
      ∧ t.mem.hbm = s.mem.hbm ∧ threshAt t cl k = threshAt s cl k := by
  intro w toCore y a n near
  have hstep : thrStep s cl k = tmovRun s cl k e := thrStep_head h
  cases hdir : ctlBit w 87 with
  | false =>
    obtain ⟨hleaves, hbytes, hmem, hthresh⟩ := scratchWrite_thrEnded s cl k (8 + n / 512)
      (bytesNonfinite (memRead (nearAt s (cl / 4)) near n)) toCore (winAddr y a) (memRead (nearAt s (cl / 4)) near n)
    have hrun : thrStep s cl k = scratchWrite (thrEnded s cl k (8 + n / 512)
        (bytesNonfinite (memRead (nearAt s (cl / 4)) near n))) toCore (winAddr y a) (memRead (nearAt s (cl / 4)) near n) :=
      hstep.trans (tmovRun_forth hdir (hsound hdir))
    rw [← hrun] at hleaves hbytes hmem hthresh
    refine ⟨_, rfl, hleaves, fun i b => (hbytes i b).trans ?_, fun i b => ?_, by rw [hmem], hthresh⟩
    · simp only [length_memRead, true_and]
      split
      · exact getD_memRead _ _ (by omega)
      · rfl
    · simp only [Bool.false_eq_true, false_and, if_false, nearAt, hmem]
  | true =>
    obtain ⟨hleaves, hscratch, hbytes, hhbm, hthresh⟩ := landWrite_thrEnded hpinned cl k (8 + n / 512)
      (bytesNonfinite (memRead (coreAt s toCore).scratch (winAddr y a) n)) (ctxAt s (4 * cl) k).jobTag (cl / 4) near
      (memRead (coreAt s toCore).scratch (winAddr y a) n)
    have hrun : thrStep s cl k = landWrite (thrEnded s cl k (8 + n / 512)
        (bytesNonfinite (memRead (coreAt s toCore).scratch (winAddr y a) n))) (ctxAt s (4 * cl) k).jobTag (.near (cl / 4) near)
        (memRead (coreAt s toCore).scratch (winAddr y a) n) := hstep.trans (tmovRun_back hdir hclean)
    rw [← hrun] at hleaves hscratch hbytes hhbm hthresh
    refine ⟨_, rfl, hleaves, fun i b => ?_, fun i b => (hbytes i b).trans ?_, hhbm, hthresh⟩
    · simp only [Bool.true_eq_false, false_and, if_false, hscratch]
    · simp only [length_memRead, true_and]
      split
      · exact getD_memRead _ _ (by omega)
      · rfl

/-! ### TLIN -/

/-- Value `i` that a TLIN writes: fma(a, X, RNE(b × D)) (R160). -/
def combination (m : Memory) (source dest : Nat) (r4 : DWord) (i : Nat) : Word :=
  let word := fun a => BitVec.ofNat 32 (leVal (memRead m (a + 4 * i) 4))
  f32fma (r4.truncate 32) (word source) (f32mul ((r4 >>> 32).truncate 32) (word dest))

theorem lowHalf_eq (r : DWord) : BitVec.ofNat 32 r.toNat = r.truncate 32 := BitVec.eq_of_toNat_eq (by simp)

theorem highHalf_eq (r : DWord) : BitVec.ofNat 32 (r.toNat / 2 ^ 32) = (r >>> 32).truncate 32 :=
  BitVec.eq_of_toNat_eq (by simp [Nat.shiftRight_eq_div_pow])

/-- A TLIN of words without bit errors. -/
theorem tlinRun_eq (hclean : (coreAt s (linkCore (4 * cl) e.inst.fields)).upsets = []) :
    let toCore := linkCore (4 * cl) e.inst.fields
    let y := ctxAt s toCore k
    let out := (List.range e.inst.r3.toNat).map
      (combination (coreAt s toCore).scratch (winAddr y e.inst.r2.toNat) (winAddr y e.inst.r1.toNat) e.inst.r4)
    tlinRun s cl k e = thrBusy (updCtx (scratchWrite (thrDone s cl k) toCore (winAddr y e.inst.r1.toNat)
        (out.flatMap fun v => leOut 4 v.toNat)) (4 * cl) k fun x => { x with nonfinite := x.nonfinite || out.any f32nonfinite })
      (4 * cl) (8 + (4 * e.inst.r3.toNat + 511) / 512 * 3) := by
  unfold tlinRun
  simp only [readScratch_clean hclean, Bool.not_true, Bool.false_eq_true, if_false, lowHalf_eq, highHalf_eq]
  rfl

theorem length_flatMap_leOut (l : List Word) : (l.flatMap fun v => leOut 4 v.toNat).length = 4 * l.length := by
  induction l with
  | nil => rfl
  | cons v l ih => rw [List.flatMap_cons, List.length_append, ih, length_leOut, List.length_cons]; omega

theorem tlin_runs (hclean : (coreAt s (linkCore (4 * cl) e.inst.fields)).upsets = []) (h : ThrHead s cl k 0x504 e) :
    let toCore := linkCore (4 * cl) e.inst.fields
    let y := ctxAt s toCore k
    let a := e.inst.r1.toNat
    let n := e.inst.r3.toNat
    ∃ t, thrStep s cl k = t ∧ ThrLeaves s t cl k
      ∧ (∀ i, i < n → memRead (coreAt t toCore).scratch (winAddr y a + 4 * i) 4 = leOut 4
          (combination (coreAt s toCore).scratch (winAddr y e.inst.r2.toNat) (winAddr y a) e.inst.r4 i).toNat)
      ∧ (∀ i b, ¬ (i = toCore ∧ winAddr y a ≤ b ∧ b < winAddr y a + 4 * n) →
          memByte (coreAt t i).scratch b = memByte (coreAt s i).scratch b)
      ∧ t.mem = s.mem ∧ threshAt t cl k = threshAt s cl k := by
  intro toCore y a n
  obtain ⟨out, hout⟩ : ∃ out, out = (List.range n).map
    (combination (coreAt s toCore).scratch (winAddr y e.inst.r2.toNat) (winAddr y a) e.inst.r4) := ⟨_, rfl⟩
  obtain ⟨v, hv⟩ : ∃ v, v = scratchWrite (thrDone s cl k) toCore (winAddr y a) (out.flatMap fun v => leOut 4 v.toNat) := ⟨_, rfl⟩
  obtain ⟨t, ht⟩ : ∃ t, t = thrBusy (updCtx v (4 * cl) k fun x => { x with nonfinite := x.nonfinite || out.any f32nonfinite })
    (4 * cl) (8 + (4 * n + 511) / 512 * 3) := ⟨_, rfl⟩
  have hstep : thrStep s cl k = t := by
    rw [ht, hv, hout]
    exact (thrStep_head h).trans (tlinRun_eq hclean)
  have hkeeps : ThrKeeps (thrDone s cl k) t cl k := by
    rw [ht]
    refine .trans (.trans (t := v) ?_ (.updCtx _ (clusterOf_lead cl) ?_)) (counted_thrBusy ..).thrKeeps
    · exact hv ▸ .of_ctxs (fun i j => ctxAt_scratchWrite _ _ _ _ i j) rfl
    · exact fun _ => rfl
  have hscratch : ∀ i, (coreAt t i).scratch = (coreAt v i).scratch := fun i => by
    rw [ht, (counted_thrBusy ..).coreAt, scratch_updCtx]
  have hlength : out.length = n := by simp [hout]
  refine ⟨t, hstep, thrLeaves_of_keeps hkeeps, fun i hi => ?_, fun i b hib => ?_, ?_, ?_⟩
  · rw [hscratch, hv, scratch_scratchWrite, memRead_memWrite_flatMap (fun v => length_leOut 4 _) out _ _ (hlength ▸ hi)]
    simp [hout]
  · rw [hscratch, hv, memByte_scratchWrite, length_flatMap_leOut, hlength, if_neg hib, scratch_thrDone]
  · rw [ht, (counted_thrBusy ..).mem, hv]
    exact thrDone_mem s cl k
  · rw [ht, threshAt_of_clusters (counted_thrBusy ..).clusters, hv]
    exact threshAt_of_clusters (thrDone_clusters s cl k) cl k

theorem floorMovesAndCombinations : Claim.FloorMovesAndCombinations :=
  fun _ _ _ _ hclean => ⟨fun h hpinned hsound => tmov_runs hclean h hpinned hsound, fun h => tlin_runs hclean h⟩

/-- Settles O18: the copies are compared before the instruction runs, and each instruction that ends leaves the four queues
with what its own work keeps. -/
theorem thresherRuns : Obligations.ThresherRuns := ⟨thrCopiesMatch, clipAndFlag, floorMovesAndCombinations⟩

end Sys2Proof.Proofs
end

section
/-!
PROOFS. The handing of a TSSQ, and the steps of a TUPD (R160, R161, R369, R376, R381): O19.
-/
namespace Sys2Proof.Proofs
open Sys2Proof Sys2Proof.Machine Sys2Proof.Laws Sys2Proof.Claim

variable {s t u : State} {cl k c op : Nat} {e : ThrEntry}

/-! ### The head of the lead core's queue -/

theorem leadQueue_of_head (h : ThrHead s cl k op e) :
    (ctxAt s (4 * cl) k).thrQ = e :: (ctxAt s (4 * cl) k).thrQ.drop 1 := by
  obtain ⟨copies, hheads, -, -, -⟩ := h
  unfold thrHeads at hheads
  split at hheads
  · cases hheads
  · next e' rest hq =>
    dsimp only at hheads
    split at hheads
    · obtain ⟨rfl, -⟩ := Prod.mk.inj (Option.some.inj hheads)
      rw [hq, List.drop_one, List.tail_cons]
    · cases hheads

/-- A cluster of a cove is one of the module's 256. -/
theorem cluster_lt_of_cove (h : coveOfCore s (4 * cl) = some c) : cl < 256 := by
  have hdie := List.find?_some h
  have hlt := BitVec.lt_of_getLsbD hdie
  unfold dieOf at hlt
  omega

/-- A step that keeps the lead core's queue but for the run of its head. -/
theorem ctxAt_updBundle {rest : List ThrEntry} (f : BundleRun → BundleRun) (hq : (ctxAt s (4 * cl) k).thrQ = e :: rest) :
    ctxAt (updBundle s cl k f) (4 * cl) k = { ctxAt s (4 * cl) k with thrQ := { e with run := f e.run } :: rest } := by
  rw [updBundle, ctxAt_updCtx, hq]

theorem otherCtxs_updBundle (s : State) (cl k : Nat) (f : BundleRun → BundleRun) :
    OtherCtxs s (updBundle s cl k f) (4 * cl) k := otherCtxs_updCtx s (4 * cl) k _

@[simp] theorem scratch_updBundle (s : State) (cl k : Nat) (f : BundleRun → BundleRun) (i : Nat) :
    (coreAt (updBundle s cl k f) i).scratch = (coreAt s i).scratch := scratch_updCtx ..

/-! ### TSSQ -/

theorem thrBusy_frame (s : State) (core n : Nat) : ∃ a b,
    thrBusy s core n = { s with trace := { s.trace with counters := a, coveCounters := b } } := by
  unfold thrBusy bumpCoveSet
  split <;> exact ⟨_, _, rfl⟩

theorem coreFrame_thrBusy_updCtx (s : State) (core k n : Nat) (f : Ctx → Ctx) :
    CoreFrame s (thrBusy (updCtx s core k f) core n) core k := by
  obtain ⟨a, b, hbusy⟩ := thrBusy_frame (updCtx s core k f) core n
  rw [hbusy]
  refine ⟨fun j hj => ctxAt_updCtx_other _ _ _ _ _ hj, ?_, fun i hi => coreAt_updCtx_other _ _ _ hi, rfl⟩
  change coreAt (updCtx s core k f) core = { coreAt s core with ctxs := (coreAt (updCtx s core k f) core).ctxs }
  rw [updCtx, coreAt_setCtx]

/-- The queue with its head's sum handed to its routine (R368). -/
def headHanded (q : List ThrEntry) : List ThrEntry :=
  match q with
  | e :: rest => { e with handed := true } :: rest
  | [] => []

/-- The scalar cell that a TSSQ hands to its routine (R159, R197). -/
def squaresPoint (s : State) (cl k : Nat) (e : ThrEntry) : RoutineCall :=
  pointOf (coreAt s (4 * cl)) e.inst 0 0 4 0 (some
    (floorSquares (floorMem s cl) cl e.inst.r2.toNat e.inst.r3.toNat,
     floorNonfinite (floorMem s cl) cl e.inst.r2.toNat e.inst.r3.toNat
      || (List.range 4).any fun i => (ctxAt s (4 * cl + i) k).nonfinite))

theorem tssqRun_eq (hfresh : e.handed = false)
    (hsound : condemned s (floorPlace cl e.inst.r2.toNat) (4 * e.inst.r3.toNat) = false) :
    tssqRun s cl k e = thrBusy (updCtx s (4 * cl) k fun x =>
      { x with points := x.points ++ [squaresPoint s cl k e],
               thrQ := headHanded x.thrQ }) (4 * cl)
      (16 + (4 * e.inst.r3.toNat + 1023) / 1024 + 48) := by
  unfold tssqRun
  simp only [hfresh, hsound, Bool.false_eq_true, if_false]
  rfl

theorem tssq_hands (h : ThrHead s cl k 0x501 e) (hfresh : e.handed = false)
    (hsound : condemned s (floorPlace cl e.inst.r2.toNat) (4 * e.inst.r3.toNat) = false) :
    let t := thrStep s cl k
    ctxAt t (4 * cl) k = { ctxAt s (4 * cl) k with
        points := (ctxAt s (4 * cl) k).points ++ [squaresPoint s cl k e],
        thrQ := { e with handed := true } :: (ctxAt s (4 * cl) k).thrQ.drop 1 }
      ∧ CoreFrame s t (4 * cl) k := by
  have hstep : thrStep s cl k = tssqRun s cl k e := thrStep_head h
  intro t
  simp only [t, hstep, tssqRun_eq hfresh hsound]
  refine ⟨?_, coreFrame_thrBusy_updCtx ..⟩
  rw [(counted_thrBusy ..).ctxAt, ctxAt_updCtx, leadQueue_of_head h]
  rfl

/-! ### The start of a TUPD -/

theorem tupdRun_begin (hcove : coveOfCore s (4 * cl) = some c) (hfresh : e.run.begun = false) :
    tupdRun s cl k e = beginTupd s c cl k e := by
  unfold tupdRun
  simp only [hcove, hfresh, Bool.not_false, if_true]

/-- The step's count of TUPDs (R389). -/
def tupdCounted (s : State) (c : Nat) : State := updStats s c fun t => { t with tupds := t.tupds + 1, tupdStarted := true }

/-- The state after a skipped TUPD, but for the step's record of it. -/
def tupdSkipped (s : State) (c cl k : Nat) : State := thrBusy (thrDone (tupdCounted s c) cl k) (4 * cl) 1

theorem beginTupd_skip (hflag : (threshAt s cl k).nonfinite = true) : beginTupd s c cl k e =
    if (coveAt (tupdSkipped s c cl k) c).stats.skipped then tupdSkipped s c cl k
    else recordCove (updStats (tupdSkipped s c cl k) c fun t => { t with skipped := true }) 0x6001 .corrected c [] := by
  have hflag' : (threshAt (tupdCounted s c) cl k).nonfinite = true := hflag
  unfold beginTupd
  exact if_pos hflag'

theorem tupdSkipped_outcome (s : State) (c cl k : Nat) : let t := tupdSkipped s c cl k
    ThrLeaves s t cl k ∧ (coveAt t c).stats = { (coveAt s c).stats with tupds := (coveAt s c).stats.tupds + 1, tupdStarted := true }
      ∧ t.trace.sources = s.trace.sources ∧ t.mem = s.mem ∧ t.clusters = s.clusters
      ∧ ∀ i, (coreAt t i).scratch = (coreAt s i).scratch := by
  have hcounted := counted_thrBusy (thrDone (tupdCounted s c) cl k) (4 * cl) 1
  intro t
  refine ⟨?_, ?_, ?_, hcounted.mem.trans (thrDone_mem ..), hcounted.clusters.trans (thrDone_clusters ..), fun i => ?_⟩
  · exact thrLeaves_of_keeps (s := tupdCounted s c) hcounted.thrKeeps
  · have hcove : coveAt t c = coveAt (tupdCounted s c) c := by
      simp only [t, tupdSkipped, coveAt, hcounted.coves, thrDone_coves]
    rw [hcove, tupdCounted, updStats, coveAt_updCove]
  · obtain ⟨tr, hbusy, hsources⟩ := hcounted
    simp only [t, tupdSkipped, hbusy, hsources, thrDone_trace]
    rfl
  · simp only [t, tupdSkipped, hcounted.coreAt, scratch_thrDone]
    rfl

theorem tupd_skips (hcove : coveOfCore s (4 * cl) = some c) (h : ThrHead s cl k 0x500 e) (hfresh : e.run.begun = false)
    (hflag : (threshAt s cl k).nonfinite = true) :
    ∃ t, thrStep s cl k = t ∧ ThrLeaves s t cl k
      ∧ (coveAt t c).stats = { (coveAt s c).stats with
          tupds := (coveAt s c).stats.tupds + 1, tupdStarted := true, skipped := true }
      ∧ ((coveAt s c).stats.skipped = false → Recorded s t 0x6001 1296)
      ∧ t.mem = s.mem ∧ threshAt t cl k = threshAt s cl k
      ∧ ∀ i, (coreAt t i).scratch = (coreAt s i).scratch := by
  have hstep : thrStep s cl k = tupdRun s cl k e := thrStep_head h
  rw [hstep, tupdRun_begin hcove hfresh, beginTupd_skip hflag]
  obtain ⟨hleaves, hstats, hsources, hmem, hclusters, hscratch⟩ := tupdSkipped_outcome s c cl k
  have hskip : (coveAt (tupdSkipped s c cl k) c).stats.skipped = (coveAt s c).stats.skipped := by rw [hstats]
  cases hdone : (coveAt s c).stats.skipped with
  | true =>
    rw [hskip, hdone, if_pos rfl]
    refine ⟨_, rfl, hleaves, ?_, fun h => (Bool.noConfusion h), hmem, threshAt_of_clusters hclusters cl k, hscratch⟩
    rw [hstats, ← hdone]
  | false =>
    rw [hskip, hdone, if_neg (by decide)]
    obtain ⟨v, hv⟩ : ∃ v, v = updStats (tupdSkipped s c cl k) c fun t => { t with skipped := true } := ⟨_, rfl⟩
    have hcores : (recordCove v 0x6001 .corrected c []).cores = (tupdSkipped s c cl k).cores := by
      rw [recordCove, record_cores, hv, updStats_cores]
    have hclusters' : (recordCove v 0x6001 .corrected c []).clusters = (tupdSkipped s c cl k).clusters := by
      rw [recordCove, record_clusters, hv, updStats_clusters]
    rw [← hv]
    refine ⟨_, rfl, thrLeaves_trans hleaves (.of_cores hcores hclusters'), ?_, fun _ => ?_, ?_,
      threshAt_of_clusters (hclusters'.trans hclusters) cl k, fun i => ?_⟩
    · rw [recordCove, coveAt_record, hv, updStats, coveAt_updCove, hstats]
    · refine recorded_between (recorded_recordCove _ _ _ _ _ (by simp [episodeCode])) ?_ rfl
      rw [eventCount, eventCount, hv, updStats_trace, hsources]
    · rw [recordCove, record_mem, hv, updStats_mem, hmem]
    · rw [← hscratch i, coreAt, hcores, coreAt]

/-! ### The first bundle (R428) -/

/-- HBM bytes that are stored leave near memory alone. -/
theorem hbmStore_near (s : State) (off : Nat) (bs : List Byte) : (hbmStore s off bs).mem.near = s.mem.near := by
  have hwrite : ∀ (bs : List Byte) (s : State) (off : Nat), (hbmWrite s off bs).mem.near = s.mem.near := by
    intro bs
    induction bs with
    | nil => exact fun _ _ => rfl
    | cons b bs ih => exact fun s off => ih (hbmSet s off b) (off + 1)
  have hmark : ∀ (s : State) (m off : Nat), (markDirty s m off).mem.near = s.mem.near := by
    intro s m off
    unfold markDirty
    split
    · split <;> rfl
    · rfl
  have hmarks : ∀ (l : List Nat) (s : State), (l.foldl (fun s b => markDirty s s.moduleId b) s).mem.near = s.mem.near := by
    intro l
    induction l with
    | nil => exact fun _ => rfl
    | cons b l ih => exact fun s => (ih (markDirty s s.moduleId b)).trans (hmark ..)
  exact (hmarks ..).trans (hwrite ..)

/-- The undo record of a TUPD changes HBM, the step record's guard and the trace alone. -/
theorem startUndo_outcome (s : State) (c : Nat) (w : Fields) (shard n : Nat) : let t := (startUndo s c w shard n).2
    t.cores = s.cores ∧ (coveAt t c).stats = (coveAt s c).stats ∧ t.mem.near = s.mem.near := by
  have hckpt : ∀ (v : State) (f : Ckpt → Ckpt), (coveAt (updCkpt v c f) c).stats = (coveAt v c).stats := fun v f => by
    rw [updCkpt, coveAt_updCove]
  have hopen : ∀ (v : State) (f : Ckpt → Ckpt), let t := recordCove (updCkpt v c f) 0x8016 .corrected c []
      t.cores = v.cores ∧ (coveAt t c).stats = (coveAt v c).stats ∧ t.mem.near = v.mem.near := by
    intro v f t
    simp only [t, recordCove, record_cores, coveAt_record, record_mem, hckpt, updCkpt_cores, updCkpt_mem]
    exact ⟨trivial, trivial, trivial⟩
  unfold startUndo
  dsimp only
  split
  · exact ⟨rfl, rfl, rfl⟩
  split
  · split
    · obtain ⟨m, hm⟩ := hbmStore_eq s _ (undoHead w shard n)
      refine ⟨?_, ?_, by rw [updCkpt_mem, hbmStore_near]⟩
      · rw [updCkpt_cores, hm]
      · rw [hckpt, hm]
        rfl
    · exact hopen ..
  · exact hopen ..

/-- The run of a TUPD's first bundle, with the place of its undo record. -/
def firstBundle (e : ThrEntry) (at_ : Option Nat) (r : BundleRun) : BundleRun :=
  { startBundle e.inst.fields e.inst.r3.toNat 0 r with begun := true, undoAt := at_ }

theorem beginTupd_start (hflag : (threshAt s cl k).nonfinite = false) : beginTupd s c cl k e =
    let r := startUndo (tupdCounted s c) c e.inst.fields e.inst.r1.toNat e.inst.r3.toNat
    updBundle r.2 cl k (firstBundle e r.1) := by
  have hflag' : ¬ (threshAt (tupdCounted s c) cl k).nonfinite = true := by
    rw [Bool.not_eq_true]
    exact hflag
  unfold beginTupd
  exact if_neg hflag'

theorem tupd_begins (hcove : coveOfCore s (4 * cl) = some c) (h : ThrHead s cl k 0x500 e) (hfresh : e.run.begun = false)
    (hflag : (threshAt s cl k).nonfinite = false) :
    ∃ t at_, thrStep s cl k = t
      ∧ ctxAt t (4 * cl) k = { ctxAt s (4 * cl) k with
          thrQ := { e with run := firstBundle e at_ e.run } :: (ctxAt s (4 * cl) k).thrQ.drop 1 }
      ∧ (coveAt t c).stats = { (coveAt s c).stats with tupds := (coveAt s c).stats.tupds + 1, tupdStarted := true }
      ∧ OtherCtxs s t (4 * cl) k ∧ t.mem.near = s.mem.near ∧ ∀ i, (coreAt t i).scratch = (coreAt s i).scratch := by
  have hstep : thrStep s cl k = tupdRun s cl k e := thrStep_head h
  rw [hstep, tupdRun_begin hcove hfresh, beginTupd_start hflag]
  obtain ⟨hcores, hstats, hnear⟩ := startUndo_outcome (tupdCounted s c) c e.inst.fields e.inst.r1.toNat e.inst.r3.toNat
  set r := startUndo (tupdCounted s c) c e.inst.fields e.inst.r1.toNat e.inst.r3.toNat
  have hctx : ∀ i j, ctxAt r.2 i j = ctxAt s i j := ctxAt_of_cores hcores
  have hq : (ctxAt r.2 (4 * cl) k).thrQ = e :: (ctxAt r.2 (4 * cl) k).thrQ.drop 1 := by
    rw [hctx]
    exact leadQueue_of_head h
  refine ⟨_, r.1, rfl, ?_, hstats.trans ?_, fun i j hij => ?_, hnear, fun i => ?_⟩
  · rw [ctxAt_updBundle _ hq, hctx]
  · rw [tupdCounted, updStats, coveAt_updCove]
  · rw [otherCtxs_updBundle _ _ _ _ i j hij, hctx]
  · rw [scratch_updBundle, coreAt, hcores]
    rfl

theorem tssqAndTupdStarts : Claim.SquaresAndUpdates := by
  intro cl k c e s hcove _ x w n off
  refine ⟨fun h hfresh hsound => ?_, fun h hfresh hflag => tupd_skips hcove h hfresh hflag, fun h hfresh hflag => ?_⟩
  · obtain ⟨hctx, hframe⟩ := tssq_hands h hfresh hsound
    exact ⟨_, squaresPoint s cl k e, rfl, hctx, rfl, rfl, rfl, rfl, rfl, rfl, rfl, hframe⟩
  · obtain ⟨t, at_, hstep, hctx, hstats, hothers, hnear, hscratch⟩ := tupd_begins hcove h hfresh hflag
    exact ⟨t, firstBundle e at_ e.run, hstep, hctx, rfl, rfl, rfl, rfl, rfl, rfl, rfl, rfl, hstats, hothers, hnear, hscratch⟩

/-! ### The end of a TUPD (R223, R224) -/

theorem tupdRun_end (hcove : coveOfCore s (4 * cl) = some c) (hbegun : e.run.begun = true)
    (hlast : e.inst.r3.toNat ≤ 16384 * e.run.bundle) : tupdRun s cl k e = endTupd s c cl k := by
  have hdone : (e.inst.r3.toNat + 16383) / 16384 ≤ e.run.bundle := by omega
  unfold tupdRun
  simp only [hcove, hbegun, hdone, Bool.not_true, Bool.false_eq_true, if_false, if_true]

/-- The pinned floor ranges of a cluster are released (R223). -/
def unpinned (s : State) (cl : Nat) : State :=
  { s with mem := { s.mem with pinned := s.mem.pinned.filter (·.cluster ≠ cl) } }

theorem endTupd_landed (hlanded : feedLanding s cl = false) : endTupd s c cl k =
    updStats (thrDone (unpinned s cl) cl k) c fun t => { t with thresherEnd := s.tide.now } := by
  unfold endTupd
  rw [hlanded]
  rfl

theorem tupd_ends (hcove : coveOfCore s (4 * cl) = some c) (h : ThrHead s cl k 0x500 e) (hbegun : e.run.begun = true)
    (hlast : e.inst.r3.toNat ≤ 16384 * e.run.bundle) (hlanded : feedLanding s cl = false) :
    ∃ t, thrStep s cl k = t ∧ ThrLeaves s t cl k ∧ (∀ p ∈ t.mem.pinned, p.cluster ≠ cl)
      ∧ (coveAt t c).stats = { (coveAt s c).stats with thresherEnd := s.tide.now }
      ∧ t.mem = { s.mem with pinned := s.mem.pinned.filter (·.cluster ≠ cl) }
      ∧ ∀ i, (coreAt t i).scratch = (coreAt s i).scratch := by
  have hstep : thrStep s cl k = tupdRun s cl k e := thrStep_head h
  rw [hstep, tupdRun_end hcove hbegun hlast, endTupd_landed hlanded]
  have hmem : (updStats (thrDone (unpinned s cl) cl k) c fun t => { t with thresherEnd := s.tide.now }).mem =
      { s.mem with pinned := s.mem.pinned.filter (·.cluster ≠ cl) } := by
    rw [updStats_mem, thrDone_mem]
    rfl
  refine ⟨_, rfl, thrLeaves_of_keeps (s := unpinned s cl) (.of_cores rfl rfl), fun p hp => ?_, ?_, hmem, fun i => ?_⟩
  · rw [hmem] at hp
    simpa using (List.mem_filter.1 hp).2
  · rw [updStats, coveAt_updCove, coveAt, thrDone_coves]
    rfl
  · exact scratch_thrDone (unpinned s cl) cl k i

/-! ### The end of a bundle (R376, R377, R389) -/

theorem tupdRun_endBundle (hcove : coveOfCore s (4 * cl) = some c) (hbegun : e.run.begun = true)
    (hmore : 16384 * e.run.bundle < e.inst.r3.toNat) (hread : e.run.toRead = []) (hawait : e.run.awaiting = [])
    (hcomputed : e.run.computed = true) (hsave : e.run.toSave = []) (hwrite : e.run.toWrite = []) :
    tupdRun s cl k e = endBundle s c cl k e := by
  have hdone : ¬ (e.inst.r3.toNat + 16383) / 16384 ≤ e.run.bundle := by omega
  unfold tupdRun
  simp only [hcove, hbegun, hdone, hread, hawait, hcomputed, hsave, hwrite, Bool.not_true, Bool.false_eq_true, if_false,
    ne_eq, not_true_eq_false]

/-- The counts of a bundle whose writeback has been admitted. -/
def bundleCounted (s : State) (c cl k : Nat) (e : ThrEntry) : State :=
  updStats (chargeSats (updCtx s (4 * cl) k fun x =>
      { x with nonfinite := x.nonfinite || decide (0 < e.run.bad), satCount := x.satCount + e.run.sats }) (4 * cl) e.run.sats)
    c fun t => { t with
      params := t.params + min 16384 (e.inst.r3.toNat - 16384 * e.run.bundle), nonfiniteWrites := t.nonfiniteWrites + e.run.bad }

theorem chargeSats_sources (s : State) (core n : Nat) : (chargeSats s core n).trace.sources = s.trace.sources := by
  obtain ⟨⟨_, _, _, e⟩, -⟩ := tallied_chargeSats s core n
  rw [e]

theorem bundleCounted_outcome (s : State) (c cl k : Nat) (e : ThrEntry) : let t := bundleCounted s c cl k e
    ctxAt t (4 * cl) k = { ctxAt s (4 * cl) k with
        nonfinite := (ctxAt s (4 * cl) k).nonfinite || decide (0 < e.run.bad)
        satCount := (ctxAt s (4 * cl) k).satCount + e.run.sats }
      ∧ OtherCtxs s t (4 * cl) k ∧ t.mem = s.mem ∧ t.trace.sources = s.trace.sources
      ∧ (coveAt t c).stats.params = (coveAt s c).stats.params + min 16384 (e.inst.r3.toNat - 16384 * e.run.bundle)
      ∧ (coveAt t c).stats.nonfiniteWrites = (coveAt s c).stats.nonfiniteWrites + e.run.bad := by
  obtain ⟨v, hv⟩ : ∃ v, v = updCtx s (4 * cl) k fun x =>
    { x with nonfinite := x.nonfinite || decide (0 < e.run.bad), satCount := x.satCount + e.run.sats } := ⟨_, rfl⟩
  obtain ⟨m, hsats⟩ := (tallied_chargeSats v (4 * cl) e.run.sats).2 c
  have hcoves : coveAt v c = coveAt s c := by rw [hv]; rfl
  intro t
  have hctx : ∀ i j, ctxAt t i j = ctxAt v i j := fun i j => by
    rw [← ctxAt_chargeSats v (4 * cl) e.run.sats i j, hv]
    exact ctxAt_of_cores (updStats_cores ..) i j
  refine ⟨?_, fun i j hij => ?_, ?_, ?_, ?_, ?_⟩
  · rw [hctx, hv, ctxAt_updCtx]
  · rw [hctx, hv, otherCtxs_updCtx _ _ _ _ i j hij]
  · simp only [t, bundleCounted, updStats_mem, chargeSats_mem]
    rfl
  · simp only [t, bundleCounted, updStats_trace, chargeSats_sources]
    rfl
  · simp only [t, bundleCounted, updStats, coveAt_updCove, ← hv, hsats, hcoves]
  · simp only [t, bundleCounted, updStats, coveAt_updCove, ← hv, hsats, hcoves]

/-- The event of a bundle that wrote values that are not finite (R377). -/
def badNoted (s : State) (c cl bad : Nat) : State :=
  if 0 < bad then record (bumpCoveSet s (some c) 5 bad) 0x6010 .corrected c (1024 + cl) [] else s

theorem endBundle_eq (s : State) (c cl k : Nat) (e : ThrEntry) : endBundle s c cl k e =
    updBundle (badNoted (bundleCounted s c cl k e) c cl e.run.bad) cl k
      (startBundle e.inst.fields e.inst.r3.toNat (e.run.bundle + 1)) := rfl

theorem badNoted_outcome (s : State) (c cl bad : Nat) (hcl : cl < 256) : let t := badNoted s c cl bad
    (∀ i j, ctxAt t i j = ctxAt s i j) ∧ coveAt t c = coveAt s c ∧ t.mem = s.mem
      ∧ (0 < bad → Recorded s t 0x6010 (1024 + cl)) := by
  intro t
  simp only [t, badNoted]
  split
  · next hbad =>
    have hcounted := counted_bumpCoveSet s (some c) 5 bad
    refine ⟨fun i j => by rw [ctxAt_record, hcounted.ctxAt], ?_, by rw [record_mem, hcounted.mem], fun _ => ?_⟩
    · rw [coveAt_record, coveAt, hcounted.coves, coveAt]
    · obtain ⟨tr, e, hsources⟩ := hcounted
      refine recorded_between (recorded_record _ _ _ _ _ _ (by omega) (by simp [episodeCode])) ?_ rfl
      rw [eventCount, eventCount, e, hsources]
  · next hgood => exact ⟨fun _ _ => rfl, rfl, rfl, fun h => absurd h hgood⟩

theorem tupd_endsBundle (hcove : coveOfCore s (4 * cl) = some c) (h : ThrHead s cl k 0x500 e) (hbegun : e.run.begun = true)
    (hmore : 16384 * e.run.bundle < e.inst.r3.toNat) (hread : e.run.toRead = []) (hawait : e.run.awaiting = [])
    (hcomputed : e.run.computed = true) (hsave : e.run.toSave = []) (hwrite : e.run.toWrite = []) :
    ∃ t, thrStep s cl k = t
      ∧ (coveAt t c).stats.params = (coveAt s c).stats.params + min 16384 (e.inst.r3.toNat - 16384 * e.run.bundle)
      ∧ (coveAt t c).stats.nonfiniteWrites = (coveAt s c).stats.nonfiniteWrites + e.run.bad
      ∧ (0 < e.run.bad → Recorded s t 0x6010 (1024 + cl) ∧ (ctxAt t (4 * cl) k).nonfinite = true)
      ∧ (ctxAt t (4 * cl) k).thrQ = { e with
          run := startBundle e.inst.fields e.inst.r3.toNat (e.run.bundle + 1) e.run } :: (ctxAt s (4 * cl) k).thrQ.drop 1
      ∧ (∀ i j, ¬ (i = 4 * cl ∧ j = k) → ctxAt t i j = ctxAt s i j) ∧ t.mem = s.mem := by
  have hstep : thrStep s cl k = tupdRun s cl k e := thrStep_head h
  rw [hstep, tupdRun_endBundle hcove hbegun hmore hread hawait hcomputed hsave hwrite, endBundle_eq]
  obtain ⟨hself, hothers, hmem, hsources, hparams, hwrites⟩ := bundleCounted_outcome s c cl k e
  obtain ⟨hctx, hstats, hmem', hevent⟩ := badNoted_outcome (bundleCounted s c cl k e) c cl e.run.bad (cluster_lt_of_cove hcove)
  set u := badNoted (bundleCounted s c cl k e) c cl e.run.bad
  have hqueue : (ctxAt u (4 * cl) k).thrQ = (ctxAt s (4 * cl) k).thrQ := by rw [hctx, hself]
  have hq : (ctxAt u (4 * cl) k).thrQ = e :: (ctxAt u (4 * cl) k).thrQ.drop 1 := by
    rw [hqueue]
    exact leadQueue_of_head h
  refine ⟨_, rfl, ?_, ?_, fun hbad => ⟨?_, ?_⟩, ?_, fun i j hij => ?_, hmem'.trans hmem⟩
  · exact (congrArg (fun v : Cove => v.stats.params) hstats).trans hparams
  · exact (congrArg (fun v : Cove => v.stats.nonfiniteWrites) hstats).trans hwrites
  · exact recorded_between (hevent hbad) (by rw [eventCount, eventCount, hsources]) rfl
  · rw [ctxAt_updBundle _ hq, hctx, hself]
    simp [hbad]
  · rw [ctxAt_updBundle _ hq, hqueue]
  · rw [otherCtxs_updBundle _ _ _ _ i j hij, hctx, hothers i j hij]

/-! ### A block of the shard (R122, R161) -/

theorem tupdRun_read {j : Nat} {rest : List Nat} (hcove : coveOfCore s (4 * cl) = some c) (hbegun : e.run.begun = true)
    (hmore : 16384 * e.run.bundle < e.inst.r3.toNat) (hread : e.run.toRead = j :: rest)
    (hmoved : feedRead s c cl k e.inst j = .moved u) :
    tupdRun s cl k e = updBundle u cl k fun r => { r with toRead := rest } := by
  have hdone : ¬ (e.inst.r3.toNat + 16383) / 16384 ≤ e.run.bundle := by omega
  unfold tupdRun
  simp only [hcove, hbegun, hdone, hread, hmoved, afterFeed, Bool.not_true, Bool.false_eq_true, if_false]

theorem counted_countFeed (s : State) (c n : Nat) (hbm barn : Bool) : Counted s (countFeed s c n hbm barn) :=
  .thenIte (.thenIte (counted_bumpCoveSet ..) (counted_bumpCoveSet ..)) (counted_bumpCoveSet ..)

/-- An access of the feed in this module that moved was one of HBM that admission granted. -/
theorem feedHere_moved {addr len : Nat} {write barn : Bool} {land : State → State}
    (h : feedHere s c cl k addr len write barn land = .moved u) :
    ∃ off ti, placeOf addr = .hbm off ∧ u = countFeed (land { s with tide := ti }) c len true barn := by
  unfold feedHere at h
  dsimp only at h
  split at h
  · next off hplace =>
    split at h
    · cases h
    · cases h
    · split at h
      · cases h
      · split at h
        · cases h
        · split at h
          · cases h
          · cases h
          · next s' leaves hgranted =>
            obtain ⟨ti, rfl, -⟩ := admitFor_granted hgranted
            exact ⟨off, ti, hplace, (MoveStep.moved.inj h).symm⟩
  · cases h

/-- A block that the feed reads here is that of HBM (R122). -/
theorem feedRead_moved {a j : Nat} {i : Issued} (hhere : resolve s c (i.r1.toNat + 4096 * j) = .here a false)
    (h : feedRead s c cl k i j = .moved u) : ∃ ti, u = countFeed (updBundle { s with tide := ti } cl k fun r =>
      { r with got := memWrite r.got (4096 * j) (placeRead s (ctxAt s (4 * cl) k).jobTag (placeOf a) 4096) }) c 4096 true false := by
  unfold feedRead at h
  simp only [hhere, Bool.false_eq_true, if_false] at h
  obtain ⟨off, ti, hplace, hu⟩ := feedHere_moved h
  refine ⟨ti, hu.trans ?_⟩
  rw [hplace]
  rfl

theorem tupd_reads {j a : Nat} {rest : List Nat} (hcove : coveOfCore s (4 * cl) = some c) (h : ThrHead s cl k 0x500 e)
    (hbegun : e.run.begun = true) (hmore : 16384 * e.run.bundle < e.inst.r3.toNat) (hread : e.run.toRead = j :: rest)
    (hhere : resolve s c (e.inst.r1.toNat + 4096 * j) = .here a false) (hmoved : feedRead s c cl k e.inst j = .moved u) :
    ∃ t, thrStep s cl k = t ∧ t.mem.near = s.mem.near ∧ t.mem.hbm = s.mem.hbm
      ∧ (ctxAt t (4 * cl) k).thrQ = { e with run := { e.run with
          toRead := rest,
          got := memWrite e.run.got (4096 * j)
            (placeRead s (ctxAt s (4 * cl) k).jobTag (placeOf a) 4096) } } :: (ctxAt s (4 * cl) k).thrQ.drop 1
      ∧ ∀ i, (coreAt t i).scratch = (coreAt s i).scratch := by
  have hstep : thrStep s cl k = tupdRun s cl k e := thrStep_head h
  rw [hstep, tupdRun_read hcove hbegun hmore hread hmoved]
  obtain ⟨ti, hu⟩ := feedRead_moved hhere hmoved
  set got := fun r : BundleRun =>
    { r with got := memWrite r.got (4096 * j) (placeRead s (ctxAt s (4 * cl) k).jobTag (placeOf a) 4096) }
  have hcounted := counted_countFeed (updBundle { s with tide := ti } cl k got) c 4096 true false
  rw [← hu] at hcounted
  have hlead : (ctxAt { s with tide := ti } (4 * cl) k).thrQ = e :: (ctxAt s (4 * cl) k).thrQ.drop 1 :=
    leadQueue_of_head (s := s) h
  have hqueue : (ctxAt u (4 * cl) k).thrQ = { e with run := got e.run } :: (ctxAt s (4 * cl) k).thrQ.drop 1 := by
    rw [hcounted.ctxAt, ctxAt_updBundle got hlead]
  refine ⟨_, rfl, ?_, ?_, ?_, fun i => ?_⟩
  · exact congrArg MemState.near hcounted.mem
  · exact congrArg MemState.hbm hcounted.mem
  · rw [ctxAt_updBundle _ hqueue]
  · rw [scratch_updBundle, hcounted.coreAt, scratch_updBundle]
    rfl

/-- Settles O19: each step of a TUPD changes the run at the head of the lead core's queue, or ends it, and what it adds is
read off the operation that it performs. -/
theorem squaresAndUpdates : Obligations.SquaresAndUpdates := by
  refine ⟨tssqAndTupdStarts, ?_⟩
  intro cl k c e s hcove _ h hbegun n
  refine ⟨fun hlast hlanded => tupd_ends hcove h hbegun hlast hlanded, fun hlast hlanding => ?_,
    fun hmore hread hawait hcomputed hsave hwrite => tupd_endsBundle hcove h hbegun hmore hread hawait hcomputed hsave hwrite,
    fun j rest u a hmore hread hhere hmoved => tupd_reads hcove h hbegun hmore hread hhere hmoved⟩
  have hstep : thrStep s cl k = tupdRun s cl k e := thrStep_head h
  rw [hstep, tupdRun_end hcove hbegun hlast, endTupd, if_pos hlanding]

end Sys2Proof.Proofs
end

section
/-!
PROOFS. The context switch of a cluster: what the outgoing context's save areas hold (R114, R115).
-/
namespace Sys2Proof.Proofs
open Sys2Proof Sys2Proof.Machine Sys2Proof.Laws Sys2Proof.Claim

variable {s t u : State} {core k cl c i : Nat}

/-! ### One unit of a walk -/

/-- What a unit reads after a walk is what its own step makes of a state that the walk reaches and where it reads as at the
start. -/
theorem forEach_at {β : Type} {p : State → Nat → β} {f : State → Nat → State} {R : State → State → Prop} {l : List Nat}
    {a : Nat} (refl : ∀ t, R t t) (trans : ∀ {a b c}, R a b → R b c → R a c) (step : ∀ t a, R t (f t a))
    (other : ∀ t a b, b ≠ a → p (f t a) b = p t b) (hl : l.Nodup) (ha : a ∈ l) :
    ∃ v, R s v ∧ p v a = p s a ∧ p (forEach s l f) a = p (f v a) a := by
  induction l generalizing s with
  | nil => cases ha
  | cons b l ih =>
    obtain ⟨hb, hl⟩ := List.nodup_cons.1 hl
    by_cases hab : a = b
    · subst hab
      exact ⟨s, refl s, rfl, forEach_same (p := fun t => p t a) fun t d hd => other t d a fun h => hb (h ▸ hd)⟩
    · obtain ⟨v, hreach, hsame, hlast⟩ := ih (s := f s b) hl ((List.mem_cons.1 ha).resolve_left hab)
      exact ⟨v, trans (step s b) hreach, hsame.trans (other s b a hab), hlast⟩

/-! ### The save image (R114) -/

/-- The context with the active buffer of its stream discarded (R116). -/
def streamless (x : Ctx) : Ctx := if x.matQ = [] then x else { x with stream := none }

theorem streamless_frame (x : Ctx) : ∃ st, streamless x = { x with stream := st } := by
  unfold streamless
  split <;> exact ⟨_, rfl⟩

theorem ctxAt_discardStream_own (s : State) (i k : Nat) : ctxAt (discardStream s i k) i k = streamless (ctxAt s i k) := by
  unfold streamless
  split
  · next hq =>
    simp only [discardStream, hq]
    cases (ctxAt s i k).stream <;> rfl
  · next hq => exact ctxAt_discardStream_self hq

theorem saveImage_congr (hctx : ctxAt t i k = ctxAt s i k) (hthresh : threshAt t (clusterOf i) k = threshAt s (clusterOf i) k) :
    saveImage t i k = saveImage s i k := by
  simp only [saveImage, saveThresher, hctx, hthresh]

theorem length_fitBytes (n : Nat) (l : List Byte) : (fitBytes n l).length = n := by simp [fitBytes]

theorem length_flatMap_const {α : Type} {g : α → List Byte} {n : Nat} (h : ∀ x, (g x).length = n) (l : List α) :
    (l.flatMap g).length = l.length * n := by
  simp [List.length_flatMap, h]

/-- A save image is 99 KiB (R114). -/
theorem length_saveImage (s : State) (core k : Nat) : (saveImage s core k).length = 101376 := by
  have hwords : ∀ (n : Nat) (g : Nat → Nat), ((List.range n).flatMap fun j => leOut 4 (g j)).length = n * 4 := fun n g => by
    rw [length_flatMap_const (fun j => length_leOut 4 (g j)), List.length_range]
  unfold saveImage saveSequencer saveQueues saveThresher saveFlags
  simp only [List.length_append, length_fitBytes, hwords]
  cases (ctxAt s core k).held with
  | none => simp only [List.length_replicate]
  | some h => simp only [List.length_append, hwords]

/-! ### The outgoing context (R115) -/

theorem coreAt_discardStream_other (s : State) (k : Nat) (h : i ≠ core) : coreAt (discardStream s core k) i = coreAt s i := by
  rcases discardStream_cases s core k with e | ⟨n, e⟩ <;> rw [e]
  rw [coreAt_updCtx_other _ _ _ h, coreAt_bumpCore]

theorem coreAt_switchOut_other (s : State) (k : Nat) (h : i ≠ core) : coreAt (switchOut s core k) i = coreAt s i := by
  unfold switchOut
  rw [coreAt_bumpCore, coreAt_updCtx_other _ _ _ h]
  unfold writeSave
  dsimp only
  split
  · exact coreAt_discardStream_other s k h
  · rw [coreAt_scratchWrite_other _ _ _ h, coreAt_discardStream_other s k h]

/-- The save area of the context takes its image (R114). -/
theorem scratch_switchOut (hmode : (ctxAt s core k).mode ≠ .empty) (hk : k < 4) :
    (coreAt (switchOut s core k) core).scratch =
      memWrite (coreAt s core).scratch (saveBase (ctxAt s core k)) (saveImage (discardStream s core k) core k) := by
  obtain ⟨-, hscratch, -⟩ := discardStream_outcome s core k
  obtain ⟨st, hstream⟩ := streamless_frame (ctxAt s core k)
  have hctx : ctxAt (discardStream s core k) core k = { ctxAt s core k with stream := st } :=
    (ctxAt_discardStream_own s core k).trans hstream
  unfold switchOut
  rw [coreAt_bumpCore, scratch_updCtx, writeSave, hctx, if_neg (by simp [hmode, hk]), scratch_scratchWrite, hscratch]
  rfl

theorem ctxAt_switchOut_other {j : Nat} (s : State) (core : Nat) (h : j ≠ k) (i : Nat) :
    ctxAt (switchOut s core k) i j = ctxAt s i j := by
  have hij : ¬ (i = core ∧ j = k) := fun h' => h h'.2
  obtain ⟨hothers, -⟩ := discardStream_outcome s core k
  unfold switchOut
  rw [ctxAt_bumpCore, otherCtxs_updCtx _ _ _ _ i j hij]
  unfold writeSave
  dsimp only
  split
  · exact hothers i j hij
  · rw [ctxAt_scratchWrite, hothers i j hij]

/-- A dropped bundle changes the run at the head of a queue alone (R123). -/
theorem ctxAt_dropBundle (s : State) (cl k i : Nat) : ∃ q, ctxAt (dropBundle s cl k) i k = { ctxAt s i k with thrQ := q } := by
  rcases dropBundle_cases s cl k with e | ⟨f, e⟩ <;> rw [e]
  · exact ⟨_, rfl⟩
  · by_cases h : i = 4 * cl
    · subst h
      exact ⟨_, ctxAt_updCtx ..⟩
    · exact ⟨_, otherCtxs_updCtx s (4 * cl) k _ i k fun h' => h h'.1⟩

theorem ctxAt_dropBundle_other {j : Nat} (s : State) (cl : Nat) (h : j ≠ k) (i : Nat) :
    ctxAt (dropBundle s cl k) i j = ctxAt s i j := by
  rcases dropBundle_cases s cl k with e | ⟨f, e⟩ <;> rw [e]
  exact otherCtxs_updCtx s (4 * cl) k _ i j fun h' => h h'.2

theorem CoresOnly.threshAt (h : CoresOnly s t) (cl k : Nat) : threshAt t cl k = threshAt s cl k := by
  obtain ⟨⟨co, tr, rfl⟩, -⟩ := h
  rfl

/-- Each core of the cluster holds the image of its outgoing context (R114, R115). -/
theorem leaveCluster_saves (howner : (clusterAt s cl).owner = some k) (hk : k < 4) (hi : clusterOf i = cl)
    (hmode : (ctxAt s i k).mode ≠ .empty) :
    memRead (coreAt (leaveCluster s cl) i).scratch (saveBase (ctxAt s i k)) 101376 =
      saveImage (discardStream (dropBundle s cl k) i k) i k := by
  obtain ⟨q, hdrop⟩ := ctxAt_dropBundle s cl k i
  obtain ⟨v, hreach, hsame, hlast⟩ := forEach_at (s := dropBundle s cl k) (p := fun t i => coreAt t i) (R := CoresOnly)
    (f := fun s i => switchOut s i k) .refl .trans (fun t a => coresOnly_switchOut t a k)
    (fun t a b h => coreAt_switchOut_other t k h) (nodup_clusterCores cl) (mem_clusterCores.2 hi)
  have hctx : ctxAt v i k = { ctxAt s i k with thrQ := q } := by
    rw [← hdrop, ctxAt, hsame, ctxAt]
  have himage : saveImage (discardStream v i k) i k = saveImage (discardStream (dropBundle s cl k) i k) i k := by
    refine saveImage_congr ?_ ?_
    · rw [ctxAt_discardStream_own, ctxAt_discardStream_own, hctx, hdrop]
    · rw [(coresOnly_discardStream ..).threshAt, (coresOnly_discardStream ..).threshAt, hreach.threshAt]
  have hleave : coreAt (leaveCluster s cl) i = coreAt (switchOut v i k) i := by
    rw [leaveCluster, howner]
    exact hlast
  have hmode' : (ctxAt v i k).mode ≠ .empty := by rw [hctx]; exact hmode
  have hbase : saveBase (ctxAt v i k) = saveBase (ctxAt s i k) := by rw [hctx]; rfl
  rw [hleave, scratch_switchOut hmode' hk, himage, hbase,
    ← length_saveImage (discardStream (dropBundle s cl k) i k) i k, memRead_memWrite]

end Sys2Proof.Proofs
end

section
/-!
PROOFS. The incoming context of a cluster (R115, R118), and the context switch.
-/
namespace Sys2Proof.Proofs
open Sys2Proof Sys2Proof.Machine Sys2Proof.Laws Sys2Proof.Claim

variable {s t u : State} {core k cl c i : Nat}

/-! ### What a core's step keeps -/

/-- A step of one core leaves the other cores, every scratchpad, the memories and the clusters. -/
structure InStep (s t : State) (core : Nat) : Prop where
  mem : t.mem = s.mem
  clusters : t.clusters = s.clusters
  others : ∀ i, i ≠ core → coreAt t i = coreAt s i
  scratch : ∀ i, (coreAt t i).scratch = (coreAt s i).scratch

theorem InStep.trans (h : InStep s t core) (h' : InStep t u core) : InStep s u core where
  mem := h'.mem.trans h.mem
  clusters := h'.clusters.trans h.clusters
  others i hi := (h'.others i hi).trans (h.others i hi)
  scratch i := (h'.scratch i).trans (h.scratch i)

theorem InStep.of_cores (hcores : t.cores = s.cores) (hmem : t.mem = s.mem) (hclusters : t.clusters = s.clusters) :
    InStep s t core where
  mem := hmem
  clusters := hclusters
  others _ _ := by simp only [coreAt, hcores]
  scratch _ := by simp only [coreAt, hcores]

theorem InStep.refl (s : State) (core : Nat) : InStep s s core := .of_cores rfl rfl rfl

theorem inStep_updCtx (s : State) (core k : Nat) (f : Ctx → Ctx) : InStep s (updCtx s core k f) core where
  mem := rfl
  clusters := rfl
  others _ hi := coreAt_updCtx_other _ _ _ hi
  scratch _ := scratch_updCtx ..

theorem InStep.thenIte {p : Prop} [Decidable p] (h : InStep s t core) (h' : InStep t u core) :
    InStep s (if p then u else t) core := by
  split
  · exact h.trans h'
  · exact h

theorem Traced.inStep (h : Traced s t ∧ t.cores = s.cores) : InStep s t core :=
  .of_cores h.2 (by rw [h.1.frame]) (by rw [h.1.frame])

theorem Counted.inStep (h : Counted s t) : InStep s t core := .of_cores h.cores h.mem h.clusters

theorem FaultOnly.inStep (h : FaultOnly s t) : InStep s t core := by
  have hframe := h.frame
  exact .of_cores (by rw [hframe]) (by rw [hframe]) (by rw [hframe])

theorem inStep_record (s : State) (core a v c r d) : InStep s (record s a v c r d) core :=
  .of_cores (record_cores ..) (record_mem ..) (record_clusters ..)

/-! ### Words with errors (R118) -/

theorem correctedWord_keeps (s : State) (core : Nat) : let t := correctedWord s core
    t.cores = s.cores ∧ t.mem = s.mem ∧ t.clusters = s.clusters ∧ t.coves = s.coves := by
  refine ⟨?_, ?_, ?_, ?_⟩
  · rw [correctedWord, updLedger_cores, wearAdd_cores, record_cores]
  · rw [correctedWord, updLedger_mem, wearAdd_mem, record_mem]
  · rw [correctedWord, updLedger_clusters, wearAdd_clusters, record_clusters]
  · rw [correctedWord, updLedger_coves, wearAdd_coves, record_coves]

theorem inStep_correctedWord (s : State) (core : Nat) : InStep s (correctedWord s core) core := by
  obtain ⟨hcores, hmem, hclusters, -⟩ := correctedWord_keeps s core
  exact .of_cores hcores hmem hclusters

/-- Event 0x4011 and its count in the die's ledger. -/
def errorNoted (s : State) (core storage : Nat) : State :=
  updLedger (record s 0x4011 (if storage = 0 then .stepContained else .coveFatal) (coveNum (coveOfCore s core)) core [])
    (dieOf core) fun r => { r with uncorrectable := satTo 32 (r.uncorrectable + 1) }

/-- What an uncorrectable word does to its cove: a discard for the scratchpad, and cove-fatal elsewhere (R118). -/
def errorAnswered (s : State) (c : Option Nat) (storage : Nat) : State :=
  match c with
  | none => s
  | some v => if storage = 0 then discardStep s v 7 none else coveFatal s v 4

theorem uncorrectableWord_eq (s : State) (core storage : Nat) :
    uncorrectableWord s core storage = errorAnswered (errorNoted s core storage) (coveOfCore s core) storage := rfl

theorem errorNoted_keeps (s : State) (core storage : Nat) : let t := errorNoted s core storage
    t.cores = s.cores ∧ t.mem = s.mem ∧ t.clusters = s.clusters ∧ t.coves = s.coves := by
  refine ⟨?_, ?_, ?_, ?_⟩
  · rw [errorNoted, updLedger_cores, record_cores]
  · rw [errorNoted, updLedger_mem, record_mem]
  · rw [errorNoted, updLedger_clusters, record_clusters]
  · rw [errorNoted, updLedger_coves, record_coves]

/-- An uncorrectable word of a save area is cove-fatal (R115, R118). -/
theorem inStep_uncorrectableImage (s : State) (core : Nat) : InStep s (uncorrectableWord s core 4) core := by
  obtain ⟨hcores, hmem, hclusters, -⟩ := errorNoted_keeps s core 4
  rw [uncorrectableWord_eq]
  refine .trans (.of_cores hcores hmem hclusters) ?_
  unfold errorAnswered
  split
  · exact .refl _ core
  · rw [if_neg (by decide)]
    exact (faultOnly_coveFatal ..).inStep

theorem inStep_readImage (s : State) (core lo hi : Nat) : InStep s (readStorage s core 0 4 lo hi).2 core := by
  unfold readStorage
  dsimp only
  split
  · exact inStep_uncorrectableImage ..
  · exact forEach_rel (R := fun s t => InStep s t core) (fun t => .refl t core) .trans fun t _ _ => inStep_correctedWord t core

/-! ### The incoming context (R115) -/

theorem inStep_switchIn (s : State) (core k : Nat) : InStep s (switchIn s core k) core := by
  unfold switchIn
  dsimp only
  split
  · exact .refl s core
  · split
    · exact (inStep_readImage ..).trans (inStep_updCtx ..)
    · exact inStep_readImage ..

theorem inStep_endWait (s : State) (core k : Nat) : InStep s (endWait s core k) core := by
  unfold endWait
  split
  · exact .refl s core
  · exact (Traced.inStep (traced_traceSync ..)).trans (inStep_updCtx ..)

theorem inStep_settleWait (s : State) (core k : Nat) : InStep s (settleWait s core k) core := by
  unfold settleWait
  split
  · exact .refl s core
  · split
    · exact inStep_endWait ..
    · exact .refl s core

theorem inStep_endSlots (s : State) (core k : Nat) (r : RoutineCall) (rd l : Nat) (round2 gather late : Bool)
    (expected mask : Nat) : InStep s (endSlots s core k r rd l round2 gather late expected mask) core := by
  unfold endSlots
  exact (Traced.inStep (traced_traceWait ..)).trans (inStep_updCtx ..)

theorem inStep_callFails (s : State) (core code key : Nat) : InStep s (callFails s core code key) core := by
  unfold callFails
  split
  · exact (inStep_record s core _ _ _ _ _).trans (.of_cores rfl rfl rfl)
  · exact .refl s core

theorem inStep_settleSlots (s : State) (core k : Nat) : InStep s (settleSlots s core k) core := by
  unfold settleSlots
  extract_lets x now forced
  split
  · split
    · exact .refl s core
    · extract_lets gather voted target noRecord isLate
      clear_value gather voted target noRecord isLate
      split
      · exact .refl s core
      · extract_lets missing
        split
        · exact .trans (.thenIte (.thenIte (.refl s core) (inStep_updCtx ..)) (counted_bumpCoveSet ..).inStep)
            (inStep_endSlots ..)
        · split
          · exact (inStep_callFails ..).trans (inStep_endSlots ..)
          · split
            · exact inStep_updCtx ..
            · exact .refl s core
  · exact .refl s core

/-- The incoming context of a core runs from its image, and its wait goes on (R115, R158). -/
def enterCore (k : Nat) (s : State) (core : Nat) : State := settleSlots (settleWait (switchIn s core k) core k) core k

theorem inStep_enterCore (s : State) (core k : Nat) : InStep s (enterCore k s core) core :=
  ((inStep_switchIn ..).trans (inStep_settleWait ..)).trans (inStep_settleSlots ..)

theorem wait_loadImage (x : Ctx) (m : Memory) : (loadImage x m).wait = x.wait := by
  unfold loadImage
  dsimp only

/-- A context that waits for nothing, with a save area that holds no bit error, takes its image and goes on. -/
theorem ctxAt_enterCore (hk : k < 4) (hmode : (ctxAt s core k).mode ≠ .empty) (hwait : (ctxAt s core k).wait = none)
    (hclean : upsetsIn (coreAt s core) 0 (saveBase (ctxAt s core k) / 8) ((saveBase (ctxAt s core k) + 101376) / 8) = []) :
    ctxAt (enterCore k s core) core k = loadImage (ctxAt s core k) (coreAt s core).scratch := by
  have hin : switchIn s core k = updCtx s core k fun x => loadImage x (coreAt s core).scratch := by
    unfold switchIn
    simp only [readStorage_clean hclean]
    rw [if_neg (by simp [hmode, hk]), if_pos trivial]
  have hload : ctxAt (switchIn s core k) core k = loadImage (ctxAt s core k) (coreAt s core).scratch := by
    rw [hin, ctxAt_updCtx]
  have hwait' : (ctxAt (switchIn s core k) core k).wait = none := by
    rw [hload, wait_loadImage, hwait]
  have hsettled : settleWait (switchIn s core k) core k = switchIn s core k := by simp only [settleWait, hwait']
  have hslots : settleSlots (switchIn s core k) core k = switchIn s core k := by simp only [settleSlots, hwait']
  rw [enterCore, hsettled, hslots, hload]

theorem enterCluster_eq (hk : k ≠ 4) (s : State) (cl : Nat) :
    enterCluster s cl k = forEach s ((List.range 4).map (4 * cl + ·)) (enterCore k) := by
  unfold enterCluster
  rw [if_neg hk]
  rfl

theorem enterCluster_scratch (hk : k ≠ 4) (s : State) (cl i : Nat) :
    (coreAt (enterCluster s cl k) i).scratch = (coreAt s i).scratch := by
  rw [enterCluster_eq hk]
  exact forEach_same (p := fun t => (coreAt t i).scratch) fun t a _ => (inStep_enterCore t a k).scratch i

/-- The incoming context of each core of the cluster takes its image (R115). -/
theorem enterCluster_loads (hk : k < 4) (hi : clusterOf i = cl) (hmode : (ctxAt s i k).mode ≠ .empty)
    (hwait : (ctxAt s i k).wait = none)
    (hclean : upsetsIn (coreAt s i) 0 (saveBase (ctxAt s i k) / 8) ((saveBase (ctxAt s i k) + 101376) / 8) = []) :
    ctxAt (enterCluster s cl k) i k = loadImage (ctxAt s i k) (coreAt s i).scratch := by
  obtain ⟨v, -, hsame, hlast⟩ := forEach_at (s := s) (p := fun t i => coreAt t i) (R := fun _ _ => True) (f := enterCore k)
    (fun _ => trivial) (fun _ _ => trivial) (fun _ _ => trivial) (fun t a b h => (inStep_enterCore t a k).others b h)
    (nodup_clusterCores cl) (mem_clusterCores.2 hi)
  have hctx : ctxAt v i k = ctxAt s i k := by rw [ctxAt, ctxAt, hsame]
  have hself : ctxAt (enterCluster s cl k) i k = ctxAt (enterCore k v i) i k := by
    rw [enterCluster_eq (by omega), ctxAt, hlast, ctxAt]
  rw [hself, ctxAt_enterCore hk (hctx ▸ hmode) (hctx ▸ hwait) (by rw [hsame, hctx]; exact hclean), hctx, hsame]

/-- Memories and clusters stay. -/
def MemoriesKept (s t : State) : Prop := t.mem = s.mem ∧ t.clusters = s.clusters

theorem MemoriesKept.trans (h : MemoriesKept s t) (h' : MemoriesKept t u) : MemoriesKept s u :=
  ⟨h'.1.trans h.1, h'.2.trans h.2⟩

theorem memoriesKept_startChaff (s : State) (core : Nat) : MemoriesKept s (startChaff s core) := by
  unfold startChaff
  dsimp only
  split
  · exact ⟨rfl, rfl⟩
  · split <;> exact ⟨rfl, rfl⟩

theorem memoriesKept_enterCluster (s : State) (cl k : Nat) : MemoriesKept s (enterCluster s cl k) := by
  by_cases hk : k = 4
  · unfold enterCluster
    rw [if_pos hk]
    exact forEach_rel (R := MemoriesKept) (fun _ => ⟨rfl, rfl⟩) .trans fun t a _ => memoriesKept_startChaff t a
  · rw [enterCluster_eq hk]
    exact forEach_rel (R := MemoriesKept) (fun _ => ⟨rfl, rfl⟩) .trans fun t a _ =>
      ⟨(inStep_enterCore t a k).mem, (inStep_enterCore t a k).clusters⟩

/-! ### What a cluster's outgoing context leaves to the incoming one -/

theorem leaveCluster_other {j : Nat} (howner : (clusterAt s cl).owner ≠ some j) (i : Nat) :
    ctxAt (leaveCluster s cl) i j = ctxAt s i j := by
  unfold leaveCluster
  split
  · next k hk =>
    have hj : j ≠ k := fun h => howner (h ▸ hk)
    exact (forEach_same (p := fun t => ctxAt t i j) fun t a _ => ctxAt_switchOut_other t a hj i).trans
      (ctxAt_dropBundle_other s cl hj i)
  · rfl

/-- Only words that are rewritten whole lose their errors (R118). -/
structure FewerUpsets (s t : State) : Prop where
  subset : ∀ i, (coreAt t i).upsets ⊆ (coreAt s i).upsets

theorem FewerUpsets.trans (h : FewerUpsets s t) (h' : FewerUpsets t u) : FewerUpsets s u :=
  ⟨fun i => List.Subset.trans (h'.subset i) (h.subset i)⟩

theorem fewerUpsets_of_cores (h : t.cores = s.cores) : FewerUpsets s t :=
  ⟨fun i => by simp only [coreAt, h, List.Subset.refl]⟩

theorem FewerUpsets.refl (s : State) : FewerUpsets s s := fewerUpsets_of_cores rfl

theorem fewerUpsets_updCore {f : CoreState → CoreState} (h : ∀ x, (f x).upsets ⊆ x.upsets) (s : State) (core : Nat) :
    FewerUpsets s (updCore s core f) := by
  refine ⟨fun i => ?_⟩
  by_cases hi : i = core
  · rw [hi, coreAt_updCore]
    exact h _
  · rw [coreAt_updCore_other _ _ _ _ hi]
    exact List.Subset.refl _

theorem fewerUpsets_updCtx (s : State) (core k : Nat) (f : Ctx → Ctx) : FewerUpsets s (updCtx s core k f) := by
  unfold updCtx
  refine fewerUpsets_updCore ?_ s core
  exact fun x => List.Subset.refl _

theorem fewerUpsets_scratchWrite (s : State) (core a : Nat) (bs : List Byte) : FewerUpsets s (scratchWrite s core a bs) := by
  refine fewerUpsets_updCore ?_ s core
  exact fun x => List.filter_subset_self _

theorem fewerUpsets_bumpCore (s : State) (core n a : Nat) : FewerUpsets s (bumpCore s core n a) :=
  fewerUpsets_of_cores (bumpCore_cores ..)

theorem fewerUpsets_discardStream (s : State) (core k : Nat) : FewerUpsets s (discardStream s core k) := by
  rcases discardStream_cases s core k with e | ⟨n, e⟩ <;> rw [e]
  · exact .refl s
  · exact (fewerUpsets_bumpCore ..).trans (fewerUpsets_updCtx ..)

theorem fewerUpsets_switchOut (s : State) (core k : Nat) : FewerUpsets s (switchOut s core k) := by
  have hsave : FewerUpsets s (writeSave (discardStream s core k) core k) := by
    unfold writeSave
    dsimp only
    split
    · exact fewerUpsets_discardStream ..
    · exact (fewerUpsets_discardStream ..).trans (fewerUpsets_scratchWrite ..)
  exact (hsave.trans (fewerUpsets_updCtx ..)).trans (fewerUpsets_bumpCore ..)

theorem fewerUpsets_dropBundle (s : State) (cl k : Nat) : FewerUpsets s (dropBundle s cl k) := by
  rcases dropBundle_cases s cl k with e | ⟨f, e⟩ <;> rw [e]
  · exact .refl s
  · exact fewerUpsets_updCtx ..

theorem fewerUpsets_leaveCluster (s : State) (cl : Nat) : FewerUpsets s (leaveCluster s cl) := by
  unfold leaveCluster
  split
  · next k _ =>
    exact (fewerUpsets_dropBundle s cl k).trans
      (forEach_rel (R := FewerUpsets) .refl .trans fun t a _ => fewerUpsets_switchOut t a k)
  · exact .refl s

theorem upsetsIn_of_fewer {st lo hi : Nat} (h : FewerUpsets s t) (hclean : upsetsIn (coreAt s i) st lo hi = []) :
    upsetsIn (coreAt t i) st lo hi = [] := by
  unfold upsetsIn at *
  rw [List.filter_eq_nil_iff] at *
  exact fun e he => hclean e (h.subset i he)

/-! ### The switch -/

/-- The cluster between the two contexts: its outgoing one is saved, and it belongs to the incoming one. -/
def handedOver (s : State) (cl : Nat) (next : Option Nat) : State :=
  updCluster (leaveCluster s cl) cl fun c => { c with owner := next, switchTick := s.tide.now }

/-- What enters a cluster that an owner has. -/
def entered (s : State) (cl : Nat) (next : Option Nat) : State :=
  match next with
  | some k => enterCluster s cl k
  | none => s

theorem changeOwner_eq {next : Option Nat} (h : (clusterAt s cl).owner ≠ next) :
    changeOwner s cl next = entered (handedOver s cl next) cl next := by
  unfold changeOwner
  rw [if_neg h]
  rfl

theorem memoriesKept_entered (s : State) (cl : Nat) (next : Option Nat) : MemoriesKept s (entered s cl next) := by
  cases next with
  | none => exact ⟨rfl, rfl⟩
  | some k => exact memoriesKept_enterCluster s cl k

theorem entered_scratch {next : Option Nat} (h : next ≠ some 4) (s : State) (cl i : Nat) :
    (coreAt (entered s cl next) i).scratch = (coreAt s i).scratch := by
  cases next with
  | none => rfl
  | some k => exact enterCluster_scratch (fun hk => h (hk ▸ rfl)) s cl i

theorem handedOver_outcome (s : State) (cl : Nat) (next : Option Nat) : let t := handedOver s cl next
    (clusterAt t cl).owner = next ∧ (clusterAt t cl).switchTick = s.tide.now
      ∧ (∀ j, j ≠ cl → clusterAt t j = clusterAt s j) ∧ t.mem = s.mem ∧ t.cores = (leaveCluster s cl).cores := by
  obtain ⟨⟨co, tr, e⟩, -⟩ := coresOnly_leaveCluster s cl
  intro t
  refine ⟨by simp only [t, handedOver, clusterAt_updCluster], by simp only [t, handedOver, clusterAt_updCluster],
    fun j hj => ?_, ?_, rfl⟩
  · simp only [t, handedOver, clusterAt_updCluster_other _ _ _ _ hj, e]
    rfl
  · simp only [t, handedOver, e]
    rfl

/-- The switch of a cluster whose table names another owner (R114, R115). -/
theorem contextSwitch_outcome (hother : (clusterAt s cl).owner ≠ ownerNow s cl) : ∃ t, exec (.contextSwitch cl) s = .next t
    ∧ (clusterAt t cl).owner = ownerNow s cl ∧ (clusterAt t cl).switchTick = s.tide.now
    ∧ (∀ j, j ≠ cl → clusterAt t j = clusterAt s j) ∧ t.mem = s.mem
    ∧ (∀ k i, (clusterAt s cl).owner = some k → k < 4 → i / 4 = cl → ownerNow s cl ≠ some 4 →
        (ctxAt s i k).mode ≠ .empty →
        memRead (coreAt t i).scratch (saveBase (ctxAt s i k)) 101376
          = saveImage (discardStream (dropBundle s cl k) i k) i k)
    ∧ (∀ k i, ownerNow s cl = some k → k < 4 → i / 4 = cl → (ctxAt s i k).mode ≠ .empty →
        (ctxAt s i k).wait = none →
        upsetsIn (coreAt s i) 0 (saveBase (ctxAt s i k) / 8) ((saveBase (ctxAt s i k) + 101376) / 8) = [] →
        ctxAt t i k = loadImage (ctxAt s i k) (coreAt t i).scratch) := by
  obtain ⟨howner, htick, hclusters, hmem, hcores⟩ := handedOver_outcome s cl (ownerNow s cl)
  set v := handedOver s cl (ownerNow s cl)
  have hexec : exec (.contextSwitch cl) s = .next (entered v cl (ownerNow s cl)) :=
    congrArg Host.Outcome.next (changeOwner_eq hother)
  obtain ⟨hmem', hclusters'⟩ := memoriesKept_entered v cl (ownerNow s cl)
  have hcluster : ∀ j, clusterAt (entered v cl (ownerNow s cl)) j = clusterAt v j := fun j => by
    rw [clusterAt, hclusters', clusterAt]
  have hcore : ∀ i, coreAt v i = coreAt (leaveCluster s cl) i := fun i => by rw [coreAt, hcores, coreAt]
  refine ⟨_, hexec, by rw [hcluster, howner], by rw [hcluster, htick], fun j hj => by rw [hcluster, hclusters j hj],
    hmem'.trans hmem, fun k i hout hk hi hin hmode => ?_, fun k i hin hk hi hmode hwait hclean => ?_⟩
  · rw [entered_scratch hin, hcore]
    exact leaveCluster_saves hout hk hi hmode
  · have hctx : ctxAt v i k = ctxAt s i k := by
      rw [ctxAt, hcore]
      exact leaveCluster_other (fun h => hother (h.trans hin.symm)) i
    have hclean' : upsetsIn (coreAt v i) 0 (saveBase (ctxAt s i k) / 8) ((saveBase (ctxAt s i k) + 101376) / 8) = [] := by
      rw [hcore]
      exact upsetsIn_of_fewer (fewerUpsets_leaveCluster s cl) hclean
    rw [hin, entered, enterCluster_scratch (by omega)]
    rw [← hctx] at hmode hwait hclean' ⊢
    exact enterCluster_loads hk hi hmode hwait hclean'

end Sys2Proof.Proofs
end

section
/-!
PROOFS. The scrub of a die's core memories (R118), and the statement of the context switch and the scrub.
-/
namespace Sys2Proof.Proofs
open Sys2Proof Sys2Proof.Machine Sys2Proof.Laws Sys2Proof.Claim

variable {s t u w : State} {core a c die i store word : Nat}

/-! ### A discard rewrites no word with an error -/

theorem restorePiece_cores (s : State) (c a : Nat) (l : List Byte) : (restorePiece s c a l).cores = s.cores := by
  unfold restorePiece
  split
  · obtain ⟨m, e⟩ := hbmStore_eq s (a % 2 ^ 44) l
    rw [e]
  · rw [queueOut_cores]

theorem restoreBundle_cores (c : Nat) (s : State) (b : UndoBundle) : (restoreBundle c s b).cores = s.cores :=
  forEach_same State.cores fun t p _ => restorePiece_cores t c p.1 _

theorem holdCove_cores (s : State) (c hcause cause : Nat) : (holdCove s c hcause cause).cores = s.cores := by
  rw [holdCove, recordCove_cores, updCoveTide_cores, updCove_cores]

theorem undoOrTear_cores (s : State) (c : Nat) : (undoOrTear s c).cores = s.cores := by
  unfold undoOrTear
  dsimp only
  split
  · rfl
  · split
    · rw [recordCove_cores, updCkpt_cores]
      exact forEach_same State.cores fun t b _ => restoreBundle_cores c t b
    · rw [recordCove_cores]
      split
      · rw [updCkpt_cores]
      · rw [holdCove_cores, updCkpt_cores]

theorem fewerUpsets_resetContexts (s : State) (c : Nat) : FewerUpsets s (resetContexts s c 0) := by
  have hcores : FewerUpsets s (forEach s (coresOf (coveAt s c)) fun s i => updCtx (discardStream s i 0) i 0 resetContext) :=
    forEach_rel (R := FewerUpsets) .refl .trans fun t i _ => (fewerUpsets_discardStream t i 0).trans (fewerUpsets_updCtx ..)
  unfold resetContexts
  dsimp only
  rw [if_pos rfl]
  exact hcores.trans (fewerUpsets_of_cores (forEach_same State.cores fun _ _ _ => updThresh_cores ..))

theorem fewerUpsets_discardNoticed (s : State) (c cause : Nat) : FewerUpsets s (discardNoticed s c cause) := by
  refine (fewerUpsets_resetContexts s c).trans (fewerUpsets_of_cores ?_)
  unfold discardNoticed
  dsimp only
  rw [forEach_same State.cores fun _ _ _ => queueOut_cores .., bumpCoveSet_cores, recordCove_cores,
    (figures_writeStepRecord ..).frame]

theorem fewerUpsets_discardAwaits (s : State) (c cause : Nat) (key : Option Nat) (d : Tick) :
    FewerUpsets s (discardAwaits s c cause key d) := by
  refine .trans (t := forEach (updCove s c (discardedCove cause key))
    (coresOf (coveAt (updCove s c (discardedCove cause key)) c)) _) ?_ (fewerUpsets_of_cores rfl)
  refine (fewerUpsets_of_cores (updCove_cores ..)).trans (forEach_rel (R := FewerUpsets) .refl .trans fun t i _ => ?_)
  refine fewerUpsets_updCore ?_ t i
  exact fun x => List.Subset.refl _

theorem fewerUpsets_discardNow (s : State) (c cause : Nat) (key : Option Nat) : FewerUpsets s (discardNow s c cause key) := by
  rw [discardNow_eq]
  exact ((fewerUpsets_discardNoticed ..).trans (fewerUpsets_discardAwaits ..)).trans
    (fewerUpsets_of_cores (undoOrTear_cores ..))

theorem fewerUpsets_coveFatal (s : State) (c cause : Nat) : FewerUpsets s (coveFatal s c cause) :=
  fewerUpsets_of_cores (by rw [(faultOnly_coveFatal s c cause).frame])

theorem fewerUpsets_discardStep (s : State) (c cause : Nat) (key : Option Nat) : FewerUpsets s (discardStep s c cause key) := by
  have hnow := fewerUpsets_discardNow s c cause key
  unfold discardStep
  dsimp only
  split
  · exact .refl s
  · split
    · exact .refl s
    · split
      · exact fewerUpsets_of_cores (updCove_cores ..)
      · split
        · exact fewerUpsets_coveFatal ..
        · split
          · exact hnow.trans (fewerUpsets_coveFatal ..)
          · split
            · exact hnow.trans (fewerUpsets_coveFatal ..)
            · exact hnow

theorem fewerUpsets_errorAnswered (s : State) (c : Option Nat) (store : Nat) : FewerUpsets s (errorAnswered s c store) := by
  unfold errorAnswered
  split
  · exact .refl s
  · split
    · exact fewerUpsets_discardStep ..
    · exact fewerUpsets_coveFatal ..

theorem fewerUpsets_uncorrectableWord (s : State) (core store : Nat) : FewerUpsets s (uncorrectableWord s core store) := by
  rw [uncorrectableWord_eq]
  exact (fewerUpsets_of_cores (errorNoted_keeps s core store).1).trans (fewerUpsets_errorAnswered ..)

/-! ### The scrub of one core -/

/-- A core whose corrected words have been rewritten; the uncorrectable ones stay. -/
def rewritten (s : State) (core : Nat) : State :=
  updCore s core fun c => { c with upsets := c.upsets.filter fun u => u.2.2 || decide (2 < u.1) }

theorem fewerUpsets_scrubCore (s : State) (core : Nat) : FewerUpsets s (scrubCore s core) := by
  have hrewritten : FewerUpsets s (rewritten s core) := by
    refine fewerUpsets_updCore ?_ s core
    exact fun x => List.filter_subset_self _
  refine hrewritten.trans (forEach_rel (R := FewerUpsets) .refl .trans fun t e _ => ?_)
  split
  · exact fewerUpsets_uncorrectableWord ..
  · exact fewerUpsets_of_cores (correctedWord_keeps t core).1

theorem scrubCore_corrected (h : (coreAt s core).upsets = [(store, word, false)]) (hstore : store < 3) :
    scrubCore s core = correctedWord (rewritten s core) core := by
  have hfound : scrubFinds (coreAt s core) = [(store, word, false)] := by
    simp [scrubFinds, h, show store ≤ 2 by omega]
  unfold scrubCore
  rw [hfound]
  rfl

theorem scrubCore_uncorrectable (h : (coreAt s core).upsets = [(store, word, true)]) (hstore : store < 3) :
    scrubCore s core = uncorrectableWord (rewritten s core) core store := by
  have hfound : scrubFinds (coreAt s core) = [(store, word, true)] := by
    simp [scrubFinds, h, show store ≤ 2 by omega]
  unfold scrubCore
  rw [hfound]
  rfl

/-! ### The scrub of a die with one error -/

/-- Every core reads the same, and nothing else differs. -/
structure SameCores (s t : State) : Prop where
  frame : t = { s with cores := t.cores }
  same : ∀ j, coreAt t j = coreAt s j

theorem SameCores.refl (s : State) : SameCores s s := ⟨rfl, fun _ => rfl⟩

theorem SameCores.trans (h : SameCores s t) (h' : SameCores t u) : SameCores s u where
  frame := h'.frame.trans (congrArg (fun x : State => { x with cores := u.cores }) h.frame)
  same j := (h'.same j).trans (h.same j)

theorem sameCores_scrubCore (h : (coreAt s core).upsets = []) : SameCores s (scrubCore s core) := by
  have hfound : scrubFinds (coreAt s core) = [] := by rw [scrubFinds, h, List.filter_nil]
  have hscrub : scrubCore s core = rewritten s core := by
    unfold scrubCore
    rw [hfound]
    rfl
  rw [hscrub]
  refine ⟨rfl, fun j => ?_⟩
  by_cases hj : j = core
  · rw [hj, rewritten, coreAt_updCore, h, List.filter_nil, ← h]
  · rw [rewritten, coreAt_updCore_other _ _ _ _ hj]

theorem sameCores_scrubCores {l : List Nat} (h : ∀ j ∈ l, (coreAt s j).upsets = []) :
    SameCores s (forEach s l scrubCore) := by
  induction l generalizing s with
  | nil => exact .refl s
  | cons b l ih =>
    have hb : SameCores s (scrubCore s b) := sameCores_scrubCore (h b (List.mem_cons_self ..))
    refine hb.trans (ih fun j hj => ?_)
    rw [hb.same, h j (List.mem_cons_of_mem _ hj)]

/-- The scrub of one core among clean ones: the others change nothing that is read. -/
theorem scrubCores_at {l : List Nat} (hl : l.Nodup) (ha : a ∈ l) (hclean : ∀ j, j ∈ l → j ≠ a → (coreAt s j).upsets = []) :
    ∃ w, SameCores s w ∧ SameCores (scrubCore w a) (forEach s l scrubCore) := by
  obtain ⟨front, rest, rfl⟩ := List.append_of_mem ha
  obtain ⟨-, hnodup, hdisjoint⟩ := List.nodup_append.1 hl
  have hfront : SameCores s (forEach s front scrubCore) :=
    sameCores_scrubCores fun j hj => hclean j (by simp [hj]) (hdisjoint j hj a (List.mem_cons_self ..))
  have hwalk : forEach s (front ++ a :: rest) scrubCore
      = forEach (scrubCore (forEach s front scrubCore) a) rest scrubCore := List.foldl_append
  refine ⟨_, hfront, hwalk ▸ sameCores_scrubCores fun j hj => ?_⟩
  have hja : j ≠ a := fun h => (List.nodup_cons.1 hnodup).1 (h ▸ hj)
  have hsub := (fewerUpsets_scrubCore (forEach s front scrubCore) a).subset j
  rw [hfront.same, hclean j (by simp [hj]) hja] at hsub
  exact List.subset_nil.1 hsub

/-- A die with one more error, as its scrub meets it. -/
def upsetDie (s : State) (die : Nat) (e : Nat × Nat × Nat × Bool) : State :=
  { addUpset s die e with
    health := { s.health with dutyDone := Sparse.set 0 s.health.dutyDone (16 * die + 2) s.tide.now } }

theorem coreAt_upsetDie (s : State) (die : Nat) (e : Nat × Nat × Nat × Bool) :
    coreAt (upsetDie s die e) (16 * die + e.1 % 16) =
      { coreAt s (16 * die + e.1 % 16) with upsets := (coreAt s (16 * die + e.1 % 16)).upsets ++ [e.2] } := by
  have h := coreAt_updCore (s := s) (16 * die + e.1 % 16) fun c => { c with upsets := c.upsets ++ [e.2] }
  exact h

theorem coreAt_upsetDie_other {e : Nat × Nat × Nat × Bool} {j : Nat} (h : j ≠ 16 * die + e.1 % 16) :
    coreAt (upsetDie s die e) j = coreAt s j := by
  have h := coreAt_updCore_other (s := s) (16 * die + e.1 % 16) (fun c => { c with upsets := c.upsets ++ [e.2] }) j h
  exact h

/-- A clean die but for one word: the scrub is that of its core. -/
theorem scrubDie_at {b : Bool} (hi : i < 16) (hclean : ∀ j, j < 16 → (coreAt s (16 * die + j)).upsets = []) :
    ∃ w, w = { s with cores := w.cores, health := (upsetDie s die (i, store, word, b)).health }
      ∧ coreAt w (16 * die + i) = { coreAt s (16 * die + i) with upsets := [(store, word, b)] }
      ∧ (∀ j, j ≠ 16 * die + i → coreAt w j = coreAt s j)
      ∧ SameCores (scrubCore w (16 * die + i))
          (forEach (upsetDie s die (i, store, word, b)) ((List.range 16).map (16 * die + ·)) scrubCore) := by
  obtain ⟨v, hv⟩ : ∃ v, v = upsetDie s die (i, store, word, b) := ⟨_, rfl⟩
  have hadded : v = { s with cores := v.cores, health := v.health } := by rw [hv]; rfl
  have hself : coreAt v (16 * die + i) = { coreAt s (16 * die + i) with upsets := [(store, word, b)] } := by
    have hadd := coreAt_upsetDie s die (i, store, word, b)
    rwa [Nat.mod_eq_of_lt hi, hclean i hi, List.nil_append, ← hv] at hadd
  have hother : ∀ j, j ≠ 16 * die + i → coreAt v j = coreAt s j := fun j hj => by
    rw [hv]
    exact coreAt_upsetDie_other (by rwa [Nat.mod_eq_of_lt hi])
  rw [← hv]
  obtain ⟨w, hsame, hrest⟩ := scrubCores_at (s := v) (a := 16 * die + i) (l := (List.range 16).map (16 * die + ·))
    (List.Nodup.map (add_right_injective _) List.nodup_range)
    (List.mem_map.2 ⟨i, List.mem_range.2 hi, rfl⟩) (by
      intro j hj hja
      obtain ⟨m, hm, rfl⟩ := List.mem_map.1 hj
      rw [hother _ hja, hclean m (List.mem_range.1 hm)])
  refine ⟨w, ?_, by rw [hsame.same, hself], fun j hj => by rw [hsame.same, hother j hj], hrest⟩
  rw [hsame.frame, hadded]

/-! ### What a word with an error counts -/

theorem correctedWord_counts (s : State) (hcore : core < 1024) : Recorded s (correctedWord s core) 0x4010 core
    ∧ (ledgerAt (correctedWord s core) (dieOf core)).corrected = satTo 32 ((ledgerAt s (dieOf core)).corrected + 1) := by
  obtain ⟨v, hv⟩ : ∃ v, v = record s 0x4010 .corrected (coveNum (coveOfCore s core)) core [] := ⟨_, rfl⟩
  obtain ⟨hour, inputs, hwear⟩ := wearAdd_eq v 0 (dieOf core) 0 1
  have hword : correctedWord s core = updLedger (wearAdd v 0 (dieOf core) 0 1) (dieOf core) fun r =>
      { r with corrected := satTo 32 (r.corrected + 1) } := by rw [hv]; rfl
  have hrec : Recorded s v 0x4010 core := hv ▸ recorded_record _ _ _ _ _ _ (by omega) (by simp [episodeCode])
  have hledger : v.health = s.health := by rw [hv, record_health]
  rw [hword]
  refine ⟨recorded_between hrec rfl (eventCount_of_trace (by rw [updLedger_trace, wearAdd_trace])), ?_⟩
  rw [ledgerAt_updLedger, hwear]
  simp only [ledgerAt, hledger]

theorem errorNoted_counts (s : State) (store : Nat) (hcore : core < 1024) :
    Recorded s (errorNoted s core store) 0x4011 core
    ∧ (ledgerAt (errorNoted s core store) (dieOf core)).uncorrectable
        = satTo 32 ((ledgerAt s (dieOf core)).uncorrectable + 1) := by
  obtain ⟨v, hv⟩ : ∃ v, v = record s 0x4011 (if store = 0 then .stepContained else .coveFatal)
    (coveNum (coveOfCore s core)) core [] := ⟨_, rfl⟩
  have hrec : Recorded s v 0x4011 core := hv ▸ recorded_record _ _ _ _ _ _ (by omega) (by simp [episodeCode])
  have hledger : v.health = s.health := by rw [hv, record_health]
  rw [errorNoted, ← hv]
  refine ⟨recorded_between hrec rfl (eventCount_of_trace (updLedger_trace ..)), ?_⟩
  rw [ledgerAt_updLedger]
  simp only [ledgerAt, hledger]

/-! ### SCRATCHPAD_SCRUB -/

theorem scrub_corrected (hdie : die < 64) (hi : i < 16) (hstore : store < 3)
    (hclean : ∀ j, j < 16 → (coreAt s (16 * die + j)).upsets = []) :
    ∃ t, exec (.scratchpadScrub die [(i, store, word)] []) s = .next t
      ∧ Recorded s t 0x4010 (16 * die + i)
      ∧ (ledgerAt t die).corrected = satTo 32 ((ledgerAt s die).corrected + 1)
      ∧ (∀ j, coreAt t j = coreAt s j) ∧ t.mem = s.mem ∧ t.coves = s.coves := by
  obtain ⟨w, hframe, hself, hother, hrest⟩ :=
    scrubDie_at (store := store) (word := word) (b := false) hi hclean
  have hexec : exec (.scratchpadScrub die [(i, store, word)] []) s
      = .next (forEach (upsetDie s die (i, store, word, false)) ((List.range 16).map (16 * die + ·)) scrubCore) :=
    congrArg Host.Outcome.next (if_neg (by omega))
  have hscrub := scrubCore_corrected (s := w) (core := 16 * die + i) (by rw [hself]) hstore
  rw [hscrub] at hrest
  obtain ⟨v, hv⟩ : ∃ v, v = rewritten w (16 * die + i) := ⟨_, rfl⟩
  have hbefore : v = { s with cores := v.cores, health := (upsetDie s die (i, store, word, false)).health } := by
    rw [hv, hframe]
    rfl
  have hcores : ∀ j, coreAt v j = coreAt s j := fun j => by
    rw [hv, rewritten]
    by_cases hj : j = 16 * die + i
    · have hgone : [(store, word, false)].filter (fun u => u.2.2 || decide (2 < u.1)) = [] := by
        simp [show store ≤ 2 by omega]
      rw [hj, coreAt_updCore, hself, hgone, ← hclean i hi]
    · rw [coreAt_updCore_other _ _ _ _ hj, hother j hj]
  rw [← hv] at hrest
  obtain ⟨hrec, hcount⟩ := correctedWord_counts (core := 16 * die + i) v (by omega)
  obtain ⟨hkcores, hkmem, -, hkcoves⟩ := correctedWord_keeps v (16 * die + i)
  have hdieOf : dieOf (16 * die + i) = die := by rw [dieOf]; omega
  have hledger : ledgerAt v die = ledgerAt s die := by rw [hbefore]; rfl
  rw [hdieOf, hledger] at hcount
  generalize forEach (upsetDie s die (i, store, word, false)) _ scrubCore = t at hexec hrest
  have htrace : t.trace = (correctedWord v (16 * die + i)).trace := by rw [hrest.frame]
  have hhealth : t.health = (correctedWord v (16 * die + i)).health := by rw [hrest.frame]
  have htrace' : v.trace = s.trace := by rw [hbefore]
  refine ⟨t, hexec, recorded_between hrec (eventCount_of_trace htrace') (eventCount_of_trace htrace),
    by rw [← hcount, ledgerAt, hhealth, ledgerAt], fun j => ?_, ?_, ?_⟩
  · rw [hrest.same, ← hcores j, coreAt, hkcores, coreAt]
  · rw [hrest.frame, hkmem, hbefore]
  · rw [hrest.frame, hkcoves, hbefore]

theorem scrub_uncorrectable (hdie : die < 64) (hi : i < 16) (hstore : store < 3)
    (hclean : ∀ j, j < 16 → (coreAt s (16 * die + j)).upsets = []) :
    ∃ u t, exec (.scratchpadScrub die [] [(i, store, word)]) s = .next t
      ∧ Recorded s u 0x4011 (16 * die + i)
      ∧ (ledgerAt u die).uncorrectable = satTo 32 ((ledgerAt s die).uncorrectable + 1)
      ∧ coreAt u (16 * die + i) = { coreAt s (16 * die + i) with upsets := [(store, word, true)] }
      ∧ (∀ j, j ≠ 16 * die + i → coreAt u j = coreAt s j) ∧ u.mem = s.mem ∧ u.coves = s.coves
      ∧ SameCores (errorAnswered u (coveOfCore s (16 * die + i)) store) t := by
  obtain ⟨w, hframe, hself, hother, hrest⟩ :=
    scrubDie_at (store := store) (word := word) (b := true) hi hclean
  have hexec : exec (.scratchpadScrub die [] [(i, store, word)]) s
      = .next (forEach (upsetDie s die (i, store, word, true)) ((List.range 16).map (16 * die + ·)) scrubCore) :=
    congrArg Host.Outcome.next (if_neg (by omega))
  have hscrub := scrubCore_uncorrectable (s := w) (core := 16 * die + i) (by rw [hself]) hstore
  rw [hscrub, uncorrectableWord_eq] at hrest
  obtain ⟨v, hv⟩ : ∃ v, v = rewritten w (16 * die + i) := ⟨_, rfl⟩
  have hbefore : v = { s with cores := v.cores, health := (upsetDie s die (i, store, word, true)).health } := by
    rw [hv, hframe]
    rfl
  have hcore : coreAt v (16 * die + i) = { coreAt s (16 * die + i) with upsets := [(store, word, true)] } := by
    rw [hv, rewritten, coreAt_updCore, hself]
    rfl
  have hcores : ∀ j, j ≠ 16 * die + i → coreAt v j = coreAt s j := fun j hj => by
    rw [hv, rewritten, coreAt_updCore_other _ _ _ _ hj, hother j hj]
  rw [← hv, coveOfCore_of_coves (t := v) (s := s) (by rw [hbefore])] at hrest
  obtain ⟨hrec, hcount⟩ := errorNoted_counts (core := 16 * die + i) v store (by omega)
  obtain ⟨hkcores, hkmem, -, hkcoves⟩ := errorNoted_keeps v (16 * die + i) store
  have hkept : ∀ j, coreAt (errorNoted v (16 * die + i) store) j = coreAt v j := fun j => by rw [coreAt, hkcores, coreAt]
  have hdieOf : dieOf (16 * die + i) = die := by rw [dieOf]; omega
  have hledger : ledgerAt v die = ledgerAt s die := by rw [hbefore]; rfl
  rw [hdieOf, hledger] at hcount
  exact ⟨_, _, hexec, recorded_between hrec (eventCount_of_trace (by rw [hbefore])) rfl, hcount,
    by rw [hkept, hcore], fun j hj => by rw [hkept, hcores j hj], by rw [hkmem, hbefore], by rw [hkcoves, hbefore], hrest⟩

/-- Settles O27: a switch is the outgoing context's save and the incoming one's load, core by core, and a scrub of a die that
is clean but for one word is that word's answer. -/
theorem switchAndScrub : Obligations.SwitchAndScrub := by
  unfold Obligations.SwitchAndScrub
  refine fun s => ⟨fun cl hother => contextSwitch_outcome hother, fun die i store word hdie hi hstore hclean =>
    ⟨scrub_corrected hdie hi hstore hclean, ?_⟩⟩
  obtain ⟨u, t, hexec, hrec, hledger, hcore, hothers, hmem, hcoves, hanswered⟩ :=
    scrub_uncorrectable (word := word) hdie hi hstore hclean
  refine ⟨u, t, hexec, hrec, hledger, hcore, hothers, hmem, hcoves, ?_⟩
  cases hcove : coveOfCore s (16 * die + i) with
  | none =>
    rw [hcove] at hanswered
    exact ⟨hanswered.frame, hanswered.same⟩
  | some c =>
    rw [hcove] at hanswered
    exact ⟨hanswered.frame, hanswered.same⟩

end Sys2Proof.Proofs
end

section
/-!
PROOFS. The instruction word of a core and the commands that it spells: O6, O7, O8.
-/
namespace Sys2Proof.Proofs
open Sys2Proof Sys2Proof.Machine Sys2Proof.Laws

variable {core ctx op : Nat} {w : Fields} {i : Instr}

/-! ### Fields of a word (R127) -/

theorem wordFields_encodeWord (op : Nat) (w : Fields) : wordFields (encodeWord op w) = w := by
  unfold wordFields encodeWord
  simp (disch := decide) only [BitVec.extractLsb'_append_eq_of_le, BitVec.extractLsb'_append_eq_of_add_le]
  simp only [Nat.reduceSub, BitVec.extractLsb'_eq_self]

/-- Class, op and fields make up the whole word. -/
theorem encodeWord_wordOp_wordFields (b : BitVec 128) : encodeWord (wordOp b) (wordFields b) = b := by
  simp only [encodeWord, wordOp, wordFields, BitVec.ofNat_toNat, BitVec.setWidth_eq]
  repeat rw [BitVec.extractLsb'_append_extractLsb'_eq_extractLsb' (by decide)]
  exact BitVec.extractLsb'_eq_self

/-! ### Commands and their codes (R128) -/

theorem instrCode_listed (h : instrCode i = some (op, w)) : opListed op = true := by
  revert h
  fun_cases instrCode i <;> intro h <;> cases h <;> rfl

theorem instrOf_of_instrCode (hplace : instrPlace i = some (core, ctx)) (hcode : instrCode i = some (op, w)) :
    instrOf core ctx op w = some i := by
  revert hcode
  fun_cases instrCode i <;> intro hcode <;> cases hcode <;> cases hplace <;> rfl

theorem instrCode_of_instrOf (h : instrOf core ctx op w = some i) : instrCode i = some (op, w) := by
  revert h
  fun_cases instrOf core ctx op w <;> intro h <;> cases h <;> rfl

/-- A word decodes to the commands that its class, op and fields name. -/
theorem decodeWord_eq_ok {b : BitVec 128} :
    decodeWord core ctx b = .ok i ↔ instrOf core ctx (wordOp b) (wordFields b) = some i := by
  unfold decodeWord
  cases instrOf core ctx (wordOp b) (wordFields b) <;> simp

/-- Settles O6: class, op and fields are read back from the word, and each command is the one of its code. -/
theorem decodeOfEncodeIsSame : Obligations.DecodeOfEncodeIsSame := by
  intro i core ctx b hplace hb
  obtain ⟨⟨op, w⟩, hcode, rfl⟩ := Option.map_eq_some_iff.1 hb
  rw [decodeWord_eq_ok, wordOp_encodeWord op w (listed_lt (instrCode_listed hcode)), wordFields_encodeWord]
  exact instrOf_of_instrCode hplace hcode

/-- Settles O7: a word is the word of its class, op and fields, and those are the code of the command it spells. -/
theorem encodeOfDecodeIsSame : Obligations.EncodeOfDecodeIsSame := by
  intro core ctx b i h
  have hcode : instrCode i = some (wordOp b, wordFields b) := instrCode_of_instrOf (decodeWord_eq_ok.1 h)
  rw [encode, hcode, Option.map_some, encodeWord_wordOp_wordFields]

/-- Settles O8: each word is a numeral, whose fields evaluate. -/
theorem specWordsDecode : Obligations.SpecWordsDecode := ⟨rfl, rfl, rfl, rfl, rfl⟩

end Sys2Proof.Proofs
end

section
/-!
PROOFS. Scalar instructions and control flow: O9 and O11.
-/
namespace Sys2Proof.Proofs
open Sys2Proof Sys2Proof.Machine Sys2Proof.Laws Sys2Proof.Claim

variable {s t u : State} {core k op : Nat} {w : Fields} {use : Use} {wr : Writes} {allowed legal bounded : Bool}
  {stall : Option Nat} {body : State → State}

/-! ### The frame of one context -/

theorem coreFrame_trans (h : CoreFrame s t core k) (h' : CoreFrame t u core k) : CoreFrame s u core k := by
  obtain ⟨hctx, hcore, hcores, hstate⟩ := h
  obtain ⟨hctx', hcore', hcores', hstate'⟩ := h'
  refine ⟨fun j hj => (hctx' j hj).trans (hctx j hj), ?_, fun i hi => (hcores' i hi).trans (hcores i hi), ?_⟩
  · rw [hcore', hcore]
  · rw [hstate', hstate]

theorem coreFrame_updCtx (s : State) (core k : Nat) (f : Ctx → Ctx) : CoreFrame s (updCtx s core k f) core k :=
  ⟨fun _ hj => ctxAt_updCtx_other _ _ _ _ _ hj, by rw [updCtx, coreAt_setCtx],
    fun _ hi => coreAt_updCtx_other _ _ _ hi, rfl⟩

theorem coreFrame_bumpCore (s : State) (core k index n : Nat) : CoreFrame s (bumpCore s core index n) core k := by
  obtain ⟨a, b, htrace⟩ := bumpCore_trace s core index n
  obtain ⟨_, hbump⟩ := bumpCore_frame s core index n
  refine ⟨fun _ _ => ctxAt_bumpCore .., by rw [coreAt_bumpCore], fun _ _ => coreAt_bumpCore .., ?_⟩
  rw [hbump] at htrace ⊢
  simp only at htrace
  rw [htrace]

theorem coreFrame_retire (s : State) (core k pc : Nat) : CoreFrame s (retire s core k pc) core k :=
  coreFrame_trans (coreFrame_updCtx ..) (coreFrame_bumpCore ..)

theorem coreAt_of_coreFrame (h : CoreFrame s t core k) (i : Nat) :
    coreAt t i = { coreAt s i with ctxs := (coreAt t i).ctxs } := by
  obtain ⟨-, hcore, hcores, -⟩ := h
  by_cases hi : i = core
  · rw [hi]
    exact hcore
  · rw [hcores i hi]

theorem otherCtxs_of_coreFrame (h : CoreFrame s t core k) : OtherCtxs s t core k := by
  obtain ⟨hctx, -, hcores, -⟩ := h
  intro i j hij
  by_cases hi : i = core
  · subst hi
    exact hctx j fun hj => hij ⟨rfl, hj⟩
  · rw [ctxAt, hcores i hi, ctxAt]

/-! ### What `issueNext` makes of an instruction whose checks pass (R166) -/

theorem issueNext_body (f : Fetched s core k op w) (ok : FieldsOk s core k op w use wr allowed) :
    issueNext s core k op w use wr allowed true true none body = retire (body s) core k ((ctxAt s core k).pc + 1) :=
  issue_body f ok

/-- An operand that its class refuses stops the instruction, whatever its fields. -/
theorem issue_illegal (f : Fetched s core k op w) :
    issue s core k op w use wr allowed false bounded stall body = operandFault s core k (ctxAt s core k).pc op := by
  unfold issue
  simp [f.can, f.region, f.sound, f.ready, f.word, wordOp_encodeWord op w (listed_lt f.listed), f.listed]

/-! ### Scalar results (R136, R137, R139) -/

/-- The condition or source bit I of R136 is bit 31 of the control field. -/
theorem ctlBit_eq_getLsbD (w : Fields) : ctlBit w 95 = w.control.getLsbD 31 := by
  simp [ctlBit, bitOf, BitVec.getLsbD, Nat.testBit_eq_decide_div_mod_eq]

theorem secondSource_eq_second (x : Ctx) (w : Fields) : secondSource x w = second x w := by
  unfold secondSource second
  rw [ctlBit_eq_getLsbD]

theorem wroteScalar_retire (s : State) (core k : Nat) (rd : BitVec 5) (v : DWord) :
    WroteScalar s (retire (updCtx s core k fun x => setSreg x rd v) core k ((ctxAt s core k).pc + 1)) core k rd v := by
  obtain ⟨regs, hregs⟩ := setSreg_eq (ctxAt s core k) rd v
  refine ⟨fun r => ?_, ?_, frame_retire ..⟩
  · rw [ctxAt_retire, ctxAt_updCtx]
    exact sreg_setSreg ..
  · rw [ctxAt_retire, ctxAt_updCtx, hregs]

theorem ctlWrite_body (value : Ctx → DWord) (f : Fetched s core k op w)
    (ok : FieldsOk s core k op w use ⟨some w.f1, none, none⟩ true) : ctlWrite s core k op w use true value =
      retire (updCtx s core k fun x => setSreg x w.f1 (value x)) core k ((ctxAt s core k).pc + 1) :=
  issueNext_body f ok

/-- A CTL instruction that writes rD. -/
theorem wroteScalar_ctlWrite (value : Ctx → DWord) (hlegal : legal = true) (f : Fetched s core k op w)
    (ok : FieldsOk s core k op w use ⟨some w.f1, none, none⟩ true) :
    WroteScalar s (ctlWrite s core k op w use legal value) core k w.f1 (value (ctxAt s core k)) := by
  rw [hlegal, ctlWrite_body value f ok]
  exact wroteScalar_retire ..

/-- An arithmetic shift divides by a power of two (R137). -/
theorem sshiftRight_eq_ofInt (a : DWord) (n : Nat) : a.sshiftRight n = BitVec.ofInt 64 (a.toInt / 2 ^ n) := by
  rw [BitVec.sshiftRight, Int.shiftRight_eq_div_pow]
  norm_cast

/-- Each row's command computes the row's result. -/
theorem exec_aluRow : ∀ row ∈ aluRows, ∀ (core k : Nat) (w : Fields) (s : State),
    exec (row.2.1 core k w) s = ctlAlu s core k row.1 w row.2.2 := by
  simp only [aluRows, List.forall_mem_cons]
  refine ⟨fun _ _ _ _ => rfl, fun _ _ _ _ => rfl, fun _ _ _ _ => rfl, fun _ _ _ _ => rfl, fun _ _ _ _ => rfl,
    fun _ _ _ _ => rfl, fun _ _ _ _ => rfl, fun _ _ _ _ => rfl, fun core k w s => ?sra, fun core k w s => ?min,
    fun core k w s => ?max, fun _ h => (List.not_mem_nil h).elim⟩
  case sra =>
    simp only [← sshiftRight_eq_ofInt]
    rfl
  case min =>
    simp only [← BitVec.slt_iff_toInt_lt]
    rfl
  case max =>
    simp only [← BitVec.slt_iff_toInt_lt]
    rfl

theorem twoSourceScalarOps : TwoSourceScalarOps := by
  intro row hrow core k w s f ok
  refine ⟨_, exec_aluRow row hrow core k w s, ?_⟩
  rw [← secondSource_eq_second]
  exact wroteScalar_ctlWrite (fun x => row.2.2 (sreg x w.f2) (secondSource x w)) rfl f ok

/-- The identity of R139 by its selector. -/
theorem identity_eq_getD (s : State) (core : Nat) {n : Nat} (h : n < 6) :
    identity s core n = [core, core / 16, core / 4, core % 4].getD n (identity s core n) := by
  match n, h with
  | 0, _ | 1, _ | 2, _ | 3, _ | 4, _ | 5, _ => rfl

/-- A context that may issue belongs to a cove (R96). -/
theorem cove_of_canIssue (h : canIssue s core k = true) : ∃ c, coveOfCore s core = some c := by
  unfold canIssue at h
  cases hc : coveOfCore s core with
  | none => simp [hc] at h
  | some c => exact ⟨c, rfl⟩

/-- A context that does not run issues nothing (R96). -/
theorem canIssue_of_mode (h : (ctxAt s core k).mode ≠ .running) : canIssue s core k = false := by
  unfold canIssue
  cases coveOfCore s core <;> simp [h]

theorem scalarReads : ScalarReads := by
  intro core k w s
  refine ⟨fun f ok => ⟨_, rfl, wroteScalar_ctlWrite (fun _ => w.imm.signExtend 64) rfl f ok⟩,
    fun f ok => ⟨_, rfl, wroteScalar_ctlWrite (fun x => w.imm ++ (sreg x w.f1).truncate 32) rfl f ok⟩,
    fun f hsel ok => ⟨_, rfl, ?_⟩, fun f ok => ?_,
    fun f ok => ⟨_, rfl, wroteScalar_ctlWrite (fun x => BitVec.ofNat 64 x.anchor) rfl f ok⟩⟩
  · rw [← identity_eq_getD s core hsel]
    exact wroteScalar_ctlWrite (fun _ => BitVec.ofNat 64 (identity s core w.imm.toNat)) (by simpa using hsel) f ok
  · obtain ⟨c, hc⟩ := cove_of_canIssue f.can
    have hexec : exec (.stepRead core k w) s = .next (ctlWrite s core k 0x11 w { Use.none with f1 := true } true
        fun _ => (coveAt s c).step) := by
      change Host.Outcome.next _ = _
      rw [hc]
    exact ⟨_, c, hexec, hc, wroteScalar_ctlWrite (fun _ => (coveAt s c).step) rfl f ok⟩

/-- Settles O11: every row is a write of rD by `ctlWrite`, with the row's result. -/
theorem scalarOps : Obligations.ScalarOps := ⟨twoSourceScalarOps, scalarReads⟩

/-! ### Control flow (R137, R138) -/

theorem nop_steps (f : Fetched s core k 0x000 w) (ok : FieldsOk s core k 0x000 w Use.none Writes.none true) :
    ∃ t, exec (.nop core k w) s = .next t ∧ CoreFrame s t core k
      ∧ ctxAt t core k = { ctxAt s core k with pc := (ctxAt s core k).pc + 1 } :=
  ⟨_, congrArg Host.Outcome.next (issueNext_body f ok), coreFrame_retire .., ctxAt_retire ..⟩

theorem br_branches (f : Fetched s core k 0x020 w) (hcond : ctl w 94 92 ≠ 7)
    (ok : FieldsOk s core k 0x020 w
      { aluUse w with f1 := false, control := 0xF0000000#32, tail := 0xFFFF#16 } Writes.none true) :
    ∃ t, exec (.br core k w) s = .next t ∧ CoreFrame s t core k
      ∧ ctxAt t core k = { ctxAt s core k with
          pc := if condHolds (ctl w 94 92) (sreg (ctxAt s core k) w.f2) (second (ctxAt s core k) w)
            then branchTarget (ctxAt s core k) w else (ctxAt s core k).pc + 1 } := by
  have hexec : exec (.br core k w) s = .next (retire s core k
      (if condHolds (ctl w 94 92) (sreg (ctxAt s core k) w.f2) (secondSource (ctxAt s core k) w)
        then branchTarget (ctxAt s core k) w else (ctxAt s core k).pc + 1)) := by
    change Host.Outcome.next (issue ..) = _
    rw [show (ctl w 94 92 != 7) = true from bne_iff_ne.2 hcond, issue_body f ok]
  rw [secondSource_eq_second] at hexec
  exact ⟨_, hexec, coreFrame_retire .., ctxAt_retire ..⟩

theorem loop_sets (f : Fetched s core k 0x021 w) (hlow : 1 ≤ (loopCount (ctxAt s core k) w).toNat)
    (hhigh : (loopCount (ctxAt s core k) w).toNat < 2 ^ 32)
    (ok : FieldsOk s core k 0x021 w
      { Use.none with f2 := !ctlBit w 95, imm := ctlBit w 95, control := 0x8C000000#32 }
      ⟨none, some (ctl w 91 90), none⟩ true) :
    ∃ t, exec (.loop core k w) s = .next t ∧ CoreFrame s t core k
      ∧ lcAt (ctxAt t core k) (ctl w 91 90) = BitVec.ofNat 32 (loopCount (ctxAt s core k) w).toNat
      ∧ (∀ i, i ≠ ctl w 91 90 → lcAt (ctxAt t core k) i = lcAt (ctxAt s core k) i)
      ∧ ctxAt t core k = { ctxAt s core k with
          pc := (ctxAt s core k).pc + 1, lcs := (ctxAt t core k).lcs } := by
  have hexec : exec (.loop core k w) s = .next (retire (updCtx s core k fun x =>
      setLc x (ctl w 91 90) (BitVec.ofNat 32 (loopCount (ctxAt s core k) w).toNat)) core k ((ctxAt s core k).pc + 1)) := by
    change Host.Outcome.next (issueNext ..) = _
    rw [decide_eq_true hlow, decide_eq_true hhigh]
    exact congrArg Host.Outcome.next (issueNext_body f ok)
  refine ⟨_, hexec, frame_retire .., ?_, fun i hi => ?_, ?_⟩
  · rw [ctxAt_retire, ctxAt_updCtx]
    exact lcAt_setLc ..
  · rw [ctxAt_retire, ctxAt_updCtx]
    exact lcAt_setLc_other _ _ _ _ hi
  · rw [ctxAt_retire, ctxAt_updCtx]
    rfl

theorem loop_faults (f : Fetched s core k 0x021 w)
    (hrange : (loopCount (ctxAt s core k) w).toNat = 0 ∨ 2 ^ 32 ≤ (loopCount (ctxAt s core k) w).toNat) :
    exec (.loop core k w) s = .next (operandFault s core k (ctxAt s core k).pc 0x021) := by
  have hlegal : (decide (1 ≤ (loopCount (ctxAt s core k) w).toNat)
      && decide ((loopCount (ctxAt s core k) w).toNat < 2 ^ 32)) = false := by
    rw [Bool.and_eq_false_iff, decide_eq_false_iff_not, decide_eq_false_iff_not]
    omega
  change Host.Outcome.next (issueNext ..) = _
  rw [hlegal]
  exact congrArg Host.Outcome.next (issue_illegal f)

theorem endl_counts (f : Fetched s core k 0x022 w)
    (ok : FieldsOk s core k 0x022 w { Use.none with control := 0x0C000000#32, tail := 0xFFFF#16 }
      ⟨none, some (ctl w 91 90), none⟩ true) :
    ∃ t, exec (.endl core k w) s = .next t ∧ CoreFrame s t core k
      ∧ lcAt (ctxAt t core k) (ctl w 91 90) = lcAt (ctxAt s core k) (ctl w 91 90) - 1#32
      ∧ ctxAt t core k = { ctxAt s core k with
          pc := if lcAt (ctxAt s core k) (ctl w 91 90) = 1#32 then (ctxAt s core k).pc + 1
            else branchTarget (ctxAt s core k) w,
          lcs := (ctxAt t core k).lcs } := by
  have hexec : exec (.endl core k w) s = .next (retire (updCtx s core k fun x =>
      setLc x (ctl w 91 90) (lcAt (ctxAt s core k) (ctl w 91 90) - 1#32)) core k
        (if lcAt (ctxAt s core k) (ctl w 91 90) - 1#32 = 0#32 then (ctxAt s core k).pc + 1
          else branchTarget (ctxAt s core k) w)) :=
    congrArg Host.Outcome.next (issue_body f ok)
  have hlast : lcAt (ctxAt s core k) (ctl w 91 90) - 1#32 = 0#32 ↔ lcAt (ctxAt s core k) (ctl w 91 90) = 1#32 :=
    sub_eq_zero
  simp only [hlast] at hexec
  refine ⟨_, hexec, frame_retire .., ?_, ?_⟩
  · rw [ctxAt_retire, ctxAt_updCtx]
    exact lcAt_setLc ..
  · rw [ctxAt_retire, ctxAt_updCtx]
    rfl

/-- The sweep over contexts reads only the cove's map and the modes. -/
theorem allEnded_congr {c : Nat} (hmap : ctxsOf (coveAt t c) = ctxsOf (coveAt s c))
    (hmode : ∀ i j, (ctxAt t i j).mode = (ctxAt s i j).mode) : allEnded t c = allEnded s c := by
  unfold allEnded
  simp only [hmap, hmode]

/-- The state in which a context has ended its program, before its cove notes it (R138). -/
def programEnded (s : State) (core k : Nat) : State := updCtx s core k fun x => { x with mode := .ended }

/-- The cove notes the end once every context has ended. -/
def endNoted (s : State) (core : Nat) : State :=
  match coveOfCore s core with
  | some c => if allEnded s c then updCove s c fun v => { v with ended := true } else s
  | none => s

theorem endNoted_eq (s : State) (core : Nat) : ∃ cv, endNoted s core = { s with coves := cv } := by
  unfold endNoted
  split
  · split
    · exact ⟨_, rfl⟩
    · exact ⟨_, rfl⟩
  · exact ⟨_, rfl⟩

theorem coveAt_endNoted (s : State) (core c : Nat) : coveAt (endNoted s core) c = { coveAt s c with
    ended := (coveAt s c).ended || (coveOfCore s core == some c && allEnded s c) } := by
  unfold endNoted
  cases hown : coveOfCore s core with
  | none => simp
  | some d =>
    by_cases hd : c = d
    · subst hd
      by_cases hall : allEnded s c = true <;> simp [hall]
    · have hne : (some d == some c) = false := by simpa using fun h => hd h.symm
      by_cases hall : allEnded s d = true <;> simp [hall, hne, coveAt_updCove_other _ _ _ _ hd]

theorem end_ends (f : Fetched s core k 0x030 w) (ok : FieldsOk s core k 0x030 w Use.none Writes.none false) :
    ∃ t, exec (.endProgram core k w) s = .next t
      ∧ ctxAt t core k = { ctxAt s core k with pc := (ctxAt s core k).pc + 1, mode := .ended }
      ∧ canIssue t core k = false
      ∧ (∀ i j, ¬ (i = core ∧ j = k) → ctxAt t i j = ctxAt s i j)
      ∧ (∀ i, coreAt t i = { coreAt s i with ctxs := (coreAt t i).ctxs })
      ∧ (∀ c, coveAt t c = { coveAt s c with
          ended := (coveAt s c).ended || (coveOfCore s core == some c && allEnded t c) })
      ∧ t = { s with
          cores := t.cores, coves := t.coves,
          trace := { s.trace with counters := t.trace.counters, coveCounters := t.trace.coveCounters } } := by
  obtain ⟨e, he⟩ : ∃ e, e = endNoted (programEnded s core k) core := ⟨_, rfl⟩
  obtain ⟨t, ht⟩ : ∃ t, t = retire e core k ((ctxAt s core k).pc + 1) := ⟨_, rfl⟩
  have hexec : exec (.endProgram core k w) s = .next t := by
    rw [ht, he]
    exact congrArg Host.Outcome.next (issueNext_body f ok)
  obtain ⟨cv, hcv⟩ := endNoted_eq (programEnded s core k) core
  have hctx : ∀ i j, ctxAt e i j = ctxAt (programEnded s core k) i j := ctxAt_of_cores (by rw [he, hcv])
  have hcoreAt : ∀ i, coreAt e i = coreAt (programEnded s core k) i := fun i => by rw [coreAt, he, hcv, coreAt]
  have hframe : CoreFrame e t core k := ht ▸ coreFrame_retire ..
  have hframe' : CoreFrame s (programEnded s core k) core k := coreFrame_updCtx ..
  have hself : ctxAt t core k = { ctxAt s core k with pc := (ctxAt s core k).pc + 1, mode := .ended } := by
    rw [ht, ctxAt_retire, hctx, programEnded, ctxAt_updCtx]
  have hmode : ∀ i j, (ctxAt t i j).mode = (ctxAt (programEnded s core k) i j).mode := fun i j => by
    by_cases hij : i = core ∧ j = k
    · obtain ⟨rfl, rfl⟩ := hij
      rw [hself, programEnded, ctxAt_updCtx]
    · rw [otherCtxs_of_coreFrame hframe i j hij, hctx]
  have hcove : ∀ c, coveAt t c = coveAt e c := fun c => by rw [ht, coveAt, retire_coves, coveAt]
  have hall : ∀ c, allEnded t c = allEnded (programEnded s core k) c := fun c =>
    allEnded_congr (by rw [hcove, he, coveAt_endNoted]; rfl) hmode
  refine ⟨t, hexec, hself, canIssue_of_mode (by rw [hself]; exact nofun), fun i j hij => ?_, fun i => ?_, fun c => ?_, ?_⟩
  · rw [otherCtxs_of_coreFrame hframe i j hij, hctx, otherCtxs_of_coreFrame hframe' i j hij]
  · rw [coreAt_of_coreFrame hframe i, hcoreAt, coreAt_of_coreFrame hframe' i]
  · rw [hall, hcove, he, coveAt_endNoted]
    rfl
  · obtain ⟨-, -, -, hstate⟩ := hframe
    rw [hstate, he, hcv]
    rfl

/-- Settles O9: each instruction retires to the program counter of its rule, and a LOOP count out of range or a fetch
outside the code region stops it before. -/
theorem controlFlow : Obligations.ControlFlow := by
  intro core k w s
  have hfault : canIssue s core k = true → fetchBad (ctxAt s core k) = true →
      ∀ row ∈ [(0x000, Instr.nop), (0x020, .br), (0x021, .loop), (0x022, .endl), (0x030, .endProgram)],
        exec (row.2 core k w) s = .next (fetchFault s core k (ctxAt s core k).pc row.1) := fun hcan hbad => by
    simp only [List.forall_mem_cons]
    exact ⟨congrArg Host.Outcome.next (issue_fetchFault hcan hbad), congrArg Host.Outcome.next (issue_fetchFault hcan hbad),
      congrArg Host.Outcome.next (issue_fetchFault hcan hbad), congrArg Host.Outcome.next (issue_fetchFault hcan hbad),
      congrArg Host.Outcome.next (issue_fetchFault hcan hbad), fun _ h => (List.not_mem_nil h).elim⟩
  exact ⟨nop_steps, br_branches, loop_sets, loop_faults, hfault, endl_counts, end_ends⟩

end Sys2Proof.Proofs
end

section
/-!
PROOFS. The start and the end of a context's wait: O15.
-/
namespace Sys2Proof.Proofs
open Sys2Proof Sys2Proof.Machine Sys2Proof.Laws Sys2Proof.Claim

variable {s t u : State} {core k op : Nat} {w : Fields} {use : Use} {wt : Wait}

/-! ### What a wait record touches (R537 to R540) -/

theorem RingsOnly.logged (h : RingsOnly s t) : Logged s t := by
  obtain ⟨_, _, _, rfl⟩ := h.frame
  rfl

theorem RingsOnly.cores (h : RingsOnly s t) : t.cores = s.cores := by
  obtain ⟨_, _, _, rfl⟩ := h.frame
  rfl

theorem ringsOnly_dropWait (s : State) (c cause : Nat) : RingsOnly s (dropWait s c cause) := by
  unfold dropWait
  extract_lets first s1 s2
  have hcounts : RingsOnly s s2 := ringsOnly_trace ⟨_, rfl⟩
  split
  · exact hcounts.trans (ringsOnly_record ..)
  · exact hcounts

theorem ringsOnly_traceWait (s : State) (core : Nat) (r : WaitRec) : RingsOnly s (traceWait s core r) := by
  unfold traceWait
  split
  · exact .refl s
  · dsimp only
    split
    · split
      · exact ringsOnly_dropWait ..
      · exact ringsOnly_trace ⟨_, rfl⟩
    · exact .refl s

theorem ringsOnly_traceSync (s : State) (core k : Nat) (wt : Wait) : RingsOnly s (traceSync s core k wt) := by
  cases wt with
  | tide _ | bar _ _ | wains _ | commit _ | arrive _ _ _ => exact ringsOnly_traceWait ..
  | drain | slots _ _ _ _ _ _ _ _ => exact .refl s

/-! ### The frame of a context whose wait may be recorded -/

/-- One context of one core changed, and what recording an event touches. -/
structure LoggedFrame (s t : State) (core k : Nat) : Prop where
  sameCtxs : ∀ j, j ≠ k → ctxAt t core j = ctxAt s core j
  sameCore : coreAt t core = { coreAt s core with ctxs := (coreAt t core).ctxs }
  sameCores : ∀ i, i ≠ core → coreAt t i = coreAt s i
  logged : Logged { s with cores := t.cores } t

theorem LoggedFrame.trans (h : LoggedFrame s t core k) (h' : LoggedFrame t u core k) : LoggedFrame s u core k where
  sameCtxs j hj := (h'.sameCtxs j hj).trans (h.sameCtxs j hj)
  sameCore := by rw [h'.sameCore, h.sameCore]
  sameCores i hi := (h'.sameCores i hi).trans (h.sameCores i hi)
  logged := by
    have hst := h.logged
    have htu := h'.logged
    unfold Logged at *
    rw [htu, hst]

theorem loggedFrame_of_coreFrame (h : CoreFrame s t core k) : LoggedFrame s t core k := by
  obtain ⟨hctxs, hcore, hcores, hstate⟩ := h
  refine ⟨hctxs, hcore, hcores, ?_⟩
  rw [hstate]
  rfl

theorem RingsOnly.loggedFrame (h : RingsOnly s t) : LoggedFrame s t core k where
  sameCtxs _ _ := ctxAt_of_cores h.cores ..
  sameCore := by rw [coreAt, h.cores, coreAt]
  sameCores _ _ := by rw [coreAt, h.cores, coreAt]
  logged := by
    have hcores : { s with cores := t.cores } = s := by rw [h.cores]
    rw [hcores]
    exact h.logged

theorem LoggedFrame.otherCtxs (h : LoggedFrame s t core k) : OtherCtxs s t core k := by
  intro i j hij
  by_cases hi : i = core
  · subst hi
    exact h.sameCtxs j fun hj => hij ⟨rfl, hj⟩
  · rw [ctxAt, h.sameCores i hi, ctxAt]

theorem LoggedFrame.mem (h : LoggedFrame s t core k) : t.mem = s.mem := by rw [h.logged]

theorem LoggedFrame.coves (h : LoggedFrame s t core k) : t.coves = s.coves := by rw [h.logged]

/-! ### The end of a wait (R154, R155, R158, R180) -/

/-- The context when its wait is over. -/
def waitOver (wt : Wait) (x : Ctx) : Ctx :=
  { x with wait := none, waitSwitched := false, anchor := anchorAfter x wt, wainStatus := statusAfter x wt }

theorem settleWait_none (h : (ctxAt s core k).wait = none) : settleWait s core k = s := by
  unfold settleWait
  rw [h]

theorem settleWait_some (h : (ctxAt s core k).wait = some wt) (hown : (clusterAt s (clusterOf core)).owner = some k) :
    settleWait s core k = if waitDone s core k wt then updCtx (traceSync s core k wt) core k (waitOver wt) else s := by
  unfold settleWait endWait
  simp only [h, hown, beq_self_eq_true, Bool.true_and]
  rfl

theorem loggedFrame_waitOver (s : State) (core k : Nat) (wt : Wait) :
    LoggedFrame s (updCtx (traceSync s core k wt) core k (waitOver wt)) core k :=
  (ringsOnly_traceSync s core k wt).loggedFrame.trans (loggedFrame_of_coreFrame (coreFrame_updCtx ..))

theorem ctxAt_waitOver (s : State) (core k : Nat) (wt : Wait) :
    ctxAt (updCtx (traceSync s core k wt) core k (waitOver wt)) core k = waitOver wt (ctxAt s core k) := by
  rw [ctxAt_updCtx, ctxAt_of_cores (ringsOnly_traceSync s core k wt).cores]

/-! ### The start of a wait -/

/-- The context when it has started a wait. -/
def waitBegun (s : State) (wt : Wait) (x : Ctx) : Ctx :=
  { x with wait := some wt, waitStart := s.tide.now, waitSwitched := false }

theorem startWait_eq (hown : (clusterAt s (clusterOf core)).owner = some k) :
    let v := updCtx s core k (waitBegun s wt)
    startWait s core k wt = if waitDone v core k wt then updCtx (traceSync v core k wt) core k (waitOver wt) else v := by
  intro v
  exact settleWait_some (by rw [ctxAt_updCtx]) hown

/-- A wait that starts on a context which owns its cluster, seen when the instruction has retired. -/
theorem waited_retire {anchor : Tick} {st : WainStatus} (hown : (clusterAt s (clusterOf core)).owner = some k)
    (hanchor : anchorAfter (ctxAt s core k) wt = anchor) (hstatus : statusAfter (ctxAt s core k) wt = st) :
    Waited s (retire (startWait s core k wt) core k ((ctxAt s core k).pc + 1)) core k wt
      (waitDone (updCtx s core k (waitBegun s wt)) core k wt) anchor st := by
  obtain ⟨v, hv⟩ : ∃ v, v = updCtx s core k (waitBegun s wt) := ⟨_, rfl⟩
  have hctx : ctxAt v core k = waitBegun s wt (ctxAt s core k) := by rw [hv, ctxAt_updCtx]
  have hbegun : LoggedFrame s v core k := hv ▸ loggedFrame_of_coreFrame (coreFrame_updCtx ..)
  have hstart := startWait_eq (wt := wt) hown
  rw [← hv] at hstart ⊢
  have hanchor' : anchorAfter (waitBegun s wt (ctxAt s core k)) wt = anchor := hanchor ▸ by cases wt <;> rfl
  have hstatus' : statusAfter (waitBegun s wt (ctxAt s core k)) wt = st := hstatus ▸ by cases wt <;> rfl
  have hretire : ∀ u : State, LoggedFrame u (retire u core k ((ctxAt s core k).pc + 1)) core k :=
    fun u => loggedFrame_of_coreFrame (coreFrame_retire ..)
  cases hdone : waitDone v core k wt with
  | false =>
    rw [hstart, hdone, if_neg Bool.false_ne_true]
    obtain ⟨hctxs, hcore, hcores, hlogged⟩ := hbegun.trans (hretire v)
    refine ⟨?_, hctxs, hcore, hcores, hlogged⟩
    rw [ctxAt_retire, hctx]
    rfl
  | true =>
    rw [hstart, hdone, if_pos rfl]
    obtain ⟨hctxs, hcore, hcores, hlogged⟩ := (hbegun.trans (loggedFrame_waitOver v core k wt)).trans (hretire _)
    refine ⟨?_, hctxs, hcore, hcores, hlogged⟩
    rw [ctxAt_retire, ctxAt_waitOver, hctx, waitOver, hanchor', hstatus']
    rfl

/-- A context that may issue owns its cluster (R96). -/
theorem owner_of_canIssue (h : canIssue s core k = true) : (clusterAt s (clusterOf core)).owner = some k := by
  obtain ⟨c, hc⟩ := cove_of_canIssue h
  unfold canIssue at h
  simp only [hc, Bool.and_eq_true, beq_iff_eq] at h
  obtain ⟨⟨⟨⟨⟨⟨-, hown⟩, -⟩, -⟩, -⟩, -⟩, -⟩ := h
  exact hown

/-- A SYNC instruction whose checks pass starts its wait and retires. -/
theorem waited_exec {i : Instr} {done : Bool} {anchor : Tick} {st : WainStatus} {wait : State → Wait}
    (f : Fetched s core k op w) (ok : FieldsOk s core k op w use Writes.none false)
    (hexec : exec i s = .next (issueNext s core k op w use Writes.none false true true none fun s =>
      startWait s core k (wait s)))
    (hdone : waitDone (updCtx s core k (waitBegun s (wait s))) core k (wait s) = done)
    (hanchor : anchorAfter (ctxAt s core k) (wait s) = anchor) (hstatus : statusAfter (ctxAt s core k) (wait s) = st) :
    ∃ t, exec i s = .next t ∧ Waited s t core k (wait s) done anchor st := by
  rw [issueNext_body f ok] at hexec
  exact ⟨_, hexec, hdone ▸ waited_retire (owner_of_canIssue f.can) hanchor hstatus⟩

/-- Settles O15: each instruction starts its wait, whose condition reads nothing that the start changes. -/
theorem waitsStartOrEnd : Obligations.WaitsStartOrEnd := by
  intro core k w s
  refine ⟨fun f ok => ?tide, fun f ok => ?wains, fun f ok => ?drain, fun f ok hscope => ?bar⟩
  case tide =>
    exact waited_exec (i := .swtide core k w)
      (wait := fun s => .tide ((sreg (ctxAt s core k) w.f2).toNat + w.imm.toNat)) f ok rfl rfl rfl rfl
  case wains =>
    refine waited_exec (i := .swains core k w) (wait := fun s => .wains (ctxAt s core k).wainSeq) f ok rfl ?_ rfl rfl
    simp [waitDone, waitBegun]
  case drain =>
    refine waited_exec (i := .sdrain core k w) (wait := fun _ => .drain) f ok rfl ?_ rfl rfl
    simp [waitDone, waitBegun, Machine.drained]
  case bar =>
    refine waited_exec (i := .stbar core k w) (wait := fun s => .bar (sreg (ctxAt s core k) w.f2).toNat
      ((sreg (ctxAt s core k) w.f2).toNat + levelBound s (bitsOf w.tail.toNat 1 0 + 1))) f ok ?_ rfl rfl rfl
    change Host.Outcome.next (issueNext ..) = _
    rw [decide_eq_true hscope]

end Sys2Proof.Proofs
end

section
/-!
PROOFS. The return address of a gathering tile's collective point: O12.
-/
namespace Sys2Proof.Proofs
open Sys2Proof Sys2Proof.Machine Sys2Proof.Laws Sys2Proof.Claim

/-! ### The state of the refutation

Core 0 runs context 0 at instruction 0, an MMA.GA of 128 × 32 by 32 × 128 BF16 elements whose operand A is gathered by
routine 0 at the die level of group entry 0. -/

/-- MMA.GA of K = 32, both operands BF16 at window offset 0, without a drain; group 0, routine 0, die level. -/
def gatherFields : Fields :=
  { f1 := 0#5, f2 := 0#5, f3 := 0#5, f4 := 0#5, control := 0x01110000#32, imm := 0#32, commune := 0x0001#16, tail := 0#16 }

def gatherContext : Ctx := { Ctx.reset with mode := .running, winCount := 1, codeLen := 16 }

/-- Group entry 0 is valid and defines the die level; routine 0 is loaded (R172, R196). -/
def gatherState : State :=
  { State.reset with
    coves := [(0, { Cove.reset with mode := .running, dies := 1#64 })]
    clusters := [(0, { ClusterState.reset with owner := some 0 })]
    cores := [(0, { CoreState.reset with
      ctxs := [(0, gatherContext)], imem := [(0, encodeWord 0x101 gatherFields)], rmem := [(0, 0x80000000#128)]
      groups := [(0, 0x101#64)] })] }

theorem gather_fetched : Fetched gatherState 0 0 0x101 gatherFields where
  can := by decide +kernel
  region := by decide +kernel
  sound := rfl
  word := by decide +kernel
  listed := by decide +kernel
  ready := by decide +kernel
  clear := by decide +kernel

theorem gather_fieldsOk : FieldsOk gatherState 0 0 0x101 gatherFields (matUse gatherFields true) Writes.none false := by
  refine ⟨?_, ?_, ?_⟩ <;> decide +kernel

theorem gather_tileReady : TileReady gatherState 0 0 gatherFields := by
  refine ⟨?_, ?_, ?_⟩ <;> decide +kernel

/-- The point that it records returns to address 0 until its routine starts, and the context stands at address 0. -/
theorem gather_point : ∃ t, exec (.mmaGa 0 0 gatherFields) gatherState = .next t
    ∧ (ctxAt t 0 0).points.map (·.retPc) = [0] ∧ (ctxAt gatherState 0 0).points = [] :=
  ⟨issueTile gatherState 0 0 0x101 gatherFields true false 1, rfl, by decide +kernel, rfl⟩

/-- Refutes O12 at MMA.GA: the return address of a recorded point is set when its routine starts (R134, R180), so that
at issue it is 0 and not the address after the instruction. -/
theorem not_tilesAreQueued : ¬ Obligations.TilesAreQueued := by
  intro h
  obtain ⟨t, i, ps, hexec, -, hctx, -, -, -, -, -, -, -, -, -, -, -, -, hpoint⟩ :=
    h (0x101, .mmaGa, true, false, 1) (by simp [matRows]) 0 0 gatherFields gatherState gather_fetched gather_fieldsOk
      (by decide +kernel) gather_tileReady
  obtain ⟨t', hexec', hret, hnone⟩ := gather_point
  obtain rfl : t = t' := by simpa [hexec] using hexec'
  obtain ⟨p, rfl, -, -, -, -, -, hafter⟩ := hpoint
  have hpoints : (ctxAt t 0 0).points = [p] := by rw [hctx, hnone]; rfl
  have hzero : p.retPc = 0 := by simpa [hpoints] using hret
  rw [hzero] at hafter
  exact absurd hafter (Nat.succ_ne_zero _).symm

end Sys2Proof.Proofs
end

section
/-!
PROOFS. The arguments and the return of a routine: O20.
-/
namespace Sys2Proof.Proofs
open Sys2Proof Sys2Proof.Machine Sys2Proof.Laws Sys2Proof.Claim

variable {s t u v : State} {core k : Nat} {w : Fields} {r : RoutineCall}

/-! ### RARG (R163) -/

theorem updCtx_congr {f g : Ctx → Ctx} (h : f (ctxAt s core k) = g (ctxAt s core k)) :
    updCtx s core k f = updCtx s core k g := by
  rw [updCtx, h, updCtx]

theorem routineArg_eq_getD (r : RoutineCall) {n : Nat} (h : n < 8) : routineArg r n =
    [r.elem, r.scale, r.bytes, r.fmt, r.caller.fields.imm.toNat, r.group, r.mask, r.caller.addr].getD n 0 := by
  match n, h with
  | 0, _ | 1, _ | 2, _ | 3, _ | 4, _ | 5, _ | 6, _ | 7, _ => rfl

theorem routineArguments : RoutineArguments := by
  intro core k w s r f ok hroutine hsel
  obtain ⟨v, hv⟩ : ∃ v, v = BitVec.ofNat 64 (routineArg r (bitsOf w.tail.toNat 3 0)) := ⟨_, rfl⟩
  have hexec : exec (.rarg core k w) s =
      .next (retire (updCtx s core k fun x => setSreg x w.f1 v) core k ((ctxAt s core k).pc + 1)) := by
    change Host.Outcome.next (issueNext ..) = _
    rw [decide_eq_true hsel, issueNext_body f ok, hv]
    exact congrArg (fun u => Host.Outcome.next (retire u ..)) (updCtx_congr (by rw [hroutine]))
  rw [← routineArg_eq_getD r hsel, ← hv]
  exact ⟨_, hexec, wroteScalar_retire ..⟩

/-! ### The scalar cell that comes back (R197) -/

/-- Contexts `k` of one cluster changed their vector registers and THR queues; memories stay. -/
structure CellTaken (s v : State) (core k : Nat) : Prop where
  self : ∃ vr q, ctxAt v core k = { ctxAt s core k with vregs := vr, thrQ := q }
  others : ∀ i j, ¬ (clusterOf i = clusterOf core ∧ j = k) → ctxAt v i j = ctxAt s i j
  sameCores : ∀ i, coreAt v i = { coreAt s i with ctxs := (coreAt v i).ctxs }
  mem : v.mem = s.mem

theorem CellTaken.refl (s : State) (core k : Nat) : CellTaken s s core k :=
  ⟨⟨_, _, rfl⟩, fun _ _ _ => rfl, fun _ => rfl, rfl⟩

/-- The first eight bytes of a call's scalar cell: its value and its flag. -/
def cellOf (s : State) (core k : Nat) (r : RoutineCall) : List Byte :=
  memRead (coreAt s core).scratch (winAddr (ctxAt s core k) r.elem) 8

theorem returnCell_none (h : r.scalar = false) : returnCell s core k r = s := by
  simp [returnCell, h]

theorem returnCell_lane (h : r.scalar = true) (hop : r.caller.op ≠ 0x501) : returnCell s core k r =
    updCtx s core k fun x =>
      resultLanes x r.caller.fields.f1.toNat (BitVec.ofNat 32 (leVal ((cellOf s core k r).take 4))) := by
  simp only [returnCell, h, Bool.not_true, Bool.false_eq_true, if_false, if_neg hop]
  rfl

theorem returnCell_sum (h : r.scalar = true) (hop : r.caller.op = 0x501)
    (hflag : bitOf (leVal ((cellOf s core k r).drop 4)) 0 = false) : returnCell s core k r =
      tssqReturn s core k (BitVec.ofNat 32 (leVal ((cellOf s core k r).take 4))) false := by
  have hsum : returnCell s core k r = tssqReturn s core k (BitVec.ofNat 32 (leVal ((cellOf s core k r).take 4)))
      (bitOf (leVal ((cellOf s core k r).drop 4)) 0) := by
    simp only [returnCell, h, Bool.not_true, Bool.false_eq_true, if_false, if_pos hop]
    rfl
  rw [hsum, hflag]

theorem cellTaken_lane (x : Nat) (value : Word) :
    CellTaken s (updCtx s core k fun c => resultLanes c x value) core k where
  self := by
    obtain ⟨vr, hvr⟩ := setLanes_eq (ctxAt s core k) x 0 (value :: List.replicate 255 0#32)
    exact ⟨vr, _, by rw [ctxAt_updCtx, resultLanes, hvr]⟩
  others i j hij := otherCtxs_updCtx s core k _ i j fun h => hij ⟨by rw [h.1], h.2⟩
  sameCores := coreAt_of_coreFrame (coreFrame_updCtx ..)
  mem := rfl

theorem coreAt_thrDone (s : State) (cl k i : Nat) :
    coreAt (thrDone s cl k) i = { coreAt s i with ctxs := (coreAt (thrDone s cl k) i).ctxs } :=
  forEach_rel (R := fun a b => ∀ i, coreAt b i = { coreAt a i with ctxs := (coreAt b i).ctxs }) (fun _ _ => rfl)
    (fun h h' i => by rw [h' i, h i]) (fun _ _ _ => coreAt_of_coreFrame (coreFrame_updCtx ..)) i

/-- A sum that comes back without its flag enters the running state and discards nothing (R160, R368). -/
theorem tssqReturn_eq (sum : Word) : ∃ cv, tssqReturn s core k sum false =
    { updThresh (thrDone s (clusterOf core) k) (clusterOf core) k fun r =>
        { r with sumsq := sum, nonfinite := r.nonfinite || false } with coves := cv } := by
  unfold tssqReturn
  dsimp only
  split
  · exact ⟨_, rfl⟩
  · split
    · exact ⟨_, rfl⟩
    · exact ⟨_, rfl⟩

theorem tssqReturn_outcome (sum : Word) : let v := tssqReturn s core k sum false
    CellTaken s v core k ∧ (threshAt v (clusterOf core) k).sumsq = sum
      ∧ (ctxAt v core k).thrQ = (ctxAt s core k).thrQ.drop 1 := by
  intro v
  obtain ⟨cv, hv⟩ : ∃ cv, v = _ := tssqReturn_eq sum
  have hcores : v.cores = (thrDone s (clusterOf core) k).cores := by rw [hv]; rfl
  have hctx : ∀ i j, ctxAt v i j = _ := fun i j => (ctxAt_of_cores hcores i j).trans (ctxAt_thrDone ..)
  have hself := (hctx core k).trans (if_pos ⟨rfl, rfl⟩)
  refine ⟨⟨⟨_, _, hself⟩, fun i j hij => (hctx i j).trans (if_neg hij), fun i => ?_, ?_⟩, ?_, ?_⟩
  · rw [coreAt, hcores]
    exact coreAt_thrDone ..
  · rw [hv]
    exact thrDone_mem s (clusterOf core) k
  · have hclusters : v.clusters = (updThresh (thrDone s (clusterOf core) k) (clusterOf core) k fun r =>
        { r with sumsq := sum, nonfinite := r.nonfinite || false }).clusters := by rw [hv]
    rw [threshAt_of_clusters hclusters, threshAt_updThresh]
  · rw [hself]

theorem cellTaken_returnCell
    (hflag : r.scalar = true → r.caller.op = 0x501 → bitOf (leVal ((cellOf s core k r).drop 4)) 0 = false) :
    CellTaken s (returnCell s core k r) core k := by
  cases hscalar : r.scalar with
  | false =>
    rw [returnCell_none hscalar]
    exact .refl ..
  | true =>
    by_cases hop : r.caller.op = 0x501
    · rw [returnCell_sum hscalar hop (hflag hscalar hop)]
      exact (tssqReturn_outcome _).1
    · rw [returnCell_lane hscalar hop]
      exact cellTaken_lane ..

/-! ### The return (R134, R180) -/

/-- The context whose routine has returned: the main stream's wait stands again. -/
def routineOver (c : CoreState) (r : RoutineCall) (x : Ctx) : Ctx :=
  { x with
    routine := none, anchor := gDeadline c r.group (highest r.mask) true r.anchor,
    callsDone := Sparse.set 0 x.callsDone r.group (r.call + 1),
    matQ := x.matQ.map (markReady r),
    wait := x.mainWait.map (·.1), waitStart := (x.mainWait.map (·.2.1)).getD x.waitStart,
    waitSwitched := (x.mainWait.map (·.2.2)).getD false, mainWait := none }

/-- The core without the pieces and notices of a call. -/
def callCleared (k : Nat) (r : RoutineCall) (c : CoreState) : CoreState :=
  { c with
    landed := c.landed.filter fun p => !(p.ctx == k && p.name.group == r.group && p.name.call == r.call)
    notices := c.notices.filter fun n => !(n.ctx == k && n.key.toNat == gKey c r.group && n.call == r.call) }

theorem mem_landed_callCleared {c : CoreState} {p : Landed} : p ∈ (callCleared k r c).landed ↔
    p ∈ c.landed ∧ ¬ (p.ctx = k ∧ p.name.group = r.group ∧ p.name.call = r.call) := by
  simp [callCleared, -not_and, not_and_or, or_assoc]

theorem mem_notices_callCleared {c : CoreState} {n : Notice} : n ∈ (callCleared k r c).notices ↔
    n ∈ c.notices ∧ ¬ (n.ctx = k ∧ n.key.toNat = gKey c r.group ∧ n.call = r.call) := by
  simp [callCleared, -not_and, not_and_or, or_assoc]

/-- The state after a return, before the main stream's wait is looked at. -/
def afterReturn (s : State) (core k : Nat) (r : RoutineCall) : State :=
  let v := returnCell s core k r
  retire (updCore (updCtx v core k (routineOver (coreAt v core) r)) core
    (callCleared k r)) core k r.retPc

theorem exec_rret (f : Fetched s core k 0x600 w) (ok : FieldsOk s core k 0x600 w Use.none Writes.none true)
    (hroutine : (ctxAt s core k).routine = some r)
    (hfree : interlocked (ctxAt s core k) (if r.scalar then [(r.elem, 64)] else []) [] = false)
    (hlane : r.scalar = true → r.caller.op ≠ 0x501 → vregBusy (ctxAt s core k) r.caller.fields.f1 = false) :
    exec (.rret core k w) s = .next (settleWait (afterReturn s core k r) core k) := by
  have hbusy : (r.scalar && r.caller.op != 0x501 && vregBusy (ctxAt s core k) r.caller.fields.f1) = false := by
    by_cases hscalar : r.scalar = true
    · by_cases hop : r.caller.op = 0x501
      · simp [hop]
      · simp [hlane hscalar hop]
    · simp [hscalar]
  change Host.Outcome.next (issue ..) = _
  simp only [hroutine, hfree, hbusy]
  refine congrArg Host.Outcome.next ((issue_body f ok).trans ?_)
  simp only [hroutine]
  rfl

/-- The group entries of a core hold the deadlines (R180). -/
theorem gDeadline_of_groups {c d : CoreState} (h : c.groups = d.groups) (g l : Nat) (late : Bool) (anchor : Tick) :
    gDeadline c g l late anchor = gDeadline d g l late anchor := by
  unfold gDeadline gTwoRounds gHall gRoundOne gWindow gLevel gWord
  rw [h]

theorem gKey_of_groups {c d : CoreState} (h : c.groups = d.groups) (g : Nat) : gKey c g = gKey d g := by
  unfold gKey gWord
  rw [h]

theorem ctxAt_afterReturn (s : State) (core k : Nat) (r : RoutineCall) : ctxAt (afterReturn s core k r) core k =
    { routineOver (coreAt (returnCell s core k r) core) r (ctxAt (returnCell s core k r) core k) with pc := r.retPc } := by
  unfold afterReturn
  rw [ctxAt_retire, ctxAt_updCore_of_ctxs (f := callCleared k r) fun _ => rfl, ctxAt_updCtx]

theorem otherCtxs_afterReturn (s : State) (core k : Nat) (r : RoutineCall) :
    OtherCtxs (returnCell s core k r) (afterReturn s core k r) core k := by
  intro i j hij
  unfold afterReturn
  rw [otherCtxs_of_coreFrame (coreFrame_retire ..) i j hij, ctxAt_updCore_of_ctxs (f := callCleared k r) fun _ => rfl]
  exact otherCtxs_updCtx _ _ _ _ i j hij

/-- The core but for its contexts. -/
theorem coreAt_afterReturn (s : State) (core k : Nat) (r : RoutineCall) : coreAt (afterReturn s core k r) core =
    { callCleared k r (coreAt (returnCell s core k r) core) with ctxs := (coreAt (afterReturn s core k r) core).ctxs } := by
  unfold afterReturn
  rw [coreAt_of_coreFrame (coreFrame_retire ..), coreAt_updCore, coreAt_of_coreFrame (coreFrame_updCtx ..)]
  rfl

theorem clusters_afterReturn (s : State) (core k : Nat) (r : RoutineCall) :
    (afterReturn s core k r).clusters = (returnCell s core k r).clusters := retire_clusters ..

theorem mem_afterReturn (s : State) (core k : Nat) (r : RoutineCall) :
    (afterReturn s core k r).mem = (returnCell s core k r).mem := retire_mem ..

/-- An SCOMMIT's wait ends with slack water only. -/
theorem settleWait_commit {tick : Tick} (h : (ctxAt s core k).wait = some (.commit tick)) : settleWait s core k = s := by
  simp [settleWait, h, waitDone]

theorem routineReturns : RoutineReturns := by
  intro core k w s r f ok hroutine hfree hlane cell hflag hcommit
  have htaken : CellTaken s (returnCell s core k r) core k := cellTaken_returnCell hflag
  obtain ⟨vr, q, hself⟩ := htaken.self
  have hafter := ctxAt_afterReturn s core k r
  have hctx := hafter
  rw [hself] at hctx
  have hwait : (ctxAt (afterReturn s core k r) core k).wait = (ctxAt s core k).mainWait.map (·.1) := by rw [hctx]; rfl
  have hsettled : settleWait (afterReturn s core k r) core k = afterReturn s core k r := by
    cases hmain : (ctxAt s core k).mainWait with
    | none => exact settleWait_none (by rw [hwait, hmain]; rfl)
    | some m =>
      obtain ⟨tick, htick⟩ := hcommit m.1 m.2.1 m.2.2 hmain
      exact settleWait_commit (tick := tick) (by rw [hwait, hmain, ← htick]; rfl)
  have hcore := coreAt_afterReturn s core k r
  have hlanded : (coreAt (returnCell s core k r) core).landed = (coreAt s core).landed := by rw [htaken.sameCores]
  have hnotices : (coreAt (returnCell s core k r) core).notices = (coreAt s core).notices := by rw [htaken.sameCores]
  have hgroups : (coreAt (returnCell s core k r) core).groups = (coreAt s core).groups := by rw [htaken.sameCores]
  have hexec := exec_rret f ok hroutine hfree hlane
  rw [hsettled] at hexec
  refine ⟨_, hexec, by rw [hctx]; rfl, by rw [hctx], by rw [hctx]; rfl, hwait, ?_, fun g => ?_, fun hscalar hop v l hl => ?_,
    fun hscalar => ?_, fun hscalar hop => ?_, fun p => ?_, fun n => ?_, ?_, ?_, fun q => by rw [hctx]; rfl,
    fun i j hij => ?_⟩
  · rw [hctx]
    exact gDeadline_of_groups hgroups ..
  · rw [hctx]
    exact get_set ..
  · rw [hafter]
    change lane (ctxAt (returnCell s core k r) core k) v l = _
    rw [returnCell_lane hscalar hop, ctxAt_updCtx]
    exact lane_resultLanes _ _ _ _ _ hl
  · rw [hafter]
    change (ctxAt (returnCell s core k r) core k).vregs = _
    rw [returnCell_none hscalar]
  · obtain ⟨-, hsum, hqueue⟩ := tssqReturn_outcome (s := s) (core := core) (k := k)
      (BitVec.ofNat 32 (leVal ((cellOf s core k r).take 4)))
    rw [← returnCell_sum hscalar hop (hflag hscalar hop)] at hsum hqueue
    rw [threshAt_of_clusters (clusters_afterReturn ..), hafter]
    exact ⟨hsum, hqueue⟩
  · rw [hcore, ← hlanded]
    exact mem_landed_callCleared
  · rw [hcore, ← hnotices, ← gKey_of_groups hgroups]
    exact mem_notices_callCleared
  · rw [hcore, callCleared, htaken.sameCores]
  · rw [mem_afterReturn, htaken.mem]
  · rw [otherCtxs_afterReturn s core k r i j fun h => hij ⟨by rw [h.1], h.2⟩, htaken.others i j hij]

/-! ### A wait that ends at the return (R155) -/

/-- Nothing of the context is queued, held with a drain to come, or recorded for a routine. -/
structure Idle (x : Ctx) : Prop where
  matQ : x.matQ = []
  held : ∀ h, x.held = some h → h.drainPending = false
  vecQ : x.vecQ = []
  thrQ : x.thrQ = []
  wainQ : x.wainQ = []
  points : x.points = []

theorem Idle.drained (h : Idle (ctxAt s core k)) (hroutine : (ctxAt s core k).routine = none) :
    Machine.drained s core k = true := by
  unfold Machine.drained
  cases hheld : (ctxAt s core k).held with
  | none => simp [h.matQ, h.vecQ, h.thrQ, h.wainQ, h.points, hroutine, hheld]
  | some t => simp [h.matQ, h.vecQ, h.thrQ, h.wainQ, h.points, hroutine, hheld, h.held t hheld]

/-- An idle context holds no range open (R97). -/
theorem Idle.interlocked {x : Ctx} (h : Idle x) : interlocked x [] [] = false := by
  cases hheld : x.held with
  | none => simp [Machine.interlocked, openReads, openWrites, h.matQ, h.vecQ, h.thrQ, h.wainQ, hheld]
  | some t => simp [Machine.interlocked, openReads, openWrites, h.matQ, h.vecQ, h.thrQ, h.wainQ, hheld, h.held t hheld]

theorem drainEndsAtReturn : DrainEndsAtReturn := by
  intro core k w s r tick sw f ok hroutine hscalar x hmain hmat hheld hvec hthr hwain hpoints
  have hreturn : returnCell s core k r = s := returnCell_none hscalar
  have hctx := ctxAt_afterReturn s core k r
  have hothers := otherCtxs_afterReturn s core k r
  rw [hreturn] at hctx hothers
  have hwait : (ctxAt (afterReturn s core k r) core k).wait = some .drain := by
    rw [hctx]
    exact congrArg (Option.map Prod.fst) hmain
  have hown : (clusterAt (afterReturn s core k r) (clusterOf core)).owner = some k := by
    rw [clusterAt, clusters_afterReturn, hreturn]
    exact owner_of_canIssue f.can
  have hidle : Idle (ctxAt s core k) := ⟨hmat, hheld, hvec, hthr, hwain, hpoints⟩
  have hidle' : Idle (ctxAt (afterReturn s core k r) core k) := by
    rw [hctx]
    exact ⟨congrArg (List.map (markReady r)) hmat, hheld, hvec, hthr, hwain, hpoints⟩
  have hdone : waitDone (afterReturn s core k r) core k .drain = true := hidle'.drained (by rw [hctx]; rfl)
  have hexec := exec_rret f ok hroutine (by rw [hscalar]; exact hidle.interlocked)
    fun h => absurd (hscalar.symm.trans h) Bool.false_ne_true
  rw [settleWait_some hwait hown, hdone, if_pos rfl] at hexec
  have hself := ctxAt_waitOver (afterReturn s core k r) core k .drain
  rw [hctx] at hself
  refine ⟨_, hexec, by rw [hself]; rfl, by rw [hself]; rfl, by rw [hself]; rfl, by rw [hself]; rfl, fun i j hij => ?_⟩
  rw [(loggedFrame_waitOver ..).otherCtxs i j hij, hothers i j hij]

/-- Settles O20: RARG is a write of rD; RRET changes the context and the core's receive areas, and then looks at the wait
that stands again. -/
theorem routineCalls : Obligations.RoutineCalls := ⟨routineArguments, routineReturns, drainEndsAtReturn⟩

end Sys2Proof.Proofs
end

section
/-!
PROOFS. The pieces that an RWAIT waits for, and the ways in which it goes on.
-/
namespace Sys2Proof.Proofs
open Sys2Proof Sys2Proof.Machine Sys2Proof.Laws Sys2Proof.Claim

variable {s t u : State} {core k rd l expected mask : Nat} {round2 gather late voted : Bool} {dl limit : Tick}
  {decided : Option Nat} {r : RoutineCall}

/-! ### What the geometry of a call reads (R168 to R178) -/

/-- Two states agree on what a core knows of its calls: its group entries, the pieces that have come, and which module and
cove it acts for. -/
structure SameCalls (s t : State) (core : Nat) : Prop where
  groups : (coreAt t core).groups = (coreAt s core).groups
  landed : (coreAt t core).landed = (coreAt s core).landed
  refused : (coreAt t core).refusedAhead = (coreAt s core).refusedAhead
  cove : coveOfCore t core = coveOfCore s core
  standin : t.standin = s.standin
  moduleId : t.moduleId = s.moduleId

theorem sameCalls_of_loggedFrame {i : Nat} (h : LoggedFrame s t core i) : SameCalls s t core where
  groups := by rw [h.sameCore]
  landed := by rw [h.sameCore]
  refused := by rw [h.sameCore]
  cove := coveOfCore_of_coves h.coves core
  standin := by rw [h.logged]
  moduleId := by rw [h.logged]

theorem SameCalls.trans (h : SameCalls s t core) (h' : SameCalls t u core) : SameCalls s u core :=
  ⟨h'.groups.trans h.groups, h'.landed.trans h.landed, h'.refused.trans h.refused, h'.cove.trans h.cove,
    h'.standin.trans h.standin, h'.moduleId.trans h.moduleId⟩

section
variable (h : SameCalls s t core)
include h

theorem SameCalls.gLevel (g l i : Nat) : gLevel (coreAt t core) g l i = gLevel (coreAt s core) g l i := by
  unfold Machine.gLevel gWord
  rw [h.groups]

theorem SameCalls.gHall (g : Nat) : gHall (coreAt t core) g = gHall (coreAt s core) g := by
  unfold Machine.gHall
  rw [h.gLevel]

theorem SameCalls.gTwoRounds (g l : Nat) : gTwoRounds (coreAt t core) g l = gTwoRounds (coreAt s core) g l := by
  unfold Machine.gTwoRounds
  rw [h.gHall]

theorem SameCalls.gOmit (g : Nat) : gOmit (coreAt t core) g = gOmit (coreAt s core) g := by
  unfold Machine.gOmit gWord
  rw [h.groups]

theorem SameCalls.gMembers (g l : Nat) : gMembers t core g l = gMembers s core g l := by
  unfold Machine.gMembers actingModule
  simp only [h.gLevel, h.gHall, h.cove, h.standin, h.moduleId]

theorem SameCalls.gRank (g l : Nat) : gRank t core g l = gRank s core g l := by
  unfold Machine.gRank actingModule
  simp only [h.gMembers, h.cove, h.standin, h.moduleId]

theorem SameCalls.gOwnSlot (g l : Nat) (round2 : Bool) : gOwnSlot t core g l round2 = gOwnSlot s core g l round2 := by
  unfold Machine.gOwnSlot
  simp only [h.gRank, h.gTwoRounds, h.gHall]

theorem SameCalls.pieceBytes (r : RoutineCall) (l : Nat) (round2 gather : Bool) :
    pieceBytes t core r l round2 gather = pieceBytes s core r l round2 gather := by
  unfold Machine.pieceBytes pieceFmt gGather gWire enteringCount roundMembers
  simp only [h.gLevel, h.gMembers, h.gTwoRounds, h.gHall]

theorem SameCalls.slotHeld (k : Nat) (r : RoutineCall) (l : Nat) (round2 gather : Bool) (j : Nat) :
    slotHeld t core k r l round2 gather j = slotHeld s core k r l round2 gather j := by
  unfold Machine.slotHeld
  rw [h.landed]
  simp only [h.pieceBytes]

theorem SameCalls.slotWasRefused (r : RoutineCall) (l : Nat) (round2 : Bool) (j : Nat) :
    slotWasRefused t core r l round2 j = slotWasRefused s core r l round2 j := by
  unfold Machine.slotWasRefused
  rw [h.refused]

theorem SameCalls.missingSlots (k : Nat) (r : RoutineCall) (l : Nat) (round2 gather voted : Bool) (mask : Nat) :
    missingSlots t core k r l round2 gather voted mask = missingSlots s core k r l round2 gather voted mask := by
  unfold Machine.missingSlots
  simp only [h.gOwnSlot, h.slotHeld, h.slotWasRefused]

end

/-! ### The end of an RWAIT (R182, R538) -/

/-- The context when its RWAIT has ended with a mask. -/
def slotsOver (r : RoutineCall) (rd l : Nat) (round2 gather late : Bool) (mask : Nat) (x : Ctx) : Ctx :=
  { setSreg { x with wait := none, waitSwitched := false } (BitVec.ofNat 5 rd) (BitVec.ofNat 64 mask) with
    routine := some { r with
      late := r.late || late, waited := if gather then r.waited else r.waited ++ [(l, round2)] } }

theorem endSlots_eq : ∃ w, endSlots s core k r rd l round2 gather late expected mask =
    updCtx (traceWait s core w) core k (slotsOver r rd l round2 gather late mask) := ⟨_, rfl⟩

theorem loggedFrame_endSlots :
    LoggedFrame s (endSlots s core k r rd l round2 gather late expected mask) core k := by
  obtain ⟨w, hend⟩ := endSlots_eq (s := s)
  rw [hend]
  exact (ringsOnly_traceWait s core w).loggedFrame.trans (loggedFrame_of_coreFrame (coreFrame_updCtx ..))

theorem ctxAt_endSlots : ctxAt (endSlots s core k r rd l round2 gather late expected mask) core k =
    slotsOver r rd l round2 gather late mask (ctxAt s core k) := by
  obtain ⟨w, hend⟩ := endSlots_eq (s := s)
  rw [hend, ctxAt_updCtx, ctxAt_of_cores (ringsOnly_traceWait s core w).cores]

/-- Only scalar registers, the wait and the routine's record differ. -/
theorem slotsOver_eq (x : Ctx) : ∃ regs q, slotsOver r rd l round2 gather late mask x =
    { x with sregs := regs, wait := none, waitSwitched := false, routine := some q } := by
  obtain ⟨regs, hregs⟩ := setSreg_eq { x with wait := none, waitSwitched := false } (BitVec.ofNat 5 rd) (BitVec.ofNat 64 mask)
  exact ⟨regs, _, by rw [slotsOver, hregs]⟩

theorem sreg_slotsOver (hrd : rd < 32) (x : Ctx) (q : BitVec 5) : sreg (slotsOver r rd l round2 gather late mask x) q =
    if q.toNat = rd ∧ rd ≠ 0 then BitVec.ofNat 64 mask else sreg x q := by
  refine (sreg_setSreg ..).trans (if_congr (and_congr ?_ (not_congr ?_)) rfl rfl)
  · rw [← BitVec.toNat_inj, BitVec.toNat_ofNat, Nat.mod_eq_of_lt (by omega)]
  · rw [← BitVec.toNat_inj, BitVec.toNat_ofNat, Nat.mod_eq_of_lt (by omega), BitVec.toNat_ofNat, Nat.zero_mod]

theorem scratch_of_loggedFrame (h : LoggedFrame s t core k) (i : Nat) : (coreAt t i).scratch = (coreAt s i).scratch := by
  by_cases hi : i = core
  · rw [hi, h.sameCore]
  · rw [h.sameCores i hi]

theorem waitEndsWith_endSlots (hrd : rd < 32) :
    WaitEndsWith s (endSlots s core k r rd l round2 gather late expected mask) core k rd mask := by
  have hframe : LoggedFrame s (endSlots s core k r rd l round2 gather late expected mask) core k := loggedFrame_endSlots
  obtain ⟨regs, q, hover⟩ := slotsOver_eq (r := r) (rd := rd) (l := l) (round2 := round2) (gather := gather) (late := late)
    (mask := mask) (ctxAt s core k)
  refine ⟨by rw [ctxAt_endSlots, hover], fun q => by rw [ctxAt_endSlots, sreg_slotsOver hrd], by rw [ctxAt_endSlots, hover],
    hframe.otherCtxs, scratch_of_loggedFrame hframe⟩

/-! ### How an RWAIT goes on (R182, R184, R186) -/

/-- The half that the call's last wait names. -/
def gatherHalf (r : RoutineCall) : Bool := match r.last with | some p => p.2.2 | none => false

/-- A context that owns its cluster waits in an RWAIT of its routine. -/
structure WaitsForSlots (s : State) (core k rd l : Nat) (round2 : Bool) (expected : Nat) (dl limit : Tick) (late : Bool)
    (decided : Option Nat) (r : RoutineCall) : Prop where
  wait : (ctxAt s core k).wait = some (.slots rd l round2 expected dl limit late decided)
  routine : (ctxAt s core k).routine = some r
  owner : (clusterAt s (clusterOf core)).owner = some k

/-- The level's pieces are decided on by a vote: an omit level outside the gather half (R184). -/
def votedAt (s : State) (core : Nat) (r : RoutineCall) (l : Nat) : Bool :=
  bitOf (gOmit (coreAt s core) r.group) l && !gatherHalf r

/-- What an RWAIT with a known mask still waits for. -/
def awaited (s : State) (core k : Nat) (r : RoutineCall) (l : Nat) (round2 : Bool) (mask : Nat) : List Nat :=
  missingSlots s core k r l round2 (gatherHalf r) (votedAt s core r l) mask
    ++ (if votedAt s core r l && unrecorded s core r l round2 then missingNotices s core k r l round2 mask else [])

/-- The wait has passed its deadline. -/
def nowLate (s : State) (core : Nat) (r : RoutineCall) (l : Nat) (dl : Tick) (late : Bool) : Bool :=
  late || ((!votedAt s core r l || (match coveOfCore s core with | some c => (coveAt s c).forced | none => false))
    && decide (dl < ctxNow s core))

/-- An RWAIT goes on with its mask: it ends, fails its call at the limit, or turns late. -/
def settleMask (s : State) (core k rd l : Nat) (round2 : Bool) (expected : Nat) (dl limit : Tick) (late : Bool)
    (decided : Option Nat) (r : RoutineCall) (mask : Nat) : State :=
  if awaited s core k r l round2 mask = [] then
    let u := if votedAt s core r l && unrecorded s core r l round2 then
      updCtx s core k fun x => { x with count := noticeCount s core k r l round2 mask } else s
    endSlots (if gatherHalf r && decide (dl < ctxNow s core) then bumpCoveSet u (coveOfCore u core) 11 1 else u) core k r rd l
      round2 (gatherHalf r) (nowLate s core r l dl late) expected mask
  else if limit ≤ ctxNow s core then
    endSlots (callFails s core 0x5013 (callKey r.group r.call)) core k r rd l round2 (gatherHalf r) true expected
      (mask - maskOf (awaited s core k r l round2 mask))
  else if nowLate s core r l dl late && !late then
    updCtx s core k fun x =>
      { x with wait := some (.slots rd l round2 expected dl limit true decided), routine := some { r with late := true } }
  else s

theorem votedAt_of_sameCalls (h : SameCalls s t core) (r : RoutineCall) (l : Nat) : votedAt t core r l = votedAt s core r l := by
  rw [votedAt, h.gOmit, votedAt]

theorem unrecorded_of_unforced {c : Nat} (hcove : coveOfCore s core = some c) (hforced : (coveAt s c).forced = false) :
    unrecorded s core r l round2 = false := by
  simp [unrecorded, hcove, hforced]

theorem settleSlots_eq (h : WaitsForSlots s core k rd l round2 expected dl limit late decided r) : settleSlots s core k =
    match if votedAt s core r l then decided else some expected with
    | none => s
    | some mask => settleMask s core k rd l round2 expected dl limit late decided r mask := by
  unfold settleSlots
  simp only [h.wait, h.routine, h.owner, bne_self_eq_false, Bool.false_eq_true, if_false]
  rfl

/-- Without a decision a wait at a voted level goes on as it is. -/
theorem settleSlots_undecided (h : WaitsForSlots s core k rd l round2 expected dl limit late none r)
    (hvoted : votedAt s core r l = true) : settleSlots s core k = s := by
  rw [settleSlots_eq h, if_pos hvoted]

theorem settleSlots_unvoted (h : WaitsForSlots s core k rd l round2 expected dl limit late decided r)
    (hvoted : votedAt s core r l = false) :
    settleSlots s core k = settleMask s core k rd l round2 expected dl limit late decided r expected := by
  rw [settleSlots_eq h, if_neg (by rw [hvoted]; exact Bool.false_ne_true)]

theorem settleSlots_decided (h : WaitsForSlots s core k rd l round2 expected dl limit late (some mask) r)
    (hvoted : votedAt s core r l = true) :
    settleSlots s core k = settleMask s core k rd l round2 expected dl limit late (some mask) r mask := by
  rw [settleSlots_eq h, if_pos hvoted]

theorem awaited_of_recorded (h : (votedAt s core r l && unrecorded s core r l round2) = false) :
    awaited s core k r l round2 mask = missingSlots s core k r l round2 (gatherHalf r) (votedAt s core r l) mask := by
  rw [awaited, h, if_neg Bool.false_ne_true, List.append_nil]

/-- With every piece of its mask here a wait ends with the mask. -/
theorem settleMask_ends (hrecord : (votedAt s core r l && unrecorded s core r l round2) = false)
    (hnone : missingSlots s core k r l round2 (gatherHalf r) (votedAt s core r l) mask = []) :
    ∃ u late', Counted s u ∧ settleMask s core k rd l round2 expected dl limit late decided r mask =
      endSlots u core k r rd l round2 (gatherHalf r) late' expected mask := by
  refine ⟨if gatherHalf r && decide (dl < ctxNow s core) then bumpCoveSet s (coveOfCore s core) 11 1 else s,
    nowLate s core r l dl late, (Counted.refl s).thenIte (counted_bumpCoveSet ..), ?_⟩
  rw [settleMask, awaited_of_recorded hrecord, if_pos hnone, hrecord]
  rfl

theorem Counted.loggedFrame (h : Counted s t) : LoggedFrame s t core k := by
  obtain ⟨tr, rfl, -⟩ := h
  exact ⟨fun _ _ => rfl, rfl, fun _ _ => rfl, rfl⟩

/-- What ends a wait ends it for an earlier state too, from which only other things differ. -/
theorem waitEndsWith_after {mask : Nat} (hregs : (ctxAt u core k).sregs = (ctxAt s core k).sregs)
    (hpc : (ctxAt u core k).pc = (ctxAt s core k).pc) (hothers : OtherCtxs s u core k)
    (hscratch : ∀ i, (coreAt u i).scratch = (coreAt s i).scratch) (hends : WaitEndsWith u t core k rd mask) :
    WaitEndsWith s t core k rd mask := by
  obtain ⟨hwait, hregs', hpc', hothers', hscratch'⟩ := hends
  have hsreg : ∀ q, sreg (ctxAt u core k) q = sreg (ctxAt s core k) q := fun q => by rw [sreg, hregs, sreg]
  simp only [hsreg] at hregs'
  exact ⟨hwait, hregs', hpc'.trans hpc, fun i j hij => (hothers' i j hij).trans (hothers i j hij),
    fun i => (hscratch' i).trans (hscratch i)⟩

theorem countsOnly_traceWait (s : State) (core : Nat) (w : WaitRec) : CountsOnly [0xE002] s (traceWait s core w) := by
  have hdrop : ∀ c cause, CountsOnly [0xE002] s (dropWait s c cause) := fun c cause => by
    unfold dropWait
    extract_lets first s1 s2
    have hcounts : CountsOnly [0xE002] s s2 := countsOnly_of_sources _ rfl
    split
    · exact hcounts.trans (countsOnly_record _ _ _ _ (by decide) (by decide))
    · exact hcounts
  unfold traceWait
  split
  · exact .refl s
  · dsimp only
    split
    · split
      · exact hdrop _ _
      · exact countsOnly_of_sources _ rfl
    · exact .refl s

theorem countsOnly_endSlots :
    CountsOnly [0xE002] s (endSlots s core k r rd l round2 gather late expected mask) := by
  obtain ⟨w, hend⟩ := endSlots_eq (s := s)
  rw [hend]
  exact (countsOnly_traceWait s core w).trans (countsOnly_of_trace _ rfl)

/-- With every piece of its mask here a wait ends with the mask, the count of its context stays, and at most a lost wait
record is an event. -/
theorem settleMask_over (hrecord : (votedAt s core r l && unrecorded s core r l round2) = false)
    (hnone : missingSlots s core k r l round2 (gatherHalf r) (votedAt s core r l) mask = []) (hrd : rd < 32) :
    let t := settleMask s core k rd l round2 expected dl limit late decided r mask
    WaitEndsWith s t core k rd mask ∧ LoggedFrame s t core k ∧ (ctxAt t core k).count = (ctxAt s core k).count
      ∧ CountsOnly [0xE002] s t := by
  intro t
  obtain ⟨u, late', hcounted, ht⟩ : ∃ u late', Counted s u ∧ t = _ := settleMask_ends hrecord hnone
  have hctx : ctxAt u core k = ctxAt s core k := hcounted.ctxAt ..
  have hframe : LoggedFrame s u core k := hcounted.loggedFrame
  have hsources : u.trace.sources = s.trace.sources := by
    obtain ⟨tr, rfl, hsources⟩ := hcounted
    exact hsources
  rw [ht]
  refine ⟨waitEndsWith_after (by rw [hctx]) (by rw [hctx]) hframe.otherCtxs (scratch_of_loggedFrame hframe)
    (waitEndsWith_endSlots hrd), hframe.trans loggedFrame_endSlots, ?_,
    (countsOnly_of_sources _ hsources).trans countsOnly_endSlots⟩
  obtain ⟨regs, q, hover⟩ := slotsOver_eq (r := r) (rd := rd) (l := l) (round2 := round2) (gather := gatherHalf r)
    (late := late') (mask := mask) (ctxAt u core k)
  rw [ctxAt_endSlots, hover, ← hctx]

/-- At the limit a wait for missing pieces fails its call and ends with the pieces that came. -/
theorem settleMask_fails (hrecord : (votedAt s core r l && unrecorded s core r l round2) = false)
    (hsome : missingSlots s core k r l round2 (gatherHalf r) (votedAt s core r l) mask ≠ [])
    (hlimit : limit ≤ ctxNow s core) : settleMask s core k rd l round2 expected dl limit late decided r mask =
      endSlots (callFails s core 0x5013 (callKey r.group r.call)) core k r rd l round2 (gatherHalf r) true expected
        (mask - maskOf (missingSlots s core k r l round2 (gatherHalf r) (votedAt s core r l) mask)) := by
  rw [settleMask, awaited_of_recorded hrecord, if_neg hsome, if_pos hlimit]

/-- Before the limit it waits on, and may turn late. -/
theorem settleMask_waits (h : WaitsForSlots s core k rd l round2 expected dl limit late decided r)
    (hrecord : (votedAt s core r l && unrecorded s core r l round2) = false)
    (hsome : missingSlots s core k r l round2 (gatherHalf r) (votedAt s core r l) mask ≠ [])
    (hlimit : ctxNow s core < limit) :
    let t := settleMask s core k rd l round2 expected dl limit late decided r mask
    CoreFrame s t core k ∧ ∃ late' q, ctxAt t core k = { ctxAt s core k with
      wait := some (.slots rd l round2 expected dl limit late' decided), routine := some q } := by
  intro t
  have ht : t = if nowLate s core r l dl late && !late then updCtx s core k fun x =>
      { x with wait := some (.slots rd l round2 expected dl limit true decided), routine := some { r with late := true } }
      else s := by
    simp only [t]
    rw [settleMask, awaited_of_recorded hrecord, if_neg hsome, if_neg (Nat.not_le.2 hlimit)]
  rw [ht]
  split
  · exact ⟨coreFrame_updCtx .., true, _, ctxAt_updCtx ..⟩
  · refine ⟨⟨fun _ _ => rfl, rfl, fun _ _ => rfl, rfl⟩, late, r, ?_⟩
    rw [← h.wait, ← h.routine]

end Sys2Proof.Proofs
end

section
/-!
PROOFS. What a routine sends to its peers and how its RWAIT begins: O21.
-/
namespace Sys2Proof.Proofs
open Sys2Proof Sys2Proof.Machine Sys2Proof.Laws Sys2Proof.Claim

variable {s t u : State} {core k : Nat} {w : Fields} {r : RoutineCall}

/-! ### RSEND and RGLEAN (R163, R171, R189) -/

theorem stallOf_none {full locked : Bool} (hfull : full = false) (hlocked : locked = false) :
    stallOf full locked = none := by
  rw [hfull, hlocked]
  rfl

/-- Round and half that an RSEND's slot belongs to. -/
def sendHalf (s : State) (core : Nat) (r : RoutineCall) (w : Fields) : Bool × Bool :=
  let round2 := decide (32 ≤ sendSlot w) && gTwoRounds (coreAt s core) r.group (rtnLevel w)
  (round2, inGather r (rtnLevel w) round2)

/-- The descriptor of an RSEND before it takes its place in the queue. -/
def sentDescriptor (s : State) (core k : Nat) (r : RoutineCall) (w : Fields) : WainDesc :=
  let x := ctxAt s core k
  let half := sendHalf s core r w
  { op := 0x102, addr := x.pc, src := sreg x w.f2,
    dst := BitVec.ofNat 64 (peerAddr s core r.group (rtnLevel w) (sreg x w.f4).toNat
      (gSlotAddr s core r.group (rtnLevel w) half.2 r.call (sendSlot w))),
    len := (sreg x w.f3).toNat, ret := none, localSrc := true, localDst := false, cls := wainClass w,
    slot := some (slotName s core r (rtnLevel w) half.1 half.2 false (sendSlot w)), moved := 0, status := .done,
    awaiting := 0, leaves := 0, tick := s.tide.now, seq := 0 }

/-- The descriptor of an RGLEAN before it takes its place in the queue. -/
def gleanDescriptor (s : State) (core k : Nat) (r : RoutineCall) (w : Fields) : WainDesc :=
  let x := ctxAt s core k
  { op := 0x106, addr := x.pc, src := sreg x w.f2, dst := sreg x w.f1, len := (sreg x w.f3).toNat, ret := none,
    localSrc := true, localDst := false, cls := (r.classes.getLast?.map (·.2)).getD 1, slot := none, moved := 0,
    status := .done, awaiting := 0, leaves := 0, tick := s.tide.now, seq := 0 }

/-- The context that has sent in a level's class. -/
def ctxSent (s : State) (core k : Nat) (r : RoutineCall) (w : Fields) (x : Ctx) : Ctx :=
  { enqueueWain x (sentDescriptor s core k r w) with
    routine := some { r with classes := Sparse.set 0 r.classes (rtnLevel w) (wainClass w) } }

theorem exec_rsend (f : Fetched s core k 0x602 w)
    (ok : FieldsOk s core k 0x602 w { Use.none with
      f2 := true, f3 := true, f4 := true, control := 0x0F000000#32, tail := 0x00FF#16 } Writes.none true)
    (hroutine : (ctxAt s core k).routine = some r) (hlevel : bitOf (callMask (ctxAt s core k)) (rtnLevel w) = true)
    (hclass : 1 ≤ wainClass w ∧ wainClass w ≤ 10) (hlen : wainLenOk 0 (sreg (ctxAt s core k) w.f3).toNat = true)
    (halign : (sreg (ctxAt s core k) w.f2).toNat % 64 = 0)
    (hrank : (sreg (ctxAt s core k) w.f4).toNat < (gMembers s core r.group (rtnLevel w)).length)
    (hdiv : dividesOk s core r (rtnLevel w) = true)
    (hwindow : inWindow (ctxAt s core k) (sreg (ctxAt s core k) w.f2).toNat (sreg (ctxAt s core k) w.f3).toNat = true)
    (hroom : (ctxAt s core k).wainQ.length < 32)
    (hfree : interlocked (ctxAt s core k)
      [((sreg (ctxAt s core k) w.f2).toNat, (sreg (ctxAt s core k) w.f3).toNat)] [] = false) :
    exec (.rsend core k w) s =
      .next (retire (updCtx s core k (ctxSent s core k r w)) core k ((ctxAt s core k).pc + 1)) := by
  change execRsend core k w s = _
  unfold execRsend
  simp only [hroutine, levelNamed, hlevel, hclass.1, hclass.2, hlen, halign, hrank, hdiv, hwindow, beq_self_eq_true,
    decide_true, Bool.and_self, stallOf_none (decide_eq_false (Nat.not_le.2 hroom)) hfree]
  rw [issueNext_body f ok]
  simp only [hroutine]
  exact congrArg (fun u => Host.Outcome.next (retire u ..)) (updCtx_congr rfl)

theorem exec_rglean (f : Fetched s core k 0x606 w)
    (ok : FieldsOk s core k 0x606 w { Use.none with f1 := true, f2 := true, f3 := true } Writes.none true)
    (hroutine : (ctxAt s core k).routine = some r) (hlen : wainLenOk 0 (sreg (ctxAt s core k) w.f3).toNat = true)
    (hsrc : (sreg (ctxAt s core k) w.f2).toNat % 64 = 0) (hdst : (sreg (ctxAt s core k) w.f1).toNat % 64 = 0)
    (hwindow : inWindow (ctxAt s core k) (sreg (ctxAt s core k) w.f2).toNat (sreg (ctxAt s core k) w.f3).toNat = true)
    (hroom : (ctxAt s core k).wainQ.length < 32)
    (hfree : interlocked (ctxAt s core k)
      [((sreg (ctxAt s core k) w.f2).toNat, (sreg (ctxAt s core k) w.f3).toNat)] [] = false) :
    exec (.rglean core k w) s = .next (retire (updCtx s core k fun x => enqueueWain x (gleanDescriptor s core k r w))
      core k ((ctxAt s core k).pc + 1)) := by
  change execRglean core k w s = _
  unfold execRglean
  simp only [hroutine, hlen, hsrc, hdst, hwindow, beq_self_eq_true, Bool.and_self,
    stallOf_none (decide_eq_false (Nat.not_le.2 hroom)) hfree]
  rw [issueNext_body f ok]
  exact congrArg (fun u => Host.Outcome.next (retire u ..)) (updCtx_congr rfl)

theorem coreFrame_retire_updCtx (s : State) (core k pc : Nat) (f : Ctx → Ctx) :
    CoreFrame s (retire (updCtx s core k f) core k pc) core k :=
  coreFrame_trans (coreFrame_updCtx ..) (coreFrame_retire ..)

theorem routineSends : RoutineSends := by
  intro core k w s r hroutine x l slot n round2 gather hwindow hroom hfree hlen halign
  refine ⟨fun f ok hlevel hmin hmax hrank hdiv => ?send, fun f ok hdst => ?glean⟩
  case send =>
    refine ⟨_, { sentDescriptor s core k r w with seq := x.wainSeq },
      exec_rsend f ok hroutine hlevel ⟨hmin, hmax⟩ hlen halign hrank hdiv hwindow hroom hfree,
      coreFrame_retire_updCtx .., ?_, rfl, rfl, rfl, rfl, rfl, rfl, rfl,
      Sparse.set 0 r.classes (rtnLevel w) (wainClass w), ?_, get_set_same ..⟩
    · rw [ctxAt_retire, ctxAt_updCtx]
      rfl
    · rw [ctxAt_retire, ctxAt_updCtx]
      rfl
  case glean =>
    refine ⟨_, { gleanDescriptor s core k r w with seq := x.wainSeq },
      exec_rglean f ok hroutine hlen halign hdst hwindow hroom hfree, coreFrame_retire_updCtx .., ?_, rfl, rfl, rfl, rfl,
      rfl, rfl⟩
    rw [ctxAt_retire, ctxAt_updCtx]
    rfl

/-! ### RWAIT (R163, R182, R184) -/

/-- The wait of an RWAIT: its level, round and half, its expected mask, its deadline and limit. -/
structure SlotWait where
  l : Nat
  round2 : Bool
  gather : Bool
  expected : Nat
  dl : Tick
  limit : Tick

/-- The wait that an RWAIT starts. -/
def slotWaitOf (s : State) (core k : Nat) (r : RoutineCall) (w : Fields) : SlotWait :=
  let c := coreAt s core
  let l := rtnLevel w
  let expected := (sreg (ctxAt s core k) w.f2).toNat
  let round2 := gTwoRounds c r.group l && decide (2 ^ 32 ≤ expected)
  let gather := inGather r l round2
  { l := l, round2 := round2, gather := gather, expected := expected,
    dl := if gather then gDeadline c r.group (highest r.mask) true r.anchor else gDeadline c r.group l round2 r.anchor
    limit := if gather then gTopLimit c r.group r.mask r.anchor else gLimit c r.group l round2 r.anchor }

/-- The routine's record of its last wait. -/
def waitNoted (r : RoutineCall) (a : SlotWait) : RoutineCall := { r with last := some (a.l, a.round2, a.gather) }

/-- The context that has started the wait of an RWAIT. -/
def slotsBegun (s : State) (r : RoutineCall) (w : Fields) (a : SlotWait) (x : Ctx) : Ctx :=
  { x with
    routine := some (waitNoted r a), waitStart := s.tide.now, waitSwitched := false,
    wait := some (.slots w.f1.toNat a.l a.round2 a.expected a.dl a.limit false none) }

theorem waitsForSlots_slotsBegun {a : SlotWait} (hown : (clusterAt s (clusterOf core)).owner = some k) :
    WaitsForSlots (updCtx s core k (slotsBegun s r w a)) core k w.f1.toNat a.l a.round2 a.expected a.dl a.limit false
      none (waitNoted r a) where
  wait := by rw [ctxAt_updCtx]; rfl
  routine := by rw [ctxAt_updCtx]; rfl
  owner := hown

theorem sameCalls_of_coreFrame (h : CoreFrame s t core k) : SameCalls s t core :=
  sameCalls_of_loggedFrame (loggedFrame_of_coreFrame h)

/-- At a level without a vote an RWAIT starts its wait with its whole mask and goes on with it. -/
theorem exec_rwait (f : Fetched s core k 0x603 w)
    (ok : FieldsOk s core k 0x603 w { Use.none with f1 := true, f2 := true, tail := 0x0003#16 }
      { Writes.none with sreg := some w.f1 } true)
    (hroutine : (ctxAt s core k).routine = some r) (hlevel : bitOf (callMask (ctxAt s core k)) (rtnLevel w) = true)
    {a : SlotWait} (ha : a = slotWaitOf s core k r w)
    (hvoted : bitOf (gOmit (coreAt s core) r.group) a.l = false ∨ a.gather = true) :
    exec (.rwait core k w) s = .next (retire
      (settleMask (updCtx s core k (slotsBegun s r w a)) core k w.f1.toNat a.l a.round2 a.expected a.dl a.limit false none
        (waitNoted r a) a.expected) core k ((ctxAt s core k).pc + 1)) := by
  have hunvoted : (bitOf (gOmit (coreAt s core) r.group) a.l && !a.gather) = false := by
    obtain h | h := hvoted <;> simp [h]
  have hsettle : settleSlots (updCtx s core k (slotsBegun s r w a)) core k = _ :=
    settleSlots_unvoted (waitsForSlots_slotsBegun (owner_of_canIssue f.can)) (by
      rw [votedAt_of_sameCalls (sameCalls_of_coreFrame (coreFrame_updCtx ..))]
      exact hunvoted)
  change execRwait core k w s = _
  unfold execRwait
  simp only [levelNamed, hlevel]
  rw [issueNext_body f ok, ← hsettle]
  simp only [hroutine]
  subst ha
  rw [if_neg]
  · rfl
  · intro h
    obtain ⟨h, -⟩ := Bool.and_eq_true_iff.1 h
    exact Bool.false_ne_true (hunvoted.symm.trans h)

/-- The missing pieces are those that were missing when the RWAIT issued. -/
theorem missingSlots_slotsBegun (a : SlotWait) (l expected : Nat) (round2 gather voted : Bool) :
    missingSlots (updCtx s core k (slotsBegun s r w a)) core k (waitNoted r a) l round2 gather voted expected =
      missingSlots s core k r l round2 gather voted expected :=
  (sameCalls_of_coreFrame (coreFrame_updCtx ..)).missingSlots ..

theorem routineWaits : RoutineWaits := by
  intro core k w s r hroutine f ok x l expected round2 gather limit hlevel hvoted
  obtain ⟨a, ha⟩ : ∃ a, a = slotWaitOf s core k r w := ⟨_, rfl⟩
  have hexec := exec_rwait f ok hroutine hlevel ha (by rw [ha]; exact hvoted)
  obtain ⟨v, hv⟩ : ∃ v, v = updCtx s core k (slotsBegun s r w a) := ⟨_, rfl⟩
  have hctx : ctxAt v core k = slotsBegun s r w a x := by rw [hv, ctxAt_updCtx]
  have hbegun : CoreFrame s v core k := hv ▸ coreFrame_updCtx ..
  have hvotedAt : votedAt v core (waitNoted r a) a.l = false := by
    rw [votedAt_of_sameCalls (sameCalls_of_coreFrame hbegun), ha]
    obtain h | h := hvoted
    · exact Bool.and_eq_false_iff.2 (.inl h)
    · exact Bool.and_eq_false_iff.2 (.inr (congrArg Bool.not h))
  have hrecord : (votedAt v core (waitNoted r a) a.l && unrecorded v core (waitNoted r a) a.l a.round2) = false := by
    rw [hvotedAt, Bool.false_and]
  have hmissing : missingSlots v core k (waitNoted r a) a.l a.round2 (gatherHalf (waitNoted r a))
      (votedAt v core (waitNoted r a) a.l) a.expected = missingSlots s core k r l round2 gather false expected := by
    rw [hvotedAt, hv, missingSlots_slotsBegun, ha]
    rfl
  rw [← hv] at hexec
  refine ⟨fun hnone => ?ends, fun hsome hlimit => ?waits⟩
  case ends =>
    obtain ⟨⟨hwait, hregs, hpc, hothers, hscratch⟩, hframe, -, -⟩ := settleMask_over (k := k) (expected := a.expected)
      (dl := a.dl) (limit := a.limit) (late := false) (decided := none) hrecord (hmissing.trans hnone) w.f1.isLt
    have hall := (loggedFrame_of_coreFrame hbegun).trans (hframe.trans
      (loggedFrame_of_coreFrame (coreFrame_retire _ core k (x.pc + 1))))
    refine ⟨_, hexec, ?_, ?_, fun q => ?_, hall.otherCtxs, hall.mem, scratch_of_loggedFrame hall⟩
    · rw [ctxAt_retire]
      exact hwait
    · rw [ctxAt_retire]
    · rw [ctxAt_retire]
      refine (hregs q).trans ?_
      rw [hctx, ha]
      refine if_congr (and_congr ?_ (not_congr ?_)) rfl rfl
      · exact BitVec.toNat_inj
      · exact BitVec.toNat_inj (y := 0#5)
  case waits =>
    obtain ⟨hframe, late, q, hwaits⟩ := settleMask_waits (mask := a.expected)
      (hv ▸ waitsForSlots_slotsBegun (owner_of_canIssue f.can)) hrecord (hmissing.trans_ne hsome)
      (by rw [hv, ha]; exact hlimit)
    refine ⟨_, late, a.dl, hexec, ?_, by rw [ha]; rfl, ?_, fun q => ?_,
      coreFrame_trans hbegun (coreFrame_trans hframe (coreFrame_retire ..))⟩
    · rw [ctxAt_retire, hwaits, ha]
      rfl
    · rw [ctxAt_retire]
    · rw [ctxAt_retire, hwaits, hctx]
      rfl

/-- Settles O21: a sent range is one descriptor in the queue, and an RWAIT goes on from the pieces it finds. -/
theorem routineExchange : Obligations.RoutineExchange := ⟨routineSends, routineWaits⟩

end Sys2Proof.Proofs
end

section
/-!
PROOFS. The start of a collective point's routine: O24.
-/
namespace Sys2Proof.Proofs
open Sys2Proof Sys2Proof.Machine Sys2Proof.Laws Sys2Proof.Claim

variable {s t u : State} {core k c : Nat} {p r : RoutineCall}

/-! ### The arrival of a point (R135, R154, R315) -/

/-- The arrival that a context makes on a group entry. -/
def arrivalOf (s : State) (core k c addr g mask n : Nat) (deadline : Tick) : Arrival :=
  ⟨core, k, addr, coveGenOf s c (dieOf core), g, BitVec.ofNat 32 (gKey (coreAt s core) g), n, mask, deadline⟩

/-- The arrivals on the same key and call by the same context number, whose addresses and generations an arrival must
match. -/
def sameArrivals (s : State) (core k c g n : Nat) : List Arrival :=
  (coveAt s c).arrivals.filter fun a => a.key == BitVec.ofNat 32 (gKey (coreAt s core) g) && a.call == n && a.ctx == k

/-- What an arrival needs so that it stands and closes no layer. -/
structure ArrivalStands (s : State) (core k c addr g n : Nat) : Prop where
  cove : coveOfCore s core = some c
  clean : upsetsIn (coreAt s core) 3 (20 * g) (20 * g + 20) = []
  addrs : ∀ a ∈ sameArrivals s core k c g n, a.addr = addr
  gens : genSkewed s c core g ((sameArrivals s core k c g n).map (·.gen)) = false
  noDigest : bitOf (coveAt s c).ldig.toNat 6 = false

/-- The cove with one more arrival. -/
def arrived (a : Arrival) (v : Cove) : Cove := { v with arrivals := v.arrivals ++ [a] }

theorem coveOfCore_of_dies (h : ∀ c, (coveAt t c).dies = (coveAt s c).dies) (core : Nat) :
    coveOfCore t core = coveOfCore s core := by
  simp only [coveOfCore, coveOfDie, h]

theorem coveOfCore_updCove {f : Cove → Cove} (h : ∀ v, (f v).dies = v.dies) (s : State) (c core : Nat) :
    coveOfCore (updCove s c f) core = coveOfCore s core := by
  refine coveOfCore_of_dies (fun d => ?_) core
  by_cases hd : d = c
  · rw [hd, coveAt_updCove, h]
  · rw [coveAt_updCove_other _ _ _ _ hd]

theorem closeLayer_noDigest {g : Nat} (hcove : coveOfCore s core = some c)
    (h : bitOf (coveAt s c).ldig.toNat 6 = false) : closeLayer s core k g = s := by
  unfold closeLayer
  simp [hcove, h]

theorem closeLayer_arrived {g : Nat} {a : Arrival} (hcove : coveOfCore s core = some c)
    (h : bitOf (coveAt s c).ldig.toNat 6 = false) :
    closeLayer (updCove s c (arrived a)) core k g = updCove s c (arrived a) := by
  refine closeLayer_noDigest (c := c) ?_ ?_
  · rw [coveOfCore_updCove (f := arrived a) fun _ => rfl, hcove]
  · rw [coveAt_updCove]
    exact h

theorem arrivalStands_setCtx {addr g n : Nat} (h : ArrivalStands s core k c addr g n) (x : Ctx) :
    ArrivalStands (setCtx s core k x) core k c addr g n := by
  have hsame : sameArrivals (setCtx s core k x) core k c g n = sameArrivals s core k c g n := by
    rw [sameArrivals, coreAt_setCtx]
    rfl
  have hskew : ∀ gens, genSkewed (setCtx s core k x) c core g gens = genSkewed s c core g gens := fun gens => by
    rw [genSkewed, coreAt_setCtx]
    rfl
  refine ⟨h.cove, ?_, ?_, ?_, h.noDigest⟩
  · rw [coreAt_setCtx]
    exact h.clean
  · rw [hsame]
    exact h.addrs
  · rw [hsame, hskew]
    exact h.gens

theorem arrive_stands {addr g mask n : Nat} {deadline : Tick} (h : ArrivalStands s core k c addr g n) :
    arrive s core k addr g mask n deadline =
      (true, updCove s c (arrived (arrivalOf s core k c addr g mask n deadline))) := by
  have haddrs : (sameArrivals s core k c g n).any (fun b => b.addr != addr) = false :=
    List.any_eq_false.2 fun a ha => by simp [h.addrs a ha]
  unfold arrive
  simp only [readStorage_clean h.clean, Bool.not_true, Bool.false_eq_true, if_false, h.cove]
  rw [← sameArrivals, haddrs, h.gens, if_neg Bool.false_ne_true, if_neg Bool.false_ne_true]
  exact congrArg _ (closeLayer_arrived h.cove h.noDigest)

/-! ### The registers of a starting routine (R197) -/

/-- Only scalar registers differ. -/
def SregsOnly (x y : Ctx) : Prop := ∃ regs, y = { x with sregs := regs }

theorem SregsOnly.setSreg {x y : Ctx} (h : SregsOnly x y) (q : BitVec 5) (value : DWord) :
    SregsOnly x (setSreg y q value) := by
  obtain ⟨regs, rfl⟩ := h
  obtain ⟨regs', hregs⟩ := setSreg_eq { x with sregs := regs } q value
  exact ⟨regs', hregs⟩

theorem sregsOnly_loadArgs (s : State) (core : Nat) (r : RoutineCall) (x : Ctx) : SregsOnly x (loadArgs s core r x) :=
  .setSreg (.setSreg (.setSreg (.setSreg (.setSreg (.setSreg (.setSreg (.setSreg ⟨_, rfl⟩ ..) ..) ..) ..) ..) ..) ..) ..

theorem sreg_loadArgs_call (s : State) (core : Nat) (r : RoutineCall) (x : Ctx) : sreg (loadArgs s core r x) 24#5 =
    BitVec.ofNat 64 (r.call % 2 ^ 32 + 2 ^ 32 * natOf (parityOf s core)) := by
  simp [loadArgs, sreg_setSreg]

theorem sreg_loadArgs_anchor (s : State) (core : Nat) (r : RoutineCall) (x : Ctx) :
    sreg (loadArgs s core r x) 29#5 = BitVec.ofNat 64 r.anchor := by
  simp [loadArgs, sreg_setSreg]

theorem sreg_loadArgs_low (s : State) (core : Nat) (r : RoutineCall) (x : Ctx) {q : BitVec 5} (hq : q.toNat < 24) :
    sreg (loadArgs s core r x) q = sreg x q := by
  have hne : ∀ n : BitVec 5, 24 ≤ n.toNat → q ≠ n := fun n hn h => by rw [h] at hq; omega
  simp [loadArgs, sreg_setSreg, hne]

/-! ### The start of the routine (R134, R180, R197) -/

/-- The cell of a scalar call is written where its routine works. -/
def cellPlaced (s : State) (core a : Nat) (p : RoutineCall) : State :=
  if p.scalar then scratchWrite s core a (cellBytes p) else s

/-- The call of a recorded point whose routine starts with an entry, a work area and an anchor. -/
def callStarted (s : State) (core k : Nat) (e : Nat × Nat × Bool × Nat) (work anchor : Nat) (p : RoutineCall) :
    RoutineCall :=
  { p with
    retPc := (ctxAt s core k).pc, start := e.1, len := e.2.1, anchor := anchor,
    late := landedLate (coreAt s core) k p.group p.call, elem := if p.scalar then work else p.elem,
    bytes := if p.scalar then 64 else p.bytes, startTick := s.tide.now }

/-- The context whose routine has started. -/
def routineBegun (s : State) (core : Nat) (r : RoutineCall) (x : Ctx) : Ctx :=
  loadArgs s core r { x with
    routine := some r, pc := r.start, count := 0, wainStatus := .done, wait := none,
    mainWait := x.wait.map fun w => (w, x.waitStart, x.waitSwitched) }

/-- The state when a point has been taken and its arrival recorded. -/
def pointTaken (s : State) (core k c : Nat) (p : RoutineCall) (rest : List RoutineCall) : State :=
  let v := setCtx s core k { ctxAt s core k with points := rest }
  updCove v c (arrived (arrivalOf v core k c p.caller.addr p.group p.mask p.call
    (gDeadline (coreAt s core) p.group (highest p.mask) true (ctxAt s core k).anchor)))

/-- The state when the routine of a taken point has started. -/
def routineStarted (s v : State) (core k : Nat) (p : RoutineCall) : State :=
  let work := (gWork (coreAt s core) p.group).1
  let r := callStarted v core k (routineEntry (coreAt s core) p.routine) work (ctxAt s core k).anchor p
  let u := cellPlaced v core (winAddr (ctxAt s core k) work) p
  { updCtx u core k (routineBegun u core r) with free := u.free + 2 }

theorem exec_collectivePoint {rest : List RoutineCall} (hpoints : (ctxAt s core k).points = p :: rest)
    (hroutine : (ctxAt s core k).routine = none) (hmode : (ctxAt s core k).mode = .running)
    (hown : (clusterAt s (clusterOf core)).owner = some k)
    (hgrants : grantsNothing s (coveNum (coveOfCore s core)) = false)
    (hlevels : p.mask &&& (routineEntry (coreAt s core) p.routine).2.2.2 = p.mask)
    (hstands : ArrivalStands s core k c p.caller.addr p.group p.call) :
    exec (.collectivePoint core k) s = .next (routineStarted s (pointTaken s core k c p rest) core k p) := by
  obtain ⟨x, hx⟩ : ∃ x, x = { ctxAt s core k with points := rest } := ⟨_, rfl⟩
  have hstands' : ArrivalStands (setCtx s core k x) core k c p.caller.addr p.group p.call :=
    arrivalStands_setCtx hstands x
  change execCollectivePoint core k s = _
  unfold execCollectivePoint
  simp only [hpoints]
  rw [if_neg (by simp [hroutine, hown, hmode, hgrants]), if_neg (by simp [hlevels]), ← hx, arrive_stands hstands',
    if_neg (by simp)]
  rw [pointTaken, ← hx]
  rfl

theorem length_cellBytes (p : RoutineCall) : (cellBytes p).length = 64 := by
  simp [cellBytes, length_leOut]

theorem ctxAt_cellPlaced (s : State) (core a : Nat) (p : RoutineCall) (i j : Nat) :
    ctxAt (cellPlaced s core a p) i j = ctxAt s i j := by
  unfold cellPlaced
  split
  · exact ctxAt_scratchWrite ..
  · rfl

theorem memByte_cellPlaced (s : State) (core a : Nat) (p : RoutineCall) (i b : Nat) :
    memByte (coreAt (cellPlaced s core a p) i).scratch b =
      if p.scalar = true ∧ i = core ∧ a ≤ b ∧ b < a + 64 then (cellBytes p).getD (b - a) 0#8
      else memByte (coreAt s i).scratch b := by
  unfold cellPlaced
  split
  · next h => simp only [memByte_scratchWrite, length_cellBytes, h, true_and]
  · next h => rw [if_neg fun h' => h h'.1]

theorem mem_cellPlaced (s : State) (core a : Nat) (p : RoutineCall) : (cellPlaced s core a p).mem = s.mem := by
  unfold cellPlaced
  split <;> rfl

theorem coves_cellPlaced (s : State) (core a : Nat) (p : RoutineCall) : (cellPlaced s core a p).coves = s.coves := by
  unfold cellPlaced
  split <;> rfl

theorem ctxAt_pointTaken {rest : List RoutineCall} :
    ctxAt (pointTaken s core k c p rest) core k = { ctxAt s core k with points := rest } :=
  ctxAt_setCtx ..

theorem coveAt_pointTaken {rest : List RoutineCall} : ∃ a, coveAt (pointTaken s core k c p rest) c = arrived a (coveAt s c)
    ∧ a.core = core ∧ a.ctx = k ∧ a.call = p.call ∧ a.key = BitVec.ofNat 32 (gKey (coreAt s core) p.group) := by
  refine ⟨_, coveAt_updCove .., rfl, rfl, rfl, ?_⟩
  rw [arrivalOf, coreAt_setCtx]
  rfl

theorem parityOf_pointTaken {rest : List RoutineCall} (hcove : coveOfCore s core = some c) :
    parityOf (pointTaken s core k c p rest) core = (coveAt s c).parity := by
  obtain ⟨a, ha, -⟩ := coveAt_pointTaken (s := s) (core := core) (k := k) (c := c) (p := p) (rest := rest)
  have htaken : coveOfCore (pointTaken s core k c p rest) core = some c := by
    rw [pointTaken, coveOfCore_updCove (f := arrived _) fun _ => rfl]
    exact hcove
  simp only [parityOf, htaken, ha]
  rfl

theorem parityOf_of_coves (h : t.coves = s.coves) : parityOf t core = parityOf s core := by
  simp only [parityOf, coveOfCore_of_coves h, coveAt, h]

theorem otherCtxs_routineStarted {rest : List RoutineCall} :
    OtherCtxs s (routineStarted s (pointTaken s core k c p rest) core k p) core k := by
  intro i j hij
  refine (otherCtxs_updCtx _ core k _ i j hij).trans ((ctxAt_cellPlaced ..).trans ?_)
  exact otherCtxs_updCtx s core k (fun x => { x with points := rest }) i j hij

theorem memByte_routineStarted {rest : List RoutineCall} (i b : Nat) :
    let work := winAddr (ctxAt s core k) (gWork (coreAt s core) p.group).1
    memByte (coreAt (routineStarted s (pointTaken s core k c p rest) core k p) i).scratch b =
      if p.scalar = true ∧ i = core ∧ work ≤ b ∧ b < work + 64 then (cellBytes p).getD (b - work) 0#8
      else memByte (coreAt s i).scratch b := by
  intro work
  have hset : (coreAt (pointTaken s core k c p rest) i).scratch = (coreAt s i).scratch :=
    scratch_updCtx s core k (fun x => { x with points := rest }) i
  rw [← hset, ← memByte_cellPlaced]
  exact congrArg (memByte · b) (scratch_updCtx ..)

/-- The context when its routine has started: its scalar registers apart, what R134, R155 and R180 say. -/
theorem ctxAt_routineStarted {rest : List RoutineCall} : ∃ r u regs, let v := pointTaken s core k c p rest
    let x := ctxAt s core k
    r = callStarted v core k (routineEntry (coreAt s core) p.routine) (gWork (coreAt s core) p.group).1 x.anchor p
    ∧ u.coves = v.coves
    ∧ ctxAt (routineStarted s v core k p) core k = routineBegun u core r { x with points := rest }
    ∧ routineBegun u core r { x with points := rest } = { x with
        points := rest, sregs := regs, routine := some r, pc := r.start, count := 0, wainStatus := .done, wait := none,
        mainWait := x.wait.map fun w => (w, x.waitStart, x.waitSwitched) } := by
  obtain ⟨u, hu⟩ : ∃ u, u = cellPlaced (pointTaken s core k c p rest) core
    (winAddr (ctxAt s core k) (gWork (coreAt s core) p.group).1) p := ⟨_, rfl⟩
  have hctx : ctxAt u core k = { ctxAt s core k with points := rest } := by rw [hu, ctxAt_cellPlaced, ctxAt_pointTaken]
  obtain ⟨regs, hregs⟩ := sregsOnly_loadArgs u core _ _
  refine ⟨_, u, regs, rfl, hu ▸ coves_cellPlaced .., ?_, hregs⟩
  rw [← hctx, hu]
  exact ctxAt_updCtx ..

/-- Settles O24: the arrival stands, so that the routine starts with its call's arguments. -/
theorem collectivePointStartsRoutine : Obligations.CollectivePointStartsRoutine := by
  intro core k c s p rest hcove x e key work same hpoints hroutine hmode hown hgrants hlevels hclean haddrs hgens hdigest
  obtain ⟨v, hv⟩ : ∃ v, v = pointTaken s core k c p rest := ⟨_, rfl⟩
  have hexec := exec_collectivePoint hpoints hroutine hmode hown hgrants hlevels ⟨hcove, hclean, haddrs, hgens, hdigest⟩
  obtain ⟨a, harrived, hacore, hactx, hacall, hakey⟩ :=
    coveAt_pointTaken (s := s) (core := core) (k := k) (c := c) (p := p) (rest := rest)
  obtain ⟨r, u, regs, hr, hucoves, hctx, hbegun⟩ :=
    ctxAt_routineStarted (s := s) (core := core) (k := k) (c := c) (p := p) (rest := rest)
  have hstarted := hctx.trans hbegun
  have hret : r.retPc = x.pc := by rw [hr, callStarted, ctxAt_pointTaken]
  have hparity : parityOf u core = (coveAt s c).parity := (parityOf_of_coves hucoves).trans (parityOf_pointTaken hcove)
  have hcoves : coveAt (routineStarted s (pointTaken s core k c p rest) core k p) c = arrived a (coveAt s c) := by
    rw [← harrived]
    exact congrArg (Sparse.get _ · c) (coves_cellPlaced ..)
  have hregs : ∀ q, sreg (ctxAt (routineStarted s (pointTaken s core k c p rest) core k p) core k) q =
    sreg (routineBegun u core r { x with points := rest }) q := fun q => congrArg (sreg · q) hctx
  refine ⟨_, r, hexec, by rw [hstarted], by rw [hr]; rfl, by rw [hr]; rfl, by rw [hr]; rfl, by rw [hr]; rfl, hret,
    by rw [hr]; rfl, by rw [hr]; rfl, by rw [hr]; rfl, by rw [hstarted, hr]; rfl, by rw [hstarted], by rw [hstarted],
    by rw [hstarted], by rw [hstarted], ?number, ?tick, fun q hq => ?low,
    ⟨a, by rw [hcoves]; rfl, hacore, hactx, hacall, hakey⟩, memByte_routineStarted, otherCtxs_routineStarted,
    mem_cellPlaced ..⟩
  case number =>
    rw [hregs, ← hparity]
    refine (sreg_loadArgs_call ..).trans ?_
    rw [hr]
    rfl
  case tick =>
    rw [hregs]
    refine (sreg_loadArgs_anchor ..).trans ?_
    rw [hr]
    rfl
  case low =>
    rw [hregs]
    exact sreg_loadArgs_low _ _ _ _ hq

end Sys2Proof.Proofs
end

section
/-!
PROOFS. A core's own notice, and the state that a decision leaves: layers of O28.
-/
namespace Sys2Proof.Proofs
open Sys2Proof Sys2Proof.Machine Sys2Proof.Laws Sys2Proof.Claim

variable {s t u : State} {core k c rd l expected mask code key : Nat} {round2 gather late : Bool} {dl limit : Tick}
  {r : RoutineCall}

/-! ### What a notice that lands changes (R178, R179, R184) -/

/-- Every context, group entry and cluster is as it was, and no notice is gone. -/
structure NoticesGrow (s t : State) : Prop where
  ctxs : ∀ i j, ctxAt t i j = ctxAt s i j
  groups : ∀ i, (coreAt t i).groups = (coreAt s i).groups
  notices : ∀ i, (coreAt s i).notices ⊆ (coreAt t i).notices
  clusters : t.clusters = s.clusters

theorem NoticesGrow.refl (s : State) : NoticesGrow s s := ⟨fun _ _ => rfl, fun _ => rfl, fun _ => List.Subset.refl _, rfl⟩

theorem NoticesGrow.trans (h : NoticesGrow s t) (h' : NoticesGrow t u) : NoticesGrow s u where
  ctxs i j := (h'.ctxs i j).trans (h.ctxs i j)
  groups i := (h'.groups i).trans (h.groups i)
  notices i _ hn := h'.notices i (h.notices i hn)
  clusters := h'.clusters.trans h.clusters

theorem noticesGrow_of_cores (hcores : t.cores = s.cores) (hclusters : t.clusters = s.clusters) : NoticesGrow s t where
  ctxs := ctxAt_of_cores hcores
  groups _ := by rw [coreAt, hcores, coreAt]
  notices _ := by rw [coreAt, coreAt, hcores]; exact List.Subset.refl _
  clusters := hclusters

theorem noticesGrow_record (s : State) (code v k rep d) : NoticesGrow s (record s code v k rep d) := by
  obtain ⟨_, _, _, hframe⟩ := (ringsOnly_record s code v k rep d).frame
  rw [hframe]
  exact noticesGrow_of_cores rfl rfl

theorem noticesGrow_updCore {f : CoreState → CoreState} (s : State) (core : Nat)
    (hf : ∀ x, (f x).ctxs = x.ctxs ∧ (f x).groups = x.groups ∧ x.notices ⊆ (f x).notices) :
    NoticesGrow s (updCore s core f) where
  ctxs := ctxAt_updCore_of_ctxs (fun x => (hf x).1) s core
  groups i := by
    by_cases hi : i = core
    · rw [hi, coreAt_updCore, (hf _).2.1]
    · rw [coreAt_updCore_other _ _ _ _ hi]
  notices i := by
    by_cases hi : i = core
    · rw [hi, coreAt_updCore]
      exact (hf _).2.2
    · rw [coreAt_updCore_other _ _ _ _ hi]
      exact List.Subset.refl _
  clusters := rfl

theorem noticesGrow_forEach {α : Type} {l : List α} {f : State → α → State} (h : ∀ t a, NoticesGrow t (f t a)) :
    NoticesGrow s (forEach s l f) :=
  forEach_rel .refl .trans fun t a _ => h t a

theorem noticesGrow_scratchWrite (s : State) (core a : Nat) (bs : List Byte) : NoticesGrow s (scratchWrite s core a bs) :=
  noticesGrow_updCore s core fun _ => ⟨rfl, rfl, List.Subset.refl _⟩

theorem noticesGrow_banked (s : State) (core : Nat) (n : Notice) :
    NoticesGrow s (updCore s core fun c => { c with notices := c.notices ++ [n] }) :=
  noticesGrow_updCore s core fun _ => ⟨rfl, rfl, List.subset_append_left ..⟩

theorem noticesGrow_slotRefused (s : State) (core : Nat) : NoticesGrow s (slotRefused s core) := noticesGrow_record ..

theorem noticesGrow_latePiece (s : State) (core k : Nat) (n : SlotName) : NoticesGrow s (latePiece s core k n) := by
  unfold latePiece
  extract_lets i s1
  have hseen : NoticesGrow s s1 := noticesGrow_updCore s core fun _ => ⟨rfl, rfl, List.Subset.refl _⟩
  split
  · exact .refl s
  · split
    · refine hseen.trans (.trans ?_ (noticesGrow_record ..))
      split
      · exact .refl s1
      · exact noticesGrow_of_cores (counted_bumpCoveSet ..).cores (counted_bumpCoveSet ..).clusters
    · exact hseen

/-- A notice without LATE status that lands, is late, or is refused. -/
theorem noticesGrow_slotLand {n : SlotName} (hn : n.notice = true) (s : State) (core k off : Nat) (bs : List Byte) :
    NoticesGrow s (slotLand s core k n off bs false).2 := by
  unfold slotLand
  simp only [hn, Bool.and_false, Bool.false_eq_true, if_false, if_true]
  split_ifs
  · exact noticesGrow_slotRefused ..
  · exact noticesGrow_latePiece ..
  · refine .trans (noticesGrow_updCore s core ?_) (noticesGrow_slotRefused ..)
    exact fun _ => ⟨rfl, rfl, List.Subset.refl _⟩
  · exact noticesGrow_latePiece ..
  · exact (noticesGrow_scratchWrite ..).trans (noticesGrow_banked ..)

/-- The notice that a core sends at a level and round. -/
def ownNotice (s : State) (core k : Nat) (r : RoutineCall) (l : Nat) (round2 late : Bool) (expected : Nat) : Notice :=
  noticeOf (noticeBytes s core k r l round2 late expected)
    (slotName s core r l round2 false true (gOwnSlot s core r.group l round2)) k false

/-- The state when a core's notice lies in its own bank. -/
def noticeBanked (s : State) (core k : Nat) (r : RoutineCall) (l : Nat) (round2 late : Bool) (expected : Nat) : State :=
  let off := gNoticeAddr s core r.group l r.call (gOwnSlot s core r.group l round2)
  updCore (scratchWrite s core (winAddr (ctxAt s core k) off) (noticeBytes s core k r l round2 late expected)) core fun c =>
    { c with notices := c.notices ++ [ownNotice s core k r l round2 late expected] }

theorem ownNotice_mem_noticeBanked :
    ownNotice s core k r l round2 late expected ∈ (coreAt (noticeBanked s core k r l round2 late expected) core).notices := by
  rw [noticeBanked, coreAt_updCore]
  exact List.mem_append_right _ (List.mem_singleton_self _)

theorem noticesGrow_sent : NoticesGrow (noticeBanked s core k r l round2 late expected)
    (sendNotice s core k r l round2 late expected) := by
  unfold sendNotice
  refine noticesGrow_forEach fun t p => ?_
  dsimp only
  split
  · split
    · exact .refl t
    · split
      · exact noticesGrow_slotLand rfl ..
      · exact .refl t
  · exact noticesGrow_of_cores rfl rfl

theorem noticesGrow_sendNotice : NoticesGrow s (sendNotice s core k r l round2 late expected) :=
  ((noticesGrow_scratchWrite ..).trans (noticesGrow_banked ..)).trans noticesGrow_sent

theorem ownNotice_mem_sendNotice :
    ownNotice s core k r l round2 late expected ∈ (coreAt (sendNotice s core k r l round2 late expected) core).notices :=
  noticesGrow_sent.notices core ownNotice_mem_noticeBanked

/-! ### What a decision changes before the context learns it (R185 to R190) -/

/-- But for gleaned counts no core differs, and no cove's dies or mode of decision. -/
structure VoteFrame (s t : State) : Prop where
  frame : t = { s with cores := t.cores, coves := t.coves, mem := t.mem, trace := t.trace, host := t.host }
  sameCores : ∀ i, ∃ g, coreAt t i = { coreAt s i with gleanCounts := g }
  dies : ∀ d, (coveAt t d).dies = (coveAt s d).dies
  forced : ∀ d, (coveAt t d).forced = (coveAt s d).forced

theorem VoteFrame.refl (s : State) : VoteFrame s s := ⟨rfl, fun _ => ⟨_, rfl⟩, fun _ => rfl, fun _ => rfl⟩

theorem VoteFrame.trans (h : VoteFrame s t) (h' : VoteFrame t u) : VoteFrame s u where
  frame := h'.frame.trans (congrArg (fun x : State =>
    { x with cores := u.cores, coves := u.coves, mem := u.mem, trace := u.trace, host := u.host }) h.frame)
  sameCores i := by
    obtain ⟨g, hg⟩ := h.sameCores i
    obtain ⟨g', hg'⟩ := h'.sameCores i
    exact ⟨g', by rw [hg', hg]⟩
  dies d := (h'.dies d).trans (h.dies d)
  forced d := (h'.forced d).trans (h.forced d)

theorem VoteFrame.ctxAt (h : VoteFrame s t) (i j : Nat) : ctxAt t i j = ctxAt s i j := by
  obtain ⟨g, hg⟩ := h.sameCores i
  rw [Machine.ctxAt, hg, Machine.ctxAt]

theorem VoteFrame.scratch (h : VoteFrame s t) (i : Nat) : (coreAt t i).scratch = (coreAt s i).scratch := by
  obtain ⟨g, hg⟩ := h.sameCores i
  rw [hg]

theorem VoteFrame.coveOfCore (h : VoteFrame s t) (core : Nat) : coveOfCore t core = coveOfCore s core :=
  coveOfCore_of_dies h.dies core

theorem VoteFrame.clusters (h : VoteFrame s t) : t.clusters = s.clusters := by rw [h.frame]

theorem VoteFrame.sameCalls (h : VoteFrame s t) (core : Nat) : SameCalls s t core := by
  obtain ⟨g, hg⟩ := h.sameCores core
  refine ⟨by rw [hg], by rw [hg], by rw [hg], h.coveOfCore core, ?_, ?_⟩ <;> rw [h.frame]

theorem voteFrame_of_cores (h : t = { s with mem := t.mem, trace := t.trace, host := t.host }) : VoteFrame s t := by
  rw [h]
  exact ⟨rfl, fun _ => ⟨_, rfl⟩, fun _ => rfl, fun _ => rfl⟩

theorem voteFrame_updCove {f : Cove → Cove} (s : State) (c : Nat)
    (hf : ∀ v, (f v).dies = v.dies ∧ (f v).forced = v.forced) : VoteFrame s (updCove s c f) := by
  have hcove : ∀ d, (coveAt (updCove s c f) d).dies = (coveAt s d).dies
      ∧ (coveAt (updCove s c f) d).forced = (coveAt s d).forced := fun d => by
    by_cases hd : d = c
    · rw [hd, coveAt_updCove]
      exact hf _
    · rw [coveAt_updCove_other _ _ _ _ hd]
      exact ⟨rfl, rfl⟩
  exact ⟨rfl, fun _ => ⟨_, rfl⟩, fun d => (hcove d).1, fun d => (hcove d).2⟩

theorem voteFrame_record (s : State) (code v k rep d) : VoteFrame s (record s code v k rep d) := by
  obtain ⟨_, _, _, hframe⟩ := (ringsOnly_record s code v k rep d).frame
  rw [hframe]
  exact voteFrame_of_cores rfl

/-- Nor has any cove's call failed, and of the events only lost decision records were counted. -/
structure VoteNoted (s t : State) : Prop extends VoteFrame s t where
  failed : ∀ d, (coveAt t d).failed = (coveAt s d).failed
  counts : CountsOnly [0x5020] s t

theorem VoteNoted.refl (s : State) : VoteNoted s s := ⟨.refl s, fun _ => rfl, .refl s⟩

theorem VoteNoted.trans (h : VoteNoted s t) (h' : VoteNoted t u) : VoteNoted s u :=
  ⟨h.toVoteFrame.trans h'.toVoteFrame, fun d => (h'.failed d).trans (h.failed d), h.counts.trans h'.counts⟩

theorem Counted.voteNoted (h : Counted s t) : VoteNoted s t := by
  obtain ⟨tr, rfl, hsources⟩ := h
  exact ⟨voteFrame_of_cores rfl, fun _ => rfl, countsOnly_of_sources _ hsources⟩

theorem voteNoted_updCove {f : Cove → Cove} (s : State) (c : Nat)
    (hf : ∀ v, (f v).dies = v.dies ∧ (f v).forced = v.forced ∧ (f v).failed = v.failed) : VoteNoted s (updCove s c f) := by
  refine ⟨voteFrame_updCove s c fun v => ⟨(hf v).1, (hf v).2.1⟩, fun d => ?_, countsOnly_of_trace _ rfl⟩
  by_cases hd : d = c
  · rw [hd, coveAt_updCove, (hf _).2.2]
  · rw [coveAt_updCove_other _ _ _ _ hd]

theorem voteNoted_updStats (s : State) (c : Nat) (f : StepStats → StepStats) : VoteNoted s (updStats s c f) :=
  voteNoted_updCove s c fun _ => ⟨rfl, rfl, rfl⟩

theorem voteNoted_bumpCoveSet (s : State) (c : Option Nat) (index n : Nat) : VoteNoted s (bumpCoveSet s c index n) :=
  (counted_bumpCoveSet ..).voteNoted

theorem voteNoted_hbmStore (s : State) (off : Nat) (bs : List Byte) : VoteNoted s (hbmStore s off bs) := by
  obtain ⟨m, hm⟩ := hbmStore_eq s off bs
  rw [hm]
  exact ⟨voteFrame_of_cores rfl, fun _ => rfl, countsOnly_of_trace _ rfl⟩

theorem voteNoted_recordCove (s : State) (v c d) : VoteNoted s (recordCove s 0x5020 v c d) where
  toVoteFrame := voteFrame_record ..
  failed e := by
    obtain ⟨_, _, _, hframe⟩ := (ringsOnly_record s 0x5020 v c 1296 d).frame
    rw [recordCove, hframe]
    rfl
  counts := countsOnly_record _ _ _ _ (by decide) (by decide)

theorem voteNoted_gleanCounts (s : State) (core : Nat) (g : CoreState → Sparse (Option Nat)) :
    VoteNoted s (updCore s core fun x => { x with gleanCounts := g x }) where
  frame := rfl
  sameCores i := by
    by_cases hi : i = core
    · rw [hi, coreAt_updCore]
      exact ⟨_, rfl⟩
    · rw [coreAt_updCore_other _ _ _ _ hi]
      exact ⟨_, rfl⟩
  dies _ := rfl
  forced _ := rfl
  failed _ := rfl
  counts := countsOnly_of_trace _ rfl

theorem voteNoted_noteGlean (s : State) (c core k : Nat) (r : RoutineCall) (l : Nat) (round2 inP : Bool) :
    VoteNoted s (noteGlean s c core k r l round2 inP) := by
  unfold noteGlean
  extract_lets i e key n s1
  have hglean : VoteNoted s s1 := voteNoted_gleanCounts s core _
  split
  · split
    · exact hglean
    · exact hglean.trans ((voteNoted_updStats ..).trans (voteNoted_bumpCoveSet ..))
  · split
    · exact .refl s
    · exact (voteNoted_updStats ..).trans (voteNoted_bumpCoveSet ..)

theorem voteNoted_logDecision (s : State) (c : Nat) (bs : List Byte) : VoteNoted s (logDecision s c bs) := by
  unfold logDecision
  extract_lets v s1 stored first s2 s3
  have hfirst : VoteNoted s s1 := voteNoted_updStats ..
  clear_value stored
  cases stored with
  | some off =>
    refine hfirst.trans ((voteNoted_hbmStore ..).trans (.trans (voteNoted_updCove _ _ ?_) (voteNoted_updStats ..)))
    exact fun _ => ⟨rfl, rfl, rfl⟩
  | none =>
    have hcount : VoteNoted s1 s2 := voteNoted_updCove s1 c fun _ => ⟨rfl, rfl, rfl⟩
    have hlost : VoteNoted s s3 := hfirst.trans (hcount.trans (voteNoted_updStats ..))
    dsimp only
    split
    · exact hlost.trans (voteNoted_recordCove ..)
    · exact hlost

end Sys2Proof.Proofs
end

section
/-!
PROOFS. Deadlines, votes and limits of collective waits: O28.
-/
namespace Sys2Proof.Proofs
open Sys2Proof Sys2Proof.Machine Sys2Proof.Laws Sys2Proof.Claim

variable {s t u v : State} {core k c rd l expected mask code key : Nat} {round2 late : Bool} {dl limit : Tick}
  {r : RoutineCall}

/-! ### A call that fails (R186) -/

/-- The cove with a failed call. -/
def callFailed (key : Nat) (v : Cove) : Cove :=
  { v with failed := match v.failed with | some k => some k | none => some (key + 1) }

theorem callFails_eq (hcove : coveOfCore s core = some c) : callFails s core code key =
    updCove (record s code .stepContained c core []) c (callFailed key) := by
  unfold callFails
  rw [hcove]
  rfl

theorem voteFrame_callFails (hcove : coveOfCore s core = some c) : VoteFrame s (callFails s core code key) := by
  rw [callFails_eq hcove]
  exact (voteFrame_record ..).trans (voteFrame_updCove _ c fun _ => ⟨rfl, rfl⟩)

theorem recorded_callFails (hcove : coveOfCore s core = some c) (hcore : core < 1024) (hcode : ¬ episodeCode code) :
    Recorded s (callFails s core code key) code core := by
  rw [callFails_eq hcove]
  exact recorded_of_sources rfl (recorded_record s code .stepContained c core [] (by omega) hcode)

theorem failed_callFails (hcove : coveOfCore s core = some c) :
    (coveAt (callFails s core code key) c).failed.isSome = true := by
  rw [callFails_eq hcove, coveAt_updCove, callFailed]
  split <;> rfl

theorem mem_callFails (hcove : coveOfCore s core = some c) : (callFails s core code key).mem = s.mem := by
  rw [callFails_eq hcove]
  exact record_mem ..

/-! ### The decision of a waiting core (R185 to R190) -/

/-- The sum of the counts of the members that take part: of their notices, or this core's own. -/
def voteCount (s : State) (core k : Nat) (r : RoutineCall) (l : Nat) (round2 : Bool) : Nat :=
  ((decisionOf s core k r l round2).map fun j =>
    match (bankNotices s core k r l round2).find? fun n => n.sender == j with
    | some n => n.count | none => ownCount s core k r l round2).foldl (· + ·) 0

/-- The context that has learnt the decision. -/
def ctxDecided (rd l : Nat) (round2 : Bool) (expected : Nat) (dl limit : Tick) (late : Bool) (mask count : Nat) (x : Ctx) :
    Ctx :=
  { x with count := count, wait := some (.slots rd l round2 expected dl limit late (some mask)) }

/-- A decision from notices is noted: gleaned counts, and a record when it left somebody out. -/
def decisionNoted (s : State) (c core k : Nat) (r : RoutineCall) (l : Nat) (round2 : Bool) : State :=
  let p := decisionOf s core k r l round2
  let out := ((gSlots s core r.group l round2).map (·.1)).length - p.length
  let v := noteGlean s c core k r l round2 (p.contains (gOwnSlot s core r.group l round2))
  if 0 < out ∧ (writerOf s core r.group l == core) = true then
    let i := levelIdx l round2
    let u := bumpCoveSet (updStats v c fun t => { t with leftOut := bumpAt t.leftOut i out }) (some c) (12 + i) out
    logDecision u c (decisionBytes u c core k r l round2 false (maskOf p) (voteCount s core k r l round2))
  else v

theorem voteNoted_decisionNoted : VoteNoted s (decisionNoted s c core k r l round2) := by
  unfold decisionNoted
  extract_lets p out v i u
  have hglean : VoteNoted s v := voteNoted_noteGlean ..
  split
  · exact hglean.trans ((voteNoted_updStats ..).trans ((voteNoted_bumpCoveSet ..).trans (voteNoted_logDecision ..)))
  · exact hglean

/-- The call fails when nobody takes part. -/
def emptyFails (s : State) (core : Nat) (r : RoutineCall) (p : List Nat) : State :=
  if p = [] then callFails s core 0x5011 (callKey r.group r.call) else s

theorem voteFrame_emptyFails {p : List Nat} (hcove : coveOfCore s core = some c) : VoteFrame s (emptyFails s core r p) := by
  unfold emptyFails
  split
  · exact voteFrame_callFails hcove
  · exact .refl s

/-- A decision from notices is noted, fails the call when nobody takes part, and tells the context. -/
theorem decide_eq (hcove : coveOfCore s core = some c) (hforced : (coveAt s c).forced = false)
    (hahead : ∀ j ∈ decisionOf s core k r l round2, j ≠ gOwnSlot s core r.group l round2 →
      slotWasRefused s core r l round2 j = false) :
    decide_ s core k r rd l round2 expected dl limit late =
      updCtx (emptyFails (decisionNoted s c core k r l round2) core r (decisionOf s core k r l round2)) core k
        (ctxDecided rd l round2 expected dl limit late (maskOf (decisionOf s core k r l round2))
          (voteCount s core k r l round2)) := by
  obtain ⟨p, hp⟩ : ∃ p, p = decisionOf s core k r l round2 := ⟨_, rfl⟩
  obtain ⟨u, hu⟩ : ∃ u, u = emptyFails (decisionNoted s c core k r l round2) core r p := ⟨_, rfl⟩
  have hnoted : VoteNoted s (decisionNoted s c core k r l round2) := voteNoted_decisionNoted
  have hframe : VoteFrame s u :=
    hu ▸ hnoted.toVoteFrame.trans (voteFrame_emptyFails ((hnoted.coveOfCore core).trans hcove))
  have hnone : (p.any fun j => decide (j ≠ gOwnSlot s core r.group l round2) && slotWasRefused u core r l round2 j)
      = false := List.any_eq_false.2 fun j hj => by
    rw [(hframe.sameCalls core).slotWasRefused]
    by_cases hown : j = gOwnSlot s core r.group l round2
    · simp [hown]
    · simp [hahead j (hp ▸ hj) hown]
  have hdecide : decide_ s core k r rd l round2 expected dl limit late = updCtx
      (if p.any fun j => decide (j ≠ gOwnSlot s core r.group l round2) && slotWasRefused u core r l round2 j then
        callFails u core 0x5012 (callKey r.group r.call) else u) core k
      (ctxDecided rd l round2 expected dl limit late (maskOf p) (voteCount s core k r l round2)) := by
    rw [hu, hp]
    unfold decide_
    simp only [hcove, hforced, Bool.false_eq_true, if_false]
    rfl
  rw [hdecide, hnone, if_neg Bool.false_ne_true, hu, hp]

/-! ### The three events at a waiting context (R155, R182, R184 to R186) -/

theorem arriveDeadline {g mask : Nat} {d : Tick} (hown : (clusterAt s (clusterOf core)).owner = some k)
    (hwait : (ctxAt s core k).wait = some (.arrive g mask d)) (hdue : d ≤ ctxNow s core) :
    exec (.arrivalDeadline core k) s =
      .next (updCtx (traceSync s core k (.arrive g mask d)) core k (waitOver (.arrive g mask d))) := by
  have hdone : waitDone s core k (.arrive g mask d) = true := by simp [waitDone, hdue]
  change execArrivalDeadline core k s = _
  unfold execArrivalDeadline
  simp only [hwait]
  rw [settleWait_some hwait hown, hdone, if_pos rfl]

/-- The core's own notice lies in its bank. -/
def noticeSent (s : State) (core k : Nat) (r : RoutineCall) (l : Nat) (round2 : Bool) : Bool :=
  (bankNotices s core k r l round2).any fun n => n.sender == gOwnSlot s core r.group l round2

section
variable (h : WaitsForSlots s core k rd l round2 expected dl limit late none r)
include h

theorem exec_arrivalDeadline_slots : exec (.arrivalDeadline core k) s =
    if ctxNow s core < dl then .next s
    else if votedAt s core r l && !noticeSent s core k r l round2 then
      .next (settleSlots (sendNotice s core k r l round2 false expected) core k)
    else .next (settleSlots s core k) := by
  change execArrivalDeadline core k s = _
  unfold execArrivalDeadline
  simp only [h.wait, h.routine]
  rfl

theorem exec_arrivalDeadline_notice (hvoted : votedAt s core r l = true) (hsent : noticeSent s core k r l round2 = false)
    (hdue : dl ≤ ctxNow s core) :
    exec (.arrivalDeadline core k) s = .next (sendNotice s core k r l round2 false expected) := by
  obtain ⟨u, hu⟩ : ∃ u, u = sendNotice s core k r l round2 false expected := ⟨_, rfl⟩
  have hgrow : NoticesGrow s u := hu ▸ noticesGrow_sendNotice
  have hwaits : WaitsForSlots u core k rd l round2 expected dl limit late none r :=
    ⟨by rw [hgrow.ctxs, h.wait], by rw [hgrow.ctxs, h.routine], by rw [clusterAt, hgrow.clusters]; exact h.owner⟩
  have hvoted' : votedAt u core r l = true := by
    rw [← hvoted, votedAt, gOmit, gWord, hgrow.groups]
    rfl
  rw [exec_arrivalDeadline_slots h, if_neg (Nat.not_lt.2 hdue), hvoted, hsent, ← hu,
    settleSlots_undecided hwaits hvoted']
  rfl

theorem exec_arrivalDeadline_unvoted (hvoted : votedAt s core r l = false) (hdue : dl ≤ ctxNow s core) :
    exec (.arrivalDeadline core k) s =
      .next (settleMask s core k rd l round2 expected dl limit late none r expected) := by
  rw [exec_arrivalDeadline_slots h, if_neg (Nat.not_lt.2 hdue), hvoted, settleSlots_unvoted h hvoted]
  rfl

theorem exec_collectiveLimit_unvoted (hvoted : votedAt s core r l = false) : exec (.collectiveLimit core k) s =
    .next (settleMask s core k rd l round2 expected dl limit late none r expected) :=
  congrArg Host.Outcome.next (settleSlots_unvoted h hvoted)

theorem exec_voteTick_slots : exec (.voteTick core k) s =
    if !votedAt s core r l || decide (ctxNow s core < gVote s core r.group l round2 r.anchor) then .next s
    else .next (settleSlots (decide_
      (if noticeSent s core k r l round2 then s else sendNotice s core k r l round2 false expected) core k r rd l round2
      expected dl limit late) core k) := by
  change execVoteTick core k s = _
  unfold execVoteTick
  simp only [h.wait, h.routine]
  rfl

theorem exec_voteTick_sent (hvoted : votedAt s core r l = true) (hsent : noticeSent s core k r l round2 = true)
    (hdue : gVote s core r.group l round2 r.anchor ≤ ctxNow s core) : exec (.voteTick core k) s =
      .next (settleSlots (decide_ s core k r rd l round2 expected dl limit late) core k) := by
  rw [exec_voteTick_slots h, hvoted, decide_eq_false (Nat.not_lt.2 hdue), hsent]
  rfl

/-- At an omit level the deadline sends the notice, and the context waits on. -/
theorem deadline_sends (hvoted : votedAt s core r l = true) (hsent : noticeSent s core k r l round2 = false)
    (hdue : dl ≤ ctxNow s core) : ∃ t, exec (.arrivalDeadline core k) s = .next t ∧ ctxAt t core k = ctxAt s core k
      ∧ ownNotice s core k r l round2 false expected ∈ (coreAt t core).notices :=
  ⟨_, exec_arrivalDeadline_notice h hvoted hsent hdue, noticesGrow_sendNotice.ctxs core k, ownNotice_mem_sendNotice⟩

/-- Without a vote the deadline ends a wait whose pieces are here. -/
theorem deadline_ends (hrd : rd < 32) (hvoted : votedAt s core r l = false)
    (hnone : missingSlots s core k r l round2 (gatherHalf r) false expected = []) (hdue : dl ≤ ctxNow s core) :
    ∃ t, exec (.arrivalDeadline core k) s = .next t ∧ WaitEndsWith s t core k rd expected ∧ t.mem = s.mem := by
  obtain ⟨hends, hframe, -, -⟩ := settleMask_over (k := k) (expected := expected) (dl := dl) (limit := limit) (late := late)
    (decided := none) (round2 := round2) (by rw [hvoted, Bool.false_and]) (by rw [hvoted]; exact hnone) hrd
  exact ⟨_, exec_arrivalDeadline_unvoted h hvoted hdue, hends, hframe.mem⟩

/-- At the limit a missing piece fails the call and ends the wait. -/
theorem limit_fails (hrd : rd < 32) (hcore : core < 1024) (hcove : coveOfCore s core = some c)
    (hvoted : votedAt s core r l = false)
    (hsome : missingSlots s core k r l round2 (gatherHalf r) false expected ≠ []) (hdue : limit ≤ ctxNow s core) :
    ∃ t, exec (.collectiveLimit core k) s = .next t
      ∧ WaitEndsWith s t core k rd (expected - maskOf (missingSlots s core k r l round2 (gatherHalf r) false expected))
      ∧ (ctxAt t core k).routine.map (·.late) = some true
      ∧ Recorded s t 0x5013 core ∧ (coveAt t c).failed.isSome = true ∧ t.mem = s.mem := by
  have hexec := exec_collectiveLimit_unvoted h hvoted
  rw [settleMask_fails (by rw [hvoted, Bool.false_and]) (by rw [hvoted]; exact hsome) hdue, hvoted] at hexec
  obtain ⟨u, hu⟩ : ∃ u, u = callFails s core 0x5013 (callKey r.group r.call) := ⟨_, rfl⟩
  have hframe : VoteFrame s u := hu ▸ voteFrame_callFails hcove
  have hctx : ctxAt u core k = ctxAt s core k := hframe.ctxAt ..
  rw [← hu] at hexec
  have hover := loggedFrame_endSlots (s := u) (core := core) (k := k) (r := r) (rd := rd) (l := l) (round2 := round2)
    (gather := gatherHalf r) (late := true) (expected := expected)
    (mask := expected - maskOf (missingSlots s core k r l round2 (gatherHalf r) false expected))
  refine ⟨_, hexec, waitEndsWith_after (by rw [hctx]) (by rw [hctx]) (fun _ _ _ => hframe.ctxAt ..) hframe.scratch
    (waitEndsWith_endSlots hrd), ?late, ?recorded, ?failed, ?mem⟩
  case late =>
    rw [ctxAt_endSlots]
    exact congrArg some (Bool.or_true _)
  case recorded =>
    exact recorded_between (hu ▸ recorded_callFails hcove hcore (by simp [episodeCode])) rfl
      (countsOnly_endSlots _ _ (by omega) (by simp [episodeCode]) (by decide))
  case failed =>
    rw [coveAt, hover.coves, ← coveAt, hu]
    exact failed_callFails hcove
  case mem => rw [hover.mem, hu, mem_callFails hcove]

end

/-- A context that has learnt its decision ends its wait when the pieces that it takes are here. -/
theorem settleSlots_ctxDecided {p : List Nat} {count : Nat}
    (h : WaitsForSlots s core k rd l round2 expected dl limit late none r) (hrd : rd < 32) (hframe : VoteFrame s u)
    (hcove : coveOfCore s core = some c) (hforced : (coveAt s c).forced = false) (hvoted : votedAt s core r l = true)
    (hnone : missingSlots s core k r l round2 (gatherHalf r) true (maskOf p) = []) :
    let t := settleSlots (updCtx u core k (ctxDecided rd l round2 expected dl limit late (maskOf p) count)) core k
    WaitEndsWith s t core k rd (maskOf p) ∧ (ctxAt t core k).count = count ∧ t.coves = u.coves
      ∧ CountsOnly [0xE002] u t := by
  obtain ⟨d, hd⟩ : ∃ d, d = updCtx u core k (ctxDecided rd l round2 expected dl limit late (maskOf p) count) := ⟨_, rfl⟩
  have hctx : ctxAt d core k = ctxDecided rd l round2 expected dl limit late (maskOf p) count (ctxAt s core k) := by
    rw [hd, ctxAt_updCtx, hframe.ctxAt]
  have htold : CoreFrame u d core k := hd ▸ coreFrame_updCtx ..
  have htold' : LoggedFrame u d core k := loggedFrame_of_coreFrame htold
  have hsame : SameCalls s d core := (hframe.sameCalls core).trans (sameCalls_of_coreFrame htold)
  have hvoted' : votedAt d core r l = true := (votedAt_of_sameCalls hsame r l).trans hvoted
  have hrecord : (votedAt d core r l && unrecorded d core r l round2) = false := by
    rw [unrecorded_of_unforced (hsame.cove.trans hcove), Bool.and_false]
    rw [coveAt, htold'.coves, ← coveAt, hframe.forced, hforced]
  have hwaits : WaitsForSlots d core k rd l round2 expected dl limit late (some (maskOf p)) r :=
    ⟨by rw [hctx]; rfl, by rw [hctx]; exact h.routine,
      by rw [hd, clusterAt, updCtx, setCtx_clusters, hframe.clusters]; exact h.owner⟩
  have hover := settleMask_over (k := k) (rd := rd) (expected := expected) (dl := dl) (limit := limit) (late := late)
    (decided := some (maskOf p)) hrecord (by rw [hvoted', hsame.missingSlots]; exact hnone) hrd
  rw [← settleSlots_decided hwaits hvoted'] at hover
  obtain ⟨hends, hsettled, hcount, hcounts⟩ := hover
  intro t
  simp only [t, ← hd]
  refine ⟨waitEndsWith_after (by rw [hctx]; rfl) (by rw [hctx]; rfl) ?_ ?_ hends, by rw [hcount, hctx]; rfl,
    hsettled.coves.trans htold'.coves, .trans ?_ hcounts⟩
  · exact fun i j hij => (htold'.otherCtxs i j hij).trans (hframe.ctxAt ..)
  · exact fun i => (scratch_of_loggedFrame htold' i).trans (hframe.scratch i)
  · exact countsOnly_of_trace _ (by rw [hd]; rfl)

/-- At the vote tick the decision ends a wait whose taken pieces are here. -/
theorem vote_ends (h : WaitsForSlots s core k rd l round2 expected dl limit late none r) (hrd : rd < 32)
    (hcore : core < 1024) (hcove : coveOfCore s core = some c)
    (hvoted : votedAt s core r l = true) (hsent : noticeSent s core k r l round2 = true)
    (hdue : gVote s core r.group l round2 r.anchor ≤ ctxNow s core) (hforced : (coveAt s c).forced = false)
    (hahead : ∀ j ∈ decisionOf s core k r l round2, j ≠ gOwnSlot s core r.group l round2 →
      slotWasRefused s core r l round2 j = false)
    (hnone : missingSlots s core k r l round2 (gatherHalf r) true (maskOf (decisionOf s core k r l round2)) = []) :
    ∃ t, exec (.voteTick core k) s = .next t
      ∧ WaitEndsWith s t core k rd (maskOf (decisionOf s core k r l round2))
      ∧ (ctxAt t core k).count = voteCount s core k r l round2
      ∧ (decisionOf s core k r l round2 ≠ [] → (coveAt t c).failed = (coveAt s c).failed)
      ∧ (decisionOf s core k r l round2 = [] → Recorded s t 0x5011 core ∧ (coveAt t c).failed.isSome = true) := by
  obtain ⟨p, hp⟩ : ∃ p, p = decisionOf s core k r l round2 := ⟨_, rfl⟩
  obtain ⟨v, hv⟩ : ∃ v, v = decisionNoted s c core k r l round2 := ⟨_, rfl⟩
  have hexec := exec_voteTick_sent h hvoted hsent hdue
  rw [decide_eq hcove hforced hahead, ← hp, ← hv] at hexec
  have hnoted : VoteNoted s v := hv ▸ voteNoted_decisionNoted
  have hvcove : coveOfCore v core = some c := (hnoted.coveOfCore core).trans hcove
  rw [← hp] at hnone ⊢
  obtain ⟨hends, hcount, hcoves, hcounts⟩ := settleSlots_ctxDecided (count := voteCount s core k r l round2) h hrd
    (hnoted.toVoteFrame.trans (voteFrame_emptyFails (r := r) hvcove)) hcove hforced hvoted hnone
  have hfailed := congrArg (fun coves => (Sparse.get Cove.reset coves c).failed) hcoves
  refine ⟨_, hexec, hends, hcount, fun hsome => ?taken, fun hempty => ?empty⟩
  case taken =>
    refine hfailed.trans (Eq.trans ?_ (hnoted.failed c))
    rw [emptyFails, if_neg hsome]
    rfl
  case empty =>
    have hfails : emptyFails v core r p = callFails v core 0x5011 (callKey r.group r.call) := if_pos hempty
    have hrecorded : Recorded v (emptyFails v core r p) 0x5011 core := by
      rw [hfails]
      exact recorded_callFails hvcove hcore (by simp [episodeCode])
    refine ⟨recorded_between hrecorded ?_ (hcounts _ _ (by omega) (by simp [episodeCode]) (by decide)), ?_⟩
    · exact hnoted.counts _ _ (by omega) (by simp [episodeCode]) (by decide)
    · refine (congrArg Option.isSome hfailed).trans ?_
      rw [hfails]
      exact failed_callFails hvcove

/-- Settles O28: each event settles the wait with the mask that its case gives. -/
theorem collectiveDeadlines : Obligations.CollectiveDeadlines := by
  intro core k c s hcore hcove hown x
  refine ⟨fun g mask d hwait hdue => ?arrive, fun rd l round2 late expected dl limit r hwait hroutine hrd => ?slots⟩
  case arrive =>
    have hframe := loggedFrame_waitOver s core k (.arrive g mask d)
    exact ⟨_, arriveDeadline hown hwait hdue, ctxAt_waitOver .., hframe.otherCtxs, hframe.mem, hframe.coves⟩
  case slots =>
    intro gather voted own sent missing
    have h : WaitsForSlots s core k rd l round2 expected dl limit late none r := ⟨hwait, hroutine, hown⟩
    exact ⟨fun hvoted hsent hdue _ => deadline_sends h hvoted hsent hdue,
      fun hvoted hnone hdue => deadline_ends h hrd hvoted hnone hdue,
      fun hvoted hsent hdue hforced => vote_ends h hrd hcore hcove hvoted hsent hdue hforced,
      fun hvoted hsome hdue => limit_fails h hrd hcore hcove hvoted hsome hdue⟩

end Sys2Proof.Proofs
end

section
/-!
PROOFS. A stolen refresh window of a stack number that no stack has: O46.
-/
namespace Sys2Proof.Proofs
open Sys2Proof Sys2Proof.Machine Sys2Proof.Laws Sys2Proof.Claim

/-! ### The state of the refutation

The list of hot stacks holds a number far above 15, for which STOLEN_REFRESH_WINDOW has no bound. Events are counted by
code and reporter, 2,048 reporters to a code (R520), and the reporter of this number, 1,536 above it, runs on into those of
code 0xB020: its event 0x1031 is counted as event 0xB020 of the headland. The ring of the physical function asks for every
notice and is not enabled, so that the notice of event 0x1031 is dropped, and event 0xB020 is recorded with it (R562). -/

def farStack : Nat := (0xB020 - 0x1031) * 2048 + 1296 - 1536

/-- Every notice is asked for, and none can be written. -/
def deafRing : StatusRing := { StatusRing.reset with ctrl := 0xC0#32 }

def farHotState : State :=
  { State.reset with
    tide := { State.reset.tide with now := 2047, hot := [farStack] }
    host := { State.reset.host with fns := [(0, { HostFn.reset with ring := deafRing })] } }

/-- The window is due. -/
theorem farHot_due : farHotState.tide.hot.contains farStack = true ∧ farHotState.tide.mhot = false
    ∧ decide (Sparse.get 0 farHotState.tide.lastRefresh farStack + 2048 ≤ farHotState.tide.now + 1) = true := by
  decide +kernel

/-- One window raises the count from 0 to 2. -/
theorem farHot_countedTwice : eventCount farHotState 0x1031 (1536 + farStack) = 0
    ∧ ∃ t, exec (.stolenRefreshWindow farStack) farHotState = .next t ∧ eventCount t 0x1031 (1536 + farStack) = 2 :=
  ⟨by decide +kernel, _, rfl, by decide +kernel⟩

/-- Refutes O46 at STOLEN_REFRESH_WINDOW, which it states for every number in the list of hot stacks and not for the 16
stacks alone: for the number of `farHotState` event 0x1031 is counted twice. -/
theorem not_refreshAndScrubs : ¬ Obligations.RefreshAndScrubs := by
  intro h
  obtain ⟨-, hstolen, -⟩ := h farHotState
  obtain ⟨hhot, hcold, hdue⟩ := farHot_due
  obtain ⟨t, hexec, hrecorded, -⟩ := (hstolen farStack).1 hhot hcold hdue
  obtain ⟨hzero, t', hexec', htwo⟩ := farHot_countedTwice
  obtain rfl : t = t' := by simpa [hexec] using hexec'
  rw [Recorded, htwo, hzero] at hrecorded
  exact absurd hrecorded (by decide)

end Sys2Proof.Proofs
end


section
/-!
PROOFS. Discard notices, replay starts, restarts of held coves and digest tables: O30.
-/
namespace Sys2Proof.Proofs
open Sys2Proof Sys2Proof.Machine Sys2Proof.Laws Sys2Proof.Claim

variable {s t u : State} {c : Nat}

/-! ### Discard notices (R496) -/

section
variable {sender tick : Nat} {tag : Word} {step : DWord}

theorem discardNotice_ignored
    (h : sender = s.moduleId ∨ tag = 0#32 ∨ tag ≠ Sparse.get 0#32 (coveAt s c).tags 0 ∨ step ≠ (coveAt s c).step) :
    exec (.discardNoticeReceive c sender tag step tick) s = .next s := if_pos h

/-- A notice for this cove's job and step is one of another module. -/
theorem exec_discardNotice (hsender : sender ≠ s.moduleId) (hjob : tag ≠ 0#32)
    (htag : tag = Sparse.get 0#32 (coveAt s c).tags 0) (hstep : step = (coveAt s c).step) :
    exec (.discardNoticeReceive c sender tag step tick) s =
      if (coveAt s c).awaitReplay.isSome then .next (awaitReplayFrom s c (max tick (coveAt s c).dMax))
      else if (coveAt s c).mode = .running ∧ (coveTideAt s c).slack = false then
        .next (discardAnyway (updCove s c fun v => { v with dMax := max v.dMax tick }) c 9 none)
      else .next s :=
  if_neg (by simp [hsender, hjob, ← htag, hstep])

/-- The replay of a cove that waits for it moves to the later discard tick. -/
theorem awaitReplayFrom_later (s : State) (c tick : Nat) :
    let v := coveAt s c
    let t := awaitReplayFrom s c (max tick v.dMax)
    coveAt t c = { v with
        dMax := max tick v.dMax
        awaitReplay := some (roundUp (max tick v.dMax + planSlack s c (coveTideAt s c).bank)
          (planQuantum s c (coveTideAt s c).bank)) }
      ∧ t = { s with coves := t.coves, tide := { s.tide with coves := t.tide.coves } } := by
  refine ⟨?_, rfl⟩
  unfold awaitReplayFrom
  dsimp only
  rw [coveAt_updCoveTide, coveAt_updCove, max_eq_left (le_max_right tick (coveAt s c).dMax)]

/-- A notice discards a first or second run at once: it names no fault, and a recovery does not put it off. -/
theorem discardAnyway_notice (hmode : (coveAt s c).mode = .running) (hslack : (coveTideAt s c).slack = false)
    (hawait : (coveAt s c).awaitReplay = none) (hruns : (coveAt s c).replays < 2) :
    discardAnyway s c 9 none = discardNow (updCove s c fun v => { v with commits := [] }) c 9 none := by
  have hcove : coveAt (updCove s c fun v => { v with commits := [] }) c = { coveAt s c with commits := [] } :=
    coveAt_updCove ..
  unfold discardAnyway discardStep
  dsimp only
  rw [hcove, coveTideAt_updCove, hslack, allCommitted_of_none rfl, if_neg (not_not.2 hmode), if_neg (by simp [hawait]),
    if_neg (by simp), if_neg (by simp), if_neg (by simp), if_neg (Nat.not_le.2 hruns)]

theorem discardNotice_discards (hsender : sender ≠ s.moduleId) (hjob : tag ≠ 0#32)
    (htag : tag = Sparse.get 0#32 (coveAt s c).tags 0) (hstep : step = (coveAt s c).step)
    (hawait : (coveAt s c).awaitReplay = none) (hmode : (coveAt s c).mode = .running)
    (hslack : (coveTideAt s c).slack = false) (hruns : (coveAt s c).replays < 2) (hret : (coveAt s c).ckpt.returnTick = 0) :
    ∃ t, exec (.discardNoticeReceive c sender tag step tick) s = .next t
      ∧ StepDiscarded s t c 9 (max (coveAt s c).dMax tick) := by
  obtain ⟨u, hu⟩ : ∃ u, u = updCove s c fun v => { v with dMax := max v.dMax tick } := ⟨_, rfl⟩
  have hcove : coveAt u c = { coveAt s c with dMax := max (coveAt s c).dMax tick } := by rw [hu, coveAt_updCove]
  have hself : coveAt (updCove u c fun v => { v with commits := [] }) c =
      { coveAt s c with commits := [], dMax := max (coveAt s c).dMax tick } := by rw [coveAt_updCove, hcove]
  have hnow : discardAnyway u c 9 none = discardNow (updCove u c fun v => { v with commits := [] }) c 9 none :=
    discardAnyway_notice (by rw [hcove]; exact hmode) (by rw [hu]; exact hslack) (by rw [hcove]; exact hawait)
      (by rw [hcove]; exact hruns)
  obtain ⟨hdiscard, -⟩ := discardNow_outcome (c := c) (cause := 9) (updCove u c fun v => { v with commits := [] }) none
    (by decide) (by rw [hself]; exact hret)
  rw [hself, ← hnow] at hdiscard
  refine ⟨discardAnyway u c 9 none, ?_, stepDiscarded_of_agree hdiscard (by rw [hu]; rfl) (by rw [hu]; rfl)
    ⟨_, _, hself⟩ (countsOnly_of_trace _ (by rw [hu]; rfl))⟩
  rw [exec_discardNotice hsender hjob htag hstep, hawait, hu]
  exact if_pos (And.intro hmode hslack)

end

/-! ### The start of a replay (R225, R496) -/

theorem promoteConflicts_none (h : (coveAt s c).lastCause ≠ 5 ∨ (coveAt s c).stats.conflicts = []) :
    promoteConflicts s c = s := by
  rcases h with h | h <;> simp [promoteConflicts, h]

/-- A unit that is on its way back is not promoted again. -/
theorem promoteConflicts_promoting {x : Nat} (hunit : (coveAt s c).stats.conflicts = [x])
    (hback : (placementAt s x).state = .promoting) : promoteConflicts s c = s := by
  have hcan : canPromote s c x = false := by simp [canPromote, hback]
  simp only [promoteConflicts, hunit]
  split <;> simp [hcan]

section
variable {t0 : Tick} (hawait : (coveAt s c).awaitReplay = some t0) (hmode : (coveAt s c).mode = .running)
  (hfrozen : coveFrozen (coveAt s c) = false) (hdue : t0 ≤ s.tide.now)
include hawait hmode hfrozen hdue

theorem exec_replayStart (hsame : promoteConflicts s c = s) : exec (.replayStart c) s = .next (
    if (coveAt s c).lastCause = 5
        ∧ ((coveAt s c).stats.conflicts.any fun u => (placementAt s u).state == .promoting && (placementAt s u).go) = true then
      updCove s c fun v => { v with
        awaitReplay := some (t0 + roundUp (s.tide.now + 1 - t0) (max 1 (planQuantum s c (coveTideAt s c).bank))) }
    else startStep s c t0) := by
  change execReplayStart c s = _
  unfold execReplayStart
  simp only [hawait, hsame]
  exact if_pos ⟨hmode, by simp [hfrozen], hdue⟩

theorem replayStart_starts (hnone : (coveAt s c).lastCause ≠ 5 ∨ (coveAt s c).stats.conflicts = [])
    (hforce : forceRefused s c = false) (howed : (coveAt s c).owed = none) :
    ∃ t, exec (.replayStart c) s = .next t ∧ StepStarted s t c t0 := by
  refine ⟨_, exec_replayStart hawait hmode hfrozen hdue (promoteConflicts_none hnone), ?_⟩
  rw [if_neg]
  · exact stepStarted_startStep s t0 hforce howed
  · rintro ⟨hcause, hany⟩
    rcases hnone with h | h
    · exact h hcause
    · simp [h] at hany

theorem replayStart_waits {x : Nat} (hcause : (coveAt s c).lastCause = 5) (hunit : (coveAt s c).stats.conflicts = [x])
    (hback : (placementAt s x).state = .promoting) (hgo : (placementAt s x).go = true) :
    exec (.replayStart c) s = .next (updCove s c fun v => { v with
      awaitReplay := some (t0 + roundUp (s.tide.now + 1 - t0) (max 1 (planQuantum s c (coveTideAt s c).bank))) }) := by
  rw [exec_replayStart hawait hmode hfrozen hdue (promoteConflicts_promoting hunit hback),
    if_pos ⟨hcause, by simp [hunit, hback, hgo]⟩]

end

/-! ### Events that the start of a step counts -/

theorem countsOnly_traceSync (s : State) (core k : Nat) : ∀ w : Wait, CountsOnly [0xE002] s (traceSync s core k w)
  | .tide _ | .bar _ _ | .wains _ | .commit _ | .arrive _ _ _ => countsOnly_traceWait s core _
  | .drain | .slots _ _ _ _ _ _ _ _ => .refl s

theorem countsOnly_endCommitWait (s : State) (i : Nat) : CountsOnly [0xE002] s (endCommitWait s i) := by
  unfold endCommitWait
  split
  · next w hw =>
    unfold endWait
    simp only [hw]
    exact (countsOnly_traceSync s i 0 (.commit w)).trans (countsOnly_of_trace _ rfl)
  · exact .refl s

theorem countsOnly_startCore (a : Tick) (s : State) (i : Nat) : CountsOnly [0xE002] s (startCore a s i) := by
  have hanchors : CountsOnly [0xE002] (endCommitWait s i)
      (forEach (endCommitWait s i) (List.range 4) fun s k => updCtx s i k fun x => { x with anchor := a }) :=
    countsOnly_forEach fun _ _ _ => countsOnly_of_trace _ rfl
  exact ((countsOnly_endCommitWait s i).trans hanchors).trans (countsOnly_of_trace _ rfl)

theorem countsOnly_endFlips (s : State) (c : Nat) : CountsOnly [0x3003] s (endFlips s c) := by
  refine countsOnly_forEach fun t x _ => ?_
  dsimp only
  split
  · refine .trans (t := setPlacement t x { placementAt t x with go := false }) (countsOnly_of_trace _ rfl) ?_
    exact countsOnly_record _ _ _ _ (by decide) (by decide)
  · exact .refl t

theorem countsOnly_coresStarted (s : State) (c : Nat) (tick : Tick) :
    CountsOnly [0x3003, 0xE002] s (coresStarted s c tick) := by
  have hflips : CountsOnly [0x3003, 0xE002] s (updCoveTide (endFlips s c) c (startedTables tick)) :=
    ((countsOnly_endFlips s c).mono (by simp)).trans (countsOnly_of_trace _ rfl)
  exact hflips.trans (countsOnly_forEach fun t i _ => (countsOnly_startCore _ t i).mono (by simp))

/-- A step that is neither refused nor owed a discard, as its parts. -/
theorem startStep_unowed {tick : Tick} (hforce : forceRefused s c = false) (howed : (coveAt s c).owed = none) :
    startStep s c tick = startNoted (coveStarted (coresStarted s c tick) c ((coveAt s c).mode ≠ .running)) c
      ((coveAt s c).mode ≠ .running) (coveAt s c) := by
  obtain ⟨hcoves, -⟩ := coresStarted_outcome s c tick
  obtain ⟨hself, -⟩ := coveStarted_outcome (coresStarted s c tick) c ((coveAt s c).mode ≠ .running)
  obtain ⟨hcoves', -⟩ := startNoted_outcome (coveStarted (coresStarted s c tick) c ((coveAt s c).mode ≠ .running)) c
    ((coveAt s c).mode ≠ .running) (coveAt s c)
  have hcove : coveAt (coresStarted s c tick) c = coveAt s c := by simp only [coveAt, hcoves]
  have hnone : (coveAt (startNoted (coveStarted (coresStarted s c tick) c ((coveAt s c).mode ≠ .running)) c
      ((coveAt s c).mode ≠ .running) (coveAt s c)) c).owed = none := by
    rw [coveAt, hcoves', ← coveAt, hself, hcove]
    exact howed
  rw [startStep_eq s tick hforce]
  dsimp only
  rw [hnone]

theorem coveTideAt_startStep {tick : Tick} (hforce : forceRefused s c = false) (howed : (coveAt s c).owed = none) :
    coveTideAt (startStep s c tick) c = startedTables tick (coveTideAt s c) := by
  obtain ⟨-, htables, -⟩ := coresStarted_outcome s c tick
  obtain ⟨-, -, -, -, htide⟩ := coveStarted_outcome (coresStarted s c tick) c ((coveAt s c).mode ≠ .running)
  obtain ⟨-, -, -, htide'⟩ := startNoted_outcome (coveStarted (coresStarted s c tick) c ((coveAt s c).mode ≠ .running)) c
    ((coveAt s c).mode ≠ .running) (coveAt s c)
  rw [startStep_unowed hforce howed, coveTideAt, htide', htide, ← htables]
  rfl

/-- The first step of a cove that did not run is event 0x7001. -/
theorem recorded_startStep {tick : Tick} (hforce : forceRefused s c = false) (howed : (coveAt s c).owed = none)
    (hmode : (coveAt s c).mode ≠ .running) : Recorded s (startStep s c tick) 0x7001 1296 := by
  have hbefore := countsOnly_coresStarted s c tick 0x7001 1296 (by decide) (by simp [episodeCode]) (by decide)
  obtain ⟨v, hv⟩ : ∃ v, v = coveStarted (coresStarted s c tick) c ((coveAt s c).mode ≠ .running) := ⟨_, rfl⟩
  have hcount : eventCount v 0x7001 1296 = eventCount (coresStarted s c tick) 0x7001 1296 := by rw [hv]; rfl
  rw [startStep_unowed hforce howed, ← hv, startNoted, if_pos hmode]
  exact recorded_between (recorded_recordCove v _ _ _ _ (by simp [episodeCode])) (hcount.trans hbefore) rfl

/-! ### The restart of a held cove (R355) -/

/-- The cove's tables as it leaves held. -/
def heldLeft (s : State) (c : Nat) : State :=
  updCoveTide s c fun t =>
    { t with skew := false, gen := if (coveAt s c).hcause = 1 then (coveAt s c).vGen else t.gen }

/-- The start of a step sets the skew flag and the generation apart from the cove's other tables. -/
theorem stepStarted_of_heldLeft {tick : Tick} (h : StepStarted (heldLeft s c) t c tick) : StepStarted s t c tick := by
  obtain ⟨htables, hrest⟩ := h
  rw [heldLeft, coveTideAt_updCoveTide] at htables
  exact ⟨htables, hrest⟩

/-- What keeps a held cove from starting at its restart tick. -/
def restartBusy (s : State) (c : Nat) : Bool :=
  (coveAt s c).ckpt.phase == .restoring || (coveAt s c).ckpt.phase == .frozen
    || (coveAt s c).lq.inflight.any (fun e => bitOf e.entry.flags 0)
    || s.load.pq.inflight.any (fun e => bitOf e.entry.flags 0 && e.entry.cove == c)
    || decide (s.tide.now < (coveTideAt s c).clockBusy)

section
variable (hmode : (coveAt s c).mode = .held) (hset : (coveTideAt s c).restart.toNat ≠ 0)
  (hdue : (coveTideAt s c).restart.toNat ≤ s.tide.now)
include hmode hset hdue

theorem exec_coveRestartTick : exec (.coveRestartTick c) s =
    if restartBusy s c || unaligned s c then
      .next (recordCove (updCoveTide s c fun t => { t with
        restart := BitVec.ofNat 64 (roundUp (s.tide.now + 1) (planQuantum s c (coveTideAt s c).bank)) }) 0x700A .corrected c [])
    else .next (startStep (checkMissing (heldLeft s c) c) c (coveTideAt s c).restart.toNat) := by
  change execCoveRestartTick c s = _
  exact if_neg (by simp [hmode, hset, hdue])

theorem coveRestartTick_starts (hfree : restartBusy s c = false) (haligned : unaligned s c = false)
    (hforce : forceRefused s c = false) (howed : (coveAt s c).owed = none) :
    ∃ t, exec (.coveRestartTick c) s = .next t ∧ StepStarted s t c (coveTideAt s c).restart.toNat
      ∧ (coveTideAt t c).skew = false
      ∧ (coveTideAt t c).gen = (if (coveAt s c).hcause = 1 then (coveAt s c).vGen else (coveTideAt s c).gen)
      ∧ Recorded s t 0x7001 1296 := by
  obtain ⟨u, hu⟩ : ∃ u, u = checkMissing (heldLeft s c) c := ⟨_, rfl⟩
  have hfig : Figures c (heldLeft s c) u := hu ▸ figures_checkMissing ..
  have hmem : u.mem = (heldLeft s c).mem := hu ▸ checkMissing_mem ..
  have hforce' : forceRefused u c = false := (hfig.forceRefused hmem).trans hforce
  have hsame : SameButFigures (coveAt s c) (coveAt u c) := hfig.cove
  have howed' : (coveAt u c).owed = none := by rw [hsame]; exact howed
  have hmode' : (coveAt u c).mode ≠ .running := by
    rw [hsame]
    change (coveAt s c).mode ≠ .running
    rw [hmode]
    decide
  have htables : coveTideAt u c = coveTideAt (heldLeft s c) c := by simp only [coveTideAt, hfig.tide]
  refine ⟨_, by rw [exec_coveRestartTick hmode hset hdue, hfree, haligned, ← hu]; exact if_neg (by simp),
    stepStarted_of_heldLeft (hfig.stepStarted hmem (stepStarted_startStep u _ hforce' howed')), ?_, ?_,
    recorded_between (recorded_startStep hforce' howed' hmode')
      (hfig.counts 0x7001 1296 (by decide) (by simp [episodeCode]) (by decide)) rfl⟩
  · rw [coveTideAt_startStep hforce' howed', htables, heldLeft, coveTideAt_updCoveTide]
    rfl
  · rw [coveTideAt_startStep hforce' howed', htables, heldLeft, coveTideAt_updCoveTide]
    rfl

theorem coveRestartTick_moves (hbusy : restartBusy s c = true ∨ unaligned s c = true) :
    ∃ t, exec (.coveRestartTick c) s = .next t
      ∧ coveTideAt t c = { coveTideAt s c with
          restart := BitVec.ofNat 64 (roundUp (s.tide.now + 1) (planQuantum s c (coveTideAt s c).bank)) }
      ∧ Recorded s t 0x700A 1296 ∧ t.cores = s.cores ∧ t.coves = s.coves ∧ t.mem = s.mem := by
  obtain ⟨u, hu⟩ : ∃ u, u = updCoveTide s c fun t => { t with
      restart := BitVec.ofNat 64 (roundUp (s.tide.now + 1) (planQuantum s c (coveTideAt s c).bank)) } := ⟨_, rfl⟩
  have hexec : exec (.coveRestartTick c) s = .next (recordCove u 0x700A .corrected c []) := by
    rw [exec_coveRestartTick hmode hset hdue, hu]
    exact if_pos (by simpa using hbusy)
  have hrec : Recorded u (recordCove u 0x700A .corrected c []) 0x700A 1296 :=
    recorded_recordCove u _ _ _ _ (by simp [episodeCode])
  refine ⟨_, hexec, ?_, recorded_between hrec (eventCount_of_trace (by rw [hu]; rfl)) rfl, ?_, ?_, ?_⟩
  · rw [recordCove_eq, coveTideAt_record, hu, coveTideAt_updCoveTide]
  · rw [recordCove_eq, record_cores, hu, updCoveTide_cores]
  · rw [recordCove_eq, record_coves, hu, updCoveTide_coves]
  · rw [recordCove_eq, record_mem, hu, updCoveTide_mem]

end

/-! ### Digest tables of peers (R400) -/

section
variable {peer : Nat} {step : DWord} {table : List DWord} {crcOk : Bool}

theorem digestTable_unknown (h : ∀ p ∈ digestPeers s c, p.1 ≠ peer) :
    exec (.digestTableReceive c peer step table crcOk) s = .next s :=
  if_pos (by simpa using h)

/-- The entry that differs first. -/
def firstDifference (v : Cove) (table : List DWord) : Option Nat :=
  (List.range v.digestTable.length).find? fun q => v.digestTable.getD q 0#64 != table.getD q 0#64

theorem firstDifference_eq_none {v : Cove} {table : List DWord} : firstDifference v table = none ↔
    ∀ q, q < v.digestTable.length → v.digestTable.getD q 0#64 = table.getD q 0#64 := by
  simp [firstDifference]

/-- A table of a peer by its check: refused, or noted and compared. -/
theorem exec_digestTable (h : ∃ p ∈ digestPeers s c, p.1 = peer) :
    exec (.digestTableReceive c peer step table crcOk) s =
      if !crcOk || step.toNat ≠ (coveAt s c).digestStep then .next (recordCove s 0x6033 .corrected c [])
      else
        let u := updCove s c fun v => { v with received := v.received ||| 2 ^ peer }
        .next (match firstDifference (coveAt s c) table with
          | some q => recordCove (updCove u c fun v => { v with mismatch := v.mismatch ||| 2 ^ peer }) 0x6031 .corrected c
              [peer, 4 * q]
          | none => u) := by
  change execDigestTableReceive c peer step table crcOk s = _
  exact if_neg (by simpa using h)

theorem digestTable_refused (h : ∃ p ∈ digestPeers s c, p.1 = peer)
    (hbad : crcOk = false ∨ step.toNat ≠ (coveAt s c).digestStep) :
    ∃ t, exec (.digestTableReceive c peer step table crcOk) s = .next t ∧ Recorded s t 0x6033 1296
      ∧ t.coves = s.coves ∧ t.mem = s.mem := by
  refine ⟨_, (exec_digestTable h).trans (if_pos (by simpa using hbad)),
    recorded_recordCove s _ _ _ _ (by simp [episodeCode]), ?_, ?_⟩
  · rw [recordCove_eq, record_coves]
  · rw [recordCove_eq, record_mem]

theorem digestTable_compared (h : ∃ p ∈ digestPeers s c, p.1 = peer) (hcrc : crcOk = true)
    (hstep : step.toNat = (coveAt s c).digestStep) :
    ∃ t, exec (.digestTableReceive c peer step table crcOk) s = .next t
      ∧ (coveAt t c).received = (coveAt s c).received ||| 2 ^ peer ∧ t.cores = s.cores ∧ t.mem = s.mem
      ∧ ((∀ q, q < (coveAt s c).digestTable.length → (coveAt s c).digestTable.getD q 0#64 = table.getD q 0#64) →
          (coveAt t c).mismatch = (coveAt s c).mismatch)
      ∧ ((∃ q, q < (coveAt s c).digestTable.length ∧ (coveAt s c).digestTable.getD q 0#64 ≠ table.getD q 0#64) →
          (coveAt t c).mismatch = (coveAt s c).mismatch ||| 2 ^ peer ∧ Recorded s t 0x6031 1296) := by
  have hexec := (exec_digestTable (step := step) (table := table) (crcOk := crcOk) h).trans (if_neg (by simp [hcrc, hstep]))
  have hsame := firstDifference_eq_none (v := coveAt s c) (table := table)
  dsimp only at hexec
  cases hfind : firstDifference (coveAt s c) table with
  | none =>
    rw [hfind] at hexec hsame
    have hcove : coveAt (updCove s c fun v => { v with received := v.received ||| 2 ^ peer }) c =
        { coveAt s c with received := (coveAt s c).received ||| 2 ^ peer } := coveAt_updCove ..
    refine ⟨_, hexec, by rw [hcove], rfl, rfl, fun _ => by rw [hcove], fun ⟨q, hq, hne⟩ => ?_⟩
    exact absurd (hsame.1 rfl q hq) hne
  | some q =>
    rw [hfind] at hexec hsame
    obtain ⟨u, hu⟩ : ∃ u, u = updCove (updCove s c fun v => { v with received := v.received ||| 2 ^ peer }) c fun v =>
      { v with mismatch := v.mismatch ||| 2 ^ peer } := ⟨_, rfl⟩
    have hcove : coveAt u c = { coveAt s c with
        received := (coveAt s c).received ||| 2 ^ peer, mismatch := (coveAt s c).mismatch ||| 2 ^ peer } := by
      rw [hu, coveAt_updCove, coveAt_updCove]
    have hrec : Recorded u (recordCove u 0x6031 .corrected c [peer, 4 * q]) 0x6031 1296 :=
      recorded_recordCove u _ _ _ _ (by simp [episodeCode])
    rw [← hu] at hexec
    refine ⟨recordCove u 0x6031 .corrected c [peer, 4 * q], hexec, ?_, ?_, ?_, fun hall => absurd (hsame.2 hall) (by simp), fun _ => ⟨?_, ?_⟩⟩
    · rw [recordCove_eq, coveAt_record, hcove]
    · rw [recordCove_eq, record_cores, hu]; rfl
    · rw [recordCove_eq, record_mem, hu]; rfl
    · rw [recordCove_eq, coveAt_record, hcove]
    · exact recorded_between hrec (eventCount_of_trace (by rw [hu]; rfl)) rfl

end

/-- Settles O30: each command by the case of its state, a start by `stepStarted_startStep` and a discard by
`discardNow_outcome`. -/
theorem discardsReplaysAndRestarts : Obligations.DiscardsReplaysAndRestarts := by
  intro c s _
  refine ⟨fun sender tick tag step => ⟨discardNotice_ignored, fun hsender hjob htag hstep => ⟨fun a ha => ?_, ?_⟩⟩,
    fun t0 hawait hmode hfrozen hdue => ⟨?_, fun x => replayStart_waits hawait hmode hfrozen hdue⟩,
    fun hmode hset hdue => ⟨coveRestartTick_starts hmode hset hdue, coveRestartTick_moves hmode hset hdue⟩,
    fun peer step table crcOk => ⟨digestTable_unknown, fun h => ⟨digestTable_refused h, digestTable_compared h⟩⟩⟩
  · obtain ⟨hcove, hframe⟩ := awaitReplayFrom_later s c tick
    exact ⟨_, (exec_discardNotice hsender hjob htag hstep).trans (if_pos (by rw [ha]; rfl)), hcove, hframe⟩
  · exact discardNotice_discards hsender hjob htag hstep
  · exact replayStart_starts hawait hmode hfrozen hdue

end Sys2Proof.Proofs
end

section
/-!
PROOFS. Writes of the routing banks, their switch and re-apply, and writes of the lease table: O40.
-/
namespace Sys2Proof.Proofs
open Sys2Proof Sys2Proof.Machine Sys2Proof.Laws Sys2Proof.Claim

variable {s t u : State}

/-! ### Writes of the routing registers (R273 to R275) -/

theorem countsOnly_hostError (s : State) (fn kind off : Nat) : CountsOnly [0xB010] s (hostError s fn kind off) := by
  obtain ⟨v, tr, w, -, hv, hsrc, _, _, e⟩ := hostError_eq s fn kind off
  rw [e]
  exact (countsOnly_of_sources _ (by rw [hv]; exact hsrc)).trans (countsOnly_record v _ _ _ (by decide) (by decide))

theorem routeData_stored {value : DWord} (h : BarOpen s (.routeDataWrite value)) (hlag : s.fab.routeLag = [])
    (hbank : bitOf s.fab.routeIndex.toNat 16 ≠ s.fab.routeBank) (hgood : routeBad value.toNat = false) :
    exec (.routeDataWrite value) s = .next { s with fab := { s.fab with
      routeWritten := s.tide.now + 1
      routes := Sparse.set 0#64 s.fab.routes
        (65536 * natOf (bitOf s.fab.routeIndex.toNat 16) + bitsOf s.fab.routeIndex.toNat 15 0) value
      routeIndex := BitVec.ofNat 32 (s.fab.routeIndex.toNat / 65536 * 65536
        + (bitsOf s.fab.routeIndex.toNat 15 0 + 1) % 65536) } } := by
  rw [exec_barOpen (e := effectRouteDataWrite value) h rfl rfl]
  simp only [effectRouteDataWrite, hlag, hbank, hgood, ne_eq, not_true_eq_false, Bool.false_eq_true, or_self, if_false]

theorem routeData_refused {value : DWord} (h : BarOpen s (.routeDataWrite value))
    (hbad : s.fab.routeLag ≠ [] ∨ bitOf s.fab.routeIndex.toNat 16 = s.fab.routeBank ∨ routeBad value.toNat = true) :
    ∃ t, exec (.routeDataWrite value) s = .next t ∧ Recorded s t 0x200B 1296 ∧ Recorded s t 0xB010 1296
      ∧ t.fab = s.fab ∧ t.tide = s.tide := by
  have hexec : exec (.routeDataWrite value) s = .next (recordHead (hostError s 0 2 0x80010) 0x200B .corrected []) := by
    rw [exec_barOpen (e := effectRouteDataWrite value) h rfl rfl]
    exact congrArg Host.Outcome.next (if_pos hbad)
  obtain ⟨herr, -, hframe⟩ := hostErred_hostError s 0 2 0x80010
  have hother : eventCount (hostError s 0 2 0x80010) 0x200B 1296 = eventCount s 0x200B 1296 :=
    countsOnly_hostError s 0 2 0x80010 0x200B 1296 (by decide) (by simp [episodeCode]) (by decide)
  refine ⟨_, hexec, recorded_between (recorded_recordHead _ _ _ _ (by simp [episodeCode])) hother rfl,
    recorded_between herr rfl (eventCount_record_other _ _ _ (by decide) (by decide) (by simp [episodeCode]) (by simp)),
    ?_, ?_⟩
  · rw [recordHead_eq, record_fab, hframe]
  · rw [recordHead_eq, record_tide, hframe]

theorem routeArm_outcome {value : Word} (h : BarOpen s (.routeSwitchArm value)) (harm : value.getLsbD 0 = true)
    (hkeep : value.getLsbD 3 = false) :
    let c := s.fab.routeCtrl
    let kept := { c with done := c.done && !value.getLsbD 1, refused := c.refused && !value.getLsbD 2 }
    exec (.routeSwitchArm value) s = .next { s with fab := { s.fab with routeCtrl :=
      if s.fab.routeTick.toNat < s.tide.now + 250000 then { kept with refused := true } else { kept with arm := true } } } := by
  intro c kept
  rw [exec_barOpen (e := effectRouteSwitchArm value) h rfl rfl]
  by_cases hclose : s.fab.routeTick.toNat < s.tide.now + 250000 <;>
    simp only [effectRouteSwitchArm, writeRouteCtrl, updRouteCtrl, harm, hkeep, hclose, c, kept, decide_true, decide_false,
      Bool.not_true, Bool.not_false, Bool.false_eq_true, if_true, if_false]

/-- The control register after a write that asks for a re-apply and arms nothing. -/
def reapplyKept (s : State) (value : Word) : State :=
  updRouteCtrl s fun c => { c with done := c.done && !value.getLsbD 1, refused := c.refused && !value.getLsbD 2 }

theorem exec_routeReapply {value : Word} (h : BarOpen s (.routeReapply value)) (harm : value.getLsbD 0 = false)
    (hset : value.getLsbD 3 = true) : exec (.routeReapply value) s = .next (
      if s.fab.routeTick.toNat < s.tide.now + 250000 ∨ s.fab.routeLag = [] then
        hostError (updRouteCtrl (reapplyKept s value) fun c => { c with refused := true, reapply := false }) 0 2 0x80020
      else updRouteCtrl (reapplyKept s value) fun c => { c with reapply := true }) := by
  rw [exec_barOpen (e := effectRouteReapply value) h rfl rfl]
  simp only [effectRouteReapply, writeRouteCtrl, harm, hset, reapplyKept, updRouteCtrl, decide_eq_true_eq, Bool.not_true,
    Bool.not_false, Bool.false_eq_true, if_true, if_false]

theorem routeReapply_outcome {value : Word} (h : BarOpen s (.routeReapply value)) (harm : value.getLsbD 0 = false)
    (hset : value.getLsbD 3 = true) :
    ∃ t, exec (.routeReapply value) s = .next t ∧ t.fab = { s.fab with routeCtrl := t.fab.routeCtrl }
      ∧ (s.tide.now + 250000 ≤ s.fab.routeTick.toNat → s.fab.routeLag ≠ [] → t.fab.routeCtrl.reapply = true)
      ∧ ((s.fab.routeTick.toNat < s.tide.now + 250000 ∨ s.fab.routeLag = []) → t.fab.routeCtrl.reapply = false
          ∧ t.fab.routeCtrl.refused = true ∧ Recorded s t 0xB010 1296) := by
  by_cases hbad : s.fab.routeTick.toNat < s.tide.now + 250000 ∨ s.fab.routeLag = []
  · obtain ⟨v, hv⟩ : ∃ v, v = updRouteCtrl (reapplyKept s value) fun c => { c with refused := true, reapply := false } :=
      ⟨_, rfl⟩
    obtain ⟨herr, -, hframe⟩ := hostErred_hostError v 0 2 0x80020
    have hfab : (hostError v 0 2 0x80020).fab = v.fab := by rw [hframe]
    refine ⟨hostError v 0 2 0x80020, ?_, ?_, fun htick hlag => ?_, fun _ => ⟨?_, ?_, ?_⟩⟩
    · rw [exec_routeReapply h harm hset, if_pos hbad, hv]
    · rw [hfab, hv]; rfl
    · exact (hbad.elim (Nat.not_lt.2 htick) hlag).elim
    · rw [hfab, hv]; rfl
    · rw [hfab, hv]; rfl
    · exact recorded_between herr (eventCount_of_trace (by rw [hv]; rfl)) rfl
  · exact ⟨_, (exec_routeReapply h harm hset).trans (congrArg _ (if_neg hbad)), rfl, fun _ _ => rfl,
      fun hb => absurd hb hbad⟩

/-! ### The ticks of a switch and of a re-apply (R273, R274, R279) -/

theorem publishBounds_bounds (s : State) :
    250 ≤ (publishBounds s).tide.boundBay ∧ (publishBounds s).tide.boundBay ≤ (publishBounds s).tide.boundHall :=
  ⟨Nat.le_max_left .., Nat.le_max_left ..⟩

/-- The other bank is active, but for the units that keep the old one, and the bounds are published. -/
def routesSwitched (s : State) (bad : List Nat) : State :=
  publishBounds { s with fab := { s.fab with routeBank := !s.fab.routeBank, routeLag := bad.filter fun d => decide (d < 80) } }

theorem switchRoutes_outcome (s : State) (bad : List Nat) : let t := switchRoutes s bad
    t.fab.routeBank = !s.fab.routeBank ∧ t.fab.routeLag = bad.filter (fun d => decide (d < 80))
    ∧ t.fab.routeCtrl.arm = s.fab.routeCtrl.arm ∧ t.fab.routes = s.fab.routes
    ∧ 250 ≤ t.tide.boundBay ∧ t.tide.boundBay ≤ t.tide.boundHall
    ∧ (t.fab.routeLag = [] → t.fab.routeCtrl.done = true)
    ∧ (t.fab.routeLag ≠ [] → t.fab.routeCtrl.refused = true ∧ Recorded s t 0x200B 1296)
    ∧ t.cores = s.cores ∧ t.mem = s.mem := by
  obtain ⟨hbay, hhall⟩ := publishBounds_bounds
    { s with fab := { s.fab with routeBank := !s.fab.routeBank, routeLag := bad.filter fun d => decide (d < 80) } }
  by_cases hlag : (bad.filter fun d => decide (d < 80)) = []
  · have e : switchRoutes s bad = updRouteCtrl (routesSwitched s bad) fun c => { c with done := true } := if_pos hlag
    rw [e]
    exact ⟨rfl, rfl, rfl, rfl, hbay, hhall, fun _ => rfl, fun hne => absurd hlag hne, rfl, rfl⟩
  · obtain ⟨v, hv⟩ : ∃ v, v = updRouteCtrl (routesSwitched s bad) fun c => { c with refused := true } := ⟨_, rfl⟩
    have e : switchRoutes s bad = recordHead v 0x200B .corrected [] := hv ▸ if_neg hlag
    have hrec : Recorded s (recordHead v 0x200B .corrected []) 0x200B 1296 :=
      recorded_between (recorded_recordHead _ _ _ _ (by simp [episodeCode])) (eventCount_of_trace (by rw [hv]; rfl)) rfl
    rw [e]
    simp only [recordHead_eq, record_fab, record_tide, record_cores, record_mem] at hrec ⊢
    rw [hv] at hrec ⊢
    exact ⟨rfl, rfl, rfl, rfl, hbay, hhall, fun h => absurd h hlag, fun _ => ⟨rfl, hrec⟩, rfl, rfl⟩

theorem routeSwitchTick_outcome (bad : List Nat) (harm : s.fab.routeCtrl.arm = true)
    (hdue : s.fab.routeTick.toNat ≤ s.tide.now) :
    ∃ t, exec (.routeSwitchTick bad) s = .next t ∧ t.fab.routeBank = !s.fab.routeBank
      ∧ t.fab.routeLag = bad.filter (fun d => decide (d < 80)) ∧ t.fab.routeCtrl.arm = false
      ∧ t.fab.routes = s.fab.routes ∧ 250 ≤ t.tide.boundBay ∧ t.tide.boundBay ≤ t.tide.boundHall
      ∧ (t.fab.routeLag = [] → t.fab.routeCtrl.done = true)
      ∧ (t.fab.routeLag ≠ [] → t.fab.routeCtrl.refused = true ∧ Recorded s t 0x200B 1296)
      ∧ t.cores = s.cores ∧ t.mem = s.mem :=
  ⟨switchRoutes (updRouteCtrl s fun c => { c with arm := false }) bad, congrArg Host.Outcome.next (if_pos ⟨harm, hdue⟩),
    switchRoutes_outcome (updRouteCtrl s fun c => { c with arm := false }) bad⟩

theorem reapplyRoutes_outcome (s : State) (bad : List Nat) : let t := reapplyRoutes s bad
    t.fab.routeBank = s.fab.routeBank ∧ t.fab.routeLag = s.fab.routeLag.filter (bad.contains ·)
    ∧ t.fab.routeCtrl.reapply = s.fab.routeCtrl.reapply
    ∧ (t.fab.routeLag = [] → t.fab.routeCtrl.done = true ∧ Recorded s t 0x200D 1296)
    ∧ (t.fab.routeLag ≠ [] → t.fab.routeCtrl.refused = true ∧ Recorded s t 0x200B 1296)
    ∧ t.tide = s.tide ∧ t.cores = s.cores ∧ t.mem = s.mem := by
  obtain ⟨v, hv⟩ : ∃ v : State, v = { s with fab := { s.fab with routeLag := s.fab.routeLag.filter (bad.contains ·) } } :=
    ⟨_, rfl⟩
  have hrec (f : SwitchCtrl → SwitchCtrl) (code) (h : ¬ episodeCode code) :
      Recorded s (recordHead (updRouteCtrl v f) code .corrected []) code 1296 :=
    recorded_between (recorded_recordHead _ _ _ _ h) (eventCount_of_trace (by rw [hv]; rfl)) rfl
  by_cases hlag : v.fab.routeLag = []
  · have e : reapplyRoutes s bad = recordHead (updRouteCtrl v fun c => { c with done := true }) 0x200D .corrected [] := by
      rw [hv] at hlag ⊢; exact if_pos hlag
    have hevent := hrec (fun c => { c with done := true }) 0x200D (by simp [episodeCode])
    rw [e]
    simp only [recordHead_eq, record_fab, record_tide, record_cores, record_mem] at hevent ⊢
    rw [hv] at hlag hevent ⊢
    exact ⟨rfl, rfl, rfl, fun _ => ⟨rfl, hevent⟩, fun hne => absurd hlag hne, rfl, rfl, rfl⟩
  · have e : reapplyRoutes s bad = recordHead (updRouteCtrl v fun c => { c with refused := true }) 0x200B .corrected [] := by
      rw [hv] at hlag ⊢; exact if_neg hlag
    have hevent := hrec (fun c => { c with refused := true }) 0x200B (by simp [episodeCode])
    rw [e]
    simp only [recordHead_eq, record_fab, record_tide, record_cores, record_mem] at hevent ⊢
    rw [hv] at hlag hevent ⊢
    exact ⟨rfl, rfl, rfl, fun h => absurd h hlag, fun _ => ⟨rfl, hevent⟩, rfl, rfl, rfl⟩

theorem routeReapplyTick_outcome (bad : List Nat) (hset : s.fab.routeCtrl.reapply = true)
    (hdue : s.fab.routeTick.toNat ≤ s.tide.now) :
    ∃ t, exec (.routeReapplyTick bad) s = .next t ∧ t.fab.routeBank = s.fab.routeBank
      ∧ t.fab.routeLag = s.fab.routeLag.filter (bad.contains ·) ∧ t.fab.routeCtrl.reapply = false
      ∧ (t.fab.routeLag = [] → t.fab.routeCtrl.done = true ∧ Recorded s t 0x200D 1296)
      ∧ (t.fab.routeLag ≠ [] → t.fab.routeCtrl.refused = true ∧ Recorded s t 0x200B 1296)
      ∧ t.tide = s.tide ∧ t.cores = s.cores ∧ t.mem = s.mem :=
  ⟨reapplyRoutes (updRouteCtrl s fun c => { c with reapply := false }) bad, congrArg Host.Outcome.next (if_pos ⟨hset, hdue⟩),
    reapplyRoutes_outcome (updRouteCtrl s fun c => { c with reapply := false }) bad⟩

/-! ### Frames that pass to an owner (R213, R215) -/

/-- The owner in the table of frames. -/
def frameEntry (s : State) (f : Nat × Nat) : FrameOwner := Sparse.get .free s.mem.frames (1024 * f.1 + f.2)

/-- Every byte of the frame reads 0. -/
def FrameZero (s : State) (f : Nat × Nat) : Prop :=
  ∀ a, f.2 * 2 ^ 26 ≤ a → a < (f.2 + 1) * 2 ^ 26 → memByte (stackAt s f.1) a = 0#8

theorem frameOwner_eq {f : Nat × Nat} (h : f.2 < 1020) : frameOwner s f.1 f.2 = frameEntry s f := if_neg (Nat.not_le.2 h)

theorem mem_framesOfI {f : Nat × Nat} {x : Nat} : f ∈ framesOfI x ↔ f.1 < 16 ∧ f.2 = x := by
  obtain ⟨a, b⟩ := f
  simp [framesOfI, eq_comm]

theorem frameEntry_setFrame_same (s : State) (f : Nat × Nat) (o : FrameOwner) :
    frameEntry (setFrame (zeroFrame s f) f.1 f.2 o) f = o := get_set_same ..

theorem frameEntry_setFrame_other {f g : Nat × Nat} (hf : f.2 < 1024) (hg : g.2 < 1024) (h : g ≠ f) (s : State)
    (o : FrameOwner) : frameEntry (setFrame (zeroFrame s f) f.1 f.2 o) g = frameEntry s g :=
  get_set_other _ _ _ _ _ fun e => h (Prod.ext (by omega) (by omega))

theorem stackAt_setFrame (s : State) (f : Nat × Nat) (o : FrameOwner) (k : Nat) :
    stackAt (setFrame (zeroFrame s f) f.1 f.2 o) k =
      if k = f.1 then memZero (stackAt s f.1) (f.2 * 2 ^ 26) (2 ^ 26) else stackAt s k :=
  stackAt_updStack s f.1 k fun m => memZero m (f.2 * 2 ^ 26) (2 ^ 26)

theorem frameZero_setFrame_same (s : State) (f : Nat × Nat) (o : FrameOwner) :
    FrameZero (setFrame (zeroFrame s f) f.1 f.2 o) f := by
  intro a hlo hhi
  rw [stackAt_setFrame, if_pos rfl, memByte_memZero, if_pos ⟨hlo, by omega⟩]

/-- Zeroing a frame unzeroes no other. -/
theorem FrameZero.setFrame {g : Nat × Nat} (h : FrameZero s g) (f : Nat × Nat) (o : FrameOwner) :
    FrameZero (setFrame (zeroFrame s f) f.1 f.2 o) g := by
  intro a hlo hhi
  rw [stackAt_setFrame]
  split
  · next e =>
    rw [memByte_memZero]
    split
    · rfl
    · exact e ▸ h a hlo hhi
  · exact h a hlo hhi

section
variable {l : List (Nat × Nat)} {o : FrameOwner} {g : Nat × Nat}

theorem frameZero_passFrames (h : g ∈ l ∨ FrameZero s g) : FrameZero (passFrames s l o) g :=
  forEach_establish (p := FrameZero) (f := fun s f => setFrame (zeroFrame s f) f.1 f.2 o)
    (fun t f => frameZero_setFrame_same t f o) (fun _ f _ h => h.setFrame f o) h

theorem frameEntry_passFrames_other (hl : ∀ f ∈ l, f.2 < 1024) (hg : g.2 < 1024) (h : g ∉ l) :
    frameEntry (passFrames s l o) g = frameEntry s g :=
  forEach_same (f := fun s f => setFrame (zeroFrame s f) f.1 f.2 o) (fun t => frameEntry t g) fun t f hf =>
    frameEntry_setFrame_other (hl f hf) hg (ne_of_mem_of_not_mem hf h).symm t o

theorem frameEntry_passFrames (hl : ∀ f ∈ l, f.2 < 1024) (h : g ∈ l) : frameEntry (passFrames s l o) g = o := by
  have hg := hl g h
  unfold passFrames
  induction l generalizing s with
  | nil => simp at h
  | cons f l ih =>
    have hrest : ∀ f ∈ l, f.2 < 1024 := fun x hx => hl x (List.mem_cons_of_mem _ hx)
    rw [forEach_cons]
    by_cases hin : g ∈ l
    · exact ih hrest hin
    · obtain rfl : g = f := (List.mem_cons.1 h).resolve_right hin
      exact (frameEntry_passFrames_other hrest hg hin).trans (frameEntry_setFrame_same ..)

/-- Frames that pass change the memory alone, and not the lease table. -/
theorem passFrames_frame (s : State) (l o) : passFrames s l o = { s with mem := (passFrames s l o).mem }
    ∧ (passFrames s l o).mem.leases = s.mem.leases :=
  forEach_rel (R := fun s t : State => t = { s with mem := t.mem } ∧ t.mem.leases = s.mem.leases) (fun _ => ⟨rfl, rfl⟩)
    (fun {_ _ c} e e' => ⟨e'.1.trans (congrArg (fun y : State => { y with mem := c.mem }) e.1), e'.2.trans e.2⟩)
    fun _ _ _ => ⟨rfl, rfl⟩

end

/-! ### The start of a lease (R226, R227) -/

/-- What the zeroing of a lease's units for a cove does to the memory: it changes the memory alone, it keeps a frame of a unit
of which no frame is the cove's, and it unzeroes none. -/
def LeaseStep (c : Nat) (s t : State) : Prop :=
  t = { s with mem := t.mem } ∧ t.mem.leases = s.mem.leases
  ∧ (∀ x, x < 1020 → (∀ f ∈ framesOfI x, frameEntry s f ≠ .cove c) → ∀ f ∈ framesOfI x, frameEntry t f = frameEntry s f)
  ∧ ∀ f, FrameZero s f → FrameZero t f

theorem LeaseStep.refl (c : Nat) (s : State) : LeaseStep c s s := ⟨rfl, rfl, fun _ _ _ _ _ => rfl, fun _ h => h⟩

theorem LeaseStep.trans {c : Nat} (h : LeaseStep c s t) (h' : LeaseStep c t u) : LeaseStep c s u := by
  obtain ⟨hframe, hleases, hentry, hzero⟩ := h
  obtain ⟨hframe', hleases', hentry', hzero'⟩ := h'
  refine ⟨hframe'.trans (congrArg (fun y : State => { y with mem := u.mem }) hframe),
    hleases'.trans hleases,
    fun x hx hnone f hf => ?_, fun f hf => hzero' f (hzero f hf)⟩
  have hkeep := hentry x hx hnone
  rw [hentry' x hx (fun g hg => by rw [hkeep g hg]; exact hnone g hg) f hf, hkeep f hf]

/-- The units of a list of which a frame is the cove's. -/
def unitsWith (s : State) (c : Nat) (l : List Nat) : List Nat :=
  l.filter fun x => (framesOfI x).any fun f => frameOwner s f.1 f.2 == .cove c

theorem mem_unitsWith {c x : Nat} {l : List Nat} (h : x ∈ unitsWith s c l) :
    x < 1020 ∧ ∃ f ∈ framesOfI x, frameEntry s f = .cove c := by
  obtain ⟨f, hf, hown⟩ := List.any_eq_true.1 (List.mem_filter.1 h).2
  obtain ⟨-, rfl⟩ := mem_framesOfI.1 hf
  have hx : f.2 < 1020 := by
    by_contra hge
    simp [frameOwner, Nat.not_lt.1 hge] at hown
  exact ⟨hx, f, hf, by rw [← frameOwner_eq hx]; exact of_decide_eq_true hown⟩

theorem leaseStep_passFrames (s : State) (c : Nat) (l : List Nat) (o : FrameOwner) :
    LeaseStep c s (passFrames s ((unitsWith s c l).flatMap framesOfI) o) := by
  obtain ⟨hframe, hleases⟩ := passFrames_frame s ((unitsWith s c l).flatMap framesOfI) o
  refine ⟨hframe, hleases, fun x hx hnone f hf => ?_, fun f hf => frameZero_passFrames (.inr hf)⟩
  obtain ⟨-, rfl⟩ := mem_framesOfI.1 hf
  refine frameEntry_passFrames_other (fun g hg => ?_) (by omega) fun hin => ?_
  · obtain ⟨y, hy, hgy⟩ := List.mem_flatMap.1 hg
    have := (mem_unitsWith hy).1
    have := (mem_framesOfI.1 hgy).2
    omega
  · obtain ⟨y, hy, hfy⟩ := List.mem_flatMap.1 hin
    obtain ⟨-, rfl⟩ := mem_framesOfI.1 hfy
    obtain ⟨-, g, hg, hown⟩ := mem_unitsWith hy
    exact hnone g hg hown

theorem leaseStep_leaseZeroing (s : State) (c : Nat) : LeaseStep c s (leaseZeroing s c) := by
  refine forEach_rel (R := LeaseStep c) (LeaseStep.refl c) .trans fun t e _ => ?_
  dsimp only
  split
  · exact .refl c t
  · exact leaseStep_passFrames t c _ _

/-- Zeroing for several coves keeps the frames of a unit that none of them owns a frame of. -/
theorem leaseZeroing_all (s : State) (l : List Nat) : let t := forEach s l leaseZeroing
    t = { s with mem := t.mem } ∧ t.mem.leases = s.mem.leases
    ∧ (∀ x, x < 1020 → (∀ c ∈ l, ∀ f ∈ framesOfI x, frameEntry s f ≠ .cove c) →
        ∀ f ∈ framesOfI x, frameEntry t f = frameEntry s f)
    ∧ ∀ f, FrameZero s f → FrameZero t f := by
  induction l generalizing s with
  | nil => exact ⟨rfl, rfl, fun _ _ _ _ _ => rfl, fun _ h => h⟩
  | cons c l ih =>
    obtain ⟨hframe, hleases, hentry, hzero⟩ := leaseStep_leaseZeroing s c
    obtain ⟨hframe', hleases', hentry', hzero'⟩ := ih (leaseZeroing s c)
    refine ⟨hframe'.trans (congrArg (fun y : State => { y with mem := (forEach (leaseZeroing s c) l leaseZeroing).mem }) hframe),
      hleases'.trans hleases, fun x hx hnone f hf => ?_, fun f hf => hzero' f (hzero f hf)⟩
    have hkeep := hentry x hx (hnone c (List.mem_cons_self ..))
    rw [forEach_cons, hentry' x hx (fun d hd g hg => by
      rw [hkeep g hg]; exact hnone d (List.mem_cons_of_mem _ hd) g hg) f hf, hkeep f hf]

/-- The owner of a frame is a cove. -/
def ownedByCove : FrameOwner → Bool
  | .cove _ => true
  | .free | .module | .lease _ => false

theorem ownedByCove_eq_true : ∀ o, ownedByCove o = true ↔ ∃ c, o = .cove c := by
  rintro (_ | _ | _ | _) <;> simp [ownedByCove]

/-- A frame of the unit is a cove's. -/
def coveUnit (s : State) (x : Nat) : Bool := (framesOfI x).any fun f => ownedByCove (frameOwner s f.1 f.2)

theorem coveUnit_eq_true {x : Nat} (hx : x < 1020) :
    coveUnit s x = true ↔ ∃ f ∈ framesOfI x, ∃ c, frameEntry s f = .cove c := by
  simp only [coveUnit, List.any_eq_true, ownedByCove_eq_true]
  refine exists_congr fun f => and_congr_right fun hf => ?_
  rw [frameOwner_eq (by have := (mem_framesOfI.1 hf).2; omega)]

theorem beginLease_eq (s : State) (index : Nat) (l : Lease) : beginLease s index l =
    forEach (passFrames s (((leaseUnits l).filter fun x => !coveUnit s x).flatMap framesOfI) (.lease index))
      ((List.range 16).filter fun c => (coveTideAt s c).slack || (coveAt s c).mode == .stopped) leaseZeroing := by
  have hframe := (passFrames_frame s (((leaseUnits l).filter fun x => !coveUnit s x).flatMap framesOfI) (.lease index)).1
  have hcoves : ((List.range 16).filter fun c =>
        (coveTideAt (passFrames s (((leaseUnits l).filter fun x => !coveUnit s x).flatMap framesOfI) (.lease index)) c).slack
        || (coveAt (passFrames s (((leaseUnits l).filter fun x => !coveUnit s x).flatMap framesOfI) (.lease index)) c).mode
            == .stopped) =
      (List.range 16).filter fun c => (coveTideAt s c).slack || (coveAt s c).mode == .stopped := by
    rw [hframe]; rfl
  rw [← hcoves]
  rfl

theorem mem_leaseUnits {l : Lease} {x : Nat} : x ∈ leaseUnits l → x < l.first + l.count := by
  intro h
  obtain ⟨i, hi, rfl⟩ := List.mem_map.1 h
  have := List.mem_range.1 hi
  omega

/-- A lease that begins has the zeroed units that no cove owns; a unit of a cove that is neither stopped nor in a slack water
stays with it. -/
theorem beginLease_outcome (s : State) (index : Nat) {l : Lease} (hunits : l.first + l.count ≤ 1020) :
    let t := beginLease s index l
    t = { s with mem := t.mem } ∧ t.mem.leases = s.mem.leases
    ∧ (∀ x ∈ leaseUnits l, (∀ f ∈ framesOfI x, ∀ c, frameEntry s f ≠ .cove c) →
        ∀ f ∈ framesOfI x, frameEntry t f = .lease index ∧ FrameZero t f)
    ∧ (∀ x ∈ leaseUnits l, ∀ c, (coveTideAt s c).slack = false → (coveAt s c).mode ≠ .stopped →
        (∀ f ∈ framesOfI x, frameEntry s f = .cove c) → ∀ f ∈ framesOfI x, frameEntry t f = .cove c) := by
  obtain ⟨fs, hfs⟩ : ∃ fs, fs = ((leaseUnits l).filter fun x => !coveUnit s x).flatMap framesOfI := ⟨_, rfl⟩
  obtain ⟨cs, hcs⟩ : ∃ cs, cs = (List.range 16).filter fun c => (coveTideAt s c).slack || (coveAt s c).mode == .stopped :=
    ⟨_, rfl⟩
  obtain ⟨hframe, hleases⟩ := passFrames_frame s fs (.lease index)
  obtain ⟨hframe', hleases', hentry, hzero⟩ := leaseZeroing_all (passFrames s fs (.lease index)) cs
  have hsmall {x : Nat} (hx : x ∈ leaseUnits l) : x < 1020 := lt_of_lt_of_le (mem_leaseUnits hx) hunits
  have hbound : ∀ f ∈ fs, f.2 < 1024 := by
    intro f hf
    obtain ⟨x, hx, hfx⟩ := List.mem_flatMap.1 (hfs ▸ hf)
    have := hsmall (List.mem_filter.1 hx).1
    have := (mem_framesOfI.1 hfx).2
    omega
  have hunit {x : Nat} (hx : x ∈ leaseUnits l) {f} (hf : f ∈ framesOfI x) : f ∈ fs ↔ coveUnit s x = false := by
    rw [hfs, List.mem_flatMap]
    constructor
    · rintro ⟨y, hy, hfy⟩
      obtain rfl : y = x := (mem_framesOfI.1 hfy).2.symm.trans (mem_framesOfI.1 hf).2
      simpa using (List.mem_filter.1 hy).2
    · exact fun h => ⟨x, List.mem_filter.2 ⟨hx, by simp [h]⟩, hf⟩
  rw [beginLease_eq, ← hfs, ← hcs]
  refine ⟨hframe'.trans (congrArg
      (fun y : State => { y with mem := (forEach (passFrames s fs (.lease index)) cs leaseZeroing).mem }) hframe),
    hleases'.trans hleases,
    fun x hx hnone f hf => ?_, fun x hx c hslack hmode hown f hf => ?_⟩
  · have hin {g} (hg : g ∈ framesOfI x) : g ∈ fs := (hunit hx hg).2 <| by
      rw [← Bool.not_eq_true, coveUnit_eq_true (hsmall hx)]
      exact fun ⟨g, hg, c, hc⟩ => hnone g hg c hc
    have hpassed {g} (hg : g ∈ framesOfI x) : frameEntry (passFrames s fs (.lease index)) g = .lease index :=
      frameEntry_passFrames hbound (hin hg)
    exact ⟨(hentry x (hsmall hx) (fun c _ g hg => by rw [hpassed hg]; nofun) f hf).trans (hpassed hf),
      hzero f (frameZero_passFrames (.inl (hin hf)))⟩
  · have hkept {g} (hg : g ∈ framesOfI x) : frameEntry (passFrames s fs (.lease index)) g = .cove c := by
      rw [frameEntry_passFrames_other hbound (by have := (mem_framesOfI.1 hg).2; have := hsmall hx; omega), hown g hg]
      rw [hunit hx hg, ← Bool.not_eq_true, not_not, coveUnit_eq_true (hsmall hx)]
      exact ⟨g, hg, c, hown g hg⟩
    refine (hentry x (hsmall hx) (fun d hd g hg => ?_) f hf).trans (hkept hf)
    rw [hkept hg]
    rintro ⟨⟩
    have hsel := (List.mem_filter.1 (hcs ▸ hd)).2
    rw [hslack, Bool.false_or, beq_iff_eq] at hsel
    exact hmode hsel

/-! ### Writes of the lease table (R227) -/

/-- A write of an entry that holds no valid lease. -/
theorem exec_leaseTableWrite {index : Nat} {words : List DWord} (h : BarOpen s (.leaseTableWrite index words))
    (hold : (Sparse.get Lease.reset s.mem.leases index).valid = false) :
    exec (.leaseTableWrite index words) s = .next (
      if (leaseOf words).valid && !leaseAccepted s index (leaseOf words) then
        recordHead (setLease s index { leaseOf words with valid := false }) 0x3020 .corrected []
      else if (leaseOf words).valid then beginLease (setLease s index (leaseOf words)) index (leaseOf words)
      else setLease s index (leaseOf words)) := by
  obtain ⟨hopen, hstay, -⟩ := barOpen_row h rfl
  have hindex : index < 64 := by simp only [Bool.and_eq_true, decide_eq_true_eq] at hopen; exact hopen.1.1
  have hexec : exec (.leaseTableWrite index words) s = effectLeaseTableWrite index words s := barWrite_open hopen hstay
  rw [hexec]
  simp only [effectLeaseTableWrite, if_neg (Nat.not_le.2 hindex), hold, Bool.false_and, Bool.false_eq_true, if_false,
    Bool.not_false, Bool.and_true]

theorem leaseAccepted_units {index : Nat} {l : Lease} (h : leaseAccepted s index l = true) : l.first + l.count ≤ 1020 := by
  simp only [leaseAccepted, Bool.and_eq_true, decide_eq_true_eq] at h
  exact h.1.1.1.2

theorem leaseTable_refused {index : Nat} {words : List DWord} (h : BarOpen s (.leaseTableWrite index words))
    (hold : (Sparse.get Lease.reset s.mem.leases index).valid = false) (hvalid : (leaseOf words).valid = true)
    (hbad : leaseAccepted s index (leaseOf words) = false) :
    ∃ t, exec (.leaseTableWrite index words) s = .next t ∧ Recorded s t 0x3020 1296
      ∧ Sparse.get Lease.reset t.mem.leases index = { leaseOf words with valid := false }
      ∧ t.mem = { s.mem with leases := t.mem.leases } := by
  obtain ⟨v, hv⟩ : ∃ v, v = setLease s index { leaseOf words with valid := false } := ⟨_, rfl⟩
  have hmem : (recordHead v 0x3020 .corrected []).mem = v.mem := by rw [recordHead_eq, record_mem]
  refine ⟨recordHead v 0x3020 .corrected [], ?_, ?_, ?_, ?_⟩
  · rw [exec_leaseTableWrite h hold, hvalid, hbad, hv]; rfl
  · exact recorded_between (recorded_recordHead _ _ _ _ (by simp [episodeCode])) (eventCount_of_trace (by rw [hv]; rfl)) rfl
  · rw [hmem, hv]; exact get_set_same ..
  · rw [hmem, hv]; rfl

theorem leaseTable_begins {index : Nat} {words : List DWord} (h : BarOpen s (.leaseTableWrite index words))
    (hold : (Sparse.get Lease.reset s.mem.leases index).valid = false) (hvalid : (leaseOf words).valid = true)
    (hgood : leaseAccepted s index (leaseOf words) = true) :
    exec (.leaseTableWrite index words) s =
      .next (beginLease (setLease s index (leaseOf words)) index (leaseOf words)) := by
  rw [exec_leaseTableWrite h hold, hvalid, hgood]; rfl

/-- Settles O40: the routing banks by the branches of a write and of a tick, a lease by `beginLease_outcome`. -/
theorem routesAndLeases : Obligations.RoutesAndLeases := by
  intro s
  refine ⟨fun value h => ⟨routeData_stored h, routeData_refused h⟩, fun value => routeArm_outcome,
    fun value => routeReapply_outcome, fun bad => ⟨fun h => ?_, routeSwitchTick_outcome bad⟩,
    fun bad => ⟨fun h => ?_, routeReapplyTick_outcome bad⟩,
    fun index words h hold => ⟨fun hvalid => ?_, leaseTable_refused h hold, fun hvalid hgood => ?_⟩⟩
  · exact congrArg Host.Outcome.next (if_neg fun ⟨harm, hdue⟩ => h.elim (by simp [harm]) (Nat.not_lt.2 hdue))
  · exact congrArg Host.Outcome.next (if_neg fun ⟨hset, hdue⟩ => h.elim (by simp [hset]) (Nat.not_lt.2 hdue))
  · rw [exec_leaseTableWrite h hold, hvalid]; rfl
  · obtain ⟨hframe, hleases, hgiven, hkept⟩ :=
      beginLease_outcome (setLease s index (leaseOf words)) index (leaseAccepted_units hgood)
    refine ⟨_, leaseTable_begins h hold hvalid hgood, ?_, hgiven, fun x hx c _ => hkept x hx c, hframe⟩
    rw [hleases]
    exact get_set_same ..

end Sys2Proof.Proofs
end

section
/-!
PROOFS. What the reception of a packet leaves alone, and the writes and checks of its target: O45.
-/
namespace Sys2Proof.Proofs
open Sys2Proof Sys2Proof.Machine Sys2Proof.Laws Sys2Proof.Claim

variable {s t u : State} {port : Nat} {p : Packet}

/-! ### What writes depend on -/

/-- Memory, cores and the module's number are alike: what a write at a place depends on. -/
structure SameStore (s u : State) : Prop where
  mem : u.mem = s.mem
  cores : u.cores = s.cores
  moduleId : u.moduleId = s.moduleId

theorem SameStore.refl (s : State) : SameStore s s := ⟨rfl, rfl, rfl⟩

theorem SameStore.symm (h : SameStore s u) : SameStore u s := ⟨h.mem.symm, h.cores.symm, h.moduleId.symm⟩

theorem SameStore.trans (h : SameStore s t) (h' : SameStore t u) : SameStore s u :=
  ⟨h'.mem.trans h.mem, h'.cores.trans h.cores, h'.moduleId.trans h.moduleId⟩

theorem SameStore.coreAt (h : SameStore s u) (i : Nat) : coreAt u i = coreAt s i := by simp only [Machine.coreAt, h.cores]

theorem SameStore.ctxAt (h : SameStore s u) (i k : Nat) : ctxAt u i k = ctxAt s i k := ctxAt_of_cores h.cores i k

theorem SameStore.ctxOfTag (h : SameStore s u) (core : Nat) (tag : Word) : ctxOfTag u core tag = ctxOfTag s core tag := by
  simp only [Machine.ctxOfTag, h.ctxAt]

theorem SameStore.stackAt (h : SameStore s u) (k : Nat) : stackAt u k = stackAt s k := by simp only [Machine.stackAt, h.mem]

theorem SameStore.nearAt (h : SameStore s u) (k : Nat) : nearAt u k = nearAt s k := by simp only [Machine.nearAt, h.mem]

theorem SameStore.hbmSet (h : SameStore s u) (off : Nat) (b : Byte) : SameStore (hbmSet s off b) (hbmSet u off b) :=
  ⟨by simp only [Machine.hbmSet, updStack, h.stackAt, h.mem], h.cores, h.moduleId⟩

theorem SameStore.hbmWrite (h : SameStore s u) (off : Nat) (bs : List Byte) :
    SameStore (hbmWrite s off bs) (hbmWrite u off bs) := by
  induction bs generalizing s u off with
  | nil => exact h
  | cons b bs ih => exact ih (h.hbmSet off b) (off + 1)

theorem SameStore.markDirty (h : SameStore s u) (m off : Nat) : SameStore (markDirty s m off) (markDirty u m off) := by
  have hcopied : ∀ f, copiedOut u m f = copiedOut s m f := fun f => by simp only [copiedOut, h.mem, h.moduleId]
  unfold Machine.markDirty
  rw [hcopied]
  split
  · split
    · exact ⟨by simp only [h.mem], h.cores, h.moduleId⟩
    · exact h
  · exact h

theorem SameStore.markBlocks (h : SameStore s u) (l : List Nat) :
    SameStore (l.foldl (fun s b => Machine.markDirty s s.moduleId b) s)
      (l.foldl (fun s b => Machine.markDirty s s.moduleId b) u) := by
  induction l generalizing s u with
  | nil => exact h
  | cons b l ih => exact ih (s := Machine.markDirty s s.moduleId b) (h.moduleId ▸ h.markDirty s.moduleId b)

theorem SameStore.hbmStore (h : SameStore s u) (off : Nat) (bs : List Byte) :
    SameStore (hbmStore s off bs) (hbmStore u off bs) :=
  (h.hbmWrite off bs).markBlocks _

theorem SameStore.clearMark (h : SameStore s u) (pl : Place) (n : Nat) :
    SameStore (clearMark s pl n) (clearMark u pl n) := by
  cases pl with
  | near _ _ | hbm _ =>
    simp only [Machine.clearMark]
    split
    · exact ⟨by simp only [h.mem], h.cores, h.moduleId⟩
    · exact h
  | scratch _ _ | dieControl _ _ | shoreControl _ _ | host _ | bad => exact h

theorem SameStore.scratchWrite (h : SameStore s u) (core a : Nat) (bs : List Byte) :
    SameStore (scratchWrite s core a bs) (scratchWrite u core a bs) :=
  ⟨h.mem, by simp only [Machine.scratchWrite, updCore, setCore, h.coreAt, h.cores], h.moduleId⟩

/-- A write at a place does the same in states that are alike in what it depends on. -/
theorem SameStore.placeWrite (h : SameStore s u) (tag : Word) (pl : Place) (bs : List Byte) :
    SameStore (placeWrite s tag pl bs) (placeWrite u tag pl bs) := by
  cases pl with
  | scratch core off =>
    simp only [Machine.placeWrite, h.ctxOfTag]
    split
    · rw [h.ctxAt]
      exact h.scratchWrite ..
    · exact h
  | near die off =>
    have hnear : SameStore (updNear s die fun m => memWrite m off bs) (updNear u die fun m => memWrite m off bs) :=
      ⟨by simp only [updNear, h.nearAt, h.mem], h.cores, h.moduleId⟩
    exact hnear.clearMark (.near die off) bs.length
  | hbm off =>
    obtain ⟨hmem, hcores, hid⟩ := (h.hbmStore off bs).clearMark (.hbm off) bs.length
    exact ⟨hmem, hcores, hid⟩
  | dieControl _ _ | shoreControl _ _ | host _ | bad => exact h

theorem clearMark_frame (s : State) (pl : Place) (n : Nat) : ∃ m, clearMark s pl n = { s with mem := m } := by
  cases pl with
  | near _ _ | hbm _ =>
    simp only [clearMark]
    split <;> exact ⟨_, rfl⟩
  | scratch _ _ | dieControl _ _ | shoreControl _ _ | host _ | bad => exact ⟨_, rfl⟩

/-- A write at a place changes memory, a scratchpad and counters, and no context. -/
theorem placeWrite_frame (s : State) (tag : Word) (pl : Place) (bs : List Byte) : let t := placeWrite s tag pl bs
    (∃ m co tr, t = { s with mem := m, cores := co, trace := tr }) ∧ ∀ i k, ctxAt t i k = ctxAt s i k := by
  cases pl with
  | scratch core off =>
    simp only [placeWrite]
    split
    · exact ⟨⟨_, _, _, rfl⟩, fun i k => ctxAt_scratchWrite ..⟩
    · exact ⟨⟨_, _, _, rfl⟩, fun _ _ => rfl⟩
  | near die off =>
    obtain ⟨m, e⟩ := clearMark_frame (updNear s die fun m => memWrite m off bs) (.near die off) bs.length
    simp only [placeWrite, e]
    exact ⟨⟨_, _, _, rfl⟩, fun _ _ => rfl⟩
  | hbm off =>
    obtain ⟨m, e⟩ := hbmStore_eq s off bs
    obtain ⟨m', e'⟩ := clearMark_frame { s with mem := m } (.hbm off) bs.length
    simp only [placeWrite, e, e']
    exact ⟨⟨_, _, _, rfl⟩, fun _ _ => rfl⟩
  | dieControl _ _ | shoreControl _ _ | host _ | bad => exact ⟨⟨_, _, _, rfl⟩, fun _ _ => rfl⟩

/-! ### What handling a packet leaves alone -/

/-- Only the ports' side, the trace and the tide's window differ. -/
def Handled (s u : State) : Prop :=
  ∃ f tr w l, u = { s with fab := f, trace := tr, tide := { s.tide with window := w, windowUse := l } }

theorem Handled.refl (s : State) : Handled s s := ⟨_, _, _, _, rfl⟩

theorem Handled.trans (h : Handled s t) (h' : Handled t u) : Handled s u := by
  obtain ⟨_, _, _, _, rfl⟩ := h
  obtain ⟨_, _, _, _, rfl⟩ := h'
  exact ⟨_, _, _, _, rfl⟩

section
variable (h : Handled s u)
include h

theorem Handled.sameStore : SameStore s u := by
  obtain ⟨_, _, _, _, rfl⟩ := h
  exact ⟨rfl, rfl, rfl⟩

theorem Handled.now : u.tide.now = s.tide.now := by
  obtain ⟨_, _, _, _, rfl⟩ := h
  rfl

theorem Handled.held : u.tide.heldPackets = s.tide.heldPackets := by
  obtain ⟨_, _, _, _, rfl⟩ := h
  rfl

theorem Handled.packetAccess (p : Packet) (a : Nat) : packetAccess u p a = packetAccess s p a := by
  obtain ⟨_, _, _, _, rfl⟩ := h
  rfl

theorem Handled.packetAddr (p : Packet) : packetAddr u p = packetAddr s p := by
  obtain ⟨_, _, _, _, rfl⟩ := h
  rfl

theorem Handled.targetCheck (a : Access) : targetCheck u a = targetCheck s a := by
  obtain ⟨_, _, _, _, rfl⟩ := h
  rfl

theorem Handled.genCheck (a : Access) : genCheck u a = genCheck s a := by
  obtain ⟨_, _, _, _, rfl⟩ := h
  rfl

theorem Handled.heldBytes (die : Nat) : heldBytes u die = heldBytes s die := by
  obtain ⟨_, _, _, _, rfl⟩ := h
  rfl

theorem Handled.condemned (pl : Place) (n : Nat) : condemned u pl n = condemned s pl n := by
  obtain ⟨_, _, _, _, rfl⟩ := h
  cases pl <;> rfl

theorem Handled.floorConflict (pl : Place) (n : Nat) : floorConflict u pl n = floorConflict s pl n := by
  obtain ⟨_, _, _, _, rfl⟩ := h
  cases pl <;> rfl

theorem Handled.placeRead (tag : Word) (pl : Place) (n : Nat) : placeRead u tag pl n = placeRead s tag pl n := by
  obtain ⟨_, _, _, _, rfl⟩ := h
  cases pl <;> rfl

theorem Handled.barnRedirect (c a : Nat) : barnRedirect u c a = barnRedirect s c a := by
  obtain ⟨_, _, _, _, rfl⟩ := h
  rfl

theorem Handled.coveOfCore (i : Nat) : coveOfCore u i = coveOfCore s i := by
  obtain ⟨_, _, _, _, rfl⟩ := h
  rfl

end

theorem SameStore.descOf (h : SameStore s u) (core : Nat) (p : Packet) : descOf u core p = descOf s core p := by
  simp only [Machine.descOf, h.ctxOfTag, h.ctxAt]

theorem awaitsAt_congr (hctx : ∀ i k, ctxAt u i k = ctxAt s i k) (hid : u.moduleId = s.moduleId) (core : Nat) (p : Packet) :
    awaitsAt u core p = awaitsAt s core p := by
  simp only [awaitsAt, descOf, ctxOfTag, hctx, hid]

theorem handled_bump (s : State) (a b c d : Nat) : Handled s (bump s a b c d) := ⟨_, _, _, _, rfl⟩

theorem handled_queueOut (s : State) (o : OutPacket) : Handled s (queueOut s o) := ⟨_, _, _, _, rfl⟩

theorem handled_ingressRoom (s : State) (port : Nat) (pl : Place) (dir len : Nat) :
    Handled s (ingressRoom s port pl dir len) := by
  cases pl <;> exact ⟨_, _, _, _, rfl⟩

theorem ingressRoom_fab (s : State) (port : Nat) (pl : Place) (dir len : Nat) :
    (ingressRoom s port pl dir len).fab = s.fab := by
  cases pl <;> rfl

/-! ### Reception (R251, R254, R266) -/

/-- A packet's flits have been counted. -/
def countedIn (s : State) (port : Nat) (p : Packet) : State := bump (bump s 3 port 1 (flitsOf p.data.length)) 3 port 3 1

theorem countedIn_eq (s : State) (port : Nat) (p : Packet) : countedIn s port p =
    { s with trace := { s.trace with counters := (countedIn s port p).trace.counters } } := rfl

theorem handled_countedIn (s : State) (port : Nat) (p : Packet) : Handled s (countedIn s port p) := ⟨_, _, _, _, rfl⟩

theorem handled_noteStream (s : State) (port : Nat) (p : Packet) : Handled s (noteStream s port p) := by
  unfold noteStream
  dsimp only
  split <;> exact ⟨_, _, _, _, rfl⟩

/-- A packet of a stream that is noted raises the stream's sequence and no port's state. -/
theorem noteStream_fab (s : State) (port : Nat) (p : Packet) :
    Sparse.get 0 (noteStream s port p).fab.rxStream (streamOf p) = p.seq % 65536 + 1
    ∧ (noteStream s port p).fab.ports = s.fab.ports := by
  unfold noteStream
  dsimp only
  split <;> exact ⟨get_set_same .., rfl⟩

/-- What a state says of a packet that has been received and noted. -/
structure Noticed (s u : State) (p : Packet) : Prop where
  handled : Handled s u
  stream : Sparse.get 0 u.fab.rxStream (streamOf p) = p.seq % 65536 + 1
  ports : u.fab.ports = s.fab.ports

theorem receive_idle (h : (portAt s port).mode ≠ .active ∨ 128 ≤ port ∨ 4096 < p.data.length) : receive s port p = s :=
  if_pos h

section
variable (hport : port < 128) (hmode : (portAt s port).mode = .active) (hlen : p.data.length ≤ 4096)
include hport hmode hlen

theorem receive_behind (hheld : (portAt s port).rxHeld ≠ []) :
    receive s port p = updPort s port fun q => { q with rxHeld := q.rxHeld ++ [.packet p] } := by
  unfold receive
  rw [if_neg (by simp [hmode, hport, hlen]), if_pos hheld]

theorem receive_takes (hheld : (portAt s port).rxHeld = []) : receive s port p = takePacket s port p := by
  unfold receive
  rw [if_neg (by simp [hmode, hport, hlen]), if_neg (by simp [hheld])]

end

theorem takePacket_here (hhere : addrModule p.dest.toNat = s.moduleId) : takePacket s port p =
    if p.ptype = 6 then landAck (countedIn s port p) p
    else if p.ptype = 7 then landStatus (countedIn s port p) p
    else if delivered s p then countedIn s port p
    else landAny (noteStream (countedIn s port p) port p) port p (p.late || pastDue s.tide.now p.due) :=
  if_neg (not_not.2 hhere)

/-- A data packet of this module is taken once. -/
theorem takePacket_data (hhere : addrModule p.dest.toNat = s.moduleId) (hp : p.ptype < 6) : takePacket s port p =
    if delivered s p then countedIn s port p
    else landAny (noteStream (countedIn s port p) port p) port p (p.late || pastDue s.tide.now p.due) := by
  rw [takePacket_here hhere, if_neg (by omega), if_neg (by omega)]

theorem exec_packetRow {row : Nat × (Nat → Packet → Instr)} (h : row ∈ packetRows) :
    exec (row.2 port p) s = .next (receive s port { p with ptype := row.1 }) := by
  simp only [packetRows, List.mem_cons, List.not_mem_nil, or_false] at h
  rcases h with rfl | rfl | rfl | rfl | rfl | rfl | rfl <;> rfl

/-- A repeated packet is counted alone. -/
theorem receive_repeated (hport : port < 128) (hheld : (portAt s port).rxHeld = [])
    (hhere : addrModule p.dest.toNat = s.moduleId) (hp : p.ptype < 6) (hdone : delivered s p = true) :
    receive s port p = { s with trace := { s.trace with counters := (receive s port p).trace.counters } } := by
  by_cases hidle : (portAt s port).mode ≠ .active ∨ 4096 < p.data.length
  · rw [receive_idle (hidle.imp_right .inr)]
  · obtain ⟨hmode, hlen⟩ := not_or.1 hidle
    rw [receive_takes hport (not_not.1 hmode) (Nat.not_lt.1 hlen) hheld, takePacket_data hhere hp, if_pos hdone,
      ← countedIn_eq]

/-- A packet in time lands in a state that has noted it. -/
theorem receive_inTime (h : InTime s port p) {n : Nat} (hn : n < 6) : ∃ u, Noticed s u p ∧
    receive s port { p with ptype := n } = landAny u port { p with ptype := n } false := by
  obtain ⟨hport, hmode, hhere, hnew, hlate, hdue, hheld, hlen⟩ := h
  obtain ⟨hstream, hports⟩ := noteStream_fab (countedIn s port { p with ptype := n }) port { p with ptype := n }
  refine ⟨noteStream (countedIn s port { p with ptype := n }) port { p with ptype := n },
    ⟨(handled_countedIn s port _).trans (handled_noteStream ..), hstream, hports⟩, ?_⟩
  have hnew' : ¬ delivered s { p with ptype := n } = true := (Bool.not_eq_true _).mpr hnew
  rw [receive_takes (p := { p with ptype := n }) hport hmode hlen hheld,
    takePacket_data (p := { p with ptype := n }) hhere hn, if_neg hnew']
  simp only [hlate, hdue, Bool.or_self]

end Sys2Proof.Proofs
end

section
/-!
PROOFS. Packets that a target holds, refuses or lets take effect, and what a requester takes back: O45.
-/
namespace Sys2Proof.Proofs
open Sys2Proof Sys2Proof.Machine Sys2Proof.Laws Sys2Proof.Claim

variable {s t u : State} {port : Nat} {p : Packet}

/-! ### What a refusal leaves alone (R210, R314) -/

/-- Memory, cores, ports and the packets held are alike. -/
structure Untouched (s t : State) : Prop where
  mem : t.mem = s.mem
  cores : t.cores = s.cores
  fab : t.fab = s.fab
  held : t.tide.heldPackets = s.tide.heldPackets
  now : t.tide.now = s.tide.now

theorem Untouched.refl (s : State) : Untouched s s := ⟨rfl, rfl, rfl, rfl, rfl⟩

theorem Untouched.trans (h : Untouched s t) (h' : Untouched t u) : Untouched s u :=
  ⟨h'.mem.trans h.mem, h'.cores.trans h.cores, h'.fab.trans h.fab, h'.held.trans h.held, h'.now.trans h.now⟩

theorem untouched_record (s : State) (c v k r d) : Untouched s (record s c v k r d) :=
  ⟨record_mem .., record_cores .., record_fab .., by rw [record_tide], by rw [record_tide]⟩

theorem untouched_countRefused (s : State) (c : Option Nat) : Untouched s (countRefused s c) := by
  cases c <;> exact ⟨rfl, rfl, rfl, rfl, rfl⟩

theorem untouched_countRefusal (s : State) (a : Access) (w : WainStatus) : Untouched s (countRefusal s a w) := by
  unfold countRefusal
  dsimp only
  split
  · split
    · exact (untouched_countRefused ..).trans (untouched_record ..)
    · exact untouched_countRefused ..
  · exact untouched_countRefused ..

theorem untouched_countSkew (s : State) (a : Access) (held : Bool) : Untouched s (countSkew s a held) := by
  unfold countSkew
  extract_lets c tide s1 s2 s3
  clear_value c
  have h2 : Untouched s s2 := by
    simp only [s2]
    split
    · exact ⟨rfl, rfl, rfl, rfl, rfl⟩
    · exact .trans (t := s1) ⟨rfl, rfl, rfl, rfl, rfl⟩ (untouched_countRefused ..)
  have h3 : Untouched s s3 := by
    simp only [s3]
    split
    · exact h2.trans ⟨rfl, rfl, rfl, rfl, rfl⟩
    · exact h2
  exact h3.trans (untouched_record ..)

theorem untouched_refusalNote (s : State) (a : Access) (w : WainStatus) : Untouched s (refusalNote s a w) := by
  cases w with
  | generationReject => exact untouched_countSkew ..
  | addressFault | jobTagRefusal => exact untouched_countRefusal ..
  | unreachable | tallyFailure | done | late => exact .refl s

/-- The last packet to leave is the reply. -/
theorem repliedTo_replyTo (s : State) (port ptype op : Nat) (p : Packet) :
    RepliedTo (replyTo s port ptype op p) port ptype op p :=
  ⟨_, List.getLast?_concat .., rfl, rfl, rfl, rfl, rfl, rfl, rfl⟩

/-- What a refused packet leaves behind: a count at its port and a status to its sender. -/
structure PacketRefused (s t : State) (port : Nat) (w : WainStatus) (p : Packet) : Prop where
  mem : t.mem = s.mem
  cores : t.cores = s.cores
  counted : (portAt t port).cntRefused = satTo 32 ((portAt s port).cntRefused + 1)
  replied : RepliedTo t port 7 (statusCode w) p
  streams : t.fab.rxStream = s.fab.rxStream

theorem packetRefused_refusePacket (s : State) (port : Nat) (p : Packet) (addr : Nat) (w : WainStatus) :
    PacketRefused s (refusePacket s port p addr w) port w p := by
  unfold refusePacket
  extract_lets s1 s2
  have h2 : Untouched s s2 := by
    simp only [s2]
    split
    · exact (untouched_refusalNote ..).trans (untouched_record ..)
    · exact untouched_refusalNote ..
  refine ⟨h2.mem, h2.cores, ?_, repliedTo_replyTo _ _ _ _ _, ?_⟩
  · have hport : portAt s2 port = portAt s port := by simp only [portAt, h2.fab]
    rw [← hport]
    exact congrArg Port.cntRefused (portAt_updPort s2 port fun q => { q with cntRefused := satTo 32 (q.cntRefused + 1) })
  · rw [← h2.fab]
    rfl

theorem holdPacket_outcome {addr : Nat} (s : State) (port : Nat) (p : Packet)
    (hroom : heldBytes s (holdDie addr) + 32 * flitsOf p.data.length ≤ 65536) : let t := holdPacket s port p addr
    t.mem = s.mem ∧ t.cores = s.cores
    ∧ t.tide.heldPackets = s.tide.heldPackets ++ [⟨holdDie addr, port, p, s.tide.now⟩] := by
  have h := untouched_countSkew s (packetAccess s p addr) true
  unfold holdPacket
  dsimp only
  rw [if_neg (Nat.not_lt.2 hroom)]
  refine ⟨h.mem, h.cores, ?_⟩
  rw [← h.held, ← h.now]

/-! ### The checks of a packet that names its address (R210, R267) -/

theorem landAny_packet (h3 : p.ptype ≠ 3) (h5 : p.ptype ≠ 5) (late : Bool) :
    landAny s port p late = landPacket s port p late := by
  unfold landAny
  split
  · next h => exact absurd h h3
  · next h => exact absurd h h5
  · rfl

section
variable {late : Bool} (hslot : p.slot = none)
include hslot

theorem landPacket_hold (h : targetCheck s (packetAccess s p p.dest.toNat) = .hold) :
    landPacket s port p late = holdPacket s port p p.dest.toNat := by
  simp only [landPacket, packetAddr, hslot, h]

theorem landPacket_refuse {w : WainStatus} (h : targetCheck s (packetAccess s p p.dest.toNat) = .refuse w) :
    landPacket s port p late = refusePacket s port p p.dest.toNat w := by
  simp only [landPacket, packetAddr, hslot, h]

theorem landPacket_tally (h : targetCheck s (packetAccess s p p.dest.toNat) = .ok) (htally : p.tally ≠ tallyOf p.data) :
    landPacket s port p late = refusePacket s port p p.dest.toNat .tallyFailure := by
  simp only [landPacket, packetAddr, hslot, h, htally, ne_eq, not_false_eq_true, if_true]

theorem landPacket_checked (h : targetCheck s (packetAccess s p p.dest.toNat) = .ok) (htally : p.tally = tallyOf p.data) :
    landPacket s port p late = landChecked s port p p.dest.toNat late := by
  simp only [landPacket, packetAddr, hslot, h, htally, ne_eq, not_true_eq_false, if_false]

end

/-- Requests of the three types, as commands. -/
def requestRows : List (Nat × (Nat → Packet → Instr)) :=
  [(1, Instr.packetWrite), (2, .packetReadRequest), (4, .packetAtomicRequest)]

/-- A request in time meets the checks of its target in a state that has noted it. -/
theorem exec_request {row : Nat × (Nat → Packet → Instr)} (hrow : row ∈ requestRows) (h : InTime s port p) :
    ∃ u, Noticed s u p ∧
      exec (row.2 port p) s = .next (landPacket u port { p with ptype := row.1 } false) := by
  have hpacket : row ∈ packetRows := by
    simp only [requestRows, packetRows, List.mem_cons, List.not_mem_nil, or_false] at hrow ⊢
    tauto
  have hn : row.1 < 6 ∧ row.1 ≠ 3 ∧ row.1 ≠ 5 := by
    simp only [requestRows, List.mem_cons, List.not_mem_nil, or_false] at hrow
    rcases hrow with rfl | rfl | rfl <;> decide
  obtain ⟨hn, h3, h5⟩ := hn
  obtain ⟨u, hu, hrec⟩ := receive_inTime h hn
  exact ⟨u, hu, by rw [exec_packetRow hpacket, hrec, landAny_packet h3 h5]⟩

theorem request_held {row : Nat × (Nat → Packet → Instr)} (hrow : row ∈ requestRows) (h : InTime s port p)
    (hslot : p.slot = none) (hcheck : targetCheck s (packetAccess s { p with ptype := row.1 } p.dest.toNat) = .hold)
    (hroom : heldBytes s (holdDie p.dest.toNat) + 32 * flitsOf p.data.length ≤ 65536) :
    ∃ t, exec (row.2 port p) s = .next t ∧ t.mem = s.mem ∧ t.cores = s.cores ∧ t.tide.heldPackets
      = s.tide.heldPackets ++ [⟨holdDie p.dest.toNat, port, { p with ptype := row.1 }, s.tide.now⟩] := by
  obtain ⟨u, ⟨hu, -, -⟩, hexec⟩ := exec_request hrow h
  obtain ⟨hmem, hcores, hheld⟩ := holdPacket_outcome (addr := p.dest.toNat) u port { p with ptype := row.1 }
    (by rw [hu.heldBytes]; exact hroom)
  refine ⟨_, hexec, ?_⟩
  rw [landPacket_hold (p := { p with ptype := row.1 }) hslot (by rw [hu.packetAccess, hu.targetCheck]; exact hcheck)]
  exact ⟨hmem.trans hu.sameStore.mem, hcores.trans hu.sameStore.cores, by rw [hheld, hu.held, hu.now]⟩

theorem request_refused {row : Nat × (Nat → Packet → Instr)} (hrow : row ∈ requestRows) (h : InTime s port p)
    (hslot : p.slot = none) {w : WainStatus}
    (hcheck : targetCheck s (packetAccess s { p with ptype := row.1 } p.dest.toNat) = .refuse w
      ∨ (targetCheck s (packetAccess s { p with ptype := row.1 } p.dest.toNat) = .ok ∧ p.tally ≠ tallyOf p.data
        ∧ w = .tallyFailure)) :
    ∃ t, exec (row.2 port p) s = .next t ∧ t.mem = s.mem ∧ t.cores = s.cores
      ∧ (portAt t port).cntRefused = satTo 32 ((portAt s port).cntRefused + 1)
      ∧ RepliedTo t port 7 (statusCode w) p
      ∧ Sparse.get 0 t.fab.rxStream (streamOf p) = p.seq % 65536 + 1 := by
  obtain ⟨u, ⟨hu, hstream, hports⟩, hexec⟩ := exec_request hrow h
  have hland : landPacket u port { p with ptype := row.1 } false =
      refusePacket u port { p with ptype := row.1 } p.dest.toNat w := by
    rw [← hu.targetCheck, ← hu.packetAccess] at hcheck
    rcases hcheck with hcheck | ⟨hcheck, htally, rfl⟩
    · exact landPacket_refuse (p := { p with ptype := row.1 }) hslot hcheck
    · exact landPacket_tally (p := { p with ptype := row.1 }) hslot hcheck htally
  obtain ⟨hmem, hcores, hcount, hreply, hstreams⟩ :=
    packetRefused_refusePacket u port { p with ptype := row.1 } p.dest.toNat w
  refine ⟨_, hexec.trans (congrArg _ hland), hmem.trans hu.sameStore.mem, hcores.trans hu.sameStore.cores, ?_, hreply, ?_⟩
  · rw [hcount]
    simp only [portAt, hports]
  · rw [hstreams, hstream]

/-! ### Packets that take effect (R233, R265, R267) -/

theorem exec_request_checked {row : Nat × (Nat → Packet → Instr)} (hrow : row ∈ requestRows) (h : InTime s port p)
    (hslot : p.slot = none) (htally : p.tally = tallyOf p.data)
    (hcheck : targetCheck s (packetAccess s { p with ptype := row.1 } p.dest.toNat) = .ok) : ∃ u, Noticed s u p ∧
      exec (row.2 port p) s = .next (landChecked u port { p with ptype := row.1 } p.dest.toNat false) := by
  obtain ⟨u, hu, hexec⟩ := exec_request hrow h
  refine ⟨u, hu, hexec.trans (congrArg _ (landPacket_checked (p := { p with ptype := row.1 }) hslot ?_ htally))⟩
  rw [hu.handled.packetAccess, hu.handled.targetCheck]
  exact hcheck

theorem landWrite_free {tag : Word} {pl : Place} {bs : List Byte} (h : floorConflict s pl bs.length = none) :
    landWrite s tag pl bs = placeWrite s tag pl bs := by
  simp only [landWrite, h]

/-- A place of a control region has no bytes. -/
theorem placeWrite_control {tag : Word} {pl : Place} {bs : List Byte} (h : isControl pl = true) :
    placeWrite s tag pl bs = s := by
  cases pl with
  | dieControl _ _ | shoreControl _ _ => rfl
  | scratch _ _ | near _ _ | hbm _ | host _ | bad => cases h

/-- A packet's data lands where its address names a place with bytes, in a state that has taken room for it. -/
theorem landChecked_data {addr : Nat} (h2 : p.ptype ≠ 2) (h4 : p.ptype ≠ 4) (hslot : p.slot = none)
    (hplace : isControl (placeOf addr) = false) : landChecked s port p addr false =
      landWrite (ingressRoom s port (placeOf addr) 1 p.data.length) p.jobTag (placeOf addr) p.data := by
  unfold landChecked
  simp only [hplace, Bool.false_eq_true, if_false, hslot]

/-- Data that lands where no pinned range is met does what a write of it does. -/
theorem landChecked_stores {addr : Nat} (hu : Handled s u) (h2 : p.ptype ≠ 2) (h4 : p.ptype ≠ 4) (hslot : p.slot = none)
    (hplace : isControl (placeOf addr) = false) (hfree : floorConflict s (placeOf addr) p.data.length = none) :
    ∃ v, Handled s v ∧ v.fab = u.fab ∧ landChecked u port p addr false = placeWrite v p.jobTag (placeOf addr) p.data := by
  have hv := hu.trans (handled_ingressRoom u port (placeOf addr) 1 p.data.length)
  refine ⟨_, hv, ingressRoom_fab .., ?_⟩
  rw [landChecked_data h2 h4 hslot hplace, landWrite_free (by rw [hv.floorConflict]; exact hfree)]

theorem placeWrite_fab (s : State) (tag : Word) (pl : Place) (bs : List Byte) : (placeWrite s tag pl bs).fab = s.fab := by
  obtain ⟨⟨_, _, _, e⟩, -⟩ := placeWrite_frame s tag pl bs
  rw [e]

theorem packetWrite_lands (h : InTime s port p) (hslot : p.slot = none) (htally : p.tally = tallyOf p.data)
    (hcheck : targetCheck s (packetAccess s { p with ptype := 1 } p.dest.toNat) = .ok)
    (hfree : floorConflict s (placeOf p.dest.toNat) p.data.length = none) :
    ∃ t, exec (.packetWrite port p) s = .next t
      ∧ t.mem = (placeWrite s p.jobTag (placeOf p.dest.toNat) p.data).mem
      ∧ t.cores = (placeWrite s p.jobTag (placeOf p.dest.toNat) p.data).cores
      ∧ Sparse.get 0 t.fab.rxStream (streamOf p) = p.seq % 65536 + 1 := by
  obtain ⟨u, ⟨hu, hstream, -⟩, hexec⟩ :=
    exec_request_checked (row := (1, .packetWrite)) (by simp [requestRows]) h hslot htally hcheck
  refine ⟨_, hexec, ?_⟩
  by_cases hplace : isControl (placeOf p.dest.toNat) = true
  · have hland : landChecked u port { p with ptype := 1 } p.dest.toNat false =
        { u with fab := { u.fab with control := u.fab.control ++ [(port, { p with ptype := 1 })] } } := by
      simp only [landChecked, hplace, Bool.false_eq_true, if_false, if_true]
    rw [hland, placeWrite_control hplace]
    exact ⟨hu.sameStore.mem, hu.sameStore.cores, hstream⟩
  · obtain ⟨v, hv, hfab, hland⟩ := landChecked_stores (port := port) (p := { p with ptype := 1 }) hu
      (show 1 ≠ 2 by decide) (show 1 ≠ 4 by decide) hslot (by simpa using hplace) hfree
    have hstore := hv.sameStore.placeWrite p.jobTag (placeOf p.dest.toNat) p.data
    rw [hland]
    refine ⟨hstore.mem, hstore.cores, ?_⟩
    rw [placeWrite_fab, hfab, hstream]


/-! ### Read requests and atomics (R233, R265) -/

/-- A range that stays within a block of 4 KiB is one piece. -/
theorem cutBlocks_one {back : Nat} {bs : List Byte} (hpos : 1 ≤ bs.length) (hfit : back % 4096 + bs.length ≤ 4096) :
    cutBlocks 3 back bs = [(back, bs)] := by
  have hne : bs ≠ [] := List.ne_nil_of_length_pos hpos
  simp [cutBlocks, hne, List.take_of_length_le (show bs.length ≤ 4096 - back % 4096 by omega),
    List.drop_of_length_le (show bs.length ≤ 4096 - back % 4096 by omega)]

theorem sendResponse_one {back : Nat} {bs : List Byte} (hpos : 1 ≤ bs.length) (hfit : back % 4096 + bs.length ≤ 4096) :
    sendResponse s port p back bs = if addrModule back = s.moduleId then landBack s port p (back, bs)
      else sendFrom s (holdDie p.dest.toNat) (dataPacket s 3 0 p.gen p.cls p.srcUnit p.tag 0 p.jobTag back bs) := by
  simp only [sendResponse, cutBlocks_one hpos hfit, List.foldl_cons, List.foldl_nil]

/-- A read that its checks pass, of words without a bit error, answers with the bytes of its range. -/
theorem landChecked_read {addr n : Nat} (hn : requestLen p = n) (hplace : isControl (placeOf addr) = false)
    (hcond : condemned s (placeOf addr) n = false)
    (hclean : ∀ core off, placeOf addr = .scratch core off → (coreAt s core).upsets = []) (hsize : n % 64 = 0) (hpos : 1 ≤ n)
    (hmax : n ≤ 4096) : ∃ v, Handled s v ∧ landChecked s port { p with ptype := 2 } addr false =
      sendResponse v port { p with ptype := 2 } (leVal (p.data.take 8)) (placeRead s p.jobTag (placeOf addr) n) := by
  have hlen : requestLen { p with ptype := 2 } = n := hn
  have hrange : ¬ (n = 0 ∨ 4096 < n) := by omega
  cases hpl : placeOf addr with
  | scratch core off =>
    refine ⟨_, handled_ingressRoom s port (.scratch core off) 0 n, ?_⟩
    simp only [hpl] at hplace hcond
    simp only [landChecked, hpl, hplace, hlen, hcond, hsize, hrange, Bool.false_eq_true, if_false, ne_eq, not_true_eq_false,
      false_or, placeCore]
    cases ctxOfTag s core p.jobTag with
    | none => rfl
    | some k =>
      simp only [readScratch_clean (hclean core off hpl)]
      rfl
  | hbm off =>
    refine ⟨_, (handled_bump s 4 (hbmPlace off).1 0 n).trans (handled_ingressRoom _ port (.hbm off) 0 n), ?_⟩
    simp only [hpl] at hplace hcond
    simp only [landChecked, hpl, hplace, hlen, hcond, hsize, hrange, Bool.false_eq_true, if_false, ne_eq, not_true_eq_false,
      false_or, Bool.not_true, (handled_bump s 4 (hbmPlace off).1 0 n).placeRead]
  | near _ _ | host _ | bad =>
    refine ⟨_, handled_ingressRoom s port (placeOf addr) 0 n, ?_⟩
    simp only [hpl] at hplace hcond
    simp only [landChecked, hpl, hplace, hlen, hcond, hsize, hrange, Bool.false_eq_true, if_false, ne_eq, not_true_eq_false,
      false_or, Bool.not_true]
  | dieControl _ _ | shoreControl _ _ => simp [hpl, isControl] at hplace

section
variable {n : Nat} (h : InTime s port p) (hslot : p.slot = none) (htally : p.tally = tallyOf p.data) (hn : requestLen p = n)
  (hcheck : targetCheck s (packetAccess s { p with ptype := 2 } p.dest.toNat) = .ok)
  (hplace : isControl (placeOf p.dest.toNat) = false) (hsize : n % 64 = 0) (hpos : 1 ≤ n) (hmax : n ≤ 4096)
  (hcond : condemned s (placeOf p.dest.toNat) n = false)
  (hclean : ∀ core off, placeOf p.dest.toNat = .scratch core off → (coreAt s core).upsets = [])
  (hlen : (placeRead s p.jobTag (placeOf p.dest.toNat) n).length = n) (hfit : leVal (p.data.take 8) % 4096 + n ≤ 4096)
include h hslot htally hn hcheck hplace hsize hpos hmax hcond hclean hlen hfit

/-- A read request in time is answered in a state that differs in what handling it changes. -/
theorem exec_readRequest : ∃ v, Handled s v ∧ exec (.packetReadRequest port p) s = .next (
    if addrModule (leVal (p.data.take 8)) = s.moduleId then
      landBack v port { p with ptype := 2 } (leVal (p.data.take 8), placeRead s p.jobTag (placeOf p.dest.toNat) n)
    else sendFrom v (holdDie p.dest.toNat) (dataPacket v 3 0 p.gen p.cls p.srcUnit p.tag 0 p.jobTag (leVal (p.data.take 8))
      (placeRead s p.jobTag (placeOf p.dest.toNat) n))) := by
  obtain ⟨u, ⟨hu, -, -⟩, hexec⟩ :=
    exec_request_checked (row := (2, .packetReadRequest)) (by simp [requestRows]) h hslot htally hcheck
  obtain ⟨v, hv, hland⟩ := landChecked_read (s := u) (port := port) hn hplace (by rw [hu.condemned]; exact hcond)
    (fun core off e => by rw [hu.sameStore.coreAt]; exact hclean core off e) hsize hpos hmax
  have hv := hu.trans hv
  refine ⟨v, hv, hexec.trans (congrArg _ (hland.trans ?_))⟩
  rw [hu.placeRead, sendResponse_one (by omega) (by omega), hv.sameStore.moduleId]

theorem readRequest_answered (haway : addrModule (leVal (p.data.take 8)) ≠ s.moduleId) :
    let bs := placeRead s p.jobTag (placeOf p.dest.toNat) n
    ∃ t r, exec (.packetReadRequest port p) s = .next t
      ∧ t.fab.waiting.getLast? = some ⟨holdDie p.dest.toNat, none, p.cls, none, true, r⟩ ∧ r.ptype = 3
      ∧ r.data = bs ∧ r.tally = tallyOf bs ∧ r.dest = BitVec.ofNat 64 (leVal (p.data.take 8)) ∧ r.tag = p.tag % 65536
      ∧ r.cls = p.cls ∧ r.srcUnit = p.srcUnit ∧ t.mem = s.mem ∧ t.cores = s.cores := by
  obtain ⟨v, hv, hexec⟩ := exec_readRequest h hslot htally hn hcheck hplace hsize hpos hmax hcond hclean hlen hfit
  exact ⟨_, _, hexec.trans (congrArg _ (if_neg haway)), List.getLast?_concat .., rfl, rfl, rfl, rfl, rfl, rfl, rfl,
    hv.sameStore.mem, hv.sameStore.cores⟩

theorem readRequest_lands (hhere : addrModule (leVal (p.data.take 8)) = s.moduleId)
    (hback : targetCheck s (packetAccess s { p with
      ptype := 3, op := 0, dest := BitVec.ofNat 64 (leVal (p.data.take 8)),
      data := placeRead s p.jobTag (placeOf p.dest.toNat) n } (leVal (p.data.take 8))) = .ok)
    (hfree : floorConflict s (placeOf (leVal (p.data.take 8))) n = none) :
    ∃ t, exec (.packetReadRequest port p) s = .next t ∧ t.mem = (placeWrite s p.jobTag (placeOf (leVal (p.data.take 8)))
      (placeRead s p.jobTag (placeOf p.dest.toNat) n)).mem := by
  obtain ⟨v, hv, hexec⟩ := exec_readRequest h hslot htally hn hcheck hplace hsize hpos hmax hcond hclean hlen hfit
  have hland : landBack v port { p with ptype := 2 } (leVal (p.data.take 8), placeRead s p.jobTag (placeOf p.dest.toNat) n) =
      placeWrite v p.jobTag (placeOf (leVal (p.data.take 8))) (placeRead s p.jobTag (placeOf p.dest.toNat) n) := by
    rw [← hv.packetAccess, ← hv.targetCheck] at hback
    simp only [landBack, hback]
    exact landWrite_free (by rw [hv.floorConflict, hlen]; exact hfree)
  refine ⟨_, hexec.trans (congrArg _ (if_pos hhere)), ?_⟩
  rw [hland]
  exact (hv.sameStore.placeWrite ..).mem

end

/-- No check passes an atomic at a control region. -/
theorem isControl_of_atomic {a : Nat} (h : targetCheck s (packetAccess s { p with ptype := 4 } a) = .ok) :
    isControl (placeOf a) = false := by
  have haddr : (packetAccess s { p with ptype := 4 } a).addr = a := rfl
  have hop : (packetAccess s { p with ptype := 4 } a).op = .atomic := rfl
  cases hplace : placeOf a with
  | dieControl _ _ | shoreControl _ _ => simp [targetCheck, haddr, hop, hplace] at h
  | scratch _ _ | near _ _ | hbm _ | host _ | bad => rfl

/-- An atomic that its checks pass replaces the old value, and answers with it when its packet asks for it. -/
theorem landChecked_atomic {addr : Nat} {v : State} {old : List Byte} (hplace : isControl (placeOf addr) = false)
    (hcond : condemned s (placeOf addr) 1 = false) (hv : ingressRoom s port (placeOf addr) 1 64 = v)
    (hold : placeRead v p.jobTag (placeOf addr) (atomicBytes (packetOp p) (packetOperand p).length) = old)
    (ht : landWrite v p.jobTag (placeOf addr) (atomicNew (packetOp p) old (packetOperand p)) = t) :
    landChecked s port { p with ptype := 4 } addr false = if bitOf p.op 7 then sendFrom t (holdDie addr)
        (dataPacket s 5 p.op p.gen p.cls p.srcUnit p.tag 0 p.jobTag (p.srcModule * 2 ^ 48) (padFlit old))
      else t := by
  subst hv hold ht
  simp only [landChecked, hplace, hcond, Bool.false_eq_true, if_false]
  rfl

theorem atomicRequest_lands (h : InTime s port p) (hslot : p.slot = none) (htally : p.tally = tallyOf p.data) :
    let pl := placeOf p.dest.toNat
    let old := placeRead s p.jobTag pl (atomicBytes (packetOp p) (packetOperand p).length)
    let new := atomicNew (packetOp p) old (packetOperand p)
    targetCheck s (packetAccess s { p with ptype := 4 } p.dest.toNat) = .ok → condemned s pl 1 = false →
    floorConflict s pl new.length = none →
    ∃ t, exec (.packetAtomicRequest port p) s = .next t ∧ t.mem = (placeWrite s p.jobTag pl new).mem
      ∧ (∀ i, (coreAt t i).scratch = (coreAt (placeWrite s p.jobTag pl new) i).scratch)
      ∧ (bitOf p.op 7 = true → ∃ r, t.fab.waiting.getLast? = some ⟨holdDie p.dest.toNat, none, p.cls, none, true, r⟩
          ∧ r.ptype = 5 ∧ r.op = p.op ∧ r.data = padFlit old ∧ r.tag = p.tag % 65536 ∧ r.srcUnit = p.srcUnit) := by
  intro pl old new hcheck hcond hfree
  obtain ⟨u, ⟨hu, -, -⟩, hexec⟩ :=
    exec_request_checked (row := (4, .packetAtomicRequest)) (by simp [requestRows]) h hslot htally hcheck
  have hv := hu.trans (handled_ingressRoom u port pl 1 64)
  have hstore := hv.sameStore.placeWrite p.jobTag pl new
  have hland := landChecked_atomic (s := u) (port := port) (p := p) (isControl_of_atomic hcheck)
    (by rw [hu.condemned]; exact hcond) rfl (hv.placeRead ..) (landWrite_free (by rw [hv.floorConflict]; exact hfree))
  refine ⟨_, hexec.trans (congrArg _ hland), ?_⟩
  split
  · exact ⟨hstore.mem, fun i => congrArg CoreState.scratch (hstore.coreAt i),
      fun _ => ⟨_, List.getLast?_concat .., rfl, rfl, rfl, rfl, rfl⟩⟩
  · next hno => exact ⟨hstore.mem, fun i => congrArg CoreState.scratch (hstore.coreAt i), fun hyes => absurd hyes hno⟩


/-! ### Responses at the requester (R265, R267) -/

/-- The answer of a descriptor in a state with the queue of `s`. -/
theorem answered_answers {core k : Nat} (h : ctxAt u core k = ctxAt s core k) (seq : Nat) (w : WainStatus) :
    Answered s (answered u core k seq w) core k seq w := by
  unfold Answered
  rw [← h]
  exact congrArg Ctx.wainQ (ctxAt_updCtx ..)

theorem answered_mem (s : State) (core k seq : Nat) (w : WainStatus) : (answered s core k seq w).mem = s.mem := rfl

theorem scratch_answered (s : State) (core k seq : Nat) (w : WainStatus) (i : Nat) :
    (coreAt (answered s core k seq w) i).scratch = (coreAt s i).scratch := scratch_updCtx ..

theorem Handled.awaitsAt (h : Handled s u) (core : Nat) (p : Packet) : awaitsAt u core p = awaitsAt s core p :=
  awaitsAt_congr h.sameStore.ctxAt h.sameStore.moduleId core p

theorem landAny_readResponse (h : p.ptype = 3) (late : Bool) : landAny s port p late = landResponse s port p late := by
  simp only [landAny, h]

theorem landAny_atomicResponse (h : p.ptype = 5) (late : Bool) :
    landAny s port p late = landAtomicResponse s port p late := by
  simp only [landAny, h]

theorem exec_packetReadResponse (h : InTime s port p) : ∃ u, Handled s u ∧
    exec (.packetReadResponse port p) s = .next (landResponse u port { p with ptype := 3 } false) := by
  obtain ⟨u, hu, hrec⟩ := receive_inTime h (show 3 < 6 by decide)
  exact ⟨u, hu.handled, congrArg _ (hrec.trans (landAny_readResponse rfl _))⟩

theorem exec_packetAtomicResponse (h : InTime s port p) : ∃ u, Handled s u ∧
    exec (.packetAtomicResponse port p) s = .next (landAtomicResponse u port { p with ptype := 5 } false) := by
  obtain ⟨u, hu, hrec⟩ := receive_inTime h (show 5 < 6 by decide)
  exact ⟨u, hu.handled, congrArg _ (hrec.trans (landAny_atomicResponse rfl _))⟩

/-- A response to a wain's destination in this module lands there and answers its descriptor. -/
theorem landWainResponse_done {k : Nat} {d : WainDesc} (hawait : awaitsAt s p.srcUnit p = some (k, d))
    (hu : Handled s u) (hhere : addrModule p.dest.toNat = s.moduleId) (hslot : p.slot = none) (hstay : (barnRedirect s (coveNum (coveOfCore s p.srcUnit)) p.dest.toNat).1 = p.dest.toNat)
    (hhost : ∀ off, placeOf p.dest.toNat ≠ .host off) (hplace : isControl (placeOf p.dest.toNat) = false)
    (hcheck : targetCheck s (packetAccess s { p with ptype := 3 } p.dest.toNat) = .ok)
    (hfree : floorConflict s (placeOf p.dest.toNat) p.data.length = none) : ∃ v, Handled s v ∧
      landWainResponse u port { p with ptype := 3 } false = answered (foldDigest
        (placeWrite v p.jobTag (placeOf p.dest.toNat) p.data) p.srcUnit k d p.data) p.srcUnit k d.seq .done := by
  obtain ⟨v, hv, -, hstore⟩ := landChecked_stores (port := port) (p := { p with ptype := 3 }) hu
    (show 3 ≠ 2 by decide) (show 3 ≠ 4 by decide) hslot hplace hfree
  obtain ⟨⟨_, _, _, hframe⟩, hctx⟩ := placeWrite_frame v p.jobTag (placeOf p.dest.toNat) p.data
  have hafter : awaitsAt (placeWrite v p.jobTag (placeOf p.dest.toNat) p.data) p.srcUnit { p with ptype := 3 } = some (k, d) :=
    (awaitsAt_congr hctx (by rw [hframe]) ..).trans ((hv.awaitsAt ..).trans hawait)
  have hawait' : awaitsAt u p.srcUnit { p with ptype := 3 } = some (k, d) := (hu.awaitsAt ..).trans hawait
  rw [← hu.coveOfCore, ← hu.barnRedirect] at hstay
  rw [← hu.sameStore.moduleId] at hhere
  rw [← hu.packetAccess, ← hu.targetCheck] at hcheck
  refine ⟨v, hv, ?_⟩
  unfold landWainResponse
  dsimp only
  split
  · next off _ hoff _ => exact absurd hoff (hhost off)
  · next off hoff _ => exact absurd hoff (hhost off)
  · simp only [hawait', Option.isSome_some, if_true, hstay, hhere, ne_eq, not_true_eq_false, if_false, BitVec.ofNat_toNat,
      BitVec.setWidth_eq, hcheck, hstore, hafter, Bool.false_eq_true]

section
variable {k : Nat} {d : WainDesc} (h : InTime s port p) (hawait : awaitsAt s p.srcUnit p = some (k, d))
  (hunit : p.srcUnit < 1024)
include h hawait hunit

theorem readResponse_tally (htally : p.tally ≠ tallyOf p.data) : ∃ t, exec (.packetReadResponse port p) s = .next t
    ∧ Answered s t p.srcUnit k d.seq .tallyFailure ∧ t.mem = s.mem
    ∧ ∀ i, (coreAt t i).scratch = (coreAt s i).scratch := by
  obtain ⟨u, hu, hexec⟩ := exec_packetReadResponse h
  have hland : landResponse u port { p with ptype := 3 } false =
      answered (refusePacket u port { p with ptype := 3 } p.dest.toNat .tallyFailure) p.srcUnit k d.seq .tallyFailure := by
    have hawait' : awaitsAt u p.srcUnit { p with ptype := 3 } = some (k, d) := (hu.awaitsAt ..).trans hawait
    simp only [landResponse, hunit, htally, refuseResponse, hawait', if_true, ne_eq, not_false_eq_true]
  obtain ⟨hmem, hcores, -, -, -⟩ := packetRefused_refusePacket u port { p with ptype := 3 } p.dest.toNat .tallyFailure
  have hcores := hcores.trans hu.sameStore.cores
  refine ⟨_, hexec.trans (congrArg _ hland), answered_answers (ctxAt_of_cores hcores ..) ..,
    (answered_mem ..).trans (hmem.trans hu.sameStore.mem), fun i => (scratch_answered ..).trans ?_⟩
  simp only [coreAt, hcores]

theorem readResponse_lands (htally : p.tally = tallyOf p.data) (hslot : p.slot = none)
    (hstay : (barnRedirect s (coveNum (coveOfCore s p.srcUnit)) p.dest.toNat).1 = p.dest.toNat)
    (hhost : ∀ off, placeOf p.dest.toNat ≠ .host off) (hplace : isControl (placeOf p.dest.toNat) = false)
    (hcheck : targetCheck s (packetAccess s { p with ptype := 3 } p.dest.toNat) = .ok)
    (hfree : floorConflict s (placeOf p.dest.toNat) p.data.length = none) :
    ∃ t, exec (.packetReadResponse port p) s = .next t ∧ Answered s t p.srcUnit k d.seq .done
      ∧ t.mem = (placeWrite s p.jobTag (placeOf p.dest.toNat) p.data).mem
      ∧ ∀ i, (coreAt t i).scratch = (coreAt (placeWrite s p.jobTag (placeOf p.dest.toNat) p.data) i).scratch := by
  have hhere : addrModule p.dest.toNat = s.moduleId := by obtain ⟨-, -, hhere, -⟩ := h; exact hhere
  obtain ⟨u, hu, hexec⟩ := exec_packetReadResponse h
  have hwain : landResponse u port { p with ptype := 3 } false = landWainResponse u port { p with ptype := 3 } false := by
    simp only [landResponse, hunit, htally, if_true, ne_eq, not_true_eq_false, if_false]
  obtain ⟨v, hv, hland⟩ := landWainResponse_done (port := port) hawait hu hhere hslot hstay hhost hplace hcheck hfree
  have hstore := hv.sameStore.placeWrite p.jobTag (placeOf p.dest.toNat) p.data
  obtain ⟨_, hfold⟩ := foldDigest_frame (placeWrite v p.jobTag (placeOf p.dest.toNat) p.data) p.srcUnit k d p.data
  have hctx := (placeWrite_frame v p.jobTag (placeOf p.dest.toNat) p.data).2
  refine ⟨_, hexec.trans (congrArg _ (hwain.trans hland)), answered_answers ?_ .., ?_, fun i => ?_⟩
  · rw [ctxAt_foldDigest, hctx, hv.sameStore.ctxAt]
  · rw [answered_mem, hfold]
    exact hstore.mem
  · rw [scratch_answered, scratch_foldDigest, hstore.coreAt]

end

/-- A response that its checks pass stores the old values and answers its descriptor. -/
theorem landAtomicResponse_done {k off : Nat} {d : WainDesc} (hdesc : descOf s p.srcUnit p = some (k, d))
    (htally : p.tally = tallyOf p.data) (hret : d.ret = some off)
    (hcheck : genCheck s (packetAccess s p (scratchAddr s.moduleId p.srcUnit 0)) = .ok) :
    landAtomicResponse s port p false = answered (scratchWrite s p.srcUnit (winAddr (ctxAt s p.srcUnit k) off)
      (p.data.take (atomicBytes d.op d.len))) p.srcUnit k d.seq .done := by
  simp only [landAtomicResponse, hcheck, hdesc, if_neg (not_not.2 htally), hret, if_false, Bool.false_eq_true]

theorem atomicResponse_answers {k off : Nat} {d : WainDesc} (h : InTime s port p)
    (hdesc : descOf s p.srcUnit p = some (k, d)) (htally : p.tally = tallyOf p.data) (hret : d.ret = some off)
    (hcheck : genCheck s (packetAccess s { p with ptype := 5 } (scratchAddr s.moduleId p.srcUnit 0)) = .ok) :
    ∃ t, exec (.packetAtomicResponse port p) s = .next t ∧ Answered s t p.srcUnit k d.seq .done
      ∧ (coreAt t p.srcUnit).scratch = memWrite (coreAt s p.srcUnit).scratch
          (winAddr (ctxAt s p.srcUnit k) off) (p.data.take (atomicBytes d.op d.len))
      ∧ t.mem = s.mem := by
  obtain ⟨u, hu, hexec⟩ := exec_packetAtomicResponse h
  rw [← hu.genCheck, ← hu.packetAccess, ← hu.sameStore.moduleId] at hcheck
  have hland := landAtomicResponse_done (port := port) (p := { p with ptype := 5 })
    ((hu.sameStore.descOf ..).trans hdesc) htally hret hcheck
  refine ⟨_, hexec.trans (congrArg _ hland), answered_answers ?_ .., ?_, (answered_mem ..).trans hu.sameStore.mem⟩
  · rw [ctxAt_scratchWrite, hu.sameStore.ctxAt]
  · rw [scratch_answered, scratch_scratchWrite, hu.sameStore.coreAt, hu.sameStore.ctxAt]

/-- A block of a promoting unit lands in HBM and is awaited no more. -/
theorem landPromoted_outcome {x : Nat} {l : List Nat} (hset : s.mem.promoting = some (x, l)) : let t := landPromoted s p
    t.mem.promoting = some (x, l.filter (· ≠ (p.srcUnit - 1280) * 16384 + p.tag))
    ∧ t.mem.hbm = (hbmWrite s (p.dest.toNat % 2 ^ 44) p.data).mem.hbm ∧ t.cores = s.cores := by
  have hwrite : ∀ (bs : List Byte) (s : State) (off : Nat), (hbmWrite s off bs).mem.promoting = s.mem.promoting
      ∧ (hbmWrite s off bs).cores = s.cores := by
    intro bs
    induction bs with
    | nil => exact fun _ _ => ⟨rfl, rfl⟩
    | cons b bs ih => exact fun s off => ih (hbmSet s off b) (off + 1)
  have hclear : ∀ (s : State) (off n : Nat), (clearMark s (.hbm off) n).mem.promoting = s.mem.promoting
      ∧ (clearMark s (.hbm off) n).mem.hbm = s.mem.hbm ∧ (clearMark s (.hbm off) n).cores = s.cores := by
    intro s off n
    simp only [clearMark]
    split <;> exact ⟨rfl, rfl, rfl⟩
  obtain ⟨hpro, hcores⟩ := hwrite p.data s (p.dest.toNat % 2 ^ 44)
  obtain ⟨hpro', hhbm', hcores'⟩ :=
    hclear (hbmWrite s (p.dest.toNat % 2 ^ 44) p.data) (p.dest.toNat % 2 ^ 44) p.data.length
  refine ⟨?_, hhbm', hcores'.trans hcores⟩
  exact (congrArg (Option.map _) (hpro'.trans (hpro.trans hset))).trans rfl

theorem readResponse_promoted {x : Nat} {l : List Nat} (h : InTime s port p) (htally : p.tally = tallyOf p.data)
    (hlow : 1280 ≤ p.srcUnit) (hhigh : p.srcUnit < 1296) (hset : s.mem.promoting = some (x, l))
    (hcheck : targetCheck s (packetAccess s { p with ptype := 3 } p.dest.toNat) = .ok) :
    ∃ t, exec (.packetReadResponse port p) s = .next t
      ∧ t.mem.promoting = some (x, l.filter (· ≠ (p.srcUnit - 1280) * 16384 + p.tag))
      ∧ t.mem.hbm = (hbmWrite s (p.dest.toNat % 2 ^ 44) p.data).mem.hbm ∧ t.cores = s.cores := by
  obtain ⟨u, hu, hexec⟩ := exec_packetReadResponse h
  rw [← hu.packetAccess, ← hu.targetCheck] at hcheck
  have hland : landResponse u port { p with ptype := 3 } false = landPromoted u { p with ptype := 3 } := by
    simp only [landResponse, hcheck, if_neg (not_not.2 htally), hhigh, if_neg (show ¬ p.srcUnit < 1024 by omega),
      if_neg (show ¬ p.srcUnit < 1280 by omega), if_true, if_false, Bool.false_eq_true]
  obtain ⟨hpro, hhbm, hcores⟩ := landPromoted_outcome (s := u) (p := { p with ptype := 3 })
    ((congrArg _ hu.sameStore.mem).trans hset)
  refine ⟨_, hexec.trans (congrArg _ hland), hpro, hhbm.trans ?_, hcores.trans hu.sameStore.cores⟩
  exact congrArg _ (hu.sameStore.hbmWrite (p.dest.toNat % 2 ^ 44) p.data).mem

end Sys2Proof.Proofs
end

section
/-!
PROOFS. Acknowledgements, statuses and packets in transit: O45.
-/
namespace Sys2Proof.Proofs
open Sys2Proof Sys2Proof.Machine Sys2Proof.Laws Sys2Proof.Claim

variable {s t u : State} {port : Nat} {p : Packet}

/-! ### Condemned blocks as a change of the memory (R463, R465) -/

theorem fenceNote_mem (s : State) (kind unit cause detail : Nat) : (fenceNote s kind unit cause detail).mem = s.mem := by
  obtain ⟨_, _, _, _, _, e⟩ := fenceNote_eq s kind unit cause detail
  rw [e, recordHead_eq, record_mem, record_mem]

theorem fenceCores_mem (s : State) (d k : Nat) : (fenceCores s d k).mem = s.mem := by
  unfold fenceCores
  split
  · rfl
  · rw [(faultOnly_fenceHits ..).frame]
    exact fenceNote_mem ..

theorem moduleFatal_mem (s : State) (k : Nat) : (moduleFatal s k).mem = s.mem := by
  rw [(faultOnly_moduleFatal s k).frame]

theorem retireFrame_mem (s : State) (st key : Nat) : (retireFrame s st key).mem = s.mem := by
  unfold retireFrame
  dsimp only
  rw [record_mem, updLedger_mem, fenceNote_mem, wearAdd_mem]

theorem condemnNear_mem (s : State) (die off : Nat) : (condemnNear s die off).mem =
    if Sparse.get false s.mem.nearMarks (nearBlock die off) then s.mem
    else { s.mem with nearMarks := Sparse.set false s.mem.nearMarks (nearBlock die off) true } := by
  unfold condemnNear
  split
  · rfl
  · dsimp only
    split
    · rw [fenceDie, if_neg (by decide), fenceCores_mem, record_mem]
    · rw [record_mem]

theorem condemnHbm_mem (s : State) (off : Nat) : (condemnHbm s off).mem =
    if 1020 ≤ (frameAt off).2 ∨ Sparse.get false s.mem.hbmMarks (hbmBlock off) = true then s.mem
    else { s.mem with hbmMarks := Sparse.set false s.mem.hbmMarks (hbmBlock off) true } := by
  unfold condemnHbm
  dsimp only
  split
  · next h => rw [if_pos (.inl h), moduleFatal_mem]
  · next h =>
    split
    · next h' => rw [if_pos (.inr h')]
    · next h' =>
      rw [if_neg (not_or.2 ⟨h, h'⟩)]
      split
      · rw [retireFrame_mem, record_mem]
      · rw [record_mem]

section
variable (h : u.mem = s.mem)
include h

theorem condemned_congr (pl : Place) (n : Nat) : condemned u pl n = condemned s pl n := by
  cases pl <;> simp only [condemned, h]

theorem badNear_mem_congr (die o : Nat) : (badNear die u o).mem = (badNear die s o).mem := by
  simp only [badNear, condemned_congr h]
  split
  · simp only [meetNear, tallyFound, record_mem, h]
    split
    · simp only [condemnNear_mem, record_mem]
    · simp only [record_mem, h]
  · exact h

theorem badHbm_mem_congr (o : Nat) : (badHbm u o).mem = (badHbm s o).mem := by
  simp only [badHbm, condemned_congr h]
  split
  · simp only [meetHbm, tallyFound, record_mem, h]
    split
    · simp only [condemnHbm_mem, record_mem]
    · simp only [record_mem, h]
  · exact h

theorem forEach_mem_congr {f : State → Nat → State} (hf : ∀ {s u : State} o, u.mem = s.mem → (f u o).mem = (f s o).mem)
    (l : List Nat) : (forEach u l f).mem = (forEach s l f).mem := by
  induction l generalizing s u with
  | nil => exact h
  | cons o l ih => exact ih (hf o h)

/-- What a condemnation does to the memory depends on the memory alone. -/
theorem condemn_mem_congr (pl : Place) (n : Nat) : (condemn u pl n).mem = (condemn s pl n).mem := by
  cases pl with
  | near die off => exact forEach_mem_congr h (fun o h => badNear_mem_congr h die o) _
  | hbm off => exact forEach_mem_congr h (fun o h => badHbm_mem_congr h o) _
  | scratch _ _ | dieControl _ _ | shoreControl _ _ | host _ | bad => exact h

end

/-! ### Acknowledgements and statuses at the sender (R254, R266, R464, R670) -/

theorem counted_countedIn (s : State) (port : Nat) (p : Packet) : Counted s (countedIn s port p) :=
  (counted_bump ..).trans (counted_bump ..)

section
variable (h : Counted s u)
include h

theorem Counted.coveOfCore (i : Nat) : coveOfCore u i = coveOfCore s i := by
  obtain ⟨_, rfl, -⟩ := h
  rfl

theorem Counted.descOf (core : Nat) (p : Packet) : descOf u core p = descOf s core p := by
  obtain ⟨_, rfl, -⟩ := h
  rfl

theorem Counted.resolve (c a : Nat) : resolve u c a = resolve s c a := by
  have hbarn : ∀ c a, barnRedirect u c a = barnRedirect s c a := by
    obtain ⟨_, rfl, -⟩ := h
    exact fun _ _ => rfl
  have hremap : ∀ c m, remapOf u c m = remapOf s c m := by
    obtain ⟨_, rfl, -⟩ := h
    exact fun _ _ => rfl
  have hframe : u.moduleId = s.moduleId ∧ u.standin = s.standin := by
    obtain ⟨_, rfl, -⟩ := h
    exact ⟨rfl, rfl⟩
  simp only [Machine.resolve, hbarn, hremap, hframe]

theorem Counted.routeTo (unit m : Nat) : routeTo u unit m = routeTo s unit m := by
  obtain ⟨_, rfl, -⟩ := h
  rfl

theorem Counted.slotWait (q cls : Nat) : slotWait u q cls = slotWait s q cls := by
  have htide : u.tide = s.tide := by
    obtain ⟨_, rfl, -⟩ := h
    rfl
  have hentries : portEntries u q = portEntries s q := by
    simp only [portEntries, moduleBankOf, tableList_congr (congrArg TideState.tables htide), htide]
  simp only [Machine.slotWait, hentries, htide]

end

/-- A control packet of this module on an active port with nothing held back. -/
structure ControlArrives (s : State) (port : Nat) (p : Packet) : Prop where
  port_lt : port < 128
  mode : (portAt s port).mode = .active
  held : (portAt s port).rxHeld = []
  length : p.data.length ≤ 4096
  here : addrModule p.dest.toNat = s.moduleId

theorem exec_packetAcknowledge (h : ControlArrives s port p) :
    exec (.packetAcknowledge port p) s = .next (landAck (countedIn s port { p with ptype := 6 }) { p with ptype := 6 }) :=
  congrArg Host.Outcome.next ((receive_takes (p := { p with ptype := 6 }) h.port_lt h.mode h.length h.held).trans
    ((takePacket_here (p := { p with ptype := 6 }) h.here).trans (if_pos rfl)))

theorem exec_packetStatus (h : ControlArrives s port p) :
    exec (.packetStatus port p) s = .next (landStatus (countedIn s port { p with ptype := 7 }) { p with ptype := 7 }) :=
  congrArg Host.Outcome.next ((receive_takes (p := { p with ptype := 7 }) h.port_lt h.mode h.length h.held).trans
    ((takePacket_here (p := { p with ptype := 7 }) h.here).trans ((if_neg (show ¬ 7 = 6 by decide)).trans (if_pos rfl))))

/-- The packet is acknowledged by `p`. -/
def ackedBy (p v : Packet) : Bool :=
  v.srcUnit == p.srcUnit && addrModule v.dest.toNat == p.srcModule && v.cls == p.cls
    && decide ((p.seq + 65536 - v.seq % 65536) % 65536 < 32768)

/-- The packets of a port that `p` does not acknowledge stay. -/
def freePort (p : Packet) (s : State) (q : Nat) : State :=
  if (portAt s q).unacked = [] then s
  else updPort s q fun x => { x with unacked := x.unacked.filter fun v => !ackedBy p v }

theorem unacked_freePort (p : Packet) (s : State) (q : Nat) :
    (portAt (freePort p s q) q).unacked = (portAt s q).unacked.filter fun v => !ackedBy p v := by
  unfold freePort
  split
  · next h => rw [h, List.filter_nil]
  · rw [portAt_updPort]

theorem unacked_freePort_other (p : Packet) (s : State) {q r : Nat} (h : r ≠ q) :
    (portAt (freePort p s q) r).unacked = (portAt s r).unacked := by
  unfold freePort
  split
  · rfl
  · rw [portAt_updPort_other _ _ _ _ h]

/-- An acknowledgement changes the ports' side alone, and frees its packets on every port. -/
theorem landAck_outcome (s : State) (p : Packet) : (landAck s p).mem = s.mem ∧ (landAck s p).cores = s.cores
    ∧ ∀ q, q < 128 → (portAt (landAck s p) q).unacked = (portAt s q).unacked.filter fun v => !ackedBy p v := by
  have hframe : ∀ t q, (freePort p t q).mem = t.mem ∧ (freePort p t q).cores = t.cores := by
    intro t q
    unfold freePort
    split <;> exact ⟨rfl, rfl⟩
  have e : landAck s p = forEach { s with fab := { s.fab with
      waiting := s.fab.waiting.filter fun o => !(isResend s o.packet && ackedBy p o.packet) } } (List.range 128) (freePort p) :=
    rfl
  rw [e]
  refine ⟨forEach_same (fun t => t.mem) fun t q _ => (hframe t q).1, forEach_same (fun t => t.cores) fun t q _ => (hframe t q).2,
    fun q hq => ?_⟩
  rw [forEach_own (p := fun t q => (portAt t q).unacked) (g := fun _ l => l.filter fun v => !ackedBy p v)
    (unacked_freePort p) (fun t a b hb => unacked_freePort_other p t hb) List.nodup_range, if_pos (List.mem_range.2 hq)]
  rfl

theorem packetAcknowledge_frees (h : ControlArrives s port p) :
    ∃ t, exec (.packetAcknowledge port p) s = .next t ∧ t.mem = s.mem ∧ t.cores = s.cores
      ∧ ∀ q, q < 128 → (portAt t q).unacked = (portAt s q).unacked.filter fun v => !ackedBy p v :=
  ⟨_, exec_packetAcknowledge h, landAck_outcome (countedIn s port { p with ptype := 6 }) { p with ptype := 6 }⟩

/-- A failure that no source block explains is charged to the units of its path alone. -/
theorem verifySource_local {core : Nat} {d : WainDesc} (h : d.localSrc = true) : let t := verifySource s core d
    t.mem = s.mem ∧ t.cores = s.cores ∧ t.coves = s.coves := by
  unfold verifySource
  dsimp only
  rw [if_pos (.inl h)]
  split
  · split <;> simp
  · simp
  · simp

/-- A source block that fails its check is condemned. -/
theorem verifySource_condemns {core : Nat} {d : WainDesc} {a : Nat} {g : Bool} (hlocal : d.localSrc = false) (hop : d.op = 0)
    (hsource : resolve s (coveNum (coveOfCore s core)) d.src.toNat = .here a g)
    (hbad : condemned s (placeOf a) d.len = true) : verifySource s core d = condemn s (placeOf a) d.len := by
  simp only [verifySource, hlocal, hop, hsource, hbad, Bool.false_eq_true, ne_eq, not_true_eq_false, or_self, if_false,
    if_true]

theorem landStatus_desc {w : WainStatus} {k : Nat} {d : WainDesc} (hcode : statusOfCode p.op = some w)
    (hunit : p.srcUnit < 1024) (hdesc : descOf s p.srcUnit p = some (k, d)) : landStatus s p =
      updWain (if w = .tallyFailure then verifySource s p.srcUnit d else s) p.srcUnit k d.seq fun e =>
        { e with status := worse e.status w, awaiting := if w = .late then e.awaiting else e.awaiting - 1 } := by
  simp only [landStatus, hcode, hunit, hdesc, if_true]

/-- The descriptor that a status names takes it; what a failed tally charges is no memory of this module when the source
was local. -/
theorem packetStatus_answers {w : WainStatus} {k : Nat} {d : WainDesc} (h : ControlArrives s port p)
    (hcode : statusOfCode p.op = some w) (hunit : p.srcUnit < 1024) (hdesc : descOf s p.srcUnit p = some (k, d))
    (hlocal : w = .tallyFailure → d.localSrc = true) :
    ∃ t, exec (.packetStatus port p) s = .next t ∧ t.mem = s.mem ∧ t.coves = s.coves
      ∧ (ctxAt t p.srcUnit k).wainQ = (ctxAt s p.srcUnit k).wainQ.map fun e =>
          if e.seq = d.seq then
            { e with status := worse e.status w, awaiting := if w = .late then e.awaiting else e.awaiting - 1 }
          else e := by
  have hcount := counted_countedIn s port { p with ptype := 7 }
  have hland := landStatus_desc (p := { p with ptype := 7 }) hcode hunit ((hcount.descOf ..).trans hdesc)
  obtain ⟨v, hv, hmem, hcores, hcoves⟩ : ∃ v, (if w = .tallyFailure then
      verifySource (countedIn s port { p with ptype := 7 }) p.srcUnit d else countedIn s port { p with ptype := 7 }) = v
      ∧ v.mem = s.mem ∧ v.cores = s.cores ∧ v.coves = s.coves := by
    by_cases hw : w = .tallyFailure
    · rw [if_pos hw]
      exact ⟨_, rfl, verifySource_local (s := countedIn s port { p with ptype := 7 }) (hlocal hw)⟩
    · rw [if_neg hw]
      exact ⟨_, rfl, rfl, rfl, rfl⟩
  refine ⟨_, (exec_packetStatus h).trans (congrArg _ hland), ?_⟩
  dsimp only
  rw [hv]
  refine ⟨hmem, hcoves, ?_⟩
  rw [← ctxAt_of_cores hcores]
  exact congrArg Ctx.wainQ (ctxAt_updCtx ..)

theorem packetStatus_condemns {w : WainStatus} {k a : Nat} {g : Bool} {d : WainDesc} (h : ControlArrives s port p)
    (hcode : statusOfCode p.op = some w) (hw : w = .tallyFailure) (hunit : p.srcUnit < 1024)
    (hdesc : descOf s p.srcUnit p = some (k, d)) (hlocal : d.localSrc = false) (hop : d.op = 0)
    (hsource : resolve s (coveNum (coveOfCore s p.srcUnit)) d.src.toNat = .here a g)
    (hbad : condemned s (placeOf a) d.len = true) :
    ∃ t, exec (.packetStatus port p) s = .next t ∧ t.mem = (condemn s (placeOf a) d.len).mem := by
  have hcount := counted_countedIn s port { p with ptype := 7 }
  have hland := landStatus_desc (p := { p with ptype := 7 }) hcode hunit ((hcount.descOf ..).trans hdesc)
  have hverify := verifySource_condemns (core := p.srcUnit) hlocal hop
    ((hcount.resolve ..).trans (by rw [hcount.coveOfCore, hsource])) ((condemned_congr hcount.mem ..).trans hbad)
  rw [if_pos hw, hverify] at hland
  exact ⟨_, (exec_packetStatus h).trans (congrArg _ hland), condemn_mem_congr hcount.mem (placeOf a) d.len⟩

theorem packetStatus_unknown (h : ControlArrives s port p) (hcode : statusOfCode p.op = none) :
    ∃ t, exec (.packetStatus port p) s = .next t
      ∧ t = { s with trace := { s.trace with counters := t.trace.counters } } := by
  have hland : landStatus (countedIn s port { p with ptype := 7 }) { p with ptype := 7 } =
      countedIn s port { p with ptype := 7 } := by
    simp only [landStatus, hcode]
  exact ⟨_, (exec_packetStatus h).trans (congrArg _ hland), countedIn_eq ..⟩

/-! ### Transit (R271) -/

/-- A control packet: an acknowledgement or a status. -/
def isControlPacket (p : Packet) : Bool := p.ptype == 6 || p.ptype == 7

/-- A packet that goes no further: counted, event 0x2008, and for data a status. -/
def transitRefused (s : State) (port : Nat) (p : Packet) : State :=
  let v := recordPort (updPort s port fun q => { q with cntRefused := satTo 32 (q.cntRefused + 1) }) port 0x2008 []
  if isControlPacket p then v else statusBack v port p .unreachable

theorem transit_refused (h : 3 ≤ p.transit ∨ routeTo s (64 + portShore port) (addrModule p.dest.toNat) = none
    ∨ ∃ q bound, routeTo s (64 + portShore port) (addrModule p.dest.toNat) = some (q, bound)
        ∧ slotWait s q (if isControlPacket p then 0 else p.cls) = none) : transit s port p = transitRefused s port p := by
  unfold transit
  dsimp only
  split
  · rfl
  · next htransit =>
    rcases h.resolve_left htransit with hroute | ⟨q, bound, hroute, hslot⟩
    · rw [hroute]
      rfl
    · rw [hroute]
      dsimp only
      rw [isControlPacket] at hslot
      rw [hslot]
      rfl

theorem transit_forwards {q bound w : Nat} (hfew : p.transit < 3)
    (hroute : routeTo s (64 + portShore port) (addrModule p.dest.toNat) = some (q, bound))
    (hslot : slotWait s q (if isControlPacket p then 0 else p.cls) = some w)
    (htime : isControlPacket p = true ∨ (pastDue s.tide.now p.due = false ∧ w < untilDue s.tide.now p.due)) :
    transit s port p = queueOut s ⟨64 + portShore port, none, if isControlPacket p then 0 else p.cls, some q, false,
      { p with transit := p.transit + 1 }⟩ := by
  unfold transit
  dsimp only
  rw [if_neg (Nat.not_le.2 hfew), hroute]
  dsimp only
  rw [isControlPacket] at hslot htime ⊢
  rw [hslot]
  dsimp only
  rw [if_neg]
  rcases htime with hctrl | ⟨hdue, hleft⟩
  · simp [hctrl]
  · simp [hdue, hleft]

theorem transitRefused_outcome (s : State) (hport : port < 128) (p : Packet) : let t := transitRefused s port p
    Recorded s t 0x2008 (1408 + port) ∧ (portAt t port).cntRefused = satTo 32 ((portAt s port).cntRefused + 1)
    ∧ (isControlPacket p = false → RepliedTo t port 7 (statusCode .unreachable) p) ∧ t.mem = s.mem ∧ t.cores = s.cores := by
  obtain ⟨v, hv⟩ : ∃ v, v = updPort s port fun q => { q with cntRefused := satTo 32 (q.cntRefused + 1) } := ⟨_, rfl⟩
  have hrec : Recorded s (recordPort v port 0x2008 []) 0x2008 (1408 + port) :=
    recorded_between (recorded_record v _ _ _ _ _ (by omega) (by simp [episodeCode]))
      (eventCount_of_trace (by rw [hv]; rfl)) rfl
  have hsame := untouched_record v 0x2008 .corrected 16 (1408 + port) []
  have hcount : (portAt v port).cntRefused = satTo 32 ((portAt s port).cntRefused + 1) := by rw [hv, portAt_updPort]
  have hcount' : (portAt (recordPort v port 0x2008 []) port).cntRefused = satTo 32 ((portAt s port).cntRefused + 1) := by
    rw [← hcount, recordPort_eq, portAt, hsame.fab, portAt]
  have hmem : (recordPort v port 0x2008 []).mem = s.mem := hsame.mem.trans (by rw [hv]; rfl)
  have hcores : (recordPort v port 0x2008 []).cores = s.cores := hsame.cores.trans (by rw [hv]; rfl)
  unfold transitRefused
  dsimp only
  rw [← hv]
  by_cases hctrl : isControlPacket p = true
  · rw [if_pos hctrl]
    exact ⟨hrec, hcount', fun h => absurd hctrl (by simp [h]), hmem, hcores⟩
  · rw [if_neg hctrl]
    exact ⟨recorded_between hrec rfl (eventCount_of_trace rfl), hcount', fun _ => repliedTo_replyTo _ _ _ _ _, hmem, hcores⟩

theorem exec_packetTransit (haway : addrModule p.dest.toNat ≠ s.moduleId) (htype : p.ptype ≠ 8) :
    exec (.packetTransit port p) s = .next (receive s port p) :=
  congrArg Host.Outcome.next (if_neg (not_or.2 ⟨haway, htype⟩))

theorem packetTransit_idle (h : (portAt s port).mode ≠ .active ∨ 128 ≤ port ∨ addrModule p.dest.toNat = s.moduleId
    ∨ p.ptype = 8 ∨ 4096 < p.data.length) : exec (.packetTransit port p) s = .next s := by
  by_cases hours : addrModule p.dest.toNat = s.moduleId ∨ p.ptype = 8
  · exact congrArg Host.Outcome.next (if_pos hours)
  · obtain ⟨haway, htype⟩ := not_or.1 hours
    rw [exec_packetTransit haway htype, receive_idle (by tauto)]

section
variable (hport : port < 128) (hmode : (portAt s port).mode = .active) (haway : addrModule p.dest.toNat ≠ s.moduleId)
  (htype : p.ptype ≠ 8) (hlen : p.data.length ≤ 4096) (hheld : (portAt s port).rxHeld = [])
include hport hmode haway htype hlen hheld

theorem exec_packetTransit_taken : exec (.packetTransit port p) s = .next (transit (countedIn s port p) port p) := by
  rw [exec_packetTransit haway htype, receive_takes hport hmode hlen hheld]
  exact congrArg Host.Outcome.next (if_pos haway)

theorem packetTransit_forwards {q bound w : Nat} (hfew : p.transit < 3)
    (hroute : routeTo s (64 + portShore port) (addrModule p.dest.toNat) = some (q, bound))
    (hslot : slotWait s q (if isControlPacket p then 0 else p.cls) = some w)
    (htime : isControlPacket p = true ∨ (pastDue s.tide.now p.due = false ∧ w < untilDue s.tide.now p.due)) :
    ∃ t, exec (.packetTransit port p) s = .next t
      ∧ t.fab = { s.fab with waiting := s.fab.waiting
          ++ [⟨64 + portShore port, none, if isControlPacket p then 0 else p.cls, some q, false,
            { p with transit := p.transit + 1 }⟩] }
      ∧ t.mem = s.mem ∧ t.cores = s.cores :=
  ⟨_, (exec_packetTransit_taken hport hmode haway htype hlen hheld).trans
    (congrArg _ (transit_forwards hfew (((counted_countedIn ..).routeTo ..).trans hroute)
      (((counted_countedIn ..).slotWait ..).trans hslot) htime)),
    rfl, rfl, rfl⟩

theorem packetTransit_refused
    (h : 3 ≤ p.transit ∨ routeTo s (64 + portShore port) (addrModule p.dest.toNat) = none
      ∨ ∃ q bound, routeTo s (64 + portShore port) (addrModule p.dest.toNat) = some (q, bound)
          ∧ slotWait s q (if isControlPacket p then 0 else p.cls) = none) :
    ∃ t, exec (.packetTransit port p) s = .next t ∧ Recorded s t 0x2008 (1408 + port)
      ∧ (portAt t port).cntRefused = satTo 32 ((portAt s port).cntRefused + 1)
      ∧ (isControlPacket p = false → RepliedTo t port 7 (statusCode .unreachable) p) ∧ t.mem = s.mem ∧ t.cores = s.cores := by
  have hcount := counted_countedIn s port p
  simp only [← hcount.routeTo, ← hcount.slotWait] at h
  obtain ⟨hrec, hrest⟩ := transitRefused_outcome (countedIn s port p) hport p
  exact ⟨_, (exec_packetTransit_taken hport hmode haway htype hlen hheld).trans
    (congrArg _ (transit_refused h)), recorded_between hrec rfl rfl, hrest⟩

end

theorem ackEmit_acknowledges {stream : Nat} (h : Sparse.get 0 s.fab.rxSinceAck stream ≠ 0) :
    ∃ t r, exec (.ackEmit port stream) s = .next t ∧ Sparse.get 0 t.fab.rxSinceAck stream = 0 ∧ t.mem = s.mem
      ∧ t.cores = s.cores ∧ t.fab.waiting = s.fab.waiting ++ [⟨64 + portShore port, none, 0, none, false, r⟩]
      ∧ r.ptype = 6 ∧ r.cls = stream % 16 ∧ r.dest = BitVec.ofNat 64 (stream / 16 % 65536 * 2 ^ 48)
      ∧ r.seq = Sparse.get 0 s.fab.rxStream stream - 1 ∧ r.srcUnit = stream / (16 * 65536) :=
  ⟨_, _, congrArg Host.Outcome.next (if_neg h), get_set_same .., rfl, rfl, rfl, rfl, rfl, rfl, rfl, rfl⟩

theorem transitAndAcknowledgement : Claim.TransitAndAcknowledgement := by
  intro port s p
  refine ⟨packetTransit_idle, fun hport hmode haway htype hlen => ⟨fun hheld => ?_, fun hheld =>
    ⟨fun q bound w => packetTransit_forwards hport hmode haway htype hlen hheld,
      packetTransit_refused hport hmode haway htype hlen hheld⟩⟩,
    fun stream => ⟨fun h => congrArg Host.Outcome.next (if_pos h), ackEmit_acknowledges⟩⟩
  rw [exec_packetTransit haway htype, receive_behind hport hmode hlen hheld]

/-- Every clause by the theorem of its packet type, in a state that has noted the packet. -/
theorem packetsLand : Claim.PacketsLand := by
  intro port s p
  refine ⟨fun row hrow h => ?_, fun row hrow hport hmode hlen hheld => ?_,
    fun row hrow hdata hport hheld hhere hdone => ⟨_, exec_packetRow hrow,
      receive_repeated (p := { p with ptype := row.1 }) hport hheld hhere hdata hdone⟩,
    fun h => ⟨fun row hrow => ⟨request_held hrow h, fun hslot w => request_refused hrow h hslot⟩,
      fun hslot htally => ⟨packetWrite_lands h hslot htally,
        fun hcheck hplace hsize hpos hmax hcond hclean hlen hfit =>
          ⟨readRequest_answered h hslot htally rfl hcheck hplace hsize hpos hmax hcond hclean hlen hfit,
            readRequest_lands h hslot htally rfl hcheck hplace hsize hpos hmax hcond hclean hlen hfit⟩,
        atomicRequest_lands h hslot htally⟩,
      fun k d hawait hunit => ⟨readResponse_tally h hawait hunit, readResponse_lands h hawait hunit⟩,
      fun k d hdesc htally off hret => atomicResponse_answers h hdesc htally hret,
      fun x l htally hlow hhigh hset => readResponse_promoted h htally hlow hhigh hset⟩,
    fun hport hmode hheld hlen hhere => ?_⟩
  · rw [exec_packetRow hrow, receive_idle (p := { p with ptype := row.1 }) (h.imp_right .inr)]
  · rw [exec_packetRow hrow, receive_behind (p := { p with ptype := row.1 }) hport hmode hlen hheld]
  · have h : ControlArrives s port p := ⟨hport, hmode, hheld, hlen, hhere⟩
    exact ⟨packetAcknowledge_frees h, fun w k d => packetStatus_answers h,
      fun w d k hcode hw hunit hdesc hlocal hop a g => packetStatus_condemns h hcode hw hunit hdesc hlocal hop,
      packetStatus_unknown h⟩

/-- Settles O45: packets of this module by their types, those of other modules and acknowledgements of streams by theirs. -/
theorem packets : Obligations.Packets := ⟨packetsLand, transitAndAcknowledgement⟩

end Sys2Proof.Proofs
end
